-- ==== Sys2Proof/Word.lean ====
section
/-! DEFINITION. The word types of the part: 64-bit registers, bytes, cache lines (R5, R181, R73). -/

namespace Sys2Proof

/-- A general register's content, 64 bits (R181). -/
abbrev Word := BitVec 64

/-- One byte (R5). -/
abbrev Byte := BitVec 8

/-- The number of a general register, a 5-bit field (R13). -/
abbrev GReg := BitVec 5

/-- A 64-byte line, bit 0 the lowest bit of the byte at the lowest address (R5, R73). -/
abbrev Line := BitVec 512

end Sys2Proof
end

