-- ==== Sys2Proof/Syntax.lean ====
section
/-! DEFINITION. The instruction forms of the opcode map (R18), the events of the part that the
table of operations lists beside them, and the messages of the base network that both name (R97 to R99). -/

namespace Sys2Proof

/-- A source or destination agent of the base network (R98, R101).
Keys are flat numbers: cluster = tower * 160 + cluster, core = cluster * 34 + physical core.
`sc` is one SC bank: its key is tower + 8 * bank. -/
inductive Agent where
  | ni (core : Nat)
  | csp (cluster : Nat)
  | sc (bank : Nat)
  | tower (tower : Nat)
  | memPort (cluster : Nat)
  | dispenser (cluster : Nat)
  | cle (tower : Nat)
  | link (port : Nat)
  | xfe (core : Nat)
  | ve (core : Nat)
  | strm (core : Nat)
  | drain (cluster : Nat)
  | dce (cluster : Nat)
  | host (m : Nat)
  | launchAgent
  | control (block : Nat)
deriving DecidableEq, Repr, Inhabited

/-- What an access carries of the translation that produced it: the ASID, and the leaf's D, W, C and S bits
(R58, R68, R76, R84). `tr` is false for an untranslated access. -/
structure Acc where
  asid : Nat
  tr : Bool
  d : Bool
  w : Bool
  c : Bool
  s : Bool
  la : Nat
deriving DecidableEq, Repr, Inhabited

/-- A reply delivers bytes or poison: a cause and bits [55:0] (R106, R138). -/
inductive Reply where
  | value (bytes : List Byte)
  | poison (cause : Nat) (addr : Nat)
deriving DecidableEq, Repr, Inhabited

/-- The full/empty forms (R142) and the two level waits that use the same request (R319, R321). -/
inductive SyncForm where
  | ldfe | ldff | fget | stef | stff | fset | fclr | lvlwait | phwait
deriving DecidableEq, Repr, Inhabited

/-- The operation of an atomic or `cas` request (R148, R149). -/
inductive AmoOp where
  | add | and | or | xor | min | max | minn | maxn | swap | fadd | cas
deriving DecidableEq, Repr, Inhabited

/-- The three operations recorded on a snapshot range (R80). -/
inductive SnapOp where
  | snap | accept | reject
deriving DecidableEq, Repr, Inhabited

/-- Names one engine access: the engine, its command's number, the element, the pieces that the access covers (in a refusal, the piece that is
refused), and the bytes of one element, 0 for all that the access covers, that are performed at one instant (R174, R176, R212). -/
structure EngRef where
  eng : Agent
  cmd : Nat
  elem : Nat
  part : Nat
  unit : Nat
deriving DecidableEq, Repr, Inhabited

/-- The forms that the unit which they name performs: an LM controller (R139, R367), a core's debug unit (R345), the save engine (R352) and a
link port (R386). -/
inductive UnitForm where
  | vbset | vbtest | lmpwr | dbghalt | dbgresume | msadd | msdel | msqry | hustat | lnkq | lnkfec | lnkclaim
deriving DecidableEq, Repr, Inhabited

/-- A launch in the form in which its home and the dispensers handle it: the record and argument dwords (R312),
the placed units as (unit index, core key of the physical placement's logical core), and the owner. -/
structure LaunchMsg where
  record : List Word
  args : List Word
  place : Option (List (BitVec 32))
  asid : Nat
  cluster : Nat
deriving DecidableEq, Repr, Inhabited

/-- A further piece of an engine's write: its place, its bytes, and the dictionary slot with its tag when it travels compressed (R119). -/
structure PutPiece where
  pa : Nat
  data : List Byte
  acc : Acc
  dict : Option (Nat × Nat)
deriving DecidableEq, Repr, Inhabited

/-- What a message asks or answers (R99). An active message from another package carries the node in SRC and HOPS as its header has them
(R98); a form of a tile (R160) carries its number, the tile and the operand, and a form that a unit performs its operands; `ctlPut` is the write of a
`cput` that waits (R339). An engine access carries its pieces, of which the first in its home's order is in front; one of which some words are
performed keeps the rest, a read with the bytes it has (R267). `armFired` tells
a core of another package that its access filled an armed word (R147, R383). -/
inductive Body where
  | loadReq (pa n : Nat) (acc : Acc)
  | loadReply (r : Reply)
  | postedStore (pa : Nat) (data : List Byte) (form : Option SyncForm) (acc : Acc)
  | storeAck
  | storeRefusal (reason : Nat)
  | atomicReq (op : AmoOp) (pa n : Nat) (b cmp : Word) (acc : Acc)
  | atomicReply (r : Reply)
  | syncReq (form : SyncForm) (pa : Nat) (data : Word) (acc : Acc)
  | syncReply (r : Reply)
  | syncRetry
  | fillReq (pa : Nat) (acc : Acc)
  | fillReply (line : Nat) (r : Reply) (cache : Bool)
  | dirInvalidate (line : Nat)
  | invalidateAck (line : Nat)
  | activeMsg (type plen off : Nat) (dict : Option (Nat × Nat)) (payload : List Byte) (from_ : Option (Nat × Nat))
  | amRefusal (cause type plen off dst : Nat)
  | engWrite (pa : Nat) (data : List Byte) (ref : EngRef) (acc : Acc) (dict : Option (Nat × Nat)) (more : List PutPiece)
  | engRead (pa n : Nat) (got : List Byte) (ref : EngRef) (acc : Acc) (more : List (Nat × Nat × Acc))
  | engReadReply (ref : EngRef) (r : Reply)
  | engWriteAck (ref : EngRef) (err : Option Nat)
  | baton (ctx : List Byte) (hops : Nat)
  | batonAnswer (ok : Bool)
  | withdraw (form : SyncForm) (pa : Nat)
  | withdrawn
  | ctlAccess (store : Bool) (blk n : Nat) (v : Word)
  | ctlPut (blk n : Nat) (v : Word)
  | tileReq (form tile : Nat) (v : Word)
  | unitReq (form : UnitForm) (vs : List Word)
  | armFired (pa : Nat)
  | tlbDiscard (asid : Option Nat)
  | snapOp (op : SnapOp) (range : Nat) (user : Bool) (asid : Nat) (fwd : Bool)
  | snapQuery (range : Nat) (user : Bool) (asid : Nat)
  | spanWalk (inv noWb : Bool) (line lines : Nat)
  | domUpdate (asid : Nat) (entry : Option Nat)
  | launchReq (l : LaunchMsg) (slot : Option Nat)
  | launchReply (status : Nat)
  | distribute (l : LaunchMsg)
  | unitDone (lid : Nat) (fail : Bool) (code : BitVec 32)
  | childDone (id : Nat) (failed : Bool)
  | predDone (id : Nat)
  | levelRead (id : Nat) (user : Bool) (asid : Nat)
  | levelWait (form : SyncForm) (id : Nat) (user : Bool) (asid : Nat)
  | phaseClose (id : Nat) (user : Bool) (asid : Nat)
  | cancelSet (id : Nat) (user : Bool) (asid : Nat)
  | cancelDrop (id : Nat)
  | cancelAck
deriving DecidableEq, Repr, Inhabited

/-- A message in flight (R97, R98): source and destination agent, RTAG, the slot that asked (a slot key), the phase. -/
structure Msg where
  src : Agent
  dst : Agent
  tag : Nat
  who : Nat
  ph : Nat
  body : Body
deriving DecidableEq, Repr, Inhabited

/-- VN 1 carries responses, VN 0 requests (R99). -/
def Body.response : Body → Bool
  | .loadReply _ | .storeAck | .storeRefusal _ | .atomicReply _ | .syncReply _ | .syncRetry | .fillReply _ _ _
  | .invalidateAck _ | .amRefusal _ _ _ _ _ | .engReadReply _ _ | .engWriteAck _ _ | .batonAnswer _ | .withdrawn | .launchReply _ | .cancelAck | .armFired _ => true
  | _ => false

/-- A message as frames of a link carry it: the packages of DEST and SRC, HOPS (R98, R378), and the message, which a local home answers to the
port. -/
structure LinkMsg where
  pkg : Nat
  src : Nat
  hops : Nat
  msg : Msg
deriving DecidableEq, Repr, Inhabited

/-- What a pass does in one of its events (R254): it reads pieces of rows that have not entered, and then up to `rows` rows enter the light. -/
structure PassFeed where
  rows : Nat
  early : List Nat
deriving DecidableEq, Repr, Inhabited

/-- The instruction forms of the opcode map (R18), and then the events of the table of operations:
one constructor for each row of the table. A word form's operands are its fields (R13, R19).
An event's operands say where it happens (flat keys, as at `Agent`; `par` is a register in which a soft error breaks the parity, R185),
which message in flight it delivers
(`i`, a position in `State.net`), and what comes in from outside (a sensor reading, a frame, a host's data). -/
inductive Instr where
  /-- Writes g[a] + g[b] into g[d]. (R187) -/
  | add (d : GReg) (a : GReg) (b : GReg) (t : Bool)
  /-- Writes g[a] − g[b] into g[d]. (R187) -/
  | sub (d : GReg) (a : GReg) (b : GReg) (t : Bool)
  /-- Writes the bitwise and of g[a] and g[b] into g[d]. (R187) -/
  | and (d : GReg) (a : GReg) (b : GReg) (t : Bool)
  /-- Writes the bitwise or of g[a] and g[b] into g[d]. (R187) -/
  | or (d : GReg) (a : GReg) (b : GReg) (t : Bool)
  /-- Writes the bitwise xor of g[a] and g[b] into g[d]. (R187) -/
  | xor (d : GReg) (a : GReg) (b : GReg) (t : Bool)
  /-- Writes g[a] and not g[b] into g[d]. (R187) -/
  | andn (d : GReg) (a : GReg) (b : GReg) (t : Bool)
  /-- Writes g[a] or not g[b] into g[d]. (R187) -/
  | orn (d : GReg) (a : GReg) (b : GReg) (t : Bool)
  /-- Writes g[a] shifted left by g[b][5:0] into g[d]. (R187) -/
  | sll (d : GReg) (a : GReg) (b : GReg) (t : Bool)
  /-- Writes g[a] shifted right with zero fill into g[d]. (R187) -/
  | srl (d : GReg) (a : GReg) (b : GReg) (t : Bool)
  /-- Writes g[a] shifted right with sign fill into g[d]. (R187) -/
  | sra (d : GReg) (a : GReg) (b : GReg) (t : Bool)
  /-- Writes 1 when g[a] < g[b] signed, else 0. (R187) -/
  | slt (d : GReg) (a : GReg) (b : GReg) (t : Bool)
  /-- Writes 1 when g[a] < g[b] unsigned, else 0. (R187) -/
  | sltn (d : GReg) (a : GReg) (b : GReg) (t : Bool)
  /-- Writes the signed minimum of g[a] and g[b]. (R187) -/
  | min (d : GReg) (a : GReg) (b : GReg) (t : Bool)
  /-- Writes the signed maximum of g[a] and g[b]. (R187) -/
  | max (d : GReg) (a : GReg) (b : GReg) (t : Bool)
  /-- Writes the unsigned minimum of g[a] and g[b]. (R187) -/
  | minn (d : GReg) (a : GReg) (b : GReg) (t : Bool)
  /-- Writes the unsigned maximum of g[a] and g[b]. (R187) -/
  | maxn (d : GReg) (a : GReg) (b : GReg) (t : Bool)
  /-- Adds the low 32 bits and sign-extends the result. (R188) -/
  | addw (d : GReg) (a : GReg) (b : GReg) (t : Bool)
  /-- Subtracts the low 32 bits and sign-extends the result. (R188) -/
  | subw (d : GReg) (a : GReg) (b : GReg) (t : Bool)
  /-- 32-bit left shift, result sign-extended. (R188) -/
  | sllw (d : GReg) (a : GReg) (b : GReg) (t : Bool)
  /-- 32-bit logical right shift, result sign-extended. (R188) -/
  | srlw (d : GReg) (a : GReg) (b : GReg) (t : Bool)
  /-- 32-bit arithmetic right shift, result sign-extended. (R188) -/
  | sraw (d : GReg) (a : GReg) (b : GReg) (t : Bool)
  /-- Writes the low 64 bits of g[a] × g[b]. (R189) -/
  | mul (d : GReg) (a : GReg) (b : GReg) (t : Bool)
  /-- Writes the high 64 bits of the signed product. (R189) -/
  | mulh (d : GReg) (a : GReg) (b : GReg) (t : Bool)
  /-- Writes the high 64 bits of the unsigned product. (R189) -/
  | mulhn (d : GReg) (a : GReg) (b : GReg) (t : Bool)
  /-- Writes the signed quotient, with defined results for zero and overflow. (R189) -/
  | div (d : GReg) (a : GReg) (b : GReg) (t : Bool)
  /-- Writes the unsigned quotient. (R189) -/
  | divn (d : GReg) (a : GReg) (b : GReg) (t : Bool)
  /-- Writes the signed remainder. (R189) -/
  | rem (d : GReg) (a : GReg) (b : GReg) (t : Bool)
  /-- Writes the unsigned remainder. (R189) -/
  | remn (d : GReg) (a : GReg) (b : GReg) (t : Bool)
  /-- Counts leading zero bits of g[a]. (R190) -/
  | clz (d : GReg) (a : GReg) (t : Bool)
  /-- Counts trailing zero bits of g[a]. (R190) -/
  | ctz (d : GReg) (a : GReg) (t : Bool)
  /-- Counts the 1 bits of g[a]. (R190) -/
  | popc (d : GReg) (a : GReg) (t : Bool)
  /-- Rotates g[a] left by g[b][5:0]. (R190) -/
  | rotl (d : GReg) (a : GReg) (b : GReg) (t : Bool)
  /-- Rotates g[a] right by g[b][5:0]. (R190) -/
  | rotr (d : GReg) (a : GReg) (b : GReg) (t : Bool)
  /-- Reverses the bytes of g[a]. (R190) -/
  | rev8 (d : GReg) (a : GReg) (t : Bool)
  /-- Reverses the bits of g[a]. (R190) -/
  | brev (d : GReg) (a : GReg) (t : Bool)
  /-- Packs the bits of g[a] selected by g[b] to the low end. (R190) -/
  | bext (d : GReg) (a : GReg) (b : GReg) (t : Bool)
  /-- Deposits low bits of g[a] at the 1 positions of g[b]. (R190) -/
  | bdep (d : GReg) (a : GReg) (b : GReg) (t : Bool)
  /-- Sign-extends g[a] from width 8, 16 or 32. (R190) -/
  | sext (d : GReg) (a : GReg) (t : Bool) (w : BitVec 2)
  /-- Zero-extends g[a] from width 8, 16 or 32. (R190) -/
  | zext (d : GReg) (a : GReg) (t : Bool) (w : BitVec 2)
  /-- Writes g[a] + sign-extended imm14. (R191) -/
  | addi (d : GReg) (a : GReg) (t : Bool) (i : BitVec 14)
  /-- Writes g[a] and the sign-extended immediate. (R191) -/
  | andi (d : GReg) (a : GReg) (t : Bool) (i : BitVec 14)
  /-- Writes g[a] or the sign-extended immediate. (R191) -/
  | ori (d : GReg) (a : GReg) (t : Bool) (i : BitVec 14)
  /-- Writes g[a] xor the sign-extended immediate. (R191) -/
  | xori (d : GReg) (a : GReg) (t : Bool) (i : BitVec 14)
  /-- Writes 1 when g[a] < imm signed. (R191) -/
  | slti (d : GReg) (a : GReg) (t : Bool) (i : BitVec 14)
  /-- Writes 1 when g[a] < imm unsigned. (R191) -/
  | sltni (d : GReg) (a : GReg) (t : Bool) (i : BitVec 14)
  /-- Shifts g[a] left by an immediate amount. (R192) -/
  | slli (d : GReg) (a : GReg) (t : Bool) (m : BitVec 6)
  /-- Shifts g[a] right with zero fill by an immediate amount. (R192) -/
  | srli (d : GReg) (a : GReg) (t : Bool) (m : BitVec 6)
  /-- Shifts g[a] right with sign fill by an immediate amount. (R192) -/
  | srai (d : GReg) (a : GReg) (t : Bool) (m : BitVec 6)
  /-- Rotates g[a] left by an immediate amount. (R192) -/
  | rotli (d : GReg) (a : GReg) (t : Bool) (m : BitVec 6)
  /-- Writes sext64(imm20 × 2^14). (R193) -/
  | lui (d : GReg) (i : BitVec 20)
  /-- Writes its own address plus sext64(imm20 × 2^14). (R193) -/
  | pcaddu (d : GReg) (i : BitVec 20)
  /-- Writes g[a] if g[b] = 0, else 0. (R194) -/
  | selz (d : GReg) (a : GReg) (b : GReg) (t : Bool)
  /-- Writes g[a] if g[b] ≠ 0, else 0. (R194) -/
  | selnz (d : GReg) (a : GReg) (b : GReg) (t : Bool)
  /-- Builds a segmented pointer without check or access. (R132) -/
  | lea (d : GReg) (a : GReg) (t : Bool) (s : BitVec 3) (o : BitVec 11)
  /-- Tests a segmented range and rights without trapping, writing 0, 0x10 or 0x11. (R133) -/
  | segck (d : GReg) (a : GReg) (b : GReg) (t : Bool)
  /-- Traps 0x0A when g[a] ≥ g[b] unsigned. (R195) -/
  | tchk (a : GReg) (b : GReg) (t : Bool)
  /-- Loads a sign-extended byte, own-LM at issue or load-and-reply otherwise. (R136) -/
  | ldI8 (d : GReg) (a : GReg) (t : Bool) (s : BitVec 3) (o : BitVec 11)
  /-- Loads a zero-extended byte. (R136) -/
  | ldN8 (d : GReg) (a : GReg) (t : Bool) (s : BitVec 3) (o : BitVec 11)
  /-- Loads a sign-extended half-word. (R136) -/
  | ldI16 (d : GReg) (a : GReg) (t : Bool) (s : BitVec 3) (o : BitVec 11)
  /-- Loads a zero-extended half-word. (R136) -/
  | ldN16 (d : GReg) (a : GReg) (t : Bool) (s : BitVec 3) (o : BitVec 11)
  /-- Loads a sign-extended word. (R136) -/
  | ldI32 (d : GReg) (a : GReg) (t : Bool) (s : BitVec 3) (o : BitVec 11)
  /-- Loads a zero-extended word. (R136) -/
  | ldN32 (d : GReg) (a : GReg) (t : Bool) (s : BitVec 3) (o : BitVec 11)
  /-- Loads a dword. (R136) -/
  | ld64 (d : GReg) (a : GReg) (t : Bool) (s : BitVec 3) (o : BitVec 11)
  /-- Stores a byte, at issue to own LM or posted otherwise. (R136) -/
  | st8 (d : GReg) (a : GReg) (t : Bool) (s : BitVec 3) (o : BitVec 11)
  /-- Stores a half-word. (R136) -/
  | st16 (d : GReg) (a : GReg) (t : Bool) (s : BitVec 3) (o : BitVec 11)
  /-- Stores a word. (R136) -/
  | st32 (d : GReg) (a : GReg) (t : Bool) (s : BitVec 3) (o : BitVec 11)
  /-- Stores a dword. (R136) -/
  | st64 (d : GReg) (a : GReg) (t : Bool) (s : BitVec 3) (o : BitVec 11)
  /-- Loads a dword through the read-only line cache, filling it from another core's LM. (R113) -/
  | ldro64 (d : GReg) (a : GReg) (t : Bool) (s : BitVec 3) (o : BitVec 11)
  /-- Starts a read-only cache fill without changing a register or trapping. (R113) -/
  | pfro (a : GReg) (t : Bool) (s : BitVec 3) (o : BitVec 11)
  /-- Waits for a full word, reads it and empties it. (R143) -/
  | ldfe (d : GReg) (a : GReg) (t : Bool) (s : BitVec 3) (o : BitVec 11)
  /-- Waits for a full word and reads it, leaving it full. (R143) -/
  | ldff (d : GReg) (a : GReg) (t : Bool) (s : BitVec 3) (o : BitVec 11)
  /-- Waits for an empty word, writes it and fills it. (R143) -/
  | stef (d : GReg) (a : GReg) (t : Bool) (s : BitVec 3) (o : BitVec 11)
  /-- Writes a word and sets it full. (R143) -/
  | stff (d : GReg) (a : GReg) (t : Bool) (s : BitVec 3) (o : BitVec 11)
  /-- Sets a word's full bit. (R143) -/
  | fset (a : GReg) (t : Bool)
  /-- Clears a word's full bit. (R143) -/
  | fclr (a : GReg) (t : Bool)
  /-- Reads a word's full bit into g[d]. (R143) -/
  | fget (d : GReg) (a : GReg) (t : Bool)
  /-- Atomically adds g[b] at the home and returns the old value. (R148) -/
  | amoAdd (d : GReg) (a : GReg) (b : GReg) (t : Bool) (w : Bool)
  /-- Atomic and, returning the old value. (R148) -/
  | amoAnd (d : GReg) (a : GReg) (b : GReg) (t : Bool) (w : Bool)
  /-- Atomic or, returning the old value. (R148) -/
  | amoOr (d : GReg) (a : GReg) (b : GReg) (t : Bool) (w : Bool)
  /-- Atomic xor, returning the old value. (R148) -/
  | amoXor (d : GReg) (a : GReg) (b : GReg) (t : Bool) (w : Bool)
  /-- Atomic signed minimum. (R148) -/
  | amoMin (d : GReg) (a : GReg) (b : GReg) (t : Bool) (w : Bool)
  /-- Atomic signed maximum. (R148) -/
  | amoMax (d : GReg) (a : GReg) (b : GReg) (t : Bool) (w : Bool)
  /-- Atomic unsigned minimum. (R148) -/
  | amoMinn (d : GReg) (a : GReg) (b : GReg) (t : Bool) (w : Bool)
  /-- Atomic unsigned maximum. (R148) -/
  | amoMaxn (d : GReg) (a : GReg) (b : GReg) (t : Bool) (w : Bool)
  /-- Atomic swap with g[b]. (R148) -/
  | amoSwap (d : GReg) (a : GReg) (b : GReg) (t : Bool) (w : Bool)
  /-- Atomic 32-bit f32 add under RNE. (R148) -/
  | amoFadd (d : GReg) (a : GReg) (b : GReg) (t : Bool)
  /-- Compare-and-swap at the home, returning the old value. (R149) -/
  | cas (d : GReg) (a : GReg) (b : GReg) (t : Bool) (w : Bool)
  /-- Parks until the named kinds of access are complete within the scope. (R274) -/
  | fence (k : BitVec 3) (c : BitVec 3)
  /-- Sets store and engine barriers in its own turn without parking. (R275) -/
  | fencex (k : BitVec 2) (c : BitVec 3)
  /-- Invalidates read-only cache lines, all or by physical range. (R113) -/
  | rocinv (a : GReg) (b : GReg) (t : Bool)
  /-- Waits until the slot's posted stores are performed or freed and returns the refusal count. (R109) -/
  | pjwait (d : GReg)
  /-- Branches when g[a] = g[b]. (R287) -/
  | beq (a : GReg) (b : GReg) (o : BitVec 12)
  /-- Branches when g[a] ≠ g[b]. (R287) -/
  | bne (a : GReg) (b : GReg) (o : BitVec 12)
  /-- Branches when g[a] < g[b] signed. (R287) -/
  | blt (a : GReg) (b : GReg) (o : BitVec 12)
  /-- Branches when g[a] ≥ g[b] signed. (R287) -/
  | bge (a : GReg) (b : GReg) (o : BitVec 12)
  /-- Branches when g[a] < g[b] unsigned. (R287) -/
  | bltn (a : GReg) (b : GReg) (o : BitVec 12)
  /-- Branches when g[a] ≥ g[b] unsigned. (R287) -/
  | bgen (a : GReg) (b : GReg) (o : BitVec 12)
  /-- Branches when g[a]'s full bit is set, without parking on it. (R288) -/
  | bfull (a : GReg) (o : BitVec 12)
  /-- Branches when g[a] equals a 5-bit immediate. (R289) -/
  | beqi (a : GReg) (i : BitVec 5) (o : BitVec 12)
  /-- Branches when g[a] differs from the immediate. (R289) -/
  | bnei (a : GReg) (i : BitVec 5) (o : BitVec 12)
  /-- Branches when g[a] is below the immediate, signed. (R289) -/
  | blti (a : GReg) (i : BitVec 5) (o : BitVec 12)
  /-- Branches when g[a] is at or above the immediate, signed. (R289) -/
  | bgei (a : GReg) (i : BitVec 5) (o : BitVec 12)
  /-- Jumps PC-relative and writes the link into g[d]. (R290) -/
  | jal (d : GReg) (o : BitVec 20)
  /-- Jumps to g[a] + imm and writes the link into g[d]. (R290) -/
  | jalr (d : GReg) (a : GReg) (t : Bool) (i : BitVec 14)
  /-- Decrements g[a] and branches while it differs from g[b]. (R291) -/
  | loop (a : GReg) (b : GReg) (o : BitVec 12)
  /-- Records arrival at a gang and parks until all members have formed it. (R303) -/
  | gform (a : GReg) (t : Bool)
  /-- Sets the gang's split flag. (R305) -/
  | gsplit
  /-- Reattaches detached gang members at the leader. (R306) -/
  | grejoin
  /-- Dissolves the gang or removes a detached follower. (R306) -/
  | gleave
  /-- Pins the core's VE to the slot, parking while it is pinned elsewhere. (R293) -/
  | pin
  /-- Releases the VE after the slot's VE commands have ended. (R293) -/
  | unpin
  /-- Parks until a semaphore is at least 1, then decrements it. (R295) -/
  | semdn (n : BitVec 4)
  /-- Increments a semaphore, trapping at 65,535. (R295) -/
  | semup (n : BitVec 4)
  /-- Decrements a semaphore if nonzero and reports success. (R295) -/
  | semtry (d : GReg) (n : BitVec 4)
  /-- Binds a ring from its own-LM descriptor, or unbinds and writes back HEAD and TAIL. (R298) -/
  | qbind (q : BitVec 3) (b : GReg)
  /-- Parks until k slots are filled and returns the head slot pointer. (R298) -/
  | qwaitf (d : GReg) (q : BitVec 3) (b : GReg)
  /-- Parks until k slots are free and returns the tail slot pointer. (R298) -/
  | qwaite (d : GReg) (q : BitVec 3) (b : GReg)
  /-- Advances a ring's HEAD by k. (R298) -/
  | qadvh (q : BitVec 3) (b : GReg)
  /-- Advances a ring's TAIL by k. (R298) -/
  | qadvt (q : BitVec 3) (b : GReg)
  /-- Returns a ring's free and filled counts. (R298) -/
  | qcnt (d : GReg) (q : BitVec 3)
  /-- Leaves the slot's next n turns empty. (R300) -/
  | yield (a : GReg) (t : Bool)
  /-- Parks until the wake token is set or a deadline passes. (R300) -/
  | park (d : GReg) (a : GReg) (t : Bool)
  /-- Sets the wake token of a slot of the own core. (R300) -/
  | wake (a : GReg) (t : Bool)
  /-- Parks until the module time base passes a deadline. (R301) -/
  | tsleep (a : GReg) (t : Bool)
  /-- Reads the module time base or the cluster cycle counter. (R302) -/
  | clock (d : GReg) (s : Bool)
  /-- Enters waiting for work. (R318) -/
  | wfw
  /-- Releases the unit's accesses, sends its completion and enters waiting for work. (R318) -/
  | tdone
  /-- As tdone, also counting a failure and recording the first failure code. (R318) -/
  | tfail (a : GReg) (t : Bool)
  /-- Reads and checks a launch record, sends it to the LID home and returns its status. (R314) -/
  | launch (d : GReg) (a : GReg) (t : Bool)
  /-- Reads dword 0 of a level record as load-and-reply. (R319) -/
  | lvlcnt (d : GReg) (a : GReg) (t : Bool)
  /-- Waits at the record's home until DONE = 1, as an acquire. (R319) -/
  | lvlwait (d : GReg) (a : GReg) (t : Bool)
  /-- Sets CXL and broadcasts the cancel to every dispenser and hold queue. (R319) -/
  | lvlcancel (a : GReg) (t : Bool)
  /-- Reads a phase record and takes its phase number. (R321) -/
  | phopen (d : GReg) (a : GReg) (t : Bool)
  /-- Releases, then decrements the phase's PART, starting waves at zero. (R321) -/
  | phclose (a : GReg) (t : Bool)
  /-- Waits until a phase record is DONE. (R321) -/
  | phwait (d : GReg) (a : GReg) (t : Bool)
  /-- Copies a payload and sends an active message. (R115) -/
  | msend (a : GReg) (b : GReg) (t : Bool) (y : BitVec 8)
  /-- Sends an active message compressed with a dictionary slot when shorter. (R115) -/
  | msendD (a : GReg) (b : GReg) (t : Bool) (y : BitVec 8)
  /-- Ends a handler, frees its ring slot and returns to waiting for work. (R117) -/
  | mend
  /-- Moves the thread explicitly to the home core of an address by a baton pass. (R154) -/
  | hop (a : GReg) (t : Bool)
  /-- Parks until an own-LM stamp reaches a sequence number, trapping on an error stamp. (R169) -/
  | mwait (d : GReg) (a : GReg) (b : GReg) (t : Bool)
  /-- Declares, redeclares or undeclares a tile's CSP range. (R160) -/
  | tdecl (n : BitVec 6) (a : GReg) (t : Bool)
  /-- Arms an empty tile with a byte count. (R160) -/
  | tarm (n : BitVec 6) (a : GReg) (t : Bool)
  /-- Parks until a tile is ready or draining with the expected phase. (R160) -/
  | twait (n : BitVec 6) (a : GReg) (t : Bool)
  /-- Releases a ready tile to empty after its readers end. (R160) -/
  | trel (n : BitVec 6)
  /-- Writes an XFE engine register of the thread. (R165) -/
  | xset (a : GReg) (t : Bool) (k : BitVec 4)
  /-- Enqueues an XFE copy command. (R165) -/
  | xcopy (a : GReg) (b : GReg) (t : Bool)
  /-- Enqueues an XFE gather by an index list. (R165) -/
  | xgather (a : GReg) (b : GReg) (t : Bool)
  /-- Enqueues an XFE scatter by an index list. (R165) -/
  | xscatter (a : GReg) (b : GReg) (t : Bool)
  /-- Enqueues an XFE fill with the fill pattern. (R165) -/
  | xfill (a : GReg) (t : Bool)
  /-- Binds a record handle to a layout record and drops its copy. (R171) -/
  | xlrec (a : GReg) (b : GReg) (t : Bool)
  /-- Drops the cached copy of a record handle. (R171) -/
  | xlflush (a : GReg) (t : Bool)
  /-- Puts g24–g27 into stream mode from a descriptor. (R173) -/
  | strm (d : BitVec 2) (a : GReg) (t : Bool)
  /-- Drains and leaves stream mode, optionally storing the descriptor with POS. (R173) -/
  | strmoff (d : BitVec 2) (a : GReg) (t : Bool)
  /-- Writes a VE address register's base and configuration. (R207) -/
  | vset (a : GReg) (b : GReg) (t : Bool) (e : BitVec 3)
  /-- VE floating-point add command. (R213) -/
  | vadd (a : GReg) (t : Bool) (x : BitVec 3) (y : BitVec 3) (e : BitVec 3)
  /-- VE floating-point subtract command. (R213) -/
  | vsub (a : GReg) (t : Bool) (x : BitVec 3) (y : BitVec 3) (e : BitVec 3)
  /-- VE floating-point multiply command. (R213) -/
  | vmul (a : GReg) (t : Bool) (x : BitVec 3) (y : BitVec 3) (e : BitVec 3)
  /-- VE fused multiply-add into the destination. (R213) -/
  | vfma (a : GReg) (t : Bool) (x : BitVec 3) (y : BitVec 3) (e : BitVec 3)
  /-- VE element-wise maximum. (R213) -/
  | vmax (a : GReg) (t : Bool) (x : BitVec 3) (y : BitVec 3) (e : BitVec 3)
  /-- VE element-wise minimum. (R213) -/
  | vmin (a : GReg) (t : Bool) (x : BitVec 3) (y : BitVec 3) (e : BitVec 3)
  /-- VE absolute value. (R213) -/
  | vabs (a : GReg) (t : Bool) (x : BitVec 3) (e : BitVec 3)
  /-- VE negation. (R213) -/
  | vneg (a : GReg) (t : Bool) (x : BitVec 3) (e : BitVec 3)
  /-- VE multiply by an f32 scalar. (R213) -/
  | vscale (a : GReg) (b : GReg) (t : Bool) (x : BitVec 3) (e : BitVec 3)
  /-- VE integer add. (R214) -/
  | viadd (a : GReg) (t : Bool) (x : BitVec 3) (y : BitVec 3) (e : BitVec 3)
  /-- VE integer subtract. (R214) -/
  | visub (a : GReg) (t : Bool) (x : BitVec 3) (y : BitVec 3) (e : BitVec 3)
  /-- VE integer multiply. (R214) -/
  | vimul (a : GReg) (t : Bool) (x : BitVec 3) (y : BitVec 3) (e : BitVec 3)
  /-- VE integer bitwise and. (R214) -/
  | viand (a : GReg) (t : Bool) (x : BitVec 3) (y : BitVec 3) (e : BitVec 3)
  /-- VE integer bitwise or. (R214) -/
  | vior (a : GReg) (t : Bool) (x : BitVec 3) (y : BitVec 3) (e : BitVec 3)
  /-- VE integer bitwise xor. (R214) -/
  | vixor (a : GReg) (t : Bool) (x : BitVec 3) (y : BitVec 3) (e : BitVec 3)
  /-- VE integer shift left by a scalar. (R214) -/
  | vishl (a : GReg) (b : GReg) (t : Bool) (x : BitVec 3) (e : BitVec 3)
  /-- VE integer shift right by a scalar. (R214) -/
  | vishr (a : GReg) (b : GReg) (t : Bool) (x : BitVec 3) (e : BitVec 3)
  /-- VE format conversion. (R215) -/
  | vconv (a : GReg) (t : Bool) (x : BitVec 3) (e : BitVec 3)
  /-- VE conversion of 32-element groups to bfp8 blocks. (R216) -/
  | vbfp (a : GReg) (t : Bool) (x : BitVec 3) (e : BitVec 3)
  /-- VE widening of bfp8 blocks. (R216) -/
  | vbfpx (a : GReg) (t : Bool) (x : BitVec 3) (e : BitVec 3)
  /-- VE nearest-entry codebook quantisation. (R219) -/
  | vcbq (a : GReg) (t : Bool) (x : BitVec 3) (e : BitVec 3)
  /-- VE codebook expansion. (R219) -/
  | vcbx (a : GReg) (t : Bool) (x : BitVec 3) (e : BitVec 3)
  /-- VE clamp to a scalar bound. (R217) -/
  | vsat (a : GReg) (b : GReg) (t : Bool) (x : BitVec 3) (e : BitVec 3)
  /-- VE sum reduction in fixed order. (R221) -/
  | vsum (a : GReg) (t : Bool) (x : BitVec 3) (e : BitVec 3)
  /-- VE maximum reduction. (R221) -/
  | vmaxr (a : GReg) (t : Bool) (x : BitVec 3) (e : BitVec 3)
  /-- VE dot product reduction. (R221) -/
  | vdot (a : GReg) (t : Bool) (x : BitVec 3) (y : BitVec 3) (e : BitVec 3)
  /-- VE command that loads or invalidates a codebook table. (R218) -/
  | vcbld (b : GReg) (x : BitVec 3)
  /-- Takes or releases ownership of the cluster's OMU. (R250) -/
  | mown (a : GReg) (t : Bool)
  /-- Writes CL_MX_MASK, CL_MX_CFG or CL_MX_STAMP. (R251) -/
  | mset (a : GReg) (t : Bool) (k : BitVec 4)
  /-- Enqueues loading a phase image into a phase bank. (R256) -/
  | mphld (a : GReg) (b : GReg) (t : Bool) (n : Bool)
  /-- Enqueues making the other phase bank active. (R257) -/
  | mswap (b : GReg)
  /-- Checks a pass word and enqueues an optical pass. (R253) -/
  | mpass (a : GReg) (b : GReg) (t : Bool)
  /-- Enqueues draining accumulator rows into a tile. (R260) -/
  | mdrain (a : GReg) (b : GReg) (t : Bool)
  /-- Enqueues clearing accumulator rows and the poison mark. (R260) -/
  | mclr (a : GReg) (b : GReg) (t : Bool)
  /-- Enqueues a 32-probe sweep. (R257) -/
  | mprobe (b : GReg)
  /-- Reads a descriptor and queues a decomposition on the DCE. (R262) -/
  | mdecomp (a : GReg) (b : GReg) (t : Bool)
  /-- Reads one phase code of a bank. (R258) -/
  | phrd (d : GReg) (a : GReg) (t : Bool)
  /-- Writes one phase code of a bank and re-evaluates M_c. (R258) -/
  | phwr (a : GReg) (b : GReg) (t : Bool)
  /-- Enqueues an OMU calibration. (R263) -/
  | mcal (a : GReg) (b : GReg) (t : Bool)
  /-- Reads one accumulator element with the poison mark. (R261) -/
  | macrd (d : GReg) (a : GReg) (t : Bool)
  /-- Reads and checks a collective descriptor and queues it on the CLE. (R176) -/
  | colgo (a : GReg) (b : GReg) (t : Bool)
  /-- Loads an NI dictionary slot from own LM. (R118) -/
  | nidict (a : GReg) (b : GReg) (t : Bool)
  /-- Invalidates an NI dictionary slot. (R118) -/
  | niclr (a : GReg) (t : Bool)
  /-- Binds or unbinds a bit-stream channel. (R198) -/
  | bsbind (a : GReg) (b : GReg) (t : Bool)
  /-- Reads and consumes n bits from channel 0. (R198) -/
  | bsget (d : GReg) (a : GReg) (t : Bool)
  /-- Reads n bits from channel 0 without consuming them. (R198) -/
  | bspeek (d : GReg) (a : GReg) (t : Bool)
  /-- Writes n bits to channel 1. (R198) -/
  | bsput (a : GReg) (b : GReg) (t : Bool)
  /-- Advances a channel's position. (R198) -/
  | bsskip (a : GReg) (b : GReg) (t : Bool)
  /-- Aligns a channel to a byte boundary, zero-padding channel 1. (R198) -/
  | bsalign (d : GReg) (a : GReg) (t : Bool)
  /-- Decodes one table-driven code from channel 0. (R199) -/
  | bslut (d : GReg) (a : GReg) (b : GReg) (t : Bool)
  /-- Folds up to 8 bytes into a reflected CRC-32C. (R200) -/
  | crc32c (d : GReg) (a : GReg) (b : GReg) (t : Bool)
  /-- Computes a 64-bit mixing hash of two operands. (R200) -/
  | hash64 (d : GReg) (a : GReg) (b : GReg) (t : Bool)
  /-- Parks the transform thread until named rings hold work. (R201) -/
  | tfwake (d : GReg) (a : GReg) (b : GReg) (t : Bool)
  /-- Traps 0x09 into supervisor code with g[a] as tval. (R334) -/
  | sys (a : GReg) (t : Bool)
  /-- Traps 0x08, or stops the slot when BRKH is set. (R334) -/
  | brk
  /-- Returns from a trap, restoring mode and segments. (R333) -/
  | eret
  /-- Waits for the slot's accesses and engines, then stops the slot. (R334) -/
  | halt
  /-- Reads a control register. (R339) -/
  | cget (d : GReg) (n : BitVec 14)
  /-- Writes a control register field by field. (R339) -/
  | cput (a : GReg) (t : Bool) (n : BitVec 14)
  /-- Loads a segment register from 16 bytes of memory. (R134) -/
  | segld (g : BitVec 3) (a : GReg) (t : Bool) (s : BitVec 3) (o : BitVec 11)
  /-- Stores a segment register as one 16-byte store. (R134) -/
  | segst (g : BitVec 3) (a : GReg) (t : Bool) (s : BitVec 3) (o : BitVec 11)
  /-- Releases, records a new snapshot level at the anchor and returns the level. (R90) -/
  | snap (d : GReg) (a : GReg) (t : Bool)
  /-- Drops the top snapshot level, keeping current values. (R90) -/
  | accept (d : GReg) (a : GReg) (t : Bool)
  /-- Restores lines to the top snapshot level and drops it. (R90) -/
  | reject (d : GReg) (a : GReg) (t : Bool)
  /-- Queries a snapshot range's level, shadows and pending work. (R91) -/
  | snapq (d : GReg) (a : GReg) (t : Bool)
  /-- Admits a must-save region at the save engine. (R354) -/
  | msadd (d : GReg) (a : GReg) (b : GReg) (t : Bool)
  /-- Removes a must-save region entry. (R355) -/
  | msdel (d : GReg) (a : GReg) (t : Bool)
  /-- Reads a region entry or the ASID's quota and usage. (R355) -/
  | msqry (d : GReg) (a : GReg) (t : Bool)
  /-- Removes every translation of an ASID in scope and drains translated accesses. (R63) -/
  | tlbfa (a : GReg) (b : GReg) (t : Bool)
  /-- Posts a ranged TLB invalidate to the privileged queue. (R64) -/
  | tlbinv (d : GReg) (a : GReg) (b : GReg) (t : Bool)
  /-- Writes back dirty lines of a physical span in every tower. (R92) -/
  | scwb (d : GReg) (a : GReg) (b : GReg) (t : Bool)
  /-- Invalidates lines of a span, with or without writeback. (R92) -/
  | scinv (d : GReg) (a : GReg) (b : GReg) (t : Bool)
  /-- Reads or writes an ASID's dedup domain entry in all towers. (R93) -/
  | scdom (d : GReg) (a : GReg) (b : GReg) (t : Bool)
  /-- Switches a core's LM quarters on and off. (R139) -/
  | lmpwr (d : GReg) (a : GReg) (b : GReg) (t : Bool)
  /-- Reads the hold-up restart table. (R361) -/
  | hustat (d : GReg) (a : GReg) (b : GReg) (t : Bool)
  /-- Starts a page migration and returns a status. (R70) -/
  | pmig (d : GReg) (a : GReg) (b : GReg) (t : Bool)
  /-- Switches, releases or aborts a page migration. (R71) -/
  | pmigsw (d : GReg) (a : GReg) (b : GReg) (t : Bool)
  /-- Reads a link port's status or error counts. (R386) -/
  | lnkq (d : GReg) (a : GReg) (t : Bool)
  /-- Sets or pins a link's code level. (R386) -/
  | lnkfec (d : GReg) (a : GReg) (b : GReg) (t : Bool)
  /-- Claims a port and throws to spare, or releases it and throws to primary. (R386) -/
  | lnkclaim (d : GReg) (a : GReg) (b : GReg) (t : Bool)
  /-- Records a faulty vertical-bus wire, retiring the quarter on a third fault. (R369) -/
  | vbset (d : GReg) (a : GReg) (b : GReg) (t : Bool)
  /-- Drives a single one on a raw bus wire and reports the loopback. (R368) -/
  | vbtest (d : GReg) (a : GReg) (b : GReg) (t : Bool)
  /-- Swaps two entries of a cluster's remap table. (R323) -/
  | crmap (d : GReg) (a : GReg) (b : GReg) (t : Bool)
  /-- Stops masked slots of a target core. (R345) -/
  | dbghalt (d : GReg) (a : GReg) (b : GReg) (t : Bool)
  /-- Resumes masked stopped slots of a target core. (R345) -/
  | dbgresume (d : GReg) (a : GReg) (b : GReg) (t : Bool)
  /-- Power-on or reset runs the boot sequence from firmware check to MAINT clear. (R393) -/
  | boot (good : Bool)
  /-- A slot's issue turn takes a power-fail, cancel, event or evaluates its instruction. (R330) -/
  | slotTurn (k : Nat) (par : Option Nat)
  /-- The time base passes a park or tsleep deadline and wakes the slot. (R300) -/
  | timebaseDeadline (k : Nat)
  /-- An NI starts sending a whole buffered message back to back. (R103) -/
  | niSend (core : Nat)
  /-- A home performs a remote load and sends its reply. (R106) -/
  | loadRequest (i : Nat)
  /-- A reply writes the destination register, or poisons it, and sets it full. (R106) -/
  | loadReply (i : Nat)
  /-- A home performs or refuses a posted store. (R107) -/
  | postedStore (i : Nat)
  /-- An acknowledgement frees the journal entry. (R107) -/
  | storeAck (i : Nat)
  /-- A refusal holds the journal entry and raises an asynchronous trap at the service slot. (R108) -/
  | storeRefusal (i : Nat)
  /-- A home performs an atomic or cas indivisibly and replies. (R148) -/
  | atomicRequest (i : Nat)
  /-- An atomic reply writes the old value into the destination. (R148) -/
  | atomicReply (i : Nat)
  /-- A remote full/empty request is performed, held in the waiter table, or answered with retry. (R144) -/
  | syncRequest (i : Nat)
  /-- A synchronising reply writes the destination and sets it full. (R143) -/
  | syncReply (i : Nat)
  /-- A retry reply arms the requester's backoff, or poisons with 0x30 at LIMIT. (R145) -/
  | syncRetry (i : Nat)
  /-- After BACKOFF the requester re-sends the synchronising request. (R145) -/
  | feRetryResend (core : Nat) (tag : Nat)
  /-- An LM home answers a read-only fill and records the sharer in its directory. (R111) -/
  | roFillRequest (i : Nat)
  /-- A fill reply installs the line and writes the waiting destination. (R113) -/
  | roFillReply (i : Nat)
  /-- A cache drops a line and acknowledges. (R111) -/
  | dirInvalidate (i : Nat)
  /-- An acknowledgement lets the home free the entry and release the writer's ack. (R111) -/
  | invalidateAck (i : Nat)
  /-- A destination NI dispatches a whole active message to the ring or refuses it. (R116) -/
  | activeMessage (i : Nat)
  /-- A refusal raises an asynchronous trap at the sender's service slot. (R116) -/
  | amRefusal (i : Nat)
  /-- A queued message starts its handler in a free slot of its class. (R116) -/
  | amHandlerStart (core : Nat)
  /-- A home performs an engine write and acknowledges it. (R276) -/
  | engineWrite (i : Nat)
  /-- A home performs an engine read and replies. (R101) -/
  | engineReadRequest (i : Nat)
  /-- An engine read reply delivers data to its engine. (R101) -/
  | engineReadReply (i : Nat)
  /-- A destination installs a baton context, queues it, or refuses it. (R153) -/
  | batonPass (i : Nat)
  /-- An acceptance sends the source slot to wfw, a refusal arms a re-send. (R152) -/
  | batonAnswer (i : Nat)
  /-- After BACKOFF the source re-sends the baton. (R152) -/
  | batonResend (k : Nat)
  /-- A queued baton takes a freed slot of its class. (R153) -/
  | batonInstall (core : Nat)
  /-- A home removes a waiting synchronising request and answers withdrawn. (R341) -/
  | withdrawal (i : Nat)
  /-- A withdrawn answer turns the request into a switch record. (R341) -/
  | withdrawnAnswer (i : Nat)
  /-- The LID home's answer writes the launch status into g[d]. (R314) -/
  | launchStatusReply (i : Nat)
  /-- A block's control agent performs a register load or store with its side effects. (R338) -/
  | controlWindowAccess (i : Nat)
  /-- A flit that fails its hop CRC is replayed. (R102) -/
  | netHopReplay (tower : Nat) (n : Nat)
  /-- After 32 failed replays a hop is declared failed and raises 0x7A. (R373) -/
  | netHopFail (cluster : Nat) (dir : Nat)
  /-- An NI buffer parity error discards the message and raises 0x63. (R373) -/
  | niBufferParity (core : Nat) (i : Nat)
  /-- A parity error in a command queue, stream FIFO or journal entry raises 0x79. (R374) -/
  | queueParity (core : Nat) (unit : Nat) (i : Nat)
  /-- A TLB miss walks the page tables, builds an entry or faults. (R57) -/
  | pageWalk (cluster : Nat) (i : Nat)
  /-- A walk that read MIG = 2 reads the leaf again. (R59) -/
  | walkMigReread (cluster : Nat) (i : Nat)
  /-- A port discards an ASID's entries, drains its accesses and acknowledges. (R63) -/
  | tlbfaPortDiscard (i : Nat)
  /-- A port removes matching entries of a queued invalidate and acknowledges. (R64) -/
  | tlbinvBroadcast (cluster : Nat)
  /-- A completed fill sets the signature and may share an equal data entry. (R77) -/
  | scFillComplete (line : Nat) (victim : Option Nat)
  /-- A tower records a snap, accept or reject on a range, forwarding from the anchor. (R86) -/
  | snapRecord (i : Nat)
  /-- The anchor answers a snapshot query. (R91) -/
  | snapqQuery (i : Nat)
  /-- The background sweep resolves pending lines at RATE. (R94) -/
  | snapSweep (line : Nat)
  /-- A tower's SC walks a span for scwb or scinv. (R92) -/
  | scSpanWalk (i : Nat)
  /-- A tower writes or reads an ASID's domain entry and acknowledges. (R93) -/
  | scdomUpdate (i : Nat)
  /-- The scrubber reads lines in idle cycles and writes back corrected words. (R365) -/
  | scrubPatrol (pa err : Nat)
  /-- The old home copies a migrating page line by line to the new frame. (R70) -/
  | migrationCopy (tower : Nat) (i : Nat)
  /-- A quarter switched on becomes ready, zeroed and full. (R139) -/
  | lmQuarterReady (core : Nat) (q : Nat)
  /-- The XFE starts the next queued command. (R161) -/
  | xfeCommandStart (core : Nat)
  /-- After all writes are performed the XFE writes the stamp. (R165) -/
  | xfeCommandEnd (core : Nat)
  /-- A fault stops the command and writes an error stamp and status. (R167) -/
  | xfeFault (core : Nat)
  /-- The stream engine fetches read elements into the FIFO. (R174) -/
  | streamFetch (k : Nat) (st : Nat)
  /-- The stream engine writes pushed elements in order. (R174) -/
  | streamWrite (k : Nat) (st : Nat)
  /-- The VE starts the next queued command. (R203) -/
  | veCommandStart (core : Nat)
  /-- After its writes the VE command writes its stamp and ends. (R210) -/
  | veCommandEnd (core : Nat)
  /-- A fault ends the VE command and reports it by stamp or trap. (R211) -/
  | veFault (core : Nat)
  /-- The CLE starts the next queued collective. (R176) -/
  | cleCollectiveStart (tower : Nat)
  /-- A collective finishes or errs and writes its stamp. (R176) -/
  | cleCollectiveEnd (tower : Nat)
  /-- The DCE starts a decomposition of a weight block. (R230) -/
  | dceDecompose (cluster : Nat)
  /-- A decomposition ends, writing the image on success and the stamp always. (R262) -/
  | dceEnd (cluster : Nat)
  /-- A queued pass starts and feeds rows into the light. (R254) -/
  | omuPassStart (cluster : Nat) (feed : PassFeed)
  /-- A pass declares its EBC, applies the floor action and ends. (R254) -/
  | omuPassEnd (cluster : Nat)
  /-- A phase image load reads and checks the image into a bank. (R256) -/
  | omuPhldRun (cluster : Nat)
  /-- A swap toggles the active bank. (R257) -/
  | omuSwapRun (cluster : Nat)
  /-- After a bank change the OMU settles 32 symbols and sweeps 32 probes. (R235) -/
  | omuSettleSweep (cluster : Nat)
  /-- A drain writes accumulator rows into the tile. (R260) -/
  | omuDrainRun (cluster : Nat)
  /-- A clear zeroes rows and the bank's poison mark. (R260) -/
  | omuClearRun (cluster : Nat)
  /-- A calibration measures gains, centres trims and enters CAL. (R238) -/
  | omuCalRun (cluster : Nat)
  /-- Calibration ends, writing gains and entering READY. (R239) -/
  | omuCalEnd (cluster : Nat)
  /-- A probe symbol every 2^P symbols measures E_p. (R234) -/
  | omuProbe (cluster : Nat)
  /-- Every 16,000 CCLK the pacer updates every heater trim. (R236) -/
  | pacerUpdate (cluster : Nat) (tmax : Nat) (beyond : Bool)
  /-- TEMP at or above STOPT stops rows and probes and raises 0x4B. (R239) -/
  | omuThermalStop (cluster : Nat) (temp : Nat)
  /-- TEMP below RESUME moves STOP to DRIFT. (R239) -/
  | omuThermalResume (cluster : Nat) (temp : Nat)
  /-- A group pass timer reaching WDLIM raises 0x4F at members. (R264) -/
  | groupWatchdog (cluster : Nat) (n : Nat)
  /-- The LID home checks, writes the level record and holds or distributes the launch. (R314) -/
  | launchRequest (i : Nat)
  /-- A dispenser accepts or refuses a distributed launch. (R315) -/
  | launchDistribute (i : Nat)
  /-- After 256 CCLK the home retries a refused distribution. (R315) -/
  | distributeRetry (tower : Nat) (i : Nat)
  /-- A dispenser starts at most one unit per cycle in a waiting slot. (R316) -/
  | dispenserStartUnit (cluster : Nat)
  /-- A unit's completion message lowers the launch's PEND at its home. (R318) -/
  | unitCompletion (i : Nat)
  /-- A bank answers, holds or retries an lvlwait or phwait request. (R320) -/
  | levelWaitRequest (i : Nat)
  /-- A home decrements a phase's PART and may start waves. (R321) -/
  | phaseCloseRequest (i : Nat)
  /-- A dispenser or hold queue drops units and launches of a cancelled id and acknowledges. (R319) -/
  | levelCancelDrop (i : Nat)
  /-- A wave over every counter of the phase runs and may complete the phase. (R322) -/
  | phaseWave (id : Nat)
  /-- The remap table swaps two entries once both cores are quiet. (R323) -/
  | remapSwap (cluster : Nat)
  /-- A cluster at HOLD stops unit starts until CLEAR. (R324) -/
  | thermalHold (cluster : Nat) (temp : Nat)
  /-- Every 16,000 CCLK at MIG one unit moves to a cooler cluster. (R324) -/
  | thermalMigrate (cluster : Nat) (temp : Nat) (k : Nat)
  /-- A cluster at THROT halves its CCLK and raises 0x72. (R324) -/
  | thermalThrottle (cluster : Nat) (temp : Nat)
  /-- A non-pre-emptible region ends after 2,000,000 ticks. (R325) -/
  | npRegionExpire (k : Nat)
  /-- At TIME and a lap boundary the job's slots stop and drain. (R340) -/
  | gangSwitchBegin (core : Nat)
  /-- Once all records are performed the switch enters state saved. (R342) -/
  | gangSwitchSaved (core : Nat)
  /-- A message for a switched core is diverted to the fallout area. (R343) -/
  | falloutDivert (i : Nat)
  /-- The input below 38 V for 1 µs starts the hold-up sequence. (R356) -/
  | holdupStart
  /-- At 50,000 ticks every running slot stops. (R356) -/
  | holdupStop
  /-- After the drain the plan block is written and the copy spends CAP. (R357) -/
  | holdupCopy
  /-- A chunk record is written to flash and verified. (R357) -/
  | saveChunkWrite (ok : Bool)
  /-- After the copy the commit block is written and power goes off. (R356) -/
  | holdupCommit
  /-- Every 2^30 ticks the reserve energy and CAP are measured. (R350) -/
  | holdupReserveMeasure (resj : Nat)
  /-- A GO write spares a failing tier row by post-package repair. (R366) -/
  | rowRepair
  /-- A repair ends, releasing held accesses and writing RESULT. (R366) -/
  | rowRepairDone (result : Nat)
  /-- A receiver checks a frame and delivers or forwards its messages. (R378) -/
  | linkFrameReceive (port : Nat) (hdr op : Word) (bad : List Nat) (msgs : List LinkMsg)
  /-- A NAK makes the sender replay go-back-N. (R381) -/
  | linkNak (port : Nat) (seq : Nat)
  /-- A CHG proposal is acknowledged or merged. (R380) -/
  | linkChg (port : Nat) (level : Nat) (lane : Nat) (at_ : Nat)
  /-- A CACK switches the level or lanes at frame S. (R380) -/
  | linkCack (port : Nat) (at_ : Nat)
  /-- No CACK within 4,096 frames abandons the proposal. (R380) -/
  | linkChgTimeout (port : Nat)
  /-- A 2^20-frame window ends and may change the code level. (R379) -/
  | linkBerWindow (port corrected0 corrected1 failing : Nat) (errs : List Nat)
  /-- A link goes down, raises 0x60 and ends its unanswered accesses. (R382) -/
  | linkDown (port : Nat) (reason : Nat)
  /-- After a throw settles, training ends in success or failure. (R385) -/
  | linkTrainingDone (port : Nat) (ok : Bool) (peer : Nat)
  /-- A host CXL.mem request is performed as an untranslated supervisor access. (R389) -/
  | cxlMemRequest (m : Nat) (write : Bool) (addr : Nat) (data : List Byte)
  /-- The host port performs a thread or engine access to host memory. (R390) -/
  | hostWindowAccess (i : Nat) (accept : Bool) (data : List Byte)
  /-- A GO write hands a launch slot to the launch agent. (R391) -/
  | launchWindowGo (slot : Nat) (record : List Word) (ctl : Word)
  /-- A GO write makes a signed quote into the host buffer. (R395) -/
  | attestationQuote
  /-- A read of CORE_DIR_OVF returns and removes one overflow record. (R122) -/
  | dirOvfRead (core : Nat)
  /-- OP 1 invalidates a kept sharer's copy of a line. (R122) -/
  | dirCmdInvalidate (core : Nat) (v : Word)
  /-- OP 2 releases an overflowed line after its invalidates. (R112) -/
  | dirCmdRelease (core : Nat) (v : Word)
  /-- A write to CORE_PJ_REL frees a refused journal entry and counts it. (R122) -/
  | pjRelease (core : Nat) (v : Word)
  /-- Writing ARM 1 arms a writer trap on a word. (R147) -/
  | fewtArm (core : Nat) (v : Word)
  /-- Writing ARM 0 disarms a word's writer trap. (R144) -/
  | fewtDisarm (core : Nat) (v : Word)
  /-- Writing ARM arms the core for a gang switch at TIME. (R340) -/
  | gswArm (core : Nat) (v : Word)
  /-- Writing RST restores switched slots from their records. (R344) -/
  | gswRestore (core : Nat) (v : Word)
  /-- Writing CLR clears the restart table. (R362) -/
  | huTableClear
  /-- Clearing a range's V acts as successive accepts and frees its shadows. (R80) -/
  | snrInvalidate (tower : Nat) (n : Nat) (v : Word)
  /-- A write binds the cluster to a site or is ignored with BERR. (R241) -/
  | omuBindWrite (cluster : Nat) (v : Word)
  /-- Writing V = 1 to CL_MX_GRP clears GPN. (R266) -/
  | mxGroupWrite (cluster : Nat) (v : Word)
  /-- Setting CORE_XFORM stops slot 15 as the transform thread. (R286) -/
  | xformWrite (core : Nat) (v : Word)
  /-- A write of a semaphore count wakes its parked slots. (R295) -/
  | semCountWrite (core : Nat) (n : Nat) (v : Word)
  /-- A write to THR_VCBMON restarts the codebook window. (R220) -/
  | vcbmonWrite (k : Nat) (v : Word)
  /-- A write that changes P restarts the probe symbol counter. (R234) -/
  | probePeriodWrite (cluster : Nat) (v : Word)
  /-- A write to a bit-stream BASE register sets the channel and POS 0. (R202) -/
  | bsBaseWrite (k : Nat) (ch : Bool) (v : Word)
  /-- Writing EN 0 takes the link down with reason 8. (R387) -/
  | linkEnableWrite (port : Nat) (v : Word)
  /-- Setting RETC retires a physical core. (R371) -/
  | coreRetireWrite (v : Word)
  /-- Setting a site bit retires it, cutting passes and putting its clusters OFF. (R372) -/
  | omuSiteRetire (n : Nat) (v : Word)
  /-- CORE_DBGDAT reads or writes a dword of a stopped slot's context. (R347) -/
  | dbgContextAccess (core : Nat) (write : Bool) (v : Word)
  /-- A write to a control register without behaviour of its own. (R339) -/
  | registerWrite (blk : Nat) (n : Nat) (v : Word)
  /-- A held cluster's TEMP falls below CLEAR and its dispenser starts units again. (R324) -/
  | thermalHoldClear (cluster : Nat) (temp : Nat)
  /-- A lane loses lock and the spare lane takes it over, or a second failure takes the link down. (R381) -/
  | laneLossOfLock (port : Nat) (lane : Nat)
  /-- A comb source fails in service, so the standby carries the module or is lost, and advisory bit 5 is set. (R375) -/
  | combSourceFailure (standby : Bool)
  /-- A quote ends, writing the signature and data to the host buffer and setting MOD_ATT_STAT.DONE. (R395) -/
  | quoteWritten
deriving DecidableEq, Repr, Inhabited

end Sys2Proof
end

