-- ==== Sys2Proof/Config.lean ====
section
/-! DEFINITION. What an implementation fixes or the manual leaves open. Each is an opaque constant without a body:
no proof can see what it is, and a claim holds whatever it is. -/

namespace Sys2Proof

/-- A choice of what moves next, and the CCLK cycles that pass before it does. -/
structure Choice where
  dt : Nat
  ev : Instr
deriving DecidableEq, Repr, Inhabited

/-- Which agent moves next is left to timing (R101, R222, R243): the n-th free choice. DESIGN CHOICE, safe (log entry 111). -/
opaque Config.nextMover : Nat → Choice

/-- The SC bank of a line: a fixed function that the manual does not give (R104). DESIGN CHOICE, safe (log entry 11). -/
opaque Config.scBank : Nat → Nat

/-- The 64 bytes behind the data of a shadow's pool slot, as a number: they hold the line address, the range, the level and the check, in a
layout that the manual does not give (R83). DESIGN CHOICE, unsafe (log entry 76). -/
opaque Config.shadowRecord : Nat → Nat → Nat → List Byte → Nat

/-- The place along the edge of a tower at which messages leave it for a neighbouring tower, on one virtual network: the fixed bridge
routers of R100, which the manual does not place. DESIGN CHOICE, safe (log entry 13). -/
opaque Config.bridgeAt : Nat → Nat → Bool → Nat

/-- The cluster at whose router an agent sits that the manual places at none. DESIGN CHOICE, safe (log entry 13). -/
opaque Config.agentPlace : Agent → Nat

/-- A free 64-bit value, the n-th. -/
opaque Config.freeWord : Nat → Word

/-- A free number, the n-th. -/
opaque Config.freeNat : Nat → Nat

/-- A free truth value, the n-th. -/
opaque Config.freeBool : Nat → Bool

/-- The error of entry M_c[i][j] of a list of phase codes when it is evaluated in f32 (R225, R229), whose order of operations the manual does
not give: in units of 2^−48. DESIGN CHOICE, safe (log entry 8). -/
opaque Config.meshError : List (BitVec 16) → Nat → Nat → Nat

/-- The analog error of the n-th detection, in converter steps: a number times a power of two (R226, R231 bounds it only
statistically). DESIGN CHOICE, unsafe (log entry 6). -/
opaque Config.analogError : Nat → Int × Int

/-- What the decomposition of a block gives (R230): the phase codes, the sweeps made, whether it converged, and the block identifier of its
image. The order of its operations is not part of the architecture. -/
structure DceResult where
  codes : List (BitVec 16)
  sweeps : Nat
  converged : Bool
  block : Nat
deriving DecidableEq, Repr, Inhabited

/-- The decomposition of a block of 1,024 f32 values, with the output range and the requested exponent.
DESIGN CHOICE, safe (log entry 7). -/
opaque Config.decompose : List (BitVec 32) → Nat → Option Int → DceResult

/-- The RSASSA-PSS signature of a quote, 384 bytes as a number (R395): the key is fused in manufacture.
DESIGN CHOICE, safe (log entry 14). -/
opaque Config.quoteSignature : List Byte → Nat

/-- The opaque gain that a calibration measures for an output (R238), f32 bits. DESIGN CHOICE, safe (log entry 5). -/
opaque Config.measuredGain : Nat → Nat → BitVec 32

/-- The flat bank index (R366) of an offset within a device of the second tier or of HBM4 (R53).
DESIGN CHOICE, safe (log entry 18). -/
opaque Config.bankOf : Bool → Nat → Nat

/-- The row of that bank which holds it (R366). DESIGN CHOICE, safe (log entry 18). -/
opaque Config.rowOf : Bool → Nat → Nat

/-- What is wrong with a wire: it passes one value only, or it is joined to another wire (R125, R368). -/
inductive WireFault where
  | stuck (v : Bool)
  | bridge (other : Nat)
deriving DecidableEq, Repr, Inhabited

/-- A faulty wire of a vertical bus: physical core key, quarter, wire, and its fault (R125). -/
structure Wire where
  core : Nat
  quarter : Nat
  wire : Nat
  fault : WireFault
deriving DecidableEq, Repr, Inhabited

/-- The host physical address at which the local package's HDM decoder begins (R389). DESIGN CHOICE, safe (log entry 106). -/
opaque Config.hdmBase : Nat

/-- What a boot finds and loads (R350, R393 to R395): whether the primary comb locks; the faulty wires that it
finds, and those that it misses; the sites whose calibration fails; the configuration block's remap tables,
retired cores (cluster, physical core), bindings (cluster, site) and retired sites; the measured energy; the firmware's version, and the count to which
it raises the rollback counter; and the eight measurements. -/
structure BootFacts where
  primary : Bool
  wires : List Wire
  missed : List Wire
  badSites : List Nat
  remaps : List (Nat × List Nat)
  cores : List (Nat × Nat)
  binds : List (Nat × Nat)
  sites : List Nat
  resj : Nat
  version : Nat
  roll : Nat
  meas : List Nat
deriving DecidableEq, Repr, Inhabited

/-- What the n-th boot finds. DESIGN CHOICE, safe (log entry 12). -/
opaque Config.bootFacts : Nat → BootFacts

end Sys2Proof
end

