-- ==== Sys2Proof/Machine/Bits.lean ====
section
/-! DEFINITION. Bit fields, byte order and sign extension (R5, R13), and small list helpers. -/

namespace Sys2Proof

/-- Field [lo + n - 1 : lo] of a word, as a number (R5). -/
def bitF (w : Word) (lo n : Nat) : Nat := w.toNat / 2 ^ lo % 2 ^ n

/-- Bit `lo` of a word. -/
def bitB (w : Word) (lo : Nat) : Bool := w.getLsbD lo

/-- The word with field [lo + n - 1 : lo] replaced. -/
def setF (w : Word) (lo n v : Nat) : Word :=
  (w &&& ~~~(BitVec.ofNat 64 ((2 ^ n - 1) * 2 ^ lo))) ||| BitVec.ofNat 64 (v % 2 ^ n * 2 ^ lo)

/-- The word with bit `lo` set or cleared. -/
def setB (w : Word) (lo : Nat) (b : Bool) : Word := setF w lo 1 b.toNat

/-- A number as a word. -/
def nw (n : Nat) : Word := BitVec.ofNat 64 n

/-- A truth value as a word. -/
def bw (b : Bool) : Word := nw b.toNat

/-- The two's complement value of the low `n` bits of `v` (R35). -/
def sxNat (n v : Nat) : Int :=
  if 2 * (v % 2 ^ n) < 2 ^ n then (v % 2 ^ n : Nat) else ((v % 2 ^ n : Nat) : Int) - (2 ^ n : Nat)

/-- The low `n` bits of an integer. -/
def wrapInt (n : Nat) (i : Int) : Nat := (i % (2 ^ n : Nat)).toNat

/-- Sign-extends the low `n` bits of a word. -/
def sextW (n : Nat) (w : Word) : Word := BitVec.ofInt 64 (sxNat n w.toNat)

/-- Zero-extends the low `n` bits of a word. -/
def zextW (n : Nat) (w : Word) : Word := BitVec.ofNat 64 (w.toNat % 2 ^ n)

/-- The number that bytes hold, lowest address first (R5). -/
def leNat : List Byte → Nat
  | [] => 0
  | b :: bs => b.toNat + 256 * leNat bs

/-- The low `n` bytes of a number, lowest address first (R5). -/
def natLE : Nat → Nat → List Byte
  | 0, _ => []
  | n + 1, v => BitVec.ofNat 8 v :: natLE n (v / 256)

/-- The low `n` bytes of a word. -/
def wordLE (n : Nat) (w : Word) : List Byte := natLE n w.toNat

/-- The word of up to eight bytes. -/
def leWord (bs : List Byte) : Word := nw (leNat bs)

/-- Dword `i` of a list of bytes. -/
def dwordAt (bs : List Byte) (i : Nat) : Word := leWord ((bs.drop (8 * i)).take 8)

/-- Bytes as dwords. -/
def dwords : Nat → List Byte → List Word
  | 0, _ => []
  | n + 1, bs => leWord (bs.take 8) :: dwords n (bs.drop 8)

/-- Words as bytes. -/
def wordsLE (ws : List Word) : List Byte := ws.flatMap (wordLE 8)

/-- Words of 32 bits as bytes. -/
def words32LE (ws : List Nat) : List Byte := ws.flatMap (natLE 4)

/-- A list cut or filled with `x` to length `n`. -/
def padTo {α : Type} (n : Nat) (x : α) (l : List α) : List α := (l ++ List.replicate (n - l.length) x).take n

/-- Entry `i` replaced. -/
def listSet {α : Type} (l : List α) (i : Nat) (x : α) : List α := l.set i x

/-- The first position whose entry meets `p`. -/
def findAt {α : Type} (p : α → Bool) : List α → Option Nat
  | [] => none
  | x :: xs => if p x then some 0 else (findAt p xs).map (· + 1)

/-- The list without position `i`. -/
def dropAt {α : Type} (l : List α) (i : Nat) : List α := l.eraseIdx i

/-- The minimum of two numbers' saturating sum: `a + b`, at most `m` (saturating counters, R122). -/
def satAdd (m a b : Nat) : Nat := Nat.min m (a + b)

/-- Count of leading zeros in the low `n` bits. -/
def clzN (n v : Nat) : Nat := if v % 2 ^ n = 0 then n else n - 1 - Nat.log2 (v % 2 ^ n)

/-- Count of trailing zeros in the low `n` bits, `n` when they are all zero. -/
def ctzN : Nat → Nat → Nat
  | 0, _ => 0
  | n + 1, v => if v % 2 = 1 then 0 else 1 + ctzN n (v / 2)

/-- Count of ones in the low `n` bits. -/
def popN : Nat → Nat → Nat
  | 0, _ => 0
  | n + 1, v => v % 2 + popN n (v / 2)

/-- The low `n` bits in opposite order. -/
def revN : Nat → Nat → Nat
  | 0, _ => 0
  | n + 1, v => v % 2 * 2 ^ n + revN n (v / 2)

/-- The bits of `v` selected by the ones of `m`, packed to the low end. -/
def extN : Nat → Nat → Nat → Nat
  | 0, _, _ => 0
  | n + 1, v, m => if m % 2 = 1 then v % 2 + 2 * extN n (v / 2) (m / 2) else extN n (v / 2) (m / 2)

/-- The low bits of `v` placed at the ones of `m`. -/
def depN : Nat → Nat → Nat → Nat
  | 0, _, _ => 0
  | n + 1, v, m => if m % 2 = 1 then v % 2 + 2 * depN n (v / 2) (m / 2) else 2 * depN n v (m / 2)

/-- One step of the reflected CRC-32C over the bits of a byte (R200). -/
def crcBits : Nat → Nat → Nat
  | 0, c => c
  | n + 1, c => crcBits n (if c % 2 = 1 then Nat.xor (c / 2) 0x82F63B78 else c / 2)

/-- CRC-32C of bytes from the running value `c`, without final inversion (R200). -/
def crcBytes : Nat → List Byte → Nat
  | c, [] => c
  | c, b :: bs => crcBytes (crcBits 8 (Nat.xor c b.toNat)) bs

/-- CRC-32C with the initial value all ones and the final inversion (R200). -/
def crc32 (bs : List Byte) : Nat := Nat.xor (crcBytes 0xFFFFFFFF bs) 0xFFFFFFFF

end Sys2Proof
end

