-- ==== Sys2Proof/Machine/Num.lean ====
section
/-! DEFINITION. Formats, rounding and conversions (R32 to R47). A floating-point value is an exact dyadic; each
operation computes exactly and rounds once (R37). -/

namespace Sys2Proof

/-- The rounding modes (R34). -/
inductive Rnd where
  | rne | rtz | rdn | rup
deriving DecidableEq, Repr, Inhabited

/-- The 2-bit code of a rounding mode (R34). -/
def rndOf (c : Nat) : Rnd := if c = 0 then .rne else if c = 1 then .rtz else if c = 2 then .rdn else .rup

/-- A floating-point value: a NaN, an infinity, or (-1)^neg × m × 2^e. -/
inductive FVal where
  | nan
  | inf (neg : Bool)
  | fin (neg : Bool) (m : Nat) (e : Int)
deriving DecidableEq, Repr, Inhabited

/-- A binary format: `p` significant bits, the exponent `qmin` of its smallest subnormal, its width, the pattern of its
largest finite magnitude, and the patterns of infinity (none for e4m3) and of the canonical NaN (R36, R38, R39). -/
structure FFmt where
  p : Nat
  qmin : Int
  width : Nat
  max : Nat
  inf : Option Nat
  nan : Nat
deriving DecidableEq, Repr

def fmtF32 : FFmt := ⟨24, -149, 32, 0x7F7FFFFF, some 0x7F800000, 0x7FC00000⟩
def fmtBf16 : FFmt := ⟨8, -133, 16, 0x7F7F, some 0x7F80, 0x7FC0⟩
def fmtE4m3 : FFmt := ⟨4, -9, 8, 0x7E, none, 0x7F⟩
def fmtE5m2 : FFmt := ⟨3, -16, 8, 0x7B, some 0x7C, 0x7E⟩

/-- The value of a pattern (R36, R38, R39). -/
def FFmt.value (f : FFmt) (bits : Nat) : FVal :=
  let neg : Bool := decide (bits / 2 ^ (f.width - 1) % 2 = 1)
  let mag := bits % 2 ^ (f.width - 1)
  if mag ≤ f.max then
    if mag < 2 ^ (f.p - 1) then .fin neg mag f.qmin
    else .fin neg (2 ^ (f.p - 1) + mag % 2 ^ (f.p - 1)) (f.qmin + ((mag / 2 ^ (f.p - 1) : Nat) : Int) - 1)
  else if f.inf = some mag then .inf neg
  else .nan

/-- m / 2^s rounded to an integer (R34); `neg` is the sign of the value whose magnitude this is. -/
def roundShift (mode : Rnd) (neg : Bool) (m s : Nat) : Nat :=
  let q := m / 2 ^ s
  let r := m % 2 ^ s
  let up : Bool :=
    match mode with
    | .rne => decide (2 * r > 2 ^ s) || (decide (2 * r = 2 ^ s) && decide (r ≠ 0) && decide (q % 2 = 1))
    | .rtz => false
    | .rdn => neg && decide (r ≠ 0)
    | .rup => !neg && decide (r ≠ 0)
  if up then q + 1 else q

/-- The magnitude m × 2^e rounded to an integer. -/
def roundMag (mode : Rnd) (neg : Bool) (m : Nat) (e : Int) : Nat :=
  if 0 ≤ e then m * 2 ^ e.toNat else roundShift mode neg m (-e).toNat

/-- The signed integer nearest by the mode to (-1)^neg × m × 2^e. -/
def roundInt (mode : Rnd) (neg : Bool) (m : Nat) (e : Int) : Int :=
  if neg then -(roundMag mode neg m e : Int) else (roundMag mode neg m e : Int)

/-- The magnitude pattern of m × 2^e rounded to the format's precision, before overflow is looked at: it exceeds `max` exactly
when the rounded magnitude exceeds the largest finite value. -/
def FFmt.magBits (f : FFmt) (mode : Rnd) (neg : Bool) (m : Nat) (e : Int) : Nat :=
  if m = 0 then 0
  else
    let q := Max.max (e + (Nat.log2 m : Int) - ((f.p : Int) - 1)) f.qmin
    (q - f.qmin).toNat * 2 ^ (f.p - 1) + roundMag mode neg m (e - q)

/-- The sign bit of a format. -/
def FFmt.sign (f : FFmt) (neg : Bool) : Nat := if neg then 2 ^ (f.width - 1) else 0

/-- Overflow gives an infinity in this mode and direction (R37). -/
def overflowsToInf (mode : Rnd) (neg : Bool) : Bool :=
  match mode with
  | .rne => true
  | .rtz => false
  | .rdn => neg
  | .rup => !neg

/-- Rounds a value into a format that has infinities (R37). -/
def FFmt.round (f : FFmt) (mode : Rnd) : FVal → Nat
  | .nan => f.nan
  | .inf neg => f.sign neg + f.inf.getD f.nan
  | .fin neg m e =>
    let b := f.magBits mode neg m e
    if b ≤ f.max then f.sign neg + b
    else if overflowsToInf mode neg then f.sign neg + f.inf.getD f.nan
    else f.sign neg + f.max

/-- Narrows to e4m3 or e5m2, plain or saturating, with 1 for an input counted as saturated (R40). -/
def FFmt.narrow (f : FFmt) (mode : Rnd) (sat : Bool) : FVal → Nat × Nat
  | .nan => (f.nan, 1)
  | .inf neg =>
    if sat then (f.sign neg + f.max, 1)
    else match f.inf with
      | some i => (f.sign neg + i, 1)
      | none => (f.nan, 1)
  | .fin neg m e =>
    let b := f.magBits mode neg m e
    if b ≤ f.max then (f.sign neg + b, 0)
    else if sat then (f.sign neg + f.max, 1)
    else match f.inf with
      | some i => (f.sign neg + (if overflowsToInf mode neg then i else f.max), 1)
      | none => (f.nan, 1)

/-- The exact sum of two finite values: the sign of an exact zero is given by R37. -/
def FVal.addFin (mode : Rnd) (n1 : Bool) (m1 : Nat) (e1 : Int) (n2 : Bool) (m2 : Nat) (e2 : Int) : FVal :=
  let e := Min.min e1 e2
  let a : Int := (m1 * 2 ^ (e1 - e).toNat : Nat)
  let b : Int := (m2 * 2 ^ (e2 - e).toNat : Nat)
  let s := (if n1 then -a else a) + (if n2 then -b else b)
  if s = 0 then
    if m1 = 0 && m2 = 0 && n1 = n2 then .fin n1 0 0
    else .fin (decide (mode = .rdn)) 0 0
  else .fin (decide (s < 0)) s.natAbs e

/-- The exact sum (R37). -/
def FVal.add (mode : Rnd) : FVal → FVal → FVal
  | .nan, _ => .nan
  | _, .nan => .nan
  | .inf a, .inf b => if a = b then .inf a else .nan
  | .inf a, .fin _ _ _ => .inf a
  | .fin _ _ _, .inf b => .inf b
  | .fin n1 m1 e1, .fin n2 m2 e2 => FVal.addFin mode n1 m1 e1 n2 m2 e2

/-- The value with its sign changed. -/
def FVal.neg : FVal → FVal
  | .nan => .nan
  | .inf a => .inf (!a)
  | .fin n m e => .fin (!n) m e

/-- The exact product. -/
def FVal.mul : FVal → FVal → FVal
  | .nan, _ => .nan
  | _, .nan => .nan
  | .inf a, .inf b => .inf (a != b)
  | .inf a, .fin n m _ => if m = 0 then .nan else .inf (a != n)
  | .fin n m _, .inf b => if m = 0 then .nan else .inf (n != b)
  | .fin n1 m1 e1, .fin n2 m2 e2 => .fin (n1 != n2) (m1 * m2) (e1 + e2)

/-- The value of an f32 pattern. -/
def f32Val (b : Nat) : FVal := fmtF32.value b

/-- Rounds to f32. -/
def roundF32 (mode : Rnd) (v : FVal) : Nat := fmtF32.round mode v

def f32Add (mode : Rnd) (a b : Nat) : Nat := roundF32 mode ((f32Val a).add mode (f32Val b))
def f32Sub (mode : Rnd) (a b : Nat) : Nat := roundF32 mode ((f32Val a).add mode (f32Val b).neg)
def f32Mul (mode : Rnd) (a b : Nat) : Nat := roundF32 mode ((f32Val a).mul (f32Val b))

/-- a × b + c with one rounding (R37). -/
def f32Fma (mode : Rnd) (a b c : Nat) : Nat := roundF32 mode (((f32Val a).mul (f32Val b)).add mode (f32Val c))

/-- Narrows f32 to bf16 (R37). -/
def f32ToBf16 (mode : Rnd) (b : Nat) : Nat := fmtBf16.round mode (f32Val b)

/-- Widens bf16 to f32 (R36). -/
def bf16ToF32 (b : Nat) : Nat := b % 2 ^ 16 * 2 ^ 16

/-- A finite value as a number of 2^-e0, for comparison with another of the same `e0`. -/
def FVal.key (e0 : Int) : FVal → Int
  | .fin neg m e => let k : Int := (m * 2 ^ (e - e0).toNat : Nat); if neg then -k else k
  | _ => 0

/-- a < b for values that are not NaN; zeros are equal. -/
def FVal.lt : FVal → FVal → Bool
  | .nan, _ => false
  | _, .nan => false
  | .inf a, .inf b => a && !b
  | .inf a, .fin _ _ _ => a
  | .fin _ _ _, .inf b => !b
  | .fin n1 m1 e1, .fin n2 m2 e2 =>
    let e := Min.min e1 e2
    decide ((FVal.fin n1 m1 e1).key e < (FVal.fin n2 m2 e2).key e)

/-- The magnitude. -/
def FVal.abs : FVal → FVal
  | .nan => .nan
  | .inf _ => .inf false
  | .fin _ m e => .fin false m e

/-- Float to an integer of `n` bits, saturating; NaN gives 0. The second component is 1 for an input counted as
saturated (R41). -/
def FVal.toInt (mode : Rnd) (signed : Bool) (n : Nat) (v : FVal) : Nat × Nat :=
  let lo : Int := if signed then -(2 ^ (n - 1) : Nat) else 0
  let hi : Int := if signed then (2 ^ (n - 1) : Nat) - 1 else (2 ^ n : Nat) - 1
  match v with
  | .nan => (0, 1)
  | .inf neg => (wrapInt n (if neg then lo else hi), 1)
  | .fin neg m e =>
    let i := roundInt mode neg m e
    if i < lo then (wrapInt n lo, 1) else if hi < i then (wrapInt n hi, 1) else (wrapInt n i, 0)

/-- An integer as a value (R41). -/
def FVal.ofInt (i : Int) : FVal := .fin (decide (i < 0)) i.natAbs 0

/-- The larger magnitude of a list of finite values, as (m, e). -/
def maxMag : List (Nat × Int) → Nat × Int
  | [] => (0, 0)
  | (m, e) :: l =>
    let r := maxMag l
    let e0 := Min.min e r.2
    if r.1 * 2 ^ (r.2 - e0).toNat ≤ m * 2 ^ (e - e0).toNat then (m, e) else r

/-- Step 1 of ToBfp8: a NaN becomes 0 and an infinity 2^128, each counted (R43). -/
def bfpIn : FVal → (Bool × Nat × Int) × Nat
  | .nan => ((false, 0, 0), 1)
  | .inf neg => ((neg, 1, 128), 1)
  | .fin neg m e => ((neg, m, e), 0)

/-- The mantissa of an element under exponent field `e`, and 1 when it was clamped (R43). -/
def bfpMant (mode : Rnd) (e : Int) (x : Bool × Nat × Int) : Int × Nat :=
  let v := roundInt mode x.1 x.2.1 (x.2.2 - (e - 133))
  if 127 < v then (127, 1) else if v < -127 then (-127, 1) else (v, 0)

/-- ToBfp8 (R43): the mantissas, the exponent field and the saturation count. -/
def toBfp8 (mode : Rnd) (xs : List FVal) : List Int × Nat × Nat :=
  let ins := xs.map bfpIn
  let vals := ins.map Prod.fst
  let sat0 := (ins.map Prod.snd).sum
  let mx := maxMag (vals.map Prod.snd)
  if mx.1 = 0 then (xs.map fun _ => 0, 0, sat0)
  else
    let e0 : Int := (Nat.log2 mx.1 : Int) + mx.2 + 127
    let e1 := if 128 ≤ roundMag mode false mx.1 (mx.2 - (e0 - 133)) then e0 + 1 else e0
    let e2 := if e1 < 0 then 0 else if 255 < e1 then 255 else e1
    let ms := vals.map (bfpMant mode e2)
    (ms.map Prod.fst, e2.toNat, sat0 + (ms.map Prod.snd).sum)

/-- The 33 bytes of a block (R42). -/
def bfp8Bytes (ms : List Int) (e : Nat) : List Byte := ms.map (fun m => BitVec.ofInt 8 m) ++ [BitVec.ofNat 8 e]

/-- A mantissa byte read: 0x80 is taken as -127 and counted (R42). -/
def bfpRead (b : Byte) : Int × Nat := if b = 0x80#8 then (-127, 1) else (b.toInt, 0)

/-- The value m × 2^(e - 133) (R42). -/
def bfpVal (m : Int) (e : Nat) : FVal := .fin (decide (m < 0)) m.natAbs ((e : Int) - 133)

/-- The value of a t2 code, and 1 for the code 10 (R44). -/
def t2Val (c : Nat) : Int × Nat := if c % 4 = 1 then (1, 0) else if c % 4 = 3 then (-1, 0) else if c % 4 = 2 then (0, 1) else (0, 0)

/-- Element `i` of a packed array of `w`-bit elements, w = 1, 2, 4 (R33). -/
def packedGet (w : Nat) (bs : List Byte) (i : Nat) : Nat :=
  (bs.getD (i / (8 / w)) 0).toNat / 2 ^ (w * (i % (8 / w))) % 2 ^ w

/-- A byte with one packed element replaced (R33). -/
def packedPut (w : Nat) (old : Byte) (i v : Nat) : Byte :=
  let sh := w * (i % (8 / w))
  BitVec.ofNat 8 (old.toNat - old.toNat / 2 ^ sh % 2 ^ w * 2 ^ sh + v % 2 ^ w * 2 ^ sh)

/-- The bits of one element of a format code; for bfp8 the bits of a whole block (R32). -/
def fmtBits (c : Nat) : Nat :=
  if c = 0x0 ∨ c = 0x1 ∨ c = 0xA ∨ c = 0xB ∨ c = 0xF then 8
  else if c = 0x2 ∨ c = 0x3 ∨ c = 0x9 then 16
  else if c = 0x4 ∨ c = 0x5 ∨ c = 0x8 then 32
  else if c = 0x6 ∨ c = 0x7 then 64
  else if c = 0xC then 264
  else if c = 0xD then 2
  else 4

/-- Is this a floating-point code: f32, bf16, e4m3, e5m2? -/
def fmtIsFloat (c : Nat) : Bool := decide (0x8 ≤ c ∧ c ≤ 0xB)

/-- The value of one float element by format code (R36 to R39). -/
def floatVal (c bits : Nat) : FVal :=
  if c = 0x8 then fmtF32.value bits else if c = 0x9 then fmtBf16.value bits
  else if c = 0xA then fmtE4m3.value bits else fmtE5m2.value bits

/-- The integer value of one element by format code (R35). -/
def intVal (c bits : Nat) : Int :=
  if c % 2 = 0 then sxNat (fmtBits c) bits else ((bits % 2 ^ fmtBits c : Nat) : Int)

end Sys2Proof
end

