-- ==== Sys2Proof/Machine/Mesh.lean ====
section
/-! DEFINITION. The light's meshes: phases, MZIs, screens, attenuators and the code matrix (R46, R225, R228), and the largest singular value of
a block (R230). -/

namespace Sys2Proof.Machine

/-! Phases (R46), in fixed point: a number x stands for x / 2^48. -/

/-- π × 2^48, rounded. -/
def piFix : Int := 884279719003555

/-- The Taylor series of the sine from its term `t` with index `n`, for a square `x2`. -/
def sinTerms : Nat → Nat → Int → Int → Int
  | 0, _, _, _ => 0
  | fuel + 1, n, t, x2 => t + sinTerms fuel (n + 1) (-(t * x2) / (2 ^ 48 * ((2 * n + 2) * (2 * n + 3)))) x2

/-- sin(π k / 65,536) for k up to 32,768. -/
def sinQuarter (k : Nat) : Int :=
  let x := piFix * k / 65536
  sinTerms 14 0 x (x * x / 2 ^ 48)

/-- sin(π k / 65,536) and cos(π k / 65,536). -/
def sinHalf (k : Nat) : Int :=
  let q := k % 131072
  let up (j : Nat) : Int := if j ≤ 32768 then sinQuarter j else sinQuarter (65536 - j)
  if q ≤ 65536 then up q else -(up (q - 65536))
def cosHalf (k : Nat) : Int := sinHalf (k + 32768)

/-! Light (R225). -/

/-- A complex amplitude. -/
structure Cx where
  re : Int
  im : Int
deriving DecidableEq, Repr, Inhabited

def fixMul (a b : Int) : Int := a * b / 2 ^ 48
def Cx.add (a b : Cx) : Cx := ⟨a.re + b.re, a.im + b.im⟩
def Cx.scale (k : Int) (a : Cx) : Cx := ⟨fixMul k a.re, fixMul k a.im⟩

/-- An amplitude turned by the phase of a code: the code c sets 2π × c / 65,536, with the coarse phase and the trim as its digits (R46). -/
def Cx.turn (code : Nat) (a : Cx) : Cx :=
  let c := cosHalf (2 * code)
  let s := sinHalf (2 * code)
  ⟨fixMul c a.re - fixMul s a.im, fixMul c a.im + fixMul s a.re⟩

/-- An MZI with the codes of its internal and external phase. -/
def mzi (theta phi : Nat) (a b : Cx) : Cx × Cx :=
  let s := sinHalf theta
  let c := cosHalf theta
  let at_ := a.turn phi
  ((at_.scale s).add (b.scale c), (at_.scale c).add (b.scale (-s)))

/-- The MZIs of a layer on successive pairs of modes, from mesh MZI number `m`; `code` gives a mesh's codes (R225, R228). -/
def mziPairs (code : Nat → Nat) : Nat → List Cx → List Cx
  | m, a :: b :: rest =>
    let o := mzi (code (2 * m)) (code (2 * m + 1)) a b
    o.1 :: o.2 :: mziPairs code (m + 1) rest
  | _, l => l

/-- Layer `l` of a mesh: an even one on modes (2r, 2r + 1), an odd one on modes (2r + 1, 2r + 2). -/
def meshLayer (code : Nat → Nat) (l : Nat) (v : List Cx) : List Cx :=
  let m := 31 * (l / 2) + 16 * (l % 2)
  if l % 2 = 0 then mziPairs code m v
  else match v with
    | [] => []
    | a :: rest => a :: mziPairs code m rest

/-- The 32 layers of a mesh. -/
def mesh (code : Nat → Nat) (v : List Cx) : List Cx := (List.range 32).foldl (fun v l => meshLayer code l v) v

/-- A screen of phase shifters, and the attenuators, whose code 0 passes 1 and code 0x8000 passes 0. -/
def screen (code : Nat → Nat) (v : List Cx) : List Cx := (List.range 32).map fun i => (v.getD i ⟨0, 0⟩).turn (code i)
def attenuate (code : Nat → Nat) (v : List Cx) : List Cx := (List.range 32).map fun i => (v.getD i ⟨0, 0⟩).scale (cosHalf (code i))

/-- The light of an input through V mesh, V screen, Σ, U mesh and U screen, with the codes in the order of the image (R225, R228). -/
def lightPath (codes : List (BitVec 16)) (v : List Cx) : List Cx :=
  let code (from_ i : Nat) : Nat := (codes.getD (from_ + i) 0#16).toNat
  screen (code 2016) (mesh (code 992) (attenuate (code 2048) (screen (code 1984) (mesh (code 0) v))))

/-- Row i of the code matrix: M_c[i][j] is the real part of B[j][i], as an f32 (R225, R229). The order of evaluation in f32 is open: the model adds
a free error of at most 2^−14 before it rounds. DESIGN CHOICE, safe (log entry 8). -/
def mcRow (codes : List (BitVec 16)) (i : Nat) : List FVal :=
  let out := lightPath codes ((List.range 32).map fun k => if k = i then ⟨2 ^ 48, 0⟩ else ⟨0, 0⟩)
  (List.range 32).map fun j =>
    let v := (out.getD j ⟨0, 0⟩).re + (((Config.meshError codes i j % 2 ^ 35 : Nat) : Int) - 2 ^ 34)
    fmtF32.value (roundF32 .rne (.fin (decide (v < 0)) v.natAbs (-48)))

/-- The code matrix. -/
def mcMatrix (codes : List (BitVec 16)) : List (List FVal) := (List.range 32).map (mcRow codes)

/-- An entry of a matrix of 32 × 32 values. -/
def matAt (m : List (List FVal)) (i j : Nat) : FVal := (m.getD i []).getD j (.fin false 0 0)

/-! The largest singular value (R230). -/

/-- One step of fraction-free elimination on a symmetric integer matrix: the rows below the pivot row. -/
def schurRow (pivot prev : Int) (prow row : List Int) : List Int :=
  match row with
  | [] => []
  | a :: as => List.zipWith (fun x y => (pivot * x - a * y) / prev) as prow

/-- A symmetric integer matrix is positive semidefinite; `prev` is the pivot before. -/
def psd : Nat → Int → List (List Int) → Bool
  | 0, _, _ => true
  | n + 1, prev, m => match m with
    | [] => true
    | [] :: _ => true
    | (p :: prow) :: rest =>
      if p < 0 then false
      else if p = 0 then prow.all (fun x => decide (x = 0)) && psd n prev (rest.map (List.drop 1))
      else psd n p (rest.map (schurRow p prev prow))

/-- The least exponent of the finite values of a block. -/
def leastExp (w : List FVal) : Int := w.foldl (fun e v => match v with
  | .fin _ m k => if m = 0 then e else if k < e then k else e
  | _ => e) 200

/-- A value as a multiple of 2^e. -/
def asInt (e : Int) : FVal → Int
  | .fin n m k => (if n then -1 else 1) * (m * 2 ^ (k - e).toNat : Nat)
  | _ => 0

/-- The Gram matrix of a block of 32 × 32 integers. -/
def gram (w : List Int) : List (List Int) :=
  (List.range 32).map fun a => (List.range 32).map fun b =>
    ((List.range 32).map fun i => w.getD (32 * i + a) 0 * w.getD (32 * i + b) 0).foldl (· + ·) 0

/-- No singular value of the block with Gram matrix `g` exceeds 2^t. -/
def sigmaWithin (g : List (List Int)) (t : Nat) : Bool :=
  psd 32 1 ((List.range 32).map fun a => (List.range 32).map fun b => (if a = b then 4 ^ t else 0) - (g.getD a []).getD b 0)

/-- The first t from `t` on for which it holds. -/
def sigmaExp (g : List (List Int)) : Nat → Nat → Nat
  | 0, t => t
  | fuel + 1, t => if sigmaWithin g t then t else sigmaExp g fuel (t + 1)

/-- auto: Ceil(Log2(σ_max)) of a block of finite values, 0 for a zero block (R230). -/
def autoExp (w : List FVal) : Int :=
  let e := leastExp w
  let ws := w.map (asInt e)
  if ws.all fun x => decide (x = 0) then 0 else e + (sigmaExp (gram ws) 1024 0 : Nat)

end Sys2Proof.Machine
end

