-- ==== Sys2Proof/Machine/Regs.lean ====
section
/-! DEFINITION. The control register space (R337): which numbers are assigned, which bits of each register a
write changes (R7), whether the register is privileged, and its reset value, as the registers' field maps give them. -/

namespace Sys2Proof

/-- One row of the register maps: `count` registers at `lo`, `lo + step`, ...; the bits of RW and RW-P fields, the bits of
W1C fields, whether any field is RW-P (R7), and the reset value of the stated fields. -/
structure RegRow where
  lo : Nat
  count : Nat
  step : Nat
  rw : Nat
  w1c : Nat
  priv : Bool
  reset : Nat
deriving DecidableEq, Repr

/-- The row covers register number `n`. -/
def RegRow.covers (r : RegRow) (n : Nat) : Bool :=
  decide (r.lo ≤ n) && decide ((n - r.lo) % r.step = 0) && decide ((n - r.lo) / r.step < r.count)

/-- The thread registers. -/
def threadRows : List RegRow :=
  [⟨0x000, 1, 1, 0x0, 0x0, false, 0x1⟩,  -- THR_STATUS (R202)
   ⟨0x001, 1, 1, 0x0, 0x0, false, 0x0⟩,  -- THR_PC (R202)
   ⟨0x002, 1, 1, 0x0, 0x0, false, 0x1⟩,  -- THR_FULL (R202)
   ⟨0x003, 1, 1, 0x0, 0x0, false, 0x0⟩,  -- THR_POISON (R202)
   ⟨0x004, 1, 1, 0x0, 0x0, false, 0x0⟩,  -- THR_PEND (R202)
   ⟨0x005, 1, 1, 0xFFFFFFFFFFFFFFFF, 0x0, false, 0x0⟩,  -- THR_ISSUED (R202)
   ⟨0x006, 1, 1, 0xFFFFFFFFFFFFFFFF, 0x0, false, 0x0⟩,  -- THR_PARKED (R202)
   ⟨0x007, 1, 1, 0x0, 0x0, false, 0x0⟩,  -- THR_ID (R202)
   ⟨0x010, 1, 1, 0x800000FFFFF7FFFF, 0x0, false, 0x0⟩,  -- THR_BSR_BASE (R202)
   ⟨0x011, 1, 1, 0x7FFFFF, 0x0, false, 0x0⟩,  -- THR_BSR_CUR (R202)
   ⟨0x012, 1, 1, 0x800000FFFFF7FFFF, 0x0, false, 0x0⟩,  -- THR_BSW_BASE (R202)
   ⟨0x013, 1, 1, 0x7FFFFF, 0x0, false, 0x0⟩,  -- THR_BSW_CUR (R202)
   ⟨0x014, 1, 1, 0x0, 0x0, false, 0x0⟩,  -- THR_TFW (R202)
   ⟨0x040, 1, 1, 0xFFFFFFFFFFFFFFF, 0x0, false, 0x0⟩,  -- THR_XCNT (R178)
   ⟨0x041, 1, 1, 0xFFFFFFFFFFFFFFFF, 0x0, false, 0x0⟩,  -- THR_XSSTR (R178)
   ⟨0x042, 1, 1, 0xFFFFFFFFFFFFFFFF, 0x0, false, 0x0⟩,  -- THR_XDSTR (R178)
   ⟨0x043, 1, 1, 0xFFFFFFFFFFFFFFFF, 0x0, false, 0x0⟩,  -- THR_XFMT (R178)
   ⟨0x044, 1, 1, 0xFFFFFFFFFFFFFFFF, 0x0, false, 0x0⟩,  -- THR_XSTAMP (R178)
   ⟨0x045, 1, 1, 0xFFFFFFFFFFFFFFFF, 0x0, false, 0x0⟩,  -- THR_XCB (R178)
   ⟨0x046, 1, 1, 0xFFFFFFFFFFFFFFFF, 0x0, false, 0x0⟩,  -- THR_XIDX (R178)
   ⟨0x047, 1, 1, 0xFFFFFFFFFFFFFFFF, 0x0, false, 0x0⟩,  -- THR_XFILLV (R178)
   ⟨0x048, 1, 1, 0xFFFFFFFFFFFFFFFF, 0x0, false, 0x0⟩,  -- THR_XSKIP (R178)
   ⟨0x049, 1, 1, 0xFFFFFFFF, 0x0, false, 0x0⟩,  -- THR_XSEQ (R178)
   ⟨0x04A, 1, 1, 0x0, 0x0, false, 0x0⟩,  -- THR_XFIDX (R178)
   ⟨0x04B, 1, 1, 0x0, 0x0, false, 0x0⟩,  -- THR_XFADDR (R178)
   ⟨0x04C, 1, 1, 0x0, 0x0, false, 0x0⟩,  -- THR_XSRCB (R178)
   ⟨0x050, 4, 4, 0xFFFFFFFFFFFFFFFF, 0x0, false, 0x0⟩,  -- THR_STRs_0 (R178)
   ⟨0x051, 4, 4, 0xFFFFFFFFFFFFFFFF, 0x0, false, 0x0⟩,  -- THR_STRs_1 (R178)
   ⟨0x052, 4, 4, 0xFFFFFFFFFFFFFFFF, 0x0, false, 0x0⟩,  -- THR_STRs_2 (R178)
   ⟨0x053, 4, 4, 0xF000000FFFFFF, 0x0, false, 0x0⟩,  -- THR_STRs_3 (POS is RO) (R178)
   ⟨0x060, 8, 2, 0xFFFFFFFFFFFFFFFF, 0x0, false, 0x0⟩,  -- THR_VEn_BASE (R206)
   ⟨0x061, 8, 2, 0x80FC0000FFFFFFFF, 0x0, false, 0x0⟩,  -- THR_VEn_CFG (R206)
   ⟨0x070, 1, 1, 0xFFFFFF, 0x0, false, 0x0⟩,  -- THR_VLEN (R206)
   ⟨0x071, 1, 1, 0xFFFFFFFFFFFFFFFF, 0x0, false, 0x0⟩,  -- THR_VFMT (R206)
   ⟨0x072, 1, 1, 0xFFFFFFFFFFFFFFFF, 0x0, false, 0x0⟩,  -- THR_VSTAMP (R206)
   ⟨0x073, 1, 1, 0xFFFFFFFF, 0x0, false, 0x0⟩,  -- THR_VSEQ (R206)
   ⟨0x074, 1, 1, 0x0, 0x0, false, 0x0⟩,  -- THR_VFIDX (R206)
   ⟨0x075, 1, 1, 0x0, 0x0, false, 0x0⟩,  -- THR_VFADDR (R206)
   ⟨0x076, 1, 1, 0xFFFFFFFFFFFFFFFF, 0x0, false, 0x0⟩,  -- THR_VSATN (R206)
   ⟨0x077, 1, 1, 0xFFFFFFFFFFFFFFFF, 0x0, false, 0x0⟩,  -- THR_VCBMON (R206)
   ⟨0x078, 1, 1, 0x80FFFFFFFFFFFFFF, 0x0, false, 0x0⟩,  -- THR_VCBCFG (R206)
   ⟨0x080, 1, 1, 0x3FFFFFFFFFC, 0x0, true, 0x0⟩,  -- THR_TPC (R336)
   ⟨0x081, 1, 1, 0x7F, 0x0, true, 0x0⟩,  -- THR_TCAUSE (R336)
   ⟨0x082, 1, 1, 0xFFFFFFFFFFFFFFFF, 0x0, true, 0x0⟩,  -- THR_TVAL (R336)
   ⟨0x083, 1, 1, 0x1F, 0x0, true, 0x0⟩,  -- THR_TSTAT (R336)
   ⟨0x084, 1, 1, 0x3FFFFFFFFFC, 0x0, true, 0x0⟩,  -- THR_TVEC (R336)
   ⟨0x085, 1, 1, 0xFFF, 0x0, true, 0x0⟩,  -- THR_ASID (R336)
   ⟨0x086, 2, 2, 0xFFFFFFFFFFFFFFFF, 0x0, true, 0x0⟩,  -- THR_KSEGn_LO (R336)
   ⟨0x087, 2, 2, 0xFFFFFFFFF, 0x0, true, 0x0⟩,  -- THR_KSEGn_HI (R336)
   ⟨0x08C, 4, 1, 0xFFFFFFFFFFFFFFFF, 0x0, true, 0x0⟩,  -- THR_TSCRn (R336)
   ⟨0x0C0, 8, 2, 0xFFFFFFFFFFFFFFFF, 0x0, true, 0x0⟩,  -- THR_SEGn_LO (R135)
   ⟨0x0C1, 8, 2, 0xFFFFFFFFF, 0x0, true, 0x0⟩,  -- THR_SEGn_HI (R135)
   ⟨0x0D0, 1, 1, 0xFFFFFFFF00000000, 0x0, true, 0x0⟩]  -- THR_HOP (R135)

/-- The core registers. -/
def coreRows : List RegRow :=
  [⟨0x100, 1, 1, 0x0, 0x0, false, 0xF⟩,  -- CORE_LMPWR (R155)
   ⟨0x101, 1, 1, 0xC3C3C3C3, 0x0, true, 0x0⟩,  -- CORE_LMQMAP (R155)
   ⟨0x102, 1, 1, 0xFFFF00FF, 0x0, true, 0x1000040⟩,  -- CORE_FERETRY (R155)
   ⟨0x103, 1, 1, 0x800000000007FFF8, 0x0, true, 0x0⟩,  -- CORE_FEWT (R155)
   ⟨0x104, 1, 1, 0xFFFFFFFF00000000, 0x0, true, 0x0⟩,  -- CORE_FESTAT (R155)
   ⟨0x105, 1, 1, 0xFFFF00FF, 0x0, true, 0x800010⟩,  -- CORE_HOPCFG (R155)
   ⟨0x106, 1, 1, 0xFFFFFFFF00000000, 0x0, true, 0x0⟩,  -- CORE_HOPSTAT (R155)
   ⟨0x108, 8, 1, 0xFFFFFFF80007FFC0, 0x0, true, 0x0⟩,  -- CORE_SPRn (R155)
   ⟨0x120, 16, 1, 0xFFFFFFFFFFFFFFFF, 0x0, true, 0x0⟩,  -- CORE_VBSRq_k (R155)
   ⟨0x140, 1, 1, 0x0, 0x0, false, 0x0⟩,  -- CORE_DIR_STAT (R122)
   ⟨0x141, 1, 1, 0x0, 0x0, false, 0x0⟩,  -- CORE_DIR_OVF (R122)
   ⟨0x142, 1, 1, 0xFFFFFFFF00000000, 0x0, true, 0x0⟩,  -- CORE_DIR_CMD (R122)
   ⟨0x143, 1, 1, 0xFFFFFFFFFFFFFFFF, 0x0, true, 0x0⟩,  -- CORE_ROC (R122)
   ⟨0x148, 1, 1, 0x0, 0x0, false, 0x0⟩,  -- CORE_PJ_STAT (R122)
   ⟨0x149, 1, 1, 0x3F, 0x0, true, 0x0⟩,  -- CORE_PJ_SEL (R122)
   ⟨0x14A, 1, 1, 0x0, 0x0, false, 0x0⟩,  -- CORE_PJ_ENT (R122)
   ⟨0x14B, 1, 1, 0x0, 0x0, false, 0x0⟩,  -- CORE_PJ_DATA (R122)
   ⟨0x14C, 1, 1, 0x3F, 0x0, true, 0x0⟩,  -- CORE_PJ_REL (R122)
   ⟨0x14D, 1, 1, 0x0, 0x0, false, 0x0⟩,  -- CORE_PJ_DATAH (R122)
   ⟨0x150, 16, 1, 0x0, 0x0, false, 0x0⟩,  -- CORE_NIDn (R122)
   ⟨0x160, 1, 1, 0x7FE00, 0x0, true, 0x0⟩,  -- CORE_AMR_BASE (R122)
   ⟨0x161, 1, 1, 0xFFFFFFFF0000007F, 0x0, true, 0x0⟩,  -- CORE_AMR_CFG (R122)
   ⟨0x162, 1, 1, 0x7F800, 0x0, true, 0x0⟩,  -- CORE_MVT_BASE (R122)
   ⟨0x180, 1, 1, 0x1, 0x0, true, 0x0⟩,  -- CORE_XFORM (R308)
   ⟨0x181, 1, 1, 0xFFFFFFFF, 0x0, true, 0x0⟩,  -- CORE_SLOTCLS (R308)
   ⟨0x182, 1, 1, 0x0, 0x0, false, 0x2222222222222222⟩,  -- CORE_SLOTST (R308)
   ⟨0x183, 1, 1, 0x0, 0x0, false, 0x0⟩,  -- CORE_PIN (R308)
   ⟨0x184, 1, 1, 0x0, 0xFFFF, false, 0x0⟩,  -- CORE_WAKE (R308)
   ⟨0x185, 1, 1, 0xF, 0x0, false, 0x0⟩,  -- CORE_GANGSEL (R308)
   ⟨0x186, 1, 1, 0x0, 0x0, false, 0x0⟩,  -- CORE_GANGINFO (R308)
   ⟨0x190, 16, 1, 0xFFFF, 0x0, false, 0x0⟩,  -- CORE_SEMn (R308)
   ⟨0x1A0, 32, 1, 0x0, 0x0, false, 0x0⟩,  -- CORE_Qn_* (R308)
   ⟨0x1C0, 1, 1, 0xF, 0x0, true, 0xE⟩,  -- CORE_SVC (R348)
   ⟨0x1C1, 1, 1, 0xFFFFFFFF00000000, 0x100, true, 0x0⟩,  -- CORE_EVQ (R348)
   ⟨0x1C2, 1, 1, 0x1, 0x0, true, 0x0⟩,  -- CORE_DBG (R348)
   ⟨0x1C3, 1, 1, 0x3FF, 0x0, true, 0x0⟩,  -- CORE_DBGSEL (R348)
   ⟨0x1C4, 1, 1, 0xFFFFFFFFFFFFFFFF, 0x0, true, 0x0⟩,  -- CORE_DBGDAT (R348)
   ⟨0x1C8, 1, 1, 0xFFFFFFFFFFFFFFFF, 0x0, true, 0x0⟩,  -- CORE_GSW_TIME (R348)
   ⟨0x1C9, 1, 1, 0xC000000000000FFF, 0x0, true, 0x0⟩,  -- CORE_GSW_CTL (R348)
   ⟨0x1CA, 1, 1, 0xFFFFFFFFFF0000, 0x0, true, 0x0⟩]  -- CORE_GSW_AREA (R348)

/-- The cluster registers. -/
def clusterRows : List RegRow :=
  [⟨0x200, 1, 1, 0xFFFFFFFFFFFFFFFF, 0x0, true, 0x0⟩,  -- CL_CSP_ERR (R179)
   ⟨0x201, 1, 1, 0x3F, 0x0, false, 0x0⟩,  -- CL_TILE_SEL (R179)
   ⟨0x202, 1, 1, 0x0, 0x0, false, 0x0⟩,  -- CL_TILE_ENT (R179)
   ⟨0x203, 1, 1, 0x0, 0x0, false, 0x0⟩,  -- CL_TILE_CNT (R179)
   ⟨0x204, 1, 1, 0x0, 0xFFFFFFFFFFFFFFFF, false, 0x0⟩,  -- CL_TILE_OVR (R179)
   ⟨0x240, 1, 1, 0xFFFFFFFF00000000, 0x0, true, 0x0⟩,  -- CL_DSP_STAT (R326)
   ⟨0x241, 1, 1, 0xFFFFFFFF, 0x0, true, 0xFA00⟩,  -- CL_DSP_AGE (R326)
   ⟨0x242, 1, 1, 0x7, 0x0, false, 0x0⟩,  -- CL_DSP_SEL (R326)
   ⟨0x243, 1, 1, 0x0, 0x0, false, 0x0⟩,  -- CL_DSP_ENT (R326)
   ⟨0x244, 1, 1, 0x0, 0x0, false, 0x0⟩,  -- CL_DSP_LEFT (R326)
   ⟨0x245, 1, 1, 0xFFFFFFFF00000000, 0x0, true, 0x0⟩,  -- CL_THERM (R326)
   ⟨0x250, 1, 1, 0x1, 0x0, true, 0x1⟩,  -- CL_MP_CTL (R65)
   ⟨0x251, 1, 1, 0x0, 0x0, false, 0xFFFF0000⟩,  -- CL_TLBQ (R65)
   ⟨0x252, 1, 1, 0xFFFFFFFFFFFFFFFF, 0x0, true, 0x0⟩,  -- CL_MP_MISS (R65)
   ⟨0x258, 8, 2, 0x80010FFF, 0x0, true, 0x0⟩,  -- CL_ASn_CFG (R65)
   ⟨0x259, 8, 2, 0xFFFFFFFFFFFFE0, 0x0, true, 0x0⟩,  -- CL_ASn_ROOT (R65)
   ⟨0x280, 1, 1, 0x0, 0x0, false, 0x0⟩,  -- CL_OMU_STAT (R244)
   ⟨0x281, 1, 1, 0xFFC000FF, 0x0, true, 0x80000000⟩,  -- CL_OMU_BIND (R244)
   ⟨0x282, 1, 1, 0x0, 0x0, false, 0x0⟩,  -- CL_OMU_EBC (R244)
   ⟨0x283, 1, 1, 0x1FFF00, 0x0, true, 0xC1000⟩,  -- CL_OMU_PCFG (R244)
   ⟨0x284, 1, 1, 0xFFFFFFFF00000000, 0x0, true, 0x0⟩,  -- CL_OMU_PROBE (R244)
   ⟨0x285, 1, 1, 0xFFFF00000000, 0x0, true, 0x555F00000000⟩,  -- CL_OMU_TEMP (R244)
   ⟨0x286, 1, 1, 0xFFFFFFFFFFFFFFFF, 0x0, true, 0x0⟩,  -- CL_OMU_SYM (R244)
   ⟨0x287, 1, 1, 0xFFFFFFFFFFFFFFFF, 0x0, true, 0x0⟩,  -- CL_OMU_SAT (R244)
   ⟨0x288, 1, 1, 0xFFFFFFFFFFFFFFFF, 0x0, true, 0x0⟩,  -- CL_OMU_EVT (R244)
   ⟨0x290, 16, 1, 0xFFFFFFFFFFFFFFFF, 0x0, true, 0x3F8000003F800000⟩,  -- CL_OMU_GAINp (R244)
   ⟨0x2A0, 1, 1, 0xFFFFFFFF00000000, 0x0, true, 0x0⟩,  -- CL_DCE_STAT (R244)
   ⟨0x2C0, 1, 1, 0x0, 0x0, false, 0xFFFFFFFF⟩,  -- CL_MX_MASK (R266)
   ⟨0x2C1, 1, 1, 0x0, 0x0, false, 0x0⟩,  -- CL_MX_CFG (R266)
   ⟨0x2C2, 1, 1, 0x0, 0x0, false, 0x0⟩,  -- CL_MX_STAMP (R266)
   ⟨0x2C3, 1, 1, 0xFFFFFFFF00000000, 0x0, true, 0x0⟩,  -- CL_MX_QSTAT (R266)
   ⟨0x2C4, 2, 1, 0x0, 0x4000000000000000, false, 0x0⟩,  -- CL_MX_ACCb (R266)
   ⟨0x2C6, 1, 1, 0x0, 0x8000000000000000, false, 0x0⟩,  -- CL_MX_ERR (R266)
   ⟨0x2C7, 1, 1, 0x8000FF3FFFFFFFFF, 0x0, true, 0x20000F4240⟩,  -- CL_MX_GRP (R266)
   ⟨0x2C8, 1, 1, 0x0, 0x80000000, false, 0x0⟩]  -- CL_MX_GSTAT (R266)

/-- The tower registers. -/
def towerRows : List RegRow :=
  [⟨0x300, 1, 1, 0x1, 0x0, true, 0x1⟩,  -- TWR_SC_CTL (R94)
   ⟨0x301, 1, 1, 0x0, 0x0, false, 0x0⟩,  -- TWR_SC_CAP (R94)
   ⟨0x302, 1, 1, 0x0, 0x0, false, 0x0⟩,  -- TWR_SC_SHAD (R94)
   ⟨0x303, 1, 1, 0xFFFFFFFFFFFFFFFF, 0x0, true, 0x0⟩,  -- TWR_SC_SHARE (R94)
   ⟨0x304, 1, 1, 0xFFFFFFFFFFFFFFFF, 0x0, true, 0x0⟩,  -- TWR_SC_UNSH (R94)
   ⟨0x308, 4, 2, 0x1FF, 0x0, true, 0x0⟩,  -- TWR_SC_DMSELn (R94)
   ⟨0x309, 4, 2, 0x0, 0x0, false, 0x0⟩,  -- TWR_SC_DMCNTn (R94)
   ⟨0x340, 16, 1, 0xFFFFFFFFFF0000, 0x0, true, 0x0⟩,  -- TWR_SNRn_BASE (R94)
   ⟨0x350, 16, 1, 0xFFFFFFFFFF0000, 0x0, true, 0x0⟩,  -- TWR_SNRn_LIM (R94)
   ⟨0x360, 16, 1, 0x80000FFF, 0x0, true, 0x0⟩,  -- TWR_SNRn_CFG (R94)
   ⟨0x370, 1, 1, 0xFFFFFFFFFF0000, 0x0, true, 0x0⟩,  -- TWR_SPOOL_BASE (R94)
   ⟨0x371, 1, 1, 0xFFFFFFFF, 0x0, true, 0x0⟩,  -- TWR_SPOOL_SIZE (R94)
   ⟨0x372, 1, 1, 0xFFFFFFFF00000000, 0x0, true, 0x0⟩,  -- TWR_SPOOL_USE (R94)
   ⟨0x373, 1, 1, 0xFFFF, 0x0, true, 0x100⟩,  -- TWR_SNAP_SWEEP (R94)
   ⟨0x380, 4, 1, 0x0, 0x0, false, 0x0⟩,  -- TWR_PHASEp (R123)
   ⟨0x388, 1, 1, 0xFFFFFFFF, 0x0, true, 0x0⟩,  -- TWR_NET_REPLAY (R123)
   ⟨0x390, 1, 1, 0xFFFFFFFFFF0000, 0x0, true, 0x0⟩,  -- TWR_FALL_BASE (R349)
   ⟨0x391, 1, 1, 0xFFFFFFFF, 0x0, true, 0x0⟩,  -- TWR_FALL_SIZE (R349)
   ⟨0x392, 1, 1, 0xFFFFFFFF00000000, 0x0, true, 0x0⟩,  -- TWR_FALL_STAT (R349)
   ⟨0x3C0, 1, 1, 0xFFFFFFFF00000000, 0x0, true, 0x0⟩,  -- TWR_CLE_STAT (R180)
   ⟨0x3C1, 1, 1, 0x1F, 0x0, true, 0x8⟩,  -- TWR_CLE_SHARE (R180)
   ⟨0x3C2, 1, 1, 0x0, 0x8000000000000000, false, 0x0⟩,  -- TWR_CLE_FAULT (R180)
   ⟨0x3D0, 1, 1, 0xFFFFFFFFFFF000, 0x0, true, 0x0⟩,  -- TWR_LVL_BASE (R326)
   ⟨0x3D1, 1, 1, 0xFFFFFFFF, 0x0, true, 0x0⟩,  -- TWR_LVL_SIZE (R326)
   ⟨0x3D2, 1, 1, 0xFFFFFFFF00000000, 0x0, true, 0x0⟩,  -- TWR_LVL_HOLD (R326)
   ⟨0x3D3, 1, 1, 0xFFFFFFFF, 0x0, true, 0x645F5A50⟩,  -- TWR_THERM (R326)
   ⟨0x3D4, 1, 1, 0xFFFFFFFFFFFFFFFF, 0x0, true, 0x0⟩]  -- TWR_NPR (R326)

/-- The module registers. -/
def modulRows : List RegRow :=
  [⟨0x400, 1, 1, 0x6, 0x0, true, 0x2⟩,  -- MOD_HU_CTL (R362)
   ⟨0x401, 1, 1, 0x0, 0x0, false, 0x0⟩,  -- MOD_HU_CAP (R362)
   ⟨0x402, 1, 1, 0xFFF, 0x0, true, 0x0⟩,  -- MOD_HU_QSEL (R362)
   ⟨0x403, 1, 1, 0x3FFF, 0x0, true, 0x0⟩,  -- MOD_HU_QDAT (R362)
   ⟨0x404, 1, 1, 0x0, 0x0, false, 0x0⟩,  -- MOD_HU_LAST (R362)
   ⟨0x440, 1, 1, 0x0, 0xFFFF, false, 0x0⟩,  -- MOD_REL_ADV (R376)
   ⟨0x441, 1, 1, 0x7FF00000000, 0x0, true, 0x0⟩,  -- MOD_REL_SEL (R376)
   ⟨0x442, 1, 1, 0x3FFFFFFFF, 0x0, true, 0x0⟩,  -- MOD_REL_CORE (R376)
   ⟨0x443, 3, 1, 0xFFFFFFFFFFFFFFFF, 0x0, true, 0x0⟩,  -- MOD_REL_OMUk (R376)
   ⟨0x446, 1, 1, 0xFC00FF000003FFFF, 0x0, true, 0x0⟩,  -- MOD_RSP_CMD (R376)
   ⟨0x447, 1, 1, 0xFFFFFFFF, 0x0, true, 0x0⟩,  -- MOD_RSP_STAT (R376)
   ⟨0x448, 1, 1, 0xFFFFFFFF00FFFFFF, 0x0, true, 0x10040⟩,  -- MOD_REL_SCRUB (R376)
   ⟨0x480, 16, 1, 0x3F9, 0x0, true, 0x19⟩,  -- MOD_LNK_CFGp (R387)
   ⟨0x490, 16, 1, 0xFFFFFFFF00000000, 0x0, true, 0xF0000⟩,  -- MOD_LNK_STATp (R387)
   ⟨0x4A0, 16, 1, 0x0, 0x0, false, 0x0⟩,  -- MOD_LNK_CLAIMp (R387)
   ⟨0x4B0, 1, 1, 0xFF, 0x0, true, 0x0⟩,  -- MOD_LNK_RTSEL (R387)
   ⟨0x4B1, 1, 1, 0x800000000000000F, 0x0, true, 0x0⟩,  -- MOD_LNK_RTENT (R387)
   ⟨0x4B2, 1, 1, 0xFF, 0x0, true, 0x0⟩,  -- MOD_LNK_PKG (R387)
   ⟨0x4B3, 1, 1, 0x3FFFFFFFFFFFFF, 0x0, true, 0x38DF6D74CF2C70⟩,  -- MOD_LNK_LMAP (R387)
   ⟨0x4C0, 1, 1, 0x0, 0x1F, false, 0x0⟩,  -- MOD_HOST_EVT (R397)
   ⟨0x4C1, 1, 1, 0xFFFFFFFF, 0x0, true, 0x0⟩,  -- MOD_HOST_LSTAT (R397)
   ⟨0x4C2, 1, 1, 0x0, 0x0, false, 0x0⟩,  -- MOD_BOOT (R397)
   ⟨0x4C3, 1, 1, 0x800003FFFFFFFFFF, 0x0, true, 0x0⟩,  -- MOD_ATT_CMD (R397)
   ⟨0x4C4, 1, 1, 0x0, 0x0, false, 0x0⟩,  -- MOD_ATT_STAT (R397)
   ⟨0x4C5, 1, 1, 0x0, 0x0, false, 0x0⟩]  -- MOD_ATT_VER (R397)

/-- The rows of the block that a number belongs to (R337). -/
def rowsOf (n : Nat) : List RegRow :=
  if n < 0x100 then threadRows
  else if n < 0x200 then coreRows
  else if n < 0x300 then clusterRows
  else if n < 0x400 then towerRows
  else modulRows

/-- The row of an assigned register. -/
def regRow (n : Nat) : Option RegRow := (rowsOf n).find? fun r => r.covers n

/-- The number is assigned (R16, R337). -/
def assignedReg (n : Nat) : Bool := (regRow n).isSome

/-- The register holds an RW-P field (R7, R20). -/
def privReg (n : Nat) : Bool := ((regRow n).map RegRow.priv).getD false

/-- The bits that a write replaces: the RW and RW-P fields (R7). -/
def regMask (n : Nat) : Word := BitVec.ofNat 64 (((regRow n).map RegRow.rw).getD 0)

/-- The bits that a written 1 clears (R7). -/
def regW1C (n : Nat) : Word := BitVec.ofNat 64 (((regRow n).map RegRow.w1c).getD 0)

/-- The reset value of the stated fields. -/
def regReset (n : Nat) : Word := BitVec.ofNat 64 (((regRow n).map RegRow.reset).getD 0)

/-- A write of `v` over `old`, field by field (R7, R8): RW fields take the value, W1C fields clear, the rest stays. -/
def regMerge (n : Nat) (old v : Word) : Word :=
  ((old &&& ~~~(regMask n)) ||| (v &&& regMask n)) &&& ~~~(v &&& regW1C n)

end Sys2Proof
end

