-- ==== Sys2Proof/Decode.lean ====
section
/-! DEFINITION. Decoding of instruction words, and after it the encoder (R12 to R20). A word either decodes, or is
refused as an illegal opcode (cause 0x01) or as a reserved function (cause 0x02), as R16 gives. -/

namespace Sys2Proof

/-- Why a word does not decode (R16). -/
inductive DecodeError where
  /-- Cause 0x01: the major opcode is not assigned. -/
  | illegal
  /-- Cause 0x02: an unassigned function, condition, modifier or control register, or a nonzero unused field. -/
  | reserved
  /-- Fewer than four bytes were given. -/
  | short
deriving DecidableEq, Repr

/-- The R12 fields of a word. -/
def fOp (w : BitVec 32) : BitVec 7 := w.extractLsb' 25 7
def fD (w : BitVec 32) : BitVec 5 := w.extractLsb' 20 5
def fA (w : BitVec 32) : BitVec 5 := w.extractLsb' 15 5
def fB (w : BitVec 32) : BitVec 5 := w.extractLsb' 10 5
def fT9 (w : BitVec 32) : Bool := w.getLsbD 9
def fFn9 (w : BitVec 32) : BitVec 9 := w.extractLsb' 0 9
def fT14 (w : BitVec 32) : Bool := w.getLsbD 14
def fImm14 (w : BitVec 32) : BitVec 14 := w.extractLsb' 0 14
def fSeg (w : BitVec 32) : BitVec 3 := w.extractLsb' 11 3
def fOff11 (w : BitVec 32) : BitVec 11 := w.extractLsb' 0 11
def fCond (w : BitVec 32) : BitVec 3 := w.extractLsb' 12 3
def fOff12 (w : BitVec 32) : BitVec 12 := w.extractLsb' 0 12
def fOff20 (w : BitVec 32) : BitVec 20 := w.extractLsb' 0 20

/-- A FENCE scope is 0 to 4 (R19). -/
def scopeOk (c : BitVec 3) : Bool := decide (c.toNat ≤ 4)


/-- Opcode 0x01. -/
def decodeOp01 (w : BitVec 32) : Except DecodeError Instr :=
  if fFn9 w = 0#9 then .ok (.add (fD w) (fA w) (fB w) (fT9 w))
  else if fFn9 w = 1#9 then .ok (.sub (fD w) (fA w) (fB w) (fT9 w))
  else if fFn9 w = 2#9 then .ok (.and (fD w) (fA w) (fB w) (fT9 w))
  else if fFn9 w = 3#9 then .ok (.or (fD w) (fA w) (fB w) (fT9 w))
  else if fFn9 w = 4#9 then .ok (.xor (fD w) (fA w) (fB w) (fT9 w))
  else if fFn9 w = 5#9 then .ok (.andn (fD w) (fA w) (fB w) (fT9 w))
  else if fFn9 w = 6#9 then .ok (.orn (fD w) (fA w) (fB w) (fT9 w))
  else if fFn9 w = 7#9 then .ok (.sll (fD w) (fA w) (fB w) (fT9 w))
  else if fFn9 w = 8#9 then .ok (.srl (fD w) (fA w) (fB w) (fT9 w))
  else if fFn9 w = 9#9 then .ok (.sra (fD w) (fA w) (fB w) (fT9 w))
  else if fFn9 w = 10#9 then .ok (.slt (fD w) (fA w) (fB w) (fT9 w))
  else if fFn9 w = 11#9 then .ok (.sltn (fD w) (fA w) (fB w) (fT9 w))
  else if fFn9 w = 12#9 then .ok (.min (fD w) (fA w) (fB w) (fT9 w))
  else if fFn9 w = 13#9 then .ok (.max (fD w) (fA w) (fB w) (fT9 w))
  else if fFn9 w = 14#9 then .ok (.minn (fD w) (fA w) (fB w) (fT9 w))
  else if fFn9 w = 15#9 then .ok (.maxn (fD w) (fA w) (fB w) (fT9 w))
  else .error .reserved

/-- Opcode 0x02. -/
def decodeOp02 (w : BitVec 32) : Except DecodeError Instr :=
  if fFn9 w = 0#9 then .ok (.addw (fD w) (fA w) (fB w) (fT9 w))
  else if fFn9 w = 1#9 then .ok (.subw (fD w) (fA w) (fB w) (fT9 w))
  else if fFn9 w = 2#9 then .ok (.sllw (fD w) (fA w) (fB w) (fT9 w))
  else if fFn9 w = 3#9 then .ok (.srlw (fD w) (fA w) (fB w) (fT9 w))
  else if fFn9 w = 4#9 then .ok (.sraw (fD w) (fA w) (fB w) (fT9 w))
  else .error .reserved

/-- Opcode 0x03. -/
def decodeOp03 (w : BitVec 32) : Except DecodeError Instr :=
  if fFn9 w = 0#9 then .ok (.mul (fD w) (fA w) (fB w) (fT9 w))
  else if fFn9 w = 1#9 then .ok (.mulh (fD w) (fA w) (fB w) (fT9 w))
  else if fFn9 w = 2#9 then .ok (.mulhn (fD w) (fA w) (fB w) (fT9 w))
  else if fFn9 w = 3#9 then .ok (.div (fD w) (fA w) (fB w) (fT9 w))
  else if fFn9 w = 4#9 then .ok (.divn (fD w) (fA w) (fB w) (fT9 w))
  else if fFn9 w = 5#9 then .ok (.rem (fD w) (fA w) (fB w) (fT9 w))
  else if fFn9 w = 6#9 then .ok (.remn (fD w) (fA w) (fB w) (fT9 w))
  else .error .reserved

/-- Opcode 0x04. -/
def decodeOp04 (w : BitVec 32) : Except DecodeError Instr :=
  if fB w = 0#5 ∧ fFn9 w = 0#9 then .ok (.clz (fD w) (fA w) (fT9 w))
  else if fB w = 0#5 ∧ fFn9 w = 1#9 then .ok (.ctz (fD w) (fA w) (fT9 w))
  else if fB w = 0#5 ∧ fFn9 w = 2#9 then .ok (.popc (fD w) (fA w) (fT9 w))
  else if fFn9 w = 3#9 then .ok (.rotl (fD w) (fA w) (fB w) (fT9 w))
  else if fFn9 w = 4#9 then .ok (.rotr (fD w) (fA w) (fB w) (fT9 w))
  else if fB w = 0#5 ∧ fFn9 w = 5#9 then .ok (.rev8 (fD w) (fA w) (fT9 w))
  else if fB w = 0#5 ∧ fFn9 w = 6#9 then .ok (.brev (fD w) (fA w) (fT9 w))
  else if fFn9 w = 7#9 then .ok (.bext (fD w) (fA w) (fB w) (fT9 w))
  else if fFn9 w = 8#9 then .ok (.bdep (fD w) (fA w) (fB w) (fT9 w))
  else if fB w = 0#5 ∧ (fFn9 w).extractLsb' 7 2 = 0#2 ∧ (fFn9 w).extractLsb' 0 5 = 9#5 ∧ (((fFn9 w).extractLsb' 5 2) ≠ 3#2) then .ok (.sext (fD w) (fA w) (fT9 w) ((fFn9 w).extractLsb' 5 2))
  else if fB w = 0#5 ∧ (fFn9 w).extractLsb' 7 2 = 0#2 ∧ (fFn9 w).extractLsb' 0 5 = 10#5 ∧ (((fFn9 w).extractLsb' 5 2) ≠ 3#2) then .ok (.zext (fD w) (fA w) (fT9 w) ((fFn9 w).extractLsb' 5 2))
  else .error .reserved

/-- Opcode 0x05. -/
def decodeOp05 (w : BitVec 32) : Except DecodeError Instr :=
  .ok (.addi (fD w) (fA w) (fT14 w) (fImm14 w))

/-- Opcode 0x06. -/
def decodeOp06 (w : BitVec 32) : Except DecodeError Instr :=
  .ok (.andi (fD w) (fA w) (fT14 w) (fImm14 w))

/-- Opcode 0x07. -/
def decodeOp07 (w : BitVec 32) : Except DecodeError Instr :=
  .ok (.ori (fD w) (fA w) (fT14 w) (fImm14 w))

/-- Opcode 0x08. -/
def decodeOp08 (w : BitVec 32) : Except DecodeError Instr :=
  .ok (.xori (fD w) (fA w) (fT14 w) (fImm14 w))

/-- Opcode 0x09. -/
def decodeOp09 (w : BitVec 32) : Except DecodeError Instr :=
  .ok (.slti (fD w) (fA w) (fT14 w) (fImm14 w))

/-- Opcode 0x0A. -/
def decodeOp0A (w : BitVec 32) : Except DecodeError Instr :=
  .ok (.sltni (fD w) (fA w) (fT14 w) (fImm14 w))

/-- Opcode 0x0B. -/
def decodeOp0B (w : BitVec 32) : Except DecodeError Instr :=
  if (fImm14 w).extractLsb' 6 8 = 0#8 then .ok (.slli (fD w) (fA w) (fT14 w) ((fImm14 w).extractLsb' 0 6))
  else if (fImm14 w).extractLsb' 6 8 = 64#8 then .ok (.srli (fD w) (fA w) (fT14 w) ((fImm14 w).extractLsb' 0 6))
  else if (fImm14 w).extractLsb' 6 8 = 128#8 then .ok (.srai (fD w) (fA w) (fT14 w) ((fImm14 w).extractLsb' 0 6))
  else if (fImm14 w).extractLsb' 6 8 = 192#8 then .ok (.rotli (fD w) (fA w) (fT14 w) ((fImm14 w).extractLsb' 0 6))
  else .error .reserved

/-- Opcode 0x0C. -/
def decodeOp0C (w : BitVec 32) : Except DecodeError Instr :=
  .ok (.lui (fD w) (fOff20 w))

/-- Opcode 0x0D. -/
def decodeOp0D (w : BitVec 32) : Except DecodeError Instr :=
  .ok (.pcaddu (fD w) (fOff20 w))

/-- Opcode 0x0E. -/
def decodeOp0E (w : BitVec 32) : Except DecodeError Instr :=
  if fFn9 w = 0#9 then .ok (.selz (fD w) (fA w) (fB w) (fT9 w))
  else if fFn9 w = 1#9 then .ok (.selnz (fD w) (fA w) (fB w) (fT9 w))
  else .error .reserved

/-- Opcode 0x0F. -/
def decodeOp0F (w : BitVec 32) : Except DecodeError Instr :=
  .ok (.lea (fD w) (fA w) (fT14 w) (fSeg w) (fOff11 w))

/-- Opcode 0x10. -/
def decodeOp10 (w : BitVec 32) : Except DecodeError Instr :=
  if fFn9 w = 0#9 then .ok (.segck (fD w) (fA w) (fB w) (fT9 w))
  else if fD w = 0#5 ∧ fFn9 w = 1#9 then .ok (.tchk (fA w) (fB w) (fT9 w))
  else .error .reserved

/-- Opcode 0x11. -/
def decodeOp11 (w : BitVec 32) : Except DecodeError Instr :=
  .ok (.ldI8 (fD w) (fA w) (fT14 w) (fSeg w) (fOff11 w))

/-- Opcode 0x12. -/
def decodeOp12 (w : BitVec 32) : Except DecodeError Instr :=
  .ok (.ldN8 (fD w) (fA w) (fT14 w) (fSeg w) (fOff11 w))

/-- Opcode 0x13. -/
def decodeOp13 (w : BitVec 32) : Except DecodeError Instr :=
  .ok (.ldI16 (fD w) (fA w) (fT14 w) (fSeg w) (fOff11 w))

/-- Opcode 0x14. -/
def decodeOp14 (w : BitVec 32) : Except DecodeError Instr :=
  .ok (.ldN16 (fD w) (fA w) (fT14 w) (fSeg w) (fOff11 w))

/-- Opcode 0x15. -/
def decodeOp15 (w : BitVec 32) : Except DecodeError Instr :=
  .ok (.ldI32 (fD w) (fA w) (fT14 w) (fSeg w) (fOff11 w))

/-- Opcode 0x16. -/
def decodeOp16 (w : BitVec 32) : Except DecodeError Instr :=
  .ok (.ldN32 (fD w) (fA w) (fT14 w) (fSeg w) (fOff11 w))

/-- Opcode 0x17. -/
def decodeOp17 (w : BitVec 32) : Except DecodeError Instr :=
  .ok (.ld64 (fD w) (fA w) (fT14 w) (fSeg w) (fOff11 w))

/-- Opcode 0x18. -/
def decodeOp18 (w : BitVec 32) : Except DecodeError Instr :=
  .ok (.st8 (fD w) (fA w) (fT14 w) (fSeg w) (fOff11 w))

/-- Opcode 0x19. -/
def decodeOp19 (w : BitVec 32) : Except DecodeError Instr :=
  .ok (.st16 (fD w) (fA w) (fT14 w) (fSeg w) (fOff11 w))

/-- Opcode 0x1A. -/
def decodeOp1A (w : BitVec 32) : Except DecodeError Instr :=
  .ok (.st32 (fD w) (fA w) (fT14 w) (fSeg w) (fOff11 w))

/-- Opcode 0x1B. -/
def decodeOp1B (w : BitVec 32) : Except DecodeError Instr :=
  .ok (.st64 (fD w) (fA w) (fT14 w) (fSeg w) (fOff11 w))

/-- Opcode 0x1C. -/
def decodeOp1C (w : BitVec 32) : Except DecodeError Instr :=
  .ok (.ldro64 (fD w) (fA w) (fT14 w) (fSeg w) (fOff11 w))

/-- Opcode 0x1D. -/
def decodeOp1D (w : BitVec 32) : Except DecodeError Instr :=
  if fD w = 0#5 then .ok (.pfro (fA w) (fT14 w) (fSeg w) (fOff11 w))
  else .error .reserved

/-- Opcode 0x1E. -/
def decodeOp1E (w : BitVec 32) : Except DecodeError Instr :=
  .ok (.ldfe (fD w) (fA w) (fT14 w) (fSeg w) (fOff11 w))

/-- Opcode 0x1F. -/
def decodeOp1F (w : BitVec 32) : Except DecodeError Instr :=
  .ok (.ldff (fD w) (fA w) (fT14 w) (fSeg w) (fOff11 w))

/-- Opcode 0x20. -/
def decodeOp20 (w : BitVec 32) : Except DecodeError Instr :=
  .ok (.stef (fD w) (fA w) (fT14 w) (fSeg w) (fOff11 w))

/-- Opcode 0x21. -/
def decodeOp21 (w : BitVec 32) : Except DecodeError Instr :=
  .ok (.stff (fD w) (fA w) (fT14 w) (fSeg w) (fOff11 w))

/-- Opcode 0x22. -/
def decodeOp22 (w : BitVec 32) : Except DecodeError Instr :=
  if fD w = 0#5 ∧ fB w = 0#5 ∧ fFn9 w = 0#9 then .ok (.fset (fA w) (fT9 w))
  else if fD w = 0#5 ∧ fB w = 0#5 ∧ fFn9 w = 1#9 then .ok (.fclr (fA w) (fT9 w))
  else if fB w = 0#5 ∧ fFn9 w = 2#9 then .ok (.fget (fD w) (fA w) (fT9 w))
  else .error .reserved

/-- Opcode 0x23. -/
def decodeOp23 (w : BitVec 32) : Except DecodeError Instr :=
  if (fFn9 w).extractLsb' 6 3 = 0#3 ∧ (fFn9 w).extractLsb' 0 5 = 0#5 then .ok (.amoAdd (fD w) (fA w) (fB w) (fT9 w) ((fFn9 w).getLsbD 5))
  else if (fFn9 w).extractLsb' 6 3 = 0#3 ∧ (fFn9 w).extractLsb' 0 5 = 1#5 then .ok (.amoAnd (fD w) (fA w) (fB w) (fT9 w) ((fFn9 w).getLsbD 5))
  else if (fFn9 w).extractLsb' 6 3 = 0#3 ∧ (fFn9 w).extractLsb' 0 5 = 2#5 then .ok (.amoOr (fD w) (fA w) (fB w) (fT9 w) ((fFn9 w).getLsbD 5))
  else if (fFn9 w).extractLsb' 6 3 = 0#3 ∧ (fFn9 w).extractLsb' 0 5 = 3#5 then .ok (.amoXor (fD w) (fA w) (fB w) (fT9 w) ((fFn9 w).getLsbD 5))
  else if (fFn9 w).extractLsb' 6 3 = 0#3 ∧ (fFn9 w).extractLsb' 0 5 = 4#5 then .ok (.amoMin (fD w) (fA w) (fB w) (fT9 w) ((fFn9 w).getLsbD 5))
  else if (fFn9 w).extractLsb' 6 3 = 0#3 ∧ (fFn9 w).extractLsb' 0 5 = 5#5 then .ok (.amoMax (fD w) (fA w) (fB w) (fT9 w) ((fFn9 w).getLsbD 5))
  else if (fFn9 w).extractLsb' 6 3 = 0#3 ∧ (fFn9 w).extractLsb' 0 5 = 6#5 then .ok (.amoMinn (fD w) (fA w) (fB w) (fT9 w) ((fFn9 w).getLsbD 5))
  else if (fFn9 w).extractLsb' 6 3 = 0#3 ∧ (fFn9 w).extractLsb' 0 5 = 7#5 then .ok (.amoMaxn (fD w) (fA w) (fB w) (fT9 w) ((fFn9 w).getLsbD 5))
  else if (fFn9 w).extractLsb' 6 3 = 0#3 ∧ (fFn9 w).extractLsb' 0 5 = 8#5 then .ok (.amoSwap (fD w) (fA w) (fB w) (fT9 w) ((fFn9 w).getLsbD 5))
  else if fFn9 w = 9#9 then .ok (.amoFadd (fD w) (fA w) (fB w) (fT9 w))
  else .error .reserved

/-- Opcode 0x24. -/
def decodeOp24 (w : BitVec 32) : Except DecodeError Instr :=
  if (fFn9 w).extractLsb' 6 3 = 0#3 ∧ (fFn9 w).extractLsb' 0 5 = 0#5 then .ok (.cas (fD w) (fA w) (fB w) (fT9 w) ((fFn9 w).getLsbD 5))
  else .error .reserved

/-- Opcode 0x25. -/
def decodeOp25 (w : BitVec 32) : Except DecodeError Instr :=
  if (fD w).extractLsb' 3 2 = 0#2 ∧ fA w = 0#5 ∧ fB w = 0#5 ∧ fT9 w = false ∧ (fFn9 w).extractLsb' 8 1 = 0#1 ∧ (fFn9 w).extractLsb' 0 5 = 0#5 ∧ (scopeOk ((fFn9 w).extractLsb' 5 3)) then .ok (.fence ((fD w).extractLsb' 0 3) ((fFn9 w).extractLsb' 5 3))
  else if (fD w).extractLsb' 3 2 = 0#2 ∧ (fD w).extractLsb' 0 1 = 0#1 ∧ fA w = 0#5 ∧ fB w = 0#5 ∧ fT9 w = false ∧ (fFn9 w).extractLsb' 8 1 = 0#1 ∧ (fFn9 w).extractLsb' 0 5 = 1#5 ∧ (scopeOk ((fFn9 w).extractLsb' 5 3)) then .ok (.fencex ((fD w).extractLsb' 1 2) ((fFn9 w).extractLsb' 5 3))
  else .error .reserved

/-- Opcode 0x26. -/
def decodeOp26 (w : BitVec 32) : Except DecodeError Instr :=
  if fD w = 0#5 ∧ fFn9 w = 0#9 then .ok (.rocinv (fA w) (fB w) (fT9 w))
  else .error .reserved

/-- Opcode 0x27. -/
def decodeOp27 (w : BitVec 32) : Except DecodeError Instr :=
  if fA w = 0#5 ∧ fB w = 0#5 ∧ fT9 w = false ∧ fFn9 w = 0#9 then .ok (.pjwait (fD w))
  else .error .reserved

/-- Opcode 0x28. -/
def decodeOp28 (w : BitVec 32) : Except DecodeError Instr :=
  if fCond w = 0#3 then .ok (.beq (fD w) (fA w) (fOff12 w))
  else if fCond w = 1#3 then .ok (.bne (fD w) (fA w) (fOff12 w))
  else if fCond w = 2#3 then .ok (.blt (fD w) (fA w) (fOff12 w))
  else if fCond w = 3#3 then .ok (.bge (fD w) (fA w) (fOff12 w))
  else if fCond w = 4#3 then .ok (.bltn (fD w) (fA w) (fOff12 w))
  else if fCond w = 5#3 then .ok (.bgen (fD w) (fA w) (fOff12 w))
  else if fA w = 0#5 ∧ fCond w = 6#3 then .ok (.bfull (fD w) (fOff12 w))
  else .error .reserved

/-- Opcode 0x29. -/
def decodeOp29 (w : BitVec 32) : Except DecodeError Instr :=
  if fCond w = 0#3 then .ok (.beqi (fD w) (fA w) (fOff12 w))
  else if fCond w = 1#3 then .ok (.bnei (fD w) (fA w) (fOff12 w))
  else if fCond w = 2#3 then .ok (.blti (fD w) (fA w) (fOff12 w))
  else if fCond w = 3#3 then .ok (.bgei (fD w) (fA w) (fOff12 w))
  else .error .reserved

/-- Opcode 0x2A. -/
def decodeOp2A (w : BitVec 32) : Except DecodeError Instr :=
  .ok (.jal (fD w) (fOff20 w))

/-- Opcode 0x2B. -/
def decodeOp2B (w : BitVec 32) : Except DecodeError Instr :=
  .ok (.jalr (fD w) (fA w) (fT14 w) (fImm14 w))

/-- Opcode 0x2C. -/
def decodeOp2C (w : BitVec 32) : Except DecodeError Instr :=
  if fCond w = 0#3 then .ok (.loop (fD w) (fA w) (fOff12 w))
  else .error .reserved

/-- Opcode 0x2D. -/
def decodeOp2D (w : BitVec 32) : Except DecodeError Instr :=
  if fD w = 0#5 ∧ fB w = 0#5 ∧ fFn9 w = 0#9 then .ok (.gform (fA w) (fT9 w))
  else if fD w = 0#5 ∧ fA w = 0#5 ∧ fB w = 0#5 ∧ fT9 w = false ∧ fFn9 w = 1#9 then .ok (.gsplit)
  else if fD w = 0#5 ∧ fA w = 0#5 ∧ fB w = 0#5 ∧ fT9 w = false ∧ fFn9 w = 2#9 then .ok (.grejoin)
  else if fD w = 0#5 ∧ fA w = 0#5 ∧ fB w = 0#5 ∧ fT9 w = false ∧ fFn9 w = 3#9 then .ok (.gleave)
  else .error .reserved

/-- Opcode 0x30. -/
def decodeOp30 (w : BitVec 32) : Except DecodeError Instr :=
  if fD w = 0#5 ∧ fA w = 0#5 ∧ fB w = 0#5 ∧ fT9 w = false ∧ fFn9 w = 0#9 then .ok (.pin)
  else if fD w = 0#5 ∧ fA w = 0#5 ∧ fB w = 0#5 ∧ fT9 w = false ∧ fFn9 w = 1#9 then .ok (.unpin)
  else .error .reserved

/-- Opcode 0x31. -/
def decodeOp31 (w : BitVec 32) : Except DecodeError Instr :=
  if fD w = 0#5 ∧ (fA w).extractLsb' 4 1 = 0#1 ∧ fB w = 0#5 ∧ fT9 w = false ∧ fFn9 w = 0#9 then .ok (.semdn ((fA w).extractLsb' 0 4))
  else if fD w = 0#5 ∧ (fA w).extractLsb' 4 1 = 0#1 ∧ fB w = 0#5 ∧ fT9 w = false ∧ fFn9 w = 1#9 then .ok (.semup ((fA w).extractLsb' 0 4))
  else if (fA w).extractLsb' 4 1 = 0#1 ∧ fB w = 0#5 ∧ fT9 w = false ∧ fFn9 w = 2#9 then .ok (.semtry (fD w) ((fA w).extractLsb' 0 4))
  else .error .reserved

/-- Opcode 0x32. -/
def decodeOp32 (w : BitVec 32) : Except DecodeError Instr :=
  if fD w = 0#5 ∧ (fA w).extractLsb' 3 2 = 0#2 ∧ fT9 w = false ∧ fFn9 w = 0#9 then .ok (.qbind ((fA w).extractLsb' 0 3) (fB w))
  else if (fA w).extractLsb' 3 2 = 0#2 ∧ fT9 w = false ∧ fFn9 w = 1#9 then .ok (.qwaitf (fD w) ((fA w).extractLsb' 0 3) (fB w))
  else if (fA w).extractLsb' 3 2 = 0#2 ∧ fT9 w = false ∧ fFn9 w = 2#9 then .ok (.qwaite (fD w) ((fA w).extractLsb' 0 3) (fB w))
  else if fD w = 0#5 ∧ (fA w).extractLsb' 3 2 = 0#2 ∧ fT9 w = false ∧ fFn9 w = 3#9 then .ok (.qadvh ((fA w).extractLsb' 0 3) (fB w))
  else if fD w = 0#5 ∧ (fA w).extractLsb' 3 2 = 0#2 ∧ fT9 w = false ∧ fFn9 w = 4#9 then .ok (.qadvt ((fA w).extractLsb' 0 3) (fB w))
  else if (fA w).extractLsb' 3 2 = 0#2 ∧ fB w = 0#5 ∧ fT9 w = false ∧ fFn9 w = 5#9 then .ok (.qcnt (fD w) ((fA w).extractLsb' 0 3))
  else .error .reserved

/-- Opcode 0x33. -/
def decodeOp33 (w : BitVec 32) : Except DecodeError Instr :=
  if fD w = 0#5 ∧ fB w = 0#5 ∧ fFn9 w = 0#9 then .ok (.yield (fA w) (fT9 w))
  else if fB w = 0#5 ∧ fFn9 w = 1#9 then .ok (.park (fD w) (fA w) (fT9 w))
  else if fD w = 0#5 ∧ fB w = 0#5 ∧ fFn9 w = 2#9 then .ok (.wake (fA w) (fT9 w))
  else .error .reserved

/-- Opcode 0x34. -/
def decodeOp34 (w : BitVec 32) : Except DecodeError Instr :=
  if fD w = 0#5 ∧ fB w = 0#5 ∧ fFn9 w = 0#9 then .ok (.tsleep (fA w) (fT9 w))
  else .error .reserved

/-- Opcode 0x35. -/
def decodeOp35 (w : BitVec 32) : Except DecodeError Instr :=
  if (fA w).extractLsb' 1 4 = 0#4 ∧ fB w = 0#5 ∧ fT9 w = false ∧ fFn9 w = 0#9 then .ok (.clock (fD w) ((fA w).getLsbD 0))
  else .error .reserved

/-- Opcode 0x36. -/
def decodeOp36 (w : BitVec 32) : Except DecodeError Instr :=
  if fD w = 0#5 ∧ fA w = 0#5 ∧ fB w = 0#5 ∧ fT9 w = false ∧ fFn9 w = 0#9 then .ok (.wfw)
  else .error .reserved

/-- Opcode 0x37. -/
def decodeOp37 (w : BitVec 32) : Except DecodeError Instr :=
  if fD w = 0#5 ∧ fA w = 0#5 ∧ fB w = 0#5 ∧ fT9 w = false ∧ fFn9 w = 0#9 then .ok (.tdone)
  else if fD w = 0#5 ∧ fB w = 0#5 ∧ fFn9 w = 1#9 then .ok (.tfail (fA w) (fT9 w))
  else .error .reserved

/-- Opcode 0x38. -/
def decodeOp38 (w : BitVec 32) : Except DecodeError Instr :=
  if fB w = 0#5 ∧ fFn9 w = 0#9 then .ok (.launch (fD w) (fA w) (fT9 w))
  else .error .reserved

/-- Opcode 0x39. -/
def decodeOp39 (w : BitVec 32) : Except DecodeError Instr :=
  if fB w = 0#5 ∧ fFn9 w = 0#9 then .ok (.lvlcnt (fD w) (fA w) (fT9 w))
  else if fB w = 0#5 ∧ fFn9 w = 1#9 then .ok (.lvlwait (fD w) (fA w) (fT9 w))
  else if fD w = 0#5 ∧ fB w = 0#5 ∧ fFn9 w = 2#9 then .ok (.lvlcancel (fA w) (fT9 w))
  else .error .reserved

/-- Opcode 0x3A. -/
def decodeOp3A (w : BitVec 32) : Except DecodeError Instr :=
  if fB w = 0#5 ∧ fFn9 w = 0#9 then .ok (.phopen (fD w) (fA w) (fT9 w))
  else if fD w = 0#5 ∧ fB w = 0#5 ∧ fFn9 w = 1#9 then .ok (.phclose (fA w) (fT9 w))
  else if fB w = 0#5 ∧ fFn9 w = 2#9 then .ok (.phwait (fD w) (fA w) (fT9 w))
  else .error .reserved

/-- Opcode 0x3B. -/
def decodeOp3B (w : BitVec 32) : Except DecodeError Instr :=
  if (fImm14 w).extractLsb' 13 1 = 0#1 ∧ (fImm14 w).extractLsb' 0 5 = 0#5 then .ok (.msend (fD w) (fA w) (fT14 w) ((fImm14 w).extractLsb' 5 8))
  else if (fImm14 w).extractLsb' 13 1 = 1#1 ∧ (fImm14 w).extractLsb' 0 5 = 0#5 then .ok (.msendD (fD w) (fA w) (fT14 w) ((fImm14 w).extractLsb' 5 8))
  else .error .reserved

/-- Opcode 0x3C. -/
def decodeOp3C (w : BitVec 32) : Except DecodeError Instr :=
  if fD w = 0#5 ∧ fA w = 0#5 ∧ fB w = 0#5 ∧ fT9 w = false ∧ fFn9 w = 0#9 then .ok (.mend)
  else .error .reserved

/-- Opcode 0x3D. -/
def decodeOp3D (w : BitVec 32) : Except DecodeError Instr :=
  if fD w = 0#5 ∧ fB w = 0#5 ∧ fFn9 w = 0#9 then .ok (.hop (fA w) (fT9 w))
  else .error .reserved

/-- Opcode 0x3E. -/
def decodeOp3E (w : BitVec 32) : Except DecodeError Instr :=
  if fFn9 w = 0#9 then .ok (.mwait (fD w) (fA w) (fB w) (fT9 w))
  else .error .reserved

/-- Opcode 0x3F. -/
def decodeOp3F (w : BitVec 32) : Except DecodeError Instr :=
  if (fB w).extractLsb' 1 4 = 0#4 ∧ fFn9 w = 0#9 then .ok (.tdecl (((fB w).extractLsb' 0 1) ++ (fD w)) (fA w) (fT9 w))
  else if (fB w).extractLsb' 1 4 = 0#4 ∧ fFn9 w = 1#9 then .ok (.tarm (((fB w).extractLsb' 0 1) ++ (fD w)) (fA w) (fT9 w))
  else if (fB w).extractLsb' 1 4 = 0#4 ∧ fFn9 w = 2#9 then .ok (.twait (((fB w).extractLsb' 0 1) ++ (fD w)) (fA w) (fT9 w))
  else if fA w = 0#5 ∧ (fB w).extractLsb' 1 4 = 0#4 ∧ fT9 w = false ∧ fFn9 w = 3#9 then .ok (.trel (((fB w).extractLsb' 0 1) ++ (fD w)))
  else .error .reserved

/-- Opcode 0x40. -/
def decodeOp40 (w : BitVec 32) : Except DecodeError Instr :=
  if fA w = 0#5 ∧ (fImm14 w).extractLsb' 0 10 = 0#10 ∧ (((fImm14 w).extractLsb' 10 4).toNat ≤ 9) then .ok (.xset (fD w) (fT14 w) ((fImm14 w).extractLsb' 10 4))
  else if fImm14 w = 1#14 then .ok (.xcopy (fD w) (fA w) (fT14 w))
  else if fImm14 w = 2#14 then .ok (.xgather (fD w) (fA w) (fT14 w))
  else if fImm14 w = 3#14 then .ok (.xscatter (fD w) (fA w) (fT14 w))
  else if fA w = 0#5 ∧ fImm14 w = 4#14 then .ok (.xfill (fD w) (fT14 w))
  else if fImm14 w = 5#14 then .ok (.xlrec (fD w) (fA w) (fT14 w))
  else if fA w = 0#5 ∧ fImm14 w = 6#14 then .ok (.xlflush (fD w) (fT14 w))
  else .error .reserved

/-- Opcode 0x41. DEDUCED, safe (log entry 29). -/
def decodeOp41 (w : BitVec 32) : Except DecodeError Instr :=
  if (fD w).extractLsb' 2 3 = 6#3 ∧ fB w = 0#5 ∧ fFn9 w = 0#9 then .ok (.strm ((fD w).extractLsb' 0 2) (fA w) (fT9 w))
  else if (fD w).extractLsb' 2 3 = 6#3 ∧ fB w = 0#5 ∧ fFn9 w = 1#9 then .ok (.strmoff ((fD w).extractLsb' 0 2) (fA w) (fT9 w))
  else .error .reserved

/-- Opcode 0x42. -/
def decodeOp42 (w : BitVec 32) : Except DecodeError Instr :=
  if (fImm14 w).extractLsb' 8 6 = 0#6 ∧ (fImm14 w).extractLsb' 0 5 = 0#5 then .ok (.vset (fD w) (fA w) (fT14 w) ((fImm14 w).extractLsb' 5 3))
  else .error .reserved

/-- Opcode 0x43. -/
def decodeOp43 (w : BitVec 32) : Except DecodeError Instr :=
  if fA w = 0#5 ∧ (fImm14 w).extractLsb' 0 5 = 0#5 then .ok (.vadd (fD w) (fT14 w) ((fImm14 w).extractLsb' 11 3) ((fImm14 w).extractLsb' 8 3) ((fImm14 w).extractLsb' 5 3))
  else if fA w = 0#5 ∧ (fImm14 w).extractLsb' 0 5 = 1#5 then .ok (.vsub (fD w) (fT14 w) ((fImm14 w).extractLsb' 11 3) ((fImm14 w).extractLsb' 8 3) ((fImm14 w).extractLsb' 5 3))
  else if fA w = 0#5 ∧ (fImm14 w).extractLsb' 0 5 = 2#5 then .ok (.vmul (fD w) (fT14 w) ((fImm14 w).extractLsb' 11 3) ((fImm14 w).extractLsb' 8 3) ((fImm14 w).extractLsb' 5 3))
  else if fA w = 0#5 ∧ (fImm14 w).extractLsb' 0 5 = 3#5 then .ok (.vfma (fD w) (fT14 w) ((fImm14 w).extractLsb' 11 3) ((fImm14 w).extractLsb' 8 3) ((fImm14 w).extractLsb' 5 3))
  else if fA w = 0#5 ∧ (fImm14 w).extractLsb' 0 5 = 4#5 then .ok (.vmax (fD w) (fT14 w) ((fImm14 w).extractLsb' 11 3) ((fImm14 w).extractLsb' 8 3) ((fImm14 w).extractLsb' 5 3))
  else if fA w = 0#5 ∧ (fImm14 w).extractLsb' 0 5 = 5#5 then .ok (.vmin (fD w) (fT14 w) ((fImm14 w).extractLsb' 11 3) ((fImm14 w).extractLsb' 8 3) ((fImm14 w).extractLsb' 5 3))
  else if fA w = 0#5 ∧ (fImm14 w).extractLsb' 8 3 = 0#3 ∧ (fImm14 w).extractLsb' 0 5 = 6#5 then .ok (.vabs (fD w) (fT14 w) ((fImm14 w).extractLsb' 11 3) ((fImm14 w).extractLsb' 5 3))
  else if fA w = 0#5 ∧ (fImm14 w).extractLsb' 8 3 = 0#3 ∧ (fImm14 w).extractLsb' 0 5 = 7#5 then .ok (.vneg (fD w) (fT14 w) ((fImm14 w).extractLsb' 11 3) ((fImm14 w).extractLsb' 5 3))
  else if (fImm14 w).extractLsb' 8 3 = 0#3 ∧ (fImm14 w).extractLsb' 0 5 = 8#5 then .ok (.vscale (fD w) (fA w) (fT14 w) ((fImm14 w).extractLsb' 11 3) ((fImm14 w).extractLsb' 5 3))
  else .error .reserved

/-- Opcode 0x44. -/
def decodeOp44 (w : BitVec 32) : Except DecodeError Instr :=
  if fA w = 0#5 ∧ (fImm14 w).extractLsb' 0 5 = 0#5 then .ok (.viadd (fD w) (fT14 w) ((fImm14 w).extractLsb' 11 3) ((fImm14 w).extractLsb' 8 3) ((fImm14 w).extractLsb' 5 3))
  else if fA w = 0#5 ∧ (fImm14 w).extractLsb' 0 5 = 1#5 then .ok (.visub (fD w) (fT14 w) ((fImm14 w).extractLsb' 11 3) ((fImm14 w).extractLsb' 8 3) ((fImm14 w).extractLsb' 5 3))
  else if fA w = 0#5 ∧ (fImm14 w).extractLsb' 0 5 = 2#5 then .ok (.vimul (fD w) (fT14 w) ((fImm14 w).extractLsb' 11 3) ((fImm14 w).extractLsb' 8 3) ((fImm14 w).extractLsb' 5 3))
  else if fA w = 0#5 ∧ (fImm14 w).extractLsb' 0 5 = 3#5 then .ok (.viand (fD w) (fT14 w) ((fImm14 w).extractLsb' 11 3) ((fImm14 w).extractLsb' 8 3) ((fImm14 w).extractLsb' 5 3))
  else if fA w = 0#5 ∧ (fImm14 w).extractLsb' 0 5 = 4#5 then .ok (.vior (fD w) (fT14 w) ((fImm14 w).extractLsb' 11 3) ((fImm14 w).extractLsb' 8 3) ((fImm14 w).extractLsb' 5 3))
  else if fA w = 0#5 ∧ (fImm14 w).extractLsb' 0 5 = 5#5 then .ok (.vixor (fD w) (fT14 w) ((fImm14 w).extractLsb' 11 3) ((fImm14 w).extractLsb' 8 3) ((fImm14 w).extractLsb' 5 3))
  else if (fImm14 w).extractLsb' 8 3 = 0#3 ∧ (fImm14 w).extractLsb' 0 5 = 6#5 then .ok (.vishl (fD w) (fA w) (fT14 w) ((fImm14 w).extractLsb' 11 3) ((fImm14 w).extractLsb' 5 3))
  else if (fImm14 w).extractLsb' 8 3 = 0#3 ∧ (fImm14 w).extractLsb' 0 5 = 7#5 then .ok (.vishr (fD w) (fA w) (fT14 w) ((fImm14 w).extractLsb' 11 3) ((fImm14 w).extractLsb' 5 3))
  else .error .reserved

/-- Opcode 0x45. -/
def decodeOp45 (w : BitVec 32) : Except DecodeError Instr :=
  if fA w = 0#5 ∧ (fImm14 w).extractLsb' 8 3 = 0#3 ∧ (fImm14 w).extractLsb' 0 5 = 0#5 then .ok (.vconv (fD w) (fT14 w) ((fImm14 w).extractLsb' 11 3) ((fImm14 w).extractLsb' 5 3))
  else if fA w = 0#5 ∧ (fImm14 w).extractLsb' 8 3 = 0#3 ∧ (fImm14 w).extractLsb' 0 5 = 1#5 then .ok (.vbfp (fD w) (fT14 w) ((fImm14 w).extractLsb' 11 3) ((fImm14 w).extractLsb' 5 3))
  else if fA w = 0#5 ∧ (fImm14 w).extractLsb' 8 3 = 0#3 ∧ (fImm14 w).extractLsb' 0 5 = 2#5 then .ok (.vbfpx (fD w) (fT14 w) ((fImm14 w).extractLsb' 11 3) ((fImm14 w).extractLsb' 5 3))
  else if fA w = 0#5 ∧ (fImm14 w).extractLsb' 8 3 = 0#3 ∧ (fImm14 w).extractLsb' 0 5 = 3#5 then .ok (.vcbq (fD w) (fT14 w) ((fImm14 w).extractLsb' 11 3) ((fImm14 w).extractLsb' 5 3))
  else if fA w = 0#5 ∧ (fImm14 w).extractLsb' 8 3 = 0#3 ∧ (fImm14 w).extractLsb' 0 5 = 4#5 then .ok (.vcbx (fD w) (fT14 w) ((fImm14 w).extractLsb' 11 3) ((fImm14 w).extractLsb' 5 3))
  else if (fImm14 w).extractLsb' 8 3 = 0#3 ∧ (fImm14 w).extractLsb' 0 5 = 5#5 then .ok (.vsat (fD w) (fA w) (fT14 w) ((fImm14 w).extractLsb' 11 3) ((fImm14 w).extractLsb' 5 3))
  else .error .reserved

/-- Opcode 0x46. -/
def decodeOp46 (w : BitVec 32) : Except DecodeError Instr :=
  if fA w = 0#5 ∧ (fImm14 w).extractLsb' 8 3 = 0#3 ∧ (fImm14 w).extractLsb' 0 5 = 0#5 then .ok (.vsum (fD w) (fT14 w) ((fImm14 w).extractLsb' 11 3) ((fImm14 w).extractLsb' 5 3))
  else if fA w = 0#5 ∧ (fImm14 w).extractLsb' 8 3 = 0#3 ∧ (fImm14 w).extractLsb' 0 5 = 1#5 then .ok (.vmaxr (fD w) (fT14 w) ((fImm14 w).extractLsb' 11 3) ((fImm14 w).extractLsb' 5 3))
  else if fA w = 0#5 ∧ (fImm14 w).extractLsb' 0 5 = 2#5 then .ok (.vdot (fD w) (fT14 w) ((fImm14 w).extractLsb' 11 3) ((fImm14 w).extractLsb' 8 3) ((fImm14 w).extractLsb' 5 3))
  else .error .reserved

/-- Opcode 0x47. -/
def decodeOp47 (w : BitVec 32) : Except DecodeError Instr :=
  if fD w = 0#5 ∧ fT14 w = false ∧ (fImm14 w).extractLsb' 0 11 = 0#11 then .ok (.vcbld (fA w) ((fImm14 w).extractLsb' 11 3))
  else .error .reserved

/-- Opcode 0x48. -/
def decodeOp48 (w : BitVec 32) : Except DecodeError Instr :=
  if fA w = 0#5 ∧ fImm14 w = 0#14 then .ok (.mown (fD w) (fT14 w))
  else if fA w = 0#5 ∧ (fImm14 w).extractLsb' 0 10 = 1#10 ∧ (((fImm14 w).extractLsb' 10 4).toNat ≤ 2) then .ok (.mset (fD w) (fT14 w) ((fImm14 w).extractLsb' 10 4))
  else if (fImm14 w).extractLsb' 6 8 = 0#8 ∧ (fImm14 w).extractLsb' 0 5 = 2#5 then .ok (.mphld (fD w) (fA w) (fT14 w) ((fImm14 w).getLsbD 5))
  else if fD w = 0#5 ∧ fT14 w = false ∧ fImm14 w = 3#14 then .ok (.mswap (fA w))
  else if fImm14 w = 4#14 then .ok (.mpass (fD w) (fA w) (fT14 w))
  else if fImm14 w = 5#14 then .ok (.mdrain (fD w) (fA w) (fT14 w))
  else if fImm14 w = 6#14 then .ok (.mclr (fD w) (fA w) (fT14 w))
  else if fD w = 0#5 ∧ fT14 w = false ∧ fImm14 w = 7#14 then .ok (.mprobe (fA w))
  else .error .reserved

/-- Opcode 0x49. -/
def decodeOp49 (w : BitVec 32) : Except DecodeError Instr :=
  if fImm14 w = 0#14 then .ok (.mdecomp (fD w) (fA w) (fT14 w))
  else .error .reserved

/-- Opcode 0x4A. -/
def decodeOp4A (w : BitVec 32) : Except DecodeError Instr :=
  if fB w = 0#5 ∧ fFn9 w = 0#9 then .ok (.phrd (fD w) (fA w) (fT9 w))
  else if fD w = 0#5 ∧ fFn9 w = 1#9 then .ok (.phwr (fA w) (fB w) (fT9 w))
  else .error .reserved

/-- Opcode 0x4B. -/
def decodeOp4B (w : BitVec 32) : Except DecodeError Instr :=
  if fImm14 w = 0#14 then .ok (.mcal (fD w) (fA w) (fT14 w))
  else .error .reserved

/-- Opcode 0x4C. -/
def decodeOp4C (w : BitVec 32) : Except DecodeError Instr :=
  if fB w = 0#5 ∧ fFn9 w = 0#9 then .ok (.macrd (fD w) (fA w) (fT9 w))
  else .error .reserved

/-- Opcode 0x4D. -/
def decodeOp4D (w : BitVec 32) : Except DecodeError Instr :=
  if fImm14 w = 0#14 then .ok (.colgo (fD w) (fA w) (fT14 w))
  else .error .reserved

/-- Opcode 0x4E. -/
def decodeOp4E (w : BitVec 32) : Except DecodeError Instr :=
  if fD w = 0#5 ∧ fFn9 w = 0#9 then .ok (.nidict (fA w) (fB w) (fT9 w))
  else if fD w = 0#5 ∧ fB w = 0#5 ∧ fFn9 w = 1#9 then .ok (.niclr (fA w) (fT9 w))
  else .error .reserved

/-- Opcode 0x50. -/
def decodeOp50 (w : BitVec 32) : Except DecodeError Instr :=
  if fD w = 0#5 ∧ fFn9 w = 0#9 then .ok (.bsbind (fA w) (fB w) (fT9 w))
  else if fB w = 0#5 ∧ fFn9 w = 1#9 then .ok (.bsget (fD w) (fA w) (fT9 w))
  else if fB w = 0#5 ∧ fFn9 w = 2#9 then .ok (.bspeek (fD w) (fA w) (fT9 w))
  else if fD w = 0#5 ∧ fFn9 w = 3#9 then .ok (.bsput (fA w) (fB w) (fT9 w))
  else if fD w = 0#5 ∧ fFn9 w = 4#9 then .ok (.bsskip (fA w) (fB w) (fT9 w))
  else if fB w = 0#5 ∧ fFn9 w = 5#9 then .ok (.bsalign (fD w) (fA w) (fT9 w))
  else .error .reserved

/-- Opcode 0x51. -/
def decodeOp51 (w : BitVec 32) : Except DecodeError Instr :=
  if fFn9 w = 0#9 then .ok (.bslut (fD w) (fA w) (fB w) (fT9 w))
  else .error .reserved

/-- Opcode 0x52. -/
def decodeOp52 (w : BitVec 32) : Except DecodeError Instr :=
  if fFn9 w = 0#9 then .ok (.crc32c (fD w) (fA w) (fB w) (fT9 w))
  else if fFn9 w = 1#9 then .ok (.hash64 (fD w) (fA w) (fB w) (fT9 w))
  else .error .reserved

/-- Opcode 0x53. -/
def decodeOp53 (w : BitVec 32) : Except DecodeError Instr :=
  if fFn9 w = 0#9 then .ok (.tfwake (fD w) (fA w) (fB w) (fT9 w))
  else .error .reserved

/-- Opcode 0x58. -/
def decodeOp58 (w : BitVec 32) : Except DecodeError Instr :=
  if fD w = 0#5 ∧ fB w = 0#5 ∧ fFn9 w = 0#9 then .ok (.sys (fA w) (fT9 w))
  else if fD w = 0#5 ∧ fA w = 0#5 ∧ fB w = 0#5 ∧ fT9 w = false ∧ fFn9 w = 1#9 then .ok (.brk)
  else if fD w = 0#5 ∧ fA w = 0#5 ∧ fB w = 0#5 ∧ fT9 w = false ∧ fFn9 w = 2#9 then .ok (.eret)
  else if fD w = 0#5 ∧ fA w = 0#5 ∧ fB w = 0#5 ∧ fT9 w = false ∧ fFn9 w = 3#9 then .ok (.halt)
  else .error .reserved

/-- Opcode 0x59. -/
def decodeOp59 (w : BitVec 32) : Except DecodeError Instr :=
  if fA w = 0#5 ∧ fT14 w = false ∧ (assignedReg (fImm14 w).toNat) then .ok (.cget (fD w) (fImm14 w))
  else .error .reserved

/-- Opcode 0x5A. -/
def decodeOp5A (w : BitVec 32) : Except DecodeError Instr :=
  if fD w = 0#5 ∧ (assignedReg (fImm14 w).toNat) then .ok (.cput (fA w) (fT14 w) (fImm14 w))
  else .error .reserved

/-- Opcode 0x5B. -/
def decodeOp5B (w : BitVec 32) : Except DecodeError Instr :=
  if (fD w).extractLsb' 3 2 = 0#2 then .ok (.segld ((fD w).extractLsb' 0 3) (fA w) (fT14 w) (fSeg w) (fOff11 w))
  else .error .reserved

/-- Opcode 0x5C. -/
def decodeOp5C (w : BitVec 32) : Except DecodeError Instr :=
  if (fD w).extractLsb' 3 2 = 0#2 then .ok (.segst ((fD w).extractLsb' 0 3) (fA w) (fT14 w) (fSeg w) (fOff11 w))
  else .error .reserved

/-- Opcode 0x5D. -/
def decodeOp5D (w : BitVec 32) : Except DecodeError Instr :=
  if fB w = 0#5 ∧ fFn9 w = 0#9 then .ok (.snap (fD w) (fA w) (fT9 w))
  else if fB w = 0#5 ∧ fFn9 w = 1#9 then .ok (.accept (fD w) (fA w) (fT9 w))
  else if fB w = 0#5 ∧ fFn9 w = 2#9 then .ok (.reject (fD w) (fA w) (fT9 w))
  else if fB w = 0#5 ∧ fFn9 w = 3#9 then .ok (.snapq (fD w) (fA w) (fT9 w))
  else .error .reserved

/-- Opcode 0x5E. -/
def decodeOp5E (w : BitVec 32) : Except DecodeError Instr :=
  if fFn9 w = 0#9 then .ok (.msadd (fD w) (fA w) (fB w) (fT9 w))
  else if fB w = 0#5 ∧ fFn9 w = 1#9 then .ok (.msdel (fD w) (fA w) (fT9 w))
  else if fB w = 0#5 ∧ fFn9 w = 2#9 then .ok (.msqry (fD w) (fA w) (fT9 w))
  else .error .reserved

/-- Opcode 0x5F. -/
def decodeOp5F (w : BitVec 32) : Except DecodeError Instr :=
  if fD w = 0#5 ∧ fFn9 w = 0#9 then .ok (.tlbfa (fA w) (fB w) (fT9 w))
  else if fFn9 w = 1#9 then .ok (.tlbinv (fD w) (fA w) (fB w) (fT9 w))
  else .error .reserved

/-- Opcode 0x60. -/
def decodeOp60 (w : BitVec 32) : Except DecodeError Instr :=
  if fFn9 w = 0#9 then .ok (.scwb (fD w) (fA w) (fB w) (fT9 w))
  else if fFn9 w = 1#9 then .ok (.scinv (fD w) (fA w) (fB w) (fT9 w))
  else if fFn9 w = 2#9 then .ok (.scdom (fD w) (fA w) (fB w) (fT9 w))
  else .error .reserved

/-- Opcode 0x61. -/
def decodeOp61 (w : BitVec 32) : Except DecodeError Instr :=
  if fFn9 w = 0#9 then .ok (.lmpwr (fD w) (fA w) (fB w) (fT9 w))
  else .error .reserved

/-- Opcode 0x62. -/
def decodeOp62 (w : BitVec 32) : Except DecodeError Instr :=
  if fFn9 w = 0#9 then .ok (.hustat (fD w) (fA w) (fB w) (fT9 w))
  else .error .reserved

/-- Opcode 0x63. -/
def decodeOp63 (w : BitVec 32) : Except DecodeError Instr :=
  if fFn9 w = 0#9 then .ok (.pmig (fD w) (fA w) (fB w) (fT9 w))
  else if fFn9 w = 1#9 then .ok (.pmigsw (fD w) (fA w) (fB w) (fT9 w))
  else .error .reserved

/-- Opcode 0x64. -/
def decodeOp64 (w : BitVec 32) : Except DecodeError Instr :=
  if fB w = 0#5 ∧ fFn9 w = 0#9 then .ok (.lnkq (fD w) (fA w) (fT9 w))
  else if fFn9 w = 1#9 then .ok (.lnkfec (fD w) (fA w) (fB w) (fT9 w))
  else if fFn9 w = 2#9 then .ok (.lnkclaim (fD w) (fA w) (fB w) (fT9 w))
  else .error .reserved

/-- Opcode 0x65. -/
def decodeOp65 (w : BitVec 32) : Except DecodeError Instr :=
  if fFn9 w = 0#9 then .ok (.vbset (fD w) (fA w) (fB w) (fT9 w))
  else if fFn9 w = 1#9 then .ok (.vbtest (fD w) (fA w) (fB w) (fT9 w))
  else .error .reserved

/-- Opcode 0x66. -/
def decodeOp66 (w : BitVec 32) : Except DecodeError Instr :=
  if fFn9 w = 0#9 then .ok (.crmap (fD w) (fA w) (fB w) (fT9 w))
  else .error .reserved

/-- Opcode 0x67. -/
def decodeOp67 (w : BitVec 32) : Except DecodeError Instr :=
  if fFn9 w = 0#9 then .ok (.dbghalt (fD w) (fA w) (fB w) (fT9 w))
  else if fFn9 w = 1#9 then .ok (.dbgresume (fD w) (fA w) (fB w) (fT9 w))
  else .error .reserved

/-- The decoder of one word (R12, R15, R16, R18): the opcode alone decides the format. -/
def decodeWord (w : BitVec 32) : Except DecodeError Instr :=
  match (fOp w).toNat with
  | 0x01 => decodeOp01 w
  | 0x02 => decodeOp02 w
  | 0x03 => decodeOp03 w
  | 0x04 => decodeOp04 w
  | 0x05 => decodeOp05 w
  | 0x06 => decodeOp06 w
  | 0x07 => decodeOp07 w
  | 0x08 => decodeOp08 w
  | 0x09 => decodeOp09 w
  | 0x0A => decodeOp0A w
  | 0x0B => decodeOp0B w
  | 0x0C => decodeOp0C w
  | 0x0D => decodeOp0D w
  | 0x0E => decodeOp0E w
  | 0x0F => decodeOp0F w
  | 0x10 => decodeOp10 w
  | 0x11 => decodeOp11 w
  | 0x12 => decodeOp12 w
  | 0x13 => decodeOp13 w
  | 0x14 => decodeOp14 w
  | 0x15 => decodeOp15 w
  | 0x16 => decodeOp16 w
  | 0x17 => decodeOp17 w
  | 0x18 => decodeOp18 w
  | 0x19 => decodeOp19 w
  | 0x1A => decodeOp1A w
  | 0x1B => decodeOp1B w
  | 0x1C => decodeOp1C w
  | 0x1D => decodeOp1D w
  | 0x1E => decodeOp1E w
  | 0x1F => decodeOp1F w
  | 0x20 => decodeOp20 w
  | 0x21 => decodeOp21 w
  | 0x22 => decodeOp22 w
  | 0x23 => decodeOp23 w
  | 0x24 => decodeOp24 w
  | 0x25 => decodeOp25 w
  | 0x26 => decodeOp26 w
  | 0x27 => decodeOp27 w
  | 0x28 => decodeOp28 w
  | 0x29 => decodeOp29 w
  | 0x2A => decodeOp2A w
  | 0x2B => decodeOp2B w
  | 0x2C => decodeOp2C w
  | 0x2D => decodeOp2D w
  | 0x30 => decodeOp30 w
  | 0x31 => decodeOp31 w
  | 0x32 => decodeOp32 w
  | 0x33 => decodeOp33 w
  | 0x34 => decodeOp34 w
  | 0x35 => decodeOp35 w
  | 0x36 => decodeOp36 w
  | 0x37 => decodeOp37 w
  | 0x38 => decodeOp38 w
  | 0x39 => decodeOp39 w
  | 0x3A => decodeOp3A w
  | 0x3B => decodeOp3B w
  | 0x3C => decodeOp3C w
  | 0x3D => decodeOp3D w
  | 0x3E => decodeOp3E w
  | 0x3F => decodeOp3F w
  | 0x40 => decodeOp40 w
  | 0x41 => decodeOp41 w
  | 0x42 => decodeOp42 w
  | 0x43 => decodeOp43 w
  | 0x44 => decodeOp44 w
  | 0x45 => decodeOp45 w
  | 0x46 => decodeOp46 w
  | 0x47 => decodeOp47 w
  | 0x48 => decodeOp48 w
  | 0x49 => decodeOp49 w
  | 0x4A => decodeOp4A w
  | 0x4B => decodeOp4B w
  | 0x4C => decodeOp4C w
  | 0x4D => decodeOp4D w
  | 0x4E => decodeOp4E w
  | 0x50 => decodeOp50 w
  | 0x51 => decodeOp51 w
  | 0x52 => decodeOp52 w
  | 0x53 => decodeOp53 w
  | 0x58 => decodeOp58 w
  | 0x59 => decodeOp59 w
  | 0x5A => decodeOp5A w
  | 0x5B => decodeOp5B w
  | 0x5C => decodeOp5C w
  | 0x5D => decodeOp5D w
  | 0x5E => decodeOp5E w
  | 0x5F => decodeOp5F w
  | 0x60 => decodeOp60 w
  | 0x61 => decodeOp61 w
  | 0x62 => decodeOp62 w
  | 0x63 => decodeOp63 w
  | 0x64 => decodeOp64 w
  | 0x65 => decodeOp65 w
  | 0x66 => decodeOp66 w
  | 0x67 => decodeOp67 w
  | _ => .error .illegal

/-- Little-endian value of a byte list (R5). -/
def bytesVal : List Byte → Nat
  | [] => 0
  | b :: bs => b.toNat + 256 * bytesVal bs

/-- Decoding is total on any bytes: an instruction is the first four, little-endian (R12). -/
def decodeBytes (bs : List Byte) : Except DecodeError (Instr × List Byte) :=
  if bs.length < 4 then .error .short
  else match decodeWord (BitVec.ofNat 32 (bytesVal (bs.take 4))) with
    | .ok i => .ok (i, bs.drop 4)
    | .error e => .error e

/-- The little-endian bytes of a number (R5). -/
def leBytes (n : Nat) : Nat → List Byte
  | 0 => []
  | k + 1 => BitVec.ofNat 8 n :: leBytes (n / 256) k

/-- What the decoder reads from an instruction whose bits are `w`, numbered as the opcode table numbers them: the one word
is laid out as its four little-endian bytes and decoded. The events of the table are no words: no bits decode to one. -/
def decodeTableWord (nbits w : Nat) : Option Instr :=
  if nbits ≤ 32 then
    match decodeBytes (leBytes (w % 2 ^ 32) 4) with
    | .ok (i, _) => some i
    | .error _ => none
  else none

/-- The seven formats of R12, high fields first (E has the fields of I, U those of J). -/
def rWord (op : BitVec 7) (d a b : BitVec 5) (t : Bool) (fn : BitVec 9) : BitVec 32 :=
  op ++ d ++ a ++ b ++ BitVec.ofBool t ++ fn
def iWord (op : BitVec 7) (d a : BitVec 5) (t : Bool) (imm : BitVec 14) : BitVec 32 :=
  op ++ d ++ a ++ BitVec.ofBool t ++ imm
def mWord (op : BitVec 7) (d a : BitVec 5) (t : Bool) (seg : BitVec 3) (off : BitVec 11) : BitVec 32 :=
  op ++ d ++ a ++ BitVec.ofBool t ++ seg ++ off
def bWord (op : BitVec 7) (a b : BitVec 5) (cond : BitVec 3) (off : BitVec 12) : BitVec 32 :=
  op ++ a ++ b ++ cond ++ off
def jWord (op : BitVec 7) (d : BitVec 5) (off : BitVec 20) : BitVec 32 :=
  op ++ d ++ off


/-- The word of an instruction form (R12 to R19, and the encoding tables of the chapters); an event has none. -/
def encode : Instr → Option (BitVec 32)
  | .add d a b t => some (rWord 0x01#7 d a b t 0#9)
  | .sub d a b t => some (rWord 0x01#7 d a b t 1#9)
  | .and d a b t => some (rWord 0x01#7 d a b t 2#9)
  | .or d a b t => some (rWord 0x01#7 d a b t 3#9)
  | .xor d a b t => some (rWord 0x01#7 d a b t 4#9)
  | .andn d a b t => some (rWord 0x01#7 d a b t 5#9)
  | .orn d a b t => some (rWord 0x01#7 d a b t 6#9)
  | .sll d a b t => some (rWord 0x01#7 d a b t 7#9)
  | .srl d a b t => some (rWord 0x01#7 d a b t 8#9)
  | .sra d a b t => some (rWord 0x01#7 d a b t 9#9)
  | .slt d a b t => some (rWord 0x01#7 d a b t 10#9)
  | .sltn d a b t => some (rWord 0x01#7 d a b t 11#9)
  | .min d a b t => some (rWord 0x01#7 d a b t 12#9)
  | .max d a b t => some (rWord 0x01#7 d a b t 13#9)
  | .minn d a b t => some (rWord 0x01#7 d a b t 14#9)
  | .maxn d a b t => some (rWord 0x01#7 d a b t 15#9)
  | .addw d a b t => some (rWord 0x02#7 d a b t 0#9)
  | .subw d a b t => some (rWord 0x02#7 d a b t 1#9)
  | .sllw d a b t => some (rWord 0x02#7 d a b t 2#9)
  | .srlw d a b t => some (rWord 0x02#7 d a b t 3#9)
  | .sraw d a b t => some (rWord 0x02#7 d a b t 4#9)
  | .mul d a b t => some (rWord 0x03#7 d a b t 0#9)
  | .mulh d a b t => some (rWord 0x03#7 d a b t 1#9)
  | .mulhn d a b t => some (rWord 0x03#7 d a b t 2#9)
  | .div d a b t => some (rWord 0x03#7 d a b t 3#9)
  | .divn d a b t => some (rWord 0x03#7 d a b t 4#9)
  | .rem d a b t => some (rWord 0x03#7 d a b t 5#9)
  | .remn d a b t => some (rWord 0x03#7 d a b t 6#9)
  | .clz d a t => some (rWord 0x04#7 d a 0#5 t 0#9)
  | .ctz d a t => some (rWord 0x04#7 d a 0#5 t 1#9)
  | .popc d a t => some (rWord 0x04#7 d a 0#5 t 2#9)
  | .rotl d a b t => some (rWord 0x04#7 d a b t 3#9)
  | .rotr d a b t => some (rWord 0x04#7 d a b t 4#9)
  | .rev8 d a t => some (rWord 0x04#7 d a 0#5 t 5#9)
  | .brev d a t => some (rWord 0x04#7 d a 0#5 t 6#9)
  | .bext d a b t => some (rWord 0x04#7 d a b t 7#9)
  | .bdep d a b t => some (rWord 0x04#7 d a b t 8#9)
  | .sext d a t w => some (rWord 0x04#7 d a 0#5 t (0#2 ++ w ++ 9#5))
  | .zext d a t w => some (rWord 0x04#7 d a 0#5 t (0#2 ++ w ++ 10#5))
  | .addi d a t i => some (iWord 0x05#7 d a t i)
  | .andi d a t i => some (iWord 0x06#7 d a t i)
  | .ori d a t i => some (iWord 0x07#7 d a t i)
  | .xori d a t i => some (iWord 0x08#7 d a t i)
  | .slti d a t i => some (iWord 0x09#7 d a t i)
  | .sltni d a t i => some (iWord 0x0A#7 d a t i)
  | .slli d a t m => some (iWord 0x0B#7 d a t (0#8 ++ m))
  | .srli d a t m => some (iWord 0x0B#7 d a t (64#8 ++ m))
  | .srai d a t m => some (iWord 0x0B#7 d a t (128#8 ++ m))
  | .rotli d a t m => some (iWord 0x0B#7 d a t (192#8 ++ m))
  | .lui d i => some (jWord 0x0C#7 d i)
  | .pcaddu d i => some (jWord 0x0D#7 d i)
  | .selz d a b t => some (rWord 0x0E#7 d a b t 0#9)
  | .selnz d a b t => some (rWord 0x0E#7 d a b t 1#9)
  | .lea d a t s o => some (mWord 0x0F#7 d a t s o)
  | .segck d a b t => some (rWord 0x10#7 d a b t 0#9)
  | .tchk a b t => some (rWord 0x10#7 0#5 a b t 1#9)
  | .ldI8 d a t s o => some (mWord 0x11#7 d a t s o)
  | .ldN8 d a t s o => some (mWord 0x12#7 d a t s o)
  | .ldI16 d a t s o => some (mWord 0x13#7 d a t s o)
  | .ldN16 d a t s o => some (mWord 0x14#7 d a t s o)
  | .ldI32 d a t s o => some (mWord 0x15#7 d a t s o)
  | .ldN32 d a t s o => some (mWord 0x16#7 d a t s o)
  | .ld64 d a t s o => some (mWord 0x17#7 d a t s o)
  | .st8 d a t s o => some (mWord 0x18#7 d a t s o)
  | .st16 d a t s o => some (mWord 0x19#7 d a t s o)
  | .st32 d a t s o => some (mWord 0x1A#7 d a t s o)
  | .st64 d a t s o => some (mWord 0x1B#7 d a t s o)
  | .ldro64 d a t s o => some (mWord 0x1C#7 d a t s o)
  | .pfro a t s o => some (mWord 0x1D#7 0#5 a t s o)
  | .ldfe d a t s o => some (mWord 0x1E#7 d a t s o)
  | .ldff d a t s o => some (mWord 0x1F#7 d a t s o)
  | .stef d a t s o => some (mWord 0x20#7 d a t s o)
  | .stff d a t s o => some (mWord 0x21#7 d a t s o)
  | .fset a t => some (rWord 0x22#7 0#5 a 0#5 t 0#9)
  | .fclr a t => some (rWord 0x22#7 0#5 a 0#5 t 1#9)
  | .fget d a t => some (rWord 0x22#7 d a 0#5 t 2#9)
  | .amoAdd d a b t w => some (rWord 0x23#7 d a b t (0#3 ++ BitVec.ofBool w ++ 0#5))
  | .amoAnd d a b t w => some (rWord 0x23#7 d a b t (0#3 ++ BitVec.ofBool w ++ 1#5))
  | .amoOr d a b t w => some (rWord 0x23#7 d a b t (0#3 ++ BitVec.ofBool w ++ 2#5))
  | .amoXor d a b t w => some (rWord 0x23#7 d a b t (0#3 ++ BitVec.ofBool w ++ 3#5))
  | .amoMin d a b t w => some (rWord 0x23#7 d a b t (0#3 ++ BitVec.ofBool w ++ 4#5))
  | .amoMax d a b t w => some (rWord 0x23#7 d a b t (0#3 ++ BitVec.ofBool w ++ 5#5))
  | .amoMinn d a b t w => some (rWord 0x23#7 d a b t (0#3 ++ BitVec.ofBool w ++ 6#5))
  | .amoMaxn d a b t w => some (rWord 0x23#7 d a b t (0#3 ++ BitVec.ofBool w ++ 7#5))
  | .amoSwap d a b t w => some (rWord 0x23#7 d a b t (0#3 ++ BitVec.ofBool w ++ 8#5))
  | .amoFadd d a b t => some (rWord 0x23#7 d a b t 9#9)
  | .cas d a b t w => some (rWord 0x24#7 d a b t (0#3 ++ BitVec.ofBool w ++ 0#5))
  | .fence k c => some (rWord 0x25#7 (0#2 ++ k) 0#5 0#5 false (0#1 ++ c ++ 0#5))
  | .fencex k c => some (rWord 0x25#7 (0#2 ++ k ++ 0#1) 0#5 0#5 false (0#1 ++ c ++ 1#5))
  | .rocinv a b t => some (rWord 0x26#7 0#5 a b t 0#9)
  | .pjwait d => some (rWord 0x27#7 d 0#5 0#5 false 0#9)
  | .beq a b o => some (bWord 0x28#7 a b 0#3 o)
  | .bne a b o => some (bWord 0x28#7 a b 1#3 o)
  | .blt a b o => some (bWord 0x28#7 a b 2#3 o)
  | .bge a b o => some (bWord 0x28#7 a b 3#3 o)
  | .bltn a b o => some (bWord 0x28#7 a b 4#3 o)
  | .bgen a b o => some (bWord 0x28#7 a b 5#3 o)
  | .bfull a o => some (bWord 0x28#7 a 0#5 6#3 o)
  | .beqi a i o => some (bWord 0x29#7 a i 0#3 o)
  | .bnei a i o => some (bWord 0x29#7 a i 1#3 o)
  | .blti a i o => some (bWord 0x29#7 a i 2#3 o)
  | .bgei a i o => some (bWord 0x29#7 a i 3#3 o)
  | .jal d o => some (jWord 0x2A#7 d o)
  | .jalr d a t i => some (iWord 0x2B#7 d a t i)
  | .loop a b o => some (bWord 0x2C#7 a b 0#3 o)
  | .gform a t => some (rWord 0x2D#7 0#5 a 0#5 t 0#9)
  | .gsplit => some (rWord 0x2D#7 0#5 0#5 0#5 false 1#9)
  | .grejoin => some (rWord 0x2D#7 0#5 0#5 0#5 false 2#9)
  | .gleave => some (rWord 0x2D#7 0#5 0#5 0#5 false 3#9)
  | .pin => some (rWord 0x30#7 0#5 0#5 0#5 false 0#9)
  | .unpin => some (rWord 0x30#7 0#5 0#5 0#5 false 1#9)
  | .semdn n => some (rWord 0x31#7 0#5 (0#1 ++ n) 0#5 false 0#9)
  | .semup n => some (rWord 0x31#7 0#5 (0#1 ++ n) 0#5 false 1#9)
  | .semtry d n => some (rWord 0x31#7 d (0#1 ++ n) 0#5 false 2#9)
  | .qbind q b => some (rWord 0x32#7 0#5 (0#2 ++ q) b false 0#9)
  | .qwaitf d q b => some (rWord 0x32#7 d (0#2 ++ q) b false 1#9)
  | .qwaite d q b => some (rWord 0x32#7 d (0#2 ++ q) b false 2#9)
  | .qadvh q b => some (rWord 0x32#7 0#5 (0#2 ++ q) b false 3#9)
  | .qadvt q b => some (rWord 0x32#7 0#5 (0#2 ++ q) b false 4#9)
  | .qcnt d q => some (rWord 0x32#7 d (0#2 ++ q) 0#5 false 5#9)
  | .yield a t => some (rWord 0x33#7 0#5 a 0#5 t 0#9)
  | .park d a t => some (rWord 0x33#7 d a 0#5 t 1#9)
  | .wake a t => some (rWord 0x33#7 0#5 a 0#5 t 2#9)
  | .tsleep a t => some (rWord 0x34#7 0#5 a 0#5 t 0#9)
  | .clock d s => some (rWord 0x35#7 d (0#4 ++ BitVec.ofBool s) 0#5 false 0#9)
  | .wfw => some (rWord 0x36#7 0#5 0#5 0#5 false 0#9)
  | .tdone => some (rWord 0x37#7 0#5 0#5 0#5 false 0#9)
  | .tfail a t => some (rWord 0x37#7 0#5 a 0#5 t 1#9)
  | .launch d a t => some (rWord 0x38#7 d a 0#5 t 0#9)
  | .lvlcnt d a t => some (rWord 0x39#7 d a 0#5 t 0#9)
  | .lvlwait d a t => some (rWord 0x39#7 d a 0#5 t 1#9)
  | .lvlcancel a t => some (rWord 0x39#7 0#5 a 0#5 t 2#9)
  | .phopen d a t => some (rWord 0x3A#7 d a 0#5 t 0#9)
  | .phclose a t => some (rWord 0x3A#7 0#5 a 0#5 t 1#9)
  | .phwait d a t => some (rWord 0x3A#7 d a 0#5 t 2#9)
  | .msend a b t y => some (iWord 0x3B#7 a b t (0#1 ++ y ++ 0#5))
  | .msendD a b t y => some (iWord 0x3B#7 a b t (1#1 ++ y ++ 0#5))
  | .mend => some (rWord 0x3C#7 0#5 0#5 0#5 false 0#9)
  | .hop a t => some (rWord 0x3D#7 0#5 a 0#5 t 0#9)
  | .mwait d a b t => some (rWord 0x3E#7 d a b t 0#9)
  | .tdecl n a t => some (rWord 0x3F#7 (n.extractLsb' 0 5) a (0#4 ++ n.extractLsb' 5 1) t 0#9)
  | .tarm n a t => some (rWord 0x3F#7 (n.extractLsb' 0 5) a (0#4 ++ n.extractLsb' 5 1) t 1#9)
  | .twait n a t => some (rWord 0x3F#7 (n.extractLsb' 0 5) a (0#4 ++ n.extractLsb' 5 1) t 2#9)
  | .trel n => some (rWord 0x3F#7 (n.extractLsb' 0 5) 0#5 (0#4 ++ n.extractLsb' 5 1) false 3#9)
  | .xset a t k => some (iWord 0x40#7 a 0#5 t (k ++ 0#10))
  | .xcopy a b t => some (iWord 0x40#7 a b t 1#14)
  | .xgather a b t => some (iWord 0x40#7 a b t 2#14)
  | .xscatter a b t => some (iWord 0x40#7 a b t 3#14)
  | .xfill a t => some (iWord 0x40#7 a 0#5 t 4#14)
  | .xlrec a b t => some (iWord 0x40#7 a b t 5#14)
  | .xlflush a t => some (iWord 0x40#7 a 0#5 t 6#14)
  | .strm d a t => some (rWord 0x41#7 (6#3 ++ d) a 0#5 t 0#9)
  | .strmoff d a t => some (rWord 0x41#7 (6#3 ++ d) a 0#5 t 1#9)
  | .vset a b t e => some (iWord 0x42#7 a b t (0#6 ++ e ++ 0#5))
  | .vadd a t x y e => some (iWord 0x43#7 a 0#5 t (x ++ y ++ e ++ 0#5))
  | .vsub a t x y e => some (iWord 0x43#7 a 0#5 t (x ++ y ++ e ++ 1#5))
  | .vmul a t x y e => some (iWord 0x43#7 a 0#5 t (x ++ y ++ e ++ 2#5))
  | .vfma a t x y e => some (iWord 0x43#7 a 0#5 t (x ++ y ++ e ++ 3#5))
  | .vmax a t x y e => some (iWord 0x43#7 a 0#5 t (x ++ y ++ e ++ 4#5))
  | .vmin a t x y e => some (iWord 0x43#7 a 0#5 t (x ++ y ++ e ++ 5#5))
  | .vabs a t x e => some (iWord 0x43#7 a 0#5 t (x ++ 0#3 ++ e ++ 6#5))
  | .vneg a t x e => some (iWord 0x43#7 a 0#5 t (x ++ 0#3 ++ e ++ 7#5))
  | .vscale a b t x e => some (iWord 0x43#7 a b t (x ++ 0#3 ++ e ++ 8#5))
  | .viadd a t x y e => some (iWord 0x44#7 a 0#5 t (x ++ y ++ e ++ 0#5))
  | .visub a t x y e => some (iWord 0x44#7 a 0#5 t (x ++ y ++ e ++ 1#5))
  | .vimul a t x y e => some (iWord 0x44#7 a 0#5 t (x ++ y ++ e ++ 2#5))
  | .viand a t x y e => some (iWord 0x44#7 a 0#5 t (x ++ y ++ e ++ 3#5))
  | .vior a t x y e => some (iWord 0x44#7 a 0#5 t (x ++ y ++ e ++ 4#5))
  | .vixor a t x y e => some (iWord 0x44#7 a 0#5 t (x ++ y ++ e ++ 5#5))
  | .vishl a b t x e => some (iWord 0x44#7 a b t (x ++ 0#3 ++ e ++ 6#5))
  | .vishr a b t x e => some (iWord 0x44#7 a b t (x ++ 0#3 ++ e ++ 7#5))
  | .vconv a t x e => some (iWord 0x45#7 a 0#5 t (x ++ 0#3 ++ e ++ 0#5))
  | .vbfp a t x e => some (iWord 0x45#7 a 0#5 t (x ++ 0#3 ++ e ++ 1#5))
  | .vbfpx a t x e => some (iWord 0x45#7 a 0#5 t (x ++ 0#3 ++ e ++ 2#5))
  | .vcbq a t x e => some (iWord 0x45#7 a 0#5 t (x ++ 0#3 ++ e ++ 3#5))
  | .vcbx a t x e => some (iWord 0x45#7 a 0#5 t (x ++ 0#3 ++ e ++ 4#5))
  | .vsat a b t x e => some (iWord 0x45#7 a b t (x ++ 0#3 ++ e ++ 5#5))
  | .vsum a t x e => some (iWord 0x46#7 a 0#5 t (x ++ 0#3 ++ e ++ 0#5))
  | .vmaxr a t x e => some (iWord 0x46#7 a 0#5 t (x ++ 0#3 ++ e ++ 1#5))
  | .vdot a t x y e => some (iWord 0x46#7 a 0#5 t (x ++ y ++ e ++ 2#5))
  | .vcbld b x => some (iWord 0x47#7 0#5 b false (x ++ 0#11))
  | .mown a t => some (iWord 0x48#7 a 0#5 t 0#14)
  | .mset a t k => some (iWord 0x48#7 a 0#5 t (k ++ 1#10))
  | .mphld a b t n => some (iWord 0x48#7 a b t (0#8 ++ BitVec.ofBool n ++ 2#5))
  | .mswap b => some (iWord 0x48#7 0#5 b false 3#14)
  | .mpass a b t => some (iWord 0x48#7 a b t 4#14)
  | .mdrain a b t => some (iWord 0x48#7 a b t 5#14)
  | .mclr a b t => some (iWord 0x48#7 a b t 6#14)
  | .mprobe b => some (iWord 0x48#7 0#5 b false 7#14)
  | .mdecomp a b t => some (iWord 0x49#7 a b t 0#14)
  | .phrd d a t => some (rWord 0x4A#7 d a 0#5 t 0#9)
  | .phwr a b t => some (rWord 0x4A#7 0#5 a b t 1#9)
  | .mcal a b t => some (iWord 0x4B#7 a b t 0#14)
  | .macrd d a t => some (rWord 0x4C#7 d a 0#5 t 0#9)
  | .colgo a b t => some (iWord 0x4D#7 a b t 0#14)
  | .nidict a b t => some (rWord 0x4E#7 0#5 a b t 0#9)
  | .niclr a t => some (rWord 0x4E#7 0#5 a 0#5 t 1#9)
  | .bsbind a b t => some (rWord 0x50#7 0#5 a b t 0#9)
  | .bsget d a t => some (rWord 0x50#7 d a 0#5 t 1#9)
  | .bspeek d a t => some (rWord 0x50#7 d a 0#5 t 2#9)
  | .bsput a b t => some (rWord 0x50#7 0#5 a b t 3#9)
  | .bsskip a b t => some (rWord 0x50#7 0#5 a b t 4#9)
  | .bsalign d a t => some (rWord 0x50#7 d a 0#5 t 5#9)
  | .bslut d a b t => some (rWord 0x51#7 d a b t 0#9)
  | .crc32c d a b t => some (rWord 0x52#7 d a b t 0#9)
  | .hash64 d a b t => some (rWord 0x52#7 d a b t 1#9)
  | .tfwake d a b t => some (rWord 0x53#7 d a b t 0#9)
  | .sys a t => some (rWord 0x58#7 0#5 a 0#5 t 0#9)
  | .brk => some (rWord 0x58#7 0#5 0#5 0#5 false 1#9)
  | .eret => some (rWord 0x58#7 0#5 0#5 0#5 false 2#9)
  | .halt => some (rWord 0x58#7 0#5 0#5 0#5 false 3#9)
  | .cget d n => some (iWord 0x59#7 d 0#5 false n)
  | .cput a t n => some (iWord 0x5A#7 0#5 a t n)
  | .segld g a t s o => some (mWord 0x5B#7 (0#2 ++ g) a t s o)
  | .segst g a t s o => some (mWord 0x5C#7 (0#2 ++ g) a t s o)
  | .snap d a t => some (rWord 0x5D#7 d a 0#5 t 0#9)
  | .accept d a t => some (rWord 0x5D#7 d a 0#5 t 1#9)
  | .reject d a t => some (rWord 0x5D#7 d a 0#5 t 2#9)
  | .snapq d a t => some (rWord 0x5D#7 d a 0#5 t 3#9)
  | .msadd d a b t => some (rWord 0x5E#7 d a b t 0#9)
  | .msdel d a t => some (rWord 0x5E#7 d a 0#5 t 1#9)
  | .msqry d a t => some (rWord 0x5E#7 d a 0#5 t 2#9)
  | .tlbfa a b t => some (rWord 0x5F#7 0#5 a b t 0#9)
  | .tlbinv d a b t => some (rWord 0x5F#7 d a b t 1#9)
  | .scwb d a b t => some (rWord 0x60#7 d a b t 0#9)
  | .scinv d a b t => some (rWord 0x60#7 d a b t 1#9)
  | .scdom d a b t => some (rWord 0x60#7 d a b t 2#9)
  | .lmpwr d a b t => some (rWord 0x61#7 d a b t 0#9)
  | .hustat d a b t => some (rWord 0x62#7 d a b t 0#9)
  | .pmig d a b t => some (rWord 0x63#7 d a b t 0#9)
  | .pmigsw d a b t => some (rWord 0x63#7 d a b t 1#9)
  | .lnkq d a t => some (rWord 0x64#7 d a 0#5 t 0#9)
  | .lnkfec d a b t => some (rWord 0x64#7 d a b t 1#9)
  | .lnkclaim d a b t => some (rWord 0x64#7 d a b t 2#9)
  | .vbset d a b t => some (rWord 0x65#7 d a b t 0#9)
  | .vbtest d a b t => some (rWord 0x65#7 d a b t 1#9)
  | .crmap d a b t => some (rWord 0x66#7 d a b t 0#9)
  | .dbghalt d a b t => some (rWord 0x67#7 d a b t 0#9)
  | .dbgresume d a b t => some (rWord 0x67#7 d a b t 1#9)
  | .boot _ => none
  | .slotTurn _ _ => none
  | .timebaseDeadline _ => none
  | .niSend _ => none
  | .loadRequest _ => none
  | .loadReply _ => none
  | .postedStore _ => none
  | .storeAck _ => none
  | .storeRefusal _ => none
  | .atomicRequest _ => none
  | .atomicReply _ => none
  | .syncRequest _ => none
  | .syncReply _ => none
  | .syncRetry _ => none
  | .feRetryResend _ _ => none
  | .roFillRequest _ => none
  | .roFillReply _ => none
  | .dirInvalidate _ => none
  | .invalidateAck _ => none
  | .activeMessage _ => none
  | .amRefusal _ => none
  | .amHandlerStart _ => none
  | .engineWrite _ => none
  | .engineReadRequest _ => none
  | .engineReadReply _ => none
  | .batonPass _ => none
  | .batonAnswer _ => none
  | .batonResend _ => none
  | .batonInstall _ => none
  | .withdrawal _ => none
  | .withdrawnAnswer _ => none
  | .launchStatusReply _ => none
  | .controlWindowAccess _ => none
  | .netHopReplay _ _ => none
  | .netHopFail _ _ => none
  | .niBufferParity _ _ => none
  | .queueParity _ _ _ => none
  | .pageWalk _ _ => none
  | .walkMigReread _ _ => none
  | .tlbfaPortDiscard _ => none
  | .tlbinvBroadcast _ => none
  | .scFillComplete _ _ => none
  | .snapRecord _ => none
  | .snapqQuery _ => none
  | .snapSweep _ => none
  | .scSpanWalk _ => none
  | .scdomUpdate _ => none
  | .scrubPatrol _ _ => none
  | .migrationCopy _ _ => none
  | .lmQuarterReady _ _ => none
  | .xfeCommandStart _ => none
  | .xfeCommandEnd _ => none
  | .xfeFault _ => none
  | .streamFetch _ _ => none
  | .streamWrite _ _ => none
  | .veCommandStart _ => none
  | .veCommandEnd _ => none
  | .veFault _ => none
  | .cleCollectiveStart _ => none
  | .cleCollectiveEnd _ => none
  | .dceDecompose _ => none
  | .dceEnd _ => none
  | .omuPassStart _ _ => none
  | .omuPassEnd _ => none
  | .omuPhldRun _ => none
  | .omuSwapRun _ => none
  | .omuSettleSweep _ => none
  | .omuDrainRun _ => none
  | .omuClearRun _ => none
  | .omuCalRun _ => none
  | .omuCalEnd _ => none
  | .omuProbe _ => none
  | .pacerUpdate _ _ _ => none
  | .omuThermalStop _ _ => none
  | .omuThermalResume _ _ => none
  | .groupWatchdog _ _ => none
  | .launchRequest _ => none
  | .launchDistribute _ => none
  | .distributeRetry _ _ => none
  | .dispenserStartUnit _ => none
  | .unitCompletion _ => none
  | .levelWaitRequest _ => none
  | .phaseCloseRequest _ => none
  | .levelCancelDrop _ => none
  | .phaseWave _ => none
  | .remapSwap _ => none
  | .thermalHold _ _ => none
  | .thermalMigrate _ _ _ => none
  | .thermalThrottle _ _ => none
  | .npRegionExpire _ => none
  | .gangSwitchBegin _ => none
  | .gangSwitchSaved _ => none
  | .falloutDivert _ => none
  | .holdupStart => none
  | .holdupStop => none
  | .holdupCopy => none
  | .saveChunkWrite _ => none
  | .holdupCommit => none
  | .holdupReserveMeasure _ => none
  | .rowRepair => none
  | .rowRepairDone _ => none
  | .linkFrameReceive _ _ _ _ _ => none
  | .linkNak _ _ => none
  | .linkChg _ _ _ _ => none
  | .linkCack _ _ => none
  | .linkChgTimeout _ => none
  | .linkBerWindow _ _ _ _ _ => none
  | .linkDown _ _ => none
  | .linkTrainingDone _ _ _ => none
  | .cxlMemRequest _ _ _ _ => none
  | .hostWindowAccess _ _ _ => none
  | .launchWindowGo _ _ _ => none
  | .attestationQuote => none
  | .dirOvfRead _ => none
  | .dirCmdInvalidate _ _ => none
  | .dirCmdRelease _ _ => none
  | .pjRelease _ _ => none
  | .fewtArm _ _ => none
  | .fewtDisarm _ _ => none
  | .gswArm _ _ => none
  | .gswRestore _ _ => none
  | .huTableClear => none
  | .snrInvalidate _ _ _ => none
  | .omuBindWrite _ _ => none
  | .mxGroupWrite _ _ => none
  | .xformWrite _ _ => none
  | .semCountWrite _ _ _ => none
  | .vcbmonWrite _ _ => none
  | .probePeriodWrite _ _ => none
  | .bsBaseWrite _ _ _ => none
  | .linkEnableWrite _ _ => none
  | .coreRetireWrite _ => none
  | .omuSiteRetire _ _ => none
  | .dbgContextAccess _ _ _ => none
  | .registerWrite _ _ _ => none
  | .thermalHoldClear _ _ => none
  | .laneLossOfLock _ _ => none
  | .combSourceFailure _ => none
  | .quoteWritten => none

end Sys2Proof
end

