-- ==== Sys2Proof/Machine/Flags.lean ====
section
/-! DEFINITION. Comparisons and conditions. The part has no condition flags: integer instructions set none (R186) and floating-point
operations set none (R37); a comparison writes 1 or 0, and a branch compares its own operands (R287, R289). -/

namespace Sys2Proof.Machine

/-- 1 for true and 0 for false (R186). -/
def truth (b : Bool) : Word := if b then 1#64 else 0#64

/-- a < b, signed. -/
def ltS (a b : Word) : Bool := a.slt b

/-- a < b, unsigned. -/
def ltU (a b : Word) : Bool := a.ult b

/-- The conditions of BR (R287). -/
inductive Cond where
  | eq | ne | lt | ge | ltn | gen
deriving DecidableEq, Repr

/-- When a branch on two values is taken (R287). -/
def condHolds : Cond → Word → Word → Bool
  | .eq, a, b => decide (a = b)
  | .ne, a, b => decide (a ≠ b)
  | .lt, a, b => ltS a b
  | .ge, a, b => !ltS a b
  | .ltn, a, b => ltU a b
  | .gen, a, b => !ltU a b

/-- The smaller and the larger of two words, signed and unsigned (R187). -/
def minS (a b : Word) : Word := if ltS a b then a else b
def maxS (a b : Word) : Word := if ltS a b then b else a
def minU (a b : Word) : Word := if ltU a b then a else b
def maxU (a b : Word) : Word := if ltU a b then b else a

end Sys2Proof.Machine
end

