-- ==== Sys2Proof/Machine/SMap.lean ====
section
/-! DEFINITION. Sparse maps from numbers: a list of (key, value) pairs in one canonical form. The keys rise strictly and
no entry holds what an unlisted key reads as, so equal maps are equal lists. Memory, register files and the part's many
units are such maps; the default is a function of the key, given at each read and write. -/

namespace Sys2Proof

/-- A sparse map: (key, value) pairs, keys rising. -/
abbrev SMap (β : Type) := List (Nat × β)

/-- The value at `k`; an unlisted key reads as `d k`. -/
def SMap.get {β : Type} (d : Nat → β) : SMap β → Nat → β
  | [], k => d k
  | (k', v) :: m, k => if k = k' then v else SMap.get d m k

/-- The map without an entry at `k`. -/
def SMap.erase {β : Type} : SMap β → Nat → SMap β
  | [], _ => []
  | (k', v) :: m, k => if k = k' then SMap.erase m k else (k', v) :: SMap.erase m k

/-- Puts the entry `(k, v)` before the first larger key. -/
def SMap.insert {β : Type} (k : Nat) (v : β) : SMap β → SMap β
  | [] => [(k, v)]
  | (k', v') :: m => if k < k' then (k, v) :: (k', v') :: m else (k', v') :: SMap.insert k v m

/-- Writes `v` at `k`; writing the default removes the entry. -/
def SMap.set {β : Type} [DecidableEq β] (d : Nat → β) (m : SMap β) (k : Nat) (v : β) : SMap β :=
  if v = d k then SMap.erase m k else SMap.insert k v (SMap.erase m k)

/-- Applies `f` to the value at `k`. -/
def SMap.modify {β : Type} [DecidableEq β] (d : Nat → β) (m : SMap β) (k : Nat) (f : β → β) : SMap β :=
  SMap.set d m k (f (SMap.get d m k))

/-- Every key of the list is above `k`. -/
def SMap.above {β : Type} (k : Nat) (m : SMap β) : Bool := m.all fun e => decide (k < e.1)

/-- The canonical form: keys rise strictly, and no entry holds its default. -/
def SMap.wf {β : Type} [DecidableEq β] (d : Nat → β) : SMap β → Bool
  | [] => true
  | (k, v) :: m => decide (v ≠ d k) && SMap.above k m && SMap.wf d m

/-- `n` as a list of the numbers from `a`: a, a + 1, ... -/
def rangeFrom (a : Nat) : Nat → List Nat
  | 0 => []
  | n + 1 => a :: rangeFrom (a + 1) n

end Sys2Proof
end

