-- ==== Sys2Proof/Machine/State.lean ====
section
/-! DEFINITION. The machine's state: plain data, holding all that the manual gives the part. Units are named by flat keys:
cluster = tower * 160 + cluster, core = cluster * 34 + physical core, slot = core * 16 + slot, site = tower * 168 + site. -/

namespace Sys2Proof.Machine

/-- Thread modes (R327). -/
inductive Mode where
  | user | supervisor
deriving DecidableEq, Repr, Inhabited

/-- The four states of a slot (R283). -/
inductive SlotSt where
  | ready | parked | waiting | stopped
deriving DecidableEq, Repr, Inhabited

/-- A unit that a slot runs (R309, R317): its launch, its index, its levels, its non-pre-emptible region (R325), and the levels whose cancel
it has been told of by its trap: bit 0 its launch, 1 GRAPH, 2 PHASE, 3 JOB (R319). -/
structure UnitRun where
  lid : Nat
  idx : Nat
  graph : Nat
  phase : Nat
  job : Nat
  region : Bool
  start : Nat
  told : Nat
deriving DecidableEq, Repr, Inhabited

/-- A slot's membership of a gang (R303 to R307): the leader's logical core, the size, attached or detached, the split flag
(kept at the leader), and whether the member is parked in `grejoin`. -/
structure Gang where
  lead : Nat
  size : Nat
  att : Bool
  spl : Bool
  rejoin : Bool
deriving DecidableEq, Repr, Inhabited

/-- The answers to an instruction that waits for a round trip: its number, how many answers are still out, the answers, and a trap that an
answer asked for. -/
structure Trip where
  id : Nat
  need : Nat
  vals : List Word
  trap : Option (Nat × Word)
deriving DecidableEq, Repr, Inhabited

/-- One element of a stream FIFO (R174). -/
structure FifoEl where
  v : Word
  pois : Bool
deriving DecidableEq, Repr, Inhabited

/-- Who issued an engine command: slot, thread, ASID, segments, the store barrier in force (R275), and the phase. -/
structure Issuer where
  slot : Nat
  tid : Nat
  asid : Nat
  segs : List Word
  bars : List Nat
deriving DecidableEq, Repr, Inhabited

/-- The answer to one access of an engine: the bytes read, a write performed, or its failure with the cause, the logical and the physical
address (R101, R167, R276). -/
inductive EngAns where
  | data (bytes : List Byte)
  | done (pieces : Nat)
  | fault (cause la pa : Nat)
deriving DecidableEq, Repr, Inhabited

/-- The accesses of an engine command beside those of its elements: the logical and physical address of the one that is out, the answers so
far in order, and whether its end has been reported to the thread. -/
structure EngIo where
  out : Option (Nat × Nat)
  log : List EngAns
  told : Bool
deriving DecidableEq, Repr, Inhabited

/-- A stream register (R172 to R174): in stream mode or not, the thread that set it up, the running descriptor, POS, the FIFO, the next
element that the engine fetches or writes, whether fetching has stopped, a recorded write fault, the stream's number and its engine's access. -/
structure Stream where
  on : Bool
  iss : Issuer
  desc : List Word
  pos : Nat
  fifo : List FifoEl
  next : Nat
  halted : Bool
  fault : Option (Nat × Word)
  id : Nat
  io : EngIo
deriving DecidableEq, Repr, Inhabited

/-- An engine command that a slot has issued and that has not ended: its number, the scope that holds its engine (R273), and whether it
is a VE command. -/
structure CmdRef where
  id : Nat
  scope : Nat
  ve : Bool
deriving DecidableEq, Repr, Inhabited

/-- A baton that a slot has to send or has sent (R152): where it goes, the PC at which the thread resumes, refusals so far, and the
cycle of its re-send. -/
structure BatonOut where
  pa : Nat
  pc : Word
  tries : Nat
  sent : Bool
  due : Option Nat
deriving DecidableEq, Repr, Inhabited

/-- A withdrawn synchronising request of a gang switch (R341, R342). -/
structure ReqRec where
  kind : Nat
  reg : Nat
  pa : Nat
  data : Word
deriving DecidableEq, Repr, Inhabited

/-- One thread slot of a core (R181): its registers with their full, poison, pending and parity-error bits, its thread control registers,
what it waits for, why it is stopped (DBGS, BRKS, HLTS, a switch), and whether it has taken, or does not get, the power-fail broadcast
(R328). Of the instruction that issues it keeps the word, the tag of its fetch when the word is still on its way (R12), and the answers of its
round trip. `traps` holds the causes of the traps that were entered and from which no `eret` has returned yet (R265). -/
structure Slot where
  g : SMap Word
  full : BitVec 32
  pois : BitVec 32
  pend : BitVec 32
  par : BitVec 32
  pc : Word
  mode : Mode
  st : SlotSt
  dbgs : Bool
  brks : Bool
  hlts : Bool
  sws : Bool
  hnd : Option Nat
  unit : Option UnitRun
  cancel : Option Nat
  pf : Bool
  gang : Option Gang
  forming : Option (Nat × Nat)
  solo : Bool
  phase : Nat
  refc : Nat
  tok : Bool
  regs : SMap Word
  strs : SMap Stream
  deadline : Option Nat
  held : Option (BitVec 32)
  fetch : Option Nat
  skip : Nat
  barS : List Nat
  barE : List Nat
  cmds : List CmdRef
  trip : Option Trip
  wfault : Option (Nat × Nat × Word)
  baton : Option BatonOut
  semw : Option Nat
  recs : List ReqRec
  restore : Bool
  tid : Nat
  lastTurn : Nat
  traps : List Nat
deriving DecidableEq, Repr, Inhabited

/-- A posted-store journal entry (R107): outstanding or refused, the issuing slot, size, address, data, the number of the store, and
the reason of a refusal (R108). -/
structure JEntry where
  refused : Bool
  slot : Nat
  size : Nat
  pa : Nat
  data : List Byte
  uid : Nat
  form : Option SyncForm
  reason : Nat
  acc : Acc
deriving DecidableEq, Repr, Inhabited

/-- What a load-and-reply request is (R106). -/
inductive ReqKind where
  | load | atomic | sync | trip | segld | fetch | strmLoad | roFill
deriving DecidableEq, Repr, Inhabited

/-- A request that awaits its answer (R106, R145): the slot, its destination register, how the answer is extended, the message to re-send,
the attempts made, the cycle of a re-send in backoff, whether it is withdrawn (of a read-only fill: its line is not to be installed), and
the destinations that wait for a fill. -/
structure Req where
  kind : ReqKind
  slot : Nat
  reg : Nat
  size : Nat
  signed : Bool
  sync : Option SyncForm
  msg : Msg
  tries : Nat
  due : Option Nat
  withdrawn : Bool
  waits : List (Nat × Nat × Nat)
deriving DecidableEq, Repr, Inhabited

/-- A directory entry (R111, R112): sharers, the overflow bit, the writers whose acknowledgements wait, the invalidates not yet
acknowledged, whether a release by the handler is still needed, and whether the entry is being evicted. -/
structure DirEnt where
  sharers : List Nat
  ovf : Bool
  held : List Msg
  acks : List Nat
  needRelease : Bool
  evict : Bool
deriving DecidableEq, Repr, Inhabited

/-- A record of the overflow queue (R112). -/
structure OvfRec where
  write : Bool
  sharer : Nat
  line : Nat
deriving DecidableEq, Repr, Inhabited

/-- A message in the receive ring that waits for its handler (R116). -/
structure AmEnt where
  slot : Nat
  type : Nat
  prio : Nat
  cls : Nat
  pc : Word
  plen : Nat
  src : Nat
  ph : Nat
deriving DecidableEq, Repr, Inhabited

/-- An NI dictionary slot (R118). -/
structure Dict where
  v : Bool
  tag : Nat
  words : List Word
deriving DecidableEq, Repr, Inhabited

/-- An entry of an LM home's waiter table (R144): a waiting request, or an armed writer trap (`none`). -/
structure Waiter where
  off : Nat
  req : Option Msg
deriving DecidableEq, Repr, Inhabited

/-- A baton that waits in the hop queue (R153). -/
structure BatonIn where
  ctx : List Byte
  hops : Nat
  cls : Nat
deriving DecidableEq, Repr, Inhabited

/-- A bound ring (R298), with the own-LM offset of its descriptor. -/
structure Ring where
  v : Bool
  off : Nat
  desc : Word
  buf : Word
  n : Nat
  ssz : Nat
  head : Nat
  tail : Nat
deriving DecidableEq, Repr, Inhabited

/-- A fault that ends an engine command: the cause, the element and the logical address (R167, R211). -/
structure EngFault where
  cause : Nat
  elem : Nat
  la : Nat
deriving DecidableEq, Repr, Inhabited

/-- The progress of a running engine command: the element, the pieces of it still to read as (logical address, bytes), the bytes read, the
pieces still to write, whether an access is out, tables and index lists read, words of a decoded stream, lanes of a reduction, the layout
records used, and how it ends. -/
structure EngRun where
  elem : Nat
  reads : List (Nat × Nat)
  got : List Byte
  writes : List (Nat × List Byte)
  out : Bool
  table : List Nat
  idx : List Nat
  words : List Word
  lanes : List Nat
  bytes : List Byte
  recS : List Word
  recD : List Word
  total : Nat
  stop : Option EngFault
  ended : Bool
  fault : Option EngFault
deriving DecidableEq, Repr, Inhabited

/-- An XFE command (R165): number, issuer, form (0 copy, 1 gather, 2 scatter, 3 fill), the thread's engine registers, the pointers,
the sequence number, and the dictionary slot as it stood at issue (R163). -/
structure XCmd where
  id : Nat
  iss : Issuer
  form : Nat
  cfg : List Word
  dst : Word
  src : Word
  seq : Nat
  dict : Option (List Word)
  run : Option EngRun
  io : EngIo
deriving DecidableEq, Repr, Inhabited

/-- A record handle of the XFE (R171): the record's logical address with the issuer's translation, and the copy. -/
structure RecH where
  bound : Bool
  iss : Issuer
  la : Nat
  copy : Option (List Word)
deriving DecidableEq, Repr, Inhabited

/-- The VE commands (R208). -/
inductive VOp where
  | vadd | vsub | vmul | vfma | vmax | vmin | vabs | vneg | vscale
  | viadd | visub | vimul | viand | vior | vixor | vishl | vishr
  | vconv | vbfp | vbfpx | vcbq | vcbx | vsat | vsum | vmaxr | vdot | vcbld
deriving DecidableEq, Repr, Inhabited

/-- A VE command (R209): number, issuer, form, VFMT, count, scalar, the bases of destination and sources, source tiles, stamp, sequence
number, and THR_VCBCFG. -/
structure VCmd where
  id : Nat
  iss : Issuer
  op : VOp
  fmt : Nat
  n : Nat
  s : Word
  dst : Word
  srcA : Word
  srcB : Word
  tiles : List Nat
  stamp : Word
  seq : Nat
  cbcfg : Word
  run : Option EngRun
  io : EngIo
deriving DecidableEq, Repr, Inhabited

/-- One core (R1): its registers, LM quarters, journal, requests, NI, read-only cache, directory, receive ring, waiter table, queues,
rings, engines, switch state, and the power requests at its LM controller that are not finished, with the mask and the answer of each (R139). -/
structure Core where
  regs : SMap Word
  lmOn : BitVec 4
  lmDue : SMap Nat
  journal : SMap (Option JEntry)
  reqs : SMap (Option Req)
  ni : List Msg
  roc : SMap (Option (List Byte))
  dir : SMap (Option DirEnt)
  ovfQ : List OvfRec
  ovfWait : List OvfRec
  dirBusy : List (Nat × Nat)
  dirRelease : List Nat
  amHeld : List (Nat × Nat)
  amQ : List AmEnt
  dict : SMap Dict
  waiters : List Waiter
  hopQ : List BatonIn
  evq : List (Nat × Word)
  rings : SMap Ring
  pin : Option Nat
  xq : List XCmd
  recs : SMap RecH
  vq : List VCmd
  t16 : Option (List Nat)
  t256 : Option (List Nat)
  gst : Nat
  saved : Nat
  gset : Nat
  divert : Bool
  pwr : List (Msg × Nat × Nat)
deriving DecidableEq, Repr, Inhabited

/-- A tile entry (R157). -/
structure Tile where
  v : Bool
  off : Nat
  size : Nat
  exp : Nat
  left : Nat
  st : Nat
  ph : Bool
  rd : Nat
  ovr : Bool
deriving DecidableEq, Repr, Inhabited

/-- A TLB entry (R61): ASID, logical page, log2 of the page size, rights, the D, C and S bits, frame. -/
structure TlbE where
  asid : Nat
  page : Nat
  lg : Nat
  r : Bool
  w : Bool
  d : Bool
  c : Bool
  s : Bool
  frame : Nat
deriving DecidableEq, Repr, Inhabited

/-- For whom a memory port walks: a slot whose access waits, an engine (R56), or a slot's `pmig` or `pmigsw` (R69). -/
inductive Walker where
  | slot (k : Nat)
  | engine (eng : Agent)
  | page (k : Nat)
deriving DecidableEq, Repr, Inhabited

/-- What a walk found: its leaf's address, level and value, a failure, or poison (R57, R59). -/
inductive WalkEnd where
  | leaf (pa lvl : Nat) (e : Word)
  | fail
  | poison (cause : Nat)
deriving DecidableEq, Repr, Inhabited

/-- A table walk at a memory port (R57): for whom, the ASID, the logical address, the level and table of the entry that it reads next
(none before it starts), after a leaf that read MIG = 2 that entry's address and level (R59), and an end that its walker has still to
take. -/
structure Walk where
  who : Walker
  asid : Nat
  la : Nat
  next : Option (Nat × Nat)
  leaf : Option (Nat × Nat)
  res : Option WalkEnd
deriving DecidableEq, Repr, Inhabited

/-- A queued ranged invalidate (R64), with the logical ranges of the entries that it has removed, as start and length. -/
structure TlbInv where
  seq : Nat
  asid : Nat
  page : Nat
  len : Nat
  hint : Nat
  gone : List (Nat × Nat)
deriving DecidableEq, Repr, Inhabited

/-- A phase bank's content (R229). -/
structure PhaseBank where
  codes : List (BitVec 16)
  ew : Int
  rng : Nat
  cebc : Nat
  block : Nat
  refs : List Nat
deriving DecidableEq, Repr, Inhabited

/-- A piece of a pass's input that has been read before its row enters: its CSP offset, its bytes, and the cause of its poison, 0 for none
(R254). -/
structure FedPiece where
  off : Nat
  bytes : List Byte
  cause : Nat
deriving DecidableEq, Repr, Inhabited

/-- A command of the OMU queue (R246): number, issuer, function index (15 for `mcal`), word, bank of an `mphld`, image address, SEQ,
copies of MASK and CFG, the stamp's logical address, whether it has started, rows entered, the pieces of later rows read, the lowest EBC seen, whether
it was clipped, the gains at its start, and its end: cause, reason, failing row and declared EBC. -/
structure MxCmd where
  id : Nat
  iss : Issuer
  fn : Nat
  word : Word
  bank : Bool
  la : Nat
  seq : Nat
  mask : Nat
  cfg : Word
  stamp : Option Nat
  started : Bool
  rows : Nat
  fed : List FedPiece
  low : Nat
  clip : Bool
  gains : List Nat
  ended : Option (Nat × Nat × Nat × Nat)
  io : EngIo
deriving DecidableEq, Repr, Inhabited

/-- A decomposition in the DCE (R262). -/
structure DceCmd where
  id : Nat
  iss : Issuer
  src : Nat
  dst : Nat
  stride : Nat
  exp : Option Int
  rng : Nat
  wfmt : Nat
  stamp : Nat
  seq : Nat
  running : Bool
  result : Option (Nat × List Byte × Nat × Nat)
  io : EngIo
deriving DecidableEq, Repr, Inhabited

/-- A launch in a dispenser (R315, R316): its record fields, the units of this cluster that have not started, as
(unit index, logical core), the argument dwords, and the tick of its last start or its acceptance. -/
structure DLaunch where
  pc : Word
  prio : Nat
  cls : Nat
  ph : Nat
  np : Bool
  lid : Nat
  graph : Nat
  phase : Nat
  job : Nat
  asid : Nat
  args : List Word
  left : List (Nat × Nat)
  since : Nat
deriving DecidableEq, Repr, Inhabited

/-- A timer of a matrix group as its member keeps it (R264): the pass number, the tick at which it started, the ticks it was paused, the
tick at which a pause began, and whether it has stopped or raised. -/
structure GTimer where
  n : Nat
  start : Nat
  off : Nat
  pausedAt : Option Nat
  stopped : Bool
deriving DecidableEq, Repr, Inhabited

/-- One cluster (R1): registers, the cycle after that of the last write that its CSP performed (R158), remap table,
tiles, memory port, OMU back end, DCE and dispenser, and the cluster cycle counter as a base and the cycle since which it runs at the present rate (R282). -/
structure Cluster where
  regs : SMap Word
  wrote : Nat
  remap : SMap Nat
  swap : Option (Nat × Nat × Nat × Nat)
  tiles : SMap Tile
  tlb : List TlbE
  walks : List Walk
  tlbq : List TlbInv
  acc : SMap (BitVec 32)
  bankA : Option PhaseBank
  bankB : Option PhaseBank
  act : Bool
  own : Option Nat
  mxq : List MxCmd
  settle : Bool
  live : List Nat
  passEbc : Nat
  probeEbc : Nat
  gtimers : List GTimer
  dce : List DceCmd
  dsp : SMap (Option DLaunch)
  inq : List DLaunch
  last : Nat
  temp : Nat
  hold : Bool
  thr : Bool
  migAt : Nat
  cycBase : Nat
  cycSince : Nat
deriving DecidableEq, Repr, Inhabited

/-- One OMU site (R239, R242): its state, the registers that its clusters share, the symbol time from which the next probe is counted,
probe counters, drift state, the cluster whose bank is in its meshes and the cluster of the last pass, and the cycle of the next pacer
update. -/
structure Site where
  st : Nat
  regs : SMap Word
  temp : Nat
  tmax : Nat
  sym : Nat
  nextk : Nat
  worstj : Nat
  clean : Nat
  trimOut : Bool
  user : Option Nat
  last : Option Nat
  pacerAt : Nat
deriving DecidableEq, Repr, Inhabited

/-- An SC tag (R74): dirty or clean, domain, data entry, snapshot level, C bit, the cause when the line is poison, and the domain monitors
since whose enabling the line was filled or written, bit n for monitor n (R94). -/
structure Tag where
  dirty : Bool
  dom : Nat
  ptr : Nat
  lvl : Nat
  c : Bool
  pois : Nat
  seen : Nat
deriving DecidableEq, Repr, Inhabited

/-- An SC data entry (R74). -/
structure DEntry where
  bytes : List Byte
  cnt : Nat
  sig : Nat
  closed : Bool
deriving DecidableEq, Repr, Inhabited

/-- A shadow (R81, R83): its line, range, level, domain, its data entry (none once it stands in its pool slot), its poison cause and its
reserved pool slot. -/
structure Shadow where
  line : Nat
  rng : Nat
  lvl : Nat
  dom : Nat
  ptr : Option Nat
  pois : Nat
  slot : Nat
deriving DecidableEq, Repr, Inhabited

/-- A recorded accept or reject whose work on lines is not finished (R86): the range, the operation, the level before it, and the lines
that held a shadow of the range when it was recorded. -/
structure PendOp where
  rng : Nat
  reject : Bool
  level : Nat
  lines : List Nat
deriving DecidableEq, Repr, Inhabited

/-- A migration entry (R70): old and new frame, page size, next line to copy, C bit, copying or switched, the ASID and logical page, and the
slot whose switch is under way (R71). -/
structure Migr where
  old : Nat
  new : Nat
  size : Nat
  next : Nat
  c : Bool
  switched : Bool
  asid : Nat
  la : Nat
  by_ : Option Nat
deriving DecidableEq, Repr, Inhabited

/-- A collective of the CLE (R175). -/
structure ColCmd where
  id : Nat
  iss : Issuer
  op : Nat
  len : Nat
  stamp : Nat
  bufs : List Nat
  seq : Nat
  running : Bool
  fault : Option (Nat × Nat)
  io : EngIo
deriving DecidableEq, Repr, Inhabited

/-- A level waiter (R320): the id, and the request as it came. -/
structure LvlWait where
  id : Nat
  msg : Msg
deriving DecidableEq, Repr, Inhabited

/-- A launch whose distribution is not complete (R315): the message that asked, the clusters that have not accepted, with the cycle of
a retry, and whether a level of it is cancelled (R319). -/
structure Dist where
  launch : LaunchMsg
  reply : Option Msg
  slot : Option Nat
  todo : List Nat
  due : Nat
  cxl : Bool
deriving DecidableEq, Repr, Inhabited

/-- A phase in its waves (R322): the id and the cycle of its next wave. -/
structure Wave where
  id : Nat
  due : Nat
deriving DecidableEq, Repr, Inhabited

/-- One tower (R1): registers, SC slice, snapshot work, domain table, migration entries, CLE, levels, the fallout area, and the cycle after
that of the last write that its SC performed (R87). -/
structure Tower where
  regs : SMap Word
  tags : SMap (Option Tag)
  entries : SMap DEntry
  buckets : SMap (List (Nat × Nat))
  shadows : List Shadow
  fills : SMap (Option Acc)
  pend : List PendOp
  doms : SMap Nat
  migr : List Migr
  cle : List ColCmd
  lvlw : List LvlWait
  holdq : List LaunchMsg
  dist : List Dist
  waves : List Wave
  fall : List (Nat × Msg)
  wrote : Nat
deriving DecidableEq, Repr, Inhabited

/-- A must-save region entry (R352). -/
structure Region where
  asid : Nat
  prio : Nat
  tag : Nat
  start : Nat
  len : Nat
deriving DecidableEq, Repr, Inhabited

/-- A region of a save plan (R359). -/
structure PlanEnt where
  handle : Nat
  region : Region
deriving DecidableEq, Repr, Inhabited

/-- A chunk record of the save flash (R359): EPOCH, HANDLE, INDEX, the payload of 65,536 bytes, and both CRC-32C values. -/
structure Chunk where
  epoch : Nat
  handle : Nat
  index : Nat
  data : List Byte
  crcP : Nat
  crcT : Nat
deriving DecidableEq, Repr, Inhabited

/-- The save flash (R359): the plan block's EPOCH, regions and CRC-32C, the chunk records, and the commit block, when it is present, as EPOCH and the
CRC-32C of the plan block. -/
structure Flash where
  epoch : Nat
  plan : List PlanEnt
  crc : Nat
  chunks : List Chunk
  commit : Option (Nat × Nat)
deriving DecidableEq, Repr, Inhabited

/-- The phases of the hold-up sequence (R356). -/
inductive HuPhase where
  | idle | shed | drain | copy | committed
deriving DecidableEq, Repr, Inhabited

/-- A link port (R377 to R387): STATE, LEVEL, FLANE, SWPOS, PEER, OWNER and TAG; the next data frame's number to send and to receive; the lane map
in force (R377); the proposal that it has sent, as (level, lane, S, tick), an agreed change that waits for frame S of the peer (`true`) or its own,
and a lane whose takeover is to be proposed again (R380); the frame whose replays fail and how often, the windows in a row that want a lower level,
and the counts of the last window; the requests of a waiting `lnkfec` and `lnkclaim`; a claim that the end of its cycle decides, with its TAG, and
the cycle after it (R385); whether a failover runs; requests that have left and are not answered; the messages in the replay buffer, each with the
number of its last frame; forwarded messages that wait to leave; the active messages that a link down has reported; and the control frames sent
since training, as (TYPE, operands) (R378). -/
structure Port where
  state : Nat
  level : Nat
  flane : Nat
  swpos : Nat
  peer : Nat
  owner : Nat
  tag : Nat
  seqTx : Nat
  seqRx : Nat
  lmap : Word
  prop : Option (Nat × Nat × Nat × Nat)
  agreed : Option (Bool × Nat × Nat × Nat)
  takeover : Option Nat
  nak : Nat
  fails : Nat
  low : Nat
  corrected : Nat
  bad : Nat
  fec : Option Msg
  claim : Option Msg
  bid : Option (Msg × Nat)
  bidAt : Nat
  failover : Bool
  sent : List Msg
  buf : List (Nat × LinkMsg)
  fwd : List LinkMsg
  ended : List Msg
  ctl : List (Nat × Nat)
deriving DecidableEq, Repr, Inhabited

/-- A slot of the host's launch window (R391): the record, CTL, ST, whether it is busy, and whether the launch agent has still to
take it, with the cycle of its GO write. -/
structure HSlot where
  dw : List Word
  ctl : Word
  st : Word
  busy : Bool
  todo : Bool
  at_ : Nat
deriving DecidableEq, Repr, Inhabited

/-- What a slot that is switched out keeps besides its record: the core that wrote it, the unit that it runs, answers that an instruction
waits for, and the traps from which it has not returned (R265, R342, R344). -/
structure GOut where
  core : Nat
  unit : Option UnitRun
  trip : Option Trip
  traps : List Nat
deriving DecidableEq, Repr, Inhabited

/-- What the host receives for a CXL.mem request: the bytes of a load, or none for a store that is performed; poison; a completer abort; or an
unsupported-request completion (R55, R85, R141, R389, R410). -/
inductive HostCpl where
  | done (bs : List Byte)
  | poison
  | abort
  | unsupported
deriving DecidableEq, Repr, Inhabited

/-- The module: registers, save engine, hold-up state, save flash, links, launch window, retirements, the repair that runs and those recorded
(R366, R393), the facts of the boot that runs, trust, the network hops (cluster and direction) that have failed (R373), the faulty wires of the
vertical buses (R125), the completions that CXL.mem requests have received (R389), and the threads that are switched out, by the address of their
record. -/
structure Modul where
  regs : SMap Word
  off : Bool
  regions : SMap (Option Region)
  quota : SMap Nat
  hu : HuPhase
  huT0 : Nat
  plan : List (Nat × Nat)
  flash : Flash
  ports : SMap Port
  routes : SMap Word
  hslots : SMap HSlot
  relCore : SMap Nat
  relOmu : SMap Nat
  repair : Option (Nat × Word)
  rowFix : List Word
  boot : Option Nat
  comb : Nat
  quoteDue : Bool
  quote : List Byte
  meas : SMap Nat
  msix : List Nat
  measAt : Nat
  hops : List (Nat × Nat)
  wires : List Wire
  cpls : List HostCpl
  gout : SMap (Option GOut)
deriving DecidableEq, Repr, Inhabited

/-- What the last evaluation of an instruction did to its slot (R10, R183), and of a conditional branch that it was taken: the gang logic of
R304 and R305 looks at it. -/
inductive Mark where
  | done | taken | parked | trapped
deriving DecidableEq, Repr, Inhabited

/-- The whole machine. `turn` says that slot `cur` evaluates its instruction in the next step; else the next step takes the next event, from
`agenda` while it lasts and then from the free choices. `free` numbers the free values taken, `fresh` the commands, stores and trips.
`turnsTo` is the first cycle whose issue turns are open: an event closes those of its cycle (R184). `empties` names the parked slots whose turns of
this cycle are empty, since what they wait for did not hold when it began (R284). `touch` is the OR, for each phase number, of the TOUCH bits of the
package's phase counters (R121). `mem` holds LM, CSP and tier bytes, `fe` the full bit of each LM
word, `bad` the poison cause of each check granule, `flips` the bits of each LM word that its array holds wrong (R125), `form` the form tag of
each second-tier line pair. `net` holds the messages in flight, oldest first. -/
structure State where
  turn : Bool
  cur : Nat
  mark : Mark
  agenda : List Choice
  choices : Nat
  free : Nat
  fresh : Nat
  time : Nat
  turnsTo : Nat
  empties : List Nat
  touch : BitVec 4
  mem : List Host.Cell
  fe : SMap Bool
  bad : SMap Nat
  flips : SMap Nat
  form : SMap Nat
  slots : SMap Slot
  cores : SMap Core
  clusters : SMap Cluster
  towers : SMap Tower
  sites : SMap Site
  modul : Modul
  net : List Msg
deriving DecidableEq, Repr, Inhabited

/-- Why the machine stops. -/
inductive Fault where
  /-- Raised by `step` once the module has powered off after a hold-up commit (R356) and before the next boot: nothing evaluates an
  instruction. Safe: no later state is claimed. -/
  | poweredOff
deriving DecidableEq, Repr

/-- Why a word has no meaning in this model. -/
inductive Refusal where
  /-- Raised by an arm of `exec` for an instruction that has no meaning yet. Safe: no state is claimed. -/
  | notModelled (mnemonic : String)
deriving DecidableEq, Repr

/-- A stream register that is not in stream mode. -/
def EngIo.reset : EngIo := ⟨none, [], false⟩
def Stream.reset : Stream := ⟨false, ⟨0, 0, 0, [], []⟩, [], 0, [], 0, false, none, 0, EngIo.reset⟩

/-- A slot after reset (R182, R202): supervisor mode, g0 full and every other register empty, waiting for work (R308).
DESIGN CHOICE, unsafe (log entry 1). -/
def Slot.reset : Slot :=
  { g := [], full := 1#32, pois := 0#32, pend := 0#32, par := 0#32, pc := 0#64, mode := .supervisor, st := .waiting, dbgs := false,
    brks := false, hlts := false, sws := false, hnd := none, unit := none, cancel := none, pf := false, gang := none,
    forming := none, solo := false, phase := 0, refc := 0, tok := false, regs := [], strs := [], deadline := none,
    held := none, fetch := none, skip := 0, barS := [], barE := [], cmds := [], trip := none, wfault := none, baton := none, semw := none,
    recs := [], restore := false, tid := 0, lastTurn := 0, traps := [] }

/-- A dictionary slot that is not valid. -/
def Dict.reset : Dict := ⟨false, 0, []⟩

/-- A ring that is not bound. -/
def Ring.reset : Ring := ⟨false, 0, 0#64, 0#64, 0, 0, 0, 0⟩

/-- A record handle that is not bound. -/
def RecH.reset : RecH := ⟨false, ⟨0, 0, 0, [], []⟩, 0, none⟩

/-- A core after reset: every quarter on (R155), every queue empty. -/
def Core.reset : Core :=
  { regs := [], lmOn := 15#4, lmDue := [], journal := [], reqs := [], ni := [], roc := [], dir := [], ovfQ := [], ovfWait := [],
    dirBusy := [], dirRelease := [], amHeld := [], amQ := [], dict := [], waiters := [], hopQ := [], evq := [],
    rings := [], pin := none, xq := [], recs := [], vq := [], t16 := none, t256 := none, gst := 0, saved := 0, gset := 0,
    divert := false, pwr := [] }

/-- A tile entry that is not declared. -/
def Tile.reset : Tile := ⟨false, 0, 0, 0, 0, 0, false, 0, false⟩

/-- A cluster after reset: the remap table is the identity (R323), both phase banks invalid (R256), every accumulator +0.0 (R245). -/
def Cluster.reset : Cluster :=
  { regs := [], wrote := 0, remap := [], swap := none, tiles := [], tlb := [], walks := [], tlbq := [], acc := [], bankA := none,
    bankB := none, act := false, own := none, mxq := [], settle := false, live := [], passEbc := 0,
    probeEbc := 0, gtimers := [], dce := [], dsp := [], inq := [], last := 0, temp := 0, hold := false, thr := false,
    migAt := 0, cycBase := 0, cycSince := 0 }

/-- A site after reset: OFF (R244). -/
def Site.reset : Site :=
  { st := 0, regs := [], temp := 0, tmax := 0, sym := 0, nextk := 0, worstj := 0, clean := 0, trimOut := false,
    user := none, last := none, pacerAt := 0 }

/-- An entry of the SC data array that is free. -/
def DEntry.reset : DEntry := ⟨[], 0, 0, false⟩

/-- A tower after reset: an empty SC. -/
def Tower.reset : Tower :=
  { regs := [], tags := [], entries := [], buckets := [], shadows := [], fills := [], pend := [], doms := [], migr := [],
    cle := [], lvlw := [], holdq := [], dist := [], waves := [], fall := [], wrote := 0 }

/-- A link port after reset: down (R387), no lane taken over, no claim. -/
def Port.reset : Port :=
  { state := 0, level := 0, flane := 15, swpos := 0, peer := 0, owner := 0, tag := 0, seqTx := 0, seqRx := 0, lmap := 0#64, prop := none,
    agreed := none, takeover := none, nak := 4096, fails := 0, low := 0, corrected := 0, bad := 0, fec := none, claim := none, bid := none,
    bidAt := 0, failover := false, sent := [], buf := [], fwd := [], ended := [], ctl := [] }

/-- A launch slot that has never been used. -/
def HSlot.reset : HSlot := ⟨[], 0#64, 0#64, false, false, 0⟩

/-- The module after reset: an empty save flash, no region, the primary comb source. -/
def Modul.reset : Modul :=
  { regs := [], off := false, regions := [], quota := [], hu := .idle, huT0 := 0, plan := [],
    flash := ⟨0, [], 0, [], none⟩, ports := [], routes := [], hslots := [], relCore := [],
    relOmu := [], repair := none, rowFix := [], boot := none, comb := 0, quoteDue := false, quote := [], meas := [], msix := [],
    measAt := 0, hops := [], wires := [], cpls := [], gout := [] }

/-- The machine right after reset. Boot is its first event (R393); memory lists nothing.
DESIGN CHOICE, unsafe (log entry 3); DEDUCED, safe (log entry 4); DESIGN CHOICE, safe (log entry 19). -/
def State.reset : State :=
  { turn := false, cur := 0, mark := .done, agenda := [⟨0, .boot true⟩], choices := 0, free := 0, fresh := 1, time := 0,
    turnsTo := 0, empties := [], touch := 0#4,
    mem := [], fe := [], bad := [], flips := [], form := [], slots := [], cores := [], clusters := [], towers := [], sites := [],
    modul := Modul.reset, net := [] }

end Sys2Proof.Machine
end

