-- ==== Sys2Proof/Machine/Ops.lean ====
section
/-! DEFINITION. Named operations over the state: its units, registers and full bits, the event queue, taking a trap and
returning from one, and the end of an instruction's turn. -/

namespace Sys2Proof.Machine

/-- The machine's outcomes. -/
abbrev Out := Host.Outcome State Fault Refusal

/-! Units by their flat keys. -/

def slotAt (s : State) (k : Nat) : Slot := SMap.get (fun _ => Slot.reset) s.slots k
def setSlot (s : State) (k : Nat) (x : Slot) : State := { s with slots := SMap.set (fun _ => Slot.reset) s.slots k x }
def modSlot (s : State) (k : Nat) (f : Slot → Slot) : State := setSlot s k (f (slotAt s k))

def coreAt (s : State) (c : Nat) : Core := SMap.get (fun _ => Core.reset) s.cores c
def setCore (s : State) (c : Nat) (x : Core) : State := { s with cores := SMap.set (fun _ => Core.reset) s.cores c x }
def modCore (s : State) (c : Nat) (f : Core → Core) : State := setCore s c (f (coreAt s c))

def clusterAt (s : State) (c : Nat) : Cluster := SMap.get (fun _ => Cluster.reset) s.clusters c
def setCluster (s : State) (c : Nat) (x : Cluster) : State :=
  { s with clusters := SMap.set (fun _ => Cluster.reset) s.clusters c x }
def modCluster (s : State) (c : Nat) (f : Cluster → Cluster) : State := setCluster s c (f (clusterAt s c))

def towerAt (s : State) (t : Nat) : Tower := SMap.get (fun _ => Tower.reset) s.towers t
def setTower (s : State) (t : Nat) (x : Tower) : State := { s with towers := SMap.set (fun _ => Tower.reset) s.towers t x }
def modTower (s : State) (t : Nat) (f : Tower → Tower) : State := setTower s t (f (towerAt s t))

def siteAt (s : State) (t : Nat) : Site := SMap.get (fun _ => Site.reset) s.sites t
def setSite (s : State) (t : Nat) (x : Site) : State := { s with sites := SMap.set (fun _ => Site.reset) s.sites t x }
def modSite (s : State) (t : Nat) (f : Site → Site) : State := setSite s t (f (siteAt s t))

def modModul (s : State) (f : Modul → Modul) : State := { s with modul := f s.modul }

/-- The core of a slot, and a slot of a core. -/
def coreOf (k : Nat) : Nat := k / 16
def slotNo (k : Nat) : Nat := k % 16
def slotOf (core n : Nat) : Nat := core * 16 + n

/-- The cluster and the physical number of a core, and a core of a cluster. -/
def clusterOf (c : Nat) : Nat := c / 34
def physNo (c : Nat) : Nat := c % 34
def coreIn (cl p : Nat) : Nat := cl * 34 + p

/-- The tower of a cluster, and its number there. -/
def towerOf (cl : Nat) : Nat := cl / 160
def clusterNo (cl : Nat) : Nat := cl % 160
def clusterIn (t n : Nat) : Nat := t * 160 + n

/-- The physical core of entry `i` of a remap table (R323). -/
def Cluster.phys (c : Cluster) (i : Nat) : Nat := SMap.get (fun i => i) c.remap i

/-- The entry that names physical core `p`: a logical core, or 33 for the spare (R323). -/
def Cluster.logical (c : Cluster) (p : Nat) : Nat := ((rangeFrom 0 34).find? fun i => c.phys i = p).getD 33

/-- The core key of a logical core of a cluster. -/
def lcoreKey (s : State) (cl i : Nat) : Nat := coreIn cl ((clusterAt s cl).phys i)

/-- The logical core of a core key. -/
def lcoreOf (s : State) (core : Nat) : Nat := (clusterAt s (clusterOf core)).logical (physNo core)

/-- The next free value's number (a value that the manual leaves open). DESIGN CHOICE, safe (log entry 75). -/
def takeFree (s : State) : Nat × State := (s.free, { s with free := s.free + 1 })

/-- The next number for a command, a store or a trip. -/
def takeFresh (s : State) : Nat × State := (s.fresh, { s with fresh := s.fresh + 1 })

/-- The module time base: 1 GHz ticks, where a CCLK cycle is 0.625 ns (R6). -/
def tickOf (s : State) : Nat := s.time * 5 / 8

/-- The time base at the end of the last cycle: what a turn of this cycle sees of deadlines (R284). -/
def tickPast (s : State) : Nat := (s.time - 1) * 5 / 8

/-- The cycle at which the time base reaches a tick. -/
def cycleOfTick (t : Nat) : Nat := (t * 8 + 4) / 5

/-- The cluster cycle counter (R282): at half rate while the cluster is throttled (R324). -/
def clusterCycle (s : State) (cl : Nat) : Nat :=
  let c := clusterAt s cl
  c.cycBase + (s.time - c.cycSince) / (if c.thr then 2 else 1)

/-! Bits of the register state vectors. -/

def bitOf (b : BitVec 32) (i : Nat) : Bool := b.getLsbD i
def bitSet (b : BitVec 32) (i : Nat) : BitVec 32 := b ||| (1#32 <<< i)
def bitClr (b : BitVec 32) (i : Nat) : BitVec 32 := b &&& ~~~(1#32 <<< i)

/-- g0 reads zero (R181). -/
def Slot.reg (x : Slot) (r : Nat) : Word := if r = 0 then 0#64 else SMap.get (fun _ => 0#64) x.g r

/-- Writes a general register and sets it full; a write clears poison; g0 discards (R14, R138, R182). -/
def Slot.setReg (x : Slot) (r : Nat) (v : Word) : Slot :=
  if r = 0 then x
  else { x with g := SMap.set (fun _ => 0#64) x.g r v, full := bitSet x.full r, pois := bitClr x.pois r, par := bitClr x.par r }

/-- Delivers poison into a register: full, with the cause in [63:57] and [55:0] as given (R138). -/
def poisonWord (cause addr : Nat) : Word := nw (cause % 128 * 2 ^ 57 + addr % 2 ^ 56)

def Slot.setPoison (x : Slot) (r : Nat) (v : Word) : Slot :=
  if r = 0 then x
  else { x with g := SMap.set (fun _ => 0#64) x.g r v, full := bitSet x.full r, pois := bitSet x.pois r, par := bitClr x.par r }

/-- A load-and-reply form empties its destination and leaves it pending (R137, R182). -/
def Slot.pending (x : Slot) (r : Nat) : Slot :=
  if r = 0 then x else { x with full := bitClr x.full r, pend := bitSet x.pend r }

/-- The reply ends the pending state (R182). -/
def Slot.unpend (x : Slot) (r : Nat) : Slot := { x with pend := bitClr x.pend r }

/-- A take clears the full bit of its register; of g0 it has no effect (R14). -/
def Slot.take (x : Slot) (r : Nat) : Slot := if r = 0 then x else { x with full := bitClr x.full r }

/-- A thread control register as stored. -/
def Slot.creg (x : Slot) (n : Nat) : Word := SMap.get regReset x.regs n
def Slot.setCreg (x : Slot) (n : Nat) (v : Word) : Slot := { x with regs := SMap.set regReset x.regs n v }

def Core.creg (x : Core) (n : Nat) : Word := SMap.get regReset x.regs n
def Core.setCreg (x : Core) (n : Nat) (v : Word) : Core := { x with regs := SMap.set regReset x.regs n v }
def Cluster.creg (x : Cluster) (n : Nat) : Word := SMap.get regReset x.regs n
def Cluster.setCreg (x : Cluster) (n : Nat) (v : Word) : Cluster := { x with regs := SMap.set regReset x.regs n v }
def Tower.creg (x : Tower) (n : Nat) : Word := SMap.get regReset x.regs n
def Tower.setCreg (x : Tower) (n : Nat) (v : Word) : Tower := { x with regs := SMap.set regReset x.regs n v }
def Site.creg (x : Site) (n : Nat) : Word := SMap.get regReset x.regs n
def Site.setCreg (x : Site) (n : Nat) (v : Word) : Site := { x with regs := SMap.set regReset x.regs n v }
def Modul.creg (x : Modul) (n : Nat) : Word := SMap.get regReset x.regs n
def Modul.setCreg (x : Modul) (n : Nat) (v : Word) : Modul := { x with regs := SMap.set regReset x.regs n v }

/-- Adds `k` to a counter field of `n` bits at `lo`, wrapping. -/
def addF (w : Word) (lo n k : Nat) : Word := setF w lo n (bitF w lo n + k)

/-- The thread's ASID (R336). -/
def Slot.asid (x : Slot) : Nat := bitF (x.creg 0x085) 0 12

/-- The sixteen dwords of seg0 to seg7 (R135). -/
def Slot.segWords (x : Slot) : List Word := (rangeFrom 0xC0 16).map x.creg

/-- A slot's class (R286, R308). -/
def slotClass (s : State) (k : Nat) : Nat := bitF ((coreAt s (coreOf k)).creg 0x181) (2 * slotNo k) 2

/-- The core's slot 15 is the transform thread (R196). -/
def xformOn (s : State) (core : Nat) : Bool := bitB ((coreAt s core).creg 0x180) 0

/-- TSTAT.INTRAP (R336). -/
def Slot.intrap (x : Slot) : Bool := bitB (x.creg 0x083) 1

/-- The service slot of a core (R328). -/
def svcSlot (s : State) (core : Nat) : Nat := slotOf core (bitF ((coreAt s core).creg 0x1C0) 0 4)

/-! Events (R329). -/

/-- An asynchronous cause enters the core's event queue; a full queue drops it, with LOST and OVF (R329). -/
def raiseEvent (s : State) (core cause : Nat) (tval : Word) : State :=
  modCore s core fun c =>
    if c.evq.length < 16 then { c with evq := c.evq ++ [(cause, tval)] }
    else c.setCreg 0x1C1 (setB (addF (c.creg 0x1C1) 32 32 1) 8 true)

/-- A bit of MOD_HOST_EVT that goes from 0 to 1 sends its MSI-X message (R392). DEDUCED, safe (log entry 72). -/
def hostEvent (s : State) (b : Nat) : State :=
  modModul s fun m => if bitB (m.creg 0x4C0) b then m else { m.setCreg 0x4C0 (setB (m.creg 0x4C0) b true) with msix := m.msix ++ [b] }

/-- A newly set bit of the replacement advisory raises 0x74 at the pager core of cluster 0, tower 0, and host event 0 (R375). -/
def advise (s : State) (b tower cl : Nat) : State :=
  if bitB (s.modul.creg 0x440) b then s
  else
    hostEvent (raiseEvent (modModul s fun m => m.setCreg 0x440 (setB (m.creg 0x440) b true)) (lcoreKey s 0 32) 0x74
      (nw (2 ^ b + tower * 2 ^ 24 + cl * 2 ^ 32))) 0

/-! Trap entry and return. -/

/-- Exchanges seg0 and seg1 with the KSEG registers (R331). -/
def Slot.swapSegs (x : Slot) : Slot :=
  (rangeFrom 0 4).foldl (fun y i => (y.setCreg (0xC0 + i) (x.creg (0x86 + i))).setCreg (0x86 + i) (x.creg (0xC0 + i))) x

/-- Nothing of the instruction that the slot issues is kept: its word or fetch, its deadline, a walk's fault, the semaphore or the gang that it
waits for, and the answers of its round trip. The instruction issues afresh (R12, R300). -/
def Slot.dropIssue (x : Slot) : Slot :=
  { x with held := none, fetch := none, deadline := none, wfault := none, semw := none, forming := none, trip := none,
           gang := x.gang.map fun g => { g with rejoin := false } }

/-- The slot after the entry of R331: `p` is saved, the mode becomes supervisor and the PC the handler's address. The entry
ends the issue of the instruction (R300). -/
def Slot.enterTrap (x : Slot) (c : Nat) (v p : Word) (async : Bool) : Slot :=
  let usr : Bool := decide (x.mode = .user)
  let wfw : Bool := decide (x.st = .waiting)
  let y := ((x.setCreg 0x080 (p &&& 0x3FFFFFFFFFC#64)).setCreg 0x081 (nw (c % 128))).setCreg 0x082 v
  let z := y.setCreg 0x083 (nw ((!usr).toNat + 2 + 4 * async.toNat + 8 * usr.toNat + 16 * wfw.toNat))
  let z := if usr then z.swapSegs else z
  { z.dropIssue with mode := .supervisor, pc := z.creg 0x084 &&& 0x3FFFFFFFFFC#64, st := .ready, skip := 0, baton := none,
                     traps := c % 128 :: x.traps }

/-- A double trap stops the slot as `dbghalt` does and raises 0x0C (R332). -/
def doubleTrap (s : State) (k c : Nat) : State :=
  let x := slotAt s k
  raiseEvent (setSlot s k { x.dropIssue with st := .stopped, dbgs := true })
    (coreOf k) 0x0C (nw (c % 128 * 2 ^ 57 + slotNo k * 2 ^ 48) ||| (x.pc &&& 0x3FFFFFFFFFC#64))

/-- A trap at a gang member: an attached follower detaches; the leader's handler runs alone (R307). -/
def Slot.gangTrap (x : Slot) (leads : Bool) : Slot :=
  match x.gang with
  | none => x
  | some g => if leads then { x with solo := true } else { x with gang := some { g with att := false, rejoin := false } }

/-- The slot leads its gang. -/
def leadsGang (s : State) (k : Nat) : Bool :=
  match (slotAt s k).gang with
  | none => false
  | some g => decide (lcoreOf s (coreOf k) = g.lead)

/-- A trap of cause `c` with value `v` enters slot `k`, saving `p` (R331). DEDUCED, unsafe (log entry 56). -/
def trapEntry (s : State) (k c : Nat) (v p : Word) (async : Bool) : State :=
  let x := slotAt s k
  if x.intrap && decide (c ≠ 0x70) then doubleTrap s k c
  else setSlot s k ((x.enterTrap c v p async).gangTrap (leadsGang s k))

/-- The value saved for a precise trap (R331). -/
def trapPc (x : Slot) (c : Nat) : Word := if c = 0x08 ∨ c = 0x09 then x.pc + 4#64 else x.pc

/-- The slot after `eret` (R333), its PC included. -/
def Slot.returnTrap (x : Slot) : Slot :=
  let st := x.creg 0x083
  let y := if bitB st 3 then x.swapSegs else x
  let y := { y.dropIssue with mode := if bitB st 0 then .supervisor else .user, solo := false, st := .ready, traps := x.traps.drop 1 }
  if bitB st 4 then { y.setCreg 0x083 (nw (bitF st 0 1 + bitF st 2 1 * 4)) with st := .waiting }
  else { y.setCreg 0x083 (nw (bitF st 0 1 + bitF st 2 1 * 4)) with pc := y.creg 0x080 }

/-! The end of a turn. -/

/-- How an instruction's evaluation ends: it completes and the PC moves on by 4; it jumps; it is a conditional branch with its next PC and
outcome; it completes and leaves the PC as the state has it; it parks (R10), having changed only what an unfinished issue keeps; or it traps
precisely, with or without a record of the reason in a register, or with the fault of write stream `i`, which is then reported. -/
inductive Res where
  | done (s : State)
  | jump (s : State) (pc : Word)
  | branch (s : State) (pc : Word) (taken : Bool)
  | left (s : State)
  | park (s : State)
  | trap (cause : Nat) (tval : Word)
  | trapAt (s : State) (cause : Nat) (tval : Word)
  | trapStream (i cause : Nat) (tval : Word)

/-- A completed instruction leaves nothing of its issue behind. THR_ISSUED counts a completion (R202). -/
def Slot.complete (x : Slot) : Slot :=
  { (x.setCreg 0x005 (x.creg 0x005 + 1#64)) with held := none, fetch := none, deadline := none, wfault := none, semw := none, trip := none }

/-- The slot after an instruction that completes with the given next PC; a parked slot that completes is ready. -/
def Slot.finishAt (x : Slot) (pc : Word) : Slot :=
  { x.complete with pc := pc, st := if x.st = .parked then .ready else x.st }

/-- A slot that parks keeps its PC; THR_PARKED counts the turn (R10, R202). DESIGN CHOICE, safe (log entry 22). -/
def Slot.parkTurn (x : Slot) : Slot := { (x.setCreg 0x006 (x.creg 0x006 + 1#64)) with st := .parked }

/-- The state with the mark of an evaluation's end. -/
def State.marked (s : State) (m : Mark) : State := { s with mark := m }

/-- A precise trap of slot `k`; THR_ISSUED counts it (R202). -/
def trapNow (s : State) (k c : Nat) (v : Word) : State :=
  let x := slotAt s k
  (trapEntry (modSlot s k fun y => y.setCreg 0x005 (y.creg 0x005 + 1#64)) k c v (trapPc x c) false).marked .trapped

/-- Ends the turn of slot `k` that began in state `s`. -/
def finish (s : State) (k : Nat) : Res → State
  | .done t => (modSlot t k fun x => x.finishAt (x.pc + 4#64)).marked .done
  | .jump t pc => (modSlot t k fun x => x.finishAt pc).marked .done
  | .branch t pc b => (modSlot t k fun x => x.finishAt pc).marked (if b then .taken else .done)
  | .left t => (modSlot t k Slot.complete).marked .done
  | .park t => (modSlot t k Slot.parkTurn).marked .parked
  | .trap c v => trapNow s k c v
  | .trapAt t c v => trapNow t k c v
  | .trapStream i c v =>
    trapNow (modSlot s k fun x => { x with strs := SMap.modify (fun _ => Stream.reset) x.strs i fun t => { t with fault := none } }) k c v

/-- The TOUCH bit of a message's phase (R121). -/
def touchOf (m : Msg) : BitVec 4 := 1#4 <<< (m.ph % 4)

/-- A counter of phase `ph` changes (R121). -/
def touchPhase (s : State) (ph : Nat) : State := { s with touch := s.touch ||| 1#4 <<< (ph % 4) }

/-- Removes message `i` from those in flight, and sets TOUCH of its phase (R121). -/
def dropMsg (s : State) (i : Nat) : State :=
  { s with net := dropAt s.net i, touch := s.touch ||| (match s.net[i]? with
                                                       | some m => touchOf m
                                                       | none => 0#4) }

/-- Puts a message in flight, and sets TOUCH of its phase (R121). DESIGN CHOICE, safe (log entry 67). -/
def sendMsg (s : State) (m : Msg) : State := { s with net := s.net ++ [m], touch := s.touch ||| touchOf m }

/-- Hands a message to a core's NI, which sends whole messages in order (R103). -/
def niPost (s : State) (core : Nat) (m : Msg) : State := modCore s core fun c => { c with ni := c.ni ++ [m] }

/-- The cluster at whose router an agent sits, when the manual says it. -/
def agentSite : Agent → Option Nat
  | .ni c | .xfe c | .ve c | .strm c => some (clusterOf c)
  | .csp c | .memPort c | .dispenser c | .drain c | .dce c => some c
  | .control k =>
    let b := k % 2 ^ 24
    if k / 2 ^ 24 = 0 then some (b / 528) else if k / 2 ^ 24 = 1 then some (b / 33) else if k / 2 ^ 24 = 2 then some b else none
  | _ => none

/-- The tower of an agent that sits in one without a stated cluster (R2, R54, R338, R388, R391): an SC bank, a CLE and a link port in their own, the
host modules in towers 0 and 4, the launch agent in tower 0, and the control agent of a tower's registers in that tower. -/
def towerOfAgent : Agent → Option Nat
  | .sc k => some (k % 8)
  | .tower t | .cle t => some (t % 8)
  | .link p => some (p / 2 % 8)
  | .host p => some (if p = 0 then 0 else 4)
  | .launchAgent => some 0
  | .control k => if k / 2 ^ 24 = 3 then some (k % 2 ^ 24 % 8) else none
  | _ => none

/-- The cluster at whose router an agent sits (R96). DESIGN CHOICE, safe (log entry 13). -/
def siteOfAgent (a : Agent) : Nat :=
  match agentSite a, towerOfAgent a with
  | some c, _ => c
  | none, some t => t * 160 + Config.agentPlace a % 160
  | none, none => Config.agentPlace a % 1280

/-- The hop out of cluster `h`'s router in direction `d` (0 +x, 1 −x, 2 +y, 3 −y, 4 bridge) lies on a path inside a tower, which moves
first along x and then along y of the 16 × 10 grid (R2, R100, R373). -/
def gridUses (a b h d : Nat) : Bool :=
  let x (c : Nat) : Nat := clusterNo c % 16
  let y (c : Nat) : Nat := clusterNo c / 16
  decide (towerOf h = towerOf a) &&
    (if d = 0 then decide (y h = y a) && decide (x a ≤ x h) && decide (x h < x b)
     else if d = 1 then decide (y h = y a) && decide (x b < x h) && decide (x h ≤ x a)
     else if d = 2 then decide (x h = x b) && decide (y a ≤ y h) && decide (y h < y b)
     else if d = 3 then decide (x h = x b) && decide (y b < y h) && decide (y h ≤ y a)
     else false)

/-- The tower that a message enters next on its way to another: first along the column, then along the row (R2, R100). -/
def nextTower (t u : Nat) : Nat :=
  if t / 4 ≠ u / 4 then u / 4 * 4 + t % 4 else if t < u then t + 1 else t - 1

/-- The towers that a path from tower `a` to tower `b` crosses, both included (R100). -/
def towersBetween : Nat → Nat → Nat → List Nat
  | 0, a, _ => [a]
  | n + 1, a, b => if a = b then [a] else a :: towersBetween n (nextTower a b) b

/-- The router with a bridge link on the edge of tower `t` that faces the neighbouring tower `u`, at a place along that edge (R2, R96). Rows and
columns of towers rise as y and x do. DESIGN CHOICE, unsafe (log entry 96). -/
def edgeRouter (t u place : Nat) : Nat :=
  clusterIn t (
    if t / 4 = u / 4 then place % 10 * 16 + (if t < u then 15 else 0) else (if t < u then 9 * 16 else 0) + place % 16)

/-- The path between two routers uses the hop out of router `h` in direction `d`: across each tower to its bridge, over the bridge to the
facing router, and so on to the last tower (R96, R100). -/
def pathUses (vn : Bool) (b h d : Nat) : Nat → Nat → Bool
  | 0, a => gridUses a b h d
  | n + 1, a =>
    let t := towerOf a
    if t = towerOf b then gridUses a b h d
    else
      let u := nextTower t (towerOf b)
      let p := Config.bridgeAt t u vn
      gridUses a (edgeRouter t u p) h d || (decide (d = 4) && decide (h = edgeRouter t u p)) || pathUses vn b h d n (edgeRouter u t p)

/-- A message waits behind a failed hop (R373). -/
def hopBlocked (s : State) (m : Msg) : Bool :=
  s.modul.hops.any fun h => pathUses m.body.response (siteOfAgent m.dst) h.1 h.2 4 (siteOfAgent m.src)

/-- Message `i` is the oldest in flight of its pair and virtual network, and no failed hop holds it, so it may arrive (R101, R373). -/
def arrives (s : State) (i : Nat) : Option Msg :=
  match s.net[i]? with
  | none => none
  | some m =>
    if (s.net.take i).any (fun n => decide (n.src = m.src ∧ n.dst = m.dst ∧ n.body.response = m.body.response)) then none
    else if hopBlocked s m then none
    else some m

/-- A slot that is parked wakes by an event of its own instruction. Every other wake stands at the end of the cycle (R284). -/
def wake (s : State) (k : Nat) : State :=
  modSlot s k fun x => if x.st = .parked then { x with st := .ready } else x

end Sys2Proof.Machine
end

