-- ==== Sys2Proof/Machine/Operands.lean ====
section
/-! DEFINITION. Operand forms: sources with parking, poison, takes and stream pops; destinations with pending registers and stream
pushes; immediates, offsets and segmented pointers (R13, R14, R132, R137, R138, R174, R183). -/

namespace Sys2Proof.Machine

/-- imm14 sign-extended (R13). -/
def imm14 (i : BitVec 14) : Word := i.signExtend 64

/-- off11 sign-extended and scaled (R13). -/
def off11 (o : BitVec 11) (scale : Nat) : Word := o.signExtend 64 * nw scale

/-- 4 × sext(off12), 4 × sext(off20) (R13). -/
def off12 (o : BitVec 12) : Word := o.signExtend 64 * 4#64
def off20 (o : BitVec 20) : Word := o.signExtend 64 * 4#64

/-- sext64(imm20 × 2^14) (R13). -/
def imm20 (i : BitVec 20) : Word := (i ++ 0#14).signExtend 64

/-- The parts of a segmented pointer (R132): segment, bits [60:40], offset. -/
def ptrSeg (p : Word) : Nat := bitF p 61 3
def ptrMid (p : Word) : Nat := bitF p 40 21
def ptrOff (p : Word) : Nat := bitF p 0 40

/-- The stream that a register may be: g24 to g27 (R172). -/
def streamNo (r : Nat) : Option Nat := if 24 ≤ r ∧ r ≤ 27 then some (r - 24) else none

def Slot.stream (x : Slot) (i : Nat) : Stream := SMap.get (fun _ => Stream.reset) x.strs i
def Slot.setStream (x : Slot) (i : Nat) (v : Stream) : Slot := { x with strs := SMap.set (fun _ => Stream.reset) x.strs i v }

/-- The stream of a register in stream mode. -/
def Slot.inStream (x : Slot) (r : Nat) : Option Stream :=
  match streamNo r with
  | none => none
  | some i => if (x.stream i).on then some (x.stream i) else none

/-- Fields of a running stream descriptor (R172). -/
def Stream.dw (t : Stream) (i : Nat) : Word := t.desc.getD i 0#64
def Stream.count (t : Stream) : Nat := bitF (t.dw 3) 0 24
def Stream.esz (t : Stream) : Nat := 2 ^ bitF (t.dw 3) 48 2
def Stream.writes (t : Stream) : Bool := bitB (t.dw 3) 50
def Stream.sx (t : Stream) : Bool := bitB (t.dw 3) 51

/-- The full bit as software sees it: of a register in stream mode, whether its FIFO holds an element (R174). -/
def Slot.isFull (x : Slot) (r : Nat) : Bool :=
  match x.inStream r with
  | some t => !t.fifo.isEmpty
  | none => decide (r = 0) || bitOf x.full r

/-- The full bits of all registers as software sees them, bit i for gi (R174, R182, R202). DEDUCED, unsafe (log entry 71). -/
def Slot.fullBits (x : Slot) : BitVec 32 :=
  (rangeFrom 0 32).foldl (fun w i => if x.isFull i then bitSet w i else w) 0#32

/-- The outcome of reading an instruction's operands. -/
inductive Prep where
  | park
  | trap (cause : Nat) (tval : Word)
  | ok (vals : List Word) (x : Slot)

/-- How often a register stands in a list. -/
def timesIn (r : Nat) (rs : List Nat) : Nat := (rs.filter fun q => q = r).length

/-- A source holds the instruction back: a register that is not full, or a read stream whose FIFO lacks an element that is still to
come (R174, R183). -/
def Slot.sourceWaits (x : Slot) (rs : List Nat) (r : Nat) : Bool :=
  match x.inStream r with
  | some t => !t.writes && decide (t.fifo.length < Nat.min (timesIn r rs) (t.count - t.pos)) && !t.fifo.any FifoEl.pois
  | none => !(decide (r = 0) || bitOf x.full r)

/-- A destination holds the instruction back: a pending register (R137), or a write stream with eight elements queued (R174). -/
def Slot.destWaits (x : Slot) (d : Nat) : Bool :=
  match x.inStream d with
  | some t => t.writes && decide (8 ≤ t.fifo.length) && decide (t.fault = none)
  | none => decide (d ≠ 0) && bitOf x.pend d

/-- Reads one source: pops a read stream, traps on poison (R138), on a parity error (R185) and on the stream faults of R174. -/
def Slot.readOne (x : Slot) (r : Nat) : Except (Nat × Word) (Word × Slot) :=
  match x.inStream r with
  | some t =>
    if t.writes then .error (0x42, nw r)
    else match t.fifo with
      | [] => .error (0x42, nw r)
      | e :: es =>
        if e.pois then .error (bitF e.v 57 7, nw (bitF e.v 0 56))
        else .ok (e.v, x.setStream (r - 24) { t with fifo := es, pos := t.pos + 1 })
  | none =>
    if r ≠ 0 ∧ bitOf x.par r then .error (0x78, nw r)
    else if r ≠ 0 ∧ bitOf x.pois r then .error (bitF (x.reg r) 57 7, nw (bitF (x.reg r) 0 56))
    else .ok (x.reg r, x)

/-- Reads the sources in order. -/
def Slot.readAll (x : Slot) : List Nat → Except (Nat × Word) (List Word × Slot)
  | [] => .ok ([], x)
  | r :: rs =>
    match x.readOne r with
    | .error e => .error e
    | .ok (v, y) =>
      match y.readAll rs with
      | .error e => .error e
      | .ok (vs, z) => .ok (v :: vs, z)

/-- A register that a source reads at once: in no stream mode, full, neither poisoned nor in error (R138, R183, R185). -/
def Slot.readable (x : Slot) (r : Nat) : Prop :=
  x.inStream r = none ∧ (r = 0 ∨ (bitOf x.full r = true ∧ bitOf x.pois r = false ∧ bitOf x.par r = false))

/-- A register that a destination may be at once: in no stream mode and not pending (R137). -/
def Slot.writable (x : Slot) (d : Nat) : Prop := x.inStream d = none ∧ (d = 0 ∨ bitOf x.pend d = false)

/-- A destination that may not be named: a read stream, any stream for a load-and-reply form, a write stream at its end; and a write
fault that the next push reports (R174). -/
def Slot.destFault (x : Slot) (d : Nat) (reply : Bool) : Option (Nat × Word) :=
  match x.inStream d with
  | none => none
  | some t =>
    if reply || !t.writes then some (0x42, nw d)
    else match t.fault with
      | some f => some f
      | none => if t.pos = t.count then some (0x42, nw d) else none

/-- Steps 2 and 3 of R183: parks until every source is full and the destination is not pending, then traps on poison, then reads. -/
def Slot.prep (x : Slot) (srcs : List Nat) (dst : Option Nat) (reply : Bool) : Prep :=
  if srcs.any (x.sourceWaits srcs) then .park
  else if (dst.map x.destWaits).getD false then .park
  else match x.readAll srcs with
    | .error (c, v) => .trap c v
    | .ok (vs, y) =>
      match dst.bind fun d => x.destFault d reply with
      | some (c, v) => .trap c v
      | none => .ok vs y

/-- A fault of the destination stream that was reported is forgotten: each fault is reported once (R173, R174). -/
def Slot.clearFault (x : Slot) (d : Nat) (f : Nat × Word) : Slot :=
  match x.inStream d with
  | some t => if t.writes ∧ t.fault = some f then x.setStream (d - 24) { t with fault := none } else x
  | none => x

/-- The destination write: a general register, or a push into a write stream of the low ESZ bytes (R174, R182). -/
def Slot.writeDst (x : Slot) (d : Nat) (v : Word) : Slot :=
  match x.inStream d with
  | some t => x.setStream (d - 24) { t with fifo := t.fifo ++ [⟨zextW (8 * t.esz) v, false⟩], pos := t.pos + 1 }
  | none => x.setReg d v

/-- The take of source `a` when the t bit is 1 (R14); a take of a stream adds nothing (R174). -/
def Slot.takeIf (x : Slot) (t : Bool) (a : Nat) : Slot :=
  if t then match x.inStream a with
    | some _ => x
    | none => x.take a
  else x

/-- An instruction that parks or traps has popped nothing (R10). -/
def Res.keepStreams (r : Res) (k : Nat) (x : Slot) : Res :=
  match r with
  | .park t => .park (modSlot t k fun z => { z with strs := x.strs })
  | .trapAt t c v => .trapAt (modSlot t k fun z => { z with strs := x.strs }) c v
  | r => r

/-- The sources of an instruction read, or its turn ended: the common frame of the meanings. `body` gets the state with pops done
and the values, and gives the end of the turn. -/
def withOps (s : State) (srcs : List GReg) (dst : Option GReg) (reply : Bool) (body : State → List Word → Res) : State :=
  let x := slotAt s s.cur
  match x.prep (srcs.map BitVec.toNat) (dst.map BitVec.toNat) reply with
  | .park => finish s s.cur (.park s)
  | .trap c v =>
    let s' := match dst with
      | some d => modSlot s s.cur fun y => y.clearFault d.toNat (c, v)
      | none => s
    finish s' s.cur (.trap c v)
  | .ok vs y => finish s s.cur ((body (setSlot s s.cur y) vs).keepStreams s.cur x)

/-- A form that computes a value from its sources, takes and writes its destination (R183). -/
def compute (s : State) (d : GReg) (srcs : List GReg) (t : Bool) (f : List Word → Word) : State :=
  withOps s srcs (some d) false fun s vs =>
    .done (modSlot s s.cur fun x => (x.takeIf t (srcs.headD 0#5).toNat).writeDst d.toNat (f vs))

/-- The i-th value read. -/
def val (vs : List Word) (i : Nat) : Word := vs.getD i 0#64

end Sys2Proof.Machine
end

