-- ==== Sys2Proof/Machine/Home.lean ====
section
/-! DEFINITION. The address map and the homes in LM and CSP: where an address is performed, bytes with their check granules, full
bits, waiter service, directories and tile counts (R54, R55, R104, R111, R124, R128, R139 to R147, R156 to R158, R410). -/

namespace Sys2Proof.Machine

/-- Where a physical address lies (R54, R338, R390). -/
inductive Place where
  | tier (pa : Nat)
  | lm (cl lcore off : Nat)
  | spread (n off : Nat)
  | csp (cl off : Nat)
  | ctl (blk n : Nat)
  | host (addr : Nat)
  | remote (pkg pa : Nat)
  | hole
deriving DecidableEq, Repr

/-- The own package number (R387). -/
def ownPkg (s : State) : Nat := bitF (s.modul.creg 0x4B2) 0 8

/-- The highest number of each block of the control register space (R337): 0 thread, 1 core, 2 cluster, 3 tower, 4 module. -/
def blockOf (n : Nat) : Nat := if n < 0x100 then 0 else if n < 0x200 then 1 else if n < 0x300 then 2 else if n < 0x400 then 3 else 4

/-- A control-window address names a register (R338). The block is given as the flat key of its unit: a slot of a LOGICAL core
(cluster * 33 * 16 + logical core * 16 + slot), a logical core, a cluster, a tower or 0. DEDUCED, safe (log entry 70). -/
def ctlPlace (o : Nat) : Place :=
  let tower := o / 2 ^ 35 % 8
  let cl := o / 2 ^ 27 % 256
  let core := o / 2 ^ 21 % 64
  let slot := o / 2 ^ 17 % 16
  let n := o % 2 ^ 17 / 8
  let b := blockOf n
  if o / 2 ^ 38 ≠ 0 ∨ cl > 159 ∨ core > 32 ∨ !assignedReg n then .hole
  else if b = 0 then .ctl (((tower * 160 + cl) * 33 + core) * 16 + slot) n
  else if slot ≠ 0 then .hole
  else if b = 1 then .ctl ((tower * 160 + cl) * 33 + core) n
  else if core ≠ 0 then .hole
  else if b = 2 then .ctl (tower * 160 + cl) n
  else if cl ≠ 0 then .hole
  else if b = 3 then .ctl tower n
  else if tower ≠ 0 then .hole
  else .ctl 0 n

/-- The address in the own control window of register `n` of a block, named as `ctlPlace` names it (R338). -/
def ctlPa (blk n : Nat) : Nat :=
  let b := blockOf n
  let (u, slot) := if b = 0 then (blk / 16, blk % 16) else (blk, 0)
  let (v, core) := if b ≤ 1 then (u / 33, u % 33) else (u, 0)
  let (tower, cl) := if b ≤ 2 then (v / 160, v % 160) else (v, 0)
  0x22000000000 + tower * 2 ^ 35 + cl * 2 ^ 27 + core * 2 ^ 21 + slot * 2 ^ 17 + 8 * n

/-- The place of a local address (R54, R55). The unpopulated HBM4 window, which only an address with the own package's prefix reaches
untranslated, counts as a hole. DESIGN CHOICE, unsafe (log entry 93). -/
def localPlace (a : Nat) : Place :=
  if a < 0x9000000000 then .tier a
  else if a < 0x10000000000 then .hole
  else if a < 0x20000000000 then .tier a
  else if a < 0x21000000000 then
    let o := a - 0x20000000000
    let cl := o / 2 ^ 25 % 256
    let core := o / 2 ^ 19 % 64
    if cl > 159 ∨ core > 32 then .hole else .lm (o / 2 ^ 33 * 160 + cl) core (o % 2 ^ 19)
  else if a < 0x21800000000 then .spread ((a - 0x21000000000) / 2 ^ 32) (a % 2 ^ 32)
  else if a < 0x21900000000 then
    let o := a - 0x21800000000
    let cl := o / 2 ^ 21 % 256
    if cl > 159 then .hole else .csp (o / 2 ^ 29 * 160 + cl) (o % 2 ^ 21)
  else if a < 0x22000000000 then .hole
  else if a < 0x26000000000 then
    ctlPlace (a - 0x22000000000)
  else if a < 0x40000000000 then .hole
  else if a < 0x80000000000 then .host (a - 0x40000000000)
  else .hole

/-- The address carries the package prefix with the own package's number (R54). -/
def ownPrefix (s : State) (pa : Nat) : Bool := decide (pa / 2 ^ 55 % 2 = 1) && decide (pa / 2 ^ 44 % 2048 = ownPkg s % 256)

/-- An address of the own package without its prefix (R54). -/
def localPa (s : State) (pa : Nat) : Nat := if ownPrefix s pa then pa % 2 ^ 44 else pa

/-- The place of any physical address: the own package's number names the local address (R54). Bits [54:52] of a prefix belong to no range.
DEDUCED, safe (log entry 77). -/
def placeOf (s : State) (pa : Nat) : Place :=
  if pa / 2 ^ 55 % 2 = 1 then
    if ownPrefix s pa then localPlace (pa % 2 ^ 44)
    else if pa / 2 ^ 52 % 8 ≠ 0 then .hole
    else .remote (pa / 2 ^ 44 % 256) pa
  else localPlace pa

/-- The address lies in a control or host window, of this package or another (R54, R338, R390). -/
def inCtlWindow (s : State) (pa : Nat) : Bool :=
  let a := if localPa s pa / 2 ^ 55 % 2 = 1 then pa % 2 ^ 44 else localPa s pa
  (decide (0x22000000000 ≤ a) && decide (a < 0x26000000000)) || (decide (0x40000000000 ≤ a) && decide (a < 0x80000000000))

/-- The address in the LM window of byte `off` of a physical core: the key under which LM bytes are kept. -/
def lmKey (core off : Nat) : Nat :=
  0x20000000000 + 2 ^ 33 * towerOf (clusterOf core) + 2 ^ 25 * clusterNo (clusterOf core) + 2 ^ 19 * physNo core + off

/-- The address of byte `off` of a cluster's CSP. -/
def cspKey (cl off : Nat) : Nat := 0x21800000000 + 2 ^ 29 * towerOf cl + 2 ^ 21 * clusterNo cl + off

/-- The linear address of a logical core's LM byte (R54). -/
def lmLinear (cl lcore off : Nat) : Nat :=
  0x20000000000 + 2 ^ 33 * towerOf cl + 2 ^ 25 * clusterNo cl + 2 ^ 19 * lcore + off

/-! Bytes and check granules. -/

/-- What an unlisted address reads as: LM and CSP read zero at reset (R124, R156); the tiers' content is the model's choice, zero.
DESIGN CHOICE, unsafe (log entry 2). -/
def memDefault : Nat → Byte := fun _ => 0#8

/-- The canonical form of memory: addresses rise strictly, and no entry equals what an unlisted address reads as. -/
def Memory.wf (m : List Host.Cell) : Bool := SMap.wf memDefault m

def memByte (s : State) (a : Nat) : Byte := SMap.get memDefault s.mem a

def memBytes (s : State) (a n : Nat) : List Byte := (rangeFrom a n).map (memByte s)

def memPut (m : List Host.Cell) (a : Nat) : List Byte → List Host.Cell
  | [] => m
  | b :: bs => memPut (SMap.set memDefault m a b) (a + 1) bs

def setBytes (s : State) (a : Nat) (bs : List Byte) : State := { s with mem := memPut s.mem a bs }

/-- The group and lane of a wire (R124, R369). -/
def wireGroup (w : Nat) : Nat := if w < 1024 then w / 64 else (w - 1024) / 2
def wireLane (w : Nat) : Nat := if w < 1024 then w % 64 else 64 + w % 2

/-- The lanes recorded as faulty in a group of a quarter's bus (R125, R155). -/
def lanesOut (c : Core) (q g : Nat) : List Nat :=
  let f := bitF (c.creg (0x120 + 4 * q + g / 4)) (16 * (g % 4)) 16
  (if f.testBit 7 then [f % 128] else []) ++ (if f.testBit 15 then [f / 256 % 128] else [])

/-- The lane of data bit `i` of a group: the i-th one that is not recorded (R125). -/
def bitLane (out : List Nat) (i : Nat) : Nat := out.foldl (fun l f => if f ≤ l then l + 1 else l) i

/-- The wire of a lane of a group (R124, R125). -/
def laneWire (g lane : Nat) : Nat := if lane < 64 then 64 * g + lane else 1024 + 2 * g + (lane - 64)

/-- The data bit of a lane: bit i of the group uses the i-th lane that is not recorded (R125). -/
def laneBit (out : List Nat) (lane : Nat) : Option Nat :=
  let i := lane - (out.filter fun l => decide (l < lane)).length
  if out.contains lane ∨ 64 ≤ i then none else some i

/-- The core and the quarter whose bus carries the granule at key `a`, if it lies in an LM (R124). -/
def keyBus (a : Nat) : Option (Nat × Nat) :=
  if a < 0x20000000000 ∨ 0x21000000000 ≤ a then none
  else
    let o := a - 0x20000000000
    some (((o / 2 ^ 33 * 160 + o / 2 ^ 25 % 256) * 34 + o / 2 ^ 19 % 64), o / 2 ^ 17 % 4)

/-- The faulty wires of a quarter's bus. -/
def busFaults (s : State) (core q : Nat) : List Wire :=
  s.modul.wires.filter fun w => decide (w.core = core) && decide (w.quarter = q)

/-- The wires that a fault touches. -/
def Wire.touched (w : Wire) : List Nat := match w.fault with
  | .stuck _ => [w.wire]
  | .bridge o => [w.wire, o]

/-- What wire `i` reads while the wires are driven: the value that it passes, or the OR over the wires that a bridge joins to it.
DESIGN CHOICE, safe (log entry 9). -/
def wireReads (fs : List Wire) (drive : Nat → Bool) (i : Nat) : Bool :=
  match fs.find? fun w => decide (w.wire = i) && (match w.fault with
                                                 | .stuck _ => true
                                                 | .bridge _ => false) with
  | some ⟨_, _, _, .stuck v⟩ => v
  | _ => drive i || fs.any fun w => match w.fault with
    | .bridge o => (decide (w.wire = i) && drive o) || (decide (o = i) && drive w.wire)
    | .stuck _ => false

/-- The bits of the LM word at key `a` that its array holds wrong (R125). -/
def flipsAt (s : State) (a : Nat) : Nat := SMap.get (fun _ => 0) s.flips a

/-- A bit of the word at key `a`, and that bit as its array holds it. -/
def dataBit (s : State) (a i : Nat) : Bool := (memByte s (a + i / 8)).getLsbD (i % 8)
def arrayBit (s : State) (a i : Nat) : Bool := dataBit s a i != (flipsAt s a).testBit i

/-- The bits of the LM word at key `a` that a transfer of its 128-byte block delivers wrong, where the sender drives `bit`. A word of the block
uses the group of its place (R124, R125). DEDUCED, safe (log entry 108). -/
def wireHits (s : State) (bit : Nat → Nat → Bool) (a : Nat) : List Nat :=
  match keyBus a with
  | none => []
  | some (core, q) =>
    let fs := busFaults s core q
    let out (g : Nat) : List Nat := lanesOut (coreAt s core) q g
    let drive (w : Nat) : Bool := match laneBit (out (wireGroup w)) (wireLane w) with
      | some i => bit (a / 128 * 128 + 8 * wireGroup w) i
      | none => false
    let g := a / 8 % 16
    let near := (fs.flatMap Wire.touched).filterMap fun w =>
      if wireGroup w = g then laneBit (out g) (wireLane w) else none
    ((rangeFrom 0 64).filter (flipsAt s a).testBit ++ near).eraseDups.filter fun i =>
      wireReads fs drive (laneWire g (bitLane (out g) i)) != dataBit s a i

/-- The poison cause of the granule at key `a`, 0 for none (R410): an error or a mark that it holds, or two bits of a word that reach its reader
wrong, be it that its array holds them so or that its bus corrupts them (R125). -/
def badAt (s : State) (a : Nat) : Nat :=
  let c := SMap.get (fun _ => 0) s.bad a
  if c ≠ 0 then c else if 2 ≤ (wireHits s (arrayBit s) a).length then 0x19 else 0
def setBad (s : State) (a c : Nat) : State := { s with bad := SMap.set (fun _ => 0) s.bad a c }
def setFlips (s : State) (a n : Nat) : State := { s with flips := SMap.set (fun _ => 0) s.flips a n }

/-- The word at key `a` goes over its bus into its array, which holds what the wires deliver (R125). -/
def storeWord (s : State) (a : Nat) : State :=
  let t := setFlips s a 0
  setFlips s a ((wireHits t (dataBit t) a).map (2 ^ ·)).sum

/-- The 8-byte granules that [a, a + n) touches. -/
def granules (a n : Nat) : List Nat := (rangeFrom (a / 8) ((a % 8 + n + 7) / 8)).map fun w => 8 * w

/-- The first granule of an LM or CSP range with an error, as (address, cause). -/
def firstBad (s : State) (a n : Nat) : Option (Nat × Nat) :=
  ((granules a n).find? fun w => badAt s w ≠ 0).map fun w => (w, badAt s w)

/-- A write of `n` bytes at `a` covers only part of a granule with an error (R410). -/
def partialBad (s : State) (a n : Nat) : Bool :=
  (granules a n).any fun w => decide (badAt s w ≠ 0) && !(decide (a ≤ w) && decide (w + 8 ≤ a + n))

/-- A write clears the errors of the granules it covers whole (R410), and every word that it touches goes over its bus (R125). -/
def clearBad (s : State) (a n : Nat) : State :=
  (granules a n).foldl (fun t w => storeWord (if a ≤ w ∧ w + 8 ≤ a + n then setBad t w 0 else t) w) s

/-- Why a home does not perform an access. -/
inductive Deny where
  | off | retired | host | partialWrite | poolFull | snapConflict | poolRegion | remote | parity | linkDown | control | dictMismatch
deriving DecidableEq, Repr

/-- The reason of a posted store's refusal (R108, R373, R382). -/
def Deny.reason : Deny → Nat
  | .off => 1 | .retired => 2 | .host => 3 | .partialWrite => 4 | .poolFull => 5 | .snapConflict => 6 | .poolRegion => 7
  | .remote => 8 | .parity => 9 | .linkDown => 10 | .control => 3 | .dictMismatch => 8

/-- The cause of a refusal with a reason (R108). -/
def reasonCause (r : Nat) : Nat :=
  if r = 5 then 0x1B else if r = 6 then 0x1D else if r = 7 then 0x11 else if r = 8 then 0x61 else if r = 9 then 0x63
  else if r = 10 then 0x60 else 0x18

/-- The cause that poisons a destination or ends an engine command (R85, R141, R167, R410). -/
def Deny.cause : Deny → Nat
  | .off => 0x16 | .retired => 0x17 | .host => 0x61 | .partialWrite => 0x19 | .poolFull => 0x1B | .snapConflict => 0x1D
  | .poolRegion => 0x11 | .remote => 0x61 | .parity => 0x63 | .linkDown => 0x60 | .control => 0x40 | .dictMismatch => 0x62

/-- What performing an access at its home gives: bytes, poison with its address, a refusal, or a wait at the home. -/
inductive HRes where
  | ok (s : State) (bytes : List Byte)
  | poison (s : State) (cause addr : Nat)
  | deny (s : State) (d : Deny)
  | wait (s : State)

/-! LM quarters. -/

/-- Where an access to an LM byte of a logical core is performed (R126, R140, R141, R371). -/
inductive LmAt where
  | here (core off : Nat) (fwd : Bool)
  | wait
  | off
  | retired
deriving DecidableEq, Repr

/-- A physical core is retired (R371). -/
def coreRetired (s : State) (core : Nat) : Bool := (SMap.get (fun _ => 0) s.modul.relCore (clusterOf core)).testBit (physNo core)

/-- Advisory bit 0: a cluster's entry-33 core is retired (R375). -/
def adviseSpare (s : State) (cl : Nat) : State :=
  if coreRetired s (lcoreKey s cl 33) then advise s 0 (towerOf cl) (clusterNo cl) else s

/-- CORE_LMQMAP fields of a quarter (R155). -/
def qRet (c : Core) (q : Nat) : Bool := bitB (c.creg 0x101) (8 * q + 7)
def qDon (c : Core) (q : Nat) : Bool := bitB (c.creg 0x101) (8 * q + 6)
def qDq (c : Core) (q : Nat) : Nat := bitF (c.creg 0x101) (8 * q) 2

/-- The cycle at which a quarter that is being switched on becomes ready; 0 when none is due. -/
def lmDueAt (c : Core) (q : Nat) : Nat := SMap.get (fun _ => 0) c.lmDue q

/-- The home of byte `off` of physical core `core` (R139, R140, R141). -/
def lmHome (s : State) (core off : Nat) : LmAt :=
  let c := coreAt s core
  let q := off / 131072
  if coreRetired s core then .retired
  else if qRet c q then
    let donor := lcoreKey s (clusterOf core) 33
    if qDon c q ∧ !coreRetired s donor then
      let d := coreAt s donor
      if d.lmOn.getLsbD (qDq c q) then .here donor (131072 * qDq c q + off % 131072) true
      else if lmDueAt d (qDq c q) ≠ 0 then .wait
      else .off
    else .retired
  else if c.lmOn.getLsbD q then .here core off false
  else .off

/-- The quarter is retired, or its core is (R371). -/
def quarterRetired (s : State) (core q : Nat) : Bool := qRet (coreAt s core) q || coreRetired s core

/-- The LM offset lies in a quarter. -/
def inQuarter (q off : Nat) : Bool := decide (off / 131072 = q)

/-- A quarter that the mask names is still on its way, or a sharer of one that it switches off has not acknowledged its invalidate (R139). -/
def quartersDue (s : State) (core mask : Nat) : Bool :=
  (rangeFrom 0 4).any fun q =>
    if mask.testBit q then decide (lmDueAt (coreAt s core) q ≠ 0) else (coreAt s core).dir.any fun e => inQuarter q (64 * e.1) && e.2.isSome

/-- The home of an LM address by logical core. -/
def lmAt (s : State) (cl lcore off : Nat) : LmAt := lmHome s (lcoreKey s cl lcore) off

/-- The physical address of byte `off` of a physical core's LM: in a donor quarter that of the retired quarter's byte (R126, R140). -/
def wordPa (s : State) (core off : Nat) : Nat :=
  let cl := clusterOf core
  let owner : Option (Nat × Nat) :=
    if core = lcoreKey s cl 33 then
      (rangeFrom (34 * cl) 34).findSome? fun c => ((rangeFrom 0 4).find? fun q =>
        qRet (coreAt s c) q && qDon (coreAt s c) q && decide (qDq (coreAt s c) q = off / 131072)).map fun q => (c, q)
    else none
  match owner with
  | some (c, q) => lmLinear cl (lcoreOf s c) (131072 * q + off % 131072)
  | none => lmLinear cl (lcoreOf s core) off

/-! Full bits. -/

def feAt (s : State) (core off : Nat) : Bool := SMap.get (fun _ => true) s.fe (lmKey core off / 8)
def setFe (s : State) (core off : Nat) (b : Bool) : State :=
  { s with fe := SMap.set (fun _ => true) s.fe (lmKey core off / 8) b }

/-! Directories (R111, R112). -/

def dirAt (c : Core) (line : Nat) : Option DirEnt := SMap.get (fun _ => none) c.dir line
def setDir (c : Core) (line : Nat) (e : Option DirEnt) : Core := { c with dir := SMap.set (fun _ => none) c.dir line e }

/-- Sends an invalidate of a line of core `core` to a sharer. -/
def sendInval (core line : Nat) (s : State) (sharer : Nat) : State :=
  sendMsg s ⟨.ni core, .ni sharer, 0, 0, 0, .dirInvalidate line⟩

/-- A directory entry whose acknowledgements are all in, and that waits for no release, is freed: held answers leave (R111). -/
def dirFree (s : State) (core line : Nat) : State :=
  match dirAt (coreAt s core) line with
  | none => s
  | some e =>
    if e.acks = [] ∧ !e.needRelease then
      e.held.foldl sendMsg (modCore s core fun c => setDir c line none)
    else s

/-- A write record of a line enters the overflow queue of 8 and raises 0x1F; with the queue full it waits for a place (R112, R122).
DESIGN CHOICE, safe (log entry 53). -/
def pushOvf (s : State) (core line : Nat) : State :=
  if (coreAt s core).ovfQ.length < 8 then
    raiseEvent (modCore s core fun c => { c with ovfQ := c.ovfQ ++ [⟨true, 0, line⟩] }) core 0x1F (nw (64 * line))
  else modCore s core fun c => { c with ovfWait := c.ovfWait ++ [⟨true, 0, line⟩] }

/-- A record is read and leaves the queue; one that waits takes the place (R112, R122). -/
def popOvf (s : State) (core : Nat) : State :=
  let c := coreAt s core
  let s := setCore s core { c with ovfQ := c.ovfQ.drop 1 }
  match c.ovfWait with
  | [] => s
  | r :: rs => if c.ovfQ = [] then s else pushOvf (modCore s core fun c => { c with ovfWait := rs }) core r.line

/-- A write was performed at LM byte `off`: the line's sharers are invalidated, and `ack` (if any) leaves only when they have
acknowledged (R107, R111, R112). -/
def dirWrite (s : State) (core off : Nat) (ack : Option Msg) : State :=
  let line := off / 64
  match dirAt (coreAt s core) line with
  | none => match ack with
    | some m => sendMsg s m
    | none => s
  | some e =>
    let held := e.held ++ ack.toList
    if e.needRelease ∨ e.acks ≠ [] then modCore s core fun c => setDir c line (some { e with held := held })
    else
      let s1 := e.sharers.foldl (sendInval core line) s
      let s2 := modCore s1 core fun c => setDir c line (some { e with held := held, acks := e.sharers, needRelease := e.ovf })
      dirFree (if e.ovf then pushOvf s2 core line else s2) core line

/-- The directory work of a write of `n` bytes, in every line that it reaches (R111). -/
def dirSpan (s : State) (core off n : Nat) : State :=
  (rangeFrom (off / 64) ((off % 64 + n + 63) / 64)).foldl (fun s l => dirWrite s core (64 * l) none) s

/-! The waiter table (R144, R147). -/

/-- The reply to a request message, from its home. -/
def replyTo (m : Msg) (b : Body) : Msg := ⟨m.dst, m.src, m.tag, m.who, m.ph, b⟩

/-- Filling an armed word removes the arm and raises 0x31 at the core whose access filled it: the agent that asked, and its slot. To a core of
another package the event goes over the link on which its access came (R147, R383). DEDUCED, safe (log entry 101). -/
def fireTrap (s : State) (core off : Nat) (filler : Agent × Nat) : State :=
  let c := coreAt s core
  if c.waiters.any (fun w => decide (w.off = off) && decide (w.req = none)) then
    let s1 := setCore s core { c with waiters := c.waiters.filter fun w => !(decide (w.off = off) && decide (w.req = none)) }
    match filler.1 with
    | .ni f => raiseEvent s1 f 0x31 (nw (wordPa s core off))
    | .link p => sendMsg s1 ⟨.ni core, .link p, 0, filler.2, 0, .armFired (2 ^ 55 + 2 ^ 44 * (ownPkg s % 256) + wordPa s core off)⟩
    | _ => s1
  else s

/-- One full/empty form on word `off` of an LM, when its condition holds (R143): the state and the value answered. The data check of the
word acts on values only; the full bit lies outside it (R410). -/
def syncPerform (s : State) (core off : Nat) (f : SyncForm) (data : Word) (filler : Agent × Nat) : Option (State × Reply) :=
  let a := lmKey core off
  let full := feAt s core off
  let rd : Reply :=
    if badAt s a ≠ 0 then .poison (badAt s a) (wordPa s core off) else .value (memBytes s a 8)
  let put (s : State) : State :=
    fireTrap (setFe (clearBad (setBytes s a (wordLE 8 data)) a 8) core off true) core off filler
  match f with
  | .ldfe => if full then some (setFe s core off false, rd) else none
  | .ldff => if full then some (s, rd) else none
  | .fget => some (s, if badAt s a ≠ 0 then rd else .value (natLE 8 full.toNat))
  | .stef => if full then none else some (put s, .value (wordLE 8 data))
  | .stff => some (put s, .value [])
  | .fset => some (fireTrap (setFe s core off true) core off filler, .value [])
  | .fclr => some (setFe s core off false, .value [])
  | .lvlwait => none
  | .phwait => none

/-- The form, address and data of a synchronising request. -/
def syncParts (m : Msg) : Option (SyncForm × Word) :=
  match m.body with
  | .syncReq f _ d _ => some (f, d)
  | _ => none

/-- A form of the table that writes a word: its directory line is invalidated. -/
def syncWrites : SyncForm → Bool
  | .stef | .stff => true
  | _ => false

/-- The service step on a word: performs the oldest waiting entry whose condition holds, until none remains (R144). -/
def serviceWord : Nat → State → Nat → Nat → State
  | 0, s, _, _ => s
  | fuel + 1, s, core, off =>
    let c := coreAt s core
    match c.waiters.find? fun w => decide (w.off = off) &&
        (match w.req with
         | none => false
         | some m => match syncParts m with
           | none => false
           | some (f, d) => (syncPerform s core off f d (m.src, m.who)).isSome) with
    | none => s
    | some w =>
      match w.req with
      | none => s
      | some m =>
        match syncParts m with
        | none => s
        | some (f, d) =>
          match syncPerform (setCore s core { c with waiters := c.waiters.erase w }) core off f d (m.src, m.who) with
          | none => s
          | some (s1, r) =>
            let reply := replyTo m (.syncReply r)
            let s2 := if syncWrites f then dirWrite s1 core off (some reply) else sendMsg s1 reply
            serviceWord fuel s2 core off

/-- The service step with enough rounds for a full table. -/
def service (s : State) (core off : Nat) : State := serviceWord 17 s core off

/-! Tiles (R157, R158). -/

def tileAt (c : Cluster) (i : Nat) : Tile := SMap.get (fun _ => Tile.reset) c.tiles i
def setTile (c : Cluster) (i : Nat) (t : Tile) : Cluster := { c with tiles := SMap.set (fun _ => Tile.reset) c.tiles i t }

/-- A write of `n` bytes inside a tile is counted (R158). -/
def Tile.count (t : Tile) (n : Nat) : Tile :=
  if t.st = 1 then
    let left := t.left - Nat.min n t.left
    let t' := { t with ovr := t.ovr || decide (t.left < n), left := left }
    if left = 0 then { t' with st := 2, ph := !t.ph } else t'
  else if t.st = 0 then t
  else { t with ovr := true }

/-- The bytes of [off, off + n) that lie in a tile. -/
def Tile.overlap (t : Tile) (off n : Nat) : Nat :=
  if t.v then Nat.min (off + n) (t.off + t.size) - Nat.max off t.off else 0

/-- Counts a write at the CSP into every tile that its bytes overlap (R158). -/
def countTiles (c : Cluster) (off n : Nat) : Cluster :=
  (rangeFrom 0 64).foldl (fun c i =>
    let t := tileAt c i
    if t.overlap off n = 0 then c else setTile c i (t.count (t.overlap off n))) c

/-! Reads and writes at LM and CSP homes. -/

/-- Bumps the CSP's counter of uncorrectable errors met (R179). -/
def cspError (s : State) (cl : Nat) : State := modCluster s cl fun c => c.setCreg 0x200 (addF (c.creg 0x200) 0 32 1)

/-- A read of LM bytes at the home (R410). -/
def lmRead (s : State) (core off n : Nat) : HRes :=
  match firstBad s (lmKey core off) n with
  | some (_, c) => .poison s c (wordPa s core off)
  | none => .ok s (memBytes s (lmKey core off) n)

/-- A write of LM bytes at the home, before directory work (R410). -/
def lmWrite (s : State) (core off : Nat) (bs : List Byte) : HRes :=
  if partialBad s (lmKey core off) bs.length then .deny s .partialWrite
  else .ok (clearBad (setBytes s (lmKey core off) bs) (lmKey core off) bs.length) []

/-- A read of CSP bytes (R156, R410). -/
def cspRead (s : State) (cl off n : Nat) : HRes :=
  match firstBad s (cspKey cl off) n with
  | some (_, c) => .poison (cspError s cl) c (cspKey cl off)
  | none => .ok s (memBytes s (cspKey cl off) n)

/-- A write of CSP bytes, counted into tiles in the same step (R158). -/
def cspWrite (s : State) (cl off : Nat) (bs : List Byte) : HRes :=
  if partialBad s (cspKey cl off) bs.length then .deny (cspError s cl) .partialWrite
  else
    .ok (modCluster (clearBad (setBytes s (cspKey cl off) bs) (cspKey cl off) bs.length) cl
      fun c => { countTiles c off bs.length with wrote := s.time + 1 }) []

/-! Spread regions (R127, R128). -/

/-- The linear address of a spread address by one core's copy of the registers, or none: misconfigured (R128). -/
def spreadMap (c : Core) (n o : Nat) : Option Nat :=
  let r := c.creg (0x108 + n)
  let v := bitB r 63
  let hash := bitB r 62
  let twr := bitB r 61
  let gran := bitF r 57 4
  let tower := bitF r 54 3
  let cl := bitF r 46 8
  let first := bitF r 41 5
  let count := bitF r 35 6
  let lmoff := bitF r 6 13
  let gsz := 2 ^ (6 + gran)
  let cols := if twr then 5120 else count
  if !v ∨ gran > 10 then none
  else if !twr ∧ (count = 0 ∨ first + count > 32 ∨ cl > 159) then none
  else if lmoff * 64 % gsz ≠ 0 then none
  else
    let gr := o / gsz
    let w := o % gsz
    let j := gr / cols
    let c0 := gr % cols
    let c1 := if hash then (c0 + (Nat.xor (Nat.xor j (j / 2 ^ 7)) (j / 2 ^ 13)) % cols) % cols else c0
    let off := lmoff * 64 + j * gsz + w
    if off ≥ 524288 then none
    else if twr then some (lmLinear (clusterIn tower (c1 / 32)) (c1 % 32) off)
    else some (lmLinear (clusterIn tower cl) (first + c1) off)

end Sys2Proof.Machine
end

