-- ==== Sys2Proof/Machine/Sc.lean ====
section
/-! DEFINITION. The shared cache: tags and data entries, one copy of each content, writeback forms, snapshots with their shadows,
migration forwarding and mirrors, and reads, writes and atomics at any home of the package (R53, R67, R68, R72 to R88, R148). -/

namespace Sys2Proof.Machine

/-- The home tower of a tier address (R53). -/
def tierTower (pa : Nat) : Nat := pa / 4096 % 16 / 2

/-- The device of a tier address: an HBM4 stack or a second-tier package (R53). -/
def tierDevice (pa : Nat) : Nat := pa / 4096 % 16

/-- The offset of a tier address within its device (R53). -/
def tierOffset (pa : Nat) : Nat :=
  let o := if pa < 0x10000000000 then pa else pa - 0x10000000000
  2 ^ 12 * (o / 2 ^ 16) + o % 2 ^ 12

/-- The home tower of a line number. -/
def lineTower (line : Nat) : Nat := line / 64 % 16 / 2

/-- The address lies in a populated tier range (R54). -/
def populated (pa : Nat) : Bool :=
  decide (pa < 0x9000000000) || (decide (0x10000000000 ≤ pa) && decide (pa < 0x20000000000))

/-- The address, with the own package's prefix taken off, lies in a populated tier range (R54). -/
def populatedAt (s : State) (pa : Nat) : Bool := populated (localPa s pa)

/-- The key of the SC bank that is the home of a line (R53, R104). -/
def scKey (line : Nat) : Nat := lineTower line + 8 * Config.scBank line

/-- The line lies in the second tier (R67). -/
def secondTier (line : Nat) : Bool := decide (0x10000000000 ≤ 64 * line)

/-- TIER, DEV and BANK of a repair command name the bank of a line (R53, R376). -/
def bankNamed (v : Word) (line : Nat) : Bool :=
  decide (bitB v 62 = secondTier line) && decide (bitF v 58 4 = tierDevice (64 * line))
    && decide (bitF v 40 8 = Config.bankOf (secondTier line) (tierOffset (64 * line)) % 256)

/-- A repair holds the accesses to the bank of a line (R366). -/
def bankHeld (s : State) (line : Nat) : Bool := match s.modul.repair with
  | none => false
  | some (_, v) => bankNamed v line

def tagAt (w : Tower) (line : Nat) : Option Tag := SMap.get (fun _ => none) w.tags line
def setTag (w : Tower) (line : Nat) (g : Option Tag) : Tower := { w with tags := SMap.set (fun _ => none) w.tags line g }
def entryAt (w : Tower) (p : Nat) : DEntry := SMap.get (fun _ => DEntry.reset) w.entries p
def setEntry (w : Tower) (p : Nat) (e : DEntry) : Tower := { w with entries := SMap.set (fun _ => DEntry.reset) w.entries p e }

/-- The lowest-numbered free data entry. -/
def firstFree : SMap DEntry → Nat → Nat
  | [], n => n
  | (k, e) :: m, n => if k = n ∧ e.cnt ≠ 0 then firstFree m (n + 1) else n

/-- A data entry leaves the candidate table (R77). -/
def dropCand (w : Tower) (p : Nat) : Tower :=
  { w with buckets := (w.buckets.map fun b => (b.1, b.2.filter fun c => decide (c.1 ≠ p))).filter fun b => !b.2.isEmpty }

/-- One reference fewer: an entry without references is free (R75, R78). -/
def dropRef (w : Tower) (p : Nat) : Tower :=
  let e := entryAt w p
  if e.cnt ≤ 1 then setEntry (dropCand w p) p DEntry.reset else setEntry w p { e with cnt := e.cnt - 1 }

/-- One reference more: at 127 the entry closes (R75). -/
def addRef (w : Tower) (p : Nat) : Tower :=
  let e := entryAt w p
  let w1 := setEntry w p { e with cnt := e.cnt + 1, closed := e.closed || decide (e.cnt + 1 ≥ 127) }
  if e.cnt + 1 = 127 ∧ !e.closed then (dropCand w1 p).setCreg 0x304 (addF (w1.creg 0x304) 0 32 1) else w1

/-- A new entry with one reference. -/
def newEntry (w : Tower) (bytes : List Byte) : Nat × Tower :=
  let p := firstFree w.entries 0
  (p, setEntry w p ⟨bytes, 1, 0, false⟩)

/-- Searches a bucket for an equal line of the same domain: the entry to join, and the collisions met (R77). -/
def findShare (w : Tower) (own dom sig : Nat) (bytes : List Byte) : List (Nat × Nat) → Option Nat × Nat
  | [] => (none, 0)
  | c :: cs =>
    let e := entryAt w c.1
    if c.1 ≠ own ∧ c.2 = dom ∧ e.sig = sig ∧ e.cnt < 127 ∧ !e.closed then
      if e.bytes = bytes then (some c.1, 0)
      else let r := findShare w own dom sig bytes cs; (r.1, r.2 + 1)
    else findShare w own dom sig bytes cs

/-- A line offered as a sharing candidate (R77). A line that shares its entry is not offered again (R82). -/
def offer (w : Tower) (line : Nat) : Tower :=
  match tagAt w line with
  | none => w
  | some g =>
    let e := entryAt w g.ptr
    let h := crc32 e.bytes
    let w := setEntry w g.ptr { e with sig := h % 65536 }
    if g.dom = 0 ∨ g.pois ≠ 0 ∨ e.cnt ≠ 1 ∨ !bitB (w.creg 0x300) 0 then w
    else
      let k := h / 4096
      let b := SMap.get (fun _ => []) w.buckets k
      let r := findShare w g.ptr g.dom (h % 65536) e.bytes b
      let w := w.setCreg 0x303 (addF (w.creg 0x303) 0 32 r.2)
      match r.1 with
      | some p =>
        let w := dropRef (setTag (addRef w p) line (some { g with ptr := p })) g.ptr
        w.setCreg 0x303 (addF (w.creg 0x303) 32 32 1)
      | none =>
        let w := dropCand w g.ptr
        let b := SMap.get (fun _ => []) w.buckets k
        if e.closed then w
        else { w with buckets := SMap.set (fun _ => []) w.buckets k ((if b.length < 4 then b else b.drop 1) ++ [(g.ptr, g.dom)]) }

/-- The DOM that an access sets (R76). -/
def domOf (w : Tower) (a : Acc) : Nat :=
  if !a.tr || !a.d then 0
  else
    let e := SMap.get (fun _ => 0) w.doms a.asid
    if !a.w && e.testBit 8 then 255 else e % 256

/-- An untranslated access: host, another package, the part's own copy (R76, R84). No translation gives it a C bit (R68); it has C = 0.
DESIGN CHOICE, unsafe (log entry 92). -/
def Acc.direct : Acc := ⟨0, false, false, false, false, true, 0⟩

/-! Writeback (R67, R68). -/

def formAt (s : State) (line : Nat) : Nat := SMap.get (fun _ => 0) s.form (line / 2)
def setForm (s : State) (line f : Nat) : State := { s with form := SMap.set (fun _ => 0) s.form (line / 2) f }

/-- The cause with which a fill of the line from memory delivers poison, 0 for none (R67, R410). -/
def memPois (s : State) (line : Nat) : Nat :=
  if secondTier line ∧ formAt s line = 3 then 0x1E else badAt s (64 * line)

/-- The other line of a pair. -/
def partner (line : Nat) : Nat := if line % 2 = 0 then line + 1 else line - 1

/-- The content of a line in the SC or else in memory, with its poison cause. -/
def lineNow (s : State) (line : Nat) : List Byte × Nat :=
  let w := towerAt s (lineTower line)
  match tagAt w line with
  | some g => ((entryAt w g.ptr).bytes, g.pois)
  | none => (memBytes s (64 * line) 64, memPois s line)

/-- Stores a line in memory with its form (R68). -/
def storeLine (s : State) (line : Nat) (bytes : List Byte) (pois : Nat) (c : Bool) : State :=
  let s1 := setBad (setBytes s (64 * line) bytes) (64 * line) pois
  if !secondTier line then s1
  else
    let p := lineNow s (partner line)
    if !c || decide (pois ≠ 0) || decide (p.2 ≠ 0) then setForm s1 line 0
    else
      let s2 := setBad (setBytes s1 (64 * partner line) p.1) (64 * partner line) 0
      if (bytes ++ p.1).all (fun b => decide (b = 0#8)) then setForm s2 line 2
      else
        let (n, s3) := takeFree s2
        setForm s3 line (if Config.freeBool n then 1 else 0)

/-- Writes back a dirty line, which stays valid and clean and is offered (R77). -/
def writeBack (s : State) (line : Nat) : State :=
  let w := towerAt s (lineTower line)
  match tagAt w line with
  | none => s
  | some g =>
    if g.dirty then
      modTower (storeLine s line (entryAt w g.ptr).bytes g.pois g.c) (lineTower line)
        fun w => offer (setTag w line (some { g with dirty := false, c := false })) line
    else s

/-- Invalidates a live tag without a writeback; its entry loses one reference (R78). -/
def dropLine (s : State) (line : Nat) : State :=
  modTower s (lineTower line) fun w => match tagAt w line with
    | none => w
    | some g => dropRef (setTag w line none) g.ptr

/-- Evicts a live tag (R78). -/
def evictLine (s : State) (line : Nat) : State := dropLine (writeBack s line) line

/-! Snapshot ranges (R79 to R84). -/

/-- The first 64 KiB granule that a register with a physical address in [55:16] names, without the own package's prefix (R54). -/
def granuleOf (s : State) (w : Word) : Nat := localPa s (65536 * bitF w 16 40) / 65536

/-- The range that governs an address in one tower's copies (R79). -/
def rangeAt (s : State) (w : Tower) (pa : Nat) : Option Nat :=
  (rangeFrom 0 16).find? fun n =>
    bitB (w.creg (0x360 + n)) 31 && decide (granuleOf s (w.creg (0x340 + n)) ≤ pa / 65536 % 2 ^ 40)
      && decide (pa / 65536 % 2 ^ 40 ≤ granuleOf s (w.creg (0x350 + n)))

/-- A range's level in one tower. -/
def rangeLevel (w : Tower) (n : Nat) : Nat := bitF (w.creg (0x360 + n)) 16 3

/-- The address of a pool slot; the line's bytes stand at its start. DESIGN CHOICE, unsafe (log entry 76). -/
def poolAddr (s : State) (w : Tower) (slot : Nat) : Nat := 65536 * granuleOf s (w.creg 0x370) + 128 * slot

/-- The address lies in the tower's pool region (R83). -/
def poolHas (s : State) (w : Tower) (pa : Nat) : Bool :=
  let slots := bitF (w.creg 0x371) 0 32
  decide (slots ≠ 0) && decide (poolAddr s w 0 ≤ pa) && decide (pa < poolAddr s w slots)

/-- The address lies in any tower's pool region. -/
def inPool (s : State) (pa : Nat) : Bool := s.towers.any fun t => poolHas s t.2 pa

/-- The lowest free pool slot. DESIGN CHOICE, unsafe (log entry 76). -/
def poolSlot (w : Tower) : Nat := ((rangeFrom 0 (w.shadows.length + 1)).find? fun n => !w.shadows.any fun h => h.slot = n).getD 0

/-- A shadow's slot in the pool takes the data, the line address, the range, the level and a check (R83); errors of its lines are gone. -/
def putSlot (s : State) (t : Nat) (h : Shadow) (bs : List Byte) : State :=
  let a := poolAddr s (towerAt s t) h.slot
  setBad (setBad (setBytes s a (bs ++ natLE 64 (Config.shadowRecord h.line h.rng h.lvl bs))) a 0) (a + 64) 0

/-- The cause of a shadow's poison: its own, or 0x19 when the check of its pool slot fails (R83, R363). -/
def shadowPois (s : State) (t : Nat) (h : Shadow) : Nat :=
  let a := poolAddr s (towerAt s t) h.slot
  if h.pois ≠ 0 then h.pois else if h.ptr.isNone ∧ (badAt s a ≠ 0 ∨ badAt s (a + 64) ≠ 0) then 0x19 else 0

/-- A repair holds the bank of a shadow's pool slot (R366). -/
def slotHeld (s : State) (t : Nat) (h : Shadow) : Bool := bankHeld s (poolAddr s (towerAt s t) h.slot / 64)

/-- A line whose eviction would write to a bank that a repair holds (R366). -/
def evictHeld (s : State) (line : Nat) : Bool := match tagAt (towerAt s (lineTower line)) line with
  | some g => g.dirty && bankHeld s line
  | none => false

/-- A shadow tag moves to its pool slot (R83), unless a repair holds the slot's bank (R366). -/
def spillShadow (s : State) (t : Nat) (h : Shadow) : State :=
  match (if slotHeld s t h then none else h.ptr) with
  | none => s
  | some p => modTower (putSlot s t h (entryAt (towerAt s t) p).bytes) t fun w =>
      dropRef { w with shadows := w.shadows.map fun x => if x = h then { h with ptr := none } else x } p

/-- The shadow tags of a line move to their pool slots (R83). -/
def spillShadows (s : State) (line : Nat) : State :=
  ((towerAt s (lineTower line)).shadows.filter fun h => decide (h.line = line)).foldl (fun s h => spillShadow s (lineTower line) h) s

/-- No data entry is free among the 8 Mi, or no tag among the 16 Mi (R74). -/
def lacks (w : Tower) (entry tag : Bool) : Bool :=
  (entry && decide (8388607 < firstFree w.entries 0))
    || (tag && decide (16777215 < w.tags.length + (w.shadows.filter fun h => h.ptr.isSome).length))

/-- Evicts tags, oldest address first and shadows last, never the live tag of `line`, until a data entry and a tag are free (R74, R75). -/
def roomFor (s : State) (t line : Nat) (entry tag : Bool) : State :=
  let s1 := ((towerAt s t).tags.map Prod.fst).foldl (fun s l =>
    if l ≠ line ∧ lacks (towerAt s t) entry tag ∧ !evictHeld s l then evictLine s l else s) s
  (towerAt s1 t).shadows.foldl (fun s h => if lacks (towerAt s t) entry tag then spillShadow s t h else s) s1

/-- The shadow of a line at a level. -/
def shadowOf (w : Tower) (line n lvl : Nat) : Option Shadow :=
  w.shadows.find? fun h => decide (h.line = line) && decide (h.rng = n) && decide (h.lvl = lvl)

/-- The highest level, at most `top`, at which the line holds a shadow of range `n`; 0 for none (R81, R82). -/
def topShadow (w : Tower) (line n top : Nat) : Nat :=
  ((w.shadows.filter fun h => decide (h.line = line) && decide (h.rng = n) && decide (h.lvl ≤ top)).map Shadow.lvl).foldl Nat.max 0

/-- Removes a shadow from the list: its pool slot is released. -/
def dropShadow (w : Tower) (h : Shadow) : Tower := { w with shadows := w.shadows.erase h }

/-- Frees a shadow: its entry loses one reference (R82). -/
def freeShadow (w : Tower) (h : Shadow) : Tower :=
  match h.ptr with
  | some p => dropRef (dropShadow w h) p
  | none => dropShadow w h

/-- Sets LVL of a live tag. -/
def setLvl (w : Tower) (line lvl : Nat) : Tower :=
  match tagAt w line with
  | none => w
  | some g => setTag w line (some { g with lvl := lvl })

/-- A shadow takes another level: its field, and the record in its pool slot when it stands there (R82, R83). -/
def relabel (s : State) (t : Nat) (h : Shadow) (l : Nat) : State :=
  let h' := { h with lvl := l }
  let s := if h.ptr.isNone then putSlot s t h' (memBytes s (poolAddr s (towerAt s t) h.slot) 64) else s
  modTower s t fun w => { w with shadows := w.shadows.map fun x => if x = h then h' else x }

/-- An accept of range `n` from level `l`, on one line (R82). -/
def acceptLine (s : State) (t line n l : Nat) : State :=
  match shadowOf (towerAt s t) line n l with
  | none => s
  | some h =>
    if l ≤ 1 ∨ (shadowOf (towerAt s t) line n (l - 1)).isSome then modTower s t fun w => setLvl (freeShadow w h) line (l - 1)
    else modTower (relabel s t h (l - 1)) t fun w => setLvl w line (l - 1)

/-- The migrations whose old frame holds an address. The home that keeps a page's entry is the tower of the page's first line; every tower
that homes lines of the frame consults it (R70, R72). -/
def migrsFor (s : State) (pa : Nat) : List Migr :=
  (s.towers.flatMap fun t => t.2.migr).filter fun m => decide (m.old ≤ pa) && decide (pa < m.old + m.size)

/-- The frame at which an access to a tier address is performed (R72): each switched migration forwards it, at most `n` in a row. -/
def forwarded (s : State) : Nat → Nat → Nat
  | 0, pa => pa
  | n + 1, pa => match (migrsFor s pa).find? Migr.switched with
    | some m => forwarded s n (m.new + (pa - m.old))
    | none => pa

/-- The frame at which an access to a tier address is performed (R72); there are at most 64 migrations (R70). -/
def scFinal (s : State) (pa : Nat) : Nat := forwarded s 64 pa

/-- The address of level record `id`, by a tower's registers (R54, R309). -/
def lvlPa (s : State) (t id : Nat) : Nat := localPa s (4096 * bitF ((towerAt s t).creg 0x3D0) 12 44) + 32 * id

/-- KIND and ASID of a level record (R310). -/
def lrKind (r : List Word) : Nat := bitF (val r 0) 50 2
def lrAsid (r : List Word) : Nat := bitF (val r 3) 20 12

/-- A user-mode request whose ASID differs from the record's (R319). -/
def asidBad (r : List Word) (user : Bool) (asid : Nat) : Bool := user && decide (lrAsid r ≠ asid)

/-- What a level wait is answered when it is performed: dword 0 of the record, or the poison of its checks (R319, R321). -/
def levelReply (f : SyncForm) (id : Nat) (user : Bool) (asid : Nat) (r : List Word) : Reply :=
  if asidBad r user asid then .poison 0x11 id
  else if f = .phwait ∧ lrKind r ≠ 2 then .poison 0x37 id
  else .value (wordLE 8 (val r 0))

/-- After a change of a line, the waiters of each level record in it are performed when its DONE holds, oldest first (R144, R320).
DEDUCED, safe (log entry 26). -/
def serveLevels (s : State) (line : Nat) : State :=
  let bs := (lineNow s line).1
  s.towers.foldl (fun s e =>
    let w := towerAt s e.1
    let served (x : LvlWait) : Option Reply :=
      let pa := scFinal s (lvlPa s e.1 x.id)
      let r := dwords 4 ((bs.drop (pa % 64)).take 32)
      if decide (pa / 64 = line) && bitB (val r 0) 49 then match x.msg.body with
        | .levelWait f id user asid => some (levelReply f id user asid r)
        | _ => none
      else none
    w.lvlw.foldl (fun s x => match served x with
      | some v => sendMsg s (replyTo x.msg (.syncReply v))
      | none => s) (setTower s e.1 { w with lvlw := w.lvlw.filter fun x => (served x).isNone })) s

/-- The monitors that are enabled, bit n for monitor n (R94). -/
def monitors (w : Tower) : Nat := ((rangeFrom 0 4).map fun n => (bitB (w.creg (0x308 + 2 * n)) 8).toNat * 2 ^ n).sum

/-- A reject of range `n` from level `l`, on one line (R82). The live tag keeps its C bit; one made from a shadow has C = 0, and the domain
monitors see it made (R94). DESIGN CHOICE, unsafe (log entry 78). -/
def rejectLine (s : State) (t line n l : Nat) : State :=
  match shadowOf (towerAt s t) line n l with
  | none => s
  | some h =>
    let s := if h.ptr.isNone then roomFor s t line true (tagAt (towerAt s t) line).isNone else s
    let w := towerAt s t
    let (p, w1) := match h.ptr with
      | some p => (p, w)
      | none => newEntry w (memBytes s (poolAddr s w h.slot) 64)
    let w2 := dropShadow w1 h
    let lvl := topShadow w2 line n (l - 1)
    let pois := shadowPois s t h
    match tagAt w2 line with
    | some g => setTower s t (setTag (dropRef w2 g.ptr) line (some { g with ptr := p, pois := pois, dirty := true, lvl := lvl }))
    | none => setTower s t (setTag w2 line (some ⟨true, h.dom, p, lvl, false, pois, monitors w2⟩))

/-- Applies a recorded operation to one line. -/
def resolveOne (s : State) (t line : Nat) (o : PendOp) : State :=
  if o.lines.contains line then
    if o.reject then serveLevels (rejectLine s t line o.rng o.level) line else acceptLine s t line o.rng o.level
  else s

/-- Resolves a line's pending operations in recording order (R86). -/
def resolveLine (s : State) (t line : Nat) : State :=
  let s1 := (towerAt s t).pend.foldl (fun s o => resolveOne s t line o) s
  modTower s1 t fun w => { w with pend :=
    (w.pend.map fun o => { o with lines := o.lines.filter fun l => decide (l ≠ line) }).filter fun o => !o.lines.isEmpty }

/-- What is pending on a line must wait: it reads or writes a pool slot whose bank a repair holds (R86, R366). -/
def resolveHeld (s : State) (t line : Nat) : Bool :=
  (towerAt s t).pend.any (fun o => o.lines.contains line)
    && (towerAt s t).shadows.any fun h => decide (h.line = line) && h.ptr.isNone && slotHeld s t h

/-- Resolves everything that is pending in a tower. -/
def resolveAll (s : State) (t : Nat) : State :=
  ((towerAt s t).pend.flatMap PendOp.lines).foldl (fun s line => resolveLine s t line) s

/-- Lazy work of range `n` is outstanding in a tower (R86). -/
def rangePend (w : Tower) (n : Nat) : Bool := w.pend.any fun o => decide (o.rng = n)

/-- Records a snap, accept or reject in one tower (R80, R86). -/
def recordOp (s : State) (t n : Nat) (op : SnapOp) : State :=
  modTower s t fun w =>
    let l := rangeLevel w n
    let cfg := w.creg (0x360 + n)
    let lines := ((w.shadows.filter fun h => decide (h.rng = n)).map Shadow.line).eraseDups
    match op with
    | .snap => if l < 4 then w.setCreg (0x360 + n) (setF cfg 16 3 (l + 1)) else w
    | .accept | .reject =>
      if l = 0 then w
      else
        let w := w.setCreg (0x360 + n) (setF cfg 16 3 (l - 1))
        if lines = [] then w else { w with pend := w.pend ++ [⟨n, decide (op = .reject), l, lines⟩] }

/-- Clearing V of a range acts as that many accepts: every shadow of it is freed (R80). -/
def clearRange (s : State) (t n : Nat) : State :=
  modTower (resolveAll s t) t fun w =>
    let hs := w.shadows.filter fun h => decide (h.rng = n)
    let w := hs.foldl (fun w h => setLvl (freeShadow w h) h.line 0) w
    w.setCreg (0x360 + n) (setF (w.creg (0x360 + n)) 16 3 0)

/-! Fills. -/

/-- Installs a line that memory delivered (R76, R81): the tag takes the LVL of its shadows; then the line is offered (R77). -/
def fillLine (s : State) (line : Nat) (acc : Acc) : State :=
  let t := lineTower line
  let pois := memPois s line
  let bytes := memBytes s (64 * line) 64
  modTower s t fun w =>
    match tagAt w line with
    | some _ => { w with fills := SMap.set (fun _ => none) w.fills line none }
    | none =>
      let lvl := match rangeAt s w (64 * line) with
        | some n => topShadow w line n 4
        | none => 0
      let (p, w) := newEntry w bytes
      offer (setTag { w with fills := SMap.set (fun _ => none) w.fills line none } line
        (some ⟨false, domOf w acc, p, lvl, false, pois, monitors w⟩)) line

/-- Makes room for the fill of a line when the slice is full (R74, R75). -/
def makeRoom (s : State) (line : Nat) : State :=
  if (tagAt (towerAt s (lineTower line)) line).isSome then s else roomFor s (lineTower line) line true true

/-- The line as an access finds it: pending operations resolved, and filled when it is absent (R81, R86). -/
def touchLine (s : State) (line : Nat) (acc : Acc) : State :=
  fillLine (makeRoom (resolveLine s (lineTower line) line) line) line acc

/-! Accesses at the SC. -/

/-- A line's content and poison cause as an access would find them: what is pending on it is resolved first (R86). -/
def lineSeen (s : State) (line : Nat) : List Byte × Nat := lineNow (resolveLine s (lineTower line) line) line

/-- The line of a tier access is not in its SC, so the access must wait for a fill. -/
def scAbsent (s : State) (pa : Nat) : Bool :=
  let line := scFinal s pa / 64
  (tagAt (towerAt s (lineTower line)) line).isNone

/-- Starts the fill for which an access waits. -/
def startFill (s : State) (pa : Nat) (acc : Acc) : State :=
  let line := scFinal s pa / 64
  modTower s (lineTower line) fun w =>
    if (SMap.get (fun _ => none) w.fills line).isSome then w
    else { w with fills := SMap.set (fun _ => none) w.fills line (some acc) }

/-- The line must wait: for what is pending on it, or for a fill from a bank that a repair holds (R86, R366). -/
def lineHeld (s : State) (line : Nat) : Bool :=
  resolveHeld s (lineTower line) line || ((tagAt (towerAt s (lineTower line)) line).isNone && bankHeld s line)

/-- A read at the SC of the frame that holds the address now. Poison of form tag 3 names the logical address (R67), other poison the
physical one (R410). -/
def scReadAt (s : State) (pa n : Nat) (acc : Acc) : HRes :=
  if inPool s pa then .deny s .poolRegion
  else if lineHeld s (pa / 64) then .wait s
  else
    let line := pa / 64
    let s := touchLine s line acc
    let w := towerAt s (lineTower line)
    match tagAt w line with
    | none => .wait s
    | some g =>
      if g.pois ≠ 0 then .poison s g.pois (if g.pois = 0x1E then acc.la else pa)
      else .ok s (((entryAt w g.ptr).bytes.drop (pa % 64)).take n)

/-- Replaces bytes of a list. -/
def splice (old : List Byte) (i : Nat) (new : List Byte) : List Byte := old.take i ++ new ++ old.drop (i + new.length)

/-- A shadow made before a write at level `l` (R81); PEAK follows USED at each new one (R94). DESIGN CHOICE, unsafe (log entry 94). -/
def makeShadow (w : Tower) (line n l : Nat) (g : Tag) : Tower :=
  let slot := poolSlot w
  let (p, w1) := if (entryAt w g.ptr).cnt ≥ 127 then newEntry w (entryAt w g.ptr).bytes else (g.ptr, addRef w g.ptr)
  let w2 := { w1 with shadows := w1.shadows ++ [Shadow.mk line n l g.dom (some p) g.pois slot] }
  let used := w2.shadows.length
  let w3 := w2.setCreg 0x372 (setF (w2.creg 0x372) 32 32 (Nat.max used (bitF (w2.creg 0x372) 32 32)))
  setTag w3 line (some { g with lvl := l })

/-- The line gets an entry of its own before a write (R78). -/
def unshare (w : Tower) (line : Nat) : Tower :=
  match tagAt w line with
  | none => w
  | some g =>
    let e := entryAt w g.ptr
    if e.cnt > 1 then
      let (p, w1) := newEntry w e.bytes
      let w2 := dropRef (setTag w1 line (some { g with ptr := p })) g.ptr
      w2.setCreg 0x304 (addF (w2.creg 0x304) 32 32 1)
    else w

/-- Performs a write on a present line. The entry written leaves the candidate table: a line written since its fill is no candidate
(R77, R409). -/
def putLine (w : Tower) (line off : Nat) (bs : List Byte) (acc : Acc) : Tower :=
  let w := unshare w line
  match tagAt w line with
  | none => w
  | some g =>
    let w := dropCand w g.ptr
    let e := entryAt w g.ptr
    let w := setEntry w g.ptr { e with bytes := splice e.bytes off bs }
    setTag w line (some { g with dirty := true, c := acc.c, dom := domOf w acc, pois := if bs.length = 64 then 0 else g.pois,
                                 seen := monitors w })

/-- A line's write in tower `t`, with room made for the entry that an unshare takes (R75, R78). -/
def putAt (s : State) (t line off : Nat) (bs : List Byte) (acc : Acc) : State :=
  let share : Bool := match tagAt (towerAt s t) line with
    | some g => decide (1 < (entryAt (towerAt s t) g.ptr).cnt)
    | none => false
  modTower (if share then roomFor s t line true false else s) t fun w => { putLine w line off bs acc with wrote := s.time + 1 }

/-- A write at the SC of the frame that holds the address now, refused as a whole or performed (R81, R83, R84, R85, R410). -/
def scWriteAt (s : State) (pa : Nat) (bs : List Byte) (acc : Acc) : HRes :=
  if inPool s pa then .deny s .poolRegion
  else if lineHeld s (pa / 64) then .wait s
  else
    let line := pa / 64
    let t := lineTower line
    let s := touchLine s line acc
    let w := towerAt s t
    match tagAt w line with
    | none => .wait s
    | some g =>
      let rng := rangeAt s w pa
      let l := (rng.map (rangeLevel w)).getD 0
      if l > 0 ∧ !acc.s then .deny s .snapConflict
      else if g.pois ≠ 0 ∧ bs.length < 64 then .deny s .partialWrite
      else if g.lvl < l then
        if bitF (w.creg 0x371) 0 32 ≤ w.shadows.length then .deny s .poolFull
        else
          let s := roomFor s t line (decide (127 ≤ (entryAt w g.ptr).cnt)) true
          .ok (putAt (modTower s t fun w => makeShadow w line (rng.getD 0) l g) t line (pa % 64) bs acc) []
      else .ok (putAt s t line (pa % 64) bs acc) []

/-- Where the copy of a line goes: the new frame, forwarded when that moves on itself (R70, R72). -/
def copyDst (s : State) (m : Migr) (line : Nat) : Nat := scFinal s (m.new + (64 * line - m.old)) / 64

/-- Copies one line to the new frame of a migration, poison included (R70), with the C bit of the leaf at `pmig`, a mirrored line too. What the
new frame's home refuses stays as it is there. DESIGN CHOICE, unsafe (log entries 90 and 91). -/
def copyLine (s : State) (m : Migr) (line : Nat) : State :=
  let s := touchLine s line Acc.direct
  let c := lineNow s line
  let dst := copyDst s m line
  match scWriteAt s (64 * dst) c.1 { Acc.direct with c := m.c } with
  | .ok s _ => modTower s (lineTower dst) fun w => match tagAt w dst with
    | some g => setTag w dst (some { g with pois := c.2 })
    | none => w
  | .poison s _ _ | .deny s _ | .wait s => s

/-- After a write at an old frame that is being copied, the line is mirrored to the new frame of each such migration, and on from there, at
most `n` times (R72). DEDUCED, unsafe (log entry 51). -/
def mirrored : Nat → State → Nat → State
  | 0, s, _ => s
  | n + 1, s, line => ((migrsFor s (64 * line)).filter fun m => !m.switched).foldl
      (fun s m => mirrored n (copyLine s m line) (copyDst s m line)) s

/-- The mirrors of a write at the frame that holds a line now (R72). -/
def mirror (s : State) (line : Nat) : State := mirrored 64 s line

/-- A read at the SC, forwarded by a migration (R72). -/
def scRead (s : State) (pa n : Nat) (acc : Acc) : HRes := scReadAt s (scFinal s pa) n acc

/-- A write at the SC, forwarded or mirrored by a migration (R72). -/
def scWrite (s : State) (pa : Nat) (bs : List Byte) (acc : Acc) : HRes :=
  match scWriteAt s (scFinal s pa) bs acc with
  | .ok s r => .ok (serveLevels (mirror s (scFinal s pa / 64)) (scFinal s pa / 64)) r
  | r => r

/-! Accesses at any home of the package. -/

/-- A read at its home, with the cause of the error or the mark that it meets, as an engine sees it (R410). -/
def homeReadRaw (s : State) (pa n : Nat) (acc : Acc) : HRes :=
  match placeOf s pa with
  | .tier a => scRead s a n acc
  | .lm cl lc off => match lmAt s cl lc off with
    | .here c o _ => match lmRead s c o n with
      | .poison s v _ => .poison s v pa
      | r => r
    | .wait => .wait s
    | .off => .deny s .off
    | .retired => .deny s .retired
  | .csp cl off => match cspRead s cl off n with
    | .poison s v _ => .poison s v pa
    | r => r
  | .remote _ _ => .deny s .remote
  | .ctl _ _ | .host _ => .deny s .control
  | .hole | .spread _ _ => .deny s .host

/-- The cause that reaches a reader which is no engine: a poison mark counts as the error 0x19 (R410). -/
def coreCause (c : Nat) : Nat := if c = 0x1A then 0x19 else c

/-- A read at its home by a core, a walk or the host (R410). -/
def homeRead (s : State) (pa n : Nat) (acc : Acc) : HRes :=
  match homeReadRaw s pa n acc with
  | .poison s c a => .poison s (coreCause c) a
  | r => r

/-- A write at its home: when it is performed and the directory allows it, `ack` leaves (R107, R111). -/
def homeWrite (s : State) (pa : Nat) (bs : List Byte) (acc : Acc) (ack : Option Msg) : HRes :=
  let send (s : State) : State := match ack with
    | some m => sendMsg s m
    | none => s
  match placeOf s pa with
  | .tier a => match scWrite s a bs acc with
    | .ok s r => .ok (send s) r
    | r => r
  | .lm cl lc off => match lmAt s cl lc off with
    | .here c o _ => match lmWrite s c o bs with
      | .ok s r => .ok (dirWrite s c o ack) r
      | r => r
    | .wait => .wait s
    | .off => .deny s .off
    | .retired => .deny s .retired
  | .csp cl off => match cspWrite s cl off bs with
    | .ok s r => .ok (send s) r
    | r => r
  | .remote _ _ => .deny s .remote
  | .ctl _ _ | .host _ => .deny s .control
  | .hole | .spread _ _ => .deny s .host

/-- The new value of an atomic on an `n`-byte word (R148, R149); none leaves the word as it is. -/
def amoResult (op : AmoOp) (n : Nat) (old b cmp : Word) : Option Word :=
  let o := sextW (8 * n) old
  let v := sextW (8 * n) b
  match op with
  | .add => some (old + b)
  | .and => some (old &&& b)
  | .or => some (old ||| b)
  | .xor => some (old ^^^ b)
  | .min => some (minS o v)
  | .max => some (maxS o v)
  | .minn => some (minU (zextW (8 * n) old) (zextW (8 * n) b))
  | .maxn => some (maxU (zextW (8 * n) old) (zextW (8 * n) b))
  | .swap => some b
  | .fadd => some (nw (f32Add .rne (bitF old 0 32) (bitF b 0 32)))
  | .cas => if zextW (8 * n) old = zextW (8 * n) cmp then some b else none

/-- An atomic at its home: reads, computes and writes in one step; the bytes answered are the old word's (R148). -/
def homeRmw (s : State) (op : AmoOp) (pa n : Nat) (b cmp : Word) (acc : Acc) (mk : Reply → Option Msg) : HRes :=
  match homeRead s pa n acc with
  | .ok s1 bytes =>
    match amoResult op n (leWord bytes) b cmp with
    | none => match mk (.value bytes) with
      | some m => .ok (sendMsg s1 m) bytes
      | none => .ok s1 bytes
    | some v =>
      match homeWrite s1 pa (wordLE n v) acc (mk (.value bytes)) with
      | .ok s2 _ => .ok s2 bytes
      | .poison _ c a => .poison s1 c a
      | .deny _ d => .deny s1 d
      | .wait _ => .wait s1
  | r => r

end Sys2Proof.Machine
end

