-- ==== Sys2Proof/Machine/Access.lean ====
section
/-! DEFINITION. From a segment and an offset to a physical address and its home; requests, posted stores and the read-only cache at
the issuing core (R12, R54 to R61, R101, R106 to R110, R127 to R131, R150, R274, R275, R338, R341). -/

namespace Sys2Proof.Machine

/-! Segments (R129, R130). -/

/-- A segment descriptor's fields. -/
def segBase (lo : Word) : Nat := bitF lo 0 52 * 16
def segLimit (lo hi : Word) : Nat := bitF lo 52 12 + 4096 * bitF hi 0 28
def segR (hi : Word) : Bool := bitB hi 28
def segW (hi : Word) : Bool := bitB hi 29
def segX (hi : Word) : Bool := bitB hi 30
def segA (hi : Word) : Bool := bitB hi 31
def segF (hi : Word) : Bool := bitB hi 32
def segD (hi : Word) : Bool := bitB hi 33
def segWin (hi : Word) : Nat := bitF hi 34 2

/-- The descriptor words of segment `n` of a slot. -/
def Slot.segLo (x : Slot) (n : Nat) : Word := x.creg (0xC0 + 2 * n)
def Slot.segHi (x : Slot) (n : Nat) : Word := x.creg (0xC1 + 2 * n)

/-- The rights that an access needs (R130). -/
structure Need where
  r : Bool := false
  w : Bool := false
  x : Bool := false
  f : Bool := false
  d : Bool := false
deriving DecidableEq, Repr

def needR : Need := { r := true }
def needW : Need := { w := true }
def needRW : Need := { r := true, w := true }
def needRF : Need := { r := true, f := true }
def needWF : Need := { w := true, f := true }

/-- A descriptor's rights contain those needed. -/
def rightsOk (hi : Word) (n : Need) : Bool :=
  (!n.r || segR hi) && (!n.w || segW hi) && (!n.x || segX hi) && (!n.f || segF hi) && (!n.d || segD hi)

/-- An address lies in a window (R129). -/
def inWindow (win la : Nat) : Bool :=
  if win = 0 then decide (la < 0x20000000000)
  else if win = 1 then decide (0x20000000000 ≤ la) && decide (la < 0x21800000000)
  else if win = 2 then decide (0x21800000000 ≤ la) && decide (la < 0x21900000000)
  else decide (0x22000000000 ≤ la) && decide (la < 2 ^ 56)

/-! Translation at the memory port (R56 to R61). -/

/-- The TLB entry that translates an address. -/
def tlbFind (c : Cluster) (asid la : Nat) : Option TlbE :=
  c.tlb.find? fun e => decide (e.asid = asid) && decide (la / 2 ^ e.lg = e.page)

/-- What forming an address gives: the logical and physical address with what the access carries, a precise trap, or a wait for a
table walk. -/
inductive AddrRes where
  | ok (la pa : Nat) (acc : Acc)
  | trap (cause : Nat) (tval : Word)
  | walk (s : State)

/-- A cluster's port takes a walk that starts anew (R57). -/
def Cluster.addWalk (c : Cluster) (who : Walker) (asid la : Nat) : Cluster :=
  { c with walks := (c.walks.filter fun w => decide (w.who ≠ who)) ++ [⟨who, asid, la, none, none, none⟩] }

/-- A walk starts after a TLB miss; MISS counts it (R57, R65). -/
def Cluster.startWalk (c : Cluster) (who : Walker) (asid la : Nat) : Cluster :=
  (c.setCreg 0x252 (addF (c.creg 0x252) 0 32 1)).addWalk who asid la

/-- Asks the memory port for a walk: one for each slot; a slot's earlier one is forgotten (R57). DESIGN CHOICE, unsafe (log entry 24). -/
def askWalk (s : State) (k asid la : Nat) : State :=
  modCluster s (clusterOf (coreOf k)) fun c =>
    if c.walks.any (fun w => decide (w.who = .slot k) && decide (w.asid = asid) && decide (w.la = la)) then c
    else c.startWalk (.slot k) asid la

/-- The walker is another slot of slot `k`'s core. -/
def Walker.besides (k : Nat) : Walker → Bool
  | .slot j => decide (coreOf j = coreOf k) && decide (j ≠ k)
  | .engine _ | .page _ => false

/-- A later access of the core waits while an access of another slot of it waits for a walk (R105). -/
def walkBlocks (s : State) (k : Nat) : Bool := (clusterAt s (clusterOf (coreOf k))).walks.any fun w => w.who.besides k

/-- Rights on the leaf: a fetch needs R, a synchronising access R and W (R59). -/
def leafOk (e : TlbE) (n : Need) : Bool := (!(n.r || n.x || n.f) || e.r) && (!(n.w || n.f) || e.w)

/-- Translates a logical address for slot `k` (R56 to R61). -/
def translate (s : State) (k asid la : Nat) (n : Need) : AddrRes :=
  let look : AddrRes :=
    match tlbFind (clusterAt s (clusterOf (coreOf k))) asid la with
    | some e =>
      if leafOk e n then .ok la (e.frame + la % 2 ^ e.lg) ⟨asid, true, e.d, e.w, e.c, e.s, la⟩ else .trap 0x15 (nw la)
    | none => .walk (askWalk s k asid la)
  match (slotAt s k).wfault with
  | some (l, c, v) => if l = la then .trap c v else look
  | none => look

/-- What an untranslated access of a thread carries: it counts as S = 1 (R76, R84). -/
def Acc.plain (asid la : Nat) : Acc := ⟨asid, false, false, true, false, true, la⟩

/-- Which core's LM holds an address, and how its own core reaches it (R104, R136, R140, R141). -/
inductive OwnLm where
  | own (off : Nat)
  | off
  | retired
  | other
deriving DecidableEq, Repr

/-- The own LM of core `core`, on and not retired, a donor quarter that it serves included, or another home. -/
def ownLm (s : State) (core pa : Nat) : OwnLm :=
  match placeOf s pa with
  | .lm cl lc off => match lmAt s cl lc off with
    | .here c o _ => if c = core then .own o else .other
    | .wait => .other
    | .off => if lcoreKey s cl lc = core then .off else .other
    | .retired => if lcoreKey s cl lc = core then .retired else .other
  | _ => .other

/-- The own LM of core `core` performs the access, or traps it: it passes no memory port (R12, R136). -/
def inOwnLm (s : State) (core pa : Nat) : Bool := decide (ownLm s core pa ≠ .other)

/-- An access that passes the memory port is held back by an earlier one of the core that waits for a walk (R105). -/
def portOrder (s : State) (k : Nat) (r : AddrRes) : AddrRes :=
  match r with
  | .ok la pa acc => if walkBlocks s k && !inOwnLm s (coreOf k) pa then .walk s else .ok la pa acc
  | .trap c v => .trap c v
  | .walk t => if walkBlocks s k then .walk s else .walk t

/-- The physical address of a logical address that a segment has produced (R131). An address with the own package's prefix is the local one
in every respect (R54). -/
def physical (s : State) (k asid la : Nat) (n : Need) : AddrRes :=
  let lo := localPa s la
  portOrder s k (
    if la < 0x20000000000 then translate s k asid la n
    else match placeOf s lo with
      | .spread r o => match spreadMap (coreAt s (coreOf k)) r o with
        | some pa => .ok la pa (Acc.plain asid la)
        | none => .trap 0x21 (nw la)
      | .hole => .trap 0x10 (nw la)
      | _ => .ok la lo (Acc.plain asid la))

/-- SegAddr of R131 for a scalar access of slot `k`. -/
def segAddr (s : State) (k seg : Nat) (off : Word) (n : Nat) (need : Need) : AddrRes :=
  let x := slotAt s k
  let lo := x.segLo seg
  let hi := x.segHi seg
  if ltS off 0#64 || decide (off.toNat + n - 1 > segLimit lo hi) then .trap 0x10 off
  else if !rightsOk hi need then .trap 0x11 off
  else
    let la := segBase lo + off.toNat
    if la % n ≠ 0 then .trap 0x12 (nw la)
    else if !inWindow (segWin hi) la then .trap 0x10 off
    else physical s k x.asid la need

/-- SegAddr through a segmented pointer (R132). -/
def ptrAddr (s : State) (k : Nat) (p : Word) (n : Nat) (need : Need) : AddrRes :=
  if ptrMid p ≠ 0 then .trap 0x10 p else segAddr s k (ptrSeg p) (nw (ptrOff p)) n need

/-! Homes seen from a core. -/

/-- The core whose LM controller performs accesses to an address, a donor included (R140, R150). -/
def lmCore (s : State) (pa : Nat) : Option Nat :=
  match placeOf s pa with
  | .lm cl lc off => match lmAt s cl lc off with
    | .here c _ _ => some c
    | _ => some (lcoreKey s cl lc)
  | _ => none

/-- The agent to which a request for an address is sent (R104); link port 16 stands for a route that is not valid (R384). -/
def homeAgent (s : State) (core pa : Nat) : Agent :=
  match placeOf s pa with
  | .tier a => .sc (scKey (a / 64))
  | .lm cl lc _ => .ni (lcoreKey s cl lc)
  | .csp cl _ => .csp cl
  | .ctl b n => .control (2 ^ 24 * blockOf n + b)
  | .host _ => .host (if towerOf (clusterOf core) % 8 < 4 then 0 else 1)
  | .remote pkg _ =>
    let r := SMap.get (fun _ => 0#64) s.modul.routes pkg
    .link (if bitB r 63 then bitF r 0 4 else 16)
  | .spread _ _ | .hole => .launchAgent

/-- The register that an address of a control window names, this package's or another's (R54, R338). DEDUCED, safe (log entry 28). -/
def ctlReg (s : State) (pa : Nat) : Option Nat := match placeOf s pa with
  | .ctl _ n => some n
  | .remote _ a => match localPlace (a % 2 ^ 44) with
    | .ctl _ n => some n
    | _ => none
  | _ => none

/-- The address is in a control window, which accepts only `ld.64` and `st.64` (R338). -/
def isCtl (s : State) (pa : Nat) : Bool := (ctlReg s pa).isSome

/-- The address is in the host window (R390). -/
def isHost (s : State) (pa : Nat) : Bool := match placeOf s pa with
  | .host _ => true
  | _ => false

/-- A register of a control window that user mode may not reach (R338). -/
def ctlPriv (s : State) (pa : Nat) : Bool := ((ctlReg s pa).map privReg).getD false

/-- In user mode an access through a segment with A = 1 to another core's LM of the package becomes a baton pass (R150). -/
def attracts (s : State) (k seg pa : Nat) : Bool :=
  let x := slotAt s k
  decide (x.mode = .user) && segA (x.segHi seg) &&
    (match lmCore s pa with
     | some c => decide (c ≠ coreOf k)
     | none => false)

/-! Requests (R101, R106). -/

def reqAt (c : Core) (t : Nat) : Option Req := SMap.get (fun _ => none) c.reqs t
def setReq (c : Core) (t : Nat) (r : Option Req) : Core := { c with reqs := SMap.set (fun _ => none) c.reqs t r }

/-- A free request tag of the core's 64 (R106). -/
def freeTag (c : Core) : Option Nat := (rangeFrom 0 64).find? fun t => (reqAt c t).isNone

/-- The requests of a slot that await an answer. -/
def slotReqs (c : Core) (k : Nat) : List (Nat × Req) :=
  c.reqs.filterMap fun e => e.2.bind fun r => if r.slot = k then some (e.1, r) else none

/-- The synchronising requests of a slot that are outstanding: at most four (R341). -/
def slotSyncs (c : Core) (k : Nat) : Nat := ((slotReqs c k).filter fun r => decide (r.2.kind = .sync)).length

/-- Sends a load-and-reply request, when a tag is free: its destination is emptied and left pending (R106, R137). -/
def sendRequest (s : State) (k reg size : Nat) (signed : Bool) (kind : ReqKind) (form : Option SyncForm) (dst : Agent) (b : Body) :
    Option State :=
  let core := coreOf k
  match freeTag (coreAt s core) with
  | none => none
  | some t =>
    let m : Msg := ⟨.ni core, dst, t, k, (slotAt s k).phase, b⟩
    let s1 := modCore s core fun c => { setReq c t (some ⟨kind, k, reg, size, signed, form, m, 1, none, false, []⟩) with ni := c.ni ++ [m] }
    some (modSlot s1 k fun x => x.pending reg)

/-! Posted stores (R107 to R109). -/

def jAt (c : Core) (e : Nat) : Option JEntry := SMap.get (fun _ => none) c.journal e
def setJ (c : Core) (e : Nat) (j : Option JEntry) : Core := { c with journal := SMap.set (fun _ => none) c.journal e j }

/-- A free journal entry of the core's 64 (R107). -/
def freeJ (c : Core) : Option Nat := (rangeFrom 0 64).find? fun e => (jAt c e).isNone

/-- The journal entries of a slot, outstanding or refused. -/
def slotJ (c : Core) (k : Nat) : List JEntry :=
  c.journal.filterMap fun e => e.2.bind fun j => if j.slot = k then some j else none

/-- The fills in flight of the lines are not to install them: what they bring may be older than a write (R281). -/
def Core.staleFills (c : Core) (hit : Nat → Bool) : Core :=
  { c with reqs := c.reqs.map fun e => (e.1, e.2.map fun r =>
      if decide (r.kind = .roFill) && hit r.reg then { r with withdrawn := true } else r) }

/-- A core's write to a line drops the line from the core's read-only cache at issue, with a fill of it in flight (R110, R281). -/
def rocDrop (s : State) (core pa : Nat) : State :=
  modCore s core fun c => { c.staleFills fun l => decide (l = pa / 64) with roc := SMap.set (fun _ => none) c.roc (pa / 64) none }

/-- Posts a store, when a journal entry is free (R107). -/
def postStore (s : State) (k pa : Nat) (data : List Byte) (form : Option SyncForm) (acc : Acc) : Option State :=
  let core := coreOf k
  match freeJ (coreAt s core) with
  | none => none
  | some e =>
    let (u, s1) := takeFresh s
    let b : Body := match placeOf s pa with
      | .ctl blk n => .ctlAccess true blk n (leWord data)
      | _ => .postedStore pa data form acc
    let m : Msg := ⟨.ni core, homeAgent s core pa, e, k, (slotAt s k).phase, b⟩
    some (modCore (rocDrop s1 core pa) core fun c =>
      { setJ c e (some ⟨false, k, data.length, pa, data, u, form, 0, acc⟩) with ni := c.ni ++ [m] })

/-! Barriers (R275). -/

/-- An engine command of the slot that `fencex` named has not ended. -/
def Slot.barEHolds (x : Slot) : Bool := x.barE.any fun i => x.cmds.any fun c => c.id = i

/-- A store that a barrier names is still in the core's journal. -/
def barsHold (c : Core) (bars : List Nat) : Bool :=
  c.journal.any fun e => match e.2 with
    | some j => bars.contains j.uid
    | none => false

/-! Results delivered to registers. -/

/-- A loaded value, extended (R136). -/
def extend (size : Nat) (signed : Bool) (bytes : List Byte) : Word :=
  if signed then sextW (8 * size) (leWord bytes) else zextW (8 * size) (leWord bytes)

end Sys2Proof.Machine
end

