-- ==== Sys2Proof/Machine/Context.lean ====
section
/-! DEFINITION. The thread context (R151), the status word (R202), answers to round trips, and the start of a baton pass (R152). -/

namespace Sys2Proof.Machine

/-- The slot owns its cluster's OMU (R250). -/
def ownsOmu (s : State) (k : Nat) : Bool := decide ((clusterAt s (clusterOf (coreOf k))).own = some k)

/-- The slot is pinned to its core's VE (R293). -/
def ownsVe (s : State) (k : Nat) : Bool := decide ((coreAt s (coreOf k)).pin = some k)

/-- THR_STATUS (R202). -/
def statusWord (s : State) (k : Nat) : Word :=
  let x := slotAt s k
  nw ((decide (x.mode = .supervisor)).toNat + 2 * x.hnd.isSome.toNat + 4 * x.gang.isSome.toNat
    + 8 * (match x.gang with
           | some g => (!g.att).toNat
           | none => 0)
    + 16 * (decide (slotNo k = 15) && xformOn s (coreOf k)).toNat + 32 * (ownsVe s k).toNat + 64 * (ownsOmu s k).toNat)

/-- A register of the thread is in stream mode. -/
def Slot.anyStream (x : Slot) : Bool := (rangeFrom 0 4).any fun i => (x.stream i).on

/-- The 416 bytes of a thread context, with the given resume PC (R151). -/
def ctxBytes (s : State) (k : Nat) (pc : Word) : List Byte :=
  let x := slotAt s k
  wordLE 8 pc ++ wordLE 8 (statusWord s k) ++ natLE 4 x.full.toNat ++ natLE 4 x.pois.toNat
    ++ ((rangeFrom 1 31).flatMap fun r => wordLE 8 (x.reg r)) ++ wordsLE x.segWords
    ++ natLE 2 (x.asid + slotClass s k * 2 ^ 12 + x.phase % 4 * 2 ^ 14) ++ natLE 2 x.refc ++ natLE 12 0

/-- The general registers of a context. -/
def ctxRegs (bs : List Byte) : SMap Word :=
  (rangeFrom 1 31).foldl (fun m r => SMap.set (fun _ => 0#64) m r (leWord ((bs.drop (16 + 8 * r)).take 8))) []

/-- Loads a context into a slot's registers (R151, R153): the status word gives the mode; reserved bits of a segment are ignored (R8, R129). -/
def Slot.loadCtx (x : Slot) (bs : List Byte) : Slot :=
  let segs := (rangeFrom 0 16).foldl (fun y i =>
    y.setCreg (0xC0 + i) (leWord ((bs.drop (272 + 8 * i)).take 8) &&& (if i % 2 = 0 then 0xFFFFFFFFFFFFFFFF#64 else 0xFFFFFFFFF#64))) x
  let idw := leNat ((bs.drop 400).take 2)
  let y := segs.setCreg 0x085 (nw (idw % 4096))
  { y with
    pc := leWord (bs.take 8) &&& 0x3FFFFFFFFFC#64,
    mode := if leNat ((bs.drop 8).take 1) % 2 = 1 then .supervisor else .user,
    full := BitVec.ofNat 32 (leNat ((bs.drop 16).take 4)) ||| 1#32,
    pois := BitVec.ofNat 32 (leNat ((bs.drop 20).take 4)),
    pend := 0#32,
    par := 0#32,
    g := ctxRegs bs,
    phase := idw / 2 ^ 14 % 4,
    refc := leNat ((bs.drop 402).take 2) }

/-- The class that a context carries (R151). -/
def ctxClass (bs : List Byte) : Nat := leNat ((bs.drop 400).take 2) / 2 ^ 12 % 4

/-- The levels of a unit that an id names (R319). -/
def UnitRun.levels (u : UnitRun) (id : Nat) : Nat :=
  (decide (u.lid = id)).toNat + 2 * (decide (u.graph = id)).toNat + 4 * (decide (u.phase = id)).toNat + 8 * (decide (u.job = id)).toNat

/-- The ASID of a context (R151). -/
def ctxAsid (bs : List Byte) : Nat := leNat ((bs.drop 400).take 2) % 4096

/-- A gang switch keeps a queued baton out of its core (R340). -/
def batonKept (c : Core) (b : BatonIn) : Bool := c.divert && decide (ctxAsid b.ctx = bitF (c.creg 0x1C9) 0 12)

/-- A queued baton takes the next slot of a class that is free (R153, R340). -/
def batonWaits (c : Core) (cls : Nat) : Bool := c.hopQ.any fun b => decide (b.cls = cls) && !batonKept c b

/-- The unit that a moving thread runs goes with it, behind the 416 bytes. -/
def unitBytes : Option UnitRun → List Byte
  | none => []
  | some u => natLE 8 u.lid ++ natLE 8 u.idx ++ natLE 8 u.graph ++ natLE 8 u.phase ++ natLE 8 u.job ++ natLE 8 u.region.toNat ++ natLE 8 u.start
    ++ natLE 8 u.told

def unitOf (bs : List Byte) : Option UnitRun :=
  let f (i : Nat) : Nat := leNat ((bs.drop (416 + 8 * i)).take 8)
  if bs.length ≤ 416 then none else some ⟨f 0, f 1, f 2, f 3, f 4, decide (f 5 = 1), f 6, f 7⟩

/-- Installs a context in a slot (R153): registers from the context, thread registers 0x040 to 0x07F reset, HOPS one more. -/
def installCtx (s : State) (k : Nat) (ctx : List Byte) (hops : Nat) : State :=
  let (t, s1) := takeFresh s
  modSlot s1 k fun x =>
    let y := x.loadCtx ctx
    let y := { y with regs := y.regs.filter fun e => !(decide (0x40 ≤ e.1) && decide (e.1 ≤ 0x7F)) }
    { y.setCreg 0x0D0 (setF (y.creg 0x0D0) 32 32 (hops + 1)) with
      st := .ready, unit := unitOf ctx, strs := [], skip := 0, tid := t }.dropIssue

/-! Round trips of an instruction that parks for its answer. -/

/-- An instruction that asks `need` agents once, parks until all have answered, and then ends (R10, R300). -/
def askTrip (s : State) (need : Nat) (send : Nat → State → State) (ended : State → List Word → Res) : Res :=
  match (slotAt s s.cur).trip with
  | none =>
    let (id, s1) := takeFresh s
    .park (send id (modSlot s1 s.cur fun y => { y with trip := some ⟨id, need, [], none⟩ }))
  | some t =>
    if t.need ≠ 0 then .park s
    else match t.trap with
      | some (c, v) => .trap c v
      | none => ended s t.vals

/-- Continues with the answers that the instruction has, once none is out; a trap that an answer asked for is taken (R10, R300). -/
def withAnswers (s : State) (body : List Word → Res) : Res :=
  match (slotAt s s.cur).trip with
  | none => body []
  | some t =>
    if t.need ≠ 0 then .park s
    else match t.trap with
      | some (c, v) => .trap c v
      | none => body t.vals

/-- What the instruction at slot `cur` has read in its own LM is kept beside the answers of its requests, so that it is read once; the number 0
stands for a trip of which nothing has been sent. -/
def keepAnswer (s : State) (vals : List Word) : State := modSlot s s.cur fun x =>
  let p := x.trip.getD ⟨0, 0, [], none⟩
  { x with trip := some { p with vals := p.vals ++ vals } }

/-- The request is a load-and-reply access (R106, R319). -/
def isLoad : Body → Bool
  | .loadReq _ _ _ | .levelRead _ _ _ => true
  | _ => false

/-- Sends one more request of the instruction at slot `cur` under a tag of its core, and parks for the answer of `n` bytes; without a free tag
it parks, and a load while a barrier holds it (R106, R275). -/
def askMore (s : State) (dst : Agent) (b : Body) (n : Nat) : Res :=
  let core := coreOf s.cur
  let x := slotAt s s.cur
  match freeTag (coreAt s core) with
  | none => .park s
  | some t =>
    if isLoad b && x.barEHolds then .park s
    else
      let p := x.trip.getD ⟨0, 0, [], none⟩
      let (id, s1) := if p.id = 0 then takeFresh s else (p.id, s)
      let m : Msg := ⟨.ni core, dst, t, s.cur, x.phase, b⟩
      .park (modCore (modSlot s1 s.cur fun y => { y with trip := some { p with id := id, need := 1 } }) core fun c =>
        { setReq c t (some ⟨.segld, s.cur, id, n, false, none, m, 1, none, false, []⟩) with ni := c.ni ++ [m] })

/-- The words that an answer of `n` bytes is kept as. -/
def answerWords (n : Nat) : Nat := Nat.max 1 ((n + 7) / 8)

/-- The answer of one request, taken from those that the instruction has, with the answers after it; without it the request is sent. -/
def askAgent (s : State) (ws : List Word) (dst : Agent) (b : Body) (n : Nat) (ended : List Word → List Word → Res) : Res :=
  if ws.length < answerWords n then askMore s dst b n else ended (ws.take (answerWords n)) (ws.drop (answerWords n))

/-- The answer of an instruction's only request. -/
def askOnce (s : State) (dst : Agent) (b : Body) (n : Nat) (ended : List Word → Res) : Res :=
  withAnswers s fun ws => askAgent s ws dst b n fun v _ => ended v

/-- A form that another unit performs: its request travels to the unit, the thread parks for the answer, and goes on with its word
(R139, R345, R354, R367, R386). DEDUCED, safe (log entry 20). -/
def askUnit (s : State) (dst : Agent) (f : UnitForm) (vs : List Word) (ended : State → Word → Res) : Res :=
  askOnce s dst (.unitReq f vs) 8 fun ws => ended s (val ws 0)

/-- The answer of a unit to such a request. -/
def answerUnit (s : State) (m : Msg) (v : Nat) : State := sendMsg s (replyTo m (.loadReply (.value (natLE 8 v))))

/-- The LM controller answers the power requests that have finished (R139). -/
def servePwr (s : State) (core : Nat) : State :=
  let (due, ended) := (coreAt s core).pwr.partition fun r => quartersDue s core r.2.1
  if ended = [] then s else ended.foldl (fun s r => answerUnit s r.1 r.2.2) (modCore s core fun c => { c with pwr := due })

/-- An answer to a trip: its words, or the trap that it asks for. One that comes after its instruction's issue has ended changes nothing (R300). -/
def answerTrip (s : State) (k id : Nat) (vals : List Word) (trap : Option (Nat × Word)) : State :=
  match (slotAt s k).trip with
  | some t =>
    if t.id = id then
      wake (modSlot s k fun x => { x with
        trip := some { t with need := t.need - 1, vals := t.vals ++ vals, trap := if t.trap.isSome then t.trap else trap } }) k
    else s
  | none => s

/-! Replies at the requester (R106, R137, R138). -/

/-- A request's tag is free again. -/
def freeReq (s : State) (core t : Nat) : State := modCore s core fun c => setReq c t none

/-- A reply writes the destination register, or poisons it, and ends its pending state. -/
def deliverReg (s : State) (k reg size : Nat) (signed : Bool) (r : Reply) : State :=
  modSlot s k fun x => match r with
    | .value bs => (x.setReg reg (extend size signed bs)).unpend reg
    | .poison c a => (x.setPoison reg (poisonWord c a)).unpend reg

/-- A fetched word reaches its slot, if the issue for which it was fetched goes on (R12). -/
def deliverFetch (s : State) (t : Nat) (r : Req) (v : Reply) : State :=
  if (slotAt s r.slot).fetch ≠ some t then s
  else
    let la := match r.msg.body with
      | .loadReq _ _ acc => acc.la
      | _ => 0
    wake (modSlot s r.slot fun x => match v with
      | .value bs => { x with fetch := none, held := some (BitVec.ofNat 32 (leNat (bs.take 4))) }
      | .poison c _ => { x with fetch := none, wfault := some (la, c, x.pc) }) r.slot

/-- A core sees a poison mark as an uncorrectable error (R410). -/
def replyAtCore : Reply → Reply
  | .poison c a => .poison (coreCause c) a
  | .value bs => .value bs

/-- Delivers the answer of a request of core `core` under tag `t`. -/
def deliver (s : State) (core t : Nat) (v : Reply) : State :=
  match reqAt (coreAt s core) t with
  | none => s
  | some r =>
    let s := freeReq s core t
    let v := replyAtCore v
    match r.kind with
    | .load | .atomic | .sync => deliverReg s r.slot r.reg r.size r.signed v
    | .fetch => deliverFetch s t r v
    | .segld => match v with
      | .value bs => answerTrip s r.slot r.reg (dwords (answerWords bs.length) bs) none
      | .poison c a => answerTrip s r.slot r.reg [] (some (c, nw a))
    | .roFill => r.waits.foldl (fun s w => deliverReg s w.1 w.2.1 8 false (match v with
        | .value bs => .value ((bs.drop w.2.2).take 8)
        | .poison c _ => .poison c (64 * r.reg + w.2.2))) s
    | .trip | .strmLoad => s

/-! Baton passes at the source (R152). -/

/-- The REASON that refuses a pass at once (R152). -/
def passReason (s : State) (k : Nat) : Option Nat :=
  let x := slotAt s k
  if ownsVe s k || ownsOmu s k then some 2
  else if x.anyStream then some 3
  else if x.gang.isSome then some 4
  else if x.hnd.isSome then some 5
  else if slotNo k = 15 ∧ xformOn s (coreOf k) then some 6
  else none

/-- Trap 0x20 with THR_HOP.REASON (R152). -/
def refusePass (s : State) (k reason pa : Nat) : Res :=
  .trapAt (modSlot s k fun x => x.setCreg 0x0D0 (setF (x.creg 0x0D0) 0 8 reason)) 0x20 (nw pa)

/-- The slot has an outstanding journal entry. -/
def slotPosts (s : State) (k : Nat) : Bool := (slotJ (coreAt s (coreOf k)) k).any fun j => !j.refused

/-- A load-and-reply access of the slot awaits its reply, whatever its destination (R152, R274, R280). -/
def repliesOut (s : State) (k : Nat) : Bool :=
  (coreAt s (coreOf k)).reqs.any fun e => match e.2 with
    | none => false
    | some r =>
      ((decide (r.kind = .load) || decide (r.kind = .atomic) || decide (r.kind = .sync)) && decide (r.slot = k))
        || (decide (r.kind = .roFill) && r.waits.any fun w => decide (w.1 = k))

/-- A baton pass to the home of `pa` that resumes at `pc`, with a register that the pass takes: refused at once, held until nothing is
pending, or sent; the slot then waits for the answer (R152, R275). -/
def startPass (s : State) (k pa : Nat) (pc : Word) (took : Slot → Slot) : Res :=
  let x := slotAt s k
  match passReason s k with
  | some r => refusePass s k r pa
  | none =>
    if x.pend ≠ 0#32 ∨ repliesOut s k ∨ slotPosts s k ∨ barsHold (coreAt s (coreOf k)) x.barS ∨ x.barEHolds then .park s
    else
      match freeTag (coreAt s (coreOf k)) with
      | none => .park s
      | some t =>
        let ctx := ctxBytes (modSlot s k took) k pc ++ unitBytes x.unit
        let dst := match lmCore s pa with
          | some c => c
          | none => coreOf k
        let m : Msg := ⟨.ni (coreOf k), .ni dst, t, k, x.phase, .baton ctx (bitF (x.creg 0x0D0) 32 32)⟩
        .park (modSlot (modCore s (coreOf k) fun c =>
            { setReq c t (some ⟨.trip, k, 0, 0, false, none, m, 1, none, false, []⟩) with ni := c.ni ++ [m] }) k
          fun y => { y with baton := some ⟨pa, pc, 0, true, none⟩ })

/-- Continues with the address of an access: a walk parks, an attracting access becomes a baton pass (R131, R150). -/
def onAddr (s : State) (seg : Nat) (r : AddrRes) (body : State → Nat → Nat → Acc → Res) : Res :=
  match r with
  | .trap c v => .trap c v
  | .walk t => .park t
  | .ok la pa acc => if attracts s s.cur seg pa then startPass s s.cur pa (slotAt s s.cur).pc id else body s la pa acc

end Sys2Proof.Machine
end

