-- ==== Sys2Proof/Machine/Flow.lean ====
section
/-! DEFINITION. Branches and jumps, gangs, engine pinning, semaphores, rings, waiting and time, and fences (R272 to R275, R287 to R306). -/

namespace Sys2Proof.Machine

/-! Branches and jumps. -/

/-- The PC after a branch (R287). -/
def branchPc (pc : Word) (o : BitVec 12) (taken : Bool) : Word := if taken then pc + off12 o else pc + 4#64

/-- A conditional branch of slot `cur` with its outcome (R287, R291, R305). -/
def State.branchTo (s : State) (o : BitVec 12) (taken : Bool) : Res := .branch s (branchPc (slotAt s s.cur).pc o taken) taken

/-- BR on two registers (R287). -/
def branch (c : Cond) (a b : GReg) (o : BitVec 12) (s : State) : Out :=
  .next (withOps s [a, b] none false fun s vs => s.branchTo o (condHolds c (val vs 0) (val vs 1)))

/-- BRI on a register and a 5-bit immediate (R289). -/
def branchImm (c : Cond) (a : GReg) (i : BitVec 5) (o : BitVec 12) (s : State) : Out :=
  .next (withOps s [a] none false fun s vs => s.branchTo o (condHolds c (val vs 0) (i.signExtend 64)))

/-- Branches when g[a] = g[b] (R287). -/
def execBeq (a b : GReg) (o : BitVec 12) (s : State) : Out := branch .eq a b o s
/-- Branches when g[a] ≠ g[b] (R287). -/
def execBne (a b : GReg) (o : BitVec 12) (s : State) : Out := branch .ne a b o s
/-- Branches when g[a] < g[b] signed (R287). -/
def execBlt (a b : GReg) (o : BitVec 12) (s : State) : Out := branch .lt a b o s
/-- Branches when g[a] ≥ g[b] signed (R287). -/
def execBge (a b : GReg) (o : BitVec 12) (s : State) : Out := branch .ge a b o s
/-- Branches when g[a] < g[b] unsigned (R287). -/
def execBltn (a b : GReg) (o : BitVec 12) (s : State) : Out := branch .ltn a b o s
/-- Branches when g[a] ≥ g[b] unsigned (R287). -/
def execBgen (a b : GReg) (o : BitVec 12) (s : State) : Out := branch .gen a b o s
/-- Branches when g[a] = imm (R289). -/
def execBeqi (a : GReg) (i : BitVec 5) (o : BitVec 12) (s : State) : Out := branchImm .eq a i o s
/-- Branches when g[a] ≠ imm (R289). -/
def execBnei (a : GReg) (i : BitVec 5) (o : BitVec 12) (s : State) : Out := branchImm .ne a i o s
/-- Branches when g[a] < imm signed (R289). -/
def execBlti (a : GReg) (i : BitVec 5) (o : BitVec 12) (s : State) : Out := branchImm .lt a i o s
/-- Branches when g[a] ≥ imm signed (R289). -/
def execBgei (a : GReg) (i : BitVec 5) (o : BitVec 12) (s : State) : Out := branchImm .ge a i o s

/-- Branches when g[a]'s full bit is set, without reading it (R288). -/
def execBfull (a : GReg) (o : BitVec 12) (s : State) : Out :=
  .next (finish s s.cur (s.branchTo o ((slotAt s s.cur).isFull a.toNat)))

/-- Jumps PC-relative and writes the link (R290). -/
def execJal (d : GReg) (o : BitVec 20) (s : State) : Out :=
  .next (withOps s [] (some d) false fun s _ =>
    let pc := (slotAt s s.cur).pc
    .jump (modSlot s s.cur fun x => x.writeDst d.toNat (pc + 4#64)) (pc + off20 o))

/-- Jumps to g[a] + imm and writes the link (R290). -/
def execJalr (d a : GReg) (t : Bool) (i : BitVec 14) (s : State) : Out :=
  .next (withOps s [a] (some d) false fun s vs =>
    let tgt := val vs 0 + imm14 i
    if tgt &&& 3#64 ≠ 0#64 then .trap 0x12 tgt
    else .jump (modSlot s s.cur fun x => (x.takeIf t a.toNat).writeDst d.toNat (x.pc + 4#64)) tgt)

/-- Decrements g[a] and branches while it differs from g[b] (R291). -/
def execLoop (a b : GReg) (o : BitVec 12) (s : State) : Out :=
  .next (withOps s [a, b] (some a) false fun s vs =>
    let v := val vs 0 - 1#64
    (modSlot s s.cur fun x => x.writeDst a.toNat v).branchTo o (decide (v ≠ val vs 1)))

/-! Gangs (R303 to R306). -/

/-- The slot of a gang on logical core `l` of the issuer's cluster. -/
def gangSlot (s : State) (k l : Nat) : Nat := slotOf (lcoreKey s (clusterOf (coreOf k)) l) (slotNo k)

/-- The member slots of a gang of `n` from logical core `l`. -/
def gangSlots (s : State) (k l n : Nat) : List Nat := (rangeFrom l n).map (gangSlot s k)

/-- The descriptor of `gform` is well formed for the issuer (R303). -/
def gformOk (s : State) (k : Nat) (v : Word) : Bool :=
  let l := bitF v 0 5
  let n := bitF v 5 6
  let me := lcoreOf s (coreOf k)
  decide (v.toNat < 2 ^ 11) && decide (2 ≤ n) && decide (n ≤ 32) && decide (l + n ≤ 32) && decide (l ≤ me) && decide (me < l + n)

/-- A member that parked in `gform` completes it: the take of its own word, and the PC behind the leader's (R14, R303). -/
def Slot.joinGang (x : Slot) (l n : Nat) (pc : Word) : Slot :=
  let y := match x.held.map decodeWord with
    | some (.ok (.gform a t)) => x.takeIf t a.toNat
    | _ => x
  { y.finishAt pc with forming := none, gang := some ⟨l, n, true, false, false⟩ }

/-- Records arrival at a gang and parks until all members have arrived; the last arrival forms it (R303). -/
def execGform (a : GReg) (t : Bool) (s : State) : Out :=
  .next (withOps s [a] none false fun s vs =>
    let v := val vs 0
    let l := bitF v 0 5
    let n := bitF v 5 6
    let k := s.cur
    if (slotAt s k).gang.isSome then .trap 0x07 (slotAt s k).pc
    else if !gformOk s k v then .trap 0x07 v
    else if (gangSlots s k 0 33).any (fun m => match (slotAt s m).forming with
        | some f => decide (f.1 = l) && decide (f.2 ≠ n)
        | none => false) then .trap 0x07 v
    else
      let s1 := modSlot s k fun x => { x with forming := some (l, n) }
      let ms := gangSlots s k l n
      if ms.all fun m => decide ((slotAt s1 m).forming = some (l, n)) then
        let pc := (slotAt s1 (gangSlot s k l)).pc + 4#64
        let s2 := ms.foldl (fun s m => if m = k then s else modSlot s m fun x => x.joinGang l n pc) s1
        .jump (modSlot s2 k fun x => { x.takeIf t a.toNat with forming := none, gang := some ⟨l, n, true, false, false⟩ }) pc
      else .park s1)

/-- The gang of the issuing slot, or the trap for none (R305, R306). -/
def inGang (s : State) (body : Gang → Res) : Res :=
  match (slotAt s s.cur).gang with
  | none => .trap 0x07 (slotAt s s.cur).pc
  | some g => body g

/-- Sets the gang's split flag (R305). -/
def execGsplit (s : State) : Out :=
  .next (finish s s.cur (inGang s fun g =>
    .done (modSlot s (gangSlot s s.cur g.lead) fun x => { x with gang := x.gang.map fun h => { h with spl := true } })))

/-- The slot belongs to the gang led from `l`. -/
def ofGang (s : State) (l m : Nat) : Bool := match (slotAt s m).gang with
  | some h => decide (h.lead = l)
  | none => false

/-- Every detached member waits in `grejoin` or has left (R306). -/
def rejoinReady (s : State) (k : Nat) (g : Gang) : Bool :=
  (gangSlots s k g.lead g.size).all fun m => match (slotAt s m).gang with
    | some h => decide (h.lead ≠ g.lead) || h.att || h.rejoin
    | none => true

/-- Reattaches detached members at the leader (R306). -/
def execGrejoin (s : State) : Out :=
  .next (finish s s.cur (inGang s fun g =>
    let k := s.cur
    if lcoreOf s (coreOf k) = g.lead then
      if rejoinReady s k g then
        let pc := (slotAt s k).pc + 4#64
        .done ((gangSlots s k g.lead g.size).foldl (fun s m =>
          if !ofGang s g.lead m then s
          else if m = k then modSlot s m fun x => { x with gang := some { g with att := true, spl := false, rejoin := false } }
          else modSlot s m fun x =>
            let y := if (x.gang.map Gang.att).getD true then x else x.finishAt pc
            { y with gang := some { g with att := true, spl := false, rejoin := false } }) s)
      else .park s
    else if g.att then if rejoinReady s k g then .done s else .park s
    else .park (modSlot s k fun x => { x with gang := some { g with rejoin := true } })))

/-- Dissolves the gang at its leader and attached followers, which execute it too but for those that wait for their leader's handler; or removes a
detached follower (R306, R307). DEDUCED, unsafe (log entry 55). -/
def execGleave (s : State) : Out :=
  .next (finish s s.cur (inGang s fun g =>
    let k := s.cur
    let out (s : State) : State := modSlot s k fun x => { x with gang := none, solo := false }
    if lcoreOf s (coreOf k) = g.lead then
      let solo := (slotAt s k).solo
      .done (out ((gangSlots s k g.lead g.size).foldl (fun s m =>
        if m = k ∨ !ofGang s g.lead m then s
        else modSlot s m fun x => match x.gang with
          | some h =>
            if h.att then (if solo then { x with gang := none, st := if x.st = .parked then .ready else x.st } else x)
            else if h.rejoin then { x.finishAt (x.pc + 4#64) with gang := none }
            else { x with gang := none }
          | none => x) s))
    else .done (out s)))

/-! Engine pinning (R293). -/

/-- Pins the core's VE to the slot. -/
def execPin (s : State) : Out :=
  .next (finish s s.cur (match (coreAt s (coreOf s.cur)).pin with
    | none => .done (modCore s (coreOf s.cur) fun c => { c with pin := some s.cur })
    | some k => if k = s.cur then .done s else .park s))

/-- Releases the VE after the slot's VE commands have ended. -/
def execUnpin (s : State) : Out :=
  .next (finish s s.cur (
    if (coreAt s (coreOf s.cur)).pin ≠ some s.cur then .trap 0x04 0x60000001#64
    else if (slotAt s s.cur).cmds.any CmdRef.ve then .park s
    else .done (modCore s (coreOf s.cur) fun c => { c with pin := none })))

/-! Semaphores (R294, R295). -/

/-- The count of a semaphore. -/
def Core.sem (c : Core) (n : Nat) : Nat := bitF (c.creg (0x190 + n)) 0 16
def Core.setSem (c : Core) (n v : Nat) : Core := c.setCreg (0x190 + n) (setF (c.creg (0x190 + n)) 0 16 v)

/-- Wakes the slots of a core that are parked on a semaphore. -/
def wakeSem (s : State) (core n : Nat) : State :=
  (rangeFrom (core * 16) 16).foldl (fun s k => if (slotAt s k).semw = some n then wake s k else s) s

/-- Parks until the semaphore is at least 1, then decrements it. -/
def execSemdn (n : BitVec 4) (s : State) : Out :=
  let core := coreOf s.cur
  let v := (coreAt s core).sem n.toNat
  .next (finish s s.cur (
    if v = 0 then .park (modSlot s s.cur fun x => { x with semw := some n.toNat })
    else .done (modCore s core fun c => c.setSem n.toNat (v - 1))))

/-- Increments a semaphore; traps 0x33 at 65,535. -/
def execSemup (n : BitVec 4) (s : State) : Out :=
  let core := coreOf s.cur
  let v := (coreAt s core).sem n.toNat
  .next (finish s s.cur (
    if v = 65535 then .trap 0x33 (nw n.toNat)
    else .done (wakeSem (modCore s core fun c => c.setSem n.toNat (v + 1)) core n.toNat)))

/-- Decrements a semaphore if it is not 0 and reports it. -/
def execSemtry (d : GReg) (n : BitVec 4) (s : State) : Out :=
  .next (withOps s [] (some d) false fun s _ =>
    let core := coreOf s.cur
    let v := (coreAt s core).sem n.toNat
    let s1 := if v = 0 then s else modCore s core fun c => c.setSem n.toNat (v - 1)
    .done (modSlot s1 s.cur fun x => x.writeDst d.toNat (truth (decide (v ≠ 0)))))

/-! Rings (R296 to R298). -/

def ringAt (c : Core) (q : Nat) : Ring := SMap.get (fun _ => Ring.reset) c.rings q
def setRing (c : Core) (q : Nat) (r : Ring) : Core := { c with rings := SMap.set (fun _ => Ring.reset) c.rings q r }

/-- The slots filled and free (R296). -/
def Ring.filled (r : Ring) : Nat := (r.tail + 2 ^ 32 - r.head) % 2 ^ 32
def Ring.free (r : Ring) : Nat := r.n - r.filled

/-- The count operand: g[b][15:0], where 0 acts as 1 in a wait (R298). -/
def ringK (v : Word) : Nat := bitF v 0 16

/-- Reads own-LM bytes in the turn; a granule with an error, or a quarter off or retired, traps precisely (R141, R410). -/
def ownBytes (s : State) (core off n : Nat) : Except (Nat × Word) (List Byte) :=
  let la := lmLinear (clusterOf core) (lcoreOf s core) off
  let bad (o : Nat) : Option Nat := match lmHome s core o with
    | .here _ _ fwd => if fwd then some 0x17 else none
    | .off => some 0x16
    | .retired | .wait => some 0x17
  match bad off, bad (off + n - 1) with
  | some c, _ => .error (c, nw la)
  | none, some c => .error (c, nw (la + n - 1))
  | none, none =>
    match lmRead s core off n with
    | .ok _ bs => .ok bs
    | .poison _ c _ => .error (c, nw la)
    | .deny _ d => .error (d.cause, nw la)
    | .wait _ => .error (0x17, nw la)

/-- The slot is parked in `qwaitf`, `qwaite` or `tfwake` naming a ring (R201, R298). -/
def Slot.onRing (x : Slot) (q : Nat) : Bool := match x.held.map decodeWord with
  | some (.ok (.qwaitf _ p _)) | some (.ok (.qwaite _ p _)) => decide (p.toNat = q)
  | some (.ok (.tfwake _ _ _ _)) => bitB (x.creg 0x014) q
  | _ => false

/-- Wakes the slots of a core that are parked on a ring. -/
def wakeRing (s : State) (core q : Nat) : State :=
  (rangeFrom (core * 16) 16).foldl (fun s k => if (slotAt s k).onRing q then wake s k else s) s

/-- HEAD and TAIL of a ring written to its descriptor, as a store of the own core (R136, R298). -/
def unbindRing (s : State) (core : Nat) (r : Ring) : State :=
  let s1 := setBytes s (lmKey core (r.off + 16)) (natLE 4 r.head ++ natLE 4 r.tail)
  dirWrite (clearBad s1 (lmKey core (r.off + 16)) 8) core (r.off + 16) none

/-- A ring of a core changes. -/
def putRing (s : State) (core q : Nat) (r : Ring) : State := wakeRing (modCore s core fun c => setRing c q r) core q

/-- Binds a ring from its descriptor, or unbinds it and writes HEAD and TAIL back as an own-LM store (R298). -/
def execQbind (q : BitVec 3) (b : GReg) (s : State) : Out :=
  .next (withOps s [b] none false fun s vs =>
    let p := val vs 0
    let core := coreOf s.cur
    let r := ringAt (coreAt s core) q.toNat
    if p = 0#64 then
      if r.v then
        let unbound : Res := .done (putRing (unbindRing s core r) core q.toNat { r with v := false })
        match ownBytes s core (r.off + 16) 8 with
        | .error (c, v) => if c = 0x16 ∨ c = 0x17 then .trap c v else unbound
        | .ok _ => unbound
      else .done s
    else if r.v then .trap 0x32 (nw q.toNat)
    else onAddr s (ptrSeg p) (segAddr s s.cur (ptrSeg p) (nw (ptrOff p)) 32 needRW) fun s la pa _ =>
        match ownLm s core pa with
        | .other => .trap 0x10 (nw la)
        | .off => .trap 0x16 (nw la)
        | .retired => .trap 0x17 (nw la)
        | .own off =>
          match lmRead s core off 32 with
          | .ok _ bs =>
            let d1 := dwordAt bs 1
            let d2 := dwordAt bs 2
            let nr : Ring := ⟨true, off, p, dwordAt bs 0, bitF d1 0 16, bitF d1 16 16, bitF d2 0 32, bitF d2 32 32⟩
            if nr.n = 0 ∨ nr.ssz = 0 ∨ nr.ssz % 8 ≠ 0 ∨ nr.filled > nr.n ∨ bitF d1 32 32 ≠ 0 ∨ dwordAt bs 3 ≠ 0#64 then .trap 0x32 (nw la)
            else .done (putRing s core q.toNat nr)
          | .poison _ c _ => .trap c (nw pa)
          | .deny _ e => .trap e.cause (nw la)
          | .wait _ => .park s)

/-- A wait on a ring: parks until `count` is at least k, and returns the offset of slot `at` (R298). -/
def ringWait (d : GReg) (q : BitVec 3) (b : GReg) (count at_ : Ring → Nat) (s : State) : Out :=
  .next (withOps s [b] (some d) false fun s vs =>
    let r := ringAt (coreAt s (coreOf s.cur)) q.toNat
    let k := if ringK (val vs 0) = 0 then 1 else ringK (val vs 0)
    if !r.v ∨ k > r.n then .trap 0x32 (nw q.toNat)
    else if count r < k then .park s
    else .done (modSlot s s.cur fun x => x.writeDst d.toNat (nw (bitF r.buf 0 40 + at_ r % r.n * r.ssz))))

/-- Parks until k slots are filled; returns the head slot's offset (R298). -/
def execQwaitf (d : GReg) (q : BitVec 3) (b : GReg) (s : State) : Out := ringWait d q b Ring.filled Ring.head s
/-- Parks until k slots are free; returns the tail slot's offset (R298). -/
def execQwaite (d : GReg) (q : BitVec 3) (b : GReg) (s : State) : Out := ringWait d q b Ring.free Ring.tail s

/-- Advances a ring by k slots, at most `count` (R298). -/
def ringAdvance (q : BitVec 3) (b : GReg) (count : Ring → Nat) (move : Ring → Nat → Ring) (s : State) : Out :=
  .next (withOps s [b] none false fun s vs =>
    let core := coreOf s.cur
    let r := ringAt (coreAt s core) q.toNat
    if !r.v ∨ ringK (val vs 0) > count r then .trap 0x32 (nw q.toNat)
    else .done (putRing s core q.toNat (move r (ringK (val vs 0)))))

/-- HEAD := HEAD + k (R298). -/
def execQadvh (q : BitVec 3) (b : GReg) (s : State) : Out :=
  ringAdvance q b Ring.filled (fun r k => { r with head := (r.head + k) % 2 ^ 32 }) s
/-- TAIL := TAIL + k (R298). -/
def execQadvt (q : BitVec 3) (b : GReg) (s : State) : Out :=
  ringAdvance q b Ring.free (fun r k => { r with tail := (r.tail + k) % 2 ^ 32 }) s

/-- The free and filled counts (R298). -/
def execQcnt (d : GReg) (q : BitVec 3) (s : State) : Out :=
  .next (withOps s [] (some d) false fun s _ =>
    let r := ringAt (coreAt s (coreOf s.cur)) q.toNat
    if !r.v then .trap 0x32 (nw q.toNat)
    else .done (modSlot s s.cur fun x => x.writeDst d.toNat (nw (r.free * 2 ^ 32 + r.filled))))

/-! Waiting and time (R300 to R302). -/

/-- The slot's next n turns are empty. -/
def execYield (a : GReg) (t : Bool) (s : State) : Out :=
  .next (withOps s [a] none false fun s vs =>
    let n := bitF (val vs 0) 0 16
    .done (modSlot s s.cur fun x => { x.takeIf t a.toNat with skip := if n = 0 then 1 else n }))

/-- Parks until the wake token or the deadline; the token wins. A deadline wakes the slot at the end of its cycle (R284). -/
def execPark (d a : GReg) (t : Bool) (s : State) : Out :=
  .next (withOps s [a] (some d) false fun s vs =>
    let x := slotAt s s.cur
    let dl : Option Nat := if val vs 0 = 0#64 then none else some (x.deadline.getD (tickOf s + (val vs 0).toNat))
    let passed : Bool := match dl with
      | some n => decide (n ≤ tickPast s)
      | none => false
    if x.tok then .done (modSlot s s.cur fun x => { (x.takeIf t a.toNat).writeDst d.toNat 1#64 with tok := false })
    else if passed then .done (modSlot s s.cur fun x => (x.takeIf t a.toNat).writeDst d.toNat 0#64)
    else .park (modSlot s s.cur fun x => { x with deadline := dl }))

/-- Sets the wake token of a slot of the own core. -/
def execWake (a : GReg) (t : Bool) (s : State) : Out :=
  .next (withOps s [a] none false fun s vs =>
    let k := slotOf (coreOf s.cur) (bitF (val vs 0) 0 4)
    .done (modSlot (modSlot s s.cur fun x => x.takeIf t a.toNat) k fun x => { x with tok := true }))

/-- Parks until the time base reaches its value at the first evaluation plus g[a]; the slot resumes at its first turn after the deadline cycle
(R301). -/
def execTsleep (a : GReg) (t : Bool) (s : State) : Out :=
  .next (withOps s [a] none false fun s vs =>
    let dl := (slotAt s s.cur).deadline.getD (tickOf s + (val vs 0).toNat)
    if val vs 0 = 0#64 ∨ dl ≤ tickPast s then .done (modSlot s s.cur fun x => x.takeIf t a.toNat)
    else .park (modSlot s s.cur fun x => { x with deadline := some dl }))

/-- The module time base, or the cluster cycle counter. -/
def execClock (d : GReg) (sel : Bool) (s : State) : Out :=
  .next (compute s d [] false fun _ => if sel then nw (clusterCycle s (clusterOf (coreOf s.cur))) else nw (tickOf s))

/-! Fences (R272 to R275). -/

/-- The least scope that holds the home of an address: 0 core, 1 cluster, 2 tower, 3 module, 4 system (R273). -/
def homeScope (s : State) (core pa : Nat) : Nat :=
  let cl := clusterOf core
  match placeOf s pa with
  | .lm c lc _ =>
    if lcoreKey s c lc = core then 0 else if c = cl then 1 else if towerOf c = towerOf cl then 2 else 3
  | .csp c _ => if c = cl then 1 else if towerOf c = towerOf cl then 2 else 3
  | .tier a => if tierTower a = towerOf cl then 2 else 3
  | .remote _ _ => 4
  | .spread _ _ | .ctl _ _ | .host _ | .hole => 3

/-- The address that a request names. -/
def reqPa (b : Body) : Option Nat := match b with
  | .loadReq pa _ _ | .atomicReq _ pa _ _ _ _ | .syncReq _ pa _ _ | .fillReq pa _ => some pa
  | _ => none

/-- The least scope that holds the home of a request: of an address, or of a level record at its SC bank (R273). -/
def reqScope (s : State) (core : Nat) (m : Msg) : Nat :=
  match reqPa m.body, m.dst with
  | some pa, _ => homeScope s core pa
  | none, .sc k => if k % 8 = towerOf (clusterOf core) then 2 else 3
  | none, _ => 3

/-- A load-and-reply access of the slot to a home in the scope awaits its reply. -/
def loadsOut (s : State) (k scope : Nat) : Bool :=
  (coreAt s (coreOf k)).reqs.any fun e => match e.2 with
    | none => false
    | some r =>
      (decide (r.kind = .load) || decide (r.kind = .atomic) || decide (r.kind = .sync) || (decide (r.kind = .segld) && isLoad r.msg.body)
        || (decide (r.kind = .roFill) && r.waits.any fun w => decide (w.1 = k)))
      && (decide (r.slot = k) || decide (r.kind = .roFill))
      && decide (reqScope s (coreOf k) r.msg ≤ scope)

/-- A journal entry of the slot to a home in the scope is outstanding or refused. -/
def storesOut (s : State) (k scope : Nat) : Bool :=
  (slotJ (coreAt s (coreOf k)) k).any fun j => decide (homeScope s (coreOf k) j.pa ≤ scope)

/-- An element pushed to a write stream is not performed. -/
def Slot.pushesOut (x : Slot) : Bool :=
  (rangeFrom 0 4).any fun i => (x.stream i).on && (x.stream i).writes && !(x.stream i).fifo.isEmpty

/-- An engine command of the slot on an engine in the scope has not ended, or a pushed element is not performed. -/
def enginesOut (s : State) (k scope : Nat) : Bool :=
  (slotAt s k).cmds.any (fun c => decide (c.scope ≤ scope)) || (slotAt s k).pushesOut

/-- Parks until the named kinds are complete in the scope (R274). -/
def execFence (k : BitVec 3) (c : BitVec 3) (s : State) : Out :=
  .next (finish s s.cur (
    if (k.getLsbD 0 && loadsOut s s.cur c.toNat) || (k.getLsbD 1 && storesOut s s.cur c.toNat)
        || (k.getLsbD 2 && enginesOut s s.cur c.toNat) then .park s
    else .done s))

/-- Sets barriers in its own turn: K[1] is bit 0 of `k` here, and K[2] bit 1 (R275). -/
def execFencex (k : BitVec 2) (c : BitVec 3) (s : State) : Out :=
  let core := coreOf s.cur
  let stores := ((slotJ (coreAt s core) s.cur).filter fun j => decide (homeScope s core j.pa ≤ c.toNat)).map JEntry.uid
  let engines := ((slotAt s s.cur).cmds.filter fun e => decide (e.scope ≤ c.toNat)).map CmdRef.id
  .next (finish s s.cur (.done (modSlot s s.cur fun x =>
    { x with
      barS := if k.getLsbD 0 then x.barS ++ stores else x.barS,
      barE := if k.getLsbD 1 then x.barE ++ engines else x.barE })))

end Sys2Proof.Machine
end

