-- ==== Sys2Proof/Machine/Memory.lean ====
section
/-! DEFINITION. Loads, stores, the read-only cache, full/empty forms, atomics, segment loads and stores, and `pjwait` (R109, R113, R134,
R136 to R138, R141 to R143, R148, R149, R410). -/

namespace Sys2Proof.Machine

/-- The address of an M-format access (R131, R136). -/
def mAddr (s : State) (seg : BitVec 3) (a : Word) (o : BitVec 11) (n : Nat) (need : Need) : AddrRes :=
  segAddr s s.cur seg.toNat (a + off11 o n) n need

/-- A value, or poison, delivered to the destination in the instruction's own turn (R136, R138, R410). Poison for a write stream traps. -/
def deliverOwn (s : State) (d a : GReg) (t : Bool) (size : Nat) (signed : Bool) (pa : Nat) (r : Reply) : Res :=
  let take (s : State) : State := modSlot s s.cur fun x => x.takeIf t a.toNat
  match r with
  | .value bs => .done (modSlot (take s) s.cur fun x => x.writeDst d.toNat (extend size signed bs))
  | .poison c _ =>
    if ((slotAt s s.cur).inStream d.toNat).isSome then .trap c (nw pa)
    else .done (modSlot (take s) s.cur fun x => x.setPoison d.toNat (poisonWord c pa))

/-- A load-and-reply request sent, with the take; without a free tag, and for a stream as destination, see R106 and R174. -/
def requestOut (s : State) (d a : GReg) (t : Bool) (size : Nat) (signed : Bool) (kind : ReqKind) (form : Option SyncForm) (pa : Nat)
    (b : Body) : Res :=
  if ((slotAt s s.cur).inStream d.toNat).isSome then .trap 0x42 (nw d.toNat)
  else
    let s1 := modSlot s s.cur fun x => x.takeIf t a.toNat
    match sendRequest s1 s.cur d.toNat size signed kind form (homeAgent s (coreOf s.cur) pa) b with
    | some s2 => .done s2
    | none => .park s

/-- A load of `size` bytes at its address (R136, R141, R338). -/
def loadAt (s : State) (d a : GReg) (t : Bool) (size : Nat) (signed : Bool) (la pa : Nat) (acc : Acc) : Res :=
  let core := coreOf s.cur
  match ownLm s core pa with
  | .own off => match lmRead s core off size with
    | .ok s1 bs => deliverOwn s1 d a t size signed pa (.value bs)
    | .poison s1 c _ => deliverOwn s1 d a t size signed pa (.poison c pa)
    | .deny _ e => .trap e.cause (nw la)
    | .wait _ => .park s
  | .off => .trap 0x16 (nw la)
  | .retired => .trap 0x17 (nw la)
  | .other =>
    if isCtl s pa then
      if size ≠ 8 then .trap 0x10 (nw la)
      else if ctlPriv s pa ∧ (slotAt s s.cur).mode = .user then .trap 0x03 (nw la)
      else match placeOf s pa with
        | .ctl blk n => requestOut s d a t 8 signed .load none pa (.ctlAccess false blk n 0#64)
        | _ => requestOut s d a t 8 signed .load none pa (.loadReq pa 8 acc)
    else requestOut s d a t size signed .load none pa (.loadReq pa size acc)

/-- The loads (R136). -/
def load (d a : GReg) (t : Bool) (seg : BitVec 3) (o : BitVec 11) (size : Nat) (signed : Bool) (s : State) : Out :=
  .next (withOps s [a] (some d) false fun s vs =>
    if (slotAt s s.cur).barEHolds then .park s
    else onAddr s seg.toNat (mAddr s seg (val vs 0) o size needR) fun s la pa acc => loadAt s d a t size signed la pa acc)

/-- A posted store sent, with the take, when a journal entry is free (R107). -/
def postOut (s : State) (a : GReg) (t : Bool) (pa : Nat) (data : List Byte) (form : Option SyncForm) (acc : Acc) : Res :=
  match postStore (modSlot s s.cur fun x => x.takeIf t a.toNat) s.cur pa data form acc with
  | some s1 => .done s1
  | none => .park s

/-- A store of bytes at its address (R136, R141, R338, R410). -/
def storeAt (s : State) (a : GReg) (t : Bool) (data : List Byte) (la pa : Nat) (acc : Acc) : Res :=
  let core := coreOf s.cur
  match ownLm s core pa with
  | .own off => match lmWrite s core off data with
    | .ok s1 _ => .done (modSlot (dirWrite s1 core off none) s.cur fun x => x.takeIf t a.toNat)
    | .poison _ c _ => .trap c (nw pa)
    | .deny _ e => .trap e.cause (nw pa)
    | .wait _ => .park s
  | .off => .trap 0x16 (nw la)
  | .retired => .trap 0x17 (nw la)
  | .other =>
    if isCtl s pa ∧ data.length ≠ 8 then .trap 0x10 (nw la)
    else if ctlPriv s pa ∧ (slotAt s s.cur).mode = .user then .trap 0x03 (nw la)
    else postOut s a t pa data none acc

/-- The stores: g[d] is the data (R136). -/
def store (d a : GReg) (t : Bool) (seg : BitVec 3) (o : BitVec 11) (size : Nat) (s : State) : Out :=
  .next (withOps s [a, d] none false fun s vs =>
    onAddr s seg.toNat (mAddr s seg (val vs 0) o size needW) fun s la pa acc => storeAt s a t (wordLE size (val vs 1)) la pa acc)

/-- Loads a byte, sign-extended (R136). -/
def execLdI8 (d a : GReg) (t : Bool) (seg : BitVec 3) (o : BitVec 11) (s : State) : Out := load d a t seg o 1 true s
/-- Loads a byte, zero-extended (R136). -/
def execLdN8 (d a : GReg) (t : Bool) (seg : BitVec 3) (o : BitVec 11) (s : State) : Out := load d a t seg o 1 false s
/-- Loads a half-word, sign-extended (R136). -/
def execLdI16 (d a : GReg) (t : Bool) (seg : BitVec 3) (o : BitVec 11) (s : State) : Out := load d a t seg o 2 true s
/-- Loads a half-word, zero-extended (R136). -/
def execLdN16 (d a : GReg) (t : Bool) (seg : BitVec 3) (o : BitVec 11) (s : State) : Out := load d a t seg o 2 false s
/-- Loads a word, sign-extended (R136). -/
def execLdI32 (d a : GReg) (t : Bool) (seg : BitVec 3) (o : BitVec 11) (s : State) : Out := load d a t seg o 4 true s
/-- Loads a word, zero-extended (R136). -/
def execLdN32 (d a : GReg) (t : Bool) (seg : BitVec 3) (o : BitVec 11) (s : State) : Out := load d a t seg o 4 false s
/-- Loads a dword (R136). -/
def execLd64 (d a : GReg) (t : Bool) (seg : BitVec 3) (o : BitVec 11) (s : State) : Out := load d a t seg o 8 false s
/-- Stores g[d][7:0] (R136). -/
def execSt8 (d a : GReg) (t : Bool) (seg : BitVec 3) (o : BitVec 11) (s : State) : Out := store d a t seg o 1 s
/-- Stores g[d][15:0] (R136). -/
def execSt16 (d a : GReg) (t : Bool) (seg : BitVec 3) (o : BitVec 11) (s : State) : Out := store d a t seg o 2 s
/-- Stores g[d][31:0] (R136). -/
def execSt32 (d a : GReg) (t : Bool) (seg : BitVec 3) (o : BitVec 11) (s : State) : Out := store d a t seg o 4 s
/-- Stores g[d] (R136). -/
def execSt64 (d a : GReg) (t : Bool) (seg : BitVec 3) (o : BitVec 11) (s : State) : Out := store d a t seg o 8 s

/-! The read-only line cache (R110, R113). -/

/-- The line of another core's LM that the cache may hold (R110). -/
def roLine (s : State) (core pa : Nat) : Option Nat :=
  match lmCore s pa with
  | some c => if c = core then none else some (pa / 64)
  | none => none

/-- The tag of a fill that is in flight for a line and that will install it. -/
def fillTag (c : Core) (line : Nat) : Option Nat :=
  (rangeFrom 0 64).find? fun t => match reqAt c t with
    | some r => decide (r.kind = .roFill) && decide (r.reg = line) && !r.withdrawn
    | none => false

/-- Starts a fill of a line, or joins one in flight; MISS counts the fills started (R113, R122). -/
def startRoFill (s : State) (k pa : Nat) (acc : Acc) (waits : List (Nat × Nat × Nat)) : Option State :=
  let core := coreOf k
  let line := pa / 64
  match fillTag (coreAt s core) line with
  | some t => some (modCore s core fun c => setReq c t ((reqAt c t).map fun r => { r with waits := r.waits ++ waits }))
  | none =>
    match freeTag (coreAt s core) with
    | none => none
    | some t =>
      let m : Msg := ⟨.ni core, homeAgent s core pa, t, k, (slotAt s k).phase, .fillReq (line * 64) acc⟩
      some (modCore s core fun c =>
        let c := c.setCreg 0x143 (addF (c.creg 0x143) 32 32 1)
        { setReq c t (some ⟨.roFill, k, line, 64, false, none, m, 1, none, false, waits⟩) with ni := c.ni ++ [m] })

/-- A load through the read-only cache (R113). -/
def execLdro64 (d a : GReg) (t : Bool) (seg : BitVec 3) (o : BitVec 11) (s : State) : Out :=
  .next (withOps s [a] (some d) false fun s vs =>
    if (slotAt s s.cur).barEHolds then .park s
    else onAddr s seg.toNat (mAddr s seg (val vs 0) o 8 needR) fun s la pa acc =>
      match roLine s (coreOf s.cur) pa with
      | none => loadAt s d a t 8 false la pa acc
      | some line =>
        match SMap.get (fun _ => none) (coreAt s (coreOf s.cur)).roc line with
        | some bs =>
          let s1 := modCore s (coreOf s.cur) fun c => c.setCreg 0x143 (addF (c.creg 0x143) 0 32 1)
          deliverOwn s1 d a t 8 false pa (.value ((bs.drop (pa % 64)).take 8))
        | none =>
          if ((slotAt s s.cur).inStream d.toNat).isSome then .trap 0x42 (nw d.toNat)
          else match startRoFill s s.cur pa acc [(s.cur, d.toNat, pa % 64)] with
            | none => .park s
            | some s1 => .done (modSlot s1 s.cur fun x => (x.takeIf t a.toNat).pending d.toNat))

/-- Starts a fill, without a register or a trap; every failing check ends it with no effect (R113). -/
def execPfro (a : GReg) (t : Bool) (seg : BitVec 3) (o : BitVec 11) (s : State) : Out :=
  .next (withOps s [a] none false fun s vs =>
    let took (s : State) : State := modSlot s s.cur fun x => x.takeIf t a.toNat
    if (slotAt s s.cur).barEHolds then .park s
    else match mAddr s seg (val vs 0) o 8 needR with
      | .trap _ _ => .done (took s)
      | .walk u => .park u
      | .ok _ pa acc =>
        if attracts s s.cur seg.toNat pa then startPass s s.cur pa (slotAt s s.cur).pc id
        else match roLine s (coreOf s.cur) pa with
        | none => .done (took s)
        | some line =>
          if (SMap.get (fun _ => none) (coreAt s (coreOf s.cur)).roc line).isSome then .done (took s)
          else match startRoFill s s.cur pa acc [] with
            | none => .park s
            | some s1 => .done (took s1))

/-- Invalidates cached lines, all or by physical range (R113). -/
def execRocinv (a b : GReg) (t : Bool) (s : State) : Out :=
  .next (withOps s [a, b] none false fun s vs =>
    let lo := (val vs 0).toNat
    let n := (val vs 1).toNat
    .done (modSlot (modCore s (coreOf s.cur) fun c =>
        { c with roc := if n = 0 then [] else c.roc.filter fun e => !(decide (64 * e.1 < lo + n) && decide (lo < 64 * e.1 + 64)) })
      s.cur fun x => x.takeIf t a.toNat))

/-! Full/empty forms (R142 to R144). -/

/-- The address names an LM word, here or in another package (R142, R383). -/
def isLmWord (s : State) (pa : Nat) : Bool := match placeOf s pa with
  | .lm _ _ _ => true
  | .remote _ p => match localPlace (p % 2 ^ 44) with
    | .lm _ _ _ => true
    | _ => false
  | _ => false

/-- An own-LM form performed in the turn: the directory line of a write is invalidated, then the service step runs (R143, R144). -/
def syncOwn (s : State) (off : Nat) (f : SyncForm) (data : Word) : Option (State × Reply) :=
  (syncPerform s (coreOf s.cur) off f data (.ni (coreOf s.cur), s.cur)).map fun r =>
    (service (if syncWrites f then dirWrite r.1 (coreOf s.cur) off none else r.1) (coreOf s.cur) off, r.2)

/-- A full/empty form with an answer (R143): own forms park until their condition holds. A `stef` answers with its own data. -/
def syncAt (s : State) (d a : GReg) (t : Bool) (f : SyncForm) (data : Word) (la pa : Nat) (acc : Acc) : Res :=
  if !isLmWord s pa then .trap 0x10 (nw la)
  else match ownLm s (coreOf s.cur) pa with
    | .own off =>
      match syncOwn s off f data with
      | none => .park s
      | some (s1, r) =>
        if f = .stef then .done (modSlot s1 s.cur fun x => x.takeIf t a.toNat) else deliverOwn s1 d a t 8 false pa r
    | .off => .trap 0x16 (nw la)
    | .retired => .trap 0x17 (nw la)
    | .other =>
      if 4 ≤ slotSyncs (coreAt s (coreOf s.cur)) s.cur then .park s
      else requestOut (if syncWrites f then rocDrop s (coreOf s.cur) pa else s) d a t 8 false .sync (some f) pa (.syncReq f pa data acc)

/-- A posted full/empty form (R143). -/
def syncPost (s : State) (a : GReg) (t : Bool) (f : SyncForm) (data : Word) (la pa : Nat) (acc : Acc) : Res :=
  if !isLmWord s pa then .trap 0x10 (nw la)
  else match ownLm s (coreOf s.cur) pa with
    | .own off =>
      match syncOwn s off f data with
      | none => .park s
      | some (s1, _) => .done (modSlot s1 s.cur fun x => x.takeIf t a.toNat)
    | .off => .trap 0x16 (nw la)
    | .retired => .trap 0x17 (nw la)
    | .other => postOut s a t pa (if f = .stff then wordLE 8 data else []) (some f) acc

/-- Waits for a full word, reads it and empties it (R143). -/
def execLdfe (d a : GReg) (t : Bool) (seg : BitVec 3) (o : BitVec 11) (s : State) : Out :=
  .next (withOps s [a] (some d) false fun s vs =>
    if (slotAt s s.cur).barEHolds then .park s
    else onAddr s seg.toNat (mAddr s seg (val vs 0) o 8 needRF) fun s la pa acc => syncAt s d a t .ldfe 0#64 la pa acc)

/-- Waits for a full word and reads it (R143). -/
def execLdff (d a : GReg) (t : Bool) (seg : BitVec 3) (o : BitVec 11) (s : State) : Out :=
  .next (withOps s [a] (some d) false fun s vs =>
    if (slotAt s s.cur).barEHolds then .park s
    else onAddr s seg.toNat (mAddr s seg (val vs 0) o 8 needRF) fun s la pa acc => syncAt s d a t .ldff 0#64 la pa acc)

/-- Waits for an empty word, writes and fills it; the data register is its destination (R143). -/
def execStef (d a : GReg) (t : Bool) (seg : BitVec 3) (o : BitVec 11) (s : State) : Out :=
  .next (withOps s [a, d] none false fun s vs =>
    if (slotAt s s.cur).barEHolds || (slotAt s s.cur).destWaits d.toNat then .park s
    else onAddr s seg.toNat (mAddr s seg (val vs 0) o 8 needWF) fun s la pa acc => syncAt s d a t .stef (val vs 1) la pa acc)

/-- Writes a word and sets it full (R143). -/
def execStff (d a : GReg) (t : Bool) (seg : BitVec 3) (o : BitVec 11) (s : State) : Out :=
  .next (withOps s [a, d] none false fun s vs =>
    onAddr s seg.toNat (mAddr s seg (val vs 0) o 8 needWF) fun s la pa acc => syncPost s a t .stff (val vs 1) la pa acc)

/-- Sets a word's full bit (R143). -/
def execFset (a : GReg) (t : Bool) (s : State) : Out :=
  .next (withOps s [a] none false fun s vs =>
    onAddr s (ptrSeg (val vs 0)) (ptrAddr s s.cur (val vs 0) 8 needWF) fun s la pa acc => syncPost s a t .fset 0#64 la pa acc)

/-- Clears a word's full bit (R143). -/
def execFclr (a : GReg) (t : Bool) (s : State) : Out :=
  .next (withOps s [a] none false fun s vs =>
    onAddr s (ptrSeg (val vs 0)) (ptrAddr s s.cur (val vs 0) 8 needWF) fun s la pa acc => syncPost s a t .fclr 0#64 la pa acc)

/-- Reads a word's full bit (R143). -/
def execFget (d a : GReg) (t : Bool) (s : State) : Out :=
  .next (withOps s [a] (some d) false fun s vs =>
    if (slotAt s s.cur).barEHolds then .park s
    else onAddr s (ptrSeg (val vs 0)) (ptrAddr s s.cur (val vs 0) 8 needRF) fun s la pa acc => syncAt s d a t .fget 0#64 la pa acc)

/-! Atomics (R148, R149). -/

/-- An atomic or `cas` at its address. -/
def atomicAt (s : State) (op : AmoOp) (d a : GReg) (t : Bool) (n : Nat) (b cmp : Word) (la pa : Nat) (acc : Acc) : Res :=
  let core := coreOf s.cur
  match ownLm s core pa with
  | .own _ => match homeRmw s op pa n b cmp acc (fun _ => none) with
    | .ok s1 bs => deliverOwn s1 d a t n false pa (.value bs)
    | .poison s1 c _ => deliverOwn s1 d a t n false pa (.poison c pa)
    | .deny _ e => .trap e.cause (nw la)
    | .wait _ => .park s
  | .off => .trap 0x16 (nw la)
  | .retired => .trap 0x17 (nw la)
  | .other =>
    if isCtl s pa || isHost s pa then .trap 0x10 (nw la)
    else requestOut (rocDrop s core pa) d a t n false .atomic none pa (.atomicReq op pa n (zextW (8 * n) b) (zextW (8 * n) cmp) acc)

/-- The width of an atomic in bytes (R148). -/
def amoSize (w : Bool) : Nat := if w then 8 else 4

/-- The atomics with one operand (R148). -/
def amo (op : AmoOp) (d a b : GReg) (t : Bool) (n : Nat) (s : State) : Out :=
  .next (withOps s [a, b] (some d) false fun s vs =>
    if (slotAt s s.cur).barEHolds then .park s
    else onAddr s (ptrSeg (val vs 0)) (ptrAddr s s.cur (val vs 0) n needRW) fun s la pa acc =>
      atomicAt s op d a t n (val vs 1) 0#64 la pa acc)

/-- Atomic add, wrapping (R148). -/
def execAmoAdd (d a b : GReg) (t : Bool) (w : Bool) (s : State) : Out := amo .add d a b t (amoSize w) s
/-- Atomic and (R148). -/
def execAmoAnd (d a b : GReg) (t : Bool) (w : Bool) (s : State) : Out := amo .and d a b t (amoSize w) s
/-- Atomic or (R148). -/
def execAmoOr (d a b : GReg) (t : Bool) (w : Bool) (s : State) : Out := amo .or d a b t (amoSize w) s
/-- Atomic xor (R148). -/
def execAmoXor (d a b : GReg) (t : Bool) (w : Bool) (s : State) : Out := amo .xor d a b t (amoSize w) s
/-- Atomic signed minimum (R148). -/
def execAmoMin (d a b : GReg) (t : Bool) (w : Bool) (s : State) : Out := amo .min d a b t (amoSize w) s
/-- Atomic signed maximum (R148). -/
def execAmoMax (d a b : GReg) (t : Bool) (w : Bool) (s : State) : Out := amo .max d a b t (amoSize w) s
/-- Atomic unsigned minimum (R148). -/
def execAmoMinn (d a b : GReg) (t : Bool) (w : Bool) (s : State) : Out := amo .minn d a b t (amoSize w) s
/-- Atomic unsigned maximum (R148). -/
def execAmoMaxn (d a b : GReg) (t : Bool) (w : Bool) (s : State) : Out := amo .maxn d a b t (amoSize w) s
/-- Atomic swap (R148). -/
def execAmoSwap (d a b : GReg) (t : Bool) (w : Bool) (s : State) : Out := amo .swap d a b t (amoSize w) s
/-- Atomic f32 add, 32 bits only (R148). -/
def execAmoFadd (d a b : GReg) (t : Bool) (s : State) : Out := amo .fadd d a b t 4 s

/-- Compare and swap: g[d] is the value compared, and the destination (R149). -/
def execCas (d a b : GReg) (t : Bool) (w : Bool) (s : State) : Out :=
  .next (withOps s [a, b, d] (some d) false fun s vs =>
    if (slotAt s s.cur).barEHolds then .park s
    else onAddr s (ptrSeg (val vs 0)) (ptrAddr s s.cur (val vs 0) (amoSize w) needRW) fun s la pa acc =>
      atomicAt s .cas d a t (amoSize w) (val vs 1) (val vs 2) la pa acc)

/-! Posted stores and segments. -/

/-- Waits for the slot's posted stores and returns the refusal count (R109). -/
def execPjwait (d : GReg) (s : State) : Out :=
  .next (withOps s [] (some d) false fun s _ =>
    if slotJ (coreAt s (coreOf s.cur)) s.cur ≠ [] then .park s
    else .done (modSlot s s.cur fun x => { x.writeDst d.toNat (nw (Nat.min x.refc 65535)) with refc := 0 }))

/-- Writes a segment register, reserved bits ignored (R8, R134). -/
def Slot.setSeg (x : Slot) (n : Nat) (lo hi : Word) : Slot :=
  (x.setCreg (0xC0 + 2 * n) lo).setCreg (0xC1 + 2 * n) (hi &&& 0xFFFFFFFFF#64)

/-- The read of `n` bytes at their home by an instruction that parks until they have come (R106, R134): own LM at once, else one request.
`ws` are the answers that the instruction has; those after this one go on. Poison traps precisely (R138, R410). -/
def readPark (s : State) (ws : List Word) (n : Nat) (la pa : Nat) (acc : Acc) (ended : State → List Word → List Byte → Res) : Res :=
  let core := coreOf s.cur
  match ownLm s core pa with
  | .own off => match lmRead s core off n with
    | .ok s1 bs => ended s1 ws bs
    | .poison _ c _ => .trap c (nw pa)
    | .deny _ e => .trap e.cause (nw la)
    | .wait _ => .park s
  | .off => .trap 0x16 (nw la)
  | .retired => .trap 0x17 (nw la)
  | .other =>
    if isCtl s pa || isHost s pa then .trap 0x10 (nw la)
    else askAgent s ws (homeAgent s core pa) (.loadReq pa n acc) n fun v ws => ended s ws ((wordsLE v).take n)

/-! Reads of structures in memory by an instruction that parks until it has them: dword by dword, each an ordinary read of the core. -/

/-- Cuts [la, la + n) at lines. -/
def lineCuts : Nat → Nat → Nat → List (Nat × Nat)
  | 0, _, _ => []
  | fuel + 1, la, n =>
    if n = 0 then [] else
      let m := Nat.min n (64 - la % 64)
      (la, m) :: lineCuts fuel (la + m) (n - m)

/-- Cuts [la, la + n) into the aligned 8-byte words that it covers whole and single bytes (R267). -/
def wordCuts : Nat → Nat → Nat → List (Nat × Nat)
  | 0, _, _ => []
  | fuel + 1, la, n =>
    if n = 0 then [] else
      let m := if la % 8 = 0 ∧ 8 ≤ n then 8 else 1
      (la, m) :: wordCuts fuel (la + m) (n - m)

/-- Cuts [la, la + n) at 8-byte words. -/
def dwordCuts : Nat → Nat → Nat → List (Nat × Nat)
  | 0, _, _ => []
  | fuel + 1, la, n =>
    if n = 0 then [] else
      let m := Nat.min n (8 - la % 8)
      (la, m) :: dwordCuts fuel (la + m) (n - m)

/-- Reads the pieces in order, each once, through a segment that may attract (R150, R314). -/
def readCuts (seg asid : Nat) : List (Nat × Nat) → State → List Word → List Byte → (State → List Word → List Byte → Res) → Res
  | [], s, ws, got, ended => ended s ws got
  | (la, m) :: rest, s, ws, got, ended =>
    if answerWords m ≤ ws.length then
      readCuts seg asid rest s (ws.drop (answerWords m)) (got ++ (wordsLE (ws.take (answerWords m))).take m) ended
    else onAddr s seg (physical s s.cur asid la needR) fun s la pa a => readPark s ws m la pa a fun s ws bs =>
      readCuts seg asid rest (match ownLm s (coreOf s.cur) pa with
        | .own _ => keepAnswer s (dwords (answerWords m) bs)
        | .off | .retired | .other => s) ws (got ++ bs) ended

/-- The logical address of `n` bytes through a segmented pointer, aligned to `al`, or the check that fails (R131, R132). -/
def ptrSpan (x : Slot) (p : Word) (n al : Nat) (need : Need) : Except (Nat × Word) Nat :=
  let lo := x.segLo (ptrSeg p)
  let hi := x.segHi (ptrSeg p)
  let off := ptrOff p
  let la := segBase lo + off
  if ptrMid p ≠ 0 then .error (0x10, p)
  else if off + n - 1 > segLimit lo hi then .error (0x10, nw off)
  else if !rightsOk hi need then .error (0x11, nw off)
  else if la % al ≠ 0 then .error (0x12, nw la)
  else if !(inWindow (segWin hi) la && inWindow (segWin hi) (la + n - 1)) then .error (0x10, nw off)
  else .ok la

/-- Reads bytes `skip` to `skip + n` of what a segmented pointer aligned to `al` names (R131, R132). -/
def ptrBytes (s : State) (ws : List Word) (p : Word) (skip n al : Nat) (ended : State → List Word → List Byte → Res) : Res :=
  let x := slotAt s s.cur
  match ptrSpan x p (skip + n) al needR with
  | .error (c, v) => .trap c v
  | .ok la => readCuts (ptrSeg p) x.asid (dwordCuts (n / 8 + 2) (la + skip) n) s ws [] ended

/-- Loads a segment register from 16 bytes (R134). -/
def execSegld (g : BitVec 3) (a : GReg) (t : Bool) (seg : BitVec 3) (o : BitVec 11) (s : State) : Out :=
  .next (withOps s [a] none false fun s vs =>
    if (slotAt s s.cur).barEHolds then .park s
    else onAddr s seg.toNat (mAddr s seg (val vs 0) o 16 needR) fun s la pa acc =>
      withAnswers s fun ws => readPark s ws 16 la pa acc fun s _ bs =>
        .done (modSlot s s.cur fun x => (x.takeIf t a.toNat).setSeg g.toNat (dwordAt bs 0) (dwordAt bs 1)))

/-- Stores a segment register as one 16-byte store (R134). -/
def execSegst (g : BitVec 3) (a : GReg) (t : Bool) (seg : BitVec 3) (o : BitVec 11) (s : State) : Out :=
  .next (withOps s [a] none false fun s vs =>
    onAddr s seg.toNat (mAddr s seg (val vs 0) o 16 needW) fun s la pa acc =>
      if isCtl s pa || isHost s pa then .trap 0x10 (nw la)
      else storeAt s a t (wordLE 8 ((slotAt s s.cur).segLo g.toNat) ++ wordLE 8 ((slotAt s s.cur).segHi g.toNat)) la pa acc)

end Sys2Proof.Machine
end

