-- ==== Sys2Proof/Machine/Transform.lean ====
section
/-! DEFINITION. The transform thread: bit-stream channels, table decoding, CRC and hash, and `tfwake` (R196 to R201). -/

namespace Sys2Proof.Machine

/-! Bit-stream channels (R197): channel 0 stands in THR_BSR_BASE and THR_BSR_CUR, channel 1 in THR_BSW_BASE and THR_BSW_CUR. -/

def chBase (c : Nat) : Nat := 0x010 + 2 * c
def chCur (c : Nat) : Nat := 0x011 + 2 * c
def Slot.chV (x : Slot) (c : Nat) : Bool := bitB (x.creg (chBase c)) 63
def Slot.chLen (x : Slot) (c : Nat) : Nat := bitF (x.creg (chBase c)) 20 20
def Slot.chOff (x : Slot) (c : Nat) : Nat := bitF (x.creg (chBase c)) 0 19
def Slot.chPos (x : Slot) (c : Nat) : Nat := bitF (x.creg (chCur c)) 0 23

/-- Sets POS of a channel. -/
def Slot.setPos (x : Slot) (c p : Nat) : Slot := x.setCreg (chCur c) (nw p)

/-- The tval of an unbound channel (R197). -/
def unbound : Word := 0xFFFFFFFFFFFFFFFF#64

/-- A range of logical addresses lies in the issuing core's own LM linear window, with a donor home neither of its first nor of its last byte: its
LM offset (R54, R198). -/
def ownRange (s : State) (core la n : Nat) : Option Nat :=
  let base := lmLinear (clusterOf core) (lcoreOf s core) 0
  let la := localPa s la
  let fwd (o : Nat) : Bool := qRet (coreAt s core) (o / 131072) && qDon (coreAt s core) (o / 131072) && !coreRetired s (lcoreKey s (clusterOf core) 33)
  if la < base ∨ base + 524288 < la + n then none
  else if fwd (la - base) ∨ fwd (la + n - 1 - base) then none
  else some (la - base)

/-- The check of a pointer to a range in the own LM (R132, R198, R199): the LM offset. -/
def ownPtr (s : State) (p : Word) (n al : Nat) (need : Need) : Except (Nat × Word) Nat :=
  let x := slotAt s s.cur
  let lo := x.segLo (ptrSeg p)
  let hi := x.segHi (ptrSeg p)
  let off := ptrOff p
  let la := segBase lo + off
  if ptrMid p ≠ 0 then .error (0x10, p)
  else if off + n - 1 > segLimit lo hi then .error (0x10, nw off)
  else if !rightsOk hi need then .error (0x11, nw off)
  else if la % al ≠ 0 then .error (0x12, nw la)
  else if !(inWindow (segWin hi) la && inWindow (segWin hi) (la + n - 1)) then .error (0x10, nw off)
  else match ownRange s (coreOf s.cur) la n with
    | some o => .ok o
    | none => .error (0x10, nw la)

/-- Bits [pos, pos + n) of the own LM bytes from `off`: lowest bit first (R197). -/
def bitsAt (s : State) (off pos n : Nat) : Except (Nat × Word) Nat :=
  if n = 0 then .ok 0
  else match ownBytes s (coreOf s.cur) (off + pos / 8) ((pos % 8 + n + 7) / 8) with
    | .error e => .error e
    | .ok bs => .ok (leNat bs / 2 ^ (pos % 8) % 2 ^ n)

/-- Writes bits [pos, pos + n), only the bits named, as one step at the home (R197, R410). -/
def putBits (s : State) (off pos n v : Nat) : Except (Nat × Word) State :=
  if n = 0 then .ok s
  else
    let core := coreOf s.cur
    let a := off + pos / 8
    let m := (pos % 8 + n + 7) / 8
    let whole : Bool := decide (n = 64) && decide (pos % 8 = 0) && decide (a % 8 = 0)
    let old : Except (Nat × Word) (List Byte) := match ownBytes s core a m with
      | .ok bs => .ok bs
      | .error (c, t) => if whole ∧ c ≠ 0x16 ∧ c ≠ 0x17 then .ok (List.replicate 8 0#8) else .error (c, t)
    match old with
    | .error e => .error e
    | .ok bs =>
      let w := leNat bs
      let lo := pos % 8
      let kept := w % 2 ^ lo + w / 2 ^ (lo + n) * 2 ^ (lo + n)
      let new := natLE m (kept + v % 2 ^ n * 2 ^ lo)
      .ok (dirSpan (clearBad (setBytes s (lmKey core a) new) (lmKey core a) m) core a m)

/-- Binds or unbinds a channel (R198). -/
def execBsbind (a b : GReg) (t : Bool) (s : State) : Out :=
  .next (withOps s [a, b] none false fun s vs =>
    let c := bitF (val vs 1) 63 1
    let n := bitF (val vs 1) 0 40
    if n = 0 then
      .done (modSlot s s.cur fun x => (x.takeIf t a.toNat).setCreg (chBase c) (setB (x.creg (chBase c)) 63 false))
    else match ownPtr s (val vs 0) n 1 (if c = 0 then needR else needW) with
      | .error (k, v) => .trap k v
      | .ok off =>
        .done (modSlot s s.cur fun x =>
          ((x.takeIf t a.toNat).setCreg (chBase c) (nw (2 ^ 63 + n * 2 ^ 20 + off))).setPos c 0))

/-- Reads n bits of channel 0; `bsget` consumes them (R198). -/
def bitRead (consume : Bool) (d a : GReg) (t : Bool) (s : State) : Out :=
  .next (withOps s [a] (some d) false fun s vs =>
    let n := (val vs 0).toNat
    let x := slotAt s s.cur
    if n > 64 then .trap 0x0B (nw n)
    else if !x.chV 0 then .trap 0x0B unbound
    else if x.chPos 0 + n > 8 * x.chLen 0 then .trap 0x0B (nw (x.chPos 0))
    else match bitsAt s (x.chOff 0) (x.chPos 0) n with
      | .error (k, v) => .trap k v
      | .ok v => .done (modSlot s s.cur fun x =>
          ((x.takeIf t a.toNat).setPos 0 (if consume then x.chPos 0 + n else x.chPos 0)).writeDst d.toNat (nw v)))

/-- Reads and consumes n bits (R198). -/
def execBsget (d a : GReg) (t : Bool) (s : State) : Out := bitRead true d a t s
/-- Reads n bits, POS unchanged (R198). -/
def execBspeek (d a : GReg) (t : Bool) (s : State) : Out := bitRead false d a t s

/-- Writes n bits to channel 1 (R198). -/
def execBsput (a b : GReg) (t : Bool) (s : State) : Out :=
  .next (withOps s [a, b] none false fun s vs =>
    let n := (val vs 1).toNat
    let x := slotAt s s.cur
    if n > 64 then .trap 0x0B (nw n)
    else if !x.chV 1 then .trap 0x0B unbound
    else if x.chPos 1 + n > 8 * x.chLen 1 then .trap 0x0B (nw (x.chPos 1))
    else match putBits s (x.chOff 1) (x.chPos 1) n (val vs 0).toNat with
      | .error (k, v) => .trap k v
      | .ok s1 => .done (modSlot s1 s.cur fun x => (x.takeIf t a.toNat).setPos 1 (x.chPos 1 + n)))

/-- Advances a channel's position (R198). -/
def execBsskip (a b : GReg) (t : Bool) (s : State) : Out :=
  .next (withOps s [a, b] none false fun s vs =>
    let c := bitF (val vs 1) 0 1
    let n := (val vs 0).toNat
    let x := slotAt s s.cur
    if !x.chV c then .trap 0x0B unbound
    else if x.chPos c + n > 8 * x.chLen c then .trap 0x0B (nw (x.chPos c))
    else .done (modSlot s s.cur fun x => (x.takeIf t a.toNat).setPos c (x.chPos c + n)))

/-- Aligns a channel to a byte, with zero bits in channel 1 (R198). -/
def execBsalign (d a : GReg) (t : Bool) (s : State) : Out :=
  .next (withOps s [a] (some d) false fun s vs =>
    let c := bitF (val vs 0) 0 1
    let x := slotAt s s.cur
    let p := 8 * ((x.chPos c + 7) / 8)
    if !x.chV c then .trap 0x0B unbound
    else match (if c = 1 then putBits s (x.chOff 1) (x.chPos 1) (p - x.chPos 1) 0 else .ok s) with
      | .error (k, v) => .trap k v
      | .ok s1 => .done (modSlot s1 s.cur fun x => ((x.takeIf t a.toNat).setPos c p).writeDst d.toNat (nw (p / 8))))

/-- Decodes one code of channel 0 by a table (R199). -/
def execBslut (d a b : GReg) (t : Bool) (s : State) : Out :=
  .next (withOps s [a, b] (some d) false fun s vs =>
    let k := bitF (val vs 1) 0 4
    let x := slotAt s s.cur
    if k = 0 ∨ 12 < k then .trap 0x0B (nw k)
    else match ownPtr s (val vs 0) (4 * 2 ^ k) 4 needR with
      | .error (c, v) => .trap c v
      | .ok tab =>
        if !x.chV 0 then .trap 0x0B unbound
        else
          let m := Nat.min k (8 * x.chLen 0 - x.chPos 0)
          match bitsAt s (x.chOff 0) (x.chPos 0) m with
          | .error (c, v) => .trap c v
          | .ok i =>
            match ownBytes s (coreOf s.cur) (tab + 4 * i) 4 with
            | .error (c, v) => .trap c v
            | .ok bs =>
              let e := leNat bs
              let n := e % 32
              if 1 ≤ n ∧ n ≤ m then
                .done (modSlot s s.cur fun x => ((x.takeIf t a.toNat).setPos 0 (x.chPos 0 + n)).writeDst d.toNat (nw e))
              else .done (modSlot s s.cur fun x => (x.takeIf t a.toNat).writeDst d.toNat (nw (2 ^ 63 + e))))

/-! CRC and hash (R200). -/

/-- Folds up to eight bytes of `b` into the CRC of `a`. DEDUCED, safe (log entry 74). -/
def crcFold (a b : Word) : Word :=
  let k := bitF a 32 4
  nw (crcBytes (bitF a 0 32) (wordLE (if k = 0 ∨ 8 < k then 8 else k) b))

/-- Folds bytes into a reflected CRC-32C (R200). -/
def execCrc32c (d a b : GReg) (t : Bool) (s : State) : Out :=
  .next (compute s d [a, b] t fun vs => crcFold (val vs 0) (val vs 1))

/-- The mixing hash of two words. -/
def hashMix (a b : Word) : Word :=
  let m : Word := 0xD6E8FEB86659FD93#64
  let h0 := a ^^^ b.rotateLeft 23
  let h1 := h0 * m
  let h2 := h1 ^^^ (h1 >>> 32)
  let h3 := h2 * m
  h3 ^^^ (h3 >>> 29)

/-- A 64-bit mixing hash (R200). -/
def execHash64 (d a b : GReg) (t : Bool) (s : State) : Out :=
  .next (compute s d [a, b] t fun vs => hashMix (val vs 0) (val vs 1))

/-! Waiting on rings (R201). -/

/-- The mask of named rings that hold at least `th` filled slots. -/
def ringMask (c : Core) (mask th : Nat) : Nat :=
  (rangeFrom 0 8).foldl (fun n q => if mask.testBit q ∧ th ≤ (ringAt c q).filled then n + 2 ^ q else n) 0

/-- Parks the transform thread until a named ring holds work (R201). -/
def execTfwake (d a b : GReg) (t : Bool) (s : State) : Out :=
  .next (withOps s [a, b] (some d) false fun s vs =>
    let c := coreAt s (coreOf s.cur)
    let mask := bitF (val vs 0) 0 8
    let th := Nat.max (bitF (val vs 1) 0 16) 1
    if mask = 0 then .trap 0x32 0#64
    else match (rangeFrom 0 8).find? fun q => mask.testBit q && !(ringAt c q).v with
      | some q => .trap 0x32 (nw q)
      | none =>
        let s := modSlot s s.cur fun x => x.setCreg 0x014 (nw (th * 2 ^ 16 + mask))
        let m := ringMask c mask th
        if m = 0 then .park s
        else .done (modSlot s s.cur fun x => (x.takeIf t a.toNat).writeDst d.toNat (nw m)))

end Sys2Proof.Machine
end

