-- ==== Sys2Proof/Machine/Work.lean ====
section
/-! DEFINITION. Work: level records, launches, the task dispenser, completion, waits and cancel, phases and waves, the spare-core remap and
heat (R309 to R325). -/

namespace Sys2Proof.Machine

/-- The id that means none (R309). -/
def noId : Nat := 0xFFFFFFFF

/-- The size of the table of level records, by a tower's registers (R309). -/
def lvlSize (s : State) (t : Nat) : Nat := bitF ((towerAt s t).creg 0x3D1) 0 32

/-- The tower of a slot. -/
def slotTower (k : Nat) : Nat := towerOf (clusterOf (coreOf k))

/-- The home tower of a record (R53, R309). -/
def lvlHome (s : State) (t id : Nat) : Nat := tierTower (lvlPa s t id)

/-- The agent that homes a record, as tower `t` computes it. -/
def lvlAgent (s : State) (t id : Nat) : Agent := .sc (scKey (lvlPa s t id / 64))

/-- The id names a record. -/
def idOk (s : State) (t id : Nat) : Bool := decide (id ≠ noId) && decide (id < lvlSize s t)

/-! Level records at their home (R310). -/

/-- The four dwords of a record, with the poison cause of its line; a migration forwards the read (R72). -/
def recRead (s : State) (t id : Nat) : State × List Word × Nat :=
  let pa := scFinal s (lvlPa s t id)
  let s1 := touchLine s (pa / 64) Acc.direct
  let l := lineNow s1 (pa / 64)
  (s1, dwords 4 ((l.1.drop (pa % 64)).take 32), coreCause l.2)

/-- The physical address that the poison of a record names (R138, R410). -/
def recPoisonPa (s : State) (t id : Nat) : Nat := scFinal s (lvlPa s t id)

/-- Replaces dword `i`. -/
def setD (r : List Word) (i : Nat) (w : Word) : List Word := r.set i w

/-- Writes a record as one write of 32 bytes, its reserved field zero (R8, R310). -/
def recWrite (s : State) (t id : Nat) (ws : List Word) : State :=
  match scWrite s (lvlPa s t id) (wordsLE (setD ws 0 (setF (val ws 0) 54 10 0))) Acc.direct with
  | .ok s _ => s
  | .poison s _ _ | .deny s _ | .wait s => s

/-- Fields of a record. -/
def lrPend (r : List Word) : Nat := bitF (val r 0) 0 32
def lrFail (r : List Word) : Nat := bitF (val r 0) 32 16
def lrCxl (r : List Word) : Bool := bitB (val r 0) 48
def lrDone (r : List Word) : Bool := bitB (val r 0) 49
def lrPh (r : List Word) : Nat := bitF (val r 0) 52 2
def lrParent (r : List Word) : Nat := bitF (val r 1) 0 32
def lrPred (r : List Word) : Int := sxNat 32 (bitF (val r 1) 32 32)
def lrPart (r : List Word) : Nat := bitF (val r 3) 0 20

/-- One child complete, failed or not (R311). -/
def lrChild (r : List Word) (failed : Bool) : List Word :=
  let d := setF (val r 0) 0 32 (lrPend r - 1)
  setD r 0 (if failed then setF d 32 16 (satAdd 65535 (lrFail r) 1) else d)

/-- Counts in TWR_LVL_HOLD.ERR. -/
def lvlErr (s : State) (t : Nat) : State := modTower s t fun w => w.setCreg 0x3D2 (addF (w.creg 0x3D2) 32 32 1)

/-- Sends a completion to a record named by an id; an id beyond the table is counted (R311). -/
def sendLevel (s : State) (t id : Nat) (src : Agent) (b : Body) : State :=
  if id = noId then s
  else if id < lvlSize s t then sendMsg s ⟨src, lvlAgent s t id, 0, 0, 0, b⟩
  else lvlErr s t

/-- A record is complete: DONE, then one completion to its parent and each successor (R311). -/
def lvlComplete (s : State) (t id : Nat) : State :=
  let (s1, r, _) := recRead s t id
  let s2 := recWrite s1 t id (setD r 0 (setB (val r 0) 49 true))
  let me := lvlAgent s t id
  let s3 := sendLevel s2 t (lrParent r) me (.childDone (lrParent r) (decide (lrFail r ≠ 0) || lrCxl r))
  if lrKind r = 0 then
      sendLevel (sendLevel s3 t (bitF (val r 2) 0 32) me (.predDone (bitF (val r 2) 0 32))) t (bitF (val r 2) 32 32) me
        (.predDone (bitF (val r 2) 32 32))
  else s3

/-- A record whose children are all complete: a phase also needs PART = 0 and starts its waves; any other completes (R311, R322). -/
def lvlMaybe (s : State) (t id : Nat) : State :=
  let (s1, r, _) := recRead s t id
  if lrPend r ≠ 0 then s1
  else if lrKind r = 2 then
    if lrPart r = 0 then modTower s1 t fun w =>
      if w.waves.any fun x => decide (x.id = id) then w else { w with waves := w.waves ++ [⟨id, s1.time⟩] }
    else s1
  else lvlComplete s1 t id

/-! Launch records (R312, R313). -/

def luPc (l : LaunchMsg) : Word := val l.record 0 &&& 0x3FFFFFFFFFC#64
def luPrio (l : LaunchMsg) : Nat := bitF (val l.record 0) 42 2
def luCls (l : LaunchMsg) : Nat := bitF (val l.record 0) 44 2
def luPh (l : LaunchMsg) : Nat := bitF (val l.record 0) 46 2
def luNp (l : LaunchMsg) : Bool := bitB (val l.record 0) 48
def luUnits (l : LaunchMsg) : Nat := bitF (val l.record 1) 0 32
def luLid (l : LaunchMsg) : Nat := bitF (val l.record 1) 32 32
def luGraph (l : LaunchMsg) : Nat := bitF (val l.record 4) 0 32
def luPhase (l : LaunchMsg) : Nat := bitF (val l.record 4) 32 32
def luJob (l : LaunchMsg) : Nat := bitF (val l.record 5) 0 32
def luPred (l : LaunchMsg) : Nat := bitF (val l.record 5) 32 32
def luGsz (l : LaunchMsg) : Nat := if bitF (val l.record 7) 0 16 = 0 then 1 else bitF (val l.record 7) 0 16

/-- The cluster and logical core to which unit `u` is bound (R313). -/
def luPlace (l : LaunchMsg) (u : Nat) : Nat × Nat :=
  match l.place with
  | none => (l.cluster, u % 32)
  | some es =>
    let e := (es.getD (u / luGsz l) 0#32).toNat
    (clusterIn (e / 2 ^ 24 % 8) (e / 2 ^ 16 % 256), e % 64)

/-- The clusters that hold a unit (R315). -/
def luClusters (l : LaunchMsg) : List Nat := ((rangeFrom 0 (luUnits l)).map fun u => (luPlace l u).1).eraseDups

/-- The units of one cluster, as (index, logical core). -/
def luLeft (l : LaunchMsg) (cl : Nat) : List (Nat × Nat) :=
  (rangeFrom 0 (luUnits l)).filterMap fun u => if (luPlace l u).1 = cl then some (u, (luPlace l u).2) else none

/-- A placement entry in range (R314). -/
def placeEntryOk (e : BitVec 32) : Bool :=
  e.getLsbD 31 && decide (e.toNat / 2 ^ 16 % 256 < 160) && decide (e.toNat % 64 ≤ 32)

/-- Status 2 of R314: the record itself. -/
def launchBad (s : State) (t : Nat) (r : List Word) : Bool :=
  let d (i : Nat) : Word := val r i
  let lid := bitF (d 1) 32 32
  let ids := [bitF (d 4) 0 32, bitF (d 4) 32 32, bitF (d 5) 0 32, bitF (d 6) 0 32, bitF (d 6) 32 32]
  decide (bitF (d 0) 49 15 ≠ 0) || decide (bitF (d 0) 0 2 ≠ 0) || decide (bitF (d 7) 32 32 ≠ 0) || bitB (d 5) 63
    || decide (bitF (d 1) 0 32 = 0) || decide (lid = noId) || decide (lid ≥ lvlSize s t)
    || ids.any (fun i => decide (i ≠ noId) && decide (i ≥ lvlSize s t)) || ids.any fun i => decide (i = lid)

/-- The levels above a launch whose CXL the issuer reads (R314). -/
def launchAbove (r : List Word) : List Nat :=
  [bitF (val r 4) 0 32, bitF (val r 4) 32 32, bitF (val r 5) 0 32].filter fun i => decide (i ≠ noId)

/-- CXL is set in a record as it stands. -/
def cxlNow (s : State) (t id : Nat) : Bool := lrCxl (recRead s t id).2.1

/-- The placement table's size in bytes. -/
def placeBytes (r : List Word) : Nat := 4 * bitF (val r 7) 16 16

/-- The bytes as 32-bit words. -/
def word32s : Nat → List Byte → List (BitVec 32)
  | 0, _ => []
  | n + 1, bs => BitVec.ofNat 32 (leNat (bs.take 4)) :: word32s n (bs.drop 4)

/-- Every store of the slot has left the journal (R109, R280). -/
def journalEmpty (s : State) (k : Nat) : Bool := decide (slotJ (coreAt s (coreOf k)) k = [])

/-- The status of a launch delivered (R314). -/
def launchGive (s : State) (d a : GReg) (t : Bool) (st : Nat) : Res :=
  .done (modSlot s s.cur fun x => (x.takeIf t a.toNat).writeDst d.toNat (nw st))

/-- The arguments, eight zero dwords when ARGP = 0 (R312, R314). -/
def launchArgs (s : State) (ws : List Word) (r : List Word) (ended : State → List Word → List Word → Res) : Res :=
  if val r 3 = 0#64 then ended s ws (List.replicate 8 0#64)
  else ptrBytes s ws (val r 3) 0 64 8 fun s ws bs => ended s ws (dwords 8 bs)

/-- The placement table, none when PLACE = 0; a table that is too short, that the segments do not let the thread read, or with a bad entry is
status 3 (R314). -/
def launchPlace (s : State) (ws : List Word) (r : List Word) (bad : State → Res)
    (ended : State → List Word → Option (List (BitVec 32)) → Res) : Res :=
  let gsz := if bitF (val r 7) 0 16 = 0 then 1 else bitF (val r 7) 0 16
  if val r 2 = 0#64 then ended s ws none
  else if gsz * bitF (val r 7) 16 16 < bitF (val r 1) 0 32 then bad s
  else match ptrSpan (slotAt s s.cur) (val r 2) (placeBytes r) 4 needR with
    | .error _ => bad s
    | .ok _ => ptrBytes s ws (val r 2) 0 (placeBytes r) 4 fun s ws bs =>
      let es := word32s (placeBytes r / 4) bs
      if es.any fun e => !placeEntryOk e then bad s else ended s ws (some es)

/-- The reads of the levels' records: whether none has CXL set (R314). -/
def launchLevels (s : State) : List Nat → List Word → Bool → (List Word → Bool → Res) → Res
  | [], ws, cxl, ended => ended ws cxl
  | id :: ids, ws, cxl, ended =>
    let tw := slotTower s.cur
    askAgent s ws (lvlAgent s tw id) (.loadReq (lvlPa s tw id) 8 Acc.direct) 8 fun v ws => launchLevels s ids ws (cxl || lrCxl v) ended

/-- Launches a record's units (R314): after the release of R280 the record, arguments, table and levels are read; then the issuer decides, or the
home of LID. -/
def execLaunch (d a : GReg) (t : Bool) (s : State) : Out :=
  .next (withOps s [a] (some d) false fun s vs =>
    if (slotAt s s.cur).trip.isNone ∧ !journalEmpty s s.cur then .park s
    else withAnswers s fun ws => ptrBytes s ws (val vs 0) 0 64 64 fun s ws bs =>
      let r := dwords 8 bs
      let tw := slotTower s.cur
      if launchBad s tw r then launchGive s d a t 2
      else launchArgs s ws r fun s ws args =>
        launchPlace s ws r (fun s => launchGive s d a t 3) fun s ws place =>
          launchLevels s (launchAbove r) ws false fun ws cxl =>
            if cxl then launchGive s d a t 6
            else
              let l : LaunchMsg := ⟨r, args, place, (slotAt s s.cur).asid, clusterOf (coreOf s.cur)⟩
              askAgent s ws (lvlAgent s tw (luLid l)) (.launchReq l none) 8 fun v _ => launchGive s d a t (val v 0).toNat)

/-- Enters waiting for work with the registers as they stand (R316). -/
def enterWfw (x : Slot) : Slot := { x with st := .waiting, traps := [] }

/-- Enters waiting for work; traps 0x36 while a unit or a handler runs (R318). -/
def execWfw (s : State) : Out :=
  .next (finish s s.cur (
    if (slotAt s s.cur).unit.isSome ∨ (slotAt s s.cur).hnd.isSome then .trap 0x36 0#64
    else .left (modSlot s s.cur enterWfw)))

/-- The release that ends a unit: stores, load-and-reply accesses and engine commands of the slot (R318). -/
def releaseHolds (s : State) (k : Nat) : Bool :=
  !journalEmpty s k || loadsOut s k 4 || enginesOut s k 4

/-- The end of a unit: its completion leaves for the home of LID (R318). -/
def endUnit (s : State) (fail : Bool) (code : BitVec 32) (finishTake : Slot → Slot) : Res :=
  match (slotAt s s.cur).unit with
  | none => .trap 0x36 0#64
  | some u =>
    if releaseHolds s s.cur then .park s
    else
      let m : Msg := ⟨.ni (coreOf s.cur), lvlAgent s (slotTower s.cur) u.lid, 0, s.cur, (slotAt s s.cur).phase, .unitDone u.lid fail code⟩
      .left (modSlot (niPost s (coreOf s.cur) m) s.cur fun x => enterWfw { finishTake x with unit := none })

/-- Ends the unit (R318). -/
def execTdone (s : State) : Out := .next (finish s s.cur (endUnit s false 0#32 id))

/-- Ends the unit as failed, with a code (R318). -/
def execTfail (a : GReg) (t : Bool) (s : State) : Out :=
  .next (withOps s [a] none false fun s vs => endUnit s true ((val vs 0).truncate 32) fun x => x.takeIf t a.toNat)

/-- The trap of an id operand that names no record (R309). -/
def withId (s : State) (v : Word) (body : Nat → Res) : Res :=
  let id := bitF v 0 32
  if idOk s (slotTower s.cur) id then body id else .trap 0x10 (nw id)

/-- The issuer is in user mode, and its ASID. -/
def isUser (s : State) : Bool := decide ((slotAt s s.cur).mode = .user)
def myAsid (s : State) : Nat := (slotAt s s.cur).asid

/-- Reads dword 0 of a record as load-and-reply (R319). -/
def execLvlcnt (d a : GReg) (t : Bool) (s : State) : Out :=
  .next (withOps s [a] (some d) true fun s vs =>
    if (slotAt s s.cur).barEHolds then .park s
    else withId s (val vs 0) fun id =>
      let s1 := modSlot s s.cur fun x => x.takeIf t a.toNat
      match sendRequest s1 s.cur d.toNat 8 false .load none (lvlAgent s (slotTower s.cur) id) (.levelRead id (isUser s) (myAsid s)) with
      | some s2 => .done s2
      | none => .park s)

/-- A level wait: a synchronising request at the record's home (R319, R321). -/
def levelWait (f : SyncForm) (d a : GReg) (t : Bool) (s : State) : Out :=
  .next (withOps s [a] (some d) true fun s vs =>
    if (slotAt s s.cur).barEHolds then .park s
    else withId s (val vs 0) fun id =>
      if 4 ≤ slotSyncs (coreAt s (coreOf s.cur)) s.cur then .park s
      else
        let s1 := modSlot s s.cur fun x => x.takeIf t a.toNat
        match sendRequest s1 s.cur d.toNat 8 false .sync (some f) (lvlAgent s (slotTower s.cur) id)
            (.levelWait f id (isUser s) (myAsid s)) with
        | some s2 => .done s2
        | none => .park s)

/-- Waits until a record is DONE (R319). -/
def execLvlwait (d a : GReg) (t : Bool) (s : State) : Out := levelWait .lvlwait d a t s
/-- Waits until a phase record is DONE (R321). -/
def execPhwait (d a : GReg) (t : Bool) (s : State) : Out := levelWait .phwait d a t s

/-- Asks a record's home once, under a tag of the core, and parks for the answer (R106, R319, R321). -/
def askLevel (s : State) (id : Nat) (b : Body) (ended : List Word → Res) : Res :=
  askOnce s (lvlAgent s (slotTower s.cur) id) b 8 ended

/-- Sets CXL and broadcasts the cancel (R319). -/
def execLvlcancel (a : GReg) (t : Bool) (s : State) : Out :=
  .next (withOps s [a] none false fun s vs =>
    withId s (val vs 0) fun id =>
      askLevel s id (.cancelSet id (isUser s) (myAsid s)) fun _ => .done (modSlot s s.cur fun x => x.takeIf t a.toNat))

/-- Reads a phase record and takes its phase number (R321). -/
def execPhopen (d a : GReg) (t : Bool) (s : State) : Out :=
  .next (withOps s [a] (some d) false fun s vs =>
    if (slotAt s s.cur).barEHolds then .park s
    else withId s (val vs 0) fun id =>
      askLevel s id (.levelRead id (isUser s) (myAsid s)) fun ws =>
        if lrKind ws ≠ 2 ∨ lrDone ws then .trap 0x37 (val vs 0)
        else .done (modSlot s s.cur fun x => { (x.takeIf t a.toNat).writeDst d.toNat (nw (lrPh ws)) with phase := lrPh ws }))

/-- Releases, then lowers a phase's PART (R321). -/
def execPhclose (a : GReg) (t : Bool) (s : State) : Out :=
  .next (withOps s [a] none false fun s vs =>
    withId s (val vs 0) fun id =>
      if (slotAt s s.cur).trip.isNone ∧ releaseHolds s s.cur then .park s
      else askLevel s id (.phaseClose id (isUser s) (myAsid s)) fun ws =>
        if val ws 0 ≠ 0#64 then .trap 0x37 (val vs 0) else .done (modSlot s s.cur fun x => x.takeIf t a.toNat))

/-! The launch's home (R314, R315). -/

/-- A level of the launch, its own included, is cancelled (R319). -/
def luCancelled (s : State) (t : Nat) (l : LaunchMsg) : Bool := (luLid l :: launchAbove l.record).any (cxlNow s t)

/-- Distributes a launch to the dispensers of its clusters; `reply` answers when all have accepted. -/
def distribute (s : State) (t : Nat) (l : LaunchMsg) (reply : Option Msg) : State :=
  let src := lvlAgent s t (luLid l)
  let cls := luClusters l
  let cxl := luCancelled s t l
  let s1 := modTower s t fun w => { w with dist := w.dist ++ [⟨l, reply, none, cls, 0, cxl⟩] }
  cls.foldl (fun s c => sendMsg s ⟨src, .dispenser c, luLid l, 0, luPh l, .distribute l⟩) s1

/-- The tower agent or record home that a level message names. -/
def agentTower : Agent → Nat
  | .sc bank => bank % 8
  | .tower t | .cle t => t
  | .ni c => towerOf (clusterOf c)
  | .xfe c | .ve c | .strm c => towerOf (clusterOf c)
  | .csp c | .memPort c | .dispenser c | .drain c | .dce c => towerOf c
  | .link _ | .host _ | .launchAgent | .control _ => 0

/-- The LID home checks, writes the record and holds or distributes the launch (R314). -/
def execLaunchRequest (i : Nat) (s : State) : Out :=
  match arrives s i with
  | none => .next s
  | some m =>
    match m.body with
    | .launchReq l slot =>
      let t := agentTower m.dst
      let s := dropMsg s i
      let (s, r, _) := recRead s t (luLid l)
      let answer (s : State) (st : Nat) : State := sendMsg s (replyTo m (.launchReply st))
      let pred := lrPred r + (luPred l : Int)
      if lrCxl r then .next (answer s 6)
      else if lrPend r ≠ 0 ∧ !lrDone r then .next (answer s 4)
      else if pred > 0 ∧ 64 ≤ (towerAt s t).holdq.length then .next (answer s 5)
      else
        let d0 := nw (luUnits l + luPh l * 2 ^ 52)
        let d1 := nw (luGraph l + wrapInt 32 pred * 2 ^ 32)
        let d3 := nw (l.asid * 2 ^ 20 + noId * 2 ^ 32)
        let s := recWrite s t (luLid l) [d0, d1, val l.record 6, d3]
        if pred > 0 then .next (answer (modTower s t fun w => { w with holdq := w.holdq ++ [l] }) 1)
        else .next (distribute s t l (some { m with body := .launchReq { l with place := none } slot }))
    | _ => .next s

/-- The dispenser's places in use. -/
def Cluster.active (c : Cluster) : List (Nat × DLaunch) :=
  (rangeFrom 0 8).filterMap fun p => (SMap.get (fun _ => none) c.dsp p).map fun l => (p, l)

/-- The launch as a dispenser keeps it. -/
def toDispenser (s : State) (l : LaunchMsg) (cl : Nat) : DLaunch :=
  { pc := luPc l, prio := luPrio l, cls := luCls l, ph := luPh l, np := luNp l, lid := luLid l, graph := luGraph l, phase := luPhase l,
    job := luJob l, asid := l.asid, args := l.args, left := luLeft l cl, since := tickOf s }

/-- Sets CXL in a record. -/
def setCxl (s : State) (t id : Nat) : State :=
  let (s1, r, _) := recRead s t id
  recWrite s1 t id (setD r 0 (setB (val r 0) 48 true))

/-- The launch belongs to the cancelled level. -/
def dlMatches (l : DLaunch) (id : Nat) : Bool :=
  decide (l.lid = id) || decide (l.graph = id) || decide (l.phase = id) || decide (l.job = id)
def luMatches (l : LaunchMsg) (id : Nat) : Bool :=
  decide (luLid l = id) || decide (luGraph l = id) || decide (luPhase l = id) || decide (luJob l = id)

/-- A dropped launch of a dispenser: its units count as complete without failure, and its record takes CXL. -/
def dropUnits (cl : Nat) (s : State) (l : DLaunch) : State :=
  let t := towerOf cl
  l.left.foldl (fun s _ => sendMsg s ⟨.dispenser cl, lvlAgent s t l.lid, 0, 0, l.ph, .unitDone l.lid false 0#32⟩)
    (setCxl s (lvlHome s t l.lid) l.lid)

/-- The launch takes the lowest free place, or the incoming queue; none when both are full (R315, R316). -/
def Cluster.accept (c : Cluster) (l : DLaunch) : Option Cluster :=
  match (rangeFrom 0 8).find? fun p => (SMap.get (fun _ => none) c.dsp p).isNone with
  | some p => some { c with dsp := SMap.set (fun _ => none) c.dsp p (some l) }
  | none => if c.inq.length < 8 then some { c with inq := c.inq ++ [l] } else none

/-- A dispenser accepts or refuses a distributed launch, or drops its units when a level of it is cancelled; its answer reaches the home in the same
step (R315, R319). -/
def execLaunchDistribute (i : Nat) (s : State) : Out :=
  match arrives s i with
  | none => .next s
  | some m =>
    match m.body, m.dst with
    | .distribute l, .dispenser cl =>
      let s := dropMsg s i
      let t := agentTower m.src
      let dl := toDispenser s l cl
      let cxl : Bool := (towerAt s t).dist.any fun d => decide (luLid d.launch = luLid l) && d.cxl
      match (if cxl then some (dropUnits cl s dl) else ((clusterAt s cl).accept dl).map (setCluster s cl)) with
      | none =>
        let late (d : Dist) : Dist := if luLid d.launch = luLid l then { d with due := s.time + 256 } else d
        .next (modTower s t fun w => { w with dist := w.dist.map late })
      | some s =>
        let ds := (towerAt s t).dist.map fun d => if luLid d.launch = luLid l then { d with todo := d.todo.filter fun x => decide (x ≠ cl) } else d
        let s := modTower s t fun w => { w with dist := ds.filter fun d => !d.todo.isEmpty }
        .next ((ds.filter fun d => d.todo.isEmpty).foldl (fun s d => match d.reply with
          | some r => sendMsg s (replyTo r (.launchReply 0))
          | none => s) s)
    | _, _ => .next s

/-- After 256 CCLK the home sends a refused distribution again (R315). -/
def execDistributeRetry (tower : Nat) (i : Nat) (s : State) : Out :=
  match (towerAt s tower).dist[i]? with
  | none => .next s
  | some d =>
    if d.due = 0 ∨ s.time < d.due then .next s
    else
      let out := d.todo.filter fun c => !s.net.any fun m => decide (m.dst = .dispenser c) && decide (m.tag = luLid d.launch)
      let s := modTower s tower fun w => { w with dist := w.dist.set i { d with due := 0 } }
      .next (out.foldl (fun s c =>
        sendMsg s ⟨lvlAgent s tower (luLid d.launch), .dispenser c, luLid d.launch, 0, luPh d.launch, .distribute d.launch⟩) s)

/-- The home's answer reaches the issuing slot, or the launch agent (R314, R391). -/
def execLaunchStatusReply (i : Nat) (s : State) : Out :=
  match arrives s i with
  | none => .next s
  | some m =>
    match m.body, m.dst with
    | .launchReply st, .ni core => .next (deliver (dropMsg s i) core m.tag (.value (natLE 8 st)))
    | .launchReply st, .launchAgent =>
      .next (modModul (dropMsg s i) fun x => { x with hslots := SMap.modify (fun _ => HSlot.reset) x.hslots m.tag fun h =>
        { h with st := nw (2 ^ 63 + st % 8), busy := false } })
    | _, _ => .next s

/-! The dispenser (R316, R317). -/

/-- A slot of a core that a unit of class `cls` may take (R286, R316, R340). -/
def unitSlot (s : State) (core cls asid : Nat) : Option Nat :=
  let c := coreAt s core
  if coreRetired s core ∨ batonWaits c cls ∨ c.amQ.any (fun q => decide (q.cls = cls))
      ∨ (c.divert ∧ bitF (c.creg 0x1C9) 0 12 = asid) then none
  else ((rangeFrom (core * 16) 16).find? fun k =>
    decide ((slotAt s k).st = .waiting) && !(slotAt s k).sws && decide (slotClass s k = cls) && decide ((slotAt s k).asid = asid)
      && !(decide (slotNo k = 15) && xformOn s core))

/-- The lowest unstarted unit of a launch with a slot to take: (unit, slot). -/
def unitReady (s : State) (cl : Nat) (l : DLaunch) : Option (Nat × Nat) :=
  ((l.left.mergeSort fun a b => decide (a.1 ≤ b.1)).findSome? fun u =>
    (unitSlot s (lcoreKey s cl u.2) l.cls l.asid).map fun k => (u.1, k))

/-- Effective priority (R316). -/
def effPrio (s : State) (cl : Nat) (l : DLaunch) : Nat :=
  let p := bitF ((clusterAt s cl).creg 0x241) 0 32
  Nat.min 3 (l.prio + (tickOf s - l.since) / (if p = 0 then 1 else p))

/-- The place that starts a unit: highest effective priority, then the first after the last in circular order. -/
def pickPlace (s : State) (cl : Nat) : Option (Nat × DLaunch × Nat × Nat) :=
  let c := clusterAt s cl
  let es := ((rangeFrom (c.last + 1) 8).map fun p => p % 8).filterMap fun p =>
    (SMap.get (fun _ => none) c.dsp p).bind fun l => (unitReady s cl l).map fun u => (p, l, u.1, u.2)
  let top := (es.map fun e => effPrio s cl e.2.1).foldl Nat.max 0
  es.find? fun e => decide (effPrio s cl e.2.1 = top)

/-- The registers of a slot in which a unit starts (R317). -/
def Slot.startUnit (x : Slot) (l : DLaunch) (u tick tid : Nat) : Slot :=
  let y := ((rangeFrom 0 8).foldl (fun y i => y.setReg (3 + i) (val l.args i)) x).setReg 11 (nw u)
  { y.dropIssue with pc := l.pc, mode := .user, st := .ready, phase := l.ph, tok := false, skip := 0,
                     unit := some ⟨l.lid, u, l.graph, l.phase, l.job, l.np, tick, 0⟩, tid := tid }

/-- A dispenser starts at most one unit (R316). -/
def execDispenserStartUnit (cluster : Nat) (s : State) : Out :=
  if (clusterAt s cluster).hold ∨ s.modul.hu = .drain ∨ s.modul.hu = .copy ∨ s.modul.hu = .committed then .next s
  else match pickPlace s cluster with
    | none => .next s
    | some (p, l, u, k) =>
      let (tid, s) := takeFresh s
      let s := modSlot s k fun x => x.startUnit l u (tickOf s) tid
      let left := l.left.filter fun x => decide (x.1 ≠ u)
      .next (modCluster s cluster fun c =>
        let c := { c.setCreg 0x240 (addF (c.creg 0x240) 32 32 1) with last := p }
        if left = [] then
          match c.inq with
          | [] => { c with dsp := SMap.set (fun _ => none) c.dsp p none }
          | n :: ns => { c with dsp := SMap.set (fun _ => none) c.dsp p (some n), inq := ns }
        else { c with dsp := SMap.set (fun _ => none) c.dsp p (some { l with left := left, since := tickOf s }) })

/-! Completion (R311, R318). -/

/-- A unit of launch `id` is complete. -/
def unitDoneAt (s : State) (t id : Nat) (fail : Bool) (code : BitVec 32) : State :=
  let (s1, r, _) := recRead s t id
  if lrDone r ∨ lrPend r = 0 then lvlErr s1 t
  else
    let r1 := lrChild r fail
    let r2 := if fail ∧ bitF (val r 3) 32 32 = noId then setD r1 3 (setF (val r 3) 32 32 code.toNat) else r1
    let s2 := recWrite s1 t id r2
    if lrPend r = 1 then lvlMaybe s2 t id else s2

/-- A child level of record `id` is complete. -/
def childDoneAt (s : State) (t id : Nat) (failed : Bool) : State :=
  let (s1, r, _) := recRead s t id
  if lrDone r ∨ lrPend r = 0 then lvlErr s1 t
  else
    let s2 := recWrite s1 t id (lrChild r failed)
    if lrPend r = 1 then lvlMaybe s2 t id else s2

/-- A predecessor of launch `id` is complete: a held launch whose PRED reaches 0 is distributed. -/
def predDoneAt (s : State) (t id : Nat) : State :=
  let (s1, r, _) := recRead s t id
  let s2 := recWrite s1 t id (setD r 1 (setF (val r 1) 32 32 (wrapInt 32 (lrPred r - 1))))
  match (towerAt s2 t).holdq.find? fun l => decide (luLid l = id) with
  | none => s2
  | some l =>
    if lrPred r = 1 then distribute (modTower s2 t fun w => { w with holdq := w.holdq.filter fun x => decide (luLid x ≠ id) }) t l none
    else s2

/-- A completion arrives at a record's home (R311, R318). -/
def execUnitCompletion (i : Nat) (s : State) : Out :=
  match arrives s i with
  | none => .next s
  | some m =>
    let t := agentTower m.dst
    match m.body with
    | .unitDone id fail code => .next (unitDoneAt (dropMsg s i) t id fail code)
    | .childDone id failed => .next (childDoneAt (dropMsg s i) t id failed)
    | .predDone id => .next (predDoneAt (dropMsg s i) t id)
    | _ => .next s

/-- A bank's waiters for level records (R320). -/
def bankWaiters (w : Tower) (s : State) (t line : Nat) : Nat :=
  (w.lvlw.filter fun x => decide (scKey (lvlPa s t x.id / 64) = scKey line)).length

/-- A bank answers, holds or turns away a level wait (R319 to R321). -/
def execLevelWaitRequest (i : Nat) (s : State) : Out :=
  match arrives s i with
  | none => .next s
  | some m =>
    match m.body with
    | .levelWait f id user asid =>
      let t := agentTower m.dst
      let (s, r, p) := recRead (dropMsg s i) t id
      let answer (b : Body) : Out := .next (sendMsg s (replyTo m b))
      if p ≠ 0 then answer (.syncReply (.poison p (recPoisonPa s t id)))
      else if asidBad r user asid ∨ (f = .phwait ∧ lrKind r ≠ 2) ∨ lrDone r then answer (.syncReply (levelReply f id user asid r))
      else if bankWaiters (towerAt s t) s t (lvlPa s t id / 64) < 16 then
        .next (modTower s t fun w => { w with lvlw := w.lvlw ++ [⟨id, m⟩] })
      else answer .syncRetry
    | _ => .next s

/-- A home lowers a phase's PART and may start waves, and answers; 1 stands for the trap 0x37 (R321). -/
def execPhaseCloseRequest (i : Nat) (s : State) : Out :=
  match arrives s i with
  | none => .next s
  | some m =>
    match m.body with
    | .phaseClose id user asid =>
      let t := agentTower m.dst
      let (s, r, p) := recRead (dropMsg s i) t id
      let answer (s : State) (v : Reply) : Out := .next (sendMsg s (replyTo m (.loadReply v)))
      if p ≠ 0 then answer s (.poison p (recPoisonPa s t id))
      else if asidBad r user asid then answer s (.poison 0x11 id)
      else if lrKind r ≠ 2 ∨ lrPart r = 0 ∨ lrDone r then answer s (.value (natLE 8 1))
      else
        let s := recWrite s t id (setD r 3 (setF (val r 3) 0 20 (lrPart r - 1)))
        answer (if lrPart r = 1 then lvlMaybe s t id else s) (.value (natLE 8 0))
    | _ => .next s

/-! Cancel (R319). -/

/-- A dispenser drops the units of a cancelled id; running units of it trap 0x3A at their next turn. -/
def cancelCluster (s : State) (cl id : Nat) : State :=
  let c := clusterAt s cl
  let gone := (c.active.map Prod.snd ++ c.inq).filter fun l => dlMatches l id
  let inq := c.inq.filter fun l => !dlMatches l id
  let places := (rangeFrom 0 8).foldl (fun m p => match SMap.get (fun _ => none) m p with
    | some l => if dlMatches l id then SMap.set (fun _ => none) m p none else m
    | none => m) c.dsp
  let free := (rangeFrom 0 8).filter fun p => (SMap.get (fun _ => none) places p).isNone
  let dsp := (free.zip inq).foldl (fun m e => SMap.set (fun _ => none) m e.1 (some e.2)) places
  let s1 := gone.foldl (dropUnits cl) (setCluster s cl { c with dsp := dsp, inq := inq.drop free.length })
  (s1.slots.map Prod.fst).foldl (fun s k =>
    if clusterOf (coreOf k) = cl then
      match (slotAt s k).unit with
      | some u => if Nat.land (u.levels id) u.told ≠ u.levels id then modSlot s k fun x => { x with cancel := some id } else s
      | none => s
    else s) s1

/-- A hold queue drops the launches of a cancelled id: each counts all its units as complete, with CXL set. -/
def cancelHold (s : State) (t id : Nat) : State :=
  let gone := (towerAt s t).holdq.filter fun l => luMatches l id
  gone.foldl (fun s l =>
    let (s1, r, _) := recRead (setCxl s t (luLid l)) t (luLid l)
    lvlMaybe (recWrite s1 t (luLid l) (setD r 0 (setF (val r 0) 0 32 (lrPend r - luUnits l)))) t (luLid l))
    (modTower s t fun w => { w with holdq := w.holdq.filter fun l => !luMatches l id })

/-- One acknowledgement of a cancel reaches its issuer, whose request counts those that are out; with the last the tag is free (R106, R319). -/
def cancelAcked (s : State) (core tag k : Nat) : State :=
  match reqAt (coreAt s core) tag with
  | none => s
  | some r =>
    if 1 < r.tries then modCore s core fun c => setReq c tag (some { r with tries := r.tries - 1 })
    else answerTrip (freeReq s core tag) k r.reg [0#64] none

/-- The record's home sets CXL and broadcasts; each dispenser and hold queue drops and acknowledges (R319). -/
def execLevelCancelDrop (i : Nat) (s : State) : Out :=
  match arrives s i with
  | none => .next s
  | some m =>
    match m.body, m.dst with
    | .cancelSet id user asid, _ =>
      let t := agentTower m.dst
      let (s, r, p) := recRead (dropMsg s i) t id
      let deny (c a : Nat) : Out := .next (sendMsg s (replyTo m (.loadReply (.poison c a))))
      match p, m.src with
      | 0, .ni core =>
        if asidBad r user asid then deny 0x11 id
        else
          let s := (rangeFrom 0 8).foldl (fun s t => modTower s t fun w =>
            { w with dist := w.dist.map fun d => if luMatches d.launch id then { d with cxl := true } else d }) (setCxl s t id)
          let dsts := ((rangeFrom 0 1280).map Agent.dispenser) ++ (rangeFrom 0 8).map Agent.tower
          let s := modCore s core fun c => setReq c m.tag ((reqAt c m.tag).map fun r => { r with tries := dsts.length })
          .next (dsts.foldl (fun s d => sendMsg s ⟨m.src, d, m.tag, m.who, m.ph, .cancelDrop id⟩) s)
      | 0, _ => .next s
      | p + 1, _ => deny (p + 1) (recPoisonPa s t id)
    | .cancelDrop id, .dispenser cl => .next (sendMsg (cancelCluster (dropMsg s i) cl id) (replyTo m .cancelAck))
    | .cancelDrop id, .tower t => .next (sendMsg (cancelHold (dropMsg s i) t id) (replyTo m .cancelAck))
    | .cancelAck, .ni core => .next (cancelAcked (dropMsg s i) core m.tag m.who)
    | _, _ => .next s

/-- The moved unit of a slot is told of a cancel that reached no slot of it before: one of its levels has CXL set; its launch takes CXL also by
the cancel of a level above it (R319). -/
def tellMoved (s : State) (k : Nat) : State :=
  match (slotAt s k).unit with
  | none => s
  | some u =>
    if u.told ≠ 0 then s
    else match [u.graph, u.phase, u.job, u.lid].find? fun i => decide (i ≠ noId) && cxlNow s (slotTower k) i with
      | some i => modSlot s k fun x => { x with cancel := some i }
      | none => s

/-! Waves (R121, R322). -/

/-- The tower whose counters hold message `i` in flight: any on its path (R100, R121); which one is left open.
DESIGN CHOICE, safe (log entry 67). -/
def heldIn (s : State) (i : Nat) (m : Msg) : Nat :=
  let a := towerOf (siteOfAgent m.src)
  let path := towersBetween 4 a (towerOf (siteOfAgent m.dst))
  if path.length ≤ 1 then a else (path[Config.freeNat (s.free + i) % path.length]?).getD a

/-- The running handlers of a core that a message of a phase started (R322). -/
def handlersOf (s : State) (core ph : Nat) : Nat :=
  ((rangeFrom (core * 16) 16).filter fun k => match (slotAt s k).hnd with
    | some p => (coreAt s core).amHeld.any fun h => decide (h = (p, ph))
    | none => false).length

/-- What the counters of tower `t` sum to for a phase (R121, R322): the messages in flight there, in its NIs' buffers, in ring slots and in the
fallout area, and the running handlers. -/
def phaseCount (s : State) (t ph : Nat) : Nat :=
  ((s.net.zipIdx.filter fun e => decide (e.1.ph = ph)).filter fun e => decide (heldIn s e.2 e.1 = t)).length
  + (s.cores.foldl (fun n e => if towerOf (clusterOf e.1) = t then
      n + (e.2.ni.filter fun m => decide (m.ph = ph)).length + (e.2.amHeld.filter fun h => decide (h.2 = ph)).length + handlersOf s e.1 ph else n) 0)
  + ((towerAt s t).fall.filter fun m => decide (m.2.ph = ph)).length

/-- A wave over every counter of a phase, whose TOUCH bits it clears; a wave that finds every counter zero with TOUCH clear completes the phase
(R121, R322). DESIGN CHOICE, unsafe (log entry 49). -/
def execPhaseWave (id : Nat) (s : State) : Out :=
  let t := lvlHome s 0 id
  match (towerAt s t).waves.find? fun w => decide (w.id = id) with
  | none => .next s
  | some w =>
    if s.time < w.due then .next s
    else
      let (s, r, _) := recRead s t id
      let ph := lrPh r
      let zero : Bool := !s.touch.getLsbD ph && (rangeFrom 0 8).all fun t => decide (phaseCount s t ph = 0)
      let s := (rangeFrom 0 8).foldl (fun s t => modTower s t fun w =>
        w.setCreg (0x380 + ph) (nw (phaseCount s t ph % 2 ^ 32 + (if zero then 2 ^ 63 else 0)))) s
      let s := { s with touch := s.touch &&& ~~~(1#4 <<< ph), free := s.free + s.net.length }
      if zero then .next (lvlComplete (modTower s t fun x => { x with waves := x.waves.filter fun y => decide (y.id ≠ id) }) t id)
      else .next (modTower s t fun x => { x with waves := x.waves.map fun y => if y.id = id then { y with due := w.due + 1024 } else y })

/-! The spare-core remap (R323). -/

/-- Swaps two entries of a cluster's remap table (R323). -/
def execCrmap (d a b : GReg) (t : Bool) (s : State) : Out :=
  .next (withOps s [a, b] (some d) false fun s vs =>
    let va := val vs 0
    let i := bitF va 0 6
    let j := bitF (val vs 1) 0 6
    let cl := clusterIn (bitF va 40 3) (bitF va 32 8)
    if i > 33 ∨ bitF va 32 8 > 159 then .trap 0x10 va
    else if j > 33 then .trap 0x10 (val vs 1)
    else if (slotAt s s.cur).trip.isNone ∧ (clusterAt s cl).swap.isSome then .park s
    else askTrip s 1 (fun id s => modCluster s cl fun c => { c with swap := some (i, j, s.cur, id) })
      fun s ws => .done (modSlot s s.cur fun x => (x.takeIf t a.toNat).writeDst d.toNat (val ws 0)))

/-- Every slot of a core waits for work or is stopped, and its NI's buffers are empty (R323). -/
def coreQuiet (s : State) (core : Nat) : Bool :=
  decide ((coreAt s core).ni = []) &&
    (rangeFrom (core * 16) 16).all fun k => decide ((slotAt s k).st = .waiting) || decide ((slotAt s k).st = .stopped)

/-- The table makes a requested swap when both cores are quiet (R323). -/
def execRemapSwap (cluster : Nat) (s : State) : Out :=
  match (clusterAt s cluster).swap with
  | none => .next s
  | some (i, j, k, id) =>
    let c := clusterAt s cluster
    let p := c.phys i
    let q := c.phys j
    if coreQuiet s (coreIn cluster p) ∧ coreQuiet s (coreIn cluster q) then
      .next (answerTrip (adviseSpare (setCluster s cluster
        { c with remap := SMap.set (fun i => i) (SMap.set (fun i => i) c.remap i q) j p, swap := none }) cluster) k id [nw (p * 256 + q)] none)
    else .next s

/-! Heat (R324, R325). -/

/-- TWR_THERM's thresholds in 1/256 °C. -/
def thermAt (s : State) (cl lo : Nat) : Nat := bitF ((towerAt s (towerOf cl)).creg 0x3D3) lo 8 * 256

/-- A reading of the hottest sensor: from HOLD on the dispenser starts no unit, until below CLEAR; at THROT the cluster's CCLK is halved and 0x72 is
raised at every core's service slot, and below it the clock runs at full rate (R282, R324). DEDUCED, unsafe (log entry 40). -/
def setTemp (s : State) (cl temp : Nat) : State :=
  let t := temp % 65536
  let was := (clusterAt s cl).thr
  let thr : Bool := decide (thermAt s cl 24 ≤ t)
  let s := modCluster s cl fun c =>
    let c := { c with temp := t, hold := decide (thermAt s cl 8 ≤ t) || (c.hold && !decide (t < thermAt s cl 0)) }
    if thr = c.thr then c else { c with thr := thr, cycBase := clusterCycle s cl, cycSince := s.time }
  if thr && !was then (rangeFrom 0 34).foldl (fun s p => raiseEvent s (coreIn cl p) 0x72 (nw t)) s else s

/-- New thresholds of a tower meet the temperatures that its clusters show (R324, R326). -/
def rethreshold (s : State) (t : Nat) : State :=
  (s.clusters.filter fun e => decide (towerOf e.1 = t)).foldl (fun s e => setTemp s e.1 e.2.temp) s

/-- A reading at HOLD (R324). -/
def execThermalHold (cluster : Nat) (temp : Nat) (s : State) : Out := .next (setTemp s cluster temp)

/-- A reading below CLEAR (R324). -/
def execThermalHoldClear (cluster : Nat) (temp : Nat) (s : State) : Out := .next (setTemp s cluster temp)

/-- A reading at THROT (R324). -/
def execThermalThrottle (cluster : Nat) (temp : Nat) (s : State) : Out := .next (setTemp s cluster temp)

/-- The coolest other cluster of the tower below HOLD with a waiting slot of the class and ASID: its slot. -/
def coolSlot (s : State) (cl cls asid : Nat) : Option Nat :=
  let es := (rangeFrom (towerOf cl * 160) 160).filterMap fun c =>
    if c = cl ∨ thermAt s cl 8 ≤ (clusterAt s c).temp then none
    else ((rangeFrom 0 33).findSome? fun l => unitSlot s (lcoreKey s c l) cls asid).map fun k => ((clusterAt s c).temp, k)
  let low := (es.map Prod.fst).foldl Nat.min 65536
  (es.find? fun e => decide (e.1 = low)).map Prod.snd

/-- A unit may move: outside its region, not refused by a baton pass for reasons 2 to 6, at a lap boundary, with nothing of it on its way (R152,
R325). -/
def mayMove (s : State) (k : Nat) : Bool :=
  let x := slotAt s k
  (decide (x.st = .ready) || decide (x.st = .parked)) && x.unit.isSome && decide (passReason s k = none)
    && decide (clusterCycle s (clusterOf (coreOf k)) % 16 = 0) && !x.sws && x.baton.isNone && x.trip.isNone && !repliesOut s k
    && decide (x.pend = 0#32) && !slotPosts s k && !x.barEHolds && !barsHold (coreAt s (coreOf k)) x.barS

/-- At MIG, once per 16,000 CCLK, the scheduler moves one running unit (R324, R325). -/
def execThermalMigrate (cluster : Nat) (temp : Nat) (k : Nat) (s : State) : Out :=
  let s := setTemp s cluster temp
  let c := clusterAt s cluster
  if c.temp < thermAt s cluster 16 ∨ s.time < c.migAt ∨ clusterOf (coreOf k) ≠ cluster then .next s
  else if ((slotAt s k).unit.map UnitRun.region).getD false then
    .next (modTower s (towerOf cluster) fun w => w.setCreg 0x3D4 (addF (w.creg 0x3D4) 0 32 1))
  else if !mayMove s k then .next s
  else match coolSlot s cluster (slotClass s k) (slotAt s k).asid with
    | none => .next (modCluster s cluster fun c => { c with migAt := s.time + 16000 })
    | some d =>
      let x := slotAt s k
      let s1 := installCtx s d (ctxBytes s k x.pc ++ unitBytes x.unit) (bitF (x.creg 0x0D0) 32 32)
      let s2 := modSlot (tellMoved s1 d) k fun x => { enterWfw x with unit := none, cancel := none, held := none, deadline := none }
      .next (modCluster s2 cluster fun c => { c.setCreg 0x245 (addF (c.creg 0x245) 32 32 1) with migAt := s.time + 16000 })

/-- A non-pre-emptible region ends 2,000,000 ticks after its start (R325). -/
def execNpRegionExpire (k : Nat) (s : State) : Out :=
  match (slotAt s k).unit with
  | none => .next s
  | some u =>
    if u.region ∧ u.start + 2000000 ≤ tickOf s then
      .next (modTower (modSlot s k fun x => { x with unit := some { u with region := false } }) (slotTower k)
        fun w => w.setCreg 0x3D4 (addF (w.creg 0x3D4) 32 32 1))
    else .next s

end Sys2Proof.Machine
end

