-- ==== Sys2Proof/Machine/Messages.lean ====
section
/-! DEFINITION. Active messages, payload compression, baton passes and `hop` (R103, R114 to R120, R150 to R154). -/

namespace Sys2Proof.Machine

/-! Nodes and kinds (R98, R99). -/

/-- A node number: package, tower, cluster and port. -/
def nodeNo (pkg tower cl port : Nat) : Nat := pkg % 256 * 2 ^ 17 + tower % 8 * 2 ^ 14 + cl % 256 * 2 ^ 6 + port % 64

/-- The node of an agent (R98). For an SC bank, a CLE and a link port the cluster is 0; what the ports of R98 do not name stands at port 43 of its
cluster, or at port 45 of tower 0. DESIGN CHOICE, unsafe (log entry 84). -/
def nodeOf (s : State) : Agent → Nat
  | .ni c | .xfe c | .ve c | .strm c => nodeNo (ownPkg s) (towerOf (clusterOf c)) (clusterNo (clusterOf c)) (physNo c)
  | .csp c => nodeNo (ownPkg s) (towerOf c) (clusterNo c) 40
  | .sc bank => nodeNo (ownPkg s) (bank % 8) 0 41
  | .tower t => nodeNo (ownPkg s) t 0 41
  | .memPort c => nodeNo (ownPkg s) (towerOf c) (clusterNo c) 42
  | .dispenser c | .drain c | .dce c => nodeNo (ownPkg s) (towerOf c) (clusterNo c) 43
  | .cle t => nodeNo (ownPkg s) t 0 44
  | .link p => nodeNo (ownPkg s) (p / 2) 0 45
  | .host _ | .launchAgent | .control _ => nodeNo (ownPkg s) 0 0 45

/-- KIND of a message (R99); 21 and 22 are the withdrawal and its answer (R341), and all traffic of the other chapters is 23.
DESIGN CHOICE, unsafe (log entry 83). -/
def kindOf : Body → Nat
  | .loadReq _ _ _ => 0 | .loadReply _ => 1 | .postedStore _ _ _ _ => 2 | .storeAck => 3 | .storeRefusal _ => 4
  | .atomicReq _ _ _ _ _ _ => 5 | .atomicReply _ => 6 | .syncReq _ _ _ _ => 7 | .syncReply _ => 8 | .syncRetry => 9
  | .fillReq _ _ => 10 | .fillReply _ _ _ => 11 | .dirInvalidate _ => 12 | .invalidateAck _ => 13
  | .activeMsg _ _ _ _ _ _ => 14 | .amRefusal _ _ _ _ _ => 15 | .engWrite _ _ _ _ _ _ => 16 | .engRead _ _ _ _ _ _ => 17
  | .engReadReply _ _ => 18 | .baton _ _ => 19 | .batonAnswer _ => 20 | .withdraw _ _ => 21 | .withdrawn => 22
  | .levelWait _ _ _ _ => 7
  | _ => 23

/-! Payload compression (R118 to R120). -/

/-- Fields of a bit stream: (value, width), packed lowest bit first. -/
def packFields : List (Nat × Nat) → Nat
  | [] => 0
  | f :: fs => f.1 % 2 ^ f.2 + 2 ^ f.2 * packFields fs

def fieldsWidth (fs : List (Nat × Nat)) : Nat := fs.foldl (fun n f => n + f.2) 0

/-- A zero run of `n` words. -/
def zeroRun (n : Nat) : List (Nat × Nat) := if n = 0 then [] else [(2, 2), (n - 1, 4)]

/-- The tokens of a list of words: `run` zero words have been read (R119). -/
def encodeWords (dict : List Word) : Nat → List Word → List (Nat × Nat)
  | run, [] => zeroRun run ++ [(3, 2)]
  | run, w :: ws =>
    if w = 0#64 then
      if run = 16 then zeroRun 16 ++ encodeWords dict 1 ws else encodeWords dict (run + 1) ws
    else zeroRun run ++ (match findAt (fun v => decide (v = w)) dict with
      | some i => [(1, 2), (i, 6)]
      | none => [(0, 2), (w.toNat, 64)]) ++ encodeWords dict 0 ws

/-- The compressed payload, when it is shorter (R119). -/
def compress (dict : List Word) (payload : List Byte) : Option (List Byte) :=
  let fs := encodeWords dict 0 (dwords (payload.length / 8) payload)
  let n := (fieldsWidth fs + 7) / 8
  if n < payload.length then some (natLE n (packFields fs)) else none

/-- Decodes a bit stream `v` of `bits` bits; none when decoding fails (R120). -/
def decodeWords (dict : List Word) (want : Nat) : Nat → Nat → Nat → List Word → Option (List Word)
  | 0, _, _, _ => none
  | fuel + 1, v, bits, out =>
    if bits < 2 ∨ want < out.length then none
    else
      let code := v % 4
      let r := v / 4
      if code = 0 then
        if bits < 66 then none else decodeWords dict want fuel (r / 2 ^ 64) (bits - 66) (out ++ [nw (r % 2 ^ 64)])
      else if code = 1 then
        if bits < 8 then none
        else match dict[r % 64]? with
          | none => none
          | some w => decodeWords dict want fuel (r / 64) (bits - 8) (out ++ [w])
      else if code = 2 then
        if bits < 6 then none else decodeWords dict want fuel (r / 16) (bits - 6) (out ++ List.replicate (r % 16 + 1) 0#64)
      else if out.length = want ∧ r % 2 ^ ((bits - 2) % 8) = 0 then some out
      else none

/-- The decompressed payload (R120). -/
def decompress (dict : List Word) (plen : Nat) (bs : List Byte) : Option (List Byte) :=
  (decodeWords dict (plen / 8) (4 * bs.length + 1) (leNat bs) (8 * bs.length) []).map wordsLE

/-! NI dictionaries (R118). -/

def dictAt (c : Core) (i : Nat) : Dict := SMap.get (fun _ => Dict.reset) c.dict i
def setDict (c : Core) (i : Nat) (d : Dict) : Core := { c with dict := SMap.set (fun _ => Dict.reset) c.dict i d }

/-- Reads the own LM at an LM offset; a range beyond the LM traps 0x10. -/
def lmBytesAt (s : State) (off n : Nat) : Except (Nat × Word) (List Byte) :=
  if n = 0 then .ok [] else if 524288 < off + n then .error (0x10, nw off) else ownBytes s (coreOf s.cur) off n

/-- Loads a dictionary slot (R118). -/
def execNidict (a b : GReg) (t : Bool) (s : State) : Out :=
  .next (withOps s [a, b] none false fun s vs =>
    let i := (val vs 0).toNat
    let off := (val vs 1).toNat
    if i > 15 then .trap 0x62 (nw i)
    else if off % 8 ≠ 0 then .trap 0x12 (nw off)
    else match lmBytesAt s off 8 with
      | .error (c, v) => .trap c v
      | .ok hd =>
        let n := leNat hd % 128
        if n = 0 ∨ 64 < n then .trap 0x62 (nw n)
        else if off + 8 + 8 * n > segLimit ((slotAt s s.cur).segLo 1) ((slotAt s s.cur).segHi 1) then .trap 0x10 (nw off)
        else match lmBytesAt s (off + 8) (8 * n) with
          | .error (c, v) => .trap c v
          | .ok bs =>
            .done (modSlot (modCore s (coreOf s.cur) fun c => setDict c i ⟨true, crc32 bs % 65536, dwords n bs⟩) s.cur
              fun x => x.takeIf t a.toNat))

/-- Invalidates a dictionary slot (R118). -/
def execNiclr (a : GReg) (t : Bool) (s : State) : Out :=
  .next (withOps s [a] none false fun s vs =>
    let i := (val vs 0).toNat
    if i > 15 then .trap 0x62 (nw i)
    else .done (modSlot (modCore s (coreOf s.cur) fun c => setDict c i { dictAt c i with v := false }) s.cur fun x => x.takeIf t a.toNat))

/-! Sending (R115). -/

/-- The destination of an active message: its agent and node, for an address in an LM linear window here or in another package. The port of a
node there, whose remap table is not known here, is the logical core. DESIGN CHOICE, unsafe (log entry 97). -/
def amDest (s : State) (v : Word) : Option (Agent × Nat) :=
  let pa := localPa s v.toNat
  if 2 ^ 56 ≤ v.toNat then none
  else match placeOf s pa with
    | .lm cl lc _ => some (.ni (lcoreKey s cl lc), nodeOf s (.ni (lcoreKey s cl lc)))
    | .remote pkg _ => match localPlace (pa % 2 ^ 44) with
      | .lm cl lc _ => some (homeAgent s (coreOf s.cur) pa, nodeNo pkg (towerOf cl) (clusterNo cl) lc)
      | _ => none
    | _ => none

/-- Copies a payload and hands the message to the NI (R115). -/
def sendActive (useDict : Bool) (a b : GReg) (t : Bool) (type : BitVec 8) (s : State) : Out :=
  .next (withOps s [a, b] none false fun s vs =>
    let v := val vs 1
    let off := bitF v 0 19
    let len := bitF v 20 9
    let c := coreAt s (coreOf s.cur)
    match amDest s (val vs 0) with
    | none => .trap 0x10 (val vs 0)
    | some (dst, _) =>
      if off % 8 ≠ 0 ∨ len % 8 ≠ 0 then .trap 0x12 v
      else if len > 496 then .trap 0x10 v
      else if off + len > segLimit ((slotAt s s.cur).segLo 1) ((slotAt s s.cur).segHi 1) then .trap 0x10 (nw off)
      else if 2 ≤ c.ni.length then .park s
      else match lmBytesAt s off len with
        | .error (k, w) => .trap k w
        | .ok bs =>
          let i := bitF v 60 4
          let z : Option (List Byte) := if useDict ∧ (dictAt c i).v then compress (dictAt c i).words bs else none
          let body : Body := match z with
            | some zs => .activeMsg type.toNat len off (some (i, (dictAt c i).tag)) zs none
            | none => .activeMsg type.toNat len off none bs none
          .done (modSlot (niPost s (coreOf s.cur) ⟨.ni (coreOf s.cur), dst, localPa s (val vs 0).toNat, s.cur, (slotAt s s.cur).phase, body⟩) s.cur
            fun x => x.takeIf t a.toNat))

/-- Sends an active message (R115). -/
def execMsend (a b : GReg) (t : Bool) (y : BitVec 8) (s : State) : Out := sendActive false a b t y s
/-- Sends an active message compressed with a dictionary slot (R115). -/
def execMsendD (a b : GReg) (t : Bool) (y : BitVec 8) (s : State) : Out := sendActive true a b t y s

/-- The destination node of an active message, by the address that it carries (R98, R116). -/
def amNode (s : State) (m : Msg) : Nat := ((amDest s (nw m.tag)).map Prod.snd).getD 0

/-- A message leaves with the home that its address has now: the remap table acts at send time (R98). -/
def retarget (s : State) (core : Nat) (m : Msg) : Msg :=
  match m.body with
  | .activeMsg _ _ _ _ _ _ => { m with dst := ((amDest s (nw m.tag)).map Prod.fst).getD m.dst }
  | .baton _ _ => match ((slotAt s m.who).baton.map BatonOut.pa).bind (lmCore s) with
    | some c => { m with dst := .ni c }
    | none => m
  | .loadReq pa _ _ | .postedStore pa _ _ _ | .atomicReq _ pa _ _ _ _ | .syncReq _ pa _ _ | .fillReq pa _ =>
    { m with dst := homeAgent s core pa }
  | _ => m

/-- An NI starts its next whole message, which then travels (R103). -/
def execNiSend (core : Nat) (s : State) : Out :=
  match (coreAt s core).ni with
  | [] => .next s
  | m :: ms => .next (sendMsg (modCore s core fun c => { c with ni := ms }) (retarget s core m))

/-! Dispatch at the destination (R114, R116). -/

/-- The source node of an active message, of another package too, and the link hops that it took (R98). -/
def amSrc (s : State) (m : Msg) : Nat × Nat := match m.body with
  | .activeMsg _ _ _ _ _ (some p) => p
  | _ => (nodeOf s m.src, 0)

/-- The header of an active message as the ring keeps it (R98). -/
def amHeader (s : State) (m : Msg) (core type plen clen : Nat) (dict : Option (Nat × Nat)) : List Byte :=
  let flits := if clen ≤ 16 then 0 else (clen - 16 + 31) / 32
  let d := dict.getD (0, 0)
  natLE 16 (14 + flits * 2 ^ 6 + m.ph % 4 * 2 ^ 10 + dict.isSome.toNat * 2 ^ 12 + d.1 * 2 ^ 13
    + nodeOf s (.ni core) * 2 ^ 17 + (amSrc s m).1 % 2 ^ 25 * 2 ^ 42 + type * 2 ^ 73 + plen * 2 ^ 81 + d.2 * 2 ^ 90
    + (amSrc s m).2 % 16 * 2 ^ 106)

/-- The own LM of a core, written from outside an instruction: whole granules, with the directory's work. -/
def lmPut (s : State) (core off : Nat) (bs : List Byte) : State :=
  match lmHome s core off with
  | .here c o _ => match lmWrite s c o bs with
    | .ok s1 _ => dirSpan s1 c o bs.length
    | .poison s1 _ _ | .deny s1 _ | .wait s1 => s1
  | .wait | .off | .retired => s

/-- The vector table's entry for a type; an entry that cannot be read is not valid. DEDUCED, unsafe (log entry 50). -/
def vectorEntry (s : State) (core type : Nat) : Word :=
  let off := bitF ((coreAt s core).creg 0x162) 11 8 * 2048 + 8 * type
  match lmHome s core off with
  | .here c o _ => match lmRead s c o 8 with
    | .ok _ bs => leWord bs
    | .poison _ _ _ | .deny _ _ | .wait _ => 0#64
  | .wait | .off | .retired => 0#64

/-- The lowest free ring slot. -/
def freeRing (c : Core) : Option Nat :=
  (rangeFrom 0 (bitF (c.creg 0x161) 0 7)).find? fun p => !c.amHeld.any fun h => h.1 = p

/-- A core's NI dispatches an active message to its ring, or refuses it (R116). -/
def amDispatch (s : State) (m : Msg) (core : Nat) : State :=
  match m.body with
  | .activeMsg type plen off dict payload _ =>
    let c := coreAt s core
    let refuse (s : State) (cause : Nat) : State :=
      sendMsg s ⟨.ni core, m.src, 0, m.who, m.ph, .amRefusal cause type plen off (nodeOf s (.ni core))⟩
    let plain : Option (List Byte) := match dict with
      | none => some payload
      | some (k, tag) => if (dictAt c k).v ∧ (dictAt c k).tag = tag then decompress (dictAt c k).words plen payload else none
    match plain with
    | none => refuse s 0x62
    | some bs =>
      match (if coreRetired s core then none else freeRing c) with
      | none => refuse (modCore s core fun c => c.setCreg 0x161 (addF (c.creg 0x161) 32 32 1)) 0x39
      | some p =>
        let v := vectorEntry s core type
        if !bitB v 63 then raiseEvent s core 0x38 (nw ((amSrc s m).1 % 2 ^ 25 * 2 ^ 8 + type))
        else
          let s1 := lmPut s core (bitF (c.creg 0x160) 9 10 * 512 + 512 * p) (amHeader s m core type plen payload.length dict ++ bs)
          modCore s1 core fun c => { c with
            amHeld := c.amHeld ++ [(p, m.ph)],
            amQ := c.amQ ++ [⟨p, type, bitF v 58 2, bitF v 56 2, v &&& 0x3FFFFFFFFFC#64, plen, (amSrc s m).1 % 2 ^ 25, m.ph⟩] }
  | _ => s

/-- An active message reaches its destination NI, which dispatches it, unless its router diverts it (R116, R343). -/
def execActiveMessage (i : Nat) (s : State) : Out :=
  match arrives s i with
  | none => .next s
  | some m =>
    match m.body, m.dst with
    | .activeMsg _ _ _ _ _ _, .ni core => if (coreAt s core).divert then .next s else .next (amDispatch (dropMsg s i) m core)
    | _, _ => .next s

/-- A refusal raises its cause at the sender's service slot (R116). -/
def execAmRefusal (i : Nat) (s : State) : Out :=
  match arrives s i with
  | none => .next s
  | some m =>
    match m.body, m.dst with
    | .amRefusal cause type plen off dst, .ni core =>
      .next (raiseEvent (dropMsg s i) core cause (nw (dst * 2 ^ 36 + off * 2 ^ 17 + plen * 2 ^ 8 + type)))
    | _, _ => .next s

/-- A slot of a class that waits for work and may take a handler or a baton of an ASID (R116, R153, R340); a handler runs with the slot's
own ASID. -/
def waitingSlot (s : State) (core cls : Nat) (asid : Option Nat) : Option Nat :=
  let c := coreAt s core
  (rangeFrom (core * 16) 16).find? fun k =>
    decide ((slotAt s k).st = .waiting) && !(slotAt s k).sws && decide (slotClass s k = cls)
      && !(decide (slotNo k = 15) && xformOn s core)
      && !(c.divert && decide (asid.getD (slotAt s k).asid = bitF (c.creg 0x1C9) 0 12))

/-- The queued message that starts: highest PRIO first, then the oldest, among those with a free slot that no baton waits for. -/
def nextHandler (s : State) (core : Nat) : Option (AmEnt × Nat) :=
  let c := coreAt s core
  let es := c.amQ.filterMap fun q =>
    if batonWaits c q.cls then none else (waitingSlot s core q.cls none).map fun k => (q, k)
  let top := (es.map fun e => e.1.prio).foldl Nat.max 0
  es.find? fun e => decide (e.1.prio = top)

/-- A queued message starts its handler (R116). -/
def execAmHandlerStart (core : Nat) (s : State) : Out :=
  match nextHandler s core with
  | none => .next s
  | some (q, k) =>
    let base := bitF ((coreAt s core).creg 0x160) 9 10 * 512
    let (tid, s) := takeFresh (touchPhase s q.ph)
    let s := modCore s core fun c => { c with amQ := c.amQ.erase q }
    .next (modSlot s k fun x =>
      { ((((x.setReg 3 (nw (base + 512 * q.slot + 16))).setReg 4 (nw q.plen)).setReg 5 (nw q.src)).setReg 6 (nw q.type)).dropIssue with
        pc := q.pc, mode := .user, st := .ready, tok := false, hnd := some q.slot, skip := 0, tid := tid })

/-- The phase of the message in a ring slot. -/
def ringPhase (c : Core) (p : Nat) : Nat := ((c.amHeld.find? fun h => decide (h.1 = p)).map Prod.snd).getD 0

/-- Ends a handler: its ring slot is free, and the thread waits for work (R117, R322). -/
def execMend (s : State) : Out :=
  .next (finish s s.cur (match (slotAt s s.cur).hnd with
    | none => .trap 0x3B 0#64
    | some p =>
      let s1 := touchPhase s (ringPhase (coreAt s (coreOf s.cur)) p)
      .left (modSlot (modCore s1 (coreOf s.cur) fun c => { c with amHeld := c.amHeld.filter fun h => decide (h.1 ≠ p) }) s.cur
        fun x => { enterWfw x with hnd := none })))

/-! Baton passes (R150 to R154). -/

/-- Moves the thread to the home core of an address (R154). -/
def execHop (a : GReg) (t : Bool) (s : State) : Out :=
  .next (withOps s [a] none false fun s vs =>
    match ptrAddr s s.cur (val vs 0) 1 {} with
    | .trap c v => .trap c v
    | .walk u => .park u
    | .ok la pa _ =>
      if (slotAt s s.cur).mode = .supervisor then refusePass s s.cur 7 pa
      else match lmCore s pa with
        | none => .trap 0x10 (nw la)
        | some c =>
          if c = coreOf s.cur then .done (modSlot s s.cur fun x => x.takeIf t a.toNat)
          else startPass s s.cur pa ((slotAt s s.cur).pc + 4#64) fun x => x.takeIf t a.toNat)

/-- A core installs a baton, queues it, or refuses it (R153); each is answered (R152). -/
def batonDispatch (s : State) (m : Msg) (core : Nat) : State :=
  match m.body with
  | .baton ctx hops =>
    let c := coreAt s core
    let cls := ctxClass ctx
    match (if batonWaits c cls then none else waitingSlot s core cls (some (ctxAsid ctx))) with
    | some k => sendMsg (tellMoved (installCtx s k ctx hops) k) (replyTo m (.batonAnswer true))
    | none =>
      if c.hopQ.length < 8 then
        sendMsg (modCore s core fun c => { c with hopQ := c.hopQ ++ [⟨ctx, hops, cls⟩] }) (replyTo m (.batonAnswer true))
      else sendMsg (modCore s core fun c => c.setCreg 0x106 (addF (c.creg 0x106) 32 32 1)) (replyTo m (.batonAnswer false))
  | _ => s

/-- A baton reaches its destination, unless its router diverts it (R153, R343). -/
def execBatonPass (i : Nat) (s : State) : Out :=
  match arrives s i with
  | none => .next s
  | some m =>
    match m.body, m.dst with
    | .baton _ _, .ni core => if (coreAt s core).divert then .next s else .next (batonDispatch (dropMsg s i) m core)
    | _, _ => .next s

/-- A queued baton takes a freed slot of its class, oldest first (R153). -/
def execBatonInstall (core : Nat) (s : State) : Out :=
  match (coreAt s core).hopQ.findSome? fun b => (waitingSlot s core b.cls (some (ctxAsid b.ctx))).map fun k => (b, k) with
  | none => .next s
  | some (b, k) => .next (tellMoved (installCtx (modCore s core fun c => { c with hopQ := c.hopQ.erase b }) k b.ctx b.hops) k)

/-- The destination's answer: the source slot waits for work, or a re-send is armed; at LIMIT refusals it traps 0x20 (R152). -/
def execBatonAnswer (i : Nat) (s : State) : Out :=
  match arrives s i with
  | none => .next s
  | some m =>
    match m.body, m.dst, (slotAt s m.who).baton with
    | .batonAnswer ok, .ni core, some b =>
      let s := dropMsg s i
      let free (s : State) : State := modCore s core fun c => setReq c m.tag none
      if ok then .next (free (modSlot s m.who fun x => { (enterWfw x).dropIssue with baton := none, unit := none, cancel := none }))
      else
        let cfg := (coreAt s core).creg 0x105
        if bitF cfg 0 8 ≤ b.tries + 1 then
          let s := free (modSlot s m.who fun x => { x.setCreg 0x0D0 (setF (x.creg 0x0D0) 0 8 1) with baton := none })
          .next (trapNow s m.who 0x20 (nw b.pa))
        else
          .next (modSlot s m.who fun x => { x with
            baton := some { b with tries := b.tries + 1, sent := false, due := some (s.time + bitF cfg 16 16) } })
    | _, _, _ => .next s

/-- After BACKOFF the source sends its baton again (R152). -/
def execBatonResend (k : Nat) (s : State) : Out :=
  match (slotAt s k).baton with
  | none => .next s
  | some b =>
    match b.due, (slotReqs (coreAt s (coreOf k)) k).find? fun r => match r.2.msg.body with
        | .baton _ _ => true
        | _ => false with
    | some n, some r =>
      if s.time < n then .next s
      else .next (modSlot (niPost s (coreOf k) r.2.msg) k fun x => { x with baton := some { b with sent := true, due := none } })
    | _, _ => .next s

end Sys2Proof.Machine
end

