-- ==== Sys2Proof/Machine/Network.lean ====
section
/-! DEFINITION. Messages at their homes and at their requesters: loads, posted stores, atomics, synchronising requests, read-only fills and
directories, withdrawals, and the network's machine checks (R101 to R112, R122, R141 to R149, R341, R363, R373, R374). -/

namespace Sys2Proof.Machine

/-! Loads (R106, R141). -/

/-- A home's refusal as its requester sees it: another package sees 0x61 (R85, R108, R141). -/
def Deny.seenBy (d : Deny) : Agent → Deny
  | .link _ => .remote
  | _ => d

/-- The address that a refused load-and-reply access reports: the logical address for 0x1B and 0x1D, else the physical one (R85, R141). -/
def denyReply (m : Msg) (d : Deny) (pa : Nat) (acc : Acc) : Reply :=
  .poison (d.seenBy m.src).cause (match d with
    | .poolFull | .snapConflict => acc.la
    | _ => pa)

/-- The line of a tier access is absent from its SC: the access waits for a fill. -/
def mustFill (s : State) (pa : Nat) : Bool := match placeOf s pa with
  | .tier a => !inPool s a && scAbsent s a
  | _ => false

/-! TILE forms at the CSP (R159, R160). -/

/-- The lowest-numbered declared tile, other than `n`, that a range overlaps (R160). -/
def tileOverlap (c : Cluster) (n off sz : Nat) : Option Nat :=
  (rangeFrom 0 64).find? fun i => decide (i ≠ n) && decide (0 < (tileAt c i).overlap off sz)

/-- `tdecl` at the CSP: its trap, or the cluster after it. -/
def tileDeclare (c : Cluster) (n : Nat) (v : Word) : Except (Nat × Nat) Cluster :=
  let e := tileAt c n
  let off := bitF v 0 21
  let sz := bitF v 22 22
  if e.v ∧ e.st ≠ 0 then .error (0x35, n)
  else match (if sz = 0 then none else tileOverlap c n off sz) with
    | some w => .error (0x35, w * 256 + n)
    | none =>
      if sz = 0 then .ok (if e.v then setTile c n { e with v := false } else c)
      else .ok (setTile c n ⟨true, off, sz, 0, 0, 0, false, 0, false⟩)

/-- `tarm` at the CSP. -/
def tileArm (c : Cluster) (n : Nat) (v : Word) : Except (Nat × Nat) Cluster :=
  let e := tileAt c n
  let k := bitF v 0 32
  if !e.v then .error (0x34, n)
  else if e.st ≠ 0 then .error (0x35, n)
  else if k = 0 then .ok (setTile c n { e with exp := 0, ovr := false, ph := !e.ph, st := 2 })
  else .ok (setTile c n { e with exp := k, left := k, ovr := false, st := 1 })

/-- A TILE form at the CSP: its trap as cause and tval, or the cluster after it and whether its condition holds (R159, R160). -/
def tileDo (c : Cluster) (form n : Nat) (v : Word) : Except (Nat × Nat) (Cluster × Bool) :=
  let e := tileAt c n
  if form = 0 then (tileDeclare c n v).map fun c => (c, true)
  else if form = 1 then (tileArm c n v).map fun c => (c, true)
  else if !e.v then .error (0x34, n)
  else if form = 2 then .ok (c, decide (e.st = 2 ∨ e.st = 3) && decide (e.ph = bitB v 0))
  else if e.st = 1 then .error (0x35, n)
  else if e.st = 3 then .ok (c, false)
  else .ok (if e.st = 2 then setTile c n { e with st := 0 } else c, true)

/-- A CSP performs a TILE form and answers: 0 when it is performed, 1 while its condition does not hold, or its trap (R160). -/
def tilePerform (s : State) (m : Msg) (cl form n : Nat) (v : Word) : State :=
  match tileDo (clusterAt s cl) form n v with
  | .error (c, a) => sendMsg s (replyTo m (.loadReply (.poison c a)))
  | .ok (c, ok) => sendMsg (setCluster s cl c) (replyTo m (.loadReply (.value (natLE 8 (!ok).toNat))))

/-- A home performs a load, reads a level record for `lvlcnt` and `phopen`, or performs a TILE form, before a write that its CSP performs in the same
cycle, and replies (R106, R158, R160, R319, R321). -/
def homeLoad (i : Nat) (s : State) : Out :=
  match arrives s i with
  | none => .next s
  | some m =>
    match m.body, m.dst with
    | .loadReq _ _ _, .link _ | .loadReq _ _ _, .host _ => .next s
    | .loadReq pa n acc, _ =>
      if mustFill s pa then .next (startFill s pa acc)
      else match homeRead (dropMsg s i) pa n acc with
        | .ok s1 bs => .next (sendMsg s1 (replyTo m (.loadReply (.value bs))))
        | .poison s1 c a => .next (sendMsg s1 (replyTo m (.loadReply (.poison c a))))
        | .deny s1 d => .next (sendMsg s1 (replyTo m (.loadReply (denyReply m d pa acc))))
        | .wait _ => .next s
    | .levelRead id user asid, _ =>
      let (s1, r, p) := recRead (dropMsg s i) (agentTower m.dst) id
      .next (sendMsg s1 (replyTo m (.loadReply (
        if p ≠ 0 then .poison p (recPoisonPa s1 (agentTower m.dst) id)
        else if asidBad r user asid then .poison 0x11 id else .value (wordLE 8 (val r 0))))))
    | .tileReq form n v, .csp cl => .next (if (clusterAt s cl).wrote = s.time + 1 then s else tilePerform (dropMsg s i) m cl form n v)
    | _, _ => .next s

/-- A reply reaches its requester (R106). -/
def execLoadReply (i : Nat) (s : State) : Out :=
  match arrives s i with
  | none => .next s
  | some m =>
    match m.body, m.dst with
    | .loadReply v, .ni core => .next (deliver (dropMsg s i) core m.tag v)
    | _, _ => .next s

/-! Posted stores (R107, R108). -/

/-- A posted full/empty form at its LM home (R143, R144). -/
def postedSync (s : State) (m : Msg) (f : SyncForm) (pa : Nat) (data : Word) : HRes :=
  match placeOf s pa with
  | .lm cl lc off => match lmAt s cl lc off with
    | .here c o _ => match syncPerform s c o f data (m.src, m.who) with
      | some (s1, _) =>
        let ack := replyTo m .storeAck
        .ok (service (if syncWrites f then dirWrite s1 c o (some ack) else sendMsg s1 ack) c o) []
      | none => .deny s .host
    | .wait => .wait s
    | .off => .deny s .off
    | .retired => .deny s .retired
  | _ => .deny s .host

/-- A home performs a posted store, or refuses it whole (R107, R108). -/
def execPostedStore (i : Nat) (s : State) : Out :=
  match arrives s i with
  | none => .next s
  | some m =>
    match m.body, m.dst with
    | .postedStore _ _ _ _, .link _ | .postedStore _ _ _ _, .host _ => .next s
    | .postedStore pa data form acc, _ =>
      if form.isNone ∧ mustFill s pa then .next (startFill s pa acc)
      else
        let s0 := dropMsg s i
        let r := match form with
          | none => homeWrite s0 pa data acc (some (replyTo m .storeAck))
          | some f => postedSync s0 m f pa (leWord data)
        match r with
        | .ok s1 _ => .next s1
        | .poison s1 _ _ => .next (sendMsg s1 (replyTo m (.storeRefusal 4)))
        | .deny s1 d => .next (sendMsg s1 (replyTo m (.storeRefusal (d.seenBy m.src).reason)))
        | .wait _ => .next s
    | _, _ => .next s

/-- An acknowledgement frees its journal entry, unless the entry is held refused (R107, R374). -/
def execStoreAck (i : Nat) (s : State) : Out :=
  match arrives s i with
  | none => .next s
  | some m =>
    match m.body, m.dst with
    | .storeAck, .ni core =>
      .next (modCore (dropMsg s i) core fun c => if ((jAt c m.tag).map JEntry.refused).getD false then c else setJ c m.tag none)
    | _, _ => .next s

/-- A journal entry is held refused, with the reason. -/
def refuseJ (s : State) (core e reason : Nat) : State :=
  modCore s core fun c => setJ c e ((jAt c e).map fun j => { j with refused := true, reason := reason })

/-- The tval of a refusal (R108). -/
def refusalTval (e k reason : Nat) : Word := nw (e + slotNo k * 2 ^ 8 + reason * 2 ^ 16)

/-- A refusal holds its journal entry and raises its cause (R108). -/
def execStoreRefusal (i : Nat) (s : State) : Out :=
  match arrives s i with
  | none => .next s
  | some m =>
    match m.body, m.dst with
    | .storeRefusal reason, .ni core =>
      .next (raiseEvent (refuseJ (dropMsg s i) core m.tag reason) core (reasonCause reason) (refusalTval m.tag m.who reason))
    | _, _ => .next s

/-! Atomics (R148, R149). -/

/-- A home performs an atomic or `cas` as one step and replies (R148). -/
def execAtomicRequest (i : Nat) (s : State) : Out :=
  match arrives s i with
  | none => .next s
  | some m =>
    match m.body, m.dst with
    | .atomicReq _ _ _ _ _ _, .link _ => .next s
    | .atomicReq op pa n b cmp acc, _ =>
      if mustFill s pa then .next (startFill s pa acc)
      else match homeRmw (dropMsg s i) op pa n b cmp acc (fun r => some (replyTo m (.atomicReply r))) with
        | .ok s1 _ => .next s1
        | .poison s1 c a => .next (sendMsg s1 (replyTo m (.atomicReply (.poison c a))))
        | .deny s1 d => .next (sendMsg s1 (replyTo m (.atomicReply (denyReply m d pa acc))))
        | .wait _ => .next s
    | _, _ => .next s

/-- The old value reaches the destination (R148). -/
def execAtomicReply (i : Nat) (s : State) : Out :=
  match arrives s i with
  | none => .next s
  | some m =>
    match m.body, m.dst with
    | .atomicReply v, .ni core => .next (deliver (dropMsg s i) core m.tag v)
    | _, _ => .next s

/-! Synchronising requests (R143 to R147). -/

/-- A remote full/empty request is performed, held in the waiter table, or answered with a retry (R144). -/
def execSyncRequest (i : Nat) (s : State) : Out :=
  match arrives s i with
  | none => .next s
  | some m =>
    match m.body, m.dst with
    | .syncReq _ _ _ _, .link _ => .next s
    | .syncReq f pa data _, _ =>
      let s0 := dropMsg s i
      match placeOf s pa with
      | .lm cl lc off => match lmAt s cl lc off with
        | .here c o _ =>
          match syncPerform s0 c o f data (m.src, m.who) with
          | some (s1, r) =>
            let reply := replyTo m (.syncReply r)
            .next (service (if syncWrites f then dirWrite s1 c o (some reply) else sendMsg s1 reply) c o)
          | none =>
            if (coreAt s0 c).waiters.length < 16 then
              .next (service (modCore s0 c fun x => { x with waiters := x.waiters ++ [⟨o, some m⟩] }) c o)
            else .next (sendMsg (modCore s0 c fun x => x.setCreg 0x104 (addF (x.creg 0x104) 32 32 1)) (replyTo m .syncRetry))
        | .wait => .next s
        | .off => .next (sendMsg s0 (replyTo m (.syncReply (.poison (Deny.off.seenBy m.src).cause pa))))
        | .retired => .next (sendMsg s0 (replyTo m (.syncReply (.poison (Deny.retired.seenBy m.src).cause pa))))
      | _ => .next (sendMsg s0 (replyTo m (.syncReply (.poison 0x61 pa))))
    | _, _ => .next s

/-- A synchronising reply writes its destination (R143). -/
def execSyncReply (i : Nat) (s : State) : Out :=
  match arrives s i with
  | none => .next s
  | some m =>
    match m.body, m.dst with
    | .syncReply v, .ni core => .next (deliver (dropMsg s i) core m.tag v)
    | _, _ => .next s

/-- What a request names: a word's physical address, or a level id (R138, R342). -/
def reqName (r : Req) : Nat := match r.msg.body with
  | .syncReq _ pa _ _ => pa
  | .levelWait _ id _ _ => id
  | _ => 0

/-- The physical address that a request which is turned away for good reports: of the word, or of the level record (R145, R320).
DEDUCED, unsafe (log entry 27). -/
def retryPa (s : State) (core : Nat) (r : Req) : Nat := match r.msg.body with
  | .levelWait _ id _ _ => lvlPa s (towerOf (clusterOf core)) id
  | _ => reqName r

/-- The record of a withdrawn request (R341, R342). -/
def recordOf (r : Req) : ReqRec :=
  let kind : Nat := match r.sync with
    | some .ldfe => 0 | some .ldff => 1 | some .fget => 2 | some .stef => 3 | some .lvlwait => 4 | _ => 5
  let data : Word := match r.msg.body with
    | .syncReq _ _ d _ => d
    | _ => 0#64
  ⟨kind, r.reg, reqName r, if kind = 3 then data else 0#64⟩

/-- A request becomes a record: its register stays empty and is no longer pending (R341). -/
def withdrawReq (s : State) (core t : Nat) : State :=
  match reqAt (coreAt s core) t with
  | none => s
  | some r => modSlot (freeReq s core t) r.slot fun x => { x.unpend r.reg with recs := x.recs ++ [recordOf r] }

/-- A retry arms the backoff, or poisons the destination with 0x30 at LIMIT attempts (R145). -/
def execSyncRetry (i : Nat) (s : State) : Out :=
  match arrives s i with
  | none => .next s
  | some m =>
    match m.body, m.dst with
    | .syncRetry, .ni core =>
      let s := dropMsg s i
      match reqAt (coreAt s core) m.tag with
      | none => .next s
      | some r =>
        let cfg := (coreAt s core).creg 0x102
        if r.withdrawn then .next (withdrawReq s core m.tag)
        else if bitF cfg 0 8 ≤ r.tries then .next (deliver s core m.tag (.poison 0x30 (retryPa s core r)))
        else .next (modCore s core fun c => setReq c m.tag (some { r with due := some (s.time + bitF cfg 16 16) }))
    | _, _ => .next s

/-- After BACKOFF the requester sends the request again, as a new arrival (R145). -/
def execFeRetryResend (core : Nat) (tag : Nat) (s : State) : Out :=
  match reqAt (coreAt s core) tag with
  | none => .next s
  | some r =>
    match r.due with
    | none => .next s
    | some n =>
      if s.time < n then .next s
      else .next (niPost (modCore s core fun c => setReq c tag (some { r with due := none, tries := r.tries + 1 })) core r.msg)

/-- A home, a donor of its cluster included, removes a waiting request and answers, or answers nothing when it has none (R140, R341). -/
def execWithdrawal (i : Nat) (s : State) : Out :=
  match arrives s i with
  | none => .next s
  | some m =>
    let same (w : Msg) : Bool := decide (w.src = m.src) && decide (w.tag = m.tag) && decide (w.who = m.who)
    match m.body, m.dst with
    | .withdraw _ _, .ni k =>
      let s := dropMsg s i
      let held (core : Nat) : Option (Nat × Waiter) := ((coreAt s core).waiters.find? fun w => w.req.any same).map fun w => (core, w)
      match ((rangeFrom 0 34).map (coreIn (clusterOf k))).findSome? held with
      | some (core, w) =>
        .next (sendMsg (modCore s core fun c => { c with waiters := c.waiters.erase w }) (replyTo m .withdrawn))
      | none => .next s
    | .withdraw _ _, .sc bank =>
      let s := dropMsg s i
      let w := towerAt s (bank % 8)
      match w.lvlw.find? fun x => same x.msg with
      | some x => .next (sendMsg (setTower s (bank % 8) { w with lvlw := w.lvlw.erase x }) (replyTo m .withdrawn))
      | none => .next s
    | _, _ => .next s

/-- A withdrawn request turns into a switch record (R341). -/
def execWithdrawnAnswer (i : Nat) (s : State) : Out :=
  match arrives s i with
  | none => .next s
  | some m =>
    match m.body, m.dst with
    | .withdrawn, .ni core => .next (withdrawReq (dropMsg s i) core m.tag)
    | _, _ => .next s

/-! The read-only cache and the directories (R110 to R113). -/

/-- Directory entries in use. -/
def dirUsed (c : Core) : Nat := c.dir.length

/-- Starts the eviction of an entry that has no acknowledgement out, the first without O, else the first with it, whose overflow sharers the
handler is told of as by a write (R111, R112). DESIGN CHOICE, unsafe (log entry 100). -/
def dirEvict (s : State) (core : Nat) : State :=
  let idle (ovf : Bool) (e : Nat × Option DirEnt) : Bool := match e.2 with
    | some d => decide (d.acks = []) && !d.needRelease && !d.evict && decide (d.ovf = ovf)
    | none => false
  match ((coreAt s core).dir.find? (idle false)).or ((coreAt s core).dir.find? (idle true)) with
  | some (line, some d) =>
    let s1 := d.sharers.foldl (sendInval core line) s
    let s2 := if d.ovf then pushOvf s1 core line else s1
    dirFree (modCore s2 core fun c => setDir c line (some { d with acks := d.sharers, evict := true, needRelease := d.ovf })) core line
  | _ => s

/-- An LM home answers a read-only fill and records the sharer; a line with invalidates of a write out holds it until they are acknowledged
(R111, R112). DESIGN CHOICE, unsafe (log entry 98). -/
def execRoFillRequest (i : Nat) (s : State) : Out :=
  match arrives s i with
  | none => .next s
  | some m =>
    match m.body, m.src with
    | .fillReq pa _, .ni who =>
      match placeOf s pa with
      | .lm cl lc off => match lmAt s cl lc off with
        | .wait => .next s
        | .off => .next (sendMsg (dropMsg s i) (replyTo m (.fillReply (pa / 64) (.poison (Deny.off.seenBy m.src).cause pa) false)))
        | .retired => .next (sendMsg (dropMsg s i) (replyTo m (.fillReply (pa / 64) (.poison (Deny.retired.seenBy m.src).cause pa) false)))
        | .here c o _ =>
          let line := o / 64
          let s0 := dropMsg s i
          match lmRead s0 c (64 * line) 64 with
          | .poison s1 k _ => .next (sendMsg s1 (replyTo m (.fillReply (pa / 64) (.poison k pa) false)))
          | .deny _ _ | .wait _ => .next s
          | .ok s1 bs =>
            let answer (s : State) (cache : Bool) : Out := .next (sendMsg s (replyTo m (.fillReply (pa / 64) (.value bs) cache)))
            match dirAt (coreAt s1 c) line with
            | none =>
              if dirUsed (coreAt s1 c) < 512 then
                answer (modCore s1 c fun x => setDir x line (some ⟨[who], false, [], [], false, false⟩)) true
              else .next (if (coreAt s c).dir.any (fun e => (e.2.map DirEnt.evict).getD false) then s else dirEvict s c)
            | some e =>
              if e.needRelease then answer s1 false
              else if e.acks ≠ [] then .next s
              else if e.sharers.contains who then answer s1 true
              else if e.sharers.length < 3 then
                answer (modCore s1 c fun x => setDir x line (some { e with sharers := e.sharers ++ [who] })) true
              else if 8 ≤ (coreAt s1 c).ovfQ.length then answer s1 false
              else
                let s2 := modCore s1 c fun x =>
                  setDir { x with ovfQ := x.ovfQ ++ [⟨false, who, line⟩] } line (some { e with ovf := true })
                answer (raiseEvent s2 c 0x1F (nw (64 * line))) true
      | _ => .next s
    | _, _ => .next s

/-- Installs a line; a full cache replaces the first of its lines (R110). -/
def rocInstall (c : Core) (line : Nat) (bs : List Byte) : Core :=
  { c with roc := SMap.set (fun _ => none) (if c.roc.length < 128 then c.roc else c.roc.drop 1) line (some bs) }

/-- A fill reply installs its line, unless it is uncached or the line was invalidated meanwhile, and writes the waiting destinations (R112,
R113, R281). -/
def execRoFillReply (i : Nat) (s : State) : Out :=
  match arrives s i with
  | none => .next s
  | some m =>
    match m.body, m.dst with
    | .fillReply line v cache, .ni core =>
      let keep := cache && !((reqAt (coreAt s core) m.tag).map Req.withdrawn).getD false
      let s := deliver (dropMsg s i) core m.tag v
      match v with
      | .value bs => .next (if keep then modCore s core fun c => rocInstall c line bs else s)
      | .poison _ _ => .next s
    | _, _ => .next s

/-- A cached line is held at LM line `line` of core `home`. -/
def heldAt (s : State) (home line key : Nat) : Bool :=
  match placeOf s (64 * key) with
  | .lm cl lc off => match lmAt s cl lc off with
    | .here c o _ => decide (c = home) && decide (o / 64 = line)
    | .wait | .off | .retired => decide (lcoreKey s cl lc = home) && decide (off / 64 = line)
  | _ => false

/-- A cache drops a line, if it holds it, and acknowledges; a fill of it in flight does not install what may be older (R111, R281). -/
def execDirInvalidate (i : Nat) (s : State) : Out :=
  match arrives s i with
  | none => .next s
  | some m =>
    match m.body, m.src, m.dst with
    | .dirInvalidate line, .ni home, .ni core =>
      let s := dropMsg s i
      .next (sendMsg (modCore s core fun c => { c.staleFills (heldAt s home line) with roc := c.roc.filter fun e => !heldAt s home line e.1 })
        (replyTo m (.invalidateAck line)))
    | _, _, _ => .next s

/-- The releases asked for by the handler are carried out once the invalidates it sent of their lines are acknowledged (R112, R122). One of a
line without a write held leaves its entry, unless nothing waits there and no invalidate is out: then the entry is freed.
DESIGN CHOICE, unsafe (log entry 99). -/
def dirReleaseStep (s : State) (core : Nat) : State :=
  (coreAt s core).dirRelease.foldl (fun s line =>
    if (coreAt s core).dirBusy.any fun b => decide (b.2 = line) then s
    else
      dirFree (modCore s core fun c => match dirAt c line with
        | some e => setDir { c with dirRelease := c.dirRelease.erase line } line (some { e with needRelease := false })
        | none => { c with dirRelease := c.dirRelease.erase line }) core line) s

/-- An acknowledgement lets the home free the entry and release the writer (R111, R112). -/
def execInvalidateAck (i : Nat) (s : State) : Out :=
  match arrives s i with
  | none => .next s
  | some m =>
    match m.body, m.src, m.dst with
    | .invalidateAck line, .ni who, .ni core =>
      let s := dropMsg s i
      match dirAt (coreAt s core) line with
      | some e =>
        if e.acks.contains who then
          .next (servePwr (dirFree (modCore s core fun c => setDir c line (some { e with acks := e.acks.erase who })) core line) core)
        else .next (servePwr (dirReleaseStep (modCore s core fun c => { c with dirBusy := c.dirBusy.erase (who, line) }) core) core)
      | none => .next (servePwr (dirReleaseStep (modCore s core fun c => { c with dirBusy := c.dirBusy.erase (who, line) }) core) core)
    | _, _, _ => .next s

/-! Hops and parity (R102, R363, R373, R374). -/

/-- A flit that fails its hop CRC is replayed (R102, R123). -/
def execNetHopReplay (tower : Nat) (n : Nat) (s : State) : Out :=
  .next (modTower s tower fun w => w.setCreg 0x388 (addF (w.creg 0x388) 0 32 n))

/-- The cluster at the other end of a hop inside a tower. -/
def hopPeer (cl dir : Nat) : Option Nat :=
  let x := clusterNo cl % 16
  let y := clusterNo cl / 16
  if dir = 0 then (if x < 15 then some (cl + 1) else none)
  else if dir = 1 then (if 0 < x then some (cl - 1) else none)
  else if dir = 2 then (if y < 9 then some (cl + 16) else none)
  else if dir = 3 then (if 0 < y then some (cl - 16) else none)
  else none

/-- The routers to which a router's bridge links lead: on an edge of its tower that faces another tower, the facing one (R96). -/
def bridgePeers (cl : Nat) : List Nat :=
  let t := towerOf cl
  let x := clusterNo cl % 16
  let y := clusterNo cl / 16
  (rangeFrom 0 8).filterMap fun u =>
    let place := if u / 4 = t / 4 then y else x
    if ((u / 4 = t / 4 ∧ (u = t + 1 ∨ t = u + 1)) ∨ (u / 4 ≠ t / 4 ∧ u % 4 = t % 4)) ∧ edgeRouter t u place = cl
    then some (edgeRouter u t place)
    else none

/-- The clusters at the far ends of hop `dir` of a router: the neighbour, or the facing routers for direction 4; empty where no link is
(R96, R373). -/
def hopPeers (cl dir : Nat) : List Nat := if dir = 4 then bridgePeers cl else (hopPeer cl dir).toList

/-- A hop fails: its traffic waits, and each cluster that it joins raises 0x7A (R373, R375). -/
def execNetHopFail (cluster : Nat) (dir : Nat) (s : State) : Out :=
  if s.modul.hops.contains (cluster, dir) ∨ hopPeers cluster dir = [] then .next s
  else
    let v := nw (towerOf cluster + clusterNo cluster * 2 ^ 4 + dir % 8 * 2 ^ 12)
    let s := modModul s fun m => { m with hops := m.hops ++ [(cluster, dir)] }
    let s := (cluster :: (hopPeers cluster dir).eraseDups).foldl (fun s c => raiseEvent s (lcoreKey s c 0) 0x7A v) s
    .next (advise s 7 (towerOf cluster) (clusterNo cluster))

/-- The physical address that the request behind a message named, a level record by its own: of a reply, that of the request under its
tag (R138). -/
def lostName (s : State) (m : Msg) : Nat :=
  let name (b : Body) : Option Nat := match b with
    | .levelWait _ id _ _ | .levelRead id _ _ | .phaseClose id _ _ | .cancelSet id _ _ => some (recPoisonPa s (agentTower m.dst) id)
    | .launchReq l _ => some (recPoisonPa s (agentTower m.dst) (luLid l))
    | .ctlAccess _ blk n _ => some (ctlPa blk n)
    | b => reqPa b
  match name m.body, m.dst with
  | some a, _ => a
  | none, .ni core => ((reqAt (coreAt s core) m.tag).bind fun r => name r.msg.body).getD 0
  | none, _ => 0

/-- What the requester of a lost request or answer learns: poison or an engine error of a cause, or a refused store (R373, R382, R384). -/
def lostAnswer (s : State) (cause reason : Nat) (m : Msg) : Option Body :=
  let pa := lostName s m
  match m.body with
  | .loadReq _ _ _ | .loadReply _ | .levelRead _ _ _ | .phaseClose _ _ _ | .cancelSet _ _ _ | .launchReq _ _ | .launchReply _ | .ctlPut _ _ _
  | .tileReq _ _ _ | .unitReq _ _ | .cancelAck => some (.loadReply (.poison cause pa))
  | .atomicReq _ _ _ _ _ _ | .atomicReply _ => some (.atomicReply (.poison cause pa))
  | .syncReq _ _ _ _ | .syncReply _ | .syncRetry | .levelWait _ _ _ _ => some (.syncReply (.poison cause pa))
  | .fillReq pa _ => some (.fillReply (pa / 64) (.poison cause pa) false)
  | .fillReply line _ _ => some (.fillReply line (.poison cause (64 * line)) false)
  | .postedStore _ _ _ _ | .storeAck | .storeRefusal _ => some (.storeRefusal reason)
  | .ctlAccess store _ _ _ => some (if store then .storeRefusal reason else .loadReply (.poison cause pa))
  | .engRead _ _ _ ref _ _ | .engReadReply ref _ => some (.engReadReply { ref with part := 0 } (.poison cause 0))
  | .engWrite _ _ ref _ _ _ | .engWriteAck ref _ => some (.engWriteAck { ref with part := 0 } (some cause))
  | _ => none

/-- What the requester of a message with a parity error learns (R373). -/
def parityAnswer (s : State) (m : Msg) : Option Body := lostAnswer s 0x63 9 m

/-- A parity error in an NI buffer discards the message: entry `i` of the core's send buffers, or, beyond those, message in flight
`i` − their number, which has reached the core's NI (R373). -/
def execNiBufferParity (core : Nat) (i : Nat) (s : State) : Out :=
  let ni := (coreAt s core).ni
  let report (s : State) (m : Msg) : State := raiseEvent s core 0x63 (nw (kindOf m.body % 32 + nodeOf s m.src * 2 ^ 5))
  match ni[i]? with
  | some m =>
    let s := report (modCore (touchPhase s m.ph) core fun c => { c with ni := dropAt c.ni i }) m
    .next (match parityAnswer s m with
      | some b => sendMsg s (replyTo m b)
      | none => s)
  | none =>
    match arrives s (i - ni.length) with
    | none => .next s
    | some m =>
      if m.dst ≠ .ni core then .next s
      else
        let s := report (dropMsg s (i - ni.length)) m
        .next (match parityAnswer s m with
          | some b => sendMsg s (if m.body.response then { m with body := b } else replyTo m b)
          | none => s)

/-- A command leaves its slot's list of commands that have not ended. -/
def endCmd (s : State) (k id : Nat) : State := modSlot s k fun x => { x with cmds := x.cmds.filter fun c => decide (c.id ≠ id) }

/-- A parity error in a queue entry: entry `i` of the XFE queue (unit 0), the VE queue (1), the FIFO of stream i mod 4 of slot i div 4
(2), or journal entry `i` (3) (R374). -/
def execQueueParity (core : Nat) (unit : Nat) (i : Nat) (s : State) : Out :=
  let c := coreAt s core
  let report (s : State) (k : Nat) : Out := .next (raiseEvent s core 0x79 (nw (unit + slotNo k * 2 ^ 8)))
  if unit = 0 then
    match c.xq[i]? with
    | none => .next s
    | some x => if x.run.isSome then .next s else
      report (endCmd (modCore s core fun c => { c with xq := dropAt c.xq i }) x.iss.slot x.id) x.iss.slot
  else if unit = 1 then
    match c.vq[i]? with
    | none => .next s
    | some x => if x.run.isSome then .next s else
      report (endCmd (modCore s core fun c => { c with vq := dropAt c.vq i }) x.iss.slot x.id) x.iss.slot
  else if unit = 2 then
    let k := slotOf core (i / 4 % 16)
    let t := (slotAt s k).stream (i % 4)
    match t.fifo with
    | [] => .next s
    | _ :: es => report (modSlot s k fun x => x.setStream (i % 4) { t with fifo := ⟨poisonWord 0x79 0, true⟩ :: es }) k
  else if unit = 3 then
    match jAt c i with
    | none => .next s
    | some j => if j.refused then .next s else report (refuseJ s core i 9) j.slot
  else .next s

end Sys2Proof.Machine
end

