-- ==== Sys2Proof/Machine/Translate.lean ====
section
/-! DEFINITION. Table walks and the TLB at the memory port, translation for engines, flushing, and page migration (R56 to R72). -/

namespace Sys2Proof.Machine

/-! Walks (R57 to R60). -/

/-- The address-space entry that holds an ASID: pinned or not, and the root (R56). -/
def asEntry (c : Cluster) (asid : Nat) : Option (Bool × Nat) :=
  ((rangeFrom 0 8).find? fun n => bitB (c.creg (0x258 + 2 * n)) 31 && decide (bitF (c.creg (0x258 + 2 * n)) 0 12 = asid)).map fun n =>
    (bitB (c.creg (0x258 + 2 * n)) 16, bitF (c.creg (0x259 + 2 * n)) 5 51 * 32)

/-- The cause of a failed walk (R60); an ASID without an entry counts as pinned (R56). -/
def walkCause (c : Cluster) (asid : Nat) : Nat :=
  match asEntry c asid with
  | some (false, _) => 0x13
  | _ => 0x14

/-- Fields of a page table entry (R58). -/
def pteV (e : Word) : Bool := bitB e 0
def pteSz (e : Word) : Nat := bitF e 3 2
def pteAddr (e : Word) : Nat := bitF e 8 48 * 256
def pteMig (e : Word) : Nat := bitF e 57 2

/-- The logical bits below a level, the entries of its table, and the alignment of the table one level down (R57). -/
def lvlShift (l : Nat) : Nat := if l = 3 then 39 else if l = 2 then 30 else if l = 1 then 21 else 16
def lvlEntries (l : Nat) : Nat := if l = 3 then 4 else if l = 0 then 32 else 512
def nextAlign (l : Nat) : Nat := if l = 1 then 256 else 4096

/-- SZ is allowed at its level (R57, R59). -/
def szOk (l sz : Nat) : Bool :=
  if l = 3 then decide (sz = 0) else if l = 2 then decide (sz = 0 ∨ sz = 3) else if l = 1 then decide (sz = 0 ∨ sz = 2) else decide (sz = 1)

/-- What a walk's read of one entry gives: the level and table of its next entry, the walk's end, or a wait for the entry's home. -/
inductive WalkMove where
  | next (s : State) (at_ : Nat × Nat)
  | ended (s : State) (e : WalkEnd)
  | wait

/-- One entry as the walk finds it: a table pointer's address, a leaf, or a failure (R59). -/
inductive PteRes where
  | table (addr : Nat)
  | leaf
  | bad

/-- The tests of R59 on an entry of level `l`. -/
def checkPte (s : State) (pinned : Bool) (l : Nat) (e : Word) : PteRes :=
  if bitF e 59 5 ≠ 0 ∨ !pteV e ∨ !szOk l (pteSz e) ∨ !populatedAt s (pteAddr e) then .bad
  else if pteSz e = 0 then (if pteAddr e % nextAlign l ≠ 0 then .bad else .table (pteAddr e))
  else if pteMig e = 3 ∨ pteAddr e % 2 ^ lvlShift l ≠ 0 ∨ (pinned && !bitB e 56) then .bad
  else .leaf

/-- The read of the entry of level `l` in a table, performed at the entry's home (R57, R59). -/
def walkEntry (s : State) (pinned : Bool) (la l table : Nat) : WalkMove :=
  let pa := table + 8 * (la / 2 ^ lvlShift l % lvlEntries l)
  if !populatedAt s pa then .ended s .fail
  else match homeRead s pa 8 Acc.direct with
    | .poison s1 c _ => .ended s1 (.poison (if c = 0x1A then 0x19 else c))
    | .deny s1 _ => .ended s1 .fail
    | .wait _ => .wait
    | .ok s1 bs =>
      match checkPte s1 pinned l (leWord bs) with
      | .bad => .ended s1 .fail
      | .leaf => .ended s1 (.leaf pa l (leWord bs))
      | .table a => if l = 0 then .ended s1 .fail else .next s1 (l - 1, a)

/-- The next read of a walk; it starts at the root of its address space (R56, R57). -/
def walkNext (s : State) (cl : Nat) (w : Walk) : WalkMove :=
  match asEntry (clusterAt s cl) w.asid with
  | none => .ended s .fail
  | some (pinned, root) => walkEntry s pinned w.la (w.next.getD (3, root)).1 (w.next.getD (3, root)).2

/-- A whole walk at once, for an agent that walks while nothing else of the module acts (R356). -/
def walkAt (s : State) (cl asid la : Nat) : State × WalkEnd := go 4 s none
where
  go : Nat → State → Option (Nat × Nat) → State × WalkEnd
    | 0, s, _ => (s, .fail)
    | n + 1, s, at_ => match walkNext s cl ⟨.engine .launchAgent, asid, la, at_, none, none⟩ with
      | .next s1 a => go n s1 (some a)
      | .ended s1 e => (s1, e)
      | .wait => (s, .fail)

/-- The TLB entry of a leaf (R61); its frame is a local address (R54, R59). -/
def leafEntry (s : State) (asid la lvl : Nat) (e : Word) : TlbE :=
  ⟨asid, la / 2 ^ lvlShift lvl, lvlShift lvl, bitB e 1, bitB e 2, bitB e 6, bitB e 5, bitB e 7, localPa s (pteAddr e)⟩

/-- Adds an entry; a full TLB gives up its oldest (R61). DESIGN CHOICE, safe (log entry 79). -/
def tlbInsert (c : Cluster) (e : TlbE) : Cluster :=
  { c with tlb := (if c.tlb.length < 2048 then c.tlb else c.tlb.drop 1) ++ [e] }

/-- A failed walk counts, and so does one that met poison (R59, R65). -/
def walkFailed (s : State) (cl : Nat) : State := modCluster s cl fun c => c.setCreg 0x252 (addF (c.creg 0x252) 32 32 1)

/-- Replaces walk `i` of a port, or drops it. -/
def setWalk (s : State) (cl i : Nat) (w : Walk) : State := modCluster s cl fun c => { c with walks := c.walks.set i w }
def dropWalk (s : State) (cl i : Nat) : State := modCluster s cl fun c => { c with walks := dropAt c.walks i }

/-- A walk ends with a leaf: a translation builds its TLB entry, or waits while the leaf reads MIG = 2; `pmig` and `pmigsw` take the leaf
itself (R57, R59, R69). -/
def walkLeaf (s : State) (cl i : Nat) (w : Walk) (pa lvl : Nat) (e : Word) : State :=
  match w.who with
  | .page k => wake (setWalk s cl i { w with res := some (.leaf pa lvl e) }) k
  | .slot _ | .engine _ =>
    if pteMig e = 2 then setWalk s cl i { w with leaf := some (pa, lvl) }
    else
      let s1 := modCluster (dropWalk s cl i) cl fun c => tlbInsert c (leafEntry s w.asid w.la lvl e)
      match w.who with
      | .slot k => wake s1 k
      | .engine _ | .page _ => s1

/-- A walk fails or meets poison: a slot that still waits for it traps at its next turn; an engine, `pmig` or `pmigsw` takes the end up. -/
def walkFault (s : State) (cl i : Nat) (w : Walk) (e : WalkEnd) (cause : Nat) : State :=
  let s := walkFailed s cl
  match w.who with
  | .slot k =>
    let s := dropWalk s cl i
    if (slotAt s k).st = .parked ∧ (slotAt s k).asid = w.asid then
      wake (modSlot s k fun x => { x with wfault := some (w.la, cause, nw w.la) }) k
    else s
  | .engine _ => setWalk s cl i { w with res := some e, leaf := none }
  | .page k => wake (setWalk s cl i { w with res := some e }) k

/-- A walk ends (R57 to R60). -/
def endWalk (s : State) (cl i : Nat) (w : Walk) (e : WalkEnd) : State :=
  match e with
  | .leaf pa lvl v => walkLeaf s cl i w pa lvl v
  | .fail => walkFault s cl i w .fail (walkCause (clusterAt s cl) w.asid)
  | .poison c => walkFault s cl i w (.poison c) c

/-- A port reads the next entry of a walk, at the entry's home: an ordinary read of its own (R57). -/
def execPageWalk (cluster : Nat) (i : Nat) (s : State) : Out :=
  match (clusterAt s cluster).walks[i]? with
  | none => .next s
  | some w =>
    if w.leaf.isSome ∨ w.res.isSome then .next s
    else match walkNext s cluster w with
      | .wait => .next s
      | .next s1 a => .next (setWalk s1 cluster i { w with next := some a })
      | .ended s1 e => .next (endWalk s1 cluster i w e)

/-- A walk that read MIG = 2 reads its leaf again (R59). -/
def execWalkMigReread (cluster : Nat) (i : Nat) (s : State) : Out :=
  match (clusterAt s cluster).walks[i]? with
  | none => .next s
  | some w =>
    match w.leaf with
    | none => .next s
    | some (pa, lvl) =>
      let pinned := ((asEntry (clusterAt s cluster) w.asid).map Prod.fst).getD true
      match homeRead s pa 8 Acc.direct with
      | .ok s1 bs => .next (endWalk s1 cluster i w (match checkPte s1 pinned lvl (leWord bs) with
        | .leaf => .leaf pa lvl (leWord bs)
        | .bad | .table _ => .fail))
      | .poison s1 c _ => .next (endWalk s1 cluster i w (.poison c))
      | .deny s1 _ => .next (endWalk s1 cluster i w .fail)
      | .wait _ => .next s

/-! Translation for an engine (R56, R105, R127, R131, R167): its accesses wait for its walk. -/

/-- What forming an engine's address gives. -/
inductive EngAddr where
  | ok (s : State) (pa : Nat) (acc : Acc)
  | fault (s : State) (cause : Nat)
  | wait (s : State)

/-- The engine holds a copy of its core's interleave registers (R127). -/
def hasSpread : Agent → Bool
  | .xfe _ | .ve _ | .strm _ => true
  | _ => false

/-- The XFE and the VE reach host memory, the other engines do not (R390). -/
def reachesHost : Agent → Bool
  | .xfe _ | .ve _ => true
  | _ => false

/-- The translation of an engine's logical address at the port of its issuer's cluster: from the TLB, from the end of its walk, or after a walk that
starts now. DEDUCED, safe (log entry 47). -/
def engTranslate (s : State) (eng : Agent) (cl asid la : Nat) (n : Need) : EngAddr :=
  let c := clusterAt s cl
  let mine (w : Walk) : Bool := decide (w.who = .engine eng)
  match c.walks.find? fun w => mine w && w.res.isNone with
  | some _ => .wait s
  | none =>
    match tlbFind c asid la with
    | some e => if leafOk e n then .ok s (e.frame + la % 2 ^ e.lg) ⟨asid, true, e.d, e.w, e.c, e.s, la⟩ else .fault s 0x15
    | none =>
      let rest := setCluster s cl { c with walks := c.walks.filter fun w => !mine w }
      match (c.walks.find? fun w => mine w && decide (w.asid = asid) && decide (w.la = la)).bind Walk.res with
      | some .fail => .fault rest (walkCause c asid)
      | some (.poison k) => .fault rest k
      | some (.leaf _ _ _) | none => .wait (setCluster s cl (c.startWalk (.engine eng) asid la))

/-- The logical address of an engine's access, made physical with the issuer's ASID and, by a core's engine, the core's interleave registers; an
access behind one that waits for a walk waits too (R105, R127, R131). -/
def engPhysical (s : State) (eng : Agent) (core asid la : Nat) (n : Need) : EngAddr :=
  let cl := clusterOf core
  let lo := localPa s la
  if la < 0x20000000000 then engTranslate s eng cl asid la n
  else if (clusterAt s cl).walks.any fun w => decide (w.who = .engine eng) && w.res.isNone then .wait s
  else match placeOf s lo with
    | .spread r o =>
      if !hasSpread eng then .fault s 0x21
      else match spreadMap (coreAt s core) r o with
        | some pa => .ok s pa (Acc.plain asid la)
        | none => .fault s 0x21
    | .hole => .fault s 0x10
    | _ =>
      if isCtl s lo ∨ (isHost s lo ∧ !reachesHost eng) then .fault s Deny.control.cause else .ok s lo (Acc.plain asid la)

/-! Flushing (R62 to R64). -/

/-- A message carries a translation of an ASID, in one of some logical ranges. -/
def carries (asid : Option Nat) (spans : List (Nat × Nat)) (m : Msg) : Bool :=
  let hit (a : Acc) : Bool := a.tr && (match asid with
    | some x => decide (a.asid = x)
    | none => true) && spans.any fun p => decide (p.1 < a.la + 64) && decide (a.la < p.1 + p.2)
  match m.body with
  | .loadReq _ _ a | .postedStore _ _ _ a | .atomicReq _ _ _ _ _ a | .syncReq _ _ _ a | .fillReq _ a => hit a
  | .engWrite _ _ _ a _ more => hit a || more.any fun p => hit p.acc
  | .engRead _ _ _ _ a more => hit a || more.any fun p => hit p.2.2
  | _ => false

/-- The cluster whose port translated an access: its source's, and for a CLE that of the collective's issuer (R56, R176). -/
def portOf (s : State) (m : Msg) : Option Nat :=
  match m.src with
  | .cle t =>
    let cmd : Option Nat := match m.body with
      | .engWrite _ _ ref _ _ _ | .engRead _ _ _ ref _ _ => some ref.cmd
      | _ => none
    ((towerAt s t).cle.find? fun x => decide (some x.id = cmd)).map fun x => clusterOf (coreOf x.iss.slot)
  | a => agentSite a

/-- Accesses that a port translated and that are not yet performed: in the network, or in an NI of its cluster (R63). -/
def drained (s : State) (cl : Nat) (asid : Option Nat) (spans : List (Nat × Nat)) : Bool :=
  !(s.net.any fun m => decide (portOf s m = some cl) && carries asid spans m)
    && (rangeFrom (cl * 34) 34).all fun c => !(coreAt s c).ni.any (carries asid spans)

/-- Removes every translation of an ASID in scope (R63). -/
def execTlbfa (a b : GReg) (t : Bool) (s : State) : Out :=
  .next (withOps s [a, b] none false fun s vs =>
    let k := s.cur
    if (slotAt s k).trip.isNone ∧ !journalEmpty s k then .park s
    else
      let asid : Option Nat := if bitB (val vs 0) 12 then none else some (bitF (val vs 0) 0 12)
      let sc := bitF (val vs 1) 0 2
      let cl := clusterOf (coreOf k)
      let ports := if sc = 0 then [cl] else if sc = 1 then rangeFrom (towerOf cl * 160) 160 else rangeFrom 0 1280
      askTrip s ports.length
        (fun id s => ports.foldl (fun s p =>
          niPost s (coreOf k) ⟨.ni (coreOf k), .memPort p, id, k, (slotAt s k).phase, .tlbDiscard asid⟩) s)
        (fun s _ => .done (modSlot s k fun x => x.takeIf t a.toNat)))

/-- A port discards an ASID's entries, drains its accesses and acknowledges (R63). -/
def execTlbfaPortDiscard (i : Nat) (s : State) : Out :=
  match arrives s i with
  | none => .next s
  | some m =>
    match m.body, m.dst with
    | .tlbDiscard asid, .memPort cl =>
      let all (x : Nat) : Bool := match asid with
        | some y => decide (x = y)
        | none => true
      let s1 := modCluster s cl fun c => { c with
        tlb := c.tlb.filter fun e => !all e.asid,
        walks := c.walks.map fun w => if all w.asid ∧ w.res.isNone then { w with next := none, leaf := none } else w }
      if drained s1 cl asid [(0, 2 ^ 56)] then .next (answerTrip (dropMsg s1 i) m.who m.tag [] none) else .next s1
    | _, _ => .next s

/-- Posts a ranged invalidate to the privileged queue (R64). -/
def execTlbinv (d a b : GReg) (t : Bool) (s : State) : Out :=
  .next (withOps s [a, b] (some d) false fun s vs =>
    let cl := clusterOf (coreOf s.cur)
    let c := clusterAt s cl
    if !bitB (c.creg 0x250) 0 then .trap 0x03 (((encode (.tlbinv d a b t)).getD 0#32).setWidth 64)
    else if 8 ≤ c.tlbq.length then .park s
    else
      let seq := bitF (c.creg 0x251) 0 16
      let len := bitF (val vs 1) 0 41
      let q : TlbInv := ⟨seq, bitF (val vs 0) 52 12, bitF (val vs 0) 16 25, Nat.max 1 ((len + 65535) / 65536), bitF (val vs 1) 62 2, []⟩
      let s1 := modCluster s cl fun c => { c.setCreg 0x251 (addF (c.creg 0x251) 0 16 1) with tlbq := c.tlbq ++ [q] }
      .done (modSlot s1 s.cur fun x => (x.takeIf t a.toNat).writeDst d.toNat (nw seq)))

/-- An entry matches a ranged invalidate (R64). -/
def invHits (q : TlbInv) (e : TlbE) : Bool :=
  decide (e.asid = q.asid) && decide (e.page * 2 ^ e.lg < 65536 * (q.page + q.len)) && decide (65536 * q.page < (e.page + 1) * 2 ^ e.lg)
    && (decide (q.hint = 0) || (decide (q.hint = 1) && decide (e.lg = 16)) || (decide (q.hint = 2) && decide (e.lg = 21))
      || (decide (q.hint = 3) && decide (e.lg = 30)))

/-- The logical ranges of the entries of every port that a ranged invalidate removes. -/
def invSpans (s : State) (q : TlbInv) : List (Nat × Nat) :=
  s.clusters.flatMap fun c => (c.2.tlb.filter (invHits q)).map fun e => (e.page * 2 ^ e.lg, 2 ^ e.lg)

/-- Every port removes the matching entries of the oldest queued invalidate, drains what was translated through them, and acknowledges (R64). -/
def execTlbinvBroadcast (cluster : Nat) (s : State) : Out :=
  match (clusterAt s cluster).tlbq with
  | [] => .next s
  | q :: qs =>
    let gone := q.gone ++ invSpans s q
    let s2 := (s.clusters.map Prod.fst).foldl (fun s cl => modCluster s cl fun c => { c with tlb := c.tlb.filter fun t => !invHits q t }) s
    if (rangeFrom 0 1280).all fun cl => drained s2 cl (some q.asid) gone then
      .next (modCluster s2 cluster fun c => { c.setCreg 0x251 (setF (c.creg 0x251) 16 16 q.seq) with tlbq := qs })
    else .next (modCluster s2 cluster fun c => { c with tlbq := { q with gone := gone } :: qs })

/-! Page migration (R69 to R72). -/

/-- The walk of `pmig` and `pmigsw` at slot `cur`: parks until it has ended (R57, R69). Poison traps; a failure gives none; a leaf its address and
level. -/
def pageWalk (s : State) (asid la : Nat) (body : State → Option (Nat × Nat) → Res) : Res :=
  let cl := clusterOf (coreOf s.cur)
  let c := clusterAt s cl
  let mine (w : Walk) : Bool := decide (w.who = .page s.cur) && decide (w.asid = asid) && decide (w.la = la)
  let taken := setCluster s cl { c with walks := c.walks.filter fun w => !mine w }
  match c.walks.find? mine with
  | none => .park (setCluster s cl (c.addWalk (.page s.cur) asid la))
  | some w => match w.res with
    | none => .park s
    | some (.poison k) => .trapAt taken k (nw la)
    | some .fail => body taken none
    | some (.leaf pa lvl _) => body taken (some (pa, lvl))

/-- What the leaf of a page reads as at its home now: its address, its value and the page's size; no leaf; or poison. -/
inductive LeafNow where
  | leaf (s : State) (pa : Nat) (e : Word) (size : Nat)
  | none (s : State)
  | poison (s : State) (cause : Nat)
  | wait

/-- The leaf of a page as it stands at its home now, when it is one and the page address is aligned to its size. A leaf that fails the tests
of a walk, or reads as poison, counts as a failed walk (R59, R65). -/
def pageLeaf (s : State) (asid la : Nat) (at_ : Option (Nat × Nat)) : LeafNow :=
  let cl := clusterOf (coreOf s.cur)
  match at_, asEntry (clusterAt s cl) asid with
  | some (pa, lvl), some (pinned, _) =>
    match homeRead s pa 8 Acc.direct with
    | .ok s1 bs => match checkPte s1 pinned lvl (leWord bs) with
      | .leaf => if la % 2 ^ lvlShift lvl = 0 then .leaf s1 pa (leWord bs) (2 ^ lvlShift lvl) else .none s1
      | .bad | .table _ => .none (walkFailed s1 cl)
    | .poison s1 c _ => .poison (walkFailed s1 cl) c
    | .deny s1 _ => .none (walkFailed s1 cl)
    | .wait _ => .wait
  | _, _ => .none s

/-- One update of a page table entry at its home. -/
def putPte (s : State) (pa : Nat) (e : Word) : Option State :=
  match homeWrite s pa (wordLE 8 e) Acc.direct none with
  | .ok s1 _ => some s1
  | .poison _ _ _ | .deny _ _ | .wait _ => none

/-- The page lies in a snapshot range whose level is above 0 (R70). -/
def inSnapshot (s : State) (frame size : Nat) : Bool :=
  let w := towerAt s (tierTower frame)
  (rangeFrom 0 16).any fun n => bitB (w.creg (0x360 + n)) 31 && decide (0 < rangeLevel w n)
    && decide (65536 * granuleOf s (w.creg (0x340 + n)) < frame + size) && decide (frame < 65536 * (granuleOf s (w.creg (0x350 + n)) + 1))

/-- Status 4 of R70: the new frame overlaps this page's old frame, or the new frame of another live migration.
DESIGN CHOICE, unsafe (log entry 80). -/
def newFrameBad (s : State) (old new size : Nat) : Bool :=
  decide (new % size ≠ 0) || !populatedAt s new || (decide (new < old + size) && decide (old < new + size))
    || s.towers.any fun t => t.2.migr.any fun m => decide (new < m.new + m.size) && decide (m.new < new + size)

/-- The ASID and page of the operand of `pmig` and `pmigsw` (R69). -/
def migAsid (v : Word) : Nat := bitF v 52 12
def migPage (v : Word) : Nat := bitF v 0 41

/-- The status of a migration form. -/
def migStatus (d a : GReg) (t : Bool) (s : State) (st : Nat) : Res :=
  .done (modSlot s s.cur fun x => (x.takeIf t a.toNat).writeDst d.toNat (nw st))

/-- A migration starts, or the status that says why not (R70). A leaf whose update its home refuses gives status 1.
DESIGN CHOICE, unsafe (log entry 89). -/
def pmigGo (d a : GReg) (t : Bool) (asid la new : Nat) (s : State) (at_ : Option (Nat × Nat)) : Res :=
  match pageLeaf s asid la at_ with
  | .none s1 => migStatus d a t s1 1
  | .poison s1 c => .trapAt s1 c (nw la)
  | .wait => .park s
  | .leaf s1 pa e size =>
    let old := localPa s (pteAddr e)
    let w := tierTower old
    if pteMig e ≠ 0 then migStatus d a t s1 2
    else if bitB e 7 ∧ inSnapshot s1 old size then migStatus d a t s1 6
    else if newFrameBad s1 old new size then migStatus d a t s1 4
    else if 8 ≤ (towerAt s1 w).migr.length then migStatus d a t s1 3
    else match putPte s1 pa (setF e 57 2 1) with
      | none => migStatus d a t s1 1
      | some s2 => migStatus d a t (modTower s2 w fun x => { x with migr := x.migr ++
          [⟨old, new, size, old / 64, bitB e 5, false, asid, la, none⟩] }) 0

/-- Starts a page migration (R70). -/
def execPmig (d a b : GReg) (t : Bool) (s : State) : Out :=
  .next (withOps s [a, b] (some d) false fun s vs =>
    let asid := migAsid (val vs 0)
    let la := migPage (val vs 0)
    pageWalk s asid la (pmigGo d a t asid la (localPa s (bitF (val vs 1) 0 56))))

/-- The old home copies the next line of a migrating page (R70). -/
def execMigrationCopy (tower : Nat) (i : Nat) (s : State) : Out :=
  match (towerAt s tower).migr[i]? with
  | none => .next s
  | some m =>
    if m.switched ∨ m.old + m.size ≤ 64 * m.next then .next s
    else if bankHeld s m.next ∨ bankHeld s (copyDst s m m.next) then .next s
    else .next (modTower (copyLine s m m.next) tower fun w => { w with migr := w.migr.set i { m with next := m.next + 1 } })

/-- The migration entry of a page, found by the ASID and the page address that `pmig` had: its tower, place and value.
DESIGN CHOICE, unsafe (log entry 81). -/
def migEntry (s : State) (asid la : Nat) : Option (Nat × Nat × Migr) :=
  s.towers.findSome? fun t =>
    (findAt (fun m => decide (m.asid = asid) && decide (m.la = la)) t.2.migr).bind fun i => (t.2.migr[i]?).map fun m => (t.1, i, m)

/-- Aborts or switches the migration of entry `i` of tower `w` (R71): a switch parks until every line is copied, sets MIG = 2, and at a later
turn, its mirrors performed, forwards and sets ADDR with MIG = 0. A failed walk gives status 1, and so does a leaf whose update
its home refuses. DESIGN CHOICE, unsafe (log entries 82 and 89). -/
def pmigswGo (d a : GReg) (t : Bool) (asid la act w i : Nat) (m : Migr) (s : State) (at_ : Option (Nat × Nat)) : Res :=
  let setM (s : State) (m : Migr) : State := modTower s w fun x => { x with migr := x.migr.set i m }
  match pageLeaf s asid la at_ with
  | .none s1 => migStatus d a t s1 1
  | .poison s1 c => .trapAt s1 c (nw la)
  | .wait => .park s
  | .leaf s1 pa e _ =>
    if act = 2 then match putPte s1 pa (setF e 57 2 0) with
      | none => migStatus d a t s1 1
      | some s2 => migStatus d a t (modTower s2 w fun x => { x with migr := dropAt x.migr i }) 0
    else if m.by_.isNone then match putPte s1 pa (setF e 57 2 2) with
      | none => migStatus d a t s1 1
      | some s2 => .park (setM s2 { m with by_ := some s.cur })
    else match putPte s1 pa (setF (setF e 8 48 (m.new / 256)) 57 2 0) with
      | none => migStatus d a t s1 1
      | some s2 => migStatus d a t (setM s2 { m with switched := true }) 0

/-- Switches, releases or aborts a page migration (R71). -/
def execPmigsw (d a b : GReg) (t : Bool) (s : State) : Out :=
  .next (withOps s [a, b] (some d) false fun s vs =>
    let asid := migAsid (val vs 0)
    let la := migPage (val vs 0)
    let act := bitF (val vs 1) 0 2
    if act = 3 then migStatus d a t s 5
    else match migEntry s asid la with
      | none => migStatus d a t s 1
      | some (w, i, m) =>
        if act = 1 then
          if m.switched then migStatus d a t (modTower s w fun x => { x with migr := dropAt x.migr i }) 0 else migStatus d a t s 2
        else if m.switched ∨ (m.by_.isSome ∧ ¬(act = 0 ∧ m.by_ = some s.cur)) then migStatus d a t s 2
        else if act = 0 ∧ 64 * m.next < m.old + m.size then .park s
        else pageWalk s asid la (pmigswGo d a t asid la act w i m))

end Sys2Proof.Machine
end

