-- ==== Sys2Proof/Machine/Engine.lean ====
section
/-! DEFINITION. What the engines share: the issuer of a command, pointers and extents, accesses as messages and at homes, tiles, and stamps
(R131, R132, R157 to R160, R165 to R169, R275 to R278). -/

namespace Sys2Proof.Machine

/-! Issuers and pointers. -/

/-- The issuer of a command: the slot's thread with its segments, and the store barriers in force (R165, R275). -/
def issuerOf (s : State) (k : Nat) : Issuer :=
  let x := slotAt s k
  let c := coreAt s (coreOf k)
  ⟨k, x.tid, x.asid, x.segWords, x.barS.filter fun b => barsHold c [b]⟩

/-- The issuing slot still holds the issuing thread (R167). -/
def Issuer.lives (i : Issuer) (s : State) : Bool := decide ((slotAt s i.slot).tid = i.tid)

def Issuer.lo (i : Issuer) (n : Nat) : Word := val i.segs (2 * n)
def Issuer.hi (i : Issuer) (n : Nat) : Word := val i.segs (2 * n + 1)

/-- The rights of an engine pointer's side: D with R or W (R166). -/
def needRD : Need := { r := true, d := true }
def needWD : Need := { w := true, d := true }

/-- The logical address at a signed offset in a pointer's segment, or the cause of the check that fails (R131). -/
def Issuer.la (i : Issuer) (p : Word) (off : Int) (n : Nat) (need : Need) : Except Nat Nat :=
  let lo := i.lo (ptrSeg p)
  let hi := i.hi (ptrSeg p)
  if off < 0 ∨ off + n - 1 > (segLimit lo hi : Int) then .error 0x10
  else if !rightsOk hi need then .error 0x11
  else if !(inWindow (segWin hi) (segBase lo + off.toNat) && inWindow (segWin hi) (segBase lo + off.toNat + n - 1)) then .error 0x10
  else .ok (segBase lo + off.toNat)

/-- The logical address of a pointer's own offset. -/
def Issuer.at (i : Issuer) (p : Word) : Nat := segBase (i.lo (ptrSeg p)) + ptrOff p

/-- A pointer with the offsets of its first and last byte, the rights it needs, the alignment of its base, and the strides that share
it (R166). -/
structure PtrUse where
  p : Word
  first : Int
  last : Int
  need : Need
  align : Nat
  strides : List Int

/-- A row of checks over every pointer: the first failure (R166). -/
def rowFault (ps : List PtrUse) (f : PtrUse → Option (Nat × Word)) : Option (Nat × Word) := ps.findSome? f

/-- The extent row: bits [60:40] zero, and the whole extent in the segment. -/
def extentFault (i : Issuer) (u : PtrUse) : Option (Nat × Word) :=
  if ptrMid u.p ≠ 0 ∨ u.first < 0 ∨ u.last > (segLimit (i.lo (ptrSeg u.p)) (i.hi (ptrSeg u.p)) : Int) then some (0x10, nw (ptrOff u.p)) else none

/-- The rights row. -/
def rightsFault (i : Issuer) (u : PtrUse) : Option (Nat × Word) :=
  if rightsOk (i.hi (ptrSeg u.p)) u.need then none else some (0x11, nw (ptrOff u.p))

/-- The alignment row. -/
def alignFault (i : Issuer) (u : PtrUse) : Option (Nat × Word) :=
  if i.at u.p % u.align ≠ 0 ∨ u.strides.any (fun x => decide (x % (u.align : Int) ≠ 0)) then some (0x12, nw (i.at u.p)) else none

/-- The three rows in order (R166). -/
def ptrRows (i : Issuer) (ps : List PtrUse) : Option (Nat × Word) :=
  ((rowFault ps (extentFault i)).or (rowFault ps (rightsFault i))).or (rowFault ps (alignFault i))

/-- The least and greatest of 0 and (n − 1) × stride, for n ≥ 1. -/
def spanLo (n : Nat) (stride : Int) : Int := if stride < 0 then ((n : Int) - 1) * stride else 0
def spanHi (n : Nat) (stride : Int) : Int := if stride < 0 then 0 else ((n : Int) - 1) * stride

/-! Accesses of the engines, as messages (R101, R161, R267, R276). An engine has one access out at a time.
DESIGN CHOICE, unsafe (log entries 23 and 30). -/

/-- An access that an engine needs: a read or a write, in pieces of which the access covers as many as go one way. -/
inductive EngNeed where
  | read (cuts : List (Nat × Nat))
  | write (cuts : List (Nat × List Byte))

/-- What an engine finds in the answers that it has: a value and the answers left, a failed access with its cause, logical and physical address,
or the access that is to be made next. -/
inductive EngGot (α : Type) where
  | ok (v : α) (rest : List EngAns)
  | fault (cause la pa : Nat) (rest : List EngAns)
  | need (w : EngNeed)

/-- Goes on with a value, or with a failure. -/
def EngGot.elim {α β : Type} (g : EngGot α) (ok : α → List EngAns → EngGot β)
    (bad : Nat → Nat → Nat → List EngAns → EngGot β) : EngGot β :=
  match g with
  | .ok v l => ok v l
  | .fault c la pa l => bad c la pa l
  | .need w => .need w

/-- Goes on with a value; a failure stays. -/
def EngGot.bind {α β : Type} (g : EngGot α) (ok : α → List EngAns → EngGot β) : EngGot β := g.elim ok .fault

/-- Reads the pieces in order. -/
def engReadCuts : List (Nat × Nat) → List EngAns → List Byte → EngGot (List Byte)
  | [], log, acc => .ok acc log
  | (la, m) :: cuts, log, acc => match log with
    | [] => .need (.read [(la, m)])
    | .data bs :: rest => engReadCuts cuts rest (acc ++ bs)
    | .done _ :: rest => engReadCuts cuts rest acc
    | .fault c l pa :: rest => .fault c l pa rest

/-- Reads `n` bytes at a logical address, a message for each line. -/
def engBytes (log : List EngAns) (la n : Nat) : EngGot (List Byte) := engReadCuts (lineCuts (n / 64 + 2) la n) log []

/-- Cuts bytes at lines. -/
def putCuts : List (Nat × Nat) → List Byte → List (Nat × List Byte)
  | [], _ => []
  | (la, m) :: rest, bs => (la, bs.take m) :: putCuts rest (bs.drop m)

/-- Writes the pieces in order, as few at a time as one access may cover, or with `whole` as many. -/
def engWriteCuts (whole : Bool) : List (Nat × List Byte) → List EngAns → EngGot Unit
  | [], log => .ok () log
  | c :: cuts, [] => .need (.write (if whole then c :: cuts else [c]))
  | _ :: cuts, .data _ :: rest => engWriteCuts whole cuts rest
  | c :: cuts, .done n :: rest => engWriteCuts whole ((c :: cuts).drop n) rest
  | _ :: _, .fault c l pa :: rest => .fault c l pa rest

/-- The pieces of a write at a logical address, cut at lines. -/
def putPieces (la : Nat) (bs : List Byte) : List (Nat × List Byte) := putCuts (lineCuts (bs.length / 64 + 2) la bs.length) bs

/-- Writes bytes at a logical address, a message for each line. -/
def engPut (log : List EngAns) (la : Nat) (bs : List Byte) : EngGot Unit := engWriteCuts false (putPieces la bs) log

/-- What trying to send an access gives: it is out, at a physical address; a piece fails here, with its logical address; or it waits for a
translation. -/
inductive EngTry where
  | out (s : State) (pa : Nat)
  | fault (s : State) (cause la : Nat)
  | wait (s : State)

/-- What the translations of an access give: the physical addresses, a failure with its logical address, or a wait. -/
inductive EngWays where
  | ok (s : State) (ways : List (Nat × Acc))
  | fault (s : State) (cause la : Nat)
  | wait (s : State)

/-- Translates the pieces of an access, in order. -/
def engWays (eng : Agent) (core asid : Nat) (need : Need) : State → List Nat → EngWays
  | s, [] => .ok s []
  | s, la :: las => match engPhysical s eng core asid la need with
    | .fault s1 c => .fault s1 c la
    | .wait s1 => .wait s1
    | .ok s1 pa a => match engWays eng core asid need s1 las with
      | .ok s2 ways => .ok s2 ((pa, a) :: ways)
      | r => r

/-- The pieces of an access that go one way: to homes of this package, or to the place to which the first goes. -/
def sameWay (s : State) (core : Nat) : List (Nat × Acc) → List (Nat × Acc)
  | [] => []
  | w :: ws =>
    let away (a : Agent) : Bool := match a with
      | .link _ | .host _ => true
      | _ => false
    let dst := homeAgent s core w.1
    w :: ws.takeWhile fun v => decide (homeAgent s core v.1 = dst) || (!away dst && !away (homeAgent s core v.1))

/-- A write compressed with a dictionary slot when it leaves the core and becomes shorter (R119, R163): the slot and its tag. -/
def wireOf (s : State) (core pa : Nat) (dict : Option (Nat × Nat × List Word)) (bs : List Byte) : Option (Nat × Nat) :=
  dict.bind fun d =>
    if homeAgent s core pa ≠ .ni core ∧ bs.length % 8 = 0 ∧ (compress d.2.2 bs).isSome then some (d.1, d.2.1) else none

/-- The logical addresses of an access's pieces. -/
def EngNeed.las : EngNeed → List Nat
  | .read cuts => cuts.map Prod.fst
  | .write cuts => cuts.map Prod.fst

/-- The right that an access needs of its pages. -/
def EngNeed.need : EngNeed → Need
  | .read _ => needR
  | .write _ => needW

/-- What an access asks of its homes, with its pieces at their physical addresses. -/
def EngNeed.body (s : State) (core : Nat) (dict : Option (Nat × Nat × List Word)) (ref : EngRef) (w : EngNeed)
    (ways : List (Nat × Acc)) : Option Body :=
  match w, ways with
  | .read ((_, n) :: cuts), (pa, a) :: ways => some (.engRead pa n [] ref a ((cuts.zip ways).map fun c => (c.2.1, c.1.2, c.2.2)))
  | .write ((_, bs) :: cuts), (pa, a) :: ways =>
    some (.engWrite pa bs ref a (wireOf s core pa dict bs)
      ((cuts.zip ways).map fun c => ⟨c.2.1, c.1.2, c.2.2, wireOf s core c.2.1 dict c.1.2⟩))
  | _, _ => none

/-- Sends one access of an engine, whose elements have `unit` bytes, to its home: all its pieces that go one way. -/
def engIssue (s : State) (eng : Agent) (iss : Issuer) (cmd elem unit : Nat) (dict : Option (Nat × Nat × List Word)) (w : EngNeed) : EngTry :=
  let core := coreOf iss.slot
  match engWays eng core iss.asid w.need s w.las with
  | .fault s1 c la => .fault s1 c la
  | .wait s1 => .wait s1
  | .ok s1 ways =>
    let go := sameWay s1 core ways
    let pa := (go.head?.map Prod.fst).getD 0
    match w.body s1 core dict ⟨eng, cmd, elem, go.length, unit⟩ go with
    | none => .wait s1
    | some b => .out (sendMsg s1 ⟨eng, homeAgent s1 core pa, 0, iss.slot, (slotAt s1 iss.slot).phase, b⟩) pa

/-- Makes the access that a command needs beside those of its elements: it is out, has failed, or waits. -/
def engAsk (s : State) (eng : Agent) (iss : Issuer) (cmd elem unit : Nat) (dict : Option (Nat × Nat × List Word)) (io : EngIo) (w : EngNeed) :
    State × EngIo :=
  match engIssue s eng iss cmd elem unit dict w with
  | .wait s1 => (s1, io)
  | .fault s1 c la => (s1, { io with log := io.log ++ [.fault c la la] })
  | .out s1 pa => (s1, { io with out := some (w.las.headD 0, pa) })

/-- The answer to a read, and to a write, that was out. -/
def EngIo.read (io : EngIo) (v : Reply) : EngIo := match io.out, v with
  | none, _ => io
  | some _, .value bs => { io with out := none, log := io.log ++ [.data bs] }
  | some (la, pa), .poison c _ => { io with out := none, log := io.log ++ [.fault c la pa] }

def EngIo.wrote (io : EngIo) (pieces : Nat) (err : Option Nat) : EngIo := match io.out, err with
  | none, _ => io
  | some _, none => { io with out := none, log := io.log ++ [.done pieces] }
  | some (la, pa), some c => { io with out := none, log := io.log ++ [.fault c la pa] }

/-! Stamps (R168). -/

/-- An XFE or CLE stamp. -/
def stampWord (cause seq : Nat) : Word :=
  nw ((if cause = 0 then 2 ^ 62 else 2 ^ 63 + cause % 128 * 2 ^ 55) + seq % 2 ^ 32)

/-- The write of a stamp: the state once it is performed, or has failed and raised `fail` with its physical address (R167, R211). A spread address
that its engine cannot map is recorded by `note` (R127). -/
def stampEnd (s : State) (note : State → State) (core fail la : Nat) (v : Word) (log : List EngAns) : EngGot State :=
  (engPut log la (wordLE 8 v)).elim (fun _ rest => .ok s rest) fun c _ pa rest =>
    .ok (raiseEvent (if c = 0x21 then note s else s) core fail (nw pa)) rest

/-! The accesses of a command's elements (R161, R163, R167, R211). -/

/-- Sends the next access of a command's element: a read of its first piece, or of all with `unit` 0; else the write of all its pieces. The
command's progress after it, or its fault, of which a write's lies at element `first`. -/
def engSend (s : State) (iss : Issuer) (eng : Agent) (cmd first unit : Nat) (dict : Option (Nat × Nat × List Word)) (r : EngRun) : State × EngRun :=
  let go (elem : Nat) (w : EngNeed) : State × EngRun := match engIssue s eng iss cmd r.elem unit dict w with
    | .fault s1 c la => (s1, { r with ended := true, fault := some ⟨c, elem, la⟩ })
    | .wait s1 => (s1, r)
    | .out s1 _ => (s1, { r with out := true })
  if r.out then (s, r)
  else if r.reads ≠ [] then go r.elem (.read (if unit = 0 then r.reads else r.reads.take 1))
  else if r.writes ≠ [] then go first (.write r.writes)
  else (s, r)

/-! Tiles (R159). -/

/-- A tile that a command may read: ready, or draining with room for a reader. -/
def Tile.readable (t : Tile) : Bool := decide (t.st = 2) || (decide (t.st = 3) && decide (t.rd < 7))

/-- A reading command issues, or ends. -/
def Tile.startRead (t : Tile) : Tile := { t with st := 3, rd := t.rd + 1 }
def Tile.endRead (t : Tile) : Tile := { t with rd := t.rd - 1, st := if t.rd ≤ 1 then 2 else 3 }

def startReadTile (s : State) (cl i : Nat) : State := modCluster s cl fun c => setTile c i (tileAt c i).startRead
def endReadTile (s : State) (cl i : Nat) : State := modCluster s cl fun c => setTile c i (tileAt c i).endRead

/-- A TILE form: a request to the own cluster's CSP, for whose answer the thread parks; where the CSP answers that the form's condition does not
hold yet, it is sent again (R160). -/
def tileForm (s : State) (form : Nat) (n : BitVec 6) (v : Word) (took : State → State) : Res :=
  withAnswers s fun ws =>
    if ws.getLast? = some 0#64 then .done (took s)
    else askMore s (.csp (clusterOf (coreOf s.cur))) (.tileReq form n.toNat v) 8

/-- A TILE form with an operand. -/
def tileOp (form : Nat) (n : BitVec 6) (a : GReg) (t : Bool) (bad : Word → Bool) (s : State) : Out :=
  .next (withOps s [a] none false fun s vs =>
    if bad (val vs 0) then .trap 0x10 (val vs 0) else tileForm s form n (val vs 0) fun s => modSlot s s.cur fun x => x.takeIf t a.toNat)

/-- Declares, redeclares or undeclares a tile (R159, R160). -/
def execTdecl (n : BitVec 6) (a : GReg) (t : Bool) (s : State) : Out :=
  tileOp 0 n a t (fun v =>
    decide (bitF v 0 21 % 64 ≠ 0) || decide (bitF v 22 22 % 64 ≠ 0) || decide (2097152 < bitF v 0 21 + bitF v 22 22)) s

/-- Arms an empty tile (R159, R160). -/
def execTarm (n : BitVec 6) (a : GReg) (t : Bool) (s : State) : Out := tileOp 1 n a t (fun _ => false) s

/-- Waits for a tile that is ready or draining in a phase (R160). -/
def execTwait (n : BitVec 6) (a : GReg) (t : Bool) (s : State) : Out := tileOp 2 n a t (fun _ => false) s

/-- Releases a ready tile once its readers have ended (R160). -/
def execTrel (n : BitVec 6) (s : State) : Out := .next (finish s s.cur (tileForm s 3 n 0#64 id))

/-! Waiting for a stamp (R169). -/

/-- Parks until an own-LM stamp reaches a sequence number (R169). -/
def execMwait (d a b : GReg) (t : Bool) (s : State) : Out :=
  .next (withOps s [a, b] (some d) false fun s vs =>
    onAddr s (ptrSeg (val vs 0)) (ptrAddr s s.cur (val vs 0) 8 needR) fun s la pa _ =>
      match ownLm s (coreOf s.cur) pa with
      | .other => .trap 0x10 (nw la)
      | .off => .trap 0x16 (nw la)
      | .retired => .trap 0x17 (nw la)
      | .own off =>
        match lmRead s (coreOf s.cur) off 8 with
        | .poison _ c _ => .trap c (nw pa)
        | .deny _ e => .trap e.cause (nw la)
        | .wait _ => .park s
        | .ok s1 bs =>
          let w := leWord bs
          if bitF w 62 2 = 0 ∨ 2 ^ 31 ≤ (bitF w 0 32 + 2 ^ 32 - bitF (val vs 1) 0 32) % 2 ^ 32 then .park s
          else if bitF w 62 2 = 2 then .trap (bitF w 55 7) w
          else .done (modSlot s1 s.cur fun x => (x.takeIf t a.toNat).writeDst d.toNat w))

end Sys2Proof.Machine
end

