-- ==== Sys2Proof/Machine/Xfe.lean ====
section
/-! DEFINITION. The transfer engine: its registers, command forms, elements and events, and layout records (R161 to R171). -/

namespace Sys2Proof.Machine

/-! The engine registers as a command copies them (R162, R178). -/

def XCmd.c0 (x : XCmd) : Nat := bitF (val x.cfg 0) 0 20
def XCmd.c1 (x : XCmd) : Nat := bitF (val x.cfg 0) 20 20
def XCmd.c2 (x : XCmd) : Nat := bitF (val x.cfg 0) 40 20
def XCmd.s1 (x : XCmd) : Int := sxNat 32 (bitF (val x.cfg 1) 0 32)
def XCmd.s2 (x : XCmd) : Int := sxNat 32 (bitF (val x.cfg 1) 32 32)
def XCmd.d1 (x : XCmd) : Int := sxNat 32 (bitF (val x.cfg 2) 0 32)
def XCmd.d2 (x : XCmd) : Int := sxNat 32 (bitF (val x.cfg 2) 32 32)
def XCmd.fmt (x : XCmd) : Word := val x.cfg 3
def XCmd.esz (x : XCmd) : Nat := [1, 2, 4, 8, 16, 32, 33, 64].getD (bitF x.fmt 0 3) 1
def XCmd.sf (x : XCmd) : Nat := bitF x.fmt 4 4
def XCmd.df (x : XCmd) : Nat := bitF x.fmt 8 4
def XCmd.mode (x : XCmd) : Nat := bitF x.fmt 12 2
def XCmd.dslot (x : XCmd) : Nat := bitF x.fmt 14 4
def XCmd.wire (x : XCmd) : Bool := bitB x.fmt 18
def XCmd.stile (x : XCmd) : Nat := bitF x.fmt 19 6
def XCmd.stv (x : XCmd) : Bool := bitB x.fmt 25
def XCmd.srec (x : XCmd) : Bool := bitB x.fmt 26
def XCmd.drec (x : XCmd) : Bool := bitB x.fmt 27
def XCmd.sh (x : XCmd) : Nat := bitF x.fmt 28 4
def XCmd.dh (x : XCmd) : Nat := bitF x.fmt 32 4
def XCmd.stamp (x : XCmd) : Word := val x.cfg 4
def XCmd.cb (x : XCmd) : Word := val x.cfg 5
def XCmd.xidx (x : XCmd) : Word := val x.cfg 6
def XCmd.fillv (x : XCmd) : Word := val x.cfg 7
def XCmd.skip (x : XCmd) : Nat := (val x.cfg 8).toNat

/-- A source element is a c4 code (R163). -/
def XCmd.c4 (x : XCmd) : Bool := decide (x.mode = 1) && decide (x.sf = 0xE)

/-- Bytes of a row's first `n` source elements, and the bytes that a source element takes. -/
def XCmd.srcRow (x : XCmd) (n : Nat) : Nat := if x.c4 then (n + 1) / 2 else if x.mode = 1 then n else n * x.esz
def XCmd.es (x : XCmd) : Nat := if x.mode = 1 then 1 else x.esz

/-- Bytes of a destination element (R163). -/
def XCmd.ed (x : XCmd) : Nat := if x.mode = 1 then (if x.df = 0x8 then 4 else 2) else if x.mode = 2 then 8 else x.esz

/-- Entries of the codebook table. -/
def XCmd.entries (x : XCmd) : Nat := if x.sf = 0xE then 16 else 256

/-- Gather or scatter. -/
def XCmd.listed (x : XCmd) : Bool := decide (x.form = 1) || decide (x.form = 2)

/-! The checks at issue (R166). -/

/-- The first row: the register at fault. -/
def XCmd.badField (x : XCmd) : Option Nat :=
  let reg : Bool := decide (x.form = 1) || decide (x.form = 2) || !(x.drec && (x.srec || decide (x.form = 3)))
  if x.mode = 3 ∨ bitB x.fmt 3 ∨ bitF x.fmt 36 28 ≠ 0 then some 3
  else if x.mode = 1 ∧ (¬(x.sf = 0xE ∨ x.sf = 0xF) ∨ ¬(x.df = 0x8 ∨ x.df = 0x9)) then some 3
  else if x.mode = 2 ∧ (x.esz ≠ 8 ∨ x.srec ∨ x.drec ∨ x.listed) then some 3
  else if x.mode = 1 ∧ (x.srec ∨ x.drec) then some 3
  else if x.listed ∧ (x.srec ∨ x.drec) then some 3
  else if reg ∧ (x.c0 = 0 ∨ x.c1 = 0 ∨ x.c2 = 0) then some 0
  else if x.listed ∧ x.c2 ≠ 1 then some 0
  else if x.form = 3 ∧ (x.mode = 1 ∨ x.mode = 2) then some 3
  else none

/-- The alignment of a side with elements of `n` bytes. -/
def sizeAlign (n : Nat) : Nat := if n = 33 then 1 else Nat.min n 8

/-- The destination side. -/
def XCmd.dstUse (x : XCmd) : PtrUse :=
  let o : Int := ptrOff x.dst
  if x.form = 2 then ⟨x.dst, o, o, needWD, sizeAlign x.ed, [x.d1]⟩
  else ⟨x.dst, o + spanLo x.c1 x.d1 + spanLo x.c2 x.d2, o + (x.c0 * x.ed : Nat) - 1 + spanHi x.c1 x.d1 + spanHi x.c2 x.d2, needWD,
    sizeAlign x.ed, if x.form = 1 then [x.d1] else [x.d1, x.d2]⟩

/-- The source side. -/
def XCmd.srcUse (x : XCmd) : PtrUse :=
  let o : Int := ptrOff x.src
  if x.form = 1 then ⟨x.src, o, o, needRD, sizeAlign x.es, [x.s1]⟩
  else if x.mode = 2 then ⟨x.src, o, o, needRD, 1, []⟩
  else ⟨x.src, o + spanLo x.c1 x.s1 + spanLo x.c2 x.s2, o + (x.srcRow x.c0 : Nat) - 1 + spanHi x.c1 x.s1 + spanHi x.c2 x.s2, needRD,
    sizeAlign x.es, if x.form = 2 then [x.s1] else [x.s1, x.s2]⟩

/-- A pointer to `n` bytes in one piece. -/
def flatUse (p : Word) (n : Nat) (need : Need) (al : Nat) : PtrUse := ⟨p, ptrOff p, (ptrOff p : Int) + n - 1, need, al, []⟩

/-- Every pointer that the command checks, in order (R166). -/
def XCmd.uses (x : XCmd) : List PtrUse :=
  (if x.drec then [] else [x.dstUse]) ++ (if x.form = 3 ∨ x.srec then [] else [x.srcUse]) ++ [flatUse x.stamp 8 needWD 8]
    ++ (if x.listed then [flatUse x.xidx (4 * x.c1) needRD 4] else []) ++ (if x.mode = 1 then [flatUse x.cb (2 * x.entries) needRD 2] else [])

/-- The checks of R166, in the order of its rows. -/
def xfeCheck (s : State) (x : XCmd) : Option (Nat × Word) :=
  match x.badField with
  | some k => some (0x40, nw k)
  | none =>
    if x.mode = 1 ∧ x.cb = 0#64 then some (0x44, 0#64)
    else match ptrRows x.iss x.uses with
      | some f => some f
      | none =>
        if x.stv ∧ !(tileAt (clusterAt s (clusterOf (coreOf x.iss.slot))) x.stile).v then some (0x34, nw x.stile) else none

/-- Writes an engine register (R162, R165). -/
def execXset (a : GReg) (t : Bool) (k : BitVec 4) (s : State) : Out :=
  .next (withOps s [a] none false fun s vs =>
    .done (modSlot s s.cur fun x =>
      (x.takeIf t a.toNat).setCreg (0x40 + k.toNat) (regMerge (0x40 + k.toNat) (x.creg (0x40 + k.toNat)) (val vs 0))))

/-- Issues a data command (R165). -/
def xfeIssue (form : Nat) (a : GReg) (srcs : List GReg) (t : Bool) (s : State) : State :=
  withOps s srcs none false fun s vs =>
    let k := s.cur
    let core := coreOf k
    let cl := clusterOf core
    let cfg := (rangeFrom 0x40 10).map (slotAt s k).creg
    let d := dictAt (coreAt s core) (bitF (val cfg 3) 14 4)
    let x : XCmd := ⟨0, issuerOf s k, form, cfg, val vs 0, val vs 1, bitF (val cfg 9) 0 32, if d.v then some d.words else none, none,
      EngIo.reset⟩
    match xfeCheck s x with
    | some (c, v) => .trap c v
    | none =>
      if 2 ≤ (coreAt s core).xq.length ∨ (x.stv ∧ !(tileAt (clusterAt s cl) x.stile).readable) then .park s
      else
        let (id, s1) := takeFresh s
        let s2 := if x.stv then startReadTile s1 cl x.stile else s1
        let s3 := modCore s2 core fun c => { c with xq := c.xq ++ [{ x with id := id }] }
        .done (modSlot s3 k fun y =>
          { (((y.takeIf t a.toNat).setCreg 0x49 (nw (x.seq + 1) &&& 0xFFFFFFFF#64)).setCreg 0x48 0#64) with
            cmds := y.cmds ++ [⟨id, 0, false⟩] })

/-- Enqueues a copy (R165). -/
def execXcopy (a b : GReg) (t : Bool) (s : State) : Out := .next (xfeIssue 0 a [a, b] t s)
/-- Enqueues a gather (R165). -/
def execXgather (a b : GReg) (t : Bool) (s : State) : Out := .next (xfeIssue 1 a [a, b] t s)
/-- Enqueues a scatter (R165). -/
def execXscatter (a b : GReg) (t : Bool) (s : State) : Out := .next (xfeIssue 2 a [a, b] t s)
/-- Enqueues a fill (R165). -/
def execXfill (a : GReg) (t : Bool) (s : State) : Out := .next (xfeIssue 3 a [a] t s)

/-! Layout records (R170, R171). -/

def recAt (c : Core) (h : Nat) : RecH := SMap.get (fun _ => RecH.reset) c.recs h
def setRec (c : Core) (h : Nat) (r : RecH) : Core := { c with recs := SMap.set (fun _ => RecH.reset) c.recs h r }

/-- A queued or running command names the handle (R171). -/
def namesHandle (c : Core) (h : Nat) : Bool :=
  c.xq.any fun x => (x.srec && decide (x.sh = h)) || (x.drec && decide (x.dh = h))

/-- Binds a record handle (R171). -/
def execXlrec (a b : GReg) (t : Bool) (s : State) : Out :=
  .next (withOps s [a, b] none false fun s vs =>
    let core := coreOf s.cur
    let h := bitF (val vs 1) 0 4
    let iss := issuerOf s s.cur
    if namesHandle (coreAt s core) h then .park s
    else match ptrRows iss [flatUse (val vs 0) 192 needRD 64] with
      | some (c, v) => .trap c v
      | none => .done (modSlot (modCore s core fun c => setRec c h ⟨true, iss, iss.at (val vs 0), none⟩) s.cur fun x => x.takeIf t a.toNat))

/-- Drops the copy of a record handle (R171). -/
def execXlflush (a : GReg) (t : Bool) (s : State) : Out :=
  .next (withOps s [a] none false fun s vs =>
    let core := coreOf s.cur
    let h := bitF (val vs 0) 0 4
    if namesHandle (coreAt s core) h then .park s
    else .done (modSlot (modCore s core fun c => setRec c h { recAt c h with copy := none }) s.cur fun x => x.takeIf t a.toNat))

def recExt (r : List Word) (k : Nat) : Nat := (val r (2 + k)).toNat
def recStr (r : List Word) (k : Nat) : Int := sxNat 64 (val r (6 + k)).toNat
def recOrg (r : List Word) (k : Nat) : Nat := (val r (10 + k)).toNat
def recWin (r : List Word) (k : Nat) : Nat := (val r (14 + k)).toNat

/-- The elements of a record's window. -/
def recCount (r : List Word) : Nat := recWin r 0 * recWin r 1 * recWin r 2 * recWin r 3

/-- A record is well formed for an element size code (R170). -/
def recOk (r : List Word) (esz : Nat) : Bool :=
  let d := val r 0
  let rank := bitF d 8 4
  decide (bitF d 0 8 = 1) && decide (1 ≤ rank) && decide (rank ≤ 4) && decide (bitF d 16 3 = esz)
    && decide (bitF d 12 4 = 0) && decide (bitF d 19 45 = 0) && ((r.drop 18).all fun w => decide (w = 0#64))
    && ((rangeFrom 0 4).all fun k =>
      decide (1 ≤ recExt r k) && decide (recExt r k < 2 ^ 40) && decide (1 ≤ recWin r k) && decide (recOrg r k + recWin r k ≤ recExt r k)
        && (decide (k < rank) || (decide (recExt r k = 1) && decide (recWin r k = 1) && decide (recOrg r k = 0))))

/-- The offset of element `e` of a record's window from BASE. -/
def recOff (r : List Word) (e : Nat) : Int :=
  let w (k : Nat) : Nat := recWin r k
  let i (k : Nat) : Nat := match k with
    | 0 => e % w 0
    | 1 => e / w 0 % w 1
    | 2 => e / (w 0 * w 1) % w 2
    | _ => e / (w 0 * w 1 * w 2)
  ((rangeFrom 0 4).map fun k => ((recOrg r k + i k : Nat) : Int) * recStr r k).foldl (· + ·) 0

/-- The record of a handle: its copy, one that this command has fetched, or one fetched now; `some` fault has its cause and address, and
`new` gathers the copies that the start of the command makes (R171). -/
def useRecord (c : Core) (h esz : Nat) (new : List (Nat × List Word)) (log : List EngAns) :
    EngGot (Except (Nat × Nat) (List Word) × List (Nat × List Word)) :=
  let r := recAt c h
  let judge (ws : List Word) : Except (Nat × Nat) (List Word) := if recOk ws esz then .ok ws else .error (0x41, r.la)
  if !r.bound then .ok (.error (0x41, 0), new) log
  else match r.copy.or ((new.find? fun e => decide (e.1 = h)).map Prod.snd) with
    | some ws => .ok (judge ws, new) log
    | none => (engBytes log r.la 192).elim (fun bs rest => .ok (judge (dwords 24 bs), new ++ [(h, dwords 24 bs)]) rest)
      fun c la _ rest => .ok (.error (c, la), new) rest

/-! Elements (R163, R165). -/

/-- The indices of element `e`. -/
def XCmd.i0 (x : XCmd) (e : Nat) : Nat := e % x.c0
def XCmd.i1 (x : XCmd) (e : Nat) : Nat := e / x.c0 % x.c1
def XCmd.i2 (x : XCmd) (e : Nat) : Nat := e / (x.c0 * x.c1)

/-- An element's place on a side: the pointer and the offset. -/
def XCmd.srcPlace (x : XCmd) (r : EngRun) (e : Nat) : Word × Int :=
  if x.srec then (val r.recS 1, (ptrOff (val r.recS 1) : Int) + recOff r.recS e)
  else
    let col : Int := if x.c4 then (x.i0 e / 2 : Nat) else (x.i0 e * x.es : Nat)
    (x.src, (ptrOff x.src : Int) + col
      + (if x.form = 1 then (r.idx.getD (x.i1 e) 0 : Int) * x.s1 else (x.i1 e : Int) * x.s1 + (x.i2 e : Int) * x.s2))

def XCmd.dstPlace (x : XCmd) (r : EngRun) (e : Nat) : Word × Int :=
  if x.drec then (val r.recD 1, (ptrOff (val r.recD 1) : Int) + recOff r.recD e)
  else
    (x.dst, (ptrOff x.dst : Int) + (x.i0 e * x.ed : Nat)
      + (if x.form = 2 then (r.idx.getD (x.i1 e) 0 : Int) * x.d1 else (x.i1 e : Int) * x.d1 + (x.i2 e : Int) * x.d2))

/-- The logical address of an element's side, with a record side's alignment; bits [60:40] of the pointer are zero (R131, R166). -/
def XCmd.sideLa (x : XCmd) (p : Word × Int) (n : Nat) (need : Need) (al : Nat) : Except Nat Nat :=
  if ptrMid p.1 ≠ 0 then .error 0x10
  else match x.iss.la p.1 p.2 n need with
  | .error c => .error c
  | .ok la => if la % al ≠ 0 then .error 0x12 else .ok la

/-- The bytes that an element writes, from the bytes it read. -/
def XCmd.data (x : XCmd) (r : EngRun) (e : Nat) : List Byte :=
  if x.form = 3 then (rangeFrom 0 x.ed).map fun i => BitVec.ofNat 8 (bitF x.fillv (8 * (i % 8)) 8)
  else if x.mode = 0 then r.got
  else if x.mode = 1 then
    let code := if x.c4 then leNat r.got / 16 ^ (x.i0 e % 2) % 16 else leNat r.got
    let v := r.table.getD code 0
    if x.df = 0x8 then natLE 4 (bf16ToF32 v) else natLE 2 v
  else wordLE 8 (val r.words e)

/-- Ends a run with a fault. -/
def EngRun.fail (r : EngRun) (c la : Nat) : EngRun := { r with ended := true, fault := some ⟨c, r.elem, la⟩ }

/-- The address that a failed side reports. -/
def faultLa (iss : Issuer) (p : Word × Int) : Nat := ((segBase (iss.lo (ptrSeg p.1)) : Int) + p.2).toNat

/-- The writes of an element whose reads are done. -/
def xfeData (x : XCmd) (r : EngRun) : EngRun :=
  let d := x.dstPlace r r.elem
  match x.sideLa d x.ed needWD (if x.drec then sizeAlign x.esz else 1) with
  | .error c => r.fail c (faultLa x.iss d)
  | .ok la => { r with writes := putCuts (lineCuts 3 la x.ed) (x.data r r.elem), got := [] }

/-- The next element of a command: its reads, or its writes when it reads nothing, or the end (R163, R167). -/
def xfePlan (x : XCmd) (r : EngRun) : EngRun :=
  match r.stop with
  | some f => if f.elem ≤ r.elem then r.fail f.cause f.la else go
  | none => go
where
  go : EngRun :=
    if r.total ≤ r.elem then { r with ended := true }
    else if x.form = 3 ∨ x.mode = 2 then xfeData x r
    else
      let p := x.srcPlace r r.elem
      match x.sideLa p x.es needRD (if x.srec then sizeAlign x.esz else 1) with
      | .error c => r.fail c (faultLa x.iss p)
      | .ok la => { r with reads := lineCuts 3 la x.es, got := [] }

/-! Starting (R161, R163). -/

/-- Reads the index list, entry by entry: the entries, or those before the first that fails, with its cause and address. -/
def readIdx : Nat → Nat → List EngAns → List Nat → EngGot (List Nat × Option (Nat × Nat))
  | 0, _, log, acc => .ok (acc.reverse, none) log
  | n + 1, la, log, acc => match engBytes log la 4 with
    | .ok bs rest => readIdx n (la + 4) rest (leNat bs :: acc)
    | .fault c l _ rest => .ok (acc.reverse, some (c, l)) rest
    | .need w => .need w

/-- Bits of a source stream, through the issuer's segment. -/
def streamBits (log : List EngAns) (iss : Issuer) (p : Word) (pos n : Nat) : EngGot Nat :=
  let m := (pos % 8 + n + 7) / 8
  let off : Int := ((ptrOff p + pos / 8 : Nat) : Int)
  match iss.la p off m needRD with
  | .error c => .fault c (faultLa iss (p, off)) 0 log
  | .ok la => (engBytes log la m).bind fun bs rest => .ok (leNat bs / 2 ^ (pos % 8) % 2 ^ n) rest

/-- The words of a compressed source, the bytes that it takes, and a fault's cause and address (R119, R120, R163). -/
structure StreamOut where
  words : List Word
  used : Nat
  fault : Option (Nat × Nat)

def readStream (iss : Issuer) (p : Word) (dict : List Word) (want : Nat) : Nat → List EngAns → Nat → List Word → EngGot StreamOut
  | 0, log, pos, out => .ok ⟨out, pos / 8, some (0x62, 0)⟩ log
  | fuel + 1, log, pos, out =>
    let bad (log : List EngAns) : EngGot StreamOut :=
      .ok ⟨out.take want, (pos + 7) / 8, some (0x62, faultLa iss (p, ((ptrOff p + pos / 8 : Nat) : Int)))⟩ log
    let then_ (g : EngGot Nat) (f : Nat → List EngAns → EngGot StreamOut) : EngGot StreamOut :=
      g.elim f fun c la _ rest => .ok ⟨out, pos / 8, some (c, la)⟩ rest
    if want < out.length then bad log
    else
      then_ (streamBits log iss p pos 2) fun code log =>
        if code = 0 then then_ (streamBits log iss p (pos + 2) 64) fun v log =>
          readStream iss p dict want fuel log (pos + 66) (out ++ [nw v])
        else if code = 1 then then_ (streamBits log iss p (pos + 2) 6) fun v log => match dict[v]? with
          | none => bad log
          | some w => readStream iss p dict want fuel log (pos + 8) (out ++ [w])
        else if code = 2 then then_ (streamBits log iss p (pos + 2) 4) fun v log =>
          readStream iss p dict want fuel log (pos + 6) (out ++ List.replicate (v + 1) 0#64)
        else
          let pad := (8 - (pos + 2) % 8) % 8
          if out.length ≠ want then bad log
          else if pad = 0 then .ok ⟨out, (pos + 2) / 8, none⟩ log
          else then_ (streamBits log iss p (pos + 2) pad) fun v log =>
            if v ≠ 0 then bad log else .ok ⟨out, (pos + 9) / 8, none⟩ log

/-- A run before its first element. -/
def EngRun.fresh (e total : Nat) : EngRun := ⟨e, [], [], [], false, [], [], [], [], [], [], [], total, none, false, none⟩

/-- Sets THR_XSRCB of the issuing slot, while the issuing thread holds it (R164). -/
def setSrcb (s : State) (iss : Issuer) (f : Nat → Nat) : State :=
  if iss.lives s then modSlot s iss.slot fun x => x.setCreg 0x4C (nw (f (x.creg 0x4C).toNat)) else s

/-- What a command reads before its first element, and what it then writes back: source bytes consumed, and copies of records. -/
structure XStart where
  run : EngRun
  used : Nat
  copies : List (Nat × List Word)

/-- A start that a fault ends at element `at_`. -/
def EngRun.stopAt (r : EngRun) (c at_ la : Nat) : EngRun := { r with stop := some ⟨c, at_, la⟩ }

/-- The records of a command that uses them, and its element count (R163, R170). -/
def xfeRecords (c : Core) (x : XCmd) (r : EngRun) (log : List EngAns) : EngGot XStart :=
  let side (use : Bool) (h : Nat) (new : List (Nat × List Word)) (log : List EngAns) :
      EngGot (Except (Nat × Nat) (List Word) × List (Nat × List Word)) :=
    if use then useRecord c h (bitF x.fmt 0 3) new log else .ok (.ok [], new) log
  (side (x.srec && decide (x.form ≠ 3)) x.sh [] log).bind fun a log => match a.1 with
    | .error f => .ok ⟨r.stopAt f.1 0 f.2, 0, a.2⟩ log
    | .ok rs => (side x.drec x.dh a.2 log).bind fun b log => match b.1 with
      | .error f => .ok ⟨r.stopAt f.1 0 f.2, 0, b.2⟩ log
      | .ok rd =>
        let n := if rs ≠ [] then recCount rs else if rd ≠ [] ∧ x.form = 3 then recCount rd else r.total
        let other := if rd ≠ [] then recCount rd else x.c0 * x.c1 * x.c2
        let r := { r with recS := rs, recD := rd, total := n }
        .ok ⟨if other ≠ n then r.stopAt 0x41 0 (recAt c (if rd ≠ [] then x.dh else x.sh)).la else r, 0, b.2⟩ log

/-- The index list of a gather or a scatter, or the records. -/
def xfeLists (c : Core) (x : XCmd) (r : EngRun) (log : List EngAns) : EngGot XStart :=
  if !x.listed then xfeRecords c x r log
  else match x.iss.la x.xidx (ptrOff x.xidx) (4 * x.c1) needRD with
    | .error k => .ok ⟨r.stopAt k 0 (x.iss.at x.xidx), 0, []⟩ log
    | .ok la => (readIdx x.c1 la log []).bind fun o log =>
      .ok ⟨match o.2 with
        | some f => { r with idx := o.1 }.stopAt f.1 (o.1.length * x.c0) f.2
        | none => { r with idx := o.1 }, 0, []⟩ log

/-- What a command reads before its first element: the codebook table, the compressed stream, the index list, the records. -/
def xfeInit (c : Core) (x : XCmd) (log : List EngAns) : EngGot XStart :=
  let reg := x.c0 * x.c1 * x.c2
  let r := EngRun.fresh x.skip reg
  if x.mode = 1 then
    match x.iss.la x.cb (ptrOff x.cb) (2 * x.entries) needRD with
    | .error k => .ok ⟨r.stopAt k 0 (x.iss.at x.cb), 0, []⟩ log
    | .ok la => (engBytes log la (2 * x.entries)).elim
        (fun bs log => xfeLists c x { r with table := (rangeFrom 0 x.entries).map fun i => leNat ((bs.drop (2 * i)).take 2) } log)
        fun k l _ log => .ok ⟨r.stopAt k 0 l, 0, []⟩ log
  else if x.mode = 2 then
    match x.dict with
    | none => .ok ⟨r.stopAt 0x62 0 (x.iss.at x.src), 0, []⟩ log
    | some ws => (readStream x.iss x.src ws reg (reg + 2) log 0 []).bind fun o log =>
      let r := { r with words := o.words }
      .ok ⟨match o.fault with
        | some f => r.stopAt f.1 (Nat.min o.words.length reg) f.2
        | none => r, o.used, []⟩ log
  else xfeLists c x r log

/-! Events (R161, R165, R167). -/

/-- The head of a core's XFE queue with its progress. -/
def xfeHead (s : State) (core : Nat) : Option XCmd := (coreAt s core).xq.head?

/-- Replaces the head's progress. -/
def setXRun (s : State) (core : Nat) (r : EngRun) : State :=
  modCore s core fun c => match c.xq with
    | [] => c
    | x :: xs => { c with xq := { x with run := some r } :: xs }

/-- Replaces the head's accesses beside its elements. -/
def setXIo (s : State) (core : Nat) (io : EngIo) : State :=
  modCore s core fun c => match c.xq with
    | [] => c
    | x :: xs => { c with xq := { x with io := io } :: xs }

/-- The dictionary with which a WIRE command compresses its writes (R163). -/
def XCmd.wireDict (x : XCmd) : Option (Nat × Nat × List Word) :=
  if x.wire then x.dict.map fun ws => (x.dslot, crc32 (wordsLE ws) % 65536, ws) else none

/-- Goes on with the head command: plans its next element when the last is done, and sends the next access. -/
def xfeGo (s : State) (core : Nat) (x : XCmd) (r : EngRun) : State :=
  let r := if r.ended ∨ r.out ∨ r.reads ≠ [] ∨ r.writes ≠ [] then r else xfePlan x r
  if r.ended then setXRun s core r
  else
    let (s1, r1) := engSend s x.iss (.xfe core) x.id r.elem 1 x.wireDict r
    setXRun s1 core r1

/-- Goes on with what a command reads before its first element, and then with its elements. -/
def xfeBegin (s : State) (core : Nat) (x : XCmd) : State :=
  match xfeInit (coreAt s core) x x.io.log with
  | .need w =>
    let (s1, io) := engAsk s (.xfe core) x.iss x.id 0 1 none x.io w
    setXIo s1 core io
  | .fault c la _ _ => setXRun s core ((EngRun.fresh x.skip 0).fail c la)
  | .ok o _ =>
    let s1 := o.copies.foldl (fun s e => modCore s core fun c => setRec c e.1 { recAt c e.1 with copy := some e.2 }) (setSrcb s x.iss fun _ => o.used)
    xfeGo (setXIo s1 core EngIo.reset) core x o.run

/-- The head command leaves the queue; its source tile loses a reader (R159, R165). -/
def xfeLeave (s : State) (core : Nat) (x : XCmd) : State :=
  let s := modCore s core fun c => { c with xq := c.xq.drop 1 }
  endCmd (if x.stv then endReadTile s (clusterOf core) x.stile else s) x.iss.slot x.id

/-- The stamp of a command that has ended is written, and once it is performed the command leaves (R161, R165, R168). -/
def xfeClose (s : State) (core : Nat) (x : XCmd) (r : EngRun) : State :=
  match stampEnd s id core 0x40 (x.iss.at x.stamp) (stampWord ((r.fault.map EngFault.cause).getD 0) x.seq) x.io.log with
  | .ok s1 _ => xfeLeave s1 core x
  | .fault _ _ _ _ => xfeLeave s core x
  | .need w =>
    let (s1, io) := engAsk s (.xfe core) x.iss x.id 0 1 x.wireDict { x.io with told := true } w
    setXIo s1 core io

/-- The XFE starts its next command, or goes on with one that waited for a translation (R161, R275). -/
def execXfeCommandStart (core : Nat) (s : State) : Out :=
  match xfeHead s core with
  | none => .next s
  | some x =>
    match x.run with
    | some r => if r.ended ∨ r.out then .next s else .next (xfeGo s core x r)
    | none =>
      if x.io.out.isSome then .next s
      else if x.io.log ≠ [] ∨ !barsHold (coreAt s core) x.iss.bars then .next (xfeBegin (setSrcb s x.iss fun _ => 0) core x)
      else .next s

/-- A read of the head command has come back. -/
def xfeReadDone (s : State) (core cmd : Nat) (v : Reply) : State :=
  match xfeHead s core with
  | none => s
  | some x =>
    if x.id ≠ cmd then s
    else match x.run, v with
      | none, _ => if x.io.out.isNone then s else xfeBegin (setXIo s core (x.io.read v)) core { x with io := x.io.read v }
      | some r, .value bs =>
        if !r.out then s
        else
          let r1 := { r with out := false, reads := r.reads.drop 1, got := r.got ++ bs }
          if r1.reads ≠ [] then xfeGo s core x r1
          else
            let n := if !x.c4 then x.es else if x.i0 r.elem % 2 = 0 ∨ r.elem = x.skip then 1 else 0
            xfeGo (setSrcb s x.iss fun b => b + n) core x (xfeData x r1)
      | some r, .poison c _ =>
        if !r.out then s else setXRun s core ({ r with out := false }.fail c ((r.reads.head?.map Prod.fst).getD 0))

/-- The pieces of an element's write whose access has been performed are done; with the last, the element. -/
def EngRun.wrote (r : EngRun) (pieces group : Nat) : EngRun :=
  let ws := r.writes.drop pieces
  { r with out := false, writes := ws, idx := if ws = [] then [] else r.idx, elem := if ws = [] then r.elem + group else r.elem }

/-- The logical address of a piece of an element's read, and of its write. -/
def EngRun.readLa (r : EngRun) (piece : Nat) : Nat := (r.reads[piece]?.map Prod.fst).getD 0
def EngRun.writeLa (r : EngRun) (piece : Nat) : Nat := (r.writes[piece]?.map Prod.fst).getD 0

/-- A write of the head command, of so many pieces, is performed, or the piece of that number is refused with a cause. -/
def xfeWriteDone (s : State) (core cmd piece : Nat) (err : Option Nat) : State :=
  match xfeHead s core with
  | none => s
  | some x =>
    if x.id ≠ cmd then s
    else match x.run with
      | none => s
      | some r =>
        if x.io.out.isSome then xfeClose (setXIo s core (x.io.wrote piece err)) core { x with io := x.io.wrote piece err } r
        else if !r.out then s
        else match err with
          | none => xfeGo s core x { r.wrote piece 1 with idx := r.idx }
          | some c => setXRun s core ({ r with out := false }.fail c (r.writeLa piece))

/-- After its last write is performed, the command writes its stamp (R165, R168). -/
def execXfeCommandEnd (core : Nat) (s : State) : Out :=
  match xfeHead s core with
  | none => .next s
  | some x => match x.run with
    | none => .next s
    | some r => if r.ended ∧ r.fault.isNone ∧ x.io.out.isNone then .next (xfeClose s core x r) else .next s

/-- A fault ends the command: the status registers of the issuing thread, once, and an error stamp (R167). -/
def execXfeFault (core : Nat) (s : State) : Out :=
  match xfeHead s core with
  | none => .next s
  | some x => match x.run with
    | none => .next s
    | some r => match r.fault with
      | none => .next s
      | some f =>
        if x.io.out.isSome then .next s
        else
          let s1 := if !x.io.told && x.iss.lives s then
            modSlot s x.iss.slot fun y => (y.setCreg 0x4A (nw f.elem)).setCreg 0x4B (nw f.la) else s
          .next (xfeClose s1 core x r)

end Sys2Proof.Machine
end

