-- ==== Sys2Proof/Machine/Streams.lean ====
section
/-! DEFINITION. Stream registers and the relay (R51, R172 to R176). -/

namespace Sys2Proof.Machine

/-! Stream registers (R172 to R174). -/

/-- The general register of a stream. -/
def streamReg (d : BitVec 2) : Nat := 24 + d.toNat

/-- Descriptor fields. -/
def sdS0 (ds : List Word) : Int := sxNat 32 (bitF (val ds 1) 0 32)
def sdS1 (ds : List Word) : Int := sxNat 32 (bitF (val ds 1) 32 32)
def sdS2 (ds : List Word) : Int := sxNat 32 (bitF (val ds 2) 0 32)
def sdN0 (ds : List Word) : Nat := bitF (val ds 2) 32 16
def sdN1 (ds : List Word) : Nat := bitF (val ds 2) 48 16
def sdCount (ds : List Word) : Nat := bitF (val ds 3) 0 24
def sdPos (ds : List Word) : Nat := bitF (val ds 3) 24 24

/-- A descriptor that `strm` accepts (R173). -/
def sdOk (ds : List Word) : Bool :=
  decide (sdCount ds ≠ 0) && decide (sdN0 ds ≠ 0) && decide (sdN1 ds ≠ 0) && decide (sdPos ds ≤ sdCount ds) && decide (bitF (val ds 3) 52 12 = 0)

/-- The descriptor with POS. -/
def sdSetPos (ds : List Word) (pos : Nat) : List Word := ds.set 3 (setF (val ds 3) 24 24 pos)

/-- Enters stream mode with a descriptor, as stream `id`: the registers THR_STRs_w show it (R173, R178). -/
def Slot.enterStream (x : Slot) (i id : Nat) (iss : Issuer) (ds : List Word) : Slot :=
  let y := (rangeFrom 0 4).foldl (fun y w => y.setCreg (0x50 + 4 * i + w) (val ds w)) x
  { y.setStream i ⟨true, iss, ds, sdPos ds, [], sdPos ds, false, none, id, EngIo.reset⟩ with full := bitClr y.full (24 + i) }

/-- Leaves stream mode; the registers keep the descriptor with POS (R173). -/
def Slot.leaveStream (x : Slot) (i : Nat) : Slot :=
  let t := x.stream i
  (x.setCreg (0x53 + 4 * i) (setF (x.creg (0x53 + 4 * i)) 24 24 t.pos)).setStream i Stream.reset

/-- Puts a register into stream mode (R173). -/
def execStrm (d : BitVec 2) (a : GReg) (t : Bool) (s : State) : Out :=
  .next (withOps s [a] none false fun s vs =>
    let x := slotAt s s.cur
    if bitOf x.pend (streamReg d) then .park s
    else if (x.stream d.toNat).on then .trap 0x42 (nw (streamReg d))
    else withAnswers s fun ws => ptrBytes s ws (val vs 0) 0 32 16 fun s _ bs =>
      let ds := dwords 4 bs
      if !sdOk ds then .trap 0x42 (nw ((issuerOf s s.cur).at (val vs 0)))
      else
        let (id, s1) := takeFresh s
        .done (modSlot s1 s.cur fun x => (x.takeIf t a.toNat).enterStream d.toNat id (issuerOf s s.cur) ds))

/-- One store of a structure in memory by the thread at slot `cur`: own LM at issue, else posted; `held` when no journal entry is free. -/
def putPiece (s held : State) (pa : Nat) (bs : List Byte) (acc : Acc) (ended : State → Res) : Res :=
  let core := coreOf s.cur
  match ownLm s core pa with
  | .own off => match lmWrite s core off bs with
    | .ok s1 _ => ended (dirWrite s1 core off none)
    | .poison _ c _ => .trap c (nw pa)
    | .deny _ e => .trap e.cause (nw pa)
    | .wait _ => .park held
  | .off => .trap 0x16 (nw acc.la)
  | .retired => .trap 0x17 (nw acc.la)
  | .other =>
    if isCtl s pa || isHost s pa then .trap 0x10 (nw acc.la)
    else match postStore s s.cur pa bs none acc with
      | some s1 => ended s1
      | none => .park held

/-- Stores 32 bytes through a segmented pointer aligned to 16: two stores of 16 bytes (R107, R131, R132, R173). -/
def ptrPut (s : State) (p : Word) (bs : List Byte) (ended : State → Res) : Res :=
  let x := slotAt s s.cur
  match ptrSpan x p 32 16 needW with
  | .error (c, v) => .trap c v
  | .ok la => onAddr s (ptrSeg p) (physical s s.cur x.asid la needW) fun s _ pa a =>
    onAddr s (ptrSeg p) (physical s s.cur x.asid (la + 16) needW) fun s _ pb b =>
      putPiece s s pa (bs.take 16) a fun s1 => putPiece s1 s pb (bs.drop 16) b ended

/-- Drains and leaves stream mode, and stores the descriptor unless a = 0 (R173). -/
def execStrmoff (d : BitVec 2) (a : GReg) (t : Bool) (s : State) : Out :=
  .next (withOps s [a] none false fun s vs =>
    let st := (slotAt s s.cur).stream d.toNat
    if !st.on then .trap 0x42 (nw (streamReg d))
    else match st.fault with
      | some (c, v) => .trapStream d.toNat c v
      | none =>
        if st.writes ∧ st.fifo ≠ [] then .park s
        else
          let ends (s : State) : Res :=
            .done (modSlot s s.cur fun x => ((x.takeIf t a.toNat).leaveStream d.toNat).setReg (streamReg d) (nw st.pos))
          if a = 0#5 then ends s
          else ptrPut s (val vs 0) (wordsLE (sdSetPos st.desc st.pos)) ends)

/-- The offset of element `k` from BASE's offset (R172). -/
def elemOff (ds : List Word) (k : Nat) : Int :=
  ((k % sdN0 ds : Nat) : Int) * sdS0 ds + ((k / sdN0 ds % sdN1 ds : Nat) : Int) * sdS1 ds + ((k / (sdN0 ds * sdN1 ds) : Nat) : Int) * sdS2 ds

/-- The logical address of element `k`, checked through BASE's segment and aligned to ESZ; a failure has its cause and address (R172). -/
def Stream.elemLa (t : Stream) (k : Nat) : Except (Nat × Nat) Nat :=
  let p := val t.desc 0
  let off := (ptrOff p : Int) + elemOff t.desc k
  let at_ := faultLa t.iss (p, off)
  match t.iss.la p off t.esz (if t.writes then needWD else needRD) with
  | .error c => .error (c, at_)
  | .ok la => if ptrMid p ≠ 0 then .error (0x10, at_) else if la % t.esz ≠ 0 then .error (0x12, la) else .ok la

/-- Replaces a stream, and wakes its slot when an element has come or gone. -/
def putStream (s : State) (k st : Nat) (t : Stream) : State := modSlot s k fun x => x.setStream st t

/-- The accesses that a stream's engine needs go out under its core's stream agent (R101). -/
def streamAsk (s : State) (k st : Nat) (t : Stream) (w : EngNeed) : State :=
  let (s1, io) := engAsk s (.strm (coreOf k)) t.iss t.id (4 * k + st) 8 none t.io w
  putStream s1 k st { t with io := io }

/-- The next element of a read stream: its read goes out, or its value, or its fault as poison, enters the FIFO (R174). -/
def fetchGo (s : State) (k st : Nat) (t : Stream) : State :=
  let put (t : Stream) : State := putStream s k st { t with io := EngIo.reset }
  let fault (c a : Nat) : State := put { t with fifo := t.fifo ++ [⟨poisonWord c a, true⟩], halted := true }
  if !t.on ∨ t.writes ∨ t.halted ∨ 8 ≤ t.fifo.length ∨ t.count ≤ t.next ∨ t.io.out.isSome then s
  else match t.elemLa t.next with
    | .error (c, a) => fault c a
    | .ok la => match engBytes t.io.log la t.esz with
      | .need w => streamAsk s k st t w
      | .fault c _ pa _ => fault c pa
      | .ok bs _ => put { t with fifo := t.fifo ++ [⟨extend t.esz t.sx bs, false⟩], next := t.next + 1 }

/-- The oldest pushed element of a write stream: its write goes out, or has been performed or refused (R174). An element that a parity error has
made poison is written nowhere, and is a write fault of its cause. DEDUCED, unsafe (log entry 104). -/
def pushGo (s : State) (k st : Nat) (t : Stream) : State :=
  let put (t : Stream) : State := putStream s k st { t with io := EngIo.reset }
  let fault (c a : Nat) : State := put { t with fifo := [], pos := t.next, fault := some (c, nw a) }
  match t.fifo with
  | [] => s
  | e :: es =>
    if !t.on ∨ !t.writes ∨ t.io.out.isSome then s
    else if e.pois then fault (bitF e.v 57 7) (bitF e.v 0 56)
    else match t.elemLa t.next with
      | .error (c, a) => fault c a
      | .ok la => match engPut t.io.log la (wordLE t.esz e.v) with
        | .need w => streamAsk s k st t w
        | .fault c _ pa _ => fault c pa
        | .ok _ _ => put { t with fifo := es, next := t.next + 1 }

/-- The stream engine fetches the next element of a read stream (R174). -/
def execStreamFetch (k : Nat) (st : Nat) (s : State) : Out := .next (fetchGo s k st ((slotAt s k).stream st))

/-- The stream engine writes the oldest pushed element of a write stream (R174). -/
def execStreamWrite (k : Nat) (st : Nat) (s : State) : Out := .next (pushGo s k st ((slotAt s k).stream st))

/-- An answer reaches the stream that asked, while it is still that stream. -/
def streamAnswer (s : State) (id at_ : Nat) (f : EngIo → EngIo) : State :=
  let k := at_ / 4
  let t := (slotAt s k).stream (at_ % 4)
  if t.id ≠ id ∨ t.io.out.isNone then s
  else
    let t := { t with io := f t.io }
    let s := putStream s k (at_ % 4) t
    if t.writes then pushGo s k (at_ % 4) t else fetchGo s k (at_ % 4) t

/-! The relay (R51, R175, R176). -/

/-- The lengths and places of a chunk: chunk c of LEN elements among N participants (R176). -/
def chunkFirst (len n c : Nat) : Nat := Nat.min (c * ((len + n - 1) / n)) len
def chunkCount (len n c : Nat) : Nat := chunkFirst len n (c + 1) - chunkFirst len n c

/-- The sum of one element of chunk `c` over the participants, in the ring's order (R51). -/
def ringSum (xs : List Nat) (c : Nat) : Nat :=
  let n := xs.length
  match (rangeFrom 1 n).map fun i => xs.getD ((c + i) % n) 0 with
  | [] => 0
  | x :: rest => rest.foldl (fun a b => f32Add .rne a b) x

/-- The vectors after a collective (R176). -/
def collective (op len : Nat) (vs : List (List Nat)) : List (List Nat) :=
  let n := vs.length
  let chunkOf (e : Nat) : Nat := e / ((len + n - 1) / n)
  let sum (e : Nat) : Nat := ringSum (vs.map fun v => v.getD e 0) (chunkOf e)
  (rangeFrom 0 n).map fun p => (rangeFrom 0 len).map fun e =>
    if op = 0 then if chunkOf e = p then sum e else (vs.getD p []).getD e 0
    else if op = 1 then (vs.getD (chunkOf e) []).getD e 0
    else sum e

/-- The address is in the LM or CSP windows of this package (R54, R176). -/
def lmOrCsp (la : Nat) : Bool := decide (0x20000000000 ≤ la) && decide (la < 0x21900000000)

/-- A collective's descriptor, by its dwords (R175). -/
def colN (ds : List Word) : Nat := bitF (val ds 0) 8 7
def colLen (ds : List Word) : Nat := bitF (val ds 0) 32 32
def colBufs (ds : List Word) : List Word := (ds.drop 4).take (colN ds)

/-- The first row of R176. -/
def colBad (s : State) (i : Issuer) (ds : List Word) : Bool :=
  let n := colN ds
  let len := 4 * colLen ds
  let las := (colBufs ds).map fun p => localPa s (i.at p)
  decide (bitF (val ds 0) 0 2 = 3) || decide (n = 0) || decide (64 < n) || decide (colLen ds = 0)
    || decide (bitF (val ds 0) 2 6 ≠ 0) || decide (bitF (val ds 0) 15 17 ≠ 0) || decide (val ds 2 ≠ 0#64) || decide (val ds 3 ≠ 0#64)
    || las.any (fun a => !(lmOrCsp a && lmOrCsp (a + len - 1)))
    || (rangeFrom 0 n).any fun p => (rangeFrom 0 p).any fun q =>
        decide (las.getD p 0 < las.getD q 0 + len) && decide (las.getD q 0 < las.getD p 0 + len)

/-- The rights that a buffer needs (R175). -/
def needRWD : Need := { r := true, w := true, d := true }

/-- Reads and checks a collective descriptor and queues it on the CLE (R175, R176). -/
def execColgo (a b : GReg) (t : Bool) (s : State) : Out :=
  .next (withOps s [a, b] none false fun s vs =>
    let p := val vs 0
    withAnswers s fun ws => ptrBytes s ws p 0 32 8 fun s ws hd =>
      let n := colN (dwords 4 hd)
      ptrBytes s ws p 32 (8 * n) 8 fun s _ bs =>
        let ds := dwords (4 + n) (hd ++ bs)
        let iss := issuerOf s s.cur
        let tw := slotTower s.cur
        if colBad s iss ds then .trap 0x45 (nw (iss.at p))
        else match ptrRows iss (flatUse (val ds 1) 8 needWD 8 :: (colBufs ds).map fun q => flatUse q (4 * colLen ds) needRWD 4) with
          | some (c, v) => .trap c v
          | none =>
            if 8 ≤ (towerAt s tw).cle.length then .park s
            else
              let (id, s1) := takeFresh s
              let c : ColCmd := ⟨id, iss, bitF (val ds 0) 0 2, colLen ds, iss.at (val ds 1), (colBufs ds).map iss.at, bitF (val vs 1) 0 32, false, none,
                EngIo.reset⟩
              .done (modSlot (modTower s1 tw fun w => { w with cle := w.cle ++ [c] }) s.cur
                fun x => { x.takeIf t a.toNat with cmds := x.cmds ++ [⟨id, 2, false⟩] }))

/-- The CLE starts its next collective (R175, R275). -/
def execCleCollectiveStart (tower : Nat) (s : State) : Out :=
  match (towerAt s tower).cle with
  | [] => .next s
  | c :: cs =>
    if c.running ∨ barsHold (coreAt s (coreOf c.iss.slot)) c.iss.bars then .next s
    else .next (modTower s tower fun w => { w with cle := { c with running := true } :: cs })

/-- Reads every buffer. -/
def colRead (n : Nat) : List Nat → List EngAns → List (List Nat) → EngGot (List (List Nat))
  | [], log, acc => .ok acc.reverse log
  | la :: rest, log, acc => match engBytes log la (4 * n) with
    | .ok bs log => colRead n rest log (((rangeFrom 0 n).map fun i => leNat ((bs.drop (4 * i)).take 4)) :: acc)
    | .fault c l pa log => .fault c l pa log
    | .need w => .need w

/-- Writes the elements that a collective changes. -/
def colWrite : List (Nat × List Nat) → List EngAns → EngGot Unit
  | [], log => .ok () log
  | (la, v) :: rest, log => match engPut log la (words32LE v) with
    | .ok _ log => colWrite rest log
    | .fault c l pa log => .fault c l pa log
    | .need w => .need w

/-- The part of each vector that the collective writes: first element and values (R176). -/
def colParts (op len : Nat) (las : List Nat) (vs : List (List Nat)) : List (Nat × List Nat) :=
  let n := las.length
  let new := collective op len vs
  (rangeFrom 0 n).flatMap fun p =>
    let la := las.getD p 0
    let v := new.getD p []
    let lo := chunkFirst len n p
    let k := chunkCount len n p
    if op = 0 then [(la + 4 * lo, (v.drop lo).take k)]
    else if op = 1 then [(la, v.take lo), (la + 4 * (lo + k), v.drop (lo + k))]
    else [(la, v)]

/-- A collective's accesses to its buffers: a buffer in a spread region ends it with 0x21, whatever package the address names (R127, R176). -/
def colRun (s : State) (c : ColCmd) (log : List EngAns) : EngGot Unit :=
  match c.bufs.find? fun a => match placeOf s (localPa s a) with
    | .spread _ _ => true
    | _ => false with
  | some a => .fault 0x21 a a log
  | none => (colRead c.len c.bufs log []).bind fun vs log => colWrite (colParts c.op c.len c.bufs vs) log

/-- Replaces the head of a tower's CLE queue. -/
def setCol (s : State) (tower : Nat) (c : ColCmd) : State := modTower s tower fun w => { w with cle := c :: w.cle.drop 1 }

/-- The running collective goes on: the next access of its buffers, then its stamp, after which it leaves (R176). -/
def cleGo (s : State) (tower : Nat) (c : ColCmd) : State :=
  let ask (s : State) (c : ColCmd) (w : EngNeed) : State :=
    let (s1, io) := engAsk s (.cle tower) c.iss c.id 0 4 none c.io w
    setCol s1 tower { c with io := io }
  let failed (s : State) (k pa : Nat) : State := modTower s tower fun w => w.setCreg 0x3C2 (nw (2 ^ 63 + k % 128 * 2 ^ 56 + pa % 2 ^ 56))
  let close (s : State) (c : ColCmd) (cause : Nat) : State :=
    match stampEnd s (fun s => failed s 0x21 c.stamp) (coreOf c.iss.slot) 0x40 c.stamp (stampWord cause c.seq) c.io.log with
    | .need w => ask s c w
    | .ok s1 _ => endCmd (modTower s1 tower fun w =>
        { w.setCreg 0x3C0 (addF (w.creg 0x3C0) 32 32 1) with cle := w.cle.drop 1 }) c.iss.slot c.id
    | .fault _ _ _ _ => s
  if !c.running ∨ c.io.out.isSome then s
  else match c.fault with
    | some (k, _) => close s c k
    | none =>
      if c.io.told then close s c 0
      else match colRun s c c.io.log with
        | .need w => ask s c w
        | .ok _ _ =>
          let c := { c with io := ⟨none, [], true⟩ }
          close (setCol s tower c) c 0
        | .fault k _ pa _ =>
          let c := { c with fault := some (k, pa), io := ⟨none, [], true⟩ }
          close (setCol (failed s k pa) tower c) c k

/-- The running collective goes on to its end (R176). -/
def execCleCollectiveEnd (tower : Nat) (s : State) : Out :=
  match (towerAt s tower).cle with
  | [] => .next s
  | c :: _ => .next (cleGo s tower c)

/-- An answer reaches the collective that asked. -/
def cleAnswer (s : State) (tower id : Nat) (f : EngIo → EngIo) : State :=
  match (towerAt s tower).cle with
  | [] => s
  | c :: _ =>
    if c.id ≠ id ∨ c.io.out.isNone then s
    else
      let c := { c with io := f c.io }
      cleGo (setCol s tower c) tower c

end Sys2Proof.Machine
end

