-- ==== Sys2Proof/Machine/Ve.lean ====
section
/-! DEFINITION. The vector engine: registers, commands and their checks at issue, arithmetic, conversion, codebooks, reductions, and its
events (R203 to R222). -/

namespace Sys2Proof.Machine

/-- Writes an address register of the VE (R207). -/
def execVset (a b : GReg) (t : Bool) (e : BitVec 3) (s : State) : Out :=
  .next (withOps s [a, b] none false fun s vs =>
    .done (modSlot s s.cur fun x =>
      ((x.takeIf t a.toNat).setCreg (0x60 + 2 * e.toNat) (val vs 0)).setCreg (0x61 + 2 * e.toNat)
        (val vs 1 &&& 0x80FC0000FFFFFFFF#64)))

/-! What the forms are (R208). -/

/-- The families of forms that share checks. -/
def VOp.isFlt : VOp → Bool
  | .vadd | .vsub | .vmul | .vfma | .vmax | .vmin | .vabs | .vneg | .vscale => true
  | _ => false
def VOp.isInt : VOp → Bool
  | .viadd | .visub | .vimul | .viand | .vior | .vixor | .vishl | .vishr => true
  | _ => false
def VOp.isRed : VOp → Bool
  | .vsum | .vmaxr | .vdot => true
  | _ => false

/-- The form has a second source. -/
def VOp.twoSrc : VOp → Bool
  | .vadd | .vsub | .vmul | .vfma | .vmax | .vmin | .viadd | .visub | .vimul | .viand | .vior | .vixor | .vdot => true
  | _ => false

/-- The source and destination formats that a form allows (R208). -/
def VOp.formats (op : VOp) (fs fd : Nat) : Bool :=
  let conv (f : Nat) : Bool := decide (f ≤ 5) || fmtIsFloat f || decide (f = 0xD)
  let wide (f : Nat) : Bool := decide (f = 0x8 ∨ f = 0x9)
  let code (f : Nat) : Bool := decide (f = 0xE ∨ f = 0xF)
  if op.isFlt || decide (op = .vsat) then fmtIsFloat fs && fmtIsFloat fd
  else if op.isInt then decide (fs ≤ 5) && decide (fd ≤ 5)
  else if op.isRed then fmtIsFloat fs && wide fd
  else if op = .vconv then conv fs && conv fd
  else if op = .vbfp then fmtIsFloat fs && decide (fd = 0xC)
  else if op = .vbfpx then decide (fs = 0xC) && wide fd
  else if op = .vcbq then wide fs && code fd
  else if op = .vcbx then code fs && wide fd
  else true

/-- Fields of VFMT as a command copies it (R206). -/
def VCmd.fs (x : VCmd) : Nat := x.fmt % 16
def VCmd.fd (x : VCmd) : Nat := x.fmt / 16 % 16
def VCmd.rm (x : VCmd) : Rnd := rndOf (x.fmt / 256 % 4)
def VCmd.sat8 (x : VCmd) : Bool := x.fmt.testBit 13
def VCmd.isat (x : VCmd) : Bool := x.fmt.testBit 14
def VCmd.ste (x : VCmd) : Bool := x.fmt.testBit 15

/-- The bits of a source and of a destination element; a `vcbld` reads bf16 entries. -/
def VCmd.ws (x : VCmd) : Nat := if x.op = .vcbld then 16 else fmtBits x.fs
def VCmd.wd (x : VCmd) : Nat := fmtBits x.fd

/-- The action of a `vcbld` (R218): it loads, and the entries of the table that it names. -/
def VCmd.act (x : VCmd) : Nat := bitF x.s 0 2
def VCmd.loads (x : VCmd) : Bool := decide (x.op = .vcbld) && decide (x.act < 2)
def VCmd.entries (x : VCmd) : Nat := if x.act % 2 = 0 then 16 else 256

/-- The entries of the table that a form needs (R218, R219). -/
def VCmd.needs (x : VCmd) : Option Nat :=
  if x.op = .vcbq then some (if x.fd = 0xE then 16 else 256)
  else if x.op = .vcbx then some (if x.fs = 0xE then 16 else 256)
  else none

def tableOf (c : Core) (k : Nat) : Option (List Nat) := if k = 16 then c.t16 else c.t256
def setTable (c : Core) (k : Nat) (t : Option (List Nat)) : Core := if k = 16 then { c with t16 := t } else { c with t256 := t }

/-- The bytes of `n` elements of a format of `w` bits (R33, R42). -/
def arrayBytes (w n : Nat) : Nat := if w = 264 then n / 32 * 33 else n * w / 8

/-- Elements of a `w`-bit format in one byte; 1 for whole bytes. -/
def perByte (w : Nat) : Nat := if w < 8 then 8 / w else 1

/-! The checks at issue (R209). -/

/-- An operand of `n` elements of `w` bits; an empty operand has no extent. -/
def veUse (p : Word) (w n : Nat) (need : Need) : PtrUse :=
  let b := arrayBytes w n
  let al := if w = 264 ∨ w < 8 then 1 else Nat.min (w / 8) 4
  if b = 0 then ⟨p, 0, -1, need, al, []⟩ else { flatUse p b need al with align := al }

/-- The operands in the order of the table: ed, ea, eb, stamp. -/
def VCmd.uses (x : VCmd) : List PtrUse :=
  let n := if x.op = .vcbld then x.entries else x.n
  (if x.op = .vcbld then []
    else [veUse x.dst x.wd (if x.op.isRed then 1 else n) { needWD with r := decide (x.op = .vfma) }])
    ++ (if x.op = .vcbld ∧ !x.loads then [] else [veUse x.srcA x.ws n needRD])
    ++ (if x.op.twoSrc then [veUse x.srcB x.ws n needRD] else [])
    ++ (if x.ste then [flatUse x.stamp 8 needWD 8] else [])

/-- The window row: only the tiers, LM and CSP. -/
def winFault (i : Issuer) (u : PtrUse) : Option (Nat × Word) :=
  if segWin (i.hi (ptrSeg u.p)) ≤ 2 then none else some (0x43, u.p)

/-- The row on VFMT, the count and the bound; the whole VFMT is given. -/
def VCmd.badFmt (x : VCmd) (vfmt : Word) : Option (Nat × Word) :=
  let k := Nat.max (perByte x.ws) (perByte x.wd)
  if bitF vfmt 16 48 ≠ 0 ∨ bitF vfmt 10 3 ≠ 0 ∨ !x.op.formats x.fs x.fd
      ∨ ((x.op = .vbfp ∨ x.op = .vbfpx) ∧ x.n % 32 ≠ 0) ∨ (x.op ≠ .vcbld ∧ x.n % k ≠ 0) then some (0x43, vfmt)
  else if x.op = .vsat ∧ f32Val (bitF x.s 0 32) = .nan then some (0x43, x.s)
  else none

/-- The table that a form needs is loaded, or is to be loaded by a command ahead. -/
def tableComes (c : Core) (k : Nat) : Bool :=
  (tableOf c k).isSome || c.vq.any fun y => y.loads && decide (y.entries = k)

/-- The rows of R209 in order. `tvs` gives the tiles of the source registers with TV = 1. DESIGN CHOICE, unsafe (log entry 32). -/
def veCheck (s : State) (x : VCmd) (vfmt : Word) : Option (Nat × Word) :=
  if 16777215 < x.n then some (0x43, nw x.n)
  else match x.badFmt vfmt with
    | some f => some f
    | none => match x.needs.bind (fun k => if tableComes (coreAt s (coreOf x.iss.slot)) k then none else some k) with
      | some k => some (0x44, nw k)
      | none =>
        ((((rowFault x.uses (extentFault x.iss)).or (rowFault x.uses (winFault x.iss))).or (rowFault x.uses (rightsFault x.iss))).or
          (rowFault x.uses (alignFault x.iss))).or
          ((x.tiles.find? fun i => !(tileAt (clusterAt s (clusterOf (coreOf x.iss.slot))) i).v).map fun i => (0x34, nw i))

/-- Advances an address register by its stride (R209). -/
def advanceVe (x : Slot) (e : Nat) : Slot :=
  let b := x.creg (0x60 + 2 * e)
  let st := sxNat 32 (bitF (x.creg (0x61 + 2 * e)) 0 32)
  x.setCreg (0x60 + 2 * e) (setF b 0 40 (wrapInt 40 ((bitF b 0 40 : Nat) + st)))

/-- The tiles that gate a command: those of its source registers with TV = 1, each once (R206, R209). -/
def gateTiles (x : Slot) (es : List Nat) : List Nat :=
  (es.filterMap fun e =>
    let c := x.creg (0x61 + 2 * e)
    if bitB c 63 then some (bitF c 50 6) else none).eraseDups

/-- Issues a command of the VE: `dst` is its destination register (none for `vcbld`), `srcs` its sources; `a` names the count and `b`
the scalar (R208, R209). -/
def veIssue (op : VOp) (dst : Option (BitVec 3)) (srcs : List (BitVec 3)) (a : GReg) (b : Option GReg) (t : Bool) (s : State) : State :=
  withOps s (a :: b.toList) none false fun s vs =>
    let k := s.cur
    let core := coreOf k
    let cl := clusterOf core
    let y := slotAt s k
    let base (e : Option (BitVec 3)) : Word := (e.map fun e => y.creg (0x60 + 2 * e.toNat)).getD 0#64
    let n := if a = 0#5 then bitF (y.creg 0x70) 0 24 else (val vs 0).toNat
    let sc := if b.isSome then val vs 1 else 0#64
    let tiles := if op = .vcbld ∧ 2 ≤ bitF sc 0 2 then [] else gateTiles y (srcs.map BitVec.toNat)
    let x : VCmd := ⟨0, issuerOf s k, op, bitF (y.creg 0x71) 0 16, n, sc, base dst, base srcs[0]?, base srcs[1]?, tiles, y.creg 0x72,
      bitF (y.creg 0x73) 0 32, y.creg 0x78, none, EngIo.reset⟩
    match veCheck s x (y.creg 0x71) with
    | some (c, v) => .trap c v
    | none =>
      if 2 ≤ (coreAt s core).vq.length ∨ tiles.any (fun i => !(tileAt (clusterAt s cl) i).readable) then .park s
      else
        let (id, s1) := takeFresh s
        let s2 := tiles.foldl (fun s i => startReadTile s cl i) s1
        let s3 := modCore s2 core fun c => { c with vq := c.vq ++ [{ x with id := id }] }
        .done (modSlot s3 k fun y =>
          let y1 := ((dst.toList ++ srcs).map BitVec.toNat).eraseDups.foldl advanceVe (y.takeIf t a.toNat)
          { y1.setCreg 0x73 (nw (x.seq + 1) &&& 0xFFFFFFFF#64) with cmds := y.cmds ++ [⟨id, 0, true⟩] })

/-! The command forms. -/

/-- Adds floating-point arrays (R213). -/
def execVadd (a : GReg) (t : Bool) (x y e : BitVec 3) (s : State) : Out := .next (veIssue .vadd (some e) [x, y] a none t s)
/-- Subtracts floating-point arrays (R213). -/
def execVsub (a : GReg) (t : Bool) (x y e : BitVec 3) (s : State) : Out := .next (veIssue .vsub (some e) [x, y] a none t s)
/-- Multiplies floating-point arrays (R213). -/
def execVmul (a : GReg) (t : Bool) (x y e : BitVec 3) (s : State) : Out := .next (veIssue .vmul (some e) [x, y] a none t s)
/-- Multiplies and adds into the destination (R213). -/
def execVfma (a : GReg) (t : Bool) (x y e : BitVec 3) (s : State) : Out := .next (veIssue .vfma (some e) [x, y] a none t s)
/-- The larger of two elements (R213). -/
def execVmax (a : GReg) (t : Bool) (x y e : BitVec 3) (s : State) : Out := .next (veIssue .vmax (some e) [x, y] a none t s)
/-- The smaller of two elements (R213). -/
def execVmin (a : GReg) (t : Bool) (x y e : BitVec 3) (s : State) : Out := .next (veIssue .vmin (some e) [x, y] a none t s)
/-- Magnitudes (R213). -/
def execVabs (a : GReg) (t : Bool) (x e : BitVec 3) (s : State) : Out := .next (veIssue .vabs (some e) [x] a none t s)
/-- Negation (R213). -/
def execVneg (a : GReg) (t : Bool) (x e : BitVec 3) (s : State) : Out := .next (veIssue .vneg (some e) [x] a none t s)
/-- Multiplies by a scalar (R213). -/
def execVscale (a b : GReg) (t : Bool) (x e : BitVec 3) (s : State) : Out := .next (veIssue .vscale (some e) [x] a (some b) t s)
/-- Adds integer arrays (R214). -/
def execViadd (a : GReg) (t : Bool) (x y e : BitVec 3) (s : State) : Out := .next (veIssue .viadd (some e) [x, y] a none t s)
/-- Subtracts integer arrays (R214). -/
def execVisub (a : GReg) (t : Bool) (x y e : BitVec 3) (s : State) : Out := .next (veIssue .visub (some e) [x, y] a none t s)
/-- Multiplies integer arrays (R214). -/
def execVimul (a : GReg) (t : Bool) (x y e : BitVec 3) (s : State) : Out := .next (veIssue .vimul (some e) [x, y] a none t s)
/-- Bitwise and (R214). -/
def execViand (a : GReg) (t : Bool) (x y e : BitVec 3) (s : State) : Out := .next (veIssue .viand (some e) [x, y] a none t s)
/-- Bitwise or (R214). -/
def execVior (a : GReg) (t : Bool) (x y e : BitVec 3) (s : State) : Out := .next (veIssue .vior (some e) [x, y] a none t s)
/-- Bitwise exclusive or (R214). -/
def execVixor (a : GReg) (t : Bool) (x y e : BitVec 3) (s : State) : Out := .next (veIssue .vixor (some e) [x, y] a none t s)
/-- Shifts left by a scalar (R214). -/
def execVishl (a b : GReg) (t : Bool) (x e : BitVec 3) (s : State) : Out := .next (veIssue .vishl (some e) [x] a (some b) t s)
/-- Shifts right by a scalar (R214). -/
def execVishr (a b : GReg) (t : Bool) (x e : BitVec 3) (s : State) : Out := .next (veIssue .vishr (some e) [x] a (some b) t s)
/-- Converts between formats (R215). -/
def execVconv (a : GReg) (t : Bool) (x e : BitVec 3) (s : State) : Out := .next (veIssue .vconv (some e) [x] a none t s)
/-- Converts to bfp8 blocks (R216). -/
def execVbfp (a : GReg) (t : Bool) (x e : BitVec 3) (s : State) : Out := .next (veIssue .vbfp (some e) [x] a none t s)
/-- Widens bfp8 blocks (R216). -/
def execVbfpx (a : GReg) (t : Bool) (x e : BitVec 3) (s : State) : Out := .next (veIssue .vbfpx (some e) [x] a none t s)
/-- Quantises by a codebook (R219). -/
def execVcbq (a : GReg) (t : Bool) (x e : BitVec 3) (s : State) : Out := .next (veIssue .vcbq (some e) [x] a none t s)
/-- Expands codebook codes (R219). -/
def execVcbx (a : GReg) (t : Bool) (x e : BitVec 3) (s : State) : Out := .next (veIssue .vcbx (some e) [x] a none t s)
/-- Clamps to a bound (R217). -/
def execVsat (a b : GReg) (t : Bool) (x e : BitVec 3) (s : State) : Out := .next (veIssue .vsat (some e) [x] a (some b) t s)
/-- Sums an array (R221). -/
def execVsum (a : GReg) (t : Bool) (x e : BitVec 3) (s : State) : Out := .next (veIssue .vsum (some e) [x] a none t s)
/-- The maximum of an array (R221). -/
def execVmaxr (a : GReg) (t : Bool) (x e : BitVec 3) (s : State) : Out := .next (veIssue .vmaxr (some e) [x] a none t s)
/-- A dot product (R221). -/
def execVdot (a : GReg) (t : Bool) (x y e : BitVec 3) (s : State) : Out := .next (veIssue .vdot (some e) [x, y] a none t s)
/-- Loads or invalidates a codebook table; its count is the table's (R218). -/
def execVcbld (b : GReg) (x : BitVec 3) (s : State) : Out := .next (veIssue .vcbld none [x] 0#5 (some b) false s)

/-! Arithmetic on elements. -/

/-- The larger of two values; +0 is larger than −0 (R213). -/
def fvMax : FVal → FVal → FVal
  | .nan, _ => .nan
  | _, .nan => .nan
  | a, b => if a.lt b then b else if b.lt a then a else match a with
    | .fin true 0 _ => b
    | _ => a

/-- The smaller of two values. -/
def fvMin (a b : FVal) : FVal := (fvMax a.neg b.neg).neg

/-- Rounds a value once to a float format code, with 1 for an element counted as saturated (R37, R40, R213). -/
def veRound (fd : Nat) (rm : Rnd) (sat8 : Bool) (v : FVal) : Nat × Nat :=
  if fd = 0x8 then (fmtF32.round rm v, 0) else if fd = 0x9 then (fmtBf16.round rm v, 0)
  else if fd = 0xA then fmtE4m3.narrow rm sat8 v else fmtE5m2.narrow rm sat8 v

/-- The exact result of VFLT (R213); `d` is the old destination and `c` the scalar. -/
def vfltExact (op : VOp) (rm : Rnd) (a b d c : FVal) : FVal :=
  match op with
  | .vadd => a.add rm b
  | .vsub => a.add rm b.neg
  | .vmul => a.mul b
  | .vfma => (a.mul b).add rm d
  | .vmax => fvMax a b
  | .vmin => fvMin a b
  | .vabs => a.abs
  | .vneg => a.neg
  | _ => a.mul c

/-- The exact result of VINT (R214). -/
def vintExact (op : VOp) (fs a b k : Nat) : Int :=
  let x := intVal fs a
  let y := intVal fs b
  match op with
  | .viadd => x + y
  | .visub => x - y
  | .vimul => x * y
  | .viand => intVal fs (Nat.land a b)
  | .vior => intVal fs (Nat.lor a b)
  | .vixor => intVal fs (Nat.xor a b)
  | .vishl => x * (2 ^ k : Nat)
  | _ => x / (2 ^ k : Nat)

/-- Narrows an integer to a format: it wraps or is clamped (R214). -/
def narrowInt (fd : Nat) (isat : Bool) (r : Int) : Nat × Nat :=
  let w := fmtBits fd
  let lo : Int := if fd % 2 = 0 then -(2 ^ (w - 1) : Nat) else 0
  let hi : Int := if fd % 2 = 0 then (2 ^ (w - 1) : Nat) - 1 else (2 ^ w : Nat) - 1
  if isat then
    if r < lo then (wrapInt w lo, 1) else if hi < r then (wrapInt w hi, 1) else (wrapInt w r, 0)
  else (wrapInt w r, 0)

/-- An integer clamped to a t2 value (R215). DEDUCED, unsafe (log entry 33). -/
def toT2 (i : Int) : Nat × Nat := if i < -1 then (3, 1) else if 1 < i then (1, 1) else if i = -1 then (3, 0) else (i.toNat, 0)

/-- Converts one element (R215). A non-canonical bf16 NaN widens to the canonical NaN of f32 (R37; R36 and R215 would keep its payload), and an
element of equal source and destination format is copied, a t2 code 10 too, which is then not counted (R44, R215).
DESIGN CHOICE, unsafe (log entries 85 and 86). -/
def vconvElem (fs fd : Nat) (rm : Rnd) (sat8 isat : Bool) (a : Nat) : Nat × Nat :=
  if fs = fd then (a, 0)
  else if fmtIsFloat fs then
    let v := floatVal fs a
    if fmtIsFloat fd then veRound fd rm sat8 v
    else if fd = 0xD then
      match v with
      | .nan => (0, 1)
      | .inf n => (if n then 3 else 1, 1)
      | .fin n m e => toT2 (roundInt rm n m e)
    else v.toInt rm (decide (fd % 2 = 0)) (fmtBits fd)
  else
    let src : Int × Nat := if fs = 0xD then t2Val a else (intVal fs a, 0)
    let r := if fmtIsFloat fd then veRound fd rm sat8 (FVal.ofInt src.1)
      else if fd = 0xD then toT2 src.1 else narrowInt fd isat src.1
    (r.1, r.2 + src.2)

/-- Clamps one element (R217). -/
def vsatElem (fd : Nat) (rm : Rnd) (sat8 : Bool) (t x : FVal) : Nat × Nat :=
  let (r, k) : FVal × Nat :=
    if x = .nan then (.fin false 0 0, 1)
    else if t.lt x then (t, 1) else if x.lt t.neg then (t.neg, 1) else (x, 0)
  let o := veRound fd rm sat8 r
  (o.1, o.2 + k)

/-! Codebooks (R218 to R220). -/

/-- A value for the comparisons of R219: an infinity counts as 2^128. -/
def cbReal : FVal → FVal
  | .inf n => .fin n 1 128
  | v => v

/-- |x − y|, exact. -/
def fvDist (x y : FVal) : FVal := (x.add .rne y.neg).abs

/-- The code of `x`: the nearest entry, the lower index at a tie, 0 when there is none (R219). -/
def nearest (x : FVal) : List FVal → Nat → Option (Nat × FVal) → Nat
  | [], _, best => (best.map Prod.fst).getD 0
  | e :: es, j, best =>
    let d := fvDist x e
    let take : Bool := if e = .nan then false else match best with
      | none => true
      | some b => d.lt b.2
    nearest x es (j + 1) (if take then some (j, d) else best)

/-- The largest of values, or none for none. -/
def maxOf : List FVal → Option FVal
  | [] => none
  | v :: vs => match maxOf vs with
    | none => some v
    | some m => if m.lt v then some v else some m

/-- A value halved. -/
def fvHalf : FVal → FVal
  | .fin n m e => .fin n m (e - 1)
  | v => v

/-- vmax + g_hi / 2 of a table (R220). -/
def spanTop (vs : List FVal) : Option FVal :=
  (maxOf vs).map fun m => match maxOf (vs.filter fun v => v.lt m) with
    | none => m
    | some l => m.add .rne (fvHalf (m.add .rne l.neg))

/-- An element lies outside a table's span (R220). -/
def outsideSpan (table : List Nat) (x : FVal) : Bool :=
  let vs := (table.map fun b => cbReal (fmtBf16.value b)).filter fun v => decide (v ≠ .nan)
  match x with
  | .fin _ _ _ => match spanTop vs, spanTop (vs.map FVal.neg) with
    | some hi, some lo => hi.lt x || lo.lt x.neg
    | _, _ => true
  | _ => true

/-- Counts of `vcbq` for one element (R220). -/
def vcbqCount (s : State) (core : Nat) (x : VCmd) (out : Bool) : State :=
  if !x.iss.lives s then s
  else
    let m := (slotAt s x.iss.slot).creg 0x77
    let w := (bitF m 32 32 + 1) % 2 ^ 32
    let c := (bitF m 0 32 + out.toNat) % 2 ^ 32
    let win := if bitF x.cbcfg 32 24 = 0 then 2 ^ 24 else bitF x.cbcfg 32 24
    let s1 := if bitB x.cbcfg 63 ∧ out ∧ c = (bitF x.cbcfg 0 32 + 1) % 2 ^ 32 then raiseEvent s core 0x73 (nw (x.seq * 2 ^ 32 + w)) else s
    modSlot s1 x.iss.slot fun y => y.setCreg 0x77 (if w = win then 0#64 else nw (w * 2 ^ 32 + c))

/-- Counts saturated elements (R206). -/
def countSat (s : State) (x : VCmd) (k : Nat) : State :=
  if k = 0 ∨ !x.iss.lives s then s else modSlot s x.iss.slot fun y => y.setCreg 0x76 (y.creg 0x76 + nw k)

/-! Reductions (R48, R221). -/

/-- The value in which a lane starts. -/
def laneStart (op : VOp) : Nat := if op = .vmaxr then 0xFF800000 else 0x80000000

/-- A lane takes one element or pair. -/
def laneStep (op : VOp) (rm : Rnd) (lane : Nat) (a b : FVal) : Nat :=
  match op with
  | .vmaxr => roundF32 rm (fvMax (f32Val lane) a)
  | .vdot => roundF32 rm ((a.mul b).add rm (f32Val lane))
  | _ => roundF32 rm ((f32Val lane).add rm a)

/-- One level of the tree, and the four levels. -/
def treeLevel (op : VOp) (rm : Rnd) : List Nat → List Nat
  | a :: b :: l => (if op = .vmaxr then roundF32 rm (fvMax (f32Val a) (f32Val b)) else f32Add rm a b) :: treeLevel op rm l
  | l => l

def laneTree (op : VOp) (rm : Rnd) (l : List Nat) : Nat :=
  (treeLevel op rm (treeLevel op rm (treeLevel op rm (treeLevel op rm l)))).headD 0

/-! A command's elements (R210, R212). -/

/-- Elements that one round of reads covers: a block of bfp8 results needs its 32 sources. -/
def VCmd.group (x : VCmd) : Nat := if x.op = .vbfp then 32 else 1

/-- The pieces that element `e` reads: pointer, offset from it, and bytes. -/
def VCmd.pieces (x : VCmd) (e : Nat) : List (Word × Nat × Nat) :=
  let piece (p : Word) (w : Nat) : Word × Nat × Nat := (p, w * e / 8, Nat.max 1 (w / 8))
  if x.op = .vbfp then [(x.srcA, x.ws / 8 * e, 4 * x.ws)]
  else if x.op = .vbfpx then [(x.srcA, 33 * (e / 32) + e % 32, 1), (x.srcA, 33 * (e / 32) + 32, 1)]
  else
    piece x.srcA x.ws :: ((if x.op.twoSrc then [piece x.srcB x.ws] else []) ++ (if x.op = .vfma then [piece x.dst x.wd] else []))

/-- The bytes of an access that are performed at one instant: a source element (R212), of a block both its mantissa and its exponent, and an element
of the destination but for a block, whose bytes are performed as R267 states. -/
def VCmd.unit (x : VCmd) (r : EngRun) : Nat :=
  if r.reads ≠ [] then if x.op = .vbfpx then 0 else if x.op = .vbfp then x.ws / 8 else 4
  else if x.wd = 264 then 1 else 4

/-- The element's bits in the bytes that were read for it. -/
def pickElem (w e : Nat) (bs : List Byte) : Nat := if w < 8 then packedGet w bs (e % (8 / w)) else leNat bs

/-- Result bits of an element that is written by itself, and the elements that it counts as saturated. -/
def VCmd.result (x : VCmd) (table : List Nat) (e : Nat) (got : List Byte) : Nat × Nat :=
  let k := Nat.max 1 (x.ws / 8)
  let a := pickElem x.ws e (got.take k)
  let b := pickElem x.ws e ((got.drop k).take k)
  let d := leNat (got.drop (2 * k))
  let c := f32Val (bitF x.s 0 32)
  if x.op.isFlt then
    veRound x.fd x.rm x.sat8 (vfltExact x.op x.rm (floatVal x.fs a) (floatVal x.fs b) (floatVal x.fd d) c)
  else if x.op.isInt then narrowInt x.fd x.isat (vintExact x.op x.fs a b (bitF x.s 0 6))
  else match x.op with
    | .vconv => vconvElem x.fs x.fd x.rm x.sat8 x.isat a
    | .vsat => vsatElem x.fd x.rm x.sat8 c.abs (floatVal x.fs a)
    | .vcbq =>
      let v := floatVal x.fs a
      if v = .nan then (0, 1)
      else (nearest (cbReal v) (table.map fun t => cbReal (fmtBf16.value t)) 0 none, (outsideSpan table v).toNat)
    | .vcbx => (if x.fd = 0x8 then bf16ToF32 (table.getD a 0) else table.getD a 0, 0)
    | _ =>
      -- a block element: its mantissa byte and its exponent byte
      let m := bfpRead (got.getD 0 0#8)
      let o := veRound x.fd x.rm x.sat8 (bfpVal m.1 (got.getD 1 0#8).toNat)
      (o.1, o.2 + m.2)

/-- The blocks' source values. -/
def groupVals (fs w : Nat) : Nat → List Byte → List FVal
  | 0, _ => []
  | n + 1, bs => floatVal fs (leNat (bs.take (w / 8))) :: groupVals fs w n (bs.drop (w / 8))

/-- The first element of what a write carries. -/
def VCmd.writeElem (x : VCmd) (r : EngRun) : Nat := if x.op.isRed then 0 else r.elem + 1 - perByte x.wd

/-- A failed write ends the run at the first element that it carries, of which none is written (R211). -/
def VCmd.failWrite (x : VCmd) (r : EngRun) (c la : Nat) : EngRun := { r with elem := x.writeElem r, idx := [] }.fail c la

/-- The writes of bytes at an offset of the destination. -/
def VCmd.put (x : VCmd) (r : EngRun) (off : Nat) (bs : List Byte) : EngRun :=
  match x.iss.la x.dst ((ptrOff x.dst + off : Nat) : Int) bs.length { w := true, d := true } with
  | .error c => x.failWrite r c (x.iss.at x.dst + off)
  | .ok la => { r with writes := putCuts (lineCuts (bs.length / 64 + 2) la bs.length) bs }

/-- Takes the elements on after the element's work is done without a write. -/
def EngRun.skip (r : EngRun) (n : Nat) : EngRun := { r with elem := r.elem + n, got := [] }

/-- The bytes of an element are read: computes it, and either writes it or keeps it for a later write. -/
def veData (s : State) (core : Nat) (x : VCmd) (r : EngRun) : State × EngRun :=
  let e := r.elem
  if x.op = .vcbld then (s, { r.skip 1 with table := r.table ++ [leNat r.got] })
  else if x.op.isRed then
    let k := x.ws / 8
    let a := floatVal x.fs (leNat (r.got.take k))
    let b := floatVal x.fs (leNat (r.got.drop k))
    (s, { r.skip 1 with lanes := r.lanes.modify (e % 16) fun l => laneStep x.op x.rm l a b })
  else if x.op = .vbfp then
    let o := toBfp8 x.rm (groupVals x.fs x.ws 32 r.got)
    (countSat s x o.2.2, x.put { r with got := [] } (33 * (e / 32)) (bfp8Bytes o.1 o.2.1))
  else
    let o := x.result r.table e r.got
    let s1 := countSat s x o.2
    let s2 := if x.op = .vcbq then vcbqCount s1 core x (decide (o.2 = 1)) else s1
    let r1 := { r with got := [] }
    let k := perByte x.wd
    if k = 1 then (s2, x.put r1 (x.wd / 8 * e) (natLE (x.wd / 8) o.1))
    else
      let packed := (r1.idx ++ [o.1])
      if packed.length < k then (s2, { r1.skip 1 with idx := packed })
      else (s2, x.put { r1 with idx := packed } (e / k) [BitVec.ofNat 8 (packed.foldr (fun v acc => v + 2 ^ x.wd * acc) 0)])

/-- The logical addresses of an element's pieces, cut at lines. -/
def pieceCuts (i : Issuer) : List (Word × Nat × Nat) → Except (Nat × Nat) (List (Nat × Nat))
  | [] => .ok []
  | (p, off, n) :: l =>
    match i.la p ((ptrOff p + off : Nat) : Int) n needRD with
    | .error c => .error (c, i.at p + off)
    | .ok la => match pieceCuts i l with
      | .error f => .error f
      | .ok cs => .ok (lineCuts (n / 64 + 2) la n ++ cs)

/-- What the command does next when nothing of it is out: the reads of its next element, the write of a reduction, or its end. -/
def vePlan (x : VCmd) (r : EngRun) : EngRun :=
  if r.elem < r.total then
    match pieceCuts x.iss (x.pieces r.elem) with
    | .error f => r.fail f.1 f.2
    | .ok cs => { r with reads := cs, got := [] }
  else if x.op.isRed ∧ r.elem = r.total then
    let f32 := laneTree x.op x.rm r.lanes
    x.put r 0 (natLE (x.wd / 8) (if x.fd = 0x9 then f32ToBf16 x.rm f32 else f32))
  else { r with ended := true }

/-- Replaces the head's progress. -/
def setVRun (s : State) (core : Nat) (r : EngRun) : State :=
  modCore s core fun c => match c.vq with
    | [] => c
    | x :: xs => { c with vq := { x with run := some r } :: xs }

/-- Replaces the head's accesses beside its elements. -/
def setVIo (s : State) (core : Nat) (io : EngIo) : State :=
  modCore s core fun c => match c.vq with
    | [] => c
    | x :: xs => { c with vq := { x with io := io } :: xs }

/-- Goes on with the head command: plans when nothing of it is out, and sends its next access. DESIGN CHOICE, unsafe (log entry 30). -/
def veGo (s : State) (core : Nat) (x : VCmd) (r : EngRun) : State :=
  let r := if r.ended ∨ r.out ∨ r.reads ≠ [] ∨ r.writes ≠ [] then r else vePlan x r
  if r.ended then setVRun s core r
  else
    let (s1, r1) := engSend s x.iss (.ve core) x.id (x.writeElem r) (x.unit r) none r
    setVRun s1 core (if r1.ended ∧ r.reads = [] then { r1 with idx := [] } else r1)

/-- The command starts its run: the element count, its table and its lanes, or a table that is not there (R211). -/
def veInit (s : State) (core : Nat) (x : VCmd) : State × EngRun :=
  let total := if x.op = .vcbld then (if x.loads then x.entries else 0) else x.n
  let r := EngRun.fresh 0 total
  match x.needs with
  | some k => match tableOf (coreAt s core) k with
    | some t => (s, { r with table := t })
    | none =>
      let (i, s1) := takeFree s
      (s1, r.fail 0x44 (Config.freeNat i % 2 ^ 56))
  | none => (s, if x.op.isRed then { r with lanes := List.replicate 16 (laneStart x.op) } else r)

/-- The VE starts its next command, or goes on with one that waited for a translation (R203, R210). -/
def execVeCommandStart (core : Nat) (s : State) : Out :=
  match (coreAt s core).vq.head? with
  | none => .next s
  | some x => match x.run with
    | some r => if r.ended ∨ r.out then .next s else .next (veGo s core x r)
    | none =>
      if barsHold (coreAt s core) x.iss.bars then .next s
      else
        let (s1, r) := veInit s core x
        .next (veGo s1 core x r)

/-- The byte of which a fault ends the command in its middle: the elements that it already holds are written (R211). -/
def vePartial (x : VCmd) (r : EngRun) (log : List EngAns) : EngGot Unit :=
  let k := perByte x.wd
  if r.fault.isNone ∨ r.idx = [] ∨ k = 1 then .ok () log
  else match x.iss.la x.dst ((ptrOff x.dst + r.elem / k : Nat) : Int) 1 needWD with
    | .error c => .fault c (x.iss.at x.dst + r.elem / k) 0 log
    | .ok la => (engBytes log la 1).bind fun bs log =>
      engPut log la [(rangeFrom 0 r.idx.length).foldl (fun b i => packedPut x.wd b i (r.idx.getD i 0)) (bs.getD 0 0#8)]

/-- The head command leaves the queue with its source tiles; a `vcbld` replaces or invalidates its table (R210, R218).
DEDUCED, unsafe (log entry 31). -/
def veLeave (s : State) (core : Nat) (x : VCmd) (r : EngRun) : State :=
  let s := modCore s core fun c => { c with vq := c.vq.drop 1 }
  let s := endCmd (x.tiles.foldl (fun s i => endReadTile s (clusterOf core) i) s) x.iss.slot x.id
  if x.op = .vcbld ∧ (r.fault.isNone ∨ x.loads) then
    modCore s core fun c => setTable c x.entries (if r.fault.isNone ∧ x.loads then some r.table else none)
  else s

/-- FIDX and FADDR of the issuing thread, and without a stamp the event, once (R211). -/
def veTell (s : State) (core : Nat) (x : VCmd) (r : EngRun) : State :=
  match r.fault with
  | none => s
  | some f =>
    let s1 := if x.iss.lives s then modSlot s x.iss.slot fun y => (y.setCreg 0x74 (nw f.elem)).setCreg 0x75 (nw f.la) else s
    if x.ste then s1 else raiseEvent s1 core f.cause (nw f.la)

/-- A command that has ended writes what a byte in its middle holds, tells its fault, and leaves, with STE = 1 once its stamp is
performed (R210, R211). A failure of that last byte is the command's fault. -/
def veClose (s : State) (core : Nat) (x : VCmd) (r : EngRun) : State :=
  let ask (s : State) (io : EngIo) (w : EngNeed) : State :=
    let (s1, io) := engAsk s (.ve core) x.iss x.id 0 1 none io w
    setVIo s1 core io
  let stamp (s : State) (r : EngRun) (io : EngIo) : State :=
    if !x.ste then veLeave (if io.told then s else veTell s core x r) core x r
    else match stampEnd s id core 0x43 (x.iss.at x.stamp) (stampWord ((r.fault.map EngFault.cause).getD 0) x.seq) io.log with
      | .need w => ask (if io.told then s else veTell s core x r) { io with told := true } w
      | .ok s1 _ => veLeave s1 core x r
      | .fault _ _ _ _ => s
  if x.io.told then stamp s r x.io
  else match vePartial x r x.io.log with
    | .need w => ask s x.io w
    | .ok _ _ => stamp s r { x.io with log := [] }
    | .fault c la _ _ =>
      let r1 := { r with elem := r.elem - r.idx.length, idx := [] }.fail c la
      stamp (setVRun s core r1) r1 { x.io with log := [] }

/-- A read of the head command has come back, of so many pieces, or with poison of the piece of that number (R210, R211). -/
def veReadDone (s : State) (core cmd piece : Nat) (v : Reply) : State :=
  match (coreAt s core).vq.head? with
  | none => s
  | some x =>
    if x.id ≠ cmd then s
    else match x.run, v with
      | none, _ => s
      | some r, v =>
        if x.io.out.isSome then veClose (setVIo s core (x.io.read v)) core { x with io := x.io.read v } r
        else if !r.out then s
        else match v with
          | .value bs =>
            let r1 := { r with out := false, reads := r.reads.drop piece, got := r.got ++ bs }
            if r1.reads ≠ [] then veGo s core x r1
            else
              let (s1, r2) := veData s core x r1
              veGo s1 core x r2
          | .poison c _ => setVRun s core ({ r with out := false }.fail c (r.readLa piece))

/-- A write of the head command, of so many pieces, is performed, or the piece of that number is refused with a cause. -/
def veWriteDone (s : State) (core cmd piece : Nat) (err : Option Nat) : State :=
  match (coreAt s core).vq.head? with
  | none => s
  | some x =>
    if x.id ≠ cmd then s
    else match x.run with
      | none => s
      | some r =>
        if x.io.out.isSome then veClose (setVIo s core (x.io.wrote piece err)) core { x with io := x.io.wrote piece err } r
        else if !r.out then s
        else match err with
          | none => veGo s core x (r.wrote piece x.group)
          | some c => setVRun s core (x.failWrite { r with out := false } c (r.writeLa piece))

/-- After its last write is performed a command writes its stamp and ends (R210). -/
def execVeCommandEnd (core : Nat) (s : State) : Out :=
  match (coreAt s core).vq.head? with
  | none => .next s
  | some x => match x.run with
    | none => .next s
    | some r => if r.ended ∧ r.fault.isNone ∧ x.io.out.isNone then .next (veClose s core x r) else .next s

/-- A fault ends a command: FIDX and FADDR, and an error stamp or an event (R211). -/
def execVeFault (core : Nat) (s : State) : Out :=
  match (coreAt s core).vq.head? with
  | none => .next s
  | some x => match x.run with
    | none => .next s
    | some r => if r.fault.isSome ∧ x.io.out.isNone then .next (veClose s core x r) else .next s

end Sys2Proof.Machine
end

