-- ==== Sys2Proof/Machine/Light.lean ====
section
/-! DEFINITION. The optical matrix unit's numbers, sites and machinery: front end, light path, effective bit counts, phase images, probes,
sweeps, drift, and site states (R46, R47, R49, R223 to R242). -/

namespace Sys2Proof.Machine

/-! Effective bit counts (R47, R231, R234). -/

/-- The least exponent of a power of two that is at least `n`, for n ≥ 1. -/
def clog2 (n : Nat) : Nat := if 2 ^ Nat.log2 n = n then Nat.log2 n else Nat.log2 n + 1

/-- Floor16(Log2(2^(9 − rng) / d)) as an EBC code, for d = m × 2^e (R230, R234): with no error it is 0xFF. -/
def ebcCode (rng m : Nat) (e : Int) : Nat :=
  if m = 0 then 255
  else
    let v : Int := 16 * (9 - (rng : Int) - e) - (clog2 (m ^ 16) : Nat)
    if v < 0 then 0 else if 255 < v then 255 else v.toNat

/-- The code for an error value; an error that is not finite gives the lowest code. DEDUCED, unsafe (log entry 41). -/
def ebcOf (rng : Nat) : FVal → Nat
  | .fin _ m e => ebcCode rng m e
  | _ => 0

/-! The front end (R44, R224). -/

/-- The bytes of a row of a format (R224). -/
def rowBytes (fmt : Nat) : Nat :=
  if fmt = 0xC then 33 else if fmt = 0x9 then 64 else if fmt = 0xD then 8 else 32

/-- The formats that a pass takes. -/
def rowFormat (fmt : Nat) : Bool := decide (fmt = 0xC ∨ fmt = 0x9 ∨ fmt = 0xA ∨ fmt = 0xB ∨ fmt = 0x0 ∨ fmt = 0xD)

/-- The mantissas, the exponent field and the elements counted as saturated of a row (R44, R224). -/
def frontEnd (fmt : Nat) (bs : List Byte) : List Int × Nat × Nat :=
  let sum (l : List (Int × Nat)) (e : Nat) : List Int × Nat × Nat := (l.map Prod.fst, e, (l.map Prod.snd).sum)
  if fmt = 0xC then sum ((bs.take 32).map bfpRead) (bs.getD 32 0#8).toNat
  else if fmt = 0x0 then sum ((bs.take 32).map fun b => if b = 0x80#8 then (-127, 1) else (b.toInt, 0)) 133
  else if fmt = 0xD then sum ((rangeFrom 0 32).map fun i => let v := t2Val (packedGet 2 bs i); (64 * v.1, v.2)) 127
  else toBfp8 .rne (groupVals fmt (fmtBits fmt) 32 bs)

/-! The light (R225, R226). -/

/-- The exact sum of values. -/
def fvSum (l : List FVal) : FVal := l.foldl (fun a b => a.add .rne b) (.fin false 0 0)

/-- A converter code off the nominal value by so many steps lies within an EBC of an image made with another: with the static error that the
image's CEBC leaves to a row of these mantissas, it is below 2^(9 − E) steps (R230, R231). -/
def withinEbc (ebc cebc : Nat) (ms : List Int) (off : FVal) : Bool :=
  let top := (ms.map Int.natAbs).foldl Nat.max 0
  match (off.mul (.fin false 127 0)).add .rne (.fin false (512 * top) (-((cebc / 16 : Nat) : Int))) with
  | .fin _ m e =>
    let k : Int := 16 * e + ebc
    decide (m ^ 16 * 2 ^ k.toNat < (127 * 512) ^ 16 * 2 ^ (-k).toNat)
  | _ => false

/-- A converter code, and whether it is a clip (R226). -/
def adcCode (v : FVal) : Int × Bool := match v with
  | .fin neg m e =>
    let i := roundInt .rne neg m e
    if 511 < i then (511, true) else if i < -512 then (-512, true) else (i, false)
  | _ => (0, false)

/-- What converter j gives for a row of mantissas through a code matrix at an output range (R226). The n-th analog error is added to the nominal
value before it is rounded; in a pass whose EBC and CEBC are given, a code that is no clip lies within that EBC, or is the nearest to the nominal
value (R50, R231, R399). DESIGN CHOICE, unsafe (log entry 6). -/
def detect (lim : Option (Nat × Nat)) (mc : List (List FVal)) (rng : Nat) (ms : List Int) (j n : Nat) : Int × Bool :=
  let err := Config.analogError n
  let nominal := (fvSum ((rangeFrom 0 32).map fun i => (FVal.ofInt (ms.getD i 0)).mul (matAt mc i j))).mul (.fin false 1 rng)
  let o := adcCode (nominal.add .rne (.fin (decide (err.1 < 0)) err.1.natAbs err.2))
  match lim with
  | none => o
  | some (ebc, cebc) => if o.2 || withinEbc ebc cebc ms (fvDist (FVal.ofInt o.1) nominal) then o else adcCode nominal

/-- The exact gain of output j at a range, from the f32 gain at range 0 (R226). -/
def gainAt (g rng : Nat) : FVal := (f32Val g).mul (.fin false 1 (-(rng : Int)))

/-- One partial of the back end (R49): code, gain, exponent field, weight exponent, and the snap exponent. A gain register may be written with a
NaN or an infinity, for which R49 states no partial; the model's partial is then the NaN or the infinity of the arithmetic.
DESIGN CHOICE, unsafe (log entry 88). -/
def partialOf (adc : Int) (g : FVal) (ex : Nat) (ew : Int) (snap : Option Int) : Nat :=
  let p := roundF32 .rne ((FVal.ofInt adc).mul g)
  let p := roundF32 .rne ((f32Val p).mul (.fin false 1 ((ex : Int) - 133 + ew)))
  match snap, f32Val p with
  | some q, .fin neg m e => roundF32 .rne (.fin neg (roundMag .rne neg m (e - q)) q)
  | _, _ => p

/-! Sites (R239 to R242). -/

/-- CL_OMU_BIND: SITE resets to the cluster's number, so the register is kept relative to it (R241, R244). -/
def omuBind (s : State) (cl : Nat) : Word := (clusterAt s cl).creg 0x281 ^^^ nw (clusterNo cl)

/-- The site that a bind register names, of those that exist. -/
def bindSite (cl : Nat) (b : Word) : Option Nat :=
  if bitF b 0 8 ≤ 167 then some (towerOf cl * 168 + bitF b 0 8) else none

/-- The site that a cluster uses, its own or its host's (R241, R242). -/
def siteOf (s : State) (cl : Nat) : Option Nat :=
  let b := omuBind s cl
  if !bitB b 31 then none
  else if bitB b 30 then
    if 159 < bitF b 22 8 then none
    else
      let h := clusterIn (towerOf cl) (bitF b 22 8)
      if bitB (omuBind s h) 31 && !bitB (omuBind s h) 30 then bindSite h (omuBind s h) else none
  else bindSite cl b

/-- A site is retired (R372). -/
def siteRetired (s : State) (k : Nat) : Bool := (SMap.get (fun _ => 0) s.modul.relOmu (k / 168)).testBit (k % 168)

/-- The state of a cluster's OMU: 0 OFF, 1 CAL, 2 READY, 3 DRIFT, 4 STOP (R239, R241). -/
def omuState (s : State) (cl : Nat) : Nat := match siteOf s cl with
  | none => 0
  | some k => if siteRetired s k then 0 else (siteAt s k).st

/-- The clusters that use a site. -/
def siteUsers (s : State) (k : Nat) : List Nat := (rangeFrom (k / 168 * 160) 160).filter fun c => decide (siteOf s c = some k)

/-- The active bank (R235). -/
def Cluster.bank (c : Cluster) (b : Bool) : Option PhaseBank := if b then c.bankB else c.bankA
def Cluster.setBank (c : Cluster) (b : Bool) (v : Option PhaseBank) : Cluster := if b then { c with bankB := v } else { c with bankA := v }
def Cluster.activeBank (c : Cluster) : Option PhaseBank := c.bank c.act

/-- LIVE (R235). -/
def Cluster.liveEbc (c : Cluster) : Nat := match c.activeBank with
  | none => 0
  | some b => c.live.foldl Nat.min b.cebc

/-- Raises a cause at the service slot of the core of each owner of a site's clusters (R237, R239). -/
def raiseOwners (s : State) (k cause : Nat) (tval : Word) : State :=
  (siteUsers s k).foldl (fun s c => match (clusterAt s c).own with
    | some o => raiseEvent s (coreOf o) cause tval
    | none => s) s

/-- Drift: READY becomes DRIFT, the event is counted, and 0x4A is raised (R237, R239). -/
def drift (s : State) (k : Nat) (trim : Bool) (probe : Nat) : State :=
  let s1 := modSite s k fun x =>
    { x.setCreg 0x288 (addF (x.creg 0x288) 32 32 1) with st := if x.st = 2 then 3 else x.st, clean := 0 }
  raiseOwners s1 k 0x4A (nw (k % 168 + (siteAt s1 k).st * 2 ^ 8 + trim.toNat * 2 ^ 12 + probe % 32 * 2 ^ 16))

/-- The f32 gains of a site, by output. -/
def siteGains (x : Site) : List Nat := (rangeFrom 0 32).map fun j => bitF (x.creg (0x290 + j / 2)) (32 * (j % 2)) 32

/-- The largest of magnitudes with the lowest index that has it; a magnitude that is not finite is the largest. -/
def worst : List FVal → Nat → FVal × Nat → FVal × Nat
  | [], _, best => best
  | v :: vs, j, best =>
    let more : Bool := match v, best.1 with
      | .nan, .nan => false
      | .nan, _ => true
      | _, .nan => false
      | a, b => b.lt a
    worst vs (j + 1) (if more then (v, j) else best)

/-- The front-end and converter counters of a site: CL_OMU_SAT, CL_OMU_SYM (R224, R226). -/
def countSite (s : State) (k sat clip sym : Nat) : State :=
  modSite s k fun x =>
    let y := x.setCreg 0x287 (addF (addF (x.creg 0x287) 32 32 sat) 0 32 clip)
    y.setCreg 0x286 (y.creg 0x286 + nw sym)

/-- A pass that has entered its first row and not its last. -/
def MxCmd.inLight (x : MxCmd) : Bool :=
  decide (x.fn = 4) && x.started && decide (0 < x.rows) && decide (x.rows < bitF x.word 12 11) && x.ended.isNone

/-- What a probe of mode `k` on a valid bank measures: E_p, the worst output, whether it is a drift probe, and the clips (R234). -/
def probeMeasure (b : PhaseBank) (gains : List Nat) (dlim k n : Nat) : Nat × Nat × Bool × Nat :=
  let ms : List Int := (rangeFrom 0 32).map fun i => if i = k then 127 else 0
  let mc := mcMatrix b.codes
  let out := (rangeFrom 0 32).map fun j => detect none mc b.rng ms j (n + j)
  let d := (rangeFrom 0 32).map fun j => (FVal.ofInt (out.getD j (0, false)).1).mul (gainAt (gains.getD j 0) b.rng)
  let errs := (rangeFrom 0 32).map fun j => fvDist (d.getD j .nan) ((FVal.fin false 127 0).mul (matAt mc k j))
  let w := worst errs 0 (.fin false 0 0, 0)
  -- |d / 127 − ref| > 2^−4 + DLIM × 2^−8, both sides times 127
  let lim : FVal := .fin false (127 * (16 + Nat.max 1 dlim)) (-8)
  let far := (rangeFrom 0 32).any fun j =>
    match fvDist (d.getD j .nan) ((fmtE4m3.value (b.refs.getD (32 * k + j) 0)).mul (.fin false 127 0)) with
    | .fin n m e => lim.lt (.fin n m e)
    | _ => true
  (ebcOf b.rng w.1, w.2, far, (out.filter Prod.snd).length)

/-- One probe symbol at a site for the active bank of a cluster (R234, R235, R239). DEDUCED, unsafe (log entry 35). -/
def probeOnce (cl site k : Nat) (s : State) : State :=
  let s1 := modSite (countSite s site 0 0 1) site fun x =>
    { x.setCreg 0x284 (addF (x.creg 0x284) 32 32 1) with nextk := (k + 1) % 32 }
  match (clusterAt s cl).activeBank with
  | none => s1
  | some b =>
    let x := siteAt s1 site
    let (e, j, far, clips) := probeMeasure b (siteGains x) (bitF (x.creg 0x283) 8 8) k s1.free
    let s2 := countSite { s1 with free := s1.free + 32 } site 0 clips 0
    let s3 := modSite s2 site fun y => { y with worstj := j }
    let s4 := modCluster s3 cl fun c =>
      { c with probeEbc := e, live := (e :: c.live).take 32,
               mxq := c.mxq.map fun m => if m.inLight then { m with low := Nat.min m.low e } else m }
    if far then drift s4 site false k
    else modSite s4 site fun y =>
      let n := if y.trimOut then 0 else y.clean + 1
      { y with clean := n, st := if y.st = 3 ∧ 32 ≤ n then 2 else y.st }

/-- A sweep of 32 probes; LIVE is then taken from it alone, and the probe counter restarts (R235). -/
def sweepSite (s : State) (cl site : Nat) : State :=
  let s1 := modCluster s cl fun c => { c with live := [] }
  let s2 := (rangeFrom 0 32).foldl (fun s k => probeOnce cl site k s) s1
  modSite (modCluster s2 cl fun c => { c with settle := false }) site fun x => { x with sym := 10 * s.time, user := some cl }

/-- Probes and sweeps run in these states (R239). -/
def probesRun (s : State) (site : Nat) : Bool :=
  !siteRetired s site && decide ((siteAt s site).st = 1 ∨ (siteAt s site).st = 2 ∨ (siteAt s site).st = 3)

/-- A probe symbol that falls due (R234). -/
def execOmuProbe (cluster : Nat) (s : State) : Out :=
  match siteOf s cluster with
  | none => .next s
  | some k =>
    let x := siteAt s k
    let p := 2 ^ bitF (x.creg 0x283) 16 5
    if !probesRun s k ∨ (clusterAt s cluster).settle ∨ x.user.getD cluster ≠ cluster ∨ 10 * s.time < x.sym + p then .next s
    else .next (probeOnce cluster k x.nextk (modSite s k fun x => { x with sym := x.sym + p }))

/-- A pacer update: the largest trim, and whether a trim is needed beyond its range (R236, R237). DESIGN CHOICE, safe (log entry 16). -/
def execPacerUpdate (cluster : Nat) (tmax : Nat) (beyond : Bool) (s : State) : Out :=
  match siteOf s cluster with
  | none => .next s
  | some k =>
    if s.time < (siteAt s k).pacerAt then .next s
    else
      let s1 := modSite s k fun x => { x with tmax := tmax % 256, trimOut := beyond, pacerAt := s.time + 16000, clean := if beyond then 0 else x.clean }
      if beyond then
        let (i, s2) := takeFree s1
        .next (drift s2 k true (Config.freeNat i))
      else .next s1

/-! Phase images (R227 to R229). -/

/-- Line 1's first byte: the codes of an image. -/
def imageCodes (bs : List Byte) : List (BitVec 16) :=
  (rangeFrom 0 2080).map fun c => BitVec.ofNat 16 (leNat ((bs.drop (64 + 2 * c)).take 2))

/-- The references of an image. -/
def imageRefs (bs : List Byte) : List Nat := ((bs.drop 4224).take 1024).map BitVec.toNat

/-- The CRC that an image's header must hold (R227). -/
def imageCrc (bs : List Byte) : Nat := crc32 (bs.take 60 ++ (bs.drop 64).take 5312)

/-- Every entry of M_c lies within 2^−4 of its reference (R229). -/
def refsHold (mc : List (List FVal)) (refs : List Nat) : Bool :=
  (rangeFrom 0 1024).all fun n =>
    match fvDist (matAt mc (n / 32) (n % 32)) (fmtE4m3.value (refs.getD n 0)) with
    | .fin a m e => !(FVal.fin false 1 (-4)).lt (.fin a m e)
    | _ => false

/-- The checks of R229: the bank's content, or the reason of the first that fails. -/
def loadImage (bs : List Byte) : Except Nat PhaseBank :=
  let b (i : Nat) : Nat := (bs.getD i 0#8).toNat
  if b 0 ≠ 1 then .error 1
  else if leNat ((bs.drop 60).take 4) ≠ imageCrc bs then .error 2
  else if !refsHold (mcMatrix (imageCodes bs)) (imageRefs bs) then .error 3
  else .ok ⟨imageCodes bs, sxNat 8 (b 1), b 2 % 4, b 8, leNat ((bs.drop 4).take 4), imageRefs bs⟩

/-- The bytes of an image (R227). -/
def imageBytes (codes : List (BitVec 16)) (refs : List Nat) (ew : Int) (rng wfmt blk cebc sweeps : Nat) : List Byte :=
  let head : List Byte := [1#8, BitVec.ofInt 8 ew, BitVec.ofNat 8 rng, BitVec.ofNat 8 wfmt] ++ natLE 4 blk
    ++ [BitVec.ofNat 8 cebc, BitVec.ofNat 8 sweeps] ++ List.replicate 50 0#8
  let body : List Byte := padTo 4160 0#8 (codes.flatMap fun c => natLE 2 c.toNat) ++ padTo 1024 0#8 (refs.map fun r => BitVec.ofNat 8 r)
    ++ List.replicate 128 0#8
  head ++ natLE 4 (crc32 (head ++ body)) ++ body

end Sys2Proof.Machine
end

