-- ==== Sys2Proof/Machine/Omu.lean ====
section
/-! DEFINITION. Matrix passes: ownership, the command queue, MXP, PHR, `macrd` and `mcal` forms, and the OMU's events (R245 to R266). -/

namespace Sys2Proof.Machine

/-! Accumulators (R245). -/

def accKey (bank row col : Nat) : Nat := 32768 * bank + 32 * row + col
def accAt (c : Cluster) (bank row col : Nat) : BitVec 32 := SMap.get (fun _ => 0#32) c.acc (accKey bank row col)
def setAcc (c : Cluster) (bank row col : Nat) (v : BitVec 32) : Cluster :=
  { c with acc := SMap.set (fun _ => 0#32) c.acc (accKey bank row col) v }

/-- Clears rows of a bank to +0.0. -/
def clearRows (c : Cluster) (bank row n : Nat) : Cluster :=
  (rangeFrom row n).foldl (fun c r => (rangeFrom 0 32).foldl (fun c j => setAcc c bank r j 0#32) c) c

/-! Fields of the pass, drain and clear words (R252, R259). -/

def wTile (w : Word) : Nat := bitF w 0 6
def wFmt (w : Word) : Nat := bitF w 8 4
def wRows (w : Word) : Nat := bitF w 12 11
def wBank (w : Word) : Nat := bitF w 24 1
def wRow0 (w : Word) : Nat := bitF w 32 10
def wTrow (w : Word) : Nat := bitF w 48 10
def wGrp (w : Word) : Bool := bitB w 26
def wClr (w : Word) : Bool := bitB w 26
def wForce (w : Word) : Bool := bitB w 25

/-- Rows and first row are in range. -/
def rowsOk (w : Word) : Bool := decide (1 ≤ wRows w) && decide (wRow0 w + wRows w ≤ 1024)

/-- A valid pass word (R252), drain word and clear word (R259). -/
def passOk (w : Word) : Bool :=
  decide (w &&& 0xFC00FC00FA8000C0#64 = 0#64) && rowsOk w && rowFormat (wFmt w)
def drainOk (w : Word) : Bool :=
  decide (w &&& 0xFFFFFC00F88000C0#64 = 0#64) && rowsOk w && decide (wFmt w = 0x8 ∨ wFmt w = 0x9)
def clearOk (w : Word) : Bool := decide (w &&& 0xFFFFFC00FE800FFF#64 = 0#64) && rowsOk w

/-! The queue (R246 to R248). -/

/-- The bank that a pass, drain or clear names, and whether the command writes bank `b`. -/
def MxCmd.acb (x : MxCmd) : Nat := wBank x.word
def MxCmd.writes (x : MxCmd) (b : Nat) : Bool :=
  (decide (x.fn = 4 ∨ x.fn = 6) || (decide (x.fn = 5) && wClr x.word)) && decide (x.acb = b)

/-- A load into the active bank, and the commands that wait for the whole queue ahead. -/
def MxCmd.toActive (x : MxCmd) (c : Cluster) : Bool := decide (x.fn = 2) && decide (x.bank = c.act)
def MxCmd.whole (x : MxCmd) (c : Cluster) : Bool := x.toActive c || decide (x.fn = 3 ∨ x.fn = 7 ∨ x.fn = 15)

/-- The commands that have not ended: the entries in use. -/
def openCmds (l : List MxCmd) : List MxCmd := l.filter fun x => x.ended.isNone

/-- The command at position `i` may start (R246). -/
def startOk (c : Cluster) (i : Nat) (x : MxCmd) : Bool :=
  let before := c.mxq.take i
  let out := openCmds before
  before.all MxCmd.started &&
    (if x.fn = 4 then
      !out.any fun y => (decide (y.fn = 4) && decide (y.rows < wRows y.word)) || (decide (y.fn = 5 ∨ y.fn = 6) && decide (y.acb = x.acb)) || y.whole c
     else if x.whole c then out.isEmpty
     else if x.fn = 2 then true
     else !out.any fun y => y.writes x.acb)

/-- The first command that has not started, with its position. -/
def nextCmd (c : Cluster) : Option (Nat × MxCmd) :=
  (findAt (fun x => !x.started) c.mxq).bind fun i => c.mxq[i]?.map fun x => (i, x)

/-- The command of a kind that may start now. -/
def ready (s : State) (cl : Nat) (kind : MxCmd → Bool) : Option MxCmd :=
  let c := clusterAt s cl
  (nextCmd c).bind fun e =>
    if kind e.2 && startOk c e.1 e.2 && !barsHold (coreAt s (coreOf e.2.iss.slot)) e.2.iss.bars then some e.2 else none

/-- The command of a kind that has started and not ended. -/
def running (s : State) (cl : Nat) (kind : MxCmd → Bool) : Option MxCmd :=
  (clusterAt s cl).mxq.find? fun x => x.started && x.ended.isNone && kind x

/-- Changes one command. -/
def modCmd (s : State) (cl id : Nat) (f : MxCmd → MxCmd) : State :=
  modCluster s cl fun c => { c with mxq := c.mxq.map fun x => if x.id = id then f x else x }

/-- Makes an access of a command, from the cluster's drain path (R101). -/
def mxAsk (s : State) (cl : Nat) (x : MxCmd) (w : EngNeed) : State :=
  let (s1, io) := engAsk s (.drain cl) x.iss x.id 0 1 none x.io w
  modCmd s1 cl x.id fun y => { y with io := io }

/-- CL_MX_ERR after an error of a command (R248). -/
def mxErr (s : State) (cl : Nat) (x : MxCmd) (cause reason row : Nat) : State :=
  modCluster s cl fun c =>
    c.setCreg 0x2C6 (nw (2 ^ 63 + cause % 128 * 2 ^ 56 + reason * 2 ^ 52 + x.fn * 2 ^ 48 + row * 2 ^ 32 + x.seq % 2 ^ 32))

/-- Ended commands leave in issue order, each once its stamp is performed (R247); a stamp in a spread region is an error of its command (R127). -/
def mxRetireN : Nat → State → Nat → State
  | 0, s, _ => s
  | fuel + 1, s, cl =>
    match (clusterAt s cl).mxq with
    | [] => s
    | x :: xs => match x.ended with
      | none => s
      | some (cause, _, _, ebc) =>
        let leave (s : State) : State := mxRetireN fuel (endCmd (modCluster s cl fun c => { c with mxq := xs }) x.iss.slot x.id) cl
        match x.stamp with
        | none => leave s
        | some la =>
          if x.io.out.isSome then s
          else match stampEnd s (fun s => mxErr s cl x 0x21 0 0) (coreOf x.iss.slot) 0x46 la (stampWord cause x.seq ||| nw (ebc * 2 ^ 32)) x.io.log with
            | .need w => mxAsk s cl x w
            | .ok s1 _ => leave s1
            | .fault _ _ _ _ => s

/-- Eight entries, and those that only wait for their stamps. -/
def mxRetire (s : State) (cl : Nat) : State := mxRetireN (clusterAt s cl).mxq.length s cl

/-! Matrix groups (R264, R265). -/

def grpV (c : Cluster) : Bool := bitB (c.creg 0x2C7) 63
def grpId (c : Cluster) : Nat := bitF (c.creg 0x2C7) 40 8
def grpSize (c : Cluster) : Nat := bitF (c.creg 0x2C7) 32 6
def grpLim (c : Cluster) : Nat := bitF (c.creg 0x2C7) 0 32
def grpPn (c : Cluster) : Nat := bitF (c.creg 0x2C8) 32 32

/-- The members of a cluster's group. -/
def groupOf (s : State) (cl : Nat) : List Nat :=
  let g := clusterAt s cl
  if !grpV g then [] else
    (rangeFrom (towerOf cl * 160) 160).filter fun m => grpV (clusterAt s m) && decide (grpId (clusterAt s m) = grpId g)

/-- The slot is between the entry and the `eret` of a trap that pauses its group: one with a cause from 0x10 to 0x4E (R265). -/
def Slot.pauses (x : Slot) : Bool := x.traps.any fun c => decide (0x10 ≤ c) && decide (c ≤ 0x4E)

/-- A group's timers are paused (R265). -/
def groupPaused (s : State) (cl : Nat) : Bool :=
  (groupOf s cl).any fun m => decide (omuState s m ≠ 2) || s.slots.any fun e => decide (clusterOf (coreOf e.1) = m) && e.2.pauses

/-- A timer is paused or goes on, by the group's state at this tick. -/
def GTimer.tick (t : GTimer) (paused : Bool) (now : Nat) : GTimer :=
  if t.stopped then t
  else match t.pausedAt with
    | none => if paused then { t with pausedAt := some now } else t
    | some p => if paused then t else { t with off := t.off + (now - p), pausedAt := none }

/-- After a step, the timers of every group follow what pauses them. -/
def groupClock (s : State) : State :=
  (s.clusters.filter fun e => decide (e.2.gtimers ≠ [])).foldl
    (fun s e => modCluster s e.1 fun c => { c with gtimers := c.gtimers.map fun t => t.tick (groupPaused s e.1) (tickOf s) }) s

/-- A pass with GRP = 1 has ended: GPN, and the timers of its number (R264). -/
def groupCount (s : State) (cl : Nat) : State :=
  if !grpV (clusterAt s cl) then s
  else
    let s1 := modCluster s cl fun c => c.setCreg 0x2C8 (addF (c.creg 0x2C8) 32 32 1)
    let n := grpPn (clusterAt s1 cl)
    let ms := groupOf s1 cl
    let reached := (ms.filter fun m => decide (n ≤ grpPn (clusterAt s1 m))).length
    ms.foldl (fun s m => modCluster s m fun c =>
      let ts := if c.gtimers.any fun t => decide (t.n = n) then c.gtimers else c.gtimers ++ [⟨n, tickOf s, 0, none, false⟩]
      { c with gtimers := ts.map fun t => if t.n = n ∧ grpSize c ≤ reached then { t with stopped := true } else t }) s1

/-- A member whose timer of pass `n` has reached its limit: the timer ends, WDOG is set, and 0x4F is raised at its owner's service slot (R264). -/
def watchdogFire (n : Nat) (s : State) (m : Nat) : State :=
  let c := clusterAt s m
  let s1 := modCluster s m fun c =>
    { c.setCreg 0x2C8 (setB (c.creg 0x2C8) 31 true) with
      gtimers := c.gtimers.map fun t => if t.n = n then { t with stopped := true } else t }
  match c.own with
  | some o => raiseEvent s1 (coreOf o) 0x4F (nw (grpId c + n * 2 ^ 8 + (decide (grpPn c < n)).toNat * 2 ^ 40))
  | none => s1

/-- A member's timer of pass `n` has reached the member's limit. -/
def watchdogDue (s : State) (n m : Nat) : Bool :=
  let c := clusterAt s m
  grpV c && c.gtimers.any fun t => decide (t.n = n) && !t.stopped && t.pausedAt.isNone && decide (t.start + t.off + grpLim c ≤ tickOf s)

/-- A timer of a group reaches its limit: in every member whose own limit it has reached (R264). -/
def execGroupWatchdog (cluster : Nat) (n : Nat) (s : State) : Out :=
  if watchdogDue s n cluster then .next (((groupOf s cluster).filter (watchdogDue s n)).foldl (watchdogFire n) s) else .next s

/-- The timers of pass numbers that no member of a cluster's group has reached are gone (R264). -/
def dropTimers (s : State) (cl : Nat) : State :=
  let ms := groupOf s cl
  let top := (ms.map fun m => grpPn (clusterAt s m)).foldl Nat.max 0
  ms.foldl (fun s m => modCluster s m fun c => { c with gtimers := c.gtimers.filter fun t => decide (t.n ≤ top) }) s

/-- V written 1 in CL_MX_GRP clears GPN, and the member takes the timers of its group as they stand, but for numbers that no member has
reached now; a SIZE of 0 or above 32 is ignored (R264, R266). -/
def groupWrite (s : State) (cl : Nat) (v : Word) : State :=
  let s1 := modCluster s cl fun c =>
    let old := c.creg 0x2C7
    let n := regMerge 0x2C7 old v
    c.setCreg 0x2C7 (if bitF v 32 6 = 0 ∨ 32 < bitF v 32 6 then setF n 32 6 (bitF old 32 6) else n)
  if !bitB v 63 then s1
  else
    let timers := (((groupOf s1 cl).filter fun m => decide (m ≠ cl)).head?.map fun m => (clusterAt s1 m).gtimers).getD []
    dropTimers (modCluster s1 cl fun c => { c.setCreg 0x2C8 (setF (c.creg 0x2C8) 32 32 0) with gtimers := timers }) cl

/-! The end of a command (R248). -/

/-- A command ends: errors are recorded, and raised when it has no stamp; a pass releases its tile and is counted.
DEDUCED, unsafe (log entry 34). -/
def mxEnd (s : State) (cl : Nat) (x : MxCmd) (cause reason row ebc : Nat) : State :=
  let s1 := modCmd s cl x.id fun y => { y with started := true, ended := some (cause, reason, row, ebc), io := EngIo.reset }
  let s2 := if cause = 0 then s1
    else
      let s2 := mxErr s1 cl x cause reason row
      if x.stamp.isNone then raiseEvent s2 (coreOf x.iss.slot) cause (nw (x.seq % 2 ^ 32 + x.fn * 2 ^ 32 + row * 2 ^ 38)) else s2
  let s3 := if x.fn = 4 then
      let s3 := endReadTile (modCluster s2 cl fun c => c.setCreg 0x2C3 (addF (c.creg 0x2C3) 32 32 1)) cl (wTile x.word)
      if wGrp x.word then groupCount s3 cl else s3
    else s2
  mxRetire s3 cl

/-! Ownership and configuration (R249 to R251). -/

/-- The word of an instruction, as the tval of 0x4E. -/
def insWord (i : Instr) : Word := ((encode i).getD 0#32).setWidth 64

/-- The owner's forms: another thread traps 0x4E (R249). -/
def owned (i : Instr) (s : State) (body : State) : State :=
  if ownsOmu s s.cur then body else finish s s.cur (.trap 0x4E (insWord i))

def setOwner (s : State) (o : Option Nat) : State := modCluster s (clusterOf (coreOf s.cur)) fun c => { c with own := o }

/-- Takes or releases the OMU (R250). -/
def execMown (a : GReg) (t : Bool) (s : State) : Out :=
  .next (withOps s [a] none false fun s vs =>
    let c := clusterAt s (clusterOf (coreOf s.cur))
    let took (s : State) : Res := .done (modSlot s s.cur fun x => x.takeIf t a.toNat)
    if bitB (val vs 0) 0 then
      if c.own = some s.cur then took s else if c.own.isNone then took (setOwner s (some s.cur)) else .park s
    else if c.own ≠ some s.cur then .trap 0x4E (insWord (.mown a t))
    else if (openCmds c.mxq).isEmpty then took (setOwner s none)
    else .park s)

/-- Writes CL_MX_MASK, CL_MX_CFG or CL_MX_STAMP (R251). -/
def execMset (a : GReg) (t : Bool) (k : BitVec 4) (s : State) : Out :=
  .next (owned (.mset a t k) s (withOps s [a] none false fun s vs =>
    let v := val vs 0
    let put (v : Word) : Res :=
      .done (modCluster (modSlot s s.cur fun x => x.takeIf t a.toNat) (clusterOf (coreOf s.cur)) fun c => c.setCreg (0x2C0 + k.toNat) v)
    if k = 0#4 then put (v &&& 0xFFFFFFFF#64)
    else if k = 1#4 then if v &&& 0xFFFFFFFF00FE7E80#64 = 0#64 then put v else .trap 0x46 v
    else put v))

/-! Issue (R246, R253, R256, R257, R260). -/

/-- CL_MX_CFG, and the stamp's check that STE = 1 asks for: the pointer as one of the checked ones. -/
def mxCfg (s : State) : Word := (clusterAt s (clusterOf (coreOf s.cur))).creg 0x2C1
def mxStamp (s : State) : Option Word :=
  if bitB (mxCfg s) 15 then some ((clusterAt s (clusterOf (coreOf s.cur))).creg 0x2C2) else none
def stampUse (s : State) : List PtrUse := (mxStamp s).toList.map fun p => flatUse p 8 needWD 8

/-- Enqueues a command, or parks while the queue holds eight. -/
def mxEnqueue (s : State) (fn : Nat) (word : Word) (bank : Bool) (la seq : Nat) (stamp : Option Nat) (took : State → State) : Res :=
  let cl := clusterOf (coreOf s.cur)
  let c := clusterAt s cl
  if 8 ≤ (openCmds c.mxq).length then .park s
  else
    let (id, s1) := takeFresh s
    let x : MxCmd := ⟨id, issuerOf s s.cur, fn, word, bank, la, seq, bitF (c.creg 0x2C0) 0 32, c.creg 0x2C1, stamp,
      false, 0, [], 255, false, [], none, EngIo.reset⟩
    .done (took (modSlot (modCluster s1 cl fun c => { c with mxq := c.mxq ++ [x] }) s.cur fun y => { y with cmds := y.cmds ++ [⟨id, 1, false⟩] }))

/-- The stamp's address at issue (R247). -/
def stampLa (s : State) : Option Nat := (mxStamp s).map (issuerOf s s.cur).at

/-- The take of the first operand. -/
def tookA (t : Bool) (a : GReg) (s : State) : State := modSlot s s.cur fun x => x.takeIf t a.toNat

/-- Enqueues loading a phase image (R256). -/
def execMphld (a b : GReg) (t : Bool) (n : Bool) (s : State) : Out :=
  .next (owned (.mphld a b t n) s (withOps s [a, b] none false fun s vs =>
    match ptrRows (issuerOf s s.cur) (flatUse (val vs 0) 5376 needRD 64 :: stampUse s) with
    | some (c, v) => .trap c v
    | none => mxEnqueue s 2 (val vs 0) n ((issuerOf s s.cur).at (val vs 0)) (bitF (val vs 1) 0 32) (stampLa s) (tookA t a)))

/-- Enqueues making the other bank active (R257). -/
def execMswap (b : GReg) (s : State) : Out :=
  .next (owned (.mswap b) s (withOps s [b] none false fun s vs =>
    match ptrRows (issuerOf s s.cur) (stampUse s) with
    | some (c, v) => .trap c v
    | none => mxEnqueue s 3 0#64 false 0 (bitF (val vs 0) 0 32) (stampLa s) id))

/-- Enqueues a sweep of 32 probes (R257). -/
def execMprobe (b : GReg) (s : State) : Out :=
  .next (owned (.mprobe b) s (withOps s [b] none false fun s vs =>
    match ptrRows (issuerOf s s.cur) (stampUse s) with
    | some (c, v) => .trap c v
    | none => mxEnqueue s 7 0#64 false 0 (bitF (val vs 0) 0 32) (stampLa s) id))

/-- Checks a pass word and enqueues a pass (R253). -/
def execMpass (a b : GReg) (t : Bool) (s : State) : Out :=
  .next (owned (.mpass a b t) s (withOps s [a, b] none false fun s vs =>
    let w := val vs 0
    let cl := clusterOf (coreOf s.cur)
    let e := tileAt (clusterAt s cl) (wTile w)
    if !passOk w then .trap 0x46 w
    else match ptrRows (issuerOf s s.cur) (stampUse s) with
      | some (c, v) => .trap c v
      | none =>
        if !e.v then .trap 0x34 (nw (wTile w))
        else if e.size < (wTrow w + wRows w) * rowBytes (wFmt w) then .trap 0x46 w
        else if !e.readable then .park s
        else mxEnqueue s 4 w false 0 (bitF (val vs 1) 0 32) (stampLa s) fun s => startReadTile (tookA t a s) cl (wTile w)))

/-- An earlier command that writes a bank has not ended. -/
def bankBusy (s : State) (b : Nat) : Bool := (openCmds (clusterAt s (clusterOf (coreOf s.cur))).mxq).any fun x => x.writes b

/-- Enqueues a drain of accumulator rows into a tile (R260). -/
def execMdrain (a b : GReg) (t : Bool) (s : State) : Out :=
  .next (owned (.mdrain a b t) s (withOps s [a, b] none false fun s vs =>
    let w := val vs 0
    let c := clusterAt s (clusterOf (coreOf s.cur))
    let e := tileAt c (wTile w)
    let m := c.creg (0x2C4 + wBank w)
    if !drainOk w then .trap 0x46 w
    else match ptrRows (issuerOf s s.cur) (stampUse s) with
      | some (c, v) => .trap c v
      | none =>
        if !e.v then .trap 0x34 (nw (wTile w))
        else if e.size < wRows w * 32 * (if wFmt w = 0x8 then 4 else 2) then .trap 0x46 w
        else if bankBusy s (wBank w) then .park s
        else if bitB m 63 ∧ !wForce w then .trap 0x4C (nw (bitF m 55 7 + bitF m 32 10 * 2 ^ 8 + wBank w * 2 ^ 24))
        else mxEnqueue s 5 w false 0 (bitF (val vs 1) 0 32) (stampLa s) (tookA t a)))

/-- Enqueues clearing accumulator rows and the poison mark (R260). -/
def execMclr (a b : GReg) (t : Bool) (s : State) : Out :=
  .next (owned (.mclr a b t) s (withOps s [a, b] none false fun s vs =>
    let w := val vs 0
    if !clearOk w then .trap 0x46 w
    else match ptrRows (issuerOf s s.cur) (stampUse s) with
      | some (c, v) => .trap c v
      | none =>
        if bankBusy s (wBank w) then .park s
        else mxEnqueue s 6 w false 0 (bitF (val vs 1) 0 32) (stampLa s) (tookA t a)))

/-- Enqueues a calibration (R263). -/
def execMcal (a b : GReg) (t : Bool) (s : State) : Out :=
  .next (withOps s [a, b] none false fun s vs =>
    let p := val vs 0
    let iss := issuerOf s s.cur
    match (if p = 0#64 then none else ptrRows iss [flatUse p 8 needWD 8]) with
    | some (c, v) => .trap c v
    | none => mxEnqueue s 15 0#64 false 0 (bitF (val vs 1) 0 32) (if p = 0#64 then none else some (iss.at p)) (tookA t a))

/-- Phase code operands are valid (R258). -/
def phrOk (v : Word) : Bool := decide (v.toNat < 8192) && decide (bitF v 0 12 ≤ 2079)

/-- Every queued command has ended. -/
def queueIdle (s : State) : Bool := (openCmds (clusterAt s (clusterOf (coreOf s.cur))).mxq).isEmpty

/-- Reads one phase code (R258). -/
def execPhrd (d a : GReg) (t : Bool) (s : State) : Out :=
  .next (owned (.phrd d a t) s (withOps s [a] (some d) false fun s vs =>
    let v := val vs 0
    if !phrOk v then .trap 0x46 v
    else if !queueIdle s then .park s
    else
      let r := match (clusterAt s (clusterOf (coreOf s.cur))).bank (bitB v 12) with
        | some b => nw (2 ^ 16 + (b.codes.getD (bitF v 0 12) 0#16).toNat)
        | none => 0#64
      .done (modSlot s s.cur fun x => (x.takeIf t a.toNat).writeDst d.toNat r)))

/-- Writes one phase code; the active bank then settles and is swept (R258). -/
def execPhwr (a b : GReg) (t : Bool) (s : State) : Out :=
  .next (owned (.phwr a b t) s (withOps s [a, b] none false fun s vs =>
    let v := val vs 0
    let cl := clusterOf (coreOf s.cur)
    let n := bitB v 12
    if !phrOk v then .trap 0x46 v
    else if !queueIdle s then .park s
    else match (clusterAt s cl).bank n with
      | none => .trap 0x48 v
      | some p =>
        let p1 := { p with codes := listSet p.codes (bitF v 0 12) (BitVec.ofNat 16 (bitF (val vs 1) 0 16)) }
        .done (modCluster (tookA t a s) cl fun c => { c.setBank n (some p1) with settle := c.settle || decide (n = c.act) })))

/-- Reads one accumulator element with the poison mark (R261). -/
def execMacrd (d a : GReg) (t : Bool) (s : State) : Out :=
  .next (owned (.macrd d a t) s (withOps s [a] (some d) false fun s vs =>
    let v := val vs 0
    let c := clusterAt s (clusterOf (coreOf s.cur))
    if v &&& 0xFFFFFC00FEFFFFE0#64 ≠ 0#64 then .trap 0x46 v
    else if bankBusy s (wBank v) then .park s
    else .done (modSlot s s.cur fun x => (x.takeIf t a.toNat).writeDst d.toNat
      (nw ((bitB (c.creg (0x2C4 + wBank v)) 63).toNat * 2 ^ 32 + (accAt c (wBank v) (wRow0 v) (bitF v 0 5)).toNat)))))

/-! Events of the queue. -/

/-- Another cluster of the site is in the middle of a pass or a calibration (R242, R263). -/
def siteBusy (s : State) (site cl : Nat) : Bool :=
  (siteUsers s site).any fun c => decide (c ≠ cl) &&
    (clusterAt s c).mxq.any fun x => x.started && x.ended.isNone && (decide (x.fn = 15) || (decide (x.fn = 4) && decide (x.rows < wRows x.word)))

/-- The site's settling and sweep may run for a cluster (R235, R242). -/
def mayProbe (s : State) (cl : Nat) : Option Nat :=
  (siteOf s cl).bind fun k => if probesRun s k && !siteBusy s k cl then some k else none

/-- A pass of another cluster is ready and its turn comes first (R242): the clusters alternate, and the host begins. -/
def mustYield (s : State) (site cl : Nat) : Bool :=
  let others := (siteUsers s site).filter fun c => decide (c ≠ cl) && (ready s c fun x => decide (x.fn = 4)).isSome
  match (siteAt s site).last with
  | some l => decide (l = cl) && !others.isEmpty
  | none => bitB (omuBind s cl) 30 && !others.isEmpty

/-- A pass is cut at row `r`: its bank is poisoned (R254). -/
def cutPass (s : State) (cl : Nat) (x : MxCmd) (r cause : Nat) : State :=
  let n := 0x2C4 + x.acb
  let s1 := modCluster s cl fun c =>
    let m := c.creg n
    if bitB m 63 then c
    else c.setCreg n (setF (setF (setB m 63 true) 55 7 cause) 32 10 (wRow0 x.word + r))
  mxEnd s1 cl x cause 0 (wRow0 x.word + r) 0

/-- The words and bytes of the tile row that a pass takes as its row `r`, by CSP offset (R254, R267). -/
def passCuts (s : State) (cl : Nat) (x : MxCmd) (r : Nat) : List (Nat × Nat) :=
  let rb := rowBytes (wFmt x.word)
  wordCuts (rb + 1) ((tileAt (clusterAt s cl) (wTile x.word)).off + (wTrow x.word + r) * rb) rb

/-- A pass reads one piece of its input, once (R254, R267). -/
def feedPiece (cl id : Nat) (s : State) (p : Nat × Nat) : State :=
  match running s cl fun x => decide (x.id = id) with
  | none => s
  | some x =>
    if x.fed.any fun f => decide (f.off = p.1) then s
    else
      let put (s : State) (f : FedPiece) : State := modCmd s cl id fun y => { y with fed := y.fed ++ [f] }
      match cspRead s cl p.1 p.2 with
      | .ok s1 bs => put s1 ⟨p.1, bs, 0⟩
      | .poison s1 c _ => put s1 ⟨p.1, List.replicate p.2 0#8, c⟩
      | .deny s1 _ | .wait s1 => s1

/-- A pass reads pieces ahead of its rows: piece 64 r + i is part i of the r-th row that has not entered (R254). -/
def feedEarly (cl id : Nat) (s : State) (early : List Nat) : State :=
  early.foldl (fun s i => match running s cl fun x => decide (x.id = id) with
    | none => s
    | some x =>
      if wRows x.word ≤ x.rows + i / 64 then s
      else match (passCuts s cl x (x.rows + i / 64))[i % 64]? with
        | none => s
        | some p => feedPiece cl id s p) s

/-- One row enters the light and accumulates (R49, R254). -/
def enterRow (s : State) (cl site : Nat) (b : PhaseBank) (x : MxCmd) (bs : List Byte) : State :=
  let (ms, ex, sat) := frontEnd (wFmt x.word) bs
  let snap : Option Int := if bitB x.cfg 8 then some (sxNat 7 (bitF x.cfg 0 7)) else none
  let cols := (rangeFrom 0 32).filter fun j => x.mask.testBit j
  let mc := mcMatrix b.codes
  let low := if x.rows = 0 then Nat.min x.low (clusterAt s cl).liveEbc else x.low
  let outs := cols.map fun j => (j, detect (some (Nat.min low b.cebc, b.cebc)) mc b.rng ms j (s.free + j))
  let row := wRow0 x.word + x.rows
  let s1 := modCluster { s with free := s.free + 32 } cl fun c =>
    outs.foldl (fun c o =>
      let p := partialOf o.2.1 (gainAt (x.gains.getD o.1 0) b.rng) ex b.ew snap
      setAcc c x.acb row o.1 (BitVec.ofNat 32 (f32Add .rne (accAt c x.acb row o.1).toNat p))) c
  let clips := (outs.filter fun o => o.2.2).length
  modCmd (countSite s1 site sat clips 1) cl x.id fun y =>
    { y with rows := y.rows + 1, low := low, clip := y.clip || decide (0 < clips) }

/-- Feeds up to `n` rows of a pass: what of a row has not been read before is read as it enters (R254). DEDUCED, unsafe (log entry 37). -/
def feedRows (cl id : Nat) : Nat → State → State
  | 0, s => s
  | n + 1, s =>
    match running s cl fun x => decide (x.id = id) with
    | none => s
    | some x =>
      if wRows x.word ≤ x.rows then s
      else match siteOf s cl with
        | none => cutPass s cl x x.rows 0x70
        | some k =>
          if siteRetired s k ∨ (siteAt s k).st = 4 then cutPass s cl x x.rows 0x4B
          else if (siteAt s k).st = 0 then cutPass s cl x x.rows 0x70
          else if (siteAt s k).st ≠ 2 ∨ (clusterAt s cl).settle then s
          else
            let cuts := passCuts s cl x x.rows
            let s1 := cuts.foldl (feedPiece cl id) s
            let fed := ((running s1 cl fun y => decide (y.id = id)).map MxCmd.fed).getD []
            let ps := cuts.filterMap fun p => fed.find? fun f => decide (f.off = p.1)
            let s2 := modCmd s1 cl id fun y => { y with fed := y.fed.filter fun f => !ps.contains f }
            match (clusterAt s cl).activeBank, ps.find? fun f => decide (f.cause ≠ 0) with
            | some b, none => feedRows cl id n (enterRow s2 cl k b x (ps.flatMap FedPiece.bytes))
            | _, some f => cutPass s2 cl x x.rows f.cause
            | none, none => s

/-- The site cuts a pass at once: it is retired, in STOP, or OFF (R254). -/
def siteCuts (s : State) (k : Nat) : Bool := siteRetired s k || decide ((siteAt s k).st = 4) || decide ((siteAt s k).st = 0)

/-- The pass starts: its gains are those of the site, and an invalid bank ends it (R226, R238, R254). -/
def startPassCmd (s : State) (cl : Nat) (x : MxCmd) : State :=
  if (clusterAt s cl).activeBank.isNone then mxEnd s cl x 0x48 4 0 0
  else match siteOf s cl with
    | none => modCmd s cl x.id fun y => { y with started := true }
    | some k =>
      let s1 := modSite s k fun y => { y with last := some cl, user := if siteCuts s k then y.user else some cl }
      modCmd s1 cl x.id fun y => { y with started := true, gains := siteGains (siteAt s k) }

/-- A queued pass starts, when its turn at the site has come, reads some pieces of its input, and feeds rows into the light (R242, R246, R254). -/
def execOmuPassStart (cluster : Nat) (feed : PassFeed) (s : State) : Out :=
  let s := mxRetire s cluster
  let isPass (x : MxCmd) : Bool := decide (x.fn = 4) && decide (x.rows < wRows x.word)
  let go (x : MxCmd) (s : State) : Out := .next (feedRows cluster x.id feed.rows (feedEarly cluster x.id s feed.early))
  match running s cluster isPass with
  | some x => go x s
  | none => match ready s cluster isPass with
    | none => .next s
    | some x =>
      match siteOf s cluster with
      | none => go x (startPassCmd s cluster x)
      | some k =>
        if siteBusy s k cluster ∨ mustYield s k cluster then .next s
        else if ((siteAt s k).user.getD cluster ≠ cluster) ∧ (clusterAt s cluster).activeBank.isSome ∧ !siteCuts s k then
          .next (modCluster s cluster fun c => { c with settle := true })
        else go x (startPassCmd s cluster x)

/-- A pass whose rows have all entered declares its EBC and ends (R232, R254). -/
def execOmuPassEnd (cluster : Nat) (s : State) : Out :=
  let s := mxRetire s cluster
  match running s cluster fun x => decide (x.fn = 4) && decide (wRows x.word ≤ x.rows) with
  | none => .next s
  | some x =>
    let c := clusterAt s cluster
    let e := if x.clip then 0 else Nat.min x.low ((c.activeBank.map PhaseBank.cebc).getD 0)
    let s1 := modCluster s cluster fun c => { c with passEbc := e }
    if e < bitF x.cfg 24 8 then
      if bitB x.cfg 16 then .next (mxEnd s1 cluster x 0x49 0 0 e)
      else .next (mxEnd (modCluster s1 cluster fun c => c.setCreg (0x2C4 + x.acb) (setB (c.creg (0x2C4 + x.acb)) 62 true)) cluster x 0 0 0 e)
    else .next (mxEnd s1 cluster x 0 0 0 e)

/-- A load of a phase image goes on: the next read, or the check of what was read (R229, R256). A load into the active bank then settles. -/
def phldGo (s : State) (cl : Nat) (x : MxCmd) : State :=
  if x.io.out.isSome ∨ x.io.told then s
  else match engBytes x.io.log x.la 5376 with
    | .need w => mxAsk s cl x w
    | .fault c _ _ _ => mxEnd s cl x c 0 0 0
    | .ok bs _ => match loadImage bs with
      | .error r => mxEnd s cl x 0x48 r 0 0
      | .ok b =>
        let s1 := modCluster s cl fun c => c.setBank x.bank (some b)
        if x.bank = (clusterAt s cl).act then
          modCmd (modCluster s1 cl fun c => { c with settle := true, live := [] }) cl x.id fun y => { y with io := ⟨none, [], true⟩ }
        else mxEnd s1 cl x 0 0 0 0

/-- A load starts, when no other is reading: its bank becomes invalid; or it goes on (R256). -/
def execOmuPhldRun (cluster : Nat) (s : State) : Out :=
  let s := mxRetire s cluster
  match running s cluster fun x => decide (x.fn = 2) && !x.io.told with
  | some x => .next (phldGo s cluster x)
  | none => match ready s cluster fun x => decide (x.fn = 2) with
    | none => .next s
    | some x =>
      .next (phldGo (modCmd (modCluster s cluster fun c => c.setBank x.bank none) cluster x.id fun y => { y with started := true }) cluster x)

/-- A swap toggles the active bank, which then settles; an invalid bank ends it (R257). -/
def execOmuSwapRun (cluster : Nat) (s : State) : Out :=
  let s := mxRetire s cluster
  match ready s cluster fun x => decide (x.fn = 3) with
  | none => .next s
  | some x =>
    let c := clusterAt s cluster
    if (c.bank (!c.act)).isNone then .next (mxEnd s cluster x 0x48 4 0 0)
    else .next (modCmd (modCluster s cluster fun c => { c with act := !c.act, settle := true, live := [] }) cluster x.id
      fun y => { y with started := true })

/-- After a bank change the OMU settles and sweeps; `mprobe` sweeps; the command that waited for it ends (R235, R257). -/
def execOmuSettleSweep (cluster : Nat) (s : State) : Out :=
  let s := mxRetire s cluster
  match mayProbe s cluster with
  | none => .next s
  | some k =>
    if (clusterAt s cluster).settle then
      let s1 := sweepSite s cluster k
      match running s cluster fun x => decide (x.fn = 2 ∨ x.fn = 3) && (decide (x.fn = 3) || (x.toActive (clusterAt s cluster) && x.io.told)) with
      | none => .next s1
      | some x => .next (mxEnd s1 cluster x 0 0 0 0)
    else match ready s cluster fun x => decide (x.fn = 7) with
      | none => .next s
      | some x => .next (mxEnd (sweepSite s cluster k) cluster x 0 0 0 0)

/-- The place and the bytes of a drain's next row in its tile (R260). -/
def drainRow (c : Cluster) (cl : Nat) (x : MxCmd) : Nat × List Byte :=
  let es := if wFmt x.word = 0x8 then 4 else 2
  (cspKey cl ((tileAt c (wTile x.word)).off + x.rows * 32 * es),
    (rangeFrom 0 32).flatMap fun j =>
      let v := (accAt c x.acb (wRow0 x.word + x.rows) j).toNat
      if es = 4 then natLE 4 v else natLE 2 (f32ToBf16 .rne v))

/-- A drain goes on: the next write of its row, or, the row written and with CLR = 1 cleared, the next row, or its end (R260). A row whose write
is refused counts as written. -/
def drainGo (s : State) (cl : Nat) (x : MxCmd) : State :=
  let c := clusterAt s cl
  if x.io.out.isSome then s
  else match engPut x.io.log (drainRow c cl x).1 (drainRow c cl x).2 with
    | .need w => mxAsk s cl x w
    | .ok _ _ | .fault _ _ _ _ =>
      let s1 := if wClr x.word then modCluster s cl fun c => clearRows c x.acb (wRow0 x.word + x.rows) 1 else s
      let x1 := { x with rows := x.rows + 1, io := EngIo.reset }
      let s2 := modCmd s1 cl x.id fun y => { y with rows := x1.rows, io := x1.io }
      if wRows x.word ≤ x1.rows then mxEnd s2 cl x1 0 0 0 0
      else match engPut [] (drainRow (clusterAt s2 cl) cl x1).1 (drainRow (clusterAt s2 cl) cl x1).2 with
        | .need w => mxAsk s2 cl x1 w
        | .ok _ _ | .fault _ _ _ _ => s2

/-- A drain starts, or goes on (R260). -/
def execOmuDrainRun (cluster : Nat) (s : State) : Out :=
  let s := mxRetire s cluster
  match running s cluster fun x => decide (x.fn = 5) with
  | some x => .next (drainGo s cluster x)
  | none => match ready s cluster fun x => decide (x.fn = 5) with
    | none => .next s
    | some x => .next (drainGo (modCmd s cluster x.id fun y => { y with started := true }) cluster x)

/-- An answer reaches the command of the queue that asked. -/
def mxAnswer (s : State) (cl id : Nat) (f : EngIo → EngIo) : State :=
  match (clusterAt s cl).mxq.find? fun x => decide (x.id = id) with
  | none => s
  | some x =>
    if x.io.out.isNone then s
    else
      let x := { x with io := f x.io }
      let s := modCmd s cl id fun y => { y with io := x.io }
      if x.ended.isSome then mxRetire s cl
      else if x.fn = 2 then phldGo s cl x
      else if x.fn = 5 then drainGo s cl x
      else s

/-- A clear runs (R260). -/
def execOmuClearRun (cluster : Nat) (s : State) : Out :=
  let s := mxRetire s cluster
  match ready s cluster fun x => decide (x.fn = 6) with
  | none => .next s
  | some x =>
    let n := 0x2C4 + x.acb
    .next (mxEnd (modCluster s cluster fun c =>
      (clearRows c x.acb (wRow0 x.word) (wRows x.word)).setCreg n (setF (setF (setF (c.creg n) 62 2 0) 55 7 0) 32 10 0)) cluster x 0 0 0 0)

/-- The start of the symbol count after probes that fell due while none ran: those are not run late (R234). -/
def Site.lateSym (x : Site) (now : Nat) : Nat :=
  let p := 2 ^ bitF (x.creg 0x283) 16 5
  x.sym + (10 * now - x.sym) / p * p

/-- A calibration starts: lasers on, trims centred (R238, R239); none once the power fails (R356). DEDUCED, unsafe (log entry 36). -/
def execOmuCalRun (cluster : Nat) (s : State) : Out :=
  let s := mxRetire s cluster
  match ready s cluster (fun x => decide (x.fn = 15)), siteOf s cluster with
  | some x, some k =>
    if siteRetired s k ∨ siteBusy s k cluster ∨ (siteAt s k).st = 4 ∨ s.modul.hu ≠ .idle then .next s
    else .next (modCmd (modSite s k fun y => { y with st := 1, trimOut := false, tmax := 0, sym := y.lateSym s.time }) cluster x.id
      fun y => { y with started := true })
  | _, _ => .next s

/-- Gains as a calibration measures them, then its closing sweep (R238). -/
def calibrate (s : State) (cl site : Nat) : State :=
  let (i, s1) := takeFree s
  let s2 := modSite s1 site fun y => (rangeFrom 0 16).foldl (fun y p => y.setCreg (0x290 + p)
    (nw ((Config.measuredGain i (2 * p + 1)).toNat * 2 ^ 32 + (Config.measuredGain i (2 * p)).toNat))) y
  modSite (sweepSite s2 cl site) site fun y => { y with st := 2 }

/-- A calibration ends: gains, a sweep, and READY (R238, R239). -/
def execOmuCalEnd (cluster : Nat) (s : State) : Out :=
  let s := mxRetire s cluster
  match running s cluster (fun x => decide (x.fn = 15)), siteOf s cluster with
  | some x, some k => if (siteAt s k).st = 1 ∧ !siteRetired s k then .next (mxEnd (calibrate s cluster k) cluster x 0 0 0 0) else .next s
  | _, _ => .next s

/-- The hottest photonic sensor reads at or above STOPT: rows and probes stop, and a calibration ends (R239, R263). -/
def execOmuThermalStop (cluster : Nat) (temp : Nat) (s : State) : Out :=
  match siteOf s cluster with
  | none => .next s
  | some k =>
    let s1 := modSite s k fun x => { x with temp := temp % 65536 }
    let x := siteAt s1 k
    if (x.st = 1 ∨ x.st = 2 ∨ x.st = 3) ∧ bitF (x.creg 0x285) 32 8 * 256 ≤ x.temp then
      let s2 := modSite s1 k fun x => { x.setCreg 0x288 (addF (x.creg 0x288) 0 32 1) with st := 4 }
      let s3 := raiseOwners s2 k 0x4B (nw (k % 168))
      .next ((siteUsers s3 k).foldl (fun s c => match running s c fun x => decide (x.fn = 15) with
        | some m => mxEnd s c m 0x4B 0 0 0
        | none => s) s3)
    else .next s1

/-- The hottest photonic sensor reads below RESUME: STOP becomes DRIFT, and probes resume (R239). -/
def execOmuThermalResume (cluster : Nat) (temp : Nat) (s : State) : Out :=
  match siteOf s cluster with
  | none => .next s
  | some k =>
    let s1 := modSite s k fun x => { x with temp := temp % 65536 }
    let x := siteAt s1 k
    if x.st = 4 ∧ x.temp < bitF (x.creg 0x285) 40 8 * 256 then
      .next (modSite s1 k fun x => { x with st := 3, clean := 0, sym := x.lateSym s.time })
    else .next s1

/-! Register writes (R234, R241, R244). -/

/-- A cluster of the site is in the middle of a pass. -/
def sitePassing (s : State) (k : Nat) : Bool :=
  (siteUsers s k).any fun c => (clusterAt s c).mxq.any fun x => decide (x.fn = 4) && x.started && x.ended.isNone

/-- A write to CL_OMU_BIND takes effect only while the OMU is free and no pass runs at its site; the banks of the cluster, and of guests that follow
it, are then loaded into the new site's meshes, which settle (R241, R242). DEDUCED, unsafe (log entry 38). -/
def bindWrite (s : State) (cl : Nat) (v : Word) : State :=
  let c := clusterAt s cl
  let old := siteOf s cl
  if c.own.isSome ∨ !(openCmds c.mxq).isEmpty ∨ (old.map (sitePassing s)).getD false then
    modCluster s cl fun c => c.setCreg 0x281 (setB (c.creg 0x281) 32 true)
  else
    let s1 := modCluster s cl fun c => c.setCreg 0x281 (setB (regMerge 0x281 (omuBind s cl) v) 32 false ^^^ nw (clusterNo cl))
    let moved := (rangeFrom (towerOf cl * 160) 160).filter fun c => decide (c = cl) || decide (siteOf s1 c ≠ siteOf s c)
    let s2 := moved.foldl (fun s c => modCluster s c fun x => { x with settle := true, live := [] }) s1
    match old with
    | none => s2
    | some k => modSite s2 k fun x => { x with user := x.user.bind fun u => if moved.contains u then none else some u }

/-- CL_OMU_PCFG after a write: a value of P outside 8 to 16 leaves P unchanged (R244). -/
def pcfgNew (old v : Word) : Word :=
  let n := regMerge 0x283 old v
  if 8 ≤ bitF v 16 5 ∧ bitF v 16 5 ≤ 16 then n else setF n 16 5 (bitF old 16 5)

/-- CL_OMU_TEMP after a write; one that leaves RESUME at or above STOPT is ignored (R244). -/
def tempNew (old v : Word) : Word :=
  let n := regMerge 0x285 old v
  if bitF n 32 8 ≤ bitF n 40 8 then old else n

/-- A write to a register that the clusters of a site share; a change of P restarts the symbol counter (R234, R242). -/
def siteWrite (s : State) (cl n : Nat) (v : Word) : State :=
  let new (old : Word) : Word := if n = 0x283 then pcfgNew old v else if n = 0x285 then tempNew old v else regMerge n old v
  match siteOf s cl with
  | none => modCluster s cl fun c => c.setCreg n (new (c.creg n))
  | some k => modSite s k fun x =>
    { x.setCreg n (new (x.creg n)) with sym := if n = 0x283 ∧ bitF (new (x.creg n)) 16 5 ≠ bitF (x.creg n) 16 5 then 10 * s.time else x.sym }

end Sys2Proof.Machine
end

