-- ==== Sys2Proof/Machine/Dce.lean ====
section
/-! DEFINITION. The decomposition engine: `mdecomp` and the engine's events (R230, R262). -/

namespace Sys2Proof.Machine

/-- The bytes of a row of W (R262). -/
def weightRow (fmt : Nat) : Nat := 4 * fmtBits fmt

/-- A descriptor is well formed: a weight format, and a stride of at least a row; reserved bits are ignored (R8, R262). -/
def decompOk (ds : List Word) : Bool :=
  let w := val ds 2
  let f := bitF w 0 4
  decide (f = 0x8 ∨ f = 0x9 ∨ f = 0xA ∨ f = 0xB ∨ f = 0x0 ∨ f = 0xD) && decide (weightRow f ≤ bitF w 32 32)

/-- The alignment of W and of its stride: the element size, 1 for packed elements (R166, R262). -/
def weightAlign (fmt : Nat) : Nat := Nat.max 1 (fmtBits fmt / 8)

/-- The pointers of a descriptor in the order of its checks (R166, R262). -/
def decompUses (ds : List Word) : List PtrUse :=
  let p := val ds 0
  let w := val ds 2
  let n : Int := ((31 * bitF w 32 32 + weightRow (bitF w 0 4) : Nat) : Int)
  [⟨p, ptrOff p, (ptrOff p : Int) + n - 1, needRD, weightAlign (bitF w 0 4), [(bitF w 32 32 : Nat)]⟩,
    flatUse (val ds 1) 5376 needWD 64, flatUse (val ds 3) 8 needWD 8]

/-- Reads and checks a descriptor, and queues a decomposition (R262). -/
def execMdecomp (a b : GReg) (t : Bool) (s : State) : Out :=
  .next (withOps s [a, b] none false fun s vs =>
    withAnswers s fun ws => ptrBytes s ws (val vs 0) 0 32 8 fun s _ bs =>
      let ds := dwords 4 bs
      let iss := issuerOf s s.cur
      let cl := clusterOf (coreOf s.cur)
      let w := val ds 2
      if !decompOk ds then .trap 0x47 (nw (iss.at (val vs 0)))
      else match ptrRows iss (decompUses ds) with
        | some (c, v) => .trap c v
        | none =>
          if 2 ≤ (clusterAt s cl).dce.length then .park s
          else
            let (id, s1) := takeFresh s
            let d : DceCmd := ⟨id, iss, iss.at (val ds 0), iss.at (val ds 1), bitF w 32 32,
              if bitB w 12 then some (sxNat 8 (bitF w 16 8)) else none, bitF w 8 2, bitF w 0 4,
              iss.at (val ds 3), bitF (val vs 1) 0 32, false, none, EngIo.reset⟩
            .done (modSlot (modCluster s1 cl fun c => { c with dce := c.dce ++ [d] }) s.cur
              fun x => { x.takeIf t a.toNat with cmds := x.cmds ++ [⟨id, 1, false⟩] }))

/-- A row of weights, exact (R44, R230). A t2 code 10 reads as 0; the DCE has no counter that would count it as saturated.
DESIGN CHOICE, unsafe (log entry 87). -/
def weightVals (fmt : Nat) (bs : List Byte) : List FVal :=
  if fmt = 0xD then (rangeFrom 0 32).map fun i => FVal.ofInt (t2Val (packedGet 2 bs i)).1
  else if fmt = 0x0 then (rangeFrom 0 32).map fun i => FVal.ofInt (bs.getD i 0#8).toInt
  else groupVals fmt (fmtBits fmt) 32 bs

/-- The block that a decomposition reads, row by row (R262). -/
def readBlock (d : DceCmd) : Nat → Nat → List EngAns → List FVal → EngGot (List FVal)
  | 0, _, log, acc => .ok acc log
  | n + 1, i, log, acc =>
    match engBytes log (d.src + i * d.stride) (weightRow d.wfmt) with
    | .ok bs log => readBlock d n (i + 1) log (acc ++ weightVals d.wfmt bs)
    | .fault c la pa log => .fault c la pa log
    | .need w => .need w

/-- δ of an image: the largest column sum of |M_c − W / 2^e_w| (R230). -/
def imageDelta (mc : List (List FVal)) (w : List FVal) : FVal :=
  (maxOf ((rangeFrom 0 32).map fun j => fvSum ((rangeFrom 0 32).map fun i =>
    fvDist (matAt mc i j) (w.getD (32 * i + j) (.fin false 0 0))))).getD (.fin false 0 0)

/-- e_w from auto and a requested exponent (R230). -/
def weightExp (auto : Int) (req : Option Int) : Int :=
  let e := match req with
    | some q => if auto ≤ q then q else auto
    | none => auto
  if e < -128 then -128 else if 127 < e then 127 else e

/-- A decomposition's outcome: cause (0 for success), image, CEBC, sweeps (R230): a run that converges has made a sweep, and a zero block converges
with the first. What is not architectural of its arithmetic, and the block identifier of its image, is a free function of the block, the
range and the requested exponent. DESIGN CHOICE, safe (log entry 7). -/
def decomposeBlock (d : DceCmd) (w : List FVal) : Nat × List Byte × Nat × Nat :=
  if w.any fun v => match v with
    | .fin _ _ _ => false
    | _ => true then (0x4D, [], 0, 0)
  else
    let r := Config.decompose (w.map fun v => BitVec.ofNat 32 (roundF32 .rne v)) d.rng d.exp
    let codes := (rangeFrom 0 2080).map fun c => r.codes.getD c 0#16
    let mc := mcMatrix codes
    let zero := w.all fun v => match v with
      | .fin _ m _ => decide (m = 0)
      | _ => false
    let sweeps := if zero then 1 else Nat.max 1 (Nat.min r.sweeps 12)
    if !r.converged ∧ !zero then (0x4D, [], 0, 12)
    else if 127 < autoExp w then (0x4D, [], 0, sweeps)
    else
      let ew := weightExp (autoExp w) d.exp
      let scaled := w.map fun v => v.mul (.fin false 1 (-ew))
      let refs := scaled.map fun v => (fmtE4m3.narrow .rne false v).1
      if !refsHold mc refs then (0x4D, [], 0, sweeps)
      else
        let cebc := ebcOf d.rng ((imageDelta mc scaled).mul (.fin false 127 0))
        (0, imageBytes codes refs ew d.rng d.wfmt r.block cebc sweeps, cebc, sweeps)

/-- Replaces the head of a cluster's DCE queue. -/
def setDce (s : State) (cl : Nat) (d : DceCmd) : State := modCluster s cl fun c => { c with dce := d :: c.dce.drop 1 }

/-- Makes an access of the head decomposition, from the cluster's DCE (R101). -/
def dceAsk (s : State) (cl : Nat) (d : DceCmd) (w : EngNeed) : State :=
  let (s1, io) := engAsk s (.dce cl) d.iss d.id 0 1 none d.io w
  setDce s1 cl { d with io := io }

/-- The head decomposition goes on with reading its block, and is computed when all of it has come (R230, R262). -/
def dceRead (s : State) (cl : Nat) (d : DceCmd) : State :=
  if d.io.out.isSome ∨ d.result.isSome then s
  else match readBlock d 32 0 d.io.log [] with
    | .need w => dceAsk s cl d w
    | .fault c _ _ _ => setDce s cl { d with result := some (c, [], 0, 0), io := EngIo.reset }
    | .ok w _ => setDce s cl { d with result := some (decomposeBlock d w), io := EngIo.reset }

/-- A decomposition leaves the engine, and CL_DCE_STAT records it (R244, R262). -/
def dceLeave (s : State) (cl : Nat) (d : DceCmd) (cebc sweeps : Nat) : State :=
  endCmd (modCluster s cl fun c =>
    { c.setCreg 0x2A0 (nw ((bitF (c.creg 0x2A0) 32 32 + 1) % 2 ^ 32 * 2 ^ 32 + sweeps * 2 ^ 8 + cebc)) with dce := c.dce.drop 1 }) d.iss.slot d.id

/-- The stamp of a decomposition, after which it leaves (R262, R276). -/
def dceStamp (s : State) (cl : Nat) (d : DceCmd) (cause cebc sweeps : Nat) : State :=
  match stampEnd s id (coreOf d.iss.slot) 0x47 d.stamp (stampWord cause d.seq ||| nw (cebc * 2 ^ 32)) d.io.log with
  | .need w => dceAsk s cl d w
  | .ok s1 _ => dceLeave s1 cl d cebc sweeps
  | .fault _ _ _ _ => s

/-- A computed decomposition goes on: on success the image, whose lines are one access, so that none is written when one is refused; then the
stamp (R262). -/
def dceEnd (s : State) (cl : Nat) (d : DceCmd) : State :=
  if d.io.out.isSome then s
  else match d.result with
    | none => s
    | some (cause, bs, cebc, sweeps) =>
      if cause ≠ 0 then dceStamp s cl d cause 0 sweeps
      else if d.io.told then dceStamp s cl d 0 cebc sweeps
      else match engWriteCuts true (putPieces d.dst bs) d.io.log with
        | .need w => dceAsk s cl d w
        | .fault c _ _ _ =>
          let d := { d with result := some (c, [], 0, sweeps), io := EngIo.reset }
          dceStamp (setDce s cl d) cl d c 0 sweeps
        | .ok _ _ =>
          let d := { d with io := ⟨none, [], true⟩ }
          dceStamp (setDce s cl d) cl d 0 cebc sweeps

/-- The DCE starts the decomposition at the head of its queue, or goes on with its reads (R230, R262, R275). -/
def execDceDecompose (cluster : Nat) (s : State) : Out :=
  match (clusterAt s cluster).dce with
  | [] => .next s
  | d :: _ =>
    if !d.running ∧ barsHold (coreAt s (coreOf d.iss.slot)) d.iss.bars then .next s
    else .next (dceRead (setDce s cluster { d with running := true }) cluster { d with running := true })

/-- A decomposition ends: the image on success, the stamp always (R262, R276). -/
def execDceEnd (cluster : Nat) (s : State) : Out :=
  match (clusterAt s cluster).dce with
  | [] => .next s
  | d :: _ => .next (dceEnd s cluster d)

/-- An answer reaches the decomposition that asked. -/
def dceAnswer (s : State) (cl id : Nat) (f : EngIo → EngIo) : State :=
  match (clusterAt s cl).dce with
  | [] => s
  | d :: _ =>
    if d.id ≠ id ∨ d.io.out.isNone then s
    else
      let d := { d with io := f d.io }
      if d.result.isNone then dceRead (setDce s cl d) cl d else dceEnd (setDce s cl d) cl d

end Sys2Proof.Machine
end

