-- ==== Sys2Proof/Machine/EngNet.lean ====
section
/-! DEFINITION. The engines' accesses at their homes, word by word, and the answers that come back (R101, R119, R267, R276). -/

namespace Sys2Proof.Machine

/-- The answer to a read reaches its engine. -/
def toEngineRead (s : State) (ref : EngRef) (v : Reply) : State :=
  match ref.eng with
  | .xfe c => xfeReadDone s c ref.cmd v
  | .ve c => veReadDone s c ref.cmd ref.part v
  | .strm _ => streamAnswer s ref.cmd ref.elem fun io => io.read v
  | .cle t => cleAnswer s t ref.cmd fun io => io.read v
  | .drain cl => mxAnswer s cl ref.cmd fun io => io.read v
  | .dce cl => dceAnswer s cl ref.cmd fun io => io.read v
  | _ => s

/-- The acknowledgement of a write, or its refusal with a cause, reaches its engine. -/
def toEngineWrite (s : State) (ref : EngRef) (err : Option Nat) : State :=
  match ref.eng with
  | .xfe c => xfeWriteDone s c ref.cmd ref.part err
  | .ve c => veWriteDone s c ref.cmd ref.part err
  | .strm _ => streamAnswer s ref.cmd ref.elem fun io => io.wrote ref.part err
  | .cle t => cleAnswer s t ref.cmd fun io => io.wrote ref.part err
  | .drain cl => mxAnswer s cl ref.cmd fun io => io.wrote ref.part err
  | .dce cl => dceAnswer s cl ref.cmd fun io => io.wrote ref.part err
  | _ => s

/-- The bytes of an access of `n` bytes that its home performs next: an aligned 8-byte word that it covers whole, one element, or one byte
(R212, R267). -/
def nextPiece (pa n unit : Nat) : Nat :=
  let u := Nat.min unit n
  if pa % 8 = 0 ∧ 8 ≤ n then 8 else if 0 < u ∧ pa % u = 0 then u else 1

/-- The bytes of a write that its home performs next; a write of a whole line that holds poison is performed whole (R410). -/
def nextPut (s : State) (pa n unit : Nat) : Nat :=
  match placeOf s pa with
  | .tier _ => if pa % 64 = 0 ∧ n = 64 ∧ (lineSeen s (scFinal s pa / 64)).2 ≠ 0 then 64 else nextPiece pa n unit
  | _ => nextPiece pa n unit

/-- Reads all the pieces of an access at one instant: the bytes, or the number of the piece that gives none, with what it gives. -/
def readAll : Nat → State → List (Nat × Nat × Acc) → List Byte → Except (Nat × HRes) (State × List Byte)
  | _, s, [], got => .ok (s, got)
  | j, s, (pa, n, acc) :: more, got => match homeReadRaw s pa n acc with
    | .ok s1 bs => readAll (j + 1) s1 more (got ++ bs)
    | r => .error (j, r)

/-- A home's refusal of a piece of an engine read. -/
def readRefused (s : State) (i : Nat) (m : Msg) (ref : EngRef) (piece pa : Nat) : HRes → State
  | .poison s1 c a => sendMsg (dropMsg s1 i) (replyTo m (.engReadReply { ref with part := piece } (.poison c a)))
  | .deny s1 d => sendMsg (dropMsg s1 i) (replyTo m (.engReadReply { ref with part := piece } (.poison (d.seenBy m.src).cause pa)))
  | .ok _ _ | .wait _ => s

/-- A home performs the next word or element of an engine read, or all of one whose pieces are one element, and replies after the last
(R101, R212, R267). -/
def execEngineReadRequest (i : Nat) (s : State) : Out :=
  match arrives s i with
  | none => .next s
  | some m =>
    match m.body, m.dst with
    | .engRead _ _ _ _ _ _, .link _ | .engRead _ _ _ _ _ _, .host _ => .next s
    | .engRead pa n got ref acc more, _ =>
      let pieces := (pa, n, acc) :: more
      let k := nextPiece pa n ref.unit
      match pieces.find? fun p => mustFill s p.1 with
      | some p => .next (startFill s p.1 p.2.2)
      | none =>
        if ref.unit = 0 then match readAll 0 s pieces [] with
          | .ok (s1, bs) => .next (sendMsg (dropMsg s1 i) (replyTo m (.engReadReply ref (.value bs))))
          | .error (j, r) => .next (readRefused s i m ref j ((pieces[j]?.map Prod.fst).getD pa) r)
        else match homeReadRaw s pa k acc with
          | .ok s1 bs =>
            let rest (b : Body) : Out := .next { s1 with net := s1.net.set i { m with body := b } }
            if k < n then rest (.engRead (pa + k) (n - k) (got ++ bs) ref acc more)
            else match more with
              | [] => .next (sendMsg (dropMsg s1 i) (replyTo m (.engReadReply ref (.value (got ++ bs)))))
              | p :: more => rest (.engRead p.1 p.2.1 (got ++ bs) ref p.2.2 more)
          | r => .next (readRefused s i m ref (ref.part - pieces.length) pa r)
    | _, _ => .next s

/-- An engine read's reply delivers its bytes (R101). -/
def execEngineReadReply (i : Nat) (s : State) : Out :=
  match arrives s i with
  | none => .next s
  | some m => match m.body with
    | .engReadReply ref v => .next (toEngineRead (dropMsg s i) ref v)
    | _ => .next s

/-- A compressed write decodes at an LM home: the slot of the home's NI is valid and has the sender's tag (R118 to R120). -/
def wireOk (s : State) (pa : Nat) (dict : Option (Nat × Nat)) : Bool :=
  match dict with
  | none => true
  | some (d, tag) => match lmCore s pa with
    | none => true
    | some c => (dictAt (coreAt s c) d).v && decide ((dictAt (coreAt s c) d).tag = tag)

/-- The directory still waits for the sharers of the line before an address, in which an engine's write has performed a piece (R111). -/
def lineWaits (s : State) (pa : Nat) : Bool := match placeOf s pa with
  | .lm cl lc off => match lmAt s cl lc off with
    | .here c o _ => match dirAt (coreAt s c) (o / 64) with
      | some e => e.needRelease || decide (e.acks ≠ [])
      | none => false
    | .wait | .off | .retired => false
  | _ => false

/-- The first piece of a write that its home refuses now, with the state that the refusal leaves and its cause; none when every piece
would be performed (R120, R211). -/
def putRefused (s : State) (from_ : Agent) : Nat → State → List PutPiece → Option (Nat × State × Nat)
  | _, _, [] => none
  | j, t, p :: more =>
    if !wireOk s p.pa p.dict then some (j, s, 0x62)
    else match homeWrite t p.pa p.data p.acc none with
      | .ok t1 _ => putRefused s from_ (j + 1) t1 more
      | .wait _ => none
      | .poison _ c _ => some (j, s, c)
      | .deny _ d => some (j, match homeWrite s p.pa p.data p.acc none with
        | .deny s1 _ => s1
        | _ => s, (d.seenBy from_).cause)

/-- A home performs the next word or element of an engine write, none when a piece of it would be refused, and acknowledges the write after the
last, when the directory allows; and an acknowledgement reaches its engine (R111, R119, R211, R267, R276). DESIGN CHOICE, unsafe (log
entry 23). -/
def execEngineWrite (i : Nat) (s : State) : Out :=
  match arrives s i with
  | none => .next s
  | some m =>
    match m.body, m.dst with
    | .engWriteAck ref err, _ => .next (toEngineWrite (dropMsg s i) ref err)
    | .engWrite _ _ _ _ _ _, .link _ | .engWrite _ _ _ _ _ _, .host _ => .next s
    | .engWrite pa data ref acc dict more, _ =>
      let rest (t : State) (b : Body) : Out := .next { t with net := t.net.set i { m with body := b } }
      match data, more with
      | [], [] => .next s
      | [], p :: more => if lineWaits s (pa - 1) then .next s else rest s (.engWrite p.pa p.data ref p.acc none more)
      | _, _ =>
        let pieces := ⟨pa, data, acc, dict⟩ :: more
        let k := nextPut s pa data.length ref.unit
        match pieces.find? fun p => mustFill s p.pa with
        | some p => .next (startFill s p.pa p.acc)
        | none => match putRefused s m.src 0 s pieces with
          | some (j, s1, c) =>
            .next (sendMsg (dropMsg s1 i) (replyTo m (.engWriteAck { ref with part := ref.part - pieces.length + j } (some c))))
          | none =>
            if data.length ≤ k ∧ more = [] then
              match homeWrite (dropMsg s i) pa data acc (some (replyTo m (.engWriteAck ref none))) with
              | .ok s1 _ => .next s1
              | .poison _ _ _ | .deny _ _ | .wait _ => .next s
            else match homeWrite s pa (data.take k) acc none with
              | .ok s1 _ => rest s1 (.engWrite (pa + k) (data.drop k) ref acc none (more.map fun p => { p with dict := none }))
              | .poison _ _ _ | .deny _ _ | .wait _ => .next s
    | _, _ => .next s

end Sys2Proof.Machine
end

