-- ==== Sys2Proof/Machine/Fetch.lean ====
section
/-! DEFINITION. A slot's turn: the fetch of its word (R12), the checks of R17, and the lockstep of a gang (R304, R305, R307). -/

namespace Sys2Proof.Machine

/-- The outcome of a fetch. -/
inductive Fetched where
  | word (w : BitVec 32)
  | park (s : State)
  | trap (cause : Nat) (tval : Word)

/-- The address of a fetch, or its trap. What lies outside seg0, or in the control or host window, traps 0x06; a page fault names the PC; a hole
and a misconfigured spread region are those of SegAddr (R12, R55, R128, R131). -/
def fetchAddr (s : State) (k : Nat) : AddrRes :=
  let x := slotAt s k
  let lo := x.segLo 0
  let hi := x.segHi 0
  let la := segBase lo + x.pc.toNat
  if x.pc.toNat + 3 > segLimit lo hi ∨ !segX hi ∨ inCtlWindow s la then .trap 0x06 x.pc
  else if !inWindow (segWin hi) la then .trap 0x10 x.pc
  else
    match physical s k x.asid la { x := true } with
    | .trap c v => .trap c (if c = 0x10 ∨ c = 0x21 then v else x.pc)
    | .ok la pa acc => if inCtlWindow s pa then .trap 0x06 x.pc else .ok la pa acc
    | .walk s => .walk s

/-- Sends the read of a word at another home (R12): the request carries the PC in place of a register. -/
def sendFetch (s : State) (k pa : Nat) (acc : Acc) : State :=
  let core := coreOf k
  match freeTag (coreAt s core) with
  | none => s
  | some t =>
    let m : Msg := ⟨.ni core, homeAgent s core pa, t, k, (slotAt s k).phase, .loadReq pa 4 acc⟩
    modSlot (modCore s core fun c =>
      { setReq c t (some ⟨.fetch, k, (slotAt s k).pc.toNat, 4, false, none, m, 1, none, false, []⟩) with ni := c.ni ++ [m] })
      k fun x => { x with fetch := some t }

/-- Fetches the slot's word: the one held, or one read at its home (R12). -/
def fetchWord (s : State) (k : Nat) : Fetched :=
  let x := slotAt s k
  match x.held with
  | some w => .word w
  | none =>
    match fetchAddr s k with
    | .trap c v => .trap c v
    | .walk s => .park s
    | .ok la pa acc =>
      match ownLm s (coreOf k) pa with
      | .own off => match lmRead s (coreOf k) off 4 with
        | .ok _ bs => .word (BitVec.ofNat 32 (leNat bs))
        | .poison _ c _ => .trap c x.pc
        | .deny _ d => .trap d.cause x.pc
        | .wait s => .park s
      | .off => .trap 0x16 (nw la)
      | .retired => .trap 0x17 (nw la)
      | .other =>
        let ask : Fetched := .park (if x.fetch.isSome then s else sendFetch s k pa acc)
        match x.wfault with
        | some (l, c, _) => if l = la then .trap c x.pc else ask
        | none => ask

/-! The checks of R17. -/

/-- The word is one of a privileged form (R20). -/
def privWord (w : BitVec 32) : Bool :=
  let op := (fOp w).toNat
  decide (op = 0x5B) || decide (op = 0x5C) || (decide (0x5F ≤ op) && decide (op ≤ 0x67)) || decide (op = 0x4B)
    || (decide (op = 0x58) && (decide (fFn9 w = 2#9) || decide (fFn9 w = 3#9)))
    || ((decide (op = 0x59) || decide (op = 0x5A)) && privReg (fImm14 w).toNat)

/-- Opcodes that issue only from the transform thread (R196). -/
def xformWord (w : BitVec 32) : Bool := decide (0x50 ≤ (fOp w).toNat) && decide ((fOp w).toNat ≤ 0x53)

/-- Opcodes that issue only from the slot pinned to the VE (R203). -/
def pinWord (w : BitVec 32) : Bool := decide (0x42 ≤ (fOp w).toNat) && decide ((fOp w).toNat ≤ 0x47)

/-- Checks 2 to 6 of R17: the instruction, or the cause of the first that fails. -/
def gate (s : State) (k : Nat) (w : BitVec 32) : Except Nat Instr :=
  match decodeWord w with
  | .error .illegal => .error 0x01
  | .error _ => .error 0x02
  | .ok i =>
    if privWord w && decide ((slotAt s k).mode = .user) then .error 0x03
    else if xformWord w && !(decide (slotNo k = 15) && xformOn s (coreOf k)) then .error 0x05
    else if pinWord w && decide ((coreAt s (coreOf k)).pin ≠ some k) then .error 0x04
    else .ok i

/-! One slot, and a gang. -/

/-- The word held for its slot while its instruction is not complete (R12). -/
def holdWord (s : State) (k : Nat) (w : BitVec 32) : State := modSlot s k fun x => { x with held := some w }

/-- Opcodes that access memory or a level record as the thread: loads, stores, full/empty forms, atomics, `launch`, LEVEL, PHASE.
DEDUCED, safe (log entry 25). -/
def accessWord (w : BitVec 32) : Bool :=
  let op := (fOp w).toNat
  (decide (0x11 ≤ op) && decide (op ≤ 0x24)) || (decide (0x38 ≤ op) && decide (op ≤ 0x3A))

/-- A `lvlwait` or `phwait` of the slot awaits its reply, which is an acquire: every later access is performed after it (R280, R319). -/
def acquireHolds (s : State) (k : Nat) : Bool :=
  (slotReqs (coreAt s (coreOf k)) k).any fun r => decide (r.2.sync = some .lvlwait) || decide (r.2.sync = some .phwait)

/-- Evaluates word `w` at slot `k`. -/
def runOne (run : Instr → State → Out) (s : State) (k : Nat) (w : BitVec 32) : Out :=
  match gate s k w with
  | .error c => .next (finish s k (.trap c (w.setWidth 64)))
  | .ok i => if accessWord w && acquireHolds s k then .next (finish s k (.park s)) else run i { s with cur := k }

/-- The evaluation would park. -/
def parksAlone (run : Instr → State → Out) (s : State) (w : BitVec 32) (k : Nat) : Bool :=
  decide ((slotAt s k).st ≠ .ready ∧ (slotAt s k).st ≠ .parked) ||
    match runOne run s k w with
    | .next t => decide (t.mark = .parked)
    | _ => false

/-- A member that gives up its turn because another member would park (R304). -/
def parkMember (s : State) (k : Nat) : State :=
  let x := slotAt s k
  if x.st = .ready ∨ x.st = .parked then finish s k (.park s) else s

/-- Runs the members in turn, with the marks that they leave. -/
def runAll (run : Instr → State → Out) (w : BitVec 32) : List Nat → State → List Mark → Host.Outcome (State × List Mark) Fault Refusal
  | [], s, ms => .next (s, ms.reverse)
  | k :: ks, s, ms =>
    match runOne run s k w with
    | .next t => runAll run w ks t (t.mark :: ms)
    | .fault f => .fault f
    | .refused r => .refused r

/-- Opcodes whose outcome a member decides for itself (R305). -/
def branchWord (w : BitVec 32) : Bool :=
  decide ((fOp w).toNat = 0x28) || decide ((fOp w).toNat = 0x29) || decide ((fOp w).toNat = 0x2C)

/-- A follower after the leader's instruction: an equal outcome continues at the leader's PC; a branch of another outcome detaches it under the
split flag, else traps 0x07 and leaves the branch unperformed (R304, R305). -/
def settleFollower (s0 : State) (lead : Nat) (w : BitVec 32) (lm : Mark) (s : State) (k : Nat) (m : Mark) : State :=
  let l := slotAt s lead
  let x := slotAt s k
  if m = .trapped then s
  else if branchWord w ∧ m ≠ lm then
    if ((l.gang.map Gang.spl).getD false) then
      setSlot s k { x with gang := x.gang.map fun g => { g with att := false } }
    else finish (setSlot s k (slotAt s0 k)) k (.trap 0x07 (slotAt s0 k).pc)
  else if l.gang.isSome ∧ x.gang.isSome then setSlot s k { x with pc := l.pc }
  else s

/-- The members stand at the leader's PC, and the turn is theirs too: none issues again in this cycle (R282, R304, R307). -/
def gangTurn (s : State) (lead : Nat) (fs : List Nat) : State :=
  let l := slotAt s lead
  fs.foldl (fun t k => modSlot t k fun x => { x with pc := l.pc, lastTurn := clusterCycle s (clusterOf (coreOf lead)) + 1 }) s

/-- An attached follower that completed an instruction at which its leader trapped parks (R307). -/
def Slot.awaitLeader (x : Slot) : Slot := if x.st = .ready ∧ (x.gang.map Gang.att).getD false then { x with st := .parked } else x

/-- One turn of a gang (R304 to R307): the word issues at every attached member, or at none. DEDUCED, unsafe (log entry 55). -/
def runGang (run : Instr → State → Out) (s : State) (lead : Nat) (fs : List Nat) (w : BitVec 32) : Out :=
  let s := gangTurn s lead fs
  let ks := lead :: fs
  if ks.any (parksAlone run s w) then
    .next (ks.foldl (fun t k =>
      if parksAlone run s w k then
        match runOne run t k w with
        | .next t' => if t'.mark = .parked then t' else parkMember t k
        | _ => parkMember t k
      else parkMember t k) s)
  else
    match runAll run w ks s [] with
    | .fault f => .fault f
    | .refused r => .refused r
    | .next (t, ms) =>
      let lm := ms.headD .done
      if ms.any (fun m => decide (m = .parked)) then .next (ks.foldl parkMember s)
      else if lm = .trapped then .next (fs.foldl (fun t k => modSlot t k Slot.awaitLeader) t)
      else .next ((fs.zip ms.tail).foldl (fun t p => settleFollower s lead w lm t p.1 p.2) t)

/-- The attached followers of a gang that slot `k` leads, when the gang is in lockstep. -/
def followers (s : State) (k : Nat) : List Nat :=
  match (slotAt s k).gang with
  | none => []
  | some g =>
    if (slotAt s k).solo ∨ lcoreOf s (coreOf k) ≠ g.lead then []
    else
      ((rangeFrom (g.lead + 1) (g.size - 1)).map fun l => slotOf (lcoreKey s (clusterOf (coreOf k)) l) (slotNo k)).filter fun f =>
        match (slotAt s f).gang with
        | some h => h.att && decide (h.lead = g.lead)
        | none => false

/-- The evaluation of slot `k`'s next instruction at its turn (R12, R17, R183, R304). A fetch that parks a leader parks its attached followers; a
fetch that traps makes them wait for its handler (R304, R307). -/
def evalTurn (run : Instr → State → Out) (s : State) (k : Nat) : Out :=
  match fetchWord s k with
  | .trap c v => .next (((followers s k).foldl (fun t j => modSlot t j Slot.awaitLeader) (finish s k (.trap c v))).marked .trapped)
  | .park t => .next ((followers s k).foldl parkMember (finish t k (.park t)))
  | .word w =>
    match followers s k with
    | [] => runOne run (holdWord s k w) k w
    | f :: fs => runGang run (holdWord s k w) k (f :: fs) w

end Sys2Proof.Machine
end

