-- ==== Sys2Proof/Machine/Traps.lean ====
section
/-! DEFINITION. The SYS forms, a slot's issue turn, deadlines, and debug halt (R327 to R334, R345 to R347). Taking a trap and returning from
one stand in `Machine/Ops.lean`. -/

namespace Sys2Proof.Machine

/-! The SYS forms (R334). -/

/-- Traps into supervisor code (R334). -/
def execSys (a : GReg) (_t : Bool) (s : State) : Out :=
  .next (withOps s [a] none false fun _ vs => .trap 0x09 (val vs 0))

/-- A stopped slot: its issue ends, and its PC stays. -/
def Slot.stop (x : Slot) : Slot := { x.dropIssue with st := .stopped }

/-- Traps 0x08, or stops the slot when BRKH is set (R334). -/
def execBrk (s : State) : Out :=
  .next (if bitB ((coreAt s (coreOf s.cur)).creg 0x1C2) 0 then
      (modSlot s s.cur fun x => { x.stop with brks := true }).marked .done
    else finish s s.cur (.trap 0x08 (slotAt s s.cur).pc))

/-- Returns from a trap (R333). -/
def execEret (s : State) : Out := .next (finish s s.cur (.left (modSlot s s.cur Slot.returnTrap)))

/-- Waits for the slot's accesses and commands, then stops the slot behind the instruction (R334). -/
def execHalt (s : State) : Out :=
  .next (finish s s.cur (if releaseHolds s s.cur then .park s else .done (modSlot s s.cur fun x => { x with st := .stopped, hlts := true })))

/-! The issue turn (R282, R283, R330). -/

/-- The PC saved by an asynchronous trap (R331). -/
def asyncPc (x : Slot) : Word := if x.st = .waiting then 0#64 else x.pc

/-- The slot is an attached follower of a gang: its leader's turn is its turn (R304, R307). -/
def followsLeader (s : State) (k : Nat) : Bool :=
  match (slotAt s k).gang with
  | none => false
  | some g =>
    g.att && decide (lcoreOf s (coreOf k) ≠ g.lead)

/-- Item 3 of R330: the service slot takes the oldest queued event. -/
def takesEvent (s : State) (k : Nat) : Bool :=
  let x := slotAt s k
  decide (svcSlot s (coreOf k) = k) && !(coreAt s (coreOf k)).evq.isEmpty && !x.intrap && !((x.gang.map Gang.att).getD false)

/-- The hold-up sequence has stopped every slot (R356). -/
def huStopped (s : State) : Bool := match s.modul.hu with
  | .idle | .shed => false
  | .drain | .copy | .committed => true

/-- The attached members of a gang whose turn is the leader's, itself included: those of which one gives up its turns by `yield` give them all up
(R300, R304). -/
def gangSkips (s : State) (k : Nat) : Bool := (k :: followers s k).any fun j => decide (0 < (slotAt s j).skip)

/-- The leader of the slot's gang is alone in a trap handler (R307). -/
def leaderAway (s : State) (k : Nat) : Bool := match (slotAt s k).gang with
  | some g => (slotAt s (slotOf (lcoreKey s (clusterOf (coreOf k)) g.lead) (slotNo k))).solo
  | none => false

/-- What a turn of a slot is used for. -/
inductive TurnUse where
  | empty
  | holdup
  | cancel (id : Nat)
  | event (cause : Nat) (tval : Word) (rest : List (Nat × Word))
  | skip
  | issue
deriving DecidableEq, Repr

/-- The use of a turn of slot `k`: a trap of items 1 to 3 of R330 in their order, an empty turn of `yield`, or an evaluation. DEDUCED, unsafe
(log entry 57). -/
def turnUse (s : State) (k : Nat) : TurnUse :=
  let x := slotAt s k
  if x.st = .stopped ∨ x.sws ∨ x.baton.isSome ∨ huStopped s then .empty
  else if s.modul.hu ≠ .idle ∧ !x.pf then .holdup
  else match x.cancel with
    | some id => .cancel id
    | none =>
      if takesEvent s k then
        match (coreAt s (coreOf k)).evq with
        | [] => .empty
        | (c, v) :: rest => .event c v rest
      else if x.st = .waiting then .empty
      else if followsLeader s k then if leaderAway s k ∧ 0 < x.skip then .skip else .empty
      else if gangSkips s k then .skip
      else .issue

/-- THR_ISSUED counts the turns in which the slot trapped (R202). -/
def Slot.countTrap (x : Slot) : Slot := x.setCreg 0x005 (x.creg 0x005 + 1#64)

/-- A cancel of an id is taken: the unit's thread knows of it (R319). -/
def Slot.tellCancel (id : Nat) (x : Slot) : Slot :=
  { x with cancel := none, unit := x.unit.map fun u => { u with told := Nat.lor u.told (u.levels id) } }

/-- A turn of slot `k` (R330). -/
def useTurn (s : State) (k : Nat) : State :=
  let pc := asyncPc (slotAt s k)
  match turnUse s k with
  | .empty => s
  | .holdup => trapEntry (modSlot s k fun y => { y.countTrap with pf := true }) k 0x70 (nw (s.modul.huT0 + 50000)) pc true
  | .cancel id => trapEntry (modSlot s k fun y => y.countTrap.tellCancel id) k 0x3A (nw id) pc false
  | .event c v rest =>
    trapEntry (modCore (modSlot s k Slot.countTrap) (coreOf k) fun y => { y with evq := rest }) k c v pc true
  | .skip => (k :: followers s k).foldl (fun s j => modSlot s j fun y => { y with skip := y.skip - 1 }) s
  | .issue => { s with cur := k, turn := true }

/-- The cluster cycle gives slot `k` its issue turn, the slot has not used it, and no event has closed the cycle's turns (R184, R282). -/
def holdsTurn (s : State) (k : Nat) : Bool :=
  let cyc := clusterCycle s (clusterOf (coreOf k))
  decide (cyc % 16 = slotNo k) && decide ((slotAt s k).lastTurn ≠ cyc + 1) && !coreRetired s (coreOf k) && decide (s.turnsTo ≤ s.time)

/-- A soft error of a register's parity (R185): g0 has none. -/
def Slot.hitPar (x : Slot) : Option Nat → Slot
  | some r => if 1 ≤ r ∧ r ≤ 31 then { x with par := bitSet x.par r } else x
  | none => x

/-- A slot's issue turn: once in each lap of the cluster cycle counter. A soft error may first break a register's parity (R185, R282,
R330). -/
def execSlotTurn (k : Nat) (par : Option Nat) (s : State) : Out :=
  if holdsTurn s k then
    .next (useTurn (modSlot s k fun x =>
      { x.hitPar par with lastTurn := clusterCycle s (clusterOf (coreOf k)) + 1 }) k)
  else .next s

/-- The time base reaches a deadline of `park` or `tsleep`, and the slot wakes (R284, R300). -/
def execTimebaseDeadline (k : Nat) (s : State) : Out :=
  match (slotAt s k).deadline with
  | none => .next s
  | some d => if d ≤ tickOf s then .next (wake s k) else .next s

/-! Debug halt (R345). -/

/-- Bits of CORE_DBG (R348). -/
def slotBits (s : State) (core : Nat) (f : Slot → Bool) : Nat :=
  ((rangeFrom 0 16).map fun n => if f (slotAt s (slotOf core n)) then 2 ^ n else 0).sum

/-- The target of a debug form: its core key, and the agent that acts for the core; none outside the package's cores. -/
def dbgTarget (s : State) (v : Word) : Option (Nat × Agent) :=
  if 159 < bitF v 32 8 ∨ 32 < bitF v 0 6 then none
  else
    let cl := clusterIn (bitF v 40 3) (bitF v 32 8)
    some (lcoreKey s cl (bitF v 0 6), .control (1 * 2 ^ 24 + (cl * 33 + bitF v 0 6)))

/-- The slots of a mask at a target core, the issuing slot `by_` never among them; mask 0 names all. -/
def dbgSlots (core mask by_ : Nat) : List Nat :=
  ((rangeFrom 0 16).filter fun n => (decide (mask = 0) || mask.testBit n) && decide (slotOf core n ≠ by_)).map (slotOf core)

/-- Stops one slot for the debugger where it is: a parked one keeps its issue (R345, R346). -/
def Slot.debugStop (x : Slot) : Slot := if x.sws then x else { x with st := .stopped, dbgs := true }

/-- A stopped slot evaluates the instruction at its PC again, unless a switch holds it too (R345). -/
def Slot.resume (x : Slot) : Slot :=
  { x with dbgs := false, brks := false, hlts := false, st := if x.sws then .stopped else .ready }

/-- The frame of the two forms: the target core's debug unit performs them. -/
def debugForm (d a b : GReg) (t : Bool) (f : UnitForm) (s : State) : State :=
  withOps s [a, b] (some d) false fun s vs =>
    match dbgTarget s (val vs 0) with
    | none => .trap 0x10 (val vs 0)
    | some (_, agent) => askUnit s agent f vs fun s v => .done (modSlot s s.cur fun x => (x.takeIf t a.toNat).writeDst d.toNat v)

/-- Stops slots of a core (R345). -/
def execDbghalt (d a b : GReg) (t : Bool) (s : State) : Out := .next (debugForm d a b t .dbghalt s)

/-- Resumes stopped slots of a core (R345). -/
def execDbgresume (d a b : GReg) (t : Bool) (s : State) : Out := .next (debugForm d a b t .dbgresume s)

/-- A debug form at its core: every slot that it stops has stopped when it answers (R345). -/
def debugPerform (s : State) (m : Msg) (f : UnitForm) (vs : List Word) : State :=
  match dbgTarget s (val vs 0) with
  | none => s
  | some (core, _) =>
    let all := dbgSlots core (bitF (val vs 1) 0 16) m.who
    match f with
    | .dbghalt => answerUnit (all.foldl (fun s k => modSlot s k Slot.debugStop) s) m (slotBits s core Slot.dbgs)
    | _ =>
      let ks := all.filter fun k => (slotAt s k).dbgs || (slotAt s k).brks || (slotAt s k).hlts
      answerUnit (ks.foldl (fun s k => modSlot s k Slot.resume) s) m (ks.map fun k => 2 ^ slotNo k).sum

/-! The context of a stopped slot (R347). -/

/-- Dword `i` of a stopped slot's context; 0 while the slot is not stopped. -/
def dbgRead (s : State) (core : Nat) : Word :=
  let sel := (coreAt s core).creg 0x1C3
  let k := slotOf core (bitF sel 0 4)
  let i := bitF sel 4 6
  if (slotAt s k).st = .stopped ∧ i ≤ 51 then dwordAt (ctxBytes s k (slotAt s k).pc) i else 0#64

/-- A slot's class becomes that of a context (R151, R308). -/
def setClass (s : State) (k cls : Nat) : State :=
  modCore s (coreOf k) fun c => c.setCreg 0x181 (setF (c.creg 0x181) (2 * slotNo k) 2 cls)

/-- Writes a dword of a stopped slot's context: what the slot resumes with (R347). A new PC ends the issue that the slot had parked. -/
def dbgWrite (s : State) (core : Nat) (v : Word) : State :=
  let sel := (coreAt s core).creg 0x1C3
  let k := slotOf core (bitF sel 0 4)
  let i := bitF sel 4 6
  let x := slotAt s k
  if x.st = .stopped ∧ i ≤ 51 then
    let bs := ctxBytes s k x.pc
    let new := bs.take (8 * i) ++ wordLE 8 v ++ bs.drop (8 * i + 8)
    let y := { x.loadCtx new with pend := x.pend, par := x.par }
    setClass (setSlot s k (if i = 0 then y.dropIssue else y)) k (ctxClass new)
  else s

end Sys2Proof.Machine
end

