-- ==== Sys2Proof/Machine/Snap.lean ====
section
/-! DEFINITION. Snapshot forms and shared-cache maintenance: `snap`, `accept`, `reject`, `snapq`, `scwb`, `scinv`, `scdom`, and the events of
the shared cache (R74 to R93). -/

namespace Sys2Proof.Machine

/-! snap, accept, reject (R86, R90). -/

/-- The release of step 1: the slot's stores and loads are performed (R86). -/
def storesAndLoadsOut (s : State) (k : Nat) : Bool := !journalEmpty s k || loadsOut s k 4

/-- The anchor's agent of a range (R86). -/
def anchorOf (n : Nat) : Agent := .tower (n / 2)

/-- Issues an operation on a range: a release, a request to the anchor, and the wait for every tower's record; a check that fails traps after
the release (R86, R90).
DEDUCED, unsafe (log entry 42). -/
def snapIssue (op : SnapOp) (d a : GReg) (t : Bool) (s : State) : State :=
  withOps s [a] (some d) false fun s vs =>
    let v := val vs 0
    let n := v.toNat
    if (slotAt s s.cur).trip.isNone ∧ storesAndLoadsOut s s.cur then .park s
    else if 15 < n then .trap 0x1D v
    else askTrip s 1
      (fun id s => niPost s (coreOf s.cur)
        ⟨.ni (coreOf s.cur), anchorOf n, id, s.cur, (slotAt s s.cur).phase, .snapOp op n (isUser s) (myAsid s) false⟩)
      fun s ws => .done (modSlot s s.cur fun x => (x.takeIf t a.toNat).writeDst d.toNat (val ws 0))

/-- Records a new snapshot level (R90). -/
def execSnap (d a : GReg) (t : Bool) (s : State) : Out := .next (snapIssue .snap d a t s)
/-- Drops the top snapshot level and keeps current values (R90). -/
def execAccept (d a : GReg) (t : Bool) (s : State) : Out := .next (snapIssue .accept d a t s)
/-- Returns to the top snapshot level and drops it (R90). -/
def execReject (d a : GReg) (t : Bool) (s : State) : Out := .next (snapIssue .reject d a t s)

/-- The anchor's checks of R90: the cause of the first that fails. -/
def snapBad (w : Tower) (n : Nat) (user : Bool) (asid : Nat) : Bool :=
  let c := w.creg (0x360 + n)
  !bitB c 31 || (user && decide (bitF c 0 12 ≠ asid))

/-- The anchor checks, records and forwards an operation; another tower records it (R86, R90). A record that meets a write performed in its
cycle comes before it, so the event waits for a cycle without one (R87). -/
def execSnapRecord (i : Nat) (s : State) : Out :=
  match arrives s i with
  | none => .next s
  | some m =>
    match m.body, m.dst with
    | .snapOp op n user asid fwd, .tower t =>
      let s0 := dropMsg s i
      let w := towerAt s0 t
      if w.wrote = s.time + 1 then .next s
      else if fwd then .next (answerTrip (if bitB (w.creg (0x360 + n)) 31 then recordOp s0 t n op else s0) m.who m.tag [] none)
      else if snapBad w n user asid then .next (answerTrip s0 m.who m.tag [] (some (0x1D, nw n)))
      else if (op = .snap ∧ rangeLevel w n = 4) ∨ (op ≠ .snap ∧ rangeLevel w n = 0) then
        .next (answerTrip s0 m.who m.tag [] (some (0x1C, nw n)))
      else
        let s1 := recordOp s0 t n op
        let s2 := modSlot s1 m.who fun x => { x with trip := x.trip.map fun r => if r.id = m.tag then { r with need := 8 } else r }
        let s3 := ((rangeFrom 0 8).filter fun u => decide (u ≠ t)).foldl
          (fun s u => sendMsg s ⟨.tower t, .tower u, m.tag, m.who, m.ph, .snapOp op n user asid true⟩) s2
        .next (answerTrip s3 m.who m.tag [nw (rangeLevel (towerAt s1 t) n)] none)
    | _, _ => .next s

/-- Queries a range (R91). -/
def execSnapq (d a : GReg) (t : Bool) (s : State) : Out :=
  .next (withOps s [a] (some d) false fun s vs =>
    let v := val vs 0
    let n := v.toNat
    if 15 < n then .trap 0x1D v
    else askTrip s 1
      (fun id s => niPost s (coreOf s.cur) ⟨.ni (coreOf s.cur), anchorOf n, id, s.cur, (slotAt s s.cur).phase, .snapQuery n (isUser s) (myAsid s)⟩)
      fun s ws => .done (modSlot s s.cur fun x => (x.takeIf t a.toNat).writeDst d.toNat (val ws 0)))

/-- The anchor answers a query (R91). -/
def execSnapqQuery (i : Nat) (s : State) : Out :=
  match arrives s i with
  | none => .next s
  | some m =>
    match m.body, m.dst with
    | .snapQuery n user asid, .tower t =>
      let s0 := dropMsg s i
      let w := towerAt s0 t
      if snapBad w n user asid then .next (answerTrip s0 m.who m.tag [] (some (0x1D, nw n)))
      else
        let shadows := ((rangeFrom 0 8).map fun u => ((towerAt s0 u).shadows.filter fun h => decide (h.rng = n)).length).sum
        let pend := (rangeFrom 0 8).any fun u => rangePend (towerAt s0 u) n
        .next (answerTrip s0 m.who m.tag [nw (shadows % 2 ^ 32 * 2 ^ 16 + pend.toNat * 2 ^ 4 + 2 ^ 3 + rangeLevel w n)] none)
    | _, _ => .next s

/-- The background sweep resolves a line, unless RATE is 0 (R86, R94). -/
def execSnapSweep (line : Nat) (s : State) : Out :=
  let t := lineTower line
  let w := towerAt s t
  if bitF (w.creg 0x373) 0 16 = 0 ∨ !w.pend.any (fun o => o.lines.contains line) then .next s
  else .next (resolveLine s t line)

/-! Maintenance (R92, R93). -/

/-- The lines of a span, as first line and count; none when the span or the length is bad (R54, R92). -/
def spanOf (s : State) (a b : Word) : Option (Nat × Nat) :=
  let line := localPa s (64 * bitF a 6 50) / 64
  let n := Nat.max 1 ((bitF b 0 40 + 63) / 64)
  let hi := 64 * (line + n - 1)
  if bitF b 40 23 ≠ 0 ∨ !populated (64 * line) ∨ !populated hi ∨ (64 * line < 0x9000000000 ∧ 0x9000000000 ≤ hi) then none
  else some (line, n)

/-- The eight towers are asked, and each answers (R92, R93). -/
def askTowers (s : State) (b : Body) (ended : State → List Word → Res) : Res :=
  askTrip s 8 (fun id s => (rangeFrom 0 8).foldl (fun s u =>
    niPost s (coreOf s.cur) ⟨.ni (coreOf s.cur), .tower u, id, s.cur, (slotAt s s.cur).phase, b⟩) s) ended

/-- The frame of `scwb` and `scinv`. -/
def spanForm (inv : Bool) (d a b : GReg) (t : Bool) (s : State) : State :=
  withOps s [a, b] (some d) false fun s vs =>
    let give (v : Nat) (s : State) : Res := .done (modSlot s s.cur fun x => (x.takeIf t a.toNat).writeDst d.toNat (nw v))
    match spanOf s (val vs 0) (val vs 1) with
    | none => give 1 s
    | some (line, n) => askTowers s (.spanWalk inv (inv && bitB (val vs 1) 63) line n) fun s _ => give 0 s

/-- Writes back the dirty lines of a span (R92). -/
def execScwb (d a b : GReg) (t : Bool) (s : State) : Out := .next (spanForm false d a b t s)
/-- Invalidates the lines of a span, with or without writeback (R92). -/
def execScinv (d a b : GReg) (t : Bool) (s : State) : Out := .next (spanForm true d a b t s)

/-- Lines of a range above level 0 in a tower. -/
def held (s : State) (w : Tower) (line : Nat) : Bool := match rangeAt s w (64 * line) with
  | some n => decide (0 < rangeLevel w n)
  | none => false

/-- A tower's SC walks the lines of a span that it homes; what is pending on them is resolved first (R86, R92). -/
def walkSpan (s : State) (t : Nat) (inv noWb : Bool) (line n : Nat) : State :=
  let inSpan (l : Nat) : Bool := decide (line ≤ l) && decide (l < line + n)
  let s1 := (((towerAt s t).pend.flatMap PendOp.lines).filter inSpan).foldl (fun s l => resolveLine s t l) s
  (((towerAt s1 t).tags.map Prod.fst).filter inSpan).foldl (fun s l =>
    if !inv then writeBack s l
    else if noWb ∧ !held s (towerAt s t) l then dropLine s l
    else evictLine s l) s1

/-- A line of a span would be written back to a bank that a repair holds (R92, R366). -/
def spanHeld (s : State) (t line n : Nat) : Bool :=
  (towerAt s t).tags.any fun e => decide (line ≤ e.1) && decide (e.1 < line + n) && evictHeld s e.1

/-- A tower's SC walks a span and answers (R92); a write-back to a bank under repair holds the walk (R366). -/
def execScSpanWalk (i : Nat) (s : State) : Out :=
  match arrives s i with
  | none => .next s
  | some m =>
    match m.body, m.dst with
    | .spanWalk inv noWb line n, .tower t =>
      if spanHeld s t line n then .next s else .next (answerTrip (walkSpan (dropMsg s i) t inv noWb line n) m.who m.tag [] none)
    | _, _ => .next s

/-- Reads or writes an ASID's domain entry in every tower (R93). DEDUCED, unsafe (log entry 43). -/
def execScdom (d a b : GReg) (t : Bool) (s : State) : Out :=
  .next (withOps s [a, b] (some d) false fun s vs =>
    let v := val vs 1
    let give (w : Word) (s : State) : Res := .done (modSlot s s.cur fun x => (x.takeIf t a.toNat).writeDst d.toNat w)
    if !bitB v 63 ∧ bitF v 0 8 = 255 then give 0xFFFFFFFFFFFFFFFF#64 s
    else askTowers s (.domUpdate (bitF (val vs 0) 0 12) (if bitB v 63 then none else some (bitF v 0 9))) fun s ws => give (val ws 0) s)

/-- A tower reads or writes a domain entry and answers with the entry before it (R93). -/
def execScdomUpdate (i : Nat) (s : State) : Out :=
  match arrives s i with
  | none => .next s
  | some m =>
    match m.body, m.dst with
    | .domUpdate asid e, .tower t =>
      let s0 := dropMsg s i
      let old := SMap.get (fun _ => 0) (towerAt s0 t).doms asid
      let s1 := match e with
        | none => s0
        | some v => modTower s0 t fun w => { w with doms := SMap.set (fun _ => 0) w.doms asid v }
      .next (answerTrip s1 m.who m.tag [nw old] none)
    | _, _ => .next s

/-! Fills and evictions (R74 to R78, R83). -/

/-- A line that an access waits for comes from memory, in the place of a victim: line `v / 2`'s live tag, or its shadows when `v` is odd
(R74, R77, R78, R83). DESIGN CHOICE, safe (log entry 52). -/
def execScFillComplete (line : Nat) (victim : Option Nat) (s : State) : Out :=
  match (if bankHeld s line then none else SMap.get (fun _ => none) (towerAt s (lineTower line)).fills line) with
  | none => .next s
  | some acc =>
    let s1 := match victim with
      | none => s
      | some v =>
        if v / 2 = line ∨ lineTower (v / 2) ≠ lineTower line then s
        else if v % 2 = 0 then (if evictHeld s (v / 2) then s else evictLine s (v / 2)) else spillShadows s (v / 2)
    .next (fillLine (makeRoom s1 line) line acc)

end Sys2Proof.Machine
end

