-- ==== Sys2Proof/Machine/Quarters.lean ====
section
/-! DEFINITION. Switching LM quarters: `lmpwr` and the event that a quarter is ready (R139). -/

namespace Sys2Proof.Machine

/-- CORE_LMPWR.ON: the quarters that are on and ready, retired ones reading 0 (R139, R155). -/
def lmOnMask (s : State) (core : Nat) : Nat :=
  ((rangeFrom 0 4).map fun q => if (coreAt s core).lmOn.getLsbD q && !quarterRetired s core q then 2 ^ q else 0).sum

/-- Sets one quarter's bits. -/
def setOn (c : Core) (q : Nat) (b : Bool) : Core :=
  { c with lmOn := if b then c.lmOn ||| (1#4 <<< q) else c.lmOn &&& ~~~(1#4 <<< q), lmDue := SMap.set (fun _ => 0) c.lmDue q 0 }

/-- A quarter closes: its waiters are answered with poison of a cause, its arms dropped, its sharers invalidated (R139, R370). -/
def closeQuarter (s : State) (core q cause : Nat) : State :=
  let c := coreAt s core
  let gone := c.waiters.filter fun w => inQuarter q w.off
  let s1 := setCore s core { setOn c q false with waiters := c.waiters.filter fun w => !inQuarter q w.off }
  let s2 := gone.foldl (fun s w => match w.req with
    | none => s
    | some m => match m.body with
      | .syncReq _ pa _ _ => sendMsg s (replyTo m (.syncReply (.poison cause pa)))
      | _ => s) s1
  servePwr (((c.dir.map Prod.fst).filter fun l => inQuarter q (64 * l)).foldl (fun s l => dirWrite s core (64 * l) none) s2) core

/-- A quarter is asked to switch on: it becomes ready within 4,096 CCLK (R139). -/
def quarterOn (s : State) (core q : Nat) : State :=
  let c := coreAt s core
  if c.lmOn.getLsbD q ∨ lmDueAt c q ≠ 0 then s
  else setCore s core { c with lmDue := SMap.set (fun _ => 0) c.lmDue q (s.time + 4096) }

/-- A new mask at the target's LM controller (R139). -/
def switchQuarters (s : State) (core mask : Nat) : State :=
  (rangeFrom 0 4).foldl (fun s q =>
    let c := coreAt s core
    if quarterRetired s core q then s
    else if mask.testBit q then quarterOn s core q
    else if c.lmOn.getLsbD q ∨ lmDueAt c q ≠ 0 then closeQuarter s core q 0x16
    else s) s

/-- Switches a core's LM quarters, and parks until every one of them is off or ready (R139). -/
def execLmpwr (d a b : GReg) (t : Bool) (s : State) : Out :=
  .next (withOps s [a, b] (some d) false fun s vs =>
    match (if bitF (val vs 0) 56 8 = 0 then placeOf s (val vs 0).toNat else .hole) with
    | .lm cl lc _ => askUnit s (.ni (lcoreKey s cl lc)) .lmpwr vs fun s v =>
        .done (modSlot s s.cur fun x => (x.takeIf t a.toNat).writeDst d.toNat v)
    | _ => .trap 0x10 (val vs 0))

/-- A power request at its LM controller, which answers when it has finished with the mask that was in force (R139). -/
def pwrPerform (s : State) (m : Msg) (core : Nat) (vs : List Word) : State :=
  let mask := bitF (val vs 1) 0 4
  let old := lmOnMask s core
  servePwr (modCore (switchQuarters s core mask) core fun c => { c with pwr := c.pwr ++ [(m, mask, old)] }) core

/-- The bytes of a range read zero again, with their full bits set and no errors. -/
def zeroRange (s : State) (lo hi : Nat) : State :=
  let out (k : Nat) : Bool := decide (k < lo) || decide (hi ≤ k)
  { s with mem := s.mem.filter fun e => out e.1, fe := s.fe.filter fun e => out (8 * e.1), bad := s.bad.filter fun e => out e.1,
           flips := s.flips.filter fun e => out e.1 }

/-- A quarter that was switched on becomes ready: zero, full, and without directory entries (R139). DESIGN CHOICE, safe (log entry 54). -/
def execLmQuarterReady (core : Nat) (q : Nat) (s : State) : Out :=
  if lmDueAt (coreAt s core) q = 0 ∨ 3 < q then .next s
  else
    let lo := lmKey core (131072 * q)
    let s1 := zeroRange s lo (lo + 131072)
    let s2 := (coreAt s1 core).dir.foldl (fun s e => match e.2 with
      | some d => if inQuarter q (64 * e.1) then d.held.foldl sendMsg s else s
      | none => s) s1
    .next (servePwr (modCore s2 core fun c => { setOn c q true with dir := c.dir.filter fun e => !inQuarter q (64 * e.1) }) core)

end Sys2Proof.Machine
end

