-- ==== Sys2Proof/Machine/Links.lean ====
section
/-! DEFINITION. Akvor links: what leaves the package and what arrives, code levels and lanes, link down, repair switches and claims, and the LNK
forms (R377 to R387). -/

namespace Sys2Proof.Machine

/-! Ports. -/

def portAt (s : State) (p : Nat) : Port := SMap.get (fun _ => Port.reset) s.modul.ports p
def setPort (s : State) (p : Nat) (x : Port) : State :=
  modModul s fun m => { m with ports := SMap.set (fun _ => Port.reset) m.ports p x }
def modPort (s : State) (p : Nat) (f : Port → Port) : State := setPort s p (f (portAt s p))

/-- MOD_LNK_CFGp and its fields (R387). -/
def linkCfg (s : State) (p : Nat) : Word := s.modul.creg (0x480 + p)
def cfgEn (w : Word) : Bool := bitB w 0
def cfgSplen (w : Word) : Bool := bitB w 3
def cfgAutofo (w : Word) : Bool := bitB w 4
def cfgPlvl (w : Word) : Nat := bitF w 5 2
def cfgPin (w : Word) : Bool := bitB w 7
def cfgMin (w : Word) : Nat := bitF w 8 2

/-- MOD_LNK_STATp (R387): REPLAY stands in the register, the other fields in the port. -/
def linkStat (s : State) (p : Nat) : Word :=
  let x := portAt s p
  setF (nw (x.peer % 256 * 2 ^ 24 + x.flane % 16 * 2 ^ 16 + x.swpos % 2 * 2 ^ 12 + x.level % 4 * 2 ^ 8 + x.state % 16)) 32 32
    (bitF (s.modul.creg (0x490 + p)) 32 32)

/-- MOD_LNK_CLAIMp (R387). -/
def linkClaim (s : State) (p : Nat) : Word := nw ((portAt s p).owner % 4 * 2 ^ 8 + (portAt s p).tag % 256)

/-- Raises 0x60 at the pager core of cluster 0 of the port's tower, and host event 1 (R382, R385, R392). -/
def raiseLink (s : State) (p reason : Nat) : State :=
  hostEvent (raiseEvent s (lcoreKey s (clusterIn (p / 2) 0) 32) 0x60 (nw (p % 16 + reason * 2 ^ 8))) 1

/-- The hold-up sequence has taken the lasers and combs off the links (R356). -/
def linksDark (s : State) : Bool := decide (s.modul.hu ≠ .idle)

/-! Frames (R378, R379). -/

/-- The fields of a frame header. -/
def hdrValid (h : Word) : Nat := bitF h 28 8
def hdrType (h : Word) : Nat := bitF h 24 4
def hdrAck (h : Word) : Nat := bitF h 12 12
def hdrSeq (h : Word) : Nat := bitF h 0 12

/-- The operands of a control frame, the first 8 bytes of its flit slot 0: CHG's level, lane and S, CACK's S, and NAK's number. -/
def chgWord (level lane at_ : Nat) : Nat := level % 4 + lane % 16 * 2 ^ 4 + at_ % 4096 * 2 ^ 16
def seqWord (at_ : Nat) : Nat := at_ % 4096 * 2 ^ 16

/-- The bytes of a frame at a code level, and the bytes that the code corrects in each of its two interleaved codewords (R379). -/
def frameBytes (level : Nat) : Nat := if level = 0 then 268 else if level = 1 then 276 else if level = 2 then 284 else 300
def codeFixes (level : Nat) : Nat := if level = 0 then 0 else if level = 1 then 2 else if level = 2 then 4 else 8

/-- A frame whose bytes `bad` were received wrong passes its CRC after correction. What the code does not correct, the CRC-32C finds.
DESIGN CHOICE, unsafe (log entry 61). -/
def frameGood (level : Nat) (bad : List Nat) : Bool :=
  let ks := bad.eraseDups.filter fun k => decide (k < frameBytes level)
  decide ((ks.filter fun k => decide (k % 2 = 0)).length ≤ codeFixes level) &&
    decide ((ks.filter fun k => decide (k % 2 = 1)).length ≤ codeFixes level)

/-- The lane position that carries byte `k` of a frame: k mod 8, or the spare when it has taken that position over (R378, R381). -/
def byteLane (flane k : Nat) : Nat := if k % 8 = flane then 8 else k % 8

/-- Sequence number `a` is `b` or stands behind it (R378). -/
def seqReached (a b : Nat) : Bool := decide ((a + 4096 - b % 4096) % 4096 < 2048)

/-- A control frame leaves the port. -/
def sendCtl (s : State) (p ty v : Nat) : State := modPort s p fun x => { x with ctl := x.ctl ++ [(ty, v)] }

/-- Ends a waiting `lnkfec` (R386). -/
def answerFec (s : State) (p v : Nat) : State :=
  match (portAt s p).fec with
  | none => s
  | some m => answerUnit (modPort s p fun x => { x with fec := none }) m v

/-- Ends a waiting `lnkclaim` (R386). -/
def answerClaim (s : State) (p v : Nat) : State :=
  match (portAt s p).claim with
  | none => s
  | some m => answerUnit (modPort s p fun x => { x with claim := none }) m v

/-- A port changes its level, and its lanes for a takeover, which sets advisory bit 4 (R375, R380, R381). -/
def switchLevel (s : State) (p level lane : Nat) : State :=
  let s1 := answerFec (modPort s p fun x => { x with
    level := level % 4, flane := if lane = 15 then x.flane else lane, prop := none, agreed := none, low := 0,
    takeover := if lane = 15 then x.takeover else none }) p 0
  if lane = 15 then s1 else advise s1 4 (p / 2) 0

/-- The agreed change of a port takes effect at the boundary of frame S: of the peer's frames, or of its own (R380). -/
def crossFrame (s : State) (p : Nat) : State :=
  match (portAt s p).agreed with
  | none => s
  | some (peer, level, lane, at_) =>
    if seqReached (if peer then (portAt s p).seqRx else (portAt s p).seqTx) at_ then switchLevel s p level lane else s

/-! Leaving the package (R378, R382, R384). -/

/-- The port that a message is bound for, 16 for no route. -/
def outPort (m : Msg) : Option Nat := match m.dst with
  | .link p => some p
  | _ => none

/-- The message is an active message. -/
def isActive : Body → Bool
  | .activeMsg _ _ _ _ _ _ => true
  | _ => false

/-- The message came from another package. -/
def foreign (m : Msg) : Bool := match m.src with
  | .link _ => true
  | _ => false

/-- A request that ends unanswered, as its requester sees it (R382, R384). -/
def endLost (cause reason : Nat) (s : State) (m : Msg) : State :=
  match m.body with
  | .activeMsg type plen off _ _ _ => sendMsg s (replyTo m (.amRefusal cause type plen off (amNode s m)))
  | _ => match lostAnswer s cause reason m with
    | some b => if m.body.response then s else sendMsg s (replyTo m b)
    | none => s

/-- The package to which a message leaves: of the address or the node that a request names, or of the requester that it answers. -/
def destPkg (s : State) (m : Msg) : Nat :=
  if isActive m.body then amNode s m / 2 ^ 17 % 256
  else match reqPa m.body with
    | some pa => pa / 2 ^ 44 % 256
    | none => m.who / 2 ^ 32 % 256

/-- A message enters the frames of a port that is up: it stays in the replay buffer until the peer acknowledges its last frame. How messages share
frames is left open (R378). DESIGN CHOICE, safe (log entry 17). -/
def transmit (p : Nat) (s : State) (l : LinkMsg) : State :=
  let (n, s1) := takeFree s
  let last := (portAt s p).seqTx + Config.freeNat n % 3
  crossFrame (modPort s1 p fun x => { x with seqTx := (last + 1) % 4096, buf := x.buf ++ [(last % 4096, l)] }) p

/-- The replay buffer of 512 frames has room for one more message (R381). -/
def Port.room (x : Port) : Bool := match x.buf with
  | [] => true
  | b :: _ => decide ((x.seqTx + 4096 - b.1) % 4096 < 509)

/-- A message reaches its port: it leaves, or is refused at once (R382, R384). -/
def linkOut (s : State) (m : Msg) : State :=
  match outPort m with
  | none => s
  | some p =>
    if 15 < p then endLost 0x61 8 s m
    else if (portAt s p).state = 2 then
      let s1 := transmit p s ⟨destPkg s m, ownPkg s, 0, m⟩
      if m.body.response || isActive m.body then s1 else modPort s1 p fun x => { x with sent := x.sent ++ [m] }
    else endLost 0x60 10 s m

/-- A message is at its port, and the port is down, or up with room in its replay buffer; while it trains or switches, the message waits. -/
def mayLeave (s : State) (m : Msg) : Bool :=
  match outPort m with
  | none => false
  | some p => !hopBlocked s m &&
      (decide (15 < p) || decide ((portAt s p).state = 0) || (decide ((portAt s p).state = 2) && (portAt s p).room))

/-- What has left through a port and is not answered ends; an active message or a forwarded one counts until the peer has acknowledged it (R382).
DEDUCED, unsafe (log entry 58). -/
def endSent (s : State) (p : Nat) : State :=
  let x := portAt s p
  let ls := (x.buf.map Prod.snd ++ x.fwd).map LinkMsg.msg
  let own := ls.filter fun m => isActive m.body && !foreign m
  let s1 := modPort s p fun x => { x with sent := [], buf := [], fwd := [], ended := x.ended ++ own }
  (ls.filter foreign).foldl (endLost 0x61 8) ((x.sent ++ own).foldl (endLost 0x60 10) s1)

/-- The switch is thrown to a position; when it has settled, the port trains (R385, R386). DEDUCED, unsafe (log entry 60). -/
def throwSwitch (s : State) (p pos : Nat) : State :=
  let s1 := modPort s p fun x => { x with
    state := 3, swpos := pos, prop := none, agreed := none, takeover := none, failover := false }
  endSent (answerFec s1 p 2) p

/-- A claim is decided when its cycle is over, so that one of the hardware in the same cycle wins (R385, R386). -/
def settleBid (s : State) (p : Nat) : State :=
  match (portAt s p).bid with
  | none => s
  | some (m, tag) =>
    if s.time < (portAt s p).bidAt then s
    else
      let s1 := modPort s p fun x => { x with bid := none }
      if (portAt s p).owner ≠ 0 then answerUnit s1 m 1
      else modPort (throwSwitch (answerClaim s1 p 3) p 1) p fun x => { x with owner := 2, tag := tag, claim := some m }

/-- What a port does without an event: claims are decided, and forwarded messages leave or are refused (R382, R384). -/
def portFlow (s : State) (p : Nat) : State :=
  let s := settleBid s p
  let x := portAt s p
  if x.fwd = [] ∨ (x.state ≠ 0 ∧ (x.state ≠ 2 ∨ !x.room)) then s
  else
    let s1 := modPort s p fun x => { x with fwd := [] }
    if x.state = 2 then x.fwd.foldl (transmit p) s1 else (x.fwd.map LinkMsg.msg).foldl (endLost 0x61 8) s1

/-- What has reached the ports leaves the package, in the order in which it was accepted (R121, R378). -/
def linkFlow (s : State) : State :=
  let s := (s.modul.ports.map Prod.fst).foldl portFlow s
  match s.net.filter (mayLeave s) with
  | [] => s
  | out => out.foldl (fun s m => linkOut (touchPhase s m.ph) m) { s with net := s.net.filter fun m => !mayLeave s m }

/-! Link down (R382), failover and the switch (R385). -/

/-- A failover may begin (R385). -/
def failoverOk (s : State) (p : Nat) : Bool :=
  let x := portAt s p
  cfgAutofo (linkCfg s p) && cfgEn (linkCfg s p) && decide (x.swpos = 0) && decide (x.owner = 0) && !linksDark s

/-- Hardware claims the port, throws its switch to the spare neighbour and trains (R385). -/
def failover (s : State) (p : Nat) : State :=
  if failoverOk s p then raiseLink (modPort s p fun x => { x with owner := 1, state := 3, swpos := 1, failover := true }) p 5 else s

/-- A link goes down, in one step (R382); then a failover may begin (R385). -/
def takeDown (s : State) (p reason : Nat) : State :=
  let s1 := raiseLink (modPort s p fun x => { x with state := 0, prop := none, agreed := none, takeover := none }) p reason
  failover (answerFec (endSent s1 p) p 2) p

/-- A link fails (R381, R382). -/
def execLinkDown (port : Nat) (reason : Nat) (s : State) : Out :=
  if 15 < port ∨ reason < 1 ∨ 3 < reason ∨ (portAt s port).state ≠ 2 then .next s else .next (takeDown s port reason)

/-- Training of a port has failed: it stays down (R385). A failover whose training fails ends; another training that fails raises reason 4, answers a
waiting claim with 3, and may begin a failover (R382, R385, R386). -/
def trainingFails (s : State) (p : Nat) : State :=
  let s1 := modPort s p fun x => { x with state := 0, failover := false }
  if (portAt s p).failover then raiseLink s1 p 7 else failover (answerClaim (raiseLink s1 p 4) p 3) p

/-- Training of a port has succeeded: it comes up with the pinned or the least level, and with the lane map that its register holds (R377, R379,
R387). -/
def trainingEnds (s : State) (p peer : Nat) : State :=
  let cfg := linkCfg s p
  let s1 := modPort s p fun x => { x with
    state := 2, level := if cfgPin cfg then cfgPlvl cfg else cfgMin cfg, flane := 15, peer := peer % 256, seqTx := 0, seqRx := 0,
    lmap := s.modul.creg 0x4B3, prop := none, agreed := none, takeover := none, nak := 4096, fails := 0, low := 0, failover := false, ctl := [] }
  answerClaim (if (portAt s p).failover then raiseLink s1 p 6 else s1) p 0

/-- The next part of bringing a port up: a port that is down, or whose switch has settled, begins to train; or training ends (R385). A port that is
disabled stays down (R387), and so does every port in a hold-up (R356). DEDUCED, unsafe (log entry 59). -/
def execLinkTrainingDone (port : Nat) (ok : Bool) (peer : Nat) (s : State) : Out :=
  let x := portAt s port
  if 15 < port ∨ x.state = 2 ∨ !cfgEn (linkCfg s port) ∨ linksDark s then .next s
  else if x.state ≠ 1 then .next (modPort s port fun x => { x with state := 1 })
  else .next (if ok then trainingEnds s port peer else trainingFails s port)

/-! Code levels and lanes (R379 to R381). -/

/-- A port proposes a level and a lane takeover, 15 for none, unless a change is already under way (R380). -/
def propose (s : State) (p level lane : Nat) : State :=
  let x := portAt s p
  if x.prop.isSome ∨ x.agreed.isSome then s
  else
    let at_ := (x.seqTx + 64) % 4096
    sendCtl (modPort s p fun x => { x with prop := some (level, lane, at_, tickOf s) }) p 1 (chgWord level lane at_)

/-- A write to MOD_LNK_CFGp: EN written 0 takes the link down with reason 8 and holds it down; a level that is pinned is proposed (R379, R387). -/
def linkCfgWrite (s : State) (p : Nat) (v : Word) : State :=
  let s1 := modModul s fun m => m.setCreg (0x480 + p) (regMerge (0x480 + p) (m.creg (0x480 + p)) v)
  if cfgEn (linkCfg s p) ∧ !cfgEn v ∧ (portAt s p).state ≠ 0 then takeDown s1 p 8
  else if (portAt s p).state = 2 ∧ cfgPin v ∧ cfgPlvl v ≠ (portAt s p).level then propose s1 p (cfgPlvl v) 15
  else s1

/-- A CHG arrives (R380): acknowledged, or merged with the port's own proposal. A pinned level is changed by no peer (R379).
DEDUCED, unsafe (log entry 102). -/
def execLinkChg (port : Nat) (level : Nat) (lane : Nat) (at_ : Nat) (s : State) : Out :=
  let x := portAt s port
  let agree (s : State) (lane : Nat) : State :=
    crossFrame (sendCtl (modPort s port fun x => { x with agreed := some (true, level % 4, lane, at_ % 4096) }) port 2 (seqWord at_)) port
  if 15 < port ∨ x.state ≠ 2 ∨ (cfgPin (linkCfg s port) ∧ level % 4 ≠ x.level) then .next s
  else match x.prop with
    | none => .next (agree s lane)
    | some (l, a, n, t) =>
      let a' := if a = 15 then lane else a
      if l < level % 4 then .next (agree (modPort s port fun x => { x with prop := some (level % 4, a', at_ % 4096, t) }) a')
      else
        let s1 := modPort s port fun x => { x with prop := some (l, a', n, t) }
        .next (if l = level % 4 then sendCtl s1 port 2 (seqWord at_) else s1)

/-- A CACK arrives: the port switches at frame S (R380). -/
def execLinkCack (port : Nat) (at_ : Nat) (s : State) : Out :=
  let x := portAt s port
  match x.prop with
  | none => .next s
  | some (l, a, n, _) =>
    if 15 < port ∨ x.state ≠ 2 ∨ n ≠ at_ % 4096 then .next s
    else .next (crossFrame (modPort s port fun x => { x with prop := none, agreed := some (false, l, a, n) }) port)

/-- The ticks that 4,096 frames take at a level: 8 lanes carry 896 bits a tick (R377, R379). -/
def ackTicks (level : Nat) : Nat := 4096 * frameBytes level * 8 / 896

/-- No CACK came within 4,096 frames: no change (R380). A takeover is proposed again after the next window. -/
def execLinkChgTimeout (port : Nat) (s : State) : Out :=
  let x := portAt s port
  match x.prop with
  | none => .next s
  | some (_, a, _, t) =>
    if 15 < port ∨ tickOf s < t + ackTicks x.level then .next s
    else .next (answerFec (modPort s port fun x => { x with
      prop := none, agreed := none, takeover := if a = 15 then x.takeover else some a }) port 2)

/-- A lane fails: the spare takes it over, or, with the spare in use, the link goes down (R381). -/
def laneFails (s : State) (p lane : Nat) (lost : Bool) : State :=
  let x := portAt s p
  if x.state ≠ 2 then s
  else if x.flane ≠ 15 then (if lane = x.flane then s else takeDown s p 3)
  else if 7 < lane then s
  else if !cfgSplen (linkCfg s p) then (if lost then takeDown s p 2 else s)
  else match x.prop with
    | none => if x.agreed.isSome then modPort s p fun x => { x with takeover := some lane } else propose s p x.level lane
    | some (l, a, n, t) =>
      if a = 15 then sendCtl (modPort s p fun x => { x with prop := some (l, lane, n, t) }) p 1 (chgWord l lane n)
      else if a = lane then s else takeDown s p 3

/-- A lane loses lock (R381). -/
def execLaneLossOfLock (port : Nat) (lane : Nat) (s : State) : Out :=
  if 15 < port ∨ 8 < lane ∨ (portAt s port).state ≠ 2 then .next s else .next (laneFails s port lane true)

/-- The bytes of a frame that byte position `i` mod 8 counts (R378). -/
def laneBytes (level i : Nat) : Nat := (frameBytes level + 7 - i) / 8

/-- The level that a window of 2^20 frames with `e` wrong bytes wants (R379). -/
def wantedLevel (level e : Nat) : Nat :=
  let n := 2 ^ 20 * frameBytes level
  if e * 10 ^ 12 < n then 0 else if e * 10 ^ 8 < n then 1 else if e * 10 ^ 6 < n then 2 else 3

/-- An agreed change of a port takes effect by the end of a window, whose frames reach frame S.
DESIGN CHOICE, unsafe (log entry 110). -/
def crossWindow (s : State) (p : Nat) : State :=
  match (portAt s p).agreed with
  | none => s
  | some (_, level, lane, _) => switchLevel s p level lane

/-- A window of 2^20 frames ends with the bytes corrected in each of a frame's two codewords, the frames that failed their CRC, and the wrong
bytes before correction of each byte position mod 8: a level may be proposed, and a lane with an error rate above 10^−4 fails (R379, R381). -/
def execLinkBerWindow (port corrected0 corrected1 failing : Nat) (errs : List Nat) (s : State) : Out :=
  let s := if port ≤ 15 ∧ (portAt s port).state = 2 then crossWindow s port else s
  let x := portAt s port
  let cfg := linkCfg s port
  if 15 < port ∨ x.state ≠ 2 then .next s
  else
    let w := Nat.max (wantedLevel x.level (errs.take 8).sum) (cfgMin cfg)
    let low := if w < x.level then Nat.min 16 (x.low + 1) else 0
    let s1 := modPort s port fun x => { x with corrected := (corrected0 + corrected1) % 2 ^ 32, bad := failing % 2 ^ 32, low := low }
    let s2 := if cfgPin cfg then s1
      else if x.level < w then propose s1 port w 15
      else if low = 16 then propose s1 port (x.level - 1) 15
      else s1
    let s3 := match x.takeover with
      | none => s2
      | some lane => laneFails s2 port lane true
    .next (((rangeFrom 0 8).filter fun i => decide (2 ^ 20 * laneBytes x.level i < errs.getD i 0 * 10 ^ 4)).foldl
      (fun s i => laneFails s port (byteLane x.flane i) false) s3)

/-- A NAK makes the sender replay from a frame of its buffer; a frame whose replays keep failing raises the level, and then takes the link down
(R381). -/
def execLinkNak (port : Nat) (seq : Nat) (s : State) : Out :=
  let x := portAt s port
  let n := (x.seqTx + 4096 - seq % 4096) % 4096
  if 15 < port ∨ x.state ≠ 2 ∨ n = 0 ∨ 512 < n then .next s
  else
    let fails := if x.nak = seq % 4096 then x.fails + 1 else 0
    let s1 := modModul (modPort s port fun x => { x with nak := seq % 4096, fails := fails })
      fun m => m.setCreg (0x490 + port) (addF (m.creg (0x490 + port)) 32 32 n)
    if fails = 8 ∧ !cfgPin (linkCfg s port) ∧ x.level < 3 then .next (propose s1 port (x.level + 1) 15)
    else if fails = 16 then .next (takeDown s1 port 1)
    else .next s1

/-! Arriving frames (R378, R383, R384). -/

/-- A response answers a request that left. -/
def answers (req ans : Body) : Bool :=
  match req, ans with
  | .loadReq _ _ _, .loadReply _ | .postedStore _ _ _ _, .storeAck | .postedStore _ _ _ _, .storeRefusal _
  | .atomicReq _ _ _ _ _ _, .atomicReply _ | .syncReq _ _ _ _, .syncReply _ | .syncReq _ _ _ _, .syncRetry | .syncReq _ _ _ _, .withdrawn
  | .fillReq _ _, .fillReply _ _ _ | .withdraw _ _, .withdrawn => true
  | .engRead _ _ _ r _ _, .engReadReply r' _ | .engWrite _ _ r _ _ _, .engWriteAck r' _ =>
    decide ({ r with part := 0 } = { r' with part := 0 })
  | _, _ => false

/-- The request of another package as its home performs it: untranslated, and a supervisor's (R76, R338). None for what is refused: a hole, an
unpopulated address, an access that the control window does not accept, and a message that does not cross links (R55). -/
def fromOutside (s : State) (m : Msg) : Option Msg :=
  let toHome (pa : Nat) (b : Body) : Option Msg := match homeAgent s 0 pa with
    | .sc l => if populated pa then some { m with dst := .sc l, body := b } else none
    | .ni c => some { m with dst := .ni c, body := b }
    | .csp c => some { m with dst := .csp c, body := b }
    | .control a => match placeOf s pa, b with
      | .ctl blk n, .loadReq _ 8 _ => some { m with dst := .control a, body := .ctlAccess false blk n 0#64 }
      | .ctl blk n, .postedStore _ d none _ =>
        if d.length = 8 then some { m with dst := .control a, body := .ctlAccess true blk n (leWord d) } else none
      | _, _ => none
    | _ => none
  match m.body with
  | .loadReq pa n _ => toHome (localPa s pa) (.loadReq (localPa s pa) n Acc.direct)
  | .postedStore pa d f _ => toHome (localPa s pa) (.postedStore (localPa s pa) d f Acc.direct)
  | .atomicReq op pa n b c _ => toHome (localPa s pa) (.atomicReq op (localPa s pa) n b c Acc.direct)
  | .syncReq f pa d _ => toHome (localPa s pa) (.syncReq f (localPa s pa) d Acc.direct)
  | .fillReq pa _ => toHome (localPa s pa) (.fillReq (localPa s pa) Acc.direct)
  | .withdraw f pa => toHome (localPa s pa) (.withdraw f (localPa s pa))
  | .engRead pa n _ r _ more =>
    toHome (localPa s pa) (.engRead (localPa s pa) n [] r Acc.direct (more.map fun p => (localPa s p.1, p.2.1, Acc.direct)))
  | .engWrite pa d r _ z more =>
    toHome (localPa s pa) (.engWrite (localPa s pa) d r Acc.direct z (more.map fun p => { p with pa := localPa s p.pa, acc := Acc.direct }))
  | .activeMsg type plen off z bytes from_ => match m.dst with
    | .ni _ => some { m with body := .activeMsg type plen off z bytes (some (from_.getD (0, 0))) }
    | _ => none
  | _ => none

/-- An answer reaches its requester, if the request is still out, on whatever port it comes; a report for an access that has ended is discarded
(R382, R384). -/
def linkAnswer (s : State) (m : Msg) : State :=
  let hit (r : Msg) : Bool := decide (r.src = m.dst) && decide (r.tag = m.tag) && answers r.body m.body
  if s.modul.ports.any fun e => e.2.sent.any hit then
    sendMsg ((s.modul.ports.map Prod.fst).foldl (fun s p => modPort s p fun x => { x with sent := x.sent.filter fun r => !hit r }) s) m
  else s

/-- The refusal of an active message reaches its sender, unless a link down has already reported it (R382). -/
def linkRefusal (s : State) (m : Msg) (type plen off : Nat) : State :=
  let hit (r : Msg) : Bool := decide (r.src = m.dst) && (match r.body with
    | .activeMsg t n o _ _ _ => decide (t = type) && decide (n = plen) && decide (o = off)
    | _ => false)
  match s.modul.ports.find? fun e => e.2.ended.any hit with
  | none => sendMsg s m
  | some e => modPort s e.1 fun x => { x with ended := x.ended.eraseP hit }

/-- A message addressed to this package goes to its home or its requester (R383, R384). `who` of a request then names the requester's package too, by
which requests of one tag differ. -/
def linkDeliver (p : Nat) (s : State) (l : LinkMsg) : State :=
  let m := { l.msg with src := .link p }
  match m.body, m.dst with
  | .amRefusal _ type plen off _, .ni _ => linkRefusal s m type plen off
  | .armFired pa, .ni c => raiseEvent s c 0x31 (nw pa)
  | _, _ =>
    if m.body.response then linkAnswer s m
    else
      let m := { m with who := m.who % 2 ^ 32 + l.src % 256 * 2 ^ 32 }
      match fromOutside s m with
      | some m => sendMsg s m
      | none => endLost 0x61 8 s m

/-- An active message of another package brings the HOPS of its header (R98, R384). -/
def hopped (l : LinkMsg) : LinkMsg := match l.msg.body with
  | .activeMsg type plen off z bytes from_ =>
    { l with msg := { l.msg with body := .activeMsg type plen off z bytes (some ((from_.map Prod.fst).getD 0, l.hops % 16)) } }
  | _ => l

/-- One message of a frame: delivered here; forwarded by the route of its package with HOPS one more; or refused to its source (R384). -/
def linkArrive (p : Nat) (s : State) (l : LinkMsg) : State :=
  if l.pkg % 256 = ownPkg s % 256 then linkDeliver p s (hopped l)
  else
    let r := SMap.get (fun _ => 0#64) s.modul.routes (l.pkg % 256)
    let q := bitF r 0 4
    let m := { l.msg with src := .link p, who := l.msg.who % 2 ^ 32 + l.src % 256 * 2 ^ 32 }
    if !bitB r 63 ∨ q = p ∨ 16 ≤ l.hops + 1 then endLost 0x61 8 s m
    else portFlow (modPort s q fun x => { x with fwd := x.fwd ++ [{ l with hops := l.hops + 1, msg := m }] }) q

/-- The peer acknowledges every frame up to `a`: their messages leave the replay buffer, and a frame that failed counts no more (R378, R381). -/
def linkAck (s : State) (p a : Nat) : State :=
  modPort s p fun x => { x with
    buf := x.buf.filter fun b => !seqReached a b.1,
    nak := if x.nak < 4096 ∧ seqReached a x.nak then 4096 else x.nak,
    fails := if x.nak < 4096 ∧ seqReached a x.nak then 0 else x.fails }

/-- The flits that a header says its frame carries. -/
def flitsOf (h : Word) : Nat := ((rangeFrom 0 8).filter fun k => (hdrValid h).testBit k).length

/-- A frame arrives: its header, the operands of a control frame, the bytes received wrong, and the messages that it completes, each of which has a
flit in it. A frame that fails its CRC, or carries a TYPE never sent, is discarded, and a NAK asks for the data frame that is due; a data frame out
of order is discarded (R378, R381, R384). DESIGN CHOICE, unsafe (log entry 61). -/
def execLinkFrameReceive (port : Nat) (hdr op : Word) (bad : List Nat) (msgs : List LinkMsg) (s : State) : Out :=
  let x := portAt s port
  if 15 < port ∨ x.state ≠ 2 then .next s
  else if 4 < hdrType hdr ∨ !frameGood x.level bad then .next (sendCtl s port 3 (seqWord x.seqRx))
  else
    let s := linkAck s port (hdrAck hdr)
    match hdrType hdr with
    | 0 =>
      if hdrSeq hdr ≠ x.seqRx then .next s
      else .next ((msgs.take (flitsOf hdr)).foldl (linkArrive port)
        (crossFrame (modPort s port fun x => { x with seqRx := (x.seqRx + 1) % 4096 }) port))
    | 1 => if hdrValid hdr = 0 then execLinkChg port (bitF op 0 2) (bitF op 4 4) (bitF op 16 12) s else .next s
    | 2 => if hdrValid hdr = 0 then execLinkCack port (bitF op 16 12) s else .next s
    | 3 => if hdrValid hdr = 0 then execLinkNak port (bitF op 16 12) s else .next s
    | _ => .next s

/-! The LNK forms (R386). -/

/-- The agent of the module's units. -/
def modulAgent : Agent := .control (4 * 2 ^ 24)

/-- The frame of the forms: the port, or a trap; the port performs the form and answers. -/
def lnkForm (s : State) (d a : GReg) (srcs : List GReg) (t : Bool) (f : UnitForm) : State :=
  withOps s srcs (some d) false fun s vs =>
    if bitF (val vs 0) 5 59 ≠ 0 then .trap 0x10 (val vs 0)
    else askUnit s modulAgent f vs fun s v => .done (modSlot s s.cur fun x => (x.takeIf t a.toNat).writeDst d.toNat v)

/-- Reads a port's status, or the counts of its last window (R386). -/
def execLnkq (d a : GReg) (t : Bool) (s : State) : Out := .next (lnkForm s d a [a] t .lnkq)

/-- Sets or pins a link's code level (R386): parks until the change is agreed or times out. -/
def execLnkfec (d a b : GReg) (t : Bool) (s : State) : Out := .next (lnkForm s d a [a, b] t .lnkfec)

/-- Claims a port and throws to the spare, or releases it and throws to the primary (R385, R386). -/
def execLnkclaim (d a b : GReg) (t : Bool) (s : State) : Out := .next (lnkForm s d a [a, b] t .lnkclaim)

/-- `lnkfec` at its port; none while an earlier change is under way. -/
def fecPerform (s : State) (m : Msg) (p : Nat) (v : Word) : Option State :=
  let x := portAt s p
  let l := bitF v 0 2
  let pin := bitB v 2
  let want := if pin then l else Nat.max l (cfgMin (linkCfg s p))
  let s1 := modModul s fun c => c.setCreg (0x480 + p) (setF (setB (c.creg (0x480 + p)) 7 pin) 5 2 l)
  if x.state ≠ 2 then some (answerUnit s m 1)
  else if x.prop.isSome ∨ x.agreed.isSome then none
  else if x.level = want then some (answerUnit s1 m 0)
  else some (propose (modPort s1 p fun x => { x with fec := some m }) p want 15)

/-- `lnkclaim` at its port: a claim is decided when the cycle is over (R385). -/
def claimPerform (s : State) (m : Msg) (p : Nat) (v : Word) : State :=
  let x := portAt s p
  if bitB v 0 then
    if x.owner ≠ 0 ∨ x.bid.isSome then answerUnit s m 1
    else modPort s p fun x => { x with bid := some (m, bitF v 8 8), bidAt := s.time + 1 }
  else if x.owner = 0 ∨ (x.owner = 1 ∧ !bitB v 1) then answerUnit s m 2
  else modPort (throwSwitch (answerClaim s p 3) p 0) p fun x => { x with owner := 0, claim := some m }

/-- A LNK form at its port; none while it waits there. -/
def lnkPerform (s : State) (m : Msg) (f : UnitForm) (vs : List Word) : Option State :=
  let p := bitF (val vs 0) 0 4
  match f with
  | .lnkq => some (answerUnit s m (if bitB (val vs 0) 4 then (portAt s p).corrected * 2 ^ 32 + (portAt s p).bad else (linkStat s p).toNat))
  | .lnkfec => fecPerform s m p (val vs 1)
  | .lnkclaim => some (claimPerform s m p (val vs 1))
  | _ => some s

end Sys2Proof.Machine
end

