-- ==== Sys2Proof/Machine/Reliability.lean ====
section
/-! DEFINITION. Control-window stores as events, vertical buses, row sparing, retirement of cores and sites, the patrol and the comb sources (R338,
R363 to R376). -/

namespace Sys2Proof.Machine

/-! Stores of the control window at a block's control agent (R338). -/

/-- The control agent of block `b` of a register number (R338). -/
def ctlAgent (b n : Nat) : Agent := .control (2 ^ 24 * blockOf n + b)

/-- The index among logical cores, and among their slots, of a core and of a slot. -/
def coreBlk (s : State) (core : Nat) : Nat := clusterOf core * 33 + lcoreOf s core
def slotBlk (s : State) (k : Nat) : Nat := coreBlk s (coreOf k) * 16 + slotNo k

/-- The core and the slot of such an index. -/
def blkCore (s : State) (b : Nat) : Nat := lcoreKey s (b / 33) (b % 33)
def blkSlot (s : State) (b : Nat) : Nat := slotOf (blkCore s (b / 16)) (b % 16)

/-- A write of a register: a store of the control window (R338), or a `cput` that waits (R339). -/
def ctlWritten : Body → Option (Nat × Nat × Word)
  | .ctlAccess true b n v | .ctlPut b n v => some (b, n, v)
  | _ => none

/-- What answers such a write. -/
def ctlWriteAck : Body → Body
  | .ctlPut _ _ _ => .loadReply (.value [])
  | _ => .storeAck

/-- The first write to register `n` of block `b` in flight, of the values that `p` names, that may arrive: its position and value. -/
def ctlStore (s : State) (b n : Nat) (p : Word → Bool) : Option (Nat × Msg × Word) :=
  (rangeFrom 0 s.net.length).findSome? fun i => match arrives s i with
    | none => none
    | some m => match ctlWritten m.body with
      | some (b', n', v) => if b' = b ∧ n' = n ∧ m.dst = ctlAgent b n ∧ p v then some (i, m, v) else none
      | none => none

/-- The control agent performs such a write and acknowledges it; without one nothing happens. DEDUCED, safe (log entry 69). -/
def onCtlStore (s : State) (b n : Nat) (p : Word → Bool) (perform : State → Word → State) : State :=
  match ctlStore s b n p with
  | none => s
  | some (i, m, v) => sendMsg (perform (dropMsg s i) v) (replyTo m (ctlWriteAck m.body))

/-! The replacement advisory (R375). -/

/-- The spare sites of a tower that are neither retired nor bound (R241, R375). -/
def spareSites (s : State) (t : Nat) : Nat :=
  ((rangeFrom (168 * t + 160) 8).filter fun k => !siteRetired s k && !(rangeFrom (160 * t) 160).any fun c =>
    bitB (omuBind s c) 31 && !bitB (omuBind s c) 30 && decide (bindSite c (omuBind s c) = some k)).length

/-- Bit 2: a tower has no more spare sites than THR.OMU. -/
def adviseSites (s : State) (t : Nat) : State :=
  if spareSites s t ≤ bitF (s.modul.creg 0x448) 16 8 then advise s 2 t 0 else s

/-! Vertical buses (R367 to R370). -/

/-- The register number and the bit position of a group's field (R155). -/
def vbReg (q g : Nat) : Nat := 0x120 + 4 * q + g / 4
def vbPos (g : Nat) : Nat := 16 * (g % 4)

/-- Sets one bit of a quarter's byte in CORE_LMQMAP. -/
def setQ (c : Core) (lo n v : Nat) : Core := c.setCreg 0x101 (setF (c.creg 0x101) lo n v)

/-- A quarter of the entry-33 core that no DQ of the cluster names (R370). -/
def freeDonor (s : State) (cl : Nat) : Option Nat :=
  if coreRetired s (lcoreKey s cl 33) then none
  else (rangeFrom 0 4).find? fun d => !(rangeFrom (34 * cl) 34).any fun c => (rangeFrom 0 4).any fun q =>
    qRet (coreAt s c) q && qDon (coreAt s c) q && decide (qDq (coreAt s c) q = d)

/-- A donor quarter starts anew: off until it is ready, and then zero (R139, R370). -/
def startDonor (s : State) (core q : Nat) : State :=
  modCore s core fun c => { setOn c q false with lmDue := SMap.set (fun _ => 0) c.lmDue q (s.time + 4096) }

/-- Retires a quarter (R370): the state, and whether a donor was assigned. -/
def retireQuarter (s : State) (core q : Nat) (auto : Bool) : State × Bool :=
  let s1 := closeQuarter (modCore s core fun c => setQ c (8 * q + 6) 2 2) core q 0x17
  let cl := clusterOf core
  match (if auto then freeDonor s1 cl else none) with
  | some d => (startDonor (modCore s1 core fun c => setQ (setQ c (8 * q + 6) 1 1) (8 * q) 2 d) (lcoreKey s1 cl 33) d, true)
  | none => (advise s1 1 (towerOf cl) (clusterNo cl), false)

/-- Records a faulty wire (R369): the state and the answer. -/
def vbRecord (s : State) (core q w : Nat) (auto : Bool) : State × Nat :=
  let g := wireGroup w
  let lane := wireLane w
  let r := vbReg q g
  let c := coreAt s core
  let f := bitF (c.creg r) (vbPos g) 16
  let v1 := f.testBit 7
  let v2 := f.testBit 15
  let f1 := f % 128
  let f2 := f / 256 % 128
  let put (n : Nat) : State := setCore s core (c.setCreg r (setF (c.creg r) (vbPos g) 16 n))
  if quarterRetired s core q then (s, 5)
  else if (v1 ∧ f1 = lane) ∨ (v2 ∧ f2 = lane) then (s, 2)
  else if !v1 then (put (2 ^ 7 + lane), 0)
  else if !v2 then (put (2 ^ 15 + Nat.max f1 lane * 2 ^ 8 + 2 ^ 7 + Nat.min f1 lane), 1)
  else
    let x := retireQuarter s core q auto
    (x.1, if x.2 then 3 else 4)

/-- The frame of the VB forms (R367): physical core, quarter, wire and AUTO; the core's LM controller performs the form and answers. -/
def vbForm (d a b : GReg) (t : Bool) (f : UnitForm) (s : State) : State :=
  withOps s [a, b] (some d) false fun s vs =>
    let v := val vs 0
    let u := val vs 1
    if 159 < bitF v 32 8 ∨ 33 < bitF v 0 6 then .trap 0x10 v
    else if 1055 < bitF u 2 11 then .trap 0x10 u
    else askUnit s (.ni (coreIn (clusterIn (bitF v 40 3) (bitF v 32 8)) (bitF v 0 6))) f vs fun s w =>
      .done (modSlot s s.cur fun x => (x.takeIf t a.toNat).writeDst d.toNat w)

/-- Records a faulty wire (R369). -/
def execVbset (d a b : GReg) (t : Bool) (s : State) : Out := .next (vbForm d a b t .vbset s)

/-- The report of a walking one on raw wire `w` of a bus with the given faults: a wire without a fault reads what it is driven (R368). -/
def loopback (fs : List Wire) (w : Nat) : Nat :=
  let reads : Nat → Bool := wireReads fs fun i => decide (i = w)
  let others := (fs.flatMap Wire.touched).filter fun i => decide (i ≠ w) && decide (i < 1056) && reads i
  (match others.min? with
   | some i => i * 2 ^ 16 + 4
   | none => 0) + (if reads w then 0 else 2) + (if reads w ∧ others = [] then 1 else 0)

/-- Drives a single one on a raw wire (R368). -/
def vbTest (s : State) (core q w : Nat) : Nat :=
  if !(coreAt s core).lmOn.getLsbD q ∧ !quarterRetired s core q then 8 else loopback (busFaults s core q) w

/-- Drives a single one on a raw wire (R368). -/
def execVbtest (d a b : GReg) (t : Bool) (s : State) : Out := .next (vbForm d a b t .vbtest s)

/-- A VB form at the LM controller of its core (R367). -/
def vbPerform (s : State) (m : Msg) (core : Nat) (f : UnitForm) (vs : List Word) : State :=
  let u := val vs 1
  match f with
  | .vbset =>
    let r := vbRecord s core (bitF u 0 2) (bitF u 2 11) (bitB u 13)
    answerUnit r.1 m r.2
  | _ => answerUnit s m (vbTest s core (bitF u 0 2) (bitF u 2 11))

/-! Row sparing (R366). -/

/-- A write to MOD_RSP_CMD: GO starts a repair, and is ignored while one runs. -/
def repairWrite (s : State) (v : Word) : State :=
  if bitB v 63 ∧ s.modul.repair.isSome then s
  else modModul s fun m =>
    { m.setCreg 0x446 (setB (regMerge 0x446 (m.creg 0x446) v) 63 false) with
      repair := if bitB v 63 then some (s.time, v) else m.repair }

/-- A GO write spares a failing row (R366). -/
def execRowRepair (s : State) : Out := .next (onCtlStore s 0 0x446 (fun v => bitB v 63) repairWrite)

/-- A command's row is repaired onto a spare row: its words that were uncorrectable are written back as poison (R366). -/
def repairRow (s : State) (v : Word) : State :=
  let row (line : Nat) : Bool := decide (bitF v 0 18 = Config.rowOf (secondTier line) (tierOffset (64 * line)) % 2 ^ 18)
  { s with bad := s.bad.map fun e => if e.2 = 0x19 ∧ e.1 < 0x20000000000 ∧ bankNamed v (e.1 / 64) ∧ row (e.1 / 64) then (e.1, 0x1A) else e }

/-- RESULT is written, and the bank's accesses are released (R366, R376). -/
def repairEnds (s : State) (result : Nat) : State :=
  modModul s fun m => { m.setCreg 0x447 (setF (m.creg 0x447) 54 2 result) with repair := none }

/-- A repair ends: one that repaired a row is counted, and recorded for the boots to come (R366, R393). -/
def execRowRepairDone (result : Nat) (s : State) : Out :=
  match s.modul.repair with
  | none => .next s
  | some (_, v) =>
    if 2 < result then .next s
    else if result = 0 then
      .next (modModul (repairEnds (repairRow s v) 0) fun m => { m.setCreg 0x447 (addF (m.creg 0x447) 0 32 1) with rowFix := m.rowFix ++ [v] })
    else .next (if result = 1 then advise (repairEnds s 1) 3 0 0 else repairEnds s 2)

/-- An uncorrectable error strikes the content at a physical address (R363, R410): a word of LM or CSP, the SC's data entry of a line, with every
tag and shadow that uses it, or, with `device`, the line in its tier or in a pool slot. A mark that stands there stays.
DEDUCED, unsafe (log entry 62). -/
def softError (s : State) (pa : Nat) (device : Bool) : State :=
  let mark (s : State) (k : Nat) : State := if badAt s k ≠ 0 then s else setBad s k 0x19
  let hit (p : Nat) : Nat := if p ≠ 0 then p else 0x19
  match placeOf s pa with
  | .lm cl lc off => match lmAt s cl lc off with
    | .here c o _ => mark s (lmKey c (o / 8 * 8))
    | .wait | .off | .retired => s
  | .csp cl off => mark s (cspKey cl (off / 8 * 8))
  | .tier a =>
    if device then mark s (64 * (a / 64))
    else modTower s (lineTower (a / 64)) fun w => match tagAt w (a / 64) with
      | none => w
      | some g => { w with
          tags := w.tags.map fun e => (e.1, e.2.map fun x => if x.ptr = g.ptr then { x with pois := hit x.pois } else x),
          shadows := w.shadows.map fun h => if h.ptr = some g.ptr then { h with pois := hit h.pois } else h }
  | .spread _ _ | .ctl _ _ | .host _ | .remote _ _ | .hole => s

/-- A check finds an error at a physical address: `err` 1 is one that a scrubber's read corrects, which counts it and changes no value (R365); 2 is an
uncorrectable one in LM, CSP or an SC, and 3 one in a tier's device (R363). -/
def execScrubPatrol (pa err : Nat) (s : State) : Out :=
  .next (
    if err = 1 ∧ bitF (s.modul.creg 0x448) 0 16 ≠ 0 then modModul s fun m => m.setCreg 0x448 (addF (m.creg 0x448) 32 32 1)
    else if err = 2 ∨ err = 3 then softError s pa (decide (err = 3))
    else s)

/-! Cores and sites (R371, R372). -/

/-- MOD_REL_SEL's tower, and its cluster. -/
def relTower (s : State) : Nat := bitF (s.modul.creg 0x441) 40 3
def relCluster (s : State) : Option Nat :=
  if 159 < bitF (s.modul.creg 0x441) 32 8 then none else some (clusterIn (relTower s) (bitF (s.modul.creg 0x441) 32 8))

/-- Marks physical cores of a cluster retired: every quarter closes as one that is retired without a donor, and CORE_LMQMAP says so (R155, R371).
DEDUCED, unsafe (log entry 62). -/
def retireCores (s : State) (cl bits : Nat) : State :=
  let old := SMap.get (fun _ => 0) s.modul.relCore cl
  let s1 := modModul s fun m => { m with relCore := SMap.set (fun _ => 0) m.relCore cl (Nat.lor old (bits % 2 ^ 34)) }
  let s2 := ((rangeFrom 0 34).filter fun p => bits.testBit p && !old.testBit p).foldl (fun s p =>
    (rangeFrom 0 4).foldl (fun s q => closeQuarter (modCore s (coreIn cl p) fun c => setQ c (8 * q + 6) 2 2) (coreIn cl p) q 0x17) s) s1
  adviseSpare s2 cl

/-- A write to MOD_REL_CORE (R371, R376). -/
def coreRetire (s : State) (v : Word) : State := match relCluster s with
  | none => s
  | some cl => retireCores s cl v.toNat

/-- RETC set by a store of the control window (R371). -/
def execCoreRetireWrite (v : Word) (s : State) : Out := .next (onCtlStore s 0 0x442 (fun w => decide (w = v)) coreRetire)

/-- A site retires at once (R372): its passes and calibrations are cut with 0x4B, and its clusters are OFF. -/
def retireSite (s : State) (k : Nat) : State :=
  if siteRetired s k then s
  else
    let users := siteUsers s k
    let s1 := modModul s fun m => { m with relOmu := SMap.modify (fun _ => 0) m.relOmu (k / 168) fun b => Nat.lor b (2 ^ (k % 168)) }
    let s2 := modSite s1 k fun x => { x with st := 0 }
    adviseSites (users.foldl (fun s c =>
      let s := match running s c MxCmd.inLight with
        | some x => cutPass s c x x.rows 0x4B
        | none => s
      match running s c fun x => decide (x.fn = 15) with
      | some x => mxEnd s c x 0x4B 0 0 0
      | none => s) s2) (k / 168)

/-- A write to MOD_REL_OMUk (R372, R376). -/
def siteRetireWrite (s : State) (n : Nat) (v : Word) : State :=
  ((rangeFrom 0 64).filter fun j => v.getLsbD j && decide (64 * (n - 0x443) + j < 168)).foldl
    (fun s j => retireSite s (168 * relTower s + 64 * (n - 0x443) + j)) s

/-- A site bit set by a store of the control window (R372); `n` is 0 to 2. -/
def execOmuSiteRetire (n : Nat) (v : Word) (s : State) : Out :=
  if 2 < n then .next s else .next (onCtlStore s 0 (0x443 + n) (fun w => decide (w = v)) fun s v => siteRetireWrite s (0x443 + n) v)

/-- The primary source fails and the standby carries the module, or the standby is lost (R375). Bit 0 of `comb` says that the primary has
failed, bit 1 the standby. -/
def execCombSourceFailure (standby : Bool) (s : State) : Out :=
  .next (advise (modModul s fun m => { m with comb := Nat.lor m.comb (if standby then 2 else 1) }) 5 0 0)

end Sys2Proof.Machine
end

