-- ==== Sys2Proof/Machine/Holdup.lean ====
section
/-! DEFINITION. Must-save regions, the hold-up sequence, the save flash and the restart table (R350 to R362). -/

namespace Sys2Proof.Machine

/-! Capacity and regions (R350 to R352). -/

/-- MOD_HU_CAP.RESJ, and CAP (R351). -/
def resj (s : State) : Nat := bitF (s.modul.creg 0x401) 48 16
def capOf (s : State) : Nat := Nat.min 8192 ((resj s - 20) * 1536 / 25)

def regionAt (s : State) (h : Nat) : Option Region := SMap.get (fun _ => none) s.modul.regions h
def setRegion (s : State) (h : Nat) (r : Option Region) : State :=
  modModul s fun m => { m with regions := SMap.set (fun _ => none) m.regions h r }

/-- UNITS of a length (R352). -/
def unitsOf (len : Nat) : Nat := (len + 1048575) / 1048576

/-- The units charged to an ASID, and all of them. -/
def usedBy (s : State) (asid : Nat) : Nat :=
  (s.modul.regions.map fun e => match e.2 with
    | some r => if r.asid = asid then unitsOf r.len else 0
    | none => 0).sum
def usedAll (s : State) : Nat :=
  (s.modul.regions.map fun e => match e.2 with
    | some r => unitsOf r.len
    | none => 0).sum

def quotaOf (s : State) (asid : Nat) : Nat := SMap.get (fun _ => 0) s.modul.quota asid

/-- The hold-up sequence runs (MOD_HU_CTL.RUN). -/
def huRuns (s : State) : Bool := decide (s.modul.hu ≠ .idle)

/-- Every page of [la, hi) has a pinned leaf, and the frames follow on from `pa` as one range (R354). -/
def oneFrame (s : State) (cl asid la pa hi : Nat) : Nat → Nat → Bool
  | 0, _ => false
  | fuel + 1, at_ =>
    if hi ≤ at_ then true
    else match (walkAt s cl asid at_).2 with
      | .leaf _ lvl e =>
        let size := 2 ^ lvlShift lvl
        bitB e 56 && decide (pteAddr e + at_ % size = pa + (at_ - la)) && oneFrame s cl asid la pa hi fuel (at_ / size * size + size)
      | .fail | .poison _ => false

/-- The tval of 0x71 (R354). -/
def saveTval (reason units : Nat) : Word := nw (reason * 2 ^ 60 + units)

/-- Admits a region at the save engine (R354). -/
def admitRegion (s : State) (m : Msg) (asid la len prio tag : Nat) : State :=
  let u := unitsOf len
  let trap (reason : Nat) : State := sendMsg s (replyTo m (.loadReply (.poison 0x71 (saveTval reason u).toNat)))
  if huRuns s then trap 6
  else if quotaOf s asid < usedBy s asid + u then trap 1
  else if capOf s < usedAll s + u then trap 2
  else match (rangeFrom 0 1024).find? fun h => (regionAt s h).isNone with
    | none => trap 3
    | some h => answerUnit (setRegion s h (some ⟨asid, prio, tag, la, len⟩)) m h

/-- An address in a spread region, the control or the host window, or a remote package (R54, R354, R390). -/
def notSaved (s : State) (la pa : Nat) : Bool :=
  let a := localPa s la
  (decide (0x21000000000 ≤ a) && decide (a < 0x21800000000)) || inCtlWindow s la ||
    (match placeOf s pa with
     | .remote _ _ => true
     | _ => false)

/-- The checks of `msadd` before its request: a trap, a wait for a walk, or the physical address to record (R354). -/
def saveRange (s : State) (p : Word) (len : Nat) : AddrRes :=
  let u := unitsOf len
  if len = 0 ∨ 2 ^ 33 < len then .trap 0x71 (saveTval 7 0)
  else match ptrAddr s s.cur p 1 needR with
    | .ok la pa acc =>
      match segAddr s s.cur (ptrSeg p) (nw (ptrOff p + len - 1)) 1 needR with
      | .ok _ _ _ =>
        if la % 65536 ≠ 0 then .trap 0x12 (nw la)
        else if notSaved s la pa then .trap 0x71 (saveTval 5 u)
        else if la < 0x20000000000 ∧
            !oneFrame s (clusterOf (coreOf s.cur)) (myAsid s) la pa (la + len) 131074 la then .trap 0x71 (saveTval 4 u)
        else .ok la pa acc
      | r => r
    | r => r

/-- Admits a must-save region: parks until the save engine answers (R354). -/
def execMsadd (d a b : GReg) (t : Bool) (s : State) : Out :=
  .next (withOps s [a, b] (some d) false fun s vs =>
    let v := val vs 1
    withAnswers s fun ws =>
      if ws ≠ [] then .done (modSlot s s.cur fun x => (x.takeIf t a.toNat).writeDst d.toNat (val ws 0))
      else match saveRange s (val vs 0) (bitF v 0 34) with
        | .trap c w => .trap c w
        | .walk u => .park u
        | .ok _ pa _ => askMore s modulAgent (.unitReq .msadd
            [nw (myAsid s), nw pa, nw (bitF v 0 34), nw (bitF v 50 2), nw (bitF v 34 16)]) 8)

/-- The frame of the other forms of the save engine: its request carries the operands, the mode and the ASID. -/
def saveForm (d a : GReg) (srcs : List GReg) (t : Bool) (f : UnitForm) (s : State) : State :=
  withOps s srcs (some d) false fun s vs =>
    askUnit s modulAgent f ([nw (isUser s).toNat, nw (myAsid s)] ++ vs) fun s w =>
      .done (modSlot s s.cur fun x => (x.takeIf t a.toNat).writeDst d.toNat w)

/-- Removes an entry (R355). -/
def execMsdel (d a : GReg) (t : Bool) (s : State) : Out := .next (saveForm d a [a] t .msdel s)

/-- An entry is removed at the save engine (R355): the state, and the answer. -/
def regionDelete (s : State) (user : Bool) (asid h : Nat) : State × Nat :=
  if huRuns s then (s, 2)
  else match regionAt s h with
    | none => (s, 1)
    | some r => if user ∧ r.asid ≠ asid then (s, 1) else (setRegion s h none, 0)

/-- An entry as `msqry` and `hustat` show it, below their top bits (R355, R361). -/
def regionWord (r : Region) : Nat :=
  r.prio % 4 * 2 ^ 60 + r.asid % 4096 * 2 ^ 48 + r.tag % 65536 * 2 ^ 32 + unitsOf r.len % 16384 * 2 ^ 18

/-- Reads an entry, or a quota and its use (R355). -/
def execMsqry (d a : GReg) (t : Bool) (s : State) : Out := .next (saveForm d a [a] t .msqry s)

/-- What the save engine answers to `msqry` (R355). -/
def regionQuery (s : State) (user : Bool) (my : Nat) (v : Word) : Nat :=
  let asid := if user then my else bitF v 0 12
  if bitB v 63 then quotaOf s asid * 2 ^ 32 + usedBy s asid
  else match regionAt s (bitF v 0 10) with
    | none => 0
    | some r => if user ∧ r.asid ≠ my then 0 else 2 ^ 63 + regionWord r

/-! The restart table (R359 to R361). -/

/-- The chunks of a region of length `len`. -/
def chunksOf (len : Nat) : Nat := (len + 65535) / 65536

/-- Bytes 0 to 27 of a chunk's trailer (R359). -/
def chunkTrailer (epoch handle index crcP : Nat) : List Byte :=
  natLE 4 epoch ++ natLE 2 handle ++ natLE 4 index ++ natLE 4 crcP ++ List.replicate 14 0#8

/-- A chunk record's 65,568 bytes (R359). -/
def Chunk.record (c : Chunk) : List Byte := c.data ++ chunkTrailer c.epoch c.handle c.index c.crcP ++ natLE 4 c.crcT

/-- The bytes of a plan block before its CRC-32C: EPOCH, the region count, and each region (R359). The widths are not given.
DESIGN CHOICE, safe (log entry 103). -/
def planBytes (epoch : Nat) (plan : List PlanEnt) : List Byte :=
  natLE 4 epoch ++ natLE 2 plan.length ++ plan.flatMap fun e =>
    natLE 2 e.handle ++ natLE 2 e.region.asid ++ natLE 2 e.region.tag ++ natLE 1 e.region.prio ++ natLE 8 e.region.start ++ natLE 8 e.region.len

/-- The flash with a new plan block (R359). -/
def Flash.planned (f : Flash) (plan : List PlanEnt) : Flash :=
  let epoch := (f.epoch + 1) % 2 ^ 32
  ⟨epoch, plan, crc32 (planBytes epoch plan), [], none⟩

/-- The commit block is present, and it is that of the plan block (R359, R360). -/
def Flash.committed (f : Flash) : Bool :=
  decide (f.commit = some (f.epoch, f.crc)) && decide (f.crc = crc32 (planBytes f.epoch f.plan))

/-- Both CRCs of a chunk match, and its EPOCH is the plan's (R360). -/
def chunkGood (f : Flash) (c : Chunk) : Bool :=
  decide (c.crcP = crc32 c.data) && decide (c.crcT = crc32 (chunkTrailer c.epoch c.handle c.index c.crcP)) && decide (c.epoch = f.epoch)

/-- The numbers of a region's written chunks. -/
def Flash.written (f : Flash) (h : Nat) : List Nat := ((f.chunks.filter fun c => decide (c.handle = h) && chunkGood f c).map Chunk.index)

/-- STATE of a region: 1 whole, 2 torn, 3 absent (R360). -/
def Flash.stateOf (f : Flash) (e : PlanEnt) : Nat :=
  let n := (f.written e.handle).length
  if f.committed ∧ n = chunksOf e.region.len then 1 else if n = 0 then 3 else 2

/-- MOD_HU_LAST (R362). -/
def Flash.last (f : Flash) : Nat := f.epoch % 2 ^ 32 * 2 ^ 32 + f.committed.toNat * 2 ^ 31 + f.plan.length % 2 ^ 11

/-- Reads the restart table (R361). -/
def execHustat (d a b : GReg) (t : Bool) (s : State) : Out := .next (saveForm d a [a, b] t .hustat s)

/-- What the save engine answers to `hustat` (R361). -/
def tableQuery (f : Flash) (va vb : Word) : Nat :=
  let h := bitF va 0 10
  let sel := bitF vb 62 2
  let k := bitF vb 0 11
  if sel = 3 then f.last
  else match f.plan.find? fun e => e.handle = h with
    | none => 0
    | some e =>
      if sel = 0 then f.stateOf e * 2 ^ 62 + regionWord e.region + (f.written h).length % 2 ^ 18
      else if sel = 1 then e.region.start
      else (((f.written h).filter fun i => decide (64 * k ≤ i) && decide (i < 64 * k + 64)).map fun i => 2 ^ (i - 64 * k)).sum

/-- A form of the save engine, performed in the order in which requests arrive (R354, R355, R361). -/
def savePerform (s : State) (m : Msg) (f : UnitForm) (vs : List Word) : State :=
  let user := bitB (val vs 0) 0
  let asid := bitF (val vs 1) 0 12
  match f with
  | .msadd => admitRegion s m (val vs 0).toNat (val vs 1).toNat (val vs 2).toNat (val vs 3).toNat (val vs 4).toNat
  | .msdel =>
    let r := regionDelete s user asid (bitF (val vs 2) 0 10)
    answerUnit r.1 m r.2
  | .msqry => answerUnit s m (regionQuery s user asid (val vs 2))
  | .hustat => answerUnit s m (tableQuery s.modul.flash (val vs 2) (val vs 3))
  | _ => s

/-- CLR clears the restart table and the flash behind it; the next save's EPOCH still follows on (R360, R362). -/
def clearTable (s : State) : State :=
  modModul s fun m => { m with flash := { m.flash with plan := [], crc := 0, chunks := [], commit := none } }

/-- A write to MOD_HU_CTL (R362). DEDUCED, unsafe (log entry 64). -/
def huCtlWrite (s : State) (v : Word) : State :=
  let s1 := modModul s fun m => m.setCreg 0x400 (setB (regMerge 0x400 (m.creg 0x400) v) 2 false)
  if bitB v 2 then clearTable s1 else s1

/-- CLR written 1 by a store of the control window (R362). -/
def execHuTableClear (s : State) : Out := .next (onCtlStore s 0 0x400 (fun v => bitB v 2) huCtlWrite)

/-! The sequence (R356). -/

/-- OMUs go to OFF, and the passes in the light are cut with 0x70 (R254, R356). -/
def shedLight (s : State) : State :=
  let s1 := (s.clusters.map Prod.fst).foldl (fun s c => match running s c MxCmd.inLight with
    | some x => cutPass s c x x.rows 0x70
    | none => s) s
  (s1.sites.map Prod.fst).foldl (fun s k => modSite s k fun x => { x with st := 0 }) s1

/-- The link lasers go off: each link that is not down loses lock (R356, R382). -/
def shedLinks (s : State) : State :=
  (s.modul.ports.map Prod.fst).foldl (fun s p => if (portAt s p).state = 0 then s else
    modPort (takeDown s p 2) p fun x => { x with state := 0, failover := false }) s

/-- The input falls below 38 V for 1 µs: the broadcast of 0x70, and shedding (R356). A slot that is stopped does not get it (R328). -/
def execHoldupStart (s : State) : Out :=
  if s.modul.hu ≠ .idle then .next s
  else
    let s1 := modModul s fun m => { m with hu := .shed, huT0 := tickOf s }
    let s2 := (s1.slots.map Prod.fst).foldl (fun s k => modSlot s k fun x => { x with pf := decide (x.st = .stopped) }) s1
    .next (shedLinks (shedLight s2))

/-- At 50,000 ticks every slot stops, and engines issue no further access: what they had not issued is gone, stamps included (R356).
DEDUCED, unsafe (log entry 63). -/
def execHoldupStop (s : State) : Out :=
  if s.modul.hu ≠ .shed ∨ tickOf s < s.modul.huT0 + 50000 then .next s
  else
    let s1 := modModul s fun m => { m with hu := .drain }
    let s2 := (s1.slots.map Prod.fst).foldl (fun s k => modSlot s k fun x =>
      { x with strs := [], st := if x.st = .ready ∨ x.st = .parked then .stopped else x.st }) s1
    let s3 := (s2.cores.map Prod.fst).foldl (fun s c => modCore s c fun x => { x with xq := [], vq := [] }) s2
    let s4 := (s3.clusters.map Prod.fst).foldl (fun s c => modCluster s c fun x => { x with mxq := [], dce := [] }) s3
    .next ((s4.towers.map Prod.fst).foldl (fun s t => modTower s t fun x => { x with cle := [] }) s4)

/-- Every message that was sent has been delivered, but for those that a failed hop holds, and no repair holds a bank (R356, R358, R366). -/
def drainedAll (s : State) : Bool :=
  s.net.all (hopBlocked s) && (s.cores.all fun c => c.2.ni.isEmpty) && s.modul.repair.isNone

/-- What is still waiting at the end of the drain is refused: requests behind a failed hop, in a waiter table or in backoff. Their threads are stopped
and see no answer (R356, R358). DEDUCED, unsafe (log entry 63). -/
def refuseRest (s : State) : State :=
  (s.cores.map Prod.fst).foldl (fun s c => modCore s c fun x => { x with waiters := x.waiters.filter fun w => w.req.isNone, reqs := [] })
    { s with net := [] }

/-- The regions in the order of the copy: PRIO from 3 to 0, by handle (R356). -/
def planOf (s : State) : List PlanEnt :=
  let all := s.modul.regions.filterMap fun e => e.2.map fun r => PlanEnt.mk e.1 r
  [3, 2, 1, 0].flatMap fun p => all.filter fun e => decide (e.region.prio = p)

/-- The chunks that a budget pays for (R357). -/
def payFor : Nat → List PlanEnt → List (Nat × Nat)
  | _, [] => []
  | b, e :: es =>
    let u := unitsOf e.region.len
    if u ≤ b then ((rangeFrom 0 (chunksOf e.region.len)).map fun i => (e.handle, i)) ++ payFor (b - u) es
    else ((rangeFrom 0 (16 * b)).map fun i => (e.handle, i)) ++ payFor 0 es

/-- After the drain each shadow is in its pool slot, the plan block is written, and the copy spends CAP (R356, R357). -/
def execHoldupCopy (s : State) : Out :=
  if s.modul.hu ≠ .drain ∨ tickOf s < s.modul.huT0 + 60000 ∨ !drainedAll s then .next s
  else
    let s1 := (s.towers.flatMap fun t => t.2.shadows.map Shadow.line).foldl spillShadows (refuseRest s)
    .next (modModul s1 fun m => { m with hu := .copy, plan := payFor (capOf s) (planOf s), flash := m.flash.planned (planOf s) })

/-- Lines of a tier range, read at the SC: none when one is poison (R358). -/
def saveLines : Nat → State → Nat → Option (List Byte)
  | 0, _, _ => some []
  | n + 1, s, line =>
    let x := lineSeen s line
    if x.2 ≠ 0 then none else (saveLines n s (line + 1)).map fun bs => x.1 ++ bs

/-- The bytes of a range at their home; none when a byte cannot be read (R358). -/
def saveBytes (s : State) (pa n : Nat) : Option (List Byte) :=
  match localPlace pa with
  | .tier a => (saveLines ((n + 63) / 64) s (a / 64)).map fun bs => bs.take n
  | .lm cl lc off => match lmAt s cl lc off with
    | .here c o _ => if (firstBad s (lmKey c o) n).isSome then none else some (memBytes s (lmKey c o) n)
    | _ => none
  | .csp cl off => if (firstBad s (cspKey cl off) n).isSome then none else some (memBytes s (cspKey cl off) n)
  | _ => none

/-- The record of chunk `i` of a region (R359). -/
def chunkOf (epoch h i : Nat) (bs : List Byte) : Chunk :=
  let data := padTo 65536 0#8 bs
  let crcP := crc32 data
  ⟨epoch, h, i, data, crcP, crc32 (chunkTrailer epoch h i crcP)⟩

/-- The next chunk is read and written; it stays unwritten when a byte of it cannot be read, or when two flash writes failed (R357, R358). -/
def execSaveChunkWrite (ok : Bool) (s : State) : Out :=
  if s.modul.hu ≠ .copy then .next s
  else match s.modul.plan with
    | [] => .next s
    | (h, i) :: rest =>
      let f := s.modul.flash
      let c : Option Chunk := (f.plan.find? fun e => e.handle = h).bind fun e =>
        (saveBytes s (e.region.start + 65536 * i) (Nat.min 65536 (e.region.len - 65536 * i))).map (chunkOf f.epoch h i)
      .next (modModul s fun m => { m with
        plan := rest, flash := { m.flash with chunks := m.flash.chunks ++ (if ok then c.toList else []) } })

/-- The commit block is written, and the module powers off (R356). -/
def execHoldupCommit (s : State) : Out :=
  if s.modul.hu ≠ .copy ∨ s.modul.plan ≠ [] then .next s
  else .next (modModul s fun m => { m with hu := .committed, off := true, flash := { m.flash with commit := some (m.flash.epoch, m.flash.crc) } })

/-- CAP below the units admitted raises the advisory (R351). -/
def adviseCap (s : State) : State := if capOf s < usedAll s then advise s 6 0 0 else s

/-- Every 2^30 ticks the part measures the usable energy (R350). -/
def execHoldupReserveMeasure (resj : Nat) (s : State) : Out :=
  if tickOf s < s.modul.measAt + 2 ^ 30 then .next s
  else .next (adviseCap (modModul s fun m => { m.setCreg 0x401 (setF (m.creg 0x401) 48 16 resj) with measAt := tickOf s }))

/-! Restore (R360). -/

/-- Writes one chunk back to its recorded address: LM through the present remap table, second-tier lines in plain form. -/
def restoreChunk (s : State) (f : Flash) (c : Chunk) : State :=
  match f.plan.find? fun e => e.handle = c.handle with
  | none => s
  | some e =>
    let pa := e.region.start + 65536 * c.index
    let bs := c.data.take (Nat.min 65536 (e.region.len - 65536 * c.index))
    match localPlace pa with
    | .tier a => (rangeFrom (a / 64) ((bs.length + 63) / 64)).foldl (fun s l => setForm (setBad s (64 * l) 0) l 0) (setBytes s a bs)
    | .lm cl lc off => match lmAt s cl lc off with
      | .here k o _ => clearBad (setBytes s (lmKey k o) bs) (lmKey k o) bs.length
      | _ => s
    | .csp cl off => clearBad (setBytes s (cspKey cl off) bs) (cspKey cl off) bs.length
    | _ => s

/-- Boot copies each written chunk back (R360). -/
def restoreAll (s : State) : State :=
  let f := s.modul.flash
  (f.chunks.filter (chunkGood f)).foldl (fun s c => restoreChunk s f c) s

end Sys2Proof.Machine
end

