-- ==== Sys2Proof/Machine/Units.lean ====
section
/-! DEFINITION. The requests that a unit performs: LM controllers, debug units, the save engine and link ports (R139, R345, R354, R355, R361, R367,
R386). -/

namespace Sys2Proof.Machine

/-- A unit performs a form; none while the form waits there. -/
def unitPerform (s : State) (m : Msg) (f : UnitForm) (vs : List Word) : Option State :=
  match f, m.dst with
  | .lmpwr, .ni core => some (pwrPerform s m core vs)
  | .vbset, .ni core | .vbtest, .ni core => some (vbPerform s m core f vs)
  | .dbghalt, _ | .dbgresume, _ => some (debugPerform s m f vs)
  | .lnkq, _ | .lnkfec, _ | .lnkclaim, _ => lnkPerform s m f vs
  | .msadd, _ | .msdel, _ | .msqry, _ | .hustat, _ => some (savePerform s m f vs)
  | _, _ => some s

/-- A load-and-reply request arrives: a unit performs its form, or a home its access. -/
def execLoadRequest (i : Nat) (s : State) : Out :=
  match arrives s i with
  | none => .next s
  | some m => match m.body with
    | .unitReq f vs => .next ((unitPerform (dropMsg s i) m f vs).getD s)
    | _ => homeLoad i s

end Sys2Proof.Machine
end

