-- ==== Sys2Proof/Machine/CtlRead.lean ====
section
/-! DEFINITION. What a control register reads as (R65, R94, R122, R123, R135, R155, R178 to R180, R202, R206, R244, R266, R308, R326, R336, R348,
R349, R362, R376, R387, R397). A unit is given by its flat key: slot, physical core, cluster, tower, or 0 for the module. -/

namespace Sys2Proof.Machine

/-- A register as a thread, core or other block stores it, with fields that follow the state put over it. -/
def overlay (w : Word) (fs : List (Nat × Nat × Nat)) : Word := fs.foldl (fun w f => setF w f.1 f.2.1 f.2.2) w

/-- Thread registers (R135, R174, R178, R202, R206, R336). -/
def threadReg (s : State) (k n : Nat) : Word :=
  let x := slotAt s k
  if n = 0x000 then statusWord s k
  else if n = 0x001 then x.pc &&& 0x3FFFFFFFFFC#64
  else if n = 0x002 then nw (x.fullBits.toNat)
  else if n = 0x003 then nw (x.pois.toNat)
  else if n = 0x004 then nw (x.pend.toNat + ((rangeFrom 0 4).map fun i => if (x.stream i).on then 2 ^ (32 + i) else 0).sum)
  else if n = 0x007 then
    let c := coreOf k
    nw (ownPkg s % 256 * 2 ^ 48 + towerOf (clusterOf c) * 2 ^ 40 + clusterNo (clusterOf c) * 2 ^ 32 + lcoreOf s c * 2 ^ 24
      + physNo c * 2 ^ 16 + slotNo k)
  else if n = 0x053 ∨ n = 0x057 ∨ n = 0x05B ∨ n = 0x05F then
    let t := x.stream ((n - 0x053) / 4)
    if t.on then setF (x.creg n) 24 24 t.pos else x.creg n
  else x.creg n

/-- STATE of a slot (R308). -/
def SlotSt.code : SlotSt → Nat
  | .ready => 0
  | .parked => 1
  | .waiting => 2
  | .stopped => 3

/-- The journal entry that CORE_PJ_SEL names. -/
def pjSel (c : Core) : Option JEntry := jAt c (bitF (c.creg 0x149) 0 6)

/-- CORE_PJ_ENT (R122). -/
def pjEnt (c : Core) : Word := match pjSel c with
  | none => 0#64
  | some j => nw ((if j.refused then 2 else 1) * 2 ^ 62 + slotNo j.slot * 2 ^ 58 + Nat.min 3 (Nat.log2 j.size) * 2 ^ 56 + j.pa % 2 ^ 56)

/-- A sharer as CORE_DIR_OVF names it (R122). -/
def sharerField (core : Nat) : Nat := towerOf (clusterOf core) * 2 ^ 14 + clusterNo (clusterOf core) * 2 ^ 6 + physNo core

/-- CORE_GANGINFO (R308). -/
def gangInfo (s : State) (core : Nat) : Word :=
  let k := slotOf core (bitF ((coreAt s core).creg 0x185) 0 4)
  match (slotAt s k).gang with
  | none => 0#64
  | some g =>
    let lead : Bool := decide (lcoreOf s core = g.lead)
    let ms := rangeFrom g.lead g.size
    let spl : Bool := match (slotAt s (gangSlot s k g.lead)).gang with
      | some l => l.spl
      | none => g.spl
    let det := (ms.map fun i => match (slotAt s (gangSlot s k i)).gang with
      | some m => if m.lead = g.lead ∧ !m.att then 2 ^ i else 0
      | none => 0).sum
    nw (2 ^ 63 + lead.toNat * 2 ^ 62 + g.att.toNat * 2 ^ 61 + spl.toNat * 2 ^ 60 + g.lead % 32 * 2 ^ 40 + g.size % 64 * 2 ^ 32
      + (if lead then det % 2 ^ 32 else 0))

/-- The slots parked in `semdn` on a semaphore (R308). -/
def semWaiters (s : State) (core n : Nat) : Nat :=
  slotBits s core fun x => decide (x.st = .parked) && decide (x.semw = some n)

/-- Ring registers (R308). -/
def ringReg (c : Core) (i : Nat) : Word :=
  let r := ringAt c (i / 4)
  if i % 4 = 0 then r.desc else if i % 4 = 1 then r.buf
  else if i % 4 = 2 then nw (r.v.toNat * 2 ^ 63 + r.ssz % 65536 * 2 ^ 16 + r.n % 65536)
  else nw (r.tail % 2 ^ 32 * 2 ^ 32 + r.head % 2 ^ 32)

/-- Core registers (R122, R155, R308, R348), without the removal of a record by a read of CORE_DIR_OVF. -/
def coreReg (s : State) (core n : Nat) : Word :=
  let c := coreAt s core
  let w := c.creg n
  if n = 0x100 then nw (lmOnMask s core)
  else if n = 0x104 then overlay w [(0, 5, c.waiters.length)]
  else if n = 0x106 then overlay w [(0, 4, c.hopQ.length)]
  else if n = 0x140 then nw (c.ovfQ.length % 16 * 2 ^ 32 + (c.dir.filter fun e => e.2.isSome).length % 1024)
  else if n = 0x141 then match c.ovfQ with
    | [] => 0#64
    | r :: _ => nw (2 ^ 63 + r.write.toNat * 2 ^ 62 + sharerField r.sharer * 2 ^ 45 + r.line % 2 ^ 13 * 2 ^ 32)
  else if n = 0x142 then overlay w [(62, 2, 0), (0, 1, (!c.dirBusy.isEmpty || !c.dirRelease.isEmpty).toNat)]
  else if n = 0x148 then
    let js := c.journal.filterMap Prod.snd
    nw ((js.filter JEntry.refused).length * 2 ^ 32 + js.length)
  else if n = 0x149 then overlay w [(63, 1, match pjSel c with
    | some j => (decide (j.size = 16)).toNat
    | none => 0)]
  else if n = 0x14A then pjEnt c
  else if n = 0x14B then match pjSel c with
    | some j => leWord (j.data.take 8)
    | none => 0#64
  else if n = 0x14C then 0#64
  else if n = 0x14D then match pjSel c with
    | some j => if j.size = 16 then leWord (j.data.drop 8) else 0#64
    | none => 0#64
  else if 0x150 ≤ n ∧ n ≤ 0x15F then
    let d := dictAt c (n - 0x150)
    nw (d.words.length % 128 * 2 ^ 17 + d.v.toNat * 2 ^ 16 + d.tag % 65536)
  else if n = 0x161 then overlay w [(16, 7, c.amHeld.length)]
  else if n = 0x182 then nw (((rangeFrom 0 16).map fun i => (slotAt s (slotOf core i)).st.code * 16 ^ i).sum)
  else if n = 0x183 then nw (match c.pin with
    | some k => 16 + slotNo k
    | none => 0)
  else if n = 0x184 then nw (slotBits s core Slot.tok)
  else if n = 0x186 then gangInfo s core
  else if 0x190 ≤ n ∧ n ≤ 0x19F then overlay w [(16, 16, semWaiters s core (n - 0x190))]
  else if 0x1A0 ≤ n ∧ n ≤ 0x1BF then ringReg c (n - 0x1A0)
  else if n = 0x1C1 then overlay w [(0, 5, c.evq.length)]
  else if n = 0x1C2 then overlay w [(48, 16, slotBits s core Slot.dbgs), (32, 16, slotBits s core Slot.brks), (16, 16, slotBits s core Slot.hlts)]
  else if n = 0x1C4 then dbgRead s core
  else if n = 0x1C9 then
    overlay w [(63, 1, (decide (c.gst = 1)).toNat), (62, 1, (decide (c.gst = 4)).toNat), (59, 3, c.gst), (32, 16, c.saved)]
  else w

/-- CL_TILE_ENT and CL_TILE_CNT (R179). -/
def tileReg (c : Cluster) (n : Nat) : Word :=
  let t := tileAt c (bitF (c.creg 0x201) 0 6)
  if n = 0x202 then
    nw (t.v.toNat * 2 ^ 63 + t.st % 4 * 2 ^ 61 + t.ph.toNat * 2 ^ 60 + t.ovr.toNat * 2 ^ 59 + t.rd % 8 * 2 ^ 56 + t.size / 64 % 65536 * 2 ^ 22
      + t.off / 64 % 32768)
  else nw (t.exp % 2 ^ 32 * 2 ^ 32 + t.left % 2 ^ 32)

/-- A register that the clusters of one site share; a cluster without a site keeps its own copy (R241, R242). -/
def siteReg (s : State) (cl n : Nat) : Word := match siteOf s cl with
  | some k => (siteAt s k).creg n
  | none => (clusterAt s cl).creg n
/-- DESIGN CHOICE, unsafe (log entry 39). -/
def siteGet (s : State) (cl : Nat) (f : Site → Nat) : Nat := match siteOf s cl with
  | some k => f (siteAt s k)
  | none => 0

/-- The launch that CL_DSP_SEL names (R326). -/
def dspSel (c : Cluster) : Option DLaunch := SMap.get (fun _ => none) c.dsp (bitF (c.creg 0x242) 0 3)

/-- CL_OMU_STAT (R244). -/
def omuStat (s : State) (cl : Nat) : Word :=
  let c := clusterAt s cl
  nw (omuState s cl * 2 ^ 36 + c.act.toNat * 2 ^ 35 + c.settle.toNat * 2 ^ 34 + (match c.own with
    | some k => 2 ^ 32 + lcoreOf s (coreOf k) % 64 * 2 ^ 20 + slotNo k * 2 ^ 16
    | none => 0))

/-- The CEBC of a bank, 0 when it is not valid. -/
def bankCebc : Option PhaseBank → Nat
  | some b => b.cebc % 256
  | none => 0

/-- Cluster registers (R65, R179, R244, R266, R326). -/
def clusterReg (s : State) (cl n : Nat) : Word :=
  let c := clusterAt s cl
  let w := c.creg n
  if n = 0x202 ∨ n = 0x203 then tileReg c n
  else if n = 0x204 then nw (((rangeFrom 0 64).map fun i => if (tileAt c i).ovr then 2 ^ i else 0).sum)
  else if n = 0x240 then overlay w [(4, 4, c.inq.length), (0, 4, c.active.length)]
  else if n = 0x243 then match dspSel c with
    | some l => nw (2 ^ 63 + l.prio % 4 * 2 ^ 61 + effPrio s cl l % 4 * 2 ^ 59 + l.lid % 2 ^ 32)
    | none => 0#64
  else if n = 0x244 then match dspSel c with
    | some l => nw l.left.length
    | none => 0#64
  else if n = 0x245 then overlay w [(18, 1, c.thr.toNat), (17, 1, c.hold.toNat), (0, 16, c.temp)]
  else if n = 0x251 then overlay w [(32, 4, c.tlbq.length)]
  else if n = 0x280 then omuStat s cl
  else if n = 0x281 then omuBind s cl
  else if n = 0x282 then
    nw (c.passEbc % 256 * 2 ^ 32 + bankCebc c.bankB * 2 ^ 24 + bankCebc c.bankA * 2 ^ 16 + c.probeEbc % 256 * 2 ^ 8 + c.liveEbc % 256)
  else if n = 0x283 then overlay (siteReg s cl n) [(24, 8, siteGet s cl Site.tmax)]
  else if n = 0x284 then overlay (siteReg s cl n) [(8, 5, siteGet s cl Site.worstj), (0, 5, siteGet s cl Site.nextk)]
  else if n = 0x285 then overlay (siteReg s cl n) [(0, 16, siteGet s cl Site.temp)]
  else if (0x286 ≤ n ∧ n ≤ 0x288) ∨ (0x290 ≤ n ∧ n ≤ 0x29F) then siteReg s cl n
  else if n = 0x2A0 then overlay w [(16, 1, (c.dce.any DceCmd.running).toNat)]
  else if n = 0x2C3 then
    overlay w [(6, 1, c.bankB.isSome.toNat), (5, 1, c.bankA.isSome.toNat),
      (4, 1, ((openCmds c.mxq).any MxCmd.started).toNat), (0, 4, (openCmds c.mxq).length)]
  else if n = 0x2C8 then overlay w [(30, 1, (grpV c && groupPaused s cl).toNat)]
  else w

/-- The live tags of a domain that monitor `i` has met since it was enabled (R94). -/
def domTags (w : Tower) (i dom : Nat) : List Tag :=
  w.tags.filterMap fun e => e.2.bind fun g => if g.dom = dom ∧ g.seen.testBit i then some g else none

/-- Data entries that such a tag uses. -/
def domEntries (w : Tower) (i dom : Nat) : List Nat := ((domTags w i dom).map Tag.ptr).eraseDups

/-- Tower registers (R94, R123, R180, R326, R349). -/
def towerReg (s : State) (t n : Nat) : Word :=
  let w := towerAt s t
  let r := w.creg n
  if n = 0x301 then nw ((w.tags.filter fun e => e.2.isSome).length % 2 ^ 25 * 2 ^ 32 + (w.entries.filter fun e => decide (0 < e.2.cnt)).length % 2 ^ 24)
  else if n = 0x302 then nw ((w.shadows.filter fun h => h.ptr.isSome).length % 2 ^ 25)
  else if n = 0x309 ∨ n = 0x30B ∨ n = 0x30D ∨ n = 0x30F then
    let sel := w.creg (n - 1)
    let i := (n - 0x309) / 2
    if !bitB sel 8 then 0#64
    else nw ((domTags w i (bitF sel 0 8)).length % 2 ^ 25 * 2 ^ 32 + (domEntries w i (bitF sel 0 8)).length % 2 ^ 24)
  else if 0x360 ≤ n ∧ n ≤ 0x36F then overlay r [(12, 1, (rangePend w (n - 0x360)).toNat)]
  else if n = 0x372 then overlay r [(0, 32, w.shadows.length)]
  else if n = 0x392 then overlay r [(0, 32, w.fall.length)]
  else if n = 0x3C0 then overlay r [(4, 1, (w.cle.any ColCmd.running).toNat), (0, 4, w.cle.length)]
  else if n = 0x3D2 then overlay r [(0, 7, w.holdq.length)]
  else r

/-- Module registers (R362, R376, R387, R397). -/
def modReg (s : State) (n : Nat) : Word :=
  let m := s.modul
  let w := m.creg n
  if n = 0x400 then overlay w [(0, 1, (huRuns s).toNat)]
  else if n = 0x401 then overlay w [(16, 14, usedAll s), (0, 14, capOf s)]
  else if n = 0x403 then
    let a := bitF (m.creg 0x402) 0 12
    nw (usedBy s a % 2 ^ 14 * 2 ^ 32 + quotaOf s a % 2 ^ 14)
  else if n = 0x404 then nw m.flash.last
  else if n = 0x442 then match relCluster s with
    | some cl => nw (SMap.get (fun _ => 0) m.relCore cl)
    | none => 0#64
  else if 0x443 ≤ n ∧ n ≤ 0x445 then nw (SMap.get (fun _ => 0) m.relOmu (relTower s) / 2 ^ (64 * (n - 0x443)))
  else if n = 0x446 then overlay w [(63, 1, m.repair.isSome.toNat)]
  else if n = 0x447 then overlay w [(63, 1, m.repair.isSome.toNat)]
  else if 0x490 ≤ n ∧ n ≤ 0x49F then linkStat s (n - 0x490)
  else if 0x4A0 ≤ n ∧ n ≤ 0x4AF then linkClaim s (n - 0x4A0)
  else if n = 0x4B1 then SMap.get (fun _ => 0#64) m.routes (bitF (m.creg 0x4B0) 0 8)
  else w

/-- The unit of a register number for a slot (R337). -/
def ownUnit (k n : Nat) : Nat :=
  if n < 0x100 then k else if n < 0x200 then coreOf k else if n < 0x300 then clusterOf (coreOf k) else if n < 0x400 then towerOf (clusterOf (coreOf k))
  else 0

/-- The unit that a control-window block names, and back (R338). -/
def unitOfBlk (s : State) (b n : Nat) : Nat := if n < 0x100 then blkSlot s b else if n < 0x200 then blkCore s b else b
def blkOfUnit (s : State) (u n : Nat) : Nat := if n < 0x100 then slotBlk s u else if n < 0x200 then coreBlk s u else u

/-- What register `n` of a unit reads as. DESIGN CHOICE, unsafe (log entry 73). -/
def readReg (s : State) (u n : Nat) : Word :=
  if n < 0x100 then threadReg s u n
  else if n < 0x200 then coreReg s u n
  else if n < 0x300 then clusterReg s u n
  else if n < 0x400 then towerReg s u n
  else modReg s n

/-- A read of CORE_DIR_OVF removes the record that it returns (R122). -/
def afterRead (s : State) (u n : Nat) : State :=
  if n = 0x141 then popOvf s u else s

end Sys2Proof.Machine
end

