-- ==== Sys2Proof/Machine/GangSwitch.lean ====
section
/-! DEFINITION. The gang switch: arming, the stop, the records, the fallout area and the restore (R340 to R344). -/

namespace Sys2Proof.Machine

/-- The address of the record of slot `n` of a core (R342). -/
def recPa (s : State) (core n : Nat) : Nat := 65536 * bitF ((coreAt s core).creg 0x1CA) 16 40 + 4096 * n

/-- The slots of a mask. -/
def maskSlots (core mask : Nat) : List Nat := ((rangeFrom 0 16).filter fun n => mask.testBit n).map (slotOf core)

/-- CTL.ASID. -/
def gswAsid (s : State) (core : Nat) : Nat := bitF ((coreAt s core).creg 0x1C9) 0 12

/-! Stopping and draining (R340, R341). -/

/-- Withdraws the synchronising requests of a slot (R341): one in backoff without a message. -/
def withdrawAll (s : State) (core k : Nat) : State :=
  ((slotReqs (coreAt s core) k).filter fun e => decide (e.2.kind = .sync)).foldl (fun s e =>
    if e.2.due.isSome then withdrawReq s core e.1
    else niPost (modCore s core fun c => setReq c e.1 (some { e.2 with withdrawn := true })) core
      ⟨.ni core, e.2.msg.dst, e.1, k, e.2.msg.ph, .withdraw (e.2.sync.getD .ldfe) (reqName e.2)⟩) s

/-- A slot of the switched set (R340). -/
def inSwitch (s : State) (core n : Nat) : Bool :=
  let x := slotAt s (slotOf core n)
  decide (x.asid = gswAsid s core) &&
    (decide (x.st = .ready) || decide (x.st = .parked) || (decide (x.st = .stopped) && (x.dbgs || x.brks) && !x.sws))

/-- An armed core's switch begins in this cycle: a lap boundary at which the time base has reached TIME, before the cycle's turns (R340). -/
def switchDue (s : State) (core : Nat) : Bool :=
  decide ((coreAt s core).gst = 1) && decide (clusterCycle s (clusterOf core) % 16 = 0) && decide (((coreAt s core).creg 0x1C8).toNat ≤ tickOf s)
    && decide (s.turnsTo ≤ s.time)

/-- The first core whose switch begins now. -/
def dueSwitch (s : State) : Option Nat := (s.cores.map Prod.fst).find? (switchDue s)

/-- At TIME and a lap boundary the job's slots give up their turns, and the core diverts (R340, R343). -/
def execGangSwitchBegin (core : Nat) (s : State) : Out :=
  if !switchDue s core then .next s
  else
    let mask := ((rangeFrom 0 16).map fun n => if inSwitch s core n then 2 ^ n else 0).sum
    let s1 := modCore s core fun c => { c with gst := 2, gset := mask, divert := true }
    .next ((maskSlots core mask).foldl (fun s k => withdrawAll (modSlot s k fun x => { x with st := .stopped, sws := true }) core k) s1)

/-- A slot of the set is drained (R341), and both its barriers are empty (R275). -/
def slotDrained (s : State) (core k : Nat) : Bool :=
  let c := coreAt s core
  let x := slotAt s k
  (slotReqs c k).isEmpty && !c.reqs.any (fun e => match e.2 with
      | some r => r.waits.any fun w => decide (w.1 = k)
      | none => false)
    && !(slotJ c k).any (fun j => !j.refused) && x.cmds.isEmpty && (!ownsOmu s k || (openCmds (clusterAt s (clusterOf core)).mxq).isEmpty)
    && !x.pushesOut && !barsHold c x.barS && !x.barEHolds && c.ni.isEmpty && x.baton.isNone && decide ((x.trip.map Trip.need).getD 0 = 0)

/-! Records (R342). -/

/-- Leaves stream mode as `strmoff` does with a = 0: the FIFO is discarded and g(24 + i) takes POS (R173, R341). -/
def Slot.dropStreams (x : Slot) : Slot :=
  (rangeFrom 0 4).foldl (fun x i =>
    let t := x.stream i
    if t.on then (x.leaveStream i).setReg (24 + i) (nw t.pos) else x) x

/-- A request record of 24 bytes, or zeros. -/
def reqBytes : Option ReqRec → List Byte
  | none => List.replicate 24 0#8
  | some r => natLE 8 (2 ^ 63 + r.kind % 8 * 2 ^ 59 + r.reg % 32 * 2 ^ 52) ++ natLE 8 r.pa ++ wordLE 8 r.data

/-- The request record at byte `at_` of a switch record. -/
def bytesReq (bs : List Byte) (at_ : Nat) : Option ReqRec :=
  let w := leWord ((bs.drop at_).take 8)
  if bitB w 63 then some ⟨bitF w 59 3, bitF w 52 5, leNat ((bs.drop (at_ + 8)).take 8), leWord ((bs.drop (at_ + 16)).take 8)⟩ else none

/-- The 2,560 bytes of a slot's record; `strm` is the mask of its stream registers. -/
def recordBytes (s : State) (k strm : Nat) : List Byte :=
  let x := slotAt s k
  let flags := 1 + 2 * (ownsVe s k).toNat + 4 * (ownsOmu s k).toNat + 8 * x.hnd.isSome.toNat + 16 * (x.dbgs || x.brks).toNat
  let gang : Nat := match x.gang with
    | none => 0
    | some g => 1 + 2 * g.att.toNat + 4 * g.spl.toNat + 8 * (g.lead % 32) + 256 * (g.size % 64)
  (ctxBytes s k x.pc).take 404 ++ natLE 1 flags ++ natLE 1 strm ++ natLE 2 gang ++ natLE 1 (x.hnd.getD 0) ++ natLE 7 0
    ++ ((rangeFrom 0 4).flatMap fun i => reqBytes x.recs[i]?)
    ++ ((rangeFrom 0 256).flatMap fun n => wordLE 8 (if assignedReg n then threadReg s k n else 0#64))

/-- Writes `n` lines at their homes, as an engine write of the core or the tower (R342, R343); none while a line must wait. -/
def writeLines (n : Nat) (s : State) (pa : Nat) (bs : List Byte) : Option State :=
  (rangeFrom 0 n).foldl (fun o i => o.bind fun s => match homeWrite s (pa + 64 * i) ((bs.drop (64 * i)).take 64) Acc.direct none with
    | .ok s _ | .poison s _ _ | .deny s _ => some s
    | .wait _ => none) (some s)

/-- A drained slot is written out, and gives up its pin, its ownership and its gang (R341, R342). -/
def saveSlot (s : State) (k : Nat) : Option State :=
  let strm := ((rangeFrom 0 4).map fun i => if ((slotAt s k).stream i).on then 2 ^ i else 0).sum
  let s1 := modSlot s k Slot.dropStreams
  let pa := recPa s1 (coreOf k) (slotNo k)
  (writeLines 40 s1 pa (recordBytes s1 k strm)).map fun s2 =>
  let x := slotAt s2 k
  let s3 := modModul s2 fun m => { m with gout := SMap.set (fun _ => none) m.gout pa (some ⟨coreOf k, x.unit, x.trip, x.traps⟩) }
  let s4 := modCore s3 (coreOf k) fun c => { c with pin := if c.pin = some k then none else c.pin }
  let s5 := modCluster s4 (clusterOf (coreOf k)) fun c => { c with own := if c.own = some k then none else c.own }
  modSlot s5 k fun x => { x.dropIssue with
    gang := none, solo := false, hnd := none, unit := none, cancel := none, recs := [], skip := 0, dbgs := false, brks := false, traps := [],
    st := .stopped }

/-- Once every slot of the set is drained its record is written, and the switch is saved (R342). A slot whose thread left by a baton pass has
no record. -/
def execGangSwitchSaved (core : Nat) (s : State) : Out :=
  let c := coreAt s core
  if c.gst ≠ 2 ∨ !(maskSlots core c.gset).all (slotDrained s core) then .next s
  else
    let gone := (maskSlots core c.gset).filter fun k => decide ((slotAt s k).st = .waiting)
    let out := (maskSlots core c.gset).filter fun k => decide ((slotAt s k).st ≠ .waiting)
    let s1 := gone.foldl (fun s k => modSlot s k fun x => { x with sws := false }) s
    match out.foldl (fun o k => o.bind fun s => saveSlot s k) (some s1) with
    | none => .next s
    | some s2 => .next (modCore s2 core fun c => { c with gst := 3, saved := (out.map fun k => 2 ^ slotNo k).sum, gset := 0 })

/-! The fallout area (R343). -/

/-- The lowest fallout slot of a tower that is free (R343). -/
def freeFall (w : Tower) : Option Nat := (rangeFrom 0 (w.fall.length + 1)).find? fun n => !(w.fall.map Prod.fst).contains n

/-- A message fills a fallout slot of 512 bytes in memory; their layout is left open (R343). DESIGN CHOICE, unsafe (log entry 109). -/
def fillFall (s : State) (t n : Nat) : Option State :=
  let (i, s1) := takeFree s
  writeLines 8 s1 (65536 * bitF ((towerAt s t).creg 0x390) 16 40 + 512 * n) (natLE 512 (Config.freeNat i))

/-- A message for a switched core moves to its tower's fallout area, while a slot of it is free (R343). -/
def execFalloutDivert (i : Nat) (s : State) : Out :=
  match arrives s i with
  | none => .next s
  | some m =>
    let kind : Bool := match m.body with
      | .activeMsg _ _ _ _ _ _ | .baton _ _ => true
      | _ => false
    match m.dst with
    | .ni core =>
      let t := towerOf (clusterOf core)
      let w := towerAt s t
      if !kind ∨ !(coreAt s core).divert ∨ bitF (w.creg 0x391) 0 32 ≤ w.fall.length then .next s
      else match (freeFall w).bind fun n => (fillFall (dropMsg s i) t n).map fun u => (n, u) with
        | none => .next s
        | some (n, u) =>
          .next (modTower u t fun w => { w.setCreg 0x392 (addF (w.creg 0x392) 32 32 1) with fall := w.fall ++ [(n, m)] })
    | _ => .next s

/-! Restore (R344). -/

/-- What reading a record gives: its bytes, the wait for a line of it, or a line that cannot be read. -/
inductive RecRead where
  | bytes (bs : List Byte)
  | wait
  | bad
deriving DecidableEq, Repr

/-- Reads a record line by line. -/
def readRec (s : State) (pa : Nat) : State × RecRead :=
  (rangeFrom 0 40).foldl (fun r i => match r.2 with
    | .wait | .bad => r
    | .bytes bs => match homeRead r.1 (pa + 64 * i) 64 Acc.direct with
      | .ok s1 l => (s1, .bytes (bs ++ l))
      | .poison s1 _ _ | .deny s1 _ => (s1, .bad)
      | .wait s1 => (s1, .wait)) (s, .bytes [])

/-- Fields of byte 404. -/
def recFlag (bs : List Byte) (i : Nat) : Bool := (leNat ((bs.drop 404).take 1)).testBit i

/-- The bits of a thread register that a restore writes: its fields. -/
def threadBits (n : Nat) : Word :=
  if n = 0x04A ∨ n = 0x04B ∨ n = 0x04C ∨ n = 0x074 ∨ n = 0x075 then 0xFFFFFFFFFFFFFFFF#64
  else if n = 0x014 then 0xFFFF00FF#64
  else if n = 0x053 ∨ n = 0x057 ∨ n = 0x05B ∨ n = 0x05F then 0xFFFFFFFFFFFFF#64
  else if n = 0x0D0 then 0xFFFFFFFF000000FF#64
  else if n < 5 ∨ n = 7 then 0#64
  else regMask n

/-- The slot waits for work or is stopped by a switch (R344, step 1). -/
def slotIdle (s : State) (k : Nat) : Bool :=
  let x := slotAt s k
  decide (x.st = .waiting) || (decide (x.st = .stopped) && x.sws && !x.restore)

/-- The pin and the ownership that a record asks for are free (R344, step 4). -/
def unitsFree (s : State) (k : Nat) (bs : List Byte) : Bool :=
  (!recFlag bs 1 || decide ((coreAt s (coreOf k)).pin = none) || ownsVe s k)
    && (!recFlag bs 2 || decide ((clusterAt s (clusterOf (coreOf k))).own = none) || ownsOmu s k)

/-- The gang of a record. -/
def recGang (bs : List Byte) : Option Gang :=
  let g := leNat ((bs.drop 406).take 2)
  if g.testBit 0 then some ⟨g / 8 % 32, g / 256 % 64, g.testBit 1, g.testBit 2, false⟩ else none

/-- Loads a slot from its record (R344): registers, streams, pin, ownership, gang and request records. -/
def loadSlot (s : State) (k : Nat) (bs : List Byte) : State :=
  let core := coreOf k
  let pa := recPa s core (slotNo k)
  let (tid, s0) := takeFresh s
  let out := SMap.get (fun _ => none) s0.modul.gout pa
  let s1 := modModul s0 fun m => { m with gout := SMap.set (fun _ => none) m.gout pa none }
  let s2 := modSlot s1 k fun x =>
    let y := ((rangeFrom 0 256).filter assignedReg).foldl
      (fun x n => x.setCreg n (leWord ((bs.drop (512 + 8 * n)).take 8) &&& threadBits n)) x
    { (y.loadCtx bs).dropIssue with
      st := .stopped, sws := true, restore := true, dbgs := recFlag bs 4, brks := false, hlts := false, cancel := none,
      hnd := if recFlag bs 3 then some (leNat ((bs.drop 408).take 1) % 64) else none,
      gang := recGang bs, solo := false, strs := [], skip := 0, barS := [], barE := [], cmds := [],
      recs := (rangeFrom 0 4).filterMap fun i => bytesReq bs (416 + 24 * i),
      unit := out.bind GOut.unit, trip := out.bind GOut.trip, tid := tid,
      traps := (out.map GOut.traps).getD (if y.intrap then [bitF (y.creg 0x081) 0 7] else []) }
  let s3 := (rangeFrom 0 4).foldl (fun s i =>
    let ds := (rangeFrom 0 4).map fun w => (slotAt s k).creg (0x50 + 4 * i + w)
    if (leNat ((bs.drop 405).take 1)).testBit i ∧ sdOk ds then
      let (id, s1) := takeFresh s
      modSlot s1 k fun x => x.enterStream i id (issuerOf s k) ds
    else s) s2
  let s4 := if recFlag bs 1 then modCore s3 core fun c => { c with pin := some k } else s3
  if recFlag bs 2 then modCluster s4 (clusterOf core) fun c => { c with own := some k } else s4

/-- A record with HND = 1 that another core wrote, or whose ring slot is free (R344). DEDUCED, unsafe (log entry 65). -/
def hndLost (s : State) (core n : Nat) (bs : List Byte) : Bool :=
  recFlag bs 3 && !(((SMap.get (fun _ => none) s.modul.gout (recPa s core n)).any fun g => decide (g.core = core))
    && (coreAt s core).amHeld.any fun h => decide (h.1 = leNat ((bs.drop 408).take 1) % 64))

/-- RST is taken: each slot with a valid record is to be restored (R344). -/
def startRestore (s : State) (core : Nat) : State := modCore s core fun c => { c with gst := 4, gset := 65535, divert := true }

/-- A slot whose handler is lost stays stopped, and 0x0C is raised (R344). -/
def loseSlot (s : State) (core n : Nat) : State :=
  raiseEvent (modSlot s (slotOf core n) fun x => { x with st := .stopped, dbgs := true, sws := false }) core 0x0C (nw (n * 2 ^ 48))

/-- Loads a slot that the restore has still to do, when it can be loaded now; one without a valid record has nothing to load (R344). -/
def loadNow (core : Nat) (s : State) (k : Nat) : State :=
  let done (s : State) : State := modCore s core fun c => { c with gset := c.gset - 2 ^ slotNo k }
  match readRec s (recPa s core (slotNo k)) with
  | (s, .wait) => s
  | (s, .bad) => done s
  | (s, .bytes bs) =>
    if !recFlag bs 0 then done s
    else if !slotIdle s k then s
    else if hndLost s core (slotNo k) bs then done (loseSlot s core (slotNo k))
    else if unitsFree s k bs then done (loadSlot s k bs)
    else s

/-- Loads the slots that can be loaded now. -/
def loadSlots (s : State) (core : Nat) : State := (maskSlots core (coreAt s core).gset).foldl (loadNow core) s

/-- Every member of a restored slot's gang is restored (R344). -/
def gangBack (s : State) (k : Nat) : Bool := match (slotAt s k).gang with
  | none => true
  | some g => (gangSlots s k g.lead g.size).all fun m => ofGang s g.lead m

/-- The form of a request record. -/
def recForm (kind : Nat) : SyncForm :=
  if kind = 0 then .ldfe else if kind = 1 then .ldff else if kind = 2 then .fget else if kind = 3 then .stef else if kind = 4 then .lvlwait else .phwait

/-- Sends the request records of a slot again (R344). -/
def resendRecs (k : Nat) (s : Option State) (r : ReqRec) : Option State := s.bind fun s =>
  let x := slotAt s k
  if r.kind < 4 then
    sendRequest s k r.reg 8 false .sync (some (recForm r.kind)) (homeAgent s (coreOf k) r.pa)
      (.syncReq (recForm r.kind) r.pa r.data (Acc.plain x.asid r.pa))
  else
    sendRequest s k r.reg 8 false .sync (some (recForm r.kind)) (lvlAgent s (slotTower k) r.pa)
      (.levelWait (recForm r.kind) r.pa (decide (x.mode = .user)) x.asid)

/-- The router delivers one fallout message to its core (R344). -/
def deliverFall (core : Nat) (s : State) (m : Msg) : State :=
  let s1 := touchPhase s m.ph
  match m.body with
  | .baton _ _ => batonDispatch s1 m core
  | _ => amDispatch s1 m core

/-- The restore is complete: requests are sent again, the fallout messages are delivered, and the slots go on (R344). -/
def finishRestore (s : State) (core : Nat) : State :=
  let ks := (maskSlots core 65535).filter fun k => (slotAt s k).restore
  if (coreAt s core).gset ≠ 0 ∨ !ks.all (gangBack s) then s
  else match ks.foldl (fun o k => (slotAt s k).recs.foldl (resendRecs k) o) (some s) with
    | none => s
    | some s1 =>
      let t := towerOf (clusterOf core)
      let s2 := modCore s1 core fun c => { c with gst := 0, divert := false }
      let mine (m : Msg) : Bool := decide (m.dst = .ni core)
      let ms := ((towerAt s2 t).fall.map Prod.snd).filter mine
      let s3 := ms.foldl (deliverFall core) (modTower s2 t fun w => { w with fall := w.fall.filter fun e => !mine e.2 })
      ks.foldl (fun s k => modSlot (tellMoved s k) k fun x => { x with
        restore := false, sws := false, recs := [], st := if x.dbgs then .stopped else .ready,
        solo := x.intrap && (match x.gang with
          | some g => decide (lcoreOf s core = g.lead)
          | none => false) }) s3

/-- A write to CORE_GSW_CTL (R348): ARM and RST are taken only in states 0 and 3; ARM comes first when both are written.
DEDUCED, unsafe (log entry 65). -/
def gswWrite (s : State) (core : Nat) (v : Word) : State :=
  let c := coreAt s core
  if (bitB v 63 ∨ bitB v 62) ∧ c.gst ≠ 0 ∧ c.gst ≠ 3 then s
  else
    let s1 := setCore s core (c.setCreg 0x1C9 (regMerge 0x1C9 (c.creg 0x1C9) v &&& 0xFFF#64))
    if bitB v 63 then modCore s1 core fun c => { c with gst := 1 }
    else if bitB v 62 then startRestore s1 core
    else s1

/-- ARM written by a store of the control window (R340). -/
def execGswArm (core : Nat) (v : Word) (s : State) : Out :=
  .next (onCtlStore s (coreBlk s core) 0x1C9 (fun w => decide (w = v) && bitB v 63) fun s v => gswWrite s core v)

/-- RST written by a store of the control window starts a restore; a restore that runs loads what it can and then completes (R344). -/
def execGswRestore (core : Nat) (v : Word) (s : State) : Out :=
  if (coreAt s core).gst = 4 then .next (finishRestore (loadSlots s core) core)
  else .next (onCtlStore s (coreBlk s core) 0x1C9 (fun w => decide (w = v) && bitB v 62 && !bitB v 63) fun s v => gswWrite s core v)

end Sys2Proof.Machine
end

