-- ==== Sys2Proof/Machine/CtlRegs.lean ====
section
/-! DEFINITION. Writing control registers: `cget`, `cput`, the control window, and the registers whose writes act (R7, R337 to R339). Every way to
write a register runs the one function `writeReg`. -/

namespace Sys2Proof.Machine

/-! Thread registers. -/

/-- A bit-stream BASE value that is ignored (R202): V with LEN 0, or with OFF + LEN beyond the LM. -/
def baseBad (v : Word) : Bool := bitB v 63 && (decide (bitF v 20 20 = 0) || decide (524288 < bitF v 0 19 + bitF v 20 20))

/-- Writes a thread register (R135, R178, R202, R206, R336): a BASE sets its channel's POS to 0, and a CUR above 8 × LEN is ignored. -/
def writeThread (s : State) (k n : Nat) (v : Word) : State :=
  modSlot s k fun x =>
    let w := regMerge n (x.creg n) v
    if n = 0x010 ∨ n = 0x012 then (if baseBad v then x else (x.setCreg n w).setCreg (n + 1) 0#64)
    else if (n = 0x011 ∨ n = 0x013) ∧ 8 * bitF (x.creg (n - 1)) 20 20 < bitF v 0 23 then x
    else x.setCreg n w

/-! Core registers. -/

/-- CORE_LMQMAP (R155): a quarter whose RET goes from 0 to 1 closes as a retired one, with advisory bit 1 when it has no donor (R144, R370, R375). -/
def qmapWrite (s : State) (core : Nat) (v : Word) : State :=
  let old := coreAt s core
  (rangeFrom 0 4).foldl (fun s q =>
      if qRet (coreAt s core) q && !qRet old q then
        let s1 := closeQuarter s core q 0x17
        if qDon (coreAt s core) q then s1 else advise s1 1 (towerOf (clusterOf core)) (clusterNo (clusterOf core))
      else s)
    (modCore s core fun c => c.setCreg 0x101 (regMerge 0x101 (c.creg 0x101) v))

/-- CORE_FERETRY and CORE_HOPCFG: a LIMIT written 0 keeps its value (R155). DEDUCED, unsafe (log entry 44). -/
def limitMerge (n : Nat) (old v : Word) : Word :=
  let w := regMerge n old v
  if bitF v 0 8 = 0 then setF w 0 8 (bitF old 0 8) else w

/-- CORE_FEWT (R144, R155): ARM takes a waiter entry for the word at its home, and DONE tells whether it found one, or disarms the word. -/
def fewtWrite (s : State) (core : Nat) (v : Word) : State :=
  let put (s : State) (done : Bool) : State :=
    modCore s core fun c =>
      let w := regMerge 0x103 (c.creg 0x103) v
      c.setCreg 0x103 (if bitB v 63 then setB w 62 done else w)
  match lmHome s core (8 * bitF v 3 16) with
  | .here h off _ =>
    let s1 := modCore s h fun c => { c with waiters := c.waiters.filter fun w => !(decide (w.off = off) && decide (w.req = none)) }
    if bitB v 63 ∧ (coreAt s1 h).waiters.length < 16 then put (modCore s1 h fun c => { c with waiters := c.waiters ++ [⟨off, none⟩] }) true
    else put s1 false
  | .off | .retired | .wait => put s false

/-- One group of CORE_VBSRq_k after a write (R155): V2 without V1, F2 ≤ F1, and a lane above 65 leave it unchanged. -/
def vbGroup (old v : Word) (j : Nat) (w : Word) : Word :=
  let f := bitF v (16 * j) 16
  let v1 := f.testBit 7
  let v2 := f.testBit 15
  let bad : Bool := (v2 && !v1) || (v2 && decide (f / 256 % 128 ≤ f % 128)) || decide (65 < f % 128) || decide (65 < f / 256 % 128)
  if bad then setF w (16 * j) 16 (bitF old (16 * j) 16) else w

/-- CORE_DIR_CMD (R112, R122): OP 1 invalidates a sharer's copy, OP 2 releases the line. -/
def dirCmdWrite (s : State) (core : Nat) (v : Word) : State :=
  let s1 := modCore s core fun c => c.setCreg 0x142 (setF (regMerge 0x142 (c.creg 0x142) v) 62 2 0)
  let line := bitF v 32 13
  let who := coreIn (clusterIn (bitF v 59 3) (bitF v 51 8)) (bitF v 45 6)
  if bitF v 62 2 = 1 then
    if 159 < bitF v 51 8 ∨ 33 < bitF v 45 6 then s1
    else sendInval core line (modCore s1 core fun c => { c with dirBusy := c.dirBusy ++ [(who, line)] }) who
  else if bitF v 62 2 = 2 then
    dirReleaseStep (modCore s1 core fun c => { c with dirRelease := if c.dirRelease.contains line then c.dirRelease else c.dirRelease ++ [line] }) core
  else s1

/-- CORE_PJ_REL (R122): frees a refused entry and counts it for its slot. -/
def pjRelWrite (s : State) (core : Nat) (v : Word) : State :=
  match jAt (coreAt s core) (bitF v 0 6) with
  | none => s
  | some j =>
    if !j.refused then s
    else modSlot (modCore s core fun c => setJ c (bitF v 0 6) none) j.slot fun x => { x with refc := satAdd 65535 x.refc 1 }

/-- A bit-stream channel that is not bound any more. -/
def Slot.unbindBits (x : Slot) : Slot :=
  (x.setCreg 0x010 (setB (x.creg 0x010) 63 false)).setCreg 0x012 (setB (x.creg 0x012) 63 false)

/-- CORE_XFORM (R196, R286): a change is taken only while slot 15 waits for work; setting it stops the slot with its DBGS bit, clearing it
clears V of the bit-stream channels. -/
def xformSet (s : State) (core : Nat) (v : Word) : State :=
  let k := slotOf core 15
  if bitB v 0 = xformOn s core ∨ (slotAt s k).st ≠ .waiting then s
  else
    let s1 := modCore s core fun c => c.setCreg 0x180 (setB (c.creg 0x180) 0 (bitB v 0))
    modSlot s1 k fun x => if bitB v 0 then { x.stop with dbgs := true } else x.unbindBits

/-- Writes a core register (R122, R155, R308, R348). DESIGN CHOICE, unsafe (log entry 45). -/
def writeCore (s : State) (core n : Nat) (v : Word) : State :=
  let c := coreAt s core
  let old := c.creg n
  let put (w : Word) : State := setCore s core (c.setCreg n w)
  if n = 0x101 then qmapWrite s core v
  else if n = 0x102 ∨ n = 0x105 then put (limitMerge n old v)
  else if n = 0x103 then fewtWrite s core v
  else if 0x120 ≤ n ∧ n ≤ 0x12F then put ((rangeFrom 0 4).foldl (fun w j => vbGroup old v j w) v)
  else if n = 0x142 then dirCmdWrite s core v
  else if n = 0x14C then pjRelWrite s core v
  else if n = 0x161 then (if bitF v 0 7 < c.amHeld.length ∨ 64 < bitF v 0 7 then s else put (regMerge n old v))
  else if n = 0x180 then xformSet s core v
  else if n = 0x184 then (rangeFrom 0 16).foldl (fun s i => if bitB v i then modSlot s (slotOf core i) fun x => { x with tok := false } else s) s
  else if 0x190 ≤ n ∧ n ≤ 0x19F then wakeSem (put (regMerge n old v)) core (n - 0x190)
  else if n = 0x1C4 then dbgWrite s core v
  else if n = 0x1C9 then gswWrite s core v
  else put (regMerge n old v)

/-! Cluster registers. -/

/-- CL_OMU_BIND (R241), with the advisories of sharing and of spare sites when the write takes effect (R375). -/
def bindSet (s : State) (cl : Nat) (v : Word) : State :=
  let s1 := bindWrite s cl v
  if bitB (omuBind s1 cl) 32 then s1
  else adviseSites (if bitB v 30 ∧ bitB v 31 then advise s1 8 (towerOf cl) (clusterNo cl) else s1) (towerOf cl)

/-- Writes a cluster register (R65, R179, R244, R266, R326). -/
def writeCluster (s : State) (cl n : Nat) (v : Word) : State :=
  if n = 0x204 then
    modCluster s cl fun c => (rangeFrom 0 64).foldl (fun c i => if bitB v i then setTile c i { tileAt c i with ovr := false } else c) c
  else if n = 0x281 then bindSet s cl v
  else if (0x283 ≤ n ∧ n ≤ 0x288) ∨ (0x290 ≤ n ∧ n ≤ 0x29F) then siteWrite s cl n v
  else if n = 0x2C7 then groupWrite s cl v
  else modCluster s cl fun c => c.setCreg n (regMerge n (c.creg n) v)

/-! Tower registers. -/

/-- TWR_SNRn_CFG (R80, R94): ASID is kept while V = 1, and clearing V acts as accepts of every level. -/
def rangeCfgWrite (s : State) (t n : Nat) (v : Word) : State :=
  let old := (towerAt s t).creg (0x360 + n)
  if bitB old 31 then
    if bitB v 31 then s else modTower (clearRange s t n) t fun w => w.setCreg (0x360 + n) (setB (w.creg (0x360 + n)) 31 false)
  else modTower s t fun w => w.setCreg (0x360 + n) (regMerge (0x360 + n) old v)

/-- CLEAR < HOLD ≤ MIG ≤ THROT (R326). -/
def thermOrder (v : Word) : Bool :=
  decide (bitF v 0 8 < bitF v 8 8) && decide (bitF v 8 8 ≤ bitF v 16 8) && decide (bitF v 16 8 ≤ bitF v 24 8)

/-- A write to a tower register that its rule ignores (R94, R326, R349). -/
def towerIgnores (w : Tower) (n : Nat) (v : Word) : Bool :=
  if 0x340 ≤ n ∧ n ≤ 0x35F then bitB (w.creg (0x360 + n % 16)) 31
  else if n = 0x370 then decide (w.shadows ≠ [])
  else if n = 0x371 then decide (bitF v 0 32 < w.shadows.length)
  else if n = 0x390 then decide (w.fall ≠ [])
  else if n = 0x391 then decide (bitF v 0 32 < w.fall.length)
  else if n = 0x3D3 then !thermOrder v
  else false

/-- A write to TWR_SC_DMSELn: the monitor counts anew, one that leaves V = 1 included (R94). DESIGN CHOICE, unsafe (log entry 95). -/
def monitorWrite (w : Tower) (n : Nat) (v : Word) : Tower :=
  let i := (n - 0x308) / 2
  { w.setCreg n (regMerge n (w.creg n) v) with
    tags := w.tags.map fun e => (e.1, e.2.map fun g => { g with seen := if g.seen.testBit i then g.seen - 2 ^ i else g.seen }) }

/-- Writes a tower register (R94, R123, R180, R326, R349). -/
def writeTower (s : State) (t n : Nat) (v : Word) : State :=
  if towerIgnores (towerAt s t) n v then s
  else if n = 0x308 ∨ n = 0x30A ∨ n = 0x30C ∨ n = 0x30E then modTower s t fun w => monitorWrite w n v
  else if 0x360 ≤ n ∧ n ≤ 0x36F then rangeCfgWrite s t (n - 0x360) v
  else
    let s1 := modTower s t fun w => w.setCreg n (regMerge n (w.creg n) v)
    if n = 0x3D3 then rethreshold s1 t else s1

/-! Module registers. -/

/-- MOD_HU_QDAT: the quota of the ASID that MOD_HU_QSEL shows (R362). -/
def quotaWrite (s : State) (v : Word) : State :=
  modModul s fun m => { m with quota := SMap.set (fun _ => 0) m.quota (bitF (m.creg 0x402) 0 12) (bitF v 0 14) }

/-- MOD_LNK_RTENT: the route entry that MOD_LNK_RTSEL shows (R387). -/
def routeWrite (s : State) (v : Word) : State :=
  modModul s fun m => { m with routes := SMap.set (fun _ => 0#64) m.routes (bitF (m.creg 0x4B0) 0 8) (v &&& regMask 0x4B1) }

/-- MOD_LNK_LMAP: a value below 48 leaves its field unchanged (R387). -/
def lmapWrite (old v : Word) : Word :=
  (rangeFrom 0 9).foldl (fun w i => if bitF v (6 * i) 6 < 48 then w else setF w (6 * i) 6 (bitF v (6 * i) 6)) old

/-- The host window's address of MOD_ATT_CMD.BUF (R390, R397). -/
def quotePa (s : State) : Nat := 0x40000000000 + bitF (s.modul.creg 0x4C3) 6 36 * 64

/-- The measurement registers that firmware extends on the host's request, as they stand now (R395). DESIGN CHOICE, unsafe (log entry 107). -/
def extendMeas (s : State) : State :=
  [4, 5, 6, 7].foldl (fun s i =>
    let (n, s1) := takeFree s
    modModul s1 fun m => { m with meas := SMap.set (fun _ => 0) m.meas i (Config.freeNat n % 2 ^ 256) }) s

/-- MOD_ATT_CMD: GO asks for a quote, whose nonce is read from the host buffer; one that is under way goes on (R395, R397).
DESIGN CHOICE, unsafe (log entry 107). -/
def attWrite (s : State) (v : Word) : State :=
  let s1 := modModul s fun m => m.setCreg 0x4C3 (regMerge 0x4C3 (m.creg 0x4C3) v)
  if !bitB v 63 ∨ s.modul.quoteDue then s1
  else
    let s2 := modModul (extendMeas s1) fun m => { m.setCreg 0x4C4 0#64 with quoteDue := true }
    sendMsg s2 ⟨modulAgent, .host 0, 0, 0, 0, .loadReq (quotePa s2) 32 Acc.direct⟩

/-- Writes a module register (R362, R376, R387, R397). -/
def writeModul (s : State) (n : Nat) (v : Word) : State :=
  if n = 0x400 then huCtlWrite s v
  else if n = 0x403 then quotaWrite s v
  else if n = 0x442 then coreRetire s v
  else if 0x443 ≤ n ∧ n ≤ 0x445 then siteRetireWrite s n v
  else if n = 0x446 then repairWrite s v
  else if n = 0x448 then (rangeFrom 0 8).foldl adviseSites (modModul s fun m => m.setCreg n (regMerge n (m.creg n) v))
  else if 0x480 ≤ n ∧ n ≤ 0x48F then linkCfgWrite s (n - 0x480) v
  else if n = 0x4B1 then routeWrite s v
  else if n = 0x4B2 then
    if (rangeFrom 0 16).any fun p => decide ((portAt s p).state = 2) then s else modModul s fun m => m.setCreg n (regMerge n (m.creg n) v)
  else if n = 0x4B3 then modModul s fun m => m.setCreg n (lmapWrite (m.creg n) v)
  else if n = 0x4C3 then attWrite s v
  else modModul s fun m => m.setCreg n (regMerge n (m.creg n) v)

/-- Writes register `n` of a unit (R7, R339): what no rule of its own acts on takes the value field by field. -/
def writeReg (s : State) (u n : Nat) (v : Word) : State :=
  if n < 0x100 then writeThread s u n v
  else if n < 0x200 then writeCore s u n v
  else if n < 0x300 then writeCluster s u n v
  else if n < 0x400 then writeTower s u n v
  else writeModul s n v

/-! The two instructions (R339). -/

/-- The block of a register number for the slot that evaluates, as the control window names it. -/
def ownBlk (s : State) (n : Nat) : Nat := blkOfUnit s (ownUnit s.cur n) n

/-- Reads a control register: of the thread or core in the turn, of another block by a round trip to its control agent. -/
def execCget (d : GReg) (n : BitVec 14) (s : State) : Out :=
  .next (withOps s [] (some d) false fun t _ =>
    if n.toNat < 0x200 then
      .done (modSlot (afterRead t (ownUnit s.cur n.toNat) n.toNat) s.cur fun x => x.writeDst d.toNat (readReg s (ownUnit s.cur n.toNat) n.toNat))
    else
      let b := ownBlk t n.toNat
      askOnce t (ctlAgent b n.toNat) (.ctlAccess false b n.toNat 0#64) 8 fun ws => .done (modSlot t t.cur fun x => x.writeDst d.toNat (val ws 0)))

/-- Writes a control register field by field: of the thread or core in the turn, of another block by a round trip to its control agent. -/
def execCput (a : GReg) (t : Bool) (n : BitVec 14) (s : State) : Out :=
  .next (withOps s [a] none false fun s vs =>
    let took (s : State) : State := modSlot s s.cur fun x => x.takeIf t a.toNat
    if n.toNat < 0x200 then .done (writeReg (took s) (ownUnit s.cur n.toNat) n.toNat (val vs 0))
    else
      let b := ownBlk s n.toNat
      askOnce s (ctlAgent b n.toNat) (.ctlPut b n.toNat (val vs 0)) 0 fun _ => .done (took s))

/-! The control window (R338). -/

/-- A control agent performs one access in flight. -/
def ctlPerform (s : State) (i : Nat) (m : Msg) : State := match m.body with
  | .ctlAccess true b n v | .ctlPut b n v => sendMsg (writeReg (dropMsg s i) (unitOfBlk s b n) n v) (replyTo m (ctlWriteAck m.body))
  | .ctlAccess false b n _ =>
    sendMsg (afterRead (dropMsg s i) (unitOfBlk s b n) n) (replyTo m (.loadReply (.value (wordLE 8 (readReg s (unitOfBlk s b n) n)))))
  | _ => s

/-- A load or store of a register arrives at its block's control agent. -/
def execControlWindowAccess (i : Nat) (s : State) : Out :=
  match arrives s i with
  | none => .next s
  | some m => .next (ctlPerform s i m)

/-- The first load of register `n` of a block in flight that may arrive, performed. -/
def windowRead (s : State) (b n : Nat) : State :=
  match (rangeFrom 0 s.net.length).findSome? fun i => match arrives s i with
    | none => none
    | some m => match m.body with
      | .ctlAccess false b' n' _ => if b' = b ∧ n' = n ∧ m.dst = ctlAgent b n then some (i, m) else none
      | _ => none with
  | none => s
  | some (i, m) => ctlPerform s i m

/-- A read of CORE_DIR_OVF by a load of the control window (R122). -/
def execDirOvfRead (core : Nat) (s : State) : Out := .next (windowRead s (coreBlk s core) 0x141)

/-- A store of `v` to register `n` of a unit, performed by its control agent. -/
def windowWrite (s : State) (u n : Nat) (v : Word) (p : Bool) : Out :=
  if p then .next (onCtlStore s (blkOfUnit s u n) n (fun w => decide (w = v)) fun s v => writeReg s u n v) else .next s

/-- OP 1 of CORE_DIR_CMD. -/
def execDirCmdInvalidate (core : Nat) (v : Word) (s : State) : Out := windowWrite s core 0x142 v (bitF v 62 2 = 1)

/-- OP 2 of CORE_DIR_CMD. -/
def execDirCmdRelease (core : Nat) (v : Word) (s : State) : Out := windowWrite s core 0x142 v (bitF v 62 2 = 2)

/-- A write to CORE_PJ_REL. -/
def execPjRelease (core : Nat) (v : Word) (s : State) : Out := windowWrite s core 0x14C v true

/-- ARM written 1 to CORE_FEWT. -/
def execFewtArm (core : Nat) (v : Word) (s : State) : Out := windowWrite s core 0x103 v (bitB v 63)

/-- ARM written 0 to CORE_FEWT. -/
def execFewtDisarm (core : Nat) (v : Word) (s : State) : Out := windowWrite s core 0x103 v (!bitB v 63)

/-- V written 0 to a valid range. -/
def execSnrInvalidate (tower : Nat) (n : Nat) (v : Word) (s : State) : Out :=
  windowWrite s tower (0x360 + n) v (decide (n < 16) && !bitB v 31 && bitB ((towerAt s tower).creg (0x360 + n)) 31)

/-- A write to CL_OMU_BIND. -/
def execOmuBindWrite (cluster : Nat) (v : Word) (s : State) : Out := windowWrite s cluster 0x281 v true

/-- A write to CL_MX_GRP. -/
def execMxGroupWrite (cluster : Nat) (v : Word) (s : State) : Out := windowWrite s cluster 0x2C7 v true

/-- A write to CORE_XFORM. -/
def execXformWrite (core : Nat) (v : Word) (s : State) : Out := windowWrite s core 0x180 v true

/-- A write to a semaphore's count. -/
def execSemCountWrite (core : Nat) (n : Nat) (v : Word) (s : State) : Out := windowWrite s core (0x190 + n) v (n < 16)

/-- A write to THR_VCBMON. -/
def execVcbmonWrite (k : Nat) (v : Word) (s : State) : Out := windowWrite s k 0x077 v true

/-- A write to CL_OMU_PCFG. -/
def execProbePeriodWrite (cluster : Nat) (v : Word) (s : State) : Out := windowWrite s cluster 0x283 v true

/-- A write to a bit-stream BASE register. -/
def execBsBaseWrite (k : Nat) (ch : Bool) (v : Word) (s : State) : Out := windowWrite s k (if ch then 0x012 else 0x010) v true

/-- EN written 0 to a link's configuration. -/
def execLinkEnableWrite (port : Nat) (v : Word) (s : State) : Out := windowWrite s 0 (0x480 + port) v (decide (port < 16) && !bitB v 0)

/-- A load or a store of CORE_DBGDAT. -/
def execDbgContextAccess (core : Nat) (write : Bool) (v : Word) (s : State) : Out :=
  if write then windowWrite s core 0x1C4 v true else .next (windowRead s (coreBlk s core) 0x1C4)

/-- A store to any register. -/
def execRegisterWrite (blk : Nat) (n : Nat) (v : Word) (s : State) : Out := windowWrite s (unitOfBlk s blk n) n v true

end Sys2Proof.Machine
end

