-- ==== Sys2Proof/Machine/Host.lean ====
section
/-! DEFINITION. The host: CXL.mem, the host window, the launch window, boot and quotes (R388 to R397). -/

namespace Sys2Proof.Machine

/-! CXL.mem (R389). -/

/-- Boot has finished, or has failed (R397). -/
def booted (s : State) : Bool := bitB (s.modul.creg 0x4C2) 63
def bootFailed (s : State) : Bool := bitB (s.modul.creg 0x4C2) 62

/-- A CXL.mem request is answered. -/
def hostAnswer (s : State) (c : HostCpl) : State := modModul s fun m => { m with cpls := m.cpls ++ [c] }

/-- The answer to an access performed or refused at a home; an access that waits there has none yet. -/
def HRes.toHost (s : State) : HRes → State
  | .ok t bs => hostAnswer t (.done bs)
  | .poison t _ _ => hostAnswer t .poison
  | .deny t _ => hostAnswer t .abort
  | .wait _ => s

/-- A host store to an LM is performed at its home, whose directory acknowledges it once no sharer keeps the old line (R111, R281). -/
def hostStore (s : State) (m core pa : Nat) (bs : List Byte) : State :=
  match homeWrite s pa bs Acc.direct (some ⟨.ni core, .host m, 0, 0, 0, .storeAck⟩) with
  | .ok t _ => t
  | r => r.toHost s

/-- A host load or store at a device address: untranslated, as a supervisor, lines in dedup domain 0 (R389). A hole, another package, and an access
that the control window does not accept, which is any but one of 8 bytes at a register's address (R338), get an unsupported-request
completion and change nothing; a refusal of the home is a completer abort. -/
def cxlAccess (m : Nat) (write : Bool) (addr : Nat) (data : List Byte) (s : State) : Out :=
  if 1 < m ∨ 2 ^ 42 ≤ addr ∨ data = [] ∨ 64 < addr % 64 + data.length ∨ bootFailed s then .next s
  else
    let access : HRes := if write then homeWrite s addr data Acc.direct none else homeRead s addr data.length Acc.direct
    match placeOf s addr with
    | .ctl b n =>
      let u := unitOfBlk s b n
      if data.length ≠ 8 ∨ addr % 8 ≠ 0 then .next (hostAnswer s .unsupported)
      else if write then .next (hostAnswer (writeReg s u n (leWord data)) (.done []))
      else .next (hostAnswer (afterRead s u n) (.done (wordLE 8 (readReg s u n))))
    | .tier a =>
      if !populated a then .next (hostAnswer s .unsupported)
      else if mustFill s addr then .next (startFill s addr Acc.direct)
      else .next (access.toHost s)
    | .lm cl lc _ => .next (if write then hostStore s m (lcoreKey s cl lc) addr data else access.toHost s)
    | .csp _ _ => .next (access.toHost s)
    | .spread _ _ | .host _ | .remote _ _ | .hole => .next (hostAnswer s .unsupported)

/-- A CXL.mem request names a host physical address, which the HDM decoder turns into a device address (R389). -/
def execCxlMemRequest (m : Nat) (write : Bool) (addr : Nat) (data : List Byte) (s : State) : Out :=
  if addr < Config.hdmBase then .next s else cxlAccess m write (addr - Config.hdmBase) data s

/-! The host window (R390). -/

/-- The poison with which a load that the host refuses ends: the manual does not give it; one of the causes that a reply delivers through
poison (R335). DESIGN CHOICE, safe (log entry 15). -/
def hostCause (n : Nat) : Nat := [0x40, 0x11, 0x16, 0x17, 0x19, 0x30, 0x61].getD (n % 7) 0x40

/-- The host port performs an access of a thread or an engine; the host accepts it, and gives the bytes of a read, or refuses it. -/
def execHostWindowAccess (i : Nat) (accept : Bool) (data : List Byte) (s : State) : Out :=
  match arrives s i with
  | none => .next s
  | some m =>
    let (f, s1) := takeFree (dropMsg s i)
    match m.dst, m.body with
    | .host _, .loadReq pa n _ =>
      .next (sendMsg s1 (replyTo m (.loadReply (if accept then .value (padTo n 0#8 data) else .poison (hostCause (Config.freeNat f)) pa))))
    | .host _, .storeAck => .next (hostAnswer (dropMsg s i) (.done []))
    | .host _, .postedStore _ _ _ _ => .next (sendMsg s1 (replyTo m (if accept then .storeAck else .storeRefusal 3)))
    | .host _, .engRead pa n _ ref _ more =>
      let n := (more.map fun p => p.2.1).foldl (· + ·) n
      .next (sendMsg s1 (replyTo m (
        if accept then .engReadReply ref (.value (padTo n 0#8 data)) else .engReadReply { ref with part := 0 } (.poison 0x40 pa))))
    | .host _, .engWrite _ _ ref _ _ _ =>
      .next (sendMsg s1 (replyTo m (if accept then .engWriteAck ref none else .engWriteAck { ref with part := 0 } (some 0x40))))
    | _, _ => .next s

/-! The launch window (R391). -/

def hslotAt (s : State) (n : Nat) : HSlot := SMap.get (fun _ => HSlot.reset) s.modul.hslots n
def setHslot (s : State) (n : Nat) (h : HSlot) : State :=
  modModul s fun m => { m with hslots := SMap.set (fun _ => HSlot.reset) m.hslots n h }

/-- Bytes that the launch agent reads at a physical address, line by line: the bytes, none where one cannot be read, or a wait. -/
def agentCuts : List (Nat × Nat) → State → List Byte → Option (State × Option (List Byte))
  | [], s, acc => some (s, some acc)
  | (pa, n) :: rest, s, acc =>
    let readable : Bool := match placeOf s pa with
      | .tier a => populated a
      | .lm _ _ _ | .csp _ _ => true
      | .spread _ _ | .ctl _ _ | .host _ | .remote _ _ | .hole => false
    if !readable then some (s, none)
    else match homeRead s pa n Acc.direct with
      | .ok s1 bs => agentCuts rest s1 (acc ++ bs)
      | .poison s1 _ _ | .deny s1 _ => some (s1, none)
      | .wait _ => none
def agentRead (s : State) (pa n : Nat) : Option (State × Option (List Byte)) := agentCuts (lineCuts (n / 64 + 2) pa n) s []

/-- The launch agent answers a slot. -/
def agentAnswer (s : State) (n st : Nat) : State :=
  setHslot s n { hslotAt s n with st := nw (2 ^ 63 + st), busy := false, todo := false }

/-- Statuses 3 and 6 of the issuer, and the request to the home of LID (R314). -/
def agentSend (s : State) (n : Nat) (r args : List Word) (place : Option (List (BitVec 32))) : State :=
  let l : LaunchMsg := ⟨r, args, place, bitF (hslotAt s n).ctl 0 12, 0⟩
  let bad : Bool := match place with
    | none => false
    | some es => decide (luUnits l > luGsz l * bitF (val r 7) 16 16) || es.any fun e => !placeEntryOk e
  if bad then agentAnswer s n 3
  else if (launchAbove r).any (cxlNow s 0) then agentAnswer s n 6
  else sendMsg (setHslot s n { hslotAt s n with todo := false }) ⟨.launchAgent, lvlAgent s 0 (luLid l), n, n, luPh l, .launchReq l (some n)⟩

/-- The launch agent on tower 0 performs a slot's launch as R314 states, with PLACE and ARGP as physical addresses.
DESIGN CHOICE, unsafe (log entry 46). -/
def agentLaunch (s : State) (n : Nat) : State :=
  let s := setHslot s n { hslotAt s n with st := 0#64 }
  let r := padTo 8 0#64 (hslotAt s n).dw
  let zero : List Word := List.replicate 8 0#64
  if launchBad s 0 r then agentAnswer s n 2
  else match (if val r 3 = 0#64 then some (s, some (wordsLE zero)) else agentRead s (val r 3).toNat 64) with
    | none => s
    | some (s1, none) => agentAnswer s1 n 3
    | some (s1, some ab) =>
      if val r 2 = 0#64 then agentSend s1 n r (dwords 8 ab) none
      else if bitF (val r 1) 0 32 > (if bitF (val r 7) 0 16 = 0 then 1 else bitF (val r 7) 0 16) * bitF (val r 7) 16 16 then agentAnswer s1 n 3
      else match agentRead s1 (val r 2).toNat (placeBytes r) with
        | none => s
        | some (s2, none) => agentAnswer s2 n 3
        | some (s2, some pb) => agentSend s2 n r (dwords 8 ab) (some (word32s (placeBytes r / 4) pb))

/-- The 128 bytes that the host reads in a slot (R391). -/
def hslotBytes (h : HSlot) : List Byte := wordsLE (padTo 8 0#64 h.dw) ++ wordLE 8 h.ctl ++ wordLE 8 h.st ++ List.replicate 48 0#8

/-- The agent's next slot: once boot has finished, that of the earliest GO write, of one cycle the lowest slot (R391, R393). -/
def agentNext (s : State) (n : Nat) : Bool :=
  let h := hslotAt s n
  h.todo && booted s && decide (h.at_ < s.time)
    && (rangeFrom 0 64).all fun m => !(hslotAt s m).todo || decide (64 * h.at_ + n ≤ 64 * (hslotAt s m).at_ + m)

/-- An access of the host to a launch slot, or, with neither a record nor GO, the agent's taking of the slot when it is its turn, else a read. A GO
write is ignored and counted while the slot is busy; an empty record leaves REC as it is (R391). DESIGN CHOICE, unsafe (log entry 46). -/
def execLaunchWindowGo (slot : Nat) (record : List Word) (ctl : Word) (s : State) : Out :=
  let h := hslotAt s slot
  let dw := if record = [] then h.dw else padTo 8 0#64 record
  if 63 < slot ∨ bootFailed s then .next s
  else if bitB ctl 63 then
    if h.busy then .next (modModul s fun m => m.setCreg 0x4C1 (addF (m.creg 0x4C1) 0 32 1))
    else .next (setHslot s slot { h with dw := dw, ctl := ctl, busy := true, todo := true, at_ := s.time })
  else if record ≠ [] then .next (setHslot s slot { h with dw := dw, ctl := ctl })
  else if agentNext s slot then .next (agentLaunch s slot)
  else .next (hostAnswer s (.done (hslotBytes h)))

/-! Quotes (R395). -/

/-- GO written to MOD_ATT_CMD. -/
def execAttestationQuote (s : State) : Out := .next (onCtlStore s 0 0x4C3 (fun v => bitB v 63) attWrite)

/-- The eight measurement registers, 32 bytes each. -/
def measBytes (m : Modul) : List Byte := (rangeFrom 0 8).flatMap fun i => natLE 32 (SMap.get (fun _ => 0) m.meas i)

/-- A quote: nonce, measurements, BOOTS and signature, 676 bytes (R395). -/
def quoteBytes (m : Modul) (nonce : List Byte) : List Byte :=
  let body := padTo 32 0#8 (nonce.take 32) ++ measBytes m ++ natLE 4 (bitF (m.creg 0x4C1) 32 32)
  body ++ natLE 384 (Config.quoteSignature body)

/-- The first answer of the host to the quote under way that may arrive: its position, and the message. -/
def quoteMsg (s : State) : Option (Nat × Msg) :=
  (rangeFrom 0 s.net.length).findSome? fun i => (arrives s i).bind fun m =>
    match m.body with
    | .loadReply _ | .storeAck | .storeRefusal _ => if m.dst = modulAgent ∧ s.modul.quoteDue then some (i, m) else none
    | _ => none

/-- The host answers the quote under way: with the nonce the quote leaves for the host buffer, with its acknowledgement DONE is set; a refusal
ends it (R395). DESIGN CHOICE, unsafe (log entry 107). -/
def execQuoteWritten (s : State) : Out :=
  match quoteMsg s with
  | none => .next s
  | some (i, m) =>
    let s := dropMsg s i
    let ended (s : State) : State := modModul s fun m => { m with quoteDue := false }
    match m.body with
    | .loadReply (.value bs) =>
      let q := quoteBytes s.modul bs
      .next (sendMsg (modModul s fun m => { m with quote := q }) ⟨modulAgent, m.src, 0, 0, 0, .postedStore (quotePa s) q none Acc.direct⟩)
    | .storeAck => .next (ended (modModul s fun m => m.setCreg 0x4C4 (setB 0#64 63 true)))
    | _ => .next (ended s)

/-! Boot (R393, R394). -/

/-- What stays over a power cycle or a reset: the save flash, the switch positions (R385, R387), the recorded row repairs (R393), the counts of
R397, and the free values taken.
DEDUCED, unsafe (log entry 48). -/
def rebooted (s : State) : State :=
  let keep (p : Nat) (m : Modul) : Modul :=
    { m with ports := SMap.set (fun _ => Port.reset) m.ports p { Port.reset with swpos := (portAt s p).swpos } }
  let m0 := (rangeFrom 0 16).foldl (fun m p => keep p m) { Modul.reset with flash := s.modul.flash, rowFix := s.modul.rowFix }
  let boots := bitF (s.modul.creg 0x4C1) 32 32 + 1
  { State.reset with
    agenda := [], choices := s.choices, free := s.free, fresh := s.fresh,
    modul := (m0.setCreg 0x4C1 (setF 0#64 32 32 boots)).setCreg 0x4C5 (setF 0#64 32 32 (bitF (s.modul.creg 0x4C5) 32 32)) }

/-- Every cluster of the package. -/
def allClusters : List Nat := rangeFrom 0 1280

/-- Step 1: the verified firmware's version, and the measurements of ROM, firmware, configuration and spare maps. -/
def bootFirmware (f : BootFacts) (s : State) : State :=
  modModul s fun m => { m.setCreg 0x4C5 (setF (m.creg 0x4C5) 0 32 f.version) with
    meas := (rangeFrom 0 8).foldl (fun t i => SMap.set (fun _ => 0) t i (f.meas.getD i 0 % 2 ^ 256)) [] }

/-- Step 2: the row repairs recorded from earlier boots are made again (R366). -/
def bootRows (s : State) : State := s.modul.rowFix.foldl repairRow s

/-- Step 3: the standby comb locks when the primary does not (R375). -/
def bootComb (f : BootFacts) (s : State) : State :=
  if f.primary then s else advise (modModul s fun m => { m with comb := 1 }) 5 0 0

/-- Step 4: the faulty wires of the vertical buses that the test finds are recorded with AUTO = 1. -/
def bootBuses (f : BootFacts) (s : State) : State :=
  f.wires.foldl (fun s w => if w.core < 43520 ∧ w.quarter < 4 ∧ w.wire < 1056 then (vbRecord s w.core w.quarter w.wire true).1 else s)
    (modModul s fun m => { m with wires := f.wires ++ f.missed })

/-- Step 5: every bound site is calibrated, or retired. -/
def bootLight (f : BootFacts) (s : State) : State :=
  allClusters.foldl (fun s cl => match siteOf s cl with
    | none => s
    | some k => if f.badSites.contains k then retireSite s k else if siteRetired s k then s else calibrate s cl k) s

/-- A remap table names each physical core once. -/
def remapOk (l : List Nat) : Bool := decide (l.length = 34) && (rangeFrom 0 34).all fun p => l.contains p

/-- Step 6: remap tables, retirements and bindings of the configuration block; and the energy that the part measures at each boot (R350). -/
def bootConfig (f : BootFacts) (s : State) : State :=
  let s1 := f.remaps.foldl (fun s r => if r.1 < 1280 ∧ remapOk r.2 then
    modCluster s r.1 fun c => { c with remap := (rangeFrom 0 34).foldl (fun m i => SMap.set (fun i => i) m i (r.2.getD i i)) [] } else s) s
  let s2 := f.cores.foldl (fun s c => if c.1 < 1280 ∧ c.2 < 34 then retireCores s c.1 (2 ^ c.2) else s) s1
  let s3 := f.binds.foldl (fun s b => if b.1 < 1280 ∧ b.2 < 168 then bindSet s b.1 (nw (2 ^ 31 + b.2)) else s) s2
  let s4 := f.sites.foldl (fun s k => if k < 1344 then retireSite s k else s) s3
  adviseCap (modModul s4 fun m => m.setCreg 0x401 (setF (m.creg 0x401) 48 16 f.resj))

/-- Step 7: the chunks of the restart table are copied back, and the host learns of the table (R360, R392). -/
def bootRestore (s : State) : State :=
  let s1 := if bitB (s.modul.creg 0x400) 1 then restoreAll s else s
  if s.modul.flash.plan = [] ∧ s.modul.flash.commit.isNone then s1 else hostEvent s1 2

/-- Step 8: MAINT is cleared in every memory port, and boot is done; the firmware, which has booted, may raise the rollback counter to its own
version (R393, R394). -/
def bootDone (f : BootFacts) (s : State) : State :=
  let s1 := allClusters.foldl (fun s cl => modCluster s cl fun c => c.setCreg 0x250 0#64) s
  let ver := s1.modul.creg 0x4C5
  hostEvent (modModul s1 fun m => { (m.setCreg 0x4C2 (nw (2 ^ 63 + 8))).setCreg 0x4C5
    (setF ver 32 32 (Nat.max (bitF ver 32 32) (Nat.min f.roll (bitF ver 0 32)))) with boot := none }) 3

/-- A step failed: boot stops there (R393). -/
def bootFails (k : Nat) (s : State) : State :=
  hostEvent (modModul s fun m => { m.setCreg 0x4C2 (nw (2 ^ 62 + k)) with boot := none }) 4

/-- The action of step `k`, for k < 8 (R393). -/
def bootStep (f : BootFacts) (k : Nat) (s : State) : State :=
  if k = 1 then bootFirmware f s else if k = 2 then bootRows s else if k = 3 then bootComb f s else if k = 4 then bootBuses f s
  else if k = 5 then bootLight f s else if k = 6 then bootConfig f s else bootRestore s

/-- MOD_BOOT.STEP while the sequence runs (R397). -/
def bootAt (k : Nat) (s : State) : State := modModul s fun m => m.setCreg 0x4C2 (nw k)

/-- Power-on or reset: the sequence begins with step 1 (R393). -/
def bootStart (s : State) : State :=
  let (n, s1) := takeFree (rebooted s)
  bootAt 1 (modModul s1 fun m => { m with boot := some n })

/-- The ROM accepts the image: beside its signature and key, its version is at or above the rollback counter (R394). -/
def imageOk (f : BootFacts) (s : State) : Bool := decide (bitF (s.modul.creg 0x4C5) 32 32 ≤ f.version % 2 ^ 32)

/-- Power-on or reset starts the boot sequence, and each further event ends the step that runs, with success or not; step 8 does not fail
(R393, R394). A hold-up sequence that runs ends first (R356). -/
def execBoot (good : Bool) (s : State) : Out :=
  if s.modul.hu ≠ .idle ∧ s.modul.hu ≠ .committed then .next s
  else match (if s.modul.off ∨ s.modul.hu = .committed then none else s.modul.boot) with
    | none => .next (bootStart s)
    | some n =>
      let f := Config.bootFacts n
      let k := bitF (s.modul.creg 0x4C2) 0 4
      if 8 ≤ k then .next (bootDone f s)
      else if !good ∨ (k = 1 ∧ !imageOk f s) then .next (bootFails k s)
      else .next (bootAt (k + 1) (bootStep f k s))

/-! Around a step. -/

/-- What follows every step at once: messages at the ports leave the package (R378), and the groups' timers follow what pauses them (R265). -/
def settle (s : State) : State := groupClock (linkFlow s)

/-- A step's outcome with what follows it. -/
def afterStep : Out → Out
  | .next t => .next (settle t)
  | .fault f => .fault f
  | .refused r => .refused r

/-- seg0 as a placed word needs it: slot 0's own LM, 512 KiB, readable, writable and executable, WIN = 1 (R129). -/
def fetchSegLo : Word := 0xFFF0002000000000#64
def fetchSegHi : Word := 0x47000007F#64

/-- The state with one word where the next step fetches it: slot 0 of core 0 holds its turn, and its word stands in its own LM at its PC. This
stands for the load of a program from outside the machine. -/
def placeWord (s : State) (w : Nat) : State :=
  let x := slotAt s 0
  let s1 := setSlot s 0 { (x.setCreg 0xC0 fetchSegLo).setCreg 0xC1 fetchSegHi with
    st := .ready, held := none, gang := none, pc := x.pc % 0x70000#64 &&& 0x7FFFC#64 }
  { setBytes s1 (lmKey 0 ((slotAt s1 0).pc.toNat)) (natLE 4 (w % 2 ^ 32)) with turn := true, cur := 0 }

end Sys2Proof.Machine
end

