-- ==== Sys2Proof/Machine/Scalar.lean ====
section
/-! DEFINITION. The integer instructions of every slot (R132, R133, R186 to R195). None of them touches memory. -/

namespace Sys2Proof.Machine

/-- Signed quotient, rounded toward zero, with the corners of R189. -/
def divS (a b : Word) : Word :=
  if b = 0#64 then BitVec.allOnes 64 else BitVec.ofInt 64 (a.toInt.tdiv b.toInt)

/-- Signed remainder: its sign follows the dividend (R189). -/
def remS (a b : Word) : Word :=
  if b = 0#64 then a else BitVec.ofInt 64 (a.toInt.tmod b.toInt)

/-- Unsigned quotient and remainder (R189). -/
def divU (a b : Word) : Word := if b = 0#64 then BitVec.allOnes 64 else nw (a.toNat / b.toNat)
def remU (a b : Word) : Word := if b = 0#64 then a else nw (a.toNat % b.toNat)

/-- The width that a `sext` or `zext` selects (R19). -/
def extWidth (w : BitVec 2) : Nat := if w = 0#2 then 8 else if w = 1#2 then 16 else 32

/-- g[a] + g[b] (R187). -/
def execAdd (d a b : GReg) (t : Bool) (s : State) : Out :=
  .next (compute s d [a, b] t fun vs => val vs 0 + val vs 1)

/-- g[a] − g[b] (R187). -/
def execSub (d a b : GReg) (t : Bool) (s : State) : Out :=
  .next (compute s d [a, b] t fun vs => val vs 0 - val vs 1)

/-- Bitwise and (R187). -/
def execAnd (d a b : GReg) (t : Bool) (s : State) : Out :=
  .next (compute s d [a, b] t fun vs => val vs 0 &&& val vs 1)

/-- Bitwise or (R187). -/
def execOr (d a b : GReg) (t : Bool) (s : State) : Out :=
  .next (compute s d [a, b] t fun vs => val vs 0 ||| val vs 1)

/-- Bitwise xor (R187). -/
def execXor (d a b : GReg) (t : Bool) (s : State) : Out :=
  .next (compute s d [a, b] t fun vs => val vs 0 ^^^ val vs 1)

/-- g[a] and not g[b] (R187). -/
def execAndn (d a b : GReg) (t : Bool) (s : State) : Out :=
  .next (compute s d [a, b] t fun vs => val vs 0 &&& ~~~(val vs 1))

/-- g[a] or not g[b] (R187). -/
def execOrn (d a b : GReg) (t : Bool) (s : State) : Out :=
  .next (compute s d [a, b] t fun vs => val vs 0 ||| ~~~(val vs 1))

/-- Shift left by the low 6 bits of g[b] (R186, R187). -/
def execSll (d a b : GReg) (t : Bool) (s : State) : Out :=
  .next (compute s d [a, b] t fun vs => val vs 0 <<< bitF (val vs 1) 0 6)

/-- Shift right with zero fill (R186, R187). -/
def execSrl (d a b : GReg) (t : Bool) (s : State) : Out :=
  .next (compute s d [a, b] t fun vs => val vs 0 >>> bitF (val vs 1) 0 6)

/-- Shift right with sign fill (R186, R187). -/
def execSra (d a b : GReg) (t : Bool) (s : State) : Out :=
  .next (compute s d [a, b] t fun vs => (val vs 0).sshiftRight (bitF (val vs 1) 0 6))

/-- 1 when g[a] < g[b] signed, else 0 (R187). -/
def execSlt (d a b : GReg) (t : Bool) (s : State) : Out :=
  .next (compute s d [a, b] t fun vs => truth (ltS (val vs 0) (val vs 1)))

/-- 1 when g[a] < g[b] unsigned, else 0 (R187). -/
def execSltn (d a b : GReg) (t : Bool) (s : State) : Out :=
  .next (compute s d [a, b] t fun vs => truth (ltU (val vs 0) (val vs 1)))

/-- Signed minimum (R187). -/
def execMin (d a b : GReg) (t : Bool) (s : State) : Out :=
  .next (compute s d [a, b] t fun vs => minS (val vs 0) (val vs 1))

/-- Signed maximum (R187). -/
def execMax (d a b : GReg) (t : Bool) (s : State) : Out :=
  .next (compute s d [a, b] t fun vs => maxS (val vs 0) (val vs 1))

/-- Unsigned minimum (R187). -/
def execMinn (d a b : GReg) (t : Bool) (s : State) : Out :=
  .next (compute s d [a, b] t fun vs => minU (val vs 0) (val vs 1))

/-- Unsigned maximum (R187). -/
def execMaxn (d a b : GReg) (t : Bool) (s : State) : Out :=
  .next (compute s d [a, b] t fun vs => maxU (val vs 0) (val vs 1))

/-- 32-bit sum, sign-extended (R188). -/
def execAddw (d a b : GReg) (t : Bool) (s : State) : Out :=
  .next (compute s d [a, b] t fun vs => sextW 32 (val vs 0 + val vs 1))

/-- 32-bit difference, sign-extended (R188). -/
def execSubw (d a b : GReg) (t : Bool) (s : State) : Out :=
  .next (compute s d [a, b] t fun vs => sextW 32 (val vs 0 - val vs 1))

/-- 32-bit left shift by the low 5 bits of g[b], sign-extended (R188). -/
def execSllw (d a b : GReg) (t : Bool) (s : State) : Out :=
  .next (compute s d [a, b] t fun vs => sextW 32 (val vs 0 <<< bitF (val vs 1) 0 5))

/-- 32-bit logical right shift, sign-extended (R188). -/
def execSrlw (d a b : GReg) (t : Bool) (s : State) : Out :=
  .next (compute s d [a, b] t fun vs => sextW 32 (zextW 32 (val vs 0) >>> bitF (val vs 1) 0 5))

/-- 32-bit arithmetic right shift, sign-extended (R188). -/
def execSraw (d a b : GReg) (t : Bool) (s : State) : Out :=
  .next (compute s d [a, b] t fun vs => sextW 32 ((sextW 32 (val vs 0)).sshiftRight (bitF (val vs 1) 0 5)))

/-- Low 64 bits of the product (R189). -/
def execMul (d a b : GReg) (t : Bool) (s : State) : Out :=
  .next (compute s d [a, b] t fun vs => val vs 0 * val vs 1)

/-- High 64 bits of the signed product (R189). -/
def execMulh (d a b : GReg) (t : Bool) (s : State) : Out :=
  .next (compute s d [a, b] t fun vs => BitVec.ofInt 64 ((val vs 0).toInt * (val vs 1).toInt / 2 ^ 64))

/-- High 64 bits of the unsigned product (R189). -/
def execMulhn (d a b : GReg) (t : Bool) (s : State) : Out :=
  .next (compute s d [a, b] t fun vs => nw ((val vs 0).toNat * (val vs 1).toNat / 2 ^ 64))

/-- Signed quotient (R189). -/
def execDiv (d a b : GReg) (t : Bool) (s : State) : Out :=
  .next (compute s d [a, b] t fun vs => divS (val vs 0) (val vs 1))

/-- Unsigned quotient (R189). -/
def execDivn (d a b : GReg) (t : Bool) (s : State) : Out :=
  .next (compute s d [a, b] t fun vs => divU (val vs 0) (val vs 1))

/-- Signed remainder (R189). -/
def execRem (d a b : GReg) (t : Bool) (s : State) : Out :=
  .next (compute s d [a, b] t fun vs => remS (val vs 0) (val vs 1))

/-- Unsigned remainder (R189). -/
def execRemn (d a b : GReg) (t : Bool) (s : State) : Out :=
  .next (compute s d [a, b] t fun vs => remU (val vs 0) (val vs 1))

/-- Rotate left by the low 6 bits of g[b] (R190). -/
def execRotl (d a b : GReg) (t : Bool) (s : State) : Out :=
  .next (compute s d [a, b] t fun vs => (val vs 0).rotateLeft (bitF (val vs 1) 0 6))

/-- Rotate right by the low 6 bits of g[b] (R190). -/
def execRotr (d a b : GReg) (t : Bool) (s : State) : Out :=
  .next (compute s d [a, b] t fun vs => (val vs 0).rotateRight (bitF (val vs 1) 0 6))

/-- Bits of g[a] at the ones of g[b], packed low (R190). -/
def execBext (d a b : GReg) (t : Bool) (s : State) : Out :=
  .next (compute s d [a, b] t fun vs => nw (extN 64 (val vs 0).toNat (val vs 1).toNat))

/-- Low bits of g[a] placed at the ones of g[b] (R190). -/
def execBdep (d a b : GReg) (t : Bool) (s : State) : Out :=
  .next (compute s d [a, b] t fun vs => nw (depN 64 (val vs 0).toNat (val vs 1).toNat))

/-- g[a] if g[b] = 0, else 0 (R194). -/
def execSelz (d a b : GReg) (t : Bool) (s : State) : Out :=
  .next (compute s d [a, b] t fun vs => if val vs 1 = 0#64 then val vs 0 else 0#64)

/-- g[a] if g[b] ≠ 0, else 0 (R194). -/
def execSelnz (d a b : GReg) (t : Bool) (s : State) : Out :=
  .next (compute s d [a, b] t fun vs => if val vs 1 = 0#64 then 0#64 else val vs 0)

/-- Leading zero bits (R190). -/
def execClz (d a : GReg) (t : Bool) (s : State) : Out :=
  .next (compute s d [a] t fun vs => nw (clzN 64 (val vs 0).toNat))

/-- Trailing zero bits (R190). -/
def execCtz (d a : GReg) (t : Bool) (s : State) : Out :=
  .next (compute s d [a] t fun vs => nw (ctzN 64 (val vs 0).toNat))

/-- Number of ones (R190). -/
def execPopc (d a : GReg) (t : Bool) (s : State) : Out :=
  .next (compute s d [a] t fun vs => nw (popN 64 (val vs 0).toNat))

/-- Bytes in opposite order (R190). -/
def execRev8 (d a : GReg) (t : Bool) (s : State) : Out :=
  .next (compute s d [a] t fun vs => leWord (wordLE 8 (val vs 0)).reverse)

/-- Bits in opposite order (R190). -/
def execBrev (d a : GReg) (t : Bool) (s : State) : Out :=
  .next (compute s d [a] t fun vs => nw (revN 64 (val vs 0).toNat))

/-- Sign-extends the low 8, 16 or 32 bits (R190). -/
def execSext (d a : GReg) (t : Bool) (w : BitVec 2) (s : State) : Out :=
  .next (compute s d [a] t fun vs => sextW (extWidth w) (val vs 0))

/-- Zero-extends the low 8, 16 or 32 bits (R190). -/
def execZext (d a : GReg) (t : Bool) (w : BitVec 2) (s : State) : Out :=
  .next (compute s d [a] t fun vs => zextW (extWidth w) (val vs 0))

/-- g[a] + imm (R191). -/
def execAddi (d a : GReg) (t : Bool) (i : BitVec 14) (s : State) : Out :=
  .next (compute s d [a] t fun vs => val vs 0 + imm14 i)

/-- g[a] and imm (R191). -/
def execAndi (d a : GReg) (t : Bool) (i : BitVec 14) (s : State) : Out :=
  .next (compute s d [a] t fun vs => val vs 0 &&& imm14 i)

/-- g[a] or imm (R191). -/
def execOri (d a : GReg) (t : Bool) (i : BitVec 14) (s : State) : Out :=
  .next (compute s d [a] t fun vs => val vs 0 ||| imm14 i)

/-- g[a] xor imm (R191). -/
def execXori (d a : GReg) (t : Bool) (i : BitVec 14) (s : State) : Out :=
  .next (compute s d [a] t fun vs => val vs 0 ^^^ imm14 i)

/-- 1 when g[a] < imm signed (R191). -/
def execSlti (d a : GReg) (t : Bool) (i : BitVec 14) (s : State) : Out :=
  .next (compute s d [a] t fun vs => truth (ltS (val vs 0) (imm14 i)))

/-- 1 when g[a] < imm, both unsigned (R191). -/
def execSltni (d a : GReg) (t : Bool) (i : BitVec 14) (s : State) : Out :=
  .next (compute s d [a] t fun vs => truth (ltU (val vs 0) (imm14 i)))

/-- Shift left by an amount (R192). -/
def execSlli (d a : GReg) (t : Bool) (m : BitVec 6) (s : State) : Out :=
  .next (compute s d [a] t fun vs => val vs 0 <<< m.toNat)

/-- Shift right, zero fill (R192). -/
def execSrli (d a : GReg) (t : Bool) (m : BitVec 6) (s : State) : Out :=
  .next (compute s d [a] t fun vs => val vs 0 >>> m.toNat)

/-- Shift right, sign fill (R192). -/
def execSrai (d a : GReg) (t : Bool) (m : BitVec 6) (s : State) : Out :=
  .next (compute s d [a] t fun vs => (val vs 0).sshiftRight m.toNat)

/-- Rotate left (R192). -/
def execRotli (d a : GReg) (t : Bool) (m : BitVec 6) (s : State) : Out :=
  .next (compute s d [a] t fun vs => (val vs 0).rotateLeft m.toNat)

/-- sext64(imm20 × 2^14) (R193). -/
def execLui (d : GReg) (i : BitVec 20) (s : State) : Out :=
  .next (compute s d [] false fun _ => imm20 i)

/-- The address of its own word, as a seg0 offset, plus sext64(imm20 × 2^14) (R193). -/
def execPcaddu (d : GReg) (i : BitVec 20) (s : State) : Out :=
  .next (compute s d [] false fun _ => (slotAt s s.cur).pc + imm20 i)

/-- A segmented pointer, without check or access (R132). -/
def leaValue (seg : BitVec 3) (a : Word) (o : BitVec 11) : Word := nw (seg.toNat * 2 ^ 61 + (a + off11 o 1).toNat % 2 ^ 61)

/-- Builds a segmented pointer (R132). -/
def execLea (d a : GReg) (t : Bool) (seg : BitVec 3) (o : BitVec 11) (s : State) : Out :=
  .next (compute s d [a] t fun vs => leaValue seg (val vs 0) o)

/-- The result of `segck`: 0x10, 0x11 or 0 (R133). -/
def segckValue (x : Slot) (p l : Word) : Word :=
  let lo := x.segLo (ptrSeg p)
  let hi := x.segHi (ptrSeg p)
  let n := if bitF l 0 40 = 0 then 1 else bitF l 0 40
  if ptrMid p ≠ 0 ∨ ptrOff p + n - 1 > segLimit lo hi then 0x10#64
  else if (bitB l 58 && !segR hi) || (bitB l 59 && !segW hi) || (bitB l 60 && !segX hi) || (bitB l 61 && !segA hi)
      || (bitB l 62 && !segF hi) || (bitB l 63 && !segD hi) then 0x11#64
  else 0#64

/-- Tests a range and rights without trapping (R133). -/
def execSegck (d a b : GReg) (t : Bool) (s : State) : Out :=
  .next (compute s d [a, b] t fun vs => segckValue (slotAt s s.cur) (val vs 0) (val vs 1))

/-- Traps 0x0A when g[a] ≥ g[b], both unsigned; else only the take (R195). -/
def execTchk (a b : GReg) (t : Bool) (s : State) : Out :=
  .next (withOps s [a, b] none false fun s vs =>
    if ltU (val vs 0) (val vs 1) then .done (modSlot s s.cur fun x => x.takeIf t a.toNat) else .trap 0x0A (val vs 0))

end Sys2Proof.Machine
end

