-- ==== Sys2Proof/Machine/Dispatch.lean ====
section
/-! DEFINITION. The dispatch: one arm for each row of the table of operations, each a direct call of its meaning. -/

namespace Sys2Proof.Machine

/-- What each instruction and each event does. -/
def exec (i : Instr) (s : State) : Host.Outcome State Fault Refusal :=
  match i with
  | .add d a b t => Sys2Proof.Machine.execAdd d a b t s
  | .sub d a b t => Sys2Proof.Machine.execSub d a b t s
  | .and d a b t => Sys2Proof.Machine.execAnd d a b t s
  | .or d a b t => Sys2Proof.Machine.execOr d a b t s
  | .xor d a b t => Sys2Proof.Machine.execXor d a b t s
  | .andn d a b t => Sys2Proof.Machine.execAndn d a b t s
  | .orn d a b t => Sys2Proof.Machine.execOrn d a b t s
  | .sll d a b t => Sys2Proof.Machine.execSll d a b t s
  | .srl d a b t => Sys2Proof.Machine.execSrl d a b t s
  | .sra d a b t => Sys2Proof.Machine.execSra d a b t s
  | .slt d a b t => Sys2Proof.Machine.execSlt d a b t s
  | .sltn d a b t => Sys2Proof.Machine.execSltn d a b t s
  | .min d a b t => Sys2Proof.Machine.execMin d a b t s
  | .max d a b t => Sys2Proof.Machine.execMax d a b t s
  | .minn d a b t => Sys2Proof.Machine.execMinn d a b t s
  | .maxn d a b t => Sys2Proof.Machine.execMaxn d a b t s
  | .addw d a b t => Sys2Proof.Machine.execAddw d a b t s
  | .subw d a b t => Sys2Proof.Machine.execSubw d a b t s
  | .sllw d a b t => Sys2Proof.Machine.execSllw d a b t s
  | .srlw d a b t => Sys2Proof.Machine.execSrlw d a b t s
  | .sraw d a b t => Sys2Proof.Machine.execSraw d a b t s
  | .mul d a b t => Sys2Proof.Machine.execMul d a b t s
  | .mulh d a b t => Sys2Proof.Machine.execMulh d a b t s
  | .mulhn d a b t => Sys2Proof.Machine.execMulhn d a b t s
  | .div d a b t => Sys2Proof.Machine.execDiv d a b t s
  | .divn d a b t => Sys2Proof.Machine.execDivn d a b t s
  | .rem d a b t => Sys2Proof.Machine.execRem d a b t s
  | .remn d a b t => Sys2Proof.Machine.execRemn d a b t s
  | .clz d a t => Sys2Proof.Machine.execClz d a t s
  | .ctz d a t => Sys2Proof.Machine.execCtz d a t s
  | .popc d a t => Sys2Proof.Machine.execPopc d a t s
  | .rotl d a b t => Sys2Proof.Machine.execRotl d a b t s
  | .rotr d a b t => Sys2Proof.Machine.execRotr d a b t s
  | .rev8 d a t => Sys2Proof.Machine.execRev8 d a t s
  | .brev d a t => Sys2Proof.Machine.execBrev d a t s
  | .bext d a b t => Sys2Proof.Machine.execBext d a b t s
  | .bdep d a b t => Sys2Proof.Machine.execBdep d a b t s
  | .sext d a t w => Sys2Proof.Machine.execSext d a t w s
  | .zext d a t w => Sys2Proof.Machine.execZext d a t w s
  | .addi d a t idx => Sys2Proof.Machine.execAddi d a t idx s
  | .andi d a t idx => Sys2Proof.Machine.execAndi d a t idx s
  | .ori d a t idx => Sys2Proof.Machine.execOri d a t idx s
  | .xori d a t idx => Sys2Proof.Machine.execXori d a t idx s
  | .slti d a t idx => Sys2Proof.Machine.execSlti d a t idx s
  | .sltni d a t idx => Sys2Proof.Machine.execSltni d a t idx s
  | .slli d a t m => Sys2Proof.Machine.execSlli d a t m s
  | .srli d a t m => Sys2Proof.Machine.execSrli d a t m s
  | .srai d a t m => Sys2Proof.Machine.execSrai d a t m s
  | .rotli d a t m => Sys2Proof.Machine.execRotli d a t m s
  | .lui d idx => Sys2Proof.Machine.execLui d idx s
  | .pcaddu d idx => Sys2Proof.Machine.execPcaddu d idx s
  | .selz d a b t => Sys2Proof.Machine.execSelz d a b t s
  | .selnz d a b t => Sys2Proof.Machine.execSelnz d a b t s
  | .lea d a t seg o => Sys2Proof.Machine.execLea d a t seg o s
  | .segck d a b t => Sys2Proof.Machine.execSegck d a b t s
  | .tchk a b t => Sys2Proof.Machine.execTchk a b t s
  | .ldI8 d a t seg o => Sys2Proof.Machine.execLdI8 d a t seg o s
  | .ldN8 d a t seg o => Sys2Proof.Machine.execLdN8 d a t seg o s
  | .ldI16 d a t seg o => Sys2Proof.Machine.execLdI16 d a t seg o s
  | .ldN16 d a t seg o => Sys2Proof.Machine.execLdN16 d a t seg o s
  | .ldI32 d a t seg o => Sys2Proof.Machine.execLdI32 d a t seg o s
  | .ldN32 d a t seg o => Sys2Proof.Machine.execLdN32 d a t seg o s
  | .ld64 d a t seg o => Sys2Proof.Machine.execLd64 d a t seg o s
  | .st8 d a t seg o => Sys2Proof.Machine.execSt8 d a t seg o s
  | .st16 d a t seg o => Sys2Proof.Machine.execSt16 d a t seg o s
  | .st32 d a t seg o => Sys2Proof.Machine.execSt32 d a t seg o s
  | .st64 d a t seg o => Sys2Proof.Machine.execSt64 d a t seg o s
  | .ldro64 d a t seg o => Sys2Proof.Machine.execLdro64 d a t seg o s
  | .pfro a t seg o => Sys2Proof.Machine.execPfro a t seg o s
  | .ldfe d a t seg o => Sys2Proof.Machine.execLdfe d a t seg o s
  | .ldff d a t seg o => Sys2Proof.Machine.execLdff d a t seg o s
  | .stef d a t seg o => Sys2Proof.Machine.execStef d a t seg o s
  | .stff d a t seg o => Sys2Proof.Machine.execStff d a t seg o s
  | .fset a t => Sys2Proof.Machine.execFset a t s
  | .fclr a t => Sys2Proof.Machine.execFclr a t s
  | .fget d a t => Sys2Proof.Machine.execFget d a t s
  | .amoAdd d a b t w => Sys2Proof.Machine.execAmoAdd d a b t w s
  | .amoAnd d a b t w => Sys2Proof.Machine.execAmoAnd d a b t w s
  | .amoOr d a b t w => Sys2Proof.Machine.execAmoOr d a b t w s
  | .amoXor d a b t w => Sys2Proof.Machine.execAmoXor d a b t w s
  | .amoMin d a b t w => Sys2Proof.Machine.execAmoMin d a b t w s
  | .amoMax d a b t w => Sys2Proof.Machine.execAmoMax d a b t w s
  | .amoMinn d a b t w => Sys2Proof.Machine.execAmoMinn d a b t w s
  | .amoMaxn d a b t w => Sys2Proof.Machine.execAmoMaxn d a b t w s
  | .amoSwap d a b t w => Sys2Proof.Machine.execAmoSwap d a b t w s
  | .amoFadd d a b t => Sys2Proof.Machine.execAmoFadd d a b t s
  | .cas d a b t w => Sys2Proof.Machine.execCas d a b t w s
  | .fence k c => Sys2Proof.Machine.execFence k c s
  | .fencex k c => Sys2Proof.Machine.execFencex k c s
  | .rocinv a b t => Sys2Proof.Machine.execRocinv a b t s
  | .pjwait d => Sys2Proof.Machine.execPjwait d s
  | .beq a b o => Sys2Proof.Machine.execBeq a b o s
  | .bne a b o => Sys2Proof.Machine.execBne a b o s
  | .blt a b o => Sys2Proof.Machine.execBlt a b o s
  | .bge a b o => Sys2Proof.Machine.execBge a b o s
  | .bltn a b o => Sys2Proof.Machine.execBltn a b o s
  | .bgen a b o => Sys2Proof.Machine.execBgen a b o s
  | .bfull a o => Sys2Proof.Machine.execBfull a o s
  | .beqi a idx o => Sys2Proof.Machine.execBeqi a idx o s
  | .bnei a idx o => Sys2Proof.Machine.execBnei a idx o s
  | .blti a idx o => Sys2Proof.Machine.execBlti a idx o s
  | .bgei a idx o => Sys2Proof.Machine.execBgei a idx o s
  | .jal d o => Sys2Proof.Machine.execJal d o s
  | .jalr d a t idx => Sys2Proof.Machine.execJalr d a t idx s
  | .loop a b o => Sys2Proof.Machine.execLoop a b o s
  | .gform a t => Sys2Proof.Machine.execGform a t s
  | .gsplit => Sys2Proof.Machine.execGsplit s
  | .grejoin => Sys2Proof.Machine.execGrejoin s
  | .gleave => Sys2Proof.Machine.execGleave s
  | .pin => Sys2Proof.Machine.execPin s
  | .unpin => Sys2Proof.Machine.execUnpin s
  | .semdn n => Sys2Proof.Machine.execSemdn n s
  | .semup n => Sys2Proof.Machine.execSemup n s
  | .semtry d n => Sys2Proof.Machine.execSemtry d n s
  | .qbind q b => Sys2Proof.Machine.execQbind q b s
  | .qwaitf d q b => Sys2Proof.Machine.execQwaitf d q b s
  | .qwaite d q b => Sys2Proof.Machine.execQwaite d q b s
  | .qadvh q b => Sys2Proof.Machine.execQadvh q b s
  | .qadvt q b => Sys2Proof.Machine.execQadvt q b s
  | .qcnt d q => Sys2Proof.Machine.execQcnt d q s
  | .yield a t => Sys2Proof.Machine.execYield a t s
  | .park d a t => Sys2Proof.Machine.execPark d a t s
  | .wake a t => Sys2Proof.Machine.execWake a t s
  | .tsleep a t => Sys2Proof.Machine.execTsleep a t s
  | .clock d seg => Sys2Proof.Machine.execClock d seg s
  | .wfw => Sys2Proof.Machine.execWfw s
  | .tdone => Sys2Proof.Machine.execTdone s
  | .tfail a t => Sys2Proof.Machine.execTfail a t s
  | .launch d a t => Sys2Proof.Machine.execLaunch d a t s
  | .lvlcnt d a t => Sys2Proof.Machine.execLvlcnt d a t s
  | .lvlwait d a t => Sys2Proof.Machine.execLvlwait d a t s
  | .lvlcancel a t => Sys2Proof.Machine.execLvlcancel a t s
  | .phopen d a t => Sys2Proof.Machine.execPhopen d a t s
  | .phclose a t => Sys2Proof.Machine.execPhclose a t s
  | .phwait d a t => Sys2Proof.Machine.execPhwait d a t s
  | .msend a b t y => Sys2Proof.Machine.execMsend a b t y s
  | .msendD a b t y => Sys2Proof.Machine.execMsendD a b t y s
  | .mend => Sys2Proof.Machine.execMend s
  | .hop a t => Sys2Proof.Machine.execHop a t s
  | .mwait d a b t => Sys2Proof.Machine.execMwait d a b t s
  | .tdecl n a t => Sys2Proof.Machine.execTdecl n a t s
  | .tarm n a t => Sys2Proof.Machine.execTarm n a t s
  | .twait n a t => Sys2Proof.Machine.execTwait n a t s
  | .trel n => Sys2Proof.Machine.execTrel n s
  | .xset a t k => Sys2Proof.Machine.execXset a t k s
  | .xcopy a b t => Sys2Proof.Machine.execXcopy a b t s
  | .xgather a b t => Sys2Proof.Machine.execXgather a b t s
  | .xscatter a b t => Sys2Proof.Machine.execXscatter a b t s
  | .xfill a t => Sys2Proof.Machine.execXfill a t s
  | .xlrec a b t => Sys2Proof.Machine.execXlrec a b t s
  | .xlflush a t => Sys2Proof.Machine.execXlflush a t s
  | .strm d a t => Sys2Proof.Machine.execStrm d a t s
  | .strmoff d a t => Sys2Proof.Machine.execStrmoff d a t s
  | .vset a b t e => Sys2Proof.Machine.execVset a b t e s
  | .vadd a t x y e => Sys2Proof.Machine.execVadd a t x y e s
  | .vsub a t x y e => Sys2Proof.Machine.execVsub a t x y e s
  | .vmul a t x y e => Sys2Proof.Machine.execVmul a t x y e s
  | .vfma a t x y e => Sys2Proof.Machine.execVfma a t x y e s
  | .vmax a t x y e => Sys2Proof.Machine.execVmax a t x y e s
  | .vmin a t x y e => Sys2Proof.Machine.execVmin a t x y e s
  | .vabs a t x e => Sys2Proof.Machine.execVabs a t x e s
  | .vneg a t x e => Sys2Proof.Machine.execVneg a t x e s
  | .vscale a b t x e => Sys2Proof.Machine.execVscale a b t x e s
  | .viadd a t x y e => Sys2Proof.Machine.execViadd a t x y e s
  | .visub a t x y e => Sys2Proof.Machine.execVisub a t x y e s
  | .vimul a t x y e => Sys2Proof.Machine.execVimul a t x y e s
  | .viand a t x y e => Sys2Proof.Machine.execViand a t x y e s
  | .vior a t x y e => Sys2Proof.Machine.execVior a t x y e s
  | .vixor a t x y e => Sys2Proof.Machine.execVixor a t x y e s
  | .vishl a b t x e => Sys2Proof.Machine.execVishl a b t x e s
  | .vishr a b t x e => Sys2Proof.Machine.execVishr a b t x e s
  | .vconv a t x e => Sys2Proof.Machine.execVconv a t x e s
  | .vbfp a t x e => Sys2Proof.Machine.execVbfp a t x e s
  | .vbfpx a t x e => Sys2Proof.Machine.execVbfpx a t x e s
  | .vcbq a t x e => Sys2Proof.Machine.execVcbq a t x e s
  | .vcbx a t x e => Sys2Proof.Machine.execVcbx a t x e s
  | .vsat a b t x e => Sys2Proof.Machine.execVsat a b t x e s
  | .vsum a t x e => Sys2Proof.Machine.execVsum a t x e s
  | .vmaxr a t x e => Sys2Proof.Machine.execVmaxr a t x e s
  | .vdot a t x y e => Sys2Proof.Machine.execVdot a t x y e s
  | .vcbld b x => Sys2Proof.Machine.execVcbld b x s
  | .mown a t => Sys2Proof.Machine.execMown a t s
  | .mset a t k => Sys2Proof.Machine.execMset a t k s
  | .mphld a b t n => Sys2Proof.Machine.execMphld a b t n s
  | .mswap b => Sys2Proof.Machine.execMswap b s
  | .mpass a b t => Sys2Proof.Machine.execMpass a b t s
  | .mdrain a b t => Sys2Proof.Machine.execMdrain a b t s
  | .mclr a b t => Sys2Proof.Machine.execMclr a b t s
  | .mprobe b => Sys2Proof.Machine.execMprobe b s
  | .mdecomp a b t => Sys2Proof.Machine.execMdecomp a b t s
  | .phrd d a t => Sys2Proof.Machine.execPhrd d a t s
  | .phwr a b t => Sys2Proof.Machine.execPhwr a b t s
  | .mcal a b t => Sys2Proof.Machine.execMcal a b t s
  | .macrd d a t => Sys2Proof.Machine.execMacrd d a t s
  | .colgo a b t => Sys2Proof.Machine.execColgo a b t s
  | .nidict a b t => Sys2Proof.Machine.execNidict a b t s
  | .niclr a t => Sys2Proof.Machine.execNiclr a t s
  | .bsbind a b t => Sys2Proof.Machine.execBsbind a b t s
  | .bsget d a t => Sys2Proof.Machine.execBsget d a t s
  | .bspeek d a t => Sys2Proof.Machine.execBspeek d a t s
  | .bsput a b t => Sys2Proof.Machine.execBsput a b t s
  | .bsskip a b t => Sys2Proof.Machine.execBsskip a b t s
  | .bsalign d a t => Sys2Proof.Machine.execBsalign d a t s
  | .bslut d a b t => Sys2Proof.Machine.execBslut d a b t s
  | .crc32c d a b t => Sys2Proof.Machine.execCrc32c d a b t s
  | .hash64 d a b t => Sys2Proof.Machine.execHash64 d a b t s
  | .tfwake d a b t => Sys2Proof.Machine.execTfwake d a b t s
  | .sys a t => Sys2Proof.Machine.execSys a t s
  | .brk => Sys2Proof.Machine.execBrk s
  | .eret => Sys2Proof.Machine.execEret s
  | .halt => Sys2Proof.Machine.execHalt s
  | .cget d n => Sys2Proof.Machine.execCget d n s
  | .cput a t n => Sys2Proof.Machine.execCput a t n s
  | .segld g a t seg o => Sys2Proof.Machine.execSegld g a t seg o s
  | .segst g a t seg o => Sys2Proof.Machine.execSegst g a t seg o s
  | .snap d a t => Sys2Proof.Machine.execSnap d a t s
  | .accept d a t => Sys2Proof.Machine.execAccept d a t s
  | .reject d a t => Sys2Proof.Machine.execReject d a t s
  | .snapq d a t => Sys2Proof.Machine.execSnapq d a t s
  | .msadd d a b t => Sys2Proof.Machine.execMsadd d a b t s
  | .msdel d a t => Sys2Proof.Machine.execMsdel d a t s
  | .msqry d a t => Sys2Proof.Machine.execMsqry d a t s
  | .tlbfa a b t => Sys2Proof.Machine.execTlbfa a b t s
  | .tlbinv d a b t => Sys2Proof.Machine.execTlbinv d a b t s
  | .scwb d a b t => Sys2Proof.Machine.execScwb d a b t s
  | .scinv d a b t => Sys2Proof.Machine.execScinv d a b t s
  | .scdom d a b t => Sys2Proof.Machine.execScdom d a b t s
  | .lmpwr d a b t => Sys2Proof.Machine.execLmpwr d a b t s
  | .hustat d a b t => Sys2Proof.Machine.execHustat d a b t s
  | .pmig d a b t => Sys2Proof.Machine.execPmig d a b t s
  | .pmigsw d a b t => Sys2Proof.Machine.execPmigsw d a b t s
  | .lnkq d a t => Sys2Proof.Machine.execLnkq d a t s
  | .lnkfec d a b t => Sys2Proof.Machine.execLnkfec d a b t s
  | .lnkclaim d a b t => Sys2Proof.Machine.execLnkclaim d a b t s
  | .vbset d a b t => Sys2Proof.Machine.execVbset d a b t s
  | .vbtest d a b t => Sys2Proof.Machine.execVbtest d a b t s
  | .crmap d a b t => Sys2Proof.Machine.execCrmap d a b t s
  | .dbghalt d a b t => Sys2Proof.Machine.execDbghalt d a b t s
  | .dbgresume d a b t => Sys2Proof.Machine.execDbgresume d a b t s
  | .boot good => Sys2Proof.Machine.execBoot good s
  | .slotTurn k par => Sys2Proof.Machine.execSlotTurn k par s
  | .timebaseDeadline k => Sys2Proof.Machine.execTimebaseDeadline k s
  | .niSend core => Sys2Proof.Machine.execNiSend core s
  | .loadRequest idx => Sys2Proof.Machine.execLoadRequest idx s
  | .loadReply idx => Sys2Proof.Machine.execLoadReply idx s
  | .postedStore idx => Sys2Proof.Machine.execPostedStore idx s
  | .storeAck idx => Sys2Proof.Machine.execStoreAck idx s
  | .storeRefusal idx => Sys2Proof.Machine.execStoreRefusal idx s
  | .atomicRequest idx => Sys2Proof.Machine.execAtomicRequest idx s
  | .atomicReply idx => Sys2Proof.Machine.execAtomicReply idx s
  | .syncRequest idx => Sys2Proof.Machine.execSyncRequest idx s
  | .syncReply idx => Sys2Proof.Machine.execSyncReply idx s
  | .syncRetry idx => Sys2Proof.Machine.execSyncRetry idx s
  | .feRetryResend core tag => Sys2Proof.Machine.execFeRetryResend core tag s
  | .roFillRequest idx => Sys2Proof.Machine.execRoFillRequest idx s
  | .roFillReply idx => Sys2Proof.Machine.execRoFillReply idx s
  | .dirInvalidate idx => Sys2Proof.Machine.execDirInvalidate idx s
  | .invalidateAck idx => Sys2Proof.Machine.execInvalidateAck idx s
  | .activeMessage idx => Sys2Proof.Machine.execActiveMessage idx s
  | .amRefusal idx => Sys2Proof.Machine.execAmRefusal idx s
  | .amHandlerStart core => Sys2Proof.Machine.execAmHandlerStart core s
  | .engineWrite idx => Sys2Proof.Machine.execEngineWrite idx s
  | .engineReadRequest idx => Sys2Proof.Machine.execEngineReadRequest idx s
  | .engineReadReply idx => Sys2Proof.Machine.execEngineReadReply idx s
  | .batonPass idx => Sys2Proof.Machine.execBatonPass idx s
  | .batonAnswer idx => Sys2Proof.Machine.execBatonAnswer idx s
  | .batonResend k => Sys2Proof.Machine.execBatonResend k s
  | .batonInstall core => Sys2Proof.Machine.execBatonInstall core s
  | .withdrawal idx => Sys2Proof.Machine.execWithdrawal idx s
  | .withdrawnAnswer idx => Sys2Proof.Machine.execWithdrawnAnswer idx s
  | .launchStatusReply idx => Sys2Proof.Machine.execLaunchStatusReply idx s
  | .controlWindowAccess idx => Sys2Proof.Machine.execControlWindowAccess idx s
  | .netHopReplay tower n => Sys2Proof.Machine.execNetHopReplay tower n s
  | .netHopFail cluster dir => Sys2Proof.Machine.execNetHopFail cluster dir s
  | .niBufferParity core idx => Sys2Proof.Machine.execNiBufferParity core idx s
  | .queueParity core unit idx => Sys2Proof.Machine.execQueueParity core unit idx s
  | .pageWalk cluster idx => Sys2Proof.Machine.execPageWalk cluster idx s
  | .walkMigReread cluster idx => Sys2Proof.Machine.execWalkMigReread cluster idx s
  | .tlbfaPortDiscard idx => Sys2Proof.Machine.execTlbfaPortDiscard idx s
  | .tlbinvBroadcast cluster => Sys2Proof.Machine.execTlbinvBroadcast cluster s
  | .scFillComplete line victim => Sys2Proof.Machine.execScFillComplete line victim s
  | .snapRecord idx => Sys2Proof.Machine.execSnapRecord idx s
  | .snapqQuery idx => Sys2Proof.Machine.execSnapqQuery idx s
  | .snapSweep line => Sys2Proof.Machine.execSnapSweep line s
  | .scSpanWalk idx => Sys2Proof.Machine.execScSpanWalk idx s
  | .scdomUpdate idx => Sys2Proof.Machine.execScdomUpdate idx s
  | .scrubPatrol pa err => Sys2Proof.Machine.execScrubPatrol pa err s
  | .migrationCopy tower idx => Sys2Proof.Machine.execMigrationCopy tower idx s
  | .lmQuarterReady core q => Sys2Proof.Machine.execLmQuarterReady core q s
  | .xfeCommandStart core => Sys2Proof.Machine.execXfeCommandStart core s
  | .xfeCommandEnd core => Sys2Proof.Machine.execXfeCommandEnd core s
  | .xfeFault core => Sys2Proof.Machine.execXfeFault core s
  | .streamFetch k st => Sys2Proof.Machine.execStreamFetch k st s
  | .streamWrite k st => Sys2Proof.Machine.execStreamWrite k st s
  | .veCommandStart core => Sys2Proof.Machine.execVeCommandStart core s
  | .veCommandEnd core => Sys2Proof.Machine.execVeCommandEnd core s
  | .veFault core => Sys2Proof.Machine.execVeFault core s
  | .cleCollectiveStart tower => Sys2Proof.Machine.execCleCollectiveStart tower s
  | .cleCollectiveEnd tower => Sys2Proof.Machine.execCleCollectiveEnd tower s
  | .dceDecompose cluster => Sys2Proof.Machine.execDceDecompose cluster s
  | .dceEnd cluster => Sys2Proof.Machine.execDceEnd cluster s
  | .omuPassStart cluster feed => Sys2Proof.Machine.execOmuPassStart cluster feed s
  | .omuPassEnd cluster => Sys2Proof.Machine.execOmuPassEnd cluster s
  | .omuPhldRun cluster => Sys2Proof.Machine.execOmuPhldRun cluster s
  | .omuSwapRun cluster => Sys2Proof.Machine.execOmuSwapRun cluster s
  | .omuSettleSweep cluster => Sys2Proof.Machine.execOmuSettleSweep cluster s
  | .omuDrainRun cluster => Sys2Proof.Machine.execOmuDrainRun cluster s
  | .omuClearRun cluster => Sys2Proof.Machine.execOmuClearRun cluster s
  | .omuCalRun cluster => Sys2Proof.Machine.execOmuCalRun cluster s
  | .omuCalEnd cluster => Sys2Proof.Machine.execOmuCalEnd cluster s
  | .omuProbe cluster => Sys2Proof.Machine.execOmuProbe cluster s
  | .pacerUpdate cluster tmax beyond => Sys2Proof.Machine.execPacerUpdate cluster tmax beyond s
  | .omuThermalStop cluster temp => Sys2Proof.Machine.execOmuThermalStop cluster temp s
  | .omuThermalResume cluster temp => Sys2Proof.Machine.execOmuThermalResume cluster temp s
  | .groupWatchdog cluster n => Sys2Proof.Machine.execGroupWatchdog cluster n s
  | .launchRequest idx => Sys2Proof.Machine.execLaunchRequest idx s
  | .launchDistribute idx => Sys2Proof.Machine.execLaunchDistribute idx s
  | .distributeRetry tower idx => Sys2Proof.Machine.execDistributeRetry tower idx s
  | .dispenserStartUnit cluster => Sys2Proof.Machine.execDispenserStartUnit cluster s
  | .unitCompletion idx => Sys2Proof.Machine.execUnitCompletion idx s
  | .levelWaitRequest idx => Sys2Proof.Machine.execLevelWaitRequest idx s
  | .phaseCloseRequest idx => Sys2Proof.Machine.execPhaseCloseRequest idx s
  | .levelCancelDrop idx => Sys2Proof.Machine.execLevelCancelDrop idx s
  | .phaseWave id => Sys2Proof.Machine.execPhaseWave id s
  | .remapSwap cluster => Sys2Proof.Machine.execRemapSwap cluster s
  | .thermalHold cluster temp => Sys2Proof.Machine.execThermalHold cluster temp s
  | .thermalMigrate cluster temp k => Sys2Proof.Machine.execThermalMigrate cluster temp k s
  | .thermalThrottle cluster temp => Sys2Proof.Machine.execThermalThrottle cluster temp s
  | .npRegionExpire k => Sys2Proof.Machine.execNpRegionExpire k s
  | .gangSwitchBegin core => Sys2Proof.Machine.execGangSwitchBegin core s
  | .gangSwitchSaved core => Sys2Proof.Machine.execGangSwitchSaved core s
  | .falloutDivert idx => Sys2Proof.Machine.execFalloutDivert idx s
  | .holdupStart => Sys2Proof.Machine.execHoldupStart s
  | .holdupStop => Sys2Proof.Machine.execHoldupStop s
  | .holdupCopy => Sys2Proof.Machine.execHoldupCopy s
  | .saveChunkWrite ok => Sys2Proof.Machine.execSaveChunkWrite ok s
  | .holdupCommit => Sys2Proof.Machine.execHoldupCommit s
  | .holdupReserveMeasure resj => Sys2Proof.Machine.execHoldupReserveMeasure resj s
  | .rowRepair => Sys2Proof.Machine.execRowRepair s
  | .rowRepairDone result => Sys2Proof.Machine.execRowRepairDone result s
  | .linkFrameReceive port hdr op bad msgs => Sys2Proof.Machine.execLinkFrameReceive port hdr op bad msgs s
  | .linkNak port seq => Sys2Proof.Machine.execLinkNak port seq s
  | .linkChg port level lane at_ => Sys2Proof.Machine.execLinkChg port level lane at_ s
  | .linkCack port at_ => Sys2Proof.Machine.execLinkCack port at_ s
  | .linkChgTimeout port => Sys2Proof.Machine.execLinkChgTimeout port s
  | .linkBerWindow port corrected0 corrected1 failing errs => Sys2Proof.Machine.execLinkBerWindow port corrected0 corrected1 failing errs s
  | .linkDown port reason => Sys2Proof.Machine.execLinkDown port reason s
  | .linkTrainingDone port ok peer => Sys2Proof.Machine.execLinkTrainingDone port ok peer s
  | .cxlMemRequest m write addr data => Sys2Proof.Machine.execCxlMemRequest m write addr data s
  | .hostWindowAccess idx accept data => Sys2Proof.Machine.execHostWindowAccess idx accept data s
  | .launchWindowGo slot record ctl => Sys2Proof.Machine.execLaunchWindowGo slot record ctl s
  | .attestationQuote => Sys2Proof.Machine.execAttestationQuote s
  | .dirOvfRead core => Sys2Proof.Machine.execDirOvfRead core s
  | .dirCmdInvalidate core v => Sys2Proof.Machine.execDirCmdInvalidate core v s
  | .dirCmdRelease core v => Sys2Proof.Machine.execDirCmdRelease core v s
  | .pjRelease core v => Sys2Proof.Machine.execPjRelease core v s
  | .fewtArm core v => Sys2Proof.Machine.execFewtArm core v s
  | .fewtDisarm core v => Sys2Proof.Machine.execFewtDisarm core v s
  | .gswArm core v => Sys2Proof.Machine.execGswArm core v s
  | .gswRestore core v => Sys2Proof.Machine.execGswRestore core v s
  | .huTableClear => Sys2Proof.Machine.execHuTableClear s
  | .snrInvalidate tower n v => Sys2Proof.Machine.execSnrInvalidate tower n v s
  | .omuBindWrite cluster v => Sys2Proof.Machine.execOmuBindWrite cluster v s
  | .mxGroupWrite cluster v => Sys2Proof.Machine.execMxGroupWrite cluster v s
  | .xformWrite core v => Sys2Proof.Machine.execXformWrite core v s
  | .semCountWrite core n v => Sys2Proof.Machine.execSemCountWrite core n v s
  | .vcbmonWrite k v => Sys2Proof.Machine.execVcbmonWrite k v s
  | .probePeriodWrite cluster v => Sys2Proof.Machine.execProbePeriodWrite cluster v s
  | .bsBaseWrite k ch v => Sys2Proof.Machine.execBsBaseWrite k ch v s
  | .linkEnableWrite port v => Sys2Proof.Machine.execLinkEnableWrite port v s
  | .coreRetireWrite v => Sys2Proof.Machine.execCoreRetireWrite v s
  | .omuSiteRetire n v => Sys2Proof.Machine.execOmuSiteRetire n v s
  | .dbgContextAccess core write v => Sys2Proof.Machine.execDbgContextAccess core write v s
  | .registerWrite blk n v => Sys2Proof.Machine.execRegisterWrite blk n v s
  | .thermalHoldClear cluster temp => Sys2Proof.Machine.execThermalHoldClear cluster temp s
  | .laneLossOfLock port lane => Sys2Proof.Machine.execLaneLossOfLock port lane s
  | .combSourceFailure standby => Sys2Proof.Machine.execCombSourceFailure standby s
  | .quoteWritten => Sys2Proof.Machine.execQuoteWritten s

end Sys2Proof.Machine
end

