-- ==== Sys2Proof/Machine/Turns.lean ====
section
/-! DEFINITION. The turns of a cycle. No turn with a use is lost (R282, R295); two of one cycle are taken in the order of
the photo-finish rule, lower logical core first, but for a leader's `grejoin`, which follows a `gleave` (R250, R306). -/

namespace Sys2Proof.Machine


/-- Slots whose turn may have a use: those with a state of their own, the service slots of cores with a queued event, and in a hold-up
every slot. -/
def turnKeys (s : State) : List Nat :=
  if s.modul.hu = .idle then
    s.slots.map (fun p => p.1) ++ (s.cores.filter fun c => !c.2.evq.isEmpty).map fun c => svcSlot s c.1
  else rangeFrom 0 (8 * 160 * 34 * 16)

/-- Slot `k` holds its turn and has a use for it. -/
def slotDue (s : State) (k : Nat) : Bool := holdsTurn s k && decide (turnUse s k ≠ .empty)

/-- A gang's leader is about to evaluate `grejoin`. -/
def rejoins (s : State) (k : Nat) : Bool :=
  leadsGang s k && match fetchWord s k with
    | .word w => decide (decodeWord w = .ok .grejoin)
    | _ => false

/-- The place of a turn among those of its cycle. DEDUCED, unsafe (log entry 10). -/
def turnRank (s : State) (k : Nat) : Nat :=
  (if turnUse s k ≠ .issue then 0 else if rejoins s k then 2 else 1) * 2 ^ 32 + clusterOf (coreOf k) * 64 + lcoreOf s (coreOf k)

/-- The first of the turns of some slots. -/
def firstDue (s : State) : List Nat → Option Nat
  | [] => none
  | k :: ks => match firstDue s ks with
    | none => if slotDue s k then some k else none
    | some j => if slotDue s k && decide (turnRank s k ≤ turnRank s j) then some k else some j

/-- The next turn of this cycle, of those that have a use. -/
def dueTurn (s : State) : Option Nat := if s.time < s.turnsTo then none else firstDue s (turnKeys s)

/-- A parked slot whose instruction, evaluated now, would not park again. -/
def wakes (run : Instr → State → Out) (s : State) (k : Nat) : Bool :=
  decide ((slotAt s k).st = .parked) && decide (turnUse s k = .issue) &&
    match evalTurn run s k with
    | .next t => decide (t.mark ≠ .parked)
    | _ => true

/-- The end of a cycle: each parked slot whose condition an event or a turn of the cycle made true wakes, with the attached followers of
its gang (R284). DEDUCED, unsafe (log entry 105). -/
def wakeAll (run : Instr → State → Out) (s : State) : State :=
  ((s.slots.map fun p => p.1).filter (wakes run s)).foldl (fun s k => (k :: followers s k).foldl wake s) s

/-- The slots that are parked as the cycle begins: whatever another turn of the cycle offers, their turns of it stay empty (R284). -/
def emptyTurns (s : State) : List Nat := (s.slots.filter fun p => decide (p.2.st = .parked)).map fun p => p.1

/-- The turn of the current slot. What another turn of the same cycle offered wakes a parked slot at the cycle's end only (R284). -/
def takeTurn (run : Instr → State → Out) (s : State) : Out :=
  match evalTurn run s s.cur with
  | .next t =>
    if s.empties.contains s.cur && decide (t.mark ≠ .parked) then .next ((s.cur :: followers s s.cur).foldl parkMember s) else .next t
  | .fault f => .fault f
  | .refused r => .refused r

/-- The next cycle begins. -/
def nextCycle (run : Instr → State → Out) (s : State) : State :=
  let t := wakeAll run { s with time := s.time + 1, empties := [] }
  { t with empties := emptyTurns t }

/-- The parity error that a turn may meet: free, most often none. -/
def turnError (s : State) : Option Nat × State :=
  let (f, t) := takeFree s
  (if Config.freeBool f then some (Config.freeNat f) else none, t)

end Sys2Proof.Machine
end

