-- ==== Sys2Proof/Machine/Step.lean ====
section
/-! DEFINITION. One step of the machine, and the placing of an instruction where the next step runs it. -/

namespace Sys2Proof.Machine

/-- The next choice of what moves: from the agenda while it lasts, then free (R101). -/
def nextChoice (s : State) : Choice × State :=
  match s.agenda with
  | c :: cs => (c, { s with agenda := cs })
  | [] => (Config.nextMover s.choices, { s with choices := s.choices + 1 })

/-- The event of a choice `dt` cycles ahead: an event of this cycle happens, and closes the cycle's turns; else a cycle passes (R184). -/
def runChoice (c : Choice) (s : State) : Host.Outcome State Fault Refusal :=
  match c.dt with
  | 0 => exec c.ev { s with turnsTo := s.time + 1 }
  | n + 1 => .next (nextCycle exec { s with agenda := ⟨n, c.ev⟩ :: s.agenda })

/-- One step: the slot that holds its issue turn evaluates its instruction; or a gang switch of this cycle begins; or a slot takes its turn of
this cycle; or else the next event happens, or the cycle ends; then what follows a step at once follows. Once boot has failed nothing
answers until the next one (R393). DESIGN CHOICE, safe (log entry 66); DESIGN CHOICE, safe (log entry 68). -/
def step (s : State) : Host.Outcome State Fault Refusal :=
  if s.modul.off then
    match (nextChoice s).1.ev with
    | .boot good => afterStep (exec (.boot good) { (nextChoice s).2 with time := s.time + (nextChoice s).1.dt })
    | _ => .fault .poweredOff
  else if bootFailed s then
    match (nextChoice s).1.ev with
    | .boot good => afterStep (exec (.boot good) { (nextChoice s).2 with time := s.time + (nextChoice s).1.dt })
    | _ => .next { (nextChoice s).2 with time := s.time + (nextChoice s).1.dt }
  else if s.turn then afterStep (takeTurn exec { s with turn := false })
  else match dueSwitch s with
    | some core => afterStep (execGangSwitchBegin core s)
    | none => match dueTurn s with
      | some k => afterStep (exec (.slotTurn k (turnError s).1) (turnError s).2)
      | none => afterStep (runChoice (nextChoice s).1 (nextChoice s).2)

/-- The state with one word where the next step fetches it. DESIGN CHOICE, safe (log entry 21). -/
def State.withFetchWord (s : State) (_nbits w : Nat) : State := placeWord s w

end Sys2Proof.Machine
end

