-- ==== Sys2Proof/Safety.lean ====
section
/-! DEFINITION. What a safe run is: no step of it stops. -/

namespace Sys2Proof.Machine

/-- The machine does not stop in this state. -/
def State.goes (s : State) : Prop := ∃ t, step s = .next t

/-- No step among the first `n` stops. -/
def State.safeFor : Nat → State → Prop
  | 0, _ => True
  | n + 1, s => ∃ t, step s = .next t ∧ State.safeFor n t

end Sys2Proof.Machine
end

