-- ==== Sys2Proof/WellFormed.lean ====
section
/-! DEFINITION. Well-formed instructions: the operand values that an encoding admits (R19), and for the events of the
table operands that name units of the part (R2). -/

namespace Sys2Proof

/-- Eight towers (R2). -/
def towerOk (t : Nat) : Bool := decide (t < 8)

/-- 160 clusters in each tower (R2); the flat key of a cluster is tower * 160 + cluster. -/
def clusterKeyOk (c : Nat) : Bool := decide (c < 1280)

/-- 34 physical cores in each cluster (R2); the flat key of a core is cluster * 34 + physical core. -/
def coreKeyOk (c : Nat) : Bool := decide (c < 43520)

/-- 16 thread slots on each core (R2); the flat key of a slot is core * 16 + slot. -/
def slotKeyOk (k : Nat) : Bool := decide (k < 696320)

/-- Sixteen link ports (R2). -/
def portOk (p : Nat) : Bool := decide (p < 16)

/-- The operands of an instruction or event lie in their ranges. -/
def Instr.wf : Instr → Bool
  | .add _ _ _ _ => true
  | .sub _ _ _ _ => true
  | .and _ _ _ _ => true
  | .or _ _ _ _ => true
  | .xor _ _ _ _ => true
  | .andn _ _ _ _ => true
  | .orn _ _ _ _ => true
  | .sll _ _ _ _ => true
  | .srl _ _ _ _ => true
  | .sra _ _ _ _ => true
  | .slt _ _ _ _ => true
  | .sltn _ _ _ _ => true
  | .min _ _ _ _ => true
  | .max _ _ _ _ => true
  | .minn _ _ _ _ => true
  | .maxn _ _ _ _ => true
  | .addw _ _ _ _ => true
  | .subw _ _ _ _ => true
  | .sllw _ _ _ _ => true
  | .srlw _ _ _ _ => true
  | .sraw _ _ _ _ => true
  | .mul _ _ _ _ => true
  | .mulh _ _ _ _ => true
  | .mulhn _ _ _ _ => true
  | .div _ _ _ _ => true
  | .divn _ _ _ _ => true
  | .rem _ _ _ _ => true
  | .remn _ _ _ _ => true
  | .clz _ _ _ => true
  | .ctz _ _ _ => true
  | .popc _ _ _ => true
  | .rotl _ _ _ _ => true
  | .rotr _ _ _ _ => true
  | .rev8 _ _ _ => true
  | .brev _ _ _ => true
  | .bext _ _ _ _ => true
  | .bdep _ _ _ _ => true
  | .sext _ _ _ w => decide (w ≠ 3#2)
  | .zext _ _ _ w => decide (w ≠ 3#2)
  | .addi _ _ _ _ => true
  | .andi _ _ _ _ => true
  | .ori _ _ _ _ => true
  | .xori _ _ _ _ => true
  | .slti _ _ _ _ => true
  | .sltni _ _ _ _ => true
  | .slli _ _ _ _ => true
  | .srli _ _ _ _ => true
  | .srai _ _ _ _ => true
  | .rotli _ _ _ _ => true
  | .lui _ _ => true
  | .pcaddu _ _ => true
  | .selz _ _ _ _ => true
  | .selnz _ _ _ _ => true
  | .lea _ _ _ _ _ => true
  | .segck _ _ _ _ => true
  | .tchk _ _ _ => true
  | .ldI8 _ _ _ _ _ => true
  | .ldN8 _ _ _ _ _ => true
  | .ldI16 _ _ _ _ _ => true
  | .ldN16 _ _ _ _ _ => true
  | .ldI32 _ _ _ _ _ => true
  | .ldN32 _ _ _ _ _ => true
  | .ld64 _ _ _ _ _ => true
  | .st8 _ _ _ _ _ => true
  | .st16 _ _ _ _ _ => true
  | .st32 _ _ _ _ _ => true
  | .st64 _ _ _ _ _ => true
  | .ldro64 _ _ _ _ _ => true
  | .pfro _ _ _ _ => true
  | .ldfe _ _ _ _ _ => true
  | .ldff _ _ _ _ _ => true
  | .stef _ _ _ _ _ => true
  | .stff _ _ _ _ _ => true
  | .fset _ _ => true
  | .fclr _ _ => true
  | .fget _ _ _ => true
  | .amoAdd _ _ _ _ _ => true
  | .amoAnd _ _ _ _ _ => true
  | .amoOr _ _ _ _ _ => true
  | .amoXor _ _ _ _ _ => true
  | .amoMin _ _ _ _ _ => true
  | .amoMax _ _ _ _ _ => true
  | .amoMinn _ _ _ _ _ => true
  | .amoMaxn _ _ _ _ _ => true
  | .amoSwap _ _ _ _ _ => true
  | .amoFadd _ _ _ _ => true
  | .cas _ _ _ _ _ => true
  | .fence _ c => scopeOk c
  | .fencex _ c => scopeOk c
  | .rocinv _ _ _ => true
  | .pjwait _ => true
  | .beq _ _ _ => true
  | .bne _ _ _ => true
  | .blt _ _ _ => true
  | .bge _ _ _ => true
  | .bltn _ _ _ => true
  | .bgen _ _ _ => true
  | .bfull _ _ => true
  | .beqi _ _ _ => true
  | .bnei _ _ _ => true
  | .blti _ _ _ => true
  | .bgei _ _ _ => true
  | .jal _ _ => true
  | .jalr _ _ _ _ => true
  | .loop _ _ _ => true
  | .gform _ _ => true
  | .gsplit => true
  | .grejoin => true
  | .gleave => true
  | .pin => true
  | .unpin => true
  | .semdn _ => true
  | .semup _ => true
  | .semtry _ _ => true
  | .qbind _ _ => true
  | .qwaitf _ _ _ => true
  | .qwaite _ _ _ => true
  | .qadvh _ _ => true
  | .qadvt _ _ => true
  | .qcnt _ _ => true
  | .yield _ _ => true
  | .park _ _ _ => true
  | .wake _ _ => true
  | .tsleep _ _ => true
  | .clock _ _ => true
  | .wfw => true
  | .tdone => true
  | .tfail _ _ => true
  | .launch _ _ _ => true
  | .lvlcnt _ _ _ => true
  | .lvlwait _ _ _ => true
  | .lvlcancel _ _ => true
  | .phopen _ _ _ => true
  | .phclose _ _ => true
  | .phwait _ _ _ => true
  | .msend _ _ _ _ => true
  | .msendD _ _ _ _ => true
  | .mend => true
  | .hop _ _ => true
  | .mwait _ _ _ _ => true
  | .tdecl _ _ _ => true
  | .tarm _ _ _ => true
  | .twait _ _ _ => true
  | .trel _ => true
  | .xset _ _ k => decide (k.toNat ≤ 9)
  | .xcopy _ _ _ => true
  | .xgather _ _ _ => true
  | .xscatter _ _ _ => true
  | .xfill _ _ => true
  | .xlrec _ _ _ => true
  | .xlflush _ _ => true
  | .strm _ _ _ => true
  | .strmoff _ _ _ => true
  | .vset _ _ _ _ => true
  | .vadd _ _ _ _ _ => true
  | .vsub _ _ _ _ _ => true
  | .vmul _ _ _ _ _ => true
  | .vfma _ _ _ _ _ => true
  | .vmax _ _ _ _ _ => true
  | .vmin _ _ _ _ _ => true
  | .vabs _ _ _ _ => true
  | .vneg _ _ _ _ => true
  | .vscale _ _ _ _ _ => true
  | .viadd _ _ _ _ _ => true
  | .visub _ _ _ _ _ => true
  | .vimul _ _ _ _ _ => true
  | .viand _ _ _ _ _ => true
  | .vior _ _ _ _ _ => true
  | .vixor _ _ _ _ _ => true
  | .vishl _ _ _ _ _ => true
  | .vishr _ _ _ _ _ => true
  | .vconv _ _ _ _ => true
  | .vbfp _ _ _ _ => true
  | .vbfpx _ _ _ _ => true
  | .vcbq _ _ _ _ => true
  | .vcbx _ _ _ _ => true
  | .vsat _ _ _ _ _ => true
  | .vsum _ _ _ _ => true
  | .vmaxr _ _ _ _ => true
  | .vdot _ _ _ _ _ => true
  | .vcbld _ _ => true
  | .mown _ _ => true
  | .mset _ _ k => decide (k.toNat ≤ 2)
  | .mphld _ _ _ _ => true
  | .mswap _ => true
  | .mpass _ _ _ => true
  | .mdrain _ _ _ => true
  | .mclr _ _ _ => true
  | .mprobe _ => true
  | .mdecomp _ _ _ => true
  | .phrd _ _ _ => true
  | .phwr _ _ _ => true
  | .mcal _ _ _ => true
  | .macrd _ _ _ => true
  | .colgo _ _ _ => true
  | .nidict _ _ _ => true
  | .niclr _ _ => true
  | .bsbind _ _ _ => true
  | .bsget _ _ _ => true
  | .bspeek _ _ _ => true
  | .bsput _ _ _ => true
  | .bsskip _ _ _ => true
  | .bsalign _ _ _ => true
  | .bslut _ _ _ _ => true
  | .crc32c _ _ _ _ => true
  | .hash64 _ _ _ _ => true
  | .tfwake _ _ _ _ => true
  | .sys _ _ => true
  | .brk => true
  | .eret => true
  | .halt => true
  | .cget _ n => assignedReg n.toNat
  | .cput _ _ n => assignedReg n.toNat
  | .segld _ _ _ _ _ => true
  | .segst _ _ _ _ _ => true
  | .snap _ _ _ => true
  | .accept _ _ _ => true
  | .reject _ _ _ => true
  | .snapq _ _ _ => true
  | .msadd _ _ _ _ => true
  | .msdel _ _ _ => true
  | .msqry _ _ _ => true
  | .tlbfa _ _ _ => true
  | .tlbinv _ _ _ _ => true
  | .scwb _ _ _ _ => true
  | .scinv _ _ _ _ => true
  | .scdom _ _ _ _ => true
  | .lmpwr _ _ _ _ => true
  | .hustat _ _ _ _ => true
  | .pmig _ _ _ _ => true
  | .pmigsw _ _ _ _ => true
  | .lnkq _ _ _ => true
  | .lnkfec _ _ _ _ => true
  | .lnkclaim _ _ _ _ => true
  | .vbset _ _ _ _ => true
  | .vbtest _ _ _ _ => true
  | .crmap _ _ _ _ => true
  | .dbghalt _ _ _ _ => true
  | .dbgresume _ _ _ _ => true
  | .boot _ => true
  | .slotTurn k par => slotKeyOk k && par.all fun r => decide (1 ≤ r) && decide (r ≤ 31)
  | .timebaseDeadline k => slotKeyOk k
  | .niSend core => coreKeyOk core
  | .loadRequest _ => true
  | .loadReply _ => true
  | .postedStore _ => true
  | .storeAck _ => true
  | .storeRefusal _ => true
  | .atomicRequest _ => true
  | .atomicReply _ => true
  | .syncRequest _ => true
  | .syncReply _ => true
  | .syncRetry _ => true
  | .feRetryResend core _ => coreKeyOk core
  | .roFillRequest _ => true
  | .roFillReply _ => true
  | .dirInvalidate _ => true
  | .invalidateAck _ => true
  | .activeMessage _ => true
  | .amRefusal _ => true
  | .amHandlerStart core => coreKeyOk core
  | .engineWrite _ => true
  | .engineReadRequest _ => true
  | .engineReadReply _ => true
  | .batonPass _ => true
  | .batonAnswer _ => true
  | .batonResend k => slotKeyOk k
  | .batonInstall core => coreKeyOk core
  | .withdrawal _ => true
  | .withdrawnAnswer _ => true
  | .launchStatusReply _ => true
  | .controlWindowAccess _ => true
  | .netHopReplay tower _ => towerOk tower
  | .netHopFail cluster dir => clusterKeyOk cluster && decide (dir < 5)
  | .niBufferParity core _ => coreKeyOk core
  | .queueParity core _ _ => coreKeyOk core
  | .pageWalk cluster _ => clusterKeyOk cluster
  | .walkMigReread cluster _ => clusterKeyOk cluster
  | .tlbfaPortDiscard _ => true
  | .tlbinvBroadcast cluster => clusterKeyOk cluster
  | .scFillComplete _ _ => true
  | .snapRecord _ => true
  | .snapqQuery _ => true
  | .snapSweep _ => true
  | .scSpanWalk _ => true
  | .scdomUpdate _ => true
  | .scrubPatrol _ _ => true
  | .migrationCopy tower _ => towerOk tower
  | .lmQuarterReady core q => coreKeyOk core && decide (q < 4)
  | .xfeCommandStart core => coreKeyOk core
  | .xfeCommandEnd core => coreKeyOk core
  | .xfeFault core => coreKeyOk core
  | .streamFetch k st => slotKeyOk k && decide (st < 4)
  | .streamWrite k st => slotKeyOk k && decide (st < 4)
  | .veCommandStart core => coreKeyOk core
  | .veCommandEnd core => coreKeyOk core
  | .veFault core => coreKeyOk core
  | .cleCollectiveStart tower => towerOk tower
  | .cleCollectiveEnd tower => towerOk tower
  | .dceDecompose cluster => clusterKeyOk cluster
  | .dceEnd cluster => clusterKeyOk cluster
  | .omuPassStart cluster _ => clusterKeyOk cluster
  | .omuPassEnd cluster => clusterKeyOk cluster
  | .omuPhldRun cluster => clusterKeyOk cluster
  | .omuSwapRun cluster => clusterKeyOk cluster
  | .omuSettleSweep cluster => clusterKeyOk cluster
  | .omuDrainRun cluster => clusterKeyOk cluster
  | .omuClearRun cluster => clusterKeyOk cluster
  | .omuCalRun cluster => clusterKeyOk cluster
  | .omuCalEnd cluster => clusterKeyOk cluster
  | .omuProbe cluster => clusterKeyOk cluster
  | .pacerUpdate cluster _ _ => clusterKeyOk cluster
  | .omuThermalStop cluster _ => clusterKeyOk cluster
  | .omuThermalResume cluster _ => clusterKeyOk cluster
  | .groupWatchdog cluster _ => clusterKeyOk cluster
  | .launchRequest _ => true
  | .launchDistribute _ => true
  | .distributeRetry tower _ => towerOk tower
  | .dispenserStartUnit cluster => clusterKeyOk cluster
  | .unitCompletion _ => true
  | .levelWaitRequest _ => true
  | .phaseCloseRequest _ => true
  | .levelCancelDrop _ => true
  | .phaseWave _ => true
  | .remapSwap cluster => clusterKeyOk cluster
  | .thermalHold cluster _ => clusterKeyOk cluster
  | .thermalMigrate cluster _ k => clusterKeyOk cluster && slotKeyOk k
  | .thermalThrottle cluster _ => clusterKeyOk cluster
  | .npRegionExpire k => slotKeyOk k
  | .gangSwitchBegin core => coreKeyOk core
  | .gangSwitchSaved core => coreKeyOk core
  | .falloutDivert _ => true
  | .holdupStart => true
  | .holdupStop => true
  | .holdupCopy => true
  | .saveChunkWrite _ => true
  | .holdupCommit => true
  | .holdupReserveMeasure _ => true
  | .rowRepair => true
  | .rowRepairDone result => decide (result < 3)
  | .linkFrameReceive port _ _ _ _ => portOk port
  | .linkNak port _ => portOk port
  | .linkChg port level _ _ => portOk port && decide (level < 4)
  | .linkCack port _ => portOk port
  | .linkChgTimeout port => portOk port
  | .linkBerWindow port _ _ _ _ => portOk port
  | .linkDown port reason => portOk port && decide (1 ≤ reason) && decide (reason ≤ 8)
  | .linkTrainingDone port _ _ => portOk port
  | .cxlMemRequest m _ _ _ => decide (m < 2)
  | .hostWindowAccess _ _ _ => true
  | .launchWindowGo slot _ _ => decide (slot < 64)
  | .attestationQuote => true
  | .dirOvfRead core => coreKeyOk core
  | .dirCmdInvalidate core _ => coreKeyOk core
  | .dirCmdRelease core _ => coreKeyOk core
  | .pjRelease core _ => coreKeyOk core
  | .fewtArm core _ => coreKeyOk core
  | .fewtDisarm core _ => coreKeyOk core
  | .gswArm core _ => coreKeyOk core
  | .gswRestore core _ => coreKeyOk core
  | .huTableClear => true
  | .snrInvalidate tower n _ => towerOk tower && decide (n < 16)
  | .omuBindWrite cluster _ => clusterKeyOk cluster
  | .mxGroupWrite cluster _ => clusterKeyOk cluster
  | .xformWrite core _ => coreKeyOk core
  | .semCountWrite core n _ => coreKeyOk core && decide (n < 16)
  | .vcbmonWrite k _ => slotKeyOk k
  | .probePeriodWrite cluster _ => clusterKeyOk cluster
  | .bsBaseWrite k _ _ => slotKeyOk k
  | .linkEnableWrite port _ => portOk port
  | .coreRetireWrite _ => true
  | .omuSiteRetire n _ => decide (n < 3)
  | .dbgContextAccess core _ _ => coreKeyOk core
  | .registerWrite _ n _ => assignedReg n
  | .thermalHoldClear cluster _ => clusterKeyOk cluster
  | .laneLossOfLock port lane => portOk port && decide (lane < 9)
  | .combSourceFailure _ => true
  | .quoteWritten => true

end Sys2Proof
end

