-- ==== Sys2Proof/Certificates/Slice0/Obligations.lean ====
section
/-! DEFINITION. The statements. Each names what it states; a definition of `Sys2Proof.Claims` is the vocabulary that they share. Where a
statement rests on a choice of the model's own, its text names the log entry. -/

namespace Sys2Proof.Claims

open Sys2Proof.Machine

/-! The vocabulary. -/

/-- The slot at its turn reads its sources, with values `vs`, and may write its destination; `y` is the slot with the stream elements
popped (R174, R183). -/
def Reads (s : State) (srcs : List GReg) (dst : Option GReg) (vs : List Word) (y : Slot) (reply : Bool := false) : Prop :=
  (slotAt s s.cur).prep (srcs.map BitVec.toNat) (dst.map BitVec.toNat) reply = .ok vs y

/-- The state with the pops of the reads done. -/
def popped (s : State) (y : Slot) : State := setSlot s s.cur y

/-- The instruction completes with the changes of `t`, and the PC moves on by 4. -/
def completes (s t : State) : Out := .next (finish s s.cur (.done t))

/-- The instruction completes with the changes of `t`, and the PC becomes `pc`. -/
def jumps (s t : State) (pc : Word) : Out := .next (finish s s.cur (.jump t pc))

/-- A conditional branch completes: taken to its target, or not and behind itself (R287). -/
def branches (s t : State) (o : BitVec 12) (taken : Bool) : Out :=
  .next (finish s s.cur (.branch t (if taken then (slotAt s s.cur).pc + 4#64 * o.signExtend 64 else (slotAt s s.cur).pc + 4#64) taken))

/-- The instruction parks: it has changed only what `t` has. -/
def parks (s t : State) : Out := .next (finish s s.cur (.park t))

/-- The instruction traps precisely, and `t` records why. -/
def traps (s : State) (c : Nat) (v : Word) : Out := .next (trapNow s s.cur c v)

/-- The state after a take of `a` and the write of `v` to `d` (R14). -/
def wrote (s : State) (d a : GReg) (t : Bool) (v : Word) : State :=
  modSlot s s.cur fun x => (x.takeIf t a.toNat).writeDst d.toNat v

/-- The state after a take alone. -/
def took (s : State) (a : GReg) (t : Bool) : State := modSlot s s.cur fun x => x.takeIf t a.toNat

/-! Rows of the tables of chapter 8: the encoding of a form, and the value that it writes. -/

/-- An R-format row with two sources. -/
def RowTwo (op : BitVec 7) (fn : BitVec 9) (mk : GReg → GReg → GReg → Bool → Instr) (f : Word → Word → Word) : Prop :=
  ∀ d a b t, decodeWord (rWord op d a b t fn) = .ok (mk d a b t) ∧
    ∀ s va vb y, Reads s [a, b] (some d) [va, vb] y →
      exec (mk d a b t) s = completes s (wrote (popped s y) d a t (f va vb))

/-- An R-format row with one source and b = 0. -/
def RowOne (op : BitVec 7) (fn : BitVec 9) (mk : GReg → GReg → Bool → Instr) (f : Word → Word) : Prop :=
  ∀ d a t, decodeWord (rWord op d a 0#5 t fn) = .ok (mk d a t) ∧
    ∀ s va y, Reads s [a] (some d) [va] y → exec (mk d a t) s = completes s (wrote (popped s y) d a t (f va))

/-- An I-format row; imm is sign-extended. -/
def RowImm (op : BitVec 7) (mk : GReg → GReg → Bool → BitVec 14 → Instr) (f : Word → Word → Word) : Prop :=
  ∀ d a t i, decodeWord (iWord op d a t i) = .ok (mk d a t i) ∧
    ∀ s va y, Reads s [a] (some d) [va] y →
      exec (mk d a t i) s = completes s (wrote (popped s y) d a t (f va (i.signExtend 64)))

/-- A shift-immediate row: imm[13:12] selects the form, imm[11:6] is zero and imm[5:0] is the amount. -/
def RowShift (sel : BitVec 2) (mk : GReg → GReg → Bool → BitVec 6 → Instr) (f : Word → Nat → Word) : Prop :=
  ∀ d a t m, decodeWord (iWord 0x0B#7 d a t (sel ++ 0#6 ++ m)) = .ok (mk d a t m) ∧
    ∀ s va y, Reads s [a] (some d) [va] y →
      exec (mk d a t m) s = completes s (wrote (popped s y) d a t (f va m.toNat))

/-- 1 for true and 0 for false (R186). -/
def oneIf (p : Prop) [Decidable p] : Word := if p then 1#64 else 0#64

/-- The positions of a word's 1 bits, lowest first. -/
def onesOf (w : Word) : List Nat := (List.range 64).filter fun i => w.getLsbD i

/-- The word whose bit `i` is `p i`. -/
def bitsWord (p : Nat → Bool) : Word := BitVec.ofNat 64 (((List.range 64).map fun i => if p i then 2 ^ i else 0).sum)

/-! Accesses to memory. -/

/-- The address of an M-format access at the issuing slot, which is no baton pass (R131, R136, R150). -/
def AtAddr (s : State) (sg : BitVec 3) (base : Word) (o : BitVec 11) (n : Nat) (need : Need) (la pa : Nat) (acc : Acc) : Prop :=
  segAddr s s.cur sg.toNat (base + o.signExtend 64 * BitVec.ofNat 64 n) n need = .ok la pa acc ∧ attracts s s.cur sg.toNat pa = false

/-- The address of an access through a segmented pointer, which is no baton pass (R132, R150). -/
def AtPtr (s : State) (p : Word) (n : Nat) (need : Need) (la pa : Nat) (acc : Acc) : Prop :=
  ptrAddr s s.cur p n need = .ok la pa acc ∧ attracts s s.cur (p.toNat / 2 ^ 61) pa = false

/-- The value of `n` loaded bytes, lowest address first. -/
def loaded (n : Nat) (signed : Bool) (bs : List Byte) : Word :=
  if signed then (BitVec.ofNat (8 * n) (leNat bs)).signExtend 64 else (BitVec.ofNat (8 * n) (leNat bs)).setWidth 64

/-- The state after the take of `a` and poison of cause `c` for `pa` in `d` (R138). -/
def poisoned (s : State) (d a : GReg) (t : Bool) (c pa : Nat) : State :=
  modSlot (took s a t) s.cur fun x => x.setPoison d.toNat (BitVec.ofNat 64 (c % 128 * 2 ^ 57 + pa % 2 ^ 56))

/-- The message of a request from the issuing slot to the home of `pa`. -/
def requestMsg (s : State) (tag pa : Nat) (b : Body) : Msg :=
  ⟨.ni (coreOf s.cur), homeAgent s (coreOf s.cur) pa, tag, s.cur, (slotAt s s.cur).phase, b⟩

/-- The state after the take of `a`, with a request of tag `tag` behind what the core's NI sends, and `d` emptied and pending (R106, R137). -/
def requested (s : State) (d a : GReg) (t : Bool) (tag n : Nat) (signed : Bool) (kind : ReqKind) (form : Option SyncForm) (pa : Nat)
    (b : Body) : State :=
  modSlot (modCore (took s a t) (coreOf s.cur) fun c =>
    { setReq c tag (some ⟨kind, s.cur, d.toNat, n, signed, form, requestMsg s tag pa b, 1, none, false, []⟩) with
      ni := c.ni ++ [requestMsg s tag pa b] }) s.cur fun x => x.pending d.toNat

/-- The state after the take of `a`, with a store in journal entry `e` and its message behind what the core's NI sends; the line leaves the
core's read-only cache (R107, R110). -/
def posted (s : State) (a : GReg) (t : Bool) (e pa : Nat) (data : List Byte) (form : Option SyncForm) (acc : Acc) (b : Body) : State :=
  modCore (rocDrop { took s a t with fresh := s.fresh + 1 } (coreOf s.cur) pa) (coreOf s.cur) fun c =>
    { setJ c e (some ⟨false, s.cur, data.length, pa, data, s.fresh, form, 0, acc⟩) with ni := c.ni ++ [requestMsg s e pa b] }

/-- A load of `n` bytes from the own LM (R136, R138, R410). -/
def LoadsOwn (n : Nat) (signed : Bool) (mk : GReg → GReg → Bool → BitVec 3 → BitVec 11 → Instr) : Prop :=
  ∀ d a t sg o s va y la pa acc off, Reads s [a] (some d) [va] y → y.barEHolds = false →
    AtAddr (popped s y) sg va o n needR la pa acc → ownLm (popped s y) (coreOf s.cur) pa = .own off →
    (firstBad s (lmKey (coreOf s.cur) off) n = none →
      exec (mk d a t sg o) s = completes s (wrote (popped s y) d a t (loaded n signed (memBytes s (lmKey (coreOf s.cur) off) n)))) ∧
    (∀ w c, firstBad s (lmKey (coreOf s.cur) off) n = some (w, c) → y.inStream d.toNat = none →
      exec (mk d a t sg o) s = completes s (poisoned (popped s y) d a t c pa))

/-- A load of `n` bytes from another home: the request leaves, and the destination is pending (R106, R136, R137). -/
def LoadsRemote (n : Nat) (signed : Bool) (mk : GReg → GReg → Bool → BitVec 3 → BitVec 11 → Instr) : Prop :=
  ∀ d a t sg o s va y la pa acc tag, Reads s [a] (some d) [va] y → y.barEHolds = false →
    AtAddr (popped s y) sg va o n needR la pa acc → ownLm (popped s y) (coreOf s.cur) pa = .other → isCtl s pa = false →
    y.inStream d.toNat = none → freeTag (coreAt s (coreOf s.cur)) = some tag →
    exec (mk d a t sg o) s = completes s (requested (popped s y) d a t tag n signed .load none pa (.loadReq pa n acc))

/-- A store of `n` bytes to the own LM: exactly those bytes change, and the line's sharers are told (R107, R111, R136). -/
def StoresOwn (n : Nat) (mk : GReg → GReg → Bool → BitVec 3 → BitVec 11 → Instr) : Prop :=
  ∀ d a t sg o s va vd y la pa acc off, Reads s [a, d] none [va, vd] y →
    AtAddr (popped s y) sg va o n needW la pa acc → ownLm (popped s y) (coreOf s.cur) pa = .own off →
    partialBad s (lmKey (coreOf s.cur) off) n = false →
    exec (mk d a t sg o) s = completes s (took
      (dirWrite (clearBad (setBytes (popped s y) (lmKey (coreOf s.cur) off) (wordLE n vd)) (lmKey (coreOf s.cur) off) n) (coreOf s.cur) off
        none) a t)

/-- A store of `n` bytes to another home that is no control window: posted (R107, R136). -/
def StoresPosted (n : Nat) (mk : GReg → GReg → Bool → BitVec 3 → BitVec 11 → Instr) : Prop :=
  ∀ d a t sg o s va vd y la pa acc e, Reads s [a, d] none [va, vd] y →
    AtAddr (popped s y) sg va o n needW la pa acc → ownLm (popped s y) (coreOf s.cur) pa = .other → isCtl s pa = false →
    freeJ (coreAt s (coreOf s.cur)) = some e →
    exec (mk d a t sg o) s =
      completes s (posted (popped s y) a t e pa (wordLE n vd) none acc (.postedStore pa (wordLE n vd) none acc))

/-- The instruction parks with nothing popped. -/
def waits (s : State) (y : Slot) : Out :=
  parks s (modSlot (popped s y) s.cur fun z => { z with strs := (slotAt s s.cur).strs })

/-- The state after a write of `n` bytes at byte `off` of the own LM, with the line's sharers told (R107, R111). -/
def wroteOwn (s u : State) (off : Nat) (bs : List Byte) : State :=
  dirWrite (clearBad (setBytes u (lmKey (coreOf s.cur) off) bs) (lmKey (coreOf s.cur) off) bs.length) (coreOf s.cur) off none

/-- The old value of an atomic's word. -/
def oldWord (n : Nat) (s : State) (off : Nat) : BitVec (8 * n) := BitVec.ofNat (8 * n) (leNat (memBytes s (lmKey (coreOf s.cur) off) n))

/-- An atomic on `n` bytes of the own LM: the new word is written, and the old one zero-extended is the result (R148). -/
def AtomicOwn (n : Nat) (mk : GReg → GReg → GReg → Bool → Instr) (f : BitVec (8 * n) → BitVec (8 * n) → BitVec (8 * n)) : Prop :=
  ∀ d a b t s va vb y la pa acc off, Reads s [a, b] (some d) [va, vb] y → y.barEHolds = false →
    AtPtr (popped s y) va n needRW la pa acc → ownLm (popped s y) (coreOf s.cur) pa = .own off →
    firstBad s (lmKey (coreOf s.cur) off) n = none →
    exec (mk d a b t) s = completes s (wrote
      (wroteOwn s (popped s y) off (natLE n (f (oldWord n s off) (vb.setWidth (8 * n))).toNat)) d a t ((oldWord n s off).setWidth 64))

/-- An atomic on `n` bytes at another home: the request leaves, and the destination is pending (R106, R148). -/
def AtomicRemote (n : Nat) (op : AmoOp) (mk : GReg → GReg → GReg → Bool → Instr) : Prop :=
  ∀ d a b t s va vb y la pa acc tag, Reads s [a, b] (some d) [va, vb] y → y.barEHolds = false →
    AtPtr (popped s y) va n needRW la pa acc → ownLm (popped s y) (coreOf s.cur) pa = .other →
    isCtl s pa = false → isHost s pa = false → y.inStream d.toNat = none → freeTag (coreAt s (coreOf s.cur)) = some tag →
    exec (mk d a b t) s = completes s (requested (rocDrop (popped s y) (coreOf s.cur) pa) d a t tag n false .atomic none pa
      (.atomicReq op pa n (BitVec.ofNat 64 (vb.toNat % 2 ^ (8 * n))) 0#64 acc))

/-- An atomic at both homes. -/
def Atomic (n : Nat) (op : AmoOp) (mk : GReg → GReg → GReg → Bool → Instr) (f : BitVec (8 * n) → BitVec (8 * n) → BitVec (8 * n)) : Prop :=
  AtomicOwn n mk f ∧ AtomicRemote n op mk

/-- An atomic with both widths: fn[5] selects 32 or 64 bits. -/
def AtomicBoth (op : AmoOp) (mk : GReg → GReg → GReg → Bool → Bool → Instr)
    (f : (w : Nat) → BitVec w → BitVec w → BitVec w) : Prop :=
  Atomic 4 op (fun d a b t => mk d a b t false) (f 32) ∧ Atomic 8 op (fun d a b t => mk d a b t true) (f 64)

/-! Control flow. -/

/-- A row of BR: two registers are compared (R287). -/
def RowBranch (cond : BitVec 3) (mk : GReg → GReg → BitVec 12 → Instr) (p : Word → Word → Prop) : Prop :=
  ∀ a b o, decodeWord (bWord 0x28#7 a b cond o) = .ok (mk a b o) ∧
    ∀ s va vb y, Reads s [a, b] none [va, vb] y →
      (p va vb → exec (mk a b o) s = branches s (popped s y) o true) ∧ (¬ p va vb → exec (mk a b o) s = branches s (popped s y) o false)

/-- A row of BRI: a register is compared with a 5-bit signed immediate (R289). -/
def RowBranchImm (cond : BitVec 3) (mk : GReg → BitVec 5 → BitVec 12 → Instr) (p : Word → Word → Prop) : Prop :=
  ∀ a i o, decodeWord (bWord 0x29#7 a i cond o) = .ok (mk a i o) ∧
    ∀ s va y, Reads s [a] none [va] y →
      (p va (i.signExtend 64) → exec (mk a i o) s = branches s (popped s y) o true) ∧
      (¬ p va (i.signExtend 64) → exec (mk a i o) s = branches s (popped s y) o false)

/-- A semaphore's count at the issuing core. -/
def semOf (s : State) (n : Nat) : Nat := ((coreAt s (coreOf s.cur)).creg (0x190 + n)).toNat % 2 ^ 16

/-- The state with a semaphore's count at `v`. -/
def withSem (s : State) (n v : Nat) : State :=
  modCore s (coreOf s.cur) fun c => c.setCreg (0x190 + n) (setF (c.creg (0x190 + n)) 0 16 v)

/-- A ring of the issuing core. -/
def ringOf (s : State) (q : BitVec 3) : Ring := ringAt (coreAt s (coreOf s.cur)) q.toNat

/-- The slots filled of a ring, and those free (R296). -/
def filledOf (r : Ring) : Nat := (r.tail + 2 ^ 32 - r.head) % 2 ^ 32
def freeOf (r : Ring) : Nat := r.n - filledOf r

/-- The state with a ring changed, and the slots that are parked in a form on this ring or in `tfwake` on it woken. -/
def withRing (s : State) (q : BitVec 3) (r : Ring) : State := putRing s (coreOf s.cur) q.toNat r

/-! Round trips and requests to agents. -/

/-- The instruction completes with the changes of `t`, which has the next PC already. -/
def leaves (s t : State) : Out := .next (finish s s.cur (.left t))

/-- The slot's instruction asked and has its answer: every agent has answered, with these words and no trap (R10, R300). -/
def Answered (y : Slot) (vals : List Word) : Prop :=
  ∃ tr, y.trip = some tr ∧ tr.need = 0 ∧ tr.trap = none ∧ tr.vals = vals

/-- The answers that the slot's instruction has: none at its first evaluation, else all that it asked for. -/
def Has (y : Slot) (vals : List Word) : Prop := (y.trip = none ∧ vals = []) ∨ Answered y vals

/-- With a free tag, and for a load with no barrier of `fencex` left, the instruction parks behind one more request of `n` bytes to agent `dst`, which
its core's NI sends; the answer will find the slot's open question (R10, R106, R275). -/
def Asks (s : State) (i : Instr) (dst : Agent) (b : Body) (n : Nat) : Prop :=
  ∀ tag m, freeTag (coreAt s (coreOf s.cur)) = some tag → (isLoad b && (slotAt s s.cur).barEHolds) = false →
    m = ⟨.ni (coreOf s.cur), dst, tag, s.cur, (slotAt s s.cur).phase, b⟩ →
    ∃ u tr, exec i s = .next u ∧ u.mark = .parked ∧ (coreAt u (coreOf s.cur)).ni = (coreAt s (coreOf s.cur)).ni ++ [m] ∧
      reqAt (coreAt u (coreOf s.cur)) tag = some ⟨.segld, s.cur, tr.id, n, false, none, m, 1, none, false, []⟩ ∧
      (slotAt u s.cur).pc = (slotAt s s.cur).pc ∧ (slotAt u s.cur).trip = some tr ∧ tr.need = 1

/-- The instruction parks behind one message to agent `dst`, named by the question that it opens. -/
def AsksTrip (s : State) (i : Instr) (dst : Agent) (b : Body) : Prop :=
  ∃ u tr, exec i s = .next u ∧ u.mark = .parked ∧ (coreAt u (coreOf s.cur)).ni = (coreAt s (coreOf s.cur)).ni ++
    [⟨.ni (coreOf s.cur), dst, tr.id, s.cur, (slotAt s s.cur).phase, b⟩] ∧
    (slotAt u s.cur).pc = (slotAt s s.cur).pc ∧ (slotAt u s.cur).trip = some tr ∧ tr.need = 1

/-- The issuing slot has kept what its instruction has read in its own LM, and nothing else has changed (R314). -/
def OnlyKept (s u : State) : Prop := u = s ∨ ∃ tr, u = modSlot s s.cur fun x => { x with trip := tr }

/-- A read of bytes through a segmented pointer has its answers: what follows it goes on with the bytes and the answers left, in a state
that has kept what was read in the own LM (R131, R132). -/
def ReadsBytes (s : State) (ws : List Word) (p : Word) (skip n al : Nat) (left : List Word) (bs : List Byte) (u : State) : Prop :=
  OnlyKept s u ∧ ∀ ended, ptrBytes s ws p skip n al ended = ended u left bs

/-- The state after the take of `a`, with a request of 8 bytes to agent `dst` and `d` pending (R106). -/
def asked (s : State) (d a : GReg) (t : Bool) (tag : Nat) (kind : ReqKind) (form : Option SyncForm) (dst : Agent) (b : Body) : State :=
  modSlot (modCore (took s a t) (coreOf s.cur) fun c =>
    { setReq c tag (some ⟨kind, s.cur, d.toNat, 8, false, form,
        ⟨.ni (coreOf s.cur), dst, tag, s.cur, (slotAt s s.cur).phase, b⟩, 1, none, false, []⟩) with
      ni := c.ni ++ [⟨.ni (coreOf s.cur), dst, tag, s.cur, (slotAt s s.cur).phase, b⟩] }) s.cur fun x => x.pending d.toNat

/-- The tower of the issuing slot. -/
def myTower (s : State) : Nat := towerOf (clusterOf (coreOf s.cur))


/-! Engines. -/

/-- The transfer command that a form makes of the issuing thread's registers (R162, R165). -/
def xfeOf (s : State) (form : Nat) (va vb : Word) : XCmd :=
  let cfg := (rangeFrom 0x40 10).map (slotAt s s.cur).creg
  let d := dictAt (coreAt s (coreOf s.cur)) (bitF (val cfg 3) 14 4)
  ⟨0, issuerOf s s.cur, form, cfg, va, vb, bitF (val cfg 9) 0 32, if d.v then some d.words else none, none, EngIo.reset⟩

/-- The state with a transfer command queued: the sequence number has advanced, the skip count is 0, and the command counts as the slot's
(R159, R165). -/
def xfeQueued (s : State) (x : XCmd) (a : GReg) (t : Bool) : State :=
  let s1 : State := { s with fresh := s.fresh + 1 }
  let s2 := if x.stv then startReadTile s1 (clusterOf (coreOf s.cur)) x.stile else s1
  modSlot (modCore s2 (coreOf s.cur) fun c => { c with xq := c.xq ++ [{ x with id := s.fresh }] }) s.cur fun y =>
    { (((y.takeIf t a.toNat).setCreg 0x49 (nw (x.seq + 1) &&& 0xFFFFFFFF#64)).setCreg 0x48 0#64) with cmds := y.cmds ++ [⟨s.fresh, 0, false⟩] }

/-- THR_XSRCB of the issuing slot is `n`, while the issuing thread holds it (R164). -/
def srcbSet (s : State) (x : XCmd) (n : Nat) : State :=
  if x.iss.lives s then modSlot s x.iss.slot fun y => y.setCreg 0x4C (nw n) else s

/-- A source tile that gates a transfer command can be read (R159). -/
def xfeGate (s : State) (x : XCmd) : Prop :=
  x.stv = true → (tileAt (clusterAt s (clusterOf (coreOf s.cur))) x.stile).readable = true

/-- A form that issues a transfer command: it traps by the checks of R166, waits for a place or its tile, or queues the command. -/
def IssuesXfe (form : Nat) (srcs : List GReg) (a : GReg) (t : Bool) (i : Instr) : Prop :=
  ∀ s vs y x, Reads s srcs none vs y → x = xfeOf (popped s y) form (val vs 0) (val vs 1) →
    (∀ c v, xfeCheck (popped s y) x = some (c, v) → exec i s = traps s c v) ∧
    (xfeCheck (popped s y) x = none → (2 ≤ (coreAt s (coreOf s.cur)).xq.length ∨ ¬ xfeGate s x) → exec i s = waits s y) ∧
    (xfeCheck (popped s y) x = none → (coreAt s (coreOf s.cur)).xq.length < 2 → xfeGate s x →
      exec i s = completes s (xfeQueued (popped s y) x a t))

/-- The VE command that a form makes of the issuing thread's registers (R206, R208). -/
def veOf (s : State) (op : VOp) (dst : Option (BitVec 3)) (srcs : List (BitVec 3)) (n : Nat) (sc : Word) : VCmd :=
  let y := slotAt s s.cur
  let base (e : Option (BitVec 3)) : Word := (e.map fun e => y.creg (0x60 + 2 * e.toNat)).getD 0#64
  ⟨0, issuerOf s s.cur, op, bitF (y.creg 0x71) 0 16, n, sc, base dst, base srcs[0]?, base srcs[1]?,
    if op = .vcbld ∧ 2 ≤ bitF sc 0 2 then [] else gateTiles y (srcs.map BitVec.toNat), y.creg 0x72, bitF (y.creg 0x73) 0 32, y.creg 0x78, none, EngIo.reset⟩

/-- The state with a VE command queued: the address registers that it names have advanced, each once (R209). -/
def veQueued (s : State) (x : VCmd) (es : List (BitVec 3)) (a : GReg) (t : Bool) : State :=
  let s2 := x.tiles.foldl (fun u i => startReadTile u (clusterOf (coreOf s.cur)) i) { s with fresh := s.fresh + 1 }
  modSlot (modCore s2 (coreOf s.cur) fun c => { c with vq := c.vq ++ [{ x with id := s.fresh }] }) s.cur fun y =>
    { ((es.map BitVec.toNat).eraseDups.foldl advanceVe (y.takeIf t a.toNat)).setCreg 0x73 (nw (x.seq + 1) &&& 0xFFFFFFFF#64) with
      cmds := y.cmds ++ [⟨s.fresh, 0, true⟩] }

/-- Every tile that gates a VE command can be read. -/
def veGate (s : State) (x : VCmd) : Prop := ∀ i ∈ x.tiles, (tileAt (clusterAt s (clusterOf (coreOf s.cur))) i).readable = true

/-- A form that issues a VE command: it traps by the checks of R209, waits for a place or its tiles, or queues the command. -/
def IssuesVe (op : VOp) (dst : Option (BitVec 3)) (srcs : List (BitVec 3)) (a : GReg) (b : Option GReg) (t : Bool) (i : Instr) : Prop :=
  ∀ s vs y x, Reads s (a :: b.toList) none vs y →
    x = veOf (popped s y) op dst srcs (if a = 0#5 then bitF (y.creg 0x70) 0 24 else (val vs 0).toNat) (if b.isSome then val vs 1 else 0#64) →
    (∀ c v, veCheck (popped s y) x (y.creg 0x71) = some (c, v) → exec i s = traps s c v) ∧
    (veCheck (popped s y) x (y.creg 0x71) = none → (2 ≤ (coreAt s (coreOf s.cur)).vq.length ∨ ¬ veGate s x) → exec i s = waits s y) ∧
    (veCheck (popped s y) x (y.creg 0x71) = none → (coreAt s (coreOf s.cur)).vq.length < 2 → veGate s x →
      exec i s = completes s (veQueued (popped s y) x (dst.toList ++ srcs) a t))

/-- A VE row with one or two source registers and a count in `a`. -/
def VeOne (op : VOp) (mk : GReg → Bool → BitVec 3 → BitVec 3 → Instr) : Prop :=
  ∀ a t x e, IssuesVe op (some e) [x] a none t (mk a t x e)
def VeTwo (op : VOp) (mk : GReg → Bool → BitVec 3 → BitVec 3 → BitVec 3 → Instr) : Prop :=
  ∀ a t x y e, IssuesVe op (some e) [x, y] a none t (mk a t x y e)
def VeScalar (op : VOp) (mk : GReg → GReg → Bool → BitVec 3 → BitVec 3 → Instr) : Prop :=
  ∀ a b t x e, IssuesVe op (some e) [x] a (some b) t (mk a b t x e)

/-- The cluster of the issuing slot, and its record. -/
def myCl (s : State) : Nat := clusterOf (coreOf s.cur)
def myCluster (s : State) : Cluster := clusterAt s (myCl s)

/-- A TILE form with its operand: it asks its cluster's CSP, asks again while the answer is that its condition does not hold yet, completes on
the answer 0, and takes a trap that the CSP answers (R160). -/
def AsksTile (s : State) (i : Instr) (y : Slot) (form : Nat) (n : BitVec 6) (v : Word) (done : Out) : Prop :=
  (∀ ws, Has y ws → ws.getLast? ≠ some 0#64 → Asks s i (.csp (myCl s)) (.tileReq form n.toNat v) 8) ∧
  (∀ ws, Answered y ws → ws.getLast? = some 0#64 → exec i s = done) ∧
  (∀ tr c w, y.trip = some tr → tr.need = 0 → tr.trap = some (c, w) → exec i s = traps s c w)

/-- A TILE form's request is at its CSP, which performs no write in this cycle. -/
def TileReqAt (s : State) (i : Nat) (m : Msg) (cl form n : Nat) (v : Word) : Prop :=
  arrives s i = some m ∧ m.body = .tileReq form n v ∧ m.dst = .csp cl ∧ (clusterAt s cl).wrote ≠ s.time + 1

/-- The CSP answers that the form is performed, or that its condition does not hold; the entry becomes `t`, if it changes. -/
def tileDone (s : State) (i : Nat) (m : Msg) (cl n : Nat) (t : Option Tile) (held : Bool) : Out :=
  .next (sendMsg (modCluster (dropMsg s i) cl fun c => match t with
    | some e => setTile c n e
    | none => c) (replyTo m (.loadReply (.value (natLE 8 held.toNat)))))

/-- The CSP answers a trap. -/
def tileRefuses (s : State) (i : Nat) (m : Msg) (c n : Nat) : Out :=
  .next (sendMsg (dropMsg s i) (replyTo m (.loadReply (.poison c n))))

/-- The matrix command that an owner's form makes (R246, R247). -/
def mxOf (s : State) (fn : Nat) (word : Word) (bank : Bool) (la seq : Nat) : MxCmd :=
  ⟨s.fresh, issuerOf s s.cur, fn, word, bank, la, seq, bitF ((myCluster s).creg 0x2C0) 0 32, (myCluster s).creg 0x2C1, stampLa s, false, 0, [],
    255, false, [], none, EngIo.reset⟩

/-- The state with a matrix command queued. -/
def mxQueued (s : State) (x : MxCmd) : State :=
  modSlot (modCluster { s with fresh := s.fresh + 1 } (myCl s) fun c => { c with mxq := c.mxq ++ [x] }) s.cur
    fun y => { y with cmds := y.cmds ++ [⟨s.fresh, 1, false⟩] }

/-- The owner's queue of eight has a place (R246). -/
def mxRoom (s : State) : Prop := (openCmds (myCluster s).mxq).length < 8

/-- A matrix command whose turn has come: it is the first that has not started, may start, and no store barrier holds it (R246, R275). -/
def mxReady (s : State) (cl : Nat) (i : Nat) (x : MxCmd) : Prop :=
  (clusterAt s cl).mxq[i]? = some x ∧ (∀ y ∈ (clusterAt s cl).mxq, y.ended = none) ∧
    (∀ j y, j < i → (clusterAt s cl).mxq[j]? = some y → y.started = true) ∧ x.started = false ∧
    startOk (clusterAt s cl) i x = true ∧ barsHold (coreAt s (coreOf x.iss.slot)) x.iss.bars = false

/-- A matrix command that has started, the first of those with its code. -/
def mxRunning (s : State) (cl : Nat) (i : Nat) (x : MxCmd) : Prop :=
  (clusterAt s cl).mxq[i]? = some x ∧ (∀ y ∈ (clusterAt s cl).mxq, y.ended = none) ∧
    (∀ j y, j < i → (clusterAt s cl).mxq[j]? = some y → y.fn ≠ x.fn) ∧ x.started = true

/-! The transform thread and control registers. -/

/-- One bit of the reflected CRC with the Castagnoli polynomial (R200). -/
def crcBit (c : BitVec 32) : BitVec 32 := if c.getLsbD 0 then (c >>> 1) ^^^ 0x82F63B78#32 else c >>> 1

/-- The CRC form: bytes of `b` folded into `a[31:0]`, with the count in `a[35:32]` (R200). -/
def crcWord (a b : Word) : Word :=
  let k := a.toNat / 2 ^ 32 % 2 ^ 4
  let k := if k = 0 ∨ 8 < k then 8 else k
  ((List.range k).foldl (fun c i => (List.range 8).foldl (fun c _ => crcBit c) (c ^^^ (b.extractLsb' (8 * i) 8).setWidth 32))
    (a.setWidth 32)).setWidth 64

/-- The mixing hash (R200). -/
def hashWord (a b : Word) : Word :=
  let h := (a ^^^ b.rotateLeft 23) * 0xD6E8FEB86659FD93#64
  let h := (h ^^^ (h >>> 32)) * 0xD6E8FEB86659FD93#64
  h ^^^ (h >>> 29)

/-- A channel of the transform thread has room for `n` bits (R197). -/
def chRoom (y : Slot) (c n : Nat) : Prop := y.chPos c + n ≤ 8 * y.chLen c


/-- The oldest store of `v` to register `n` of a unit is on its way as message `i`, at its control agent (R338). -/
def ctlStoreAt (s : State) (u n : Nat) (v : Word) (i : Nat) (m : Msg) : Prop :=
  arrives s i = some m ∧ m.body = .ctlAccess true (blkOfUnit s u n) n v ∧ m.dst = ctlAgent (blkOfUnit s u n) n ∧
    ∀ j p, j < i → arrives s j = some p → ctlWritten p.body = none

/-- A register-write event performs the store and acknowledges it. -/
def WritesReg (s : State) (e : Instr) (u n : Nat) (v : Word) : Prop :=
  ∀ i m, ctlStoreAt s u n v i m → exec e s = .next (sendMsg (writeReg (dropMsg s i) u n v) (replyTo m .storeAck))

/-- The oldest load of register `n` of a block is on its way as message `i`. -/
def ctlLoadAt (s : State) (b n i : Nat) (m : Msg) : Prop :=
  ∃ v, arrives s i = some m ∧ m.body = .ctlAccess false b n v ∧ m.dst = ctlAgent b n ∧
    ∀ j p b' n' v', j < i → arrives s j = some p → p.body ≠ .ctlAccess false b' n' v'

/-- A trip's answer goes back with these words. -/
def answered (s : State) (m : Msg) (ws : List Word) : State := answerTrip s m.who m.tag ws none

/-- A trip's answer goes back as a trap. -/
def refusedBack (s : State) (m : Msg) (c : Nat) (v : Word) : State := answerTrip s m.who m.tag [] (some (c, v))

/-! Forms that a unit performs. -/

/-- A form that another unit performs: its request travels to the unit, its thread parks, and the answer completes it with `done`, or traps (R106, R138). -/
def AsksUnit (s : State) (i : Instr) (y : Slot) (agent : Agent) (f : UnitForm) (vs : List Word) (done : Word → Out) : Prop :=
  (Has y [] → Asks s i agent (.unitReq f vs) 8) ∧
  (∀ v ws, Answered y (v :: ws) → exec i s = done v) ∧
  (∀ tr c w, y.trip = some tr → tr.need = 0 → tr.trap = some (c, w) → exec i s = traps s c w)

/-- The request of such a form is at its unit as message `i`. -/
def UnitAt (s : State) (i : Nat) (m : Msg) (f : UnitForm) (vs : List Word) : Prop := arrives s i = some m ∧ m.body = .unitReq f vs

/-- The unit answers with a value, and `u` is what it has done. -/
def unitAnswers (u : State) (m : Msg) (v : Nat) : Out := .next (sendMsg u (replyTo m (.loadReply (.value (natLE 8 v)))))

/-! Migration. -/

/-- The state with the slot's streams as they were: nothing is popped. -/
def keptStreams (s u : State) : State := modSlot u s.cur fun z => { z with strs := (slotAt s s.cur).strs }

/-- The port holds no walk of this page for the issuing slot. -/
def noWalk (z : State) (asid la : Nat) : Prop :=
  ∀ w ∈ (clusterAt z (myCl z)).walks, ¬ (w.who = .page z.cur ∧ w.asid = asid ∧ w.la = la)

/-- The walk of this page for the issuing slot has met poison of a cause; `u` is the state without it. -/
def WalkPoisoned (z : State) (asid la c : Nat) (u : State) : Prop :=
  ∃ w, (clusterAt z (myCl z)).walks.find? (fun w => decide (w.who = .page z.cur) && decide (w.asid = asid) && decide (w.la = la)) = some w ∧
    u = modCluster z (myCl z) (fun c => { c with
      walks := c.walks.filter fun w => !(decide (w.who = .page z.cur) && decide (w.asid = asid) && decide (w.la = la)) }) ∧
    w.res = some (.poison c)

/-- The walk of this page for the issuing slot has ended, with a leaf's address and level or with a failure; `u` is the state without it. -/
def Walked (z : State) (asid la : Nat) (at_ : Option (Nat × Nat)) (u : State) : Prop :=
  ∃ w, (clusterAt z (myCl z)).walks.find? (fun w => decide (w.who = .page z.cur) && decide (w.asid = asid) && decide (w.la = la)) = some w ∧
    u = modCluster z (myCl z) (fun c => { c with
      walks := c.walks.filter fun w => !(decide (w.who = .page z.cur) && decide (w.asid = asid) && decide (w.la = la)) }) ∧
    ((w.res = some .fail ∧ at_ = none) ∨ ∃ pa lvl e, w.res = some (.leaf pa lvl e) ∧ at_ = some (pa, lvl))
/-! Words of the decode statement: an example word of the manual and what it stands for. -/
def exampleWords : List (BitVec 32 × Instr) :=
  [(0x02321400#32, .add 3 4 5 false), (0x02321409#32, .sra 3 4 5 false), (0x04321404#32, .sraw 3 4 5 false),
   (0x06321403#32, .div 3 4 5 false), (0x08320049#32, .sext 3 4 false 2), (0x0A320064#32, .addi 3 4 false 100),
   (0x16323003#32, .rotli 3 4 false 3), (0x18300002#32, .lui 3 2), (0x1C321401#32, .selnz 3 4 5 false),
   (0x1E321008#32, .lea 3 4 false 2 8), (0x20021401#32, .tchk 4 5 false), (0x66320001#32, .park 3 4 false),
   (0xB0020000#32, .sys 4 false), (0xB0000001#32, .brk), (0xB0000002#32, .eret), (0xB0000003#32, .halt), (0x60000001#32, .unpin)]

end Sys2Proof.Claims

open Sys2Proof Sys2Proof.Machine Sys2Proof.Claims

/-! Decoding. -/

/-- Words that the manual writes out decode to the instructions that they stand for. -/
def Obligations.ExampleWordsDecode : Prop :=
  ∀ p ∈ exampleWords, decodeWord p.1 = .ok p.2 ∧ encode p.2 = some p.1

/-- Every well-formed instruction form comes back from its encoding, with every operand. -/
def Obligations.DecodeOfEncode : Prop :=
  ∀ i w, i.wf = true → encode i = some w → decodeWord w = .ok i

/-- A word decodes to an instruction only if it is that instruction's encoding: no bit of a word is ignored, and what it decodes to is well
formed. With `DecodeOfEncode`, words and instruction forms correspond one to one. -/
def Obligations.EncodeOfDecode : Prop :=
  ∀ w i, decodeWord w = .ok i → encode i = some w ∧ i.wf = true

/-- R16: exactly the words of the unassigned opcodes are illegal; every other word that does not decode is reserved. At a turn, such a word
traps precisely with cause 0x01 or 0x02 and tval = the word, zero-extended. -/
def Obligations.UndecodableWordsTrap : Prop :=
  (∀ w, decodeWord w = .error .illegal ↔
    ((fOp w).toNat = 0x00 ∨ (fOp w).toNat = 0x2E ∨ (fOp w).toNat = 0x2F ∨ (fOp w).toNat = 0x4F
      ∨ (0x54 ≤ (fOp w).toNat ∧ (fOp w).toNat ≤ 0x57) ∨ 0x68 ≤ (fOp w).toNat)) ∧
  (∀ w, decodeWord w ≠ .error .short) ∧
  (∀ s k w, decodeWord w = .error .illegal → runOne exec s k w = .next (trapNow s k 0x01 (w.setWidth 64))) ∧
  (∀ s k w, decodeWord w = .error .reserved → runOne exec s k w = .next (trapNow s k 0x02 (w.setWidth 64)))

/-- R20: a privileged form in user mode traps 0x03 with tval = the word, before any operand is looked at; the privileged forms are those of the
rule's list. R196: the transform forms outside the transform slot trap 0x05. R293: a vector form of a slot that is not pinned traps 0x04. -/
def Obligations.FormsOutOfPlaceTrap : Prop :=
  (∀ s k w i, decodeWord w = .ok i → privWord w = true → (slotAt s k).mode = .user →
    runOne exec s k w = .next (trapNow s k 0x03 (w.setWidth 64))) ∧
  (∀ w, privWord w = true ↔
    ((fOp w).toNat ∈ [0x5B, 0x5C, 0x5F, 0x60, 0x61, 0x62, 0x63, 0x64, 0x65, 0x66, 0x67, 0x4B]
      ∨ ((fOp w).toNat = 0x58 ∧ (fFn9 w = 2#9 ∨ fFn9 w = 3#9))
      ∨ (((fOp w).toNat = 0x59 ∨ (fOp w).toNat = 0x5A) ∧ privReg (fImm14 w).toNat = true))) ∧
  (∀ s k w i, decodeWord w = .ok i → privWord w = false → xformWord w = true → ¬ (slotNo k = 15 ∧ xformOn s (coreOf k) = true) →
    runOne exec s k w = .next (trapNow s k 0x05 (w.setWidth 64))) ∧
  (∀ s k w i, decodeWord w = .ok i → pinWord w = true → (coreAt s (coreOf k)).pin ≠ some k →
    runOne exec s k w = .next (trapNow s k 0x04 (w.setWidth 64)))

/-! Steps. -/

/-- The word at the PC: a slot whose seg0 names its own LM fetches the four bytes there, lowest address first; and when its turn has come, it is in
no gang's lockstep and no acquire holds its access back, a step evaluates the instruction that the word decodes to, with the word held for the slot
until it completes, and then whatever follows at once follows. A parked slot whose instruction would have parked when the cycle began stays parked
through the turn (R284). That an acquire holds later accesses back is read from the manual (log entry 25), and so is when a parked slot is ready
again (105). -/
def Obligations.StepRunsTheDecodedInstruction : Prop :=
  (∀ s k la pa acc off t bs, (slotAt s k).held = none → fetchAddr s k = .ok la pa acc → ownLm s (coreOf k) pa = .own off →
    lmRead s (coreOf k) off 4 = .ok t bs → fetchWord s k = .word (BitVec.ofNat 32 (leNat bs))) ∧
  (∀ s w i, s.modul.off = false → bootFailed s = false → s.turn = true → fetchWord { s with turn := false } s.cur = .word w →
    followers { s with turn := false } s.cur = [] → decodeWord w = .ok i →
    (privWord w = true → (slotAt s s.cur).mode = .supervisor) →
    (xformWord w = true → slotNo s.cur = 15 ∧ xformOn s (coreOf s.cur) = true) →
    (pinWord w = true → (coreAt s (coreOf s.cur)).pin = some s.cur) →
    (accessWord w = true → acquireHolds s s.cur = false) →
    (s.cur ∉ s.empties → step s = afterStep (exec i (holdWord { s with turn := false } s.cur w))) ∧
    (∀ t, s.cur ∈ s.empties → exec i (holdWord { s with turn := false } s.cur w) = .next t →
      (t.mark = .parked → step s = afterStep (.next t)) ∧
      (t.mark ≠ .parked → (slotAt s s.cur).st = .parked →
        step s = afterStep (parks { s with turn := false } { s with turn := false }))))

/-- A step in which no slot evaluates an instruction begins a gang switch whose cycle has come (R340); else it gives a slot its turn of this cycle,
while one with a use is left; else it takes the next event, of the agenda while it lasts and then of the free choices: an event of this cycle
happens and closes the cycle's turns, and for a later one a cycle passes, in which nothing moves but parked slots whose instruction would no longer
park: these are ready (R184, R282, R284). The instructions never stop the machine: a step ends in a fault only after the module has powered off, and
never in a refusal; after a failed boot nothing but the next boot does anything (R393). The order of what one cycle holds, the free choice of events
and the wakes at a cycle's end are the model's choices (log entries 10, 57, 66, 68, 105 and 111). -/
def Obligations.EveryInstructionAndEventGoesOn : Prop :=
  (∀ i s, ∃ t, exec i s = .next t) ∧
  (∀ s, s.modul.off = false → ∃ t, step s = .next t) ∧
  (∀ s r, step s ≠ .refused r) ∧
  (∀ s core, s.modul.off = false → bootFailed s = false → s.turn = false → dueSwitch s = some core →
    step s = afterStep (exec (.gangSwitchBegin core) s) ∧ switchDue s core = true) ∧
  (∀ s k, s.modul.off = false → bootFailed s = false → s.turn = false → dueSwitch s = none → dueTurn s = some k →
    step s = afterStep (exec (.slotTurn k (turnError s).1) (turnError s).2) ∧ holdsTurn s k = true ∧ turnUse s k ≠ .empty) ∧
  (∀ s k, k ∈ turnKeys s → holdsTurn s k = true → turnUse s k ≠ .empty → ∃ j, dueTurn s = some j) ∧
  (∀ s c cs, s.modul.off = false → bootFailed s = false → s.turn = false → dueSwitch s = none → dueTurn s = none → s.agenda = c :: cs →
    (c.dt = 0 → step s = afterStep (exec c.ev { s with agenda := cs, turnsTo := s.time + 1 })) ∧
    (∀ n, c.dt = n + 1 → step s = afterStep (.next (nextCycle exec { s with agenda := ⟨n, c.ev⟩ :: cs })))) ∧
  (∀ s c cs, s.modul.off = false → bootFailed s = true → s.agenda = c :: cs → (∀ good, c.ev ≠ .boot good) →
    step s = .next { s with agenda := cs, time := s.time + c.dt }) ∧
  (∀ s, (nextCycle exec s).time = s.time + 1 ∧ (nextCycle exec s).mem = s.mem ∧
    (nextCycle exec s).cores = s.cores ∧ (nextCycle exec s).agenda = s.agenda ∧
    (∀ k, wakes exec { s with time := s.time + 1, empties := [] } k = true → (slotAt (nextCycle exec s) k).st = .ready) ∧
    ∀ k, slotAt (nextCycle exec s) k = slotAt s k ∨
      ((slotAt s k).st = .parked ∧ slotAt (nextCycle exec s) k = { slotAt s k with st := .ready }))

/-- Reset (R182, R202, R308, R336): every slot is in supervisor mode and waits for work, g0 is full and every other register is empty, none is
poisoned or pending, no gang, no stream, no trap is in progress; no message is in flight and no store or request is outstanding. That no message,
store or request is there is the model's choice, where the manual gives structures no content (log entry 3). -/
def Obligations.ResetState : Prop :=
  (∀ k, (slotAt State.reset k).mode = .supervisor ∧ (slotAt State.reset k).st = .waiting ∧ (slotAt State.reset k).full = 1#32 ∧
    (slotAt State.reset k).pois = 0#32 ∧ (slotAt State.reset k).pend = 0#32 ∧ (slotAt State.reset k).gang = none ∧
    (slotAt State.reset k).tok = false ∧ (slotAt State.reset k).intrap = false ∧
    ∀ i, ((slotAt State.reset k).stream i).on = false) ∧
  (∀ c, (coreAt State.reset c).evq = [] ∧ (∀ t, reqAt (coreAt State.reset c) t = none) ∧ (∀ e, jAt (coreAt State.reset c) e = none) ∧
    (coreAt State.reset c).pin = none ∧ (coreAt State.reset c).lmOn = 15#4) ∧
  (∀ c i, (clusterAt State.reset c).phys i = i) ∧
  State.reset.net = [] ∧ State.reset.modul.off = false ∧ State.reset.turn = false

/-- The canonical form of memory holds at reset, where nothing is listed: an unlisted byte reads 0 (the model's choice where the manual
gives no content, log entry 2). -/
def Obligations.MemoryCanonicalAtReset : Prop :=
  Memory.wf State.reset.mem = true ∧ State.reset.mem = [] ∧ ∀ key, memByte State.reset key = 0#8

/-- Every step keeps the canonical form of memory: addresses strictly rising, and no entry equal to what an unlisted address reads as. What an
unlisted tier byte reads as is the model's choice (log entry 2). -/
def Obligations.MemoryCanonicalKept : Prop :=
  ∀ s t, Memory.wf s.mem = true → step s = .next t → Memory.wf t.mem = true

/-! Registers, operands and turns. -/

/-- R181: g0 reads zero and is always full, and writes, takes and pending marks of it are discarded; a write to another register sets it full,
clears its poison and leaves every other register as it was; a take clears the full bit and keeps the value. -/
def Obligations.RegisterFile : Prop :=
  (∀ (x : Slot) v, x.reg 0 = 0#64 ∧ x.isFull 0 = true ∧ x.setReg 0 v = x ∧ x.setPoison 0 v = x ∧ x.take 0 = x ∧ x.pending 0 = x) ∧
  (∀ (x : Slot) r v, r ≠ 0 → r < 32 →
    (x.setReg r v).reg r = v ∧ bitOf (x.setReg r v).full r = true ∧ bitOf (x.setReg r v).pois r = false ∧
    (∀ q, q ≠ r → (x.setReg r v).reg q = x.reg q) ∧
    (∀ q, q ≠ r → q < 32 → bitOf (x.setReg r v).full q = bitOf x.full q ∧ bitOf (x.setReg r v).pois q = bitOf x.pois q) ∧
    (x.setReg r v).pend = x.pend ∧ (x.setReg r v).regs = x.regs ∧ (x.setReg r v).pc = x.pc) ∧
  (∀ (x : Slot) r, r ≠ 0 → r < 32 →
    bitOf (x.take r).full r = false ∧ (x.take r).g = x.g ∧ (∀ q, q ≠ r → q < 32 → bitOf (x.take r).full q = bitOf x.full q) ∧
    bitOf (x.pending r).full r = false ∧ bitOf (x.pending r).pend r = true ∧ (x.pending r).g = x.g)

/-- R137, R138, R183 and R185 for registers that are in no stream mode: an instruction parks while a source is empty or its destination is pending;
else it traps on the first source that holds poison, with its cause and value, or has a parity error, with 0x78; else it reads the sources. -/
def Obligations.PlainOperands : Prop :=
  ∀ (x : Slot) srcs (dst : Option Nat) reply, (∀ r ∈ srcs, x.inStream r = none) → (∀ d ∈ dst, x.inStream d = none) →
    x.prep srcs dst reply =
      if (∃ r ∈ srcs, r ≠ 0 ∧ bitOf x.full r = false) ∨ (∃ d ∈ dst, d ≠ 0 ∧ bitOf x.pend d = true) then .park
      else match srcs.find? fun r => decide (r ≠ 0) && (bitOf x.par r || bitOf x.pois r) with
        | some r =>
          if bitOf x.par r = true then .trap 0x78 (nw r)
          else .trap ((x.reg r).toNat / 2 ^ 57) (nw ((x.reg r).toNat % 2 ^ 56))
        | none => .ok (srcs.map x.reg) x

/-- R174: a source in stream mode. It pops the first element of the FIFO, and POS advances; it parks while the FIFO is empty and elements are still to
come; at POS = COUNT, and for a write stream, it traps 0x42 with tval = the register number; a poisoned element traps with its cause. R174: a destination in stream mode. A read stream traps 0x42; a write stream parks with eight elements queued, traps 0x42 at POS = COUNT, reports
a recorded write fault, and else takes the low ESZ bytes of the result behind its queue, with POS one more. A load-and-reply form that names
any stream traps 0x42. -/
def Obligations.StreamOperands : Prop :=
  (∀ (x : Slot) r t reply, x.inStream r = some t → r < 32 →
    (t.writes = true → x.prep [r] none reply = .trap 0x42 (nw r)) ∧
    (t.writes = false → t.fifo = [] → t.pos < t.count → x.prep [r] none reply = .park) ∧
    (t.writes = false → t.fifo = [] → t.count ≤ t.pos → x.prep [r] none reply = .trap 0x42 (nw r)) ∧
    (∀ e es, t.writes = false → t.fifo = e :: es → e.pois = true →
      x.prep [r] none reply = .trap (e.v.toNat / 2 ^ 57) (nw (e.v.toNat % 2 ^ 56))) ∧
    (∀ e es, t.writes = false → t.fifo = e :: es → e.pois = false →
      ∃ y, x.prep [r] none reply = .ok [e.v] y ∧ y.inStream r = some { t with fifo := es, pos := t.pos + 1 } ∧
        y.g = x.g ∧ y.full = x.full ∧ y.pc = x.pc ∧ (∀ q, q ≠ r → y.inStream q = x.inStream q))) ∧
  (∀ (x : Slot) d t, x.inStream d = some t → d < 32 →
    (t.writes = false → ∀ reply, x.prep [] (some d) reply = .trap 0x42 (nw d)) ∧
    (t.writes = true → 8 ≤ t.fifo.length → t.fault = none → ∀ reply, x.prep [] (some d) reply = .park) ∧
    (t.writes = true → t.fifo.length < 8 → x.prep [] (some d) true = .trap 0x42 (nw d)) ∧
    (∀ f, t.writes = true → t.fault = some f → x.prep [] (some d) false = .trap f.1 f.2) ∧
    (t.writes = true → t.fifo.length < 8 → t.fault = none → t.pos = t.count → x.prep [] (some d) false = .trap 0x42 (nw d)) ∧
    (t.writes = true → t.fifo.length < 8 → t.fault = none → t.pos ≠ t.count →
      x.prep [] (some d) false = .ok [] x ∧
      ∀ v, (x.writeDst d v).inStream d
          = some { t with fifo := t.fifo ++ [⟨BitVec.ofNat 64 (v.toNat % 2 ^ (8 * t.esz)), false⟩], pos := t.pos + 1 } ∧
        (x.writeDst d v).g = x.g ∧ (x.writeDst d v).full = x.full))

/-- The end of a turn (R10, R183, R202): a completion moves the PC on by 4 or to its target and adds 1 to THR_ISSUED; a park keeps the PC and adds 1 to
THR_PARKED. Neither changes another register of the slot, another slot, or anything else of the machine beyond what the
instruction changed. -/
def Obligations.TurnEnds : Prop :=
  ∀ s t k, (∀ pc, ∀ u, (u = finish s k (.jump t pc) ∨ (u = finish s k (.done t) ∧ pc = (slotAt t k).pc + 4#64)) →
      (slotAt u k).pc = pc ∧ (slotAt u k).creg 0x005 = (slotAt t k).creg 0x005 + 1#64 ∧
      (∀ n, n ≠ 0x005 → (slotAt u k).creg n = (slotAt t k).creg n) ∧
      (slotAt u k).g = (slotAt t k).g ∧ (slotAt u k).full = (slotAt t k).full ∧ (slotAt u k).pois = (slotAt t k).pois ∧
      (slotAt u k).pend = (slotAt t k).pend ∧ (slotAt u k).strs = (slotAt t k).strs ∧ (slotAt u k).mode = (slotAt t k).mode ∧
      (slotAt u k).held = none ∧ (slotAt u k).deadline = none ∧
      (∀ j, j ≠ k → slotAt u j = slotAt t j) ∧ { u with slots := t.slots, mark := t.mark } = t) ∧
    (∀ u, u = finish s k (.park t) →
      (slotAt u k).pc = (slotAt t k).pc ∧ (slotAt u k).creg 0x006 = (slotAt t k).creg 0x006 + 1#64 ∧
      (∀ n, n ≠ 0x006 → (slotAt u k).creg n = (slotAt t k).creg n) ∧ (slotAt u k).st = .parked ∧
      (slotAt u k).g = (slotAt t k).g ∧ (slotAt u k).full = (slotAt t k).full ∧
      (∀ j, j ≠ k → slotAt u j = slotAt t j) ∧ { u with slots := t.slots, mark := t.mark } = t)

/-- R331: taking a trap. The PC given is saved in TPC, the cause and the value in TCAUSE and TVAL; TSTAT gets PMODE, INTRAP, ASYNC, SWP and WFW; in
user mode seg0 and seg1 are exchanged with the KSEG registers; the mode becomes supervisor and the PC TVEC.ENTRY. No g register and no full, pending
or poison bit changes, no other register of the slot and no other slot, core or byte of memory. Which causes count as asynchronous is read from the
manual (log entry 56); here the operand says it. -/
def Obligations.TrapEntry : Prop :=
  ∀ s k c v p async, ((slotAt s k).intrap = false ∨ c = 0x70) → ∀ x y, x = slotAt s k → y = slotAt (trapEntry s k c v p async) k →
    y.creg 0x080 = p &&& 0x3FFFFFFFFFC#64 ∧ y.creg 0x081 = nw (c % 128) ∧ y.creg 0x082 = v ∧
    (bitB (y.creg 0x083) 0 = decide (x.mode = .supervisor) ∧ bitB (y.creg 0x083) 1 = true ∧ bitB (y.creg 0x083) 2 = async ∧
      bitB (y.creg 0x083) 3 = decide (x.mode = .user) ∧ bitB (y.creg 0x083) 4 = decide (x.st = .waiting) ∧ (y.creg 0x083).toNat < 32) ∧
    y.mode = .supervisor ∧ y.pc = y.creg 0x084 &&& 0x3FFFFFFFFFC#64 ∧ y.st = .ready ∧
    (∀ i, i < 4 → y.creg (0xC0 + i) = x.creg (if x.mode = .user then 0x86 + i else 0xC0 + i) ∧
      y.creg (0x86 + i) = x.creg (if x.mode = .user then 0xC0 + i else 0x86 + i)) ∧
    (∀ n, (n < 0x080 ∨ n = 0x084 ∨ n = 0x085 ∨ (0x08A ≤ n ∧ n < 0x0C0) ∨ 0x0C4 ≤ n) → y.creg n = x.creg n) ∧
    y.g = x.g ∧ y.full = x.full ∧ y.pend = x.pend ∧ y.pois = x.pois ∧ y.strs = x.strs ∧ y.cmds = x.cmds ∧
    (∀ j, j ≠ k → slotAt (trapEntry s k c v p async) j = slotAt s j) ∧
    { trapEntry s k c v p async with slots := s.slots } = s

/-- R331: a precise trap saves the PC of its instruction, and for 0x08 and 0x09 the PC of the next; it counts in THR_ISSUED and takes nothing. R332:
a double trap stops the slot with its DBGS bit, keeps the trap registers and the PC, and raises event 0x0C at the core with the second cause, the
slot and the PC. That 0x70 is an asynchronous event is read from the manual (log entry 56). -/
def Obligations.PreciseAndDoubleTraps : Prop :=
  (∀ s k c v, ((slotAt s k).intrap = false ∨ c = 0x70) → ∀ y, y = slotAt (trapNow s k c v) k →
    y.creg 0x080 = (if c = 0x08 ∨ c = 0x09 then (slotAt s k).pc + 4#64 else (slotAt s k).pc) &&& 0x3FFFFFFFFFC#64 ∧
    y.creg 0x081 = nw (c % 128) ∧ y.creg 0x082 = v ∧ y.creg 0x005 = (slotAt s k).creg 0x005 + 1#64 ∧
    y.mode = .supervisor ∧ y.g = (slotAt s k).g ∧ y.full = (slotAt s k).full ∧ (trapNow s k c v).mem = s.mem) ∧
  (∀ s k c v p async, (slotAt s k).intrap = true → c ≠ 0x70 → ∀ t, t = trapEntry s k c v p async →
    (slotAt t k).st = .stopped ∧ (slotAt t k).dbgs = true ∧ (slotAt t k).pc = (slotAt s k).pc ∧ (slotAt t k).regs = (slotAt s k).regs ∧
    (slotAt t k).mode = (slotAt s k).mode ∧ (slotAt t k).g = (slotAt s k).g ∧
    ((coreAt s (coreOf k)).evq.length < 16 → ∃ w, (coreAt t (coreOf k)).evq = (coreAt s (coreOf k)).evq ++ [(0x0C, w)] ∧
      w.toNat / 2 ^ 57 = c % 128 ∧ w.toNat / 2 ^ 48 % 16 = k % 16 ∧ w &&& 0x3FFFFFFFFFC#64 = (slotAt s k).pc &&& 0x3FFFFFFFFFC#64))

/-- R333: `eret` exchanges the segments back when SWP is set, restores the mode, clears INTRAP and SWP, and goes on at TPC, or waits for work again
when WFW is set. -/
def Obligations.TrapReturn : Prop :=
  ∀ s, ∃ t, exec .eret s = .next t ∧ ∀ x y st, x = slotAt s s.cur → y = slotAt t s.cur → st = x.creg 0x083 →
    y.mode = (if bitB st 0 then Mode.supervisor else Mode.user) ∧ y.intrap = false ∧ bitB (y.creg 0x083) 3 = false ∧
    bitB (y.creg 0x083) 4 = false ∧ bitB (y.creg 0x083) 0 = bitB st 0 ∧
    (bitB st 4 = true → y.st = .waiting) ∧ (bitB st 4 = false → y.pc = x.creg 0x080 ∧ y.st = .ready) ∧
    (∀ i, i < 4 → y.creg (0xC0 + i) = x.creg (if bitB st 3 then 0x86 + i else 0xC0 + i) ∧
      y.creg (0x86 + i) = x.creg (if bitB st 3 then 0xC0 + i else 0x86 + i)) ∧
    y.g = x.g ∧ y.full = x.full ∧ y.pois = x.pois ∧ y.pend = x.pend ∧ t.mem = s.mem ∧ (∀ j, j ≠ s.cur → slotAt t j = slotAt s j)

/-! Integer instructions. -/

/-- R187: the sixteen forms of ALU, opcode 0x01, with the value that each writes. R188: the five forms of ALUW, opcode 0x02, work on the low 32 bits and sign-extend their 32-bit result. -/
def Obligations.AluForms : Prop :=
  (RowTwo 0x01#7 0#9 .add (fun a b => BitVec.ofInt 64 (a.toInt + b.toInt)) ∧
  RowTwo 0x01#7 1#9 .sub (fun a b => BitVec.ofInt 64 (a.toInt - b.toInt)) ∧
  RowTwo 0x01#7 2#9 .and (fun a b => a &&& b) ∧
  RowTwo 0x01#7 3#9 .or (fun a b => a ||| b) ∧
  RowTwo 0x01#7 4#9 .xor (fun a b => a ^^^ b) ∧
  RowTwo 0x01#7 5#9 .andn (fun a b => a &&& ~~~b) ∧
  RowTwo 0x01#7 6#9 .orn (fun a b => a ||| ~~~b) ∧
  RowTwo 0x01#7 7#9 .sll (fun a b => BitVec.ofNat 64 (a.toNat * 2 ^ (b.toNat % 64))) ∧
  RowTwo 0x01#7 8#9 .srl (fun a b => BitVec.ofNat 64 (a.toNat / 2 ^ (b.toNat % 64))) ∧
  RowTwo 0x01#7 9#9 .sra (fun a b => BitVec.ofInt 64 (a.toInt / 2 ^ (b.toNat % 64))) ∧
  RowTwo 0x01#7 10#9 .slt (fun a b => oneIf (a.toInt < b.toInt)) ∧
  RowTwo 0x01#7 11#9 .sltn (fun a b => oneIf (a.toNat < b.toNat)) ∧
  RowTwo 0x01#7 12#9 .min (fun a b => BitVec.ofInt 64 (min a.toInt b.toInt)) ∧
  RowTwo 0x01#7 13#9 .max (fun a b => BitVec.ofInt 64 (max a.toInt b.toInt)) ∧
  RowTwo 0x01#7 14#9 .minn (fun a b => BitVec.ofNat 64 (min a.toNat b.toNat)) ∧
  RowTwo 0x01#7 15#9 .maxn (fun a b => BitVec.ofNat 64 (max a.toNat b.toNat))) ∧
  (RowTwo 0x02#7 0#9 .addw (fun a b => (a.setWidth 32 + b.setWidth 32).signExtend 64) ∧
  RowTwo 0x02#7 1#9 .subw (fun a b => (a.setWidth 32 - b.setWidth 32).signExtend 64) ∧
  RowTwo 0x02#7 2#9 .sllw (fun a b => (a.setWidth 32 <<< (b.toNat % 32)).signExtend 64) ∧
  RowTwo 0x02#7 3#9 .srlw (fun a b => (a.setWidth 32 >>> (b.toNat % 32)).signExtend 64) ∧
  RowTwo 0x02#7 4#9 .sraw (fun a b => ((a.setWidth 32).sshiftRight (b.toNat % 32)).signExtend 64))

/-- R189: the seven forms of MULDIV, opcode 0x03; a quotient is rounded toward zero, and a zero divisor gives all ones and the dividend.
The quotient of −2^63 by −1 wraps to −2^63, with remainder 0. -/
def Obligations.MulDivForms : Prop :=
  RowTwo 0x03#7 0#9 .mul (fun a b => BitVec.ofNat 64 (a.toNat * b.toNat)) ∧
  RowTwo 0x03#7 1#9 .mulh (fun a b => BitVec.ofInt 64 (a.toInt * b.toInt / 2 ^ 64)) ∧
  RowTwo 0x03#7 2#9 .mulhn (fun a b => BitVec.ofNat 64 (a.toNat * b.toNat / 2 ^ 64)) ∧
  RowTwo 0x03#7 3#9 .div (fun a b => if b = 0#64 then 0xFFFFFFFFFFFFFFFF#64 else BitVec.ofInt 64 (a.toInt.tdiv b.toInt)) ∧
  RowTwo 0x03#7 4#9 .divn (fun a b => if b = 0#64 then 0xFFFFFFFFFFFFFFFF#64 else BitVec.ofNat 64 (a.toNat / b.toNat)) ∧
  RowTwo 0x03#7 5#9 .rem (fun a b => if b = 0#64 then a else BitVec.ofInt 64 (a.toInt - b.toInt * a.toInt.tdiv b.toInt)) ∧
  RowTwo 0x03#7 6#9 .remn (fun a b => if b = 0#64 then a else BitVec.ofNat 64 (a.toNat - b.toNat * (a.toNat / b.toNat)))

/-- R190: the forms of BITOP, opcode 0x04. A count is the length of the run of 0 bits from that end; `bext` and `bdep` pair the i-th 1
position of b with bit i. -/
def Obligations.BitForms : Prop :=
  RowOne 0x04#7 0#9 .clz (fun a => BitVec.ofNat 64 ((List.range 64).takeWhile fun i => !a.getLsbD (63 - i)).length) ∧
  RowOne 0x04#7 1#9 .ctz (fun a => BitVec.ofNat 64 ((List.range 64).takeWhile fun i => !a.getLsbD i).length) ∧
  RowOne 0x04#7 2#9 .popc (fun a => BitVec.ofNat 64 (onesOf a).length) ∧
  RowTwo 0x04#7 3#9 .rotl (fun a b => bitsWord fun i => a.getLsbD ((i + 64 - b.toNat % 64) % 64)) ∧
  RowTwo 0x04#7 4#9 .rotr (fun a b => bitsWord fun i => a.getLsbD ((i + b.toNat % 64) % 64)) ∧
  RowOne 0x04#7 5#9 .rev8 (fun a => bitsWord fun i => a.getLsbD (8 * (7 - i / 8) + i % 8)) ∧
  RowOne 0x04#7 6#9 .brev (fun a => bitsWord fun i => a.getLsbD (63 - i)) ∧
  RowTwo 0x04#7 7#9 .bext (fun a b => bitsWord fun k => ((onesOf b)[k]?.map fun i => a.getLsbD i).getD false) ∧
  RowTwo 0x04#7 8#9 .bdep (fun a b => bitsWord fun i => b.getLsbD i && a.getLsbD (((onesOf b).takeWhile fun j => decide (j < i)).length)) ∧
  RowOne 0x04#7 9#9 (fun d a t => .sext d a t 0#2) (fun a => (a.setWidth 8).signExtend 64) ∧
  RowOne 0x04#7 0x29#9 (fun d a t => .sext d a t 1#2) (fun a => (a.setWidth 16).signExtend 64) ∧
  RowOne 0x04#7 0x49#9 (fun d a t => .sext d a t 2#2) (fun a => (a.setWidth 32).signExtend 64) ∧
  RowOne 0x04#7 10#9 (fun d a t => .zext d a t 0#2) (fun a => (a.setWidth 8).setWidth 64) ∧
  RowOne 0x04#7 0x2A#9 (fun d a t => .zext d a t 1#2) (fun a => (a.setWidth 16).setWidth 64) ∧
  RowOne 0x04#7 0x4A#9 (fun d a t => .zext d a t 2#2) (fun a => (a.setWidth 32).setWidth 64) ∧
  (∀ d a t n, n.extractLsb' 0 5 = 9#5 ∨ n.extractLsb' 0 5 = 10#5 → n.extractLsb' 5 2 = 3#2 →
    decodeWord (rWord 0x04#7 d a 0#5 t n) = .error .reserved)

/-- R191 and R192: the immediate forms; the immediate is sign-extended, and the amount of a shift is imm[5:0]. R132, R133 and R193 to R195: `lui`, `pcaddu`, `selz`, `selnz`, `lea`, `segck` and `tchk`. `segck` reports, without a trap, that the
range leaves its segment (0x10), that a right it asks for is missing (0x11), or neither (0); `tchk` traps 0x0A when g[a] ≥ g[b]. -/
def Obligations.ImmediateUpperSelectAndCheckForms : Prop :=
  (RowImm 0x05#7 .addi (fun a i => BitVec.ofInt 64 (a.toInt + i.toInt)) ∧
  RowImm 0x06#7 .andi (fun a i => a &&& i) ∧
  RowImm 0x07#7 .ori (fun a i => a ||| i) ∧
  RowImm 0x08#7 .xori (fun a i => a ^^^ i) ∧
  RowImm 0x09#7 .slti (fun a i => oneIf (a.toInt < i.toInt)) ∧
  RowImm 0x0A#7 .sltni (fun a i => oneIf (a.toNat < i.toNat)) ∧
  RowShift 0#2 .slli (fun a m => BitVec.ofNat 64 (a.toNat * 2 ^ m)) ∧
  RowShift 1#2 .srli (fun a m => BitVec.ofNat 64 (a.toNat / 2 ^ m)) ∧
  RowShift 2#2 .srai (fun a m => BitVec.ofInt 64 (a.toInt / 2 ^ m)) ∧
  RowShift 3#2 .rotli (fun a m => bitsWord fun i => a.getLsbD ((i + 64 - m) % 64)) ∧
  (∀ d a t i, i.extractLsb' 6 6 ≠ 0#6 → decodeWord (iWord 0x0B#7 d a t i) = .error .reserved)) ∧
  ((∀ d i, decodeWord (jWord 0x0C#7 d i) = .ok (.lui d i) ∧
    ∀ s y, Reads s [] (some d) [] y →
      exec (.lui d i) s = completes s (wrote (popped s y) d 0#5 false (BitVec.ofInt 64 (i.toInt * 2 ^ 14)))) ∧
  (∀ d i, decodeWord (jWord 0x0D#7 d i) = .ok (.pcaddu d i) ∧
    ∀ s y, Reads s [] (some d) [] y →
      exec (.pcaddu d i) s =
        completes s (wrote (popped s y) d 0#5 false ((slotAt s s.cur).pc + BitVec.ofInt 64 (i.toInt * 2 ^ 14)))) ∧
  RowTwo 0x0E#7 0#9 .selz (fun a b => if b = 0#64 then a else 0#64) ∧
  RowTwo 0x0E#7 1#9 .selnz (fun a b => if b ≠ 0#64 then a else 0#64) ∧
  (∀ d a t sg o s va y, Reads s [a] (some d) [va] y →
    exec (.lea d a t sg o) s = completes s (wrote (popped s y) d a t (sg ++ (va + o.signExtend 64).setWidth 61))) ∧
  (∀ d a b t s va vb y, Reads s [a, b] (some d) [va, vb] y →
    ∀ lo hi n, lo = y.creg (0xC0 + 2 * (va.toNat / 2 ^ 61)) → hi = y.creg (0xC1 + 2 * (va.toNat / 2 ^ 61)) →
    n = (if vb.toNat % 2 ^ 40 = 0 then 1 else vb.toNat % 2 ^ 40) →
    exec (.segck d a b t) s = completes s (wrote (popped s y) d a t
      (if va.toNat / 2 ^ 40 % 2 ^ 21 ≠ 0 ∨ va.toNat % 2 ^ 40 + n - 1 > lo.toNat / 2 ^ 52 + hi.toNat % 2 ^ 28 * 2 ^ 12 then 0x10#64
       else if ∃ i : Fin 6, vb.getLsbD (58 + i.val) = true ∧ hi.getLsbD (28 + i.val) = false then 0x11#64
       else 0#64))) ∧
  (∀ a b t, decodeWord (rWord 0x10#7 0#5 a b t 1#9) = .ok (.tchk a b t)) ∧
  (∀ a b t s va vb y, Reads s [a, b] none [va, vb] y →
    (va.toNat < vb.toNat → exec (.tchk a b t) s = completes s (took (popped s y) a t)) ∧
    (vb.toNat ≤ va.toNat → exec (.tchk a b t) s = traps s 0x0A va)))


/-! Memory. -/

/-- R129 to R131: the address of a scalar access of `n` bytes through a 128-bit segment descriptor, with the checks in their order. The tier window
is translated, a spread region is mapped, under the own package's prefix too (R54), and any other address is itself; a hole traps 0x10. While an
access of another slot of the core waits for a walk, an access that would pass the memory port waits too, and one of the own LM does not (R105).
That bits [54:52] of a prefixed address must be 0 is read from the manual (log entry 77); that an own-prefixed address in the unpopulated HBM4
window is a hole (93), and that an untranslated access carries C = 0 (92), are the model's choices. -/
def Obligations.SegmentAddress : Prop :=
  ∀ s k seg off n need, ∀ (x : Slot) (D : BitVec 128), x = slotAt s k → D = x.segHi seg ++ x.segLo seg →
    let limit := (D.extractLsb' 52 40).toNat
    let la := (D.extractLsb' 0 52).toNat * 16 + off.toNat
    let win := (D.extractLsb' 98 2).toNat
    let lo := localPa s la
    let place : AddrRes :=
      if la < 0x20000000000 then translate s k x.asid la need
      else if 0x21000000000 ≤ lo ∧ lo < 0x21800000000 then
        match spreadMap (coreAt s (coreOf k)) ((lo - 0x21000000000) / 2 ^ 32) (lo % 2 ^ 32) with
        | some pa => .ok la pa (Acc.plain x.asid la)
        | none => .trap 0x21 (nw la)
      else if placeOf s lo = .hole then .trap 0x10 (nw la)
      else .ok la lo (Acc.plain x.asid la)
    let inTurn : AddrRes := match place with
      | .ok l pa acc => if ownLm s (coreOf k) pa = .other then .walk s else .ok l pa acc
      | .trap c v => .trap c v
      | .walk _ => .walk s
    segAddr s k seg off n need =
      if off.toInt < 0 ∨ off.toNat + n - 1 > limit then .trap 0x10 off
      else if (need.r = true ∧ D.getLsbD 92 = false) ∨ (need.w = true ∧ D.getLsbD 93 = false) ∨ (need.x = true ∧ D.getLsbD 94 = false)
          ∨ (need.f = true ∧ D.getLsbD 96 = false) ∨ (need.d = true ∧ D.getLsbD 97 = false) then .trap 0x11 off
      else if la % n ≠ 0 then .trap 0x12 (nw la)
      else if (win = 0 ∧ 0x20000000000 ≤ la) ∨ (win = 1 ∧ (la < 0x20000000000 ∨ 0x21800000000 ≤ la))
          ∨ (win = 2 ∧ (la < 0x21800000000 ∨ 0x21900000000 ≤ la)) ∨ (win = 3 ∧ (la < 0x22000000000 ∨ 2 ^ 56 ≤ la)) then .trap 0x10 off
      else if walkBlocks s k then inTurn else place

/-- R136: the seven loads. From the own LM the value, sign- or zero-extended, stands in g[d] at the end of the turn, or poison where the bytes hold an
error; from another home the request leaves and g[d] is pending. R107, R136: the four stores. In the own LM exactly the addressed bytes change; to another home the store is posted: it stands in the journal and its
message leaves. -/
def Obligations.LoadsAndStores : Prop :=
  (LoadsOwn 1 true .ldI8 ∧ LoadsOwn 1 false .ldN8 ∧ LoadsOwn 2 true .ldI16 ∧ LoadsOwn 2 false .ldN16 ∧ LoadsOwn 4 true .ldI32 ∧
  LoadsOwn 4 false .ldN32 ∧ LoadsOwn 8 false .ld64 ∧
  LoadsRemote 1 true .ldI8 ∧ LoadsRemote 1 false .ldN8 ∧ LoadsRemote 2 true .ldI16 ∧ LoadsRemote 2 false .ldN16 ∧ LoadsRemote 4 true .ldI32 ∧
  LoadsRemote 4 false .ldN32 ∧ LoadsRemote 8 false .ld64) ∧
  (StoresOwn 1 .st8 ∧ StoresOwn 2 .st16 ∧ StoresOwn 4 .st32 ∧ StoresOwn 8 .st64 ∧
  StoresPosted 1 .st8 ∧ StoresPosted 2 .st16 ∧ StoresPosted 4 .st32 ∧ StoresPosted 8 .st64)

/-- R338: a control window takes only `ld.64` and `st.64`, and a register with a privileged field not in user mode: a load or store of any other size
traps 0x10, one of a privileged register in user mode 0x03; else the access leaves for the register's agent. That another package's control
window is judged at the issuing core too is read from the manual (log entry 28). -/
def Obligations.ControlWindowAccesses : Prop :=
  ∀ d a t sg o s va y la pa acc, y.barEHolds = false → ownLm (popped s y) (coreOf s.cur) pa = .other → isCtl s pa = true →
    (Reads s [a] (some d) [va] y →
      (∀ mk n, (mk, n) ∈ [(Instr.ldI8, 1), (.ldN8, 1), (.ldI16, 2), (.ldN16, 2), (.ldI32, 4), (.ldN32, 4)] →
        AtAddr (popped s y) sg va o n needR la pa acc → exec (mk d a t sg o) s = traps s 0x10 (nw la)) ∧
      (AtAddr (popped s y) sg va o 8 needR la pa acc →
        (ctlPriv s pa = true → (slotAt s s.cur).mode = .user → exec (.ld64 d a t sg o) s = traps s 0x03 (nw la)) ∧
        (∀ blk n tag, placeOf s pa = .ctl blk n → ¬ (ctlPriv s pa = true ∧ (slotAt s s.cur).mode = .user) →
          y.inStream d.toNat = none → freeTag (coreAt s (coreOf s.cur)) = some tag →
          exec (.ld64 d a t sg o) s =
            completes s (requested (popped s y) d a t tag 8 false .load none pa (.ctlAccess false blk n 0#64))))) ∧
    (∀ vd, Reads s [a, d] none [va, vd] y →
      (∀ mk n, (mk, n) ∈ [(Instr.st8, 1), (.st16, 2), (.st32, 4)] →
        AtAddr (popped s y) sg va o n needW la pa acc → exec (mk d a t sg o) s = traps s 0x10 (nw la)) ∧
      (AtAddr (popped s y) sg va o 8 needW la pa acc →
        (ctlPriv s pa = true → (slotAt s s.cur).mode = .user → exec (.st64 d a t sg o) s = traps s 0x03 (nw la)) ∧
        (∀ blk n e, placeOf s pa = .ctl blk n → ¬ (ctlPriv s pa = true ∧ (slotAt s s.cur).mode = .user) →
          freeJ (coreAt s (coreOf s.cur)) = some e →
          exec (.st64 d a t sg o) s =
            completes s (posted (popped s y) a t e pa (wordLE 8 vd) none acc (.ctlAccess true blk n vd)))))

/-- A load or store of the own LM leaves every byte of memory as it was, but for the bytes that a store writes: `n` bytes from the one addressed. A store
that covers part of a word in error writes none (R410), and neither do a store refused by a quarter that is off or retired (R141), a posted store and a
load of another home in their turn. -/
def Obligations.MemoryFrame : Prop :=
  (∀ mk n signed, (mk, n, signed) ∈ [(Instr.ldI8, 1, true), (.ldN8, 1, false), (.ldI16, 2, true), (.ldN16, 2, false), (.ldI32, 4, true),
      (.ldN32, 4, false), (.ld64, 8, false)] →
    ∀ d a t sg o s u va y la pa acc, Reads s [a] (some d) [va] y →
      AtAddr (popped s y) sg va o n needR la pa acc →
      exec (mk d a t sg o) s = .next u → ∀ key, memByte u key = memByte s key) ∧
  (∀ mk n, (mk, n) ∈ [(Instr.st8, 1), (.st16, 2), (.st32, 4), (.st64, 8)] →
    ∀ d a t sg o s u va vd y la pa acc, Reads s [a, d] none [va, vd] y → AtAddr (popped s y) sg va o n needW la pa acc →
      exec (mk d a t sg o) s = .next u →
      (∀ off, ownLm (popped s y) (coreOf s.cur) pa = .own off → partialBad s (lmKey (coreOf s.cur) off) n = false →
        (∀ i, i < n → memByte u (lmKey (coreOf s.cur) off + i) = BitVec.ofNat 8 (vd.toNat / 256 ^ i)) ∧
        (∀ key, (key < lmKey (coreOf s.cur) off ∨ lmKey (coreOf s.cur) off + n ≤ key) → memByte u key = memByte s key)) ∧
      (∀ off, ownLm (popped s y) (coreOf s.cur) pa = .own off → partialBad s (lmKey (coreOf s.cur) off) n = true →
        ∀ key, memByte u key = memByte s key) ∧
      ((∀ off, ownLm (popped s y) (coreOf s.cur) pa ≠ .own off) → ∀ key, memByte u key = memByte s key)) ∧
  (∀ d a b t s u va vb y, Reads s [a, b] (some d) [va, vb] y → exec (.add d a b t) s = .next u → ∀ key, memByte u key = memByte s key)

/-- R109, R110 and R113: `ldro.64` reads the cached line of another core's LM, or starts a fill that will write g[d]; `pfro` starts one without a
register, and does nothing where the line is there already; `rocinv` drops all lines, or those that a range touches; `pjwait` parks until the
slot's posted stores are answered, returns the refusals counted and clears the count. -/
def Obligations.ReadOnlyCacheAndJournal : Prop :=
  (∀ d a t sg o s va y la pa acc line bs, Reads s [a] (some d) [va] y → y.barEHolds = false →
    AtAddr (popped s y) sg va o 8 needR la pa acc → roLine s (coreOf s.cur) pa = some line →
    (SMap.get (fun _ => none) (coreAt s (coreOf s.cur)).roc line = some bs →
      exec (.ldro64 d a t sg o) s = completes s (wrote
        (modCore (popped s y) (coreOf s.cur) fun c => c.setCreg 0x143 (addF (c.creg 0x143) 0 32 1)) d a t
        (loaded 8 false ((bs.drop (pa % 64)).take 8)))) ∧
    (SMap.get (fun _ => none) (coreAt s (coreOf s.cur)).roc line = none → y.inStream d.toNat = none →
      ∀ u, startRoFill (popped s y) s.cur pa acc [(s.cur, d.toNat, pa % 64)] = some u →
        exec (.ldro64 d a t sg o) s = completes s (modSlot u s.cur fun x => (x.takeIf t a.toNat).pending d.toNat))) ∧
  (∀ d a t sg o s va y la pa acc off, Reads s [a] (some d) [va] y → y.barEHolds = false →
    AtAddr (popped s y) sg va o 8 needR la pa acc → ownLm (popped s y) (coreOf s.cur) pa = .own off → roLine s (coreOf s.cur) pa = none →
    firstBad s (lmKey (coreOf s.cur) off) 8 = none →
    exec (.ldro64 d a t sg o) s = completes s (wrote (popped s y) d a t (loaded 8 false (memBytes s (lmKey (coreOf s.cur) off) 8)))) ∧
  (∀ a t sg o s va y la pa acc line, Reads s [a] none [va] y → y.barEHolds = false →
    AtAddr (popped s y) sg va o 8 needR la pa acc → roLine s (coreOf s.cur) pa = some line →
    (∀ bs, SMap.get (fun _ => none) (coreAt s (coreOf s.cur)).roc line = some bs →
      exec (.pfro a t sg o) s = completes s (took (popped s y) a t)) ∧
    (SMap.get (fun _ => none) (coreAt s (coreOf s.cur)).roc line = none → ∀ u, startRoFill (popped s y) s.cur pa acc [] = some u →
      exec (.pfro a t sg o) s = completes s (took u a t))) ∧
  (∀ a b t s va vb y, Reads s [a, b] none [va, vb] y →
    exec (.rocinv a b t) s = completes s (took (modCore (popped s y) (coreOf s.cur) fun c =>
      { c with roc := c.roc.filter fun e =>
          decide (vb ≠ 0#64 ∧ (va.toNat + vb.toNat ≤ 64 * e.1 ∨ 64 * e.1 + 64 ≤ va.toNat)) }) a t)) ∧
  (∀ d s y, Reads s [] (some d) [] y →
    (slotJ (coreAt s (coreOf s.cur)) s.cur = [] → exec (.pjwait d) s =
      completes s (modSlot (popped s y) s.cur fun x => { x.writeDst d.toNat (nw (min x.refc 65535)) with refc := 0 })) ∧
    (slotJ (coreAt s (coreOf s.cur)) s.cur ≠ [] → exec (.pjwait d) s = waits s y))

/-- R143: the full/empty forms on a word of the own LM. `ldfe` and `ldff` wait for a full word and `stef` for an empty one; `stff`, `fset`, `fclr` and `fget`
do not wait. Each acts on the word and its full bit in the turn, and then the waiting requests whose condition now holds are served (R144). R143: the full/empty forms on another core's word. `ldfe`, `ldff`, `fget` and `stef` are load-and-reply, with at most four of a slot outstanding (R341);
`stff`, `fset` and `fclr` are posted. -/
def Obligations.FullEmptyForms : Prop :=
  (∀ d a t sg o s va y la pa acc off, y.barEHolds = false → ownLm (popped s y) (coreOf s.cur) pa = .own off →
    (Reads s [a] (some d) [va] y → badAt s (lmKey (coreOf s.cur) off) = 0 → AtAddr (popped s y) sg va o 8 needRF la pa acc →
      (feAt s (coreOf s.cur) off = true →
        exec (.ldfe d a t sg o) s = completes s (wrote (service (setFe (popped s y) (coreOf s.cur) off false) (coreOf s.cur) off) d a t
          (leWord (memBytes s (lmKey (coreOf s.cur) off) 8))) ∧
        exec (.ldff d a t sg o) s = completes s (wrote (service (popped s y) (coreOf s.cur) off) d a t
          (leWord (memBytes s (lmKey (coreOf s.cur) off) 8)))) ∧
      (feAt s (coreOf s.cur) off = false → exec (.ldfe d a t sg o) s = waits s y ∧ exec (.ldff d a t sg o) s = waits s y)) ∧
    (Reads s [a] (some d) [va] y → badAt s (lmKey (coreOf s.cur) off) = 0 → AtPtr (popped s y) va 8 needRF la pa acc →
      exec (.fget d a t) s = completes s (wrote (service (popped s y) (coreOf s.cur) off) d a t (bw (feAt s (coreOf s.cur) off)))) ∧
    (Reads s [a] none [va] y → AtPtr (popped s y) va 8 needWF la pa acc →
      exec (.fset a t) s = completes s (took (service (fireTrap (setFe (popped s y) (coreOf s.cur) off true) (coreOf s.cur) off
        (.ni (coreOf s.cur), s.cur)) (coreOf s.cur) off) a t) ∧
      exec (.fclr a t) s = completes s (took (service (setFe (popped s y) (coreOf s.cur) off false) (coreOf s.cur) off) a t)) ∧
    (∀ vd u, Reads s [a, d] none [va, vd] y → AtAddr (popped s y) sg va o 8 needWF la pa acc →
      u = fireTrap (setFe (clearBad (setBytes (popped s y) (lmKey (coreOf s.cur) off) (wordLE 8 vd)) (lmKey (coreOf s.cur) off) 8)
        (coreOf s.cur) off true) (coreOf s.cur) off (.ni (coreOf s.cur), s.cur) →
      exec (.stff d a t sg o) s = completes s (took (service (dirWrite u (coreOf s.cur) off none) (coreOf s.cur) off) a t) ∧
      (y.destWaits d.toNat = false → feAt s (coreOf s.cur) off = false →
        exec (.stef d a t sg o) s = completes s (took (service (dirWrite u (coreOf s.cur) off none) (coreOf s.cur) off) a t)) ∧
      (feAt s (coreOf s.cur) off = true → exec (.stef d a t sg o) s = waits s y))) ∧
  (∀ d a t sg o s va y la pa acc, y.barEHolds = false → ownLm (popped s y) (coreOf s.cur) pa = .other → isLmWord s pa = true →
    (∀ tag, freeTag (coreAt s (coreOf s.cur)) = some tag → slotSyncs (coreAt s (coreOf s.cur)) s.cur < 4 → y.inStream d.toNat = none →
      (Reads s [a] (some d) [va] y → AtAddr (popped s y) sg va o 8 needRF la pa acc →
        exec (.ldfe d a t sg o) s =
          completes s (requested (popped s y) d a t tag 8 false .sync (some .ldfe) pa (.syncReq .ldfe pa 0#64 acc)) ∧
        exec (.ldff d a t sg o) s =
          completes s (requested (popped s y) d a t tag 8 false .sync (some .ldff) pa (.syncReq .ldff pa 0#64 acc))) ∧
      (Reads s [a] (some d) [va] y → AtPtr (popped s y) va 8 needRF la pa acc →
        exec (.fget d a t) s =
          completes s (requested (popped s y) d a t tag 8 false .sync (some .fget) pa (.syncReq .fget pa 0#64 acc))) ∧
      (∀ vd, Reads s [a, d] none [va, vd] y → AtAddr (popped s y) sg va o 8 needWF la pa acc → y.destWaits d.toNat = false →
        exec (.stef d a t sg o) s = completes s (requested (rocDrop (popped s y) (coreOf s.cur) pa) d a t tag 8 false .sync (some .stef) pa
          (.syncReq .stef pa vd acc)))) ∧
    (∀ e, freeJ (coreAt s (coreOf s.cur)) = some e →
      (∀ vd, Reads s [a, d] none [va, vd] y → AtAddr (popped s y) sg va o 8 needWF la pa acc →
        exec (.stff d a t sg o) s = completes s (posted (popped s y) a t e pa (wordLE 8 vd) (some .stff) acc
          (.postedStore pa (wordLE 8 vd) (some .stff) acc))) ∧
      (Reads s [a] none [va] y → AtPtr (popped s y) va 8 needWF la pa acc →
        exec (.fset a t) s = completes s (posted (popped s y) a t e pa [] (some .fset) acc (.postedStore pa [] (some .fset) acc)) ∧
        exec (.fclr a t) s = completes s (posted (popped s y) a t e pa [] (some .fclr) acc (.postedStore pa [] (some .fclr) acc)))))

/-- R148: the atomics, on 32 or 64 bits: at the own LM the new word is written and the old one is the result, in one step; to another home the request
leaves. `amo.fadd` adds f32 values and exists on 32 bits only. R149: `cas` writes its new value when the word equals the low bits of g[d], and returns the old word in every case. -/
def Obligations.AtomicsAndCompareAndSwap : Prop :=
  (AtomicBoth .add .amoAdd (fun _ old b => old + b) ∧
  AtomicBoth .and .amoAnd (fun _ old b => old &&& b) ∧
  AtomicBoth .or .amoOr (fun _ old b => old ||| b) ∧
  AtomicBoth .xor .amoXor (fun _ old b => old ^^^ b) ∧
  AtomicBoth .min .amoMin (fun _ old b => if old.toInt < b.toInt then old else b) ∧
  AtomicBoth .max .amoMax (fun _ old b => if old.toInt < b.toInt then b else old) ∧
  AtomicBoth .minn .amoMinn (fun _ old b => if old.toNat < b.toNat then old else b) ∧
  AtomicBoth .maxn .amoMaxn (fun _ old b => if old.toNat < b.toNat then b else old) ∧
  AtomicBoth .swap .amoSwap (fun _ _ b => b) ∧
  Atomic 4 .fadd .amoFadd (fun old b => BitVec.ofNat 32 (f32Add .rne old.toNat b.toNat))) ∧
  (∀ d a b t w s va vb vd y la pa acc, ∀ n, n = (if w then 8 else 4) → Reads s [a, b, d] (some d) [va, vb, vd] y → y.barEHolds = false →
    AtPtr (popped s y) va n needRW la pa acc →
    (∀ off, ownLm (popped s y) (coreOf s.cur) pa = .own off → firstBad s (lmKey (coreOf s.cur) off) n = none →
      (oldWord n s off = vd.setWidth (8 * n) →
        exec (.cas d a b t w) s = completes s (wrote (wroteOwn s (popped s y) off (wordLE n vb)) d a t ((oldWord n s off).setWidth 64))) ∧
      (oldWord n s off ≠ vd.setWidth (8 * n) →
        exec (.cas d a b t w) s = completes s (wrote (popped s y) d a t ((oldWord n s off).setWidth 64)))) ∧
    (∀ tag, ownLm (popped s y) (coreOf s.cur) pa = .other → isCtl s pa = false → isHost s pa = false → y.inStream d.toNat = none →
      freeTag (coreAt s (coreOf s.cur)) = some tag →
      exec (.cas d a b t w) s = completes s (requested (rocDrop (popped s y) (coreOf s.cur) pa) d a t tag n false .atomic none pa
        (.atomicReq .cas pa n (BitVec.ofNat 64 (vb.toNat % 2 ^ (8 * n))) (BitVec.ofNat 64 (vd.toNat % 2 ^ (8 * n))) acc))))


/-! Control flow, gangs, pins, semaphores, rings, waiting and fences. -/

/-- R287: the branches on two registers. -/
def Obligations.Branches : Prop :=
  RowBranch 0#3 .beq (fun a b => a = b) ∧
  RowBranch 1#3 .bne (fun a b => a ≠ b) ∧
  RowBranch 2#3 .blt (fun a b => a.toInt < b.toInt) ∧
  RowBranch 3#3 .bge (fun a b => b.toInt ≤ a.toInt) ∧
  RowBranch 4#3 .bltn (fun a b => a.toNat < b.toNat) ∧
  RowBranch 5#3 .bgen (fun a b => b.toNat ≤ a.toNat) ∧
  (∀ a b o, decodeWord (bWord 0x28#7 a b 7#3 o) = .error .reserved) ∧
  RowBranchImm 0#3 .beqi (fun a i => a = i) ∧
  RowBranchImm 1#3 .bnei (fun a i => a ≠ i) ∧
  RowBranchImm 2#3 .blti (fun a i => a.toInt < i.toInt) ∧
  RowBranchImm 3#3 .bgei (fun a i => i.toInt ≤ a.toInt) ∧
  (∀ a i c o, 4 ≤ c.toNat → decodeWord (bWord 0x29#7 a i c o) = .error .reserved)

/-- R288, R290 and R291: `bfull` looks at the full bit alone and never parks; `jal` and `jalr` write the link and jump, `jalr` to g[a] + imm, which traps 0x12
when it is not a multiple of 4; `loop` writes g[a] − 1 and branches while it differs from g[b]. -/
def Obligations.FullTestJumpsAndLoop : Prop :=
  (∀ a o, decodeWord (bWord 0x28#7 a 0#5 6#3 o) = .ok (.bfull a o) ∧
    ∀ s, ((slotAt s s.cur).isFull a.toNat = true →
        exec (.bfull a o) s = branches s s o true) ∧
      ((slotAt s s.cur).isFull a.toNat = false → exec (.bfull a o) s = branches s s o false)) ∧
  (∀ d o, decodeWord (jWord 0x2A#7 d o) = .ok (.jal d o) ∧
    ∀ s y, Reads s [] (some d) [] y →
      exec (.jal d o) s = jumps s (wrote (popped s y) d 0#5 false ((slotAt s s.cur).pc + 4#64))
        ((slotAt s s.cur).pc + 4#64 * o.signExtend 64)) ∧
  (∀ d a t i, decodeWord (iWord 0x2B#7 d a t i) = .ok (.jalr d a t i) ∧
    ∀ s va y, Reads s [a] (some d) [va] y →
      ((va + i.signExtend 64).toNat % 4 = 0 → exec (.jalr d a t i) s =
        jumps s (wrote (popped s y) d a t ((slotAt s s.cur).pc + 4#64)) (va + i.signExtend 64)) ∧
      ((va + i.signExtend 64).toNat % 4 ≠ 0 → exec (.jalr d a t i) s = traps s 0x12 (va + i.signExtend 64))) ∧
  (∀ a b o, decodeWord (bWord 0x2C#7 a b 0#3 o) = .ok (.loop a b o) ∧
    ∀ s va vb y, Reads s [a, b] (some a) [va, vb] y →
      (va - 1#64 ≠ vb → exec (.loop a b o) s =
        branches s (wrote (popped s y) a 0#5 false (va - 1#64)) o true) ∧
      (va - 1#64 = vb → exec (.loop a b o) s =
        branches s (wrote (popped s y) a 0#5 false (va - 1#64)) o false))

/-- R303, R305 and R306: a member that comes to `gform` before the last records its arrival and parks, and the last arrival forms the gang: every member is attached, and
goes on behind the leader's `gform`. `gsplit` sets the split flag. At the leader, `grejoin` with every detached member waiting reattaches them all,
behind the leader's `grejoin`, and `gleave` ends the gang: every member's GANG becomes 0, in lockstep at once for those that are attached, and a
member that waits in `grejoin` completes it. A detached follower's `grejoin` parks, and its `gleave` takes it out. In no gang the three trap 0x07.
That the members of a gang whose leader runs alone leave it in the leader's turn is read from the manual (log entry 55). -/
def Obligations.Gangs : Prop :=
  (∀ a t s va y l n, Reads s [a] none [va] y → (slotAt s s.cur).gang = none → gformOk s s.cur va = true →
    l = va.toNat % 32 → n = va.toNat / 32 % 64 →
    (∀ m ∈ gangSlots s s.cur 0 33, ∀ q, (slotAt s m).forming = some (l, q) → q = n) →
    ((∀ m ∈ gangSlots s s.cur l n, m ≠ s.cur → (slotAt s m).forming = some (l, n)) →
      ∃ u, exec (.gform a t) s = .next u ∧ u.mark = .done ∧ ∀ m ∈ gangSlots s s.cur l n,
        (slotAt u m).gang = some ⟨l, n, true, false, false⟩ ∧ (slotAt u m).pc = (slotAt s (gangSlot s s.cur l)).pc + 4#64 ∧
        (slotAt u m).forming = none) ∧
    (∀ m ∈ gangSlots s s.cur l n, m ≠ s.cur → (slotAt s m).forming ≠ some (l, n) →
      ∃ u, exec (.gform a t) s = .next u ∧ u.mark = .parked ∧ (slotAt u s.cur).forming = some (l, n) ∧ (slotAt u s.cur).gang = none)) ∧
  (∀ s, (slotAt s s.cur).gang = none → exec .gsplit s = traps s 0x07 (slotAt s s.cur).pc ∧
    exec .grejoin s = traps s 0x07 (slotAt s s.cur).pc ∧ exec .gleave s = traps s 0x07 (slotAt s s.cur).pc) ∧
  (∀ s g, (slotAt s s.cur).gang = some g →
    exec .gsplit s = completes s (modSlot s (gangSlot s s.cur g.lead) fun x => { x with gang := x.gang.map fun h => { h with spl := true } })) ∧
  (∀ s g, (slotAt s s.cur).gang = some g → lcoreOf s (coreOf s.cur) = g.lead →
    (rejoinReady s s.cur g = true → ∃ u, exec .grejoin s = .next u ∧ u.mark = .done ∧
      (slotAt u s.cur).pc = (slotAt s s.cur).pc + 4#64 ∧
      ∀ m ∈ gangSlots s s.cur g.lead g.size, ofGang s g.lead m = true →
        (slotAt u m).gang = some { g with att := true, spl := false, rejoin := false } ∧
        (m ≠ s.cur → ∀ h, (slotAt s m).gang = some h →
          (h.att = false → (slotAt u m).pc = (slotAt s s.cur).pc + 4#64 ∧ (slotAt u m).st ≠ .parked) ∧
          (h.att = true → (slotAt u m).pc = (slotAt s m).pc))) ∧
    (rejoinReady s s.cur g = false → exec .grejoin s = parks s s) ∧
    (∃ u, exec .gleave s = .next u ∧ u.mark = .done ∧ (slotAt u s.cur).gang = none ∧ (slotAt u s.cur).pc = (slotAt s s.cur).pc + 4#64 ∧
      ∀ m ∈ gangSlots s s.cur g.lead g.size, m ≠ s.cur → ∀ h, (slotAt s m).gang = some h → h.lead = g.lead →
        (h.att = true → (slotAt s s.cur).solo = false → slotAt u m = slotAt s m) ∧
        (h.att = false ∨ (slotAt s s.cur).solo = true → (slotAt u m).gang = none) ∧
        (h.att = false → h.rejoin = true → (slotAt u m).pc = (slotAt s m).pc + 4#64 ∧ (slotAt u m).st ≠ .parked))) ∧
  (∀ s w g fs, decodeWord w = .ok .gleave → (slotAt s s.cur).gang = some g → lcoreOf s (coreOf s.cur) = g.lead →
    gangSlot s s.cur g.lead = s.cur → (slotAt s s.cur).solo = false → fs = followers s s.cur → (∀ k ∈ s.cur :: fs, (slotAt s k).st = .ready) →
    ∃ u, runGang exec s s.cur fs w = .next u ∧
      ∀ m ∈ gangSlots s s.cur g.lead g.size, ofGang s g.lead m = true → (slotAt u m).gang = none) ∧
  (∀ s g, (slotAt s s.cur).gang = some g → lcoreOf s (coreOf s.cur) ≠ g.lead →
    (g.att = true → rejoinReady s s.cur g = true → exec .grejoin s = completes s s) ∧
    (g.att = false → exec .grejoin s = parks s (modSlot s s.cur fun x => { x with gang := some { g with rejoin := true } })) ∧
    exec .gleave s = completes s (modSlot s s.cur fun x => { x with gang := none, solo := false }))

/-- R293, R295, R300 to R302: `pin` and `unpin`, the semaphores, `yield`, `park`, `wake`, `tsleep` and `clock`. That a parked slot evaluates its
instruction again at its turns is the model's choice (log entry 22). -/
def Obligations.PinsSemaphoresAndTime : Prop :=
  (∀ s, ((coreAt s (coreOf s.cur)).pin = none →
      exec .pin s = completes s (modCore s (coreOf s.cur) fun c => { c with pin := some s.cur })) ∧
    ((coreAt s (coreOf s.cur)).pin = some s.cur → exec .pin s = completes s s) ∧
    (∀ k, (coreAt s (coreOf s.cur)).pin = some k → k ≠ s.cur → exec .pin s = parks s s) ∧
    ((coreAt s (coreOf s.cur)).pin ≠ some s.cur → exec .unpin s = traps s 0x04 0x60000001#64) ∧
    ((coreAt s (coreOf s.cur)).pin = some s.cur → (∀ c ∈ (slotAt s s.cur).cmds, c.ve = false) →
      exec .unpin s = completes s (modCore s (coreOf s.cur) fun c => { c with pin := none })) ∧
    ((coreAt s (coreOf s.cur)).pin = some s.cur → (∃ c ∈ (slotAt s s.cur).cmds, c.ve = true) → exec .unpin s = parks s s)) ∧
  (∀ s (n : BitVec 4), (1 ≤ semOf s n.toNat → exec (.semdn n) s = completes s (withSem s n.toNat (semOf s n.toNat - 1))) ∧
    (semOf s n.toNat = 0 → exec (.semdn n) s = parks s (modSlot s s.cur fun x => { x with semw := some n.toNat })) ∧
    (semOf s n.toNat < 65535 → exec (.semup n) s =
      completes s (wakeSem (withSem s n.toNat (semOf s n.toNat + 1)) (coreOf s.cur) n.toNat)) ∧
    (semOf s n.toNat = 65535 → exec (.semup n) s = traps s 0x33 (nw n.toNat))) ∧
  (∀ s d (n : BitVec 4) y, Reads s [] (some d) [] y →
    (1 ≤ semOf s n.toNat → exec (.semtry d n) s =
      completes s (wrote (withSem (popped s y) n.toNat (semOf s n.toNat - 1)) d 0#5 false 1#64)) ∧
    (semOf s n.toNat = 0 → exec (.semtry d n) s = completes s (wrote (popped s y) d 0#5 false 0#64))) ∧
  (∀ a t s va y, Reads s [a] none [va] y →
    exec (.yield a t) s = completes s (modSlot (popped s y) s.cur fun x =>
      { x.takeIf t a.toNat with skip := max 1 (va.toNat % 2 ^ 16) }) ∧
    exec (.wake a t) s = completes s (modSlot (took (popped s y) a t) (slotOf (coreOf s.cur) (va.toNat % 16))
      fun x => { x with tok := true }) ∧
    (∀ dl, dl = (slotAt s s.cur).deadline.getD (tickOf s + va.toNat) →
      ((va = 0#64 ∨ dl ≤ (s.time - 1) * 5 / 8) → exec (.tsleep a t) s = completes s (took (popped s y) a t)) ∧
      (va ≠ 0#64 → (s.time - 1) * 5 / 8 < dl →
        exec (.tsleep a t) s = parks s (modSlot (popped s y) s.cur fun x => { x with deadline := some dl, strs := (slotAt s s.cur).strs })))) ∧
  (∀ d a t s va y, Reads s [a] (some d) [va] y →
    ((slotAt s s.cur).tok = true → exec (.park d a t) s =
      completes s (modSlot (popped s y) s.cur fun x => { (x.takeIf t a.toNat).writeDst d.toNat 1#64 with tok := false })) ∧
    ((slotAt s s.cur).tok = false → va ≠ 0#64 → (slotAt s s.cur).deadline.getD (tickOf s + va.toNat) ≤ (s.time - 1) * 5 / 8 →
      exec (.park d a t) s = completes s (wrote (popped s y) d a t 0#64)) ∧
    ((slotAt s s.cur).tok = false → (va = 0#64 ∨ (s.time - 1) * 5 / 8 < (slotAt s s.cur).deadline.getD (tickOf s + va.toNat)) →
      exec (.park d a t) s = parks s (modSlot (popped s y) s.cur fun x => { x with
        strs := (slotAt s s.cur).strs
        deadline := if va = 0#64 then none else some ((slotAt s s.cur).deadline.getD (tickOf s + va.toNat)) }))) ∧
  (∀ d s y, Reads s [] (some d) [] y →
    exec (.clock d false) s = completes s (wrote (popped s y) d 0#5 false (nw (s.time * 5 / 8))) ∧
    exec (.clock d true) s = completes s (wrote (popped s y) d 0#5 false (nw (clusterCycle s (clusterOf (coreOf s.cur))))))

/-- R298: the ring forms. -/
def Obligations.Rings : Prop :=
  (∀ q b s p y la pa acc off bs r, Reads s [b] none [p] y → p ≠ 0#64 → (ringOf s q).v = false →
    segAddr (popped s y) s.cur (p.toNat / 2 ^ 61) (nw (p.toNat % 2 ^ 40)) 32 needRW = .ok la pa acc → ownLm (popped s y) (coreOf s.cur) pa = .own off →
    lmRead (popped s y) (coreOf s.cur) off 32 = .ok (popped s y) bs →
    r = ⟨true, off, p, dwordAt bs 0, bitF (dwordAt bs 1) 0 16, bitF (dwordAt bs 1) 16 16, bitF (dwordAt bs 2) 0 32, bitF (dwordAt bs 2) 32 32⟩ →
    ((r.n ≠ 0 ∧ r.ssz ≠ 0 ∧ r.ssz % 8 = 0 ∧ filledOf r ≤ r.n ∧ bitF (dwordAt bs 1) 32 32 = 0 ∧ dwordAt bs 3 = 0#64) →
      exec (.qbind q b) s = completes s (withRing (popped s y) q r)) ∧
    (¬ (r.n ≠ 0 ∧ r.ssz ≠ 0 ∧ r.ssz % 8 = 0 ∧ filledOf r ≤ r.n ∧ bitF (dwordAt bs 1) 32 32 = 0 ∧ dwordAt bs 3 = 0#64) →
      exec (.qbind q b) s = traps s 0x32 (nw la))) ∧
  (∀ q b s p y, Reads s [b] none [p] y → p ≠ 0#64 → (ringOf s q).v = true → exec (.qbind q b) s = traps s 0x32 (nw q.toNat)) ∧
  (∀ q b s y, Reads s [b] none [0#64] y →
    ((ringOf s q).v = false → exec (.qbind q b) s = completes s (popped s y)) ∧
    ((ringOf s q).v = true → (∀ c v, ownBytes (popped s y) (coreOf s.cur) ((ringOf s q).off + 16) 8 = .error (c, v) → c ≠ 0x16 ∧ c ≠ 0x17) →
      ∃ u, exec (.qbind q b) s = .next u ∧ u.mark = .done ∧ (ringOf u q).v = false ∧
        memBytes u (lmKey (coreOf s.cur) ((ringOf s q).off + 16)) 8 = natLE 4 (ringOf s q).head ++ natLE 4 (ringOf s q).tail)) ∧
  (∀ d q b s vb y k, Reads s [b] (some d) [vb] y → k = max 1 (vb.toNat % 2 ^ 16) →
    ((ringOf s q).v = true → k ≤ (ringOf s q).n → k ≤ filledOf (ringOf s q) →
      exec (.qwaitf d q b) s = completes s (wrote (popped s y) d 0#5 false
        (nw ((ringOf s q).buf.toNat % 2 ^ 40 + (ringOf s q).head % (ringOf s q).n * (ringOf s q).ssz)))) ∧
    ((ringOf s q).v = true → k ≤ (ringOf s q).n → k ≤ freeOf (ringOf s q) →
      exec (.qwaite d q b) s = completes s (wrote (popped s y) d 0#5 false
        (nw ((ringOf s q).buf.toNat % 2 ^ 40 + (ringOf s q).tail % (ringOf s q).n * (ringOf s q).ssz)))) ∧
    ((ringOf s q).v = true → k ≤ (ringOf s q).n → filledOf (ringOf s q) < k → exec (.qwaitf d q b) s = waits s y) ∧
    ((ringOf s q).v = true → k ≤ (ringOf s q).n → freeOf (ringOf s q) < k → exec (.qwaite d q b) s = waits s y) ∧
    ((ringOf s q).v = false ∨ (ringOf s q).n < k →
      exec (.qwaitf d q b) s = traps s 0x32 (nw q.toNat) ∧ exec (.qwaite d q b) s = traps s 0x32 (nw q.toNat))) ∧
  (∀ q b s vb y k, Reads s [b] none [vb] y → k = vb.toNat % 2 ^ 16 →
    ((ringOf s q).v = true → k ≤ filledOf (ringOf s q) → exec (.qadvh q b) s =
      completes s (withRing (popped s y) q { ringOf s q with head := ((ringOf s q).head + k) % 2 ^ 32 })) ∧
    ((ringOf s q).v = true → k ≤ freeOf (ringOf s q) → exec (.qadvt q b) s =
      completes s (withRing (popped s y) q { ringOf s q with tail := ((ringOf s q).tail + k) % 2 ^ 32 })) ∧
    ((ringOf s q).v = false ∨ filledOf (ringOf s q) < k → exec (.qadvh q b) s = traps s 0x32 (nw q.toNat)) ∧
    ((ringOf s q).v = false ∨ freeOf (ringOf s q) < k → exec (.qadvt q b) s = traps s 0x32 (nw q.toNat))) ∧
  (∀ d q s y, Reads s [] (some d) [] y →
    ((ringOf s q).v = true → exec (.qcnt d q) s =
      completes s (wrote (popped s y) d 0#5 false (nw (freeOf (ringOf s q) * 2 ^ 32 + filledOf (ringOf s q))))) ∧
    ((ringOf s q).v = false → exec (.qcnt d q) s = traps s 0x32 (nw q.toNat)))

/-- R273 to R275: `fence` completes in its turn when nothing of the kinds that it names is outstanding in its scope, and parks while something is; `fencex`
completes at once and adds to the slot's barriers the stores and engine commands outstanding now. -/
def Obligations.Fences : Prop :=
  (∀ (k c : BitVec 3) s,
    ((k.getLsbD 0 = true → loadsOut s s.cur c.toNat = false) ∧ (k.getLsbD 1 = true → storesOut s s.cur c.toNat = false) ∧
      (k.getLsbD 2 = true → enginesOut s s.cur c.toNat = false) → exec (.fence k c) s = completes s s) ∧
    ((k.getLsbD 0 = true ∧ loadsOut s s.cur c.toNat = true) ∨ (k.getLsbD 1 = true ∧ storesOut s s.cur c.toNat = true) ∨
      (k.getLsbD 2 = true ∧ enginesOut s s.cur c.toNat = true) → exec (.fence k c) s = parks s s)) ∧
  (∀ (k : BitVec 2) (c : BitVec 3) s, exec (.fencex k c) s = completes s (modSlot s s.cur fun x =>
    { x with
      barS := x.barS ++ if k.getLsbD 0 then ((slotJ (coreAt s (coreOf s.cur)) s.cur).filter fun j =>
        decide (homeScope s (coreOf s.cur) j.pa ≤ c.toNat)).map JEntry.uid else [],
      barE := x.barE ++ if k.getLsbD 1 then (x.cmds.filter fun e => decide (e.scope ≤ c.toNat)).map CmdRef.id else [] }))

/-! Work. -/

/-- R314, R316, R318, R319 and R321: the forms of WORK. `launch` reads its record after the stores of the slot are answered, then its arguments, its
placement table and the levels above it, each once (what it has read in its own LM is kept beside the answers), and delivers status 2, 3 or 6 of the issuer
or else the status that the home of LID answers; `wfw`, `tdone` and `tfail` go to waiting for work, the last two with the unit's completion on its way;
the level and phase forms ask the record's home, an id that names no record traps 0x10, and `wfw` inside a unit or a handler and an end outside a unit
trap 0x36. -/
def Obligations.WorkForms : Prop :=
  (∀ d a t s va y ws ws1 bs r u1, Reads s [a] (some d) [va] y → Has y ws → (y.trip = none → journalEmpty s s.cur = true) →
    ReadsBytes (popped s y) ws va 0 64 64 ws1 bs u1 → r = dwords 8 bs →
    (launchBad s (myTower s) r = true → exec (.launch d a t) s = completes s (wrote u1 d a t 2#64)) ∧
    (∀ ws2 args u2, launchBad s (myTower s) r = false → OnlyKept u1 u2 → (∀ e, launchArgs u1 ws1 r e = e u2 ws2 args) →
      (∀ u3, OnlyKept u2 u3 → (∀ b e, launchPlace u2 ws2 r b e = b u3) → exec (.launch d a t) s = completes s (wrote u3 d a t 3#64)) ∧
      (∀ ws3 place ws4 cxl u3, OnlyKept u2 u3 → (∀ b e, launchPlace u2 ws2 r b e = e u3 ws3 place) →
        (∀ e, launchLevels u3 (launchAbove r) ws3 false e = e ws4 cxl) →
        (cxl = true → exec (.launch d a t) s = completes s (wrote u3 d a t 6#64)) ∧
        (∀ v vs, cxl = false → ws4 = v :: vs → exec (.launch d a t) s = completes s (wrote u3 d a t v)) ∧
        (cxl = false → ws4 = [] → Asks s (.launch d a t) (lvlAgent s (myTower s) ((val r 1).toNat / 2 ^ 32))
          (.launchReq ⟨r, args, place, y.asid, clusterOf (coreOf s.cur)⟩ none) 8)))) ∧
  (∀ s, journalEmpty s s.cur = false → (slotAt s s.cur).trip = none → ∀ d a t va y, Reads s [a] (some d) [va] y →
    exec (.launch d a t) s = waits s y) ∧
  (∀ s, ((slotAt s s.cur).unit = none ∧ (slotAt s s.cur).hnd = none →
      exec .wfw s = leaves s (modSlot s s.cur fun x => { x with st := .waiting, traps := [] })) ∧
    ((slotAt s s.cur).unit.isSome = true ∨ (slotAt s s.cur).hnd.isSome = true → exec .wfw s = traps s 0x36 0#64)) ∧
  (∀ s u, (slotAt s s.cur).unit = some u → releaseHolds s s.cur = false →
    exec .tdone s = leaves s (modSlot (niPost s (coreOf s.cur) ⟨.ni (coreOf s.cur), lvlAgent s (myTower s) u.lid, 0, s.cur,
      (slotAt s s.cur).phase, .unitDone u.lid false 0#32⟩) s.cur fun x => { x with unit := none, st := .waiting, traps := [] })) ∧
  (∀ s u, (slotAt s s.cur).unit = some u → releaseHolds s s.cur = true → exec .tdone s = parks s s) ∧
  (∀ s, (slotAt s s.cur).unit = none → exec .tdone s = traps s 0x36 0#64) ∧
  (∀ a t s va y, Reads s [a] none [va] y →
    (∀ u, (slotAt s s.cur).unit = some u → releaseHolds (popped s y) s.cur = false →
      exec (.tfail a t) s = leaves s (modSlot (niPost (popped s y) (coreOf s.cur) ⟨.ni (coreOf s.cur), lvlAgent s (myTower s) u.lid, 0, s.cur,
        (slotAt s s.cur).phase, .unitDone u.lid true (va.setWidth 32)⟩) s.cur
          fun x => { x.takeIf t a.toNat with unit := none, st := .waiting, traps := [] })) ∧
    (∀ u, (slotAt s s.cur).unit = some u → releaseHolds (popped s y) s.cur = true → exec (.tfail a t) s = waits s y) ∧
    ((slotAt s s.cur).unit = none → exec (.tfail a t) s = traps s 0x36 0#64)) ∧
  (∀ d a t s va y id tag, Reads s [a] (some d) [va] y true → y.barEHolds = false → id = va.toNat % 2 ^ 32 → idOk s (myTower s) id = true →
    freeTag (coreAt s (coreOf s.cur)) = some tag →
    exec (.lvlcnt d a t) s = completes s (asked (popped s y) d a t tag .load none (lvlAgent s (myTower s) id)
      (.levelRead id (decide (y.mode = .user)) y.asid)) ∧
    (slotSyncs (coreAt s (coreOf s.cur)) s.cur < 4 →
      exec (.lvlwait d a t) s = completes s (asked (popped s y) d a t tag .sync (some .lvlwait) (lvlAgent s (myTower s) id)
        (.levelWait .lvlwait id (decide (y.mode = .user)) y.asid)) ∧
      exec (.phwait d a t) s = completes s (asked (popped s y) d a t tag .sync (some .phwait) (lvlAgent s (myTower s) id)
        (.levelWait .phwait id (decide (y.mode = .user)) y.asid)))) ∧
  (∀ d a t s va y id, Reads s [a] (some d) [va] y true → y.barEHolds = false → id = va.toNat % 2 ^ 32 → idOk s (myTower s) id = false →
    exec (.lvlcnt d a t) s = traps s 0x10 (nw id) ∧ exec (.lvlwait d a t) s = traps s 0x10 (nw id) ∧
    exec (.phwait d a t) s = traps s 0x10 (nw id)) ∧
  (∀ a t s va y id, Reads s [a] none [va] y → id = va.toNat % 2 ^ 32 →
    (idOk s (myTower s) id = false → exec (.lvlcancel a t) s = traps s 0x10 (nw id) ∧ exec (.phclose a t) s = traps s 0x10 (nw id)) ∧
    (idOk s (myTower s) id = true →
      (y.trip = none →
        Asks s (.lvlcancel a t) (lvlAgent s (myTower s) id) (.cancelSet id (decide (y.mode = .user)) y.asid) 8) ∧
      (∀ v vs, Answered y (v :: vs) → exec (.lvlcancel a t) s = completes s (took (popped s y) a t)) ∧
      (y.trip = none → releaseHolds (popped s y) s.cur = false →
        Asks s (.phclose a t) (lvlAgent s (myTower s) id) (.phaseClose id (decide (y.mode = .user)) y.asid) 8) ∧
      (y.trip = none → releaseHolds (popped s y) s.cur = true → exec (.phclose a t) s = waits s y) ∧
      (∀ vs, Answered y (0#64 :: vs) → exec (.phclose a t) s = completes s (took (popped s y) a t)) ∧
      (∀ v vs, Answered y (v :: vs) → v ≠ 0#64 → exec (.phclose a t) s = traps s 0x37 va))) ∧
  (∀ d a t s va y id, Reads s [a] (some d) [va] y → y.barEHolds = false → id = va.toNat % 2 ^ 32 →
    (idOk s (myTower s) id = false → exec (.phopen d a t) s = traps s 0x10 (nw id)) ∧
    (idOk s (myTower s) id = true →
      (y.trip = none → Asks s (.phopen d a t) (lvlAgent s (myTower s) id) (.levelRead id (decide (y.mode = .user)) y.asid) 8) ∧
      (∀ v vs, Answered y (v :: vs) →
        (v.toNat / 2 ^ 50 % 4 = 2 → v.getLsbD 49 = false → exec (.phopen d a t) s = completes s (modSlot (popped s y) s.cur fun x =>
          { (x.takeIf t a.toNat).writeDst d.toNat (nw (v.toNat / 2 ^ 52 % 4)) with phase := v.toNat / 2 ^ 52 % 4 })) ∧
        (¬ (v.toNat / 2 ^ 50 % 4 = 2 ∧ v.getLsbD 49 = false) → exec (.phopen d a t) s = traps s 0x37 va))))

/-- R311 and R314 to R318: a launch on its way. The home of LID answers 6 for a cancelled record and 4 for a live one, 5 where 64 launches are held; a launch
with predecessors left it holds and answers 1, until the last of them is complete; any other it distributes. A dispenser accepts into a free place, and
the last acceptance answers 0; a refused distribution is sent again after 256 cycles; a dispenser starts one unit, in user mode at the launch's PC with
its arguments in g3 to g10 and its index in g11. A completion lowers PEND; with the last the record is DONE, and its parent and its successors are told.
That acceptance is one event and an answer another is the model's choice (log entry 49), and that a home may be asked in any order too (log entry
10). -/
def Obligations.LaunchEvents : Prop :=
  (∀ i s m l sl t u r p, arrives s i = some m → m.body = .launchReq l sl → t = agentTower m.dst → recRead (dropMsg s i) t (luLid l) = (u, r, p) →
    (lrCxl r = true → exec (.launchRequest i) s = .next (sendMsg u (replyTo m (.launchReply 6)))) ∧
    (lrCxl r = false → lrPend r ≠ 0 → lrDone r = false → exec (.launchRequest i) s = .next (sendMsg u (replyTo m (.launchReply 4)))) ∧
    (lrCxl r = false → (lrPend r = 0 ∨ lrDone r = true) → lrPred r + (luPred l : Int) ≤ 0 →
      ∃ ws, exec (.launchRequest i) s = .next (distribute (recWrite u t (luLid l) ws) t l (some { m with body := .launchReq { l with place := none } sl })) ∧
        ws.length = 4 ∧ lrPend ws = luUnits l ∧ lrDone ws = false ∧ lrCxl ws = false) ∧
    (lrCxl r = false → (lrPend r = 0 ∨ lrDone r = true) → 0 < lrPred r + (luPred l : Int) →
      (64 ≤ (towerAt u t).holdq.length → exec (.launchRequest i) s = .next (sendMsg u (replyTo m (.launchReply 5)))) ∧
      ((towerAt u t).holdq.length < 64 → ∃ ws, exec (.launchRequest i) s = .next (sendMsg
          (modTower (recWrite u t (luLid l) ws) t fun w => { w with holdq := w.holdq ++ [l] }) (replyTo m (.launchReply 1))) ∧
        ws.length = 4 ∧ lrPend ws = luUnits l ∧ lrDone ws = false ∧ lrCxl ws = false ∧
        (lrPred r + (luPred l : Int) < 2 ^ 31 → lrPred ws = lrPred r + (luPred l : Int))))) ∧
  (∀ i s m id t u r p l, arrives s i = some m → m.body = .predDone id → t = agentTower m.dst → recRead (dropMsg s i) t id = (u, r, p) →
    lrPred r = 1 → ∀ v, v = recWrite u t id (setD r 1 (((val r 1).setWidth 32).setWidth 64)) →
    (towerAt v t).holdq.find? (fun l => decide (luLid l = id)) = some l →
    exec (.unitCompletion i) s = .next (distribute (modTower v t fun w =>
      { w with holdq := w.holdq.filter fun x => decide (luLid x ≠ id) }) t l none)) ∧
  (∀ i s m l cl c, arrives s i = some m → m.body = .distribute l → m.dst = .dispenser cl →
    (clusterAt s cl).accept (toDispenser (dropMsg s i) l cl) = some c →
    (∀ e ∈ (towerAt s (agentTower m.src)).dist, luLid e.launch = luLid l → e.cxl = false) →
    ∃ u, exec (.launchDistribute i) s = .next u ∧ clusterAt u cl = c ∧
      (∀ e ∈ (towerAt u (agentTower m.src)).dist, luLid e.launch = luLid l → cl ∉ e.todo ∧ e.todo ≠ []) ∧
      ∀ e ∈ (towerAt s (agentTower m.src)).dist, luLid e.launch = luLid l → (∀ x ∈ e.todo, x = cl) → ∀ r, e.reply = some r →
        replyTo r (.launchReply 0) ∈ u.net) ∧
  (∀ tower i s d, (towerAt s tower).dist[i]? = some d → d.due ≠ 0 → d.due ≤ s.time →
    ∃ u, exec (.distributeRetry tower i) s = .next u ∧ (towerAt u tower).dist = (towerAt s tower).dist.set i { d with due := 0 } ∧
      ∀ c ∈ d.todo, (∀ m ∈ s.net, ¬ (m.dst = .dispenser c ∧ m.tag = luLid d.launch)) →
        ∃ m ∈ u.net, m.dst = .dispenser c ∧ m.body = .distribute d.launch) ∧
  (∀ i s m st c, arrives s i = some m → m.body = .launchReply st → m.dst = .ni c →
    exec (.launchStatusReply i) s = .next (deliver (dropMsg s i) c m.tag (.value (natLE 8 st)))) ∧
  (∀ cl s p l u k, (clusterAt s cl).hold = false → (s.modul.hu = .idle ∨ s.modul.hu = .shed) → pickPlace s cl = some (p, l, u, k) →
    ∃ v, exec (.dispenserStartUnit cl) s = .next v ∧ (slotAt v k).pc = l.pc ∧ (slotAt v k).mode = .user ∧ (slotAt v k).st = .ready ∧
      (slotAt v k).unit = some ⟨l.lid, u, l.graph, l.phase, l.job, l.np, tickOf s, 0⟩ ∧ (slotAt v k).reg 11 = nw u ∧
      (∀ j, j < 8 → (slotAt v k).reg (3 + j) = val l.args j ∧ bitOf (slotAt v k).full (3 + j) = true) ∧ (slotAt v k).tok = false) ∧
  (∀ i s m id f code t u r p, arrives s i = some m → m.body = .unitDone id f code → t = agentTower m.dst →
    recRead (dropMsg s i) t id = (u, r, p) → lrDone r = false →
    (1 < lrPend r → ∃ ws, exec (.unitCompletion i) s = .next (recWrite u t id ws) ∧ lrPend ws = lrPend r - 1) ∧
    (lrPend r = 1 → ∃ ws, exec (.unitCompletion i) s = .next (lvlMaybe (recWrite u t id ws) t id) ∧ lrPend ws = 0)) ∧
  (∀ s t id u r p, recRead s t id = (u, r, p) → lrPend r = 0 → lrKind r ≠ 2 → lvlMaybe s t id = lvlComplete u t id) ∧
  (∀ s t id u r p v, recRead s t id = (u, r, p) → v = recWrite u t id (setD r 0 (val r 0 ||| 1#64 <<< 49)) →
    (lvlComplete s t id).mem = v.mem ∧
    (lrParent r ≠ noId → lrParent r < lvlSize v t → ⟨lvlAgent s t id, lvlAgent v t (lrParent r), 0, 0, 0,
      .childDone (lrParent r) (decide (lrFail r ≠ 0) || lrCxl r)⟩ ∈ (lvlComplete s t id).net) ∧
    (lrKind r = 0 → ∀ n, (n = (val r 2).toNat % 2 ^ 32 ∨ n = (val r 2).toNat / 2 ^ 32) → n ≠ noId → n < lvlSize v t →
      ⟨lvlAgent s t id, lvlAgent v t n, 0, 0, 0, .predDone n⟩ ∈ (lvlComplete s t id).net))

/-- R319 to R322: levels and phases. A bank answers a level wait whose record is DONE, and else holds up to 16 waiters and turns the rest away; a home
lowers a phase's PART; a cancel sets CXL and is broadcast, and each dispenser drops the units of the id; a wave with no message of the phase left
and no TOUCH bit set since the last completes the phase, and else the next wave starts 1,024 cycles later (R121). When a bank looks at its waiters, the
moment of a wave and the tower in which a message counts are the model's choices (log entries 26, 49 and 67). -/
def Obligations.LevelEvents : Prop :=
  (∀ i s m f id user asid t u r, arrives s i = some m → m.body = .levelWait f id user asid → t = agentTower m.dst →
    recRead (dropMsg s i) t id = (u, r, 0) → asidBad r user asid = false → (f = .phwait → lrKind r = 2) →
    (lrDone r = true → exec (.levelWaitRequest i) s = .next (sendMsg u (replyTo m (.syncReply (.value (wordLE 8 (val r 0))))))) ∧
    (lrDone r = false → bankWaiters (towerAt u t) u t (lvlPa u t id / 64) < 16 →
      exec (.levelWaitRequest i) s = .next (modTower u t fun w => { w with lvlw := w.lvlw ++ [⟨id, m⟩] })) ∧
    (lrDone r = false → 16 ≤ bankWaiters (towerAt u t) u t (lvlPa u t id / 64) →
      exec (.levelWaitRequest i) s = .next (sendMsg u (replyTo m .syncRetry)))) ∧
  (∀ i s m id user asid t u r, arrives s i = some m → m.body = .phaseClose id user asid → t = agentTower m.dst →
    recRead (dropMsg s i) t id = (u, r, 0) → asidBad r user asid = false → lrKind r = 2 → 1 < lrPart r → lrDone r = false →
    exec (.phaseCloseRequest i) s =
      .next (sendMsg (recWrite u t id (setD r 3 (setF (val r 3) 0 20 (lrPart r - 1)))) (replyTo m (.loadReply (.value (natLE 8 0)))))) ∧
  (∀ i s m id user asid t u r, arrives s i = some m → m.body = .cancelSet id user asid → t = agentTower m.dst →
    recRead (dropMsg s i) t id = (u, r, 0) → asidBad r user asid = false → (∃ core, m.src = .ni core) →
    ∃ v u2 r2 p2 w, exec (.levelCancelDrop i) s = .next v ∧ recRead u t id = (u2, r2, p2) ∧
      w = recWrite u2 t id (setD r2 0 (val r2 0 ||| 1#64 <<< 48)) ∧ v.mem = w.mem ∧
      (∀ c, (towerAt v c).tags = (towerAt w c).tags ∧ (towerAt v c).entries = (towerAt w c).entries) ∧ (∀ c, c < 1280 → ∃ n ∈ v.net, n.dst = .dispenser c ∧ n.body = .cancelDrop id) ∧
      (∀ c, c < 8 → ∃ n ∈ v.net, n.dst = .tower c ∧ n.body = .cancelDrop id)) ∧
  (∀ i s m id cl, arrives s i = some m → m.body = .cancelDrop id → m.dst = .dispenser cl →
    exec (.levelCancelDrop i) s = .next (sendMsg (cancelCluster (dropMsg s i) cl id) (replyTo m .cancelAck))) ∧
  (∀ i s m core, arrives s i = some m → m.body = .cancelAck → m.dst = .ni core →
    exec (.levelCancelDrop i) s = .next (cancelAcked (dropMsg s i) core m.tag m.who)) ∧
  (∀ id s w, (towerAt s (lvlHome s 0 id)).waves.find? (fun w => decide (w.id = id)) = some w → w.due ≤ s.time →
    ∃ u, exec (.phaseWave id) s = .next u ∧
      (((recRead s (lvlHome s 0 id) id).1.touch.getLsbD (lrPh (recRead s (lvlHome s 0 id) id).2.1) = true ∨
          ∃ t ∈ rangeFrom 0 8, phaseCount (recRead s (lvlHome s 0 id) id).1 t (lrPh (recRead s (lvlHome s 0 id) id).2.1) ≠ 0) →
        (∃ x ∈ (towerAt u (lvlHome s 0 id)).waves, x.id = id ∧ x.due = w.due + 1024) ∧
        ∀ x ∈ (towerAt u (lvlHome s 0 id)).waves, x.id = id → x.due = w.due + 1024) ∧
      ((recRead s (lvlHome s 0 id) id).1.touch.getLsbD (lrPh (recRead s (lvlHome s 0 id) id).2.1) = false →
        (∀ t ∈ rangeFrom 0 8, phaseCount (recRead s (lvlHome s 0 id) id).1 t (lrPh (recRead s (lvlHome s 0 id) id).2.1) = 0) →
        ∃ v, u = lvlComplete v (lvlHome s 0 id) id ∧ ∀ x ∈ (towerAt v (lvlHome s 0 id)).waves, x.id ≠ id))

/-- R323 to R325: the remap table and heat. `crmap` asks for a swap and parks; when both cores are quiet, two entries change places and the slot gets
the physical numbers that they held; at HOLD a dispenser stops starting units and below CLEAR it starts them again; at THROT the cluster's cycle counter
runs at half rate and 0x72 is raised; a non-pre-emptible region ends 2,000,000 ticks after its start. That CL_THERM takes the temperature of the event
row is read from the manual (log entry 40), and that a reading, a migration and a swap are events at a free moment is the model's choice (log entry
49). -/
def Obligations.RemapAndHeat : Prop :=
  (∀ d a b t s va vb y ws, Reads s [a, b] (some d) [va, vb] y → va.toNat % 64 ≤ 33 → va.toNat / 2 ^ 32 % 256 ≤ 159 → vb.toNat % 64 ≤ 33 →
    Answered y ws → exec (.crmap d a b t) s = completes s (wrote (popped s y) d a t (val ws 0))) ∧
  (∀ d a b t s va vb y, Reads s [a, b] (some d) [va, vb] y → va.toNat % 64 ≤ 33 → va.toNat / 2 ^ 32 % 256 ≤ 159 → vb.toNat % 64 ≤ 33 →
    y.trip = none → ∀ cl, cl = va.toNat / 2 ^ 40 % 8 * 160 + va.toNat / 2 ^ 32 % 256 → (clusterAt s cl).swap = none →
    ∃ u id, exec (.crmap d a b t) s = .next u ∧ u.mark = .parked ∧
      (clusterAt u cl).swap = some (va.toNat % 64, vb.toNat % 64, s.cur, id)) ∧
  (∀ cl s i j k id, (clusterAt s cl).swap = some (i, j, k, id) → i ≠ j →
    coreQuiet s (coreIn cl ((clusterAt s cl).phys i)) = true → coreQuiet s (coreIn cl ((clusterAt s cl).phys j)) = true →
    ∃ u, exec (.remapSwap cl) s = .next u ∧ (clusterAt u cl).phys i = (clusterAt s cl).phys j ∧
      (clusterAt u cl).phys j = (clusterAt s cl).phys i ∧ (clusterAt u cl).swap = none ∧
      (∀ tr, (slotAt s k).trip = some tr → tr.id = id → ∃ tr', (slotAt u k).trip = some tr' ∧ tr'.need = tr.need - 1 ∧
        tr'.vals = tr.vals ++ [nw ((clusterAt s cl).phys i * 2 ^ 8 + (clusterAt s cl).phys j)]) ∧
      (∀ n, n ≠ i → n ≠ j → (clusterAt u cl).phys n = (clusterAt s cl).phys n)) ∧
  (∀ cl temp s, temp < 65536 → ∃ u, exec (.thermalHold cl temp) s = .next u ∧ (clusterAt u cl).temp = temp ∧
    (thermAt s cl 8 ≤ temp → (clusterAt u cl).hold = true)) ∧
  (∀ cl temp s, temp < 65536 → ∃ u, exec (.thermalHoldClear cl temp) s = .next u ∧ (clusterAt u cl).temp = temp ∧
    (temp < thermAt s cl 0 → temp < thermAt s cl 8 → (clusterAt u cl).hold = false) ∧
    (thermAt s cl 0 ≤ temp → temp < thermAt s cl 8 → (clusterAt u cl).hold = (clusterAt s cl).hold)) ∧
  (∀ cl temp s, temp < 65536 → thermAt s cl 24 ≤ temp → (clusterAt s cl).thr = false →
    ∃ u, exec (.thermalThrottle cl temp) s = .next u ∧ (clusterAt u cl).thr = true ∧ clusterCycle u cl = clusterCycle s cl ∧
      (∀ n, clusterCycle { u with time := u.time + n } cl = clusterCycle s cl + n / 2) ∧
      ∀ p, p < 34 → (coreAt s (coreIn cl p)).evq.length < 16 →
        (coreAt u (coreIn cl p)).evq = (coreAt s (coreIn cl p)).evq ++ [(0x72, nw temp)]) ∧
  (∀ cl temp k s x, temp < 65536 → thermAt s cl 16 ≤ temp → (clusterAt s cl).migAt ≤ s.time → clusterOf (coreOf k) = cl →
    (slotAt s k).unit = some x → x.region = false → mayMove (setTemp s cl temp) k = true →
    ∀ d, coolSlot (setTemp s cl temp) cl (slotClass s k) (slotAt s k).asid = some d → d ≠ k →
    ∃ u, exec (.thermalMigrate cl temp k) s = .next u ∧ (slotAt u k).st = .waiting ∧ (slotAt u k).unit = none ∧ (slotAt u d).st = .ready ∧
      (clusterAt u cl).migAt = s.time + 16000) ∧
  (∀ k s x, (slotAt s k).unit = some x → x.region = true → x.start + 2000000 ≤ tickOf s →
    ∃ u, exec (.npRegionExpire k) s = .next u ∧ (slotAt u k).unit = some { x with region := false })

/-! Messages. -/

/-- R115, R117, R118 and R154: `msend` copies its payload from the own LM and hands an active message to the NI, `msend.d` compressed with a valid
dictionary slot when that is shorter; `nidict` and `niclr` set and clear a dictionary slot; `mend` ends a handler; `hop` completes at once at the
thread's own core, and else sends the thread away. That `msend` parks while the NI holds two messages is read from the manual (log entry 50); the
port of a destination node in another package is the model's choice (97). -/
def Obligations.MessageForms : Prop :=
  (∀ a b t ty s va vb y dst node bs off len, Reads s [a, b] none [va, vb] y → amDest s va = some (dst, node) →
    off = vb.toNat % 2 ^ 19 → len = vb.toNat / 2 ^ 20 % 2 ^ 9 → off % 8 = 0 → len % 8 = 0 → len ≤ 496 →
    off + len ≤ segLimit (y.segLo 1) (y.segHi 1) → (coreAt s (coreOf s.cur)).ni.length < 2 → lmBytesAt (popped s y) off len = .ok bs →
    exec (.msend a b t ty) s = completes s (took (niPost (popped s y) (coreOf s.cur)
      ⟨.ni (coreOf s.cur), dst, localPa s va.toNat, s.cur, y.phase, .activeMsg ty.toNat len off none bs none⟩) a t) ∧
    (∀ k zs, k = vb.toNat / 2 ^ 60 → (dictAt (coreAt s (coreOf s.cur)) k).v = true →
      compress (dictAt (coreAt s (coreOf s.cur)) k).words bs = some zs →
      exec (.msendD a b t ty) s = completes s (took (niPost (popped s y) (coreOf s.cur) ⟨.ni (coreOf s.cur), dst, localPa s va.toNat, s.cur,
        y.phase, .activeMsg ty.toNat len off (some (k, (dictAt (coreAt s (coreOf s.cur)) k).tag)) zs none⟩) a t)) ∧
    (∀ k, k = vb.toNat / 2 ^ 60 → ((dictAt (coreAt s (coreOf s.cur)) k).v = false ∨
        compress (dictAt (coreAt s (coreOf s.cur)) k).words bs = none) →
      exec (.msendD a b t ty) s = exec (.msend a b t ty) s)) ∧
  (∀ a b t ty s va vb y, Reads s [a, b] none [va, vb] y → amDest s va = none →
    exec (.msend a b t ty) s = traps s 0x10 va ∧ exec (.msendD a b t ty) s = traps s 0x10 va) ∧
  (∀ a b t s va vb y hd bs n, Reads s [a, b] none [va, vb] y → va.toNat ≤ 15 → vb.toNat % 8 = 0 →
    lmBytesAt (popped s y) vb.toNat 8 = .ok hd → n = leNat hd % 128 → n ≠ 0 → n ≤ 64 →
    vb.toNat + 8 + 8 * n ≤ segLimit (y.segLo 1) (y.segHi 1) → lmBytesAt (popped s y) (vb.toNat + 8) (8 * n) = .ok bs →
    exec (.nidict a b t) s = completes s (took (modCore (popped s y) (coreOf s.cur) fun c =>
      setDict c va.toNat ⟨true, crc32 bs % 65536, dwords n bs⟩) a t)) ∧
  (∀ a t s va y, Reads s [a] none [va] y →
    (va.toNat ≤ 15 → exec (.niclr a t) s = completes s (took (modCore (popped s y) (coreOf s.cur) fun c =>
      setDict c va.toNat { dictAt c va.toNat with v := false }) a t)) ∧
    (15 < va.toNat → exec (.niclr a t) s = traps s 0x62 va)) ∧
  (∀ s, (slotAt s s.cur).hnd = none → exec .mend s = traps s 0x3B 0#64) ∧
  (∀ s p, (slotAt s s.cur).hnd = some p →
    exec .mend s = leaves s (modSlot (modCore (touchPhase s (ringPhase (coreAt s (coreOf s.cur)) p)) (coreOf s.cur) fun c => { c with amHeld := c.amHeld.filter fun h => decide (h.1 ≠ p) }) s.cur
      fun x => { x with st := .waiting, traps := [], hnd := none })) ∧
  (∀ a t s va y la pa acc, Reads s [a] none [va] y → ptrAddr (popped s y) s.cur va 1 {} = .ok la pa acc → y.mode = .user →
    (lmCore s pa = some (coreOf s.cur) → exec (.hop a t) s = completes s (took (popped s y) a t)) ∧
    (lmCore s pa = none → exec (.hop a t) s = traps s 0x10 (nw la)) ∧
    (∀ c tag, lmCore s pa = some c → c ≠ coreOf s.cur → passReason (popped s y) s.cur = none → y.pend = 0#32 → repliesOut s s.cur = false →
      slotPosts s s.cur = false →
      barsHold (coreAt s (coreOf s.cur)) y.barS = false → y.barEHolds = false → freeTag (coreAt s (coreOf s.cur)) = some tag →
      ∃ u m, exec (.hop a t) s = .next u ∧ (coreAt u (coreOf s.cur)).ni = (coreAt s (coreOf s.cur)).ni ++ [m] ∧ m.dst = .ni c ∧
        (slotAt u s.cur).baton = some ⟨pa, y.pc + 4#64, 0, true, none⟩ ∧
        m.body = .baton (ctxBytes (took (popped s y) a t) s.cur (y.pc + 4#64) ++ unitBytes y.unit) ((y.creg 0x0D0).toNat / 2 ^ 32)))

/-- R103 to R108, R141, R143, R144, R148: requests at their homes. The oldest message of a pair may arrive; a home performs a load, a posted store,
an atomic or a full/empty form in one step and answers; a store that it cannot perform is refused whole, with the reason; a full/empty form whose
condition does not hold waits in the table of 16, and beyond them is turned away. That a home looks at level waiters after every write is read from
the manual (log entry 26); that an access without translation carries C = 0 is the model's choice (92). -/
def Obligations.RequestsAtHomes : Prop :=
  (∀ core s m ms, (coreAt s core).ni = m :: ms →
    exec (.niSend core) s = .next (sendMsg (modCore s core fun c => { c with ni := ms }) (retarget s core m))) ∧
  (∀ i s m pa n acc, arrives s i = some m → m.body = .loadReq pa n acc → (∀ p, m.dst ≠ .link p) → (∀ h, m.dst ≠ .host h) → mustFill s pa = false →
    (∀ u bs, homeRead (dropMsg s i) pa n acc = .ok u bs →
      exec (.loadRequest i) s = .next (sendMsg u (replyTo m (.loadReply (.value bs))))) ∧
    (∀ u c a, homeRead (dropMsg s i) pa n acc = .poison u c a →
      exec (.loadRequest i) s = .next (sendMsg u (replyTo m (.loadReply (.poison c a))))) ∧
    (∀ u e, homeRead (dropMsg s i) pa n acc = .deny u e →
      exec (.loadRequest i) s = .next (sendMsg u (replyTo m (.loadReply (denyReply m e pa acc)))))) ∧
  (∀ i s m pa n acc, arrives s i = some m → m.body = .loadReq pa n acc → (∀ p, m.dst ≠ .link p) → (∀ h, m.dst ≠ .host h) → mustFill s pa = true →
    exec (.loadRequest i) s = .next (startFill s pa acc)) ∧
  (∀ i s m pa data acc, arrives s i = some m → m.body = .postedStore pa data none acc → (∀ p, m.dst ≠ .link p) → (∀ h, m.dst ≠ .host h) →
    mustFill s pa = false →
    (∀ u bs, homeWrite (dropMsg s i) pa data acc (some (replyTo m .storeAck)) = .ok u bs → exec (.postedStore i) s = .next u) ∧
    (∀ u e, homeWrite (dropMsg s i) pa data acc (some (replyTo m .storeAck)) = .deny u e →
      exec (.postedStore i) s = .next (sendMsg u (replyTo m (.storeRefusal (e.seenBy m.src).reason))))) ∧
  (∀ i s m op pa n b cmp acc u bs, arrives s i = some m → m.body = .atomicReq op pa n b cmp acc → (∀ p, m.dst ≠ .link p) → mustFill s pa = false →
    homeRmw (dropMsg s i) op pa n b cmp acc (fun r => some (replyTo m (.atomicReply r))) = .ok u bs →
    exec (.atomicRequest i) s = .next u) ∧
  (∀ i s m f pa data acc cl lc off c o fwd, arrives s i = some m → m.body = .syncReq f pa data acc → (∀ p, m.dst ≠ .link p) →
    placeOf s pa = .lm cl lc off → lmAt s cl lc off = .here c o fwd →
    (∀ u r, syncPerform (dropMsg s i) c o f data (m.src, m.who) = some (u, r) → syncWrites f = false →
      exec (.syncRequest i) s = .next (service (sendMsg u (replyTo m (.syncReply r))) c o)) ∧
    (∀ u r, syncPerform (dropMsg s i) c o f data (m.src, m.who) = some (u, r) → syncWrites f = true →
      exec (.syncRequest i) s = .next (service (dirWrite u c o (some (replyTo m (.syncReply r)))) c o)) ∧
    (syncPerform (dropMsg s i) c o f data (m.src, m.who) = none → (coreAt s c).waiters.length < 16 →
      exec (.syncRequest i) s = .next (service (modCore (dropMsg s i) c fun x => { x with waiters := x.waiters ++ [⟨o, some m⟩] }) c o)) ∧
    (syncPerform (dropMsg s i) c o f data (m.src, m.who) = none → 16 ≤ (coreAt s c).waiters.length →
      ∃ u, exec (.syncRequest i) s = .next u ∧ u.net = (dropMsg s i).net ++ [replyTo m .syncRetry] ∧ u.mem = s.mem))

/-- R106 to R109, R138, R145: answers at the requester. A value or poison, a mark 0x1A as 0x19, reaches the register of the request, which is full and no longer pending, and the tag is free;
an acknowledgement frees its journal entry; a refusal holds it and raises its cause; a retry arms the backoff and, at LIMIT attempts, poisons the
destination with 0x30; after BACKOFF the request leaves again. A withdrawal takes its request out of the waiter table that holds it, of the core
that it names or of a donor of the cluster (R140, R341). The address that 0x30 reports for a level wait is read from the manual (log entry 27). -/
def Obligations.AnswersAtTheRequester : Prop :=
  (∀ i s m core r v, arrives s i = some m → m.dst = .ni core → reqAt (coreAt s core) m.tag = some r → r.reg ≠ 0 → r.reg < 32 →
    ((m.body = .loadReply v ∧ r.kind = .load) ∨ (m.body = .atomicReply v ∧ r.kind = .atomic) ∨ (m.body = .syncReply v ∧ r.kind = .sync)) →
    ∃ u, (m.body = .loadReply v → exec (.loadReply i) s = .next u) ∧ (m.body = .atomicReply v → exec (.atomicReply i) s = .next u) ∧
      (m.body = .syncReply v → exec (.syncReply i) s = .next u) ∧
      reqAt (coreAt u core) m.tag = none ∧ bitOf (slotAt u r.slot).full r.reg = true ∧ bitOf (slotAt u r.slot).pend r.reg = false ∧
      (∀ bs, v = .value bs → (slotAt u r.slot).reg r.reg = extend r.size r.signed bs ∧ bitOf (slotAt u r.slot).pois r.reg = false) ∧
      (∀ c a, replyAtCore v = .poison c a → bitOf (slotAt u r.slot).pois r.reg = true ∧
        (slotAt u r.slot).reg r.reg = BitVec.ofNat 64 (c % 128 * 2 ^ 57 + a % 2 ^ 56))) ∧
  (∀ i s m core, arrives s i = some m → m.body = .storeAck → m.dst = .ni core → (∀ j, jAt (coreAt s core) m.tag = some j → j.refused = false) →
    ∃ u, exec (.storeAck i) s = .next u ∧ jAt (coreAt u core) m.tag = none ∧ (∀ e, e ≠ m.tag → jAt (coreAt u core) e = jAt (coreAt s core) e)) ∧
  (∀ i s m core reason j, arrives s i = some m → m.body = .storeRefusal reason → m.dst = .ni core → jAt (coreAt s core) m.tag = some j →
    (coreAt s core).evq.length < 16 →
    ∃ u, exec (.storeRefusal i) s = .next u ∧ jAt (coreAt u core) m.tag = some { j with refused := true, reason := reason } ∧
      (coreAt u core).evq = (coreAt s core).evq ++ [(reasonCause reason, nw (m.tag + m.who % 16 * 2 ^ 8 + reason * 2 ^ 16))]) ∧
  (∀ i s m core r, arrives s i = some m → m.body = .syncRetry → m.dst = .ni core → reqAt (coreAt s core) m.tag = some r → r.withdrawn = false →
    (((coreAt s core).creg 0x102).toNat % 2 ^ 8 ≤ r.tries →
      exec (.syncRetry i) s = .next (deliver (dropMsg s i) core m.tag (.poison 0x30 (retryPa s core r)))) ∧
    (r.tries < ((coreAt s core).creg 0x102).toNat % 2 ^ 8 → exec (.syncRetry i) s = .next (modCore (dropMsg s i) core fun c =>
      setReq c m.tag (some { r with due := some (s.time + ((coreAt s core).creg 0x102).toNat / 2 ^ 16 % 2 ^ 16) })))) ∧
  (∀ core tag s r n, reqAt (coreAt s core) tag = some r → r.due = some n → n ≤ s.time →
    exec (.feRetryResend core tag) s =
      .next (niPost (modCore s core fun c => setReq c tag (some { r with due := none, tries := r.tries + 1 })) core r.msg)) ∧
  (∀ i s m core, arrives s i = some m → m.body = .withdrawn → m.dst = .ni core →
    exec (.withdrawnAnswer i) s = .next (withdrawReq (dropMsg s i) core m.tag)) ∧
  (∀ i s m a b core w c n, arrives s i = some m → m.body = .withdraw a b → m.dst = .ni core → n < 34 → c = coreIn (clusterOf core) n →
    (coreAt s c).waiters.find? (fun w => w.req.any fun q => decide (q.src = m.src) && decide (q.tag = m.tag) && decide (q.who = m.who)) = some w →
    (∀ p, p < n → ∀ x ∈ (coreAt s (coreIn (clusterOf core) p)).waiters, ∀ q, x.req = some q →
      ¬ (q.src = m.src ∧ q.tag = m.tag ∧ q.who = m.who)) →
    ∃ u, exec (.withdrawal i) s = .next u ∧ u.net = (dropMsg s i).net ++ [replyTo m .withdrawn] ∧
      (coreAt u c).waiters = (coreAt s c).waiters.erase w)

/-- R110 to R112: read-only lines. An LM home answers a fill with the line and counts the requester among the sharers of an entry, up to three and
then in the overflow queue; the reply installs the line unless it is uncached or was invalidated meanwhile (R281); an invalidate drops it and is
acknowledged; the last acknowledgement frees the entry and lets the held answers go. That a ninth overflow record waits (log entry 53), that a fill
waits while invalidates of a write are out (98), what a release without a held write does (99) and which entry is evicted (100) are the model's
choices. -/
def Obligations.ReadOnlyLines : Prop :=
  (∀ i s m who pa acc cl lc off c o fwd bs, arrives s i = some m → m.body = .fillReq pa acc → m.src = .ni who → placeOf s pa = .lm cl lc off →
    lmAt s cl lc off = .here c o fwd → lmRead (dropMsg s i) c (64 * (o / 64)) 64 = .ok (dropMsg s i) bs →
    (dirAt (coreAt s c) (o / 64) = none → dirUsed (coreAt s c) < 512 →
      exec (.roFillRequest i) s = .next (sendMsg (modCore (dropMsg s i) c fun x =>
        setDir x (o / 64) (some ⟨[who], false, [], [], false, false⟩)) (replyTo m (.fillReply (pa / 64) (.value bs) true)))) ∧
    (∀ e, dirAt (coreAt s c) (o / 64) = some e → e.needRelease = false → e.acks = [] → who ∉ e.sharers →
      (e.sharers.length < 3 → exec (.roFillRequest i) s = .next (sendMsg (modCore (dropMsg s i) c fun x =>
        setDir x (o / 64) (some { e with sharers := e.sharers ++ [who] })) (replyTo m (.fillReply (pa / 64) (.value bs) true)))) ∧
      (3 ≤ e.sharers.length → (coreAt s c).ovfQ.length < 8 → ∃ u, exec (.roFillRequest i) s = .next u ∧
        dirAt (coreAt u c) (o / 64) = some { e with ovf := true } ∧ (coreAt u c).ovfQ = (coreAt s c).ovfQ ++ [⟨false, who, o / 64⟩]))) ∧
  (∀ i s m core line v cache bs, arrives s i = some m → m.body = .fillReply line v cache → m.dst = .ni core → v = .value bs →
    exec (.roFillReply i) s = .next (if cache && !((reqAt (coreAt s core) m.tag).map Req.withdrawn).getD false then modCore (deliver (dropMsg s i) core m.tag v) core fun c => rocInstall c line bs
      else deliver (dropMsg s i) core m.tag v)) ∧
  (∀ i s m home core line, arrives s i = some m → m.body = .dirInvalidate line → m.src = .ni home → m.dst = .ni core →
    ∃ u, exec (.dirInvalidate i) s = .next u ∧ (∀ e ∈ (coreAt u core).roc, heldAt s home line e.1 = false) ∧
      u.net = (dropMsg s i).net ++ [replyTo m (.invalidateAck line)]) ∧
  (∀ i s m who core line e, arrives s i = some m → m.body = .invalidateAck line → m.src = .ni who → m.dst = .ni core →
    dirAt (coreAt s core) line = some e → e.acks = [who] → e.needRelease = false →
    ∃ u, exec (.invalidateAck i) s = .next u ∧ dirAt (coreAt u core) line = none ∧ ∀ n ∈ e.held, n ∈ u.net)

/-- R114 to R117, R120 and R152 to R154: active messages and batons at their destination. A message with a valid vector goes into the lowest free ring slot and the
queue of its handlers; one without a free slot is refused with 0x39, and a compressed one whose slot is not valid, has another tag or does not decode
with 0x62; a handler starts in user mode with the seg1 offset of its payload, the length, the source and the type in g3 to g6, each full; a refusal
raises its cause. A baton takes a waiting slot of its class, waits in the queue of eight, or is refused; the accepted sender waits for work, and a
refused one sends again after BACKOFF until LIMIT, where it traps 0x20. That a vector entry which cannot be read counts as V = 0 is read from the
manual (log entry 50); the node numbers of agents that the manual does not list are the model's choice (log entry 84). -/
def Obligations.ActiveMessagesAndBatons : Prop :=
  (∀ i s m ty plen off bs fr core p v, arrives s i = some m → m.body = .activeMsg ty plen off none bs fr → m.dst = .ni core → (coreAt s core).divert = false →
    coreRetired s core = false →
    (freeRing (coreAt s core) = some p → v = vectorEntry (dropMsg s i) core ty → v.getLsbD 63 = true →
      ∃ u, exec (.activeMessage i) s = .next u ∧ (coreAt u core).amHeld = (coreAt s core).amHeld ++ [(p, m.ph)] ∧
        (coreAt u core).amQ = (coreAt s core).amQ ++
          [⟨p, ty, bitF v 58 2, bitF v 56 2, v &&& 0x3FFFFFFFFFC#64, plen, ((fr.map Prod.fst).getD (nodeOf s m.src)) % 2 ^ 25, m.ph⟩]) ∧
    (freeRing (coreAt s core) = some p → v = vectorEntry (dropMsg s i) core ty → v.getLsbD 63 = false →
      exec (.activeMessage i) s = .next (raiseEvent (dropMsg s i) core 0x38
        (nw (((fr.map Prod.fst).getD (nodeOf s m.src)) % 2 ^ 25 * 2 ^ 8 + ty)))) ∧
    (freeRing (coreAt s core) = none → ∃ u, exec (.activeMessage i) s = .next u ∧
      u.net = (dropMsg s i).net ++ [⟨.ni core, m.src, 0, m.who, m.ph, .amRefusal 0x39 ty plen off (nodeOf s (.ni core))⟩])) ∧
  (∀ i s m ty plen off k tag bs fr core e, arrives s i = some m → m.body = .activeMsg ty plen off (some (k, tag)) bs fr → m.dst = .ni core →
    (coreAt s core).divert = false → e = dictAt (coreAt s core) k →
    ((e.v = false ∨ e.tag ≠ tag ∨ decompress e.words plen bs = none) → exec (.activeMessage i) s = .next (sendMsg (dropMsg s i)
      ⟨.ni core, m.src, 0, m.who, m.ph, .amRefusal 0x62 ty plen off (nodeOf s (.ni core))⟩)) ∧
    (∀ p v plain, e.v = true → e.tag = tag → decompress e.words plen bs = some plain → coreRetired s core = false →
      freeRing (coreAt s core) = some p → v = vectorEntry (dropMsg s i) core ty → v.getLsbD 63 = true →
      ∃ u, exec (.activeMessage i) s = .next u ∧ (coreAt u core).amHeld = (coreAt s core).amHeld ++ [(p, m.ph)])) ∧
  (∀ i s m cause ty plen off dst core, arrives s i = some m → m.body = .amRefusal cause ty plen off dst → m.dst = .ni core →
    exec (.amRefusal i) s = .next (raiseEvent (dropMsg s i) core cause (nw (dst * 2 ^ 36 + off * 2 ^ 17 + plen * 2 ^ 8 + ty)))) ∧
  (∀ core s q k, nextHandler s core = some (q, k) → ∃ u, exec (.amHandlerStart core) s = .next u ∧ (slotAt u k).pc = q.pc ∧
    (slotAt u k).mode = .user ∧ (slotAt u k).st = .ready ∧ (slotAt u k).hnd = some q.slot ∧
    (slotAt u k).reg 3 = nw (((coreAt s core).creg 0x160).toNat / 2 ^ 9 % 2 ^ 10 * 512 + 512 * q.slot + 16) ∧ (slotAt u k).reg 4 = nw q.plen ∧
    (slotAt u k).reg 5 = nw q.src ∧ (slotAt u k).reg 6 = nw q.type ∧ (∀ r, 3 ≤ r → r ≤ 6 → bitOf (slotAt u k).full r = true) ∧
    (∀ r, r < 32 → (r < 3 ∨ 6 < r) → (slotAt u k).reg r = (slotAt s k).reg r) ∧ (coreAt u core).amQ = (coreAt s core).amQ.erase q) ∧
  (∀ i s m ctx hops core, arrives s i = some m → m.body = .baton ctx hops → m.dst = .ni core → (coreAt s core).divert = false →
    (∀ k, ((coreAt s core).hopQ.any fun b => decide (b.cls = ctxClass ctx)) = false →
      waitingSlot (dropMsg s i) core (ctxClass ctx) (some (ctxAsid ctx)) = some k →
      exec (.batonPass i) s = .next (sendMsg (tellMoved (installCtx (dropMsg s i) k ctx hops) k) (replyTo m (.batonAnswer true)))) ∧
    ((((coreAt s core).hopQ.any fun b => decide (b.cls = ctxClass ctx)) = true ∨
        waitingSlot (dropMsg s i) core (ctxClass ctx) (some (ctxAsid ctx)) = none) → (coreAt s core).hopQ.length < 8 →
      exec (.batonPass i) s = .next (sendMsg (modCore (dropMsg s i) core fun c => { c with hopQ := c.hopQ ++ [⟨ctx, hops, ctxClass ctx⟩] })
        (replyTo m (.batonAnswer true)))) ∧
    ((((coreAt s core).hopQ.any fun b => decide (b.cls = ctxClass ctx)) = true ∨
        waitingSlot (dropMsg s i) core (ctxClass ctx) (some (ctxAsid ctx)) = none) → 8 ≤ (coreAt s core).hopQ.length →
      ∃ u, exec (.batonPass i) s = .next u ∧ u.net = (dropMsg s i).net ++ [replyTo m (.batonAnswer false)])) ∧
  (∀ core s b k, (coreAt s core).hopQ.findSome? (fun b => (waitingSlot s core b.cls (some (ctxAsid b.ctx))).map fun k => (b, k)) = some (b, k) →
    exec (.batonInstall core) s =
      .next (tellMoved (installCtx (modCore s core fun c => { c with hopQ := c.hopQ.erase b }) k b.ctx b.hops) k)) ∧
  (∀ i s m core ok b, arrives s i = some m → m.body = .batonAnswer ok → m.dst = .ni core → (slotAt s m.who).baton = some b →
    (ok = true → ∃ u, exec (.batonAnswer i) s = .next u ∧ (slotAt u m.who).st = .waiting ∧ (slotAt u m.who).baton = none ∧
      (slotAt u m.who).unit = none ∧ reqAt (coreAt u core) m.tag = none) ∧
    (ok = false → b.tries + 1 < ((coreAt s core).creg 0x105).toNat % 2 ^ 8 → ∃ u, exec (.batonAnswer i) s = .next u ∧
      (slotAt u m.who).baton = some { b with tries := b.tries + 1, sent := false, due := some (s.time + ((coreAt s core).creg 0x105).toNat / 2 ^ 16 % 2 ^ 16) }) ∧
    (ok = false → ((coreAt s core).creg 0x105).toNat % 2 ^ 8 ≤ b.tries + 1 → (slotAt s m.who).intrap = false → ∃ u,
      exec (.batonAnswer i) s = .next u ∧ (slotAt u m.who).creg 0x081 = 0x20#64 ∧ (slotAt u m.who).creg 0x082 = nw b.pa ∧
      ((slotAt u m.who).creg 0x0D0).toNat % 256 = 1 ∧ (slotAt u m.who).baton = none)) ∧
  (∀ k s b n t r, (slotAt s k).baton = some b → b.due = some n → n ≤ s.time →
    (slotReqs (coreAt s (coreOf k)) k).find? (fun r => match r.2.msg.body with | .baton _ _ => true | _ => false) = some (t, r) →
    exec (.batonResend k) s = .next (modSlot (niPost s (coreOf k) r.msg) k fun x => { x with baton := some { b with sent := true, due := none } }))

/-- R102, R363, R373 and R374: checks of the network and of the queues. A replayed flit is counted; a hop that fails raises 0x7A at each cluster
that it joins; a parity error in a send buffer discards the message and raises 0x63; one in a queued engine command discards the command, one in a
FIFO poisons its first element, and one in a journal entry holds the entry refused with reason 9, each raising 0x79 with the unit and the slot.
Which edge of a tower faces which neighbour is the model's choice (log entry 96). So are the KIND and node numbers that the manual does not list
(log entries 83 and 84). -/
def Obligations.NetworkChecks : Prop :=
  (∀ tower n s, ∃ u, exec (.netHopReplay tower n) s = .next u ∧
    ((towerAt u tower).creg 0x388).toNat % 2 ^ 32 = (((towerAt s tower).creg 0x388).toNat + n) % 2 ^ 32) ∧
  (∀ cl dir s, (cl, dir) ∉ s.modul.hops → hopPeers cl dir ≠ [] →
    ∃ u, exec (.netHopFail cl dir) s = .next u ∧ (cl, dir) ∈ u.modul.hops ∧
      ∀ c, c = cl ∨ c ∈ hopPeers cl dir → (coreAt s (lcoreKey s c 0)).evq.length < 16 →
        (0x7A, nw (towerOf cl + clusterNo cl * 2 ^ 4 + dir % 8 * 2 ^ 12)) ∈ (coreAt u (lcoreKey s c 0)).evq) ∧
  (∀ core i s m, (coreAt s core).ni[i]? = some m → (coreAt s core).evq.length < 16 →
    ∃ u, exec (.niBufferParity core i) s = .next u ∧ (coreAt u core).ni = dropAt (coreAt s core).ni i ∧
      (coreAt u core).evq = (coreAt s core).evq ++ [(0x63, nw (kindOf m.body % 32 + nodeOf s m.src * 2 ^ 5))] ∧
      ∀ b, parityAnswer s m = some b → replyTo m b ∈ u.net) ∧
  (∀ core i s x, (coreAt s core).xq[i]? = some x → x.run = none → (coreAt s core).evq.length < 16 →
    ∃ u, exec (.queueParity core 0 i) s = .next u ∧ (coreAt u core).xq = dropAt (coreAt s core).xq i ∧
      (0x79, nw (x.iss.slot % 16 * 2 ^ 8)) ∈ (coreAt u core).evq) ∧
  (∀ core i s x, (coreAt s core).vq[i]? = some x → x.run = none → (coreAt s core).evq.length < 16 →
    ∃ u, exec (.queueParity core 1 i) s = .next u ∧ (coreAt u core).vq = dropAt (coreAt s core).vq i ∧
      (0x79, nw (1 + x.iss.slot % 16 * 2 ^ 8)) ∈ (coreAt u core).evq) ∧
  (∀ core i s k t e es, k = slotOf core (i / 4 % 16) → t = (slotAt s k).stream (i % 4) → t.fifo = e :: es → (coreAt s core).evq.length < 16 →
    ∃ u, exec (.queueParity core 2 i) s = .next u ∧
      (slotAt u k).stream (i % 4) = { t with fifo := ⟨BitVec.ofNat 64 (0x79 * 2 ^ 57), true⟩ :: es } ∧
      (0x79, nw (2 + k % 16 * 2 ^ 8)) ∈ (coreAt u core).evq) ∧
  (∀ core i s j, jAt (coreAt s core) i = some j → j.refused = false → (coreAt s core).evq.length < 16 →
    ∃ u, exec (.queueParity core 3 i) s = .next u ∧ jAt (coreAt u core) i = some { j with refused := true, reason := 9 } ∧
      (0x79, nw (3 + j.slot % 16 * 2 ^ 8)) ∈ (coreAt u core).evq)

/-! Engines. -/

/-- R162 to R171: the forms of the transfer engine. `xset` writes a register of the engine; `xcopy`, `xgather`, `xscatter` and `xfill` check their
command in the order of R166 and queue it, with place for two; a mode of 3 is refused with 0x40 and the register's number, a missing codebook with
0x44; `xlrec` binds a layout handle and `xlflush` drops its copy, once no queued command names it. R161, R163, R165, R167: a transfer command runs.
A copy's start sends the read of its first element; the bytes of an element in mode 0 are those read, and a fill's those of FILLV repeated; after
the last element the command leaves with its stamp; a fault leaves an error stamp and, while the thread lives, the element's number and address.
That an engine has one access out at a time is the model's choice (log entry 23). -/
def Obligations.TransferEngine : Prop :=
  ((∀ a t k s va y, Reads s [a] none [va] y → exec (.xset a t k) s = completes s (modSlot (popped s y) s.cur fun x =>
    (x.takeIf t a.toNat).setCreg (0x40 + k.toNat) (regMerge (0x40 + k.toNat) (x.creg (0x40 + k.toNat)) va))) ∧
  (∀ a b t, IssuesXfe 0 [a, b] a t (.xcopy a b t)) ∧
  (∀ a b t, IssuesXfe 1 [a, b] a t (.xgather a b t)) ∧
  (∀ a b t, IssuesXfe 2 [a, b] a t (.xscatter a b t)) ∧
  (∀ a t, IssuesXfe 3 [a] a t (.xfill a t)) ∧
  (∀ s x, x.mode = 3 → xfeCheck s x = some (0x40, 3#64)) ∧
  (∀ s x, x.badField = none → x.mode = 1 → x.cb = 0#64 → xfeCheck s x = some (0x44, 0#64)) ∧
  (∀ a b t s va vb y, Reads s [a, b] none [va, vb] y → namesHandle (coreAt s (coreOf s.cur)) (vb.toNat % 16) = false →
    ptrRows (issuerOf (popped s y) s.cur) [flatUse va 192 needRD 64] = none →
    exec (.xlrec a b t) s = completes s (took (modCore (popped s y) (coreOf s.cur) fun c => setRec c (vb.toNat % 16)
      ⟨true, issuerOf (popped s y) s.cur, (issuerOf (popped s y) s.cur).at va, none⟩) a t)) ∧
  (∀ a t s va y, Reads s [a] none [va] y → namesHandle (coreAt s (coreOf s.cur)) (va.toNat % 16) = false →
    exec (.xlflush a t) s = completes s (took (modCore (popped s y) (coreOf s.cur) fun c =>
      setRec c (va.toNat % 16) { recAt c (va.toNat % 16) with copy := none }) a t)) ∧
  (∀ a b t s va vb y, Reads s [a, b] none [va, vb] y → namesHandle (coreAt s (coreOf s.cur)) (vb.toNat % 16) = true →
    exec (.xlrec a b t) s = waits s y) ∧
  (∀ a t s va y, Reads s [a] none [va] y → namesHandle (coreAt s (coreOf s.cur)) (va.toNat % 16) = true → exec (.xlflush a t) s = waits s y)) ∧
  ((∀ core s x u, (coreAt s core).xq.head? = some x → x.run = none → x.io = EngIo.reset → barsHold (coreAt s core) x.iss.bars = false →
    u = srcbSet s x 0 →
    (∀ r n log, xfeInit (coreAt u core) x [] = .ok ⟨r, n, []⟩ log →
      exec (.xfeCommandStart core) s = .next (xfeGo (setXIo (srcbSet u x n) core EngIo.reset) core x r)) ∧
    (∀ la n s1 pa acc, xfeInit (coreAt u core) x [] = .need (.read [(la, n)]) →
      engPhysical u (.xfe core) (coreOf x.iss.slot) x.iss.asid la needR = .ok s1 pa acc →
      exec (.xfeCommandStart core) s = .next (setXIo (sendMsg s1 ⟨.xfe core, homeAgent s1 (coreOf x.iss.slot) pa, 0, x.iss.slot,
        (slotAt s1 x.iss.slot).phase, .engRead pa n [] ⟨.xfe core, x.id, 0, 1, 1⟩ acc []⟩) core ⟨some (la, pa), [], false⟩))) ∧
  (∀ core s x r la n rest s1 pa acc, x.form = 0 → x.mode = 0 → x.srec = false → r.ended = false → r.out = false → r.reads = [] → r.writes = [] →
    r.stop = none → r.elem < r.total → x.sideLa (x.srcPlace r r.elem) x.es needRD 1 = .ok la → lineCuts 3 la x.es = (la, n) :: rest →
    engPhysical s (.xfe core) (coreOf x.iss.slot) x.iss.asid la needR = .ok s1 pa acc →
    xfeGo s core x r = setXRun (sendMsg s1 ⟨.xfe core, homeAgent s1 (coreOf x.iss.slot) pa, 0, x.iss.slot, (slotAt s1 x.iss.slot).phase,
      .engRead pa n [] ⟨.xfe core, x.id, r.elem, 1, 1⟩ acc []⟩) core { r with reads := (la, n) :: rest, got := [], out := true }) ∧
  (∀ (x : XCmd) (r : EngRun) e, x.form ≠ 3 → x.mode = 0 → x.data r e = r.got) ∧
  (∀ (x : XCmd) r e, x.form = 3 → x.data r e = (rangeFrom 0 x.ed).map fun i => BitVec.ofNat 8 (x.fillv.toNat / 2 ^ (8 * (i % 8)))) ∧
  (∀ core s x r la s1 pa acc, (coreAt s core).xq.head? = some x → x.run = some r → r.ended = true → r.fault = none → x.io = EngIo.reset →
    la = x.iss.at x.stamp → la % 8 = 0 → x.wire = false → engPhysical s (.xfe core) (coreOf x.iss.slot) x.iss.asid la needW = .ok s1 pa acc →
    exec (.xfeCommandEnd core) s = .next (setXIo (sendMsg s1 ⟨.xfe core, homeAgent s1 (coreOf x.iss.slot) pa, 0, x.iss.slot,
      (slotAt s1 x.iss.slot).phase, .engWrite pa (wordLE 8 (stampWord 0 x.seq)) ⟨.xfe core, x.id, 0, 1, 1⟩ acc none []⟩) core
        ⟨some (la, pa), [], true⟩)) ∧
  (∀ core s x r la pa, (coreAt s core).xq.head? = some x → x.run = some r → x.io = ⟨some (la, pa), [], true⟩ → la = x.iss.at x.stamp →
    la % 8 = 0 →
    xfeWriteDone s core x.id 1 none = xfeLeave (setXIo s core ⟨none, [.done 1], true⟩) core x ∧
    ∀ k, xfeWriteDone s core x.id 0 (some k) = xfeLeave (raiseEvent (setXIo s core ⟨none, [.fault k la pa], true⟩) core 0x40 (nw pa)) core x) ∧
  (∀ core s x, x.stv = false →
    xfeLeave s core x = endCmd (modCore s core fun c => { c with xq := c.xq.drop 1 }) x.iss.slot x.id) ∧
  (∀ core s x r f, (coreAt s core).xq.head? = some x → x.run = some r → r.fault = some f → x.io = EngIo.reset →
    (x.iss.lives s = true → exec (.xfeFault core) s =
      .next (xfeClose (modSlot s x.iss.slot fun y => (y.setCreg 0x4A (nw f.elem)).setCreg 0x4B (nw f.la)) core x r)) ∧
    (x.iss.lives s = false → exec (.xfeFault core) s = .next (xfeClose s core x r))))

/-- R101, R111, R119, R211, R212, R267, R276: accesses of the engines on the network. A home performs one piece of a read or a write at a time, which is an
aligned 8-byte word, one element or one byte, and all pieces of a read that stands for one element at one instant; it answers after the last, with
the bytes or a reason, or with an acknowledgement that the directory may hold. Of a write of which its home refuses a piece, nothing more is
performed, a compressed write with another tag is answered 0x62, and the answers reach the command that waits for them. That an access covers as
many pieces as it does, and that a write is judged whole, are the model's choices (log entries 23 and 30). -/
def Obligations.EngineMessages : Prop :=
  (∀ i s m pa n got ref acc more k, arrives s i = some m → m.body = .engRead pa n got ref acc more → (∀ p, m.dst ≠ .link p) →
    (∀ h, m.dst ≠ .host h) → k = nextPiece pa n ref.unit →
    ((∀ p ∈ (pa, n, acc) :: more, mustFill s p.1 = false) →
      (ref.unit ≠ 0 →
        (∀ u bs, homeReadRaw s pa k acc = .ok u bs →
          (n ≤ k → more = [] →
            exec (.engineReadRequest i) s = .next (sendMsg (dropMsg u i) (replyTo m (.engReadReply ref (.value (got ++ bs)))))) ∧
          (n ≤ k → ∀ p rest, more = p :: rest → exec (.engineReadRequest i) s = .next { u with net := (u.net.set i
            { m with body := .engRead p.1 p.2.1 (got ++ bs) ref p.2.2 rest }) }) ∧
          (k < n → exec (.engineReadRequest i) s = .next { u with net := (u.net.set i
            { m with body := .engRead (pa + k) (n - k) (got ++ bs) ref acc more }) })) ∧
        (∀ u c a, homeReadRaw s pa k acc = .poison u c a → exec (.engineReadRequest i) s =
          .next (sendMsg (dropMsg u i) (replyTo m (.engReadReply { ref with part := ref.part - (more.length + 1) } (.poison c a))))) ∧
        (∀ u e, homeReadRaw s pa k acc = .deny u e → exec (.engineReadRequest i) s = .next (sendMsg (dropMsg u i)
          (replyTo m (.engReadReply { ref with part := ref.part - (more.length + 1) } (.poison (e.seenBy m.src).cause pa)))))) ∧
      (ref.unit = 0 → ∀ u bs, readAll 0 s ((pa, n, acc) :: more) [] = .ok (u, bs) →
        exec (.engineReadRequest i) s = .next (sendMsg (dropMsg u i) (replyTo m (.engReadReply ref (.value bs)))))) ∧
    (∀ p, ((pa, n, acc) :: more).find? (fun p => mustFill s p.1) = some p → exec (.engineReadRequest i) s = .next (startFill s p.1 p.2.2))) ∧
  (∀ pa n u, nextPiece pa n u = if pa % 8 = 0 ∧ 8 ≤ n then 8 else if 0 < min u n ∧ pa % min u n = 0 then min u n else 1) ∧
  (∀ i s m pa data ref acc dict more k, arrives s i = some m → m.body = .engWrite pa data ref acc dict more → data ≠ [] →
    (∀ p, m.dst ≠ .link p) → (∀ h, m.dst ≠ .host h) → (∀ p ∈ ⟨pa, data, acc, dict⟩ :: more, mustFill s p.pa = false) →
    k = nextPut s pa data.length ref.unit →
    (putRefused s m.src 0 s (⟨pa, data, acc, dict⟩ :: more) = none →
      (data.length ≤ k → more = [] → ∀ u bs, homeWrite (dropMsg s i) pa data acc (some (replyTo m (.engWriteAck ref none))) = .ok u bs →
        exec (.engineWrite i) s = .next u) ∧
      (k < data.length ∨ more ≠ [] → ∀ u bs, homeWrite s pa (data.take k) acc none = .ok u bs →
        exec (.engineWrite i) s = .next { u with net := (u.net.set i
          { m with body := .engWrite (pa + k) (data.drop k) ref acc none (more.map fun p => { p with dict := none }) }) })) ∧
    (∀ j u c, putRefused s m.src 0 s (⟨pa, data, acc, dict⟩ :: more) = some (j, u, c) → exec (.engineWrite i) s =
      .next (sendMsg (dropMsg u i) (replyTo m (.engWriteAck { ref with part := ref.part - (more.length + 1) + j } (some c))))) ∧
    (wireOk s pa dict = false → putRefused s m.src 0 s (⟨pa, data, acc, dict⟩ :: more) = some (0, s, 0x62))) ∧
  (∀ i s m pa ref acc dict p more, arrives s i = some m → m.body = .engWrite pa [] ref acc dict (p :: more) → (∀ q, m.dst ≠ .link q) →
    (∀ h, m.dst ≠ .host h) → exec (.engineWrite i) s = .next (if lineWaits s (pa - 1) then s else
      { s with net := s.net.set i { m with body := .engWrite p.pa p.data ref p.acc none more } })) ∧
  (∀ i s m ref v core, arrives s i = some m → m.body = .engReadReply ref v → ref.eng = .xfe core →
    exec (.engineReadReply i) s = .next (xfeReadDone (dropMsg s i) core ref.cmd v)) ∧
  (∀ i s m ref v core, arrives s i = some m → m.body = .engReadReply ref v → ref.eng = .ve core →
    exec (.engineReadReply i) s = .next (veReadDone (dropMsg s i) core ref.cmd ref.part v)) ∧
  (∀ i s m ref err core, arrives s i = some m → m.body = .engWriteAck ref err → ref.eng = .xfe core →
    exec (.engineWrite i) s = .next (xfeWriteDone (dropMsg s i) core ref.cmd ref.part err)) ∧
  (∀ i s m ref err core, arrives s i = some m → m.body = .engWriteAck ref err → ref.eng = .ve core →
    exec (.engineWrite i) s = .next (veWriteDone (dropMsg s i) core ref.cmd ref.part err))

/-- R172 to R176, R160, R169: streams, tiles, the relay and stamps. `strm` enters stream mode with a descriptor that R173 accepts and `strmoff`
leaves it; the stream engine fetches and writes elements in order; a tile form works at its cluster's CSP on an entry in the state that it needs,
and traps 0x34 on an undeclared one; `colgo` queues a collective, which runs and ends with its stamp; `mwait` gives a stamp that has come, and traps
its error cause. That a poisoned element of a write stream is a write fault is read from the manual (log entry 104); that an engine has one access
out at a time is the model's choice (23). -/
def Obligations.StreamTileAndRelayForms : Prop :=
  (∀ d a t s va y ws left bs u, Reads s [a] none [va] y → bitOf y.pend (24 + d.toNat) = false → (y.stream d.toNat).on = false → Has y ws →
    ReadsBytes (popped s y) ws va 0 32 16 left bs u →
    (sdOk (dwords 4 bs) = true → exec (.strm d a t) s = completes s (modSlot { u with fresh := s.fresh + 1 } s.cur fun x =>
      (x.takeIf t a.toNat).enterStream d.toNat s.fresh (issuerOf (popped s y) s.cur) (dwords 4 bs))) ∧
    (sdOk (dwords 4 bs) = false → exec (.strm d a t) s = traps s 0x42 (nw ((issuerOf (popped s y) s.cur).at va)))) ∧
  (∀ d a t s va y, Reads s [a] none [va] y → (y.stream d.toNat).on = false →
    exec (.strmoff d a t) s = traps s 0x42 (nw (24 + d.toNat))) ∧
  (∀ d t s va y, Reads s [0#5] none [va] y → (y.stream d.toNat).on = true → (y.stream d.toNat).fault = none →
    ((y.stream d.toNat).writes = false ∨ (y.stream d.toNat).fifo = []) →
    exec (.strmoff d 0#5 t) s = completes s (modSlot (popped s y) s.cur fun x =>
      ((x.takeIf t 0).leaveStream d.toNat).setReg (24 + d.toNat) (nw (y.stream d.toNat).pos))) ∧
  (∀ k st s t la, (slotAt s k).stream st = t → t.on = true → t.writes = false → t.halted = false → t.fifo.length < 8 → t.next < t.count →
    t.io.out = none → t.elemLa t.next = .ok la →
    (∀ bs l, engBytes t.io.log la t.esz = .ok bs l → exec (.streamFetch k st) s = .next (modSlot s k fun x => x.setStream st
      { t with fifo := t.fifo ++ [⟨extend t.esz t.sx bs, false⟩], next := t.next + 1, io := EngIo.reset })) ∧
    (∀ a n u pa acc, engBytes t.io.log la t.esz = .need (.read [(a, n)]) →
      engPhysical s (.strm (coreOf k)) (coreOf t.iss.slot) t.iss.asid a needR = .ok u pa acc →
      exec (.streamFetch k st) s = .next (modSlot (sendMsg u ⟨.strm (coreOf k), homeAgent u (coreOf t.iss.slot) pa, 0, t.iss.slot,
        (slotAt u t.iss.slot).phase, .engRead pa n [] ⟨.strm (coreOf k), t.id, 4 * k + st, 1, 8⟩ acc []⟩) k
          fun x => x.setStream st { t with io := { t.io with out := some (a, pa) } }))) ∧
  (∀ k st s t e es la, (slotAt s k).stream st = t → t.fifo = e :: es → t.on = true → t.writes = true → t.io.out = none →
    (e.pois = true → exec (.streamWrite k st) s = .next (modSlot s k fun x => x.setStream st { t with
      fifo := [], pos := t.next, fault := some (e.v.toNat / 2 ^ 57, nw (e.v.toNat % 2 ^ 56)), io := EngIo.reset })) ∧
    (e.pois = false → t.elemLa t.next = .ok la →
      (∀ l, engPut t.io.log la (wordLE t.esz e.v) = .ok () l → exec (.streamWrite k st) s =
        .next (modSlot s k fun x => x.setStream st { t with fifo := es, next := t.next + 1, io := EngIo.reset })) ∧
      (∀ a bs u pa acc, engPut t.io.log la (wordLE t.esz e.v) = .need (.write [(a, bs)]) →
        engPhysical s (.strm (coreOf k)) (coreOf t.iss.slot) t.iss.asid a needW = .ok u pa acc →
        exec (.streamWrite k st) s = .next (modSlot (sendMsg u ⟨.strm (coreOf k), homeAgent u (coreOf t.iss.slot) pa, 0, t.iss.slot,
          (slotAt u t.iss.slot).phase, .engWrite pa bs ⟨.strm (coreOf k), t.id, 4 * k + st, 1, 8⟩ acc none []⟩) k
            fun x => x.setStream st { t with io := { t.io with out := some (a, pa) } })))) ∧
  (∀ n a t s va y, Reads s [a] none [va] y →
    (va.toNat % 2 ^ 21 % 64 = 0 → va.toNat / 2 ^ 22 % 2 ^ 22 % 64 = 0 → va.toNat % 2 ^ 21 + va.toNat / 2 ^ 22 % 2 ^ 22 ≤ 2097152 →
      AsksTile s (.tdecl n a t) y 0 n va (completes s (took (popped s y) a t))) ∧
    ((va.toNat % 2 ^ 21 % 64 ≠ 0 ∨ va.toNat / 2 ^ 22 % 2 ^ 22 % 64 ≠ 0 ∨ 2097152 < va.toNat % 2 ^ 21 + va.toNat / 2 ^ 22 % 2 ^ 22) →
      exec (.tdecl n a t) s = traps s 0x10 va) ∧
    AsksTile s (.tarm n a t) y 1 n va (completes s (took (popped s y) a t)) ∧
    AsksTile s (.twait n a t) y 2 n va (completes s (took (popped s y) a t))) ∧
  (∀ n s, AsksTile s (.trel n) (slotAt s s.cur) 3 n 0#64 (completes s s)) ∧
  (∀ i s m cl n v e, e = tileAt (clusterAt s cl) n →
    (TileReqAt s i m cl 0 n v →
      (e.v = true → e.st ≠ 0 → exec (.loadRequest i) s = tileRefuses s i m 0x35 n) ∧
      ((e.v = true → e.st = 0) → ∀ off sz, off = v.toNat % 2 ^ 21 → sz = v.toNat / 2 ^ 22 % 2 ^ 22 →
        (sz ≠ 0 → tileOverlap (clusterAt s cl) n off sz = none →
          exec (.loadRequest i) s = tileDone s i m cl n (some ⟨true, off, sz, 0, 0, 0, false, 0, false⟩) false) ∧
        (∀ w, sz ≠ 0 → tileOverlap (clusterAt s cl) n off sz = some w → exec (.loadRequest i) s = tileRefuses s i m 0x35 (w * 256 + n)) ∧
        (sz = 0 → e.v = true → exec (.loadRequest i) s = tileDone s i m cl n (some { e with v := false }) false))) ∧
    (TileReqAt s i m cl 1 n v →
      (e.v = false → exec (.loadRequest i) s = tileRefuses s i m 0x34 n) ∧
      (e.v = true → e.st ≠ 0 → exec (.loadRequest i) s = tileRefuses s i m 0x35 n) ∧
      (e.v = true → e.st = 0 → v.toNat % 2 ^ 32 ≠ 0 → exec (.loadRequest i) s = tileDone s i m cl n
        (some { e with exp := v.toNat % 2 ^ 32, left := v.toNat % 2 ^ 32, ovr := false, st := 1 }) false) ∧
      (e.v = true → e.st = 0 → v.toNat % 2 ^ 32 = 0 → exec (.loadRequest i) s = tileDone s i m cl n
        (some { e with exp := 0, ovr := false, ph := !e.ph, st := 2 }) false)) ∧
    (TileReqAt s i m cl 2 n v →
      (e.v = false → exec (.loadRequest i) s = tileRefuses s i m 0x34 n) ∧
      (e.v = true → (e.st = 2 ∨ e.st = 3) → e.ph = v.getLsbD 0 → exec (.loadRequest i) s = tileDone s i m cl n none false) ∧
      (e.v = true → (e.st < 2 ∨ e.ph = !v.getLsbD 0) → exec (.loadRequest i) s = tileDone s i m cl n none true)) ∧
    (TileReqAt s i m cl 3 n v →
      (e.v = false → exec (.loadRequest i) s = tileRefuses s i m 0x34 n) ∧
      (e.v = true → e.st = 1 → exec (.loadRequest i) s = tileRefuses s i m 0x35 n) ∧
      (e.v = true → e.st = 3 → exec (.loadRequest i) s = tileDone s i m cl n none true) ∧
      (e.v = true → e.st = 2 → exec (.loadRequest i) s = tileDone s i m cl n (some { e with st := 0 }) false) ∧
      (e.v = true → e.st = 0 → exec (.loadRequest i) s = tileDone s i m cl n none false))) ∧
  (∀ a b t s va vb y ws ws1 ws2 hd bs n ds iss u z, Reads s [a, b] none [va, vb] y → Has y ws →
    ReadsBytes (popped s y) ws va 0 32 8 ws1 hd u → n = colN (dwords 4 hd) → ReadsBytes u ws1 va 32 (8 * n) 8 ws2 bs z →
    ds = dwords (4 + n) (hd ++ bs) → iss = issuerOf z s.cur →
    (colBad z iss ds = true → exec (.colgo a b t) s = traps s 0x45 (nw (iss.at va))) ∧
    (colBad z iss ds = false →
      ptrRows iss (flatUse (val ds 1) 8 needWD 8 :: (colBufs ds).map fun q => flatUse q (4 * colLen ds) needRWD 4) = none →
      ((towerAt z (slotTower s.cur)).cle.length < 8 →
        exec (.colgo a b t) s = completes s (modSlot (modTower { z with fresh := z.fresh + 1 } (slotTower s.cur) fun x => { x with
          cle := x.cle ++ [⟨z.fresh, iss, (val ds 0).toNat % 4, colLen ds, iss.at (val ds 1), (colBufs ds).map iss.at, vb.toNat % 2 ^ 32,
            false, none, EngIo.reset⟩] }) s.cur fun x => { x.takeIf t a.toNat with cmds := x.cmds ++ [⟨z.fresh, 2, false⟩] })) ∧
      (8 ≤ (towerAt z (slotTower s.cur)).cle.length → exec (.colgo a b t) s = parks s (keptStreams s z)))) ∧
  (∀ tower s c cs, (towerAt s tower).cle = c :: cs → c.running = false → barsHold (coreAt s (coreOf c.iss.slot)) c.iss.bars = false →
    exec (.cleCollectiveStart tower) s = .next (modTower s tower fun w => { w with cle := { c with running := true } :: cs })) ∧
  (∀ tower s c cs, (towerAt s tower).cle = c :: cs → c.running = true → c.fault = none → c.io.out = none →
    (∀ la n u pa acc, c.io.told = false → colRun s c c.io.log = .need (.read [(la, n)]) →
      engPhysical s (.cle tower) (coreOf c.iss.slot) c.iss.asid la needR = .ok u pa acc →
      exec (.cleCollectiveEnd tower) s = .next (setCol (sendMsg u ⟨.cle tower, homeAgent u (coreOf c.iss.slot) pa, 0, c.iss.slot,
        (slotAt u c.iss.slot).phase, .engRead pa n [] ⟨.cle tower, c.id, 0, 1, 4⟩ acc []⟩) tower { c with io := { c.io with out := some (la, pa) } })) ∧
    (c.io.told = true → c.io.log = [.done 1] → c.stamp % 8 = 0 → exec (.cleCollectiveEnd tower) s = .next (endCmd (modTower s tower fun w =>
      { w.setCreg 0x3C0 (addF (w.creg 0x3C0) 32 32 1) with cle := w.cle.drop 1 }) c.iss.slot c.id))) ∧
  (∀ d a b t s va vb y la pa acc off bs w, Reads s [a, b] (some d) [va, vb] y → ptrAddr (popped s y) s.cur va 8 needR = .ok la pa acc →
    ownLm (popped s y) (coreOf s.cur) pa = .own off → lmRead (popped s y) (coreOf s.cur) off 8 = .ok (popped s y) bs → w = leWord bs →
    (w.toNat % 2 ^ 32 + 2 ^ 32 - vb.toNat % 2 ^ 32) % 2 ^ 32 < 2 ^ 31 →
    (w.toNat / 2 ^ 62 = 1 ∨ w.toNat / 2 ^ 62 = 3 → exec (.mwait d a b t) s = completes s (wrote (popped s y) d a t w)) ∧
    (w.toNat / 2 ^ 62 = 2 → exec (.mwait d a b t) s = traps s (w.toNat / 2 ^ 55 % 2 ^ 7) w) ∧
    (w.toNat / 2 ^ 62 = 0 → exec (.mwait d a b t) s = waits s y))

/-- R204 to R221: the vector engine's forms. `vset` writes an address register; each command form checks its command in the order of R209 and queues
it, with place for two, advancing the address registers that it names; a count above 16,777,215 traps 0x43. R203, R210, R211, R218: a VE command
runs. Its start reads its first element, or ends with 0x44 when the table that it needs is not there; a reply with the last bytes of an element
computes it; after the last element the command leaves, and a `vcbld` replaces its table; a fault leaves FIDX and FADDR. That elements are performed
one after another (log entry 30), the checks of operands without elements and the address of fault 0x44 (32), and two readings of `vconv` (85 and
86) are the model's choices; the element that a fault of several reports (31) and the count of a gated tile (33) are read from the manual. -/
def Obligations.VectorEngine : Prop :=
  ((∀ a b t e s va vb y, Reads s [a, b] none [va, vb] y → exec (.vset a b t e) s = completes s (modSlot (popped s y) s.cur fun x =>
    ((x.takeIf t a.toNat).setCreg (0x60 + 2 * e.toNat) va).setCreg (0x61 + 2 * e.toNat) (vb &&& 0x80FC0000FFFFFFFF#64))) ∧
  VeTwo .vadd .vadd ∧ VeTwo .vsub .vsub ∧ VeTwo .vmul .vmul ∧ VeTwo .vfma .vfma ∧ VeTwo .vmax .vmax ∧ VeTwo .vmin .vmin ∧
  VeOne .vabs .vabs ∧ VeOne .vneg .vneg ∧ VeScalar .vscale .vscale ∧
  VeTwo .viadd .viadd ∧ VeTwo .visub .visub ∧ VeTwo .vimul .vimul ∧ VeTwo .viand .viand ∧ VeTwo .vior .vior ∧ VeTwo .vixor .vixor ∧
  VeScalar .vishl .vishl ∧ VeScalar .vishr .vishr ∧ VeOne .vconv .vconv ∧ VeOne .vbfp .vbfp ∧ VeOne .vbfpx .vbfpx ∧
  VeOne .vcbq .vcbq ∧ VeOne .vcbx .vcbx ∧ VeScalar .vsat .vsat ∧ VeOne .vsum .vsum ∧ VeOne .vmaxr .vmaxr ∧ VeTwo .vdot .vdot ∧
  (∀ b x, IssuesVe .vcbld none [x] 0#5 (some b) false (.vcbld b x)) ∧
  (∀ s x f, 16777215 < x.n → veCheck s x f = some (0x43, nw x.n))) ∧
  ((∀ core s x, (coreAt s core).vq.head? = some x → x.run = none → barsHold (coreAt s core) x.iss.bars = false →
    exec (.veCommandStart core) s = .next (veGo (veInit s core x).1 core x (veInit s core x).2)) ∧
  (∀ s core x k, x.needs = some k → tableOf (coreAt s core) k = none → ((veInit s core x).2.fault.map EngFault.cause) = some 0x44) ∧
  (∀ core s x r n bs, (coreAt s core).vq.head? = some x → x.run = some r → x.io = EngIo.reset → r.out = true → r.reads.length = n →
    veReadDone s core x.id n (.value bs) = veGo (veData s core x { r with out := false, reads := [], got := r.got ++ bs }).1 core x
      (veData s core x { r with out := false, reads := [], got := r.got ++ bs }).2) ∧
  (∀ core s x r, (coreAt s core).vq.head? = some x → x.run = some r → r.ended = true → r.fault = none → x.io = EngIo.reset →
    (x.ste = false → exec (.veCommandEnd core) s = .next (veLeave s core x r)) ∧
    (∀ la s1 pa acc, x.ste = true → la = x.iss.at x.stamp → la % 8 = 0 →
      engPhysical s (.ve core) (coreOf x.iss.slot) x.iss.asid la needW = .ok s1 pa acc →
      exec (.veCommandEnd core) s = .next (setVIo (sendMsg s1 ⟨.ve core, homeAgent s1 (coreOf x.iss.slot) pa, 0, x.iss.slot,
        (slotAt s1 x.iss.slot).phase, .engWrite pa (wordLE 8 (stampWord 0 x.seq)) ⟨.ve core, x.id, 0, 1, 1⟩ acc none []⟩) core
          ⟨some (la, pa), [], true⟩))) ∧
  (∀ core s x r, x.tiles = [] →
    (x.op ≠ .vcbld → veLeave s core x r = endCmd (modCore s core fun c => { c with vq := c.vq.drop 1 }) x.iss.slot x.id) ∧
    (x.op = .vcbld → r.fault = none → veLeave s core x r = modCore (endCmd (modCore s core fun c => { c with vq := c.vq.drop 1 }) x.iss.slot x.id)
      core fun c => setTable c x.entries (if x.loads then some r.table else none))) ∧
  (∀ core s x r f, (coreAt s core).vq.head? = some x → x.run = some r → r.fault = some f → r.idx = [] → x.io = EngIo.reset → x.ste = false →
    (x.iss.lives s = true → exec (.veFault core) s = .next (veLeave (raiseEvent (modSlot s x.iss.slot fun y =>
      (y.setCreg 0x74 (nw f.elem)).setCreg 0x75 (nw f.la)) core f.cause (nw f.la)) core x r)) ∧
    (x.iss.lives s = false → exec (.veFault core) s = .next (veLeave (raiseEvent s core f.cause (nw f.la)) core x r))))


/-! The optical matrix unit. -/

/-- R249 to R253, R256 to R263: the matrix forms. The owner's forms trap 0x4E at another thread with the instruction's word; `mown` takes, keeps,
waits for and releases the OMU; `mset` writes its registers; `mphld`, `mswap`, `mpass`, `mdrain`, `mclr`, `mprobe` and `mcal` check their words and
pointers and queue a command, with place for eight; `phrd`, `phwr` and `macrd` read and write codes and accumulators; `mdecomp` queues a
decomposition. That a shared site serves its clusters in turn is the model's choice (log entry 39). -/
def Obligations.MatrixForms : Prop :=
  (∀ s, ownsOmu s s.cur = false → ∀ a b d t k n,
    exec (.mset a t k) s = traps s 0x4E (insWord (.mset a t k)) ∧ exec (.mphld a b t n) s = traps s 0x4E (insWord (.mphld a b t n)) ∧
    exec (.mswap b) s = traps s 0x4E (insWord (.mswap b)) ∧ exec (.mprobe b) s = traps s 0x4E (insWord (.mprobe b)) ∧
    exec (.mpass a b t) s = traps s 0x4E (insWord (.mpass a b t)) ∧ exec (.mdrain a b t) s = traps s 0x4E (insWord (.mdrain a b t)) ∧
    exec (.mclr a b t) s = traps s 0x4E (insWord (.mclr a b t)) ∧ exec (.phrd d a t) s = traps s 0x4E (insWord (.phrd d a t)) ∧
    exec (.phwr a b t) s = traps s 0x4E (insWord (.phwr a b t)) ∧ exec (.macrd d a t) s = traps s 0x4E (insWord (.macrd d a t))) ∧
  (∀ a t s va y, Reads s [a] none [va] y →
    (va.getLsbD 0 = true → (myCluster s).own = none →
      exec (.mown a t) s = completes s (took (modCluster (popped s y) (myCl s) fun c => { c with own := some s.cur }) a t)) ∧
    (va.getLsbD 0 = true → (myCluster s).own = some s.cur → exec (.mown a t) s = completes s (took (popped s y) a t)) ∧
    (∀ k, va.getLsbD 0 = true → (myCluster s).own = some k → k ≠ s.cur → exec (.mown a t) s = waits s y) ∧
    (va.getLsbD 0 = false → (myCluster s).own = some s.cur → openCmds (myCluster s).mxq = [] →
      exec (.mown a t) s = completes s (took (modCluster (popped s y) (myCl s) fun c => { c with own := none }) a t)) ∧
    (va.getLsbD 0 = false → (myCluster s).own = some s.cur → openCmds (myCluster s).mxq ≠ [] → exec (.mown a t) s = waits s y) ∧
    (va.getLsbD 0 = false → (myCluster s).own ≠ some s.cur → exec (.mown a t) s = traps s 0x4E (insWord (.mown a t)))) ∧
  (∀ a t s va y, ownsOmu s s.cur = true → Reads s [a] none [va] y →
    exec (.mset a t 0#4) s = completes s (modCluster (took (popped s y) a t) (myCl s) fun c => c.setCreg 0x2C0 (va &&& 0xFFFFFFFF#64)) ∧
    exec (.mset a t 2#4) s = completes s (modCluster (took (popped s y) a t) (myCl s) fun c => c.setCreg 0x2C2 va) ∧
    (va &&& 0xFFFFFFFF00FE7E80#64 = 0#64 →
      exec (.mset a t 1#4) s = completes s (modCluster (took (popped s y) a t) (myCl s) fun c => c.setCreg 0x2C1 va)) ∧
    (va &&& 0xFFFFFFFF00FE7E80#64 ≠ 0#64 → exec (.mset a t 1#4) s = traps s 0x46 va)) ∧
  (∀ a b t n s va vb y, ownsOmu s s.cur = true → Reads s [a, b] none [va, vb] y →
    ptrRows (issuerOf (popped s y) s.cur) (flatUse va 5376 needRD 64 :: stampUse (popped s y)) = none →
    (mxRoom s → exec (.mphld a b t n) s = completes s (took (mxQueued (popped s y)
      (mxOf (popped s y) 2 va n ((issuerOf (popped s y) s.cur).at va) (vb.toNat % 2 ^ 32))) a t)) ∧
    (¬ mxRoom s → exec (.mphld a b t n) s = waits s y)) ∧
  (∀ b s vb y, ownsOmu s s.cur = true → Reads s [b] none [vb] y → ptrRows (issuerOf (popped s y) s.cur) (stampUse (popped s y)) = none → mxRoom s →
    exec (.mswap b) s = completes s (mxQueued (popped s y) (mxOf (popped s y) 3 0#64 false 0 (vb.toNat % 2 ^ 32))) ∧
    exec (.mprobe b) s = completes s (mxQueued (popped s y) (mxOf (popped s y) 7 0#64 false 0 (vb.toNat % 2 ^ 32)))) ∧
  (∀ a b t s va vb y tile, ownsOmu s s.cur = true → Reads s [a, b] none [va, vb] y → tile = tileAt (myCluster s) (wTile va) →
    (passOk va = false → exec (.mpass a b t) s = traps s 0x46 va) ∧ (drainOk va = false → exec (.mdrain a b t) s = traps s 0x46 va) ∧
    (clearOk va = false → exec (.mclr a b t) s = traps s 0x46 va) ∧
    (ptrRows (issuerOf (popped s y) s.cur) (stampUse (popped s y)) = none →
      (passOk va = true → tile.v = false → exec (.mpass a b t) s = traps s 0x34 (nw (wTile va))) ∧
      (passOk va = true → tile.v = true → (wTrow va + wRows va) * rowBytes (wFmt va) ≤ tile.size → tile.readable = true → mxRoom s →
        exec (.mpass a b t) s = completes s (startReadTile (took (mxQueued (popped s y)
          (mxOf (popped s y) 4 va false 0 (vb.toNat % 2 ^ 32))) a t) (myCl s) (wTile va))) ∧
      (drainOk va = true → tile.v = true → wRows va * 32 * (if wFmt va = 0x8 then 4 else 2) ≤ tile.size →
        ((∀ x ∈ openCmds (myCluster s).mxq, x.writes (wBank va) = false) →
          (((myCluster s).creg (0x2C4 + wBank va)).getLsbD 63 = false ∨ wForce va = true) → mxRoom s →
          exec (.mdrain a b t) s = completes s (took (mxQueued (popped s y) (mxOf (popped s y) 5 va false 0 (vb.toNat % 2 ^ 32))) a t)) ∧
        ((∀ x ∈ openCmds (myCluster s).mxq, x.writes (wBank va) = false) → ((myCluster s).creg (0x2C4 + wBank va)).getLsbD 63 = true →
          wForce va = false → exec (.mdrain a b t) s = traps s 0x4C (nw (((myCluster s).creg (0x2C4 + wBank va)).toNat / 2 ^ 55 % 2 ^ 7 +
            ((myCluster s).creg (0x2C4 + wBank va)).toNat / 2 ^ 32 % 2 ^ 10 * 2 ^ 8 + wBank va * 2 ^ 24)))) ∧
      (clearOk va = true → (∀ x ∈ openCmds (myCluster s).mxq, x.writes (wBank va) = false) → mxRoom s →
        exec (.mclr a b t) s = completes s (took (mxQueued (popped s y) (mxOf (popped s y) 6 va false 0 (vb.toNat % 2 ^ 32))) a t)))) ∧
  (∀ a b t s vb y, Reads s [a, b] none [0#64, vb] y → mxRoom s → exec (.mcal a b t) s = completes s (took (mxQueued (popped s y)
    { mxOf (popped s y) 15 0#64 false 0 (vb.toNat % 2 ^ 32) with stamp := none }) a t)) ∧
  (∀ d a t s va y, ownsOmu s s.cur = true → Reads s [a] (some d) [va] y →
    (phrOk va = true → openCmds (myCluster s).mxq = [] → exec (.phrd d a t) s = completes s (wrote (popped s y) d a t
      (match (myCluster s).bank (va.getLsbD 12) with
        | some b => nw (2 ^ 16 + (b.codes.getD (va.toNat % 2 ^ 12) 0#16).toNat)
        | none => 0#64))) ∧
    (phrOk va = false → exec (.phrd d a t) s = traps s 0x46 va) ∧
    (va &&& 0xFFFFFC00FEFFFFE0#64 = 0#64 → (∀ x ∈ openCmds (myCluster s).mxq, x.writes (wBank va) = false) →
      exec (.macrd d a t) s = completes s (wrote (popped s y) d a t
        (nw ((((myCluster s).creg (0x2C4 + wBank va)).getLsbD 63).toNat * 2 ^ 32 +
          (accAt (myCluster s) (wBank va) (wRow0 va) (va.toNat % 32)).toNat))))) ∧
  (∀ a b t s va vb y p, ownsOmu s s.cur = true → Reads s [a, b] none [va, vb] y → phrOk va = true → openCmds (myCluster s).mxq = [] →
    ((myCluster s).bank (va.getLsbD 12) = some p → exec (.phwr a b t) s = completes s (modCluster (took (popped s y) a t) (myCl s) fun c =>
      { c.setBank (va.getLsbD 12) (some { p with codes := listSet p.codes (va.toNat % 2 ^ 12) (vb.setWidth 16) }) with
        settle := c.settle || decide (va.getLsbD 12 = c.act) })) ∧
    ((myCluster s).bank (va.getLsbD 12) = none → exec (.phwr a b t) s = traps s 0x48 va)) ∧
  (∀ a b t s va vb y ws left z bs ds iss, Reads s [a, b] none [va, vb] y → Has y ws → ReadsBytes (popped s y) ws va 0 32 8 left bs z →
    ds = dwords 4 bs → iss = issuerOf z s.cur →
    (decompOk ds = false → exec (.mdecomp a b t) s = traps s 0x47 (nw (iss.at va))) ∧
    (decompOk ds = true → ptrRows iss (decompUses ds) = none → 2 ≤ (myCluster s).dce.length →
      exec (.mdecomp a b t) s = parks s (keptStreams s z)) ∧
    (decompOk ds = true → ptrRows iss (decompUses ds) = none → (myCluster s).dce.length < 2 →
      ∃ x : DceCmd, x.id = z.fresh ∧ x.iss = iss ∧ x.src = iss.at (val ds 0) ∧ x.dst = iss.at (val ds 1) ∧ x.seq = vb.toNat % 2 ^ 32 ∧
        x.running = false ∧ x.result = none ∧ x.io = EngIo.reset ∧
        exec (.mdecomp a b t) s = completes s (modSlot (modCluster { z with fresh := z.fresh + 1 } (myCl s) fun c =>
          { c with dce := c.dce ++ [x] }) s.cur fun x => { x.takeIf t a.toNat with cmds := x.cmds ++ [⟨z.fresh, 1, false⟩] })))

/-- R246 to R248, R254 to R260: matrix commands run, each when its turn has come. A pass starts, reads pieces of its tile's rows, each once, and
feeds its rows into the light; an invalid active bank ends it with 0x48; with all rows entered it ends with its EBC; a load holds its image, or ends
with the reason of the check that failed; a swap toggles the active bank, which settles and is swept; a drain writes rows into its tile; a clear
zeroes rows and the poison mark. The row that a fault reports (log entry 34) and that masked columns count nothing (37) are read from the manual;
the matrix of a list of codes (8), the analog error (6), a partial under a gain that is no number (88) and the alternation at a shared site (39) are
the model's choices. -/
def Obligations.MatrixCommandsRun : Prop :=
  (∀ cl f s i x, mxReady s cl i x → x.fn = 4 → x.rows < wRows x.word → (clusterAt s cl).mxq.all (fun y => !(y.started && decide (y.fn = 4))) = true →
    (∀ k, siteOf s cl = some k → siteBusy s k cl = false → mustYield s k cl = false → (siteAt s k).user.getD cl = cl →
      exec (.omuPassStart cl f) s = .next (feedRows cl x.id f.rows (feedEarly cl x.id (startPassCmd s cl x) f.early))) ∧
    (siteOf s cl = none →
      exec (.omuPassStart cl f) s = .next (feedRows cl x.id f.rows (feedEarly cl x.id (startPassCmd s cl x) f.early)))) ∧
  (∀ cl f s i x, mxRunning s cl i x → x.fn = 4 → x.rows < wRows x.word →
    exec (.omuPassStart cl f) s = .next (feedRows cl x.id f.rows (feedEarly cl x.id s f.early))) ∧
  (∀ cl id s x off n, running s cl (fun x => decide (x.id = id)) = some x → (∀ f ∈ x.fed, f.off ≠ off) →
    (∀ u bs, cspRead s cl off n = .ok u bs → feedPiece cl id s (off, n) = modCmd u cl id fun y => { y with fed := y.fed ++ [⟨off, bs, 0⟩] }) ∧
    (∀ u c a, cspRead s cl off n = .poison u c a → feedPiece cl id s (off, n) = modCmd u cl id fun y =>
      { y with fed := y.fed ++ [⟨off, List.replicate n 0#8, c⟩] })) ∧
  (∀ cl id s x off n f, running s cl (fun x => decide (x.id = id)) = some x → f ∈ x.fed → f.off = off → feedPiece cl id s (off, n) = s) ∧
  (∀ s cl x, (clusterAt s cl).activeBank = none → startPassCmd s cl x = mxEnd s cl x 0x48 4 0 0) ∧
  (∀ s cl x k b, (clusterAt s cl).activeBank = some b → siteOf s cl = some k →
    startPassCmd s cl x = modCmd (modSite s k fun y => { y with
        last := some cl
        user := if siteRetired s k = true ∨ (siteAt s k).st = 4 ∨ (siteAt s k).st = 0 then y.user else some cl }) cl x.id fun y =>
      { y with started := true, gains := siteGains (siteAt s k) }) ∧
  (∀ cl s i x, mxRunning s cl i x → x.fn = 4 → wRows x.word ≤ x.rows → x.cfg.toNat / 2 ^ 24 % 2 ^ 8 = 0 →
    ∃ e, exec (.omuPassEnd cl) s = .next (mxEnd (modCluster s cl fun c => { c with passEbc := e }) cl x 0 0 0 e) ∧
      e = if x.clip then 0 else Nat.min x.low (((clusterAt s cl).activeBank.map PhaseBank.cebc).getD 0)) ∧
  (∀ cl s i x z la n u pa acc, mxReady s cl i x → x.fn = 2 → x.io = EngIo.reset → (∀ y ∈ (clusterAt s cl).mxq, y.started = true → y.fn ≠ 2) →
    z = modCmd (modCluster s cl fun c => c.setBank x.bank none) cl x.id (fun y => { y with started := true }) →
    engBytes [] x.la 5376 = .need (.read [(la, n)]) →
    engPhysical z (.drain cl) (coreOf x.iss.slot) x.iss.asid la needR = .ok u pa acc →
    exec (.omuPhldRun cl) s = .next (modCmd (sendMsg u ⟨.drain cl, homeAgent u (coreOf x.iss.slot) pa, 0, x.iss.slot, (slotAt z x.iss.slot).phase,
      .engRead pa n [] ⟨.drain cl, x.id, 0, 1, 1⟩ acc []⟩) cl x.id fun y => { y with io := ⟨some (la, pa), [], false⟩ })) ∧
  (∀ cl s i x bs l, mxRunning s cl i x → x.fn = 2 → x.io.told = false → x.io.out = none → engBytes x.io.log x.la 5376 = .ok bs l →
    (∀ r, loadImage bs = .error r → exec (.omuPhldRun cl) s = .next (mxEnd s cl x 0x48 r 0 0)) ∧
    (∀ b, loadImage bs = .ok b → x.bank ≠ (clusterAt s cl).act →
      exec (.omuPhldRun cl) s = .next (mxEnd (modCluster s cl fun c => c.setBank x.bank (some b)) cl x 0 0 0 0)) ∧
    (∀ b, loadImage bs = .ok b → x.bank = (clusterAt s cl).act →
      exec (.omuPhldRun cl) s = .next (modCmd (modCluster (modCluster s cl fun c => c.setBank x.bank (some b)) cl fun c =>
        { c with settle := true, live := [] }) cl x.id fun y => { y with io := ⟨none, [], true⟩ }))) ∧
  (∀ bs, (bs.getD 0 0#8).toNat ≠ 1 → loadImage bs = .error 1) ∧
  (∀ bs, (bs.getD 0 0#8).toNat = 1 → leNat ((bs.drop 60).take 4) ≠ crc32 (bs.take 60 ++ (bs.drop 64).take 5312) → loadImage bs = .error 2) ∧
  (∀ cl s i x, mxReady s cl i x → x.fn = 3 →
    ((clusterAt s cl).bank (!(clusterAt s cl).act) = none → exec (.omuSwapRun cl) s = .next (mxEnd s cl x 0x48 4 0 0)) ∧
    ((clusterAt s cl).bank (!(clusterAt s cl).act) ≠ none → exec (.omuSwapRun cl) s = .next (modCmd (modCluster s cl fun c =>
      { c with act := !c.act, settle := true, live := [] }) cl x.id fun y => { y with started := true }))) ∧
  (∀ cl s k, (clusterAt s cl).mxq = [] → mayProbe s cl = some k → (clusterAt s cl).settle = true →
    exec (.omuSettleSweep cl) s = .next (sweepSite s cl k)) ∧
  (∀ cl s k i x, mxReady s cl i x → x.fn = 7 → mayProbe s cl = some k → (clusterAt s cl).settle = false →
    exec (.omuSettleSweep cl) s = .next (mxEnd (sweepSite s cl k) cl x 0 0 0 0)) ∧
  (∀ cl s i x, mxReady s cl i x → x.fn = 5 → (∀ y ∈ (clusterAt s cl).mxq, y.started = true → y.fn ≠ 5) →
    exec (.omuDrainRun cl) s = .next (drainGo (modCmd s cl x.id fun y => { y with started := true }) cl x)) ∧
  (∀ cl s i x, mxRunning s cl i x → x.fn = 5 → exec (.omuDrainRun cl) s = .next (drainGo s cl x)) ∧
  (∀ cl s x la bs u pa acc, x.io = EngIo.reset → engPut [] (drainRow (clusterAt s cl) cl x).1 (drainRow (clusterAt s cl) cl x).2 = .need (.write [(la, bs)]) →
    engPhysical s (.drain cl) (coreOf x.iss.slot) x.iss.asid la needW = .ok u pa acc →
    drainGo s cl x = modCmd (sendMsg u ⟨.drain cl, homeAgent u (coreOf x.iss.slot) pa, 0, x.iss.slot, (slotAt s x.iss.slot).phase,
      .engWrite pa bs ⟨.drain cl, x.id, 0, 1, 1⟩ acc none []⟩) cl x.id fun y => { y with io := ⟨some (la, pa), [], false⟩ }) ∧
  (∀ cl s x l, x.io.out = none → engPut x.io.log (drainRow (clusterAt s cl) cl x).1 (drainRow (clusterAt s cl) cl x).2 = .ok () l →
    wRows x.word ≤ x.rows + 1 → drainGo s cl x = mxEnd (modCmd (if wClr x.word = true
        then modCluster s cl fun c => clearRows c (wBank x.word) (wRow0 x.word + x.rows) 1 else s) cl x.id fun y =>
      { y with rows := x.rows + 1, io := EngIo.reset }) cl { x with rows := x.rows + 1, io := EngIo.reset } 0 0 0 0) ∧
  (∀ cl s i x, mxReady s cl i x → x.fn = 6 → exec (.omuClearRun cl) s = .next (mxEnd (modCluster s cl fun c =>
    (clearRows c (wBank x.word) (wRow0 x.word) (wRows x.word)).setCreg (0x2C4 + wBank x.word)
      (setF (setF (setF (c.creg (0x2C4 + wBank x.word)) 62 2 0) 55 7 0) 32 10 0)) cl x 0 0 0 0)) ∧
  (∀ c b r n i j, r ≤ i → i < r + n → i < 1024 → j < 32 → accAt (clearRows c b r n) b i j = 0#32)

/-- R234 to R239, R242, R263 to R265, R230, R262: the machinery of the sites. A calibration starts and ends, with gains and a sweep; a probe falls
due every 2^P symbols; a pacer update beyond the trim range is a drift; a site stops at STOPT and drifts at RESUME; a group's timer raises 0x4F
once; a decomposition reads its block, and ends with its stamp. The gains, the analog errors and the decomposition itself are free values (log
entries 5, 6 and 7). That every drift verdict counts (35), that `mcal` starts from READY too (36) and that the temperature comes with the event (40)
are read from the manual. -/
def Obligations.OpticalSites : Prop :=
  (∀ cl s i x k, mxReady s cl i x → x.fn = 15 → siteOf s cl = some k → siteRetired s k = false → siteBusy s k cl = false → (siteAt s k).st ≠ 4 →
    s.modul.hu = .idle →
    exec (.omuCalRun cl) s = .next (modCmd (modSite s k fun y => { y with st := 1, trimOut := false, tmax := 0, sym := y.lateSym s.time }) cl x.id fun y =>
      { y with started := true })) ∧
  (∀ cl s i x k, mxRunning s cl i x → x.fn = 15 → siteOf s cl = some k → siteRetired s k = false → (siteAt s k).st = 1 →
    exec (.omuCalEnd cl) s = .next (mxEnd (calibrate s cl k) cl x 0 0 0 0)) ∧
  (∀ s cl k, (siteAt (calibrate s cl k) k).st = 2) ∧
  (∀ cl s k, siteOf s cl = some k → probesRun s k = true → (clusterAt s cl).settle = false → (siteAt s k).user.getD cl = cl →
    (siteAt s k).sym + 2 ^ (((siteAt s k).creg 0x283).toNat / 2 ^ 16 % 2 ^ 5) ≤ 10 * s.time →
    exec (.omuProbe cl) s = .next (probeOnce cl k (siteAt s k).nextk (modSite s k fun x =>
      { x with sym := x.sym + 2 ^ (((siteAt s k).creg 0x283).toNat / 2 ^ 16 % 2 ^ 5) }))) ∧
  (∀ cl tmax s k, siteOf s cl = some k → (siteAt s k).pacerAt ≤ s.time →
    exec (.pacerUpdate cl tmax false) s = .next (modSite s k fun x => { x with tmax := tmax % 256, trimOut := false, pacerAt := s.time + 16000 }) ∧
    ∃ u n, exec (.pacerUpdate cl tmax true) s = .next (drift u k true n) ∧ (siteAt u k).trimOut = true ∧ (siteAt u k).clean = 0) ∧
  (∀ s k trim p, (siteAt (drift s k trim p) k).st = (if (siteAt s k).st = 2 then 3 else (siteAt s k).st) ∧
    ((siteAt (drift s k trim p) k).creg 0x288).toNat / 2 ^ 32 = (((siteAt s k).creg 0x288).toNat / 2 ^ 32 + 1) % 2 ^ 32) ∧
  (∀ cl temp s k, siteOf s cl = some k → siteUsers s k = [cl] → (clusterAt s cl).own = none → (∀ x ∈ (clusterAt s cl).mxq, x.fn ≠ 15) →
    ((siteAt s k).st = 1 ∨ (siteAt s k).st = 2 ∨ (siteAt s k).st = 3) → ((siteAt s k).creg 0x285).toNat / 2 ^ 32 % 2 ^ 8 * 256 ≤ temp % 65536 →
    ∃ u, exec (.omuThermalStop cl temp) s = .next u ∧ (siteAt u k).st = 4 ∧ (siteAt u k).temp = temp % 65536 ∧
      ((siteAt u k).creg 0x288).toNat % 2 ^ 32 = (((siteAt s k).creg 0x288).toNat + 1) % 2 ^ 32) ∧
  (∀ cl temp s k, siteOf s cl = some k → (siteAt s k).st = 4 → temp % 65536 < ((siteAt s k).creg 0x285).toNat / 2 ^ 40 % 2 ^ 8 * 256 →
    ∃ u, exec (.omuThermalResume cl temp) s = .next u ∧ (siteAt u k).st = 3 ∧ (siteAt u k).clean = 0) ∧
  (∀ cl n s t, t ∈ (clusterAt s cl).gtimers → t.n = n → t.stopped = false → t.pausedAt = none → grpV (clusterAt s cl) = true →
    t.start + t.off + grpLim (clusterAt s cl) ≤ tickOf s →
    exec (.groupWatchdog cl n) s = .next (((groupOf s cl).filter (watchdogDue s n)).foldl (watchdogFire n) s)) ∧
  (∀ n s m, ∃ u, u = (modCluster s m fun c =>
      { c.setCreg 0x2C8 (setB (c.creg 0x2C8) 31 true) with gtimers := c.gtimers.map fun t => if t.n = n then { t with stopped := true } else t }) ∧
    (∀ o, (clusterAt s m).own = some o → watchdogFire n s m = raiseEvent u (coreOf o) 0x4F
      (nw (grpId (clusterAt s m) + n * 2 ^ 8 + if grpPn (clusterAt s m) < n then 2 ^ 40 else 0))) ∧
    ((clusterAt s m).own = none → watchdogFire n s m = u)) ∧
  (∀ cl s d ds e la n u pa acc, (clusterAt s cl).dce = d :: ds → d.running = false → d.result = none → d.io = EngIo.reset →
    barsHold (coreAt s (coreOf d.iss.slot)) d.iss.bars = false → e = { d with running := true } →
    readBlock e 32 0 [] [] = .need (.read [(la, n)]) →
    engPhysical (setDce s cl e) (.dce cl) (coreOf d.iss.slot) d.iss.asid la needR = .ok u pa acc →
    exec (.dceDecompose cl) s = .next (setDce (sendMsg u ⟨.dce cl, homeAgent u (coreOf d.iss.slot) pa, 0, d.iss.slot,
      (slotAt s d.iss.slot).phase, .engRead pa n [] ⟨.dce cl, d.id, 0, 1, 1⟩ acc []⟩) cl { e with io := ⟨some (la, pa), [], false⟩ })) ∧
  (∀ cl s d ds w l, (clusterAt s cl).dce = d :: ds → d.running = true → d.result = none → d.io.out = none →
    readBlock d 32 0 d.io.log [] = .ok w l →
    exec (.dceDecompose cl) s = .next (setDce (setDce s cl d) cl { d with result := some (decomposeBlock d w), io := EngIo.reset })) ∧
  (∀ cl s d ds cause bs cebc sweeps, (clusterAt s cl).dce = d :: ds → d.result = some (cause, bs, cebc, sweeps) → d.io.out = none →
    (cause ≠ 0 → exec (.dceEnd cl) s = .next (dceStamp s cl d cause 0 sweeps)) ∧
    (cause = 0 → d.io.told = true → exec (.dceEnd cl) s = .next (dceStamp s cl d 0 cebc sweeps)) ∧
    (∀ l, cause = 0 → d.io.told = false → engWriteCuts true (putPieces d.dst bs) d.io.log = .ok () l →
      exec (.dceEnd cl) s = .next (dceStamp (setDce s cl { d with io := ⟨none, [], true⟩ }) cl { d with io := ⟨none, [], true⟩ } 0 cebc sweeps))) ∧
  (∀ cl s d cause cebc sweeps, d.stamp % 8 = 0 → d.io.log = [.done 1] → dceStamp s cl d cause cebc sweeps = dceLeave s cl d cebc sweeps) ∧
  (∀ cl s d ds bs cebc sweeps c la pa l e, (clusterAt s cl).dce = d :: ds → d.result = some (0, bs, cebc, sweeps) → d.io.out = none →
    d.io.told = false → engWriteCuts true (putPieces d.dst bs) d.io.log = .fault c la pa l →
    e = { d with result := some (c, [], 0, sweeps), io := EngIo.reset } →
    exec (.dceEnd cl) s = .next (dceStamp (setDce s cl e) cl e c 0 sweeps))

/-! The transform thread and the system forms. -/

/-- R197 to R201: the transform thread. Bit k of a channel is bit k mod 8 of own-LM byte OFF + k div 8; `bsget` and `bspeek` read n bits at POS, `bsput` writes
them, `bsskip` and `bsalign` move POS, `bslut` decodes one code, `bsbind` binds and unbinds; widths, unbound channels and positions out of range trap
0x0B; `crc32c` and `hash64` compute; `tfwake` waits for work in the rings that it names. -/
def Obligations.TransformForms : Prop :=
  (∀ s off pos n v, bitsAt s off pos n = .ok v → ∀ j, j < n → v.testBit j =
    (memByte s (lmKey (coreOf s.cur) (off + (pos + j) / 8))).getLsbD ((pos + j) % 8)) ∧
  (∀ s off pos n v u, putBits s off pos n v = .ok u → ∀ k, (memByte u (lmKey (coreOf s.cur) (off + k / 8))).getLsbD (k % 8) =
    if pos ≤ k ∧ k < pos + n then v.testBit (k - pos) else (memByte s (lmKey (coreOf s.cur) (off + k / 8))).getLsbD (k % 8)) ∧
  (∀ d a t s va y, Reads s [a] (some d) [va] y →
    (64 < va.toNat → exec (.bsget d a t) s = traps s 0x0B va ∧ exec (.bspeek d a t) s = traps s 0x0B va) ∧
    (va.toNat ≤ 64 → y.chV 0 = false →
      exec (.bsget d a t) s = traps s 0x0B 0xFFFFFFFFFFFFFFFF#64 ∧ exec (.bspeek d a t) s = traps s 0x0B 0xFFFFFFFFFFFFFFFF#64) ∧
    (va.toNat ≤ 64 → y.chV 0 = true → ¬ chRoom y 0 va.toNat →
      exec (.bsget d a t) s = traps s 0x0B (nw (y.chPos 0)) ∧ exec (.bspeek d a t) s = traps s 0x0B (nw (y.chPos 0))) ∧
    (∀ v, va.toNat ≤ 64 → y.chV 0 = true → chRoom y 0 va.toNat → bitsAt (popped s y) (y.chOff 0) (y.chPos 0) va.toNat = .ok v →
      exec (.bsget d a t) s = completes s (modSlot (popped s y) s.cur fun x =>
        ((x.takeIf t a.toNat).setPos 0 (y.chPos 0 + va.toNat)).writeDst d.toNat (nw v)) ∧
      exec (.bspeek d a t) s = completes s (modSlot (popped s y) s.cur fun x =>
        ((x.takeIf t a.toNat).setPos 0 (y.chPos 0)).writeDst d.toNat (nw v)))) ∧
  (∀ a b t s va vb y, Reads s [a, b] none [va, vb] y →
    (64 < vb.toNat → exec (.bsput a b t) s = traps s 0x0B vb) ∧
    (vb.toNat ≤ 64 → y.chV 1 = false → exec (.bsput a b t) s = traps s 0x0B 0xFFFFFFFFFFFFFFFF#64) ∧
    (vb.toNat ≤ 64 → y.chV 1 = true → ¬ chRoom y 1 vb.toNat → exec (.bsput a b t) s = traps s 0x0B (nw (y.chPos 1))) ∧
    (∀ u, vb.toNat ≤ 64 → y.chV 1 = true → chRoom y 1 vb.toNat →
      putBits (popped s y) (y.chOff 1) (y.chPos 1) vb.toNat va.toNat = .ok u → slotAt u s.cur = y →
      exec (.bsput a b t) s = completes s (modSlot u s.cur fun x => (x.takeIf t a.toNat).setPos 1 (y.chPos 1 + vb.toNat)))) ∧
  (∀ a b t s va vb y c, Reads s [a, b] none [va, vb] y → c = vb.toNat % 2 →
    (y.chV c = false → exec (.bsskip a b t) s = traps s 0x0B 0xFFFFFFFFFFFFFFFF#64) ∧
    (y.chV c = true → chRoom y c va.toNat → exec (.bsskip a b t) s = completes s (modSlot (popped s y) s.cur fun x =>
      (x.takeIf t a.toNat).setPos c (y.chPos c + va.toNat))) ∧
    (y.chV c = true → ¬ chRoom y c va.toNat → exec (.bsskip a b t) s = traps s 0x0B (nw (y.chPos c)))) ∧
  (∀ d a t s va y, Reads s [a] (some d) [va] y → y.chV (va.toNat % 2) = false →
    exec (.bsalign d a t) s = traps s 0x0B 0xFFFFFFFFFFFFFFFF#64) ∧
  (∀ d a t s va y, Reads s [a] (some d) [va] y → va.getLsbD 0 = false → y.chV 0 = true →
    exec (.bsalign d a t) s = completes s (modSlot (popped s y) s.cur fun x =>
      ((x.takeIf t a.toNat).setPos 0 (8 * ((y.chPos 0 + 7) / 8))).writeDst d.toNat (nw ((y.chPos 0 + 7) / 8)))) ∧
  (∀ d a t s va y u, Reads s [a] (some d) [va] y → va.getLsbD 0 = true → y.chV 1 = true → slotAt u s.cur = y →
    putBits (popped s y) (y.chOff 1) (y.chPos 1) (8 * ((y.chPos 1 + 7) / 8) - y.chPos 1) 0 = .ok u →
    exec (.bsalign d a t) s = completes s (modSlot u s.cur fun x =>
      ((x.takeIf t a.toNat).setPos 1 (8 * ((y.chPos 1 + 7) / 8))).writeDst d.toNat (nw ((y.chPos 1 + 7) / 8)))) ∧
  (∀ d a b t s va vb y tab i m bs, Reads s [a, b] (some d) [va, vb] y → 1 ≤ vb.toNat % 16 → vb.toNat % 16 ≤ 12 → y.chV 0 = true →
    ownPtr (popped s y) va (4 * 2 ^ (vb.toNat % 16)) 4 needR = .ok tab → m = Nat.min (vb.toNat % 16) (8 * y.chLen 0 - y.chPos 0) →
    bitsAt (popped s y) (y.chOff 0) (y.chPos 0) m = .ok i → ownBytes (popped s y) (coreOf s.cur) (tab + 4 * i) 4 = .ok bs →
    (1 ≤ leNat bs % 32 → leNat bs % 32 ≤ m → exec (.bslut d a b t) s = completes s (modSlot (popped s y) s.cur fun x =>
      ((x.takeIf t a.toNat).setPos 0 (y.chPos 0 + leNat bs % 32)).writeDst d.toNat (nw (leNat bs)))) ∧
    (leNat bs % 32 = 0 ∨ m < leNat bs % 32 →
      exec (.bslut d a b t) s = completes s (wrote (popped s y) d a t (nw (2 ^ 63 + leNat bs))))) ∧
  (∀ d a b t s va vb y, Reads s [a, b] (some d) [va, vb] y →
    ((vb.toNat % 16 = 0 ∨ 12 < vb.toNat % 16) → exec (.bslut d a b t) s = traps s 0x0B (nw (vb.toNat % 16))) ∧
    (1 ≤ vb.toNat % 16 → vb.toNat % 16 ≤ 12 →
      (∀ c v, ownPtr (popped s y) va (4 * 2 ^ (vb.toNat % 16)) 4 needR = .error (c, v) → exec (.bslut d a b t) s = traps s c v) ∧
      (∀ tab, ownPtr (popped s y) va (4 * 2 ^ (vb.toNat % 16)) 4 needR = .ok tab → y.chV 0 = false →
        exec (.bslut d a b t) s = traps s 0x0B 0xFFFFFFFFFFFFFFFF#64))) ∧
  (∀ a b t s va vb y c, Reads s [a, b] none [va, vb] y → c = vb.toNat / 2 ^ 63 →
    (vb.toNat % 2 ^ 40 = 0 → exec (.bsbind a b t) s = completes s (modSlot (popped s y) s.cur fun x =>
      (x.takeIf t a.toNat).setCreg (0x010 + 2 * c) (setB (x.creg (0x010 + 2 * c)) 63 false))) ∧
    (∀ k v, vb.toNat % 2 ^ 40 ≠ 0 → ownPtr (popped s y) va (vb.toNat % 2 ^ 40) 1 (if c = 0 then needR else needW) = .error (k, v) →
      exec (.bsbind a b t) s = traps s k v) ∧
    (∀ off, vb.toNat % 2 ^ 40 ≠ 0 → ownPtr (popped s y) va (vb.toNat % 2 ^ 40) 1 (if c = 0 then needR else needW) = .ok off →
      exec (.bsbind a b t) s = completes s (modSlot (popped s y) s.cur fun x =>
        ((x.takeIf t a.toNat).setCreg (0x010 + 2 * c) (nw (2 ^ 63 + vb.toNat % 2 ^ 40 * 2 ^ 20 + off))).setPos c 0))) ∧
  RowTwo 0x52#7 0#9 .crc32c crcWord ∧ RowTwo 0x52#7 1#9 .hash64 hashWord ∧
  (∀ d a b t s va vb y c, Reads s [a, b] (some d) [va, vb] y → c = coreAt s (coreOf s.cur) → va.toNat % 256 ≠ 0 →
    (∀ q, q < 8 → va.getLsbD q = true → (ringAt c q).v = true) →
    (ringMask c (va.toNat % 256) (Nat.max (vb.toNat % 2 ^ 16) 1) ≠ 0 → exec (.tfwake d a b t) s = completes s (wrote
      (modSlot (popped s y) s.cur fun x => x.setCreg 0x014 (nw (Nat.max (vb.toNat % 2 ^ 16) 1 * 2 ^ 16 + va.toNat % 256))) d a t
      (nw (ringMask c (va.toNat % 256) (Nat.max (vb.toNat % 2 ^ 16) 1))))) ∧
    (ringMask c (va.toNat % 256) (Nat.max (vb.toNat % 2 ^ 16) 1) = 0 → ∃ u, exec (.tfwake d a b t) s = .next u ∧ u.mark = .parked ∧
      (slotAt u s.cur).pc = (slotAt s s.cur).pc)) ∧
  (∀ d a b t s va vb y, Reads s [a, b] (some d) [va, vb] y → va.toNat % 256 = 0 → exec (.tfwake d a b t) s = traps s 0x32 0#64)

/-- R134, R282 to R284, R330, R334, R337, R339 and R345: the system forms, turns and deadlines. `sys` traps 0x09 with its operand, `brk` traps 0x08
or, with BRKH, stops the slot; `halt` stops it behind the instruction; `cget` and `cput` read and write a register of the own units; `segld` and
`segst` move a segment; `dbghalt` and `dbgresume` stop and resume slots of a core. A slot has its turn once in each lap: an event of the service
slot comes before an evaluation. Which causes count as asynchronous (log entry 56) and which slots take no turn (57) are read from the manual; that
a control register shows the model's fields when it is read is the model's choice (73). -/
def Obligations.SystemForms : Prop :=
  (∀ a t s va y, Reads s [a] none [va] y → exec (.sys a t) s = traps s 0x09 va) ∧
  (∀ s, (((coreAt s (coreOf s.cur)).creg 0x1C2).getLsbD 0 = false → exec .brk s = traps s 0x08 (slotAt s s.cur).pc) ∧
    (((coreAt s (coreOf s.cur)).creg 0x1C2).getLsbD 0 = true → ∃ u, exec .brk s = .next u ∧ (slotAt u s.cur).st = .stopped ∧
      (slotAt u s.cur).brks = true ∧ (slotAt u s.cur).pc = (slotAt s s.cur).pc)) ∧
  (∀ s, (releaseHolds s s.cur = false → exec .halt s = completes s (modSlot s s.cur fun x => { x with st := .stopped, hlts := true })) ∧
    (releaseHolds s s.cur = true → exec .halt s = parks s s)) ∧
  (∀ d n s y, Reads s [] (some d) [] y →
    (n.toNat < 0x200 → exec (.cget d n) s = completes s (modSlot (afterRead (popped s y) (ownUnit s.cur n.toNat) n.toNat) s.cur fun x =>
      x.writeDst d.toNat (readReg s (ownUnit s.cur n.toNat) n.toNat))) ∧
    (0x200 ≤ n.toNat → Has y [] →
      Asks s (.cget d n) (ctlAgent (ownBlk (popped s y) n.toNat) n.toNat) (.ctlAccess false (ownBlk (popped s y) n.toNat) n.toNat 0#64) 8) ∧
    (∀ v vs, 0x200 ≤ n.toNat → Answered y (v :: vs) → exec (.cget d n) s = completes s (wrote (popped s y) d 0#5 false v))) ∧
  (∀ a t n s va y, Reads s [a] none [va] y →
    (n.toNat < 0x200 → exec (.cput a t n) s = completes s (writeReg (took (popped s y) a t) (ownUnit s.cur n.toNat) n.toNat va)) ∧
    (0x200 ≤ n.toNat → Has y [] →
      Asks s (.cput a t n) (ctlAgent (ownBlk (popped s y) n.toNat) n.toNat) (.ctlPut (ownBlk (popped s y) n.toNat) n.toNat va) 0) ∧
    (∀ v vs, 0x200 ≤ n.toNat → Answered y (v :: vs) → exec (.cput a t n) s = completes s (took (popped s y) a t))) ∧
  (∀ s k n, 0x080 ≤ n → n ≤ 0x08B → readReg s k n = (slotAt s k).creg n) ∧
  (∀ s k, readReg s k 0x001 = (slotAt s k).pc &&& 0x3FFFFFFFFFC#64 ∧ (∀ r, r < 32 → (readReg s k 0x002).getLsbD r = (slotAt s k).isFull r) ∧
    (readReg s k 0x003).toNat = (slotAt s k).pois.toNat) ∧
  (∀ n old v, regW1C n = 0#64 → regMerge n old v = (old &&& ~~~(regMask n)) ||| (v &&& regMask n)) ∧
  (∀ g a t sg o s va y la pa acc off bs ws, Reads s [a] none [va] y → y.barEHolds = false → Has y ws → AtAddr (popped s y) sg va o 16 needR la pa acc →
    ownLm (popped s y) (coreOf s.cur) pa = .own off → firstBad s (lmKey (coreOf s.cur) off) 16 = none →
    bs = memBytes s (lmKey (coreOf s.cur) off) 16 → exec (.segld g a t sg o) s = completes s (modSlot (popped s y) s.cur fun x =>
      (x.takeIf t a.toNat).setSeg g.toNat (leWord (bs.take 8)) (leWord (bs.drop 8)))) ∧
  (∀ g a t sg o s va y la pa acc off, Reads s [a] none [va] y → AtAddr (popped s y) sg va o 16 needW la pa acc →
    ownLm (popped s y) (coreOf s.cur) pa = .own off → isCtl s pa = false → isHost s pa = false →
    partialBad s (lmKey (coreOf s.cur) off) 16 = false →
    exec (.segst g a t sg o) s = completes s (took
      (wroteOwn s (popped s y) off (wordLE 8 (y.segLo g.toNat) ++ wordLE 8 (y.segHi g.toNat))) a t)) ∧
  (∀ d a b t s va vb y core agent, Reads s [a, b] (some d) [va, vb] y → dbgTarget (popped s y) va = some (core, agent) →
    AsksUnit s (.dbghalt d a b t) y agent .dbghalt [va, vb] (fun v => completes s (wrote (popped s y) d a t v)) ∧
    AsksUnit s (.dbgresume d a b t) y agent .dbgresume [va, vb] (fun v => completes s (wrote (popped s y) d a t v))) ∧
  (∀ d a b t s va vb y, Reads s [a, b] (some d) [va, vb] y → dbgTarget (popped s y) va = none →
    exec (.dbghalt d a b t) s = traps s 0x10 va ∧ exec (.dbgresume d a b t) s = traps s 0x10 va) ∧
  (∀ i s m va vb core agent z ks, z = dropMsg s i → dbgTarget z va = some (core, agent) → ks = dbgSlots core (vb.toNat % 2 ^ 16) m.who →
    (UnitAt s i m .dbghalt [va, vb] → exec (.loadRequest i) s =
      unitAnswers (ks.foldl (fun s k => modSlot s k Slot.debugStop) z) m (slotBits z core Slot.dbgs)) ∧
    (∀ js, js = ks.filter (fun k => (slotAt z k).dbgs || (slotAt z k).brks || (slotAt z k).hlts) →
      UnitAt s i m .dbgresume [va, vb] → exec (.loadRequest i) s =
        unitAnswers (js.foldl (fun s k => modSlot s k Slot.resume) z) m (js.map fun k => 2 ^ slotNo k).sum)) ∧
  (∀ core mask by_ k, k ∈ dbgSlots core mask by_ ↔ ∃ n, n < 16 ∧ (mask = 0 ∨ mask.testBit n = true) ∧ k = slotOf core n ∧ k ≠ by_) ∧
  (∀ x : Slot, x.sws = false → x.debugStop = { x with st := .stopped, dbgs := true } ∧
    x.resume = { x with dbgs := false, brks := false, hlts := false, st := .ready }) ∧
  (∀ k s x cyc z, slotAt s k = x → cyc = clusterCycle s (clusterOf (coreOf k)) → cyc % 16 = slotNo k → x.lastTurn ≠ cyc + 1 →
    s.turnsTo ≤ s.time → coreRetired s (coreOf k) = false → x.st ≠ .stopped → x.sws = false → x.baton = none → s.modul.hu = .idle →
    z = modSlot s k (fun x => { x with lastTurn := cyc + 1 }) →
    (∀ id, x.cancel = some id → exec (.slotTurn k none) s = .next (trapEntry (modSlot z k fun y =>
      { y.setCreg 0x005 (y.creg 0x005 + 1#64) with cancel := none, unit := y.unit.map fun u => { u with told := Nat.lor u.told (u.levels id) } }) k
        0x3A (nw id) (if x.st = .waiting then 0#64 else x.pc) false)) ∧
    (x.cancel = none →
      (takesEvent s k = false → x.st ≠ .waiting → followsLeader s k = false →
        ((∀ j ∈ k :: followers s k, (slotAt s j).skip = 0) → exec (.slotTurn k none) s = .next { z with cur := k, turn := true }) ∧
        ((∃ j ∈ k :: followers s k, 0 < (slotAt s j).skip) → exec (.slotTurn k none) s =
          .next ((k :: followers s k).foldl (fun s j => modSlot s j fun x => { x with skip := x.skip - 1 }) z))) ∧
      (takesEvent s k = false → (x.st = .waiting ∨ (followsLeader s k = true ∧ (leaderAway s k = false ∨ x.skip = 0))) →
        exec (.slotTurn k none) s = .next z) ∧
      (∀ c v rest, takesEvent s k = true → (coreAt s (coreOf k)).evq = (c, v) :: rest → exec (.slotTurn k none) s =
        .next (trapEntry (modCore (modSlot z k fun y => y.setCreg 0x005 (y.creg 0x005 + 1#64)) (coreOf k) fun y => { y with evq := rest }) k c v
          (if x.st = .waiting then 0#64 else x.pc) true)))) ∧
  (∀ k s n, (slotAt s k).deadline = some n → n ≤ tickOf s → exec (.timebaseDeadline k) s = .next (wake s k))

/-! The shared cache, translation and migration. -/

/-- R77, R78, R80, R86, R90 to R94: snapshots and maintenance of the shared cache. A form asks the anchor tower of its range, or all eight towers,
and gives the answer; the anchor refuses with 0x1D and 0x1C, records an operation in its copy and forwards it to the seven others; a query answers
the level, the pending work and the shadows; the sweep resolves a line; a span walk writes back or drops; a fill installs a line. The order of
checks of the forms (log entry 42) and of a span walk (43) is read from the manual; the victim of a fill and the form of a written-back pair (52),
the place of a shadow in the pool (76), the C bit of a restored line (78), PEAK after a clear (94) and the bank that a repair holds (18) are the
model's choices. -/
def Obligations.SnapshotsAndMaintenance : Prop :=
  (∀ d a t s va y, Reads s [a] (some d) [va] y → va.toNat ≤ 15 →
    (y.trip = none → storesAndLoadsOut (popped s y) s.cur = false →
      AsksTrip s (.snap d a t) (.tower (va.toNat / 2)) (.snapOp .snap va.toNat (decide (y.mode = .user)) y.asid false) ∧
      AsksTrip s (.accept d a t) (.tower (va.toNat / 2)) (.snapOp .accept va.toNat (decide (y.mode = .user)) y.asid false) ∧
      AsksTrip s (.reject d a t) (.tower (va.toNat / 2)) (.snapOp .reject va.toNat (decide (y.mode = .user)) y.asid false)) ∧
    (y.trip = none → AsksTrip s (.snapq d a t) (.tower (va.toNat / 2)) (.snapQuery va.toNat (decide (y.mode = .user)) y.asid)) ∧
    (∀ ws, Answered y ws → exec (.snap d a t) s = completes s (wrote (popped s y) d a t (val ws 0)) ∧
      exec (.accept d a t) s = completes s (wrote (popped s y) d a t (val ws 0)) ∧
      exec (.reject d a t) s = completes s (wrote (popped s y) d a t (val ws 0)) ∧
      exec (.snapq d a t) s = completes s (wrote (popped s y) d a t (val ws 0)))) ∧
  (∀ d a t s va y, Reads s [a] (some d) [va] y → y.trip = none →
    (15 < va.toNat → exec (.snapq d a t) s = traps s 0x1D va) ∧
    (15 < va.toNat → storesAndLoadsOut (popped s y) s.cur = false → exec (.snap d a t) s = traps s 0x1D va ∧
      exec (.accept d a t) s = traps s 0x1D va ∧ exec (.reject d a t) s = traps s 0x1D va) ∧
    (storesAndLoadsOut (popped s y) s.cur = true → exec (.snap d a t) s = waits s y ∧
      exec (.accept d a t) s = waits s y ∧ exec (.reject d a t) s = waits s y)) ∧
  (∀ i s m op n user asid tw cfg, arrives s i = some m → m.body = .snapOp op n user asid false → m.dst = .tower tw →
    (towerAt s tw).wrote ≠ s.time + 1 → cfg = (towerAt s tw).creg (0x360 + n) →
    ((cfg.getLsbD 31 = false ∨ (user = true ∧ cfg.toNat % 2 ^ 12 ≠ asid)) →
      exec (.snapRecord i) s = .next (refusedBack (dropMsg s i) m 0x1D (nw n))) ∧
    (cfg.getLsbD 31 = true → (user = false ∨ cfg.toNat % 2 ^ 12 = asid) →
      ((op = .snap ∧ cfg.toNat / 2 ^ 16 % 2 ^ 3 = 4) ∨ (op ≠ .snap ∧ cfg.toNat / 2 ^ 16 % 2 ^ 3 = 0)) →
      exec (.snapRecord i) s = .next (refusedBack (dropMsg s i) m 0x1C (nw n))) ∧
    (cfg.getLsbD 31 = true → (user = false ∨ cfg.toNat % 2 ^ 12 = asid) → op = .snap → cfg.toNat / 2 ^ 16 % 2 ^ 3 < 4 →
      ∃ u, exec (.snapRecord i) s = .next u ∧ ((towerAt u tw).creg (0x360 + n)).toNat / 2 ^ 16 % 2 ^ 3 = cfg.toNat / 2 ^ 16 % 2 ^ 3 + 1 ∧
        ∀ w, w < 8 → w ≠ tw → ⟨.tower tw, .tower w, m.tag, m.who, m.ph, .snapOp op n user asid true⟩ ∈ u.net)) ∧
  (∀ i s m op n user asid tw, arrives s i = some m → m.body = .snapOp op n user asid true → m.dst = .tower tw →
    (towerAt s tw).wrote ≠ s.time + 1 → ((towerAt s tw).creg (0x360 + n)).getLsbD 31 = true →
    exec (.snapRecord i) s = .next (answered (recordOp (dropMsg s i) tw n op) m [])) ∧
  (∀ i s m n user asid tw cfg, arrives s i = some m → m.body = .snapQuery n user asid → m.dst = .tower tw → cfg = (towerAt s tw).creg (0x360 + n) →
    cfg.getLsbD 31 = true → (user = false ∨ cfg.toNat % 2 ^ 12 = asid) → exec (.snapqQuery i) s = .next (answered (dropMsg s i) m
      [nw (((rangeFrom 0 8).map fun u => ((towerAt s u).shadows.filter fun h => decide (h.rng = n)).length).sum % 2 ^ 32 * 2 ^ 16 +
        ((rangeFrom 0 8).any fun u => rangePend (towerAt s u) n).toNat * 2 ^ 4 + 2 ^ 3 + cfg.toNat / 2 ^ 16 % 2 ^ 3)])) ∧
  (∀ line s, ((towerAt s (lineTower line)).creg 0x373).toNat % 2 ^ 16 ≠ 0 →
    ((towerAt s (lineTower line)).pend.any fun o => o.lines.contains line) = true →
    exec (.snapSweep line) s = .next (resolveLine s (lineTower line) line)) ∧
  (∀ d a b t s va vb y, Reads s [a, b] (some d) [va, vb] y →
    (spanOf (popped s y) va vb = none → exec (.scwb d a b t) s = completes s (wrote (popped s y) d a t 1#64) ∧
      exec (.scinv d a b t) s = completes s (wrote (popped s y) d a t 1#64)) ∧
    (∀ line n ws, spanOf (popped s y) va vb = some (line, n) → Answered y ws → exec (.scwb d a b t) s = completes s (wrote (popped s y) d a t 0#64) ∧
      exec (.scinv d a b t) s = completes s (wrote (popped s y) d a t 0#64)) ∧
    (∀ line n w, spanOf (popped s y) va vb = some (line, n) → y.trip = none → w < 8 → ∃ u v m, exec (.scwb d a b t) s = .next u ∧
      exec (.scinv d a b t) s = .next v ∧ u.mark = .parked ∧ v.mark = .parked ∧ m ∈ (coreAt u (coreOf s.cur)).ni ∧ m.dst = .tower w ∧
      m.body = .spanWalk false false line n ∧ ∃ p ∈ (coreAt v (coreOf s.cur)).ni, p.dst = .tower w ∧ p.body = .spanWalk true (vb.getLsbD 63) line n)) ∧
  (∀ d a b t s va vb y ws, Reads s [a, b] (some d) [va, vb] y →
    (vb.getLsbD 63 = false → vb.toNat % 256 = 255 → exec (.scdom d a b t) s = completes s (wrote (popped s y) d a t 0xFFFFFFFFFFFFFFFF#64)) ∧
    ((vb.getLsbD 63 = true ∨ vb.toNat % 256 ≠ 255) → Answered y ws →
      exec (.scdom d a b t) s = completes s (wrote (popped s y) d a t (val ws 0)))) ∧
  (∀ i s m inv noWb line n tw, arrives s i = some m → m.body = .spanWalk inv noWb line n → m.dst = .tower tw →
    (spanHeld s tw line n = false → exec (.scSpanWalk i) s = .next (answered (walkSpan (dropMsg s i) tw inv noWb line n) m [])) ∧
    (spanHeld s tw line n = true → exec (.scSpanWalk i) s = .next s)) ∧
  (∀ i s m asid tw, arrives s i = some m → m.dst = .tower tw →
    (m.body = .domUpdate asid none →
      exec (.scdomUpdate i) s = .next (answered (dropMsg s i) m [nw (SMap.get (fun _ => 0) (towerAt s tw).doms asid)])) ∧
    (∀ v, m.body = .domUpdate asid (some v) → exec (.scdomUpdate i) s = .next (answered
      (modTower (dropMsg s i) tw fun w => { w with doms := SMap.set (fun _ => 0) w.doms asid v }) m
      [nw (SMap.get (fun _ => 0) (towerAt s tw).doms asid)]))) ∧
  (∀ line s acc, bankHeld s line = false → SMap.get (fun _ => none) (towerAt s (lineTower line)).fills line = some acc →
    exec (.scFillComplete line none) s = .next (fillLine (makeRoom s line) line acc)) ∧
  (∀ s line acc, tagAt (towerAt s (lineTower line)) line = none → ((towerAt s (lineTower line)).creg 0x300).getLsbD 0 = false →
    ∃ g, tagAt (towerAt (fillLine s line acc) (lineTower line)) line = some g ∧ g.dirty = false ∧ g.pois = memPois s line ∧
      (entryAt (towerAt (fillLine s line acc) (lineTower line)) g.ptr).bytes = memBytes s (64 * line) 64) ∧
  (∀ pa s, exec (.scrubPatrol pa 0) s = .next s ∧ ((s.modul.creg 0x448).toNat % 2 ^ 16 ≠ 0 →
    exec (.scrubPatrol pa 1) s = .next (modModul s fun m => m.setCreg 0x448 (addF (m.creg 0x448) 32 32 1))))

/-- R57 to R64 and R69 to R72: translation and migration. A walk that finds a leaf adds a TLB entry and wakes the slot; one that fails or meets
poison gives the slot its cause; MIG = 2 reads the leaf again; `tlbfa` asks its ports, each of which discards and acknowledges once its accesses
have drained; `tlbinv` queues a ranged invalidate; `pmig` and `pmigsw` answer their statuses, and the old home copies a line at a time. Which entry
a full TLB gives up (log entry 79), status 4's overlaps (80), the key of a migration (81), what a failed walk answers (82), the answer 1 when the
leaf's home refuses its update (89), and what a copy leaves out and the C bit that it carries (90, 91), and the C bit of an untranslated write (92)
are the model's choices. -/
def Obligations.TranslationAndMigration : Prop :=
  (∀ cl i s w, (clusterAt s cl).walks[i]? = some w → w.leaf = none → w.res = none →
    (∀ u p, walkNext s cl w = .next u p → exec (.pageWalk cl i) s = .next (setWalk u cl i { w with next := some p })) ∧
    (∀ u pa lvl e k, walkNext s cl w = .ended u (.leaf pa lvl e) → w.who = .slot k →
      (pteMig e ≠ 2 → exec (.pageWalk cl i) s =
        .next (wake (modCluster (dropWalk u cl i) cl fun c => tlbInsert c (leafEntry u w.asid w.la lvl e)) k)) ∧
      (pteMig e = 2 → exec (.pageWalk cl i) s = .next (setWalk u cl i { w with leaf := some (pa, lvl) }))) ∧
    (∀ u pa lvl e k, walkNext s cl w = .ended u (.leaf pa lvl e) → w.who = .page k →
      exec (.pageWalk cl i) s = .next (wake (setWalk u cl i { w with res := some (.leaf pa lvl e) }) k)) ∧
    (∀ u k, walkNext s cl w = .ended u .fail → w.who = .slot k → (slotAt u k).st = .parked → (slotAt u k).asid = w.asid →
      ∃ v, exec (.pageWalk cl i) s = .next v ∧
        (slotAt v k).wfault = some (w.la, walkCause (clusterAt u cl) w.asid, nw w.la) ∧ (slotAt v k).st = .ready ∧
        (clusterAt v cl).creg 0x252 = addF ((clusterAt u cl).creg 0x252) 32 32 1) ∧
    (∀ u k c, walkNext s cl w = .ended u (.poison c) → w.who = .slot k → (slotAt u k).st = .parked → (slotAt u k).asid = w.asid →
      ∃ v, exec (.pageWalk cl i) s = .next v ∧ (slotAt v k).wfault = some (w.la, c, nw w.la) ∧ (slotAt v k).st = .ready)) ∧
  (∀ s cl w pinned root pa u bs, asEntry (clusterAt s cl) w.asid = some (pinned, root) → w.next = none → pa = root + 8 * (w.la / 2 ^ 39 % 4) →
    populatedAt s pa = true → homeRead s pa 8 Acc.direct = .ok u bs → ∀ table, checkPte u pinned 3 (leWord bs) = .table table →
    walkNext s cl w = .next u (2, table)) ∧
  (∀ c asid root, (asEntry c asid = some (false, root) → walkCause c asid = 0x13) ∧ (asEntry c asid = some (true, root) → walkCause c asid = 0x14) ∧
    (asEntry c asid = none → walkCause c asid = 0x14)) ∧
  (∀ cl i s w pa lvl u bs k, (clusterAt s cl).walks[i]? = some w → w.leaf = some (pa, lvl) → homeRead s pa 8 Acc.direct = .ok u bs →
    w.who = .slot k → checkPte u (((asEntry (clusterAt s cl) w.asid).map Prod.fst).getD true) lvl (leWord bs) = .leaf →
    pteMig (leWord bs) ≠ 2 → exec (.walkMigReread cl i) s =
      .next (wake (modCluster (dropWalk u cl i) cl fun c => tlbInsert c (leafEntry u w.asid w.la lvl (leWord bs))) k)) ∧
  (∀ a b t s va vb y, Reads s [a, b] none [va, vb] y →
    (y.trip = none → journalEmpty s s.cur = true → vb.toNat % 4 = 0 → AsksTrip s (.tlbfa a b t) (.memPort (myCl s))
      (.tlbDiscard (if va.getLsbD 12 then none else some (va.toNat % 2 ^ 12)))) ∧
    (∀ ws, Answered y ws → exec (.tlbfa a b t) s = completes s (took (popped s y) a t))) ∧
  (∀ i s m asid cl u, arrives s i = some m → m.body = .tlbDiscard (some asid) → m.dst = .memPort cl → u = (modCluster s cl fun c =>
      { c with tlb := c.tlb.filter (fun e => decide (e.asid ≠ asid)),
               walks := c.walks.map fun w => if w.asid = asid ∧ w.res = none then { w with next := none, leaf := none } else w }) →
    (drained u cl (some asid) [(0, 2 ^ 56)] = true → exec (.tlbfaPortDiscard i) s = .next (answered (dropMsg u i) m [])) ∧
    (drained u cl (some asid) [(0, 2 ^ 56)] = false → exec (.tlbfaPortDiscard i) s = .next u)) ∧
  (∀ d a b t s va vb y seq, Reads s [a, b] (some d) [va, vb] y → seq = ((myCluster s).creg 0x251).toNat % 2 ^ 16 →
    (((myCluster s).creg 0x250).getLsbD 0 = true → (myCluster s).tlbq.length < 8 → exec (.tlbinv d a b t) s = completes s (wrote
      (modCluster (popped s y) (myCl s) fun c => { c.setCreg 0x251 (addF (c.creg 0x251) 0 16 1) with tlbq := c.tlbq ++
        [⟨seq, va.toNat / 2 ^ 52, va.toNat / 2 ^ 16 % 2 ^ 25, Nat.max 1 ((vb.toNat % 2 ^ 41 + 65535) / 65536), vb.toNat / 2 ^ 62, []⟩] })
      d a t (nw seq))) ∧
    (((myCluster s).creg 0x250).getLsbD 0 = false → exec (.tlbinv d a b t) s = traps s 0x03 (insWord (.tlbinv d a b t)))) ∧
  (∀ cl s q qs u gone, (clusterAt s cl).tlbq = q :: qs → u = (s.clusters.map Prod.fst).foldl (fun s cl => modCluster s cl fun c =>
      { c with tlb := c.tlb.filter fun t => !invHits q t }) s → gone = q.gone ++ invSpans s q →
    (((rangeFrom 0 1280).all fun cl => drained u cl (some q.asid) gone) = true →
      exec (.tlbinvBroadcast cl) s = .next (modCluster u cl fun c => { c.setCreg 0x251 (setF (c.creg 0x251) 16 16 q.seq) with tlbq := qs })) ∧
    (((rangeFrom 0 1280).all fun cl => drained u cl (some q.asid) gone) = false →
      exec (.tlbinvBroadcast cl) s = .next (modCluster u cl fun c => { c with tlbq := { q with gone := gone } :: qs }))) ∧
  (∀ d a b t s va vb y z la asid new, Reads s [a, b] (some d) [va, vb] y → z = popped s y → la = va.toNat % 2 ^ 41 → asid = va.toNat / 2 ^ 52 →
    new = localPa z (vb.toNat % 2 ^ 56) →
    (noWalk z asid la → exec (.pmig d a b t) s = parks s (keptStreams s (modCluster z (myCl s) fun c => c.addWalk (.page s.cur) asid la))) ∧
    (∀ c u, WalkPoisoned z asid la c u → exec (.pmig d a b t) s = .next (trapNow (keptStreams s u) s.cur c (nw la))) ∧
    (∀ u at_, Walked z asid la at_ u →
      (∀ v, pageLeaf u asid la at_ = .none v → v.cur = s.cur → exec (.pmig d a b t) s = completes s (wrote v d a t 1#64)) ∧
      (∀ v c, pageLeaf u asid la at_ = .poison v c → v.cur = s.cur →
        exec (.pmig d a b t) s = .next (trapNow (keptStreams s v) s.cur c (nw la))) ∧
      (∀ v p e size old, pageLeaf u asid la at_ = .leaf v p e size → old = localPa u (pteAddr e) → v.cur = s.cur →
        (pteMig e ≠ 0 → exec (.pmig d a b t) s = completes s (wrote v d a t 2#64)) ∧
        (pteMig e = 0 → bitB e 7 = true → inSnapshot v old size = true → exec (.pmig d a b t) s = completes s (wrote v d a t 6#64)) ∧
        (pteMig e = 0 → (bitB e 7 = false ∨ inSnapshot v old size = false) →
          (newFrameBad v old new size = true → exec (.pmig d a b t) s = completes s (wrote v d a t 4#64)) ∧
          (newFrameBad v old new size = false → 8 ≤ (towerAt v (tierTower old)).migr.length →
            exec (.pmig d a b t) s = completes s (wrote v d a t 3#64)) ∧
          (newFrameBad v old new size = false → (towerAt v (tierTower old)).migr.length < 8 → putPte v p (setF e 57 2 1) = none →
            exec (.pmig d a b t) s = completes s (wrote v d a t 1#64)) ∧
          (∀ x, newFrameBad v old new size = false → (towerAt v (tierTower old)).migr.length < 8 → putPte v p (setF e 57 2 1) = some x →
            x.cur = s.cur → exec (.pmig d a b t) s = completes s (wrote (modTower x (tierTower old) fun w => { w with migr := w.migr ++
              [⟨old, new, size, old / 64, bitB e 5, false, asid, la, none⟩] }) d a t 0#64)))))) ∧
  (∀ tw i s m, (towerAt s tw).migr[i]? = some m → m.switched = false → 64 * m.next < m.old + m.size → bankHeld s m.next = false →
    bankHeld s (copyDst s m m.next) = false →
    exec (.migrationCopy tw i) s = .next (modTower (copyLine s m m.next) tw fun w => { w with migr := w.migr.set i { m with next := m.next + 1 } })) ∧
  (∀ d a b t s va vb y z la asid act, Reads s [a, b] (some d) [va, vb] y → z = popped s y → la = va.toNat % 2 ^ 41 → asid = va.toNat / 2 ^ 52 →
    act = vb.toNat % 4 →
    (act = 3 → exec (.pmigsw d a b t) s = completes s (wrote z d a t 5#64)) ∧
    (act ≠ 3 → migEntry z asid la = none → exec (.pmigsw d a b t) s = completes s (wrote z d a t 1#64)) ∧
    (∀ w i m, migEntry z asid la = some (w, i, m) →
      (act = 1 → m.switched = true → exec (.pmigsw d a b t) s = completes s (wrote (modTower z w fun x =>
        { x with migr := dropAt x.migr i }) d a t 0#64)) ∧
      (act = 1 → m.switched = false → exec (.pmigsw d a b t) s = completes s (wrote z d a t 2#64)) ∧
      (act = 0 ∨ act = 2 → m.switched = true → exec (.pmigsw d a b t) s = completes s (wrote z d a t 2#64)) ∧
      (∀ k, act = 0 ∨ act = 2 → m.by_ = some k → (act = 2 ∨ k ≠ s.cur) → exec (.pmigsw d a b t) s = completes s (wrote z d a t 2#64)) ∧
      (act = 0 → m.switched = false → (m.by_ = none ∨ m.by_ = some s.cur) → 64 * m.next < m.old + m.size →
        exec (.pmigsw d a b t) s = waits s y) ∧
      (∀ u at_, Walked z asid la at_ u → m.switched = false → (act = 2 ∧ m.by_ = none) ∨ (act = 0 ∧ m.old + m.size ≤ 64 * m.next ∧
          (m.by_ = none ∨ m.by_ = some s.cur)) →
        (∀ v, pageLeaf u asid la at_ = .none v → v.cur = s.cur → exec (.pmigsw d a b t) s = completes s (wrote v d a t 1#64)) ∧
        (∀ v c, pageLeaf u asid la at_ = .poison v c → v.cur = s.cur →
          exec (.pmigsw d a b t) s = .next (trapNow (keptStreams s v) s.cur c (nw la))) ∧
        (∀ v p e size, pageLeaf u asid la at_ = .leaf v p e size → v.cur = s.cur → act = 2 → putPte v p (setF e 57 2 0) = none →
          exec (.pmigsw d a b t) s = completes s (wrote v d a t 1#64)) ∧
        (∀ v p e size x, pageLeaf u asid la at_ = .leaf v p e size →
          (act = 2 → putPte v p (setF e 57 2 0) = some x → x.cur = s.cur → exec (.pmigsw d a b t) s = completes s (wrote (modTower x w fun y =>
            { y with migr := dropAt y.migr i }) d a t 0#64)) ∧
          (act = 0 → m.by_ = none → putPte v p (setF e 57 2 2) = some x → exec (.pmigsw d a b t) s =
            parks s (keptStreams s (modTower x w fun y => { y with migr := y.migr.set i { m with by_ := some s.cur } }))) ∧
          (act = 0 → m.by_ = some s.cur → putPte v p (setF (setF e 8 48 (m.new / 256)) 57 2 0) = some x → x.cur = s.cur →
            exec (.pmigsw d a b t) s = completes s (wrote (modTower x w fun y =>
              { y with migr := y.migr.set i { m with switched := true } }) d a t 0#64))))))

/-! Power, hold-up and reliability. -/

/-- R139, R350 to R361, R366 to R372 and R375: `lmpwr`, the VB forms and the forms of the save engine travel to their unit, which performs them when
they arrive and answers (log entry 20); a quarter that becomes ready is zero, with its full bits set and no directory entries; the save engine
admits, removes and shows regions and shows the restart table; the hold-up sequence broadcasts, stops at 50,000 ticks, copies by priority as far as
the energy reaches, and commits (log entries 63 and 64); `vbset` records wires and `vbtest` reports them (log entry 9); a repair ends with RESULT,
one that repaired counts; stores to the reliability registers act (log entry 62). The layout of the plan block that its CRC covers (log entry 103)
and the time at which a quarter becomes ready (54) are the model's choices. -/
def Obligations.PowerHoldupAndReliability : Prop :=
  (∀ d a b t s va vb y z cl lc off, Reads s [a, b] (some d) [va, vb] y → z = popped s y → va.toNat < 2 ^ 56 → placeOf z va.toNat = .lm cl lc off →
    AsksUnit s (.lmpwr d a b t) y (.ni (lcoreKey z cl lc)) .lmpwr [va, vb] fun v => completes s (wrote z d a t v)) ∧
  (∀ d a b t s va vb y, Reads s [a, b] (some d) [va, vb] y →
    (2 ^ 56 ≤ va.toNat ∨ ∀ cl lc off, placeOf (popped s y) va.toNat ≠ .lm cl lc off) → exec (.lmpwr d a b t) s = traps s 0x10 va) ∧
  (∀ i s m core va vb z, UnitAt s i m .lmpwr [va, vb] → m.dst = .ni core → z = dropMsg s i → exec (.loadRequest i) s = .next (servePwr
    (modCore (switchQuarters z core (vb.toNat % 16)) core fun c => { c with pwr := c.pwr ++ [(m, vb.toNat % 16, lmOnMask z core)] }) core)) ∧
  (∀ s core m mask old, (coreAt s core).pwr = [(m, mask, old)] →
    (quartersDue s core mask = true → servePwr s core = s) ∧
    (quartersDue s core mask = false → .next (servePwr s core) = unitAnswers (modCore s core fun c => { c with pwr := [] }) m old)) ∧
  (∀ s core q, (coreAt s core).lmOn.getLsbD q = false → lmDueAt (coreAt s core) q = 0 →
    lmDueAt (coreAt (quarterOn s core q) core) q = s.time + 4096) ∧
  (∀ core q s, lmDueAt (coreAt s core) q ≠ 0 → q ≤ 3 → ∃ u, exec (.lmQuarterReady core q) s = .next u ∧ (coreAt u core).lmOn.getLsbD q = true ∧
    (∀ o, 131072 * q ≤ o → o < 131072 * (q + 1) →
      memByte u (lmKey core o) = 0#8 ∧ feAt u core o = true ∧ dirAt (coreAt u core) (o / 64) = none)) ∧
  (∀ d a t s va y z, Reads s [a] (some d) [va] y → z = popped s y →
    AsksUnit s (.msdel d a t) y modulAgent .msdel [nw (decide (y.mode = .user)).toNat, nw y.asid, va] (fun v => completes s (wrote z d a t v)) ∧
    AsksUnit s (.msqry d a t) y modulAgent .msqry [nw (decide (y.mode = .user)).toNat, nw y.asid, va] (fun v => completes s (wrote z d a t v))) ∧
  (∀ d a b t s va vb y, Reads s [a, b] (some d) [va, vb] y → AsksUnit s (.hustat d a b t) y modulAgent .hustat
    [nw (decide (y.mode = .user)).toNat, nw y.asid, va, vb] fun v => completes s (wrote (popped s y) d a t v)) ∧
  (∀ i s m us as va h user asid z, z = dropMsg s i → h = va.toNat % 2 ^ 10 → user = us.getLsbD 0 → asid = as.toNat % 2 ^ 12 →
    (UnitAt s i m .msdel [us, as, va] →
      (huRuns s = true → exec (.loadRequest i) s = unitAnswers z m 2) ∧
      (huRuns s = false → regionAt s h = none → exec (.loadRequest i) s = unitAnswers z m 1) ∧
      (∀ r, huRuns s = false → regionAt s h = some r → (user = false ∨ r.asid = asid) →
        exec (.loadRequest i) s = unitAnswers (setRegion z h none) m 0) ∧
      (∀ r, huRuns s = false → regionAt s h = some r → user = true → r.asid ≠ asid → exec (.loadRequest i) s = unitAnswers z m 1)) ∧
    (UnitAt s i m .msqry [us, as, va] →
      (∀ r, va.getLsbD 63 = false → regionAt s h = some r → (user = false ∨ r.asid = asid) →
        exec (.loadRequest i) s = unitAnswers z m (2 ^ 63 + regionWord r)) ∧
      (∀ r, va.getLsbD 63 = false → regionAt s h = some r → user = true → r.asid ≠ asid → exec (.loadRequest i) s = unitAnswers z m 0) ∧
      (va.getLsbD 63 = false → regionAt s h = none → exec (.loadRequest i) s = unitAnswers z m 0) ∧
      (∀ q, va.getLsbD 63 = true → q = (if user then asid else va.toNat % 2 ^ 12) →
        exec (.loadRequest i) s = unitAnswers z m (quotaOf s q * 2 ^ 32 + usedBy s q)))) ∧
  (∀ d a b t s va vb y z len u la pa acc la2 pa2 acc2, Reads s [a, b] (some d) [va, vb] y → z = popped s y → len = vb.toNat % 2 ^ 34 → len ≠ 0 →
    len ≤ 2 ^ 33 → u = unitsOf len → ptrAddr z s.cur va 1 needR = .ok la pa acc →
    segAddr z s.cur (ptrSeg va) (nw (ptrOff va + len - 1)) 1 needR = .ok la2 pa2 acc2 → la % 65536 = 0 →
    (notSaved z la pa = false → 0x20000000000 ≤ la ∨ oneFrame z (myCl s) y.asid la pa (la + len) 131074 la = true →
      AsksUnit s (.msadd d a b t) y modulAgent .msadd [nw y.asid, nw pa, nw len, nw (vb.toNat / 2 ^ 50 % 4), nw (vb.toNat / 2 ^ 34 % 2 ^ 16)]
        fun v => completes s (wrote z d a t v)) ∧
    (Has y [] → notSaved z la pa = true → exec (.msadd d a b t) s = traps s 0x71 (nw (5 * 2 ^ 60 + u))) ∧
    (Has y [] → notSaved z la pa = false → la < 0x20000000000 → oneFrame z (myCl s) y.asid la pa (la + len) 131074 la = false →
      exec (.msadd d a b t) s = traps s 0x71 (nw (4 * 2 ^ 60 + u)))) ∧
  (∀ s cl asid la pa hi fuel x, (hi ≤ x → oneFrame s cl asid la pa hi (fuel + 1) x = true) ∧
    (∀ u p lvl e, x < hi → walkAt s cl asid x = (u, .leaf p lvl e) → oneFrame s cl asid la pa hi (fuel + 1) x =
      (e.getLsbD 56 && decide (pteAddr e + x % 2 ^ lvlShift lvl = pa + (x - la)) &&
        oneFrame s cl asid la pa hi fuel (x / 2 ^ lvlShift lvl * 2 ^ lvlShift lvl + 2 ^ lvlShift lvl)))) ∧
  (∀ d a b t s va vb y, Reads s [a, b] (some d) [va, vb] y → Has y [] → (vb.toNat % 2 ^ 34 = 0 ∨ 2 ^ 33 < vb.toNat % 2 ^ 34) →
    exec (.msadd d a b t) s = traps s 0x71 (nw (7 * 2 ^ 60))) ∧
  (∀ i s m asid pa len prio tag u z, UnitAt s i m .msadd [nw asid, nw pa, nw len, nw prio, nw tag] → z = dropMsg s i → asid < 2 ^ 12 → pa < 2 ^ 56 →
    len ≤ 2 ^ 33 → prio < 4 → tag < 2 ^ 16 → u = unitsOf len →
    (∀ r, (r = 6 ∧ huRuns s = true) ∨ (r = 1 ∧ huRuns s = false ∧ quotaOf s asid < usedBy s asid + u) ∨
        (r = 2 ∧ huRuns s = false ∧ usedBy s asid + u ≤ quotaOf s asid ∧ capOf s < usedAll s + u) ∨
        (r = 3 ∧ huRuns s = false ∧ usedBy s asid + u ≤ quotaOf s asid ∧ usedAll s + u ≤ capOf s ∧ ∀ h, h < 1024 → (regionAt s h).isSome = true) →
      exec (.loadRequest i) s = .next (sendMsg z (replyTo m (.loadReply (.poison 0x71 (r * 2 ^ 60 + u)))))) ∧
    (∀ h, huRuns s = false → usedBy s asid + u ≤ quotaOf s asid → usedAll s + u ≤ capOf s → h < 1024 → regionAt s h = none →
      (∀ j, j < h → (regionAt s j).isSome = true) →
      exec (.loadRequest i) s = unitAnswers (setRegion z h (some ⟨asid, prio, tag, pa, len⟩)) m h)) ∧
  (∀ i s m us as va vb h z, UnitAt s i m .hustat [us, as, va, vb] → z = dropMsg s i → h = va.toNat % 2 ^ 10 →
    (vb.toNat / 2 ^ 62 = 3 → exec (.loadRequest i) s = unitAnswers z m s.modul.flash.last) ∧
    (vb.toNat / 2 ^ 62 ≠ 3 → (s.modul.flash.plan.find? fun e => e.handle = h) = none → exec (.loadRequest i) s = unitAnswers z m 0) ∧
    (∀ e, (s.modul.flash.plan.find? fun e => e.handle = h) = some e →
      (vb.toNat / 2 ^ 62 = 0 → exec (.loadRequest i) s = unitAnswers z m (s.modul.flash.stateOf e * 2 ^ 62 +
        regionWord e.region + (s.modul.flash.written h).length % 2 ^ 18)) ∧
      (vb.toNat / 2 ^ 62 = 1 → exec (.loadRequest i) s = unitAnswers z m e.region.start) ∧
      (vb.toNat / 2 ^ 62 = 2 → ∃ n, exec (.loadRequest i) s = unitAnswers z m n ∧
        ∀ j, j < 64 → (s.modul.flash.written h).Nodup → (n.testBit j = true ↔ 64 * (vb.toNat % 2 ^ 11) + j ∈ s.modul.flash.written h)))) ∧
  (∀ s, s.modul.hu = .idle → exec .holdupStart s = .next (shedLinks (shedLight ((s.slots.map Prod.fst).foldl
    (fun s k => modSlot s k fun x => { x with pf := decide (x.st = .stopped) }) (modModul s fun m => { m with hu := .shed, huT0 := tickOf s }))))) ∧
  (∀ s, s.modul.hu = .shed → s.modul.huT0 + 50000 ≤ tickOf s → ∃ u, exec .holdupStop s = .next u ∧ u.modul.hu = .drain ∧
    ∀ k ∈ s.slots.map Prod.fst, (slotAt u k).st ≠ .ready ∧ (slotAt u k).st ≠ .parked) ∧
  (∀ s, s.modul.hu = .drain → s.modul.huT0 + 60000 ≤ tickOf s → drainedAll s = true → ∃ u, exec .holdupCopy s = .next u ∧ u.modul.hu = .copy ∧
    u.modul.plan = payFor (capOf s) (planOf s) ∧ u.modul.flash =
      ⟨(s.modul.flash.epoch + 1) % 2 ^ 32, planOf s, crc32 (planBytes ((s.modul.flash.epoch + 1) % 2 ^ 32) (planOf s)), [], none⟩) ∧
  (∀ s h i rest e bs, s.modul.hu = .copy → s.modul.plan = (h, i) :: rest → (s.modul.flash.plan.find? fun e => e.handle = h) = some e →
    saveBytes s (e.region.start + 65536 * i) (Nat.min 65536 (e.region.len - 65536 * i)) = some bs →
    exec (.saveChunkWrite true) s = .next (modModul s fun m => { m with plan := rest, flash := { m.flash with
      chunks := m.flash.chunks ++ [chunkOf m.flash.epoch h i bs] } }) ∧
    exec (.saveChunkWrite false) s = .next (modModul s fun m => { m with plan := rest })) ∧
  (∀ s, s.modul.hu = .copy → s.modul.plan = [] → exec .holdupCommit s = .next (modModul s fun m =>
    { m with hu := .committed, off := true, flash := { m.flash with commit := some (m.flash.epoch, m.flash.crc) } })) ∧
  (∀ r s, s.modul.measAt + 2 ^ 30 ≤ tickOf s → ∃ u, exec (.holdupReserveMeasure r) s = .next u ∧
    (u.modul.creg 0x401).toNat / 2 ^ 48 = r % 2 ^ 16 ∧ u.modul.measAt = tickOf s) ∧
  (∀ d a b t s va vb y core, Reads s [a, b] (some d) [va, vb] y → va.toNat / 2 ^ 32 % 2 ^ 8 ≤ 159 → va.toNat % 2 ^ 6 ≤ 33 →
    vb.toNat / 2 ^ 2 % 2 ^ 11 ≤ 1055 → core = coreIn (clusterIn (va.toNat / 2 ^ 40 % 2 ^ 3) (va.toNat / 2 ^ 32 % 2 ^ 8)) (va.toNat % 2 ^ 6) →
    AsksUnit s (.vbset d a b t) y (.ni core) .vbset [va, vb] (fun v => completes s (wrote (popped s y) d a t v)) ∧
    AsksUnit s (.vbtest d a b t) y (.ni core) .vbtest [va, vb] (fun v => completes s (wrote (popped s y) d a t v))) ∧
  (∀ i s m core va vb q w z, m.dst = .ni core → z = dropMsg s i → q = vb.toNat % 4 → w = vb.toNat / 2 ^ 2 % 2 ^ 11 →
    (UnitAt s i m .vbset [va, vb] → exec (.loadRequest i) s =
      unitAnswers (vbRecord z core q w (vb.getLsbD 13)).1 m (vbRecord z core q w (vb.getLsbD 13)).2) ∧
    (UnitAt s i m .vbtest [va, vb] →
      ((coreAt s core).lmOn.getLsbD q = false → quarterRetired s core q = false → exec (.loadRequest i) s = unitAnswers z m 8) ∧
      ((coreAt s core).lmOn.getLsbD q = true ∨ quarterRetired s core q = true →
        exec (.loadRequest i) s = unitAnswers z m (loopback (busFaults s core q) w)))) ∧
  (∀ d a b t s va vb y, Reads s [a, b] (some d) [va, vb] y → (159 < va.toNat / 2 ^ 32 % 2 ^ 8 ∨ 33 < va.toNat % 2 ^ 6) →
    exec (.vbset d a b t) s = traps s 0x10 va ∧ exec (.vbtest d a b t) s = traps s 0x10 va) ∧
  (∀ s core q w auto, (quarterRetired s core q = true → vbRecord s core q w auto = (s, 5)) ∧
    (quarterRetired s core q = false → ((coreAt s core).creg (vbReg q (wireGroup w))).toNat / 2 ^ vbPos (wireGroup w) % 2 ^ 16 = 0 →
      vbRecord s core q w auto = (modCore s core fun c => c.setCreg (vbReg q (wireGroup w))
        (setF (c.creg (vbReg q (wireGroup w))) (vbPos (wireGroup w)) 16 (2 ^ 7 + wireLane w)), 0))) ∧
  (∀ w, loopback [] w = 1) ∧ (∀ core q w, loopback [⟨core, q, w, .stuck false⟩] w = 2) ∧
  (∀ core q w v, w < 1056 → v < 1056 → v ≠ w → loopback [⟨core, q, w, .bridge v⟩] w = v * 2 ^ 16 + 4) ∧
  (∀ i m v s, ctlStoreAt s 0 0x446 v i m → v.getLsbD 63 = true → exec .rowRepair s = .next (sendMsg (repairWrite (dropMsg s i) v) (replyTo m .storeAck))) ∧
  (∀ s v, s.modul.repair = none → v.getLsbD 63 = true → (repairWrite s v).modul.repair = some (s.time, v)) ∧
  (∀ s x, s.modul.repair = some x → ∃ u, exec (.rowRepairDone 0) s = .next u ∧ u.modul.repair = none ∧
    (u.modul.creg 0x447).toNat % 2 ^ 32 = ((s.modul.creg 0x447).toNat + 1) % 2 ^ 32 ∧ (u.modul.creg 0x447).toNat / 2 ^ 54 % 4 = 0) ∧
  (∀ s x r, s.modul.repair = some x → r = 1 ∨ r = 2 → ∃ u, exec (.rowRepairDone r) s = .next u ∧ u.modul.repair = none ∧
    (u.modul.creg 0x447).toNat % 2 ^ 32 = (s.modul.creg 0x447).toNat % 2 ^ 32 ∧ (u.modul.creg 0x447).toNat / 2 ^ 54 % 4 = r ∧
    (r = 1 → (u.modul.creg 0x440).getLsbD 3 = true) ∧ u.bad = s.bad) ∧
  (∀ i m v s, ctlStoreAt s 0 0x400 v i m → v.getLsbD 2 = true → exec .huTableClear s = .next (sendMsg (huCtlWrite (dropMsg s i) v) (replyTo m .storeAck))) ∧
  (∀ i m v s, ctlStoreAt s 0 0x442 v i m → exec (.coreRetireWrite v) s = .next (sendMsg (coreRetire (dropMsg s i) v) (replyTo m .storeAck))) ∧
  (∀ i m n v s, n ≤ 2 → ctlStoreAt s 0 (0x443 + n) v i m →
    exec (.omuSiteRetire n v) s = .next (sendMsg (siteRetireWrite (dropMsg s i) (0x443 + n) v) (replyTo m .storeAck))) ∧
  (∀ s cl v, relCluster s = some cl → SMap.get (fun _ => 0) (coreRetire s v).modul.relCore cl = Nat.lor (SMap.get (fun _ => 0) s.modul.relCore cl) (v.toNat % 2 ^ 34)) ∧
  (∀ sb s, ∃ u, exec (.combSourceFailure sb) s = .next u ∧ u.modul.comb = Nat.lor s.modul.comb (if sb then 2 else 1) ∧
    (u.modul.creg 0x440).getLsbD 5 = true)

/-! Links. -/

/-- R377 to R386: links. `lnkq`, `lnkfec` and `lnkclaim` travel to the port, which performs them and answers (log entry 20): a level is set and
agreed, a claim is decided when its cycle is over (60), a release throws the switch back, and training that ends answers 0 or 3. A frame in order
delivers its messages, here or by the route of their package; a frame that fails its CRC asks for its replay (61); a NAK counts what is replayed; a
change of level is agreed and takes effect at frame S, or times out (102, 110); a window and a lost lane act; a link goes down and ends what has
left through it (58); a port trains or fails to (59). How messages share frames is the model's choice (17). -/
def Obligations.Links : Prop :=
  (∀ d a t s va y, Reads s [a] (some d) [va] y → va.toNat / 2 ^ 5 = 0 →
    AsksUnit s (.lnkq d a t) y modulAgent .lnkq [va] fun v => completes s (wrote (popped s y) d a t v)) ∧
  (∀ d a b t s va vb y, Reads s [a, b] (some d) [va, vb] y → va.toNat / 2 ^ 5 = 0 →
    AsksUnit s (.lnkfec d a b t) y modulAgent .lnkfec [va, vb] (fun v => completes s (wrote (popped s y) d a t v)) ∧
    AsksUnit s (.lnkclaim d a b t) y modulAgent .lnkclaim [va, vb] (fun v => completes s (wrote (popped s y) d a t v))) ∧
  (∀ d a b t s va vb y y1, Reads s [a] (some d) [va] y1 → Reads s [a, b] (some d) [va, vb] y → va.toNat / 2 ^ 5 ≠ 0 →
    exec (.lnkq d a t) s = traps s 0x10 va ∧ exec (.lnkfec d a b t) s = traps s 0x10 va ∧ exec (.lnkclaim d a b t) s = traps s 0x10 va) ∧
  (∀ i s m va p z, UnitAt s i m .lnkq [va] → p = va.toNat % 16 → z = dropMsg s i →
    (va.getLsbD 4 = false → exec (.loadRequest i) s = unitAnswers z m (linkStat s p).toNat) ∧
    (va.getLsbD 4 = true → exec (.loadRequest i) s = unitAnswers z m ((portAt s p).corrected * 2 ^ 32 + (portAt s p).bad))) ∧
  (∀ i s m va vb p x l want z z1, UnitAt s i m .lnkfec [va, vb] → p = va.toNat % 16 → z = dropMsg s i → x = portAt s p → l = vb.toNat % 4 →
    want = (if vb.getLsbD 2 then l else Nat.max l (cfgMin (linkCfg s p))) →
    z1 = modModul z (fun c => c.setCreg (0x480 + p) (setF (setB (c.creg (0x480 + p)) 7 (vb.getLsbD 2)) 5 2 l)) →
    (x.state ≠ 2 → exec (.loadRequest i) s = unitAnswers z m 1) ∧
    (x.state = 2 → (x.prop.isSome = true ∨ x.agreed.isSome = true) → exec (.loadRequest i) s = .next s) ∧
    (x.state = 2 → x.prop = none → x.agreed = none → x.level = want → exec (.loadRequest i) s = unitAnswers z1 m 0) ∧
    (x.state = 2 → x.prop = none → x.agreed = none → x.level ≠ want →
      exec (.loadRequest i) s = .next (propose (modPort z1 p fun x => { x with fec := some m }) p want 15))) ∧
  (∀ s p level lane n, (portAt s p).prop = none → (portAt s p).agreed = none → n = ((portAt s p).seqTx + 64) % 4096 →
    propose s p level lane = modPort s p fun x => { x with prop := some (level, lane, n, tickOf s), ctl := x.ctl ++ [(1, chgWord level lane n)] }) ∧
  (∀ s p m v, ((portAt s p).fec = some m → .next (answerFec s p v) = unitAnswers (modPort s p fun x => { x with fec := none }) m v) ∧
    ((portAt s p).claim = some m → .next (answerClaim s p v) = unitAnswers (modPort s p fun x => { x with claim := none }) m v)) ∧
  (∀ i s m va vb p z, UnitAt s i m .lnkclaim [va, vb] → p = va.toNat % 16 → z = dropMsg s i →
    (vb.getLsbD 0 = true → ((portAt s p).owner ≠ 0 ∨ (portAt s p).bid.isSome = true) → exec (.loadRequest i) s = unitAnswers z m 1) ∧
    (vb.getLsbD 0 = true → (portAt s p).owner = 0 → (portAt s p).bid = none → exec (.loadRequest i) s = .next (modPort z p fun x =>
      { x with bid := some (m, vb.toNat / 2 ^ 8 % 2 ^ 8), bidAt := s.time + 1 })) ∧
    (vb.getLsbD 0 = false → ((portAt s p).owner = 0 ∨ ((portAt s p).owner = 1 ∧ vb.getLsbD 1 = false)) →
      exec (.loadRequest i) s = unitAnswers z m 2) ∧
    (vb.getLsbD 0 = false → ((portAt s p).owner = 1 → vb.getLsbD 1 = true) → (portAt s p).owner ≠ 0 → ∃ u, exec (.loadRequest i) s = .next u ∧
      (portAt u p).owner = 0 ∧ (portAt u p).swpos = 0 ∧ (portAt u p).state = 3 ∧ (portAt u p).claim = some m)) ∧
  (∀ s p m tag, (portAt s p).bid = some (m, tag) → (portAt s p).bidAt ≤ s.time →
    ((portAt s p).owner ≠ 0 → .next (settleBid s p) = unitAnswers (modPort s p fun x => { x with bid := none }) m 1) ∧
    ((portAt s p).owner = 0 → (portAt (settleBid s p) p).owner = 2 ∧ (portAt (settleBid s p) p).tag = tag ∧ (portAt (settleBid s p) p).swpos = 1 ∧
      (portAt (settleBid s p) p).state = 3 ∧ (portAt (settleBid s p) p).claim = some m ∧ (portAt (settleBid s p) p).bid = none)) ∧
  (∀ p hdr op bad ms s x z, x = portAt s p → p ≤ 15 → x.state = 2 → z = linkAck s p (hdrAck hdr) →
    ((4 < hdrType hdr ∨ frameGood x.level bad = false) →
      exec (.linkFrameReceive p hdr op bad ms) s = .next (modPort s p fun x => { x with ctl := x.ctl ++ [(3, seqWord x.seqRx)] })) ∧
    (hdrType hdr ≤ 4 → frameGood x.level bad = true →
      (hdrType hdr = 0 → hdrSeq hdr = x.seqRx → exec (.linkFrameReceive p hdr op bad ms) s = .next ((ms.take (flitsOf hdr)).foldl (linkArrive p)
        (crossFrame (modPort z p fun x => { x with seqRx := (x.seqRx + 1) % 4096 }) p))) ∧
      (hdrType hdr = 0 → hdrSeq hdr ≠ x.seqRx → exec (.linkFrameReceive p hdr op bad ms) s = .next z) ∧
      (hdrType hdr = 1 → hdrValid hdr = 0 → exec (.linkFrameReceive p hdr op bad ms) s =
        exec (.linkChg p (op.toNat % 4) (op.toNat / 2 ^ 4 % 2 ^ 4) (op.toNat / 2 ^ 16 % 2 ^ 12)) z) ∧
      (hdrType hdr = 2 → hdrValid hdr = 0 → exec (.linkFrameReceive p hdr op bad ms) s = exec (.linkCack p (op.toNat / 2 ^ 16 % 2 ^ 12)) z) ∧
      (hdrType hdr = 3 → hdrValid hdr = 0 → exec (.linkFrameReceive p hdr op bad ms) s = exec (.linkNak p (op.toNat / 2 ^ 16 % 2 ^ 12)) z) ∧
      (hdrType hdr = 4 → exec (.linkFrameReceive p hdr op bad ms) s = .next z))) ∧
  (∀ s p a b, b ∈ (portAt (linkAck s p a) p).buf ↔ b ∈ (portAt s p).buf ∧ seqReached a b.1 = false) ∧
  (∀ p hdr op bad ms s, (15 < p ∨ (portAt s p).state ≠ 2) → exec (.linkFrameReceive p hdr op bad ms) s = .next s) ∧
  ((∀ level, frameGood level [] = true) ∧ ∀ k, k < 268 → frameGood 0 [k] = false) ∧
  (∀ p s l, l.pkg % 256 = ownPkg s % 256 → linkArrive p s l = linkDeliver p s (hopped l)) ∧
  (∀ p s l r m, l.pkg % 256 ≠ ownPkg s % 256 → r = SMap.get (fun _ => 0#64) s.modul.routes (l.pkg % 256) →
    m = { l.msg with src := .link p, who := l.msg.who % 2 ^ 32 + l.src % 256 * 2 ^ 32 } →
    ((r.getLsbD 63 = false ∨ r.toNat % 16 = p ∨ 15 ≤ l.hops) → linkArrive p s l = endLost 0x61 8 s m) ∧
    (r.getLsbD 63 = true → r.toNat % 16 ≠ p → l.hops < 15 → linkArrive p s l = portFlow (modPort s (r.toNat % 16) fun x =>
      { x with fwd := x.fwd ++ [{ l with hops := l.hops + 1, msg := m }] }) (r.toNat % 16))) ∧
  (∀ s m p, m.dst = .link p → p ≤ 15 →
    ((portAt s p).state ≠ 2 → linkOut s m = endLost 0x60 10 s m) ∧
    ((portAt s p).state = 2 → m.body.response = false → isActive m.body = false → (portAt (linkOut s m) p).sent = (portAt s p).sent ++ [m])) ∧
  (∀ p seq s n z, p ≤ 15 → (portAt s p).state = 2 → n = ((portAt s p).seqTx + 4096 - seq % 4096) % 4096 → n ≠ 0 → n ≤ 512 →
    z = modModul s (fun m => m.setCreg (0x490 + p) (addF (m.creg (0x490 + p)) 32 32 n)) →
    ((portAt s p).nak ≠ seq % 4096 → exec (.linkNak p seq) s = .next (modPort z p fun x => { x with nak := seq % 4096, fails := 0 })) ∧
    ((portAt s p).nak = seq % 4096 → (portAt s p).fails = 7 → cfgPin (linkCfg s p) = false → (portAt s p).level < 3 →
      exec (.linkNak p seq) s = .next (propose (modPort z p fun x => { x with fails := 8 }) p ((portAt s p).level + 1) 15)) ∧
    ((portAt s p).nak = seq % 4096 → (portAt s p).fails = 15 →
      exec (.linkNak p seq) s = .next (takeDown (modPort z p fun x => { x with fails := 16 }) p 1))) ∧
  (∀ p lvl lane n s, p ≤ 15 → (portAt s p).state = 2 → (portAt s p).prop = none → (cfgPin (linkCfg s p) = false ∨ lvl % 4 = (portAt s p).level) →
    exec (.linkChg p lvl lane n) s = .next (crossFrame (modPort s p fun x => { x with
      agreed := some (true, lvl % 4, lane, n % 4096), ctl := x.ctl ++ [(2, seqWord n)] }) p)) ∧
  (∀ p s lvl lane n t, p ≤ 15 → (portAt s p).state = 2 → (portAt s p).prop = some (lvl, lane, n, t) → n < 4096 →
    exec (.linkCack p n) s = .next (crossFrame (modPort s p fun x => { x with prop := none, agreed := some (false, lvl, lane, n) }) p) ∧
    (tickOf s < t + ackTicks (portAt s p).level → exec (.linkChgTimeout p) s = .next s) ∧
    (t + ackTicks (portAt s p).level ≤ tickOf s → lane = 15 → exec (.linkChgTimeout p) s =
      .next (answerFec (modPort s p fun x => { x with prop := none, agreed := none }) p 2))) ∧
  (∀ s p peer lvl lane n, (portAt s p).agreed = some (peer, lvl, lane, n) →
    (seqReached (if peer then (portAt s p).seqRx else (portAt s p).seqTx) n = true → crossFrame s p = switchLevel s p lvl lane) ∧
    (seqReached (if peer then (portAt s p).seqRx else (portAt s p).seqTx) n = false → crossFrame s p = s)) ∧
  (∀ s p lvl, (portAt (switchLevel s p lvl 15) p).level = lvl % 4 ∧ (portAt (switchLevel s p lvl 15) p).flane = (portAt s p).flane ∧
    ∀ m, (portAt s p).fec = some m → replyTo m (.loadReply (.value (natLE 8 0))) ∈ (switchLevel s p lvl 15).net) ∧
  (∀ p c c1 f errs s w z, p ≤ 15 → (portAt s p).state = 2 → (portAt s p).agreed = none → (portAt s p).takeover = none →
    (∀ i, i < 8 → errs.getD i 0 * 10 ^ 4 ≤ 2 ^ 20 * laneBytes (portAt s p).level i) →
    w = Nat.max (wantedLevel (portAt s p).level (errs.take 8).sum) (cfgMin (linkCfg s p)) →
    z = modPort s p (fun x => { x with corrected := (c + c1) % 2 ^ 32, bad := f % 2 ^ 32, low := if w < x.level then Nat.min 16 (x.low + 1) else 0 }) →
    (cfgPin (linkCfg s p) = true → exec (.linkBerWindow p c c1 f errs) s = .next z) ∧
    (cfgPin (linkCfg s p) = false → (portAt s p).level < w → exec (.linkBerWindow p c c1 f errs) s = .next (propose z p w 15)) ∧
    (cfgPin (linkCfg s p) = false → w < (portAt s p).level → 15 ≤ (portAt s p).low →
      exec (.linkBerWindow p c c1 f errs) s = .next (propose z p ((portAt s p).level - 1) 15)) ∧
    (cfgPin (linkCfg s p) = false → w ≤ (portAt s p).level → (w < (portAt s p).level → (portAt s p).low < 15) →
      exec (.linkBerWindow p c c1 f errs) s = .next z)) ∧
  (∀ p lane s, p ≤ 15 → lane ≤ 8 → (portAt s p).state = 2 → (portAt s p).flane ≠ 15 → lane ≠ (portAt s p).flane →
    exec (.laneLossOfLock p lane) s = .next (takeDown s p 3)) ∧
  (∀ p lane s, p ≤ 15 → lane ≤ 7 → (portAt s p).state = 2 → (portAt s p).flane = 15 →
    (cfgSplen (linkCfg s p) = false → exec (.laneLossOfLock p lane) s = .next (takeDown s p 2)) ∧
    (cfgSplen (linkCfg s p) = true → (portAt s p).prop = none → (portAt s p).agreed = none →
      exec (.laneLossOfLock p lane) s = .next (propose s p (portAt s p).level lane))) ∧
  (∀ p reason s, p ≤ 15 → 1 ≤ reason → reason ≤ 3 → (portAt s p).state = 2 → exec (.linkDown p reason) s = .next (takeDown s p reason)) ∧
  (∀ p s u, p ≤ 15 → failoverOk s p = false → u = takeDown s p 1 → (portAt u p).state = 0 ∧ (portAt u p).sent = [] ∧ (portAt u p).buf = [] ∧
    (portAt u p).fwd = [] ∧ ((coreAt s (lcoreKey s (clusterIn (p / 2) 0) 32)).evq.length < 16 →
      (0x60, nw (p % 16 + 2 ^ 8)) ∈ (coreAt u (lcoreKey s (clusterIn (p / 2) 0) 32)).evq)) ∧
  (∀ p s, failoverOk s p = true → (portAt (failover s p) p).owner = 1 ∧ (portAt (failover s p) p).state = 3 ∧ (portAt (failover s p) p).swpos = 1 ∧
    (portAt (failover s p) p).failover = true ∧ ((coreAt s (lcoreKey s (clusterIn (p / 2) 0) 32)).evq.length < 16 →
      (0x60, nw (p % 16 + 5 * 2 ^ 8)) ∈ (coreAt (failover s p) (lcoreKey s (clusterIn (p / 2) 0) 32)).evq)) ∧
  (∀ p ok peer s, ((portAt s p).state = 2 ∨ cfgEn (linkCfg s p) = false ∨ s.modul.hu ≠ .idle) → exec (.linkTrainingDone p ok peer) s = .next s) ∧
  (∀ p peer s, p ≤ 15 → cfgEn (linkCfg s p) = true → s.modul.hu = .idle →
    (∀ ok, (portAt s p).state ≠ 1 → (portAt s p).state ≠ 2 → exec (.linkTrainingDone p ok peer) s = .next (modPort s p fun x => { x with state := 1 })) ∧
    ((portAt s p).state = 1 → ∃ u, exec (.linkTrainingDone p true peer) s = .next u ∧ (portAt u p).state = 2 ∧ (portAt u p).peer = peer % 256 ∧
      (portAt u p).lmap = s.modul.creg 0x4B3 ∧ (portAt u p).level = (if cfgPin (linkCfg s p) then cfgPlvl (linkCfg s p) else cfgMin (linkCfg s p)) ∧
      (∀ m, (portAt s p).claim = some m → replyTo m (.loadReply (.value (natLE 8 0))) ∈ u.net)) ∧
    ((portAt s p).state = 1 → (portAt s p).failover = false → ∃ u, exec (.linkTrainingDone p false peer) s = .next u ∧
      ((portAt u p).state = 0 ∨ ((portAt u p).state = 3 ∧ (portAt u p).owner = 1)) ∧
      ((coreAt s (lcoreKey s (clusterIn (p / 2) 0) 32)).evq.length < 16 →
        (0x60, nw (p % 16 + 4 * 2 ^ 8)) ∈ (coreAt u (lcoreKey s (clusterIn (p / 2) 0) 32)).evq) ∧
      (∀ m, (portAt s p).claim = some m → replyTo m (.loadReply (.value (natLE 8 3))) ∈ u.net)) ∧
    ((portAt s p).state = 1 → (portAt s p).failover = true → ∃ u, exec (.linkTrainingDone p false peer) s = .next u ∧ (portAt u p).state = 0 ∧
      (portAt u p).owner = (portAt s p).owner ∧ ((coreAt s (lcoreKey s (clusterIn (p / 2) 0) 32)).evq.length < 16 →
        (0x60, nw (p % 16 + 7 * 2 ^ 8)) ∈ (coreAt u (lcoreKey s (clusterIn (p / 2) 0) 32)).evq)))

/-! The host, boot and the gang switch. -/

/-- R389 to R395: the host and boot. A host access inside the package is performed as a supervisor's, untranslated; one to a hole gets an
unsupported-request completion, a refused write a completer abort; the host port accepts or refuses what the package asks of it; a free launch slot
takes a GO, a busy one counts it, and the agent takes the slots in the order of their GO writes; a quote fetches its nonce and is written; boot goes
through its steps, ends done or failed, keeps the flash and counts, and after step 8 the machine runs, while after a failed step nothing answers.
The place of the HDM decoder (log entry 106), the poison of a refused load (15), what a boot finds (12) and the signature are free values; the
launch window's conventions (46), what stays over a boot (48), the C bit of a host write (92) and the handling of a quote (107) are the model's
choices. -/
def Obligations.HostAndBoot : Prop :=
  (∀ addr data s a, addr < 2 ^ 42 → data ≠ [] → addr % 64 + data.length ≤ 64 → bootFailed s = false → placeOf s addr = .tier a →
    populated a = true → mustFill s addr = false →
    (∀ u bs, homeWrite s addr data Acc.direct none = .ok u bs →
      exec (.cxlMemRequest 0 true (Config.hdmBase + addr) data) s = .next (hostAnswer u (.done bs))) ∧
    (∀ u e, homeWrite s addr data Acc.direct none = .deny u e →
      exec (.cxlMemRequest 0 true (Config.hdmBase + addr) data) s = .next (hostAnswer u .abort)) ∧
    (∀ u bs, homeRead s addr data.length Acc.direct = .ok u bs →
      exec (.cxlMemRequest 0 false (Config.hdmBase + addr) data) s = .next (hostAnswer u (.done bs))) ∧
    (∀ u c a, homeRead s addr data.length Acc.direct = .poison u c a →
      exec (.cxlMemRequest 0 false (Config.hdmBase + addr) data) s = .next (hostAnswer u .poison))) ∧
  (∀ m addr data s cl lc off, m ≤ 1 → addr < 2 ^ 42 → data ≠ [] → addr % 64 + data.length ≤ 64 → bootFailed s = false →
    placeOf s addr = .lm cl lc off → ∀ u bs, homeWrite s addr data Acc.direct (some ⟨.ni (lcoreKey s cl lc), .host m, 0, 0, 0, .storeAck⟩) = .ok u bs →
      exec (.cxlMemRequest m true (Config.hdmBase + addr) data) s = .next u) ∧
  (∀ i s m h accept data, arrives s i = some m → m.dst = .host h → m.body = .storeAck →
    exec (.hostWindowAccess i accept data) s = .next (hostAnswer (dropMsg s i) (.done []))) ∧
  (∀ m w addr data s, m ≤ 1 → addr < 2 ^ 42 → data ≠ [] → addr % 64 + data.length ≤ 64 → bootFailed s = false → placeOf s addr = .hole →
    exec (.cxlMemRequest m w (Config.hdmBase + addr) data) s = .next (hostAnswer s .unsupported)) ∧
  (∀ addr data s b n, addr < 2 ^ 42 → bootFailed s = false → placeOf s addr = .ctl b n →
    (data.length = 8 → addr % 8 = 0 →
      exec (.cxlMemRequest 0 true (Config.hdmBase + addr) data) s =
        .next (hostAnswer (writeReg s (unitOfBlk s b n) n (leWord data)) (.done [])) ∧
      exec (.cxlMemRequest 0 false (Config.hdmBase + addr) data) s = .next (hostAnswer (afterRead s (unitOfBlk s b n) n)
        (.done (wordLE 8 (readReg s (unitOfBlk s b n) n))))) ∧
    (∀ w, data ≠ [] → addr % 64 + data.length ≤ 64 → (data.length ≠ 8 ∨ addr % 8 ≠ 0) →
      exec (.cxlMemRequest 0 w (Config.hdmBase + addr) data) s = .next (hostAnswer s .unsupported))) ∧
  (∀ i s m h pa n acc data, arrives s i = some m → m.dst = .host h → m.body = .loadReq pa n acc →
    exec (.hostWindowAccess i true data) s =
      .next (sendMsg { dropMsg s i with free := s.free + 1 } (replyTo m (.loadReply (.value (padTo n 0#8 data))))) ∧
    exec (.hostWindowAccess i false data) s = .next (sendMsg { dropMsg s i with free := s.free + 1 }
      (replyTo m (.loadReply (.poison (hostCause (Config.freeNat s.free)) pa))))) ∧
  (∀ i s m h pa bs f acc data, arrives s i = some m → m.dst = .host h → m.body = .postedStore pa bs f acc →
    exec (.hostWindowAccess i true data) s = .next (sendMsg { dropMsg s i with free := s.free + 1 } (replyTo m .storeAck)) ∧
    exec (.hostWindowAccess i false data) s = .next (sendMsg { dropMsg s i with free := s.free + 1 } (replyTo m (.storeRefusal 3)))) ∧
  (∀ n r ctl s h, n ≤ 63 → bootFailed s = false → h = hslotAt s n → r ≠ [] →
    (ctl.getLsbD 63 = true → h.busy = false → exec (.launchWindowGo n r ctl) s =
      .next (setHslot s n ⟨padTo 8 0#64 r, ctl, h.st, true, true, s.time⟩)) ∧
    (ctl.getLsbD 63 = true → h.busy = true →
      exec (.launchWindowGo n r ctl) s = .next (modModul s fun m => m.setCreg 0x4C1 (addF (m.creg 0x4C1) 0 32 1))) ∧
    (ctl.getLsbD 63 = false → exec (.launchWindowGo n r ctl) s = .next (setHslot s n { h with dw := padTo 8 0#64 r, ctl := ctl })) ∧
    (ctl.getLsbD 63 = false → agentNext s n = true → exec (.launchWindowGo n [] ctl) s = .next (agentLaunch s n)) ∧
    (ctl.getLsbD 63 = false → agentNext s n = false → exec (.launchWindowGo n [] ctl) s = .next (hostAnswer s (.done (hslotBytes h))))) ∧
  (∀ s n, agentNext s n = true ↔ (hslotAt s n).todo = true ∧ booted s = true ∧ (hslotAt s n).at_ < s.time ∧
    ∀ j, j < 64 → (hslotAt s j).todo = true → 64 * (hslotAt s n).at_ + n ≤ 64 * (hslotAt s j).at_ + j) ∧
  (∀ s n z r, z = setHslot s n { hslotAt s n with st := 0#64 } → r = padTo 8 0#64 (hslotAt s n).dw →
    (launchBad z 0 r = true → agentLaunch s n = agentAnswer z n 2) ∧
    (launchBad z 0 r = false → val r 2 = 0#64 → val r 3 = 0#64 → (launchAbove r).any (cxlNow z 0) = true → agentLaunch s n = agentAnswer z n 6) ∧
    (∀ l : LaunchMsg, l = ⟨r, dwords 8 (wordsLE (List.replicate 8 0#64)), none, (hslotAt s n).ctl.toNat % 2 ^ 12, 0⟩ →
      launchBad z 0 r = false → val r 2 = 0#64 → val r 3 = 0#64 → (launchAbove r).any (cxlNow z 0) = false →
      agentLaunch s n = sendMsg (setHslot z n { hslotAt z n with todo := false })
        ⟨.launchAgent, lvlAgent z 0 (luLid l), n, n, luPh l, .launchReq l (some n)⟩)) ∧
  (∀ s n st, (hslotAt (agentAnswer s n st) n).st = nw (2 ^ 63 + st) ∧ (hslotAt (agentAnswer s n st) n).busy = false) ∧
  (∀ i m v s, ctlStoreAt s 0 0x4C3 v i m → v.getLsbD 63 = true → ∃ u, u = attWrite (dropMsg s i) v ∧
    exec .attestationQuote s = .next (sendMsg u (replyTo m .storeAck)) ∧ u.modul.quoteDue = true ∧
    (s.modul.quoteDue = false → ⟨modulAgent, .host 0, 0, 0, 0, .loadReq (quotePa u) 32 Acc.direct⟩ ∈ u.net ∧ u.modul.creg 0x4C4 = 0#64)) ∧
  (∀ s i m, quoteMsg s = some (i, m) →
    (∀ bs, m.body = .loadReply (.value bs) → bs.length = 32 → ∃ u, exec .quoteWritten s = .next u ∧ u.modul.quote.length = 676 ∧
      u.modul.quote.take 32 = bs ∧ (u.modul.quote.drop 32).take 256 = measBytes s.modul ∧
      ⟨modulAgent, m.src, 0, 0, 0, .postedStore (quotePa s) u.modul.quote none Acc.direct⟩ ∈ u.net) ∧
    (m.body = .storeAck → ∃ u, exec .quoteWritten s = .next u ∧ u.modul.quoteDue = false ∧ u.modul.creg 0x4C4 = nw (2 ^ 63)) ∧
    (∀ k, m.body = .storeRefusal k → ∃ u, exec .quoteWritten s = .next u ∧ u.modul.quoteDue = false ∧ u.modul.creg 0x4C4 = s.modul.creg 0x4C4)) ∧
  (∀ s good, (s.modul.hu = .committed ∨ (s.modul.hu = .idle ∧ (s.modul.off = true ∨ s.modul.boot = none))) →
    ∃ u, exec (.boot good) s = .next u ∧ u.modul.creg 0x4C2 = nw 1 ∧ u.modul.boot = some s.free ∧ u.modul.off = false ∧
    u.modul.flash = s.modul.flash ∧ u.modul.rowFix = s.modul.rowFix ∧ u.mem = [] ∧ u.time = 0 ∧
    (u.modul.creg 0x4C1).toNat / 2 ^ 32 = ((s.modul.creg 0x4C1).toNat / 2 ^ 32 + 1) % 2 ^ 32) ∧
  (∀ s n k, s.modul.hu = .idle → s.modul.off = false → s.modul.boot = some n → s.modul.creg 0x4C2 = nw k →
    (1 ≤ k → k ≤ 7 → ∃ u, exec (.boot false) s = .next u ∧ u.modul.creg 0x4C2 = nw (2 ^ 62 + k) ∧ u.modul.boot = none ∧
      (u.modul.creg 0x4C0).getLsbD 4 = true) ∧
    (k = 1 → imageOk (Config.bootFacts n) s = false → ∃ u, exec (.boot true) s = .next u ∧ u.modul.creg 0x4C2 = nw (2 ^ 62 + 1) ∧
      u.modul.boot = none) ∧
    (1 ≤ k → k ≤ 7 → (k = 1 → imageOk (Config.bootFacts n) s = true) →
      exec (.boot true) s = .next (bootAt (k + 1) (bootStep (Config.bootFacts n) k s))) ∧
    (k = 8 → ∀ good, ∃ u, exec (.boot good) s = .next u ∧ u.modul.creg 0x4C2 = nw (2 ^ 63 + 8) ∧ u.modul.boot = none ∧ u.modul.off = false ∧
      booted u = true ∧ bootFailed u = false ∧ (u.modul.creg 0x4C0).getLsbD 3 = true ∧ ∀ cl, cl < 1280 → (clusterAt u cl).creg 0x250 = 0#64)) ∧
  (∀ f s, imageOk f s = true ↔ (s.modul.creg 0x4C5).toNat / 2 ^ 32 ≤ f.version % 2 ^ 32) ∧
  (∀ s, s.modul.off = false → bootFailed s = false →
    (s.turn = true → step s = afterStep (takeTurn exec { s with turn := false })) ∧
    (∀ k, s.turn = false → dueSwitch s = none → dueTurn s = some k → step s = afterStep (exec (.slotTurn k (turnError s).1) (turnError s).2))) ∧
  (∀ s, s.modul.off = false → bootFailed s = true → (∀ good, (nextChoice s).1.ev ≠ .boot good) →
    step s = .next { (nextChoice s).2 with time := s.time + (nextChoice s).1.dt })

/-- R340 to R344: the gang switch. At its time and a lap boundary the job's slots stop and the core diverts; once they have drained their records
are written; a diverted message goes to the fallout area, into the lowest free slot, whose layout is the model's choice (log entry 109); a restore
sets the slots to be loaded, and completes when all are. -/
def Obligations.GangSwitch : Prop :=
  (∀ core s, (coreAt s core).gst = 1 → clusterCycle s (clusterOf core) % 16 = 0 → ((coreAt s core).creg 0x1C8).toNat ≤ tickOf s →
    s.turnsTo ≤ s.time → (∀ n, n < 16 → inSwitch s core n = false) →
    exec (.gangSwitchBegin core) s = .next (modCore s core fun c => { c with gst := 2, gset := 0, divert := true })) ∧
  (∀ core n s, (coreAt s core).gst = 1 → clusterCycle s (clusterOf core) % 16 = 0 → ((coreAt s core).creg 0x1C8).toNat ≤ tickOf s →
    s.turnsTo ≤ s.time → n < 16 → inSwitch s core n = true → ∃ u, exec (.gangSwitchBegin core) s = .next u ∧ (slotAt u (slotOf core n)).sws = true ∧
      (slotAt u (slotOf core n)).st = .stopped ∧ (coreAt u core).divert = true ∧ (coreAt u core).gst = 2) ∧
  (∀ s core n, inSwitch s core n = true → (slotAt s (slotOf core n)).asid = ((coreAt s core).creg 0x1C9).toNat % 2 ^ 12) ∧
  (∀ core s, (coreAt s core).gst = 2 → (coreAt s core).gset = 0 → exec (.gangSwitchSaved core) s =
    .next (modCore s core fun c => { c with gst := 3, saved := 0, gset := 0 })) ∧
  (∀ core s k, (coreAt s core).gst = 2 → maskSlots core (coreAt s core).gset = [k] → slotDrained s core k = true → (slotAt s k).st ≠ .waiting →
    (∀ u, saveSlot s k = some u →
      exec (.gangSwitchSaved core) s = .next (modCore u core fun c => { c with gst := 3, saved := 2 ^ slotNo k, gset := 0 })) ∧
    (saveSlot s k = none → exec (.gangSwitchSaved core) s = .next s)) ∧
  (∀ s k u, saveSlot s k = some u → (slotAt u k).st = .stopped ∧ (slotAt u k).gang = none ∧ (slotAt u k).hnd = none ∧ (slotAt u k).unit = none ∧
    (coreAt u (coreOf k)).pin ≠ some k ∧ (clusterAt u (clusterOf (coreOf k))).own ≠ some k) ∧
  (∀ i s m core, arrives s i = some m → m.dst = .ni core → (coreAt s core).divert = true →
    (match m.body with | .activeMsg _ _ _ _ _ _ => True | .baton _ _ => True | _ => False) →
    (towerAt s (towerOf (clusterOf core))).fall.length < ((towerAt s (towerOf (clusterOf core))).creg 0x391).toNat % 2 ^ 32 →
    ∀ n u, freeFall (towerAt s (towerOf (clusterOf core))) = some n → fillFall (dropMsg s i) (towerOf (clusterOf core)) n = some u →
      exec (.falloutDivert i) s = .next (modTower u (towerOf (clusterOf core)) fun w =>
        { w.setCreg 0x392 (addF (w.creg 0x392) 32 32 1) with fall := w.fall ++ [(n, m)] })) ∧
  (∀ s t n, fillFall s t n = writeLines 8 { s with free := s.free + 1 } (65536 * (((towerAt s t).creg 0x390).toNat / 2 ^ 16 % 2 ^ 40) + 512 * n)
    (natLE 512 (Config.freeNat s.free))) ∧
  (∀ w n, freeFall w = some n → n ∉ w.fall.map Prod.fst ∧ ∀ j, j < n → j ∈ w.fall.map Prod.fst) ∧
  (∀ core v i m s, ctlStoreAt s core 0x1C9 v i m → v.getLsbD 63 = true →
    exec (.gswArm core v) s = .next (sendMsg (gswWrite (dropMsg s i) core v) (replyTo m .storeAck))) ∧
  (∀ core v i m s, (coreAt s core).gst ≠ 4 → ctlStoreAt s core 0x1C9 v i m → v.getLsbD 63 = false → v.getLsbD 62 = true →
    exec (.gswRestore core v) s = .next (sendMsg (gswWrite (dropMsg s i) core v) (replyTo m .storeAck))) ∧
  (∀ core v s, (coreAt s core).gst = 4 → exec (.gswRestore core v) s = .next (finishRestore (loadSlots s core) core)) ∧
  (∀ s core v, v.getLsbD 63 = true → ((coreAt s core).gst = 0 ∨ (coreAt s core).gst = 3) → (coreAt (gswWrite s core v) core).gst = 1) ∧
  (∀ s core v, (v.getLsbD 63 = true ∨ v.getLsbD 62 = true) → (coreAt s core).gst ≠ 0 → (coreAt s core).gst ≠ 3 → gswWrite s core v = s)

/-! Stores of the control window. -/

/-- R7, R112, R122, R144, R178, R197, R202, R234, R241, R244, R266, R286, R298, R338, R345 to R348, R382 and R387: an access of the control window
is performed by the control agent of its block, and a store is acknowledged; a store to a register that acts has the effect of that register, as
`cput` does. That a register-write event is the arrival of a store (log entry 69), that blocks are named by logical core (70) and that a refused
field keeps its value (44) are read from the manual; SLOTS above 64 (45), the count of a domain monitor (95), a quote under way (107) and the
registers that belong to a shared site (39) are the model's choices. -/
def Obligations.ControlRegisterStores : Prop :=
  (∀ i s m b n v, arrives s i = some m →
    (m.body = .ctlAccess true b n v →
      exec (.controlWindowAccess i) s = .next (sendMsg (writeReg (dropMsg s i) (unitOfBlk s b n) n v) (replyTo m .storeAck))) ∧
    (m.body = .ctlAccess false b n v → exec (.controlWindowAccess i) s = .next (sendMsg (afterRead (dropMsg s i) (unitOfBlk s b n) n)
      (replyTo m (.loadReply (.value (wordLE 8 (readReg s (unitOfBlk s b n) n)))))))) ∧
  (∀ i s m core, ctlLoadAt s (coreBlk s core) 0x141 i m → exec (.dirOvfRead core) s = .next (ctlPerform s i m)) ∧
  (∀ i s m core v, ctlLoadAt s (coreBlk s core) 0x1C4 i m → exec (.dbgContextAccess core false v) s = .next (ctlPerform s i m)) ∧
  (∀ s core v, v.toNat / 2 ^ 62 = 1 → WritesReg s (.dirCmdInvalidate core v) core 0x142 v) ∧
  (∀ s core v, v.toNat / 2 ^ 62 = 2 → WritesReg s (.dirCmdRelease core v) core 0x142 v) ∧
  (∀ s core v, WritesReg s (.pjRelease core v) core 0x14C v) ∧
  (∀ s core v, v.getLsbD 63 = true → WritesReg s (.fewtArm core v) core 0x103 v) ∧
  (∀ s core v, v.getLsbD 63 = false → WritesReg s (.fewtDisarm core v) core 0x103 v) ∧
  (∀ s tw n v, n < 16 → v.getLsbD 31 = false → ((towerAt s tw).creg (0x360 + n)).getLsbD 31 = true →
    WritesReg s (.snrInvalidate tw n v) tw (0x360 + n) v) ∧
  (∀ s cl v, WritesReg s (.omuBindWrite cl v) cl 0x281 v) ∧ (∀ s cl v, WritesReg s (.mxGroupWrite cl v) cl 0x2C7 v) ∧
  (∀ s core v, WritesReg s (.xformWrite core v) core 0x180 v) ∧
  (∀ s core n v, n < 16 → WritesReg s (.semCountWrite core n v) core (0x190 + n) v) ∧
  (∀ s k v, WritesReg s (.vcbmonWrite k v) k 0x077 v) ∧ (∀ s cl v, WritesReg s (.probePeriodWrite cl v) cl 0x283 v) ∧
  (∀ s k v, WritesReg s (.bsBaseWrite k false v) k 0x010 v ∧ WritesReg s (.bsBaseWrite k true v) k 0x012 v) ∧
  (∀ s p v, p < 16 → v.getLsbD 0 = false → WritesReg s (.linkEnableWrite p v) 0 (0x480 + p) v) ∧
  (∀ s core v, WritesReg s (.dbgContextAccess core true v) core 0x1C4 v) ∧
  (∀ s b n v, WritesReg s (.registerWrite b n v) (unitOfBlk s b n) n v) ∧
  -- what the writes do
  (∀ s core v j, jAt (coreAt s core) (v.toNat % 64) = some j → j.refused = true →
    jAt (coreAt (writeReg s core 0x14C v) core) (v.toNat % 64) = none) ∧
  (∀ s core v j, jAt (coreAt s core) (v.toNat % 64) = some j → j.refused = false → writeReg s core 0x14C v = s) ∧
  (∀ s k v, v.getLsbD 63 = true → (v.toNat / 2 ^ 20 % 2 ^ 20 = 0 ∨ 524288 < v.toNat % 2 ^ 19 + v.toNat / 2 ^ 20 % 2 ^ 20) →
    writeReg s k 0x010 v = modSlot s k id ∧ writeReg s k 0x012 v = modSlot s k id) ∧
  (∀ s k v, v.getLsbD 63 = false → (slotAt (writeReg s k 0x010 v) k).creg 0x011 = 0#64) ∧
  (∀ s cl v, (clusterAt s cl).own.isSome = true → ((clusterAt (writeReg s cl 0x281 v) cl).creg 0x281).getLsbD 32 = true) ∧
  (∀ s cl v, v.getLsbD 63 = true → ((clusterAt (writeReg s cl 0x2C7 v) cl).creg 0x2C8).toNat / 2 ^ 32 = 0) ∧
  (∀ s tw n v, n < 16 → v.getLsbD 31 = false → ((towerAt s tw).creg (0x360 + n)).getLsbD 31 = true →
    ((towerAt (writeReg s tw (0x360 + n) v) tw).creg (0x360 + n)).getLsbD 31 = false) ∧
  (∀ s core v, (slotAt s (slotOf core 15)).st ≠ .waiting → writeReg s core 0x180 v = s) ∧
  (∀ s core v, (slotAt s (slotOf core 15)).st = .waiting → xformOn s core = false → v.getLsbD 0 = true →
    xformOn (writeReg s core 0x180 v) core = true ∧ (slotAt (writeReg s core 0x180 v) (slotOf core 15)).st = .stopped) ∧
  (∀ s k v, (slotAt (writeReg s k 0x084 v) k).creg 0x084 = regMerge 0x084 ((slotAt s k).creg 0x084) v)
end

