-- ==== Sys2Proof/Laws/Encoding.lean ====
section
/-! SUPPORT. The laws of the word formats (R12): a field of a word that a format built is the field put into it. -/

namespace Sys2Proof

/-- The number that two joined vectors hold. -/
theorem toNat_join {n m : Nat} (x : BitVec n) (y : BitVec m) : (x ++ y).toNat = x.toNat * 2 ^ m + y.toNat := by
  rw [BitVec.toNat_append, Nat.shiftLeft_eq, Nat.mul_comm, Nat.two_pow_add_eq_or_of_lt y.isLt]

variable (op : BitVec 7) (d a b : BitVec 5) (t : Bool) (fn : BitVec 9) (imm : BitVec 14) (seg cc : BitVec 3) (o11 : BitVec 11)
  (o12 : BitVec 12) (o20 : BitVec 20)

theorem toNat_rWord : (rWord op d a b t fn).toNat = ((((op.toNat * 32 + d.toNat) * 32 + a.toNat) * 32 + b.toNat) * 2 + t.toNat) * 512 + fn.toNat := by
  show BitVec.toNat (w := 7 + 5 + 5 + 5 + 1 + 9) (op ++ d ++ a ++ b ++ BitVec.ofBool t ++ fn) = _
  simp only [toNat_join, BitVec.toNat_ofBool, Nat.reducePow]

@[simp] theorem fOp_rWord : fOp (rWord op d a b t fn) = op := by
  apply BitVec.eq_of_toNat_eq
  rw [fOp, BitVec.extractLsb'_toNat, Nat.shiftRight_eq_div_pow, toNat_rWord]
  have := op.isLt
  have := d.isLt
  have := a.isLt
  have := b.isLt
  have := fn.isLt
  have := Bool.toNat_le t
  omega

@[simp] theorem fD_rWord : fD (rWord op d a b t fn) = d := by
  apply BitVec.eq_of_toNat_eq
  rw [fD, BitVec.extractLsb'_toNat, Nat.shiftRight_eq_div_pow, toNat_rWord]
  have := op.isLt
  have := d.isLt
  have := a.isLt
  have := b.isLt
  have := fn.isLt
  have := Bool.toNat_le t
  omega

@[simp] theorem fA_rWord : fA (rWord op d a b t fn) = a := by
  apply BitVec.eq_of_toNat_eq
  rw [fA, BitVec.extractLsb'_toNat, Nat.shiftRight_eq_div_pow, toNat_rWord]
  have := op.isLt
  have := d.isLt
  have := a.isLt
  have := b.isLt
  have := fn.isLt
  have := Bool.toNat_le t
  omega

@[simp] theorem fB_rWord : fB (rWord op d a b t fn) = b := by
  apply BitVec.eq_of_toNat_eq
  rw [fB, BitVec.extractLsb'_toNat, Nat.shiftRight_eq_div_pow, toNat_rWord]
  have := op.isLt
  have := d.isLt
  have := a.isLt
  have := b.isLt
  have := fn.isLt
  have := Bool.toNat_le t
  omega

@[simp] theorem fT9_rWord : fT9 (rWord op d a b t fn) = t := by
  rw [fT9, BitVec.getLsbD, Nat.testBit_eq_decide_div_mod_eq, toNat_rWord]
  have := op.isLt
  have := d.isLt
  have := a.isLt
  have := b.isLt
  have := fn.isLt
  cases t <;> simp <;> omega

@[simp] theorem fFn9_rWord : fFn9 (rWord op d a b t fn) = fn := by
  apply BitVec.eq_of_toNat_eq
  rw [fFn9, BitVec.extractLsb'_toNat, Nat.shiftRight_eq_div_pow, toNat_rWord]
  have := op.isLt
  have := d.isLt
  have := a.isLt
  have := b.isLt
  have := fn.isLt
  have := Bool.toNat_le t
  omega

theorem toNat_iWord : (iWord op d a t imm).toNat = (((op.toNat * 32 + d.toNat) * 32 + a.toNat) * 2 + t.toNat) * 16384 + imm.toNat := by
  show BitVec.toNat (w := 7 + 5 + 5 + 1 + 14) (op ++ d ++ a ++ BitVec.ofBool t ++ imm) = _
  simp only [toNat_join, BitVec.toNat_ofBool, Nat.reducePow]

@[simp] theorem fOp_iWord : fOp (iWord op d a t imm) = op := by
  apply BitVec.eq_of_toNat_eq
  rw [fOp, BitVec.extractLsb'_toNat, Nat.shiftRight_eq_div_pow, toNat_iWord]
  have := op.isLt
  have := d.isLt
  have := a.isLt
  have := imm.isLt
  have := Bool.toNat_le t
  omega

@[simp] theorem fD_iWord : fD (iWord op d a t imm) = d := by
  apply BitVec.eq_of_toNat_eq
  rw [fD, BitVec.extractLsb'_toNat, Nat.shiftRight_eq_div_pow, toNat_iWord]
  have := op.isLt
  have := d.isLt
  have := a.isLt
  have := imm.isLt
  have := Bool.toNat_le t
  omega

@[simp] theorem fA_iWord : fA (iWord op d a t imm) = a := by
  apply BitVec.eq_of_toNat_eq
  rw [fA, BitVec.extractLsb'_toNat, Nat.shiftRight_eq_div_pow, toNat_iWord]
  have := op.isLt
  have := d.isLt
  have := a.isLt
  have := imm.isLt
  have := Bool.toNat_le t
  omega

@[simp] theorem fT14_iWord : fT14 (iWord op d a t imm) = t := by
  rw [fT14, BitVec.getLsbD, Nat.testBit_eq_decide_div_mod_eq, toNat_iWord]
  have := op.isLt
  have := d.isLt
  have := a.isLt
  have := imm.isLt
  cases t <;> simp <;> omega

@[simp] theorem fImm14_iWord : fImm14 (iWord op d a t imm) = imm := by
  apply BitVec.eq_of_toNat_eq
  rw [fImm14, BitVec.extractLsb'_toNat, Nat.shiftRight_eq_div_pow, toNat_iWord]
  have := op.isLt
  have := d.isLt
  have := a.isLt
  have := imm.isLt
  have := Bool.toNat_le t
  omega

theorem toNat_mWord : (mWord op d a t seg o11).toNat = ((((op.toNat * 32 + d.toNat) * 32 + a.toNat) * 2 + t.toNat) * 8 + seg.toNat) * 2048 + o11.toNat := by
  show BitVec.toNat (w := 7 + 5 + 5 + 1 + 3 + 11) (op ++ d ++ a ++ BitVec.ofBool t ++ seg ++ o11) = _
  simp only [toNat_join, BitVec.toNat_ofBool, Nat.reducePow]

@[simp] theorem fOp_mWord : fOp (mWord op d a t seg o11) = op := by
  apply BitVec.eq_of_toNat_eq
  rw [fOp, BitVec.extractLsb'_toNat, Nat.shiftRight_eq_div_pow, toNat_mWord]
  have := op.isLt
  have := d.isLt
  have := a.isLt
  have := seg.isLt
  have := o11.isLt
  have := Bool.toNat_le t
  omega

@[simp] theorem fD_mWord : fD (mWord op d a t seg o11) = d := by
  apply BitVec.eq_of_toNat_eq
  rw [fD, BitVec.extractLsb'_toNat, Nat.shiftRight_eq_div_pow, toNat_mWord]
  have := op.isLt
  have := d.isLt
  have := a.isLt
  have := seg.isLt
  have := o11.isLt
  have := Bool.toNat_le t
  omega

@[simp] theorem fA_mWord : fA (mWord op d a t seg o11) = a := by
  apply BitVec.eq_of_toNat_eq
  rw [fA, BitVec.extractLsb'_toNat, Nat.shiftRight_eq_div_pow, toNat_mWord]
  have := op.isLt
  have := d.isLt
  have := a.isLt
  have := seg.isLt
  have := o11.isLt
  have := Bool.toNat_le t
  omega

@[simp] theorem fT14_mWord : fT14 (mWord op d a t seg o11) = t := by
  rw [fT14, BitVec.getLsbD, Nat.testBit_eq_decide_div_mod_eq, toNat_mWord]
  have := op.isLt
  have := d.isLt
  have := a.isLt
  have := seg.isLt
  have := o11.isLt
  cases t <;> simp <;> omega

@[simp] theorem fSeg_mWord : fSeg (mWord op d a t seg o11) = seg := by
  apply BitVec.eq_of_toNat_eq
  rw [fSeg, BitVec.extractLsb'_toNat, Nat.shiftRight_eq_div_pow, toNat_mWord]
  have := op.isLt
  have := d.isLt
  have := a.isLt
  have := seg.isLt
  have := o11.isLt
  have := Bool.toNat_le t
  omega

@[simp] theorem fOff11_mWord : fOff11 (mWord op d a t seg o11) = o11 := by
  apply BitVec.eq_of_toNat_eq
  rw [fOff11, BitVec.extractLsb'_toNat, Nat.shiftRight_eq_div_pow, toNat_mWord]
  have := op.isLt
  have := d.isLt
  have := a.isLt
  have := seg.isLt
  have := o11.isLt
  have := Bool.toNat_le t
  omega

theorem toNat_bWord : (bWord op a b cc o12).toNat = (((op.toNat * 32 + a.toNat) * 32 + b.toNat) * 8 + cc.toNat) * 4096 + o12.toNat := by
  show BitVec.toNat (w := 7 + 5 + 5 + 3 + 12) (op ++ a ++ b ++ cc ++ o12) = _
  simp only [toNat_join, Nat.reducePow]

@[simp] theorem fOp_bWord : fOp (bWord op a b cc o12) = op := by
  apply BitVec.eq_of_toNat_eq
  rw [fOp, BitVec.extractLsb'_toNat, Nat.shiftRight_eq_div_pow, toNat_bWord]
  have := op.isLt
  have := a.isLt
  have := b.isLt
  have := cc.isLt
  have := o12.isLt
  omega

@[simp] theorem fD_bWord : fD (bWord op a b cc o12) = a := by
  apply BitVec.eq_of_toNat_eq
  rw [fD, BitVec.extractLsb'_toNat, Nat.shiftRight_eq_div_pow, toNat_bWord]
  have := op.isLt
  have := a.isLt
  have := b.isLt
  have := cc.isLt
  have := o12.isLt
  omega

@[simp] theorem fA_bWord : fA (bWord op a b cc o12) = b := by
  apply BitVec.eq_of_toNat_eq
  rw [fA, BitVec.extractLsb'_toNat, Nat.shiftRight_eq_div_pow, toNat_bWord]
  have := op.isLt
  have := a.isLt
  have := b.isLt
  have := cc.isLt
  have := o12.isLt
  omega

@[simp] theorem fCond_bWord : fCond (bWord op a b cc o12) = cc := by
  apply BitVec.eq_of_toNat_eq
  rw [fCond, BitVec.extractLsb'_toNat, Nat.shiftRight_eq_div_pow, toNat_bWord]
  have := op.isLt
  have := a.isLt
  have := b.isLt
  have := cc.isLt
  have := o12.isLt
  omega

@[simp] theorem fOff12_bWord : fOff12 (bWord op a b cc o12) = o12 := by
  apply BitVec.eq_of_toNat_eq
  rw [fOff12, BitVec.extractLsb'_toNat, Nat.shiftRight_eq_div_pow, toNat_bWord]
  have := op.isLt
  have := a.isLt
  have := b.isLt
  have := cc.isLt
  have := o12.isLt
  omega

theorem toNat_jWord : (jWord op d o20).toNat = (op.toNat * 32 + d.toNat) * 1048576 + o20.toNat := by
  show BitVec.toNat (w := 7 + 5 + 20) (op ++ d ++ o20) = _
  simp only [toNat_join, Nat.reducePow]

@[simp] theorem fOp_jWord : fOp (jWord op d o20) = op := by
  apply BitVec.eq_of_toNat_eq
  rw [fOp, BitVec.extractLsb'_toNat, Nat.shiftRight_eq_div_pow, toNat_jWord]
  have := op.isLt
  have := d.isLt
  have := o20.isLt
  omega

@[simp] theorem fD_jWord : fD (jWord op d o20) = d := by
  apply BitVec.eq_of_toNat_eq
  rw [fD, BitVec.extractLsb'_toNat, Nat.shiftRight_eq_div_pow, toNat_jWord]
  have := op.isLt
  have := d.isLt
  have := o20.isLt
  omega

@[simp] theorem fOff20_jWord : fOff20 (jWord op d o20) = o20 := by
  apply BitVec.eq_of_toNat_eq
  rw [fOff20, BitVec.extractLsb'_toNat, Nat.shiftRight_eq_div_pow, toNat_jWord]
  have := op.isLt
  have := d.isLt
  have := o20.isLt
  omega

end Sys2Proof
end

