-- ==== Sys2Proof/Laws/SMap.lean ====
section
/-! SUPPORT. The laws of sparse maps: a read after a write, and the canonical form that every write keeps. -/

namespace Sys2Proof

variable {β : Type}

theorem SMap.get_erase_self (d : Nat → β) (m : SMap β) (k : Nat) : (SMap.erase m k).get d k = d k := by
  induction m with
  | nil => rfl
  | cons e m ih =>
    obtain ⟨k', v⟩ := e
    by_cases h : k = k' <;> simp [SMap.erase, SMap.get, h, ih]
    simpa [h] using ih

theorem SMap.get_erase_ne (d : Nat → β) (m : SMap β) {k j : Nat} (h : j ≠ k) : (SMap.erase m k).get d j = m.get d j := by
  induction m with
  | nil => rfl
  | cons e m ih =>
    obtain ⟨k', v⟩ := e
    by_cases hk : k = k'
    · subst hk
      simp [SMap.erase, SMap.get, h, ih]
    · simp [SMap.erase, SMap.get, hk, ih]

theorem SMap.get_insert_self (d : Nat → β) (m : SMap β) (k : Nat) (v : β) (h : ∀ e ∈ m, e.1 ≠ k) :
    (SMap.insert k v m).get d k = v := by
  induction m with
  | nil => simp [SMap.insert, SMap.get]
  | cons e m ih =>
    obtain ⟨k', v'⟩ := e
    have h1 : k ≠ k' := fun hk => h (k', v') (by simp) hk.symm
    by_cases hk : k < k'
    · simp [SMap.insert, SMap.get, hk]
    · simp only [SMap.insert, hk, if_false, SMap.get, h1]
      exact ih fun e he => h e (by simp [he])

theorem SMap.get_insert_ne (d : Nat → β) (m : SMap β) {k j : Nat} (v : β) (h : j ≠ k) :
    (SMap.insert k v m).get d j = m.get d j := by
  induction m with
  | nil => simp [SMap.insert, SMap.get, h]
  | cons e m ih =>
    obtain ⟨k', v'⟩ := e
    by_cases hk : k < k'
    · simp [SMap.insert, SMap.get, hk, h]
    · simp only [SMap.insert, hk, if_false, SMap.get, ih]

theorem SMap.key_ne_of_mem_erase (m : SMap β) (k : Nat) : ∀ e ∈ SMap.erase m k, e.1 ≠ k := by
  induction m with
  | nil => simp [SMap.erase]
  | cons e m ih =>
    obtain ⟨k', v⟩ := e
    by_cases hk : k = k'
    · simpa [SMap.erase, hk] using fun a b hm => ih (a, b) (by simpa [hk] using hm) |> fun h => by simpa [hk] using h
    · intro e he
      simp only [SMap.erase, hk, if_false, List.mem_cons] at he
      rcases he with rfl | he
      · exact fun h => hk h.symm
      · exact ih e he

/-- A read of the key just written gives the value. -/
@[simp] theorem SMap.get_set_self [DecidableEq β] (d : Nat → β) (m : SMap β) (k : Nat) (v : β) :
    (SMap.set d m k v).get d k = v := by
  unfold SMap.set
  split
  · next h => rw [SMap.get_erase_self, h]
  · exact SMap.get_insert_self d _ k v (SMap.key_ne_of_mem_erase m k)

/-- A write leaves every other key alone. -/
theorem SMap.get_set_ne [DecidableEq β] (d : Nat → β) (m : SMap β) {k j : Nat} (v : β) (h : j ≠ k) :
    (SMap.set d m k v).get d j = m.get d j := by
  unfold SMap.set
  split
  · exact SMap.get_erase_ne d m h
  · rw [SMap.get_insert_ne d _ v h, SMap.get_erase_ne d m h]

/-! The canonical form. -/

theorem SMap.above_erase {b k : Nat} {m : SMap β} (h : SMap.above b m = true) : SMap.above b (SMap.erase m k) = true := by
  induction m with
  | nil => rfl
  | cons e m ih =>
    obtain ⟨k', v⟩ := e
    simp only [SMap.above, List.all_cons, Bool.and_eq_true, decide_eq_true_eq] at h ih ⊢
    by_cases hk : k = k'
    · simpa [SMap.erase, hk] using ih h.2
    · simpa [SMap.erase, hk] using ⟨h.1, by simpa using ih h.2⟩

theorem SMap.above_insert {b k : Nat} {v : β} {m : SMap β} (hb : b < k) (h : SMap.above b m = true) :
    SMap.above b (SMap.insert k v m) = true := by
  induction m with
  | nil => simp [SMap.insert, SMap.above, hb]
  | cons e m ih =>
    obtain ⟨k', v'⟩ := e
    simp only [SMap.above, List.all_cons, Bool.and_eq_true, decide_eq_true_eq] at h ih ⊢
    by_cases hk : k < k'
    · simpa [SMap.insert, hk, hb] using h
    · simpa [SMap.insert, hk] using ⟨h.1, by simpa using ih h.2⟩

theorem SMap.above_mono {a b : Nat} {m : SMap β} (hab : a ≤ b) (h : SMap.above b m = true) : SMap.above a m = true := by
  simp only [SMap.above, List.all_eq_true, decide_eq_true_eq] at h ⊢
  exact fun e he => Nat.lt_of_le_of_lt hab (h e he)

theorem SMap.wf_erase [DecidableEq β] {d : Nat → β} {m : SMap β} (k : Nat) (h : SMap.wf d m = true) :
    SMap.wf d (SMap.erase m k) = true := by
  induction m with
  | nil => rfl
  | cons e m ih =>
    obtain ⟨k', v⟩ := e
    simp only [SMap.wf, Bool.and_eq_true, decide_eq_true_eq] at h
    by_cases hk : k = k'
    · simpa [SMap.erase, hk] using hk ▸ ih h.2
    · simp only [SMap.erase, hk, if_false, SMap.wf, Bool.and_eq_true, decide_eq_true_eq]
      exact ⟨⟨h.1.1, SMap.above_erase h.1.2⟩, ih h.2⟩

theorem SMap.wf_insert [DecidableEq β] {d : Nat → β} {m : SMap β} {k : Nat} {v : β} (hv : v ≠ d k)
    (hk : ∀ e ∈ m, e.1 ≠ k) (h : SMap.wf d m = true) : SMap.wf d (SMap.insert k v m) = true := by
  induction m with
  | nil => simp [SMap.insert, SMap.wf, SMap.above, hv]
  | cons e m ih =>
    obtain ⟨k', v'⟩ := e
    simp only [SMap.wf, Bool.and_eq_true, decide_eq_true_eq] at h
    by_cases hlt : k < k'
    · simp only [SMap.insert, hlt, if_true, SMap.wf, Bool.and_eq_true, decide_eq_true_eq]
      exact ⟨⟨hv, by simpa [SMap.above, hlt] using SMap.above_mono (Nat.le_of_lt hlt) h.1.2⟩, h⟩
    · have hne : k' ≠ k := hk (k', v') (by simp)
      simp only [SMap.insert, hlt, if_false, SMap.wf, Bool.and_eq_true, decide_eq_true_eq]
      exact ⟨⟨h.1.1, SMap.above_insert (by omega) h.1.2⟩, ih (fun e he => hk e (by simp [he])) h.2⟩

/-- A write keeps the canonical form. -/
theorem SMap.wf_set [DecidableEq β] {d : Nat → β} {m : SMap β} (k : Nat) (v : β) (h : SMap.wf d m = true) :
    SMap.wf d (SMap.set d m k v) = true := by
  unfold SMap.set
  split
  · exact SMap.wf_erase k h
  · next hv => exact SMap.wf_insert hv (SMap.key_ne_of_mem_erase m k) (SMap.wf_erase k h)

theorem SMap.above_filter {b : Nat} {m : SMap β} (p : Nat × β → Bool) (h : SMap.above b m = true) :
    SMap.above b (m.filter p) = true := by
  simp only [SMap.above, List.all_eq_true, decide_eq_true_eq] at h ⊢
  exact fun e he => h e (List.mem_of_mem_filter he)

/-- Dropping entries keeps the canonical form. -/
theorem SMap.wf_filter [DecidableEq β] {d : Nat → β} {m : SMap β} (p : Nat × β → Bool) (h : SMap.wf d m = true) :
    SMap.wf d (m.filter p) = true := by
  induction m with
  | nil => rfl
  | cons e m ih =>
    obtain ⟨k', v⟩ := e
    simp only [SMap.wf, Bool.and_eq_true, decide_eq_true_eq] at h
    by_cases hp : p (k', v) = true
    · rw [List.filter_cons_of_pos hp]
      simp only [SMap.wf, Bool.and_eq_true, decide_eq_true_eq]
      exact ⟨⟨h.1.1, SMap.above_filter p h.1.2⟩, ih h.2⟩
    · rw [List.filter_cons_of_neg hp]
      exact ih h.2

theorem SMap.erase_eq_self {m : SMap β} {k : Nat} (h : ∀ e ∈ m, e.1 ≠ k) : SMap.erase m k = m := by
  induction m with
  | nil => rfl
  | cons e m ih =>
    obtain ⟨k', v⟩ := e
    have h1 : k ≠ k' := fun hk => h (k', v) (by simp) hk.symm
    simp only [SMap.erase, h1, if_false, ih fun e he => h e (by simp [he])]

theorem SMap.erase_insert {m : SMap β} {k : Nat} (v : β) (h : ∀ e ∈ m, e.1 ≠ k) : SMap.erase (SMap.insert k v m) k = m := by
  induction m with
  | nil => simp [SMap.insert, SMap.erase]
  | cons e m ih =>
    obtain ⟨k', v'⟩ := e
    have h1 : k ≠ k' := fun hk => h (k', v') (by simp) hk.symm
    have h2 : ∀ e ∈ m, e.1 ≠ k := fun e he => h e (by simp [he])
    by_cases hk : k < k'
    · simp [SMap.insert, hk, SMap.erase, h1, SMap.erase_eq_self h2]
    · simp [SMap.insert, hk, SMap.erase, h1, ih h2]

/-- Of two writes at one key the second stands. -/
theorem SMap.set_set [DecidableEq β] (d : Nat → β) (m : SMap β) (k : Nat) (v w : β) :
    SMap.set d (SMap.set d m k v) k w = SMap.set d m k w := by
  have h := SMap.key_ne_of_mem_erase m k
  have e : SMap.erase (SMap.set d m k v) k = SMap.erase m k := by
    unfold SMap.set
    split
    · exact SMap.erase_eq_self h
    · exact SMap.erase_insert v h
  show (if w = d k then SMap.erase _ k else SMap.insert k w (SMap.erase _ k)) = _
  rw [e]
  rfl

end Sys2Proof
end

