-- ==== Sys2Proof/Laws/Memory.lean ====
section
/-! SUPPORT. The laws of memory: what a read after a write gives, and that every memory operation keeps the canonical form. -/

namespace Sys2Proof.Machine

/-- Writing a run of bytes keeps the canonical form. -/
theorem memPut_wf {m : List Host.Cell} (a : Nat) (bs : List Byte) (h : Memory.wf m = true) : Memory.wf (memPut m a bs) = true := by
  induction bs generalizing m a with
  | nil => exact h
  | cons b bs ih => exact ih (a + 1) (SMap.wf_set a b h)

/-- A byte below a run that is written is unchanged. -/
theorem get_memPut_below (m : List Host.Cell) {a x : Nat} (bs : List Byte) (h : x < a) :
    SMap.get memDefault (memPut m a bs) x = SMap.get memDefault m x := by
  induction bs generalizing m a with
  | nil => rfl
  | cons b bs ih =>
    simp only [memPut]
    rw [ih _ (by omega), SMap.get_set_ne _ _ _ (by omega)]

/-- A byte at or above the end of a run that is written is unchanged. -/
theorem get_memPut_above (m : List Host.Cell) {a x : Nat} (bs : List Byte) (h : a + bs.length ≤ x) :
    SMap.get memDefault (memPut m a bs) x = SMap.get memDefault m x := by
  induction bs generalizing m a with
  | nil => rfl
  | cons b bs ih =>
    simp only [memPut]
    simp only [List.length_cons] at h
    rw [ih _ (by omega), SMap.get_set_ne _ _ _ (by omega)]

/-- Byte `i` of a run that is written reads as that byte. -/
theorem get_memPut_inside (m : List Host.Cell) (a i : Nat) (bs : List Byte) (h : i < bs.length) :
    SMap.get memDefault (memPut m a bs) (a + i) = bs.getD i 0#8 := by
  induction bs generalizing m a i with
  | nil => simp at h
  | cons b bs ih =>
    simp only [memPut]
    cases i with
    | zero =>
      have := get_memPut_below (SMap.set memDefault m a b) bs (Nat.lt_succ_self a)
      rw [Nat.add_zero]
      exact this.trans (SMap.get_set_self memDefault m a b)
    | succ i =>
      have := ih (SMap.set memDefault m a b) (a + 1) i (by simpa using h)
      rw [show a + (i + 1) = a + 1 + i by omega, this]
      rfl

/-- `setBytes` keeps the canonical form. -/
theorem setBytes_wf (s : State) (a : Nat) (bs : List Byte) (h : Memory.wf s.mem = true) : Memory.wf (setBytes s a bs).mem = true :=
  memPut_wf a bs h

/-- Every byte after `setBytes`: those of the run are the given ones, and every other byte is unchanged. -/
theorem memByte_setBytes (s : State) (a x : Nat) (bs : List Byte) :
    memByte (setBytes s a bs) x = if a ≤ x ∧ x < a + bs.length then bs.getD (x - a) 0#8 else memByte s x := by
  unfold memByte setBytes
  split
  · next h =>
    obtain ⟨i, rfl⟩ := Nat.exists_eq_add_of_le h.1
    simpa using get_memPut_inside s.mem a i bs (by omega)
  · next h =>
    by_cases hx : x < a
    · exact get_memPut_below _ _ hx
    · exact get_memPut_above _ _ (by omega)

/-- Clearing a range keeps the canonical form. -/
theorem zeroRange_wf (s : State) (lo hi : Nat) (h : Memory.wf s.mem = true) : Memory.wf (zeroRange s lo hi).mem = true := by
  unfold Memory.wf zeroRange
  exact SMap.wf_filter _ h

/-- The length of a range read after they are written. -/
theorem memBytes_length (s : State) (a n : Nat) : (memBytes s a n).length = n := by
  unfold memBytes
  induction n generalizing a with
  | zero => rfl
  | succ n ih => simpa [rangeFrom] using ih (a + 1)

/-- Memory after reset has the canonical form. -/
theorem reset_mem_wf : Memory.wf State.reset.mem = true := rfl

end Sys2Proof.Machine
end

