-- ==== Sys2Proof/Laws/State.lean ====
section
/-! SUPPORT. The laws of the state: each named update changes its own field and leaves every other field alone; a unit that is written
reads back, and every other unit is unchanged. -/

namespace Sys2Proof.Machine

@[simp] theorem setSlot_turn (s : State) (k : Nat) (x : Slot) : (setSlot s k x).turn = s.turn := rfl
@[simp] theorem setSlot_cur (s : State) (k : Nat) (x : Slot) : (setSlot s k x).cur = s.cur := rfl
@[simp] theorem setSlot_mark (s : State) (k : Nat) (x : Slot) : (setSlot s k x).mark = s.mark := rfl
@[simp] theorem setSlot_agenda (s : State) (k : Nat) (x : Slot) : (setSlot s k x).agenda = s.agenda := rfl
@[simp] theorem setSlot_choices (s : State) (k : Nat) (x : Slot) : (setSlot s k x).choices = s.choices := rfl
@[simp] theorem setSlot_free (s : State) (k : Nat) (x : Slot) : (setSlot s k x).free = s.free := rfl
@[simp] theorem setSlot_fresh (s : State) (k : Nat) (x : Slot) : (setSlot s k x).fresh = s.fresh := rfl
@[simp] theorem setSlot_time (s : State) (k : Nat) (x : Slot) : (setSlot s k x).time = s.time := rfl
@[simp] theorem setSlot_turnsTo (s : State) (k : Nat) (x : Slot) : (setSlot s k x).turnsTo = s.turnsTo := rfl
@[simp] theorem setSlot_empties (s : State) (k : Nat) (x : Slot) : (setSlot s k x).empties = s.empties := rfl
@[simp] theorem setSlot_touch (s : State) (k : Nat) (x : Slot) : (setSlot s k x).touch = s.touch := rfl
@[simp] theorem setSlot_mem (s : State) (k : Nat) (x : Slot) : (setSlot s k x).mem = s.mem := rfl
@[simp] theorem setSlot_fe (s : State) (k : Nat) (x : Slot) : (setSlot s k x).fe = s.fe := rfl
@[simp] theorem setSlot_bad (s : State) (k : Nat) (x : Slot) : (setSlot s k x).bad = s.bad := rfl
@[simp] theorem setSlot_form (s : State) (k : Nat) (x : Slot) : (setSlot s k x).form = s.form := rfl
@[simp] theorem setSlot_cores (s : State) (k : Nat) (x : Slot) : (setSlot s k x).cores = s.cores := rfl
@[simp] theorem setSlot_clusters (s : State) (k : Nat) (x : Slot) : (setSlot s k x).clusters = s.clusters := rfl
@[simp] theorem setSlot_towers (s : State) (k : Nat) (x : Slot) : (setSlot s k x).towers = s.towers := rfl
@[simp] theorem setSlot_sites (s : State) (k : Nat) (x : Slot) : (setSlot s k x).sites = s.sites := rfl
@[simp] theorem setSlot_modul (s : State) (k : Nat) (x : Slot) : (setSlot s k x).modul = s.modul := rfl
@[simp] theorem setSlot_net (s : State) (k : Nat) (x : Slot) : (setSlot s k x).net = s.net := rfl
@[simp] theorem setSlot_flips (s : State) (k : Nat) (x : Slot) : (setSlot s k x).flips = s.flips := rfl

@[simp] theorem modSlot_turn (s : State) (k : Nat) (f : Slot → Slot) : (modSlot s k f).turn = s.turn := rfl
@[simp] theorem modSlot_cur (s : State) (k : Nat) (f : Slot → Slot) : (modSlot s k f).cur = s.cur := rfl
@[simp] theorem modSlot_mark (s : State) (k : Nat) (f : Slot → Slot) : (modSlot s k f).mark = s.mark := rfl
@[simp] theorem modSlot_agenda (s : State) (k : Nat) (f : Slot → Slot) : (modSlot s k f).agenda = s.agenda := rfl
@[simp] theorem modSlot_choices (s : State) (k : Nat) (f : Slot → Slot) : (modSlot s k f).choices = s.choices := rfl
@[simp] theorem modSlot_free (s : State) (k : Nat) (f : Slot → Slot) : (modSlot s k f).free = s.free := rfl
@[simp] theorem modSlot_fresh (s : State) (k : Nat) (f : Slot → Slot) : (modSlot s k f).fresh = s.fresh := rfl
@[simp] theorem modSlot_time (s : State) (k : Nat) (f : Slot → Slot) : (modSlot s k f).time = s.time := rfl
@[simp] theorem modSlot_turnsTo (s : State) (k : Nat) (f : Slot → Slot) : (modSlot s k f).turnsTo = s.turnsTo := rfl
@[simp] theorem modSlot_empties (s : State) (k : Nat) (f : Slot → Slot) : (modSlot s k f).empties = s.empties := rfl
@[simp] theorem modSlot_touch (s : State) (k : Nat) (f : Slot → Slot) : (modSlot s k f).touch = s.touch := rfl
@[simp] theorem modSlot_mem (s : State) (k : Nat) (f : Slot → Slot) : (modSlot s k f).mem = s.mem := rfl
@[simp] theorem modSlot_fe (s : State) (k : Nat) (f : Slot → Slot) : (modSlot s k f).fe = s.fe := rfl
@[simp] theorem modSlot_bad (s : State) (k : Nat) (f : Slot → Slot) : (modSlot s k f).bad = s.bad := rfl
@[simp] theorem modSlot_form (s : State) (k : Nat) (f : Slot → Slot) : (modSlot s k f).form = s.form := rfl
@[simp] theorem modSlot_cores (s : State) (k : Nat) (f : Slot → Slot) : (modSlot s k f).cores = s.cores := rfl
@[simp] theorem modSlot_clusters (s : State) (k : Nat) (f : Slot → Slot) : (modSlot s k f).clusters = s.clusters := rfl
@[simp] theorem modSlot_towers (s : State) (k : Nat) (f : Slot → Slot) : (modSlot s k f).towers = s.towers := rfl
@[simp] theorem modSlot_sites (s : State) (k : Nat) (f : Slot → Slot) : (modSlot s k f).sites = s.sites := rfl
@[simp] theorem modSlot_modul (s : State) (k : Nat) (f : Slot → Slot) : (modSlot s k f).modul = s.modul := rfl
@[simp] theorem modSlot_net (s : State) (k : Nat) (f : Slot → Slot) : (modSlot s k f).net = s.net := rfl
@[simp] theorem modSlot_flips (s : State) (k : Nat) (f : Slot → Slot) : (modSlot s k f).flips = s.flips := rfl

@[simp] theorem setCore_turn (s : State) (k : Nat) (x : Core) : (setCore s k x).turn = s.turn := rfl
@[simp] theorem setCore_cur (s : State) (k : Nat) (x : Core) : (setCore s k x).cur = s.cur := rfl
@[simp] theorem setCore_mark (s : State) (k : Nat) (x : Core) : (setCore s k x).mark = s.mark := rfl
@[simp] theorem setCore_agenda (s : State) (k : Nat) (x : Core) : (setCore s k x).agenda = s.agenda := rfl
@[simp] theorem setCore_choices (s : State) (k : Nat) (x : Core) : (setCore s k x).choices = s.choices := rfl
@[simp] theorem setCore_free (s : State) (k : Nat) (x : Core) : (setCore s k x).free = s.free := rfl
@[simp] theorem setCore_fresh (s : State) (k : Nat) (x : Core) : (setCore s k x).fresh = s.fresh := rfl
@[simp] theorem setCore_time (s : State) (k : Nat) (x : Core) : (setCore s k x).time = s.time := rfl
@[simp] theorem setCore_turnsTo (s : State) (k : Nat) (x : Core) : (setCore s k x).turnsTo = s.turnsTo := rfl
@[simp] theorem setCore_empties (s : State) (k : Nat) (x : Core) : (setCore s k x).empties = s.empties := rfl
@[simp] theorem setCore_touch (s : State) (k : Nat) (x : Core) : (setCore s k x).touch = s.touch := rfl
@[simp] theorem setCore_mem (s : State) (k : Nat) (x : Core) : (setCore s k x).mem = s.mem := rfl
@[simp] theorem setCore_fe (s : State) (k : Nat) (x : Core) : (setCore s k x).fe = s.fe := rfl
@[simp] theorem setCore_bad (s : State) (k : Nat) (x : Core) : (setCore s k x).bad = s.bad := rfl
@[simp] theorem setCore_form (s : State) (k : Nat) (x : Core) : (setCore s k x).form = s.form := rfl
@[simp] theorem setCore_slots (s : State) (k : Nat) (x : Core) : (setCore s k x).slots = s.slots := rfl
@[simp] theorem setCore_clusters (s : State) (k : Nat) (x : Core) : (setCore s k x).clusters = s.clusters := rfl
@[simp] theorem setCore_towers (s : State) (k : Nat) (x : Core) : (setCore s k x).towers = s.towers := rfl
@[simp] theorem setCore_sites (s : State) (k : Nat) (x : Core) : (setCore s k x).sites = s.sites := rfl
@[simp] theorem setCore_modul (s : State) (k : Nat) (x : Core) : (setCore s k x).modul = s.modul := rfl
@[simp] theorem setCore_net (s : State) (k : Nat) (x : Core) : (setCore s k x).net = s.net := rfl
@[simp] theorem setCore_flips (s : State) (k : Nat) (x : Core) : (setCore s k x).flips = s.flips := rfl

@[simp] theorem modCore_turn (s : State) (k : Nat) (f : Core → Core) : (modCore s k f).turn = s.turn := rfl
@[simp] theorem modCore_cur (s : State) (k : Nat) (f : Core → Core) : (modCore s k f).cur = s.cur := rfl
@[simp] theorem modCore_mark (s : State) (k : Nat) (f : Core → Core) : (modCore s k f).mark = s.mark := rfl
@[simp] theorem modCore_agenda (s : State) (k : Nat) (f : Core → Core) : (modCore s k f).agenda = s.agenda := rfl
@[simp] theorem modCore_choices (s : State) (k : Nat) (f : Core → Core) : (modCore s k f).choices = s.choices := rfl
@[simp] theorem modCore_free (s : State) (k : Nat) (f : Core → Core) : (modCore s k f).free = s.free := rfl
@[simp] theorem modCore_fresh (s : State) (k : Nat) (f : Core → Core) : (modCore s k f).fresh = s.fresh := rfl
@[simp] theorem modCore_time (s : State) (k : Nat) (f : Core → Core) : (modCore s k f).time = s.time := rfl
@[simp] theorem modCore_turnsTo (s : State) (k : Nat) (f : Core → Core) : (modCore s k f).turnsTo = s.turnsTo := rfl
@[simp] theorem modCore_empties (s : State) (k : Nat) (f : Core → Core) : (modCore s k f).empties = s.empties := rfl
@[simp] theorem modCore_touch (s : State) (k : Nat) (f : Core → Core) : (modCore s k f).touch = s.touch := rfl
@[simp] theorem modCore_mem (s : State) (k : Nat) (f : Core → Core) : (modCore s k f).mem = s.mem := rfl
@[simp] theorem modCore_fe (s : State) (k : Nat) (f : Core → Core) : (modCore s k f).fe = s.fe := rfl
@[simp] theorem modCore_bad (s : State) (k : Nat) (f : Core → Core) : (modCore s k f).bad = s.bad := rfl
@[simp] theorem modCore_form (s : State) (k : Nat) (f : Core → Core) : (modCore s k f).form = s.form := rfl
@[simp] theorem modCore_slots (s : State) (k : Nat) (f : Core → Core) : (modCore s k f).slots = s.slots := rfl
@[simp] theorem modCore_clusters (s : State) (k : Nat) (f : Core → Core) : (modCore s k f).clusters = s.clusters := rfl
@[simp] theorem modCore_towers (s : State) (k : Nat) (f : Core → Core) : (modCore s k f).towers = s.towers := rfl
@[simp] theorem modCore_sites (s : State) (k : Nat) (f : Core → Core) : (modCore s k f).sites = s.sites := rfl
@[simp] theorem modCore_modul (s : State) (k : Nat) (f : Core → Core) : (modCore s k f).modul = s.modul := rfl
@[simp] theorem modCore_net (s : State) (k : Nat) (f : Core → Core) : (modCore s k f).net = s.net := rfl
@[simp] theorem modCore_flips (s : State) (k : Nat) (f : Core → Core) : (modCore s k f).flips = s.flips := rfl

@[simp] theorem setCluster_turn (s : State) (k : Nat) (x : Cluster) : (setCluster s k x).turn = s.turn := rfl
@[simp] theorem setCluster_cur (s : State) (k : Nat) (x : Cluster) : (setCluster s k x).cur = s.cur := rfl
@[simp] theorem setCluster_mark (s : State) (k : Nat) (x : Cluster) : (setCluster s k x).mark = s.mark := rfl
@[simp] theorem setCluster_agenda (s : State) (k : Nat) (x : Cluster) : (setCluster s k x).agenda = s.agenda := rfl
@[simp] theorem setCluster_choices (s : State) (k : Nat) (x : Cluster) : (setCluster s k x).choices = s.choices := rfl
@[simp] theorem setCluster_free (s : State) (k : Nat) (x : Cluster) : (setCluster s k x).free = s.free := rfl
@[simp] theorem setCluster_fresh (s : State) (k : Nat) (x : Cluster) : (setCluster s k x).fresh = s.fresh := rfl
@[simp] theorem setCluster_time (s : State) (k : Nat) (x : Cluster) : (setCluster s k x).time = s.time := rfl
@[simp] theorem setCluster_turnsTo (s : State) (k : Nat) (x : Cluster) : (setCluster s k x).turnsTo = s.turnsTo := rfl
@[simp] theorem setCluster_empties (s : State) (k : Nat) (x : Cluster) : (setCluster s k x).empties = s.empties := rfl
@[simp] theorem setCluster_touch (s : State) (k : Nat) (x : Cluster) : (setCluster s k x).touch = s.touch := rfl
@[simp] theorem setCluster_mem (s : State) (k : Nat) (x : Cluster) : (setCluster s k x).mem = s.mem := rfl
@[simp] theorem setCluster_fe (s : State) (k : Nat) (x : Cluster) : (setCluster s k x).fe = s.fe := rfl
@[simp] theorem setCluster_bad (s : State) (k : Nat) (x : Cluster) : (setCluster s k x).bad = s.bad := rfl
@[simp] theorem setCluster_form (s : State) (k : Nat) (x : Cluster) : (setCluster s k x).form = s.form := rfl
@[simp] theorem setCluster_slots (s : State) (k : Nat) (x : Cluster) : (setCluster s k x).slots = s.slots := rfl
@[simp] theorem setCluster_cores (s : State) (k : Nat) (x : Cluster) : (setCluster s k x).cores = s.cores := rfl
@[simp] theorem setCluster_towers (s : State) (k : Nat) (x : Cluster) : (setCluster s k x).towers = s.towers := rfl
@[simp] theorem setCluster_sites (s : State) (k : Nat) (x : Cluster) : (setCluster s k x).sites = s.sites := rfl
@[simp] theorem setCluster_modul (s : State) (k : Nat) (x : Cluster) : (setCluster s k x).modul = s.modul := rfl
@[simp] theorem setCluster_net (s : State) (k : Nat) (x : Cluster) : (setCluster s k x).net = s.net := rfl
@[simp] theorem setCluster_flips (s : State) (k : Nat) (x : Cluster) : (setCluster s k x).flips = s.flips := rfl

@[simp] theorem modCluster_turn (s : State) (k : Nat) (f : Cluster → Cluster) : (modCluster s k f).turn = s.turn := rfl
@[simp] theorem modCluster_cur (s : State) (k : Nat) (f : Cluster → Cluster) : (modCluster s k f).cur = s.cur := rfl
@[simp] theorem modCluster_mark (s : State) (k : Nat) (f : Cluster → Cluster) : (modCluster s k f).mark = s.mark := rfl
@[simp] theorem modCluster_agenda (s : State) (k : Nat) (f : Cluster → Cluster) : (modCluster s k f).agenda = s.agenda := rfl
@[simp] theorem modCluster_choices (s : State) (k : Nat) (f : Cluster → Cluster) : (modCluster s k f).choices = s.choices := rfl
@[simp] theorem modCluster_free (s : State) (k : Nat) (f : Cluster → Cluster) : (modCluster s k f).free = s.free := rfl
@[simp] theorem modCluster_fresh (s : State) (k : Nat) (f : Cluster → Cluster) : (modCluster s k f).fresh = s.fresh := rfl
@[simp] theorem modCluster_time (s : State) (k : Nat) (f : Cluster → Cluster) : (modCluster s k f).time = s.time := rfl
@[simp] theorem modCluster_turnsTo (s : State) (k : Nat) (f : Cluster → Cluster) : (modCluster s k f).turnsTo = s.turnsTo := rfl
@[simp] theorem modCluster_empties (s : State) (k : Nat) (f : Cluster → Cluster) : (modCluster s k f).empties = s.empties := rfl
@[simp] theorem modCluster_touch (s : State) (k : Nat) (f : Cluster → Cluster) : (modCluster s k f).touch = s.touch := rfl
@[simp] theorem modCluster_mem (s : State) (k : Nat) (f : Cluster → Cluster) : (modCluster s k f).mem = s.mem := rfl
@[simp] theorem modCluster_fe (s : State) (k : Nat) (f : Cluster → Cluster) : (modCluster s k f).fe = s.fe := rfl
@[simp] theorem modCluster_bad (s : State) (k : Nat) (f : Cluster → Cluster) : (modCluster s k f).bad = s.bad := rfl
@[simp] theorem modCluster_form (s : State) (k : Nat) (f : Cluster → Cluster) : (modCluster s k f).form = s.form := rfl
@[simp] theorem modCluster_slots (s : State) (k : Nat) (f : Cluster → Cluster) : (modCluster s k f).slots = s.slots := rfl
@[simp] theorem modCluster_cores (s : State) (k : Nat) (f : Cluster → Cluster) : (modCluster s k f).cores = s.cores := rfl
@[simp] theorem modCluster_towers (s : State) (k : Nat) (f : Cluster → Cluster) : (modCluster s k f).towers = s.towers := rfl
@[simp] theorem modCluster_sites (s : State) (k : Nat) (f : Cluster → Cluster) : (modCluster s k f).sites = s.sites := rfl
@[simp] theorem modCluster_modul (s : State) (k : Nat) (f : Cluster → Cluster) : (modCluster s k f).modul = s.modul := rfl
@[simp] theorem modCluster_net (s : State) (k : Nat) (f : Cluster → Cluster) : (modCluster s k f).net = s.net := rfl
@[simp] theorem modCluster_flips (s : State) (k : Nat) (f : Cluster → Cluster) : (modCluster s k f).flips = s.flips := rfl

@[simp] theorem setTower_turn (s : State) (k : Nat) (x : Tower) : (setTower s k x).turn = s.turn := rfl
@[simp] theorem setTower_cur (s : State) (k : Nat) (x : Tower) : (setTower s k x).cur = s.cur := rfl
@[simp] theorem setTower_mark (s : State) (k : Nat) (x : Tower) : (setTower s k x).mark = s.mark := rfl
@[simp] theorem setTower_agenda (s : State) (k : Nat) (x : Tower) : (setTower s k x).agenda = s.agenda := rfl
@[simp] theorem setTower_choices (s : State) (k : Nat) (x : Tower) : (setTower s k x).choices = s.choices := rfl
@[simp] theorem setTower_free (s : State) (k : Nat) (x : Tower) : (setTower s k x).free = s.free := rfl
@[simp] theorem setTower_fresh (s : State) (k : Nat) (x : Tower) : (setTower s k x).fresh = s.fresh := rfl
@[simp] theorem setTower_time (s : State) (k : Nat) (x : Tower) : (setTower s k x).time = s.time := rfl
@[simp] theorem setTower_turnsTo (s : State) (k : Nat) (x : Tower) : (setTower s k x).turnsTo = s.turnsTo := rfl
@[simp] theorem setTower_empties (s : State) (k : Nat) (x : Tower) : (setTower s k x).empties = s.empties := rfl
@[simp] theorem setTower_touch (s : State) (k : Nat) (x : Tower) : (setTower s k x).touch = s.touch := rfl
@[simp] theorem setTower_mem (s : State) (k : Nat) (x : Tower) : (setTower s k x).mem = s.mem := rfl
@[simp] theorem setTower_fe (s : State) (k : Nat) (x : Tower) : (setTower s k x).fe = s.fe := rfl
@[simp] theorem setTower_bad (s : State) (k : Nat) (x : Tower) : (setTower s k x).bad = s.bad := rfl
@[simp] theorem setTower_form (s : State) (k : Nat) (x : Tower) : (setTower s k x).form = s.form := rfl
@[simp] theorem setTower_slots (s : State) (k : Nat) (x : Tower) : (setTower s k x).slots = s.slots := rfl
@[simp] theorem setTower_cores (s : State) (k : Nat) (x : Tower) : (setTower s k x).cores = s.cores := rfl
@[simp] theorem setTower_clusters (s : State) (k : Nat) (x : Tower) : (setTower s k x).clusters = s.clusters := rfl
@[simp] theorem setTower_sites (s : State) (k : Nat) (x : Tower) : (setTower s k x).sites = s.sites := rfl
@[simp] theorem setTower_modul (s : State) (k : Nat) (x : Tower) : (setTower s k x).modul = s.modul := rfl
@[simp] theorem setTower_net (s : State) (k : Nat) (x : Tower) : (setTower s k x).net = s.net := rfl
@[simp] theorem setTower_flips (s : State) (k : Nat) (x : Tower) : (setTower s k x).flips = s.flips := rfl

@[simp] theorem modTower_turn (s : State) (k : Nat) (f : Tower → Tower) : (modTower s k f).turn = s.turn := rfl
@[simp] theorem modTower_cur (s : State) (k : Nat) (f : Tower → Tower) : (modTower s k f).cur = s.cur := rfl
@[simp] theorem modTower_mark (s : State) (k : Nat) (f : Tower → Tower) : (modTower s k f).mark = s.mark := rfl
@[simp] theorem modTower_agenda (s : State) (k : Nat) (f : Tower → Tower) : (modTower s k f).agenda = s.agenda := rfl
@[simp] theorem modTower_choices (s : State) (k : Nat) (f : Tower → Tower) : (modTower s k f).choices = s.choices := rfl
@[simp] theorem modTower_free (s : State) (k : Nat) (f : Tower → Tower) : (modTower s k f).free = s.free := rfl
@[simp] theorem modTower_fresh (s : State) (k : Nat) (f : Tower → Tower) : (modTower s k f).fresh = s.fresh := rfl
@[simp] theorem modTower_time (s : State) (k : Nat) (f : Tower → Tower) : (modTower s k f).time = s.time := rfl
@[simp] theorem modTower_turnsTo (s : State) (k : Nat) (f : Tower → Tower) : (modTower s k f).turnsTo = s.turnsTo := rfl
@[simp] theorem modTower_empties (s : State) (k : Nat) (f : Tower → Tower) : (modTower s k f).empties = s.empties := rfl
@[simp] theorem modTower_touch (s : State) (k : Nat) (f : Tower → Tower) : (modTower s k f).touch = s.touch := rfl
@[simp] theorem modTower_mem (s : State) (k : Nat) (f : Tower → Tower) : (modTower s k f).mem = s.mem := rfl
@[simp] theorem modTower_fe (s : State) (k : Nat) (f : Tower → Tower) : (modTower s k f).fe = s.fe := rfl
@[simp] theorem modTower_bad (s : State) (k : Nat) (f : Tower → Tower) : (modTower s k f).bad = s.bad := rfl
@[simp] theorem modTower_form (s : State) (k : Nat) (f : Tower → Tower) : (modTower s k f).form = s.form := rfl
@[simp] theorem modTower_slots (s : State) (k : Nat) (f : Tower → Tower) : (modTower s k f).slots = s.slots := rfl
@[simp] theorem modTower_cores (s : State) (k : Nat) (f : Tower → Tower) : (modTower s k f).cores = s.cores := rfl
@[simp] theorem modTower_clusters (s : State) (k : Nat) (f : Tower → Tower) : (modTower s k f).clusters = s.clusters := rfl
@[simp] theorem modTower_sites (s : State) (k : Nat) (f : Tower → Tower) : (modTower s k f).sites = s.sites := rfl
@[simp] theorem modTower_modul (s : State) (k : Nat) (f : Tower → Tower) : (modTower s k f).modul = s.modul := rfl
@[simp] theorem modTower_net (s : State) (k : Nat) (f : Tower → Tower) : (modTower s k f).net = s.net := rfl
@[simp] theorem modTower_flips (s : State) (k : Nat) (f : Tower → Tower) : (modTower s k f).flips = s.flips := rfl

@[simp] theorem setSite_turn (s : State) (k : Nat) (x : Site) : (setSite s k x).turn = s.turn := rfl
@[simp] theorem setSite_cur (s : State) (k : Nat) (x : Site) : (setSite s k x).cur = s.cur := rfl
@[simp] theorem setSite_mark (s : State) (k : Nat) (x : Site) : (setSite s k x).mark = s.mark := rfl
@[simp] theorem setSite_agenda (s : State) (k : Nat) (x : Site) : (setSite s k x).agenda = s.agenda := rfl
@[simp] theorem setSite_choices (s : State) (k : Nat) (x : Site) : (setSite s k x).choices = s.choices := rfl
@[simp] theorem setSite_free (s : State) (k : Nat) (x : Site) : (setSite s k x).free = s.free := rfl
@[simp] theorem setSite_fresh (s : State) (k : Nat) (x : Site) : (setSite s k x).fresh = s.fresh := rfl
@[simp] theorem setSite_time (s : State) (k : Nat) (x : Site) : (setSite s k x).time = s.time := rfl
@[simp] theorem setSite_turnsTo (s : State) (k : Nat) (x : Site) : (setSite s k x).turnsTo = s.turnsTo := rfl
@[simp] theorem setSite_empties (s : State) (k : Nat) (x : Site) : (setSite s k x).empties = s.empties := rfl
@[simp] theorem setSite_touch (s : State) (k : Nat) (x : Site) : (setSite s k x).touch = s.touch := rfl
@[simp] theorem setSite_mem (s : State) (k : Nat) (x : Site) : (setSite s k x).mem = s.mem := rfl
@[simp] theorem setSite_fe (s : State) (k : Nat) (x : Site) : (setSite s k x).fe = s.fe := rfl
@[simp] theorem setSite_bad (s : State) (k : Nat) (x : Site) : (setSite s k x).bad = s.bad := rfl
@[simp] theorem setSite_form (s : State) (k : Nat) (x : Site) : (setSite s k x).form = s.form := rfl
@[simp] theorem setSite_slots (s : State) (k : Nat) (x : Site) : (setSite s k x).slots = s.slots := rfl
@[simp] theorem setSite_cores (s : State) (k : Nat) (x : Site) : (setSite s k x).cores = s.cores := rfl
@[simp] theorem setSite_clusters (s : State) (k : Nat) (x : Site) : (setSite s k x).clusters = s.clusters := rfl
@[simp] theorem setSite_towers (s : State) (k : Nat) (x : Site) : (setSite s k x).towers = s.towers := rfl
@[simp] theorem setSite_modul (s : State) (k : Nat) (x : Site) : (setSite s k x).modul = s.modul := rfl
@[simp] theorem setSite_net (s : State) (k : Nat) (x : Site) : (setSite s k x).net = s.net := rfl
@[simp] theorem setSite_flips (s : State) (k : Nat) (x : Site) : (setSite s k x).flips = s.flips := rfl

@[simp] theorem modSite_turn (s : State) (k : Nat) (f : Site → Site) : (modSite s k f).turn = s.turn := rfl
@[simp] theorem modSite_cur (s : State) (k : Nat) (f : Site → Site) : (modSite s k f).cur = s.cur := rfl
@[simp] theorem modSite_mark (s : State) (k : Nat) (f : Site → Site) : (modSite s k f).mark = s.mark := rfl
@[simp] theorem modSite_agenda (s : State) (k : Nat) (f : Site → Site) : (modSite s k f).agenda = s.agenda := rfl
@[simp] theorem modSite_choices (s : State) (k : Nat) (f : Site → Site) : (modSite s k f).choices = s.choices := rfl
@[simp] theorem modSite_free (s : State) (k : Nat) (f : Site → Site) : (modSite s k f).free = s.free := rfl
@[simp] theorem modSite_fresh (s : State) (k : Nat) (f : Site → Site) : (modSite s k f).fresh = s.fresh := rfl
@[simp] theorem modSite_time (s : State) (k : Nat) (f : Site → Site) : (modSite s k f).time = s.time := rfl
@[simp] theorem modSite_turnsTo (s : State) (k : Nat) (f : Site → Site) : (modSite s k f).turnsTo = s.turnsTo := rfl
@[simp] theorem modSite_empties (s : State) (k : Nat) (f : Site → Site) : (modSite s k f).empties = s.empties := rfl
@[simp] theorem modSite_touch (s : State) (k : Nat) (f : Site → Site) : (modSite s k f).touch = s.touch := rfl
@[simp] theorem modSite_mem (s : State) (k : Nat) (f : Site → Site) : (modSite s k f).mem = s.mem := rfl
@[simp] theorem modSite_fe (s : State) (k : Nat) (f : Site → Site) : (modSite s k f).fe = s.fe := rfl
@[simp] theorem modSite_bad (s : State) (k : Nat) (f : Site → Site) : (modSite s k f).bad = s.bad := rfl
@[simp] theorem modSite_form (s : State) (k : Nat) (f : Site → Site) : (modSite s k f).form = s.form := rfl
@[simp] theorem modSite_slots (s : State) (k : Nat) (f : Site → Site) : (modSite s k f).slots = s.slots := rfl
@[simp] theorem modSite_cores (s : State) (k : Nat) (f : Site → Site) : (modSite s k f).cores = s.cores := rfl
@[simp] theorem modSite_clusters (s : State) (k : Nat) (f : Site → Site) : (modSite s k f).clusters = s.clusters := rfl
@[simp] theorem modSite_towers (s : State) (k : Nat) (f : Site → Site) : (modSite s k f).towers = s.towers := rfl
@[simp] theorem modSite_modul (s : State) (k : Nat) (f : Site → Site) : (modSite s k f).modul = s.modul := rfl
@[simp] theorem modSite_net (s : State) (k : Nat) (f : Site → Site) : (modSite s k f).net = s.net := rfl
@[simp] theorem modSite_flips (s : State) (k : Nat) (f : Site → Site) : (modSite s k f).flips = s.flips := rfl

@[simp] theorem modModul_turn (s : State) (f : Modul → Modul) : (modModul s f).turn = s.turn := rfl
@[simp] theorem modModul_cur (s : State) (f : Modul → Modul) : (modModul s f).cur = s.cur := rfl
@[simp] theorem modModul_mark (s : State) (f : Modul → Modul) : (modModul s f).mark = s.mark := rfl
@[simp] theorem modModul_agenda (s : State) (f : Modul → Modul) : (modModul s f).agenda = s.agenda := rfl
@[simp] theorem modModul_choices (s : State) (f : Modul → Modul) : (modModul s f).choices = s.choices := rfl
@[simp] theorem modModul_free (s : State) (f : Modul → Modul) : (modModul s f).free = s.free := rfl
@[simp] theorem modModul_fresh (s : State) (f : Modul → Modul) : (modModul s f).fresh = s.fresh := rfl
@[simp] theorem modModul_time (s : State) (f : Modul → Modul) : (modModul s f).time = s.time := rfl
@[simp] theorem modModul_turnsTo (s : State) (f : Modul → Modul) : (modModul s f).turnsTo = s.turnsTo := rfl
@[simp] theorem modModul_empties (s : State) (f : Modul → Modul) : (modModul s f).empties = s.empties := rfl
@[simp] theorem modModul_touch (s : State) (f : Modul → Modul) : (modModul s f).touch = s.touch := rfl
@[simp] theorem modModul_mem (s : State) (f : Modul → Modul) : (modModul s f).mem = s.mem := rfl
@[simp] theorem modModul_fe (s : State) (f : Modul → Modul) : (modModul s f).fe = s.fe := rfl
@[simp] theorem modModul_bad (s : State) (f : Modul → Modul) : (modModul s f).bad = s.bad := rfl
@[simp] theorem modModul_form (s : State) (f : Modul → Modul) : (modModul s f).form = s.form := rfl
@[simp] theorem modModul_slots (s : State) (f : Modul → Modul) : (modModul s f).slots = s.slots := rfl
@[simp] theorem modModul_cores (s : State) (f : Modul → Modul) : (modModul s f).cores = s.cores := rfl
@[simp] theorem modModul_clusters (s : State) (f : Modul → Modul) : (modModul s f).clusters = s.clusters := rfl
@[simp] theorem modModul_towers (s : State) (f : Modul → Modul) : (modModul s f).towers = s.towers := rfl
@[simp] theorem modModul_sites (s : State) (f : Modul → Modul) : (modModul s f).sites = s.sites := rfl
@[simp] theorem modModul_net (s : State) (f : Modul → Modul) : (modModul s f).net = s.net := rfl
@[simp] theorem modModul_flips (s : State) (f : Modul → Modul) : (modModul s f).flips = s.flips := rfl

@[simp] theorem setBytes_turn (s : State) (a : Nat) (bs : List Byte) : (setBytes s a bs).turn = s.turn := rfl
@[simp] theorem setBytes_cur (s : State) (a : Nat) (bs : List Byte) : (setBytes s a bs).cur = s.cur := rfl
@[simp] theorem setBytes_mark (s : State) (a : Nat) (bs : List Byte) : (setBytes s a bs).mark = s.mark := rfl
@[simp] theorem setBytes_agenda (s : State) (a : Nat) (bs : List Byte) : (setBytes s a bs).agenda = s.agenda := rfl
@[simp] theorem setBytes_choices (s : State) (a : Nat) (bs : List Byte) : (setBytes s a bs).choices = s.choices := rfl
@[simp] theorem setBytes_free (s : State) (a : Nat) (bs : List Byte) : (setBytes s a bs).free = s.free := rfl
@[simp] theorem setBytes_fresh (s : State) (a : Nat) (bs : List Byte) : (setBytes s a bs).fresh = s.fresh := rfl
@[simp] theorem setBytes_time (s : State) (a : Nat) (bs : List Byte) : (setBytes s a bs).time = s.time := rfl
@[simp] theorem setBytes_turnsTo (s : State) (a : Nat) (bs : List Byte) : (setBytes s a bs).turnsTo = s.turnsTo := rfl
@[simp] theorem setBytes_empties (s : State) (a : Nat) (bs : List Byte) : (setBytes s a bs).empties = s.empties := rfl
@[simp] theorem setBytes_touch (s : State) (a : Nat) (bs : List Byte) : (setBytes s a bs).touch = s.touch := rfl
@[simp] theorem setBytes_fe (s : State) (a : Nat) (bs : List Byte) : (setBytes s a bs).fe = s.fe := rfl
@[simp] theorem setBytes_bad (s : State) (a : Nat) (bs : List Byte) : (setBytes s a bs).bad = s.bad := rfl
@[simp] theorem setBytes_form (s : State) (a : Nat) (bs : List Byte) : (setBytes s a bs).form = s.form := rfl
@[simp] theorem setBytes_slots (s : State) (a : Nat) (bs : List Byte) : (setBytes s a bs).slots = s.slots := rfl
@[simp] theorem setBytes_cores (s : State) (a : Nat) (bs : List Byte) : (setBytes s a bs).cores = s.cores := rfl
@[simp] theorem setBytes_clusters (s : State) (a : Nat) (bs : List Byte) : (setBytes s a bs).clusters = s.clusters := rfl
@[simp] theorem setBytes_towers (s : State) (a : Nat) (bs : List Byte) : (setBytes s a bs).towers = s.towers := rfl
@[simp] theorem setBytes_sites (s : State) (a : Nat) (bs : List Byte) : (setBytes s a bs).sites = s.sites := rfl
@[simp] theorem setBytes_modul (s : State) (a : Nat) (bs : List Byte) : (setBytes s a bs).modul = s.modul := rfl
@[simp] theorem setBytes_net (s : State) (a : Nat) (bs : List Byte) : (setBytes s a bs).net = s.net := rfl
@[simp] theorem setBytes_flips (s : State) (a : Nat) (bs : List Byte) : (setBytes s a bs).flips = s.flips := rfl

@[simp] theorem sendMsg_turn (s : State) (m : Msg) : (sendMsg s m).turn = s.turn := rfl
@[simp] theorem sendMsg_cur (s : State) (m : Msg) : (sendMsg s m).cur = s.cur := rfl
@[simp] theorem sendMsg_mark (s : State) (m : Msg) : (sendMsg s m).mark = s.mark := rfl
@[simp] theorem sendMsg_agenda (s : State) (m : Msg) : (sendMsg s m).agenda = s.agenda := rfl
@[simp] theorem sendMsg_choices (s : State) (m : Msg) : (sendMsg s m).choices = s.choices := rfl
@[simp] theorem sendMsg_free (s : State) (m : Msg) : (sendMsg s m).free = s.free := rfl
@[simp] theorem sendMsg_fresh (s : State) (m : Msg) : (sendMsg s m).fresh = s.fresh := rfl
@[simp] theorem sendMsg_time (s : State) (m : Msg) : (sendMsg s m).time = s.time := rfl
@[simp] theorem sendMsg_turnsTo (s : State) (m : Msg) : (sendMsg s m).turnsTo = s.turnsTo := rfl
@[simp] theorem sendMsg_empties (s : State) (m : Msg) : (sendMsg s m).empties = s.empties := rfl
@[simp] theorem sendMsg_touch (s : State) (m : Msg) : (sendMsg s m).touch = s.touch ||| touchOf m := rfl
@[simp] theorem sendMsg_mem (s : State) (m : Msg) : (sendMsg s m).mem = s.mem := rfl
@[simp] theorem sendMsg_fe (s : State) (m : Msg) : (sendMsg s m).fe = s.fe := rfl
@[simp] theorem sendMsg_bad (s : State) (m : Msg) : (sendMsg s m).bad = s.bad := rfl
@[simp] theorem sendMsg_form (s : State) (m : Msg) : (sendMsg s m).form = s.form := rfl
@[simp] theorem sendMsg_slots (s : State) (m : Msg) : (sendMsg s m).slots = s.slots := rfl
@[simp] theorem sendMsg_cores (s : State) (m : Msg) : (sendMsg s m).cores = s.cores := rfl
@[simp] theorem sendMsg_clusters (s : State) (m : Msg) : (sendMsg s m).clusters = s.clusters := rfl
@[simp] theorem sendMsg_towers (s : State) (m : Msg) : (sendMsg s m).towers = s.towers := rfl
@[simp] theorem sendMsg_sites (s : State) (m : Msg) : (sendMsg s m).sites = s.sites := rfl
@[simp] theorem sendMsg_modul (s : State) (m : Msg) : (sendMsg s m).modul = s.modul := rfl
@[simp] theorem sendMsg_flips (s : State) (m : Msg) : (sendMsg s m).flips = s.flips := rfl

@[simp] theorem dropMsg_turn (s : State) (i : Nat) : (dropMsg s i).turn = s.turn := rfl
@[simp] theorem dropMsg_cur (s : State) (i : Nat) : (dropMsg s i).cur = s.cur := rfl
@[simp] theorem dropMsg_mark (s : State) (i : Nat) : (dropMsg s i).mark = s.mark := rfl
@[simp] theorem dropMsg_agenda (s : State) (i : Nat) : (dropMsg s i).agenda = s.agenda := rfl
@[simp] theorem dropMsg_choices (s : State) (i : Nat) : (dropMsg s i).choices = s.choices := rfl
@[simp] theorem dropMsg_free (s : State) (i : Nat) : (dropMsg s i).free = s.free := rfl
@[simp] theorem dropMsg_fresh (s : State) (i : Nat) : (dropMsg s i).fresh = s.fresh := rfl
@[simp] theorem dropMsg_time (s : State) (i : Nat) : (dropMsg s i).time = s.time := rfl
@[simp] theorem dropMsg_turnsTo (s : State) (i : Nat) : (dropMsg s i).turnsTo = s.turnsTo := rfl
@[simp] theorem dropMsg_empties (s : State) (i : Nat) : (dropMsg s i).empties = s.empties := rfl
@[simp] theorem dropMsg_mem (s : State) (i : Nat) : (dropMsg s i).mem = s.mem := rfl
@[simp] theorem dropMsg_fe (s : State) (i : Nat) : (dropMsg s i).fe = s.fe := rfl
@[simp] theorem dropMsg_bad (s : State) (i : Nat) : (dropMsg s i).bad = s.bad := rfl
@[simp] theorem dropMsg_form (s : State) (i : Nat) : (dropMsg s i).form = s.form := rfl
@[simp] theorem dropMsg_slots (s : State) (i : Nat) : (dropMsg s i).slots = s.slots := rfl
@[simp] theorem dropMsg_cores (s : State) (i : Nat) : (dropMsg s i).cores = s.cores := rfl
@[simp] theorem dropMsg_clusters (s : State) (i : Nat) : (dropMsg s i).clusters = s.clusters := rfl
@[simp] theorem dropMsg_towers (s : State) (i : Nat) : (dropMsg s i).towers = s.towers := rfl
@[simp] theorem dropMsg_sites (s : State) (i : Nat) : (dropMsg s i).sites = s.sites := rfl
@[simp] theorem dropMsg_modul (s : State) (i : Nat) : (dropMsg s i).modul = s.modul := rfl
@[simp] theorem dropMsg_flips (s : State) (i : Nat) : (dropMsg s i).flips = s.flips := rfl

@[simp] theorem slotAt_setSlot_self (s : State) (k : Nat) (x : Slot) : slotAt (setSlot s k x) k = x := SMap.get_set_self _ _ _ _
theorem slotAt_setSlot_ne (s : State) {k j : Nat} (x : Slot) (h : j ≠ k) : slotAt (setSlot s k x) j = slotAt s j := SMap.get_set_ne _ _ _ h
@[simp] theorem slotAt_modSlot_self (s : State) (k : Nat) (f : Slot → Slot) : slotAt (modSlot s k f) k = f (slotAt s k) := SMap.get_set_self _ _ _ _
theorem slotAt_modSlot_ne (s : State) {k j : Nat} (f : Slot → Slot) (h : j ≠ k) : slotAt (modSlot s k f) j = slotAt s j := SMap.get_set_ne _ _ _ h
@[simp] theorem slotAt_setCore (s : State) (k : Nat) (x : Core) (j : Nat) : slotAt (setCore s k x) j = slotAt s j := rfl
@[simp] theorem slotAt_modCore (s : State) (k : Nat) (f : Core → Core) (j : Nat) : slotAt (modCore s k f) j = slotAt s j := rfl
@[simp] theorem slotAt_setCluster (s : State) (k : Nat) (x : Cluster) (j : Nat) : slotAt (setCluster s k x) j = slotAt s j := rfl
@[simp] theorem slotAt_modCluster (s : State) (k : Nat) (f : Cluster → Cluster) (j : Nat) : slotAt (modCluster s k f) j = slotAt s j := rfl
@[simp] theorem slotAt_setTower (s : State) (k : Nat) (x : Tower) (j : Nat) : slotAt (setTower s k x) j = slotAt s j := rfl
@[simp] theorem slotAt_modTower (s : State) (k : Nat) (f : Tower → Tower) (j : Nat) : slotAt (modTower s k f) j = slotAt s j := rfl
@[simp] theorem slotAt_setSite (s : State) (k : Nat) (x : Site) (j : Nat) : slotAt (setSite s k x) j = slotAt s j := rfl
@[simp] theorem slotAt_modSite (s : State) (k : Nat) (f : Site → Site) (j : Nat) : slotAt (modSite s k f) j = slotAt s j := rfl
@[simp] theorem slotAt_modModul (s : State) (f : Modul → Modul) (j : Nat) : slotAt (modModul s f) j = slotAt s j := rfl
@[simp] theorem slotAt_setBytes (s : State) (a : Nat) (bs : List Byte) (j : Nat) : slotAt (setBytes s a bs) j = slotAt s j := rfl
@[simp] theorem slotAt_sendMsg (s : State) (m : Msg) (j : Nat) : slotAt (sendMsg s m) j = slotAt s j := rfl
@[simp] theorem slotAt_dropMsg (s : State) (i : Nat) (j : Nat) : slotAt (dropMsg s i) j = slotAt s j := rfl

@[simp] theorem coreAt_setCore_self (s : State) (k : Nat) (x : Core) : coreAt (setCore s k x) k = x := SMap.get_set_self _ _ _ _
theorem coreAt_setCore_ne (s : State) {k j : Nat} (x : Core) (h : j ≠ k) : coreAt (setCore s k x) j = coreAt s j := SMap.get_set_ne _ _ _ h
@[simp] theorem coreAt_modCore_self (s : State) (k : Nat) (f : Core → Core) : coreAt (modCore s k f) k = f (coreAt s k) := SMap.get_set_self _ _ _ _
theorem coreAt_modCore_ne (s : State) {k j : Nat} (f : Core → Core) (h : j ≠ k) : coreAt (modCore s k f) j = coreAt s j := SMap.get_set_ne _ _ _ h
@[simp] theorem coreAt_setSlot (s : State) (k : Nat) (x : Slot) (j : Nat) : coreAt (setSlot s k x) j = coreAt s j := rfl
@[simp] theorem coreAt_modSlot (s : State) (k : Nat) (f : Slot → Slot) (j : Nat) : coreAt (modSlot s k f) j = coreAt s j := rfl
@[simp] theorem coreAt_setCluster (s : State) (k : Nat) (x : Cluster) (j : Nat) : coreAt (setCluster s k x) j = coreAt s j := rfl
@[simp] theorem coreAt_modCluster (s : State) (k : Nat) (f : Cluster → Cluster) (j : Nat) : coreAt (modCluster s k f) j = coreAt s j := rfl
@[simp] theorem coreAt_setTower (s : State) (k : Nat) (x : Tower) (j : Nat) : coreAt (setTower s k x) j = coreAt s j := rfl
@[simp] theorem coreAt_modTower (s : State) (k : Nat) (f : Tower → Tower) (j : Nat) : coreAt (modTower s k f) j = coreAt s j := rfl
@[simp] theorem coreAt_setSite (s : State) (k : Nat) (x : Site) (j : Nat) : coreAt (setSite s k x) j = coreAt s j := rfl
@[simp] theorem coreAt_modSite (s : State) (k : Nat) (f : Site → Site) (j : Nat) : coreAt (modSite s k f) j = coreAt s j := rfl
@[simp] theorem coreAt_modModul (s : State) (f : Modul → Modul) (j : Nat) : coreAt (modModul s f) j = coreAt s j := rfl
@[simp] theorem coreAt_setBytes (s : State) (a : Nat) (bs : List Byte) (j : Nat) : coreAt (setBytes s a bs) j = coreAt s j := rfl
@[simp] theorem coreAt_sendMsg (s : State) (m : Msg) (j : Nat) : coreAt (sendMsg s m) j = coreAt s j := rfl
@[simp] theorem coreAt_dropMsg (s : State) (i : Nat) (j : Nat) : coreAt (dropMsg s i) j = coreAt s j := rfl

@[simp] theorem clusterAt_setCluster_self (s : State) (k : Nat) (x : Cluster) : clusterAt (setCluster s k x) k = x := SMap.get_set_self _ _ _ _
theorem clusterAt_setCluster_ne (s : State) {k j : Nat} (x : Cluster) (h : j ≠ k) : clusterAt (setCluster s k x) j = clusterAt s j := SMap.get_set_ne _ _ _ h
@[simp] theorem clusterAt_modCluster_self (s : State) (k : Nat) (f : Cluster → Cluster) : clusterAt (modCluster s k f) k = f (clusterAt s k) := SMap.get_set_self _ _ _ _
theorem clusterAt_modCluster_ne (s : State) {k j : Nat} (f : Cluster → Cluster) (h : j ≠ k) : clusterAt (modCluster s k f) j = clusterAt s j := SMap.get_set_ne _ _ _ h
@[simp] theorem clusterAt_setSlot (s : State) (k : Nat) (x : Slot) (j : Nat) : clusterAt (setSlot s k x) j = clusterAt s j := rfl
@[simp] theorem clusterAt_modSlot (s : State) (k : Nat) (f : Slot → Slot) (j : Nat) : clusterAt (modSlot s k f) j = clusterAt s j := rfl
@[simp] theorem clusterAt_setCore (s : State) (k : Nat) (x : Core) (j : Nat) : clusterAt (setCore s k x) j = clusterAt s j := rfl
@[simp] theorem clusterAt_modCore (s : State) (k : Nat) (f : Core → Core) (j : Nat) : clusterAt (modCore s k f) j = clusterAt s j := rfl
@[simp] theorem clusterAt_setTower (s : State) (k : Nat) (x : Tower) (j : Nat) : clusterAt (setTower s k x) j = clusterAt s j := rfl
@[simp] theorem clusterAt_modTower (s : State) (k : Nat) (f : Tower → Tower) (j : Nat) : clusterAt (modTower s k f) j = clusterAt s j := rfl
@[simp] theorem clusterAt_setSite (s : State) (k : Nat) (x : Site) (j : Nat) : clusterAt (setSite s k x) j = clusterAt s j := rfl
@[simp] theorem clusterAt_modSite (s : State) (k : Nat) (f : Site → Site) (j : Nat) : clusterAt (modSite s k f) j = clusterAt s j := rfl
@[simp] theorem clusterAt_modModul (s : State) (f : Modul → Modul) (j : Nat) : clusterAt (modModul s f) j = clusterAt s j := rfl
@[simp] theorem clusterAt_setBytes (s : State) (a : Nat) (bs : List Byte) (j : Nat) : clusterAt (setBytes s a bs) j = clusterAt s j := rfl
@[simp] theorem clusterAt_sendMsg (s : State) (m : Msg) (j : Nat) : clusterAt (sendMsg s m) j = clusterAt s j := rfl
@[simp] theorem clusterAt_dropMsg (s : State) (i : Nat) (j : Nat) : clusterAt (dropMsg s i) j = clusterAt s j := rfl

@[simp] theorem towerAt_setTower_self (s : State) (k : Nat) (x : Tower) : towerAt (setTower s k x) k = x := SMap.get_set_self _ _ _ _
theorem towerAt_setTower_ne (s : State) {k j : Nat} (x : Tower) (h : j ≠ k) : towerAt (setTower s k x) j = towerAt s j := SMap.get_set_ne _ _ _ h
@[simp] theorem towerAt_modTower_self (s : State) (k : Nat) (f : Tower → Tower) : towerAt (modTower s k f) k = f (towerAt s k) := SMap.get_set_self _ _ _ _
theorem towerAt_modTower_ne (s : State) {k j : Nat} (f : Tower → Tower) (h : j ≠ k) : towerAt (modTower s k f) j = towerAt s j := SMap.get_set_ne _ _ _ h
@[simp] theorem towerAt_setSlot (s : State) (k : Nat) (x : Slot) (j : Nat) : towerAt (setSlot s k x) j = towerAt s j := rfl
@[simp] theorem towerAt_modSlot (s : State) (k : Nat) (f : Slot → Slot) (j : Nat) : towerAt (modSlot s k f) j = towerAt s j := rfl
@[simp] theorem towerAt_setCore (s : State) (k : Nat) (x : Core) (j : Nat) : towerAt (setCore s k x) j = towerAt s j := rfl
@[simp] theorem towerAt_modCore (s : State) (k : Nat) (f : Core → Core) (j : Nat) : towerAt (modCore s k f) j = towerAt s j := rfl
@[simp] theorem towerAt_setCluster (s : State) (k : Nat) (x : Cluster) (j : Nat) : towerAt (setCluster s k x) j = towerAt s j := rfl
@[simp] theorem towerAt_modCluster (s : State) (k : Nat) (f : Cluster → Cluster) (j : Nat) : towerAt (modCluster s k f) j = towerAt s j := rfl
@[simp] theorem towerAt_setSite (s : State) (k : Nat) (x : Site) (j : Nat) : towerAt (setSite s k x) j = towerAt s j := rfl
@[simp] theorem towerAt_modSite (s : State) (k : Nat) (f : Site → Site) (j : Nat) : towerAt (modSite s k f) j = towerAt s j := rfl
@[simp] theorem towerAt_modModul (s : State) (f : Modul → Modul) (j : Nat) : towerAt (modModul s f) j = towerAt s j := rfl
@[simp] theorem towerAt_setBytes (s : State) (a : Nat) (bs : List Byte) (j : Nat) : towerAt (setBytes s a bs) j = towerAt s j := rfl
@[simp] theorem towerAt_sendMsg (s : State) (m : Msg) (j : Nat) : towerAt (sendMsg s m) j = towerAt s j := rfl
@[simp] theorem towerAt_dropMsg (s : State) (i : Nat) (j : Nat) : towerAt (dropMsg s i) j = towerAt s j := rfl

@[simp] theorem siteAt_setSite_self (s : State) (k : Nat) (x : Site) : siteAt (setSite s k x) k = x := SMap.get_set_self _ _ _ _
theorem siteAt_setSite_ne (s : State) {k j : Nat} (x : Site) (h : j ≠ k) : siteAt (setSite s k x) j = siteAt s j := SMap.get_set_ne _ _ _ h
@[simp] theorem siteAt_modSite_self (s : State) (k : Nat) (f : Site → Site) : siteAt (modSite s k f) k = f (siteAt s k) := SMap.get_set_self _ _ _ _
theorem siteAt_modSite_ne (s : State) {k j : Nat} (f : Site → Site) (h : j ≠ k) : siteAt (modSite s k f) j = siteAt s j := SMap.get_set_ne _ _ _ h
@[simp] theorem siteAt_setSlot (s : State) (k : Nat) (x : Slot) (j : Nat) : siteAt (setSlot s k x) j = siteAt s j := rfl
@[simp] theorem siteAt_modSlot (s : State) (k : Nat) (f : Slot → Slot) (j : Nat) : siteAt (modSlot s k f) j = siteAt s j := rfl
@[simp] theorem siteAt_setCore (s : State) (k : Nat) (x : Core) (j : Nat) : siteAt (setCore s k x) j = siteAt s j := rfl
@[simp] theorem siteAt_modCore (s : State) (k : Nat) (f : Core → Core) (j : Nat) : siteAt (modCore s k f) j = siteAt s j := rfl
@[simp] theorem siteAt_setCluster (s : State) (k : Nat) (x : Cluster) (j : Nat) : siteAt (setCluster s k x) j = siteAt s j := rfl
@[simp] theorem siteAt_modCluster (s : State) (k : Nat) (f : Cluster → Cluster) (j : Nat) : siteAt (modCluster s k f) j = siteAt s j := rfl
@[simp] theorem siteAt_setTower (s : State) (k : Nat) (x : Tower) (j : Nat) : siteAt (setTower s k x) j = siteAt s j := rfl
@[simp] theorem siteAt_modTower (s : State) (k : Nat) (f : Tower → Tower) (j : Nat) : siteAt (modTower s k f) j = siteAt s j := rfl
@[simp] theorem siteAt_modModul (s : State) (f : Modul → Modul) (j : Nat) : siteAt (modModul s f) j = siteAt s j := rfl
@[simp] theorem siteAt_setBytes (s : State) (a : Nat) (bs : List Byte) (j : Nat) : siteAt (setBytes s a bs) j = siteAt s j := rfl
@[simp] theorem siteAt_sendMsg (s : State) (m : Msg) (j : Nat) : siteAt (sendMsg s m) j = siteAt s j := rfl
@[simp] theorem siteAt_dropMsg (s : State) (i : Nat) (j : Nat) : siteAt (dropMsg s i) j = siteAt s j := rfl

@[simp] theorem memByte_setSlot (s : State) (k : Nat) (x : Slot) (a : Nat) : memByte (setSlot s k x) a = memByte s a := rfl
@[simp] theorem memByte_modSlot (s : State) (k : Nat) (f : Slot → Slot) (a : Nat) : memByte (modSlot s k f) a = memByte s a := rfl
@[simp] theorem memByte_setCore (s : State) (k : Nat) (x : Core) (a : Nat) : memByte (setCore s k x) a = memByte s a := rfl
@[simp] theorem memByte_modCore (s : State) (k : Nat) (f : Core → Core) (a : Nat) : memByte (modCore s k f) a = memByte s a := rfl
@[simp] theorem memByte_setCluster (s : State) (k : Nat) (x : Cluster) (a : Nat) : memByte (setCluster s k x) a = memByte s a := rfl
@[simp] theorem memByte_modCluster (s : State) (k : Nat) (f : Cluster → Cluster) (a : Nat) : memByte (modCluster s k f) a = memByte s a := rfl
@[simp] theorem memByte_setTower (s : State) (k : Nat) (x : Tower) (a : Nat) : memByte (setTower s k x) a = memByte s a := rfl
@[simp] theorem memByte_modTower (s : State) (k : Nat) (f : Tower → Tower) (a : Nat) : memByte (modTower s k f) a = memByte s a := rfl
@[simp] theorem memByte_setSite (s : State) (k : Nat) (x : Site) (a : Nat) : memByte (setSite s k x) a = memByte s a := rfl
@[simp] theorem memByte_modSite (s : State) (k : Nat) (f : Site → Site) (a : Nat) : memByte (modSite s k f) a = memByte s a := rfl
@[simp] theorem memByte_modModul (s : State) (f : Modul → Modul) (a : Nat) : memByte (modModul s f) a = memByte s a := rfl
@[simp] theorem memByte_sendMsg (s : State) (m : Msg) (a : Nat) : memByte (sendMsg s m) a = memByte s a := rfl
@[simp] theorem memByte_dropMsg (s : State) (i : Nat) (a : Nat) : memByte (dropMsg s i) a = memByte s a := rfl

@[simp] theorem Slot.setReg_pend (x : Slot) (r : Nat) (v : Word) : (x.setReg r v).pend = x.pend := by unfold Slot.setReg; split <;> rfl
@[simp] theorem Slot.setReg_pc (x : Slot) (r : Nat) (v : Word) : (x.setReg r v).pc = x.pc := by unfold Slot.setReg; split <;> rfl
@[simp] theorem Slot.setReg_mode (x : Slot) (r : Nat) (v : Word) : (x.setReg r v).mode = x.mode := by unfold Slot.setReg; split <;> rfl
@[simp] theorem Slot.setReg_st (x : Slot) (r : Nat) (v : Word) : (x.setReg r v).st = x.st := by unfold Slot.setReg; split <;> rfl
@[simp] theorem Slot.setReg_fetch (x : Slot) (r : Nat) (v : Word) : (x.setReg r v).fetch = x.fetch := by unfold Slot.setReg; split <;> rfl
@[simp] theorem Slot.setReg_dbgs (x : Slot) (r : Nat) (v : Word) : (x.setReg r v).dbgs = x.dbgs := by unfold Slot.setReg; split <;> rfl
@[simp] theorem Slot.setReg_brks (x : Slot) (r : Nat) (v : Word) : (x.setReg r v).brks = x.brks := by unfold Slot.setReg; split <;> rfl
@[simp] theorem Slot.setReg_hlts (x : Slot) (r : Nat) (v : Word) : (x.setReg r v).hlts = x.hlts := by unfold Slot.setReg; split <;> rfl
@[simp] theorem Slot.setReg_sws (x : Slot) (r : Nat) (v : Word) : (x.setReg r v).sws = x.sws := by unfold Slot.setReg; split <;> rfl
@[simp] theorem Slot.setReg_hnd (x : Slot) (r : Nat) (v : Word) : (x.setReg r v).hnd = x.hnd := by unfold Slot.setReg; split <;> rfl
@[simp] theorem Slot.setReg_unit (x : Slot) (r : Nat) (v : Word) : (x.setReg r v).unit = x.unit := by unfold Slot.setReg; split <;> rfl
@[simp] theorem Slot.setReg_cancel (x : Slot) (r : Nat) (v : Word) : (x.setReg r v).cancel = x.cancel := by unfold Slot.setReg; split <;> rfl
@[simp] theorem Slot.setReg_pf (x : Slot) (r : Nat) (v : Word) : (x.setReg r v).pf = x.pf := by unfold Slot.setReg; split <;> rfl
@[simp] theorem Slot.setReg_gang (x : Slot) (r : Nat) (v : Word) : (x.setReg r v).gang = x.gang := by unfold Slot.setReg; split <;> rfl
@[simp] theorem Slot.setReg_forming (x : Slot) (r : Nat) (v : Word) : (x.setReg r v).forming = x.forming := by unfold Slot.setReg; split <;> rfl
@[simp] theorem Slot.setReg_solo (x : Slot) (r : Nat) (v : Word) : (x.setReg r v).solo = x.solo := by unfold Slot.setReg; split <;> rfl
@[simp] theorem Slot.setReg_phase (x : Slot) (r : Nat) (v : Word) : (x.setReg r v).phase = x.phase := by unfold Slot.setReg; split <;> rfl
@[simp] theorem Slot.setReg_refc (x : Slot) (r : Nat) (v : Word) : (x.setReg r v).refc = x.refc := by unfold Slot.setReg; split <;> rfl
@[simp] theorem Slot.setReg_tok (x : Slot) (r : Nat) (v : Word) : (x.setReg r v).tok = x.tok := by unfold Slot.setReg; split <;> rfl
@[simp] theorem Slot.setReg_regs (x : Slot) (r : Nat) (v : Word) : (x.setReg r v).regs = x.regs := by unfold Slot.setReg; split <;> rfl
@[simp] theorem Slot.setReg_strs (x : Slot) (r : Nat) (v : Word) : (x.setReg r v).strs = x.strs := by unfold Slot.setReg; split <;> rfl
@[simp] theorem Slot.setReg_deadline (x : Slot) (r : Nat) (v : Word) : (x.setReg r v).deadline = x.deadline := by unfold Slot.setReg; split <;> rfl
@[simp] theorem Slot.setReg_held (x : Slot) (r : Nat) (v : Word) : (x.setReg r v).held = x.held := by unfold Slot.setReg; split <;> rfl
@[simp] theorem Slot.setReg_skip (x : Slot) (r : Nat) (v : Word) : (x.setReg r v).skip = x.skip := by unfold Slot.setReg; split <;> rfl
@[simp] theorem Slot.setReg_barS (x : Slot) (r : Nat) (v : Word) : (x.setReg r v).barS = x.barS := by unfold Slot.setReg; split <;> rfl
@[simp] theorem Slot.setReg_barE (x : Slot) (r : Nat) (v : Word) : (x.setReg r v).barE = x.barE := by unfold Slot.setReg; split <;> rfl
@[simp] theorem Slot.setReg_cmds (x : Slot) (r : Nat) (v : Word) : (x.setReg r v).cmds = x.cmds := by unfold Slot.setReg; split <;> rfl
@[simp] theorem Slot.setReg_trip (x : Slot) (r : Nat) (v : Word) : (x.setReg r v).trip = x.trip := by unfold Slot.setReg; split <;> rfl
@[simp] theorem Slot.setReg_wfault (x : Slot) (r : Nat) (v : Word) : (x.setReg r v).wfault = x.wfault := by unfold Slot.setReg; split <;> rfl
@[simp] theorem Slot.setReg_baton (x : Slot) (r : Nat) (v : Word) : (x.setReg r v).baton = x.baton := by unfold Slot.setReg; split <;> rfl
@[simp] theorem Slot.setReg_semw (x : Slot) (r : Nat) (v : Word) : (x.setReg r v).semw = x.semw := by unfold Slot.setReg; split <;> rfl
@[simp] theorem Slot.setReg_recs (x : Slot) (r : Nat) (v : Word) : (x.setReg r v).recs = x.recs := by unfold Slot.setReg; split <;> rfl
@[simp] theorem Slot.setReg_restore (x : Slot) (r : Nat) (v : Word) : (x.setReg r v).restore = x.restore := by unfold Slot.setReg; split <;> rfl
@[simp] theorem Slot.setReg_tid (x : Slot) (r : Nat) (v : Word) : (x.setReg r v).tid = x.tid := by unfold Slot.setReg; split <;> rfl
@[simp] theorem Slot.setReg_lastTurn (x : Slot) (r : Nat) (v : Word) : (x.setReg r v).lastTurn = x.lastTurn := by unfold Slot.setReg; split <;> rfl
@[simp] theorem Slot.setReg_traps (x : Slot) (r : Nat) (v : Word) : (x.setReg r v).traps = x.traps := by unfold Slot.setReg; split <;> rfl

@[simp] theorem Slot.setPoison_pend (x : Slot) (r : Nat) (v : Word) : (x.setPoison r v).pend = x.pend := by unfold Slot.setPoison; split <;> rfl
@[simp] theorem Slot.setPoison_pc (x : Slot) (r : Nat) (v : Word) : (x.setPoison r v).pc = x.pc := by unfold Slot.setPoison; split <;> rfl
@[simp] theorem Slot.setPoison_mode (x : Slot) (r : Nat) (v : Word) : (x.setPoison r v).mode = x.mode := by unfold Slot.setPoison; split <;> rfl
@[simp] theorem Slot.setPoison_st (x : Slot) (r : Nat) (v : Word) : (x.setPoison r v).st = x.st := by unfold Slot.setPoison; split <;> rfl
@[simp] theorem Slot.setPoison_fetch (x : Slot) (r : Nat) (v : Word) : (x.setPoison r v).fetch = x.fetch := by unfold Slot.setPoison; split <;> rfl
@[simp] theorem Slot.setPoison_dbgs (x : Slot) (r : Nat) (v : Word) : (x.setPoison r v).dbgs = x.dbgs := by unfold Slot.setPoison; split <;> rfl
@[simp] theorem Slot.setPoison_brks (x : Slot) (r : Nat) (v : Word) : (x.setPoison r v).brks = x.brks := by unfold Slot.setPoison; split <;> rfl
@[simp] theorem Slot.setPoison_hlts (x : Slot) (r : Nat) (v : Word) : (x.setPoison r v).hlts = x.hlts := by unfold Slot.setPoison; split <;> rfl
@[simp] theorem Slot.setPoison_sws (x : Slot) (r : Nat) (v : Word) : (x.setPoison r v).sws = x.sws := by unfold Slot.setPoison; split <;> rfl
@[simp] theorem Slot.setPoison_hnd (x : Slot) (r : Nat) (v : Word) : (x.setPoison r v).hnd = x.hnd := by unfold Slot.setPoison; split <;> rfl
@[simp] theorem Slot.setPoison_unit (x : Slot) (r : Nat) (v : Word) : (x.setPoison r v).unit = x.unit := by unfold Slot.setPoison; split <;> rfl
@[simp] theorem Slot.setPoison_cancel (x : Slot) (r : Nat) (v : Word) : (x.setPoison r v).cancel = x.cancel := by unfold Slot.setPoison; split <;> rfl
@[simp] theorem Slot.setPoison_pf (x : Slot) (r : Nat) (v : Word) : (x.setPoison r v).pf = x.pf := by unfold Slot.setPoison; split <;> rfl
@[simp] theorem Slot.setPoison_gang (x : Slot) (r : Nat) (v : Word) : (x.setPoison r v).gang = x.gang := by unfold Slot.setPoison; split <;> rfl
@[simp] theorem Slot.setPoison_forming (x : Slot) (r : Nat) (v : Word) : (x.setPoison r v).forming = x.forming := by unfold Slot.setPoison; split <;> rfl
@[simp] theorem Slot.setPoison_solo (x : Slot) (r : Nat) (v : Word) : (x.setPoison r v).solo = x.solo := by unfold Slot.setPoison; split <;> rfl
@[simp] theorem Slot.setPoison_phase (x : Slot) (r : Nat) (v : Word) : (x.setPoison r v).phase = x.phase := by unfold Slot.setPoison; split <;> rfl
@[simp] theorem Slot.setPoison_refc (x : Slot) (r : Nat) (v : Word) : (x.setPoison r v).refc = x.refc := by unfold Slot.setPoison; split <;> rfl
@[simp] theorem Slot.setPoison_tok (x : Slot) (r : Nat) (v : Word) : (x.setPoison r v).tok = x.tok := by unfold Slot.setPoison; split <;> rfl
@[simp] theorem Slot.setPoison_regs (x : Slot) (r : Nat) (v : Word) : (x.setPoison r v).regs = x.regs := by unfold Slot.setPoison; split <;> rfl
@[simp] theorem Slot.setPoison_strs (x : Slot) (r : Nat) (v : Word) : (x.setPoison r v).strs = x.strs := by unfold Slot.setPoison; split <;> rfl
@[simp] theorem Slot.setPoison_deadline (x : Slot) (r : Nat) (v : Word) : (x.setPoison r v).deadline = x.deadline := by unfold Slot.setPoison; split <;> rfl
@[simp] theorem Slot.setPoison_held (x : Slot) (r : Nat) (v : Word) : (x.setPoison r v).held = x.held := by unfold Slot.setPoison; split <;> rfl
@[simp] theorem Slot.setPoison_skip (x : Slot) (r : Nat) (v : Word) : (x.setPoison r v).skip = x.skip := by unfold Slot.setPoison; split <;> rfl
@[simp] theorem Slot.setPoison_barS (x : Slot) (r : Nat) (v : Word) : (x.setPoison r v).barS = x.barS := by unfold Slot.setPoison; split <;> rfl
@[simp] theorem Slot.setPoison_barE (x : Slot) (r : Nat) (v : Word) : (x.setPoison r v).barE = x.barE := by unfold Slot.setPoison; split <;> rfl
@[simp] theorem Slot.setPoison_cmds (x : Slot) (r : Nat) (v : Word) : (x.setPoison r v).cmds = x.cmds := by unfold Slot.setPoison; split <;> rfl
@[simp] theorem Slot.setPoison_trip (x : Slot) (r : Nat) (v : Word) : (x.setPoison r v).trip = x.trip := by unfold Slot.setPoison; split <;> rfl
@[simp] theorem Slot.setPoison_wfault (x : Slot) (r : Nat) (v : Word) : (x.setPoison r v).wfault = x.wfault := by unfold Slot.setPoison; split <;> rfl
@[simp] theorem Slot.setPoison_baton (x : Slot) (r : Nat) (v : Word) : (x.setPoison r v).baton = x.baton := by unfold Slot.setPoison; split <;> rfl
@[simp] theorem Slot.setPoison_semw (x : Slot) (r : Nat) (v : Word) : (x.setPoison r v).semw = x.semw := by unfold Slot.setPoison; split <;> rfl
@[simp] theorem Slot.setPoison_recs (x : Slot) (r : Nat) (v : Word) : (x.setPoison r v).recs = x.recs := by unfold Slot.setPoison; split <;> rfl
@[simp] theorem Slot.setPoison_restore (x : Slot) (r : Nat) (v : Word) : (x.setPoison r v).restore = x.restore := by unfold Slot.setPoison; split <;> rfl
@[simp] theorem Slot.setPoison_tid (x : Slot) (r : Nat) (v : Word) : (x.setPoison r v).tid = x.tid := by unfold Slot.setPoison; split <;> rfl
@[simp] theorem Slot.setPoison_lastTurn (x : Slot) (r : Nat) (v : Word) : (x.setPoison r v).lastTurn = x.lastTurn := by unfold Slot.setPoison; split <;> rfl
@[simp] theorem Slot.setPoison_traps (x : Slot) (r : Nat) (v : Word) : (x.setPoison r v).traps = x.traps := by unfold Slot.setPoison; split <;> rfl

@[simp] theorem Slot.pending_g (x : Slot) (r : Nat) : (x.pending r).g = x.g := by unfold Slot.pending; split <;> rfl
@[simp] theorem Slot.pending_pois (x : Slot) (r : Nat) : (x.pending r).pois = x.pois := by unfold Slot.pending; split <;> rfl
@[simp] theorem Slot.pending_par (x : Slot) (r : Nat) : (x.pending r).par = x.par := by unfold Slot.pending; split <;> rfl
@[simp] theorem Slot.pending_pc (x : Slot) (r : Nat) : (x.pending r).pc = x.pc := by unfold Slot.pending; split <;> rfl
@[simp] theorem Slot.pending_mode (x : Slot) (r : Nat) : (x.pending r).mode = x.mode := by unfold Slot.pending; split <;> rfl
@[simp] theorem Slot.pending_st (x : Slot) (r : Nat) : (x.pending r).st = x.st := by unfold Slot.pending; split <;> rfl
@[simp] theorem Slot.pending_fetch (x : Slot) (r : Nat) : (x.pending r).fetch = x.fetch := by unfold Slot.pending; split <;> rfl
@[simp] theorem Slot.pending_dbgs (x : Slot) (r : Nat) : (x.pending r).dbgs = x.dbgs := by unfold Slot.pending; split <;> rfl
@[simp] theorem Slot.pending_brks (x : Slot) (r : Nat) : (x.pending r).brks = x.brks := by unfold Slot.pending; split <;> rfl
@[simp] theorem Slot.pending_hlts (x : Slot) (r : Nat) : (x.pending r).hlts = x.hlts := by unfold Slot.pending; split <;> rfl
@[simp] theorem Slot.pending_sws (x : Slot) (r : Nat) : (x.pending r).sws = x.sws := by unfold Slot.pending; split <;> rfl
@[simp] theorem Slot.pending_hnd (x : Slot) (r : Nat) : (x.pending r).hnd = x.hnd := by unfold Slot.pending; split <;> rfl
@[simp] theorem Slot.pending_unit (x : Slot) (r : Nat) : (x.pending r).unit = x.unit := by unfold Slot.pending; split <;> rfl
@[simp] theorem Slot.pending_cancel (x : Slot) (r : Nat) : (x.pending r).cancel = x.cancel := by unfold Slot.pending; split <;> rfl
@[simp] theorem Slot.pending_pf (x : Slot) (r : Nat) : (x.pending r).pf = x.pf := by unfold Slot.pending; split <;> rfl
@[simp] theorem Slot.pending_gang (x : Slot) (r : Nat) : (x.pending r).gang = x.gang := by unfold Slot.pending; split <;> rfl
@[simp] theorem Slot.pending_forming (x : Slot) (r : Nat) : (x.pending r).forming = x.forming := by unfold Slot.pending; split <;> rfl
@[simp] theorem Slot.pending_solo (x : Slot) (r : Nat) : (x.pending r).solo = x.solo := by unfold Slot.pending; split <;> rfl
@[simp] theorem Slot.pending_phase (x : Slot) (r : Nat) : (x.pending r).phase = x.phase := by unfold Slot.pending; split <;> rfl
@[simp] theorem Slot.pending_refc (x : Slot) (r : Nat) : (x.pending r).refc = x.refc := by unfold Slot.pending; split <;> rfl
@[simp] theorem Slot.pending_tok (x : Slot) (r : Nat) : (x.pending r).tok = x.tok := by unfold Slot.pending; split <;> rfl
@[simp] theorem Slot.pending_regs (x : Slot) (r : Nat) : (x.pending r).regs = x.regs := by unfold Slot.pending; split <;> rfl
@[simp] theorem Slot.pending_strs (x : Slot) (r : Nat) : (x.pending r).strs = x.strs := by unfold Slot.pending; split <;> rfl
@[simp] theorem Slot.pending_deadline (x : Slot) (r : Nat) : (x.pending r).deadline = x.deadline := by unfold Slot.pending; split <;> rfl
@[simp] theorem Slot.pending_held (x : Slot) (r : Nat) : (x.pending r).held = x.held := by unfold Slot.pending; split <;> rfl
@[simp] theorem Slot.pending_skip (x : Slot) (r : Nat) : (x.pending r).skip = x.skip := by unfold Slot.pending; split <;> rfl
@[simp] theorem Slot.pending_barS (x : Slot) (r : Nat) : (x.pending r).barS = x.barS := by unfold Slot.pending; split <;> rfl
@[simp] theorem Slot.pending_barE (x : Slot) (r : Nat) : (x.pending r).barE = x.barE := by unfold Slot.pending; split <;> rfl
@[simp] theorem Slot.pending_cmds (x : Slot) (r : Nat) : (x.pending r).cmds = x.cmds := by unfold Slot.pending; split <;> rfl
@[simp] theorem Slot.pending_trip (x : Slot) (r : Nat) : (x.pending r).trip = x.trip := by unfold Slot.pending; split <;> rfl
@[simp] theorem Slot.pending_wfault (x : Slot) (r : Nat) : (x.pending r).wfault = x.wfault := by unfold Slot.pending; split <;> rfl
@[simp] theorem Slot.pending_baton (x : Slot) (r : Nat) : (x.pending r).baton = x.baton := by unfold Slot.pending; split <;> rfl
@[simp] theorem Slot.pending_semw (x : Slot) (r : Nat) : (x.pending r).semw = x.semw := by unfold Slot.pending; split <;> rfl
@[simp] theorem Slot.pending_recs (x : Slot) (r : Nat) : (x.pending r).recs = x.recs := by unfold Slot.pending; split <;> rfl
@[simp] theorem Slot.pending_restore (x : Slot) (r : Nat) : (x.pending r).restore = x.restore := by unfold Slot.pending; split <;> rfl
@[simp] theorem Slot.pending_tid (x : Slot) (r : Nat) : (x.pending r).tid = x.tid := by unfold Slot.pending; split <;> rfl
@[simp] theorem Slot.pending_lastTurn (x : Slot) (r : Nat) : (x.pending r).lastTurn = x.lastTurn := by unfold Slot.pending; split <;> rfl
@[simp] theorem Slot.pending_traps (x : Slot) (r : Nat) : (x.pending r).traps = x.traps := by unfold Slot.pending; split <;> rfl

@[simp] theorem Slot.take_g (x : Slot) (r : Nat) : (x.take r).g = x.g := by unfold Slot.take; split <;> rfl
@[simp] theorem Slot.take_pois (x : Slot) (r : Nat) : (x.take r).pois = x.pois := by unfold Slot.take; split <;> rfl
@[simp] theorem Slot.take_pend (x : Slot) (r : Nat) : (x.take r).pend = x.pend := by unfold Slot.take; split <;> rfl
@[simp] theorem Slot.take_par (x : Slot) (r : Nat) : (x.take r).par = x.par := by unfold Slot.take; split <;> rfl
@[simp] theorem Slot.take_pc (x : Slot) (r : Nat) : (x.take r).pc = x.pc := by unfold Slot.take; split <;> rfl
@[simp] theorem Slot.take_mode (x : Slot) (r : Nat) : (x.take r).mode = x.mode := by unfold Slot.take; split <;> rfl
@[simp] theorem Slot.take_st (x : Slot) (r : Nat) : (x.take r).st = x.st := by unfold Slot.take; split <;> rfl
@[simp] theorem Slot.take_fetch (x : Slot) (r : Nat) : (x.take r).fetch = x.fetch := by unfold Slot.take; split <;> rfl
@[simp] theorem Slot.take_dbgs (x : Slot) (r : Nat) : (x.take r).dbgs = x.dbgs := by unfold Slot.take; split <;> rfl
@[simp] theorem Slot.take_brks (x : Slot) (r : Nat) : (x.take r).brks = x.brks := by unfold Slot.take; split <;> rfl
@[simp] theorem Slot.take_hlts (x : Slot) (r : Nat) : (x.take r).hlts = x.hlts := by unfold Slot.take; split <;> rfl
@[simp] theorem Slot.take_sws (x : Slot) (r : Nat) : (x.take r).sws = x.sws := by unfold Slot.take; split <;> rfl
@[simp] theorem Slot.take_hnd (x : Slot) (r : Nat) : (x.take r).hnd = x.hnd := by unfold Slot.take; split <;> rfl
@[simp] theorem Slot.take_unit (x : Slot) (r : Nat) : (x.take r).unit = x.unit := by unfold Slot.take; split <;> rfl
@[simp] theorem Slot.take_cancel (x : Slot) (r : Nat) : (x.take r).cancel = x.cancel := by unfold Slot.take; split <;> rfl
@[simp] theorem Slot.take_pf (x : Slot) (r : Nat) : (x.take r).pf = x.pf := by unfold Slot.take; split <;> rfl
@[simp] theorem Slot.take_gang (x : Slot) (r : Nat) : (x.take r).gang = x.gang := by unfold Slot.take; split <;> rfl
@[simp] theorem Slot.take_forming (x : Slot) (r : Nat) : (x.take r).forming = x.forming := by unfold Slot.take; split <;> rfl
@[simp] theorem Slot.take_solo (x : Slot) (r : Nat) : (x.take r).solo = x.solo := by unfold Slot.take; split <;> rfl
@[simp] theorem Slot.take_phase (x : Slot) (r : Nat) : (x.take r).phase = x.phase := by unfold Slot.take; split <;> rfl
@[simp] theorem Slot.take_refc (x : Slot) (r : Nat) : (x.take r).refc = x.refc := by unfold Slot.take; split <;> rfl
@[simp] theorem Slot.take_tok (x : Slot) (r : Nat) : (x.take r).tok = x.tok := by unfold Slot.take; split <;> rfl
@[simp] theorem Slot.take_regs (x : Slot) (r : Nat) : (x.take r).regs = x.regs := by unfold Slot.take; split <;> rfl
@[simp] theorem Slot.take_strs (x : Slot) (r : Nat) : (x.take r).strs = x.strs := by unfold Slot.take; split <;> rfl
@[simp] theorem Slot.take_deadline (x : Slot) (r : Nat) : (x.take r).deadline = x.deadline := by unfold Slot.take; split <;> rfl
@[simp] theorem Slot.take_held (x : Slot) (r : Nat) : (x.take r).held = x.held := by unfold Slot.take; split <;> rfl
@[simp] theorem Slot.take_skip (x : Slot) (r : Nat) : (x.take r).skip = x.skip := by unfold Slot.take; split <;> rfl
@[simp] theorem Slot.take_barS (x : Slot) (r : Nat) : (x.take r).barS = x.barS := by unfold Slot.take; split <;> rfl
@[simp] theorem Slot.take_barE (x : Slot) (r : Nat) : (x.take r).barE = x.barE := by unfold Slot.take; split <;> rfl
@[simp] theorem Slot.take_cmds (x : Slot) (r : Nat) : (x.take r).cmds = x.cmds := by unfold Slot.take; split <;> rfl
@[simp] theorem Slot.take_trip (x : Slot) (r : Nat) : (x.take r).trip = x.trip := by unfold Slot.take; split <;> rfl
@[simp] theorem Slot.take_wfault (x : Slot) (r : Nat) : (x.take r).wfault = x.wfault := by unfold Slot.take; split <;> rfl
@[simp] theorem Slot.take_baton (x : Slot) (r : Nat) : (x.take r).baton = x.baton := by unfold Slot.take; split <;> rfl
@[simp] theorem Slot.take_semw (x : Slot) (r : Nat) : (x.take r).semw = x.semw := by unfold Slot.take; split <;> rfl
@[simp] theorem Slot.take_recs (x : Slot) (r : Nat) : (x.take r).recs = x.recs := by unfold Slot.take; split <;> rfl
@[simp] theorem Slot.take_restore (x : Slot) (r : Nat) : (x.take r).restore = x.restore := by unfold Slot.take; split <;> rfl
@[simp] theorem Slot.take_tid (x : Slot) (r : Nat) : (x.take r).tid = x.tid := by unfold Slot.take; split <;> rfl
@[simp] theorem Slot.take_lastTurn (x : Slot) (r : Nat) : (x.take r).lastTurn = x.lastTurn := by unfold Slot.take; split <;> rfl
@[simp] theorem Slot.take_traps (x : Slot) (r : Nat) : (x.take r).traps = x.traps := by unfold Slot.take; split <;> rfl

@[simp] theorem Slot.unpend_g (x : Slot) (r : Nat) : (x.unpend r).g = x.g := rfl
@[simp] theorem Slot.unpend_full (x : Slot) (r : Nat) : (x.unpend r).full = x.full := rfl
@[simp] theorem Slot.unpend_pois (x : Slot) (r : Nat) : (x.unpend r).pois = x.pois := rfl
@[simp] theorem Slot.unpend_par (x : Slot) (r : Nat) : (x.unpend r).par = x.par := rfl
@[simp] theorem Slot.unpend_pc (x : Slot) (r : Nat) : (x.unpend r).pc = x.pc := rfl
@[simp] theorem Slot.unpend_mode (x : Slot) (r : Nat) : (x.unpend r).mode = x.mode := rfl
@[simp] theorem Slot.unpend_st (x : Slot) (r : Nat) : (x.unpend r).st = x.st := rfl
@[simp] theorem Slot.unpend_fetch (x : Slot) (r : Nat) : (x.unpend r).fetch = x.fetch := rfl
@[simp] theorem Slot.unpend_dbgs (x : Slot) (r : Nat) : (x.unpend r).dbgs = x.dbgs := rfl
@[simp] theorem Slot.unpend_brks (x : Slot) (r : Nat) : (x.unpend r).brks = x.brks := rfl
@[simp] theorem Slot.unpend_hlts (x : Slot) (r : Nat) : (x.unpend r).hlts = x.hlts := rfl
@[simp] theorem Slot.unpend_sws (x : Slot) (r : Nat) : (x.unpend r).sws = x.sws := rfl
@[simp] theorem Slot.unpend_hnd (x : Slot) (r : Nat) : (x.unpend r).hnd = x.hnd := rfl
@[simp] theorem Slot.unpend_unit (x : Slot) (r : Nat) : (x.unpend r).unit = x.unit := rfl
@[simp] theorem Slot.unpend_cancel (x : Slot) (r : Nat) : (x.unpend r).cancel = x.cancel := rfl
@[simp] theorem Slot.unpend_pf (x : Slot) (r : Nat) : (x.unpend r).pf = x.pf := rfl
@[simp] theorem Slot.unpend_gang (x : Slot) (r : Nat) : (x.unpend r).gang = x.gang := rfl
@[simp] theorem Slot.unpend_forming (x : Slot) (r : Nat) : (x.unpend r).forming = x.forming := rfl
@[simp] theorem Slot.unpend_solo (x : Slot) (r : Nat) : (x.unpend r).solo = x.solo := rfl
@[simp] theorem Slot.unpend_phase (x : Slot) (r : Nat) : (x.unpend r).phase = x.phase := rfl
@[simp] theorem Slot.unpend_refc (x : Slot) (r : Nat) : (x.unpend r).refc = x.refc := rfl
@[simp] theorem Slot.unpend_tok (x : Slot) (r : Nat) : (x.unpend r).tok = x.tok := rfl
@[simp] theorem Slot.unpend_regs (x : Slot) (r : Nat) : (x.unpend r).regs = x.regs := rfl
@[simp] theorem Slot.unpend_strs (x : Slot) (r : Nat) : (x.unpend r).strs = x.strs := rfl
@[simp] theorem Slot.unpend_deadline (x : Slot) (r : Nat) : (x.unpend r).deadline = x.deadline := rfl
@[simp] theorem Slot.unpend_held (x : Slot) (r : Nat) : (x.unpend r).held = x.held := rfl
@[simp] theorem Slot.unpend_skip (x : Slot) (r : Nat) : (x.unpend r).skip = x.skip := rfl
@[simp] theorem Slot.unpend_barS (x : Slot) (r : Nat) : (x.unpend r).barS = x.barS := rfl
@[simp] theorem Slot.unpend_barE (x : Slot) (r : Nat) : (x.unpend r).barE = x.barE := rfl
@[simp] theorem Slot.unpend_cmds (x : Slot) (r : Nat) : (x.unpend r).cmds = x.cmds := rfl
@[simp] theorem Slot.unpend_trip (x : Slot) (r : Nat) : (x.unpend r).trip = x.trip := rfl
@[simp] theorem Slot.unpend_wfault (x : Slot) (r : Nat) : (x.unpend r).wfault = x.wfault := rfl
@[simp] theorem Slot.unpend_baton (x : Slot) (r : Nat) : (x.unpend r).baton = x.baton := rfl
@[simp] theorem Slot.unpend_semw (x : Slot) (r : Nat) : (x.unpend r).semw = x.semw := rfl
@[simp] theorem Slot.unpend_recs (x : Slot) (r : Nat) : (x.unpend r).recs = x.recs := rfl
@[simp] theorem Slot.unpend_restore (x : Slot) (r : Nat) : (x.unpend r).restore = x.restore := rfl
@[simp] theorem Slot.unpend_tid (x : Slot) (r : Nat) : (x.unpend r).tid = x.tid := rfl
@[simp] theorem Slot.unpend_lastTurn (x : Slot) (r : Nat) : (x.unpend r).lastTurn = x.lastTurn := rfl
@[simp] theorem Slot.unpend_traps (x : Slot) (r : Nat) : (x.unpend r).traps = x.traps := rfl

@[simp] theorem Slot.setCreg_g (x : Slot) (n : Nat) (v : Word) : (x.setCreg n v).g = x.g := rfl
@[simp] theorem Slot.setCreg_full (x : Slot) (n : Nat) (v : Word) : (x.setCreg n v).full = x.full := rfl
@[simp] theorem Slot.setCreg_pois (x : Slot) (n : Nat) (v : Word) : (x.setCreg n v).pois = x.pois := rfl
@[simp] theorem Slot.setCreg_pend (x : Slot) (n : Nat) (v : Word) : (x.setCreg n v).pend = x.pend := rfl
@[simp] theorem Slot.setCreg_par (x : Slot) (n : Nat) (v : Word) : (x.setCreg n v).par = x.par := rfl
@[simp] theorem Slot.setCreg_pc (x : Slot) (n : Nat) (v : Word) : (x.setCreg n v).pc = x.pc := rfl
@[simp] theorem Slot.setCreg_mode (x : Slot) (n : Nat) (v : Word) : (x.setCreg n v).mode = x.mode := rfl
@[simp] theorem Slot.setCreg_st (x : Slot) (n : Nat) (v : Word) : (x.setCreg n v).st = x.st := rfl
@[simp] theorem Slot.setCreg_fetch (x : Slot) (n : Nat) (v : Word) : (x.setCreg n v).fetch = x.fetch := rfl
@[simp] theorem Slot.setCreg_dbgs (x : Slot) (n : Nat) (v : Word) : (x.setCreg n v).dbgs = x.dbgs := rfl
@[simp] theorem Slot.setCreg_brks (x : Slot) (n : Nat) (v : Word) : (x.setCreg n v).brks = x.brks := rfl
@[simp] theorem Slot.setCreg_hlts (x : Slot) (n : Nat) (v : Word) : (x.setCreg n v).hlts = x.hlts := rfl
@[simp] theorem Slot.setCreg_sws (x : Slot) (n : Nat) (v : Word) : (x.setCreg n v).sws = x.sws := rfl
@[simp] theorem Slot.setCreg_hnd (x : Slot) (n : Nat) (v : Word) : (x.setCreg n v).hnd = x.hnd := rfl
@[simp] theorem Slot.setCreg_unit (x : Slot) (n : Nat) (v : Word) : (x.setCreg n v).unit = x.unit := rfl
@[simp] theorem Slot.setCreg_cancel (x : Slot) (n : Nat) (v : Word) : (x.setCreg n v).cancel = x.cancel := rfl
@[simp] theorem Slot.setCreg_pf (x : Slot) (n : Nat) (v : Word) : (x.setCreg n v).pf = x.pf := rfl
@[simp] theorem Slot.setCreg_gang (x : Slot) (n : Nat) (v : Word) : (x.setCreg n v).gang = x.gang := rfl
@[simp] theorem Slot.setCreg_forming (x : Slot) (n : Nat) (v : Word) : (x.setCreg n v).forming = x.forming := rfl
@[simp] theorem Slot.setCreg_solo (x : Slot) (n : Nat) (v : Word) : (x.setCreg n v).solo = x.solo := rfl
@[simp] theorem Slot.setCreg_phase (x : Slot) (n : Nat) (v : Word) : (x.setCreg n v).phase = x.phase := rfl
@[simp] theorem Slot.setCreg_refc (x : Slot) (n : Nat) (v : Word) : (x.setCreg n v).refc = x.refc := rfl
@[simp] theorem Slot.setCreg_tok (x : Slot) (n : Nat) (v : Word) : (x.setCreg n v).tok = x.tok := rfl
@[simp] theorem Slot.setCreg_strs (x : Slot) (n : Nat) (v : Word) : (x.setCreg n v).strs = x.strs := rfl
@[simp] theorem Slot.setCreg_deadline (x : Slot) (n : Nat) (v : Word) : (x.setCreg n v).deadline = x.deadline := rfl
@[simp] theorem Slot.setCreg_held (x : Slot) (n : Nat) (v : Word) : (x.setCreg n v).held = x.held := rfl
@[simp] theorem Slot.setCreg_skip (x : Slot) (n : Nat) (v : Word) : (x.setCreg n v).skip = x.skip := rfl
@[simp] theorem Slot.setCreg_barS (x : Slot) (n : Nat) (v : Word) : (x.setCreg n v).barS = x.barS := rfl
@[simp] theorem Slot.setCreg_barE (x : Slot) (n : Nat) (v : Word) : (x.setCreg n v).barE = x.barE := rfl
@[simp] theorem Slot.setCreg_cmds (x : Slot) (n : Nat) (v : Word) : (x.setCreg n v).cmds = x.cmds := rfl
@[simp] theorem Slot.setCreg_trip (x : Slot) (n : Nat) (v : Word) : (x.setCreg n v).trip = x.trip := rfl
@[simp] theorem Slot.setCreg_wfault (x : Slot) (n : Nat) (v : Word) : (x.setCreg n v).wfault = x.wfault := rfl
@[simp] theorem Slot.setCreg_baton (x : Slot) (n : Nat) (v : Word) : (x.setCreg n v).baton = x.baton := rfl
@[simp] theorem Slot.setCreg_semw (x : Slot) (n : Nat) (v : Word) : (x.setCreg n v).semw = x.semw := rfl
@[simp] theorem Slot.setCreg_recs (x : Slot) (n : Nat) (v : Word) : (x.setCreg n v).recs = x.recs := rfl
@[simp] theorem Slot.setCreg_restore (x : Slot) (n : Nat) (v : Word) : (x.setCreg n v).restore = x.restore := rfl
@[simp] theorem Slot.setCreg_tid (x : Slot) (n : Nat) (v : Word) : (x.setCreg n v).tid = x.tid := rfl
@[simp] theorem Slot.setCreg_lastTurn (x : Slot) (n : Nat) (v : Word) : (x.setCreg n v).lastTurn = x.lastTurn := rfl
@[simp] theorem Slot.setCreg_traps (x : Slot) (n : Nat) (v : Word) : (x.setCreg n v).traps = x.traps := rfl

@[simp] theorem Slot.creg_setCreg_self (x : Slot) (n : Nat) (v : Word) : (x.setCreg n v).creg n = v := SMap.get_set_self _ _ _ _
theorem Slot.creg_setCreg_ne (x : Slot) {n m : Nat} (v : Word) (h : m ≠ n) : (x.setCreg n v).creg m = x.creg m := SMap.get_set_ne _ _ _ h
@[simp] theorem Slot.reg_setCreg (x : Slot) (n r : Nat) (v : Word) : (x.setCreg n v).reg r = x.reg r := rfl

/-- g0 discards a write (R14, R182). -/
@[simp] theorem Slot.setReg_zero (x : Slot) (v : Word) : x.setReg 0 v = x := rfl

/-- A register that is written reads back. -/
theorem Slot.reg_setReg_self (x : Slot) {r : Nat} (v : Word) (h : r ≠ 0) : (x.setReg r v).reg r = v := by
  simp [Slot.reg, Slot.setReg, h]

/-- A write leaves every other register alone. -/
theorem Slot.reg_setReg_ne (x : Slot) {r q : Nat} (v : Word) (h : q ≠ r) : (x.setReg r v).reg q = x.reg q := by
  unfold Slot.reg Slot.setReg
  split
  · rfl
  · split
    · rfl
    · exact SMap.get_set_ne _ _ _ h

@[simp] theorem Slot.reg_take (x : Slot) (r q : Nat) : (x.take r).reg q = x.reg q := by
  simp [Slot.reg]
@[simp] theorem Slot.reg_pending (x : Slot) (r q : Nat) : (x.pending r).reg q = x.reg q := by
  simp [Slot.reg]

@[simp] theorem State.marked_turn (s : State) (m : Mark) : (s.marked m).turn = s.turn := rfl
@[simp] theorem State.marked_cur (s : State) (m : Mark) : (s.marked m).cur = s.cur := rfl
@[simp] theorem State.marked_agenda (s : State) (m : Mark) : (s.marked m).agenda = s.agenda := rfl
@[simp] theorem State.marked_choices (s : State) (m : Mark) : (s.marked m).choices = s.choices := rfl
@[simp] theorem State.marked_free (s : State) (m : Mark) : (s.marked m).free = s.free := rfl
@[simp] theorem State.marked_fresh (s : State) (m : Mark) : (s.marked m).fresh = s.fresh := rfl
@[simp] theorem State.marked_time (s : State) (m : Mark) : (s.marked m).time = s.time := rfl
@[simp] theorem State.marked_turnsTo (s : State) (m : Mark) : (s.marked m).turnsTo = s.turnsTo := rfl
@[simp] theorem State.marked_empties (s : State) (m : Mark) : (s.marked m).empties = s.empties := rfl
@[simp] theorem State.marked_touch (s : State) (m : Mark) : (s.marked m).touch = s.touch := rfl
@[simp] theorem State.marked_mem (s : State) (m : Mark) : (s.marked m).mem = s.mem := rfl
@[simp] theorem State.marked_fe (s : State) (m : Mark) : (s.marked m).fe = s.fe := rfl
@[simp] theorem State.marked_bad (s : State) (m : Mark) : (s.marked m).bad = s.bad := rfl
@[simp] theorem State.marked_form (s : State) (m : Mark) : (s.marked m).form = s.form := rfl
@[simp] theorem State.marked_slots (s : State) (m : Mark) : (s.marked m).slots = s.slots := rfl
@[simp] theorem State.marked_cores (s : State) (m : Mark) : (s.marked m).cores = s.cores := rfl
@[simp] theorem State.marked_clusters (s : State) (m : Mark) : (s.marked m).clusters = s.clusters := rfl
@[simp] theorem State.marked_towers (s : State) (m : Mark) : (s.marked m).towers = s.towers := rfl
@[simp] theorem State.marked_sites (s : State) (m : Mark) : (s.marked m).sites = s.sites := rfl
@[simp] theorem State.marked_modul (s : State) (m : Mark) : (s.marked m).modul = s.modul := rfl
@[simp] theorem State.marked_net (s : State) (m : Mark) : (s.marked m).net = s.net := rfl
@[simp] theorem State.marked_mark (s : State) (m : Mark) : (s.marked m).mark = m := rfl
@[simp] theorem slotAt_marked (s : State) (m : Mark) (k : Nat) : slotAt (s.marked m) k = slotAt s k := rfl
@[simp] theorem coreAt_marked (s : State) (m : Mark) (k : Nat) : coreAt (s.marked m) k = coreAt s k := rfl
@[simp] theorem clusterAt_marked (s : State) (m : Mark) (k : Nat) : clusterAt (s.marked m) k = clusterAt s k := rfl
@[simp] theorem towerAt_marked (s : State) (m : Mark) (k : Nat) : towerAt (s.marked m) k = towerAt s k := rfl
@[simp] theorem siteAt_marked (s : State) (m : Mark) (k : Nat) : siteAt (s.marked m) k = siteAt s k := rfl

/-- A register after a write of a thread control register. -/
theorem Slot.creg_setCreg (x : Slot) (n m : Nat) (v : Word) : (x.setCreg n v).creg m = if m = n then v else x.creg m := by
  by_cases h : m = n
  · subst h; simp
  · simp [h, Slot.creg_setCreg_ne]

/-- A slot after a write of a slot. -/
theorem slotAt_setSlot (s : State) (k : Nat) (x : Slot) (j : Nat) : slotAt (setSlot s k x) j = if j = k then x else slotAt s j := by
  by_cases h : j = k
  · subst h; simp
  · simp [h, slotAt, setSlot, SMap.get_set_ne _ _ _ h]

/-- A slot after a change of a slot. -/
theorem slotAt_modSlot (s : State) (k : Nat) (f : Slot → Slot) (j : Nat) :
    slotAt (modSlot s k f) j = if j = k then f (slotAt s k) else slotAt s j := slotAt_setSlot s k _ j

/-- Of two writes of a slot the second stands, and two changes of a slot are one. -/
@[simp] theorem setSlot_setSlot (s : State) (k : Nat) (x y : Slot) : setSlot (setSlot s k x) k y = setSlot s k y := by
  simp [setSlot, SMap.set_set]
theorem modSlot_modSlot (s : State) (k : Nat) (f g : Slot → Slot) :
    modSlot (modSlot s k f) k g = modSlot s k fun x => g (f x) := by
  simp [modSlot]
theorem modSlot_setSlot (s : State) (k : Nat) (x : Slot) (f : Slot → Slot) : modSlot (setSlot s k x) k f = setSlot s k (f x) := by
  simp [modSlot]

end Sys2Proof.Machine
end

