-- ==== Sys2Proof/Laws/Turn.lean ====
section
/-! SUPPORT. The laws of a turn: when an instruction's operands are read, what each end of a turn leaves, and what trap entry and return
change. -/

namespace Sys2Proof.Machine

theorem Slot.readOne_readable {x : Slot} {r : Nat} (h : x.readable r) : x.readOne r = .ok (x.reg r, x) := by
  obtain ⟨h1, h2⟩ := h
  unfold Slot.readOne
  rw [h1]
  rcases h2 with rfl | ⟨-, hp, hq⟩
  · simp
  · simp [hp, hq]

theorem Slot.readAll_readable {x : Slot} {rs : List Nat} (h : ∀ r ∈ rs, x.readable r) : x.readAll rs = .ok (rs.map x.reg, x) := by
  induction rs with
  | nil => rfl
  | cons r rs ih =>
    simp [Slot.readAll, Slot.readOne_readable (h r (by simp)), ih fun q hq => h q (by simp [hq])]

theorem Slot.sourceWaits_readable {x : Slot} {r : Nat} (rs : List Nat) (h : x.readable r) : x.sourceWaits rs r = false := by
  obtain ⟨h1, h2⟩ := h
  unfold Slot.sourceWaits
  rw [h1]
  rcases h2 with rfl | ⟨h2, -⟩ <;> simp [*]

/-- Operands that are readable and writable at once give their values and leave the slot as it is. -/
theorem Slot.prep_plain {x : Slot} {rs : List Nat} {d : Option Nat} (reply : Bool) (hs : ∀ r ∈ rs, x.readable r)
    (hd : ∀ r ∈ d, x.writable r) : x.prep rs d reply = .ok (rs.map x.reg) x := by
  have h1 : rs.any (x.sourceWaits rs) = false := by
    rw [List.any_eq_false]
    exact fun r hr => by simp [Slot.sourceWaits_readable rs (hs r hr)]
  unfold Slot.prep
  rw [h1, Slot.readAll_readable hs]
  cases d with
  | none => simp
  | some q =>
    obtain ⟨h2, h3⟩ := hd q rfl
    rcases h3 with rfl | h3 <;> simp_all [Slot.destWaits, Slot.destFault]

/-! Reading operands changes nothing but the streams. -/

theorem Slot.readOne_frame {x y : Slot} {r : Nat} {v : Word} (h : x.readOne r = .ok (v, y)) : y = { x with strs := y.strs } := by
  unfold Slot.readOne at h
  repeat' split at h
  all_goals first
    | (simp at h; done)
    | (simp at h; obtain ⟨-, rfl⟩ := h; rfl)

theorem Slot.readAll_frame {rs : List Nat} {x y : Slot} {vs : List Word} (h : x.readAll rs = .ok (vs, y)) : y = { x with strs := y.strs } := by
  induction rs generalizing x vs with
  | nil =>
    simp only [Slot.readAll] at h
    cases h
    rfl
  | cons r rs ih =>
    simp only [Slot.readAll] at h
    split at h
    · cases h
    · rename_i v z hz
      split at h
      · cases h
      · rename_i ws w hw
        cases h
        rw [ih hw, Slot.readOne_frame hz]

theorem Slot.prep_frame {x y : Slot} {rs : List Nat} {d : Option Nat} {reply : Bool} {vs : List Word} (h : x.prep rs d reply = .ok vs y) :
    y = { x with strs := y.strs } := by
  unfold Slot.prep at h
  repeat' split at h
  all_goals first
    | cases h; done
    | (cases h; exact Slot.readAll_frame (by assumption))

@[simp] theorem keepStreams_done (t : State) (k : Nat) (x : Slot) : (Res.done t).keepStreams k x = .done t := rfl
@[simp] theorem keepStreams_jump (t : State) (pc : Word) (k : Nat) (x : Slot) : (Res.jump t pc).keepStreams k x = .jump t pc := rfl
@[simp] theorem keepStreams_branch (t : State) (pc : Word) (b : Bool) (k : Nat) (x : Slot) :
    (Res.branch t pc b).keepStreams k x = .branch t pc b := rfl
@[simp] theorem keepStreams_left (t : State) (k : Nat) (x : Slot) : (Res.left t).keepStreams k x = .left t := rfl
@[simp] theorem keepStreams_trap (c : Nat) (v : Word) (k : Nat) (x : Slot) : (Res.trap c v).keepStreams k x = .trap c v := rfl
theorem keepStreams_trapAt (t : State) (c : Nat) (v : Word) (k : Nat) (x : Slot) :
    (Res.trapAt t c v).keepStreams k x = .trapAt (modSlot t k fun z => { z with strs := x.strs }) c v := rfl
@[simp] theorem keepStreams_trapStream (i c : Nat) (v : Word) (k : Nat) (x : Slot) :
    (Res.trapStream i c v).keepStreams k x = .trapStream i c v := rfl
theorem keepStreams_park (t : State) (k : Nat) (x : Slot) :
    (Res.park t).keepStreams k x = .park (modSlot t k fun z => { z with strs := x.strs }) := rfl

/-- The common frame when the operands are read. -/
theorem withOps_ok {s : State} {srcs : List GReg} {dst : Option GReg} {reply : Bool} {body : State → List Word → Res} {vs : List Word}
    {y : Slot} (h : (slotAt s s.cur).prep (srcs.map BitVec.toNat) (dst.map BitVec.toNat) reply = .ok vs y) :
    withOps s srcs dst reply body = finish s s.cur ((body (setSlot s s.cur y) vs).keepStreams s.cur (slotAt s s.cur)) := by
  simp [withOps, h]

/-- The common frame when an operand is not there: the slot parks. -/
theorem withOps_park {s : State} {srcs : List GReg} {dst : Option GReg} {reply : Bool} {body : State → List Word → Res}
    (h : (slotAt s s.cur).prep (srcs.map BitVec.toNat) (dst.map BitVec.toNat) reply = .park) :
    withOps s srcs dst reply body = finish s s.cur (.park s) := by
  simp [withOps, h]

/-- A form that computes a value, when its operands are read. -/
theorem compute_ok {s : State} {d : GReg} {srcs : List GReg} {t : Bool} {f : List Word → Word} {vs : List Word} {y : Slot}
    (h : (slotAt s s.cur).prep (srcs.map BitVec.toNat) (some d.toNat) false = .ok vs y) :
    compute s d srcs t f = finish s s.cur (.done (modSlot (setSlot s s.cur y) s.cur fun x =>
      (x.takeIf t (srcs.headD 0#5).toNat).writeDst d.toNat (f vs))) := by
  unfold compute
  rw [withOps_ok (by simpa using h)]
  rfl

/-! What each end of a turn leaves. -/

theorem finish_done (s t : State) (k : Nat) :
    finish s k (.done t) = (modSlot t k fun x => x.finishAt (x.pc + 4#64)).marked .done := rfl
theorem finish_jump (s t : State) (k : Nat) (pc : Word) :
    finish s k (.jump t pc) = (modSlot t k fun x => x.finishAt pc).marked .done := rfl
theorem finish_branch (s t : State) (k : Nat) (pc : Word) (b : Bool) :
    finish s k (.branch t pc b) = (modSlot t k fun x => x.finishAt pc).marked (if b then .taken else .done) := rfl
theorem finish_left (s t : State) (k : Nat) : finish s k (.left t) = (modSlot t k fun x => x.complete).marked .done := rfl
theorem finish_park (s t : State) (k : Nat) : finish s k (.park t) = (modSlot t k Slot.parkTurn).marked .parked := rfl
theorem finish_trap (s : State) (k c : Nat) (v : Word) : finish s k (.trap c v) = trapNow s k c v := rfl

@[simp] theorem finishAt_g (x : Slot) (pc : Word) : (x.finishAt pc).g = x.g := rfl
@[simp] theorem finishAt_full (x : Slot) (pc : Word) : (x.finishAt pc).full = x.full := rfl
@[simp] theorem finishAt_pois (x : Slot) (pc : Word) : (x.finishAt pc).pois = x.pois := rfl
@[simp] theorem finishAt_pend (x : Slot) (pc : Word) : (x.finishAt pc).pend = x.pend := rfl
@[simp] theorem finishAt_pc (x : Slot) (pc : Word) : (x.finishAt pc).pc = pc := rfl
@[simp] theorem finishAt_mode (x : Slot) (pc : Word) : (x.finishAt pc).mode = x.mode := rfl
@[simp] theorem finishAt_strs (x : Slot) (pc : Word) : (x.finishAt pc).strs = x.strs := rfl
@[simp] theorem finishAt_reg (x : Slot) (pc : Word) (r : Nat) : (x.finishAt pc).reg r = x.reg r := rfl
theorem finishAt_issued (x : Slot) (pc : Word) : (x.finishAt pc).creg 0x005 = x.creg 0x005 + 1#64 :=
  SMap.get_set_self _ _ _ _
theorem finishAt_creg (x : Slot) (pc : Word) {n : Nat} (h : n ≠ 0x005) : (x.finishAt pc).creg n = x.creg n :=
  SMap.get_set_ne _ _ _ h

@[simp] theorem takeIf_false (x : Slot) (a : Nat) : x.takeIf false a = x := rfl
@[simp] theorem takeIf_reg (x : Slot) (t : Bool) (a r : Nat) : (x.takeIf t a).reg r = x.reg r := by
  unfold Slot.takeIf
  split
  · split <;> simp
  · rfl
@[simp] theorem takeIf_strs (x : Slot) (t : Bool) (a : Nat) : (x.takeIf t a).strs = x.strs := by
  unfold Slot.takeIf
  split
  · split <;> simp
  · rfl
@[simp] theorem takeIf_pc (x : Slot) (t : Bool) (a : Nat) : (x.takeIf t a).pc = x.pc := by
  unfold Slot.takeIf
  split
  · split <;> simp
  · rfl
theorem inStream_congr {x y : Slot} (h : x.strs = y.strs) (r : Nat) : x.inStream r = y.inStream r := by
  unfold Slot.inStream Slot.stream
  rw [h]
@[simp] theorem takeIf_inStream (x : Slot) (t : Bool) (a r : Nat) : (x.takeIf t a).inStream r = x.inStream r :=
  inStream_congr (by simp) r

theorem writeDst_plain {x : Slot} {d : Nat} (v : Word) (h : x.inStream d = none) : x.writeDst d v = x.setReg d v := by
  unfold Slot.writeDst
  rw [h]

/-! Trap entry. -/

/-- A precise trap of a slot that is not in a trap enters its handler (R331). -/
theorem trapEntry_enters {s : State} {k c : Nat} {v p : Word} {async : Bool} (h : (slotAt s k).intrap = false) :
    trapEntry s k c v p async = setSlot s k (((slotAt s k).enterTrap c v p async).gangTrap (leadsGang s k)) := by
  simp [trapEntry, h]

/-- A trap other than 0x70 inside a handler is a double trap (R332). -/
theorem trapEntry_double {s : State} {k c : Nat} {v p : Word} {async : Bool} (h : (slotAt s k).intrap = true) (hc : c ≠ 0x70) :
    trapEntry s k c v p async = doubleTrap s k c := by
  simp [trapEntry, h, hc]

end Sys2Proof.Machine
end

