-- ==== Sys2Proof/Laws/Turns.lean ====
section
/-! SUPPORT. The laws of a cycle's turns: which slot takes the next one, and when none is due. -/

namespace Sys2Proof.Machine

/-- The slot chosen is one of the candidates, and its turn is due. -/
theorem firstDue_due {s : State} {ks : List Nat} {k : Nat} (h : firstDue s ks = some k) : k ∈ ks ∧ slotDue s k = true := by
  induction ks with
  | nil => cases h
  | cons j js ih =>
    simp only [firstDue] at h
    split at h
    · split at h
      · rename_i hj
        cases h
        exact ⟨by simp, hj⟩
      · cases h
    · rename_i i hi
      split at h
      · rename_i hj
        cases h
        simp only [Bool.and_eq_true] at hj
        exact ⟨by simp, hj.1⟩
      · cases h
        exact ⟨List.mem_cons_of_mem _ (ih hi).1, (ih hi).2⟩

/-- No turn of the candidates is due when none is chosen. -/
theorem firstDue_none {s : State} {ks : List Nat} (h : firstDue s ks = none) : ∀ k ∈ ks, slotDue s k = false := by
  induction ks with
  | nil => simp
  | cons j js ih =>
    simp only [firstDue] at h
    split at h
    · rename_i hi
      split at h
      · cases h
      · rename_i hj
        intro k hk
        rcases List.mem_cons.mp hk with rfl | hk
        · simpa using hj
        · exact ih hi k hk
    · split at h <;> cases h

/-- An event closes the turns of its cycle (R184). -/
theorem dueTurn_closed {s : State} (h : s.time < s.turnsTo) : dueTurn s = none := by
  simp [dueTurn, h]

/-- The next turn is one that its slot holds, and has a use for (R282, R330). -/
theorem dueTurn_holds {s : State} {k : Nat} (h : dueTurn s = some k) : holdsTurn s k = true ∧ turnUse s k ≠ .empty := by
  unfold dueTurn at h
  split at h
  · cases h
  · have := (firstDue_due h).2
    simpa [slotDue] using this

/-- A turn that its slot does not hold changes nothing (R282). -/
theorem execSlotTurn_empty {s : State} {k : Nat} {par : Option Nat} (h : holdsTurn s k = false) : execSlotTurn k par s = .next s := by
  simp [execSlotTurn, h]

end Sys2Proof.Machine
end

