-- ==== Sys2Proof/Tests/Slice0.lean ====
section
/-! SUPPORT. The model's own tests: ill-formed terms that the checks refuse, words written out from the manual's encodings, small runs of one
instruction or event, and for each statement with hypotheses a state that meets them, clause by clause. Every value expected here is worked
out by hand from the manual. -/

namespace Sys2Proof.Tests

open Sys2Proof Sys2Proof.Machine Sys2Proof.Claims

set_option maxRecDepth 100000
set_option Elab.async false

/-! Small states. -/

/-- A slot that runs in user mode: its registers are full, and g1, g2, … hold `rs`. -/
def slotWith (rs : List Word) : Slot :=
  { Slot.reset with full := BitVec.allOnes 32, st := .ready, mode := .user, g := (rs.zipIdx 1).map fun p => (p.2, p.1) }

/-- The machine at the turn of slot 0, with that slot `x`. -/
def at0 (x : Slot) : State := setSlot { State.reset with cur := 0, turn := true } 0 x

/-- The state that an instruction or event leaves. -/
def after (o : Out) : State := match o with
  | .next t => t
  | _ => State.reset

/-- Slot 0 after an instruction or event. -/
def slot0 (o : Out) : Slot := slotAt (after o) 0

/-- The values that an instruction reads at its turn; none where it parks or traps. Where `reads` answers `some vs` and the slot is in no
stream mode, `Reads s srcs dst vs (slotAt s s.cur)` holds. -/
def reads (s : State) (srcs : List GReg) (dst : Option GReg) (reply : Bool := false) : Option (List Word) :=
  match (slotAt s s.cur).prep (srcs.map BitVec.toNat) (dst.map BitVec.toNat) reply with
  | .ok vs y => if y = slotAt s s.cur then some vs else none
  | _ => none

theorem reads_holds {s : State} {srcs : List GReg} {dst : Option GReg} {reply : Bool} {vs : List Word} (h : reads s srcs dst reply = some vs) :
    Reads s srcs dst vs (slotAt s s.cur) reply := by
  unfold reads at h
  unfold Reads
  split at h
  · split at h
    · cases h
      rename_i y he hp
      rw [hp, he]
    · cases h
  · cases h

/-- The addresses and rights that an access is given. -/
def okAddr : AddrRes → Option (Nat × Nat × Acc)
  | .ok la pa acc => some (la, pa, acc)
  | _ => none

/-- The bytes that a home reads. -/
def okBytes : HRes → Option (List Byte)
  | .ok _ bs => some bs
  | _ => none

/-- The word that a fetch answers. -/
def okWord : Fetched → Option (BitVec 32)
  | .word w => some w
  | _ => none

/-- The state in which the operands have been read, of a slot in no stream mode. -/
def seen (s : State) : State := popped s (slotAt s s.cur)

/-- A segment of all rights but A (R129). -/
def segment (n base limit win : Nat) : List (Nat × Word) :=
  [(0xC0 + 2 * n, nw (base / 16 + limit % 4096 * 2 ^ 52)), (0xC1 + 2 * n, nw (limit / 4096 + 0x370000000 + win * 2 ^ 34))]

/-- A slot with segments: 1 its own LM, 2 the LM of logical core 1, 3 the control window, 4 the tiers, 5 the cluster's CSP. -/
def segSlot (rs : List Word) : Slot :=
  { slotWith rs with
    regs := segment 1 0x20000000000 0x7FFFF 1 ++ segment 2 0x20000080000 0x7FFFF 1 ++ segment 3 0x22000000000 0x3FFFFFFFFF 3 ++
      segment 4 0 0xFFFFFFFF 0 ++ segment 5 0x21800000000 0x1FFFFF 2 }

/-- A pointer through a segment (R132). -/
def ptr (seg off : Nat) : Word := nw (seg * 2 ^ 61 + off)


/-- What pieces of memory read when the answers for all of them are there: the answers left, and the bytes. -/
def keptCuts : List (Nat × Nat) → List Word → Option (List Word × List Byte)
  | [], ws => some (ws, [])
  | (_, m) :: rest, ws =>
    if answerWords m ≤ ws.length then
      (keptCuts rest (ws.drop (answerWords m))).map fun r => (r.1, (wordsLE (ws.take (answerWords m))).take m ++ r.2)
    else none

theorem readCuts_kept {s : State} {seg asid : Nat} {ended : State → List Word → List Byte → Res} (cuts : List (Nat × Nat)) :
    ∀ (ws left : List Word) (got bs : List Byte), keptCuts cuts ws = some (left, bs) →
      readCuts seg asid cuts s ws got ended = ended s left (got ++ bs) := by
  induction cuts with
  | nil => intro ws left got bs h; cases h; rw [List.append_nil]; rfl
  | cons c rest ih =>
    intro ws left got bs h
    unfold keptCuts at h
    split at h
    · rename_i hn
      obtain ⟨r, hr, h⟩ := Option.map_eq_some_iff.mp h
      cases h
      unfold readCuts
      rw [if_pos hn, ih _ _ _ _ hr, List.append_assoc]
    · cases h

/-- What a segmented pointer names, when the answers for all of it are there. -/
def keptRead (s : State) (ws : List Word) (p : Word) (skip n al : Nat) : Option (List Word × List Byte) :=
  match ptrSpan (slotAt s s.cur) p (skip + n) al needR with
  | .error _ => none
  | .ok la => keptCuts (dwordCuts (n / 8 + 2) (la + skip) n) ws

/-- An instruction that has the answers for a structure reads it from them. -/
theorem readsBytes_kept {s : State} {ws left : List Word} {p : Word} {skip n al : Nat} {bs : List Byte}
    (h : keptRead s ws p skip n al = some (left, bs)) : ReadsBytes s ws p skip n al left bs s := by
  refine ⟨.inl rfl, fun ended => ?_⟩
  unfold keptRead at h
  unfold ptrBytes
  cases hp : ptrSpan (slotAt s s.cur) p (skip + n) al needR <;> simp only [hp] at h ⊢ <;> try contradiction
  exact readCuts_kept _ _ _ _ _ h

/-- Slot 0 with the answers of its instruction. -/
def withKept (x : Slot) (ws : List Word) : Slot := { x with trip := some ⟨1, 0, ws, none⟩ }

theorem withKept_answered (x : Slot) (ws : List Word) : Answered (withKept x ws) ws := ⟨_, rfl, rfl, rfl, rfl⟩
/-! Well-formedness: each check refuses an ill-formed term. -/

/-- R19: a width of 3 in `sext` and `zext`, a scope above 4, an engine register above 9, a matrix register above 2, an unassigned control register. -/
theorem test_wf_refuses_operands :
    (Instr.sext 1 2 false 3).wf = false ∧ (Instr.zext 1 2 false 3).wf = false ∧ (Instr.fence 1 5).wf = false ∧ (Instr.fencex 1 5).wf = false ∧
    (Instr.xset 1 false 10).wf = false ∧ (Instr.mset 1 false 3).wf = false ∧ (Instr.cget 1 0x3FFF).wf = false ∧
    (Instr.cput 1 false 0x3FFF).wf = false := by decide +kernel

/-- R2: keys of units that the part does not have. -/
theorem test_wf_refuses_units :
    (Instr.slotTurn 696320 none).wf = false ∧ (Instr.slotTurn 0 (some 0)).wf = false ∧ (Instr.niSend 43520).wf = false ∧
    (Instr.netHopReplay 8 0).wf = false ∧ (Instr.netHopFail 1280 0).wf = false ∧ (Instr.netHopFail 0 5).wf = false ∧
    (Instr.lmQuarterReady 0 4).wf = false ∧ (Instr.streamFetch 0 4).wf = false ∧ (Instr.rowRepairDone 3).wf = false ∧
    (Instr.linkDown 16 1).wf = false ∧ (Instr.linkDown 0 0).wf = false ∧ (Instr.linkDown 0 9).wf = false ∧
    (Instr.cxlMemRequest 2 false 0 []).wf = false ∧ (Instr.launchWindowGo 64 [] 0).wf = false ∧ (Instr.snrInvalidate 0 16 0).wf = false ∧
    (Instr.semCountWrite 0 16 0).wf = false ∧ (Instr.omuSiteRetire 3 0).wf = false ∧ (Instr.laneLossOfLock 0 9).wf = false ∧
    (Instr.registerWrite 0 0x3FFF 0).wf = false := by decide +kernel

/-- Terms that are well formed. -/
theorem test_wf_accepts :
    (Instr.add 31 0 7 true).wf = true ∧ (Instr.sext 1 2 false 2).wf = true ∧ (Instr.fence 7 4).wf = true ∧ (Instr.cget 1 0x80).wf = true ∧
    (Instr.slotTurn 696319 (some 31)).wf = true ∧ (Instr.linkDown 15 8).wf = true := by decide +kernel

/-! Words written out by hand from the formats of R12 and the opcode map of R18: opcode in bits 31 to 25, d = 3, a = 4, b = 5, t = 1 where a
form has them. -/

/-- R12, R15, R18: ALU and ALUW. -/
theorem test_decode_alu_1 : ∀ p ∈ [
   (0x02321600#32, Instr.add 3 4 5 true), (0x02321601#32, Instr.sub 3 4 5 true), (0x02321602#32, Instr.and 3 4 5 true),
   (0x02321603#32, Instr.or 3 4 5 true), (0x02321604#32, Instr.xor 3 4 5 true), (0x02321605#32, Instr.andn 3 4 5 true),
   (0x02321606#32, Instr.orn 3 4 5 true), (0x02321607#32, Instr.sll 3 4 5 true), (0x02321608#32, Instr.srl 3 4 5 true),
   (0x02321609#32, Instr.sra 3 4 5 true), (0x0232160A#32, Instr.slt 3 4 5 true), (0x0232160B#32, Instr.sltn 3 4 5 true),
   (0x0232160C#32, Instr.min 3 4 5 true), (0x0232160D#32, Instr.max 3 4 5 true), (0x0232160E#32, Instr.minn 3 4 5 true),
   (0x0232160F#32, Instr.maxn 3 4 5 true), (0x04321600#32, Instr.addw 3 4 5 true), (0x04321601#32, Instr.subw 3 4 5 true),
   (0x04321602#32, Instr.sllw 3 4 5 true), (0x04321603#32, Instr.srlw 3 4 5 true)],
    decodeWord p.1 = .ok p.2 := by decide +kernel

/-- R12, R15, R18: ALU and ALUW. -/
theorem test_decode_alu_2 : ∀ p ∈ [
   (0x04321604#32, Instr.sraw 3 4 5 true)],
    decodeWord p.1 = .ok p.2 := by decide +kernel

/-- R12, R15, R18: MULDIV and BITOP. -/
theorem test_decode_mulDiv_bitop : ∀ p ∈ [
   (0x06321600#32, Instr.mul 3 4 5 true), (0x06321601#32, Instr.mulh 3 4 5 true), (0x06321602#32, Instr.mulhn 3 4 5 true),
   (0x06321603#32, Instr.div 3 4 5 true), (0x06321604#32, Instr.divn 3 4 5 true), (0x06321605#32, Instr.rem 3 4 5 true),
   (0x06321606#32, Instr.remn 3 4 5 true), (0x08320200#32, Instr.clz 3 4 true), (0x08320201#32, Instr.ctz 3 4 true),
   (0x08320202#32, Instr.popc 3 4 true), (0x08321603#32, Instr.rotl 3 4 5 true), (0x08321604#32, Instr.rotr 3 4 5 true),
   (0x08320205#32, Instr.rev8 3 4 true), (0x08320206#32, Instr.brev 3 4 true), (0x08321607#32, Instr.bext 3 4 5 true),
   (0x08321608#32, Instr.bdep 3 4 5 true), (0x08320229#32, Instr.sext 3 4 true 1), (0x0832022A#32, Instr.zext 3 4 true 1)],
    decodeWord p.1 = .ok p.2 := by decide +kernel

/-- R12, R15, R18: The immediate forms, upper, select and check forms. -/
theorem test_decode_immediates : ∀ p ∈ [
   (0x0A325234#32, Instr.addi 3 4 true 4660), (0x0C325234#32, Instr.andi 3 4 true 4660), (0x0E325234#32, Instr.ori 3 4 true 4660),
   (0x10325234#32, Instr.xori 3 4 true 4660), (0x12325234#32, Instr.slti 3 4 true 4660), (0x14325234#32, Instr.sltni 3 4 true 4660),
   (0x16324021#32, Instr.slli 3 4 true 33), (0x16325021#32, Instr.srli 3 4 true 33), (0x16326021#32, Instr.srai 3 4 true 33),
   (0x16327021#32, Instr.rotli 3 4 true 33), (0x18301234#32, Instr.lui 3 4660), (0x1A301234#32, Instr.pcaddu 3 4660),
   (0x1C321600#32, Instr.selz 3 4 5 true), (0x1C321601#32, Instr.selnz 3 4 5 true), (0x1E3257F8#32, Instr.lea 3 4 true 2 2040),
   (0x20321600#32, Instr.segck 3 4 5 true), (0x20021601#32, Instr.tchk 4 5 true)],
    decodeWord p.1 = .ok p.2 := by decide +kernel

/-- R12, R15, R18: Loads and stores. -/
theorem test_decode_loads_stores : ∀ p ∈ [
   (0x223257F8#32, Instr.ldI8 3 4 true 2 2040), (0x243257F8#32, Instr.ldN8 3 4 true 2 2040), (0x263257F8#32, Instr.ldI16 3 4 true 2 2040),
   (0x283257F8#32, Instr.ldN16 3 4 true 2 2040), (0x2A3257F8#32, Instr.ldI32 3 4 true 2 2040), (0x2C3257F8#32, Instr.ldN32 3 4 true 2 2040),
   (0x2E3257F8#32, Instr.ld64 3 4 true 2 2040), (0x303257F8#32, Instr.st8 3 4 true 2 2040), (0x323257F8#32, Instr.st16 3 4 true 2 2040),
   (0x343257F8#32, Instr.st32 3 4 true 2 2040), (0x363257F8#32, Instr.st64 3 4 true 2 2040)],
    decodeWord p.1 = .ok p.2 := by decide +kernel

/-- R12, R15, R18: The read-only and full/empty forms. -/
theorem test_decode_full_empty : ∀ p ∈ [
   (0x383257F8#32, Instr.ldro64 3 4 true 2 2040), (0x3A0257F8#32, Instr.pfro 4 true 2 2040), (0x3C3257F8#32, Instr.ldfe 3 4 true 2 2040),
   (0x3E3257F8#32, Instr.ldff 3 4 true 2 2040), (0x403257F8#32, Instr.stef 3 4 true 2 2040), (0x423257F8#32, Instr.stff 3 4 true 2 2040),
   (0x44020200#32, Instr.fset 4 true), (0x44020201#32, Instr.fclr 4 true), (0x44320202#32, Instr.fget 3 4 true)],
    decodeWord p.1 = .ok p.2 := by decide +kernel

/-- R12, R15, R18: AMO, cas, fences. -/
theorem test_decode_atomics_fences : ∀ p ∈ [
   (0x46321620#32, Instr.amoAdd 3 4 5 true true), (0x46321621#32, Instr.amoAnd 3 4 5 true true),
   (0x46321622#32, Instr.amoOr 3 4 5 true true), (0x46321623#32, Instr.amoXor 3 4 5 true true),
   (0x46321624#32, Instr.amoMin 3 4 5 true true), (0x46321625#32, Instr.amoMax 3 4 5 true true),
   (0x46321626#32, Instr.amoMinn 3 4 5 true true), (0x46321627#32, Instr.amoMaxn 3 4 5 true true),
   (0x46321628#32, Instr.amoSwap 3 4 5 true true), (0x46321609#32, Instr.amoFadd 3 4 5 true), (0x48321620#32, Instr.cas 3 4 5 true true),
   (0x4A200060#32, Instr.fence 2 3), (0x4A400061#32, Instr.fencex 2 3), (0x4C021600#32, Instr.rocinv 4 5 true),
   (0x4E300000#32, Instr.pjwait 3)],
    decodeWord p.1 = .ok p.2 := by decide +kernel

/-- R12, R15, R18: Branches, jumps and gangs. -/
theorem test_decode_branches : ∀ p ∈ [
   (0x504287F8#32, Instr.beq 4 5 2040), (0x504297F8#32, Instr.bne 4 5 2040), (0x5042A7F8#32, Instr.blt 4 5 2040),
   (0x5042B7F8#32, Instr.bge 4 5 2040), (0x5042C7F8#32, Instr.bltn 4 5 2040), (0x5042D7F8#32, Instr.bgen 4 5 2040),
   (0x504067F8#32, Instr.bfull 4 2040), (0x524A07F8#32, Instr.beqi 4 20 2040), (0x524A17F8#32, Instr.bnei 4 20 2040),
   (0x524A27F8#32, Instr.blti 4 20 2040), (0x524A37F8#32, Instr.bgei 4 20 2040), (0x543007F8#32, Instr.jal 3 2040),
   (0x56325234#32, Instr.jalr 3 4 true 4660), (0x584287F8#32, Instr.loop 4 5 2040), (0x5A020200#32, Instr.gform 4 true),
   (0x5A000001#32, Instr.gsplit), (0x5A000002#32, Instr.grejoin), (0x5A000003#32, Instr.gleave)],
    decodeWord p.1 = .ok p.2 := by decide +kernel

/-- R12, R15, R18: Pinning, semaphores, rings, waiting, units. -/
theorem test_decode_slots : ∀ p ∈ [
   (0x60000000#32, Instr.pin), (0x60000001#32, Instr.unpin), (0x62048000#32, Instr.semdn 9), (0x62048001#32, Instr.semup 9),
   (0x62348002#32, Instr.semtry 3 9), (0x64029400#32, Instr.qbind 5 5), (0x64329401#32, Instr.qwaitf 3 5 5),
   (0x64329402#32, Instr.qwaite 3 5 5), (0x64029403#32, Instr.qadvh 5 5), (0x64029404#32, Instr.qadvt 5 5), (0x64328005#32, Instr.qcnt 3 5),
   (0x66020200#32, Instr.yield 4 true), (0x66320201#32, Instr.park 3 4 true), (0x66020202#32, Instr.wake 4 true),
   (0x68020200#32, Instr.tsleep 4 true), (0x6A308000#32, Instr.clock 3 true), (0x6C000000#32, Instr.wfw), (0x6E000000#32, Instr.tdone),
   (0x6E020201#32, Instr.tfail 4 true)],
    decodeWord p.1 = .ok p.2 := by decide +kernel

/-- R12, R15, R18: Levels, phases, messages, tiles. -/
theorem test_decode_work_messages : ∀ p ∈ [
   (0x70320200#32, Instr.launch 3 4 true), (0x72320200#32, Instr.lvlcnt 3 4 true), (0x72320201#32, Instr.lvlwait 3 4 true),
   (0x72020202#32, Instr.lvlcancel 4 true), (0x74320200#32, Instr.phopen 3 4 true), (0x74020201#32, Instr.phclose 4 true),
   (0x74320202#32, Instr.phwait 3 4 true), (0x7642C0C0#32, Instr.msend 4 5 true 6), (0x7642E0C0#32, Instr.msendD 4 5 true 6),
   (0x78000000#32, Instr.mend), (0x7A020200#32, Instr.hop 4 true), (0x7C321600#32, Instr.mwait 3 4 5 true),
   (0x7E120600#32, Instr.tdecl 33 4 true), (0x7E120601#32, Instr.tarm 33 4 true), (0x7E120602#32, Instr.twait 33 4 true),
   (0x7E100403#32, Instr.trel 33)],
    decodeWord p.1 = .ok p.2 := by decide +kernel

/-- R12, R15, R18: XFE, streams, VE registers. -/
theorem test_decode_engines : ∀ p ∈ [
   (0x80404800#32, Instr.xset 4 true 2), (0x8042C001#32, Instr.xcopy 4 5 true), (0x8042C002#32, Instr.xgather 4 5 true),
   (0x8042C003#32, Instr.xscatter 4 5 true), (0x80404004#32, Instr.xfill 4 true), (0x8042C005#32, Instr.xlrec 4 5 true),
   (0x80404006#32, Instr.xlflush 4 true), (0x83B20200#32, Instr.strm 3 4 true), (0x83B20201#32, Instr.strmoff 3 4 true),
   (0x8442C060#32, Instr.vset 4 5 true 3)],
    decodeWord p.1 = .ok p.2 := by decide +kernel

/-- R12, R15, R18: VE commands. -/
theorem test_decode_vector_1 : ∀ p ∈ [
   (0x86404E60#32, Instr.vadd 4 true 1 6 3), (0x86404E61#32, Instr.vsub 4 true 1 6 3), (0x86404E62#32, Instr.vmul 4 true 1 6 3),
   (0x86404E63#32, Instr.vfma 4 true 1 6 3), (0x86404E64#32, Instr.vmax 4 true 1 6 3), (0x86404E65#32, Instr.vmin 4 true 1 6 3),
   (0x86404866#32, Instr.vabs 4 true 1 3), (0x86404867#32, Instr.vneg 4 true 1 3), (0x8642C868#32, Instr.vscale 4 5 true 1 3),
   (0x88404E60#32, Instr.viadd 4 true 1 6 3), (0x88404E61#32, Instr.visub 4 true 1 6 3), (0x88404E62#32, Instr.vimul 4 true 1 6 3),
   (0x88404E63#32, Instr.viand 4 true 1 6 3), (0x88404E64#32, Instr.vior 4 true 1 6 3), (0x88404E65#32, Instr.vixor 4 true 1 6 3),
   (0x8842C866#32, Instr.vishl 4 5 true 1 3), (0x8842C867#32, Instr.vishr 4 5 true 1 3), (0x8A404860#32, Instr.vconv 4 true 1 3),
   (0x8A404861#32, Instr.vbfp 4 true 1 3), (0x8A404862#32, Instr.vbfpx 4 true 1 3)],
    decodeWord p.1 = .ok p.2 := by decide +kernel

/-- R12, R15, R18: VE commands. -/
theorem test_decode_vector_2 : ∀ p ∈ [
   (0x8A404863#32, Instr.vcbq 4 true 1 3), (0x8A404864#32, Instr.vcbx 4 true 1 3), (0x8A42C865#32, Instr.vsat 4 5 true 1 3),
   (0x8C404860#32, Instr.vsum 4 true 1 3), (0x8C404861#32, Instr.vmaxr 4 true 1 3), (0x8C404E62#32, Instr.vdot 4 true 1 6 3),
   (0x8E028800#32, Instr.vcbld 5 1)],
    decodeWord p.1 = .ok p.2 := by decide +kernel

/-- R12, R15, R18: OMU and collective forms. -/
theorem test_decode_matrix : ∀ p ∈ [
   (0x90404000#32, Instr.mown 4 true), (0x90404801#32, Instr.mset 4 true 2), (0x9042C022#32, Instr.mphld 4 5 true true),
   (0x90028003#32, Instr.mswap 5), (0x9042C004#32, Instr.mpass 4 5 true), (0x9042C005#32, Instr.mdrain 4 5 true),
   (0x9042C006#32, Instr.mclr 4 5 true), (0x90028007#32, Instr.mprobe 5), (0x9242C000#32, Instr.mdecomp 4 5 true),
   (0x94320200#32, Instr.phrd 3 4 true), (0x94021601#32, Instr.phwr 4 5 true), (0x9642C000#32, Instr.mcal 4 5 true),
   (0x98320200#32, Instr.macrd 3 4 true), (0x9A42C000#32, Instr.colgo 4 5 true)],
    decodeWord p.1 = .ok p.2 := by decide +kernel

/-- R12, R15, R18: Dictionary and transform forms. -/
theorem test_decode_transform : ∀ p ∈ [
   (0x9C021600#32, Instr.nidict 4 5 true), (0x9C020201#32, Instr.niclr 4 true), (0xA0021600#32, Instr.bsbind 4 5 true),
   (0xA0320201#32, Instr.bsget 3 4 true), (0xA0320202#32, Instr.bspeek 3 4 true), (0xA0021603#32, Instr.bsput 4 5 true),
   (0xA0021604#32, Instr.bsskip 4 5 true), (0xA0320205#32, Instr.bsalign 3 4 true), (0xA2321600#32, Instr.bslut 3 4 5 true),
   (0xA4321600#32, Instr.crc32c 3 4 5 true), (0xA4321601#32, Instr.hash64 3 4 5 true), (0xA6321600#32, Instr.tfwake 3 4 5 true)],
    decodeWord p.1 = .ok p.2 := by decide +kernel

/-- R12, R15, R18: System forms. -/
theorem test_decode_system : ∀ p ∈ [
   (0xB0020200#32, Instr.sys 4 true), (0xB0000001#32, Instr.brk), (0xB0000002#32, Instr.eret), (0xB0000003#32, Instr.halt),
   (0xB23000C1#32, Instr.cget 3 193), (0xB40240C1#32, Instr.cput 4 true 193), (0xB66257F8#32, Instr.segld 6 4 true 2 2040),
   (0xB86257F8#32, Instr.segst 6 4 true 2 2040), (0xBA320200#32, Instr.snap 3 4 true), (0xBA320201#32, Instr.accept 3 4 true),
   (0xBA320202#32, Instr.reject 3 4 true), (0xBA320203#32, Instr.snapq 3 4 true), (0xBC321600#32, Instr.msadd 3 4 5 true),
   (0xBC320201#32, Instr.msdel 3 4 true), (0xBC320202#32, Instr.msqry 3 4 true), (0xBE021600#32, Instr.tlbfa 4 5 true),
   (0xBE321601#32, Instr.tlbinv 3 4 5 true)],
    decodeWord p.1 = .ok p.2 := by decide +kernel

/-- R12, R15, R18: Privileged forms. -/
theorem test_decode_privileged : ∀ p ∈ [
   (0xC0321600#32, Instr.scwb 3 4 5 true), (0xC0321601#32, Instr.scinv 3 4 5 true), (0xC0321602#32, Instr.scdom 3 4 5 true),
   (0xC2321600#32, Instr.lmpwr 3 4 5 true), (0xC4321600#32, Instr.hustat 3 4 5 true), (0xC6321600#32, Instr.pmig 3 4 5 true),
   (0xC6321601#32, Instr.pmigsw 3 4 5 true), (0xC8320200#32, Instr.lnkq 3 4 true), (0xC8321601#32, Instr.lnkfec 3 4 5 true),
   (0xC8321602#32, Instr.lnkclaim 3 4 5 true), (0xCA321600#32, Instr.vbset 3 4 5 true), (0xCA321601#32, Instr.vbtest 3 4 5 true),
   (0xCC321600#32, Instr.crmap 3 4 5 true), (0xCE321600#32, Instr.dbghalt 3 4 5 true), (0xCE321601#32, Instr.dbgresume 3 4 5 true)],
    decodeWord p.1 = .ok p.2 := by decide +kernel

/-! A state and operands that meet the hypotheses of each statement, clause by clause; `witness_X` belongs to `Obligations.X`. -/

theorem witness_DecodeOfEncode :
    (Instr.st64 31 30 true 7 0x400).wf = true ∧ encode (.st64 31 30 true 7 0x400) = some 0x37FF7C00#32 ∧
    (Instr.slotTurn 5 none).wf = true ∧ encode (.slotTurn 5 none) = none := by decide +kernel

theorem witness_EncodeOfDecode : decodeWord 0x37FF7C00#32 = .ok (.st64 31 30 true 7 0x400) := by decide +kernel

theorem witness_UndecodableWordsTrap :
    [0x00000000#32, 0x5C000000#32, 0x5FFFFFFF#32, 0x9E000000#32, 0xA8000000#32, 0xAFFFFFFF#32, 0xD0000000#32, 0xFFFFFFFF#32].map decodeWord
      = List.replicate 8 (.error .illegal) ∧
    [0x02000010#32, 0x0832006B#32, 0x50007000#32, 0x58001000#32, 0x46000029#32, 0xCE000002#32].map decodeWord
      = List.replicate 6 (.error .reserved) := by decide +kernel

theorem witness_FormsOutOfPlaceTrap :
    (decodeWord 0xB0000002#32 = .ok .eret ∧ privWord 0xB0000002#32 = true ∧ (slotAt (at0 (slotWith [])) 0).mode = .user) ∧
    (decodeWord 0xA0000001#32 = .ok (.bsget 0 0 false) ∧ privWord 0xA0000001#32 = false ∧ xformWord 0xA0000001#32 = true ∧
      ¬ (slotNo 0 = 15 ∧ xformOn (at0 (slotWith [])) (coreOf 0) = true)) ∧
    (decodeWord 0x86000000#32 = .ok (.vadd 0 false 0 0 0) ∧ pinWord 0x86000000#32 = true ∧
      (coreAt (at0 (slotWith [])) (coreOf 0)).pin ≠ some 0) := by decide +kernel

/-- The machine after reset with `add g3, g0, g0` where slot 0 fetches. -/
def fetching : State := State.reset.withFetchWord 32 0x02300000

theorem witness_StepRunsTheDecodedInstruction :
    ((slotAt fetching 0).held = none ∧ (okAddr (fetchAddr fetching 0)).map (fun r => ownLm fetching (coreOf 0) r.2.1) = some (.own 0) ∧
      okBytes (lmRead fetching (coreOf 0) 0 4) = some [0x00#8, 0x00#8, 0x30#8, 0x02#8]) ∧
    fetching.modul.off = false ∧ fetching.turn = true ∧ okWord (fetchWord { fetching with turn := false } fetching.cur) = some 0x02300000#32 ∧
    followers { fetching with turn := false } fetching.cur = [] ∧ decodeWord 0x02300000#32 = .ok (.add 3 0 0 false) ∧
    privWord 0x02300000#32 = false ∧ xformWord 0x02300000#32 = false ∧ pinWord 0x02300000#32 = false ∧
    accessWord 0x02300000#32 = false := by decide +kernel

theorem witness_EveryInstructionAndEventGoesOn :
    State.reset.modul.off = false ∧ State.reset.turn = false ∧
    ({ State.reset with agenda := [⟨1, .niSend 0⟩] } : State).agenda = ⟨1, .niSend 0⟩ :: [] := by decide +kernel

theorem witness_MemoryCanonicalKept :
    Memory.wf fetching.mem = true ∧ fetching.mem ≠ [] ∧ (slotAt (after (step fetching)) 0).pc = 4#64 := by decide +kernel

theorem witness_RegisterFile : ((slotWith [5#64]).setReg 31 7#64).reg 31 = 7#64 ∧ ((slotWith [5#64]).take 1).reg 1 = 5#64 := by decide +kernel

/-- A slot with g2 empty, g3 poisoned with cause 0x42 and value 9, g4 in parity error and g5 pending. -/
def mixed : Slot :=
  { slotWith [1#64, 2#64, 0x8400000000000009#64, 4#64, 5#64] with full := 0xFFFFFFDB#32, pois := 8#32, par := 16#32, pend := 32#32 }

theorem witness_PlainOperands :
    (∀ r ∈ [1, 2, 3, 4, 5], mixed.inStream r = none) ∧ (∀ d ∈ some 5, mixed.inStream d = none) ∧
    (bitOf mixed.full 2 = false ∧ bitOf mixed.pois 3 = true ∧ bitOf mixed.par 4 = true ∧ bitOf mixed.pend 5 = true) ∧
    (match mixed.prep [1, 2] (some 1) false with | .park => true | _ => false) = true ∧
    (match mixed.prep [1] (some 5) false with | .park => true | _ => false) = true ∧
    (match mixed.prep [1, 3] (some 1) false with | .trap c v => (c, v) == (0x42, 9#64) | _ => false) = true ∧
    (match mixed.prep [4, 3] none true with | .trap c v => (c, v) == (0x78, 4#64) | _ => false) = true ∧
    (match mixed.prep [1] (some 31) false with | .ok vs _ => vs == [1#64] | _ => false) = true := by decide +kernel

/-- A slot with g24 in stream mode: `w` for a write stream, at POS `pos` of COUNT 9 elements of 2 bytes, with `n` elements of value 7 queued. -/
def streaming (w : Bool) (pos n : Nat) (pois : Bool) (fault : Option (Nat × Word)) : Slot :=
  { slotWith [] with
    strs := [(0, ⟨true, ⟨0, 0, 0, [], []⟩, [0#64, 0#64, 0#64, nw (9 + 2 ^ 48 + if w then 2 ^ 50 else 0)], pos,
      List.replicate n ⟨7#64, pois⟩, pos, false, fault, 0, EngIo.reset⟩)] }

/-- The stream of g24. -/
def stream0 (x : Slot) : Stream := x.stream 0

theorem witness_StreamOperands :
    (∀ x ∈ [streaming true 0 0 false none, streaming false 0 0 false none, streaming false 9 0 false none, streaming false 8 1 true none,
        streaming false 8 1 false none], x.inStream 24 = some (stream0 x)) ∧
    (stream0 (streaming true 0 0 false none)).writes = true ∧
    ((stream0 (streaming false 8 0 false none)).writes = false ∧ (stream0 (streaming false 8 0 false none)).fifo = [] ∧
      (stream0 (streaming false 8 0 false none)).pos < (stream0 (streaming false 8 0 false none)).count) ∧
    (stream0 (streaming false 9 0 false none)).count ≤ (stream0 (streaming false 9 0 false none)).pos ∧
    (stream0 (streaming false 8 1 true none)).fifo = [⟨7#64, true⟩] ∧ (stream0 (streaming false 8 1 false none)).fifo = [⟨7#64, false⟩] ∧
    8 ≤ (stream0 (streaming true 8 8 false none)).fifo.length ∧ (stream0 (streaming true 7 7 false none)).fifo.length < 8 ∧
    (stream0 (streaming true 8 1 false (some (0x10, 3#64)))).fault = some (0x10, 3#64) ∧
    (stream0 (streaming true 9 1 false none)).pos = (stream0 (streaming true 9 1 false none)).count ∧
    (stream0 (streaming true 8 1 false none)).pos ≠ (stream0 (streaming true 8 1 false none)).count := by decide +kernel

theorem witness_TrapEntry :
    (slotAt (at0 (slotWith [])) 0).intrap = false ∧ (slotAt (at0 ((slotWith []).setCreg 0x083 2#64)) 0).intrap = true := by decide +kernel

theorem witness_PreciseAndDoubleTraps :
    (slotAt (at0 (slotWith [])) 0).intrap = false ∧
    (slotAt (at0 ((slotWith []).setCreg 0x083 2#64)) 0).intrap = true ∧ (0x42 : Nat) ≠ 0x70 ∧
    (coreAt (at0 ((slotWith []).setCreg 0x083 2#64)) (coreOf 0)).evq.length < 16 := by decide +kernel

theorem witness_AluForms : reads (at0 (slotWith [0#64, 5#64, 0xFFFFFFFFFFFFFFFF#64])) [2, 3] (some 1) = some [5#64, 0xFFFFFFFFFFFFFFFF#64] := by
  decide +kernel

theorem witness_MulDivForms :
    reads (at0 (slotWith [0#64, 0x8000000000000000#64, 0xFFFFFFFFFFFFFFFF#64])) [2, 3] (some 3)
      = some [0x8000000000000000#64, 0xFFFFFFFFFFFFFFFF#64] ∧
    reads (at0 (slotWith [7#64, 0#64])) [1, 2] (some 3) = some [7#64, 0#64] := by decide +kernel

theorem witness_BitForms :
    reads (at0 (slotWith [0#64])) [1] (some 1) = some [0#64] ∧ reads (at0 (slotWith [6#64, 63#64])) [1, 2] (some 31) = some [6#64, 63#64] ∧
    (0x6A#9).extractLsb' 0 5 = 10#5 ∧ (0x6A#9).extractLsb' 5 2 = 3#2 := by decide +kernel

/-- A segment of 4,096 bytes without the right W, at segment 7. -/
def readOnlySegment : Slot :=
  { slotWith [ptr 7 0xFFF, ptr 7 0x1000, 1#64, nw (2 ^ 59 + 1), 9#64] with regs := [(0xCE, 0xFFF0000000000000#64), (0xCF, 0x10000000#64)] }

theorem witness_ImmediateUpperSelectAndCheckForms :
    reads (at0 readOnlySegment) [] (some 31) = some [] ∧ reads (at0 readOnlySegment) [3] (some 0) = some [1#64] ∧
    reads (at0 readOnlySegment) [1, 3] (some 6) = some [ptr 7 0xFFF, 1#64] ∧
    reads (at0 readOnlySegment) [2, 3] (some 6) = some [ptr 7 0x1000, 1#64] ∧
    reads (at0 readOnlySegment) [1, 4] (some 6) = some [ptr 7 0xFFF, nw (2 ^ 59 + 1)] ∧
    (0x1000#14).extractLsb' 6 6 = 0#6 ∧ (0x0040#14).extractLsb' 6 6 ≠ 0#6 ∧
    (reads (at0 readOnlySegment) [3, 5] none = some [1#64, 9#64] ∧ (1#64 : Word).toNat < (9#64 : Word).toNat) ∧
    (reads (at0 readOnlySegment) [5, 5] none = some [9#64, 9#64]) := by decide +kernel

/-- A slot at the last dword of its own LM, which holds 8 bytes; g2 is a value, g3 a destination. -/
def atLm : State :=
  setBytes (at0 (segSlot [0x7FFF8#64, 0xFEDCBA9876543210#64])) (lmKey 0 0x7FFF8) [0x88#8, 0x77#8, 0x66#8, 0x55#8, 0x44#8, 0x33#8, 0x22#8, 0x81#8]

/-- The linear address of a byte of the LM of logical core 0 or 1 of cluster 0, and what an untranslated access to it carries. -/
def lmOk (la : Nat) : Option (Nat × Nat × Acc) := some (la, la, Acc.plain 0 la)

theorem witness_LoadsAndStores :
    reads atLm [1] (some 3) = some [0x7FFF8#64] ∧ reads atLm [1, 2] none = some [0x7FFF8#64, 0xFEDCBA9876543210#64] ∧
    (slotAt atLm 0).barEHolds = false ∧ (slotAt atLm 0).inStream 3 = none ∧
    (∀ n ∈ [1, 2, 4, 8], okAddr (segAddr (seen atLm) 0 1 0x7FFF8#64 n needR) = lmOk 0x2000007FFF8 ∧
      okAddr (segAddr (seen atLm) 0 1 0x7FFF8#64 n needW) = lmOk 0x2000007FFF8 ∧
      firstBad atLm (lmKey 0 0x7FFF8) n = none ∧ partialBad atLm (lmKey 0 0x7FFF8) n = false ∧
      okAddr (segAddr (seen atLm) 0 2 0x7FFF8#64 n needR) = lmOk 0x200000FFFF8 ∧
      okAddr (segAddr (seen atLm) 0 2 0x7FFF8#64 n needW) = lmOk 0x200000FFFF8) ∧
    attracts (seen atLm) 0 1 0x2000007FFF8 = false ∧ ownLm (seen atLm) (coreOf 0) 0x2000007FFF8 = .own 0x7FFF8 ∧
    firstBad (setBad atLm (lmKey 0 0x7FFF8) 0x17) (lmKey 0 0x7FFF8) 8 = some (lmKey 0 0x7FFF8, 0x17) ∧
    attracts (seen atLm) 0 2 0x200000FFFF8 = false ∧ ownLm (seen atLm) (coreOf 0) 0x200000FFFF8 = .other ∧ isCtl atLm 0x200000FFFF8 = false ∧
    freeTag (coreAt atLm (coreOf 0)) = some 0 ∧ freeJ (coreAt atLm (coreOf 0)) = some 0 := by decide +kernel

/-- A slot in user mode, and in supervisor mode, that names the control window: g1 THR_PARKED of slot 0, g2 its TVEC. -/
def atCtl : State := at0 (segSlot [0x30#64, 0x420#64])
def atCtlSup : State := at0 { segSlot [0x30#64, 0x420#64] with mode := .supervisor }

theorem witness_ControlWindowAccesses :
    (reads atCtl [1] (some 3) = some [0x30#64] ∧ reads atCtl [1, 2] none = some [0x30#64, 0x420#64] ∧ reads atCtl [2] (some 3) = some [0x420#64]
      ∧ reads atCtl [2, 1] none = some [0x420#64, 0x30#64] ∧ reads atCtlSup [2] (some 3) = some [0x420#64]) ∧
    (∀ need ∈ [needR, needW],
      (∀ n ∈ [1, 2, 4, 8], okAddr (segAddr (seen atCtl) 0 3 0x30#64 n need) = lmOk 0x22000000030) ∧
      okAddr (segAddr (seen atCtl) 0 3 0x420#64 8 need) = lmOk 0x22000000420 ∧
      okAddr (segAddr (seen atCtlSup) 0 3 0x420#64 8 need) = lmOk 0x22000000420) ∧
    (∀ pa ∈ [0x22000000030, 0x22000000420], attracts (seen atCtl) 0 3 pa = false ∧ attracts (seen atCtlSup) 0 3 pa = false ∧
      ownLm (seen atCtl) (coreOf 0) pa = .other ∧ ownLm (seen atCtlSup) (coreOf 0) pa = .other ∧ isCtl atCtl pa = true ∧ isCtl atCtlSup pa = true) ∧
    placeOf atCtl 0x22000000030 = .ctl 0 0x006 ∧ placeOf atCtlSup 0x22000000420 = .ctl 0 0x084 ∧
    ctlPriv atCtl 0x22000000030 = false ∧ ctlPriv atCtl 0x22000000420 = true ∧ (slotAt atCtl 0).mode = .user ∧ (slotAt atCtlSup 0).mode ≠ .user ∧
    (slotAt atCtl 0).barEHolds = false ∧ freeTag (coreAt atCtl (coreOf 0)) = some 0 ∧ freeJ (coreAt atCtl (coreOf 0)) = some 0 ∧
    (slotAt atCtl 0).inStream 3 = none := by decide +kernel

theorem witness_MemoryFrame :
    (slot0 (exec (.ld64 3 1 false 1 0) atLm)).reg 3 = 0x8122334455667788#64 ∧ (slot0 (exec (.ldI8 3 1 false 1 7) atLm)).reg 3 = 0xFFFFFFFFFFFFFF81#64 ∧
    memByte (after (exec (.st16 2 1 false 1 0) atLm)) (lmKey 0 0x7FFF8) = 0x10#8 ∧
    memByte (after (exec (.st16 2 1 false 1 0) atLm)) (lmKey 0 0x7FFF9) = 0x32#8 ∧
    memByte (after (exec (.st16 2 1 false 1 0) atLm)) (lmKey 0 0x7FFFA) = 0x66#8 ∧
    (after (exec (.st16 2 1 false 2 0) atLm)).mem = atLm.mem ∧ ownLm (seen atLm) (coreOf 0) 0x200000FFFF8 = .other ∧
    partialBad (setBad atLm (lmKey 0 0x7FFF8) 0x17) (lmKey 0 0x7FFF8) 2 = true ∧ (slot0 (exec (.add 3 1 1 false) atLm)).reg 3 = 0xFFFF0#64 := by decide +kernel

/-- A read-only cache that holds the line of byte 0 of core 1's LM, and a slot that reads it; g1 = 56 names its last dword, g2 = 64 the next line. -/
def atRoc : State :=
  modCore (at0 (segSlot [56#64, 64#64, 0#64])) 0 fun c => { c with roc := SMap.set (fun _ => none) c.roc (0x20000080000 / 64) (some (List.replicate 64 7#8)) }

theorem witness_ReadOnlyCacheAndJournal :
    reads atRoc [1] (some 3) = some [56#64] ∧ reads atRoc [2] (some 3) = some [64#64] ∧ reads atRoc [2] none = some [64#64] ∧
    okAddr (segAddr (seen atRoc) 0 2 56#64 8 needR) = lmOk 0x20000080038 ∧ okAddr (segAddr (seen atRoc) 0 2 64#64 8 needR) = lmOk 0x20000080040 ∧
    attracts (seen atRoc) 0 2 0x20000080038 = false ∧ attracts (seen atRoc) 0 2 0x20000080040 = false ∧
    roLine atRoc (coreOf 0) 0x20000080038 = some (0x20000080000 / 64) ∧ roLine atRoc (coreOf 0) 0x20000080040 = some (0x20000080040 / 64) ∧
    SMap.get (fun _ => none) (coreAt atRoc 0).roc (0x20000080000 / 64) = some (List.replicate 64 7#8) ∧
    SMap.get (fun _ => none) (coreAt atRoc 0).roc (0x20000080040 / 64) = none ∧
    (startRoFill (seen atRoc) 0 0x20000080040 (Acc.plain 0 0x20000080040) [(0, 3, 0)]).isSome = true ∧
    (startRoFill (seen atRoc) 0 0x20000080040 (Acc.plain 0 0x20000080040) []).isSome = true ∧
    roLine atLm (coreOf 0) 0x2000007FFF8 = none ∧ ownLm (seen atLm) (coreOf 0) 0x2000007FFF8 = .own 0x7FFF8 ∧
    reads atRoc [1, 2] none = some [56#64, 64#64] ∧ reads atRoc [] (some 3) = some [] ∧ slotJ (coreAt atRoc 0) 0 = [] ∧
    slotJ (coreAt (after (exec (.st64 2 1 false 2 0) atLm)) 0) 0 ≠ [] := by decide +kernel

/-- A slot that names dword 8 of its own LM (g1) and of core 1's (g2), with a value in g3; the own word is full or empty. -/
def atFe (full : Bool) : State := setFe (at0 (segSlot [ptr 1 8, ptr 2 8, 5#64, 8#64])) 0 8 full

theorem witness_FullEmptyForms_own :
    (∀ f ∈ [true, false], feAt (atFe f) (coreOf 0) 8 = f ∧ badAt (atFe f) (lmKey (coreOf 0) 8) = 0 ∧
      reads (atFe f) [4] (some 5) = some [8#64] ∧ reads (atFe f) [1] (some 5) = some [ptr 1 8] ∧ reads (atFe f) [1] none = some [ptr 1 8] ∧
      reads (atFe f) [4, 3] none = some [8#64, 5#64] ∧ (slotAt (atFe f) 0).destWaits 3 = false ∧ (slotAt (atFe f) 0).barEHolds = false) ∧
    okAddr (segAddr (seen (atFe true)) 0 1 8#64 8 needRF) = lmOk 0x20000000008 ∧ okAddr (segAddr (seen (atFe true)) 0 1 8#64 8 needWF) = lmOk 0x20000000008 ∧
    okAddr (ptrAddr (seen (atFe true)) 0 (ptr 1 8) 8 needRF) = lmOk 0x20000000008 ∧ okAddr (ptrAddr (seen (atFe true)) 0 (ptr 1 8) 8 needWF) = lmOk 0x20000000008 ∧
    attracts (seen (atFe true)) 0 1 0x20000000008 = false ∧ ownLm (seen (atFe true)) (coreOf 0) 0x20000000008 = .own 8 := by decide +kernel

theorem witness_FullEmptyForms :
    (okAddr (segAddr (seen (atFe true)) 0 2 8#64 8 needRF) = lmOk 0x20000080008 ∧ okAddr (ptrAddr (seen (atFe true)) 0 (ptr 2 8) 8 needWF) = lmOk 0x20000080008 ∧
      okAddr (segAddr (seen (atFe true)) 0 2 8#64 8 needWF) = lmOk 0x20000080008 ∧ okAddr (ptrAddr (seen (atFe true)) 0 (ptr 2 8) 8 needRF) = lmOk 0x20000080008 ∧
      attracts (seen (atFe true)) 0 2 0x20000080008 = false ∧ ownLm (seen (atFe true)) (coreOf 0) 0x20000080008 = .other ∧
      isLmWord (atFe true) 0x20000080008 = true ∧ freeTag (coreAt (atFe true) (coreOf 0)) = some 0 ∧ freeJ (coreAt (atFe true) (coreOf 0)) = some 0 ∧
      slotSyncs (coreAt (atFe true) (coreOf 0)) 0 < 4 ∧ reads (atFe true) [2] (some 5) = some [ptr 2 8] ∧ reads (atFe true) [2] none = some [ptr 2 8]) := by
  decide +kernel

theorem witness_AtomicsAndCompareAndSwap :
    reads (atFe true) [1, 3] (some 5) = some [ptr 1 8, 5#64] ∧ reads (atFe true) [2, 3] (some 5) = some [ptr 2 8, 5#64] ∧
    reads (atFe true) [1, 3, 5] (some 5) = some [ptr 1 8, 5#64, 0#64] ∧ reads (atFe true) [1, 3, 4] (some 4) = some [ptr 1 8, 5#64, 8#64] ∧
    reads (atFe true) [2, 3, 4] (some 4) = some [ptr 2 8, 5#64, 8#64] ∧
    (∀ n ∈ [4, 8], okAddr (ptrAddr (seen (atFe true)) 0 (ptr 1 8) n needRW) = lmOk 0x20000000008 ∧
      okAddr (ptrAddr (seen (atFe true)) 0 (ptr 2 8) n needRW) = lmOk 0x20000080008 ∧ firstBad (atFe true) (lmKey (coreOf 0) 8) n = none ∧
      oldWord n (atFe true) 8 = (0#64 : Word).setWidth (8 * n) ∧ oldWord n (atFe true) 8 ≠ (8#64 : Word).setWidth (8 * n)) ∧
    attracts (seen (atFe true)) 0 0 0x20000000008 = false ∧ attracts (seen (atFe true)) 0 2 0x20000080008 = false ∧
    ownLm (seen (atFe true)) (coreOf 0) 0x20000000008 = .own 8 ∧ ownLm (seen (atFe true)) (coreOf 0) 0x20000080008 = .other ∧
    isCtl (atFe true) 0x20000080008 = false ∧ isHost (atFe true) 0x20000080008 = false ∧ (slotAt (atFe true) 0).inStream 5 = none := by decide +kernel

theorem witness_Branches :
    reads (at0 (slotWith [5#64, 5#64, 0xFFFFFFFFFFFFFFFF#64])) [1, 2] none = some [5#64, 5#64] ∧
    reads (at0 (slotWith [5#64, 5#64, 0xFFFFFFFFFFFFFFFF#64])) [3, 2] none = some [0xFFFFFFFFFFFFFFFF#64, 5#64] ∧
    reads (at0 (slotWith [5#64, 5#64, 0xFFFFFFFFFFFFFFFF#64])) [3] none = some [0xFFFFFFFFFFFFFFFF#64] := by decide +kernel

theorem witness_FullTestJumpsAndLoop :
    (slotAt (at0 (slotWith [])) 0).isFull 31 = true ∧ (slotAt (at0 mixed) 0).isFull 2 = false ∧
    reads (at0 (slotWith [0x100#64, 0x102#64, 1#64])) [] (some 31) = some [] ∧
    reads (at0 (slotWith [0x100#64, 0x102#64, 1#64])) [1] (some 31) = some [0x100#64] ∧
    (0x100#64 + (0x3FFC#14).signExtend 64).toNat % 4 = 0 ∧ (0x102#64 + (0x3FFC#14).signExtend 64).toNat % 4 ≠ 0 ∧
    reads (at0 (slotWith [0x100#64, 0x102#64, 1#64])) [2] (some 31) = some [0x102#64] ∧
    reads (at0 (slotWith [0x100#64, 0x102#64, 1#64])) [3, 0] (some 3) = some [1#64, 0#64] ∧ 1#64 - 1#64 = 0#64 ∧
    reads (at0 (slotWith [0x100#64, 0x102#64, 1#64])) [1, 3] (some 1) = some [0x100#64, 1#64] ∧ 0x100#64 - 1#64 ≠ 1#64 := by decide +kernel

/-- Slot 0 of logical cores 0 and 1 of cluster 0, with gang states and arrivals; g1 = 64 describes a gang of two from logical core 0. -/
def pair (g0 g1 : Option Gang) (f1 : Option (Nat × Nat)) : State :=
  setSlot (at0 { slotWith [64#64] with gang := g0 }) 16 { slotWith [] with gang := g1, forming := f1, pc := 0x40#64 }

def attached : Gang := ⟨0, 2, true, false, false⟩
def detached (rejoin : Bool) : Gang := ⟨0, 2, false, false, rejoin⟩

theorem witness_Gangs :
    (reads (pair none none (some (0, 2))) [1] none = some [64#64] ∧ (slotAt (pair none none (some (0, 2))) 0).gang = none ∧
      gformOk (pair none none (some (0, 2))) 0 64#64 = true ∧
      (∀ m ∈ gangSlots (pair none none (some (0, 2))) 0 0 33, ∀ q ∈ ((slotAt (pair none none (some (0, 2))) m).forming).map Prod.snd, q = 2) ∧
      (∀ m ∈ gangSlots (pair none none (some (0, 2))) 0 0 2, m ≠ 0 → (slotAt (pair none none (some (0, 2))) m).forming = some (0, 2))) ∧
    (16 ∈ gangSlots (pair none none none) 0 0 2 ∧ (slotAt (pair none none none) 16).forming ≠ some (0, 2)) ∧
    (slotAt (pair (some attached) (some attached) none) 0).gang = some attached ∧
    (lcoreOf (pair (some attached) (some attached) none) (coreOf 0) = attached.lead ∧
      rejoinReady (pair (some attached) (some (detached true)) none) 0 attached = true ∧
      rejoinReady (pair (some attached) (some (detached false)) none) 0 attached = false) ∧
    (lcoreOf { pair (some attached) (some attached) none with cur := 16 } (coreOf 16) ≠ attached.lead ∧
      rejoinReady { pair (some attached) (some attached) none with cur := 16 } 16 attached = true ∧ (detached false).att = false) ∧
    (let s := pair (some attached) (some attached) none;
      gangSlot s 0 attached.lead = 0 ∧ (slotAt s 0).solo = false ∧ followers s 0 = [16] ∧ (∀ k ∈ [0, 16], (slotAt s k).st = .ready) ∧
      (∀ m ∈ gangSlots s 0 attached.lead attached.size, ofGang s attached.lead m = true) ∧
      (∃ w, encode .gleave = some w ∧ decodeWord w = .ok .gleave)) ∧
    (let s := modSlot (pair (some attached) (some attached) none) 0 fun x => { x with solo := true };
      (slotAt s 0).solo = true ∧ (slotAt s 16).gang = some attached) ∧
    (detached true).rejoin = true := by
  refine ⟨by decide +kernel, by decide +kernel, by decide +kernel, by decide +kernel, by decide +kernel, ?_, by decide +kernel, by decide +kernel⟩
  exact ⟨by decide +kernel, by decide +kernel, by decide +kernel, by decide +kernel, by decide +kernel, 1509949443#32, by decide +kernel, by decide +kernel⟩

/-- Slot 0 with its core pinned, the wake token, the deadline and semaphore 15 of its core as given. -/
def waiting (pin : Option Nat) (tok : Bool) (dl : Option Nat) (sem : Nat) : State :=
  { modCore (at0 { slotWith [0#64, 100#64] with tok := tok, deadline := dl }) 0 (fun c => (c.setCreg 0x19F (nw sem)) |> fun c => { c with pin := pin })
    with time := 160 }

theorem witness_PinsSemaphoresAndTime :
    (coreAt (waiting none false none 0) (coreOf 0)).pin = none ∧ (coreAt (waiting (some 0) false none 0) (coreOf 0)).pin = some 0 ∧
    ((coreAt (waiting (some 3) false none 0) (coreOf 0)).pin = some 3 ∧ (3 : Nat) ≠ 0) ∧
    (∀ c ∈ (slotAt (waiting (some 0) false none 0) 0).cmds, c.ve = false) ∧
    (semOf (waiting none false none 0) 15 = 0 ∧ semOf (waiting none false none 1) 15 = 1 ∧ semOf (waiting none false none 65534) 15 = 65534 ∧
      semOf (waiting none false none 65535) 15 = 65535) ∧
    reads (waiting none false none 0) [] (some 3) = some [] ∧ reads (waiting none false none 0) [1] (some 3) = some [0#64] ∧
    reads (waiting none false none 0) [2] (some 3) = some [100#64] ∧ reads (waiting none false none 0) [2] none = some [100#64] ∧
    tickOf (waiting none false none 0) = 100 ∧
    (slotAt (waiting none false (some 99) 0) 0).deadline.getD (100 + 100) ≤ ((waiting none false none 0).time - 1) * 5 / 8 ∧
    ((waiting none false none 0).time - 1) * 5 / 8 < (slotAt (waiting none false (some 100) 0) 0).deadline.getD (100 + 100) ∧
    (slotAt (waiting none true none 0) 0).tok = true ∧ (slotAt (waiting none false none 0) 0).tok = false ∧
    (let s := modSlot (waiting (some 0) false none 0) 0 fun x => { x with cmds := [⟨7, 0, true⟩] };
      (coreAt s (coreOf 0)).pin = some 0 ∧ (slotAt s 0).cmds = [⟨7, 0, true⟩]) := by decide +kernel

/-- Slot 0 with a ring descriptor at byte 64 of its own LM: N = 4 slots of 8 bytes, HEAD 1, TAIL 3 and a reserved field `x`. -/
def ringDesc (x : Byte) : State :=
  setBytes (at0 (segSlot [ptr 1 64, 0#64, 2#64, 3#64])) (lmKey 0 64)
    ([0, 1, 0, 0, 0, 0, 0, 0x20, 4, 0, 8, 0, x, 0, 0, 0, 1, 0, 0, 0, 3, 0, 0, 0] ++ List.replicate 8 0#8)

/-- The same with the ring bound. -/
def ringBound : State := setSlot (after (exec (.qbind 7 1) (ringDesc 0))) 0 (slotAt (ringDesc 0) 0)

theorem witness_Rings :
    (reads (ringDesc 0) [1] none = some [ptr 1 64] ∧ ptr 1 64 ≠ 0#64 ∧ (ringOf (ringDesc 0) 7).v = false ∧
      okAddr (ptrAddr (seen (ringDesc 0)) 0 (ptr 1 64) 32 needRW) = lmOk 0x20000000040 ∧
      ownLm (seen (ringDesc 0)) (coreOf 0) 0x20000000040 = .own 64 ∧
      (okBytes (lmRead (seen (ringDesc 0)) (coreOf 0) 64 32)).map (fun bs => bitF (dwordAt bs 1) 32 32) = some 0 ∧
      (okBytes (lmRead (seen (ringDesc 1)) (coreOf 0) 64 32)).map (fun bs => bitF (dwordAt bs 1) 32 32) = some 1) ∧
    ((ringOf ringBound 7).v = true ∧ (ringOf ringBound 7).n = 4 ∧ (ringOf ringBound 7).ssz = 8 ∧ filledOf (ringOf ringBound 7) = 2 ∧
      freeOf (ringOf ringBound 7) = 2 ∧ reads ringBound [1] none = some [ptr 1 64] ∧ reads ringBound [2] none = some [0#64] ∧
      reads ringBound [3] (some 3) = some [2#64] ∧ reads ringBound [4] (some 3) = some [3#64] ∧ reads ringBound [3] none = some [2#64] ∧
      reads ringBound [4] none = some [3#64] ∧ reads ringBound [] (some 3) = some []) ∧
    (match ownBytes (seen ringBound) (coreOf 0) ((ringOf ringBound 7).off + 16) 8 with | .ok bs => bs == [1, 0, 0, 0, 3, 0, 0, 0] | _ => false) = true := by
  decide +kernel

/-- Slot 0 with a store and a load to another core's LM on their way, and a VE command of its own core that has not ended. -/
def busy : State :=
  modSlot (setSlot (after (exec (.ld64 5 1 false 2 1) (setSlot (after (exec (.st64 2 1 false 2 0) (at0 (segSlot [0#64, 9#64])))) 0
    (segSlot [0#64, 9#64])))) 0 (segSlot [0#64, 9#64])) 0 fun x => { x with cmds := [⟨7, 0, true⟩] }

theorem witness_Fences :
    (loadsOut (at0 (segSlot [])) 0 4 = false ∧ storesOut (at0 (segSlot [])) 0 4 = false ∧ enginesOut (at0 (segSlot [])) 0 4 = false) ∧
    (loadsOut busy 0 1 = true ∧ storesOut busy 0 1 = true ∧ enginesOut busy 0 0 = true ∧ loadsOut busy 0 0 = false ∧ storesOut busy 0 0 = false) := by
  decide +kernel

/-- A table of 8 level records in tower 0, with record 3 as given. -/
def withRec (s : State) (ws : List Word) : State := setBytes (modTower s 0 fun w => w.setCreg 0x3D1 8#64) 96 (wordsLE ws)

/-- The dwords of a level record: PEND, CXL, DONE and KIND, and PART. -/
def levelRec (pend : Nat) (cxl done : Bool) (kind part : Nat) : List Word :=
  [nw (pend + (if cxl then 2 ^ 48 else 0) + (if done then 2 ^ 49 else 0) + kind * 2 ^ 50), 0x00000000FFFFFFFF#64, 0xFFFFFFFFFFFFFFFF#64, nw part]

/-- A launch record: units, and the GRAPH level. -/
def launchRec (units graph : Nat) : List Word :=
  [0x100#64, nw (units + 3 * 2 ^ 32), 0#64, 0#64, nw (0xFFFFFFFF * 2 ^ 32 + graph), 0x00000000FFFFFFFF#64, 0xFFFFFFFFFFFFFFFF#64, 0#64]

/-- A trip of slot 0's instruction that has its answer. -/
def trip (vals : List Word) : Trip := ⟨5, 0, vals, none⟩

/-- Slot 0 with a launch record at byte 64 of its own LM; g1 is the record's pointer, g2 the id 3 and g3 the id 9; `tr` holds the answers that
it has. -/
def launching (units graph : Nat) (lvl : List Word) (tr : Option Trip) : State :=
  setBytes (withRec (at0 { segSlot [ptr 1 64, 3#64, 9#64] with trip := tr }) lvl) (lmKey 0 64) (wordsLE (launchRec units graph))

def plainLevel : List Word := levelRec 0 false true 1 0

/-- Slot 0 in unit 0 of launch 3. -/
def inUnit (s : State) : State := modSlot s 0 fun x => { x with unit := some ⟨3, 0, 9, 9, 9, false, 0, 0⟩ }

/-- A launch without an argument block has eight zero arguments. -/
theorem launchArgs_none {s : State} {ws r : List Word} (h : val r 3 = 0#64) :
    ∀ e, launchArgs s ws r e = e s ws (List.replicate 8 0#64) := fun _ => by unfold launchArgs; rw [if_pos h]

/-- A launch without a placement table has none. -/
theorem launchPlace_none {s : State} {ws r : List Word} (h : val r 2 = 0#64) : ∀ b e, launchPlace s ws r b e = e s ws none := fun _ _ => by
  unfold launchPlace; rw [if_pos h]

/-- A placement table with too few entries is bad. -/
theorem launchPlace_short {s : State} {ws r : List Word} (h : val r 2 ≠ 0#64)
    (k : (if bitF (val r 7) 0 16 = 0 then 1 else bitF (val r 7) 0 16) * bitF (val r 7) 16 16 < bitF (val r 1) 0 32) :
    ∀ b e, launchPlace s ws r b e = b s := fun _ _ => by
  simp only [launchPlace, if_neg h, if_pos k]

/-- The only level above a launch is read from its answer. -/
theorem launchLevels_one {s : State} {v : Word} {id : Nat} (ws : List Word) :
    ∀ e, launchLevels s [id] (v :: ws) false e = e ws (lrCxl [v]) := fun _ => by
  simp [launchLevels, askAgent, answerWords]

/-- Slot 0 at a launch, with its record read and kept, and answers behind it. -/
def launchRead (units graph : Nat) (ws : List Word) : State := launching units graph plainLevel (some (trip (launchRec units graph ++ ws)))

theorem witness_WorkForms_launch_record :
    ∀ g ∈ [0xFFFFFFFF, 4], ∀ ws ∈ [[], [nw (2 ^ 48)], [nw (2 ^ 48), 0#64], [4#64]], let s := launchRead 1 g ws;
      reads s [1] (some 4) = some [ptr 1 64] ∧ (slotAt s 0).trip = some (trip (launchRec 1 g ++ ws)) ∧
      keptRead (seen s) (launchRec 1 g ++ ws) (ptr 1 64) 0 64 64 = some (ws, wordsLE (launchRec 1 g)) ∧
      dwords 8 (wordsLE (launchRec 1 g)) = launchRec 1 g ∧
      launchBad s (myTower s) (launchRec 1 g) = false ∧ launchBad s (myTower s) (launchRec 0 g) = true ∧
      launchAbove (launchRec 1 g) = (if g = 4 then [4] else []) := by decide +kernel

theorem witness_WorkForms_launch (s : State) :
    (∀ v, Answered (slotAt (launchRead 1 4 [v]) 0) (launchRec 1 4 ++ [v])) ∧
    ReadsBytes (seen (launchRead 1 4 [0#64])) (launchRec 1 4 ++ [0#64]) (ptr 1 64) 0 64 64 [0#64] (wordsLE (launchRec 1 4)) (seen (launchRead 1 4 [0#64])) ∧
    (∀ ws e, launchArgs s ws (launchRec 1 4) e = e s ws (List.replicate 8 0#64)) ∧
    (∀ ws b e, launchPlace s ws (launchRec 1 4) b e = e s ws none) ∧
    (∀ ws b e, launchPlace s ws ((launchRec 2 4).set 2 8#64) b e = b s) ∧
    (∀ ws v e, launchLevels s (launchAbove (launchRec 1 4)) (v :: ws) false e = e ws (lrCxl [v])) ∧
    (∀ ws e, launchLevels s (launchAbove (launchRec 1 0xFFFFFFFF)) ws false e = e ws false) ∧
    lrCxl [nw (2 ^ 48)] = true ∧ lrCxl [0#64] = false ∧ OnlyKept s s :=
  ⟨fun _ => ⟨_, rfl, rfl, rfl, rfl⟩, readsBytes_kept (by decide +kernel), fun _ => launchArgs_none (by decide), fun _ => launchPlace_none (by decide),
    fun _ => launchPlace_short (by decide) (by decide),
    fun ws _ => by rw [show launchAbove (launchRec 1 4) = [4] by decide +kernel]; exact launchLevels_one ws,
    fun _ _ => by rw [show launchAbove (launchRec 1 0xFFFFFFFF) = [] by decide +kernel]; rfl, by decide +kernel, by decide +kernel, .inl rfl⟩

/-- A launch whose thread has a store out waits before it reads. -/
theorem witness_WorkForms_launch_stores :
    journalEmpty busy 0 = false ∧ (slotAt busy 0).trip = none ∧ journalEmpty (launching 1 4 plainLevel none) 0 = true := by decide +kernel

theorem witness_WorkForms :
    ((slotAt (at0 (segSlot [])) 0).unit = none ∧ (slotAt (at0 (segSlot [])) 0).hnd = none) ∧
    ((slotAt (inUnit (at0 (segSlot []))) 0).unit = some ⟨3, 0, 9, 9, 9, false, 0, 0⟩ ∧ releaseHolds (inUnit (at0 (segSlot []))) 0 = false) ∧
    releaseHolds (inUnit busy) 0 = true ∧
    (reads (launching 1 3 plainLevel none) [2] (some 4) true = some [3#64] ∧ reads (launching 1 3 plainLevel none) [2] none = some [3#64] ∧
      reads (launching 1 3 plainLevel none) [3] (some 4) true = some [9#64] ∧ idOk (launching 1 3 plainLevel none) 0 3 = true ∧
      idOk (launching 1 3 plainLevel none) 0 7 = true ∧ idOk (launching 1 3 plainLevel none) 0 8 = false ∧
      idOk (launching 1 3 plainLevel none) 0 9 = false ∧ (slotAt (launching 1 3 plainLevel none) 0).barEHolds = false ∧
      freeTag (coreAt (launching 1 3 plainLevel none) (coreOf 0)) = some 0 ∧ slotSyncs (coreAt (launching 1 3 plainLevel none) (coreOf 0)) 0 < 4) ∧
    (releaseHolds (seen (launching 1 3 plainLevel none)) 0 = false ∧ (slotAt (launching 1 3 plainLevel none) 0).trip = none ∧
      (slotAt (launching 1 3 plainLevel (some (trip [0x18000000000000#64]))) 0).trip = some (trip [0x18000000000000#64]) ∧
      (0x18000000000000 : Nat) / 2 ^ 50 % 4 = 2 ∧ (0x18000000000000#64 : Word).getLsbD 49 = false) := by decide +kernel

/-- The machine with one message in flight. -/
def inFlight (s : State) (m : Msg) : State := { s with net := [m] }

def launchMsg (units : Nat) : LaunchMsg := ⟨launchRec units 0xFFFFFFFF, List.replicate 8 0#64, none, 0, 0⟩

/-- A launch on its way from slot 0 to the home of record 3. -/
def launchOnWay (lvl : List Word) : State :=
  inFlight (withRec State.reset lvl) ⟨.ni 0, .sc 0, 5, 0, 0, .launchReq (launchMsg 1) none⟩

/-- A dispenser of cluster 0 that holds one launch with unit 0 on logical core 0, and a waiting slot for it. -/
def dispensing : State :=
  modCluster State.reset 0 fun c => { c with dsp := SMap.set (fun _ => none) c.dsp 0 (some (toDispenser State.reset (launchMsg 1) 0)) }

theorem witness_LaunchEvents :
    ((∀ lvl ∈ [levelRec 0 false true 1 0, levelRec 1 true false 1 0, levelRec 1 false false 1 0],
        arrives (launchOnWay lvl) 0 = some ⟨.ni 0, .sc 0, 5, 0, 0, .launchReq (launchMsg 1) none⟩ ∧
        (recRead (dropMsg (launchOnWay lvl) 0) 0 3).2.1 = lvl) ∧
      agentTower (.sc 0) = 0 ∧ luLid (launchMsg 1) = 3 ∧ lrCxl (levelRec 1 true false 1 0) = true ∧
      (lrCxl (levelRec 1 false false 1 0) = false ∧ lrPend (levelRec 1 false false 1 0) ≠ 0 ∧ lrDone (levelRec 1 false false 1 0) = false) ∧
      (lrCxl (levelRec 0 false true 1 0) = false ∧ lrPend (levelRec 0 false true 1 0) = 0 ∧
        lrPred (levelRec 0 false true 1 0) + (luPred (launchMsg 1) : Int) ≤ 0)) ∧
    (arrives (inFlight State.reset ⟨.sc 0, .dispenser 0, 3, 0, 0, .distribute (launchMsg 1)⟩) 0
        = some ⟨.sc 0, .dispenser 0, 3, 0, 0, .distribute (launchMsg 1)⟩ ∧
      ((clusterAt State.reset 0).accept (toDispenser (dropMsg (inFlight State.reset ⟨.sc 0, .dispenser 0, 3, 0, 0, .distribute (launchMsg 1)⟩) 0)
        (launchMsg 1) 0)).isSome = true) ∧
    (let s := { modTower State.reset 0 (fun w => { w with dist := [⟨launchMsg 1, none, none, [0], 256, false⟩] }) with time := 256 };
      (towerAt s 0).dist[0]? = some ⟨launchMsg 1, none, none, [0], 256, false⟩ ∧ (256 : Nat) ≤ s.time) ∧
    arrives (inFlight State.reset ⟨.sc 0, .ni 0, 5, 0, 0, .launchReply 0⟩) 0 = some ⟨.sc 0, .ni 0, 5, 0, 0, .launchReply 0⟩ ∧
    ((clusterAt dispensing 0).hold = false ∧ dispensing.modul.hu = .idle ∧
      (pickPlace dispensing 0).map (fun p => (p.1, p.2.2.1, p.2.2.2)) = some (0, 0, 0)) ∧
    (arrives (inFlight (withRec State.reset (levelRec 2 false false 1 0)) ⟨.ni 0, .sc 0, 0, 0, 0, .unitDone 3 false 0#32⟩) 0
        = some ⟨.ni 0, .sc 0, 0, 0, 0, .unitDone 3 false 0#32⟩ ∧
      (recRead (dropMsg (inFlight (withRec State.reset (levelRec 2 false false 1 0)) ⟨.ni 0, .sc 0, 0, 0, 0, .unitDone 3 false 0#32⟩) 0) 0 3).2.1
        = levelRec 2 false false 1 0 ∧ lrDone (levelRec 2 false false 1 0) = false ∧ 1 < lrPend (levelRec 2 false false 1 0) ∧
      lrPend (levelRec 1 false false 1 0) = 1 ∧ lrDone (levelRec 1 false false 1 0) = false) := by decide +kernel

/-- The record of launch 3 with one predecessor left, the parent 4 and the successors 5 and 6, of kind 0. -/
def heldRec (pend : Nat) : List Word := [nw pend, 0x0000000100000004#64, 0x0000000600000005#64, 0#64]

/-- Tower 0 with launch 3 in its hold queue, and the end of its last predecessor on its way. -/
def lastPred : State :=
  modTower (inFlight (withRec State.reset (heldRec 0)) ⟨.sc 0, .sc 0, 0, 0, 0, .predDone 3⟩) 0 fun w => { w with holdq := [launchMsg 1] }

theorem witness_LaunchEvents_held :
    (let s := inFlight (withRec State.reset (heldRec 0)) ⟨.ni 0, .sc 0, 5, 0, 0, .launchReq (launchMsg 1) none⟩;
      arrives s 0 = some ⟨.ni 0, .sc 0, 5, 0, 0, .launchReq (launchMsg 1) none⟩ ∧ (recRead (dropMsg s 0) 0 3).2.1 = heldRec 0 ∧
      lrCxl (heldRec 0) = false ∧ lrPend (heldRec 0) = 0 ∧ 0 < lrPred (heldRec 0) + (luPred (launchMsg 1) : Int) ∧
      lrPred (heldRec 0) + (luPred (launchMsg 1) : Int) < 2 ^ 31 ∧ (towerAt (recRead (dropMsg s 0) 0 3).1 0).holdq.length < 64) ∧
    (arrives lastPred 0 = some ⟨.sc 0, .sc 0, 0, 0, 0, .predDone 3⟩ ∧ (recRead (dropMsg lastPred 0) 0 3).2.1 = heldRec 0 ∧ lrPred (heldRec 0) = 1 ∧
      (towerAt (recWrite (recRead (dropMsg lastPred 0) 0 3).1 0 3
        (setD (heldRec 0) 1 (((val (heldRec 0) 1).setWidth 32).setWidth 64))) 0).holdq.find? (fun l => decide (luLid l = 3)) = some (launchMsg 1)) ∧
    (let s := withRec State.reset (heldRec 0);
      (recRead s 0 3).2.1 = heldRec 0 ∧ lrKind (heldRec 0) = 0 ∧ lrParent (heldRec 0) = 4 ∧ 4 ≠ noId ∧
      6 < lvlSize (recWrite (recRead s 0 3).1 0 3 (setD (heldRec 0) 0 (val (heldRec 0) 0 ||| 1#64 <<< 49))) 0 ∧
      ((val (heldRec 0) 2).toNat % 2 ^ 32 = 5 ∧ (val (heldRec 0) 2).toNat / 2 ^ 32 = 6)) := by decide +kernel

/-- The dispenser of cluster 0 is the last from which launch 3 waits for an acceptance. -/
theorem witness_LaunchEvents_accepted :
    let d : Dist := ⟨launchMsg 1, some ⟨.ni 0, .sc 0, 5, 0, 0, .launchReq (launchMsg 1) none⟩, none, [0], 0, false⟩
    let s := modTower (inFlight State.reset ⟨.sc 0, .dispenser 0, 3, 0, 0, .distribute (launchMsg 1)⟩) 0 fun w => { w with dist := [d] };
    arrives s 0 = some ⟨.sc 0, .dispenser 0, 3, 0, 0, .distribute (launchMsg 1)⟩ ∧ (towerAt s (agentTower (.sc 0))).dist = [d] ∧
      d.cxl = false ∧ (∀ x ∈ d.todo, x = 0) ∧ d.reply.isSome = true ∧
      ((clusterAt s 0).accept (toDispenser (dropMsg s 0) (launchMsg 1) 0)).isSome = true := by decide +kernel

/-- A message about record 3, a phase record or a level as given, on its way to its home. -/
def levelOnWay (lvl : List Word) (b : Body) : State := inFlight (withRec State.reset lvl) ⟨.ni 0, .sc 0, 5, 0, 0, b⟩

/-- A phase with a wave due. -/
def waving : State := modTower (withRec State.reset (levelRec 0 false false 2 0)) 0 fun w => { w with waves := [⟨3, 0⟩] }

theorem witness_LevelEvents :
    (∀ r ∈ [(levelRec 0 false true 1 0, Body.levelWait .lvlwait 3 true 0), (levelRec 1 false false 2 2, .levelWait .phwait 3 true 0),
        (levelRec 1 false false 2 2, .phaseClose 3 true 0), (levelRec 1 false false 2 2, .cancelSet 3 true 0)],
      arrives (levelOnWay r.1 r.2) 0 = some ⟨.ni 0, .sc 0, 5, 0, 0, r.2⟩ ∧ (recRead (dropMsg (levelOnWay r.1 r.2) 0) 0 3).2 = (r.1, 0) ∧
      asidBad r.1 true 0 = false) ∧
    (lrDone (levelRec 0 false true 1 0) = true ∧ lrDone (levelRec 1 false false 2 2) = false ∧ lrKind (levelRec 1 false false 2 2) = 2 ∧
      1 < lrPart (levelRec 1 false false 2 2)) ∧
    bankWaiters (towerAt (withRec State.reset plainLevel) 0) (withRec State.reset plainLevel) 0 1 < 16 ∧
    arrives (inFlight State.reset ⟨.sc 0, .dispenser 1279, 5, 0, 0, .cancelDrop 3⟩) 0 = some ⟨.sc 0, .dispenser 1279, 5, 0, 0, .cancelDrop 3⟩ ∧
    arrives (inFlight State.reset ⟨.dispenser 1279, .ni 0, 5, 0, 0, .cancelAck⟩) 0 = some ⟨.dispenser 1279, .ni 0, 5, 0, 0, .cancelAck⟩ ∧
    (recRead { waving with touch := 1#4 } 0 3).1.touch.getLsbD (lrPh (recRead waving 0 3).2.1) = true ∧
    (recRead waving 0 3).1.touch.getLsbD (lrPh (recRead waving 0 3).2.1) = false ∧
    (lvlHome waving 0 3 = 0 ∧ (towerAt waving 0).waves.find? (fun w => decide (w.id = 3)) = some ⟨3, 0⟩ ∧ 0 ≤ waving.time ∧
      (∀ t ∈ rangeFrom 0 8, phaseCount (recRead waving 0 3).1 t 0 = 0) ∧
      phaseCount (inFlight waving ⟨.ni 0, .ni 1, 0, 0, 0, .storeAck⟩) 0 0 ≠ 0) := by decide +kernel

/-- Sixteen waiters of record 3 fill its bank. -/
theorem witness_LevelEvents_full :
    16 ≤ bankWaiters { Tower.reset with lvlw := List.replicate 16 ⟨3, ⟨.ni 0, .sc 0, 5, 0, 0, .storeAck⟩⟩ } State.reset 0 (lvlPa State.reset 0 3 / 64) := by
  simp [bankWaiters]

/-- Cluster 0 at a threshold of heat: CLEAR 60, HOLD 70, MIG 80, THROT 90 °C; a waiting slot stands ready in cluster 1. -/
def hot : State :=
  setSlot (modTower (inUnit (at0 (slotWith []))) 0 fun w => w.setCreg 0x3D3 (nw (60 + 70 * 2 ^ 8 + 80 * 2 ^ 16 + 90 * 2 ^ 24))) (34 * 16)
    { slotWith [] with st := .waiting }

theorem witness_RemapAndHeat :
    (let s := at0 { slotWith [33#64, 0#64, 34#64] with trip := some (trip [7#64]) };
      reads s [1, 2] (some 3) = some [33#64, 0#64] ∧ (slotAt s 0).trip = some (trip [7#64]) ∧ (33#64 : Word).toNat % 64 ≤ 33) ∧
    ((slotAt (at0 (slotWith [33#64, 0#64])) 0).trip = none ∧ reads (at0 (slotWith [33#64, 0#64])) [1, 2] (some 3) = some [33#64, 0#64] ∧
      (clusterAt (at0 (slotWith [33#64, 0#64])) 0).swap = none) ∧
    (let s := modSlot (modCluster State.reset 0 fun c => { c with swap := some (33, 0, 16, 5) }) 16 fun x => { x with trip := some (trip []) };
      (clusterAt s 0).swap = some (33, 0, 16, 5) ∧ (slotAt s 16).trip = some (trip []) ∧ (trip []).id = 5 ∧ coreQuiet s (coreIn 0 ((clusterAt s 0).phys 33)) = true ∧
      coreQuiet s (coreIn 0 ((clusterAt s 0).phys 0)) = true) ∧
    (thermAt hot 0 0 = 60 * 256 ∧ thermAt hot 0 8 = 70 * 256 ∧ thermAt hot 0 16 = 80 * 256 ∧ thermAt hot 0 24 = 90 * 256 ∧
      (clusterAt hot 0).thr = false ∧ (coreAt hot (coreIn 0 33)).evq.length < 16 ∧ (clusterAt hot 0).migAt ≤ hot.time ∧
      (slotAt hot 0).unit = some ⟨3, 0, 9, 9, 9, false, 0, 0⟩ ∧ mayMove (setTemp hot 0 (85 * 256)) 0 = true ∧
      coolSlot (setTemp hot 0 (85 * 256)) 0 (slotClass hot 0) (slotAt hot 0).asid = some (34 * 16)) ∧
    (let s := { modSlot State.reset 0 (fun x => { x with unit := some ⟨3, 0, 9, 9, 9, true, 0, 0⟩ }) with time := 3200000 };
      (slotAt s 0).unit = some ⟨3, 0, 9, 9, 9, true, 0, 0⟩ ∧ 0 + 2000000 ≤ tickOf s) := by decide +kernel

/-- A slot that sends: g1 names core 1's LM, g2 32 bytes at 64 with dictionary slot 1, g3 no LM, g4 dictionary slot 15, g5 its load block at 128, g6 = 16,
g7 and g8 pointers to its own and core 1's LM. -/
def sending (v : Bool) : State :=
  setBytes (modCore (at0 (segSlot [0x20000080000#64, nw (2 ^ 60 + 32 * 2 ^ 20 + 64), 0x9000000000#64, 15#64, 128#64, 16#64, ptr 1 8, ptr 2 8])) 0
    fun c => setDict c 1 ⟨v, 0x1234, [7#64]⟩) (lmKey 0 128) ([2] ++ List.replicate 7 0#8 ++ List.replicate 16 9#8)

/-- What a read of the own LM in the turn gives. -/
def okOwn : Except (Nat × Word) (List Byte) → Option (List Byte)
  | .ok bs => some bs
  | .error _ => none

theorem witness_MessageForms :
    (reads (sending true) [1, 2] none = some [0x20000080000#64, nw (2 ^ 60 + 32 * 2 ^ 20 + 64)] ∧
      (amDest (sending true) 0x20000080000#64).map Prod.fst = some (.ni 1) ∧ 64 + 32 ≤ segLimit ((slotAt (sending true) 0).segLo 1) ((slotAt (sending true) 0).segHi 1) ∧
      (coreAt (sending true) (coreOf 0)).ni.length < 2 ∧ okOwn (lmBytesAt (seen (sending true)) 64 32) = some (List.replicate 32 0#8) ∧
      (dictAt (coreAt (sending true) (coreOf 0)) 1).v = true ∧ (compress [7#64] (List.replicate 32 0#8)).isSome = true ∧
      (dictAt (coreAt (sending false) (coreOf 0)) 1).v = false) ∧
    (reads (sending true) [3, 2] none = some [0x9000000000#64, nw (2 ^ 60 + 32 * 2 ^ 20 + 64)] ∧ amDest (sending true) 0x9000000000#64 = none) ∧
    (reads (sending true) [4, 5] none = some [15#64, 128#64] ∧ okOwn (lmBytesAt (seen (sending true)) 128 8) = some [2, 0, 0, 0, 0, 0, 0, 0] ∧
      okOwn (lmBytesAt (seen (sending true)) 136 16) = some (List.replicate 16 9#8)) ∧
    (reads (sending true) [4] none = some [15#64] ∧ reads (sending true) [6] none = some [16#64]) ∧
    ((slotAt (sending true) 0).hnd = none ∧ (slotAt (at0 { slotWith [] with hnd := some 2 }) 0).hnd = some 2) := by decide +kernel

theorem witness_MessageForms_hop :
    (reads (sending true) [7] none = some [ptr 1 8] ∧ okAddr (ptrAddr (seen (sending true)) 0 (ptr 1 8) 1 {}) = lmOk 0x20000000008 ∧
      (slotAt (sending true) 0).mode = .user ∧ lmCore (sending true) 0x20000000008 = some (coreOf 0)) ∧
    (reads (sending true) [8] none = some [ptr 2 8] ∧ okAddr (ptrAddr (seen (sending true)) 0 (ptr 2 8) 1 {}) = lmOk 0x20000080008 ∧
      lmCore (sending true) 0x20000080008 = some 1 ∧ passReason (seen (sending true)) 0 = none ∧ (slotAt (sending true) 0).pend = 0#32 ∧
      slotPosts (sending true) 0 = false ∧ repliesOut (sending true) 0 = false ∧ barsHold (coreAt (sending true) (coreOf 0)) (slotAt (sending true) 0).barS = false ∧
      (slotAt (sending true) 0).barEHolds = false ∧ freeTag (coreAt (sending true) (coreOf 0)) = some 0) ∧
    (let s := at0 (segSlot [ptr 5 0]);
      reads s [1] none = some [ptr 5 0] ∧ okAddr (ptrAddr (seen s) 0 (ptr 5 0) 1 {}) = lmOk 0x21800000000 ∧ lmCore s 0x21800000000 = none) := by
  decide +kernel

/-- A message from core 0 to core 1's LM home on its way. -/
def toHome (b : Body) : State := inFlight State.reset ⟨.ni 0, .ni 1, 5, 0, 0, b⟩
def homeAcc : Acc := Acc.plain 0 0x20000080008

/-- A home's waiter table with `n` waiters for another word, and an empty word that is asked for. -/
def emptyWord (n : Nat) : State :=
  setFe (modCore (toHome (.syncReq .ldfe 0x20000080008 0#64 homeAcc)) 1 fun c => { c with waiters := List.replicate n ⟨16, none⟩ }) 1 8 false

theorem witness_RequestsAtHomes :
    (∀ b ∈ [Body.loadReq 0x20000080008 8 homeAcc, .postedStore 0x20000080008 [1, 2] none homeAcc, .atomicReq .add 0x20000080008 8 1#64 0#64 homeAcc,
        .syncReq .ldfe 0x20000080008 0#64 homeAcc], arrives (toHome b) 0 = some ⟨.ni 0, .ni 1, 5, 0, 0, b⟩) ∧
    (coreAt (modCore State.reset 0 fun c => { c with ni := [⟨.ni 0, .ni 1, 5, 0, 0, .storeAck⟩] }) 0).ni = ⟨.ni 0, .ni 1, 5, 0, 0, .storeAck⟩ :: [] ∧
    mustFill State.reset 0x20000080008 = false ∧ mustFill State.reset 0x8000 = true ∧
    arrives (inFlight State.reset ⟨.ni 0, .sc 512, 5, 0, 0, .loadReq 0x8000 8 (Acc.plain 0 0x8000)⟩) 0
      = some ⟨.ni 0, .sc 512, 5, 0, 0, .loadReq 0x8000 8 (Acc.plain 0 0x8000)⟩ ∧
    okBytes (homeRead State.reset 0x20000080008 8 homeAcc) = some (List.replicate 8 0#8) ∧
    (match homeRead (setBad State.reset (lmKey 1 8) 0x17) 0x20000080008 8 homeAcc with | .poison _ c _ => c == 0x17 | _ => false) = true ∧
    (match homeRead (modCore State.reset 1 fun c => { c with lmOn := 0#4 }) 0x20000080008 8 homeAcc with | .deny _ d => d.cause == 0x16 | _ => false) = true ∧
    okBytes (homeWrite State.reset 0x20000080008 [1, 2] homeAcc none) = some [] ∧
    (match homeWrite (modCore State.reset 1 fun c => { c with lmOn := 0#4 }) 0x20000080008 [1, 2] homeAcc none with | .deny _ _ => true | _ => false) = true ∧
    okBytes (homeRmw State.reset .add 0x20000080008 8 1#64 0#64 homeAcc (fun _ => none)) = some (List.replicate 8 0#8) := by decide +kernel

theorem witness_RequestsAtHomes_sync :
    placeOf State.reset 0x20000080008 = .lm 0 1 8 ∧ (match lmAt State.reset 0 1 8 with | .here c o f => (c, o, f) == (1, 8, false) | _ => false) = true ∧
    (syncPerform State.reset 1 8 .ldfe 0#64 (.ni 0, 0)).isSome = true ∧ syncWrites .ldfe = false ∧
    (syncPerform (setFe State.reset 1 8 false) 1 8 .stef 7#64 (.ni 0, 0)).isSome = true ∧ syncWrites .stef = true ∧
    (∀ n ∈ [15, 16], arrives (emptyWord n) 0 = some ⟨.ni 0, .ni 1, 5, 0, 0, .syncReq .ldfe 0x20000080008 0#64 homeAcc⟩ ∧
      (syncPerform (dropMsg (emptyWord n) 0) 1 8 .ldfe 0#64 (.ni 0, 0)).isSome = false ∧ (coreAt (emptyWord n) 1).waiters.length = n) := by decide +kernel

/-- Core 0 with request 5 of slot 0 for g31, in backoff or not, or journal entry 5, and the answer on its way. -/
def answering (k : ReqKind) (tries : Nat) (due : Option Nat) (b : Body) : State :=
  modCore (inFlight (at0 { slotWith [] with pend := 0x80000000#32 }) ⟨.ni 1, .ni 0, 5, 0, 0, b⟩) 0 fun c =>
    setReq (setJ (c.setCreg 0x102 (nw (3 + 9 * 2 ^ 16))) 5 (some ⟨false, 0, 8, 0x20000080008, List.replicate 8 1#8, 4, none, 0, homeAcc⟩)) 5
      (some ⟨k, 0, 31, 4, true, none, ⟨.ni 0, .ni 1, 5, 0, 0, .syncReq .ldfe 0x20000080008 0#64 homeAcc⟩, tries, due, false, []⟩)

theorem witness_AnswersAtTheRequester :
    (∀ b ∈ [Body.loadReply (.value [1, 2, 3, 0x84]), .atomicReply (.poison 0x17 9), .syncReply (.value [1, 2, 3, 4]), .storeAck, .storeRefusal 3,
        .syncRetry, .withdrawn], arrives (answering .sync 2 none b) 0 = some ⟨.ni 1, .ni 0, 5, 0, 0, b⟩) ∧
    (∀ k ∈ [ReqKind.load, .atomic, .sync], ((reqAt (coreAt (answering k 1 none .storeAck) 0) 5).map fun r => (r.kind, r.reg, r.withdrawn)) = some (k, 31, false)) ∧
    ((jAt (coreAt (answering .load 1 none .storeAck) 0) 5).map fun j => j.refused) = some false ∧ (coreAt (answering .load 1 none .storeAck) 0).evq.length < 16 ∧
    (((coreAt (answering .sync 3 none .syncRetry) 0).creg 0x102).toNat % 2 ^ 8 = 3) ∧
    ((reqAt (coreAt (answering .sync 2 (some 0) .syncRetry) 0) 5).map fun r => r.due) = some (some 0) ∧
    (∀ n ∈ [1, 33], let s := modCore (inFlight State.reset ⟨.ni 0, .ni 1, 5, 0, 0, .withdraw .ldfe 0x20000080008⟩) n fun c =>
        { c with waiters := [⟨8, some ⟨.ni 0, .ni 1, 5, 0, 0, .storeAck⟩⟩] };
      arrives s 0 = some ⟨.ni 0, .ni 1, 5, 0, 0, .withdraw .ldfe 0x20000080008⟩ ∧ coreIn (clusterOf 1) n = n ∧
      (coreAt s n).waiters.find? (fun w => w.req.any fun q => decide (q.src = .ni 0) && decide (q.tag = 5) && decide (q.who = 0))
        = some ⟨8, some ⟨.ni 0, .ni 1, 5, 0, 0, .storeAck⟩⟩ ∧ ∀ p ∈ rangeFrom 0 n, (coreAt s (coreIn (clusterOf 1) p)).waiters = []) := by
  decide +kernel

/-- A fill request of core 0 to core 1's line 0, with the line's directory entry. -/
def filling (e : Option DirEnt) : State :=
  modCore (toHome (.fillReq 0x20000080008 homeAcc)) 1 fun c => setDir c 0 e

theorem witness_ReadOnlyLines :
    (∀ e ∈ [none, some ⟨[3, 4], false, [], [], false, false⟩, some ⟨[3, 4, 5], false, [], [], false, false⟩],
      arrives (filling e) 0 = some ⟨.ni 0, .ni 1, 5, 0, 0, .fillReq 0x20000080008 homeAcc⟩ ∧ dirAt (coreAt (filling e) 1) 0 = e ∧
      dirUsed (coreAt (filling e) 1) < 512 ∧ (coreAt (filling e) 1).ovfQ.length < 8 ∧
      okBytes (lmRead (dropMsg (filling e) 0) 1 0 64) = some (List.replicate 64 0#8)) ∧
    placeOf (filling none) 0x20000080008 = .lm 0 1 8 ∧
    (∀ b ∈ [Body.fillReply 0x8000002000 (.value (List.replicate 64 1#8)) true, .dirInvalidate 0],
      arrives (inFlight State.reset ⟨.ni 1, .ni 0, 5, 0, 0, b⟩) 0 = some ⟨.ni 1, .ni 0, 5, 0, 0, b⟩) ∧
    (let s := modCore (toHome (.invalidateAck 0)) 1 fun c => setDir c 0 (some ⟨[0], false, [⟨.ni 1, .ni 2, 3, 0, 0, .storeAck⟩], [0], false, false⟩);
      arrives s 0 = some ⟨.ni 0, .ni 1, 5, 0, 0, .invalidateAck 0⟩ ∧
      dirAt (coreAt s 1) 0 = some ⟨[0], false, [⟨.ni 1, .ni 2, 3, 0, 0, .storeAck⟩], [0], false, false⟩) := by decide +kernel

/-- An active message to core 1, whose ring has `n` slots, with a valid vector for type 2. -/
def dispatching (n : Nat) : State :=
  setBytes (modCore (toHome (.activeMsg 2 8 64 none (List.replicate 8 1#8) none)) 1 fun c => (c.setCreg 0x161 (nw n)).setCreg 0x162 0x800#64)
    (lmKey 1 0x810) [0, 1, 0, 0, 0, 0, 0, 0x80]

/-- A queued message and a waiting slot; a baton of slot 0's context on its way to core 1, whose hop queue holds `n` batons. -/
def queued : State := modCore State.reset 1 fun c => { c with amQ := [⟨0, 2, 1, 0, 0x100#64, 8, 77, 0⟩] }
def context : List Byte := ctxBytes (at0 (segSlot [1#64])) 0 4#64 ++ unitBytes none
def passing (n : Nat) : State :=
  modCore (toHome (.baton context 3)) 1 fun c => { c with hopQ := List.replicate n ⟨context, 3, ctxClass context⟩ }

/-- A compressed message to core 1, of the words 7, with dictionary slot 1 in force there under a tag or not. -/
def compressedOnWay (v : Bool) (tag : Nat) : State :=
  modCore { dispatching 1 with net := [⟨.ni 0, .ni 1, 5, 0, 0, .activeMsg 2 8 64 (some (1, 0x1234)) ((compress [7#64] (natLE 8 7)).getD []) none⟩] } 1
    fun c => setDict c 1 ⟨v, tag, [7#64]⟩

theorem witness_ActiveMessagesAndBatons_compressed :
    (∀ p ∈ [(true, 0x1234), (true, 0x1235), (false, 0x1234)], let s := compressedOnWay p.1 p.2;
      arrives s 0 = some ⟨.ni 0, .ni 1, 5, 0, 0, .activeMsg 2 8 64 (some (1, 0x1234)) ((compress [7#64] (natLE 8 7)).getD []) none⟩ ∧
      (coreAt s 1).divert = false ∧ dictAt (coreAt s 1) 1 = ⟨p.1, p.2, [7#64]⟩ ∧ coreRetired s 1 = false ∧ freeRing (coreAt s 1) = some 0 ∧
      vectorEntry (dropMsg s 0) 1 2 = 0x8000000000000100#64) ∧
    decompress [7#64] 8 ((compress [7#64] (natLE 8 7)).getD []) = some (natLE 8 7) ∧ decompress [7#64] 8 [] = none := by decide +kernel

theorem witness_ActiveMessagesAndBatons :
    ((∀ n ∈ [0, 1], arrives (dispatching n) 0 = some ⟨.ni 0, .ni 1, 5, 0, 0, .activeMsg 2 8 64 none (List.replicate 8 1#8) none⟩ ∧
        (coreAt (dispatching n) 1).divert = false ∧ coreRetired (dispatching n) 1 = false) ∧
      freeRing (coreAt (dispatching 1) 1) = some 0 ∧ freeRing (coreAt (dispatching 0) 1) = none ∧
      vectorEntry (dropMsg (dispatching 1) 0) 1 2 = 0x8000000000000100#64) ∧
    arrives (inFlight State.reset ⟨.ni 1, .ni 0, 0, 0, 0, .amRefusal 0x39 2 8 64 5⟩) 0 = some ⟨.ni 1, .ni 0, 0, 0, 0, .amRefusal 0x39 2 8 64 5⟩ ∧
    nextHandler queued 1 = some (⟨0, 2, 1, 0, 0x100#64, 8, 77, 0⟩, 16) ∧
    ((∀ n ∈ [0, 7, 8], arrives (passing n) 0 = some ⟨.ni 0, .ni 1, 5, 0, 0, .baton context 3⟩ ∧ (coreAt (passing n) 1).divert = false ∧
        ((coreAt (passing n) 1).hopQ.any fun b => decide (b.cls = ctxClass context)) = decide (n ≠ 0) ∧ (coreAt (passing n) 1).hopQ.length = n) ∧
      waitingSlot (dropMsg (passing 0) 0) 1 (ctxClass context) (some (ctxAsid context)) = some 16 ∧
      ((coreAt (passing 1) 1).hopQ.findSome? (fun b => (waitingSlot (passing 1) 1 b.cls (some (ctxAsid b.ctx))).map fun k => (b, k))).isSome = true) := by
  decide +kernel

/-- Slot 0 with a baton sent and refused `tries` times, under request 5, and an answer on its way. -/
def passed (tries : Nat) (due : Option Nat) (ok : Bool) : State :=
  modCore (inFlight (at0 { slotWith [] with baton := some ⟨0x20000080008, 4#64, tries, due.isNone, due⟩ }) ⟨.ni 1, .ni 0, 5, 0, 0, .batonAnswer ok⟩) 0 fun c =>
    setReq (c.setCreg 0x105 (nw (3 + 9 * 2 ^ 16))) 5 (some ⟨.trip, 0, 0, 0, false, none, ⟨.ni 0, .ni 1, 5, 0, 0, .baton context 3⟩, 1, none, false, []⟩)

theorem witness_ActiveMessagesAndBatons_answers :
    (∀ ok ∈ [true, false], ∀ n ∈ [1, 2], arrives (passed n none ok) 0 = some ⟨.ni 1, .ni 0, 5, 0, 0, .batonAnswer ok⟩ ∧
      (slotAt (passed n none ok) 0).baton = some ⟨0x20000080008, 4#64, n, true, none⟩ ∧ (slotAt (passed n none ok) 0).intrap = false ∧
      ((coreAt (passed n none ok) 0).creg 0x105).toNat % 2 ^ 8 = 3) ∧
    ((slotAt (passed 1 (some 0) false) 0).baton = some ⟨0x20000080008, 4#64, 1, false, some 0⟩ ∧
      ((slotReqs (coreAt (passed 1 (some 0) false) (coreOf 0)) 0).find? (fun r => match r.2.msg.body with | .baton _ _ => true | _ => false)).isSome = true) := by
  decide +kernel

/-- A core with a queued command of each engine, a journal entry and a message behind its NI. -/
def buffered : State :=
  modCore State.reset 0 fun c =>
    { (answering .load 1 none .storeAck |> fun s => coreAt s 0) with
      ni := [⟨.ni 0, .ni 1, 5, 0, 0, .loadReq 0x20000080008 8 homeAcc⟩], rings := c.rings,
      xq := [⟨1, ⟨0, 0, 0, [], []⟩, 0, [], 0#64, 0#64, 1, none, none, EngIo.reset⟩], vq := [⟨2, ⟨0, 0, 0, [], []⟩, .vadd, 0, 1, 0#64, 0#64, 0#64, 0#64, [], 0#64, 1, 0#64, none, EngIo.reset⟩] }

theorem witness_NetworkChecks :
    ((0, 0) ∉ State.reset.modul.hops ∧ (coreAt State.reset (lcoreKey State.reset 0 0)).evq.length < 16 ∧ hopPeers 0 0 = [1] ∧ hopPeers 15 4 ≠ []) ∧
    (let s := modSlot buffered 17 fun x => { x with strs := [(1, { Stream.reset with on := true, fifo := [⟨5#64, false⟩, ⟨6#64, false⟩] })] };
      17 = slotOf 1 (5 / 4 % 16) ∧ ((slotAt s 17).stream (5 % 4)).fifo = ⟨5#64, false⟩ :: [⟨6#64, false⟩] ∧ (coreAt s 1).evq.length < 16) ∧
    ((coreAt buffered 0).ni[0]? = some ⟨.ni 0, .ni 1, 5, 0, 0, .loadReq 0x20000080008 8 homeAcc⟩ ∧ (coreAt buffered 0).evq.length < 16) ∧
    ((coreAt buffered 0).xq[0]?.map fun x => x.run) = some none ∧ ((coreAt buffered 0).vq[0]?.map fun x => x.run) = some none ∧
    ((jAt (coreAt buffered 0) 5).map fun j => j.refused) = some false := by decide +kernel

/-! Engines. -/

/-- A slot with segments and further registers below 0xC0, in rising order. -/
def engSlot (rs : List Word) (regs : List (Nat × Word)) : Slot := { segSlot rs with regs := regs ++ (segSlot rs).regs }

/-- What a check answers, as data. -/
def isOkRes : Except (Nat × Word) Nat → Bool
  | .ok _ => true
  | .error _ => false
def okNat {ε : Type} : Except ε Nat → Option Nat
  | .ok n => some n
  | .error _ => none
def gotOk {α : Type} : EngGot α → Option α
  | .ok v _ => some v
  | _ => none
/-- The read, and the write, that an engine needs next. -/
def needRd {α : Type} : EngGot α → Option (List (Nat × Nat))
  | .need (.read cuts) => some cuts
  | _ => none
def needWr {α : Type} : EngGot α → Option (List (Nat × List Byte))
  | .need (.write cuts) => some cuts
  | _ => none
/-- The physical address that an engine's access is given. -/
def engPa (s : State) (eng : Agent) (la : Nat) (need : Need) : Option Nat :=
  match engPhysical s eng 0 0 la need with
  | .ok _ pa _ => some pa
  | _ => none

/-- A slot that issues a transfer between places of its own LM: g1 the destination, g2 the source; one element, format word `fmt`, codebook
and index list in the LM too; the queue holds `q` commands. -/
def xfer (fmt : Nat) (q : Nat := 0) : State :=
  modCore (at0 (engSlot [ptr 1 0x100, ptr 1 0x200] [(0x40, nw (1 + 2 ^ 20 + 2 ^ 40)), (0x43, nw fmt), (0x44, ptr 1 0x300), (0x46, ptr 1 0x400)])) 0
    fun c => { c with xq := List.replicate q ⟨1, ⟨0, 0, 0, [], []⟩, 0, [], 0#64, 0#64, 1, none, none, EngIo.reset⟩ }

/-- A gather queued, which reads its index list first. -/
def listing : State := after (exec (.xgather 1 2 false) (xfer 3))

/-- A copy of 8 bytes queued, and running with progress `r`. -/
def copying : State := after (exec (.xcopy 1 2 false) (xfer 3))
def copyAt (r : EngRun) : State := setXRun copying 0 r
def headOf (s : State) : Option XCmd := (coreAt s 0).xq.head?

theorem witness_TransferEngine_forms :
    (∀ p ∈ [(0, [1#5, 2#5]), (1, [1#5, 2#5]), (2, [1#5, 2#5]), (3, [1#5])], ∃ vs, reads (xfer 3) p.2 none = some vs ∧
      (let x := xfeOf (xfer 3) p.1 (val vs 0) (val vs 1); xfeCheck (xfer 3) x = none ∧ x.stv = false) ∧
      (coreAt (xfer 3) 0).xq.length = 0 ∧ (coreAt (xfer 3 2) 0).xq.length = 2 ∧ xfeCheck (xfer 3 2) (xfeOf (xfer 3 2) p.1 (val vs 0) (val vs 1)) = none ∧
      xfeCheck (xfer 0x3003) (xfeOf (xfer 0x3003) p.1 (val vs 0) (val vs 1)) = some (0x40, 3#64)) := by
  simp only [List.forall_mem_cons, List.not_mem_nil, false_imp_iff, implies_true, and_true]
  refine ⟨⟨[ptr 1 0x100, ptr 1 0x200], ?_⟩, ⟨[ptr 1 0x100, ptr 1 0x200], ?_⟩, ⟨[ptr 1 0x100, ptr 1 0x200], ?_⟩, ⟨[ptr 1 0x100], ?_⟩⟩ <;>
    decide +kernel

theorem witness_TransferEngine_records :
    (xfeOf (xfer 0x3003) 0 0#64 0#64).mode = 3 ∧ (xfeOf (xfer 0x18E0) 0 0#64 0#64).badField = none ∧ (xfeOf (xfer 0x18E0) 0 0#64 0#64).mode = 1 ∧
    (xfeOf (xfer 0x18E0) 0 0#64 0#64).cb = 0#64 ∧
    reads (xfer 3) [1, 2] none = some [ptr 1 0x100, ptr 1 0x200] ∧ namesHandle (coreAt (xfer 3) 0) ((ptr 1 0x200).toNat % 16) = false ∧
    ptrRows (issuerOf (xfer 3) 0) [flatUse (ptr 1 0x100) 192 needRD 64] = none ∧
    namesHandle (coreAt (modCore (xfer 3) 0 fun c => { c with xq := [⟨1, ⟨0, 0, 0, [], []⟩, 0, [0#64, 0#64, 0#64, nw (2 ^ 26)], 0#64, 0#64, 1, none, none, EngIo.reset⟩] }) 0)
      ((ptr 1 0x200).toNat % 16) = true := by decide +kernel

theorem witness_TransferEngine_runs :
    ((headOf copying).map fun x => (x.run.isNone, barsHold (coreAt copying 0) x.iss.bars, x.io == EngIo.reset,
      (gotOk (xfeInit (coreAt (srcbSet copying x 0) 0) x [])).map fun o => o.copies.isEmpty)) = some (true, false, true, some true) ∧
    ((headOf listing).map fun x => (needRd (xfeInit (coreAt (srcbSet listing x 0) 0) x []),
      engPa (srcbSet listing x 0) (.xfe 0) 0x20000000400 needR)) = some (some [(0x20000000400, 4)], some 0x20000000400) ∧
    ((headOf copying).map fun x => (x.form, x.mode, x.srec, x.stv)) = some (0, 0, false, false) ∧
    (let r := EngRun.fresh 0 1;
      r.ended = false ∧ r.out = false ∧ r.reads = [] ∧ r.writes = [] ∧ r.stop.isNone = true ∧ r.elem < r.total) ∧
    ((headOf copying).bind fun x => okNat (x.sideLa (x.srcPlace (EngRun.fresh 0 1) 0) x.es needRD 1)) = some 0x20000000200 ∧
    ((headOf copying).map fun x => lineCuts 3 0x20000000200 x.es) = some [(0x20000000200, 8)] ∧
    engPa copying (.xfe 0) 0x20000000200 needR = some 0x20000000200 := by decide +kernel

theorem witness_TransferEngine_ends :
    (let s := copyAt { EngRun.fresh 1 1 with ended := true };
      (headOf s).map fun x => (x.run.map fun r => (r.ended, r.fault.isNone), x.io == EngIo.reset, x.iss.at x.stamp % 8, x.wire,
        engPa s (.xfe 0) (x.iss.at x.stamp) needW)) = some (some (true, true), true, 0, false, some 0x20000000300) ∧
    (let s := setXIo (copyAt { EngRun.fresh 1 1 with ended := true }) 0 ⟨some (0x20000000300, 0x20000000300), [], true⟩;
      (headOf s).map fun x => (x.run.isSome, x.io == ⟨some (x.iss.at x.stamp, 0x20000000300), [], true⟩, x.stv)) = some (true, true, false)
    ∧ (let s := copyAt ((EngRun.fresh 0 1).fail 0x17 0x20000000200);
      (headOf s).map fun x => ((x.run.bind EngRun.fault).map EngFault.cause, x.io == EngIo.reset, x.iss.lives s))
      = some (some 0x17, true, true) ∧
    (let s := modSlot (copyAt ((EngRun.fresh 0 1).fail 0x17 0x20000000200)) 0 (fun y => { y with tid := 7 });
      (headOf s).map fun x => x.iss.lives s) = some false ∧
    (xfeOf (xfer 3) 3 0#64 0#64).form = 3 := by decide +kernel

/-- An engine access on its way from core 0's transfer or vector engine to core 1's LM, or an answer. -/
def engMsg (dst : Agent) (b : Body) : State := inFlight (modCore State.reset 1 fun c => setDict c 1 ⟨true, 0x1234, []⟩) ⟨.xfe 0, dst, 0, 0, 0, b⟩

/-- The bytes that all the pieces of a read give. -/
def readOk : Except (Nat × HRes) (State × List Byte) → Option (List Byte)
  | .ok (_, bs) => some bs
  | .error _ => none

/-- The first piece of a write that its home refuses, and the cause. -/
def putCause (s : State) (p : PutPiece) (more : List PutPiece) : Option (Nat × Nat) :=
  (putRefused s (.xfe 0) 0 s (p :: more)).map fun r => (r.1, r.2.2)

theorem witness_EngineMessages :
    (∀ b ∈ [Body.engRead 0x20000080008 16 [] ⟨.xfe 0, 1, 0, 1, 8⟩ homeAcc [], .engRead 0x20000080010 8 (List.replicate 8 0#8) ⟨.xfe 0, 1, 0, 1, 8⟩ homeAcc [],
        .engWrite 0x20000080008 [1, 2] ⟨.xfe 0, 1, 0, 1, 8⟩ homeAcc none [], .engWrite 0x20000080009 [2] ⟨.xfe 0, 1, 0, 1, 8⟩ homeAcc none []],
      arrives (engMsg (.ni 1) b) 0 = some ⟨.xfe 0, .ni 1, 0, 0, 0, b⟩) ∧
    (let s := engMsg (.ni 1) (.engRead 0x20000080008 16 [] ⟨.xfe 0, 1, 0, 1, 8⟩ homeAcc []);
      mustFill s 0x20000080008 = false ∧ nextPiece 0x20000080008 16 8 = 8 ∧ nextPiece 0x20000080010 8 8 = 8 ∧
      okBytes (homeReadRaw s 0x20000080008 8 homeAcc) = some (List.replicate 8 0#8) ∧
      (match homeReadRaw (setBad s (lmKey 1 8) 0x17) 0x20000080008 8 homeAcc with | .poison _ c _ => c == 0x17 | _ => false) = true ∧
      (match homeReadRaw (modCore s 1 fun c => { c with lmOn := 0#4 }) 0x20000080008 8 homeAcc with | .deny _ e => e.cause == 0x16 | _ => false)
        = true ∧
      readOk (readAll 0 s [(0x20000080008, 8, homeAcc), (0x20000080010, 8, homeAcc)] []) = some (List.replicate 16 0#8)) ∧
    (let b := Body.engRead 0x20000080008 8 [] ⟨.xfe 0, 1, 0, 2, 8⟩ homeAcc [(0x20000080010, 8, homeAcc)];
      arrives (engMsg (.ni 1) b) 0 = some ⟨.xfe 0, .ni 1, 0, 0, 0, b⟩ ∧ mustFill (engMsg (.ni 1) b) 0x20000080010 = false ∧
      okBytes (homeReadRaw (engMsg (.ni 1) b) 0x20000080008 8 homeAcc) = some (List.replicate 8 0#8)) ∧
    (let s := engMsg (.sc 512) (.engRead 0x8000 8 [] ⟨.xfe 0, 1, 0, 1, 8⟩ (Acc.plain 0 0x8000) []);
      arrives s 0 = some ⟨.xfe 0, .sc 512, 0, 0, 0, .engRead 0x8000 8 [] ⟨.xfe 0, 1, 0, 1, 8⟩ (Acc.plain 0 0x8000) []⟩ ∧ mustFill s 0x8000 = true) ∧
    (let s := engMsg (.ni 1) (.engWrite 0x20000080008 [1, 2] ⟨.xfe 0, 1, 0, 1, 8⟩ homeAcc none []);
      nextPut s 0x20000080008 2 1 = 1 ∧ nextPut s 0x20000080009 1 1 = 1 ∧
      wireOk s 0x20000080008 none = true ∧ wireOk s 0x20000080008 (some (1, 0x1234)) = true ∧ wireOk s 0x20000080008 (some (1, 0x1235)) = false ∧
      okBytes (homeWrite s 0x20000080008 [1] homeAcc none) = some [] ∧
      putCause s ⟨0x20000080008, [1, 2], homeAcc, none⟩ [] = none ∧
      putCause s ⟨0x20000080008, [1, 2], homeAcc, none⟩ [⟨0x20000080010, [3], homeAcc, none⟩] = none ∧
      putCause s ⟨0x20000080008, [1, 2], homeAcc, some (1, 0x1235)⟩ [] = some (0, 0x62) ∧
      putCause (modCore s 1 fun c => { c with lmOn := 0#4 }) ⟨0x20000080008, [1, 2], homeAcc, none⟩ [] = some (0, 0x16) ∧
      okBytes (homeWrite (dropMsg s 0) 0x20000080009 [2] homeAcc
        (some (replyTo ⟨.xfe 0, .ni 1, 0, 0, 0, .engWrite 0x20000080009 [2] ⟨.xfe 0, 1, 0, 1, 8⟩ homeAcc none []⟩ (.engWriteAck ⟨.xfe 0, 1, 0, 1, 8⟩ none))))
        = some []) ∧
    (let b := Body.engWrite 0x2000008000A [] ⟨.xfe 0, 1, 0, 2, 8⟩ homeAcc none [⟨0x20000080010, [3], homeAcc, none⟩];
      arrives (engMsg (.ni 1) b) 0 = some ⟨.xfe 0, .ni 1, 0, 0, 0, b⟩ ∧ lineWaits (engMsg (.ni 1) b) 0x20000080009 = false ∧
      lineWaits (modCore (engMsg (.ni 1) b) 1 fun c => setDir c 0 (some ⟨[0], false, [], [0], false, false⟩)) 0x20000080009 = true) ∧
    (∀ a ∈ [Agent.xfe 0, .ve 0], ∀ b ∈ [Body.engReadReply ⟨a, 1, 0, 1, 8⟩ (.value [1]), .engWriteAck ⟨a, 1, 0, 1, 8⟩ none],
      arrives (engMsg a b) 0 = some ⟨.xfe 0, a, 0, 0, 0, b⟩) := by decide +kernel

/-- A stream descriptor at its own LM's 0x100: `n` elements of 8 bytes from 0x200, written or read. -/
def streamDesc (wr : Bool) (n : Nat) : List Word := [ptr 1 0x200, nw 8, nw (2 ^ 32 + 2 ^ 48), nw (n + 3 * 2 ^ 48 + (if wr then 2 ^ 50 else 0))]
def streamer (ds : List Word) : State := setBytes (at0 (withKept (segSlot [ptr 1 0x100]) ds)) (lmKey 0 0x100) (wordsLE ds)
/-- The same slot in stream mode, with a FIFO. -/
def inStreamMode (wr : Bool) (fifo : List FifoEl) : State :=
  let s := streamer (streamDesc wr 2)
  modSlot s 0 fun x => x.setStream 0 ⟨true, issuerOf s 0, streamDesc wr 2, 0, fifo, 0, false, none, 0, EngIo.reset⟩

theorem witness_StreamTileAndRelayForms_strm :
    ∀ n ∈ [0, 2], let s := streamer (streamDesc false n);
      (reads s [1] none = some [ptr 1 0x100] ∧ bitOf (slotAt s 0).pend 24 = false ∧ ((slotAt s 0).stream 0).on = false ∧
        (slotAt s 0).trip = some ⟨1, 0, streamDesc false n, none⟩) ∧
      ReadsBytes (seen s) (streamDesc false n) (ptr 1 0x100) 0 32 16 [] (wordsLE (streamDesc false n)) (seen s) ∧
      sdOk (dwords 4 (wordsLE (streamDesc false n))) = decide (n = 2) := by
  intro n hn
  simp only [List.mem_cons, List.not_mem_nil, or_false] at hn
  obtain rfl | rfl := hn <;> exact ⟨by decide +kernel, readsBytes_kept (by decide +kernel), by decide +kernel⟩

theorem witness_StreamTileAndRelayForms_streams :
    (let s := inStreamMode false [];
      reads s [0] none = some [0#64] ∧ ((slotAt s 0).stream 0).on = true ∧ ((slotAt s 0).stream 0).fault = none ∧ ((slotAt s 0).stream 0).writes = false ∧
      ((slotAt s 0).stream 0).halted = false ∧ ((slotAt s 0).stream 0).io.out = none ∧
      ((slotAt s 0).stream 0).next < ((slotAt s 0).stream 0).count ∧ okNat (((slotAt s 0).stream 0).elemLa 0) = some 0x20000000200 ∧
      needRd (engBytes [] 0x20000000200 8) = some [(0x20000000200, 8)] ∧ engPa s (.strm 0) 0x20000000200 needR = some 0x20000000200 ∧
      gotOk (engBytes [.data (List.replicate 8 0#8)] 0x20000000200 8) = some (List.replicate 8 0#8)) ∧
    (let s := inStreamMode true [⟨5#64, false⟩];
      ((slotAt s 0).stream 0).writes = true ∧ ((slotAt s 0).stream 0).fifo = [⟨5#64, false⟩] ∧ ((slotAt s 0).stream 0).esz = 8 ∧
      okNat (((slotAt s 0).stream 0).elemLa 0) = some 0x20000000200 ∧
      needWr (engPut [] 0x20000000200 (wordLE 8 5#64)) = some [(0x20000000200, wordLE 8 5#64)] ∧
      engPa s (.strm 0) 0x20000000200 needW = some 0x20000000200 ∧ gotOk (engPut [.done 1] 0x20000000200 (wordLE 8 5#64)) = some ()) ∧
    ((slotAt (inStreamMode true [⟨0x1A#64 <<< 57, true⟩]) 0).stream 0).fifo = [⟨0x1A#64 <<< 57, true⟩] := by
  decide +kernel

/-- Slot 0 with g1 = `v` and what its form has asked. -/
def tiling (v : Nat) (tr : Option Trip) : State := at0 { segSlot [nw v] with trip := tr }

theorem witness_StreamTileAndRelayForms_tiles :
    (∀ tr ∈ [none, some (trip [1#64]), some (trip [0#64]), some { trip [] with trap := some (0x34, 3#64) }],
      let s := tiling (0x40 + 0x80 * 2 ^ 22) tr;
      reads s [1] none = some [nw (0x40 + 0x80 * 2 ^ 22)] ∧ (slotAt s 0).trip = tr ∧ freeTag (coreAt s (coreOf 0)) = some 0 ∧
      (slotAt s 0).barEHolds = false) ∧
    (let v := nw (0x40 + 0x80 * 2 ^ 22);
      v.toNat % 2 ^ 21 = 0x40 ∧ v.toNat / 2 ^ 22 % 2 ^ 22 = 0x80 ∧ v.getLsbD 0 = false ∧ v.toNat % 2 ^ 32 ≠ 0) ∧
    (nw 5).toNat % 2 ^ 21 % 64 ≠ 0 := by decide +kernel

/-- A request for tile 3 of cluster 0 on its way to the CSP, with the entry `t` there. -/
def tileMsg (form v : Nat) : Msg := ⟨.ni 0, .csp 0, 5, 0, 0, .tileReq form 3 (nw v)⟩
def tileOnWay (form v : Nat) (t : Tile) : State := inFlight (modCluster State.reset 0 fun c => setTile c 3 t) (tileMsg form v)

theorem witness_StreamTileAndRelayForms_requests :
    (∀ form ∈ [0, 1, 2, 3], ∀ st ∈ [0, 1, 2, 3], let s := tileOnWay form (0x40 + 0x80 * 2 ^ 22) ⟨true, 0, 64, 0, 0, st, false, 0, false⟩;
      arrives s 0 = some (tileMsg form (0x40 + 0x80 * 2 ^ 22)) ∧ (clusterAt s 0).wrote ≠ s.time + 1 ∧
      tileAt (clusterAt s 0) 3 = ⟨true, 0, 64, 0, 0, st, false, 0, false⟩) ∧
    (∀ form ∈ [0, 1, 2, 3], let s := tileOnWay form 0 ⟨false, 0, 64, 0, 0, 0, false, 0, false⟩;
      arrives s 0 = some (tileMsg form 0) ∧ (tileAt (clusterAt s 0) 3).v = false ∧ (nw 0).toNat % 2 ^ 32 = 0) ∧
    tileOverlap (clusterAt (tileOnWay 0 0 ⟨true, 0, 64, 0, 0, 0, false, 0, false⟩) 0) 3 0x40 0x80 = none ∧
    tileOverlap (clusterAt (modCluster State.reset 0 fun c => setTile c 7 ⟨true, 0x80, 64, 0, 0, 0, false, 0, false⟩) 0) 3 0x40 0x80 = some 7 := by
  decide +kernel

/-- A sum of two one-element vectors in the LM, its stamp at 0x300; g1 names its descriptor, g2 = 9. -/
def colDesc (op : Nat) : List Word := [nw (op + 2 * 256 + 2 ^ 32), ptr 1 0x300, 0#64, 0#64, ptr 1 0x200, ptr 1 0x280]
def collecting (op n : Nat) : State :=
  modTower (setBytes (at0 (withKept (segSlot [ptr 1 0x100, 9#64]) (colDesc op))) (lmKey 0 0x100) (wordsLE (colDesc op))) 0 fun w =>
    { w with cle := List.replicate n ⟨1, ⟨0, 0, 0, [], []⟩, 0, 1, 0, [], 1, false, none, EngIo.reset⟩ }
def collected : State := after (execColgo 1 2 false (collecting 2 0))
def collRun : State := after (execCleCollectiveStart 0 collected)

/-- The collective's own buffers: it reads both, writes both sums, and then its stamp. -/
def colAnswers : List EngAns := [.data [1#8, 0#8, 0#8, 0#8], .data [2#8, 0#8, 0#8, 0#8], .done 1, .done 1]

theorem witness_StreamTileAndRelayForms_colgo :
    (∀ d ∈ [2, 3], reads (collecting d 0) [1, 2] none = some [ptr 1 0x100, 9#64] ∧ (slotAt (collecting d 0) 0).trip = some ⟨1, 0, colDesc d, none⟩ ∧
      colN (dwords 4 (wordsLE (colDesc d))) = 2 ∧
      dwords (4 + 2) ((wordsLE (colDesc d)).take 32 ++ (wordsLE (colDesc d)).drop 32) = colDesc d ∧
      colBad (seen (collecting d 0)) (issuerOf (seen (collecting d 0)) 0) (colDesc d) = decide (d = 3) ∧
      ptrRows (issuerOf (seen (collecting d 0)) 0) (flatUse (val (colDesc d) 1) 8 needWD 8 :: (colBufs (colDesc d)).map fun q =>
        flatUse q (4 * colLen (colDesc d)) needRWD 4) = none) ∧
    (∀ n ∈ [0, 8], (towerAt (seen (collecting 2 n)) (slotTower 0)).cle.length = n) ∧
    ReadsBytes (seen (collecting 2 0)) (colDesc 2) (ptr 1 0x100) 0 32 8 ((colDesc 2).drop 4) ((wordsLE (colDesc 2)).take 32) (seen (collecting 2 0)) ∧
    ReadsBytes (seen (collecting 2 0)) ((colDesc 2).drop 4) (ptr 1 0x100) 32 (8 * 2) 8 [] ((wordsLE (colDesc 2)).drop 32) (seen (collecting 2 0)) :=
  ⟨by decide +kernel, by decide +kernel, readsBytes_kept (by decide +kernel), readsBytes_kept (by decide +kernel)⟩

theorem witness_StreamTileAndRelayForms_relay :
    ((towerAt collected 0).cle.map fun c => (c.running, barsHold (coreAt collected (coreOf c.iss.slot)) c.iss.bars)) = [(false, false)] ∧
    ((towerAt collRun 0).cle.map fun c => (c.running && c.fault.isNone && c.io.out.isNone && !c.io.told, needRd (colRun collRun c []))) =
      [(true, some [(0x20000000200, 4)])] ∧
    engPa collRun (.cle 0) 0x20000000200 needR = some 0x20000000200 ∧
    ((towerAt collRun 0).cle.map fun c => gotOk (colRun collRun c colAnswers)) = [some ()] ∧
    ((towerAt collRun 0).cle.map fun c => c.stamp % 8) = [0] := by decide +kernel

/-- A stamp word at the LM's 0x100, awaited by g1 for the sequence number g2 = 5. -/
def awaiting (w : Nat) : State := setBytes (at0 (segSlot [ptr 1 0x100, 5#64])) (lmKey 0 0x100) (wordLE 8 (nw w))

theorem witness_StreamTileAndRelayForms_stamps :
    ∀ w ∈ [2 ^ 62 + 5, 3 * 2 ^ 62 + 7, 2 ^ 63 + 0x17 * 2 ^ 55 + 5, 5], let s := awaiting w;
      reads s [1, 2] (some 6) = some [ptr 1 0x100, 5#64] ∧ okAddr (ptrAddr s 0 (ptr 1 0x100) 8 needR) = lmOk 0x20000000100 ∧
      (match ownLm s 0 0x20000000100 with | .own off => off == 0x100 | _ => false) = true ∧
      (match lmRead s 0 0x100 8 with | .ok u bs => (leWord bs == nw w) && decide (u = s) | _ => false) = true ∧
      (w % 2 ^ 32 + 2 ^ 32 - 5) % 2 ^ 32 < 2 ^ 31 := by decide +kernel

/-- A slot that issues a vector command over bytes of its own LM: e0 and e1 the sources, e2 the destination, format `fmt`, eight elements. -/
def vec (fmt : Nat) (q : Nat := 0) : State :=
  modCore (at0 (engSlot [8#64, 2#64, nw (2 ^ 24)] [(0x60, ptr 1 0x100), (0x62, ptr 1 0x200), (0x64, ptr 1 0x300), (0x70, 8#64), (0x71, nw fmt),
      (0x72, ptr 1 0x380)])) 0 fun c => { c with
      vq := List.replicate q ⟨1, ⟨0, 0, 0, [], []⟩, .vadd, 0, 1, 0#64, 0#64, 0#64, 0#64, [], 0#64, 1, 0#64, none, EngIo.reset⟩, t16 := some (List.replicate 16 0) }

/-- The formats of a row of R208. -/
def vecFmt (op : VOp) : Nat :=
  if op.isInt then 0x00 else if op.isRed then 0x88 else if op = .vbfp then 0xC8 else if op = .vbfpx then 0x8C
  else if op = .vcbq then 0xE8 else if op = .vcbx then 0x8E else 0x88

theorem witness_VectorEngine_forms :
    reads (vec 0) [1] none = some [8#64] ∧ reads (vec 0) [1, 2] none = some [8#64, 2#64] ∧ reads (vec 0) [0] none = some [0#64] ∧
    reads (vec 0) [0, 2] none = some [0#64, 2#64] ∧ reads (vec 0) [3] none = some [nw (2 ^ 24)] ∧
    (∀ op ∈ [VOp.vadd, .vsub, .vmul, .vfma, .vmax, .vmin, .viadd, .visub, .vimul, .viand, .vior, .vixor, .vdot],
      let x := veOf (vec (vecFmt op)) op (some 2) [0, 1] 8 0#64;
      veCheck (vec (vecFmt op)) x (nw (vecFmt op)) = none ∧ x.tiles = [] ∧ veCheck (vec (vecFmt op) 2) x (nw (vecFmt op)) = none ∧
      veCheck (vec (vecFmt op)) { x with n := 2 ^ 24 } (nw (vecFmt op)) = some (0x43, nw (2 ^ 24))) ∧
    (coreAt (vec 0 2) 0).vq.length = 2 ∧ (coreAt (vec 0 1) 0).vq.length = 1 := by decide +kernel

theorem witness_VectorEngine_oneSource :
    (∀ op ∈ [VOp.vabs, .vneg, .vconv, .vcbq, .vcbx, .vsum, .vmaxr, .vscale, .vishl, .vishr, .vsat],
      let x := veOf (vec (vecFmt op)) op (some 2) [0] 8 2#64;
      veCheck (vec (vecFmt op)) x (nw (vecFmt op)) = none ∧ x.tiles = []) ∧
    (∀ op ∈ [VOp.vbfp, .vbfpx], let x := veOf (vec (vecFmt op)) op (some 2) [0] 32 0#64; veCheck (vec (vecFmt op)) x (nw (vecFmt op)) = none ∧ x.tiles = []) ∧
    (let x := veOf (vec 0) .vcbld none [0] 8 2#64; veCheck (vec 0) x 0#64 = none ∧ x.tiles = []) := by decide +kernel

/-- An addition of eight f32 elements queued, and running with progress `r`; with a stamp where `st`. -/
def adding (st : Bool) : State := after (exec (.vadd 1 false 0 1 2) (vec (if st then 0x8088 else 0x88)))
def setVec (s : State) (f : VCmd → VCmd) : State := modCore s 0 fun c => { c with vq := c.vq.map f }
def vecHead (s : State) : Option VCmd := (coreAt s 0).vq.head?

theorem witness_VectorEngine_runs :
    ((vecHead (adding false)).map fun x => (x.run.isNone, barsHold (coreAt (adding false) 0) x.iss.bars, x.ste, x.tiles)) = some (true, false, false, []) := by decide +kernel

theorem witness_VectorEngine_ends :
    ((veOf (vec 0xE8) .vcbq (some 2) [0] 8 0#64).needs = some 16 ∧ tableOf (coreAt (adding false) 0) 256 = none ∧
      (veOf (vec 0xF8) .vcbq (some 2) [0] 8 0#64).needs = some 256) ∧
    (let s := setVec (adding false) fun x => { x with run := some { EngRun.fresh 0 8 with reads := [(0x20000000200, 4)], out := true } };
      ((vecHead s).bind VCmd.run).map (fun r => (r.out, r.reads.length)) = some (true, 1)) ∧
    (∀ op ∈ [VOp.vadd, .vcbld], let s := setVec (adding true) fun x => { x with op := op, run := some { EngRun.fresh 8 8 with ended := true } };
      (vecHead s).map (fun x => (x.run.map fun r => (r.ended, r.fault.isNone), x.io == EngIo.reset && x.ste,
        engPa s (.ve 0) (x.iss.at x.stamp) needW)) = some (some (true, true), true, some 0x20000000380)) := by decide +kernel

theorem witness_VectorEngine_faults :
    (∀ st ∈ [true, false], let s := setVec (adding st) fun x => { x with run := some ((EngRun.fresh 1 8).fail 0x17 0x20000000204) };
      (vecHead s).map (fun x => (x.ste, x.loads, (x.run.map EngRun.idx), x.io == EngIo.reset && x.iss.lives s))
        = some (st, false, some [], true)) := by decide +kernel
/-! The optical matrix unit. -/

/-- Cluster 0 with its site bound and in state `st`; slot 0 may own the OMU; tile 3 is declared, 128 bytes, ready. -/
def omu (own : Option Nat) (xs : List MxCmd) (st : Nat := 2) (rs : List Word := []) : State :=
  modSite (modCluster (at0 (segSlot rs)) 0 fun c =>
    setTile { c.setCreg 0x281 0x80000000#64 with own := own, mxq := xs } 3 ⟨true, 0, 128, 0, 0, 2, false, 0, false⟩) 0 fun x => { x with st := st }

/-- A matrix command of slot 0 with a form's code and word. -/
def mxCmd (fn w : Nat) (started : Bool := false) (rows : Nat := 0) : MxCmd :=
  ⟨9, issuerOf (omu none []) 0, fn, nw w, true, 0x20000001000, 5, 0xFFFFFFFF, 0#64, none, started, rows, [], 255, false, [], none, EngIo.reset⟩

/-- Words that are valid: a pass of one i8 row of tile 3, a drain of one f32 row into it, and a clear of one row. -/
def passWord : Nat := 3 + 2 ^ 12
def drainWord : Nat := 3 + 8 * 2 ^ 8 + 2 ^ 12
def clearWord : Nat := 2 ^ 12
def eightCmds : List MxCmd := List.replicate 8 (mxCmd 3 0)

theorem witness_MatrixForms_owner :
    ownsOmu (omu none []) 0 = false ∧ ownsOmu (omu (some 0) []) 0 = true ∧
    (∀ o ∈ [none, some 0, some 5], (myCluster (omu o [] 2 [1#64])).own = o ∧ reads (omu o [] 2 [1#64]) [1] none = some [1#64] ∧
      reads (omu o [] 2 [0#64]) [1] none = some [0#64]) ∧
    openCmds (myCluster (omu (some 0) [])).mxq = [] ∧ openCmds (myCluster (omu (some 0) [mxCmd 3 0])).mxq ≠ [] ∧
    (1#64).getLsbD 0 = true ∧ (0#64).getLsbD 0 = false ∧ (0x1000000#64 &&& 0xFFFFFFFF00FE7E80#64) = 0#64 ∧
    (0x80#64 &&& 0xFFFFFFFF00FE7E80#64) ≠ 0#64 := by decide +kernel

theorem witness_MatrixForms_loads :
    (let s := omu (some 0) [] 2 [ptr 1 0x1000, 5#64];
      reads s [1, 2] none = some [ptr 1 0x1000, 5#64] ∧ reads s [2] none = some [5#64] ∧ ptrRows (issuerOf s 0) (stampUse s) = none ∧
      ptrRows (issuerOf s 0) (flatUse (ptr 1 0x1000) 5376 needRD 64 :: stampUse s) = none ∧ (openCmds (myCluster s).mxq).length < 8) ∧
    (let s := omu (some 0) eightCmds 2 [ptr 1 0x1000, 5#64];
      reads s [1, 2] none = some [ptr 1 0x1000, 5#64] ∧ ptrRows (issuerOf s 0) (flatUse (ptr 1 0x1000) 5376 needRD 64 :: stampUse s) = none ∧
      ¬ (openCmds (myCluster s).mxq).length < 8) ∧
    (let s := omu none [] 2 [0#64, 5#64]; reads s [1, 2] none = some [0#64, 5#64] ∧ (openCmds (myCluster s).mxq).length < 8) := by decide +kernel

theorem witness_MatrixForms_words :
    (∀ w ∈ [passWord, drainWord, clearWord, 0x80], let s := omu (some 0) [] 2 [nw w, 5#64];
      reads s [1, 2] none = some [nw w, 5#64] ∧ passOk (nw w) = decide (w = passWord ∨ w = clearWord) ∧ drainOk (nw w) = decide (w = drainWord) ∧
      clearOk (nw w) = decide (w = clearWord)) ∧
    (∀ w ∈ [passWord, drainWord], (tileAt (myCluster (omu (some 0) [])) (wTile (nw w))).v = true ∧ wTile (nw w) = 3) ∧
    (tileAt (myCluster (modCluster (omu (some 0) []) 0 fun c => setTile c 3 ⟨false, 0, 128, 0, 0, 2, false, 0, false⟩)) 3).v = false ∧
    (wTrow (nw passWord) + wRows (nw passWord)) * rowBytes (wFmt (nw passWord)) ≤ (tileAt (myCluster (omu (some 0) [])) 3).size ∧
    (tileAt (myCluster (omu (some 0) [])) 3).readable = true ∧
    wRows (nw drainWord) * 32 * 4 ≤ (tileAt (myCluster (omu (some 0) [])) 3).size ∧ wFmt (nw drainWord) = 0x8 ∧
    ((myCluster (omu (some 0) [])).creg 0x2C4).getLsbD 63 = false ∧ wForce (nw drainWord) = false ∧ wBank (nw drainWord) = 0 ∧
    ((myCluster (modCluster (omu (some 0) []) 0 fun c => c.setCreg 0x2C4 (nw (2 ^ 63)))).creg 0x2C4).getLsbD 63 = true := by decide +kernel

/-- A bank without content, whose codes are all 0. -/
def emptyBank : PhaseBank := ⟨List.replicate 2080 0, 0, 0, 255, 0, []⟩

theorem witness_MatrixForms_codes :
    (∀ v ∈ [5, 8192], let s := omu (some 0) [] 2 [nw v, 9#64];
      reads s [1] (some 6) = some [nw v] ∧ reads s [1, 2] none = some [nw v, 9#64] ∧ phrOk (nw v) = decide (v = 5) ∧ openCmds (myCluster s).mxq = []) ∧
    nw 5 &&& 0xFFFFFC00FEFFFFE0#64 = 0#64 ∧ (nw 5).getLsbD 12 = false ∧
    ((myCluster (omu (some 0) [])).bank false).isNone = true ∧
    (myCluster (modCluster (omu (some 0) []) 0 fun c => c.setBank false (some emptyBank))).bank false = some emptyBank := by decide +kernel

/-- A descriptor of a decomposition at the LM's 0x100: an i8 block at 0x4000, its image to 0x1000, its stamp to 0x3000. -/
def decompDesc (stride : Nat) : List Word := [ptr 1 0x4000, ptr 1 0x1000, nw (stride * 2 ^ 32), ptr 1 0x3000]
def decomposing (stride q : Nat) : State :=
  modCluster (modSlot (omu none [] 2 [ptr 1 0x100, 5#64]) 0 fun x => withKept x (decompDesc stride)) 0 fun c =>
    { c with dce := List.replicate q ⟨9, ⟨0, 0, 0, [], []⟩, 0, 0, 32, none, 0, 0, 0, 5, false, none, EngIo.reset⟩ }

theorem witness_MatrixForms_decompose :
    (∀ n ∈ [31, 32], let s := decomposing n 0;
      reads s [1, 2] none = some [ptr 1 0x100, 5#64] ∧ (slotAt s 0).trip = some ⟨1, 0, decompDesc n, none⟩ ∧
      dwords 4 (wordsLE (decompDesc n)) = decompDesc n ∧ decompOk (decompDesc n) = decide (n = 32) ∧
      ptrRows (issuerOf (seen s) 0) (decompUses (decompDesc n)) = none) ∧
    (∀ q ∈ [0, 1, 2], (myCluster (decomposing 32 q)).dce.length = q) ∧
    (∀ n ∈ [31, 32], ReadsBytes (seen (decomposing n 0)) (decompDesc n) (ptr 1 0x100) 0 32 8 [] (wordsLE (decompDesc n)) (seen (decomposing n 0))) := by
  refine ⟨by decide +kernel, by decide +kernel, fun n hn => ?_⟩
  simp only [List.mem_cons, List.not_mem_nil, or_false] at hn
  obtain rfl | rfl := hn <;> exact readsBytes_kept (by decide +kernel)

theorem witness_MatrixCommandsRun_ready :
    ∀ p ∈ [(4, passWord), (2, 0), (3, 0), (7, 0), (5, drainWord), (6, clearWord), (15, 0)], let x := mxCmd p.1 p.2; let s := omu none [x];
      (clusterAt s 0).mxq[0]? = some x ∧ (∀ y ∈ (clusterAt s 0).mxq, y.ended = none) ∧ x.started = false ∧ x.fn = p.1 ∧
      startOk (clusterAt s 0) 0 x = true ∧ barsHold (coreAt s (coreOf x.iss.slot)) x.iss.bars = false := by decide +kernel

theorem witness_MatrixCommandsRun_pass :
    (let x := mxCmd 4 passWord; let s := omu none [x];
      x.rows < wRows x.word ∧ (clusterAt s 0).mxq.all (fun y => !(y.started && decide (y.fn = 4))) = true ∧ siteOf s 0 = some 0 ∧
      siteBusy s 0 0 = false ∧ mustYield s 0 0 = false ∧ (siteAt s 0).user.getD 0 = 0 ∧ (clusterAt s 0).activeBank = none ∧
      siteOf (modCluster s 0 fun c => c.setCreg 0x281 0#64) 0 = none) ∧
    ((clusterAt (modCluster (omu none []) 0 fun c => c.setBank c.act (some emptyBank)) 0).activeBank).isSome = true ∧
    (let x := mxCmd 4 passWord true 1; let s := omu none [x];
      (clusterAt s 0).mxq[0]? = some x ∧ (∀ y ∈ (clusterAt s 0).mxq, y.ended = none) ∧ x.started = true ∧ wRows x.word ≤ x.rows ∧
      x.cfg.toNat / 2 ^ 24 % 2 ^ 8 = 0) := by decide +kernel

theorem witness_MatrixCommandsRun_banks :
    (let x := mxCmd 2 0; let s := omu none [x];
      x.bank ≠ (clusterAt s 0).act ∧ x.io = EngIo.reset ∧ needRd (engBytes [] x.la 5376) = some [(0x20000001000, 64)] ∧
      engPa (modCmd (modCluster s 0 fun c => c.setBank x.bank none) 0 x.id fun y => { y with started := true }) (.drain 0) 0x20000001000 needR
        = some 0x20000001000) ∧
    (let x := { mxCmd 2 0 true with io := ⟨none, List.replicate 84 (.data (List.replicate 64 0#8)), false⟩ };
      gotOk (engBytes x.io.log x.la 5376) = some (List.replicate 5376 0#8) ∧ x.bank = true ∧
      (clusterAt (modCluster (omu none [x]) 0 fun c => { c with act := true }) 0).act = true ∧ (clusterAt (omu none [x]) 0).act = false) ∧
    (let x := mxCmd 5 drainWord true 0; let s := omu none [x];
      needWr (engPut [] (drainRow (clusterAt s 0) 0 x).1 (drainRow (clusterAt s 0) 0 x).2) = some [(0x21800000000, List.replicate 64 0#8)] ∧
      engPa s (.drain 0) 0x21800000000 needW = some 0x21800000000 ∧ wRows x.word ≤ x.rows + 1 ∧
      gotOk (engPut [.done 1, .done 1] (drainRow (clusterAt s 0) 0 x).1 (drainRow (clusterAt s 0) 0 x).2) = some ()) ∧
    (((0#8 :: List.replicate 5375 0#8).getD 0 0#8).toNat ≠ 1) ∧
    (let s := omu none [mxCmd 3 0];
      ((clusterAt s 0).bank (!(clusterAt s 0).act)).isNone = true ∧
      ((clusterAt (modCluster s 0 fun c => c.setBank (!c.act) (some emptyBank)) 0).bank (!(clusterAt s 0).act)).isSome = true) ∧
    (let s := modCluster (omu none []) 0 fun c => { c with settle := true };
      (clusterAt s 0).mxq = [] ∧ mayProbe s 0 = some 0 ∧ (clusterAt s 0).settle = true) ∧
    (let s := omu none [mxCmd 7 0]; mayProbe s 0 = some 0 ∧ (clusterAt s 0).settle = false) ∧
    (0 ≤ 1023 ∧ 1023 < 0 + 1024 ∧ 31 < 32) := by decide +kernel

/-- The checksum of a header whose other bytes are 0, up to the CRC field. -/
theorem witness_MatrixCommandsRun_checksum :
    let bs : List Byte := [1]
    (bs.getD 0 0#8).toNat = 1 ∧ leNat ((bs.drop 60).take 4) ≠ crc32 (bs.take 60 ++ (bs.drop 64).take 5312) := by decide +kernel

theorem witness_OpticalSites_calibration :
    (let s := omu none [mxCmd 15 0]; siteOf s 0 = some 0 ∧ siteRetired s 0 = false ∧ siteBusy s 0 0 = false ∧ (siteAt s 0).st ≠ 4 ∧
      (match s.modul.hu with | .idle => true | _ => false) = true) ∧
    (let x := mxCmd 15 0 true; let s := omu none [x] 1;
      (clusterAt s 0).mxq[0]? = some x ∧ (∀ y ∈ (clusterAt s 0).mxq, y.ended = none) ∧ x.started = true ∧ siteOf s 0 = some 0 ∧
      siteRetired s 0 = false ∧ (siteAt s 0).st = 1) ∧
    (let s := { omu none [] with time := 2 ^ 20 };
      siteOf s 0 = some 0 ∧ probesRun s 0 = true ∧ (clusterAt s 0).settle = false ∧ (siteAt s 0).user.getD 0 = 0 ∧
      (siteAt s 0).sym + 2 ^ (((siteAt s 0).creg 0x283).toNat / 2 ^ 16 % 2 ^ 5) ≤ 10 * s.time ∧ (siteAt s 0).pacerAt ≤ s.time) := by decide +kernel

theorem witness_OpticalSites_heat :
    (∀ st ∈ [1, 2, 3, 4], let s := omu none [] st;
      siteOf s 0 = some 0 ∧ siteUsers s 0 = [0] ∧ (clusterAt s 0).own = none ∧ (∀ x ∈ (clusterAt s 0).mxq, x.fn ≠ 15) ∧ (siteAt s 0).st = st) ∧
    ((siteAt (omu none []) 0).creg 0x285).toNat / 2 ^ 32 % 2 ^ 8 * 256 ≤ 0xFFFF % 65536 ∧
    0 % 65536 < ((siteAt (omu none []) 0).creg 0x285).toNat / 2 ^ 40 % 2 ^ 8 * 256 := by decide +kernel

theorem witness_OpticalSites_groups :
    ∀ o ∈ [none, some 0], let s := { modCluster (omu o []) 0 (fun c => { c.setCreg 0x2C7 (nw (2 ^ 63 + 5)) with gtimers := [⟨1, 0, 0, none, false⟩] }) with time := 1000 };
      ⟨1, 0, 0, none, false⟩ ∈ (clusterAt s 0).gtimers ∧
      grpV (clusterAt s 0) = true ∧ 0 + 0 + grpLim (clusterAt s 0) ≤ tickOf s ∧ (clusterAt s 0).own = o := by decide +kernel

/-- A decomposition at the head of cluster 0's queue, with an outcome or none. -/
def dceCmd (r : Option (Nat × List Byte × Nat × Nat)) : DceCmd := ⟨9, issuerOf (omu none []) 0, 0x20000004000, 0x20000001000, 32, none, 0, 0, 0x20000003000, 5, r.isSome, r, EngIo.reset⟩
def dceAt (r : Option (Nat × List Byte × Nat × Nat)) : State := modCluster (omu none []) 0 fun c => { c with dce := [dceCmd r] }

theorem witness_OpticalSites_decomposition :
    (clusterAt (dceAt none) 0).dce = dceCmd none :: [] ∧ (dceCmd none).running = false ∧ barsHold (coreAt (dceAt none) 0) (dceCmd none).iss.bars = false ∧
    needRd (readBlock { dceCmd none with running := true } 32 0 [] []) = some [(0x20000004000, 32)] ∧
    engPa (setDce (dceAt none) 0 { dceCmd none with running := true }) (.dce 0) 0x20000004000 needR = some 0x20000004000 ∧
    ((gotOk (readBlock { dceCmd none with running := true } 32 0 (List.replicate 32 (.data (List.replicate 32 0#8))) [])).map List.length) = some 1024 ∧
    (∀ c ∈ [0, 0x4D], (clusterAt (dceAt (some (c, [1#8], 7, 3))) 0).dce = dceCmd (some (c, [1#8], 7, 3)) :: []) ∧
    gotOk (engWriteCuts true (putPieces 0x20000001000 [1#8]) [.done 1]) = some () ∧
    (engWriteCuts true (putPieces 0x20000001000 [1#8]) [.fault 0x17 0x20000001000 0x20000001000] matches .fault 0x17 0x20000001000 0x20000001000 []) = true ∧
    (dceCmd none).stamp % 8 = 0 := by decide +kernel

/-- A pass that has read the piece at 0x40 of its tile. -/
def fedCmd : MxCmd := { mxCmd 4 passWord true with fed := [⟨0x40, [1#8], 0⟩] }

theorem witness_MatrixCommandsRun_pieces :
    (∀ x ∈ [mxCmd 4 passWord true, fedCmd], Machine.running (omu none [x]) 0 (fun y => decide (y.id = 9)) = some x) ∧
    okBytes (cspRead (omu none [mxCmd 4 passWord true]) 0 0x40 1) = some [0#8] ∧
    (cspRead (setBad (omu none [mxCmd 4 passWord true]) (cspKey 0 0x40) 0x19) 0 0x40 1 matches .poison _ 0x19 _) = true := by decide +kernel
/-! The transform thread and the system forms. -/

/-- A slot with both channels bound to 16 bytes of its own LM, at 0x100 and 0x200, at positions `p0` and `p1`. -/
def channelled (p0 p1 : Nat) (rs : List Word) : State :=
  let x := segSlot rs
  at0 { x with regs := [(0x010, nw (2 ^ 63 + 16 * 2 ^ 20 + 0x100)), (0x011, nw p0), (0x012, nw (2 ^ 63 + 16 * 2 ^ 20 + 0x200)), (0x013, nw p1)] ++ x.regs }

/-- What a check of the transform thread answers, as data. -/
def okVal {α : Type} : Except (Nat × Word) α → Option α
  | .ok v => some v
  | .error _ => none

def badCause {α : Type} : Except (Nat × Word) α → Option Nat
  | .ok _ => none
  | .error e => some e.1

theorem witness_TransformForms_bits :
    okVal (bitsAt (channelled 3 5 []) 0x100 3 12) = some 0 ∧
    (∀ n ∈ [0, 64, 65], reads (channelled 3 5 [nw n]) [1] (some 6) = some [nw n]) ∧
    (slotAt (channelled 3 5 []) 0).chV 0 = true ∧ (slotAt (channelled 3 5 []) 0).chV 1 = true ∧ (slotAt (at0 (segSlot [])) 0).chV 0 = false ∧
    reads (at0 (segSlot [8#64])) [1] (some 6) = some [8#64] ∧
    ((slotAt (channelled 3 5 []) 0).chPos 0 = 3 ∧ (slotAt (channelled 3 5 []) 0).chLen 0 = 16 ∧ 3 + 64 ≤ 8 * 16) ∧
    ((slotAt (channelled 100 5 []) 0).chPos 0 = 100 ∧ ¬ 100 + 64 ≤ 8 * 16) ∧
    okVal (bitsAt (channelled 3 5 [64#64]) 0x100 3 64) = some 0 := by decide +kernel

theorem witness_TransformForms_writes :
    reads (channelled 3 5 [7#64, 9#64]) [1, 2] none = some [7#64, 9#64] ∧
    (match putBits (channelled 3 5 [7#64, 9#64]) 0x200 5 9 7 with | .ok u => decide (slotAt u 0 = slotAt (channelled 3 5 [7#64, 9#64]) 0) | _ => false) = true ∧
    ((slotAt (channelled 3 5 []) 0).chOff 1 = 0x200 ∧ (slotAt (channelled 3 5 []) 0).chPos 1 = 5 ∧ 5 + 9 ≤ 8 * 16 ∧ 3 + 7 ≤ 8 * 16 ∧ ¬ 125 + 7 ≤ 8 * 16) ∧
    ((0#64).getLsbD 0 = false ∧ (1#64).getLsbD 0 = true ∧ reads (channelled 3 5 [1#64]) [1] (some 6) = some [1#64]) ∧
    (match putBits (channelled 3 5 [1#64]) 0x200 5 3 0 with | .ok u => decide (slotAt u 0 = slotAt (channelled 3 5 [1#64]) 0) | _ => false) = true := by
  decide +kernel

theorem witness_TransformForms_tables :
    badCause (ownPtr (channelled 3 5 [ptr 1 0x401, 4#64]) (ptr 1 0x401) 64 4 needR) = some 0x12 ∧
    (∀ n ∈ [16, 2 ^ 63 + 16], reads (at0 (segSlot [ptr 2 0x400, nw n])) [1, 2] none = some [ptr 2 0x400, nw n] ∧
      badCause (ownPtr (at0 (segSlot [])) (ptr 2 0x400) 16 1 (if n < 2 ^ 63 then needR else needW)) = some 0x10) ∧
    okVal (ownPtr (at0 (segSlot [])) (ptr 1 0x400) 64 4 needR) = some 0x400 ∧
    (∀ k ∈ [0, 4, 13], reads (channelled 3 5 [ptr 1 0x400, nw k]) [1, 2] (some 6) = some [ptr 1 0x400, nw k]) ∧
    (let s := channelled 3 5 [ptr 1 0x400, 4#64];
      okVal (ownPtr s (ptr 1 0x400) 64 4 needR) = some 0x400 ∧ okVal (bitsAt s 0x100 3 4) = some 0 ∧
      okVal (ownBytes s 0 (0x400 + 4 * 0) 4) = some [0, 0, 0, 0]) ∧
    okVal (ownBytes (setBytes (channelled 3 5 [ptr 1 0x400, 4#64]) (lmKey 0 0x400) [3#8]) 0 (0x400 + 4 * 0) 4) = some [3, 0, 0, 0] ∧
    (∀ v ∈ [0, 16, 2 ^ 63, 2 ^ 63 + 16], let s := at0 (segSlot [ptr 1 0x400, nw v]);
      reads s [1, 2] none = some [ptr 1 0x400, nw v] ∧ (v % 2 ^ 40 = 16 → okVal (ownPtr s (ptr 1 0x400) 16 1 (if v < 2 ^ 63 then needR else needW)) = some 0x400)) := by
  decide +kernel

/-- Core 0 with ring 2 valid, holding `n` of its slots. -/
def ringing (n : Nat) (rs : List Word) : State :=
  modCore (at0 (slotWith rs)) 0 fun c => setRing c 2 ⟨true, 0x800, 0#64, 0#64, 4, 16, 0, n⟩

theorem witness_TransformForms_rings :
    (∀ n ∈ [0, 1], let s := ringing n [4#64, 1#64];
      reads s [1, 2] (some 6) = some [4#64, 1#64] ∧ (∀ q < 8, (4#64).getLsbD q = true → (ringAt (coreAt s 0) q).v = true) ∧
      ringMask (coreAt s 0) 4 1 = 4 * n) ∧
    reads (ringing 0 [0#64, 1#64]) [1, 2] (some 6) = some [0#64, 1#64] := by
  decide +kernel

/-- A core whose breakpoints stop a slot. -/
def brkh (b : Nat) : State := modCore (at0 (slotWith [])) 0 fun c => c.setCreg 0x1C2 (nw b)

theorem witness_SystemForms :
    reads (at0 (slotWith [5#64])) [1] none = some [5#64] ∧
    ((coreAt (brkh 0) 0).creg 0x1C2).getLsbD 0 = false ∧ ((coreAt (brkh 1) 0).creg 0x1C2).getLsbD 0 = true ∧
    releaseHolds (brkh 0) 0 = false ∧ releaseHolds (modCore (brkh 0) 0 fun c => setJ c 5 (some ⟨false, 0, 8, 0, [], 1, none, 0, homeAcc⟩)) 0 = true ∧
    (∀ tr ∈ [none, some (trip [7#64])], let s := at0 { slotWith [5#64] with trip := tr };
      reads s [] (some 6) = some [] ∧ reads s [1] none = some [5#64] ∧ (slotAt s 0).trip = tr ∧ freeTag (coreAt s (coreOf 0)) = some 0 ∧
      (slotAt s 0).barEHolds = false) ∧
    ((0x081 : BitVec 12).toNat < 0x200 ∧ ∀ n ∈ [0x250, 0x300, 0x440], 0x200 ≤ (n : BitVec 12).toNat) ∧ regW1C 0x080 = 0#64 := by decide +kernel

theorem witness_SystemForms_segments :
    (let s := at0 (segSlot [8#64]);
      reads s [1] none = some [8#64] ∧ (slotAt s 0).barEHolds = false ∧ isCtl s 0x20000000020 = false ∧ isHost s 0x20000000020 = false) ∧
    (∀ need ∈ [needR, needW], let s := at0 (segSlot [16#64]);
      reads s [1] none = some [16#64] ∧
      okAddr (segAddr s 0 1 (16#64 + (1#11).signExtend 64 * BitVec.ofNat 64 16) 16 need) = lmOk 0x20000000020 ∧ attracts s 0 1 0x20000000020 = false ∧
      (match ownLm s 0 0x20000000020 with | .own off => off == 0x20 | _ => false) = true ∧ firstBad s (lmKey 0 0x20) 16 = none ∧
      partialBad s (lmKey 0 0x20) 16 = false) := by decide +kernel

theorem witness_SystemForms_debug :
    (∀ v ∈ [0, 3], let s := at0 (slotWith [1#64, nw v]);
      reads s [1, 2] (some 6) = some [1#64, nw v] ∧ dbgTarget s 1#64 = some (1, .control (2 ^ 24 + 1))) ∧
    reads (at0 (slotWith [33#64, 0#64])) [1, 2] (some 6) = some [33#64, 0#64] ∧ dbgTarget (at0 (slotWith [])) 33#64 = none ∧
    (∀ f ∈ [UnitForm.dbghalt, .dbgresume], let m : Msg := ⟨.ni 0, .control (2 ^ 24 + 1), 5, 0, 0, .unitReq f [1#64, 3#64]⟩;
      arrives (inFlight State.reset m) 0 = some m ∧ dbgTarget (dropMsg (inFlight State.reset m) 0) 1#64 = some (1, .control (2 ^ 24 + 1))) ∧
    Slot.reset.sws = false := by decide +kernel

/-- Slot 0 in state `st` as its turn comes, with `skip` empty turns due, its core's queue of events `q`. -/
def turning (st : SlotSt) (skip : Nat) (q : List (Nat × Word)) (cancel : Option Nat := none) : State :=
  modCore { at0 { slotWith [] with st := st, skip := skip, cancel := cancel } with turn := false, time := 16 } 0 fun c =>
    { c.setCreg 0x1C0 0#64 with evq := q }

theorem witness_SystemForms_turns :
    (∀ p ∈ [(SlotSt.ready, 0), (.ready, 3), (.waiting, 0)], ∀ q ∈ [[], [(0x39, 7#64)]], let s := turning p.1 p.2 q; let x := slotAt s 0;
      clusterCycle s (clusterOf (coreOf 0)) % 16 = slotNo 0 ∧ x.lastTurn ≠ clusterCycle s (clusterOf (coreOf 0)) + 1 ∧ coreRetired s (coreOf 0) = false ∧
      x.st ≠ .stopped ∧ x.sws = false ∧ x.baton = none ∧ x.cancel = none ∧ takesEvent s 0 = decide (q ≠ []) ∧ followsLeader s 0 = false ∧
      x.st = p.1 ∧ x.skip = p.2 ∧ (coreAt s (coreOf 0)).evq = q) ∧
    (turning .ready 0 []).modul.hu = .idle ∧ followers (turning .ready 3 []) 0 = [] ∧ (turning .ready 0 []).turnsTo ≤ (turning .ready 0 []).time ∧
    (∀ st ∈ [SlotSt.ready, .waiting], (slotAt (turning st 0 [] (some 3)) 0).cancel = some 3) ∧
    (slotAt (at0 { slotWith [] with deadline := some 0 }) 0).deadline = some 0 := by decide +kernel
/-! The shared cache, translation and migration. -/

/-- A slot that asks about range `v`, with what it has asked. -/
def ranging (v : Nat) (tr : Option Trip) : State := at0 { slotWith [nw v] with trip := tr }

theorem witness_SnapshotsAndMaintenance_forms :
    (∀ v ∈ [0, 15, 16], reads (ranging v none) [1] (some 6) = some [nw v]) ∧
    ((slotAt (ranging 5 none) 0).trip = none ∧ storesAndLoadsOut (ranging 5 none) 0 = false) ∧
    (slotAt (ranging 5 (some (trip [7#64]))) 0).trip = some (trip [7#64]) ∧
    (∀ tr ∈ [none, some (trip [0#64])], ∀ v ∈ [0x1000, 2 ^ 63 + 255], let s := at0 { slotWith [nw 0x8000, nw v] with trip := tr };
      reads s [1, 2] (some 6) = some [nw 0x8000, nw v] ∧ spanOf (seen s) (nw 0x8000) (nw v) = some (512, if v = 0x1000 then 64 else 4) ∧
      (slotAt s 0).trip = tr) ∧
    (let s := at0 (slotWith [nw 0x8000, nw (2 ^ 40 + 255)]);
      reads s [1, 2] (some 6) = some [nw 0x8000, nw (2 ^ 40 + 255)] ∧ spanOf (seen s) (nw 0x8000) (nw (2 ^ 40 + 255)) = none ∧
      (nw (2 ^ 40 + 255)).getLsbD 63 = false ∧ (nw (2 ^ 40 + 255)).toNat % 256 = 255) := by decide +kernel

/-- Range 5's anchor with its configuration, and a message from slot 0 on its way to it. -/
def anchored (cfg : Nat) (b : Body) : State :=
  modTower (inFlight State.reset ⟨.ni 0, .tower 2, 5, 0, 0, b⟩) 2 fun w => w.setCreg 0x365 (nw cfg)

theorem witness_SnapshotsAndMaintenance_anchor :
    (∀ op ∈ [SnapOp.snap, .accept, .reject], ∀ fwd ∈ [true, false],
      arrives (anchored 0 (.snapOp op 5 false 7 fwd)) 0 = some ⟨.ni 0, .tower 2, 5, 0, 0, .snapOp op 5 false 7 fwd⟩) ∧
    (∀ cfg ∈ [0, 2 ^ 31 + 7, 2 ^ 31 + 3 * 2 ^ 16 + 7, 2 ^ 31 + 4 * 2 ^ 16 + 7], (towerAt (anchored cfg (.snapOp .snap 5 true 7 false)) 2).creg (0x360 + 5) = nw cfg) ∧
    (towerAt (anchored 0 (.snapOp .snap 5 true 7 false)) 2).wrote ≠ (anchored 0 (.snapOp .snap 5 true 7 false)).time + 1 ∧
    ((nw 0).getLsbD 31 = false ∧ (nw (2 ^ 31 + 7)).getLsbD 31 = true ∧ (nw (2 ^ 31 + 7)).toNat % 2 ^ 12 = 7 ∧
      (nw (2 ^ 31 + 4 * 2 ^ 16 + 7)).toNat / 2 ^ 16 % 2 ^ 3 = 4 ∧ (nw (2 ^ 31 + 3 * 2 ^ 16 + 7)).toNat / 2 ^ 16 % 2 ^ 3 < 4 ∧
      (nw (2 ^ 31 + 7)).toNat / 2 ^ 16 % 2 ^ 3 = 0) ∧
    arrives (anchored 0 (.snapQuery 5 false 7)) 0 = some ⟨.ni 0, .tower 2, 5, 0, 0, .snapQuery 5 false 7⟩ ∧
    arrives (anchored 0 (.spanWalk true false 512 4)) 0 = some ⟨.ni 0, .tower 2, 5, 0, 0, .spanWalk true false 512 4⟩ ∧
    (∀ e ∈ [none, some 9], arrives (anchored 0 (.domUpdate 7 e)) 0 = some ⟨.ni 0, .tower 2, 5, 0, 0, .domUpdate 7 e⟩) := by decide +kernel

/-- Tower 0 with a sweep rate, an operation pending on line 0, and a fill of line 1 awaited. -/
def sweeping : State :=
  modTower State.reset 0 fun w =>
    { w.setCreg 0x373 1#64 with pend := [⟨5, false, 1, [0]⟩], fills := SMap.set (fun _ => none) w.fills 1 (some (Acc.plain 0 0x40)) }

theorem witness_SnapshotsAndMaintenance_lines :
    lineTower 0 = 0 ∧ ((towerAt sweeping 0).creg 0x373).toNat % 2 ^ 16 ≠ 0 ∧ ((towerAt sweeping 0).pend.any fun o => o.lines.contains 0) = true ∧
    bankHeld sweeping 1 = false ∧ SMap.get (fun _ => none) (towerAt sweeping (lineTower 1)).fills 1 = some (Acc.plain 0 0x40) ∧
    tagAt (towerAt sweeping (lineTower 1)) 1 = none ∧
    ((towerAt (modTower sweeping 0 fun w => w.setCreg 0x300 0#64) (lineTower 1)).creg 0x300).getLsbD 0 = false ∧
    ((modModul sweeping fun m => m.setCreg 0x448 1#64).modul.creg 0x448).toNat % 2 ^ 16 ≠ 0 := by decide +kernel

/-- The repair command of a bank of device 0 or 8 in the first tier names that bank. -/
theorem repair_named (d : Nat) (hd : d = 0 ∨ d = 8) : ∀ b, b < 256 → bitB (nw (d * 2 ^ 58 + b * 2 ^ 40)) 62 = false ∧
    bitF (nw (d * 2 ^ 58 + b * 2 ^ 40)) 58 4 = d ∧ bitF (nw (d * 2 ^ 58 + b * 2 ^ 40)) 40 8 = b := by
  obtain rfl | rfl := hd <;> decide +kernel

/-- Tower 4's line 512 is dirty, and its bank is under repair. -/
def repairing : State :=
  modModul (modTower State.reset 4 fun w => setTag w 512 (some ⟨true, 0, 0, 0, false, 0, 0⟩)) fun m =>
    { m with repair := some (5, nw (8 * 2 ^ 58 + Config.bankOf false 0 % 256 * 2 ^ 40)) }

theorem repairing_holds : bankHeld repairing 512 = true := by
  obtain ⟨h1, h2, h3⟩ := repair_named 8 (Or.inr rfl) (Config.bankOf false 0 % 256) (Nat.mod_lt _ (by decide))
  have hr : repairing.modul.repair = some (5, nw (8 * 2 ^ 58 + Config.bankOf false 0 % 256 * 2 ^ 40)) := rfl
  have hs : secondTier 512 = false := by decide +kernel
  have ht : tierDevice (64 * 512) = 8 := by decide +kernel
  have ho : tierOffset (64 * 512) = 0 := by decide +kernel
  simp only [bankHeld, hr, bankNamed, h1, h2, h3, hs, ht, ho, decide_true, Bool.and_self]

theorem witness_SnapshotsAndMaintenance_held : spanHeld repairing 4 512 1 = true ∧ spanHeld sweeping 0 0 64 = false := by
  refine ⟨?_, by decide +kernel⟩
  have ht : tagAt (towerAt repairing (lineTower 512)) 512 = some ⟨true, 0, 0, 0, false, 0, 0⟩ := by decide +kernel
  have he : (towerAt repairing 4).tags = [(512, some ⟨true, 0, 0, 0, false, 0, 0⟩)] := by decide +kernel
  simp only [spanHeld, he, List.any_cons, List.any_nil, evictHeld, ht, repairing_holds]
  decide

/-- ASID 0's tables at 0x100000, with a leaf of 1 GiB for page 0; cluster 0 has the walks `ws`. -/
def tabled (leaf : Nat) (ws : List Walk) : State :=
  setBytes (setBytes (modCluster (at0 { segSlot [0#64, nw (2 ^ 31)] with st := .parked }) 0 fun c =>
    { (c.setCreg 0x258 0x80000000#64).setCreg 0x259 0x100000#64 with walks := ws })
    0x100000 (wordLE 8 0x101001#64)) 0x101000 (wordLE 8 (nw leaf))
def leafWord (mig : Nat) : Nat := 0x4000005F + mig * 2 ^ 57

/-- A walk of address 0x123 that reads the table of level 2 next. -/
def midWalk (who : Walker) : Walk := ⟨who, 0, 0x123, some (2, 0x101000), none, none⟩

/-- How a walk goes on. -/
def walkNextOf (s : State) (w : Walk) : Option (Nat × Nat) :=
  match walkNext s 0 w with
  | .next _ p => some p
  | _ => none
def walkEndOf (s : State) (w : Walk) : Option WalkEnd :=
  match walkNext s 0 w with
  | .ended _ e => some e
  | _ => none

theorem witness_TranslationAndMigration_walks :
    (∀ who ∈ [Walker.slot 0, .page 0], ∀ mig ∈ [0, 2], let s := tabled (leafWord mig) [midWalk who];
      (clusterAt s 0).walks[0]? = some (midWalk who) ∧ walkEndOf s (midWalk who) = some (.leaf 0x101000 2 (nw (leafWord mig))) ∧
      pteMig (nw (leafWord mig)) = mig) ∧
    (let w : Walk := ⟨.slot 0, 0, 0x123, none, none, none⟩; let s := tabled (leafWord 0) [w];
      walkNextOf s w = some (2, 0x101000) ∧ asEntry (clusterAt s 0) 0 = some (false, 0x100000) ∧ populatedAt s 0x100000 = true ∧
      okBytes (homeRead s 0x100000 8 Acc.direct) = some (wordLE 8 0x101001#64) ∧
      (match checkPte s false 3 0x101001#64 with | .table t => t == 0x101000 | _ => false) = true) ∧
    (let s := tabled 0 [midWalk (.slot 0)]; walkEndOf s (midWalk (.slot 0)) = some .fail ∧ (slotAt s 0).st = .parked ∧ (slotAt s 0).asid = 0) ∧
    (let w : Walk := { midWalk (.slot 0) with next := none, leaf := some (0x101000, 2) }; let s := tabled (leafWord 1) [w];
      (clusterAt s 0).walks[0]? = some w ∧ okBytes (homeRead s 0x101000 8 Acc.direct) = some (wordLE 8 (nw (leafWord 1))) ∧
      (match checkPte s (((asEntry (clusterAt s 0) 0).map Prod.fst).getD true) 2 (nw (leafWord 1)) with | .leaf => true | _ => false) = true) ∧
    (asEntry (clusterAt (tabled 0 []) 0) 0 = some (false, 0x100000) ∧ asEntry (clusterAt (tabled 0 []) 0) 1 = none ∧
      asEntry (clusterAt (modCluster (tabled 0 []) 0 fun c => c.setCreg 0x258 0x80010000#64) 0) 0 = some (true, 0x100000)) := by decide +kernel

/-- Slot 0 with ASID operands, what it has asked, and the invalidate queue of its cluster on or off. -/
def flushing (en : Nat) (tr : Option Trip) : State :=
  modCluster (at0 { slotWith [5#64, 0#64] with trip := tr }) 0 fun c => c.setCreg 0x250 (nw en)

/-- A discard at cluster 0's port, with or without a request in the network under the ASID. -/
def discarding (busy : Bool) : State :=
  let s := inFlight State.reset ⟨.ni 0, .memPort 0, 5, 0, 0, .tlbDiscard (some 0)⟩
  if busy then { s with net := s.net ++ [⟨.ni 0, .sc 512, 6, 0, 0, .loadReq 0x8000 8 { Acc.plain 0 0x8000 with tr := true }⟩] } else s

/-- A module on whose way nothing is drains every port. -/
theorem drained_of_quiet (s : State) (a : Option Nat) (spans : List (Nat × Nat)) (h : s.net = []) (hc : s.cores = []) :
    ((rangeFrom 0 1280).all fun cl => drained s cl a spans) = true := by
  have e : ∀ c, (coreAt s c).ni = [] := by intro c; simp [coreAt, hc, SMap.get]; rfl
  rw [List.all_eq_true]
  intro cl _
  simp [drained, h, e]

/-- An invalidate queued at cluster 0, with nothing on its way. -/
def invalidating : State := modCluster State.reset 0 fun c => { c with tlbq := [⟨0, 5, 0, 1, 0, []⟩] }

theorem witness_TranslationAndMigration_discards :
    (reads (flushing 0 none) [1, 2] none = some [5#64, 0#64] ∧ (slotAt (flushing 0 none) 0).trip = none ∧ journalEmpty (flushing 0 none) 0 = true ∧
      (slotAt (flushing 0 (some (trip []))) 0).trip = some (trip [])) ∧
    (∀ b ∈ [true, false], arrives (discarding b) 0 = some ⟨.ni 0, .memPort 0, 5, 0, 0, .tlbDiscard (some 0)⟩ ∧
      drained (modCluster (discarding b) 0 fun c => { c with tlb := c.tlb.filter (fun e => decide (e.asid ≠ 0)), walks := c.walks.map fun w =>
        if w.asid = 0 ∧ w.res = none then { w with next := none, leaf := none } else w }) 0 (some 0) [(0, 2 ^ 56)] = !b) ∧
    (∀ en ∈ [0, 1], reads (flushing en none) [1, 2] (some 6) = some [5#64, 0#64] ∧ ((myCluster (flushing en none)).creg 0x250).getLsbD 0 = decide (en = 1) ∧
      (myCluster (flushing en none)).tlbq.length < 8) ∧
    (clusterAt invalidating 0).tlbq = ⟨0, 5, 0, 1, 0, []⟩ :: [] := by decide +kernel

theorem witness_TranslationAndMigration_drained :
    ((rangeFrom 0 1280).all fun cl => drained ((invalidating.clusters.map Prod.fst).foldl (fun s cl =>
      modCluster s cl fun c => { c with tlb := c.tlb.filter fun t => !invHits ⟨0, 5, 0, 1, 0, []⟩ t }) invalidating) cl (some 5) (invSpans invalidating ⟨0, 5, 0, 1, 0, []⟩)) = true :=
  drained_of_quiet _ _ _ (by decide +kernel) (by decide +kernel)

/-- A page of 64 KiB that tower 0 moves, and what the port has found of it. -/
def migr (switched : Bool) (next : Nat) (by_ : Option Nat) : Migr := ⟨0x40000000, 0x80000000, 0x10000, next, false, switched, 0, 0, by_⟩
def moving (act leaf : Nat) (m : Migr) (ws : List Walk) : State :=
  setSlot (modTower (tabled leaf ws) 0 fun w => { w with migr := [m] }) 0 (segSlot [0#64, nw act])

/-- The walk of page 0 for slot 0, ended. -/
def found (leaf : Nat) : Walk := ⟨.page 0, 0, 0, none, none, some (.leaf 0x101000 2 (nw leaf))⟩
def missed : Walk := ⟨.page 0, 0, 0, none, none, some .fail⟩

/-- The leaf of a page, where the walk found one. -/
def leafOf (s : State) : Option (Nat × Word × Nat) := match pageLeaf s 0 0 (some (0x101000, 2)) with
  | .leaf _ pa e size => some (pa, e, size)
  | .none _ | .poison _ _ | .wait => none

/-- The page's leaf lies in range 0 at level 1, and tower 0 has no pool. -/
def unpooled (s : State) : State :=
  modTower (modTower (modTower s 0 fun w => w.setCreg 0x360 (nw (2 ^ 31 + 2 ^ 16))) 0 fun w => w.setCreg 0x340 (nw 0x100000)) 0
    fun w => w.setCreg 0x350 (nw 0x100000)

theorem witness_TranslationAndMigration_poison :
    (let s := setBad (tabled (leafWord 0) [midWalk (.slot 0)]) 0x101000 0x1A;
      walkEndOf s (midWalk (.slot 0)) = some (.poison 0x19) ∧ (slotAt s 0).st = .parked ∧ (slotAt s 0).asid = 0) ∧
    ((clusterAt (tabled (leafWord 0) [⟨.page 0, 0, 0, none, none, some (.poison 0x19)⟩]) 0).walks.find?
      (fun w => decide (w.who = .page 0) && decide (w.asid = 0) && decide (w.la = 0)) = some ⟨.page 0, 0, 0, none, none, some (.poison 0x19)⟩) := by
  decide +kernel

theorem witness_TranslationAndMigration_refused :
    (∀ leaf ∈ [leafWord 0, leafWord 1], ∀ k ∈ [0, 1, 2], let s := unpooled (tabled leaf []);
      leafOf s = some (0x101000, nw leaf, 2 ^ 30) ∧ (putPte s 0x101000 (setF (nw leaf) 57 2 k)).isNone = true) ∧
    (let s := unpooled (tabled (leafWord 0) []); newFrameBad s 0x40000000 (2 ^ 31) (2 ^ 30) = false ∧
      (towerAt s (tierTower 0x40000000)).migr.length < 8 ∧ inSnapshot s 0x40000000 (2 ^ 30) = false) := by decide +kernel

theorem witness_TranslationAndMigration_pmig :
    (reads (tabled (leafWord 0) []) [1, 2] (some 6) = some [0#64, nw (2 ^ 31)] ∧ (clusterAt (tabled (leafWord 0) []) 0).walks = [] ∧
      (∀ w ∈ [found (leafWord 0), missed], reads (tabled (leafWord 0) [w]) [1, 2] (some 6) = some [0#64, nw (2 ^ 31)] ∧
        (clusterAt (tabled (leafWord 0) [w]) 0).walks.find? (fun w => decide (w.who = .page 0) && decide (w.asid = 0) && decide (w.la = 0)) = some w) ∧
      (pageLeaf (tabled (leafWord 0) []) 0 0 none matches .none _) = true ∧
      (pageLeaf (setBad (tabled (leafWord 0) []) 0x101000 0x1A) 0 0 (some (0x101000, 2)) matches .poison _ _) = true) ∧
    (∀ mig ∈ [0, 1], leafOf (tabled (leafWord mig) []) = some (0x101000, nw (leafWord mig), 2 ^ 30) ∧ pteMig (nw (leafWord mig)) = mig) ∧
    (bitB (nw (leafWord 0)) 7 = false ∧ bitB (nw (leafWord 0 + 0x80)) 7 = true ∧ localPa (tabled 0 []) (pteAddr (nw (leafWord 0))) = 0x40000000) ∧
    (let s := tabled (leafWord 0) [];
      newFrameBad s 0x40000000 (2 ^ 31) (2 ^ 30) = false ∧ newFrameBad s 0x40000000 0x40000000 (2 ^ 30) = true ∧
      (towerAt s (tierTower 0x40000000)).migr.length < 8 ∧ inSnapshot s 0x40000000 (2 ^ 30) = false ∧
      (putPte s 0x101000 (setF (nw (leafWord 0)) 57 2 1)).map State.cur = some 0) ∧
    inSnapshot (modTower (modTower (modTower (tabled 0 []) 0 fun w => w.setCreg 0x360 (nw (2 ^ 31 + 2 ^ 16))) 0 fun w => w.setCreg 0x340 (nw 0x40000000)) 0
      fun w => w.setCreg 0x350 (nw 0x40010000)) 0x40000000 (2 ^ 30) = true := by decide +kernel

theorem witness_TranslationAndMigration_pmigsw :
    (∀ act ∈ [0, 1, 2, 3], ∀ m ∈ [migr false 0x1000000 none, migr false 0x1000400 (some 0), migr false 0x1000000 (some 5), migr true 0x1000400 none],
      let s := moving act (leafWord 0) m []; reads s [1, 2] (some 6) = some [0#64, nw act] ∧ migEntry s 0 0 = some (0, 0, m) ∧ (towerAt s 0).migr[0]? = some m) ∧
    (64 * 0x1000000 < 0x40000000 + 0x10000 ∧ 0x40000000 + 0x10000 ≤ 64 * 0x1000400) ∧ migEntry (tabled 0 []) 0 0 = none ∧
    (∀ w ∈ [found (leafWord 1), missed], (clusterAt (moving 0 (leafWord 1) (migr false 0x1000400 none) [w]) 0).walks.find?
      (fun w => decide (w.who = .page 0) && decide (w.asid = 0) && decide (w.la = 0)) = some w) ∧
    (let s := moving 0 (leafWord 1) (migr false 0x1000400 none) [];
      leafOf s = some (0x101000, nw (leafWord 1), 2 ^ 30) ∧ ∀ k ∈ [0, 2], (putPte s 0x101000 (setF (nw (leafWord 1)) 57 2 k)).map State.cur = some 0 ∧
        ((putPte s 0x101000 (setF (setF (nw (leafWord 1)) 8 48 (0x80000000 / 256)) 57 2 0)).map State.cur) = some 0) := by decide +kernel
/-! Power, hold-up and reliability. -/

/-- Slot 0 with operands `rs` and what it has asked; quarter 1 of core 0 is on its way where `due` is not 0. -/
def quarters (rs : List Word) (tr : Option Trip) (due : Nat) : State :=
  modCore (at0 { slotWith rs with trip := tr }) 0 fun c => { c with lmDue := SMap.set (fun _ => 0) c.lmDue 1 due }

/-- How the walk of address 0x10000 of ASID 0 ends. -/
def walkEndAt (s : State) : Option WalkEnd := some (walkAt s 0 0 0x10000).2

/-- What a form that a unit performs may have asked: nothing yet, an answer, or a trap. -/
def unitTrips (c : Nat) : List (Option Trip) := [none, some (trip [15#64]), some { trip [] with trap := some (c, 1#64) }]

/-- A request of slot 0 for a form on its way to its unit. -/
def unitMsg (dst : Agent) (f : UnitForm) (vs : List Word) : Msg := ⟨.ni 0, dst, 5, 0, 0, .unitReq f vs⟩

/-- The request is at its unit. -/
def unitThere (s : State) (dst : Agent) (f : UnitForm) (vs : List Word) : Bool :=
  decide (arrives (inFlight s (unitMsg dst f vs)) 0 = some (unitMsg dst f vs))

theorem witness_PowerHoldupAndReliability_quarters :
    (∀ tr ∈ unitTrips 0x63, let s := quarters [0x20000000008#64, 3#64] tr 0;
      reads s [1, 2] (some 6) = some [0x20000000008#64, 3#64] ∧ placeOf s 0x20000000008 = .lm 0 0 8 ∧ (slotAt s 0).trip = tr ∧
      freeTag (coreAt s 0) = some 0 ∧ (slotAt s 0).barEHolds = false) ∧
    (let s := quarters [0x8000#64, 3#64] none 0;
      reads s [1, 2] (some 6) = some [0x8000#64, 3#64] ∧ placeOf s 0x8000 = .tier 0x8000) ∧
    unitThere (quarters [] none 0) (.ni 0) .lmpwr [0x20000000008#64, 3#64] = true ∧
    (∀ due ∈ [0, 77], let p := (unitMsg (.ni 0) .lmpwr [0x20000000008#64, 3#64], 3, 15);
      let s := modCore (quarters [] none due) 0 fun c => { c with pwr := [p] };
      (coreAt s 0).pwr = [p] ∧ quartersDue s 0 3 = decide (due ≠ 0)) ∧
    (let s := modCore State.reset 0 fun c => { c with lmOn := 0#4 };
      (coreAt s 0).lmOn.getLsbD 1 = false ∧ lmDueAt (coreAt s 0) 1 = 0) ∧
    lmDueAt (coreAt (quarters [] none 77) 0) 1 ≠ 0 := by decide +kernel

/-- The module with a must-save region of 64 KiB at handle 5 for ASID 0, quotas, and energy enough. -/
def saving (rs : List Word) (mode : Mode) (asid : Nat) (hu : HuPhase) : State :=
  modModul (at0 { engSlot rs [(0x085, nw asid)] with mode := mode }) fun m =>
    { m.setCreg 0x401 (nw (1000 * 2 ^ 48)) with
      hu := hu
      regions := SMap.set (fun _ => none) m.regions 5 (some ⟨7, 2, 9, 0x20000000000, 65536⟩)
      quota := SMap.set (fun _ => 0) (SMap.set (fun _ => 0) m.quota 0 4) 7 4 }

theorem witness_PowerHoldupAndReliability_regions :
    (∀ hu ∈ [HuPhase.idle, .drain], ∀ mode ∈ [Mode.user, .supervisor], ∀ asid ∈ [1, 7], ∀ v ∈ [5, 6, 2 ^ 63 + 7],
      let s := saving [nw v] mode asid hu;
      reads s [1] (some 6) = some [nw v] ∧ huRuns s = decide (hu ≠ .idle) ∧ (slotAt s 0).mode = mode ∧ (slotAt s 0).asid = asid ∧
      (regionAt s 5).map Region.asid = some 7 ∧ regionAt s 6 = none ∧
      ∀ f ∈ [UnitForm.msdel, .msqry], ∀ u ∈ [0, 1], unitThere s modulAgent f [nw u, nw asid, nw v] = true) ∧
    ((nw 5).getLsbD 63 = false ∧ (nw (2 ^ 63 + 7)).getLsbD 63 = true) := by decide +kernel

theorem witness_PowerHoldupAndReliability_admission :
    (let s := saving [ptr 1 0, nw 65536] .user 0 .idle;
      reads s [1, 2] (some 6) = some [ptr 1 0, nw 65536] ∧ okAddr (ptrAddr s 0 (ptr 1 0) 1 needR) = lmOk 0x20000000000 ∧
      okAddr (segAddr s 0 (ptrSeg (ptr 1 0)) (nw (ptrOff (ptr 1 0) + 65536 - 1)) 1 needR) = lmOk 0x2000000FFFF ∧
      notSaved s 0x20000000000 0x20000000000 = false ∧ (slotAt s 0).trip = none) ∧
    notSaved State.reset 0x22000000000 0x22000000000 = true ∧
    (let s := saving [] .user 0 .idle; let v := [0#64, nw 0x20000000000, nw 65536, 2#64, 9#64];
      unitThere s modulAgent .msadd v = true ∧ huRuns s = false ∧ usedBy s 0 + unitsOf 65536 ≤ quotaOf s 0 ∧
      usedAll s + unitsOf 65536 ≤ capOf s ∧ (regionAt s 0).isNone = true ∧ huRuns (saving [] .user 0 .drain) = true ∧
      quotaOf s 9 < usedBy s 9 + 1 ∧ (let z := modModul s fun m => m.setCreg 0x401 0#64;
        usedBy z 0 + 1 ≤ quotaOf z 0 ∧ capOf z < usedAll z + 1)) ∧
    (∀ v ∈ [0, 2 ^ 33 + 1], reads (saving [ptr 1 0, nw v] .user 0 .idle) [1, 2] (some 6) = some [ptr 1 0, nw v] ∧
      ((nw v).toNat % 2 ^ 34 = 0 ∨ 2 ^ 33 < (nw v).toNat % 2 ^ 34)) := by decide +kernel

/-- A range in a page of 1 GiB whose leaf's bit 56 is set, or is clear. -/
theorem witness_PowerHoldupAndReliability_frames :
    ∀ pin ∈ [0, 2 ^ 56], let s := tabled (leafWord 0 + pin) [];
      walkEndAt s = some (.leaf 0x101000 2 (nw (leafWord 0 + pin))) ∧ notSaved s 0x123 0x40000123 = false ∧
      oneFrame s 0 0 0x10000 0x40010000 0x20000 131074 0x10000 = decide (pin ≠ 0) := by decide +kernel

/-- A region of 64 bytes in a restart table or a plan. -/
def savedRegion : PlanEnt := ⟨5, ⟨7, 2, 9, 0x20000000100, 64⟩⟩
def restarted (rs : List Word) : State := modModul (at0 (segSlot rs)) fun m => { m with flash := ⟨3, [savedRegion], 0, [], none⟩ }

theorem witness_PowerHoldupAndReliability_restart :
    (∀ h ∈ [5, 6], ∀ sel ∈ [0, 1, 3], let s := restarted [nw h, nw (sel * 2 ^ 62)];
      reads s [1, 2] (some 6) = some [nw h, nw (sel * 2 ^ 62)] ∧ (nw (sel * 2 ^ 62)).toNat / 2 ^ 62 = sel ∧
      (s.modul.flash.plan.find? fun e => e.handle = (nw h).toNat % 2 ^ 10) = (if h = 5 then some savedRegion else none) ∧
      unitThere s modulAgent .hustat [0#64, 0#64, nw h, nw (sel * 2 ^ 62)] = true ∧ (s.modul.flash.written 5).Nodup) := by decide +kernel

/-- The hold-up sequence in a phase, 70,000 ticks after its start. -/
def holding (hu : HuPhase) (plan : List (Nat × Nat)) : State :=
  { modModul (restarted []) fun m => { m with hu := hu, plan := plan } with time := 112000 }

theorem witness_PowerHoldupAndReliability_sequence :
    (∀ hu ∈ [HuPhase.idle, .shed, .drain, .copy], (holding hu []).modul.hu = hu) ∧
    (holding .shed []).modul.huT0 + 60000 ≤ tickOf (holding .shed []) ∧ drainedAll (holding .drain []) = true ∧
    (let s := holding .copy [(5, 0)];
      s.modul.plan = (5, 0) :: [] ∧ (s.modul.flash.plan.find? fun e => e.handle = 5) = some savedRegion ∧
      saveBytes s (0x20000000100 + 65536 * 0) (Nat.min 65536 (64 - 65536 * 0)) = some (List.replicate 64 0#8)) ∧
    (holding .copy []).modul.plan = [] ∧
    (let s := { State.reset with time := 2 ^ 31 }; s.modul.measAt + 2 ^ 30 ≤ tickOf s) := by decide +kernel

theorem witness_PowerHoldupAndReliability_wires :
    (∀ tr ∈ unitTrips 0x63, let s := at0 { slotWith [3#64, 5#64] with trip := tr };
      reads s [1, 2] (some 6) = some [3#64, 5#64] ∧ (3#64).toNat / 2 ^ 32 % 2 ^ 8 ≤ 159 ∧ (3#64).toNat % 2 ^ 6 ≤ 33 ∧ (5#64).toNat / 2 ^ 2 % 2 ^ 11 ≤ 1055 ∧
      (slotAt s 0).trip = tr ∧ freeTag (coreAt s 0) = some 0) ∧
    (let s := at0 (slotWith [34#64, 5#64]); reads s [1, 2] (some 6) = some [34#64, 5#64] ∧ 33 < (34#64).toNat % 2 ^ 6) ∧
    (∀ f ∈ [UnitForm.vbset, .vbtest], unitThere State.reset (.ni 3) f [3#64, 5#64] = true) ∧
    (∀ n ∈ [0, 15], let s := modCore State.reset 3 fun c => { c with lmOn := BitVec.ofNat 4 n };
      (coreAt s 3).lmOn.getLsbD 1 = decide (n = 15) ∧ quarterRetired s 3 1 = false ∧
      ((coreAt s 3).creg (vbReg 1 (wireGroup 5))).toNat / 2 ^ vbPos (wireGroup 5) % 2 ^ 16 = 0) ∧
    quarterRetired (modCore State.reset 3 fun c => c.setCreg 0x101 0x8000#64) 3 1 = true := by decide +kernel

/-- A store of `v` to register `n` of unit `u` on its way to its control agent. -/
def storing (s : State) (u n : Nat) (v : Word) : State := inFlight s ⟨.ni 0, ctlAgent (blkOfUnit s u n) n, 5, 0, 0, .ctlAccess true (blkOfUnit s u n) n v⟩

theorem arrives_alone (s : State) (m : Msg) (h : s.modul.hops = []) : arrives (inFlight s m) 0 = some m := by
  simp [arrives, inFlight, hopBlocked, h]

theorem storing_arrives (s : State) (h : s.modul.hops = []) (u n : Nat) (v : Word) : ∃ m, ctlStoreAt (storing s u n v) u n v 0 m :=
  ⟨_, arrives_alone s _ h, rfl, rfl, fun _ _ hj => absurd hj (Nat.not_lt_zero _)⟩

theorem witness_PowerHoldupAndReliability_registers :
    (∃ m, ctlStoreAt (storing State.reset 0 0x446 (nw (2 ^ 63))) 0 0x446 (nw (2 ^ 63)) 0 m) ∧
    (∃ m, ctlStoreAt (storing State.reset 0 0x400 4#64) 0 0x400 4#64 0 m) ∧ (∃ m, ctlStoreAt (storing State.reset 0 0x442 4#64) 0 0x442 4#64 0 m) ∧
    (∀ n, n ≤ 2 → ∃ m, ctlStoreAt (storing State.reset 0 (0x443 + n) 4#64) 0 (0x443 + n) 4#64 0 m) :=
  ⟨storing_arrives _ rfl _ _ _, storing_arrives _ rfl _ _ _, storing_arrives _ rfl _ _ _, fun _ _ => storing_arrives _ rfl _ _ _⟩

theorem witness_PowerHoldupAndReliability_repairs :
    ((nw (2 ^ 63)).getLsbD 63 = true ∧ (4#64).getLsbD 2 = true) ∧ State.reset.modul.repair = none ∧
    (modModul State.reset fun m => { m with repair := some (5, 7#64) }).modul.repair = some (5, 7#64) ∧ relCluster State.reset = some 0 := by decide +kernel
/-! Links. -/

/-- Port 3 in state `st` as `f` makes it, with operands `rs` of slot 0 and what it has asked. -/
def linked (rs : List Word) (tr : Option Trip) (st : Nat) (f : Port → Port) : State :=
  modPort (at0 { slotWith rs with trip := tr }) 3 fun x => { f x with state := st }
def port3 (st : Nat) (f : Port → Port) : Port := portAt (linked [] none st f) 3

/-- A request of slot 0 that waits at port 3. -/
def portReq (f : UnitForm) : Msg := unitMsg modulAgent f [3#64, 5#64]

theorem witness_Links_forms :
    (∀ tr ∈ unitTrips 0x63, ∀ v ∈ [3, 19, 35], let s := linked [nw v, 5#64] tr 2 id;
      reads s [1] (some 6) = some [nw v] ∧ reads s [1, 2] (some 6) = some [nw v, 5#64] ∧ (slotAt s 0).trip = tr ∧
      ((nw v).toNat / 2 ^ 5 = 0 ↔ v ≠ 35) ∧ (nw v).getLsbD 4 = decide (v = 19)) ∧
    (∀ v ∈ [3, 19], unitThere (linked [] none 2 id) modulAgent .lnkq [nw v] = true) ∧
    (∀ f ∈ [UnitForm.lnkfec, .lnkclaim], ∀ w ∈ [0, 1, 2, 5], unitThere (linked [] none 2 id) modulAgent f [3#64, nw w] = true) := by decide +kernel

theorem witness_Links_requests :
    ((port3 0 id).state ≠ 2 ∧ (port3 2 fun x => { x with prop := some (1, 15, 64, 0) }).prop.isSome = true ∧
      (port3 2 fun x => { x with agreed := some (true, 1, 15, 64) }).agreed.isSome = true ∧
      ∀ l ∈ [0, 1], (port3 2 fun x => { x with level := l }).prop = none ∧ (port3 2 fun x => { x with level := l }).agreed = none ∧
        (port3 2 fun x => { x with level := l }).level = l) ∧
    ((5#64).getLsbD 2 = true ∧ (5#64).toNat % 4 = 1) ∧
    ((port3 2 fun x => { x with fec := some (portReq .lnkfec), claim := some (portReq .lnkclaim) }).fec = some (portReq .lnkfec) ∧
      (port3 2 fun x => { x with fec := some (portReq .lnkfec), claim := some (portReq .lnkclaim) }).claim = some (portReq .lnkclaim)) ∧
    (∀ o ∈ [0, 1, 2], (port3 2 fun x => { x with owner := o }).owner = o ∧ (port3 2 fun x => { x with owner := o }).bid = none) ∧
    (∀ o ∈ [0, 1], let x := port3 2 fun x => { x with owner := o, bid := some (portReq .lnkclaim, 7), bidAt := 1 };
      x.owner = o ∧ x.bid = some (portReq .lnkclaim, 7) ∧ x.bidAt ≤ ({ linked [] none 2 id with time := 1 } : State).time) := by decide +kernel

/-- A header of TYPE `ty` with VALID and SEQ. -/
def header (ty valid seq : Nat) : Word := nw (valid * 2 ^ 28 + ty * 2 ^ 24 + seq)

theorem witness_Links_frames :
    (∀ ty ∈ [0, 1, 2, 3, 4, 5], ∀ seq ∈ [0, 1], hdrType (header ty 0 seq) = ty ∧ hdrValid (header ty 0 seq) = 0 ∧ hdrSeq (header ty 0 seq) = seq) ∧
    (port3 2 id).state = 2 ∧ (port3 2 id).seqRx = 0 ∧ frameGood 0 [] = true ∧ frameGood 1 [0, 1, 2, 3] = true ∧ frameGood 1 [0, 2, 4] = false ∧
    (let s := modModul (linked [] none 2 id) fun m => { m with routes := SMap.set (fun _ => 0#64) m.routes 9 (nw (2 ^ 63 + 4)) };
      let r := SMap.get (fun _ => 0#64) s.modul.routes 9; r.getLsbD 63 = true ∧ r.toNat % 16 = 4 ∧ ownPkg s % 256 ≠ 9) ∧
    (SMap.get (fun _ => 0#64) State.reset.modul.routes 9).getLsbD 63 = false ∧
    (let m : Msg := ⟨.ni 0, .link 3, 5, 0, 0, .loadReq 0x90000000008 8 Acc.direct⟩; m.dst = .link 3 ∧ m.body.response = false ∧ isActive m.body = false) := by
  decide +kernel

theorem witness_Links_levels :
    (∀ f ∈ [0, 7, 15], let x := port3 2 fun x => { x with seqTx := 9, nak := 5, fails := f };
      (x.seqTx + 4096 - 5 % 4096) % 4096 = 4 ∧ x.nak = 5 % 4096 ∧ x.fails = f ∧ x.level < 3) ∧
    cfgPin (linkCfg (linked [] none 2 id) 3) = false ∧
    (port3 2 fun x => { x with nak := 4096 }).nak ≠ 5 % 4096 ∧
    (∀ t ∈ [0, 2 ^ 30], (port3 2 fun x => { x with prop := some (1, 15, 64, t) }).prop = some (1, 15, 64, t)) ∧
    (let s := { linked [] none 2 id with time := 2 ^ 26 }; 0 + ackTicks (portAt s 3).level ≤ tickOf s ∧ tickOf s < 2 ^ 30 + ackTicks (portAt s 3).level) ∧
    (∀ peer ∈ [true, false], (port3 2 fun x => { x with agreed := some (peer, 1, 15, 64) }).agreed = some (peer, 1, 15, 64)) ∧
    (∀ n ∈ [0, 64], let x := port3 2 fun x => { x with seqRx := n, seqTx := n }; seqReached x.seqRx 64 = decide (n = 64) ∧ seqReached x.seqTx 64 = decide (n = 64)) := by
  decide +kernel

theorem witness_Links_windows :
    (∀ n ∈ [0, 3], (∀ i < 8, [n].getD i 0 * 10 ^ 4 ≤ 2 ^ 20 * laneBytes 0 i) ∧ wantedLevel 0 ([n].take 8).sum = (if n = 0 then 0 else 2) ∧
      wantedLevel 2 [0].sum = 0) ∧
    cfgMin (linkCfg (linked [] none 2 id) 3) = 0 ∧ (port3 2 fun x => { x with level := 2, low := 15 }).low = 15 ∧
    (port3 2 fun x => { x with level := 2, low := 15 }).agreed = none ∧ (port3 2 id).takeover = none ∧ (port3 2 id).low = 0 ∧
    cfgPin (linkCfg (modModul (linked [] none 2 id) fun m => m.setCreg 0x483 0x80#64) 3) = true ∧
    ((port3 2 fun x => { x with flane := 4 }).flane ≠ 15 ∧ 5 ≠ (port3 2 fun x => { x with flane := 4 }).flane) ∧
    (∀ c ∈ [1, 9], let s := modModul (linked [] none 2 fun x => { x with flane := 15 }) fun m => m.setCreg 0x483 (nw c);
      (portAt s 3).flane = 15 ∧ cfgSplen (linkCfg s 3) = decide (c = 9) ∧ (portAt s 3).prop = none ∧ (portAt s 3).agreed = none) := by decide +kernel

theorem witness_Links_training :
    (∀ c ∈ [1, 0x11], let s := modModul (linked [] none 2 id) fun m => m.setCreg 0x483 (nw c);
      failoverOk s 3 = decide (c = 0x11) ∧ cfgEn (linkCfg s 3) = true ∧
      (coreAt s (lcoreKey s (clusterIn (3 / 2) 0) 32)).evq.length < 16) ∧
    cfgEn (linkCfg (modModul (linked [] none 2 id) fun m => m.setCreg 0x483 0#64) 3) = false ∧
    (linked [] none 2 id).modul.hu = .idle ∧ (modModul (linked [] none 2 id) fun m => { m with hu := .shed }).modul.hu ≠ .idle ∧
    (∀ st ∈ [0, 1, 3], (port3 st id).state = st ∧ (port3 st id).failover = false ∧ (port3 st fun x => { x with failover := true }).failover = true) := by
  decide +kernel
/-! The host, boot and the gang switch. -/

/-- The machine with line 512 in the shared cache. -/
def cached : State := fillLine State.reset 512 (Acc.plain 0 0x8000)

theorem witness_HostAndBoot_accesses :
    (0x8000 < 2 ^ 42 ∧ 0x8000 % 64 + [1#8].length ≤ 64 ∧ bootFailed cached = false ∧ placeOf cached 0x8000 = .tier 0x8000 ∧ populated 0x8000 = true ∧
      mustFill cached 0x8000 = false) ∧
    okBytes (homeWrite cached 0x8000 [1#8] Acc.direct none) = some [] ∧ okBytes (homeRead cached 0x8000 1 Acc.direct) = some [0] ∧
    placeOf State.reset 0x21900000000 = .hole ∧
    (0x22000000800 < 2 ^ 42 ∧ (wordLE 8 5#64).length = 8 ∧ 0x22000000800 % 8 = 0 ∧ bootFailed State.reset = false ∧
      placeOf State.reset 0x22000000800 = .ctl 0 0x100 ∧ placeOf State.reset 0x22000000804 = .ctl 0 0x100 ∧ 0x22000000804 % 64 + 8 ≤ 64) ∧
    (placeOf State.reset 0x20000000008 = .lm 0 0 8 ∧ okBytes (homeWrite State.reset 0x20000000008 [1#8] Acc.direct
      (some ⟨.ni (lcoreKey State.reset 0 0), .host 1, 0, 0, 0, .storeAck⟩)) = some []) ∧
    okBytes (homeRead (setBad cached 0x8000 0x1A) 0x8000 1 Acc.direct) = some [0] ∧
    (homeRead (setBad State.reset (lmKey 0 8) 0x1A) 0x20000000008 8 Acc.direct matches .poison _ _ _) = true := by decide +kernel

theorem witness_HostAndBoot_window :
    (∀ b ∈ [Body.loadReq 0x26000000000 8 (Acc.plain 0 0x26000000000), .postedStore 0x26000000000 [1#8] none (Acc.plain 0 0x26000000000)],
      arrives (inFlight State.reset ⟨.ni 0, .host 0, 5, 0, 0, b⟩) 0 = some ⟨.ni 0, .host 0, 5, 0, 0, b⟩) ∧
    arrives (inFlight State.reset ⟨.ni 0, .host 0, 5, 0, 0, .storeAck⟩) 0 = some ⟨.ni 0, .host 0, 5, 0, 0, .storeAck⟩ ∧
    (∀ busy ∈ [true, false], ∀ todo ∈ [true, false],
      let s := { modModul (setHslot State.reset 5 ⟨[], 0#64, 0#64, busy, todo, 0⟩) (fun m => m.setCreg 0x4C2 (nw (2 ^ 63))) with time := 1 };
      bootFailed s = false ∧ booted s = true ∧ (hslotAt s 5).busy = busy ∧ agentNext s 5 = todo) ∧ (nw (2 ^ 63)).getLsbD 63 = true ∧
    launchBad State.reset 0 (padTo 8 0#64 (hslotAt State.reset 5).dw) = true := by decide +kernel

/-- Launch slot 5 with a record below level 4, which is cancelled or not. -/
def windowed (cxl : Bool) : State :=
  setHslot (setBytes (withRec State.reset plainLevel) 128 (wordsLE (levelRec 0 cxl false 1 0))) 5 ⟨launchRec 1 4, 0#64, 0#64, true, true, 0⟩

theorem witness_HostAndBoot_agent :
    ∀ cxl ∈ [true, false], let s := windowed cxl; let z := setHslot s 5 { hslotAt s 5 with st := 0#64 }; let r := padTo 8 0#64 (hslotAt s 5).dw;
      r = launchRec 1 4 ∧ launchBad z 0 r = false ∧ val r 2 = 0#64 ∧ val r 3 = 0#64 ∧ (launchAbove r).any (cxlNow z 0) = cxl := by decide +kernel

/-- Step `k` of a boot runs. -/
def booting (k : Nat) : State := modModul State.reset fun m => { m.setCreg 0x4C2 (nw k) with off := false, boot := some 0 }

theorem witness_HostAndBoot_boot :
    (State.reset.modul.hu = .idle ∧ State.reset.modul.boot = none) ∧ (modModul State.reset fun m => { m with hu := .committed }).modul.hu = .committed ∧
    (∀ k ∈ [1, 7, 8], (booting k).modul.hu = .idle ∧ (booting k).modul.off = false ∧ (booting k).modul.boot = some 0 ∧
      (booting k).modul.creg 0x4C2 = nw k) := by decide +kernel

/-- An image of version 2^32 − 1 passes every version test; every other fails one. -/
theorem witness_HostAndBoot_image (h : (Config.bootFacts 0).version % 2 ^ 32 < 2 ^ 32 - 1) :
    imageOk (Config.bootFacts 0) (booting 1) = true ∧
    imageOk (Config.bootFacts 0) (modModul (booting 1) fun m => m.setCreg 0x4C5 (nw (2 ^ 64 - 1))) = false := by
  have h0 : bitF ((booting 1).modul.creg 0x4C5) 32 32 = 0 := by decide +kernel
  have h1 : bitF ((modModul (booting 1) fun m => m.setCreg 0x4C5 (nw (2 ^ 64 - 1))).modul.creg 0x4C5) 32 32 = 2 ^ 32 - 1 := by decide +kernel
  unfold imageOk
  rw [h0, h1]
  exact ⟨decide_eq_true (Nat.zero_le _), decide_eq_false (by omega)⟩

theorem witness_HostAndBoot_runs :
    ((turning .ready 0 []).modul.off = false ∧ bootFailed (turning .ready 0 []) = false ∧ (turning .ready 0 []).turn = false ∧
      dueSwitch (turning .ready 0 []) = none ∧ dueTurn (turning .ready 0 []) = some 0) ∧ (at0 (slotWith [])).turn = true ∧
    (let s := { modModul State.reset (fun m => { m.setCreg 0x4C2 (nw (2 ^ 62 + 3)) with off := false }) with agenda := [⟨1, .lnkq 1 1 false⟩] };
      s.modul.off = false ∧ bootFailed s = true ∧ (nextChoice s).1.ev = .lnkq 1 1 false) := by decide +kernel

/-- A quote is under way, and the host's answer to it is on its way. -/
def quoting (b : Body) : State := inFlight (modModul State.reset fun m => { m with quoteDue := true }) ⟨.host 0, modulAgent, 0, 0, 0, b⟩

theorem witness_HostAndBoot_answers :
    ∀ b ∈ [Body.loadReply (.value (List.replicate 32 1#8)), .storeAck, .storeRefusal 3],
      quoteMsg (quoting b) = some (0, ⟨.host 0, modulAgent, 0, 0, 0, b⟩) := by decide +kernel

theorem witness_HostAndBoot_quote : ∃ m, ctlStoreAt (storing State.reset 0 0x4C3 (nw (2 ^ 63))) 0 0x4C3 (nw (2 ^ 63)) 0 m := storing_arrives _ rfl _ _ _

/-- Core 0 in a phase of the gang switch for ASID 7, with its slots in `mask` stopped; slot 0 runs under ASID `asid`. -/
def switching (gst asid mask : Nat) : State :=
  modCore { at0 (engSlot [] [(0x085, nw asid)]) with turn := false } 0 fun c => { c.setCreg 0x1C9 7#64 with gst := gst, gset := mask, divert := true }

theorem witness_GangSwitch_stop :
    (∀ asid ∈ [0, 7], let s := switching 1 asid 0;
      (coreAt s 0).gst = 1 ∧ s.turnsTo ≤ s.time ∧ clusterCycle s (clusterOf 0) % 16 = 0 ∧ ((coreAt s 0).creg 0x1C8).toNat ≤ tickOf s ∧
      (∀ n < 16, inSwitch s 0 n = (decide (asid = 7) && decide (n = 0)))) ∧
    ((coreAt (switching 2 7 0) 0).gst = 2 ∧ (coreAt (switching 2 7 0) 0).gset = 0) ∧
    (let s := switching 2 7 1; maskSlots 0 (coreAt s 0).gset = [0] ∧ slotDrained s 0 0 = true ∧ (slotAt s 0).st ≠ .waiting) ∧
    (let s := modTower (inFlight (switching 2 7 1) ⟨.ni 1, .ni 0, 5, 0, 0, .activeMsg 2 8 64 none (List.replicate 8 1#8) none⟩) 0 fun w => w.setCreg 0x391 8#64;
      arrives s 0 = some ⟨.ni 1, .ni 0, 5, 0, 0, .activeMsg 2 8 64 none (List.replicate 8 1#8) none⟩ ∧ (coreAt s 0).divert = true ∧
      (towerAt s (towerOf (clusterOf 0))).fall.length < ((towerAt s (towerOf (clusterOf 0))).creg 0x391).toNat % 2 ^ 32 ∧
      freeFall (towerAt s 0) = some 0) := by decide +kernel

theorem witness_GangSwitch_saves : (saveSlot (switching 2 7 1) 0).isSome = true ∧ (fillFall (switching 2 7 1) 0 0).isSome = true := by decide +kernel

/-- The bank of slot 0's record is under repair. -/
def recordHeld : State := modModul (switching 2 7 1) fun m => { m with repair := some (5, nw (0 * 2 ^ 58 + Config.bankOf false 0 % 256 * 2 ^ 40)) }

theorem recordHeld_holds : bankHeld recordHeld 0 = true := by
  obtain ⟨h1, h2, h3⟩ := repair_named 0 (Or.inl rfl) (Config.bankOf false 0 % 256) (Nat.mod_lt _ (by decide))
  have hr : recordHeld.modul.repair = some (5, nw (0 * 2 ^ 58 + Config.bankOf false 0 % 256 * 2 ^ 40)) := rfl
  have hs : secondTier 0 = false := by decide +kernel
  have ht : tierDevice (64 * 0) = 0 := by decide +kernel
  have ho : tierOffset (64 * 0) = 0 := by decide +kernel
  simp only [bankHeld, hr, bankNamed, h1, h2, h3, hs, ht, ho, decide_true, Bool.and_self]

/-- A write waits in a line that is in no cache and whose bank is under repair. -/
theorem scWrite_waits {s : State} {pa : Nat} (bs : List Byte) (hp : placeOf s pa = .tier pa) (hf : scFinal s pa = pa) (hi : inPool s pa = false)
    (ht : tagAt (towerAt s (lineTower (pa / 64))) (pa / 64) = none) (hb : bankHeld s (pa / 64) = true) :
    homeWrite s pa bs Acc.direct none = .wait s := by
  simp only [homeWrite, hp, scWrite, hf, scWriteAt, hi, lineHeld, hb, ht, Option.isNone_none, Bool.and_self, Bool.or_true, Bool.false_eq_true,
    if_false, if_true]

/-- Lines whose first write waits are not written. -/
theorem writeLines_waits {s : State} {pa : Nat} (n : Nat) (bs : List Byte) (h : ∀ b, homeWrite s pa b Acc.direct none = .wait s) :
    writeLines (n + 1) s pa bs = none := by
  have hn (l : List Nat) (f : State → Nat → Option State) : l.foldl (fun o i => o.bind fun s => f s i) none = none := by
    induction l with
    | nil => rfl
    | cons _ _ ih => exact ih
  simp only [writeLines, rangeFrom, List.foldl_cons, Option.bind_some, Nat.mul_zero, Nat.add_zero, h]
  exact hn _ _

theorem witness_GangSwitch_waits : saveSlot recordHeld 0 = none := by
  have hk : recPa (modSlot recordHeld 0 Slot.dropStreams) (coreOf 0) (slotNo 0) = 0 := by decide +kernel
  have hw := fun bs => scWrite_waits (s := modSlot recordHeld 0 Slot.dropStreams) (pa := 0) bs (by decide +kernel) (by decide +kernel)
    (by decide +kernel) (by decide +kernel) recordHeld_holds
  unfold saveSlot
  simp only [hk]
  rw [writeLines_waits 39 _ hw]
  rfl

theorem witness_GangSwitch_registers :
    (∃ m, ctlStoreAt (storing State.reset 0 0x1C9 (nw (2 ^ 63))) 0 0x1C9 (nw (2 ^ 63)) 0 m) ∧
    (∃ m, ctlStoreAt (storing State.reset 0 0x1C9 (nw (2 ^ 62))) 0 0x1C9 (nw (2 ^ 62)) 0 m) :=
  ⟨storing_arrives _ rfl _ _ _, storing_arrives _ rfl _ _ _⟩

theorem witness_GangSwitch_phases :
    (nw (2 ^ 63)).getLsbD 63 = true ∧ (nw (2 ^ 62)).getLsbD 63 = false ∧ (nw (2 ^ 62)).getLsbD 62 = true ∧ (coreAt State.reset 0).gst = 0 ∧
    (∀ g ∈ [2, 3, 4], (coreAt (switching g 7 0) 0).gst = g) := by decide +kernel
/-! Stores of the control window. -/

/-- A load of register `n` of block `b` on its way to its control agent. -/
def loading (b n : Nat) : State := inFlight State.reset ⟨.ni 0, ctlAgent b n, 5, 0, 0, .ctlAccess false b n 0#64⟩

theorem witness_ControlRegisterStores_accesses :
    (∀ w b n v, ∃ m, arrives (inFlight State.reset ⟨.ni 0, .control 0, 5, 0, 0, .ctlAccess w b n v⟩) 0 = some m ∧ m.body = .ctlAccess w b n v) ∧
    (∀ b n, ∃ m, ctlLoadAt (loading b n) b n 0 m) ∧
    (∀ u n v, ∃ m, ctlStoreAt (storing State.reset u n v) u n v 0 m) :=
  ⟨fun _ _ _ _ => ⟨_, arrives_alone _ _ rfl, rfl⟩,
   fun _ _ => ⟨_, _, arrives_alone _ _ rfl, rfl, rfl, fun _ _ _ _ _ hj => absurd hj (Nat.not_lt_zero _)⟩,
   fun _ _ _ => storing_arrives _ rfl _ _ _⟩

theorem witness_ControlRegisterStores_values :
    (nw (2 ^ 62)).toNat / 2 ^ 62 = 1 ∧ (nw (2 ^ 63)).toNat / 2 ^ 62 = 2 ∧ (nw (2 ^ 63)).getLsbD 63 = true ∧ (5#64).getLsbD 63 = false ∧
    (5#64).getLsbD 31 = false ∧ (4#64).getLsbD 0 = false ∧ (1#64).getLsbD 0 = true ∧
    ((towerAt (modTower State.reset 2 fun w => w.setCreg 0x365 (nw (2 ^ 31))) 2).creg (0x360 + 5)).getLsbD 31 = true ∧
    (∀ r ∈ [true, false], (jAt (coreAt (modCore State.reset 0 fun c => setJ c 5 (some ⟨r, 0, 8, 0, [], 1, none, 0, homeAcc⟩)) 0) ((5#64).toNat % 64)).map
      JEntry.refused = some r) ∧
    ((nw (2 ^ 63)).toNat / 2 ^ 20 % 2 ^ 20 = 0 ∧ 524288 < (nw (2 ^ 63 + 524288 * 2 ^ 20 + 1)).toNat % 2 ^ 19 + (nw (2 ^ 63 + 524288 * 2 ^ 20 + 1)).toNat / 2 ^ 20 % 2 ^ 20) ∧
    (clusterAt (omu (some 0) []) 0).own.isSome = true ∧
    (∀ st ∈ [SlotSt.ready, .waiting], (slotAt (setSlot State.reset (slotOf 0 15) { Slot.reset with st := st }) (slotOf 0 15)).st = st) ∧
    xformOn State.reset 0 = false := by decide +kernel

end Sys2Proof.Tests
end

section
/-! The end of a turn and stores of the control window. First the laws that both need, each about one function of the model; then the two
statements that are assembled from them. -/

namespace Sys2Proof

/-! Fields of a word. -/

/-- Bit `i` of a word whose field [lo + n - 1 : lo] is replaced. -/
theorem getLsbD_setF (w : Word) (lo n v : Nat) {i : Nat} (h : i < 64) :
    (setF w lo n v).getLsbD i = if lo ≤ i ∧ i < lo + n then v.testBit (i - lo) else w.getLsbD i := by
  simp only [setF, BitVec.getLsbD_or, BitVec.getLsbD_and, BitVec.getLsbD_not, BitVec.getLsbD_ofNat, Nat.testBit_mul_two_pow,
    Nat.testBit_two_pow_sub_one, Nat.testBit_mod_two_pow, h]
  by_cases hlo : lo ≤ i
  · by_cases hn : i < lo + n
    · simp [hlo, hn, show i - lo < n by omega]
    · simp [hlo, hn, show ¬ i - lo < n by omega]
  · simp [hlo]

theorem getLsbD_setB_self (w : Word) {lo : Nat} (b : Bool) (h : lo < 64) : (setB w lo b).getLsbD lo = b := by
  cases b <;> simp [setB, getLsbD_setF w lo 1 _ h]

/-- Clearing the high half of a word leaves a number below 2^32. -/
theorem toNat_setF_high_zero (w : Word) : (setF w 32 32 0).toNat / 2 ^ 32 = 0 := by
  apply Nat.eq_of_testBit_eq
  intro i
  rw [Nat.testBit_div_two_pow, Nat.zero_testBit]
  change (setF w 32 32 0).getLsbD (i + 32) = false
  by_cases h : i + 32 < 64
  · simp [getLsbD_setF w 32 32 0 h, show i < 32 by omega]
  · exact BitVec.getLsbD_of_ge _ _ (by omega)

/-- A number below 2^lo has no bit `lo`. -/
theorem getLsbD_nw_of_lt {n lo : Nat} (h : n < 2 ^ lo) : (nw n).getLsbD lo = false := by
  simp [nw, BitVec.getLsbD_ofNat, Nat.testBit_lt_two_pow h]

/-- A search over consecutive numbers finds the first that answers. -/
theorem findSome?_rangeFrom_first {β : Type} (f : Nat → Option β) {b : β} {a i n : Nat} (hi : i < n) (hb : f (a + i) = some b)
    (hj : ∀ j, j < i → f (a + j) = none) : (rangeFrom a n).findSome? f = some b := by
  induction n generalizing a i with
  | zero => exact absurd hi (Nat.not_lt_zero i)
  | succ n ih =>
    cases i with
    | zero => simp [rangeFrom, show f a = some b from hb]
    | succ i =>
      have ha : f a = none := hj 0 (Nat.succ_pos i)
      have hn : (rangeFrom (a + 1) n).findSome? f = some b :=
        ih (Nat.lt_of_succ_lt_succ hi) (by rwa [Nat.add_assoc, Nat.add_comm 1])
          fun j hlt => by rw [Nat.add_assoc, Nat.add_comm 1]; exact hj (j + 1) (by omega)
      simp [rangeFrom, ha, hn]

end Sys2Proof

namespace Sys2Proof.Machine

open Sys2Proof.Claims

/-! Registers of a core, a cluster and a tower read back. -/

@[simp] theorem Core.creg_setCreg_self (c : Core) (n : Nat) (v : Word) : (c.setCreg n v).creg n = v := SMap.get_set_self _ _ _ _
@[simp] theorem Cluster.creg_setCreg_self (c : Cluster) (n : Nat) (v : Word) : (c.setCreg n v).creg n = v := SMap.get_set_self _ _ _ _
@[simp] theorem Tower.creg_setCreg_self (w : Tower) (n : Nat) (v : Word) : (w.setCreg n v).creg n = v := SMap.get_set_self _ _ _ _
@[simp] theorem jAt_setJ_self (c : Core) (e : Nat) (j : Option JEntry) : jAt (setJ c e j) e = j := SMap.get_set_self _ _ _ _

/-! The end of a turn. -/

@[simp] theorem finishAt_held (x : Slot) (pc : Word) : (x.finishAt pc).held = none := rfl
@[simp] theorem finishAt_deadline (x : Slot) (pc : Word) : (x.finishAt pc).deadline = none := rfl

@[simp] theorem parkTurn_pc (x : Slot) : x.parkTurn.pc = x.pc := rfl
@[simp] theorem parkTurn_st (x : Slot) : x.parkTurn.st = .parked := rfl
@[simp] theorem parkTurn_g (x : Slot) : x.parkTurn.g = x.g := rfl
@[simp] theorem parkTurn_full (x : Slot) : x.parkTurn.full = x.full := rfl
theorem parkTurn_parked (x : Slot) : x.parkTurn.creg 0x006 = x.creg 0x006 + 1#64 := SMap.get_set_self _ _ _ _
theorem parkTurn_creg (x : Slot) {n : Nat} (h : n ≠ 0x006) : x.parkTurn.creg n = x.creg n := SMap.get_set_ne _ _ _ h

/-- An instruction that completes in order jumps to the next word. -/
theorem finish_done_eq_jump (s t : State) (k : Nat) : finish s k (.done t) = finish s k (.jump t ((slotAt t k).pc + 4#64)) := rfl

/-- The end of a turn that changes the slot by `f` and sets the mark changes nothing else. -/
theorem modSlot_marked_frame (t : State) (k : Nat) (f : Slot → Slot) (m : Mark) :
    (∀ j, j ≠ k → slotAt ((modSlot t k f).marked m) j = slotAt t j) ∧
      { (modSlot t k f).marked m with slots := t.slots, mark := t.mark } = t :=
  ⟨fun _ h => slotAt_modSlot_ne t f h, rfl⟩

/-! Accesses of the control window. -/

theorem lt_length_of_arrives {s : State} {i : Nat} {m : Msg} (h : arrives s i = some m) : i < s.net.length := by
  by_contra hlt
  simp [arrives, List.getElem?_eq_none (Nat.le_of_not_lt hlt)] at h

/-- The oldest store of a value to a register is the one that its control agent takes. -/
theorem ctlStore_of_ctlStoreAt {s : State} {u n i : Nat} {v : Word} {m : Msg} (h : ctlStoreAt s u n v i m) :
    ctlStore s (blkOfUnit s u n) n (fun w => decide (w = v)) = some (i, m, v) := by
  obtain ⟨harr, hbody, hdst, hfirst⟩ := h
  apply findSome?_rangeFrom_first _ (lt_length_of_arrives harr)
  · simp [harr, hbody, hdst, ctlWritten]
  · intro j hj
    rw [Nat.zero_add]
    cases hp : arrives s j with
    | none => rfl
    | some p => simp [hfirst j p hj hp]

/-- The control agent performs a store that has arrived and acknowledges it (R338). -/
theorem windowWrite_of_ctlStoreAt {s : State} {u n i : Nat} {v : Word} {m : Msg} (h : ctlStoreAt s u n v i m) :
    windowWrite s u n v true = .next (sendMsg (writeReg (dropMsg s i) u n v) (replyTo m .storeAck)) := by
  have hack : ctlWriteAck m.body = .storeAck := by
    obtain ⟨-, hbody, -, -⟩ := h
    rw [hbody]
    rfl
  simp [windowWrite, onCtlStore, ctlStore_of_ctlStoreAt h, hack]

/-- An event that is a window write whose guard holds performs the store (log entry 69). -/
theorem writesReg_of_windowWrite {s : State} {e : Instr} {u n : Nat} {v : Word} {p : Bool} (he : exec e s = windowWrite s u n v p)
    (hp : p = true) : WritesReg s e u n v := by
  intro i m h
  rw [he, hp, windowWrite_of_ctlStoreAt h]

/-- The oldest load of a register is the one that its control agent performs (R338). -/
theorem windowRead_of_ctlLoadAt {s : State} {b n i : Nat} {m : Msg} (h : ctlLoadAt s b n i m) : windowRead s b n = ctlPerform s i m := by
  obtain ⟨v, harr, hbody, hdst, hfirst⟩ := h
  unfold windowRead
  rw [findSome?_rangeFrom_first (b := (i, m)) _ (lt_length_of_arrives harr)]
  · simp [harr, hbody, hdst]
  · intro j hj
    rw [Nat.zero_add]
    cases hp : arrives s j with
    | none => rfl
    | some p =>
      dsimp only
      split
      · next b' n' v' hb => exact absurd hb (hfirst j p b' n' v' hj hp)
      · rfl

theorem exec_controlWindowAccess {s : State} {i : Nat} {m : Msg} (h : arrives s i = some m) :
    exec (.controlWindowAccess i) s = .next (ctlPerform s i m) := by
  change execControlWindowAccess i s = _
  simp [execControlWindowAccess, h]

/-! What the writes of acting registers do. -/

theorem writeReg_pjRel (s : State) (core : Nat) (v : Word) : writeReg s core 0x14C v = pjRelWrite s core v := rfl
theorem writeReg_omuBind (s : State) (cl : Nat) (v : Word) : writeReg s cl 0x281 v = bindSet s cl v := rfl
theorem writeReg_mxGroup (s : State) (cl : Nat) (v : Word) : writeReg s cl 0x2C7 v = groupWrite s cl v := rfl
theorem writeReg_xform (s : State) (core : Nat) (v : Word) : writeReg s core 0x180 v = xformSet s core v := rfl

/-- A write to TWR_SNRn_CFG is no other tower register's. -/
theorem writeReg_rangeCfg (s : State) (t : Nat) {n : Nat} (v : Word) (h : n < 16) :
    writeReg s t (0x360 + n) v = rangeCfgWrite s t n v := by
  have hig : towerIgnores (towerAt s t) (0x360 + n) v = false := by
    unfold towerIgnores
    repeat rw [if_neg (by omega)]
  unfold writeReg
  rw [if_neg (by omega), if_neg (by omega), if_neg (by omega), if_pos (by omega), writeTower, hig, if_neg (by simp), if_neg (by omega),
    if_pos (by omega), Nat.add_sub_cancel_left]

/-- CORE_PJ_REL frees a refused entry (R122). -/
theorem jAt_pjRelWrite_refused {s : State} {core : Nat} {v : Word} {j : JEntry} (hj : jAt (coreAt s core) (bitF v 0 6) = some j)
    (hr : j.refused = true) : jAt (coreAt (pjRelWrite s core v) core) (bitF v 0 6) = none := by
  simp [pjRelWrite, hj, hr]

/-- CORE_PJ_REL leaves an entry that is not refused alone (R122). -/
theorem pjRelWrite_outstanding {s : State} {core : Nat} {v : Word} {j : JEntry} (hj : jAt (coreAt s core) (bitF v 0 6) = some j)
    (hr : j.refused = false) : pjRelWrite s core v = s := by
  simp [pjRelWrite, hj, hr]

/-- A bit-stream BASE that is bad is ignored (R202). -/
theorem writeReg_base_bad {s : State} {k n : Nat} {v : Word} (hn : n = 0x010 ∨ n = 0x012) (h : baseBad v = true) :
    writeReg s k n v = modSlot s k id := by
  have hlt : n < 0x100 := by omega
  simp [writeReg, hlt, writeThread, hn, h, modSlot]

/-- A bit-stream BASE that is taken sets its channel's position to 0 (R202). -/
theorem creg_cur_writeReg_base {s : State} {k n : Nat} {v : Word} (hn : n = 0x010 ∨ n = 0x012) (h : baseBad v = false) :
    (slotAt (writeReg s k n v) k).creg (n + 1) = 0#64 := by
  have hlt : n < 0x100 := by omega
  simp [writeReg, hlt, writeThread, hn, h]

/-- A bind of an OMU that has an owner is refused, with its bit set (R241). -/
theorem bindWrite_owned {s : State} {cl : Nat} (v : Word) (h : (clusterAt s cl).own.isSome = true) :
    bindWrite s cl v = modCluster s cl fun c => c.setCreg 0x281 (setB (c.creg 0x281) 32 true) := by
  simp [bindWrite, h]

/-- The bits of CL_OMU_BIND above its SITE field are stored as they read (R244). -/
theorem getLsbD_omuBind_refused (s : State) (cl : Nat) : (omuBind s cl).getLsbD 32 = ((clusterAt s cl).creg 0x281).getLsbD 32 := by
  have hno : clusterNo cl < 2 ^ 32 := Nat.lt_trans (Nat.mod_lt cl (by decide)) (by decide)
  rw [omuBind, BitVec.getLsbD_xor, getLsbD_nw_of_lt hno, Bool.xor_false]

theorem getLsbD_bindSet_owned {s : State} {cl : Nat} (v : Word) (h : (clusterAt s cl).own.isSome = true) :
    ((clusterAt (bindSet s cl v) cl).creg 0x281).getLsbD 32 = true := by
  have hset : ((clusterAt (bindWrite s cl v) cl).creg 0x281).getLsbD 32 = true := by
    rw [bindWrite_owned v h, clusterAt_modCluster_self, Cluster.creg_setCreg_self, getLsbD_setB_self _ _ (by decide)]
  have href : bitB (omuBind (bindWrite s cl v) cl) 32 = true := (getLsbD_omuBind_refused _ _).trans hset
  simpa only [bindSet, href, if_true] using hset

/-- A change of clusters one by one that keeps each one's registers keeps every cluster's registers. -/
theorem regs_foldl_modCluster {f : Cluster → Cluster} (hf : ∀ c, (f c).regs = c.regs) (ms : List Nat) (s : State) (cl : Nat) :
    (clusterAt (ms.foldl (fun s m => modCluster s m f) s) cl).regs = (clusterAt s cl).regs := by
  induction ms generalizing s with
  | nil => rfl
  | cons m ms ih =>
    rw [List.foldl_cons, ih]
    by_cases h : cl = m
    · rw [h, clusterAt_modCluster_self, hf]
    · rw [clusterAt_modCluster_ne _ _ h]

theorem creg_dropTimers (s : State) (a cl n : Nat) : (clusterAt (dropTimers s a) cl).creg n = (clusterAt s cl).creg n := by
  have hregs : (clusterAt (dropTimers s a) cl).regs = (clusterAt s cl).regs := by
    unfold dropTimers
    exact regs_foldl_modCluster (by intro c; rfl) _ s cl
  rw [Cluster.creg, hregs, Cluster.creg]

/-- V written 1 in CL_MX_GRP clears GPN (R264). -/
theorem toNat_gpn_groupWrite {s : State} {cl : Nat} {v : Word} (h : v.getLsbD 63 = true) :
    ((clusterAt (groupWrite s cl v) cl).creg 0x2C8).toNat / 2 ^ 32 = 0 := by
  have hv : (!bitB v 63) = false := by rw [bitB, h]; rfl
  unfold groupWrite
  rw [hv, if_neg (by decide), creg_dropTimers, clusterAt_modCluster_self]
  change ((Cluster.setCreg _ 0x2C8 _).creg 0x2C8).toNat / 2 ^ 32 = 0
  rw [Cluster.creg_setCreg_self, toNat_setF_high_zero]

/-- V written 0 to a valid range clears V (R80, R94). -/
theorem getLsbD_rangeCfgWrite_clear {s : State} {t n : Nat} {v : Word} (hv : v.getLsbD 31 = false)
    (hold : ((towerAt s t).creg (0x360 + n)).getLsbD 31 = true) :
    ((towerAt (rangeCfgWrite s t n v) t).creg (0x360 + n)).getLsbD 31 = false := by
  have hclear : rangeCfgWrite s t n v =
      modTower (clearRange s t n) t fun w => w.setCreg (0x360 + n) (setB (w.creg (0x360 + n)) 31 false) := by
    simp only [rangeCfgWrite, bitB, hold, hv, if_true, Bool.false_eq_true, if_false]
  rw [hclear, towerAt_modTower_self, Tower.creg_setCreg_self, getLsbD_setB_self _ _ (by decide)]

/-- CORE_XFORM is ignored unless slot 15 waits for work (R196). -/
theorem xformSet_not_waiting {s : State} {core : Nat} (v : Word) (h : (slotAt s (slotOf core 15)).st ≠ .waiting) : xformSet s core v = s := by
  simp [xformSet, h]

/-- CORE_XFORM set while slot 15 waits: the slot becomes the transform thread and stops (R196, R286). -/
theorem xformSet_on {s : State} {core : Nat} {v : Word} (hst : (slotAt s (slotOf core 15)).st = .waiting) (hoff : xformOn s core = false)
    (hv : v.getLsbD 0 = true) : xformOn (xformSet s core v) core = true ∧ (slotAt (xformSet s core v) (slotOf core 15)).st = .stopped := by
  have hbit : bitB v 0 = true := hv
  have hset : xformSet s core v = modSlot (modCore s core fun c => c.setCreg 0x180 (setB (c.creg 0x180) 0 true)) (slotOf core 15)
      fun x => { x.stop with dbgs := true } := by
    simp [xformSet, hst, hoff, hbit]
  rw [hset]
  constructor
  · rw [xformOn, coreAt_modSlot, coreAt_modCore_self, Core.creg_setCreg_self, bitB, getLsbD_setB_self _ _ (by decide)]
  · simp [Slot.stop]

/-- A thread register without a rule of its own takes the value field by field (R7). -/
theorem creg_writeReg_tvec (s : State) (k : Nat) (v : Word) :
    (slotAt (writeReg s k 0x084 v) k).creg 0x084 = regMerge 0x084 ((slotAt s k).creg 0x084) v := by
  simp [writeReg, writeThread]

/-! A whole field of a word, and the field below it. -/

theorem bitF_zero (v : Word) (n : Nat) : bitF v 0 n = v.toNat % 2 ^ n := by simp [bitF]

/-- The field [63:62] of a word is all that stands above bit 61. -/
theorem bitF_top (v : Word) : bitF v 62 2 = v.toNat / 2 ^ 62 := Nat.mod_eq_of_lt (by have := v.isLt; omega)

/-- A BASE with V and a LEN of 0, or that passes the end of the LM, is bad (R202). -/
theorem baseBad_of_range {v : Word} (hv : v.getLsbD 63 = true)
    (h : v.toNat / 2 ^ 20 % 2 ^ 20 = 0 ∨ 524288 < v.toNat % 2 ^ 19 + v.toNat / 2 ^ 20 % 2 ^ 20) : baseBad v = true := by
  rw [← bitF_zero] at h
  change bitF v 20 20 = 0 ∨ 524288 < bitF v 0 19 + bitF v 20 20 at h
  simpa only [baseBad, bitB, hv, Bool.true_and, Bool.or_eq_true, decide_eq_true_eq] using h

theorem baseBad_invalid {v : Word} (hv : v.getLsbD 63 = false) : baseBad v = false := by
  simp only [baseBad, bitB, hv, Bool.false_and]

end Sys2Proof.Machine

namespace Sys2Proof.Claims

open Sys2Proof.Machine

/-- Settles O14: a completion in order is a jump to the next word, and each end of a turn is one change of the slot and the mark. -/
theorem turnEnds : Obligations.TurnEnds := by
  intro s t k
  constructor
  · intro pc u hu
    have hjump : u = (modSlot t k fun x => x.finishAt pc).marked .done := by
      rcases hu with rfl | ⟨rfl, rfl⟩
      · exact finish_jump s t k pc
      · exact finish_done_eq_jump s t k
    subst hjump
    have hslot : slotAt ((modSlot t k fun x => x.finishAt pc).marked .done) k = (slotAt t k).finishAt pc := by simp
    rw [hslot]
    exact ⟨finishAt_pc _ _, finishAt_issued _ _, fun _ hn => finishAt_creg _ _ hn, finishAt_g _ _, finishAt_full _ _,
      finishAt_pois _ _, finishAt_pend _ _, finishAt_strs _ _, finishAt_mode _ _, finishAt_held _ _, finishAt_deadline _ _,
      modSlot_marked_frame t k (fun x => x.finishAt pc) .done⟩
  · rintro u rfl
    have hslot : slotAt (finish s k (.park t)) k = (slotAt t k).parkTurn := by simp [finish_park]
    rw [hslot]
    exact ⟨parkTurn_pc _, parkTurn_parked _, fun _ hn => parkTurn_creg _ hn, parkTurn_st _, parkTurn_g _, parkTurn_full _,
      modSlot_marked_frame t k Slot.parkTurn .parked⟩

/-- Settles O60: each event is a window write or read of its register, and `writeReg` sends each acting register to its own rule. -/
theorem controlRegisterStores : Obligations.ControlRegisterStores := by
  refine ⟨?access, ?ovf, ?dbg, ?inval, ?release, ?pj, ?arm, ?disarm, ?snr, ?bind, ?group, ?xform, ?sem, ?vcb, ?probe, ?base, ?link, ?dbgw,
    ?reg, ?pjFree, ?pjKeep, ?baseBad, ?baseTaken, ?bindOwned, ?groupGpn, ?snrClear, ?xformKeep, ?xformOn, creg_writeReg_tvec⟩
  case access =>
    intro i s m b n v harr
    rw [exec_controlWindowAccess harr]
    constructor <;> intro hbody <;> simp [ctlPerform, hbody, ctlWriteAck]
  case ovf => exact fun i s m core h => congrArg Host.Outcome.next (windowRead_of_ctlLoadAt h)
  case dbg => exact fun i s m core v h => congrArg Host.Outcome.next (windowRead_of_ctlLoadAt h)
  case inval => exact fun s core v h => writesReg_of_windowWrite rfl (decide_eq_true ((bitF_top v).trans h))
  case release => exact fun s core v h => writesReg_of_windowWrite rfl (decide_eq_true ((bitF_top v).trans h))
  case pj => exact fun s core v => writesReg_of_windowWrite rfl rfl
  case arm => exact fun s core v h => writesReg_of_windowWrite rfl h
  case disarm => exact fun s core v h => writesReg_of_windowWrite rfl (congrArg Bool.not h)
  case snr =>
    intro s tw n v hn hv hold
    exact writesReg_of_windowWrite rfl (by simp only [bitB, hn, hv, hold, decide_true, Bool.not_false, Bool.and_true])
  case bind => exact fun s cl v => writesReg_of_windowWrite rfl rfl
  case group => exact fun s cl v => writesReg_of_windowWrite rfl rfl
  case xform => exact fun s core v => writesReg_of_windowWrite rfl rfl
  case sem => exact fun s core n v hn => writesReg_of_windowWrite rfl (decide_eq_true hn)
  case vcb => exact fun s k v => writesReg_of_windowWrite rfl rfl
  case probe => exact fun s cl v => writesReg_of_windowWrite rfl rfl
  case base => exact fun s k v => ⟨writesReg_of_windowWrite rfl rfl, writesReg_of_windowWrite rfl rfl⟩
  case link =>
    intro s p v hp hv
    exact writesReg_of_windowWrite rfl (by simp only [bitB, hp, hv, decide_true, Bool.not_false, Bool.and_true])
  case dbgw => exact fun s core v => writesReg_of_windowWrite rfl rfl
  case reg => exact fun s b n v => writesReg_of_windowWrite rfl rfl
  case pjFree =>
    intro s core v j hj hr
    rw [writeReg_pjRel]
    exact bitF_zero v 6 ▸ jAt_pjRelWrite_refused (bitF_zero v 6 ▸ hj) hr
  case pjKeep => exact fun s core v j hj hr => (writeReg_pjRel s core v).trans (pjRelWrite_outstanding (bitF_zero v 6 ▸ hj) hr)
  case baseBad =>
    exact fun s k v hv h => ⟨writeReg_base_bad (.inl rfl) (baseBad_of_range hv h), writeReg_base_bad (.inr rfl) (baseBad_of_range hv h)⟩
  case baseTaken => exact fun s k v hv => creg_cur_writeReg_base (.inl rfl) (baseBad_invalid hv)
  case bindOwned => exact fun s cl v h => writeReg_omuBind s cl v ▸ getLsbD_bindSet_owned v h
  case groupGpn => exact fun s cl v h => writeReg_mxGroup s cl v ▸ toNat_gpn_groupWrite h
  case snrClear => exact fun s tw n v hn hv hold => writeReg_rangeCfg s tw v hn ▸ getLsbD_rangeCfgWrite_clear hv hold
  case xformKeep => exact fun s core v h => (writeReg_xform s core v).trans (xformSet_not_waiting v h)
  case xformOn => exact fun s core v hst hoff hv => writeReg_xform s core v ▸ xformSet_on hst hoff hv

end Sys2Proof.Claims
end

section
/-! Words and forms: the decoder, the encoder, the checks of a turn and the register file. First the laws of joined bit fields and of the
decoder's rows, then the statements that rest on them. -/

namespace Sys2Proof

/-! Joined bit fields. `no_index` lets a lemma find a join whose width is written as one number. -/

/-- A join is a vector when its parts are the vector's high and low bits. -/
theorem append_eq_iff {n m : Nat} {x : BitVec n} {y : BitVec m} {z : BitVec (n + m)} :
    @Eq (no_index (BitVec (n + m))) (@HAppend.hAppend _ _ (no_index (BitVec (n + m))) _ x y) z ↔
      x = z.extractLsb' m n ∧ y = z.extractLsb' 0 m := by
  constructor
  · rintro rfl
    exact ⟨BitVec.extractLsb'_append_eq_left.symm, BitVec.extractLsb'_append_eq_right.symm⟩
  · rintro ⟨rfl, rfl⟩
    exact BitVec.extractLsb'_append_extractLsb'

/-- A field inside the low part of a join. -/
theorem extractLsb'_append_low {n m l k : Nat} {x : BitVec n} {y : BitVec m} (h : l + k ≤ m) :
    BitVec.extractLsb' l k (@HAppend.hAppend _ _ (no_index (BitVec (n + m))) _ x y) = y.extractLsb' l k :=
  BitVec.extractLsb'_append_eq_of_add_le h

/-- A field inside the high part of a join. -/
theorem extractLsb'_append_high {n m l k : Nat} {x : BitVec n} {y : BitVec m} (h : m ≤ l) :
    BitVec.extractLsb' l k (@HAppend.hAppend _ _ (no_index (BitVec (n + m))) _ x y) = x.extractLsb' (l - m) k :=
  BitVec.extractLsb'_append_eq_of_le h

/-- A field of a field. -/
theorem extractLsb'_extractLsb' {w l n k m : Nat} (x : BitVec w) (h : k + m ≤ n) :
    (x.extractLsb' l n).extractLsb' k m = x.extractLsb' (l + k) m := by
  apply BitVec.eq_of_getLsbD_eq
  intro i hi
  have hkn : k + i < n := by omega
  simp only [BitVec.getLsbD_extractLsb', hi, hkn, decide_true, Bool.true_and, Nat.add_assoc]

/-- A field of one bit. -/
theorem ofBool_eq_extractLsb' {w l : Nat} {b : Bool} {x : BitVec w} : BitVec.ofBool b = x.extractLsb' l 1 ↔ b = x.getLsbD l := by
  rw [BitVec.getLsbD_eq_extractLsb']
  generalize x.extractLsb' l 1 = y
  revert b y
  decide

/-! A word is built by a format from exactly its own fields (R12). -/

section
variable {w : BitVec 32} {op : BitVec 7} {d a b : BitVec 5} {t : Bool} {fn : BitVec 9} {imm : BitVec 14} {seg cc : BitVec 3}
  {o11 : BitVec 11} {o12 : BitVec 12} {o20 : BitVec 20}

theorem rWord_eq_iff :
    rWord op d a b t fn = w ↔ op = fOp w ∧ d = fD w ∧ a = fA w ∧ b = fB w ∧ t = fT9 w ∧ fn = fFn9 w := by
  simp [rWord, fOp, fD, fA, fB, fT9, fFn9, append_eq_iff, extractLsb'_extractLsb', ofBool_eq_extractLsb', and_assoc]

theorem iWord_eq_iff : iWord op d a t imm = w ↔ op = fOp w ∧ d = fD w ∧ a = fA w ∧ t = fT14 w ∧ imm = fImm14 w := by
  simp [iWord, fOp, fD, fA, fT14, fImm14, append_eq_iff, extractLsb'_extractLsb', ofBool_eq_extractLsb', and_assoc]

theorem mWord_eq_iff :
    mWord op d a t seg o11 = w ↔ op = fOp w ∧ d = fD w ∧ a = fA w ∧ t = fT14 w ∧ seg = fSeg w ∧ o11 = fOff11 w := by
  simp [mWord, fOp, fD, fA, fT14, fSeg, fOff11, append_eq_iff, extractLsb'_extractLsb', ofBool_eq_extractLsb', and_assoc]

theorem bWord_eq_iff : bWord op a b cc o12 = w ↔ op = fOp w ∧ a = fD w ∧ b = fA w ∧ cc = fCond w ∧ o12 = fOff12 w := by
  simp [bWord, fOp, fD, fA, fCond, fOff12, append_eq_iff, extractLsb'_extractLsb', and_assoc]

theorem jWord_eq_iff : jWord op d o20 = w ↔ op = fOp w ∧ d = fD w ∧ o20 = fOff20 w := by
  simp [jWord, fOp, fD, fOff20, append_eq_iff, extractLsb'_extractLsb', and_assoc]

theorem fOp_eq_of_toNat {n : Nat} (h : (fOp w).toNat = n) : fOp w = BitVec.ofNat 7 n := by
  rw [← h, BitVec.ofNat_toNat, BitVec.setWidth_eq]

end

/-! The rows of a decoder: the decoder of an opcode is a chain of rows, each a condition and the form that it answers. -/

/-- What the decoder of an assigned opcode may answer: a form with a property, or a refusal as reserved (R16). -/
inductive Answers (P : Instr → Prop) : Except DecodeError Instr → Prop
  | form {i : Instr} (h : P i) : Answers P (.ok i)
  | reserved : Answers P (.error .reserved)

/-- One row: its form has the property under its condition, and so have the forms of the later rows. The row's decidability is implicit here and
in `row_eq_ok`, so that unification finds it when it unfolds a decoder. -/
theorem Answers.row {P : Instr → Prop} {c : Prop} {_ : Decidable c} {i : Instr} {r : Except DecodeError Instr} (hi : c → P i)
    (hr : Answers P r) : Answers P (if c then .ok i else r) := by
  split
  · next hc => exact .form (hi hc)
  · exact hr

/-- A chain of rows answers a form when its first row does, or when that row's condition fails and the later rows answer it. -/
theorem row_eq_ok {c : Prop} {_ : Decidable c} {i j : Instr} {r : Except DecodeError Instr} (h : c ∧ i = j ∨ ¬ c ∧ r = .ok j) :
    (if c then .ok i else r) = .ok j := by
  rcases h with ⟨hc, rfl⟩ | ⟨hc, hr⟩
  · exact if_pos hc
  · exact (if_neg hc).trans hr

/-- The opcodes that R16 leaves unassigned. -/
def unassignedOp (n : Nat) : Prop := n = 0x00 ∨ n = 0x2E ∨ n = 0x2F ∨ n = 0x4F ∨ (0x54 ≤ n ∧ n ≤ 0x57) ∨ 0x68 ≤ n

/-- No row of `decodeWord` has an unassigned opcode. -/
theorem decodeWord_of_unassigned {w : BitVec 32} (h : unassignedOp (fOp w).toNat) : decodeWord w = .error .illegal := by
  unfold unassignedOp at h
  fun_cases decodeWord w
  case case97 => rfl
  all_goals omega

/-- A word of an assigned opcode is the encoding of the form that it decodes to. One case for each opcode of `decodeWord`, and in it one goal for each
row: its condition gives the bits that the form leaves out. -/
theorem answers_encode {w : BitVec 32} (h : ¬ unassignedOp (fOp w).toNat) : Answers (fun i => encode i = some w) (decodeWord w) := by
  unfold unassignedOp at h
  fun_cases decodeWord w
  case case97 =>
    simp only [imp_false] at *
    omega
  all_goals
    clear h
    next hn =>
    have hop := fOp_eq_of_toNat hn
    repeat' refine Answers.row (fun hc => ?_) ?_
    all_goals first | exact .reserved | refine .form ?_ | skip
    all_goals simp [*, encode, rWord_eq_iff, iWord_eq_iff, mWord_eq_iff, bWord_eq_iff, jWord_eq_iff, append_eq_iff, extractLsb'_extractLsb',
      ofBool_eq_extractLsb', extractLsb'_append_low, extractLsb'_append_high]

/-- A form that is answered is well formed: the row's condition restricts its operands (R19). -/
theorem answers_wf (w : BitVec 32) : decodeWord w = .error .illegal ∨ Answers (fun i => i.wf = true) (decodeWord w) := by
  fun_cases decodeWord w
  case case97 => exact .inl rfl
  all_goals
    refine .inr ?_
    repeat' refine Answers.row (fun hc => ?_) ?_
    all_goals first | exact .reserved | refine .form ?_ | skip
    all_goals simp [*, Instr.wf, -BitVec.extractLsb'_toNat]

/-- A word is illegal when its opcode is unassigned, and then only (R16). -/
theorem decodeWord_illegal_iff (w : BitVec 32) : decodeWord w = .error .illegal ↔ unassignedOp (fOp w).toNat := by
  refine ⟨fun h => ?_, decodeWord_of_unassigned⟩
  by_contra hop
  have hans := answers_encode hop
  rw [h] at hans
  cases hans

/-- A word is never too short: `DecodeError.short` is for bytes. -/
theorem decodeWord_ne_short (w : BitVec 32) : decodeWord w ≠ .error .short := by
  intro h
  rcases answers_wf w with hill | hans
  · rw [h] at hill
    cases hill
  · rw [h] at hans
    cases hans

theorem encode_of_decodeWord {w : BitVec 32} {i : Instr} (h : decodeWord w = .ok i) : encode i = some w := by
  have hill : decodeWord w ≠ .error .illegal := by simp [h]
  have hans := answers_encode (mt (decodeWord_illegal_iff w).2 hill)
  rw [h] at hans
  cases hans with
  | form henc => exact henc

theorem wf_of_decodeWord {w : BitVec 32} {i : Instr} (h : decodeWord w = .ok i) : i.wf = true := by
  rcases answers_wf w with hill | hans
  · rw [h] at hill
    cases hill
  · rw [h] at hans
    cases hans with
    | form hwf => exact hwf

/-- The encoding of a well-formed form decodes to it. One case for each form: its word has the opcode of the form's decoder, and of that
decoder's rows the form's own is the first whose condition the word's fields meet. -/
theorem decodeWord_of_encode {i : Instr} {w : BitVec 32} (hwf : i.wf = true) (henc : encode i = some w) : decodeWord w = .ok i := by
  cases i
  -- an event has no word
  all_goals try (cases henc; done)
  all_goals
    have hw := Option.some.inj henc
    have hop := congrArg fOp hw
    simp only [fOp_rWord, fOp_iWord, fOp_mWord, fOp_bWord, fOp_jWord] at hop
    unfold decodeWord
    rewrite [← hop]
    subst hw
    -- the opcode has several rows, or one without a condition
    first | refine row_eq_ok ?_ | refine congrArg Except.ok ?_
  -- the forms with an operand of one bit: both of its values
  case amoAdd w | amoAnd w | amoOr w | amoXor w | amoMin w | amoMax w | amoMinn w | amoMaxn w | amoSwap w | cas w | clock w | mphld w =>
    cases w <;> simp
  -- the forms with an operand of restricted values: that it is well formed is the row's condition (R19)
  case sext | zext | fence | fencex | xset | mset | cget | cput =>
    simpa [Instr.wf, append_eq_iff, extractLsb'_append_low, extractLsb'_append_high] using hwf
  all_goals simp [append_eq_iff, extractLsb'_append_low, extractLsb'_append_high]

end Sys2Proof

namespace Sys2Proof.Machine

/-! The checks of R17, and the evaluation of a word that passes them. -/

section
variable {s : State} {k c : Nat} {w : BitVec 32} {i : Instr} {run : Instr → State → Out}

theorem gate_illegal (h : decodeWord w = .error .illegal) : gate s k w = .error 0x01 := by
  simp [gate, h]

theorem gate_reserved (h : decodeWord w = .error .reserved) : gate s k w = .error 0x02 := by
  simp [gate, h]

/-- A privileged form in user mode (R20). -/
theorem gate_privileged (h : decodeWord w = .ok i) (hp : privWord w = true) (hm : (slotAt s k).mode = .user) : gate s k w = .error 0x03 := by
  simp [gate, h, hp, hm]

/-- A transform form outside the transform slot (R196). -/
theorem gate_transform (h : decodeWord w = .ok i) (hp : privWord w = false) (hx : xformWord w = true)
    (hno : ¬ (slotNo k = 15 ∧ xformOn s (coreOf k) = true)) : gate s k w = .error 0x05 := by
  simp [gate, h, hp, hx, hno]

/-- A vector form of a slot that is not pinned (R293). -/
theorem gate_vector (h : decodeWord w = .ok i) (hp : privWord w = false) (hx : xformWord w = false) (hv : pinWord w = true)
    (hno : (coreAt s (coreOf k)).pin ≠ some k) : gate s k w = .error 0x04 := by
  simp [gate, h, hp, hx, hv, hno]

/-- A form in its place passes every check. -/
theorem gate_ok (h : decodeWord w = .ok i) (hp : privWord w = true → (slotAt s k).mode = .supervisor)
    (hx : xformWord w = true → slotNo k = 15 ∧ xformOn s (coreOf k) = true)
    (hv : pinWord w = true → (coreAt s (coreOf k)).pin = some k) : gate s k w = .ok i := by
  have hp' : (privWord w && decide ((slotAt s k).mode = .user)) = false := by
    cases hw : privWord w
    · rfl
    · simp [hp hw]
  have hx' : (xformWord w && !(decide (slotNo k = 15) && xformOn s (coreOf k))) = false := by
    cases hw : xformWord w
    · rfl
    · simp [hx hw]
  have hv' : (pinWord w && decide ((coreAt s (coreOf k)).pin ≠ some k)) = false := by
    cases hw : pinWord w
    · rfl
    · simp [hv hw]
  simp only [gate, h, hp', hx', hv', Bool.false_eq_true, if_false]

/-- A word that fails a check traps with the word, zero-extended (R17). -/
theorem runOne_of_gate_error (h : gate s k w = .error c) : runOne run s k w = .next (trapNow s k c (w.setWidth 64)) := by
  simp [runOne, h, finish_trap]

/-- A word that passes evaluates its instruction, when no acquire holds its access back. -/
theorem runOne_of_gate_ok (h : gate s k w = .ok i) (ha : accessWord w = true → acquireHolds s k = false) :
    runOne run s k w = run i { s with cur := k } := by
  have ha' : (accessWord w && acquireHolds s k) = false := by
    cases hw : accessWord w
    · rfl
    · exact ha hw
  simp [runOne, h, ha']

/-- No vector form is privileged, and none is a transform form: their opcodes lie apart. -/
theorem not_privWord_of_pinWord (h : pinWord w = true) : privWord w = false ∧ xformWord w = false := by
  simp only [pinWord, Bool.and_eq_true, decide_eq_true_eq] at h
  constructor
  · simp only [privWord, Bool.or_eq_false_iff, Bool.and_eq_false_iff, decide_eq_false_iff_not]
    omega
  · simp only [xformWord, Bool.and_eq_false_iff, decide_eq_false_iff_not]
    omega

/-- The privileged forms are those of R20's list. -/
theorem privWord_iff : privWord w = true ↔
    ((fOp w).toNat ∈ [0x5B, 0x5C, 0x5F, 0x60, 0x61, 0x62, 0x63, 0x64, 0x65, 0x66, 0x67, 0x4B]
      ∨ ((fOp w).toNat = 0x58 ∧ (fFn9 w = 2#9 ∨ fFn9 w = 3#9))
      ∨ (((fOp w).toNat = 0x59 ∨ (fOp w).toNat = 0x5A) ∧ privReg (fImm14 w).toNat = true)) := by
  have hlist : ((((fOp w).toNat = 0x5B ∨ (fOp w).toNat = 0x5C) ∨ 0x5F ≤ (fOp w).toNat ∧ (fOp w).toNat ≤ 0x67) ∨ (fOp w).toNat = 0x4B) ↔
      (fOp w).toNat ∈ [0x5B, 0x5C, 0x5F, 0x60, 0x61, 0x62, 0x63, 0x64, 0x65, 0x66, 0x67, 0x4B] := by
    simp only [List.mem_cons, List.not_mem_nil, or_false]
    omega
  simp only [privWord, Bool.or_eq_true, Bool.and_eq_true, decide_eq_true_eq]
  rw [hlist, or_assoc]

/-- Holding a word leaves the slot's mode alone. -/
@[simp] theorem holdWord_mode (s : State) (k : Nat) (w : BitVec 32) : (slotAt (holdWord s k w) k).mode = (slotAt s k).mode := by
  simp [holdWord]

/-- The slot's fetch answers the bytes of its own LM at the PC, lowest address first (R12). -/
theorem fetchWord_ownLm {la pa off : Nat} {acc : Acc} {t : State} {bs : List Byte} (hh : (slotAt s k).held = none)
    (ha : fetchAddr s k = .ok la pa acc) (ho : ownLm s (coreOf k) pa = .own off) (hr : lmRead s (coreOf k) off 4 = .ok t bs) :
    fetchWord s k = .word (BitVec.ofNat 32 (leNat bs)) := by
  simp [fetchWord, hh, ha, ho, hr]

/-- The turn of a slot outside any lockstep evaluates the word at its PC, which is held for it. -/
theorem evalTurn_alone (hw : fetchWord s k = .word w) (hf : followers s k = []) :
    evalTurn run s k = runOne run (holdWord s k w) k w := by
  simp [evalTurn, hw, hf]

/-- A turn that was not empty as the cycle began is the evaluation's. -/
theorem takeTurn_of_not_mem (h : s.cur ∉ s.empties) : takeTurn run s = evalTurn run s s.cur := by
  have hc : s.empties.contains s.cur = false := by simpa using h
  unfold takeTurn
  rw [hc]
  cases evalTurn run s s.cur <;> rfl

/-- An evaluation that parks stands, whatever the slot's turn was. -/
theorem takeTurn_of_parked {t : State} (he : evalTurn run s s.cur = .next t) (hm : t.mark = .parked) : takeTurn run s = .next t := by
  simp [takeTurn, he, hm]

/-- A slot alone that was parked as the cycle began, and whose instruction would go on now, stays parked through this turn (R284). -/
theorem takeTurn_of_empty {t : State} (h : s.cur ∈ s.empties) (he : evalTurn run s s.cur = .next t) (hm : t.mark ≠ .parked)
    (hf : followers s s.cur = []) (hst : (slotAt s s.cur).st = .parked) : takeTurn run s = .next (finish s s.cur (.park s)) := by
  simp [takeTurn, he, hm, h, hf, parkMember, hst]

/-- At a turn the current slot takes it. -/
theorem step_at_turn (hoff : s.modul.off = false) (hb : bootFailed s = false) (ht : s.turn = true) :
    step s = afterStep (takeTurn exec { s with turn := false }) := by
  simp [step, hoff, hb, ht]

end

/-! The register file (R181). -/

/-- A vector of one bit. -/
theorem getLsbD_bit {i : Nat} (j : Nat) (h : i < 32) : (1#32 <<< i).getLsbD j = decide (j = i) := by
  rw [← BitVec.twoPow_eq, BitVec.getLsbD_twoPow, decide_eq_true h, Bool.true_and, decide_eq_decide, eq_comm]

theorem bitOf_bitSet (b : BitVec 32) {i : Nat} (j : Nat) (h : i < 32) : bitOf (bitSet b i) j = (decide (j = i) || bitOf b j) := by
  rw [bitOf, bitSet, BitVec.getLsbD_or, getLsbD_bit j h, Bool.or_comm, bitOf]

theorem bitOf_bitClr (b : BitVec 32) {i : Nat} (j : Nat) (h : i < 32) : bitOf (bitClr b i) j = (!decide (j = i) && bitOf b j) := by
  rw [bitOf, bitClr, BitVec.getLsbD_and, BitVec.getLsbD_not, getLsbD_bit j h, Bool.and_comm]
  by_cases hj : j < 32
  · simp [hj, bitOf]
  · simp [BitVec.getLsbD_of_ge b j (by omega), bitOf]

/-- A write clears the poison of its register and of no other. -/
theorem Slot.bitOf_pois_setReg (x : Slot) {r : Nat} (q : Nat) (v : Word) (h0 : r ≠ 0) (h : r < 32) :
    bitOf (x.setReg r v).pois q = (!decide (q = r) && bitOf x.pois q) := by
  simp [Slot.setReg, h0, bitOf_bitClr, h]

/-- A write sets its register full, and no other. -/
theorem Slot.bitOf_full_setReg (x : Slot) {r : Nat} (q : Nat) (v : Word) (h0 : r ≠ 0) (h : r < 32) :
    bitOf (x.setReg r v).full q = (decide (q = r) || bitOf x.full q) := by
  simp [Slot.setReg, h0, bitOf_bitSet, h]

/-- A take clears the full bit of its register and of no other. -/
theorem Slot.bitOf_full_take (x : Slot) {r : Nat} (q : Nat) (h0 : r ≠ 0) (h : r < 32) :
    bitOf (x.take r).full q = (!decide (q = r) && bitOf x.full q) := by
  simp [Slot.take, h0, bitOf_bitClr, h]

/-- A register that awaits its reply is empty and pending (R182). -/
theorem Slot.pending_bits (x : Slot) {r : Nat} (h0 : r ≠ 0) (h : r < 32) :
    bitOf (x.pending r).full r = false ∧ bitOf (x.pending r).pend r = true := by
  simp [Slot.pending, h0, bitOf_bitClr, bitOf_bitSet, h]

end Sys2Proof.Machine

namespace Sys2Proof.Claims

open Sys2Proof.Machine

/-- Settles O1: each example word is its form's encoding, by evaluation, and so decodes to it. -/
theorem exampleWordsDecode : Obligations.ExampleWordsDecode := by
  intro p hp
  have henc : ∀ p ∈ exampleWords, encode p.2 = some p.1 ∧ p.2.wf = true := by decide
  obtain ⟨he, hwf⟩ := henc p hp
  exact ⟨decodeWord_of_encode hwf he, he⟩

/-- Settles O2: the form's row is the first of its decoder that its word meets. -/
theorem decodeOfEncode : Obligations.DecodeOfEncode := fun _ _ hwf henc => decodeWord_of_encode hwf henc

/-- Settles O3: what the rows of every opcode answer is a well-formed form that the word encodes. -/
theorem encodeOfDecode : Obligations.EncodeOfDecode := fun _ _ h => ⟨encode_of_decodeWord h, wf_of_decodeWord h⟩

/-- Settles O4: `decodeWord` answers illegal for the unassigned opcodes only, and the first check of a turn traps on either refusal. -/
theorem undecodableWordsTrap : Obligations.UndecodableWordsTrap :=
  ⟨decodeWord_illegal_iff, decodeWord_ne_short, fun _ _ _ h => runOne_of_gate_error (gate_illegal h),
    fun _ _ _ h => runOne_of_gate_error (gate_reserved h)⟩

/-- Settles O5: the checks stand in the order privileged, transform, vector, and a vector form is of neither kind before it. -/
theorem formsOutOfPlaceTrap : Obligations.FormsOutOfPlaceTrap := by
  refine ⟨?privileged, fun _ => privWord_iff, ?transform, ?vector⟩
  case privileged => exact fun s k w i h hp hm => runOne_of_gate_error (gate_privileged h hp hm)
  case transform => exact fun s k w i h hp hx hno => runOne_of_gate_error (gate_transform h hp hx hno)
  case vector =>
    intro s k w i h hv hno
    obtain ⟨hp, hx⟩ := not_privWord_of_pinWord hv
    exact runOne_of_gate_error (gate_vector h hp hx hv hno)

/-- Settles O6: the fetch, then the evaluation of a form in its place, and the turn's three ends. -/
theorem stepRunsTheDecodedInstruction : Obligations.StepRunsTheDecodedInstruction := by
  refine ⟨fun s k la pa acc off t bs hh ha ho hr => fetchWord_ownLm hh ha ho hr, ?_⟩
  intro s w i hoff hb ht hw hf hd hp hx hv ha
  have hgate : gate (holdWord { s with turn := false } s.cur w) s.cur w = .ok i :=
    gate_ok hd (fun h => (holdWord_mode _ _ _).trans (hp h)) hx hv
  have heval : evalTurn exec { s with turn := false } s.cur = exec i (holdWord { s with turn := false } s.cur w) :=
    (evalTurn_alone hw hf).trans (runOne_of_gate_ok hgate ha)
  have hstep := step_at_turn hoff hb ht
  refine ⟨fun hne => ?_, fun t hempty ht' => ⟨fun hm => ?_, fun hm hst => ?_⟩⟩
  · exact hstep.trans (congrArg afterStep ((takeTurn_of_not_mem (s := { s with turn := false }) hne).trans heval))
  · exact hstep.trans (congrArg afterStep (takeTurn_of_parked (heval.trans ht') hm))
  · exact hstep.trans (congrArg afterStep (takeTurn_of_empty hempty (heval.trans ht') hm hf hst))

/-- Settles O11: g0 by evaluation, and for another register the bits of its write, take and pending mark. -/
theorem registerFile : Obligations.RegisterFile := by
  refine ⟨fun x v => ⟨rfl, rfl, rfl, rfl, rfl, rfl⟩, ?write, ?take⟩
  case write =>
    intro x r v h0 h
    refine ⟨x.reg_setReg_self v h0, ?_, ?_, fun q hq => x.reg_setReg_ne v hq, fun q hq _ => ⟨?_, ?_⟩, ?_, ?_, ?_⟩
    all_goals simp [Slot.bitOf_full_setReg, Slot.bitOf_pois_setReg, *]
  case take =>
    intro x r h0 h
    obtain ⟨hempty, hpend⟩ := x.pending_bits h0 h
    refine ⟨?_, x.take_g r, fun q hq _ => ?_, hempty, hpend, x.pending_g r⟩
    all_goals simp [Slot.bitOf_full_take, *]

end Sys2Proof.Claims
end

section
/-! Translation and migration. The laws of walks at a port (R57 to R61), of a question that one agent answers (R10, R63), of flushing (R63, R64) and
of a page's migration (R69 to R71), each about one function of the model; then the statement that is assembled from them. -/

namespace Sys2Proof.Machine

open Sys2Proof.Claims

/-- A field that ends at bit 63 is all that stands above its low end. -/
theorem bitF_high (v : Word) {lo n : Nat} (h : lo + n = 64) : bitF v lo n = v.toNat / 2 ^ lo := by
  have hlt : v.toNat < 2 ^ lo * 2 ^ n := by
    rw [← Nat.pow_add, h]
    exact v.isLt
  exact Nat.mod_eq_of_lt (Nat.div_lt_of_lt_mul hlt)

@[simp] theorem val_zero (v : Word) (vs : List Word) : val (v :: vs) 0 = v := rfl
@[simp] theorem val_one (v w : Word) (vs : List Word) : val (v :: w :: vs) 1 = w := rfl

@[simp] theorem popped_cur (s : State) (y : Slot) : (popped s y).cur = s.cur := rfl
@[simp] theorem coreAt_popped (s : State) (y : Slot) (c : Nat) : coreAt (popped s y) c = coreAt s c := rfl
@[simp] theorem slotAt_popped (s : State) (y : Slot) : slotAt (popped s y) s.cur = y := slotAt_setSlot_self s s.cur y

/-! The end of a turn whose operands have been read. -/

/-- The turn of slot `cur` ends with `r`, and one that parks or traps has popped nothing (R10). -/
def endsAs (s : State) (r : Res) : Out := .next (finish s s.cur (r.keepStreams s.cur (slotAt s s.cur)))

theorem endsAs_park (s t : State) : endsAs s (.park t) = parks s (keptStreams s t) := rfl

theorem completes_of_migStatus {s t : State} {d a : GReg} {tk : Bool} {n : Nat} {r : Res} (h : r = migStatus d a tk t n) :
    endsAs s r = completes s (wrote t d a tk (nw n)) := congrArg (endsAs s) h

theorem traps_of_trapAt {s t : State} {c : Nat} {v : Word} {r : Res} (h : r = .trapAt t c v) :
    endsAs s r = .next (trapNow (keptStreams s t) s.cur c v) := congrArg (endsAs s) h

/-- The common frame of a form whose operands are read. -/
theorem next_withOps {s : State} {srcs : List GReg} {dst : Option GReg} {reply : Bool} {vs : List Word} {y : Slot}
    (h : Reads s srcs dst vs y reply) (body : State → List Word → Res) :
    Host.Outcome.next (withOps s srcs dst reply body) = endsAs s (body (popped s y) vs) :=
  congrArg Host.Outcome.next (withOps_ok h)

@[simp] theorem parkTurn_trip (x : Slot) : x.parkTurn.trip = x.trip := rfl

/-! Wakes and walks (R57 to R61). -/

theorem slotAt_wake_of_parked {s : State} {k : Nat} (h : (slotAt s k).st = .parked) :
    slotAt (wake s k) k = { slotAt s k with st := .ready } := by
  simp [wake, h]

@[simp] theorem clusterAt_wake (s : State) (k c : Nat) : clusterAt (wake s k) c = clusterAt s c := rfl

@[simp] theorem slotAt_dropWalk (s : State) (cl i k : Nat) : slotAt (dropWalk s cl i) k = slotAt s k := rfl
@[simp] theorem slotAt_walkFailed (s : State) (cl k : Nat) : slotAt (walkFailed s cl) k = slotAt s k := rfl

theorem creg_dropWalk (s : State) (cl i n : Nat) : (clusterAt (dropWalk s cl i) cl).creg n = (clusterAt s cl).creg n := by
  rw [dropWalk, clusterAt_modCluster_self]
  rfl

theorem creg_walkFailed (s : State) (cl : Nat) :
    (clusterAt (walkFailed s cl) cl).creg 0x252 = addF ((clusterAt s cl).creg 0x252) 32 32 1 := by
  rw [walkFailed, clusterAt_modCluster_self, Cluster.creg_setCreg_self]

section
variable {s u : State} {cl i k : Nat} {w : Walk}

/-- A slot that still waits for a walk that fails takes its cause and wakes (R59, R60). -/
theorem walkFault_slot (e : WalkEnd) (c : Nat) (hw : w.who = .slot k) (hst : (slotAt s k).st = .parked) (ha : (slotAt s k).asid = w.asid) :
    walkFault s cl i w e c =
      wake (modSlot (dropWalk (walkFailed s cl) cl i) k fun x => { x with wfault := some (w.la, c, nw w.la) }) k := by
  simp [walkFault, hw, hst, ha]

/-- What the slot and the port's count read after such a walk. -/
theorem walkFault_slot_effect (e : WalkEnd) (c : Nat) (hw : w.who = .slot k) (hst : (slotAt s k).st = .parked)
    (ha : (slotAt s k).asid = w.asid) :
    (slotAt (walkFault s cl i w e c) k).wfault = some (w.la, c, nw w.la) ∧ (slotAt (walkFault s cl i w e c) k).st = .ready ∧
      (clusterAt (walkFault s cl i w e c) cl).creg 0x252 = addF ((clusterAt s cl).creg 0x252) 32 32 1 := by
  rw [walkFault_slot e c hw hst ha, slotAt_wake_of_parked (by simpa using hst)]
  refine ⟨by simp, rfl, ?_⟩
  rw [clusterAt_wake, clusterAt_modSlot, creg_dropWalk, creg_walkFailed]

/-- A translation whose leaf does not read MIG = 2 adds its TLB entry and wakes its slot (R61). -/
theorem endWalk_leaf_slot {e : Word} (pa lvl : Nat) (hw : w.who = .slot k) (h : pteMig e ≠ 2) :
    endWalk s cl i w (.leaf pa lvl e) =
      wake (modCluster (dropWalk s cl i) cl fun c => tlbInsert c (leafEntry s w.asid w.la lvl e)) k := by
  simp [endWalk, walkLeaf, hw, h]

/-- A translation whose leaf reads MIG = 2 reads it again (R59). -/
theorem endWalk_leaf_held {e : Word} (pa lvl : Nat) (hw : w.who = .slot k) (h : pteMig e = 2) :
    endWalk s cl i w (.leaf pa lvl e) = setWalk s cl i { w with leaf := some (pa, lvl) } := by
  simp [endWalk, walkLeaf, hw, h]

/-- `pmig` and `pmigsw` take the leaf itself (R69). -/
theorem endWalk_leaf_page (pa lvl : Nat) (e : Word) (hw : w.who = .page k) :
    endWalk s cl i w (.leaf pa lvl e) = wake (setWalk s cl i { w with res := some (.leaf pa lvl e) }) k := by
  simp [endWalk, walkLeaf, hw]

section
variable (hi : (clusterAt s cl).walks[i]? = some w) (hl : w.leaf = none) (hr : w.res = none)
include hi hl hr

theorem exec_pageWalk_next {p : Nat × Nat} (h : walkNext s cl w = .next u p) :
    exec (.pageWalk cl i) s = .next (setWalk u cl i { w with next := some p }) := by
  change execPageWalk cl i s = _
  simp [execPageWalk, hi, hl, hr, h]

theorem exec_pageWalk_ended {e : WalkEnd} (h : walkNext s cl w = .ended u e) :
    exec (.pageWalk cl i) s = .next (endWalk u cl i w e) := by
  change execPageWalk cl i s = _
  simp [execPageWalk, hi, hl, hr, h]

end

/-- A walk that read MIG = 2 and finds a leaf again ends with it (R59). -/
theorem exec_walkMigReread_leaf {pa lvl : Nat} {bs : List Byte} (hi : (clusterAt s cl).walks[i]? = some w) (hl : w.leaf = some (pa, lvl))
    (hb : homeRead s pa 8 Acc.direct = .ok u bs)
    (hc : checkPte u (((asEntry (clusterAt s cl) w.asid).map Prod.fst).getD true) lvl (leWord bs) = .leaf) :
    exec (.walkMigReread cl i) s = .next (endWalk u cl i w (.leaf pa lvl (leWord bs))) := by
  change execWalkMigReread cl i s = _
  simp only [execWalkMigReread, hi, hl, hb, hc]

/-- A walk goes on with the table that an entry above level 0 points at (R57). -/
theorem walkEntry_table {pinned : Bool} {la l table a pa : Nat} {bs : List Byte} (hpa : pa = table + 8 * (la / 2 ^ lvlShift l % lvlEntries l))
    (hp : populatedAt s pa = true) (hb : homeRead s pa 8 Acc.direct = .ok u bs) (hc : checkPte u pinned l (leWord bs) = .table a) (hl : l ≠ 0) :
    walkEntry s pinned la l table = .next u (l - 1, a) := by
  subst hpa
  simp only [walkEntry, hp, hb, hc, hl, Bool.not_true, Bool.false_eq_true, if_false]

/-- A walk that has not started reads level 3 at its address space's root (R56). -/
theorem walkNext_start {pinned : Bool} {root : Nat} (ha : asEntry (clusterAt s cl) w.asid = some (pinned, root)) (hn : w.next = none) :
    walkNext s cl w = walkEntry s pinned w.la 3 root := by
  simp only [walkNext, ha, hn, Option.getD_none]

end

/-- The cause of a failed walk is that of its address space's entry, and a pinned one's without an entry (R56, R60). -/
theorem walkCause_clauses (c : Cluster) (asid root : Nat) : (asEntry c asid = some (false, root) → walkCause c asid = 0x13) ∧
    (asEntry c asid = some (true, root) → walkCause c asid = 0x14) ∧ (asEntry c asid = none → walkCause c asid = 0x14) :=
  ⟨fun h => by rw [walkCause, h], fun h => by rw [walkCause, h], fun h => by rw [walkCause, h]⟩

/-! Questions (R10, R300). -/

@[simp] theorem slotAt_takeFresh (s : State) (k : Nat) : slotAt (takeFresh s).2 k = slotAt s k := rfl
@[simp] theorem coreAt_takeFresh (s : State) (c : Nat) : coreAt (takeFresh s).2 c = coreAt s c := rfl
@[simp] theorem takeFresh_cur (s : State) : (takeFresh s).2.cur = s.cur := rfl
@[simp] theorem slotAt_niPost (s : State) (c : Nat) (m : Msg) (k : Nat) : slotAt (niPost s c m) k = slotAt s k := rfl
@[simp] theorem coreAt_niPost_self (s : State) (c : Nat) (m : Msg) :
    coreAt (niPost s c m) c = { coreAt s c with ni := (coreAt s c).ni ++ [m] } := coreAt_modCore_self _ _ _

theorem askTrip_unasked {s : State} (h : (slotAt s s.cur).trip = none) (need : Nat) (send : Nat → State → State)
    (ended : State → List Word → Res) : askTrip s need send ended = .park (send (takeFresh s).1
      (modSlot (takeFresh s).2 s.cur fun y => { y with trip := some ⟨(takeFresh s).1, need, [], none⟩ })) := by
  simp only [askTrip, h]

theorem askTrip_answered {s : State} {ws : List Word} (h : Answered (slotAt s s.cur) ws) (need : Nat) (send : Nat → State → State)
    (ended : State → List Word → Res) : askTrip s need send ended = ended s ws := by
  obtain ⟨tr, htr, hneed, htrap, rfl⟩ := h
  simp [askTrip, htr, hneed, htrap]

/-- An instruction that asks one agent parks behind its message. -/
theorem asksTrip_of_niPost {s : State} {srcs : List GReg} {dst : Option GReg} {vs : List Word} {y : Slot} {ins : Instr} {agent : Agent}
    {b : Body} {ended : State → List Word → Res} (hr : Reads s srcs dst vs y) (htrip : y.trip = none)
    (h : exec ins s = endsAs s (askTrip (popped s y) 1 (fun id z => niPost z (coreOf s.cur)
      ⟨.ni (coreOf s.cur), agent, id, s.cur, (slotAt z s.cur).phase, b⟩) ended)) : AsksTrip s ins agent b := by
  have hpc : y.pc = (slotAt s s.cur).pc := by rw [Slot.prep_frame hr]
  have hph : y.phase = (slotAt s s.cur).phase := by rw [Slot.prep_frame hr]
  have htrip' : (slotAt (popped s y) (popped s y).cur).trip = none := by simpa using htrip
  rw [askTrip_unasked htrip', endsAs_park] at h
  refine ⟨_, ⟨(takeFresh (popped s y)).1, 1, [], none⟩, h, rfl, ?_⟩
  simp [finish_park, keptStreams, hpc, hph]

/-! Flushing (R63, R64). -/

section
variable {s : State} {d a b : GReg} {t : Bool} {va vb : Word} {y : Slot}

/-- `tlbfa` under scope 0 asks its own cluster's port. -/
theorem exec_tlbfa_asks (h : Reads s [a, b] none [va, vb] y) (htrip : y.trip = none) (hj : journalEmpty s s.cur = true)
    (hsc : vb.toNat % 4 = 0) :
    AsksTrip s (.tlbfa a b t) (.memPort (myCl s)) (.tlbDiscard (if va.getLsbD 12 then none else some (va.toNat % 2 ^ 12))) := by
  refine asksTrip_of_niPost (ended := fun z _ => .done (modSlot z s.cur fun x => x.takeIf t a.toNat)) h htrip
    ((next_withOps h _).trans ?_)
  have hj' : journalEmpty (popped s y) (popped s y).cur = true := hj
  have hsc' : bitF vb 0 2 = 0 := (bitF_zero vb 2).trans hsc
  simp only [hj', hsc', val_zero, val_one, bitF_zero, bitB, Bool.not_true, Bool.false_eq_true, and_false, if_false, if_true]
  rfl

/-- `tlbfa` completes once every port has acknowledged. -/
theorem exec_tlbfa_answered {ws : List Word} (h : Reads s [a, b] none [va, vb] y) (hans : Answered y ws) :
    exec (.tlbfa a b t) s = completes s (took (popped s y) a t) := by
  have hans' : Answered (slotAt (popped s y) (popped s y).cur) ws := (slotAt_popped s y).symm ▸ hans
  have htrip : (slotAt (popped s y) (popped s y).cur).trip.isNone = false := by
    obtain ⟨tr, htr, -⟩ := hans'
    rw [htr]
    rfl
  refine (next_withOps h _).trans ?_
  simp only [htrip, Bool.false_eq_true, false_and, if_false, askTrip_answered hans']
  rfl

/-- A port discards an ASID's entries, starts its walks anew, and acknowledges once its accesses have drained (R63). -/
theorem exec_tlbfaPortDiscard {i : Nat} {m : Msg} {asid cl : Nat} {u : State} (hm : arrives s i = some m)
    (hb : m.body = .tlbDiscard (some asid)) (hd : m.dst = .memPort cl) (hu : u = modCluster s cl fun c => { c with
      tlb := c.tlb.filter (fun e => decide (e.asid ≠ asid)),
      walks := c.walks.map fun w => if w.asid = asid ∧ w.res = none then { w with next := none, leaf := none } else w }) :
    exec (.tlbfaPortDiscard i) s =
      .next (if drained u cl (some asid) [(0, 2 ^ 56)] then answered (dropMsg u i) m [] else u) := by
  change execTlbfaPortDiscard i s = _
  subst hu
  simp only [execTlbfaPortDiscard, hm, hb, hd, decide_eq_true_eq, Option.isNone_iff_eq_none, decide_not]
  split <;> rfl

/-- `tlbinv` without the privileged queue is not this thread's to execute (R64). -/
theorem exec_tlbinv_disabled (h : Reads s [a, b] (some d) [va, vb] y) (hen : ((myCluster s).creg 0x250).getLsbD 0 = false) :
    exec (.tlbinv d a b t) s = traps s 0x03 (insWord (.tlbinv d a b t)) := by
  have hen' : bitB ((clusterAt (popped s y) (clusterOf (coreOf (popped s y).cur))).creg 0x250) 0 = false := hen
  refine (next_withOps h _).trans ?_
  simp only [hen', Bool.not_false, if_true]
  rfl

/-- `tlbinv` with room in the queue posts its invalidate and answers its sequence number (R64). -/
theorem exec_tlbinv_queues (h : Reads s [a, b] (some d) [va, vb] y) (hen : ((myCluster s).creg 0x250).getLsbD 0 = true)
    (hroom : (myCluster s).tlbq.length < 8) :
    exec (.tlbinv d a b t) s = completes s (wrote (modCluster (popped s y) (myCl s) fun c =>
      { c.setCreg 0x251 (addF (c.creg 0x251) 0 16 1) with tlbq := c.tlbq ++ [⟨((myCluster s).creg 0x251).toNat % 2 ^ 16, va.toNat / 2 ^ 52,
        va.toNat / 2 ^ 16 % 2 ^ 25, Nat.max 1 ((vb.toNat % 2 ^ 41 + 65535) / 65536), vb.toNat / 2 ^ 62, []⟩] })
      d a t (nw (((myCluster s).creg 0x251).toNat % 2 ^ 16))) := by
  have hen' : bitB ((clusterAt (popped s y) (clusterOf (coreOf (popped s y).cur))).creg 0x250) 0 = true := hen
  have hroom' : ¬ 8 ≤ (clusterAt (popped s y) (clusterOf (coreOf (popped s y).cur))).tlbq.length := Nat.not_le.mpr hroom
  refine (next_withOps h _).trans ?_
  simp only [hen', hroom', val_zero, val_one, bitF_zero, bitF_top, bitF_high va (lo := 52) (n := 12) rfl, Bool.not_true, Bool.false_eq_true,
    if_false]
  rfl

end

/-- Every port removes what the oldest queued invalidate names; the queue moves on once all have drained (R64). -/
theorem exec_tlbinvBroadcast {s u : State} {cl : Nat} {q : TlbInv} {qs : List TlbInv} {gone : List (Nat × Nat)}
    (hq : (clusterAt s cl).tlbq = q :: qs) (hu : u = (s.clusters.map Prod.fst).foldl (fun s cl => modCluster s cl fun c =>
      { c with tlb := c.tlb.filter fun t => !invHits q t }) s) (hg : gone = q.gone ++ invSpans s q) :
    exec (.tlbinvBroadcast cl) s = .next (if (rangeFrom 0 1280).all fun cl => drained u cl (some q.asid) gone then
      modCluster u cl fun c => { c.setCreg 0x251 (setF (c.creg 0x251) 16 16 q.seq) with tlbq := qs }
    else modCluster u cl fun c => { c with tlbq := { q with gone := gone } :: qs }) := by
  change execTlbinvBroadcast cl s = _
  subst hu hg
  simp only [execTlbinvBroadcast, hq]
  split <;> rfl

/-! Page migration (R69 to R71). -/

section
variable {z u : State} {asid la : Nat}

/-- A page that is not walked yet is, and the form parks. -/
theorem pageWalk_of_noWalk (h : noWalk z asid la) (body : State → Option (Nat × Nat) → Res) :
    pageWalk z asid la body = .park (modCluster z (myCl z) fun c => c.addWalk (.page z.cur) asid la) := by
  have hfind : (clusterAt z (clusterOf (coreOf z.cur))).walks.find?
      (fun w => decide (w.who = .page z.cur) && decide (w.asid = asid) && decide (w.la = la)) = none := by
    rw [List.find?_eq_none]
    intro w hw hmine
    simp only [Bool.and_eq_true, decide_eq_true_eq, and_assoc] at hmine
    exact h w hw hmine
  simp only [pageWalk, hfind]
  rfl

theorem pageWalk_of_walkPoisoned {c : Nat} (h : WalkPoisoned z asid la c u) (body : State → Option (Nat × Nat) → Res) :
    pageWalk z asid la body = .trapAt u c (nw la) := by
  obtain ⟨w, hfind, rfl, hres⟩ := h
  rw [myCl] at hfind
  simp only [pageWalk, hfind, hres]
  rfl

theorem pageWalk_of_walked {at_ : Option (Nat × Nat)} (h : Walked z asid la at_ u) (body : State → Option (Nat × Nat) → Res) :
    pageWalk z asid la body = body u at_ := by
  obtain ⟨w, hfind, rfl, hres⟩ := h
  rw [myCl] at hfind
  rcases hres with ⟨hres, rfl⟩ | ⟨pa, lvl, e, hres, rfl⟩
  · simp only [pageWalk, hfind, hres]
    rfl
  · simp only [pageWalk, hfind, hres]
    rfl

theorem cur_of_walked {at_ : Option (Nat × Nat)} (h : Walked z asid la at_ u) : u.cur = z.cur := by
  obtain ⟨w, -, rfl, -⟩ := h
  rfl

end

section
variable {s v x : State} {d a b : GReg} {t : Bool} {va vb : Word} {y : Slot} {asid la new p size : Nat} {e : Word}
  {at_ : Option (Nat × Nat)}

/-- `pmig` takes up the walk of its page. -/
theorem exec_pmig (h : Reads s [a, b] (some d) [va, vb] y) : exec (.pmig d a b t) s = endsAs s (pageWalk (popped s y) (va.toNat / 2 ^ 52)
    (va.toNat % 2 ^ 41) (pmigGo d a t (va.toNat / 2 ^ 52) (va.toNat % 2 ^ 41) (localPa (popped s y) (vb.toNat % 2 ^ 56)))) := by
  refine (next_withOps h _).trans ?_
  simp only [migAsid, migPage, val_zero, val_one, bitF_zero, bitF_high va (lo := 52) (n := 12) rfl]

theorem pmigGo_none (h : pageLeaf s asid la at_ = .none v) : pmigGo d a t asid la new s at_ = migStatus d a t v 1 := by
  simp only [pmigGo, h]

theorem pmigGo_poison {c : Nat} (h : pageLeaf s asid la at_ = .poison v c) : pmigGo d a t asid la new s at_ = .trapAt v c (nw la) := by
  simp only [pmigGo, h]

section
variable (hleaf : pageLeaf s asid la at_ = .leaf v p e size)
include hleaf

/-- Status 2: the page migrates already. -/
theorem pmigGo_moving (hm : pteMig e ≠ 0) : pmigGo d a t asid la new s at_ = migStatus d a t v 2 := by
  simp only [pmigGo, hleaf, hm, ne_eq, not_false_eq_true, if_true]

variable (hm : pteMig e = 0)
include hm

/-- Status 6: the page is shared and lies in a snapshot range above level 0. -/
theorem pmigGo_inSnapshot (hs : bitB e 7 = true) (hin : inSnapshot v (localPa s (pteAddr e)) size = true) :
    pmigGo d a t asid la new s at_ = migStatus d a t v 6 := by
  simp only [pmigGo, hleaf, hm, hs, hin, ne_eq, not_true_eq_false, if_false, and_self, if_true]

variable (hs : ¬ (bitB e 7 = true ∧ inSnapshot v (localPa s (pteAddr e)) size = true))
include hs

/-- Status 4: the new frame cannot be used. -/
theorem pmigGo_newFrameBad (hf : newFrameBad v (localPa s (pteAddr e)) new size = true) :
    pmigGo d a t asid la new s at_ = migStatus d a t v 4 := by
  simp only [pmigGo, hleaf, hm, hs, hf, ne_eq, not_true_eq_false, if_false, if_true]

variable (hf : newFrameBad v (localPa s (pteAddr e)) new size = false)
include hf

/-- Status 3: the old home holds eight migrations. -/
theorem pmigGo_full (hn : 8 ≤ (towerAt v (tierTower (localPa s (pteAddr e)))).migr.length) :
    pmigGo d a t asid la new s at_ = migStatus d a t v 3 := by
  simp only [pmigGo, hleaf, hm, hs, hf, hn, ne_eq, not_true_eq_false, Bool.false_eq_true, if_false, if_true]

variable (hn : (towerAt v (tierTower (localPa s (pteAddr e)))).migr.length < 8)
include hn

/-- Status 1: the leaf's home refuses MIG = 1. -/
theorem pmigGo_refused (hput : putPte v p (setF e 57 2 1) = none) : pmigGo d a t asid la new s at_ = migStatus d a t v 1 := by
  simp only [pmigGo, hleaf, hm, hs, hf, Nat.not_le.mpr hn, hput, ne_eq, not_true_eq_false, Bool.false_eq_true, if_false]

/-- Status 0: the leaf reads MIG = 1, and the old home holds the migration. -/
theorem pmigGo_starts (hput : putPte v p (setF e 57 2 1) = some x) : pmigGo d a t asid la new s at_ =
    migStatus d a t (modTower x (tierTower (localPa s (pteAddr e))) fun w => { w with migr := w.migr ++
      [⟨localPa s (pteAddr e), new, size, localPa s (pteAddr e) / 64, bitB e 5, false, asid, la, none⟩] }) 0 := by
  simp only [pmigGo, hleaf, hm, hs, hf, Nat.not_le.mpr hn, hput, ne_eq, not_true_eq_false, Bool.false_eq_true, if_false]

end

/-- The old home copies the next line of a migration whose lines are not all copied (R70). -/
theorem exec_migrationCopy {tw i : Nat} {m : Migr} (hi : (towerAt s tw).migr[i]? = some m) (hsw : m.switched = false)
    (hnext : 64 * m.next < m.old + m.size) (hold : bankHeld s m.next = false) (hnew : bankHeld s (copyDst s m m.next) = false) :
    exec (.migrationCopy tw i) s =
      .next (modTower (copyLine s m m.next) tw fun w => { w with migr := w.migr.set i { m with next := m.next + 1 } }) := by
  change execMigrationCopy tw i s = _
  simp only [execMigrationCopy, hi, hsw, Nat.not_le.mpr hnext, hold, hnew, Bool.false_eq_true, or_self, if_false]

/-- `pmigsw` under an action that there is not. -/
theorem exec_pmigsw_reserved (h : Reads s [a, b] (some d) [va, vb] y) (hact : vb.toNat % 4 = 3) :
    exec (.pmigsw d a b t) s = completes s (wrote (popped s y) d a t 5#64) := by
  have hact' : bitF vb 0 2 = 3 := (bitF_zero vb 2).trans hact
  refine (next_withOps h _).trans ?_
  simp only [val_one, hact', if_true]
  rfl

/-- `pmigsw` of a page that does not migrate. -/
theorem exec_pmigsw_noEntry (h : Reads s [a, b] (some d) [va, vb] y) (hact : vb.toNat % 4 ≠ 3)
    (he : migEntry (popped s y) (va.toNat / 2 ^ 52) (va.toNat % 2 ^ 41) = none) :
    exec (.pmigsw d a b t) s = completes s (wrote (popped s y) d a t 1#64) := by
  have hact' : vb.toNat % 2 ^ 2 ≠ 3 := hact
  refine (next_withOps h _).trans ?_
  simp only [migAsid, migPage, val_zero, val_one, hact', bitF_zero, bitF_high va (lo := 52) (n := 12) rfl, he, if_false]
  rfl

/-- A migration has no conflict with a `pmigsw` of slot `k` when nobody switches it, or this switch does (R71). -/
theorem no_conflict {m : Migr} {act k : Nat} (hsw : m.switched = false) (hby : m.by_ = none ∨ (act = 0 ∧ m.by_ = some k)) :
    ¬ (m.switched = true ∨ (m.by_.isSome = true ∧ ¬(act = 0 ∧ m.by_ = some k))) := by
  rcases hby with hby | ⟨hact, hby⟩
  · simp [hsw, hby]
  · simp [hsw, hact, hby]

section
variable {w i : Nat} {m : Migr} (h : Reads s [a, b] (some d) [va, vb] y)
  (he : migEntry (popped s y) (va.toNat / 2 ^ 52) (va.toNat % 2 ^ 41) = some (w, i, m))
include h he

/-- `pmigsw` of a page that migrates: a release, a conflict, a wait for the copy, or the page's walk (R71). -/
theorem exec_pmigsw_entry (hact : vb.toNat % 4 ≠ 3) : exec (.pmigsw d a b t) s = endsAs s (
    if vb.toNat % 4 = 1 then
      if m.switched then migStatus d a t (modTower (popped s y) w fun x => { x with migr := dropAt x.migr i }) 0
      else migStatus d a t (popped s y) 2
    else if m.switched ∨ (m.by_.isSome ∧ ¬(vb.toNat % 4 = 0 ∧ m.by_ = some s.cur)) then migStatus d a t (popped s y) 2
    else if vb.toNat % 4 = 0 ∧ 64 * m.next < m.old + m.size then .park (popped s y)
    else pageWalk (popped s y) (va.toNat / 2 ^ 52) (va.toNat % 2 ^ 41)
      (pmigswGo d a t (va.toNat / 2 ^ 52) (va.toNat % 2 ^ 41) (vb.toNat % 4) w i m)) := by
  have hact' : vb.toNat % 2 ^ 2 ≠ 3 := hact
  refine (next_withOps h _).trans ?_
  simp only [migAsid, migPage, val_zero, val_one, hact', bitF_zero, bitF_high va (lo := 52) (n := 12) rfl, he, if_false]
  rfl

/-- A release of a switched migration ends it. -/
theorem exec_pmigsw_releases (hact : vb.toNat % 4 = 1) (hsw : m.switched = true) : exec (.pmigsw d a b t) s =
    completes s (wrote (modTower (popped s y) w fun x => { x with migr := dropAt x.migr i }) d a t 0#64) := by
  rw [exec_pmigsw_entry h he (by omega), if_pos hact, if_pos hsw]
  rfl

/-- A release of a migration that has not switched. -/
theorem exec_pmigsw_early (hact : vb.toNat % 4 = 1) (hsw : m.switched = false) :
    exec (.pmigsw d a b t) s = completes s (wrote (popped s y) d a t 2#64) := by
  rw [exec_pmigsw_entry h he (by omega), if_pos hact, if_neg (by simp [hsw])]
  rfl

/-- A migration that has switched, or that another `pmigsw` is switching, is not switched or aborted. -/
theorem exec_pmigsw_conflict (hact : vb.toNat % 4 = 0 ∨ vb.toNat % 4 = 2)
    (hc : m.switched = true ∨ (m.by_.isSome = true ∧ ¬(vb.toNat % 4 = 0 ∧ m.by_ = some s.cur))) :
    exec (.pmigsw d a b t) s = completes s (wrote (popped s y) d a t 2#64) := by
  rw [exec_pmigsw_entry h he (by omega), if_neg (by omega), if_pos hc]
  rfl

variable (hsw : m.switched = false) (hby : m.by_ = none ∨ (vb.toNat % 4 = 0 ∧ m.by_ = some s.cur))
include hsw hby

/-- A switch waits until every line has been copied. -/
theorem exec_pmigsw_copying (h0 : vb.toNat % 4 = 0) (hn : 64 * m.next < m.old + m.size) : exec (.pmigsw d a b t) s = waits s y := by
  rw [exec_pmigsw_entry h he (by omega), if_neg (by omega), if_neg (no_conflict hsw hby), if_pos ⟨h0, hn⟩]
  rfl

/-- A switch of a copied page, or an abort, takes up the page's walk. -/
theorem exec_pmigsw_walks (hact : vb.toNat % 4 = 0 ∧ m.old + m.size ≤ 64 * m.next ∨ vb.toNat % 4 = 2) : exec (.pmigsw d a b t) s =
    endsAs s (pageWalk (popped s y) (va.toNat / 2 ^ 52) (va.toNat % 2 ^ 41)
      (pmigswGo d a t (va.toNat / 2 ^ 52) (va.toNat % 2 ^ 41) (vb.toNat % 4) w i m)) := by
  rw [exec_pmigsw_entry h he (by omega), if_neg (by omega), if_neg (no_conflict hsw hby), if_neg (by omega)]

end

section
variable {act w i : Nat} {m : Migr}

theorem pmigswGo_none (h : pageLeaf s asid la at_ = .none v) : pmigswGo d a t asid la act w i m s at_ = migStatus d a t v 1 := by
  simp only [pmigswGo, h]

theorem pmigswGo_poison {c : Nat} (h : pageLeaf s asid la at_ = .poison v c) :
    pmigswGo d a t asid la act w i m s at_ = .trapAt v c (nw la) := by
  simp only [pmigswGo, h]

variable (hleaf : pageLeaf s asid la at_ = .leaf v p e size)
include hleaf

/-- Status 1: the leaf's home refuses the abort's MIG = 0. -/
theorem pmigswGo_abort_refused (hact : act = 2) (hput : putPte v p (setF e 57 2 0) = none) :
    pmigswGo d a t asid la act w i m s at_ = migStatus d a t v 1 := by
  simp only [pmigswGo, hleaf, hact, hput, if_true]

/-- An abort sets MIG = 0 and ends the migration. -/
theorem pmigswGo_abort (hact : act = 2) (hput : putPte v p (setF e 57 2 0) = some x) : pmigswGo d a t asid la act w i m s at_ =
    migStatus d a t (modTower x w fun y => { y with migr := dropAt y.migr i }) 0 := by
  simp only [pmigswGo, hleaf, hact, hput, if_true]

/-- A switch first holds the page's translations by MIG = 2, and parks. -/
theorem pmigswGo_hold (hact : act = 0) (hby : m.by_ = none) (hput : putPte v p (setF e 57 2 2) = some x) :
    pmigswGo d a t asid la act w i m s at_ =
      .park (modTower x w fun y => { y with migr := y.migr.set i { m with by_ := some s.cur } }) := by
  subst hact
  simp only [pmigswGo, hleaf, hby, hput, Option.isNone_none, if_true]
  rfl

/-- At a later turn it sets the leaf's address to the new frame, with MIG = 0. -/
theorem pmigswGo_switch {k : Nat} (hact : act = 0) (hby : m.by_ = some k)
    (hput : putPte v p (setF (setF e 8 48 (m.new / 256)) 57 2 0) = some x) : pmigswGo d a t asid la act w i m s at_ =
      migStatus d a t (modTower x w fun y => { y with migr := y.migr.set i { m with switched := true } }) 0 := by
  subst hact
  simp only [pmigswGo, hleaf, hby, hput, Option.isNone_some]
  rfl

end
end

end Sys2Proof.Machine

namespace Sys2Proof.Claims

open Sys2Proof.Machine

/-- Settles O55: a walk's read and its end, the flushes, and for `pmig` and `pmigsw` the page's walk and then what its leaf allows. -/
theorem translationAndMigration : Obligations.TranslationAndMigration := by
  refine ⟨?walk, ?root, walkCause_clauses, ?reread, ?tlbfa, ?discard, ?tlbinv, ?broadcast, ?pmig, ?copy, ?pmigsw⟩
  case walk =>
    intro cl i s w hi hl hr
    refine ⟨fun u p h => exec_pageWalk_next hi hl hr h, ?slot, ?page, ?fail, ?poison⟩
    case slot =>
      intro u pa lvl e k h hw
      rw [exec_pageWalk_ended hi hl hr h]
      exact ⟨fun hm => by rw [endWalk_leaf_slot pa lvl hw hm], fun hm => by rw [endWalk_leaf_held pa lvl hw hm]⟩
    case page =>
      intro u pa lvl e k h hw
      rw [exec_pageWalk_ended hi hl hr h, endWalk_leaf_page pa lvl e hw]
    case fail =>
      intro u k h hw hst ha
      obtain ⟨hf, hready, hcount⟩ := walkFault_slot_effect (cl := cl) (i := i) .fail (walkCause (clusterAt u cl) w.asid) hw hst ha
      exact ⟨_, exec_pageWalk_ended hi hl hr h, hf, hready, hcount⟩
    case poison =>
      intro u k c h hw hst ha
      obtain ⟨hf, hready, -⟩ := walkFault_slot_effect (cl := cl) (i := i) (.poison c) c hw hst ha
      exact ⟨_, exec_pageWalk_ended hi hl hr h, hf, hready⟩
  case root =>
    rintro s cl w pinned root pa u bs ha hn hpa hp hb table hc
    rw [walkNext_start ha hn]
    exact walkEntry_table hpa hp hb hc (by decide)
  case reread =>
    intro cl i s w pa lvl u bs k hi hl hb hw hc hm
    rw [exec_walkMigReread_leaf hi hl hb hc, endWalk_leaf_slot pa lvl hw hm]
  case tlbfa => exact fun a b t s va vb y h => ⟨exec_tlbfa_asks h, fun ws => exec_tlbfa_answered h⟩
  case discard =>
    intro i s m asid cl u hm hb hd hu
    rw [exec_tlbfaPortDiscard hm hb hd hu]
    exact ⟨fun h => by rw [if_pos h], fun h => by rw [h, if_neg Bool.false_ne_true]⟩
  case tlbinv =>
    rintro d a b t s va vb y seq h rfl
    exact ⟨exec_tlbinv_queues h, exec_tlbinv_disabled h⟩
  case broadcast =>
    intro cl s q qs u gone hq hu hg
    rw [exec_tlbinvBroadcast hq hu hg]
    exact ⟨fun h => by rw [if_pos h], fun h => by rw [h, if_neg Bool.false_ne_true]⟩
  case pmig =>
    rintro d a b t s va vb y z la asid new h rfl rfl rfl rfl
    rw [exec_pmig h]
    refine ⟨fun hw => ?noWalk, fun c u hw => ?poisoned, fun u at_ hw => ?walked⟩
    case noWalk =>
      rw [pageWalk_of_noWalk hw]
      rfl
    case poisoned => exact traps_of_trapAt (pageWalk_of_walkPoisoned hw _)
    case walked =>
      rw [pageWalk_of_walked hw]
      refine ⟨fun v hv _ => completes_of_migStatus (pmigGo_none hv), fun v c hv _ => traps_of_trapAt (pmigGo_poison hv), ?leaf⟩
      rintro v p e size old hv rfl -
      refine ⟨fun hm => completes_of_migStatus (pmigGo_moving hv hm),
        fun hm hs hin => completes_of_migStatus (pmigGo_inSnapshot hv hm hs hin), fun hm hs => ?free⟩
      have hfree : ¬ (bitB e 7 = true ∧ inSnapshot v (localPa u (pteAddr e)) size = true) := by simpa [imp_iff_not_or] using hs
      exact ⟨fun hf => completes_of_migStatus (pmigGo_newFrameBad hv hm hfree hf),
        fun hf hn => completes_of_migStatus (pmigGo_full hv hm hfree hf hn),
        fun hf hn hp => completes_of_migStatus (pmigGo_refused hv hm hfree hf hn hp),
        fun x hf hn hp _ => completes_of_migStatus (pmigGo_starts hv hm hfree hf hn hp)⟩
  case copy => exact fun tw i s m => exec_migrationCopy
  case pmigsw =>
    rintro d a b t s va vb y z la asid act h rfl rfl rfl rfl
    refine ⟨exec_pmigsw_reserved h, exec_pmigsw_noEntry h, fun w i m he => ?_⟩
    refine ⟨exec_pmigsw_releases h he, exec_pmigsw_early h he, fun hact hsw => exec_pmigsw_conflict h he hact (.inl hsw), ?other, ?copying,
      ?walked⟩
    case other =>
      intro k hact hby hk
      refine exec_pmigsw_conflict h he hact (.inr ⟨by simp [hby], ?_⟩)
      rintro ⟨h0, hcur⟩
      rcases hk with h2 | hne
      · omega
      · exact hne (Option.some.inj (hby.symm.trans hcur))
    case copying =>
      intro h0 hsw hby hn
      exact exec_pmigsw_copying h he hsw (hby.imp_right fun hcur => ⟨h0, hcur⟩) h0 hn
    case walked =>
      intro u at_ hw hsw hmay
      have hby : m.by_ = none ∨ (vb.toNat % 4 = 0 ∧ m.by_ = some s.cur) := by tauto
      rw [exec_pmigsw_walks h he hsw hby (by tauto), pageWalk_of_walked hw]
      refine ⟨fun v hv _ => completes_of_migStatus (pmigswGo_none hv), fun v c hv _ => traps_of_trapAt (pmigswGo_poison hv),
        fun v p e size hv _ h2 hp => completes_of_migStatus (pmigswGo_abort_refused hv h2 hp),
        fun v p e size x hv => ⟨fun h2 hp _ => completes_of_migStatus (pmigswGo_abort hv h2 hp), fun h0 hby hp => ?hold,
          fun h0 hby hp _ => completes_of_migStatus (pmigswGo_switch hv h0 hby hp)⟩⟩
      rw [pmigswGo_hold hv h0 hby hp, endsAs_park, cur_of_walked hw]
      rfl

end Sys2Proof.Claims
end
section
/-! Snapshots and maintenance of the shared cache. The laws of a question to the towers (R92, R93), of the snapshot forms and the anchor
(R80, R86, R90, R91), and of a line's fill (R74, R77), each about one function of the model; then the statement that is assembled from them. -/

namespace Sys2Proof

/-- A field reads the value that it was set to. -/
theorem bitF_setF_self (w : Word) {lo n : Nat} (v : Nat) (h : lo + n ≤ 64) : bitF (setF w lo n v) lo n = v % 2 ^ n := by
  apply Nat.eq_of_testBit_eq
  intro i
  rw [bitF, Nat.testBit_mod_two_pow, Nat.testBit_mod_two_pow, Nat.testBit_div_two_pow]
  by_cases hi : i < n
  · have hbit : (setF w lo n v).getLsbD (i + lo) = v.testBit i := by
      rw [getLsbD_setF w lo n v (by omega), if_pos (by omega), Nat.add_sub_cancel]
    rw [← hbit, BitVec.getLsbD]
  · simp [hi]

theorem mem_rangeFrom {a n k : Nat} : k ∈ rangeFrom a n ↔ a ≤ k ∧ k < a + n := by
  induction n generalizing a with
  | zero => simp [rangeFrom]
  | succ n ih =>
    rw [rangeFrom, List.mem_cons, ih]
    omega

end Sys2Proof

namespace Sys2Proof.Machine

open Sys2Proof.Claims

/-! The end of a turn. -/

theorem traps_of_trap {s : State} {c : Nat} {v : Word} {r : Res} (h : r = .trap c v) : endsAs s r = traps s c v := congrArg (endsAs s) h

theorem waits_of_park {s : State} {y : Slot} {r : Res} (h : r = .park (popped s y)) : endsAs s r = waits s y := congrArg (endsAs s) h

theorem completes_of_wrote {s t : State} {d a : GReg} {tk : Bool} {v : Word} {r : Res}
    (h : r = .done (modSlot t t.cur fun x => (x.takeIf tk a.toNat).writeDst d.toNat v)) :
    endsAs s r = completes s (wrote t d a tk v) := congrArg (endsAs s) h

theorem coreAt_parked (s t : State) (c : Nat) : coreAt (finish s s.cur (.park (keptStreams s t))) c = coreAt t c := by
  simp [finish_park, keptStreams]

/-! Questions to one tower and to all (R10, R86, R92, R93). -/

theorem answered_popped {s : State} {y : Slot} {ws : List Word} (h : Answered y ws) : Answered (slotAt (popped s y) (popped s y).cur) ws :=
  (slotAt_popped s y).symm ▸ h

theorem unasked_popped {s : State} {y : Slot} (h : y.trip = none) : (slotAt (popped s y) (popped s y).cur).trip = none :=
  (congrArg Slot.trip (slotAt_popped s y)).trans h

/-- The current slot has opened a question to `need` agents, none of which has answered. -/
def asking (s : State) (need : Nat) : State :=
  modSlot (takeFresh s).2 s.cur fun y => { y with trip := some ⟨(takeFresh s).1, need, [], none⟩ }

/-- The question of a snapshot form to the anchor of a range, whose answer goes to `d` (R86, R91). -/
def askAnchor (d a : GReg) (t : Bool) (n : Nat) (b : State → Body) (s : State) : Res :=
  askTrip s 1 (fun id s => niPost s (coreOf s.cur) ⟨.ni (coreOf s.cur), anchorOf n, id, s.cur, (slotAt s s.cur).phase, b s⟩)
    fun s ws => .done (modSlot s s.cur fun x => (x.takeIf t a.toNat).writeDst d.toNat (val ws 0))

/-- The first evaluation parks behind the question, with the body that the asking slot gives it. -/
theorem asksTrip_of_askAnchor {s : State} {srcs : List GReg} {dst : Option GReg} {vs : List Word} {y : Slot} {ins : Instr} {d a : GReg}
    {t : Bool} {n : Nat} {b : State → Body} {body : Body} (hr : Reads s srcs dst vs y) (htrip : y.trip = none)
    (h : exec ins s = endsAs s (askAnchor d a t n b (popped s y)))
    (hb : ∀ z tr, z.cur = s.cur → slotAt z s.cur = { y with trip := tr } → b z = body) : AsksTrip s ins (.tower (n / 2)) body := by
  have hbody : b (asking (popped s y) 1) = body := hb _ (some ⟨(takeFresh (popped s y)).1, 1, [], none⟩) rfl (by simp [asking])
  refine asksTrip_of_niPost (ended := fun z _ => .park z) hr htrip ?_
  rw [h, askAnchor, askTrip_unasked (unasked_popped htrip), askTrip_unasked (unasked_popped htrip), ← hbody]
  rfl

/-- The last evaluation completes with the answer. -/
theorem completes_of_askAnchor {s : State} {y : Slot} {d a : GReg} {t : Bool} {n : Nat} {b : State → Body} {ws : List Word}
    (hans : Answered y ws) : endsAs s (askAnchor d a t n b (popped s y)) = completes s (wrote (popped s y) d a t (val ws 0)) :=
  completes_of_wrote (askTrip_answered (answered_popped hans) _ _ _)

/-- The message of the current slot's question to a tower. -/
def towerMsg (s : State) (id : Nat) (b : Body) (u : Nat) : Msg :=
  ⟨.ni (coreOf s.cur), .tower u, id, s.cur, (slotAt s s.cur).phase, b⟩

/-- The NI of the asking core takes one message for each tower, in the order of the towers. -/
theorem ni_foldl_towerMsg (id : Nat) (b : Body) (us : List Nat) (s : State) :
    (coreAt (us.foldl (fun s u => niPost s (coreOf s.cur) (towerMsg s id b u)) s) (coreOf s.cur)).ni =
      (coreAt s (coreOf s.cur)).ni ++ us.map (towerMsg s id b) := by
  induction us generalizing s with
  | nil => simp
  | cons u us ih =>
    have hcur : (niPost s (coreOf s.cur) (towerMsg s id b u)).cur = s.cur := rfl
    have hmsg : towerMsg (niPost s (coreOf s.cur) (towerMsg s id b u)) id b = towerMsg s id b := rfl
    have hrest := ih (niPost s (coreOf s.cur) (towerMsg s id b u))
    rw [hcur, hmsg, coreAt_niPost_self] at hrest
    rw [List.foldl_cons, hrest, List.map_cons, List.append_assoc]
    rfl

/-- The state after the question to the eight towers. -/
def askedTowers (s : State) (b : Body) : State :=
  (rangeFrom 0 8).foldl (fun z u => niPost z (coreOf z.cur) (towerMsg z (takeFresh s).1 b u)) (asking s 8)

/-- A form that asks the eight towers parks behind its question. -/
theorem askTowers_unasked {s : State} (h : (slotAt s s.cur).trip = none) (b : Body) (ended : State → List Word → Res) :
    askTowers s b ended = .park (askedTowers s b) := askTrip_unasked h _ _ _

/-- Each tower is among those asked. -/
theorem towerMsg_mem_askedTowers (s : State) (b : Body) {w : Nat} (hw : w < 8) :
    towerMsg (asking s 8) (takeFresh s).1 b w ∈ (coreAt (askedTowers s b) (coreOf s.cur)).ni := by
  have hcur : s.cur = (asking s 8).cur := rfl
  rw [hcur, askedTowers, ni_foldl_towerMsg]
  exact List.mem_append_right _ (List.mem_map_of_mem (mem_rangeFrom.mpr (by omega)))

/-! The snapshot forms (R86, R90, R91). -/

/-- The form that issues an operation on a range. -/
def snapForm : SnapOp → GReg → GReg → Bool → Instr
  | .snap => .snap
  | .accept => .accept
  | .reject => .reject

theorem exec_snapForm (op : SnapOp) (d a : GReg) (t : Bool) (s : State) : exec (snapForm op d a t) s = .next (snapIssue op d a t s) := by
  cases op <;> rfl

section
variable {s : State} {d a : GReg} {t : Bool} {va : Word} {y : Slot}

section
variable (op : SnapOp) (h : Reads s [a] (some d) [va] y)
include h

/-- Before its question a form waits for the release of R86. -/
theorem exec_snapForm_waits (htrip : y.trip = none) (hout : storesAndLoadsOut (popped s y) s.cur = true) :
    exec (snapForm op d a t) s = waits s y := by
  rw [exec_snapForm]
  refine (next_withOps h _).trans (waits_of_park ?_)
  simp [htrip, hout]

section
variable (hrel : (y.trip.isNone && storesAndLoadsOut (popped s y) s.cur) = false)
include hrel

/-- A range that there is not is refused, after the release (R90). -/
theorem exec_snapForm_noRange (hn : 15 < va.toNat) : exec (snapForm op d a t) s = traps s 0x1D va := by
  rw [exec_snapForm]
  refine (next_withOps h _).trans (traps_of_trap ?_)
  rw [if_neg (by simpa using hrel)]
  exact if_pos hn

/-- Behind the release, an operation on one of the 16 ranges is a question to the range's anchor (R86). -/
theorem exec_snapForm_question (hn : va.toNat ≤ 15) : exec (snapForm op d a t) s = endsAs s (askAnchor d a t va.toNat
    (fun z => .snapOp op va.toNat (isUser z) (myAsid z) false) (popped s y)) := by
  rw [exec_snapForm]
  refine (next_withOps h _).trans (congrArg (endsAs s) ?_)
  rw [if_neg (by simpa using hrel)]
  exact if_neg (Nat.not_lt.mpr hn)

end

/-- The anchor is asked. -/
theorem exec_snapForm_asks (hn : va.toNat ≤ 15) (htrip : y.trip = none) (hout : storesAndLoadsOut (popped s y) s.cur = false) :
    AsksTrip s (snapForm op d a t) (.tower (va.toNat / 2)) (.snapOp op va.toNat (decide (y.mode = .user)) y.asid false) := by
  refine asksTrip_of_askAnchor h htrip (exec_snapForm_question op h (by simp [hout]) hn) ?_
  intro z tr hcur hz
  simp only [isUser, myAsid, hcur, hz]
  rfl

/-- The form gives the anchor's answer. -/
theorem exec_snapForm_answered {ws : List Word} (hn : va.toNat ≤ 15) (hans : Answered y ws) :
    exec (snapForm op d a t) s = completes s (wrote (popped s y) d a t (val ws 0)) := by
  have htrip : y.trip.isNone = false := by
    obtain ⟨tr, htr, -⟩ := hans
    rw [htr]
    rfl
  exact (exec_snapForm_question op h (by simp [htrip]) hn).trans (completes_of_askAnchor hans)

end

section
variable (h : Reads s [a] (some d) [va] y)
include h

theorem exec_snapq_noRange (hn : 15 < va.toNat) : exec (.snapq d a t) s = traps s 0x1D va :=
  (next_withOps h _).trans (traps_of_trap (if_pos hn))

/-- A query of one of the 16 ranges is a question to the range's anchor (R91). -/
theorem exec_snapq_question (hn : va.toNat ≤ 15) : exec (.snapq d a t) s = endsAs s (askAnchor d a t va.toNat
    (fun z => .snapQuery va.toNat (isUser z) (myAsid z)) (popped s y)) :=
  (next_withOps h _).trans (congrArg (endsAs s) (if_neg (Nat.not_lt.mpr hn)))

theorem exec_snapq_asks (hn : va.toNat ≤ 15) (htrip : y.trip = none) :
    AsksTrip s (.snapq d a t) (.tower (va.toNat / 2)) (.snapQuery va.toNat (decide (y.mode = .user)) y.asid) := by
  refine asksTrip_of_askAnchor h htrip (exec_snapq_question h hn) ?_
  intro z tr hcur hz
  simp only [isUser, myAsid, hcur, hz]
  rfl

theorem exec_snapq_answered {ws : List Word} (hn : va.toNat ≤ 15) (hans : Answered y ws) :
    exec (.snapq d a t) s = completes s (wrote (popped s y) d a t (val ws 0)) :=
  (exec_snapq_question h hn).trans (completes_of_askAnchor hans)

end
end

/-! The anchor and the other towers (R80, R86, R90, R91). -/

@[simp] theorem answerTrip_towers (s : State) (k id : Nat) (vs : List Word) (tr : Option (Nat × Word)) :
    (answerTrip s k id vs tr).towers = s.towers := by
  unfold answerTrip
  split
  · split <;> rfl
  · rfl

@[simp] theorem answerTrip_net (s : State) (k id : Nat) (vs : List Word) (tr : Option (Nat × Word)) :
    (answerTrip s k id vs tr).net = s.net := by
  unfold answerTrip
  split
  · split <;> rfl
  · rfl

/-- Messages sent one after another stand in flight behind what was there. -/
theorem net_foldl_sendMsg (f : Nat → Msg) (us : List Nat) (s : State) :
    (us.foldl (fun s u => sendMsg s (f u)) s).net = s.net ++ us.map f := by
  induction us generalizing s with
  | nil => simp
  | cons u us ih =>
    rw [List.foldl_cons, ih, List.map_cons]
    exact List.append_assoc _ _ _

theorem towers_foldl_sendMsg (f : Nat → Msg) (us : List Nat) (s : State) :
    (us.foldl (fun s u => sendMsg s (f u)) s).towers = s.towers := by
  induction us generalizing s with
  | nil => rfl
  | cons u us ih => rw [List.foldl_cons, ih, sendMsg_towers]

/-- The message by which the anchor forwards an operation to a tower. -/
def forwardMsg (t : Nat) (m : Msg) (b : Body) (u : Nat) : Msg := ⟨.tower t, .tower u, m.tag, m.who, m.ph, b⟩

/-- The anchor forwards an operation to the seven other towers, and the question now awaits eight answers. -/
def forwardOp (s : State) (t : Nat) (m : Msg) (b : Body) : State :=
  ((rangeFrom 0 8).filter fun u => decide (u ≠ t)).foldl (fun s u => sendMsg s (forwardMsg t m b u))
    (modSlot s m.who fun x => { x with trip := x.trip.map fun r => if r.id = m.tag then { r with need := 8 } else r })

theorem towerAt_forwardOp (s : State) (t : Nat) (m : Msg) (b : Body) (u : Nat) : towerAt (forwardOp s t m b) u = towerAt s u :=
  congrArg (SMap.get _ · u) (towers_foldl_sendMsg _ _ _)

theorem forwardMsg_mem_forwardOp (s : State) {t u : Nat} (m : Msg) (b : Body) (h8 : u < 8) (hne : u ≠ t) :
    forwardMsg t m b u ∈ (forwardOp s t m b).net := by
  rw [forwardOp, net_foldl_sendMsg]
  refine List.mem_append_right _ (List.mem_map_of_mem ?_)
  rw [List.mem_filter, mem_rangeFrom]
  exact ⟨by omega, decide_eq_true hne⟩

/-- A recorded snap raises the range's level by one (R80). -/
theorem rangeLevel_recordOp_snap {s : State} {t n : Nat} (h : rangeLevel (towerAt s t) n < 4) :
    rangeLevel (towerAt (recordOp s t n .snap) t) n = rangeLevel (towerAt s t) n + 1 := by
  rw [recordOp, towerAt_modTower_self]
  simp only [h, if_true]
  rw [rangeLevel, Tower.creg_setCreg_self, bitF_setF_self _ _ (by decide), Nat.mod_eq_of_lt (by omega)]

section
variable {s : State} {i n asid tw : Nat} {m : Msg} {user : Bool}

/-- The anchor's checks fail for a range without V, and for a user of another ASID (R90). -/
theorem snapBad_eq_true {w : Tower} (h : (w.creg (0x360 + n)).getLsbD 31 = false ∨
    (user = true ∧ (w.creg (0x360 + n)).toNat % 2 ^ 12 ≠ asid)) : snapBad w n user asid = true := by
  rcases h with hv | ⟨hu, ha⟩
  · simp only [snapBad, bitB, hv, Bool.not_false, Bool.true_or]
  · simp only [snapBad, hu, bitF_zero, ha, ne_eq, not_false_eq_true, decide_true, Bool.and_self, Bool.or_true]

theorem snapBad_eq_false {w : Tower} (hv : (w.creg (0x360 + n)).getLsbD 31 = true)
    (h : user = false ∨ (w.creg (0x360 + n)).toNat % 2 ^ 12 = asid) : snapBad w n user asid = false := by
  rcases h with hu | ha
  · simp only [snapBad, bitB, hv, hu, Bool.not_true, Bool.false_and, Bool.or_self]
  · simp only [snapBad, bitB, hv, bitF_zero, ha, ne_eq, not_true_eq_false, decide_false, Bool.not_true, Bool.and_false, Bool.or_self]

section
variable {op : SnapOp} {fwd : Bool} (hm : arrives s i = some m) (hb : m.body = .snapOp op n user asid fwd) (hd : m.dst = .tower tw)
  (hw : (towerAt s tw).wrote ≠ s.time + 1)
include hm hb hd hw

/-- An operation at a tower, in a cycle without a write (R86, R87, R90). -/
theorem exec_snapRecord : exec (.snapRecord i) s =
    if fwd then
      .next (answered (if ((towerAt s tw).creg (0x360 + n)).getLsbD 31 then recordOp (dropMsg s i) tw n op else dropMsg s i) m [])
    else if snapBad (towerAt s tw) n user asid then .next (refusedBack (dropMsg s i) m 0x1D (nw n))
    else if (op = .snap ∧ rangeLevel (towerAt s tw) n = 4) ∨ (op ≠ .snap ∧ rangeLevel (towerAt s tw) n = 0) then
      .next (refusedBack (dropMsg s i) m 0x1C (nw n))
    else .next (answered (forwardOp (recordOp (dropMsg s i) tw n op) tw m (.snapOp op n user asid true)) m
      [nw (rangeLevel (towerAt (recordOp (dropMsg s i) tw n op) tw) n)]) := by
  change execSnapRecord i s = _
  simp only [execSnapRecord, hm, hb, hd, towerAt_dropMsg, hw, if_false]
  rfl

end

section
variable (hm : arrives s i = some m) (hb : m.body = .snapQuery n user asid) (hd : m.dst = .tower tw)
include hm hb hd

/-- A query at the anchor that passes its checks (R91). -/
theorem exec_snapqQuery (hok : snapBad (towerAt s tw) n user asid = false) : exec (.snapqQuery i) s = .next (answered (dropMsg s i) m
    [nw (((rangeFrom 0 8).map fun u => ((towerAt s u).shadows.filter fun h => decide (h.rng = n)).length).sum % 2 ^ 32 * 2 ^ 16 +
      ((rangeFrom 0 8).any fun u => rangePend (towerAt s u) n).toNat * 2 ^ 4 + 2 ^ 3 + rangeLevel (towerAt s tw) n)]) := by
  change execSnapqQuery i s = _
  simp only [execSnapqQuery, hm, hb, hd]
  exact if_neg (by rw [towerAt_dropMsg, hok]; exact Bool.false_ne_true)

end

/-- The sweep resolves a line on which an operation is pending, unless its rate is 0 (R86, R94). -/
theorem exec_snapSweep {line : Nat} (hr : ((towerAt s (lineTower line)).creg 0x373).toNat % 2 ^ 16 ≠ 0)
    (hp : ((towerAt s (lineTower line)).pend.any fun o => o.lines.contains line) = true) :
    exec (.snapSweep line) s = .next (resolveLine s (lineTower line) line) := by
  change execSnapSweep line s = _
  simp only [execSnapSweep, bitF_zero, hr, hp, Bool.not_true, Bool.false_eq_true, or_self, if_false]

/-! Maintenance (R92, R93). -/

/-- A tower walks its lines of a span, unless a bank under repair holds one of them (R92, R366). -/
theorem exec_scSpanWalk {inv noWb : Bool} {line : Nat} (hm : arrives s i = some m) (hb : m.body = .spanWalk inv noWb line n)
    (hd : m.dst = .tower tw) : exec (.scSpanWalk i) s = if spanHeld s tw line n then .next s
      else .next (answered (walkSpan (dropMsg s i) tw inv noWb line n) m []) := by
  change execScSpanWalk i s = _
  simp only [execScSpanWalk, hm, hb, hd]
  rfl

/-- A tower reads or writes a domain entry, and answers what it was (R93). -/
theorem exec_scdomUpdate {e : Option Nat} (hm : arrives s i = some m) (hd : m.dst = .tower tw) (hb : m.body = .domUpdate asid e) :
    exec (.scdomUpdate i) s = .next (answered (e.elim (dropMsg s i) fun v =>
      modTower (dropMsg s i) tw fun w => { w with doms := SMap.set (fun _ => 0) w.doms asid v }) m
      [nw (SMap.get (fun _ => 0) (towerAt s tw).doms asid)]) := by
  change execScdomUpdate i s = _
  simp only [execScdomUpdate, hm, hb, hd]
  cases e <;> rfl

end

section
variable {s : State} {d a b : GReg} {t : Bool} {va vb : Word} {y : Slot}

section
variable (inv : Bool) (h : Reads s [a, b] (some d) [va, vb] y)
include h

/-- A bad span, or a bad length, is the answer 1 (R92). -/
theorem spanForm_bad (hs : spanOf (popped s y) va vb = none) :
    Host.Outcome.next (spanForm inv d a b t s) = completes s (wrote (popped s y) d a t 1#64) := by
  refine (next_withOps h _).trans (completes_of_wrote ?_)
  simp only [val_zero, val_one, hs]
  rfl

variable {line n : Nat} (hs : spanOf (popped s y) va vb = some (line, n))
include hs

/-- The walk of a span is asked of the eight towers (R92). -/
theorem spanForm_question : ∃ ended, (∀ z ws, ended z ws = .done (modSlot z z.cur fun x => (x.takeIf t a.toNat).writeDst d.toNat 0#64)) ∧
    Host.Outcome.next (spanForm inv d a b t s) =
      endsAs s (askTowers (popped s y) (.spanWalk inv (inv && vb.getLsbD 63) line n) ended) := by
  refine ⟨_, fun _ _ => rfl, (next_withOps h _).trans (congrArg (endsAs s) ?_)⟩
  simp only [val_zero, val_one, hs]
  rfl

/-- The form is done with 0 once every tower has walked. -/
theorem spanForm_answered {ws : List Word} (hans : Answered y ws) :
    Host.Outcome.next (spanForm inv d a b t s) = completes s (wrote (popped s y) d a t 0#64) := by
  obtain ⟨ended, hend, hq⟩ := spanForm_question (t := t) inv h hs
  rw [hq, askTowers, askTrip_answered (answered_popped hans)]
  exact completes_of_wrote (hend _ _)

/-- The form parks behind a message to each tower. -/
theorem spanForm_asks (htrip : y.trip = none) {w : Nat} (hw : w < 8) : (spanForm inv d a b t s).mark = .parked ∧
    ∃ m ∈ (coreAt (spanForm inv d a b t s) (coreOf s.cur)).ni, m.dst = .tower w ∧ m.body = .spanWalk inv (inv && vb.getLsbD 63) line n := by
  obtain ⟨ended, -, hq⟩ := spanForm_question (t := t) inv h hs
  rw [askTowers_unasked (unasked_popped htrip)] at hq
  rw [Host.Outcome.next.inj hq]
  have hmem := towerMsg_mem_askedTowers (popped s y) (.spanWalk inv (inv && vb.getLsbD 63) line n) hw
  rw [popped_cur, ← coreAt_parked s] at hmem
  exact ⟨rfl, _, hmem, rfl, rfl⟩

end

section
variable (h : Reads s [a, b] (some d) [va, vb] y)
include h

/-- Domain 255 is refused where the form runs (R93, log entry 43). -/
theorem exec_scdom_refused (hw : vb.getLsbD 63 = false) (hv : vb.toNat % 256 = 255) :
    exec (.scdom d a b t) s = completes s (wrote (popped s y) d a t 0xFFFFFFFFFFFFFFFF#64) := by
  have hv' : bitF vb 0 8 = 255 := (bitF_zero vb 8).trans hv
  refine (next_withOps h _).trans (completes_of_wrote ?_)
  simp only [val_one, bitB, hw, hv', Bool.not_false, and_self, if_true]

/-- `scdom` gives the entry before it, once every tower has answered (R93). -/
theorem exec_scdom_answered {ws : List Word} (hv : vb.getLsbD 63 = true ∨ vb.toNat % 256 ≠ 255) (hans : Answered y ws) :
    exec (.scdom d a b t) s = completes s (wrote (popped s y) d a t (val ws 0)) := by
  have hv' : ¬ ((!bitB vb 63) = true ∧ bitF vb 0 8 = 255) := by
    rintro ⟨h63, h8⟩
    rcases hv with hr | hne
    · rw [bitB, hr] at h63
      exact Bool.false_ne_true h63
    · exact hne ((bitF_zero vb 8).symm.trans h8)
  refine (next_withOps h _).trans (completes_of_wrote ?_)
  simp only [val_one, hv', if_false, askTowers, askTrip_answered (answered_popped hans)]

end
end

/-! A line's fill (R74, R76, R77). -/

@[simp] theorem tagAt_setTag_self (w : Tower) (line : Nat) (g : Option Tag) : tagAt (setTag w line g) line = g := SMap.get_set_self _ _ _ _
@[simp] theorem tagAt_setEntry (w : Tower) (p : Nat) (e : DEntry) (line : Nat) : tagAt (setEntry w p e) line = tagAt w line := rfl
@[simp] theorem entryAt_setEntry_self (w : Tower) (p : Nat) (e : DEntry) : entryAt (setEntry w p e) p = e := SMap.get_set_self _ _ _ _
@[simp] theorem entryAt_setTag (w : Tower) (line : Nat) (g : Option Tag) (p : Nat) : entryAt (setTag w line g) p = entryAt w p := rfl
@[simp] theorem entryAt_fills (w : Tower) (f : SMap (Option Acc)) (p : Nat) : entryAt { w with fills := f } p = entryAt w p := rfl
@[simp] theorem creg_setTag (w : Tower) (line : Nat) (g : Option Tag) (n : Nat) : (setTag w line g).creg n = w.creg n := rfl
@[simp] theorem creg_setEntry (w : Tower) (p : Nat) (e : DEntry) (n : Nat) : (setEntry w p e).creg n = w.creg n := rfl

/-- A line offered while sharing is off keeps its own entry, which takes the signature (R77). -/
theorem offer_of_sharing_off {w : Tower} {line : Nat} {g : Tag} (hg : tagAt w line = some g) (hoff : (w.creg 0x300).getLsbD 0 = false) :
    offer w line = setEntry w g.ptr { entryAt w g.ptr with sig := crc32 (entryAt w g.ptr).bytes % 65536 } := by
  simp only [offer, hg, creg_setEntry, bitB, hoff, Bool.not_false, or_true, if_true]

/-- A new tag that is offered while sharing is off stands as it was set, and its entry keeps its bytes. -/
theorem offer_newTag {w : Tower} {line : Nat} {g : Tag} (hoff : (w.creg 0x300).getLsbD 0 = false) :
    tagAt (offer (setTag w line (some g)) line) line = some g ∧
      (entryAt (offer (setTag w line (some g)) line) g.ptr).bytes = (entryAt w g.ptr).bytes := by
  rw [offer_of_sharing_off (tagAt_setTag_self w line _) hoff]
  simp

/-- A fill of a line that its SC does not hold offers a new tag: clean, with memory's poison and an entry of memory's bytes. -/
theorem fillLine_offers {s : State} {line : Nat} (acc : Acc) (habs : tagAt (towerAt s (lineTower line)) line = none) :
    ∃ w g, towerAt (fillLine s line acc) (lineTower line) = offer (setTag w line (some g)) line ∧
      w.creg 0x300 = (towerAt s (lineTower line)).creg 0x300 ∧ (entryAt w g.ptr).bytes = memBytes s (64 * line) 64 ∧
      g.dirty = false ∧ g.pois = memPois s line := by
  rw [fillLine, towerAt_modTower_self]
  simp only [habs, newEntry]
  refine ⟨_, _, rfl, rfl, ?_, rfl, rfl⟩
  rw [entryAt_fills, entryAt_setEntry_self]

/-- With sharing off, that tag stands as it was offered. -/
theorem fillLine_installs {s : State} {line : Nat} (acc : Acc) (habs : tagAt (towerAt s (lineTower line)) line = none)
    (hoff : ((towerAt s (lineTower line)).creg 0x300).getLsbD 0 = false) :
    ∃ g, tagAt (towerAt (fillLine s line acc) (lineTower line)) line = some g ∧ g.dirty = false ∧ g.pois = memPois s line ∧
      (entryAt (towerAt (fillLine s line acc) (lineTower line)) g.ptr).bytes = memBytes s (64 * line) 64 := by
  obtain ⟨w, g, hfill, hreg, hbytes, hclean, hpois⟩ := fillLine_offers acc habs
  obtain ⟨htag, hentry⟩ := offer_newTag (w := w) (line := line) (g := g) (by rw [hreg, hoff])
  rw [hfill]
  exact ⟨g, htag, hclean, hpois, hentry.trans hbytes⟩

/-- A fill that a line awaits completes without a victim, unless a repair holds the line's bank (R74, R366). -/
theorem exec_scFillComplete {s : State} {line : Nat} {acc : Acc} (hb : bankHeld s line = false)
    (hf : SMap.get (fun _ => none) (towerAt s (lineTower line)).fills line = some acc) :
    exec (.scFillComplete line none) s = .next (fillLine (makeRoom s line) line acc) := by
  change execScFillComplete line none s = _
  simp [execScFillComplete, hb, hf]

/-- A scrubber's read that corrects an error counts it (R365). -/
theorem exec_scrubPatrol_corrects {s : State} (pa : Nat) (hr : (s.modul.creg 0x448).toNat % 2 ^ 16 ≠ 0) :
    exec (.scrubPatrol pa 1) s = .next (modModul s fun m => m.setCreg 0x448 (addF (m.creg 0x448) 32 32 1)) := by
  change execScrubPatrol pa 1 s = _
  simp only [execScrubPatrol, bitF_zero, hr, ne_eq, not_false_eq_true, and_self, if_true]

end Sys2Proof.Machine

namespace Sys2Proof.Claims

open Sys2Proof.Machine

/-- Settles O54: each form's question and its answer, the anchor's outcomes in the order of its checks, and what each event does to the towers. -/
theorem snapshotsAndMaintenance : Obligations.SnapshotsAndMaintenance := by
  refine ⟨?forms, ?refusals, ?anchor, ?copy, ?query, fun line s => exec_snapSweep, ?span, ?scdom, ?walk, ?dom,
    fun line s acc => exec_scFillComplete, fun s line acc => fillLine_installs acc, fun pa s => ⟨rfl, exec_scrubPatrol_corrects pa⟩⟩
  case forms =>
    intro d a t s va y h hn
    refine ⟨fun htrip hout => ?asks, exec_snapq_asks h hn, fun ws hans => ?answers⟩
    case asks =>
      exact ⟨exec_snapForm_asks .snap h hn htrip hout, exec_snapForm_asks .accept h hn htrip hout, exec_snapForm_asks .reject h hn htrip hout⟩
    case answers =>
      exact ⟨exec_snapForm_answered .snap h hn hans, exec_snapForm_answered .accept h hn hans, exec_snapForm_answered .reject h hn hans,
        exec_snapq_answered h hn hans⟩
  case refusals =>
    intro d a t s va y h htrip
    refine ⟨exec_snapq_noRange h, fun hn hout => ?noRange, fun hout => ?waits⟩
    case noRange =>
      have hrel : (y.trip.isNone && storesAndLoadsOut (popped s y) s.cur) = false := by simp [hout]
      exact ⟨exec_snapForm_noRange .snap h hrel hn, exec_snapForm_noRange .accept h hrel hn, exec_snapForm_noRange .reject h hrel hn⟩
    case waits =>
      exact ⟨exec_snapForm_waits .snap h htrip hout, exec_snapForm_waits .accept h htrip hout, exec_snapForm_waits .reject h htrip hout⟩
  case anchor =>
    rintro i s m op n user asid tw cfg hm hb hd hw rfl
    rw [exec_snapRecord hm hb hd hw, if_neg Bool.false_ne_true]
    refine ⟨fun hbad => ?range, fun hv ha hl => ?level, fun hv ha hop hl => ?records⟩
    case range => rw [if_pos (snapBad_eq_true hbad)]
    case level =>
      rw [snapBad_eq_false hv ha, if_neg Bool.false_ne_true]
      exact if_pos hl
    case records =>
      subst hop
      have hl' : rangeLevel (towerAt s tw) n < 4 := hl
      have hlevel : ¬ ((SnapOp.snap = .snap ∧ rangeLevel (towerAt s tw) n = 4) ∨
          (SnapOp.snap ≠ .snap ∧ rangeLevel (towerAt s tw) n = 0)) := by
        rintro (⟨-, h4⟩ | ⟨hne, -⟩)
        · exact Nat.ne_of_lt hl' h4
        · exact hne rfl
      rw [snapBad_eq_false hv ha, if_neg Bool.false_ne_true, if_neg hlevel]
      refine ⟨_, rfl, ?_, fun w h8 hne => ?_⟩
      · have hrec := rangeLevel_recordOp_snap (s := dropMsg s i) hl'
        rw [← towerAt_forwardOp _ tw m (.snapOp .snap n user asid true)] at hrec
        rw [answered, towerAt, answerTrip_towers]
        exact hrec
      · rw [answered, answerTrip_net]
        exact forwardMsg_mem_forwardOp _ _ _ h8 hne
  case copy =>
    intro i s m op n user asid tw hm hb hd hw hv
    rw [exec_snapRecord hm hb hd hw, if_pos rfl, if_pos hv]
  case query =>
    rintro i s m n user asid tw cfg hm hb hd rfl hv ha
    exact exec_snapqQuery hm hb hd (snapBad_eq_false hv ha)
  case span =>
    intro d a b t s va vb y h
    refine ⟨fun hs => ⟨spanForm_bad false h hs, spanForm_bad true h hs⟩,
      fun line n ws hs hans => ⟨spanForm_answered false h hs hans, spanForm_answered true h hs hans⟩, fun line n w hs htrip hw => ?_⟩
    obtain ⟨hmu, m, hm, hdst, hbody⟩ := spanForm_asks (t := t) false h hs htrip hw
    obtain ⟨hmv, p, hp⟩ := spanForm_asks (t := t) true h hs htrip hw
    exact ⟨_, _, m, rfl, rfl, hmu, hmv, hm, hdst, hbody, p, hp⟩
  case scdom => exact fun d a b t s va vb y ws h => ⟨exec_scdom_refused h, exec_scdom_answered h⟩
  case walk =>
    intro i s m inv noWb line n tw hm hb hd
    rw [exec_scSpanWalk hm hb hd]
    exact ⟨fun h => by rw [h, if_neg Bool.false_ne_true], fun h => by rw [if_pos h]⟩
  case dom =>
    exact fun i s m asid tw hm hd => ⟨exec_scdomUpdate hm hd, fun v => exec_scdomUpdate hm hd⟩

end Sys2Proof.Claims
end

section
/-! The read-only line cache at the reading core and the posted-store journal (R109, R110, R113): what each form does once its operands are read
and its address is formed; then the statement that is assembled from it. -/

namespace Sys2Proof.Machine

open Sys2Proof.Claims

/-! The end of a turn, and the address of an access. -/

theorem completes_of_done {s t : State} {r : Res} (h : r = .done t) : endsAs s r = completes s t := congrArg (endsAs s) h

/-- An access whose address is formed and that is no baton pass goes on at that address (R131, R150). -/
theorem onAddr_of_atAddr {z : State} {sg : BitVec 3} {base : Word} {o : BitVec 11} {n la pa : Nat} {need : Need} {acc : Acc}
    (h : AtAddr z sg base o n need la pa acc) (body : State → Nat → Nat → Acc → Res) :
    onAddr z sg.toNat (mAddr z sg base o n need) body = body z la pa acc := by
  obtain ⟨haddr, hattr⟩ := h
  have hm : mAddr z sg base o n need = .ok la pa acc := haddr
  simp [onAddr, hm, hattr]

/-- A loaded dword is the one that the claims name (R136). -/
theorem extend_eq_loaded_dword (bs : List Byte) : extend 8 false bs = loaded 8 false bs := by
  apply BitVec.eq_of_toNat_eq
  simp [extend, loaded, zextW, leWord, nw]

/-- A dword that the turn itself has read goes to the destination. -/
theorem deliverOwn_dword (z : State) (d a : GReg) (t : Bool) (pa : Nat) (bs : List Byte) :
    deliverOwn z d a t 8 false pa (.value bs) = .done (wrote z d a t (loaded 8 false bs)) := by
  rw [← extend_eq_loaded_dword]
  exact congrArg Res.done (modSlot_modSlot z z.cur _ _)

@[simp] theorem roLine_popped (s : State) (y : Slot) (core pa : Nat) : roLine (popped s y) core pa = roLine s core pa := rfl

/-! `ldro.64` and `pfro` (R110, R113). -/

section
variable {s : State} {d a b : GReg} {t : Bool} {sg : BitVec 3} {o : BitVec 11} {va vb : Word} {y : Slot} {la pa : Nat} {acc : Acc} {line : Nat}

section
variable (h : Reads s [a] (some d) [va] y) (hbar : y.barEHolds = false) (haddr : AtAddr (popped s y) sg va o 8 needR la pa acc)
include h hbar haddr

/-- A cached line is read, and the hit counted (R113, R122). -/
theorem exec_ldro64_hit {bs : List Byte} (hline : roLine s (coreOf s.cur) pa = some line)
    (hroc : SMap.get (fun _ => none) (coreAt s (coreOf s.cur)).roc line = some bs) :
    exec (.ldro64 d a t sg o) s = completes s (wrote
      (modCore (popped s y) (coreOf s.cur) fun c => c.setCreg 0x143 (addF (c.creg 0x143) 0 32 1)) d a t
      (loaded 8 false ((bs.drop (pa % 64)).take 8))) := by
  refine (next_withOps h _).trans (completes_of_done ?_)
  simp only [val_zero, popped_cur, slotAt_popped, hbar, onAddr_of_atAddr haddr, roLine_popped, hline, coreAt_popped, hroc, deliverOwn_dword,
    Bool.false_eq_true, if_false]

/-- A line that is not cached is filled, and the fill will write the destination (R113). -/
theorem exec_ldro64_fill {u : State} (hline : roLine s (coreOf s.cur) pa = some line)
    (hroc : SMap.get (fun _ => none) (coreAt s (coreOf s.cur)).roc line = none) (hstr : y.inStream d.toNat = none)
    (hfill : startRoFill (popped s y) s.cur pa acc [(s.cur, d.toNat, pa % 64)] = some u) :
    exec (.ldro64 d a t sg o) s = completes s (modSlot u s.cur fun x => (x.takeIf t a.toNat).pending d.toNat) := by
  refine (next_withOps h _).trans (completes_of_done ?_)
  simp only [val_zero, popped_cur, slotAt_popped, hbar, onAddr_of_atAddr haddr, roLine_popped, hline, coreAt_popped, hroc, hstr, hfill,
    Option.isSome_none, Bool.false_eq_true, if_false]

/-- At an address that the cache does not hold lines of, `ldro.64` is a load: of the own LM, it reads the dword (R136, R410). -/
theorem exec_ldro64_own {off : Nat} (hown : ownLm (popped s y) (coreOf s.cur) pa = .own off) (hline : roLine s (coreOf s.cur) pa = none)
    (hok : firstBad s (lmKey (coreOf s.cur) off) 8 = none) :
    exec (.ldro64 d a t sg o) s =
      completes s (wrote (popped s y) d a t (loaded 8 false (memBytes s (lmKey (coreOf s.cur) off) 8))) := by
  refine (next_withOps h _).trans (completes_of_done ?_)
  have hread : lmRead (popped s y) (coreOf s.cur) off 8 = .ok (popped s y) (memBytes s (lmKey (coreOf s.cur) off) 8) := by
    have hok' : firstBad (popped s y) (lmKey (coreOf s.cur) off) 8 = none := hok
    simp only [lmRead, hok']
    rfl
  simp only [val_zero, popped_cur, slotAt_popped, hbar, onAddr_of_atAddr haddr, roLine_popped, hline, loadAt, hown, hread, deliverOwn_dword,
    Bool.false_eq_true, if_false]

end

section
variable (h : Reads s [a] none [va] y) (hbar : y.barEHolds = false) (haddr : AtAddr (popped s y) sg va o 8 needR la pa acc)
  (hline : roLine s (coreOf s.cur) pa = some line)
include h hbar haddr hline

/-- A prefetch of a cached line does nothing (R113). -/
theorem exec_pfro_cached {bs : List Byte} (hroc : SMap.get (fun _ => none) (coreAt s (coreOf s.cur)).roc line = some bs) :
    exec (.pfro a t sg o) s = completes s (took (popped s y) a t) := by
  obtain ⟨hm, hattr⟩ := haddr
  refine (next_withOps h _).trans (completes_of_done ?_)
  have hm' : mAddr (popped s y) sg va o 8 needR = .ok la pa acc := hm
  have hattr' : attracts (popped s y) s.cur sg.toNat pa = false := hattr
  simp only [val_zero, popped_cur, slotAt_popped, hbar, hm', hattr', roLine_popped, hline, coreAt_popped, hroc, Option.isSome_some,
    Bool.false_eq_true, if_false, if_true]
  rfl

/-- A prefetch of another line starts a fill that no register waits for (R113). -/
theorem exec_pfro_fill {u : State} (hroc : SMap.get (fun _ => none) (coreAt s (coreOf s.cur)).roc line = none)
    (hfill : startRoFill (popped s y) s.cur pa acc [] = some u) : exec (.pfro a t sg o) s = completes s (took u a t) := by
  obtain ⟨hm, hattr⟩ := haddr
  refine (next_withOps h _).trans (completes_of_done ?_)
  have hm' : mAddr (popped s y) sg va o 8 needR = .ok la pa acc := hm
  have hattr' : attracts (popped s y) s.cur sg.toNat pa = false := hattr
  simp only [val_zero, popped_cur, slotAt_popped, hbar, hm', hattr', roLine_popped, hline, coreAt_popped, hroc, hfill, Option.isSome_none,
    Bool.false_eq_true, if_false]
  rfl

end

/-! `rocinv` and `pjwait` (R109, R113). -/

/-- The lines that a range of `n` bytes leaves in the cache are those that it does not touch; an empty range names every line. -/
theorem rocinv_filter (m : SMap (Option (List Byte))) (va vb : Word) :
    (if vb.toNat = 0 then ([] : SMap (Option (List Byte)))
      else m.filter fun e => !(decide (64 * e.1 < va.toNat + vb.toNat) && decide (va.toNat < 64 * e.1 + 64))) =
      m.filter fun e => decide (vb ≠ 0#64 ∧ (va.toNat + vb.toNat ≤ 64 * e.1 ∨ 64 * e.1 + 64 ≤ va.toNat)) := by
  by_cases hn : vb = 0#64
  · simp [hn]
  · have hpos : vb.toNat ≠ 0 := fun hzero => hn (BitVec.eq_of_toNat_eq hzero)
    rw [if_neg hpos]
    apply List.filter_congr
    intro e _
    rw [← Bool.decide_and, ← decide_not, decide_eq_decide]
    simp only [ne_eq, hn, not_false_eq_true, true_and]
    omega

theorem exec_rocinv (h : Reads s [a, b] none [va, vb] y) :
    exec (.rocinv a b t) s = completes s (took (modCore (popped s y) (coreOf s.cur) fun c =>
      { c with roc := c.roc.filter fun e =>
          decide (vb ≠ 0#64 ∧ (va.toNat + vb.toNat ≤ 64 * e.1 ∨ 64 * e.1 + 64 ≤ va.toNat)) }) a t) := by
  have hkept (c : Core) := congrArg (fun r : SMap (Option (List Byte)) => { c with roc := r }) (rocinv_filter c.roc va vb)
  exact (next_withOps h _).trans
    (completes_of_done (congrArg (fun f => Res.done (took (modCore (popped s y) (coreOf s.cur) f) a t)) (funext hkept)))

theorem exec_pjwait_empty (h : Reads s [] (some d) [] y) (hj : slotJ (coreAt s (coreOf s.cur)) s.cur = []) :
    exec (.pjwait d) s = completes s (modSlot (popped s y) s.cur fun x => { x.writeDst d.toNat (nw (min x.refc 65535)) with refc := 0 }) :=
  (next_withOps h _).trans (completes_of_done (if_neg (not_not_intro hj)))

theorem exec_pjwait_waits (h : Reads s [] (some d) [] y) (hj : slotJ (coreAt s (coreOf s.cur)) s.cur ≠ []) :
    exec (.pjwait d) s = waits s y :=
  (next_withOps h _).trans (waits_of_park (if_pos hj))

end

end Sys2Proof.Machine

namespace Sys2Proof.Claims

open Sys2Proof.Machine

/-- Settles O26: each form at a line that is cached, is not, or cannot be; and the journal with and without entries of the slot. -/
theorem readOnlyCacheAndJournal : Obligations.ReadOnlyCacheAndJournal := by
  refine ⟨?ldro, ?own, ?pfro, fun a b t s va vb y h => exec_rocinv h, fun d s y h => ⟨exec_pjwait_empty h, exec_pjwait_waits h⟩⟩
  case ldro =>
    exact fun d a t sg o s va y la pa acc line bs h hbar haddr hline =>
      ⟨exec_ldro64_hit h hbar haddr hline, fun hroc hstr u => exec_ldro64_fill h hbar haddr hline hroc hstr⟩
  case own =>
    exact fun d a t sg o s va y la pa acc off h hbar haddr => exec_ldro64_own h hbar haddr
  case pfro =>
    exact fun a t sg o s va y la pa acc line h hbar haddr hline =>
      ⟨fun bs => exec_pfro_cached h hbar haddr hline, fun hroc u => exec_pfro_fill h hbar haddr hline hroc⟩

end Sys2Proof.Claims
end

section
/-! Engine accesses at their homes and at their engines (R101, R119, R211, R267, R276): what a home does with a read and with a write, one lemma for
each way in which it can go; the answers at the engines; then the statement that is assembled from them. -/

namespace Sys2Proof.Machine

open Sys2Proof.Claims

theorem nextPiece_eq (pa n u : Nat) :
    nextPiece pa n u = if pa % 8 = 0 ∧ 8 ≤ n then 8 else if 0 < min u n ∧ pa % min u n = 0 then min u n else 1 := rfl

theorem find?_eq_none_of_forall_false {α : Type} {p : α → Bool} {l : List α} (h : ∀ x ∈ l, p x = false) : l.find? p = none :=
  List.find?_eq_none.mpr fun x hx => by simp [h x hx]

/-- The access at its home goes on with another body, in state `t`. -/
def goesOn (t : State) (i : Nat) (m : Msg) (b : Body) : State := { t with net := t.net.set i { m with body := b } }

/-! Reads at their homes. -/

/-- What a home does with the next piece of a read, of which `got` has been read. -/
def readStep (s : State) (i : Nat) (m : Msg) (pa n : Nat) (got : List Byte) (ref : EngRef) (acc : Acc) (more : List (Nat × Nat × Acc)) : State :=
  let k := nextPiece pa n ref.unit
  match homeReadRaw s pa k acc with
  | .ok u bs =>
    if k < n then goesOn u i m (.engRead (pa + k) (n - k) (got ++ bs) ref acc more)
    else match more with
      | [] => sendMsg (dropMsg u i) (replyTo m (.engReadReply ref (.value (got ++ bs))))
      | p :: more => goesOn u i m (.engRead p.1 p.2.1 (got ++ bs) ref p.2.2 more)
  | r => readRefused s i m ref (ref.part - (more.length + 1)) pa r

section
variable {s u : State} {i pa n : Nat} {m : Msg} {got bs : List Byte} {ref : EngRef} {acc : Acc} {more : List (Nat × Nat × Acc)}

section
variable (hm : arrives s i = some m) (hb : m.body = .engRead pa n got ref acc more) (hl : ∀ p, m.dst ≠ .link p) (hh : ∀ h, m.dst ≠ .host h)
include hm hb hl hh

/-- A read of which a piece's line is absent starts the fill of the first such line. -/
theorem exec_engineReadRequest_fill {p : Nat × Nat × Acc} (hp : ((pa, n, acc) :: more).find? (fun p => mustFill s p.1) = some p) :
    exec (.engineReadRequest i) s = .next (startFill s p.1 p.2.2) := by
  change execEngineReadRequest i s = _
  cases hd : m.dst with
  | link p => exact absurd hd (hl p)
  | host h => exact absurd hd (hh h)
  | _ => simp only [execEngineReadRequest, hm, hb, hd, hp]

section
variable (hf : ∀ p ∈ (pa, n, acc) :: more, mustFill s p.1 = false)
include hf

/-- A read that stands for one element is performed whole. -/
theorem exec_engineReadRequest_whole (h0 : ref.unit = 0) (hr : readAll 0 s ((pa, n, acc) :: more) [] = .ok (u, bs)) :
    exec (.engineReadRequest i) s = .next (sendMsg (dropMsg u i) (replyTo m (.engReadReply ref (.value bs)))) := by
  change execEngineReadRequest i s = _
  have hfind := find?_eq_none_of_forall_false hf
  cases hd : m.dst with
  | link p => exact absurd hd (hl p)
  | host h => exact absurd hd (hh h)
  | _ => simp only [execEngineReadRequest, hm, hb, hd, hfind, h0, hr, if_true]

/-- Another read is performed piece by piece. -/
theorem exec_engineReadRequest_step (h0 : ref.unit ≠ 0) :
    exec (.engineReadRequest i) s = .next (readStep s i m pa n got ref acc more) := by
  change execEngineReadRequest i s = _
  have hfind := find?_eq_none_of_forall_false hf
  cases hr : homeReadRaw s pa (nextPiece pa n ref.unit) acc with
  | ok u bs =>
    cases hd : m.dst with
    | link p => exact absurd hd (hl p)
    | host h => exact absurd hd (hh h)
    | _ =>
      simp only [execEngineReadRequest, readStep, goesOn, hm, hb, hd, hfind, h0, hr, if_false]
      cases more with
      | nil => exact (apply_ite Host.Outcome.next _ _ _).symm
      | cons p more => exact (apply_ite Host.Outcome.next _ _ _).symm
  | _ =>
    cases hd : m.dst with
    | link p => exact absurd hd (hl p)
    | host h => exact absurd hd (hh h)
    | _ =>
      simp only [execEngineReadRequest, readStep, hm, hb, hd, hfind, h0, hr, if_false, List.length_cons]

end
end

theorem readStep_next (hr : homeReadRaw s pa (nextPiece pa n ref.unit) acc = .ok u bs) (hk : nextPiece pa n ref.unit < n) :
    readStep s i m pa n got ref acc more =
      goesOn u i m (.engRead (pa + nextPiece pa n ref.unit) (n - nextPiece pa n ref.unit) (got ++ bs) ref acc more) := by
  simp only [readStep, hr, hk, if_true]

theorem readStep_answers (hr : homeReadRaw s pa (nextPiece pa n ref.unit) acc = .ok u bs) (hk : n ≤ nextPiece pa n ref.unit) :
    readStep s i m pa n got ref acc [] = sendMsg (dropMsg u i) (replyTo m (.engReadReply ref (.value (got ++ bs)))) := by
  simp only [readStep, hr, Nat.not_lt.mpr hk, if_false]

theorem readStep_more {p : Nat × Nat × Acc} (hr : homeReadRaw s pa (nextPiece pa n ref.unit) acc = .ok u bs)
    (hk : n ≤ nextPiece pa n ref.unit) :
    readStep s i m pa n got ref acc (p :: more) = goesOn u i m (.engRead p.1 p.2.1 (got ++ bs) ref p.2.2 more) := by
  simp only [readStep, hr, Nat.not_lt.mpr hk, if_false]

theorem readStep_poison {c a : Nat} (hr : homeReadRaw s pa (nextPiece pa n ref.unit) acc = .poison u c a) :
    readStep s i m pa n got ref acc more =
      sendMsg (dropMsg u i) (replyTo m (.engReadReply { ref with part := ref.part - (more.length + 1) } (.poison c a))) := by
  simp only [readStep, hr, readRefused]

theorem readStep_deny {e : Deny} (hr : homeReadRaw s pa (nextPiece pa n ref.unit) acc = .deny u e) :
    readStep s i m pa n got ref acc more = sendMsg (dropMsg u i)
      (replyTo m (.engReadReply { ref with part := ref.part - (more.length + 1) } (.poison (e.seenBy m.src).cause pa))) := by
  simp only [readStep, hr, readRefused]

end

/-! Writes at their homes. -/

section
variable {s u : State} {i pa : Nat} {m : Msg} {data bs : List Byte} {ref : EngRef} {acc : Acc} {dict : Option (Nat × Nat)} {more : List PutPiece}

section
variable (hm : arrives s i = some m) (hb : m.body = .engWrite pa data ref acc dict more) (hl : ∀ p, m.dst ≠ .link p) (hh : ∀ h, m.dst ≠ .host h)
  (hne : data ≠ []) (hf : ∀ p ∈ (⟨pa, data, acc, dict⟩ :: more : List PutPiece), mustFill s p.pa = false)
include hm hb hl hh hne hf

/-- A write of which a piece is refused performs no more pieces and answers why (R120, R211). -/
theorem exec_engineWrite_refused {j c : Nat} (hp : putRefused s m.src 0 s (⟨pa, data, acc, dict⟩ :: more) = some (j, u, c)) :
    exec (.engineWrite i) s = .next (sendMsg (dropMsg u i)
      (replyTo m (.engWriteAck { ref with part := ref.part - (more.length + 1) + j } (some c)))) := by
  change execEngineWrite i s = _
  have hfind := find?_eq_none_of_forall_false hf
  obtain ⟨b, bs, rfl⟩ := List.exists_cons_of_ne_nil hne
  cases hd : m.dst with
  | link p => exact absurd hd (hl p)
  | host h => exact absurd hd (hh h)
  | _ => simp only [execEngineWrite, hm, hb, hd, hfind, hp, List.length_cons]

section
variable (hp : putRefused s m.src 0 s (⟨pa, data, acc, dict⟩ :: more) = none)
include hp

/-- The last piece of a write is performed with its acknowledgement, which the directory may hold (R111). -/
theorem exec_engineWrite_last (hk : data.length ≤ nextPut s pa data.length ref.unit) (hmore : more = [])
    (hw : homeWrite (dropMsg s i) pa data acc (some (replyTo m (.engWriteAck ref none))) = .ok u bs) : exec (.engineWrite i) s = .next u := by
  change execEngineWrite i s = _
  have hfind := find?_eq_none_of_forall_false hf
  have hlast : data.length ≤ nextPut s pa data.length ref.unit ∧ more = [] := ⟨hk, hmore⟩
  obtain ⟨b, bs, rfl⟩ := List.exists_cons_of_ne_nil hne
  cases hd : m.dst with
  | link p => exact absurd hd (hl p)
  | host h => exact absurd hd (hh h)
  | _ => simp only [execEngineWrite, hm, hb, hd, hfind, hp, hw, if_pos hlast]

/-- Another piece is performed without one, and the write goes on behind it (R267). -/
theorem exec_engineWrite_piece (hk : nextPut s pa data.length ref.unit < data.length ∨ more ≠ [])
    (hw : homeWrite s pa (data.take (nextPut s pa data.length ref.unit)) acc none = .ok u bs) :
    exec (.engineWrite i) s = .next (goesOn u i m (.engWrite (pa + nextPut s pa data.length ref.unit)
      (data.drop (nextPut s pa data.length ref.unit)) ref acc none (more.map fun p => { p with dict := none }))) := by
  change execEngineWrite i s = _
  have hfind := find?_eq_none_of_forall_false hf
  have hrest : ¬ (data.length ≤ nextPut s pa data.length ref.unit ∧ more = []) := fun ⟨hle, hnil⟩ =>
    hk.elim (Nat.not_lt.mpr hle) (fun h => h hnil)
  obtain ⟨b, bs, rfl⟩ := List.exists_cons_of_ne_nil hne
  cases hd : m.dst with
  | link p => exact absurd hd (hl p)
  | host h => exact absurd hd (hh h)
  | _ => simp only [execEngineWrite, goesOn, hm, hb, hd, hfind, hp, hw, if_neg hrest]

end
end

/-- A write whose line the directory has dealt with goes on to its next piece (R111). -/
theorem exec_engineWrite_empty {p : PutPiece} (hm : arrives s i = some m) (hb : m.body = .engWrite pa [] ref acc dict (p :: more))
    (hl : ∀ p, m.dst ≠ .link p) (hh : ∀ h, m.dst ≠ .host h) :
    exec (.engineWrite i) s = .next (if lineWaits s (pa - 1) then s else goesOn s i m (.engWrite p.pa p.data ref p.acc none more)) := by
  change execEngineWrite i s = _
  cases hd : m.dst with
  | link p => exact absurd hd (hl p)
  | host h => exact absurd hd (hh h)
  | _ =>
    simp only [execEngineWrite, goesOn, hm, hb, hd]
    exact (apply_ite Host.Outcome.next _ _ _).symm

/-- A piece compressed with another dictionary is refused before any other check (R120). -/
theorem putRefused_dict (src : Agent) (h : wireOk s pa dict = false) :
    putRefused s src 0 s (⟨pa, data, acc, dict⟩ :: more) = some (0, s, 0x62) := by
  simp only [putRefused, h, Bool.not_false, if_true]

end

/-! Answers at their engines. -/

section
variable {s : State} {i : Nat} {m : Msg} {ref : EngRef} (hm : arrives s i = some m)
include hm

theorem exec_engineReadReply {v : Reply} (hb : m.body = .engReadReply ref v) :
    exec (.engineReadReply i) s = .next (toEngineRead (dropMsg s i) ref v) := by
  change execEngineReadReply i s = _
  simp only [execEngineReadReply, hm, hb]

theorem exec_engineWrite_ack {err : Option Nat} (hb : m.body = .engWriteAck ref err) :
    exec (.engineWrite i) s = .next (toEngineWrite (dropMsg s i) ref err) := by
  change execEngineWrite i s = _
  simp only [execEngineWrite, hm, hb]

end

end Sys2Proof.Machine

namespace Sys2Proof.Claims

open Sys2Proof.Machine

/-- Settles O46: a read and a write at their home in each of the ways that they can go, and the answers at the engines that wait for them. -/
theorem engineMessages : Obligations.EngineMessages := by
  refine ⟨?read, nextPiece_eq, ?write, fun i s m pa ref acc dict p more hm hb hl hh => exec_engineWrite_empty hm hb hl hh, ?_, ?_, ?_, ?_⟩
  case read =>
    rintro i s m pa n got ref acc more k hm hb hl hh rfl
    refine ⟨fun hf => ⟨fun h0 => ?pieces, fun h0 u bs => exec_engineReadRequest_whole hm hb hl hh hf h0⟩,
      fun p => exec_engineReadRequest_fill hm hb hl hh⟩
    rw [exec_engineReadRequest_step hm hb hl hh hf h0]
    refine ⟨fun u bs hr => ⟨fun hk hmore => ?_, fun hk p rest hmore => ?_, fun hk => ?_⟩, fun u c a hr => ?_, fun u e hr => ?_⟩
    · rw [hmore, readStep_answers hr hk]
    · rw [hmore, readStep_more hr hk, goesOn]
    · rw [readStep_next hr hk, goesOn]
    · rw [readStep_poison hr]
    · rw [readStep_deny hr]
  case write =>
    rintro i s m pa data ref acc dict more k hm hb hne hl hh hf rfl
    exact ⟨fun hp => ⟨fun hk hmore u bs => exec_engineWrite_last hm hb hl hh hne hf hp hk hmore,
      fun hk u bs => exec_engineWrite_piece hm hb hl hh hne hf hp hk⟩,
      fun j u c => exec_engineWrite_refused hm hb hl hh hne hf, putRefused_dict m.src⟩
  · intro i s m ref v core hm hb he
    rw [exec_engineReadReply hm hb, toEngineRead, he]
  · intro i s m ref v core hm hb he
    rw [exec_engineReadReply hm hb, toEngineRead, he]
  · intro i s m ref err core hm hb he
    rw [exec_engineWrite_ack hm hb, toEngineWrite, he]
  · intro i s m ref err core hm hb he
    rw [exec_engineWrite_ack hm hb, toEngineWrite, he]

end Sys2Proof.Claims
end

section
/-! Message, dictionary, handler-end and hop forms (R115, R117, R118, R152, R154): what each form does once its operands are read, with the start of
a baton pass; then the statement that is assembled from them. -/

namespace Sys2Proof.Machine

open Sys2Proof.Claims

@[simp] theorem amDest_popped (s : State) (y : Slot) (v : Word) : amDest (popped s y) v = amDest s v := rfl
@[simp] theorem localPa_popped (s : State) (y : Slot) (pa : Nat) : localPa (popped s y) pa = localPa s pa := rfl
@[simp] theorem lmCore_popped (s : State) (y : Slot) (pa : Nat) : lmCore (popped s y) pa = lmCore s pa := rfl

/-! Sending (R115). -/

section
variable {s : State} {a b : GReg} {t : Bool} {ty : BitVec 8} {va vb : Word} {y : Slot}

theorem sendActive_noPlace (useDict : Bool) (h : Reads s [a, b] none [va, vb] y) (hdst : amDest s va = none) :
    sendActive useDict a b t ty s = traps s 0x10 va := by
  refine (next_withOps h _).trans (traps_of_trap ?_)
  simp only [val_zero, amDest_popped, hdst]

/-- The message that a payload of `len` bytes at `off` leaves as. -/
def activeOut (s : State) (y : Slot) (dst : Agent) (va : Word) (ty : BitVec 8) (len off : Nat) (dict : Option (Nat × Nat)) (bs : List Byte) : Msg :=
  ⟨.ni (coreOf s.cur), dst, localPa s va.toNat, s.cur, y.phase, .activeMsg ty.toNat len off dict bs none⟩

section
variable {dst : Agent} {node off len : Nat} {bs : List Byte} (h : Reads s [a, b] none [va, vb] y) (hdst : amDest s va = some (dst, node))
  (hoff : off = vb.toNat % 2 ^ 19) (hlen : len = vb.toNat / 2 ^ 20 % 2 ^ 9) (hoff8 : off % 8 = 0) (hlen8 : len % 8 = 0) (hmax : len ≤ 496)
  (hseg : off + len ≤ segLimit (y.segLo 1) (y.segHi 1)) (hni : (coreAt s (coreOf s.cur)).ni.length < 2)
  (hbs : lmBytesAt (popped s y) off len = .ok bs)
include h hdst hoff hlen hoff8 hlen8 hmax hseg hni hbs

/-- A payload without a use for a dictionary leaves as it is. -/
theorem sendActive_plain (useDict : Bool) (hz : useDict = true → (dictAt (coreAt s (coreOf s.cur)) (vb.toNat / 2 ^ 60)).v = false ∨
      compress (dictAt (coreAt s (coreOf s.cur)) (vb.toNat / 2 ^ 60)).words bs = none) :
    sendActive useDict a b t ty s =
      completes s (took (niPost (popped s y) (coreOf s.cur) (activeOut s y dst va ty len off none bs)) a t) := by
  have hnone : (if useDict = true ∧ (dictAt (coreAt s (coreOf s.cur)) (vb.toNat / 2 ^ 60)).v = true then
      compress (dictAt (coreAt s (coreOf s.cur)) (vb.toNat / 2 ^ 60)).words bs else none) = none := by
    by_cases hu : useDict = true
    · rcases hz hu with hv | hc
      · simp only [hv, Bool.false_eq_true, and_false, if_false]
      · simp only [hc, ite_self]
    · simp only [hu, false_and, Bool.false_eq_true, if_false]
  refine (next_withOps h _).trans (completes_of_done ?_)
  simp only [val_zero, val_one, popped_cur, coreAt_popped, slotAt_popped, amDest_popped, localPa_popped, hdst, bitF_zero, ← hoff,
    (show bitF vb 20 9 = len from hlen.symm), bitF_high vb (lo := 60) (n := 4) rfl, hoff8, hlen8, Nat.not_lt.mpr hmax, Nat.not_lt.mpr hseg,
    Nat.not_le.mpr hni, hbs, hnone, ne_eq, not_true_eq_false, or_self, if_false]
  rfl

/-- A payload that the dictionary makes shorter leaves compressed (R119). -/
theorem sendActive_compressed {zs : List Byte} (hv : (dictAt (coreAt s (coreOf s.cur)) (vb.toNat / 2 ^ 60)).v = true)
    (hz : compress (dictAt (coreAt s (coreOf s.cur)) (vb.toNat / 2 ^ 60)).words bs = some zs) :
    sendActive true a b t ty s = completes s (took (niPost (popped s y) (coreOf s.cur) (activeOut s y dst va ty len off
      (some (vb.toNat / 2 ^ 60, (dictAt (coreAt s (coreOf s.cur)) (vb.toNat / 2 ^ 60)).tag)) zs)) a t) := by
  refine (next_withOps h _).trans (completes_of_done ?_)
  simp only [val_zero, val_one, popped_cur, coreAt_popped, slotAt_popped, amDest_popped, localPa_popped, hdst, bitF_zero, ← hoff,
    (show bitF vb 20 9 = len from hlen.symm), bitF_high vb (lo := 60) (n := 4) rfl, hoff8, hlen8, Nat.not_lt.mpr hmax, Nat.not_lt.mpr hseg,
    Nat.not_le.mpr hni, hbs, hv, hz, ne_eq, not_true_eq_false, or_self, if_false, and_self, if_true]
  rfl

end
end

/-! Dictionary slots (R118). -/

section
variable {s : State} {a b : GReg} {t : Bool} {va vb : Word} {y : Slot}

theorem exec_nidict {hd bs : List Byte} {n : Nat} (h : Reads s [a, b] none [va, vb] y) (hslot : va.toNat ≤ 15) (hal : vb.toNat % 8 = 0)
    (hhd : lmBytesAt (popped s y) vb.toNat 8 = .ok hd) (hn : n = leNat hd % 128) (hn0 : n ≠ 0) (hn64 : n ≤ 64)
    (hseg : vb.toNat + 8 + 8 * n ≤ segLimit (y.segLo 1) (y.segHi 1)) (hbs : lmBytesAt (popped s y) (vb.toNat + 8) (8 * n) = .ok bs) :
    exec (.nidict a b t) s = completes s (took (modCore (popped s y) (coreOf s.cur) fun c =>
      setDict c va.toNat ⟨true, crc32 bs % 65536, dwords n bs⟩) a t) := by
  refine (next_withOps h _).trans (completes_of_done ?_)
  simp only [val_zero, val_one, popped_cur, slotAt_popped, Nat.not_lt.mpr hslot, hal, hhd, ← hn, hn0, Nat.not_lt.mpr hn64, Nat.not_lt.mpr hseg, hbs,
    ne_eq, not_true_eq_false, or_self, if_false]
  rfl

section
variable (h : Reads s [a] none [va] y)
include h

theorem exec_niclr (hslot : va.toNat ≤ 15) :
    exec (.niclr a t) s = completes s (took (modCore (popped s y) (coreOf s.cur) fun c =>
      setDict c va.toNat { dictAt c va.toNat with v := false }) a t) :=
  (next_withOps h _).trans (completes_of_done (if_neg (Nat.not_lt.mpr hslot)))

theorem exec_niclr_noSlot (hslot : 15 < va.toNat) : exec (.niclr a t) s = traps s 0x62 va := by
  have hva : nw va.toNat = va := by simp [nw]
  exact (next_withOps h _).trans (traps_of_trap ((if_pos hslot).trans (by rw [val_zero, hva])))

end
end

/-! The end of a handler (R117). -/

theorem exec_mend_noHandler {s : State} (h : (slotAt s s.cur).hnd = none) : exec .mend s = traps s 0x3B 0#64 := by
  change execMend s = _
  simp only [execMend, h]
  rfl

theorem exec_mend {s : State} {p : Nat} (h : (slotAt s s.cur).hnd = some p) :
    exec .mend s = leaves s (modSlot (modCore (touchPhase s (ringPhase (coreAt s (coreOf s.cur)) p)) (coreOf s.cur) fun c =>
      { c with amHeld := c.amHeld.filter fun h => decide (h.1 ≠ p) }) s.cur fun x => { x with st := .waiting, traps := [], hnd := none }) := by
  change execMend s = _
  simp only [execMend, h]
  rfl

/-! A thread moves to another core (R152, R154). -/

/-- The message of a baton pass. -/
def batonOut (z : State) (k c t : Nat) (pc : Word) (took : Slot → Slot) : Msg :=
  ⟨.ni (coreOf k), .ni c, t, k, (slotAt z k).phase,
    .baton (ctxBytes (modSlot z k took) k pc ++ unitBytes (slotAt z k).unit) (bitF ((slotAt z k).creg 0x0D0) 32 32)⟩

/-- The state after a baton pass to core `c` has been handed to the NI under tag `t`. -/
def batonSent (z : State) (k pa c t : Nat) (pc : Word) (took : Slot → Slot) : State :=
  modSlot (modCore z (coreOf k) fun x =>
    { setReq x t (some ⟨.trip, k, 0, 0, false, none, batonOut z k c t pc took, 1, none, false, []⟩) with
      ni := x.ni ++ [batonOut z k c t pc took] }) k fun x => { x with baton := some ⟨pa, pc, 0, true, none⟩ }

/-- A pass that nothing refuses and nothing holds is sent (R152). -/
theorem startPass_sends {z : State} {k pa c tag : Nat} (pc : Word) (took : Slot → Slot) (hc : lmCore z pa = some c)
    (hreason : passReason z k = none) (hpend : (slotAt z k).pend = 0#32) (hreplies : repliesOut z k = false) (hposts : slotPosts z k = false)
    (hbarS : barsHold (coreAt z (coreOf k)) (slotAt z k).barS = false) (hbarE : (slotAt z k).barEHolds = false)
    (htag : freeTag (coreAt z (coreOf k)) = some tag) : startPass z k pa pc took = .park (batonSent z k pa c tag pc took) := by
  simp only [startPass, hreason, hpend, hreplies, hposts, hbarS, hbarE, htag, hc, ne_eq, not_true_eq_false, Bool.false_eq_true, or_self, if_false]
  rfl

section
variable {s : State} {a : GReg} {t : Bool} {va : Word} {y : Slot} {la pa : Nat} {acc : Acc}

/-- The end of a turn that has sent a baton: the message is the NI's last, and the slot remembers the pass. -/
theorem batonSent_effect (c tag : Nat) (pc : Word) (took : Slot → Slot) :
    ∃ u, endsAs s (.park (batonSent (popped s y) s.cur pa c tag pc took)) = .next u ∧
      (coreAt u (coreOf s.cur)).ni = (coreAt s (coreOf s.cur)).ni ++ [batonOut (popped s y) s.cur c tag pc took] ∧
      (slotAt u s.cur).baton = some ⟨pa, pc, 0, true, none⟩ := by
  refine ⟨_, rfl, ?_, ?_⟩
  · simp [Res.keepStreams, finish_park, batonSent]
  · simp [Res.keepStreams, finish_park, batonSent, Slot.parkTurn]

section
variable (h : Reads s [a] none [va] y) (haddr : ptrAddr (popped s y) s.cur va 1 {} = .ok la pa acc) (hmode : y.mode = .user)
include h haddr hmode

theorem exec_hop_here (hc : lmCore s pa = some (coreOf s.cur)) : exec (.hop a t) s = completes s (took (popped s y) a t) := by
  refine (next_withOps h _).trans (completes_of_done ?_)
  simp only [val_zero, popped_cur, haddr, slotAt_popped, hmode, lmCore_popped, hc, reduceCtorEq, if_false, if_true]
  rfl

theorem exec_hop_nowhere (hc : lmCore s pa = none) : exec (.hop a t) s = traps s 0x10 (nw la) := by
  refine (next_withOps h _).trans (traps_of_trap ?_)
  simp only [val_zero, popped_cur, haddr, slotAt_popped, hmode, lmCore_popped, hc, reduceCtorEq, if_false]

/-- A hop to another core is a baton pass that resumes behind it. -/
theorem exec_hop_passes {c : Nat} (hc : lmCore s pa = some c) (hne : c ≠ coreOf s.cur) :
    exec (.hop a t) s = endsAs s (startPass (popped s y) s.cur pa (y.pc + 4#64) fun x => x.takeIf t a.toNat) := by
  refine (next_withOps h _).trans (congrArg (endsAs s) ?_)
  simp only [val_zero, popped_cur, haddr, slotAt_popped, hmode, lmCore_popped, hc, hne, reduceCtorEq, if_false]

end
end

end Sys2Proof.Machine

namespace Sys2Proof.Claims

open Sys2Proof.Machine

/-- Settles O39: the message forms with and without a destination and a use for a dictionary, the dictionary forms by their slot, `mend` with and
without a handler, and `hop` by the core that it names. -/
theorem messageForms : Obligations.MessageForms := by
  refine ⟨?sends, fun a b t ty s va vb y h hd => ⟨sendActive_noPlace false h hd, sendActive_noPlace true h hd⟩,
    fun a b t s va vb y hd bs n => exec_nidict, fun a t s va y h => ⟨exec_niclr h, exec_niclr_noSlot h⟩,
    fun s => exec_mend_noHandler, fun s p => exec_mend, ?hop⟩
  case sends =>
    intro a b t ty s va vb y dst node bs off len h hdst hoff hlen hoff8 hlen8 hmax hseg hni hbs
    have hplain := sendActive_plain (t := t) (ty := ty) h hdst hoff hlen hoff8 hlen8 hmax hseg hni hbs
    refine ⟨hplain false (by simp), ?_, ?_⟩
    · rintro k zs rfl hv hz
      exact sendActive_compressed h hdst hoff hlen hoff8 hlen8 hmax hseg hni hbs hv hz
    · rintro k rfl hz
      exact (hplain true fun _ => hz).trans (hplain false (by simp)).symm
  case hop =>
    intro a t s va y la pa acc h haddr hmode
    refine ⟨exec_hop_here h haddr hmode, exec_hop_nowhere h haddr hmode, ?_⟩
    intro c tag hc hne hreason hpend hreplies hposts hbarS hbarE htag
    have hsent := startPass_sends (z := popped s y) (k := s.cur) (y.pc + 4#64) (fun x => x.takeIf t a.toNat) hc hreason (by simpa using hpend)
      hreplies hposts (by simpa using hbarS) (by simpa using hbarE) htag
    obtain ⟨u, hu, hni, hbaton⟩ := batonSent_effect (s := s) (y := y) (pa := pa) c tag (y.pc + 4#64) fun x => x.takeIf t a.toNat
    refine ⟨u, batonOut (popped s y) s.cur c tag (y.pc + 4#64) fun x => x.takeIf t a.toNat, ?_, hni, rfl, hbaton, ?_⟩
    · rw [exec_hop_passes h haddr hmode hc hne, hsent, hu]
    · rw [batonOut, slotAt_popped, bitF_high _ (by rfl)]
      rfl

end Sys2Proof.Claims
end

section
/-! Answers at the requester (R106 to R109, R138, R145, R341). First the laws of what an event of a core leaves alone, and of its requests and journal
entries; then what each answer does; then the statement that is assembled from them. -/

namespace Sys2Proof.Machine

open Sys2Proof.Claims

/-! Events of a core (R329). -/

/-- A raised event changes the event queue of its core, or the registers that count a lost one, and nothing else of any core. -/
theorem raiseEvent_keeps {α : Type} (f : Core → α) (hf : ∀ c r e, f { c with regs := r, evq := e } = f c) (s : State) (core cause : Nat)
    (v : Word) (j : Nat) : f (coreAt (raiseEvent s core cause v) j) = f (coreAt s j) := by
  unfold raiseEvent
  by_cases hj : j = core
  · subst hj
    rw [coreAt_modCore_self]
    split
    · exact hf (coreAt s j) (coreAt s j).regs _
    · exact hf (coreAt s j) _ (coreAt s j).evq
  · rw [coreAt_modCore_ne s _ hj]

@[simp] theorem slotAt_raiseEvent (s : State) (core cause : Nat) (v : Word) (k : Nat) : slotAt (raiseEvent s core cause v) k = slotAt s k := rfl
@[simp] theorem clusterAt_raiseEvent (s : State) (core cause : Nat) (v : Word) (k : Nat) :
    clusterAt (raiseEvent s core cause v) k = clusterAt s k := rfl
@[simp] theorem raiseEvent_modul (s : State) (core cause : Nat) (v : Word) : (raiseEvent s core cause v).modul = s.modul := rfl
@[simp] theorem raiseEvent_net (s : State) (core cause : Nat) (v : Word) : (raiseEvent s core cause v).net = s.net := rfl

section
variable (s : State) (core cause : Nat) (v : Word) (j n : Nat)

@[simp] theorem jAt_raiseEvent : jAt (coreAt (raiseEvent s core cause v) j) n = jAt (coreAt s j) n :=
  raiseEvent_keeps (fun c => jAt c n) (fun _ _ _ => rfl) s core cause v j
@[simp] theorem reqAt_raiseEvent : reqAt (coreAt (raiseEvent s core cause v) j) n = reqAt (coreAt s j) n :=
  raiseEvent_keeps (fun c => reqAt c n) (fun _ _ _ => rfl) s core cause v j
@[simp] theorem dirAt_raiseEvent : dirAt (coreAt (raiseEvent s core cause v) j) n = dirAt (coreAt s j) n :=
  raiseEvent_keeps (fun c => dirAt c n) (fun _ _ _ => rfl) s core cause v j
@[simp] theorem ovfQ_raiseEvent : (coreAt (raiseEvent s core cause v) j).ovfQ = (coreAt s j).ovfQ :=
  raiseEvent_keeps Core.ovfQ (fun _ _ _ => rfl) s core cause v j
@[simp] theorem ni_raiseEvent : (coreAt (raiseEvent s core cause v) j).ni = (coreAt s j).ni :=
  raiseEvent_keeps Core.ni (fun _ _ _ => rfl) s core cause v j
@[simp] theorem xq_raiseEvent : (coreAt (raiseEvent s core cause v) j).xq = (coreAt s j).xq :=
  raiseEvent_keeps Core.xq (fun _ _ _ => rfl) s core cause v j
@[simp] theorem vq_raiseEvent : (coreAt (raiseEvent s core cause v) j).vq = (coreAt s j).vq :=
  raiseEvent_keeps Core.vq (fun _ _ _ => rfl) s core cause v j
@[simp] theorem amHeld_raiseEvent : (coreAt (raiseEvent s core cause v) j).amHeld = (coreAt s j).amHeld :=
  raiseEvent_keeps Core.amHeld (fun _ _ _ => rfl) s core cause v j
@[simp] theorem amQ_raiseEvent : (coreAt (raiseEvent s core cause v) j).amQ = (coreAt s j).amQ :=
  raiseEvent_keeps Core.amQ (fun _ _ _ => rfl) s core cause v j

end

/-- With room in its queue a core takes the event. -/
theorem evq_raiseEvent {s : State} {core : Nat} (cause : Nat) (v : Word) (h : (coreAt s core).evq.length < 16) :
    (coreAt (raiseEvent s core cause v) core).evq = (coreAt s core).evq ++ [(cause, v)] := by
  simp only [raiseEvent, coreAt_modCore_self, h, if_true]

/-! Requests and journal entries of a core. -/

@[simp] theorem reqAt_setReq_self (c : Core) (t : Nat) (r : Option Req) : reqAt (setReq c t r) t = r := SMap.get_set_self _ _ _ _
theorem jAt_setJ_ne (c : Core) {e f : Nat} (j : Option JEntry) (h : f ≠ e) : jAt (setJ c e j) f = jAt c f := SMap.get_set_ne _ _ _ h
@[simp] theorem slotAt_freeReq (s : State) (core t k : Nat) : slotAt (freeReq s core t) k = slotAt s k := rfl

/-! Delivery (R106, R138). -/

/-- A reply to a full destination: the register is full and no longer pending. -/
theorem deliverReg_bits (s : State) (k size : Nat) (signed : Bool) (v : Reply) {r : Nat} (h0 : r ≠ 0) (h : r < 32) :
    bitOf (slotAt (deliverReg s k r size signed v) k).full r = true ∧ bitOf (slotAt (deliverReg s k r size signed v) k).pend r = false := by
  cases v with
  | value bs => simp [deliverReg, Slot.unpend, bitOf_bitClr, Slot.setReg, h0, bitOf_bitSet, h]
  | poison c a => simp [deliverReg, Slot.unpend, bitOf_bitClr, Slot.setPoison, h0, bitOf_bitSet, h]

theorem deliverReg_value (s : State) (k size : Nat) (signed : Bool) (bs : List Byte) {r : Nat} (h0 : r ≠ 0) (h : r < 32) :
    (slotAt (deliverReg s k r size signed (.value bs)) k).reg r = extend size signed bs ∧
      bitOf (slotAt (deliverReg s k r size signed (.value bs)) k).pois r = false := by
  have hreg : (((slotAt s k).setReg r (extend size signed bs)).unpend r).reg r = extend size signed bs := Slot.reg_setReg_self _ _ h0
  simpa [deliverReg, Slot.bitOf_pois_setReg, h0, h] using hreg

theorem deliverReg_poison (s : State) (k size : Nat) (signed : Bool) (c a : Nat) {r : Nat} (h0 : r ≠ 0) (h : r < 32) :
    bitOf (slotAt (deliverReg s k r size signed (.poison c a)) k).pois r = true ∧
      (slotAt (deliverReg s k r size signed (.poison c a)) k).reg r = BitVec.ofNat 64 (c % 128 * 2 ^ 57 + a % 2 ^ 56) := by
  simp [deliverReg, Slot.setPoison, h0, bitOf_bitSet, h, Slot.reg, poisonWord, nw]

section
variable {s : State} {i core : Nat} {m : Msg} {r : Req} {v : Reply}

/-- The answer of a request for a register frees its tag and goes to the register. -/
theorem deliver_register {t : Nat} (hr : reqAt (coreAt s core) t = some r) (hk : r.kind = .load ∨ r.kind = .atomic ∨ r.kind = .sync) :
    deliver s core t v = deliverReg (freeReq s core t) r.slot r.reg r.size r.signed (replyAtCore v) := by
  rcases hk with hk | hk | hk <;> simp only [deliver, hr, hk]

section
variable (hm : arrives s i = some m) (hd : m.dst = .ni core)
include hm hd

theorem exec_loadReply (hb : m.body = .loadReply v) : exec (.loadReply i) s = .next (deliver (dropMsg s i) core m.tag v) := by
  change execLoadReply i s = _
  simp only [execLoadReply, hm, hb, hd]

theorem exec_atomicReply (hb : m.body = .atomicReply v) : exec (.atomicReply i) s = .next (deliver (dropMsg s i) core m.tag v) := by
  change execAtomicReply i s = _
  simp only [execAtomicReply, hm, hb, hd]

theorem exec_syncReply (hb : m.body = .syncReply v) : exec (.syncReply i) s = .next (deliver (dropMsg s i) core m.tag v) := by
  change execSyncReply i s = _
  simp only [execSyncReply, hm, hb, hd]

/-! The posted-store journal (R107, R108). -/

theorem exec_storeAck (hb : m.body = .storeAck) : exec (.storeAck i) s = .next (modCore (dropMsg s i) core fun c =>
    if ((jAt c m.tag).map JEntry.refused).getD false then c else setJ c m.tag none) := by
  change execStoreAck i s = _
  simp only [execStoreAck, hm, hb, hd]

theorem exec_storeRefusal {reason : Nat} (hb : m.body = .storeRefusal reason) : exec (.storeRefusal i) s =
    .next (raiseEvent (refuseJ (dropMsg s i) core m.tag reason) core (reasonCause reason) (refusalTval m.tag m.who reason)) := by
  change execStoreRefusal i s = _
  simp only [execStoreRefusal, hm, hb, hd]

/-! Retries and withdrawals (R145, R341). -/

section
variable (hb : m.body = .syncRetry) (hr : reqAt (coreAt s core) m.tag = some r) (hw : r.withdrawn = false)
include hb hr hw

theorem exec_syncRetry_limit (hlim : ((coreAt s core).creg 0x102).toNat % 2 ^ 8 ≤ r.tries) :
    exec (.syncRetry i) s = .next (deliver (dropMsg s i) core m.tag (.poison 0x30 (retryPa s core r))) := by
  change execSyncRetry i s = _
  simp only [execSyncRetry, hm, hb, hd, coreAt_dropMsg, hr, hw, bitF_zero, hlim, Bool.false_eq_true, if_false, if_true]
  rfl

theorem exec_syncRetry_backoff (hlim : r.tries < ((coreAt s core).creg 0x102).toNat % 2 ^ 8) :
    exec (.syncRetry i) s = .next (modCore (dropMsg s i) core fun c =>
      setReq c m.tag (some { r with due := some (s.time + ((coreAt s core).creg 0x102).toNat / 2 ^ 16 % 2 ^ 16) })) := by
  change execSyncRetry i s = _
  simp only [execSyncRetry, hm, hb, hd, coreAt_dropMsg, hr, hw, bitF_zero, Nat.not_le.mpr hlim, Bool.false_eq_true, if_false]
  rfl

end

theorem exec_withdrawnAnswer (hb : m.body = .withdrawn) : exec (.withdrawnAnswer i) s = .next (withdrawReq (dropMsg s i) core m.tag) := by
  change execWithdrawnAnswer i s = _
  simp only [execWithdrawnAnswer, hm, hb, hd]

/-- A table holds the request that a message withdraws. -/
def holdsRequestOf (m : Msg) (w : Waiter) : Bool :=
  w.req.any fun q => decide (q.src = m.src) && decide (q.tag = m.tag) && decide (q.who = m.who)

/-- The first core of the cluster whose table holds the request gives it up (R140, R341). -/
theorem exec_withdrawal {a : SyncForm} {b n : Nat} {w : Waiter} (hb : m.body = .withdraw a b) (hn : n < 34)
    (hw : (coreAt s (coreIn (clusterOf core) n)).waiters.find? (holdsRequestOf m) = some w)
    (hfirst : ∀ p, p < n → (coreAt s (coreIn (clusterOf core) p)).waiters.find? (holdsRequestOf m) = none) :
    exec (.withdrawal i) s = .next (sendMsg (modCore (dropMsg s i) (coreIn (clusterOf core) n) fun c => { c with waiters := c.waiters.erase w })
      (replyTo m .withdrawn)) := by
  have hfound : ((rangeFrom 0 34).map (coreIn (clusterOf core))).findSome? (fun c =>
      ((coreAt (dropMsg s i) c).waiters.find? (holdsRequestOf m)).map fun w => (c, w)) = some (coreIn (clusterOf core) n, w) := by
    rw [List.findSome?_map]
    apply findSome?_rangeFrom_first _ hn
    · simp [hw]
    · intro p hp
      simp [hfirst p hp]
  change execWithdrawal i s = _
  unfold holdsRequestOf at hfound
  simp only [execWithdrawal, hm, hb, hd, hfound]

end

theorem exec_feRetryResend {tag n : Nat} (hr : reqAt (coreAt s core) tag = some r) (hdue : r.due = some n) (hn : n ≤ s.time) :
    exec (.feRetryResend core tag) s =
      .next (niPost (modCore s core fun c => setReq c tag (some { r with due := none, tries := r.tries + 1 })) core r.msg) := by
  change execFeRetryResend core tag s = _
  simp only [execFeRetryResend, hr, hdue, Nat.not_lt.mpr hn, if_false]

end

end Sys2Proof.Machine

namespace Sys2Proof.Claims

open Sys2Proof.Machine

/-- Settles O41: what an answer does to its register, journal entry, backoff or waiter table. -/
theorem answersAtTheRequester : Obligations.AnswersAtTheRequester := by
  refine ⟨?replies, ?acks, ?refusals, fun i s m core r hm hb hd hr hw => ⟨exec_syncRetry_limit hm hd hb hr hw, exec_syncRetry_backoff hm hd hb hr hw⟩,
    fun core tag s r n => exec_feRetryResend, fun i s m core hm hb hd => exec_withdrawnAnswer hm hd hb, ?withdrawals⟩
  case replies =>
    intro i s m core r v hm hd hr h0 h32 hkind
    have hk : r.kind = .load ∨ r.kind = .atomic ∨ r.kind = .sync := hkind.imp And.right (Or.imp And.right And.right)
    have hu := deliver_register (s := dropMsg s i) (v := v) hr hk
    obtain ⟨hfull, hpend⟩ := deliverReg_bits (freeReq (dropMsg s i) core m.tag) r.slot r.size r.signed (replyAtCore v) h0 h32
    refine ⟨deliver (dropMsg s i) core m.tag v, exec_loadReply hm hd, exec_atomicReply hm hd, exec_syncReply hm hd, ?_⟩
    rw [hu]
    refine ⟨?_, hfull, hpend, ?_, ?_⟩
    · simp [deliverReg, freeReq]
    · rintro bs rfl
      exact deliverReg_value _ r.slot r.size r.signed bs h0 h32
    · intro c a hv
      rw [hv]
      exact deliverReg_poison _ r.slot r.size r.signed c a h0 h32
  case acks =>
    intro i s m core hm hb hd hout
    have hfree : ((jAt (coreAt s core) m.tag).map JEntry.refused).getD false = false := by
      cases hj : jAt (coreAt s core) m.tag with
      | none => rfl
      | some j => exact hout j hj
    refine ⟨_, exec_storeAck hm hd hb, ?_, fun e he => ?_⟩
    · simp [hfree]
    · simp [hfree, jAt_setJ_ne _ _ he]
  case refusals =>
    intro i s m core reason j hm hb hd hj hroom
    refine ⟨_, exec_storeRefusal hm hd hb, ?_, ?_⟩
    · simp [refuseJ, hj]
    · rw [evq_raiseEvent _ _ (by simpa [refuseJ, setJ] using hroom)]
      simp [refuseJ, setJ, refusalTval, slotNo]
  case withdrawals =>
    rintro i s m a b core w c n hm hb hd hn rfl hw hfirst
    refine ⟨_, exec_withdrawal hm hd hb hn hw fun p hp => List.find?_eq_none.mpr fun x hx => ?_, rfl, ?_⟩
    · cases hq : x.req with
      | none => simp [holdsRequestOf, hq]
      | some q => simpa [holdsRequestOf, hq, and_assoc] using hfirst p hp x hx q hq
    · simp

end Sys2Proof.Claims
end

section
/-! Read-only lines between their home and their readers (R110 to R112, R281). First the laws of a home's directory; then what a fill, its reply, an
invalidate and its acknowledgement do; then the statement that is assembled from them. -/

namespace Sys2Proof.Machine

open Sys2Proof.Claims

/-! The directory of a home (R111). -/

@[simp] theorem dirAt_setDir_self (c : Core) (line : Nat) (e : Option DirEnt) : dirAt (setDir c line e) line = e := SMap.get_set_self _ _ _ _

theorem net_foldl_msgs (ms : List Msg) (s : State) : (ms.foldl sendMsg s).net = s.net ++ ms := by
  induction ms generalizing s with
  | nil => simp
  | cons m ms ih =>
    rw [List.foldl_cons, ih]
    exact List.append_assoc s.net [m] ms

theorem coreAt_foldl_msgs (ms : List Msg) (s : State) (c : Nat) : coreAt (ms.foldl sendMsg s) c = coreAt s c := by
  induction ms generalizing s with
  | nil => rfl
  | cons m ms ih => rw [List.foldl_cons, ih, coreAt_sendMsg]

/-- An entry whose acknowledgements are all in, and that waits for no release, is freed: the held answers leave. -/
theorem dirFree_of_acked {s : State} {core line : Nat} {e : DirEnt} (he : dirAt (coreAt s core) line = some e) (hacks : e.acks = [])
    (hrel : e.needRelease = false) : dirFree s core line = e.held.foldl sendMsg (modCore s core fun c => setDir c line none) := by
  simp [dirFree, he, hacks, hrel]

/-! Power requests at the LM controller (R139): their answers leave, and nothing else of a core changes than the list of those requests. -/

theorem servePwr_eq (s : State) (core : Nat) :
    servePwr s core = s ∨ ∃ due answers, servePwr s core = List.foldl sendMsg (modCore s core fun c => { c with pwr := due }) answers := by
  unfold servePwr
  split
  next due ended hp =>
    split
    · exact .inl rfl
    · exact .inr ⟨due, ended.map fun r => replyTo r.1 (.loadReply (.value (natLE 8 r.2.2))), List.foldl_map.symm⟩

theorem dirAt_servePwr (s : State) (core c line : Nat) : dirAt (coreAt (servePwr s core) c) line = dirAt (coreAt s c) line := by
  obtain h | ⟨due, answers, h⟩ := servePwr_eq s core
  · rw [h]
  · rw [h, coreAt_foldl_msgs]
    by_cases hc : c = core
    · rw [hc, coreAt_modCore_self]
      rfl
    · rw [coreAt_modCore_ne _ _ hc]

theorem mem_net_servePwr {s : State} (core : Nat) {n : Msg} (hn : n ∈ s.net) : n ∈ (servePwr s core).net := by
  obtain h | ⟨due, answers, h⟩ := servePwr_eq s core
  · rwa [h]
  · rw [h, net_foldl_msgs]
    exact List.mem_append_left _ hn

/-! Fills at their home (R111, R112). -/

section
variable {s : State} {i who pa c o cl lc off : Nat} {m : Msg} {acc : Acc} {fwd : Bool} {bs : List Byte} {e : DirEnt}

/-- The home's answer to a fill: the line, which the reader may keep. -/
def fillAnswer (u : State) (m : Msg) (pa : Nat) (bs : List Byte) : State := sendMsg u (replyTo m (.fillReply (pa / 64) (.value bs) true))

section
variable (hm : arrives s i = some m) (hb : m.body = .fillReq pa acc) (hsrc : m.src = .ni who) (hplace : placeOf s pa = .lm cl lc off)
  (hat : lmAt s cl lc off = .here c o fwd) (hread : lmRead (dropMsg s i) c (64 * (o / 64)) 64 = .ok (dropMsg s i) bs)
include hm hb hsrc hplace hat hread

/-- The first reader of a line gets an entry of its own. -/
theorem exec_roFillRequest_new (hnone : dirAt (coreAt s c) (o / 64) = none) (hused : dirUsed (coreAt s c) < 512) :
    exec (.roFillRequest i) s = .next (fillAnswer (modCore (dropMsg s i) c fun x =>
      setDir x (o / 64) (some ⟨[who], false, [], [], false, false⟩)) m pa bs) := by
  change execRoFillRequest i s = _
  simp only [execRoFillRequest, fillAnswer, hm, hb, hsrc, hplace, hat, hread, coreAt_dropMsg, hnone, hused, if_true]

section
variable (he : dirAt (coreAt s c) (o / 64) = some e) (hrel : e.needRelease = false) (hacks : e.acks = []) (hwho : who ∉ e.sharers)
include he hrel hacks hwho

/-- A further reader is counted among up to three sharers. -/
theorem exec_roFillRequest_sharer (hfew : e.sharers.length < 3) :
    exec (.roFillRequest i) s = .next (fillAnswer (modCore (dropMsg s i) c fun x =>
      setDir x (o / 64) (some { e with sharers := e.sharers ++ [who] })) m pa bs) := by
  have hnew : e.sharers.contains who = false := by simpa using hwho
  change execRoFillRequest i s = _
  simp only [execRoFillRequest, fillAnswer, hm, hb, hsrc, hplace, hat, hread, coreAt_dropMsg, he, hrel, hacks, hnew, hfew, ne_eq,
    not_true_eq_false, Bool.false_eq_true, if_false, if_true]

/-- A reader beyond three is recorded in the overflow queue, and the handler told (R112). -/
theorem exec_roFillRequest_overflow (hmany : 3 ≤ e.sharers.length) (hroom : (coreAt s c).ovfQ.length < 8) :
    exec (.roFillRequest i) s = .next (fillAnswer (raiseEvent (modCore (dropMsg s i) c fun x =>
      setDir { x with ovfQ := x.ovfQ ++ [⟨false, who, o / 64⟩] } (o / 64) (some { e with ovf := true })) c 0x1F (nw (64 * (o / 64)))) m pa bs) := by
  have hnew : e.sharers.contains who = false := by simpa using hwho
  change execRoFillRequest i s = _
  simp only [execRoFillRequest, fillAnswer, hm, hb, hsrc, hplace, hat, hread, coreAt_dropMsg, he, hrel, hacks, hnew, Nat.not_lt.mpr hmany,
    Nat.not_le.mpr hroom, ne_eq, not_true_eq_false, Bool.false_eq_true, if_false]

end
end

/-! Replies and invalidates at the reader; acknowledgements at the home (R110, R111, R281). -/

variable {core line : Nat} (hm : arrives s i = some m) (hd : m.dst = .ni core)
include hm hd

theorem exec_roFillReply {cache : Bool} (hb : m.body = .fillReply line (.value bs) cache) : exec (.roFillReply i) s =
    .next (if cache && !((reqAt (coreAt s core) m.tag).map Req.withdrawn).getD false then
      modCore (deliver (dropMsg s i) core m.tag (.value bs)) core fun c => rocInstall c line bs
    else deliver (dropMsg s i) core m.tag (.value bs)) := by
  change execRoFillReply i s = _
  simp only [execRoFillReply, hm, hb, hd]

theorem exec_dirInvalidate {home : Nat} (hb : m.body = .dirInvalidate line) (hsrc : m.src = .ni home) : exec (.dirInvalidate i) s =
    .next (sendMsg (modCore (dropMsg s i) core fun c =>
      { c.staleFills (heldAt s home line) with roc := c.roc.filter fun e => !heldAt s home line e.1 }) (replyTo m (.invalidateAck line))) := by
  change execDirInvalidate i s = _
  simp only [execDirInvalidate, hm, hb, hsrc, hd]
  rfl

/-- The acknowledgement of an invalidate that an entry waits for. -/
theorem exec_invalidateAck (hb : m.body = .invalidateAck line) (hsrc : m.src = .ni who) (he : dirAt (coreAt s core) line = some e)
    (hwho : who ∈ e.acks) : exec (.invalidateAck i) s = .next (servePwr (dirFree (modCore (dropMsg s i) core fun c =>
      setDir c line (some { e with acks := e.acks.erase who })) core line) core) := by
  have hack : e.acks.contains who = true := by simpa using hwho
  change execInvalidateAck i s = _
  simp only [execInvalidateAck, hm, hb, hsrc, hd, coreAt_dropMsg, he, hack, if_true]

/-- The last acknowledgement frees the entry, and every held answer leaves. -/
theorem exec_invalidateAck_last (hb : m.body = .invalidateAck line) (hsrc : m.src = .ni who) (he : dirAt (coreAt s core) line = some e)
    (hacks : e.acks = [who]) (hrel : e.needRelease = false) :
    ∃ u, exec (.invalidateAck i) s = .next u ∧ dirAt (coreAt u core) line = none ∧ ∀ n ∈ e.held, n ∈ u.net := by
  refine ⟨_, exec_invalidateAck hm hd hb hsrc he (by simp [hacks]), ?_⟩
  have hself : dirAt (coreAt (modCore (dropMsg s i) core fun c => setDir c line (some { e with acks := e.acks.erase who })) core) line =
      some { e with acks := e.acks.erase who } := by rw [coreAt_modCore_self, dirAt_setDir_self]
  rw [dirFree_of_acked hself (by simp [hacks]) hrel]
  refine ⟨?_, fun n hn => mem_net_servePwr core ?_⟩
  · rw [dirAt_servePwr, coreAt_foldl_msgs, coreAt_modCore_self, dirAt_setDir_self]
  · rw [net_foldl_msgs]
    exact List.mem_append_right _ hn

end

end Sys2Proof.Machine

namespace Sys2Proof.Claims

open Sys2Proof.Machine

/-- Settles O42: a fill by the entry that the home has, its reply, an invalidate, and the last acknowledgement. -/
theorem readOnlyLines : Obligations.ReadOnlyLines := by
  refine ⟨?fill, ?reply, ?invalidate, fun i s m who core line e hm hb hsrc hd => exec_invalidateAck_last hm hd hb hsrc⟩
  case fill =>
    intro i s m who pa acc cl lc off c o fwd bs hm hb hsrc hplace hat hread
    refine ⟨exec_roFillRequest_new hm hb hsrc hplace hat hread, fun e he hrel hacks hwho =>
      ⟨exec_roFillRequest_sharer hm hb hsrc hplace hat hread he hrel hacks hwho, fun hmany hroom =>
        ⟨_, exec_roFillRequest_overflow hm hb hsrc hplace hat hread he hrel hacks hwho hmany hroom, ?_, ?_⟩⟩⟩
    · simp [fillAnswer]
    · simp [fillAnswer, setDir]
  case reply =>
    rintro i s m core line v cache bs hm hb hd rfl
    exact exec_roFillReply hm hd hb
  case invalidate =>
    intro i s m home core line hm hb hsrc hd
    refine ⟨_, exec_dirInvalidate hm hd hb hsrc, fun e he => ?_, rfl⟩
    rw [coreAt_sendMsg, coreAt_modCore_self] at he
    simpa using (List.mem_filter.mp he).2

end Sys2Proof.Claims
end

section
/-! Checks of the network and of the queues (R102, R363, R373, R374). First what an event, a step of the advisory and a host event keep of the event
queues and of the addresses; then each check; then the statement that is assembled from them. -/

namespace Sys2Proof.Machine

open Sys2Proof.Claims

/-! Events stay in their queue until they are taken (R329). -/

/-- A core holds event `e` in its queue, or its queue has room for it. -/
def TakesEvent (s : State) (core : Nat) (e : Nat × Word) : Prop := e ∈ (coreAt s core).evq ∨ (coreAt s core).evq.length < 16

theorem mem_evq_raiseEvent {s : State} {j : Nat} {e : Nat × Word} (h : e ∈ (coreAt s j).evq) (core cause : Nat) (v : Word) :
    e ∈ (coreAt (raiseEvent s core cause v) j).evq := by
  unfold raiseEvent
  by_cases hj : j = core
  · subst hj
    rw [coreAt_modCore_self]
    split
    · exact List.mem_append_left _ h
    · exact h
  · rwa [coreAt_modCore_ne s _ hj]

theorem mem_evq_hostEvent {s : State} {j : Nat} {e : Nat × Word} (h : e ∈ (coreAt s j).evq) (b : Nat) : e ∈ (coreAt (hostEvent s b) j).evq := h

theorem mem_evq_advise {s : State} {j : Nat} {e : Nat × Word} (h : e ∈ (coreAt s j).evq) (b tower cl : Nat) :
    e ∈ (coreAt (advise s b tower cl) j).evq := by
  unfold advise
  split
  · exact h
  · exact mem_evq_hostEvent (mem_evq_raiseEvent (by exact h) _ _ _) 0

theorem hops_hostEvent (s : State) (b : Nat) : (hostEvent s b).modul.hops = s.modul.hops := by
  refine (apply_ite Modul.hops _ _ _).trans ?_
  split <;> rfl

theorem hops_advise (s : State) (b tower cl : Nat) : (advise s b tower cl).modul.hops = s.modul.hops := by
  unfold advise
  split
  · rfl
  · exact hops_hostEvent _ 0

/-- A core that takes an event holds it once it is raised there. -/
theorem TakesEvent.mem_raiseEvent {s : State} {j cause : Nat} {v : Word} (h : TakesEvent s j (cause, v)) :
    (cause, v) ∈ (coreAt (raiseEvent s j cause v) j).evq := by
  rcases h with h | h
  · exact mem_evq_raiseEvent h j cause v
  · rw [evq_raiseEvent cause v h]
    exact List.mem_append_right _ (List.mem_singleton_self _)

/-- The same event raised anywhere leaves a core as one that takes it. -/
theorem TakesEvent.raiseEvent {s : State} {j cause : Nat} {v : Word} (h : TakesEvent s j (cause, v)) (core : Nat) :
    TakesEvent (raiseEvent s core cause v) j (cause, v) := by
  by_cases hj : j = core
  · subst hj
    exact .inl h.mem_raiseEvent
  · have hkeep : coreAt (Machine.raiseEvent s core cause v) j = coreAt s j := coreAt_modCore_ne s _ hj
    rwa [TakesEvent, hkeep]

/-- An event raised at the first core of each cluster of a list. -/
def raiseAtClusters (cause : Nat) (v : Word) (l : List Nat) (s : State) : State :=
  l.foldl (fun s c => raiseEvent s (lcoreKey s c 0) cause v) s

theorem modul_raiseAtClusters (cause : Nat) (v : Word) (l : List Nat) (s : State) : (raiseAtClusters cause v l s).modul = s.modul := by
  induction l generalizing s with
  | nil => rfl
  | cons c l ih => exact ih _

theorem mem_evq_raiseAtClusters_of_mem {e : Nat × Word} {j : Nat} (cause : Nat) (v : Word) (l : List Nat) {s : State} (h : e ∈ (coreAt s j).evq) :
    e ∈ (coreAt (raiseAtClusters cause v l s) j).evq := by
  induction l generalizing s with
  | nil => exact h
  | cons c l ih => exact ih (mem_evq_raiseEvent h _ _ _)

theorem mem_evq_raiseAtClusters {cause : Nat} {v : Word} {l : List Nat} {c : Nat} (hc : c ∈ l) {s : State}
    (h : TakesEvent s (lcoreKey s c 0) (cause, v)) : (cause, v) ∈ (coreAt (raiseAtClusters cause v l s) (lcoreKey s c 0)).evq := by
  induction l generalizing s with
  | nil => cases hc
  | cons d l ih =>
    rcases List.mem_cons.mp hc with rfl | hc
    · exact mem_evq_raiseAtClusters_of_mem cause v l h.mem_raiseEvent
    · exact ih hc (h.raiseEvent (lcoreKey s d 0))

/-! The hops (R102, R373). -/

/-- The name of a hop in the event of its failure (R373). -/
def hopTval (cl dir : Nat) : Word := nw (towerOf cl + clusterNo cl * 2 ^ 4 + dir % 8 * 2 ^ 12)

/-- A hop that has failed is named by the module (R373). -/
def hopFailed (s : State) (cl dir : Nat) : State := modModul s fun m => { m with hops := m.hops ++ [(cl, dir)] }

theorem mem_hops_hopFailed (s : State) (cl dir : Nat) : (cl, dir) ∈ (hopFailed s cl dir).modul.hops :=
  List.mem_append_right _ (List.mem_singleton_self _)

theorem exec_netHopFail {s : State} {cl dir : Nat} (hnew : (cl, dir) ∉ s.modul.hops) (hpeers : hopPeers cl dir ≠ []) :
    exec (.netHopFail cl dir) s = .next (advise (raiseAtClusters 0x7A (hopTval cl dir) (cl :: (hopPeers cl dir).eraseDups)
      (hopFailed s cl dir)) 7 (towerOf cl) (clusterNo cl)) := by
  change execNetHopFail cl dir s = _
  simp only [execNetHopFail, List.contains_iff_mem, hnew, hpeers, or_self, if_false]
  rfl

/-! A parity error in a send buffer (R373). The answer to the requester depends on the requests in flight and on the registers alone. -/

theorem forwarded_congr {s u : State} (h : ∀ pa, migrsFor u pa = migrsFor s pa) (n pa : Nat) : forwarded u n pa = forwarded s n pa := by
  induction n generalizing pa with
  | zero => rfl
  | succ n ih => simp only [forwarded, h, ih]

/-- Nothing but cores and TOUCH differs, and no core's requests do. -/
def SameRequests (s u : State) : Prop :=
  (∃ cores touch, u = { s with cores := cores, touch := touch }) ∧ ∀ c t, reqAt (coreAt u c) t = reqAt (coreAt s c) t

theorem SameRequests.nodeOf_eq {s u : State} (h : SameRequests s u) (a : Agent) : nodeOf u a = nodeOf s a := by
  obtain ⟨⟨cores, touch, rfl⟩, -⟩ := h
  cases a <;> rfl

theorem SameRequests.recPoisonPa_eq {s u : State} (h : SameRequests s u) (t id : Nat) : recPoisonPa u t id = recPoisonPa s t id := by
  obtain ⟨⟨cores, touch, hu⟩, -⟩ := h
  have hmigr : ∀ pa, migrsFor u pa = migrsFor s pa := by subst hu; exact fun _ => rfl
  have hlvl : lvlPa u t id = lvlPa s t id := by subst hu; rfl
  rw [recPoisonPa, recPoisonPa, scFinal, scFinal, forwarded_congr hmigr, hlvl]

theorem SameRequests.lostName_eq {s u : State} (h : SameRequests s u) (m : Msg) : lostName u m = lostName s m := by
  simp only [lostName, h.recPoisonPa_eq, h.2]

theorem SameRequests.parityAnswer_eq {s u : State} (h : SameRequests s u) (m : Msg) : parityAnswer u m = parityAnswer s m := by
  simp only [parityAnswer, lostAnswer, h.lostName_eq]

section
variable {s : State} {core i : Nat} {m : Msg}

/-- The event of a message that a parity error in a buffer discards (R373). -/
def lostTval (s : State) (m : Msg) : Word := nw (kindOf m.body % 32 + nodeOf s m.src * 2 ^ 5)

/-- What a parity error in entry `i` of a core's send buffers leaves, but for the answer to the requester. -/
def niDiscarded (s : State) (core i : Nat) (m : Msg) : State :=
  raiseEvent (modCore (touchPhase s m.ph) core fun c => { c with ni := dropAt c.ni i }) core 0x63 (lostTval s m)

theorem sameRequests_niDiscarded : SameRequests s (niDiscarded s core i m) := by
  refine ⟨⟨_, _, rfl⟩, fun c t => ?_⟩
  rw [niDiscarded, reqAt_raiseEvent]
  by_cases hc : c = core
  · rw [hc, coreAt_modCore_self]
    rfl
  · rw [coreAt_modCore_ne _ _ hc]
    rfl

theorem exec_niBufferParity (h : (coreAt s core).ni[i]? = some m) :
    exec (.niBufferParity core i) s = .next (match parityAnswer s m with
      | some b => sendMsg (niDiscarded s core i m) (replyTo m b)
      | none => niDiscarded s core i m) := by
  rw [← (sameRequests_niDiscarded (core := core) (i := i) (m := m)).parityAnswer_eq]
  change execNiBufferParity core i s = _
  simp only [execNiBufferParity, h]
  rfl

theorem ni_niDiscarded : (coreAt (niDiscarded s core i m) core).ni = dropAt (coreAt s core).ni i := by
  rw [niDiscarded, ni_raiseEvent, coreAt_modCore_self]
  rfl

theorem evq_niDiscarded (h : (coreAt s core).evq.length < 16) :
    (coreAt (niDiscarded s core i m) core).evq = (coreAt s core).evq ++ [(0x63, lostTval s m)] := by
  rw [niDiscarded, evq_raiseEvent _ _ (by rw [coreAt_modCore_self]; exact h), coreAt_modCore_self]
  rfl

end

/-! A parity error in a queue entry (R374). -/

/-- The event of a parity error in a queue entry: the unit and the slot (R374). -/
def queueTval (unit k : Nat) : Word := nw (unit + k % 16 * 2 ^ 8)

theorem queueTval_zero (k : Nat) : queueTval 0 k = nw (k % 16 * 2 ^ 8) := by rw [queueTval, Nat.zero_add]

section
variable {s : State} {core i : Nat}

theorem exec_queueParity_xq {x : XCmd} (hx : (coreAt s core).xq[i]? = some x) (hrun : x.run = none) :
    exec (.queueParity core 0 i) s = .next (raiseEvent (endCmd (modCore s core fun c => { c with xq := dropAt c.xq i }) x.iss.slot x.id) core 0x79
      (queueTval 0 x.iss.slot)) := by
  change execQueueParity core 0 i s = _
  simp only [execQueueParity, hx, hrun, Option.isSome_none, if_true, Bool.false_eq_true, if_false]
  rfl

theorem exec_queueParity_vq {x : VCmd} (hx : (coreAt s core).vq[i]? = some x) (hrun : x.run = none) :
    exec (.queueParity core 1 i) s = .next (raiseEvent (endCmd (modCore s core fun c => { c with vq := dropAt c.vq i }) x.iss.slot x.id) core 0x79
      (queueTval 1 x.iss.slot)) := by
  change execQueueParity core 1 i s = _
  simp only [execQueueParity, hx, hrun, Option.isSome_none, Nat.one_ne_zero, if_true, Bool.false_eq_true, if_false]
  rfl

theorem exec_queueParity_fifo {k : Nat} {t : Stream} {e : FifoEl} {es : List FifoEl} (hk : k = slotOf core (i / 4 % 16))
    (ht : t = (slotAt s k).stream (i % 4)) (hf : t.fifo = e :: es) :
    exec (.queueParity core 2 i) s = .next (raiseEvent (modSlot s k fun x => x.setStream (i % 4) { t with fifo := ⟨poisonWord 0x79 0, true⟩ :: es })
      core 0x79 (queueTval 2 k)) := by
  subst hk ht
  change execQueueParity core 2 i s = _
  simp only [execQueueParity, hf, OfNat.ofNat_ne_zero, OfNat.ofNat_ne_one, if_true, if_false]
  rfl

theorem exec_queueParity_journal {j : JEntry} (hj : jAt (coreAt s core) i = some j) (hr : j.refused = false) :
    exec (.queueParity core 3 i) s = .next (raiseEvent (refuseJ s core i 9) core 0x79 (queueTval 3 j.slot)) := by
  change execQueueParity core 3 i s = _
  simp only [execQueueParity, hj, hr, OfNat.ofNat_ne_zero, OfNat.ofNat_ne_one, Nat.reduceEqDiff, if_true, Bool.false_eq_true, if_false]
  rfl

end

end Sys2Proof.Machine

namespace Sys2Proof.Claims

open Sys2Proof.Machine

/-- Settles O44: what each failed check counts, discards, poisons or holds, and where its event is raised. -/
theorem networkChecks : Obligations.NetworkChecks := by
  refine ⟨?replay, ?fail, ?buffer, ?xfe, ?ve, ?fifo, ?journal⟩
  case replay =>
    intro tower n s
    refine ⟨_, rfl, ?_⟩
    rw [towerAt_modTower_self, Tower.creg_setCreg_self, ← bitF_zero, addF, bitF_setF_self _ _ (by decide), bitF_zero, Nat.mod_add_mod]
  case fail =>
    intro cl dir s hnew hpeers
    rw [← hopTval]
    refine ⟨_, exec_netHopFail hnew hpeers, ?_, fun c hc hroom => ?_⟩
    · rw [hops_advise, modul_raiseAtClusters]
      exact mem_hops_hopFailed s cl dir
    · have hjoin : c ∈ cl :: (hopPeers cl dir).eraseDups := by rwa [List.mem_cons, List.mem_eraseDups]
      have htakes : TakesEvent (hopFailed s cl dir) (lcoreKey (hopFailed s cl dir) c 0) (0x7A, hopTval cl dir) := .inr hroom
      exact mem_evq_advise (mem_evq_raiseAtClusters hjoin htakes) _ _ _
  case buffer =>
    intro core i s m hm hroom
    cases hans : parityAnswer s m with
    | none => exact ⟨niDiscarded s core i m, by rw [exec_niBufferParity hm, hans], ni_niDiscarded, evq_niDiscarded hroom, fun _ h => nomatch h⟩
    | some b =>
      refine ⟨sendMsg (niDiscarded s core i m) (replyTo m b), by rw [exec_niBufferParity hm, hans], ?_, ?_, fun b' hb => ?_⟩
      · rw [coreAt_sendMsg, ni_niDiscarded]
      · rw [coreAt_sendMsg, evq_niDiscarded hroom, lostTval]
      · rw [← Option.some.inj hb]
        exact List.mem_append_right _ (List.mem_singleton_self _)
  case xfe =>
    intro core i s x hx hrun hroom
    rw [← queueTval_zero]
    refine ⟨_, exec_queueParity_xq hx hrun, ?_, TakesEvent.mem_raiseEvent (.inr ?_)⟩
    · simp [endCmd]
    · simpa [endCmd] using hroom
  case ve =>
    intro core i s x hx hrun hroom
    rw [← queueTval]
    refine ⟨_, exec_queueParity_vq hx hrun, ?_, TakesEvent.mem_raiseEvent (.inr ?_)⟩
    · simp [endCmd]
    · simpa [endCmd] using hroom
  case fifo =>
    intro core i s k t e es hk ht hf hroom
    rw [← queueTval]
    refine ⟨_, exec_queueParity_fifo hk ht hf, ?_, TakesEvent.mem_raiseEvent (.inr hroom)⟩
    rw [slotAt_raiseEvent, slotAt_modSlot_self]
    exact SMap.get_set_self _ _ _ _
  case journal =>
    intro core i s j hj hr hroom
    rw [← queueTval]
    refine ⟨_, exec_queueParity_journal hj hr, ?_, TakesEvent.mem_raiseEvent (.inr ?_)⟩
    · simp [refuseJ, hj]
    · simpa [refuseJ, setJ] using hroom

end Sys2Proof.Claims
end

section
/-! Active messages and batons at their destination (R114 to R117, R152 to R154). First what a write of an LM keeps of a core's active messages and
what a trap keeps of a slot; then each event; then the statement that is assembled from them. -/

namespace Sys2Proof.Machine

open Sys2Proof.Claims

/-! What a core holds of active messages is no matter of memory or of a directory. -/

/-- What a core holds of active messages: the ring slots in use and the queue of its handlers (R116). -/
def Core.messages (c : Core) : List (Nat × Nat) × List AmEnt := (c.amHeld, c.amQ)

theorem messages_modCore {f : Core → Core} (hf : ∀ c, (f c).messages = c.messages) {s : State} {k j : Nat} :
    (coreAt (modCore s k f) j).messages = (coreAt s j).messages := by
  by_cases hj : j = k
  · rw [hj, coreAt_modCore_self, hf]
  · rw [coreAt_modCore_ne s f hj]

theorem messages_raiseEvent (s : State) (core cause : Nat) (v : Word) (j : Nat) :
    (coreAt (raiseEvent s core cause v) j).messages = (coreAt s j).messages :=
  raiseEvent_keeps Core.messages (fun _ _ _ => rfl) s core cause v j

theorem messages_foldl {α : Type} {f : State → α → State} {j : Nat} (hf : ∀ s a, (coreAt (f s a) j).messages = (coreAt s j).messages)
    {l : List α} {s : State} : (coreAt (l.foldl f s) j).messages = (coreAt s j).messages := by
  induction l generalizing s with
  | nil => rfl
  | cons a l ih => rw [List.foldl_cons, ih, hf]

theorem messages_clearBad (s : State) (a n j : Nat) : (coreAt (clearBad s a n) j).messages = (coreAt s j).messages := by
  refine messages_foldl fun s w => ?_
  split <;> rfl

theorem messages_sendInvals (s : State) (core line j : Nat) (l : List Nat) :
    (coreAt (l.foldl (sendInval core line) s) j).messages = (coreAt s j).messages :=
  messages_foldl (by intros; rfl)

theorem messages_setDir (s : State) (core line j : Nat) (e : Option DirEnt) :
    (coreAt (modCore s core fun c => setDir c line e) j).messages = (coreAt s j).messages :=
  messages_modCore (by intros; rfl)

theorem messages_pushOvf (s : State) (core line j : Nat) : (coreAt (pushOvf s core line) j).messages = (coreAt s j).messages := by
  unfold pushOvf
  split
  · exact (messages_raiseEvent _ _ _ _ _).trans (messages_modCore (by intros; rfl))
  · exact messages_modCore (by intros; rfl)

theorem messages_dirFree (s : State) (core line j : Nat) : (coreAt (dirFree s core line) j).messages = (coreAt s j).messages := by
  unfold dirFree
  split
  · rfl
  · split
    · rw [coreAt_foldl_msgs, messages_setDir]
    · rfl

theorem messages_dirWrite (s : State) (core off j : Nat) : (coreAt (dirWrite s core off none) j).messages = (coreAt s j).messages := by
  cases he : dirAt (coreAt s core) (off / 64) with
  | none => simp only [dirWrite, he]
  | some e =>
    simp only [dirWrite, he]
    split
    · rw [messages_setDir]
    · rw [messages_dirFree]
      split
      · rw [messages_pushOvf, messages_setDir, messages_sendInvals]
      · rw [messages_setDir, messages_sendInvals]

theorem messages_dirSpan (s : State) (core off n j : Nat) : (coreAt (dirSpan s core off n) j).messages = (coreAt s j).messages :=
  messages_foldl fun u l => messages_dirWrite u core (64 * l) j

theorem messages_lmPut (s : State) (core off : Nat) (bs : List Byte) (j : Nat) :
    (coreAt (lmPut s core off bs) j).messages = (coreAt s j).messages := by
  unfold lmPut lmWrite
  split
  next c o _ _ =>
    by_cases hp : partialBad s (lmKey c o) bs.length = true
    · simp only [hp, if_true]
    · simp only [hp, Bool.false_eq_true, if_false, messages_dirSpan, messages_clearBad, coreAt_setBytes]
  all_goals rfl

/-! Active messages (R116). -/

section
variable {s : State} {i core ty plen off : Nat} {m : Msg} {dict : Option (Nat × Nat)} {bs : List Byte} {fr : Option (Nat × Nat)}

/-- The payload of an active message as the ring keeps it, where its dictionary slot is valid, of its tag, and decodes it (R115, R120). -/
def amPlain (c : Core) (plen : Nat) (bs : List Byte) : Option (Nat × Nat) → Option (List Byte)
  | none => some bs
  | some (k, tag) => if (dictAt c k).v ∧ (dictAt c k).tag = tag then decompress (dictAt c k).words plen bs else none

/-- The entry that an accepted message adds to the queue of its handlers (R116). -/
def amEntry (s : State) (m : Msg) (p ty plen : Nat) (v : Word) : AmEnt :=
  ⟨p, ty, bitF v 58 2, bitF v 56 2, v &&& 0x3FFFFFFFFFC#64, plen, (amSrc s m).1 % 2 ^ 25, m.ph⟩

theorem amSrc_node (hb : m.body = .activeMsg ty plen off dict bs fr) : (amSrc s m).1 = (fr.map Prod.fst).getD (nodeOf s m.src) := by
  cases fr <;> simp only [amSrc, hb, Option.map, Option.getD]

theorem exec_activeMessage (hm : arrives s i = some m) (hb : m.body = .activeMsg ty plen off dict bs fr) (hd : m.dst = .ni core)
    (hdiv : (coreAt s core).divert = false) : exec (.activeMessage i) s = .next (amDispatch (dropMsg s i) m core) := by
  change execActiveMessage i s = _
  simp only [execActiveMessage, hm, hb, hd, hdiv, Bool.false_eq_true, if_false]

section
variable (hb : m.body = .activeMsg ty plen off dict bs fr)
include hb

theorem amDispatch_undecodable (hp : amPlain (coreAt s core) plen bs dict = none) :
    amDispatch s m core = sendMsg s ⟨.ni core, m.src, 0, m.who, m.ph, .amRefusal 0x62 ty plen off (nodeOf s (.ni core))⟩ := by
  cases dict with
  | none => cases hp
  | some e => simp only [amPlain] at hp; simp only [amDispatch, hb, hp]

section
variable {plain : List Byte} (hp : amPlain (coreAt s core) plen bs dict = some plain)
include hp

theorem amDispatch_noRing (hret : coreRetired s core = false) (hfree : freeRing (coreAt s core) = none) :
    amDispatch s m core = sendMsg (modCore s core fun c => c.setCreg 0x161 (addF (c.creg 0x161) 32 32 1))
      ⟨.ni core, m.src, 0, m.who, m.ph, .amRefusal 0x39 ty plen off (nodeOf s (.ni core))⟩ := by
  cases dict with
  | none => simp only [amDispatch, hb, hret, hfree, Bool.false_eq_true, if_false]; rfl
  | some e => simp only [amPlain] at hp; simp only [amDispatch, hb, hp, hret, hfree, Bool.false_eq_true, if_false]; rfl

section
variable {p : Nat} {v : Word} (hret : coreRetired s core = false) (hfree : freeRing (coreAt s core) = some p) (hv : v = vectorEntry s core ty)
include hret hfree hv

theorem amDispatch_noVector (hvalid : v.getLsbD 63 = false) :
    amDispatch s m core = raiseEvent s core 0x38 (nw ((amSrc s m).1 % 2 ^ 25 * 2 ^ 8 + ty)) := by
  subst hv
  cases dict with
  | none => simp only [amDispatch, hb, hret, hfree, bitB, hvalid, Bool.not_false, Bool.false_eq_true, if_false, if_true]
  | some e =>
    simp only [amPlain] at hp
    simp only [amDispatch, hb, hp, hret, hfree, bitB, hvalid, Bool.not_false, Bool.false_eq_true, if_false, if_true]

theorem amDispatch_queues (hvalid : v.getLsbD 63 = true) :
    amDispatch s m core = modCore
      (lmPut s core (bitF ((coreAt s core).creg 0x160) 9 10 * 512 + 512 * p) (amHeader s m core ty plen bs.length dict ++ plain)) core fun c =>
        { c with amHeld := c.amHeld ++ [(p, m.ph)], amQ := c.amQ ++ [amEntry s m p ty plen v] } := by
  subst hv
  cases dict with
  | none =>
    obtain rfl : bs = plain := Option.some.inj hp
    simp only [amDispatch, hb, hret, hfree, bitB, hvalid, Bool.not_true, Bool.false_eq_true, if_false, amEntry]
  | some e =>
    simp only [amPlain] at hp
    simp only [amDispatch, hb, hp, hret, hfree, bitB, hvalid, Bool.not_true, Bool.false_eq_true, if_false, amEntry]

theorem messages_amDispatch_queues (hvalid : v.getLsbD 63 = true) :
    (coreAt (amDispatch s m core) core).messages =
      ((coreAt s core).amHeld ++ [(p, m.ph)], (coreAt s core).amQ ++ [amEntry s m p ty plen v]) := by
  rw [amDispatch_queues hb hp hret hfree hv hvalid, coreAt_modCore_self]
  obtain ⟨hheld, hq⟩ := Prod.mk.inj (messages_lmPut s core
    (bitF ((coreAt s core).creg 0x160) 9 10 * 512 + 512 * p) (amHeader s m core ty plen bs.length dict ++ plain) core)
  rw [Core.messages, hheld, hq]

end

end

end

theorem exec_amRefusal {cause dst : Nat} (hm : arrives s i = some m) (hb : m.body = .amRefusal cause ty plen off dst) (hd : m.dst = .ni core) :
    exec (.amRefusal i) s = .next (raiseEvent (dropMsg s i) core cause (nw (dst * 2 ^ 36 + off * 2 ^ 17 + plen * 2 ^ 8 + ty))) := by
  change execAmRefusal i s = _
  simp only [execAmRefusal, hm, hb, hd]

end

/-! The start of a handler (R116). -/

/-- The registers with which a handler starts: the place of its payload, the payload's length, the source and the type (R116). -/
def Slot.handlerRegs (x : Slot) (base : Nat) (q : AmEnt) : Slot :=
  (((x.setReg 3 (nw (base + 512 * q.slot + 16))).setReg 4 (nw q.plen)).setReg 5 (nw q.src)).setReg 6 (nw q.type)

section
variable (x : Slot) (base : Nat) (q : AmEnt)

theorem Slot.reg_handlerRegs :
    (x.handlerRegs base q).reg 3 = nw (base + 512 * q.slot + 16) ∧ (x.handlerRegs base q).reg 4 = nw q.plen ∧
      (x.handlerRegs base q).reg 5 = nw q.src ∧ (x.handlerRegs base q).reg 6 = nw q.type := by
  simp [Slot.handlerRegs, Slot.reg_setReg_ne, Slot.reg_setReg_self]

theorem Slot.reg_handlerRegs_other {r : Nat} (h : r < 3 ∨ 6 < r) : (x.handlerRegs base q).reg r = x.reg r := by
  rw [Slot.handlerRegs, Slot.reg_setReg_ne _ _ (by omega), Slot.reg_setReg_ne _ _ (by omega), Slot.reg_setReg_ne _ _ (by omega),
    Slot.reg_setReg_ne _ _ (by omega)]

theorem Slot.full_handlerRegs {r : Nat} (h3 : 3 ≤ r) (h6 : r ≤ 6) : bitOf (x.handlerRegs base q).full r = true := by
  obtain rfl | rfl | rfl | rfl : r = 3 ∨ r = 4 ∨ r = 5 ∨ r = 6 := by omega
  all_goals simp [Slot.handlerRegs, Slot.bitOf_full_setReg]

end

/-- The state in which a queued message has started its handler (R116). -/
def handlerStarted (s : State) (core : Nat) (q : AmEnt) (k : Nat) : State :=
  modSlot (modCore { touchPhase s q.ph with fresh := s.fresh + 1 } core fun c => { c with amQ := c.amQ.erase q }) k fun x =>
    { (x.handlerRegs (bitF ((coreAt s core).creg 0x160) 9 10 * 512) q).dropIssue with
      pc := q.pc, mode := .user, st := .ready, tok := false, hnd := some q.slot, skip := 0, tid := s.fresh }

theorem exec_amHandlerStart {s : State} {core k : Nat} {q : AmEnt} (h : nextHandler s core = some (q, k)) :
    exec (.amHandlerStart core) s = .next (handlerStarted s core q k) := by
  change execAmHandlerStart core s = _
  simp only [execAmHandlerStart, h]
  rfl

theorem slotAt_handlerStarted (s : State) (core k : Nat) (q : AmEnt) :
    slotAt (handlerStarted s core q k) k = { ((slotAt s k).handlerRegs (bitF ((coreAt s core).creg 0x160) 9 10 * 512) q).dropIssue with
      pc := q.pc, mode := .user, st := .ready, tok := false, hnd := some q.slot, skip := 0, tid := s.fresh } :=
  slotAt_modSlot_self _ _ _

theorem amQ_handlerStarted (s : State) (core k : Nat) (q : AmEnt) : (coreAt (handlerStarted s core q k) core).amQ = (coreAt s core).amQ.erase q := by
  rw [handlerStarted, coreAt_modSlot, coreAt_modCore_self]
  rfl

/-! Batons at their destination (R153). -/

section
variable {s : State} {i core hops : Nat} {m : Msg} {ctx : List Byte}

theorem exec_batonPass (hm : arrives s i = some m) (hb : m.body = .baton ctx hops) (hd : m.dst = .ni core) (hdiv : (coreAt s core).divert = false) :
    exec (.batonPass i) s = .next (batonDispatch (dropMsg s i) m core) := by
  change execBatonPass i s = _
  simp only [execBatonPass, hm, hb, hd, hdiv, Bool.false_eq_true, if_false]

/-- Outside a gang switch every queued baton of a class waits for the next slot (R153, R340). -/
theorem batonWaits_of_not_divert {c : Core} (hdiv : c.divert = false) (cls : Nat) : batonWaits c cls = c.hopQ.any fun b => decide (b.cls = cls) := by
  simp [batonWaits, batonKept, hdiv]

/-- The slot that a baton takes at once, where there is one (R153). -/
def batonSlot (s : State) (core : Nat) (ctx : List Byte) : Option Nat :=
  if batonWaits (coreAt s core) (ctxClass ctx) then none else waitingSlot s core (ctxClass ctx) (some (ctxAsid ctx))

theorem batonSlot_eq_none (h : batonWaits (coreAt s core) (ctxClass ctx) = true ∨ waitingSlot s core (ctxClass ctx) (some (ctxAsid ctx)) = none) :
    batonSlot s core ctx = none := by
  rcases h with h | h <;> simp [batonSlot, h]

section
variable (hb : m.body = .baton ctx hops)
include hb

theorem batonDispatch_installs {k : Nat} (h : batonSlot s core ctx = some k) :
    batonDispatch s m core = sendMsg (tellMoved (installCtx s k ctx hops) k) (replyTo m (.batonAnswer true)) := by
  rw [batonSlot] at h
  simp only [batonDispatch, hb, h]

theorem batonDispatch_queues (h : batonSlot s core ctx = none) (hroom : (coreAt s core).hopQ.length < 8) :
    batonDispatch s m core = sendMsg (modCore s core fun c => { c with hopQ := c.hopQ ++ [⟨ctx, hops, ctxClass ctx⟩] })
      (replyTo m (.batonAnswer true)) := by
  rw [batonSlot] at h
  simp only [batonDispatch, hb, h, hroom, if_true]

theorem batonDispatch_refuses (h : batonSlot s core ctx = none) (hfull : 8 ≤ (coreAt s core).hopQ.length) :
    batonDispatch s m core = sendMsg (modCore s core fun c => c.setCreg 0x106 (addF (c.creg 0x106) 32 32 1)) (replyTo m (.batonAnswer false)) := by
  rw [batonSlot] at h
  simp only [batonDispatch, hb, h, Nat.not_lt.mpr hfull, if_false]

end

theorem exec_batonInstall {b : BatonIn} {k : Nat}
    (h : (coreAt s core).hopQ.findSome? (fun b => (waitingSlot s core b.cls (some (ctxAsid b.ctx))).map fun k => (b, k)) = some (b, k)) :
    exec (.batonInstall core) s =
      .next (tellMoved (installCtx (modCore s core fun c => { c with hopQ := c.hopQ.erase b }) k b.ctx b.hops) k) := by
  change execBatonInstall core s = _
  simp only [execBatonInstall, h]

end

/-! What a trap leaves of a slot (R331). -/

/-- The exchange of the segments writes seg0, seg1 and the KSEG registers alone. -/
theorem Slot.creg_swapSegs (x : Slot) {n : Nat} (hk : n < 0x86 ∨ 0x8A ≤ n) (hs : n < 0xC0 ∨ 0xC4 ≤ n) : x.swapSegs.creg n = x.creg n := by
  have hne (i : Nat) (hi : i < 4) : n ≠ 0xC0 + i ∧ n ≠ 0x86 + i := by omega
  simp [Slot.swapSegs, rangeFrom, Slot.creg_setCreg, hne 0, hne 1, hne 2, hne 3]

@[simp] theorem Slot.baton_enterTrap (x : Slot) (c : Nat) (v p : Word) (async : Bool) : (x.enterTrap c v p async).baton = none := rfl

section
variable (x : Slot) (c : Nat) (v p : Word) (async : Bool)

theorem Slot.creg_enterTrap {n : Nat} (hk : n < 0x86 ∨ 0x8A ≤ n) (hs : n < 0xC0 ∨ 0xC4 ≤ n) (hst : n ≠ 0x83) :
    (x.enterTrap c v p async).creg n = (((x.setCreg 0x080 (p &&& 0x3FFFFFFFFFC#64)).setCreg 0x081 (nw (c % 128))).setCreg 0x082 v).creg n := by
  have hswap (y z : Slot) (b : Bool) (hz : z.creg n = y.creg n) : (if b then z.swapSegs else z).creg n = y.creg n := by
    cases b with
    | true => exact (Slot.creg_swapSegs z hk hs).trans hz
    | false => exact hz
  exact hswap _ _ _ (Slot.creg_setCreg_ne _ _ hst)

theorem Slot.cause_enterTrap : (x.enterTrap c v p async).creg 0x081 = nw (c % 128) := by
  simp [Slot.creg_enterTrap, Slot.creg_setCreg]

theorem Slot.tval_enterTrap : (x.enterTrap c v p async).creg 0x082 = v := by
  simp [Slot.creg_enterTrap]

theorem Slot.hop_enterTrap : (x.enterTrap c v p async).creg 0x0D0 = x.creg 0x0D0 := by
  simp [Slot.creg_enterTrap, Slot.creg_setCreg]

end

@[simp] theorem Slot.baton_gangTrap (x : Slot) (leads : Bool) : (x.gangTrap leads).baton = x.baton := by
  unfold Slot.gangTrap
  split
  · rfl
  · split <;> rfl

@[simp] theorem Slot.creg_gangTrap (x : Slot) (leads : Bool) (n : Nat) : (x.gangTrap leads).creg n = x.creg n := by
  unfold Slot.gangTrap
  split
  · rfl
  · split <;> rfl

/-- A slot that is not in a trap, after a precise trap of cause `c` (R331): the cause, the value, and the word of its hops. -/
theorem slotAt_trapNow {s : State} {k c : Nat} {v : Word} (h : (slotAt s k).intrap = false) :
    (slotAt (trapNow s k c v) k).creg 0x081 = nw (c % 128) ∧ (slotAt (trapNow s k c v) k).creg 0x082 = v ∧
      (slotAt (trapNow s k c v) k).creg 0x0D0 = (slotAt s k).creg 0x0D0 ∧ (slotAt (trapNow s k c v) k).baton = none := by
  have hcount : (slotAt (modSlot s k fun y => y.setCreg 0x005 (y.creg 0x005 + 1#64)) k).intrap = false := by
    rwa [slotAt_modSlot_self, Slot.intrap, Slot.creg_setCreg_ne _ _ (by decide)]
  rw [trapNow, trapEntry_enters hcount]
  simp [Slot.cause_enterTrap, Slot.tval_enterTrap, Slot.hop_enterTrap, Slot.creg_setCreg]

/-! The answer to a baton at its source (R152). -/

section
variable {s : State} {i core : Nat} {m : Msg} {b : BatonOut} (hm : arrives s i = some m) (hd : m.dst = .ni core)
  (hbat : (slotAt s m.who).baton = some b)
include hm hd hbat

theorem exec_batonAnswer_accepted (hb : m.body = .batonAnswer true) :
    exec (.batonAnswer i) s = .next (modCore (modSlot (dropMsg s i) m.who fun x =>
      { (enterWfw x).dropIssue with baton := none, unit := none, cancel := none }) core fun c => setReq c m.tag none) := by
  change execBatonAnswer i s = _
  simp only [execBatonAnswer, hm, hb, hd, hbat, if_true]

section
variable (hb : m.body = .batonAnswer false)
include hb

theorem exec_batonAnswer_backoff (hlim : b.tries + 1 < ((coreAt s core).creg 0x105).toNat % 2 ^ 8) :
    exec (.batonAnswer i) s = .next (modSlot (dropMsg s i) m.who fun x => { x with
      baton := some { b with tries := b.tries + 1, sent := false,
                             due := some (s.time + ((coreAt s core).creg 0x105).toNat / 2 ^ 16 % 2 ^ 16) } }) := by
  change execBatonAnswer i s = _
  simp only [execBatonAnswer, hm, hb, hd, hbat, coreAt_dropMsg, bitF_zero, Nat.not_le.mpr hlim, Bool.false_eq_true, if_false]
  rfl

/-- The baton is given up: the reason is the limit, and the tag is free (R152). -/
def batonGivenUp (s : State) (core k t : Nat) : State :=
  modCore (modSlot s k fun x => { x.setCreg 0x0D0 (setF (x.creg 0x0D0) 0 8 1) with baton := none }) core fun c => setReq c t none

theorem exec_batonAnswer_limit (hlim : ((coreAt s core).creg 0x105).toNat % 2 ^ 8 ≤ b.tries + 1) :
    exec (.batonAnswer i) s = .next (trapNow (batonGivenUp (dropMsg s i) core m.who m.tag) m.who 0x20 (nw b.pa)) := by
  change execBatonAnswer i s = _
  simp only [execBatonAnswer, hm, hb, hd, hbat, coreAt_dropMsg, bitF_zero, hlim, Bool.false_eq_true, if_false, if_true]
  rfl

end

end

theorem creg_batonGivenUp (s : State) (core k t n : Nat) : (slotAt (batonGivenUp s core k t) k).creg n =
    ((slotAt s k).setCreg 0x0D0 (setF ((slotAt s k).creg 0x0D0) 0 8 1)).creg n := by
  rw [batonGivenUp, slotAt_modCore, slotAt_modSlot_self]
  rfl

theorem intrap_batonGivenUp (s : State) (core k t : Nat) : (slotAt (batonGivenUp s core k t) k).intrap = (slotAt s k).intrap := by
  rw [Slot.intrap, creg_batonGivenUp, Slot.creg_setCreg_ne _ _ (by decide), Slot.intrap]

theorem reason_batonGivenUp (s : State) (core k t : Nat) : ((slotAt (batonGivenUp s core k t) k).creg 0x0D0).toNat % 256 = 1 := by
  rw [creg_batonGivenUp, Slot.creg_setCreg_self]
  exact (bitF_zero _ 8).symm.trans (bitF_setF_self _ 1 (by decide))

/-- The request of a slot that carries its baton. -/
def carriesBaton (r : Nat × Req) : Bool := match r.2.msg.body with
  | .baton _ _ => true
  | _ => false

theorem exec_batonResend {k n t : Nat} {s : State} {b : BatonOut} {r : Req} (hbat : (slotAt s k).baton = some b) (hdue : b.due = some n)
    (hn : n ≤ s.time) (h : (slotReqs (coreAt s (coreOf k)) k).find? carriesBaton = some (t, r)) :
    exec (.batonResend k) s =
      .next (modSlot (niPost s (coreOf k) r.msg) k fun x => { x with baton := some { b with sent := true, due := none } }) := by
  change execBatonResend k s = _
  unfold execBatonResend
  rw [hbat]
  dsimp only
  rw [hdue]
  split
  next n' r' hn' hr' =>
    obtain rfl : n = n' := Option.some.inj hn'
    obtain rfl : (t, r) = r' := Option.some.inj (h.symm.trans hr')
    rw [if_neg (Nat.not_lt.mpr hn)]
  next hnone => exact absurd h (hnone n _ rfl)

end Sys2Proof.Machine

namespace Sys2Proof.Claims

open Sys2Proof.Machine

/-- Settles O43: what becomes of an active message and of a baton at its destination, and of the answer at the source. -/
theorem activeMessagesAndBatons : Obligations.ActiveMessagesAndBatons := by
  refine ⟨?plain, ?compressed, fun i s m cause ty plen off dst core => exec_amRefusal, ?handler, ?pass,
    fun core s b k => exec_batonInstall, ?answer, fun k s b n t r => exec_batonResend⟩
  case plain =>
    intro i s m ty plen off bs fr core p v hm hb hd hdiv hret
    have hexec := exec_activeMessage hm hb hd hdiv
    have hsrc : (amSrc (dropMsg s i) m).1 = (fr.map Prod.fst).getD (nodeOf s m.src) := amSrc_node hb
    refine ⟨fun hfree hv hvalid => ?_, fun hfree hv hvalid => ?_, fun hfree => ?_⟩
    · obtain ⟨hheld, hq⟩ := Prod.mk.inj (messages_amDispatch_queues (s := dropMsg s i) hb rfl hret hfree hv hvalid)
      exact ⟨_, hexec, hheld, hq.trans (by rw [amEntry, hsrc]; rfl)⟩
    · rw [hexec, amDispatch_noVector (s := dropMsg s i) hb rfl hret hfree hv hvalid, hsrc]
    · exact ⟨_, hexec, by rw [amDispatch_noRing (s := dropMsg s i) hb rfl hret hfree]; rfl⟩
  case compressed =>
    rintro i s m ty plen off k tag bs fr core e hm hb hd hdiv rfl
    have hexec := exec_activeMessage hm hb hd hdiv
    refine ⟨fun hbad => ?_, fun p v plain hv htag hplain hret hfree hvec hvalid => ?_⟩
    · have hp : amPlain (coreAt (dropMsg s i) core) plen bs (some (k, tag)) = none := by
        rcases hbad with hbad | hbad | hbad <;> simp [amPlain, hbad]
      rw [hexec, amDispatch_undecodable hb hp]
      rfl
    · have hp : amPlain (coreAt (dropMsg s i) core) plen bs (some (k, tag)) = some plain := by simp [amPlain, hv, htag, hplain]
      obtain ⟨hheld, -⟩ := Prod.mk.inj (messages_amDispatch_queues hb hp hret hfree hvec hvalid)
      exact ⟨_, hexec, hheld⟩
  case handler =>
    intro core s q k h
    refine ⟨_, exec_amHandlerStart h, ?_⟩
    rw [slotAt_handlerStarted, amQ_handlerStarted]
    obtain ⟨h3, h4, h5, h6⟩ := (slotAt s k).reg_handlerRegs (bitF ((coreAt s core).creg 0x160) 9 10 * 512) q
    exact ⟨rfl, rfl, rfl, rfl, h3, h4, h5, h6, fun r hlo hhi => Slot.full_handlerRegs _ _ _ hlo hhi,
      fun r _ hr => Slot.reg_handlerRegs_other _ _ _ hr, rfl⟩
  case pass =>
    intro i s m ctx hops core hm hb hd hdiv
    have hexec := exec_batonPass hm hb hd hdiv
    rw [hexec, ← batonWaits_of_not_divert hdiv]
    refine ⟨fun k hfree hk => ?_, fun hnone hroom => ?_, fun hnone hfull => ?_⟩
    · rw [batonDispatch_installs hb (by rw [batonSlot, coreAt_dropMsg, hfree]; exact hk)]
    · rw [batonDispatch_queues (s := dropMsg s i) hb (batonSlot_eq_none hnone) hroom]
    · exact ⟨_, rfl, by rw [batonDispatch_refuses (s := dropMsg s i) hb (batonSlot_eq_none hnone) hfull]; rfl⟩
  case answer =>
    intro i s m core ok b hm hb hd hbat
    refine ⟨?_, ?_, ?_⟩
    · rintro rfl
      exact ⟨_, exec_batonAnswer_accepted hm hd hbat hb, by simp [enterWfw, Slot.dropIssue]⟩
    · rintro rfl hlim
      exact ⟨_, exec_batonAnswer_backoff hm hd hbat hb hlim, by simp⟩
    · rintro rfl hlim hfree
      have hout := (intrap_batonGivenUp (dropMsg s i) core m.who m.tag).trans hfree
      obtain ⟨hcause, htval, hhop, hnone⟩ := slotAt_trapNow (c := 0x20) (v := nw b.pa) hout
      exact ⟨_, exec_batonAnswer_limit hm hd hbat hb hlim, hcause, htval, by rw [hhop, reason_batonGivenUp], hnone⟩

end Sys2Proof.Claims
end

section
/-! Operands of plain registers (R137, R138, R183, R185). -/

namespace Sys2Proof.Machine

/-- The trap of a source that is in error or holds poison (R138, R185). -/
def Slot.sourceFault (x : Slot) (r : Nat) : Nat × Word :=
  if bitOf x.par r = true then (0x78, nw r) else ((x.reg r).toNat / 2 ^ 57, nw ((x.reg r).toNat % 2 ^ 56))

/-- A source that traps: g0 never does. -/
def Slot.badSource (x : Slot) (r : Nat) : Bool := decide (r ≠ 0) && (bitOf x.par r || bitOf x.pois r)

section
variable {x : Slot}

theorem Slot.readOne_bad {r : Nat} (hs : x.inStream r = none) (hb : x.badSource r = true) : x.readOne r = .error (x.sourceFault r) := by
  obtain ⟨h0, hbits⟩ : r ≠ 0 ∧ (bitOf x.par r = true ∨ bitOf x.pois r = true) := by simpa [Slot.badSource] using hb
  have hcause : bitF (x.reg r) 57 7 = (x.reg r).toNat / 2 ^ 57 := bitF_high (x.reg r) rfl
  cases hp : bitOf x.par r with
  | true => simp [Slot.readOne, Slot.sourceFault, hs, h0, hp]
  | false =>
    have hq : bitOf x.pois r = true := hbits.resolve_left (by simp [hp])
    simp [Slot.readOne, Slot.sourceFault, hs, h0, hp, hq, hcause, bitF_zero]

theorem Slot.readOne_good {r : Nat} (hs : x.inStream r = none) (hb : x.badSource r = false) : x.readOne r = .ok (x.reg r, x) := by
  by_cases h0 : r = 0
  · subst h0
    simp [Slot.readOne, hs]
  · obtain ⟨hp, hq⟩ : bitOf x.par r = false ∧ bitOf x.pois r = false := by simpa [Slot.badSource, h0] using hb
    simp [Slot.readOne, hs, hp, hq]

/-- Registers in no stream mode are read in order, up to the first that traps. -/
theorem Slot.readAll_plain {rs : List Nat} (hs : ∀ r ∈ rs, x.inStream r = none) : x.readAll rs =
    match rs.find? x.badSource with
    | some r => .error (x.sourceFault r)
    | none => .ok (rs.map x.reg, x) := by
  induction rs with
  | nil => rfl
  | cons r rs ih =>
    have hr := hs r (by simp)
    have ih := ih fun q hq => hs q (by simp [hq])
    cases hb : x.badSource r with
    | true => simp [Slot.readAll, Slot.readOne_bad hr hb, hb]
    | false =>
      simp only [Slot.readAll, Slot.readOne_good hr hb, ih, List.find?_cons, hb, List.map_cons]
      cases rs.find? x.badSource <;> rfl

/-- Plain operands hold an instruction back by the full bit of a source and by the pending bit of the destination (R137, R183). -/
theorem Slot.anyWaits_plain {rs : List Nat} (hs : ∀ r ∈ rs, x.inStream r = none) :
    rs.any (x.sourceWaits rs) = true ↔ ∃ r ∈ rs, r ≠ 0 ∧ bitOf x.full r = false := by
  rw [List.any_eq_true]
  refine exists_congr fun r => and_congr_right fun hr => ?_
  simp [Slot.sourceWaits, hs r hr]

theorem Slot.dstWaits_plain {dst : Option Nat} (hd : ∀ d ∈ dst, x.inStream d = none) :
    (dst.map x.destWaits).getD false = true ↔ ∃ d ∈ dst, d ≠ 0 ∧ bitOf x.pend d = true := by
  cases dst with
  | none => simp
  | some d => simp [Slot.destWaits, hd d rfl]

/-- A destination in no stream mode has no stream's fault. -/
theorem Slot.dstFault_plain {dst : Option Nat} (reply : Bool) (hd : ∀ d ∈ dst, x.inStream d = none) :
    (dst.bind fun d => x.destFault d reply) = none := by
  cases dst with
  | none => rfl
  | some d => simp [Slot.destFault, hd d rfl]

end

end Sys2Proof.Machine

namespace Sys2Proof.Claims

open Sys2Proof.Machine

/-- Settles O12: the waits by the full and pending bits, then the sources in order. -/
theorem plainOperands : Obligations.PlainOperands := by
  intro x srcs dst reply hs hd
  have hbad : (fun r => decide (r ≠ 0) && (bitOf x.par r || bitOf x.pois r)) = x.badSource := rfl
  rw [hbad]
  split
  · next hw =>
    rcases hw with hw | hw
    · simp only [Slot.prep, (Slot.anyWaits_plain hs).2 hw, if_true]
    · simp only [Slot.prep, (Slot.dstWaits_plain hd).2 hw, if_true, ite_self]
  · next hw =>
    obtain ⟨hsrc, hdst⟩ := not_or.mp hw
    simp only [Slot.prep, mt (Slot.anyWaits_plain hs).1 hsrc, mt (Slot.dstWaits_plain hd).1 hdst, Slot.readAll_plain hs, Bool.false_eq_true, if_false]
    cases srcs.find? x.badSource with
    | none => simp only [Slot.dstFault_plain reply hd]
    | some r =>
      simp only [Slot.sourceFault]
      split <;> rfl

/-- Settles O9: nothing is listed at reset. -/
theorem memoryCanonicalAtReset : Obligations.MemoryCanonicalAtReset := ⟨reset_mem_wf, rfl, fun _ => rfl⟩

end Sys2Proof.Claims
end

section
/-! The address of a scalar access (R129 to R131). -/

namespace Sys2Proof.Machine

/-! The fields of a descriptor whose two words are joined (R129). -/

section
variable (lo hi : Word)

theorem segBase_eq_extractLsb' : segBase lo = ((hi ++ lo).extractLsb' 0 52).toNat * 16 := by
  simp only [segBase, bitF, BitVec.extractLsb'_toNat, Nat.shiftRight_eq_div_pow, toNat_join]
  omega

theorem segLimit_eq_extractLsb' : segLimit lo hi = ((hi ++ lo).extractLsb' 52 40).toNat := by
  have hlo := lo.isLt
  simp only [segLimit, bitF, BitVec.extractLsb'_toNat, Nat.shiftRight_eq_div_pow, toNat_join]
  omega

theorem segWin_eq_extractLsb' : segWin hi = ((hi ++ lo).extractLsb' 98 2).toNat := by
  have hlo := lo.isLt
  simp only [segWin, bitF, BitVec.extractLsb'_toNat, Nat.shiftRight_eq_div_pow, toNat_join]
  omega

theorem getLsbD_append_word {i : Nat} (h : 64 ≤ i) : BitVec.getLsbD (w := 128) (hi ++ lo) i = bitB hi (i - 64) :=
  (BitVec.getLsbD_append (x := hi) (y := lo)).trans (if_neg (Nat.not_lt.mpr h))

end

/-- A descriptor denies an access that needs a right which it lacks (R130). -/
theorem rightsOk_eq_false {hi : Word} {need : Need} : (!rightsOk hi need) = true ↔
    (need.r = true ∧ segR hi = false) ∨ (need.w = true ∧ segW hi = false) ∨ (need.x = true ∧ segX hi = false) ∨
      (need.f = true ∧ segF hi = false) ∨ (need.d = true ∧ segD hi = false) := by
  simp [rightsOk, or_assoc, -not_and]

/-- An address outside its segment's window (R129). -/
theorem inWindow_eq_false {win la : Nat} (h : win < 4) : (!inWindow win la) = true ↔
    (win = 0 ∧ 0x20000000000 ≤ la) ∨ (win = 1 ∧ (la < 0x20000000000 ∨ 0x21800000000 ≤ la)) ∨
      (win = 2 ∧ (la < 0x21800000000 ∨ 0x21900000000 ≤ la)) ∨ (win = 3 ∧ (la < 0x22000000000 ∨ 2 ^ 56 ≤ la)) := by
  obtain rfl | rfl | rfl | rfl : win = 0 ∨ win = 1 ∨ win = 2 ∨ win = 3 := by omega
  all_goals simp [inWindow, -not_and]

theorem ltS_zero (w : Word) : ltS w 0#64 = true ↔ w.toInt < 0 := by
  rw [ltS, BitVec.slt_iff_toInt_lt, BitVec.toInt_zero]

/-! The place of an address (R54, R128, R131). -/

theorem ctlPlace_ne_spread (a r o : Nat) : ctlPlace a ≠ .spread r o := by
  intro h
  simp only [ctlPlace] at h
  repeat' split at h
  all_goals cases h

/-- An address outside the spread window is no spread address. -/
theorem localPlace_ne_spread {a : Nat} (h : ¬ (0x21000000000 ≤ a ∧ a < 0x21800000000)) (r o : Nat) : localPlace a ≠ .spread r o := by
  intro hp
  have hctl := ctlPlace_ne_spread (a - 0x22000000000) r o
  simp only [localPlace] at hp
  generalize ctlPlace (a - 0x22000000000) = p at hp hctl
  repeat' split at hp
  all_goals cases hp
  · omega
  · exact hctl rfl

/-- An address that names no package is local. -/
theorem placeOf_of_lt {s : State} {a : Nat} (h : a < 2 ^ 55) : placeOf s a = localPlace a :=
  if_neg (by rw [Nat.div_eq_of_lt h]; decide)

/-- The local form of an address names the own package no more (R54). -/
theorem ownPrefix_localPa (s : State) (la : Nat) : ownPrefix s (localPa s la) = false := by
  unfold localPa
  split
  · have h : la % 2 ^ 44 / 2 ^ 55 % 2 ≠ 1 := by omega
    rw [ownPrefix, decide_eq_false h, Bool.false_and]
  · next h => simpa using h

/-- A spread address is split into its region and its offset (R128). -/
theorem placeOf_spread {s : State} {a : Nat} (h : 0x21000000000 ≤ a ∧ a < 0x21800000000) :
    placeOf s a = .spread ((a - 0x21000000000) / 2 ^ 32) (a % 2 ^ 32) := by
  rw [placeOf_of_lt (by omega)]
  unfold localPlace
  rw [if_neg (by omega), if_neg (by omega), if_neg (by omega), if_neg (by omega), if_pos h.2]

theorem placeOf_localPa_ne_spread {s : State} {la : Nat} (h : ¬ (0x21000000000 ≤ localPa s la ∧ localPa s la < 0x21800000000)) (r o : Nat) :
    placeOf s (localPa s la) ≠ .spread r o := by
  unfold placeOf
  rw [ownPrefix_localPa]
  split
  · split
    · next h => cases h
    · split <;> exact Place.noConfusion
  · exact localPlace_ne_spread h r o

/-- Where the address that a segment has produced lies (R56, R127, R131). -/
def segPlace (s : State) (k asid la : Nat) (need : Need) : AddrRes :=
  if la < 0x20000000000 then translate s k asid la need
  else if 0x21000000000 ≤ localPa s la ∧ localPa s la < 0x21800000000 then
    match spreadMap (coreAt s (coreOf k)) ((localPa s la - 0x21000000000) / 2 ^ 32) (localPa s la % 2 ^ 32) with
    | some pa => .ok la pa (Acc.plain asid la)
    | none => .trap 0x21 (nw la)
  else if placeOf s (localPa s la) = .hole then .trap 0x10 (nw la)
  else .ok la (localPa s la) (Acc.plain asid la)

/-- What becomes of an access behind one that waits for a walk: it waits, unless it is to the own LM or traps (R105). -/
def behindWalk (s : State) (core : Nat) : AddrRes → AddrRes
  | .ok l pa acc => if ownLm s core pa = .other then .walk s else .ok l pa acc
  | .trap c v => .trap c v
  | .walk _ => .walk s

theorem portOrder_eq (s : State) (k : Nat) (r : AddrRes) :
    portOrder s k r = if walkBlocks s k then behindWalk s (coreOf k) r else r := by
  cases hw : walkBlocks s k with
  | false => cases r <;> simp [portOrder, hw]
  | true => cases r <;> simp [portOrder, behindWalk, hw, inOwnLm]

theorem physical_eq (s : State) (k asid la : Nat) (need : Need) : physical s k asid la need =
    if walkBlocks s k then behindWalk s (coreOf k) (segPlace s k asid la need) else segPlace s k asid la need := by
  rw [← portOrder_eq]
  refine congrArg (portOrder s k) (if_congr Iff.rfl rfl ?_)
  by_cases hsp : 0x21000000000 ≤ localPa s la ∧ localPa s la < 0x21800000000
  · rw [if_pos hsp]
    exact placeOf_spread hsp ▸ rfl
  · rw [if_neg hsp]
    have hne := placeOf_localPa_ne_spread hsp
    cases hp : placeOf s (localPa s la) with
    | spread r o => exact absurd hp (hne r o)
    | hole => rfl
    | _ => exact (if_neg (by simp)).symm

end Sys2Proof.Machine

namespace Sys2Proof.Claims

open Sys2Proof.Machine

/-- Settles O22: the four checks in their order, each a condition on the descriptor's fields, and then the place of the address. -/
theorem segmentAddress : Obligations.SegmentAddress := by
  rintro s k seg off n need x D rfl rfl
  dsimp only
  rw [← segBase_eq_extractLsb', ← segLimit_eq_extractLsb', ← segWin_eq_extractLsb']
  refine if_congr ?range rfl (if_congr ?rights rfl (if_congr Iff.rfl rfl (if_congr ?window rfl (physical_eq ..))))
  case range => rw [Bool.or_eq_true, ltS_zero, decide_eq_true_eq]
  case rights =>
    repeat rw [getLsbD_append_word _ _ (by decide)]
    exact rightsOk_eq_false
  case window => exact inWindow_eq_false (Nat.mod_lt _ (by decide))

end Sys2Proof.Claims
end

section
/-! Loads and stores (R106, R107, R136, R138): what reaches a register and what leaves for another home, once for every form of access; then
the memory that each leaves. -/

namespace Sys2Proof

/-! Bytes of a number, lowest first (R5). -/

theorem natLE_length (n v : Nat) : (natLE n v).length = n := by
  induction n generalizing v with
  | zero => rfl
  | succ n ih => simp [natLE, ih]

theorem wordLE_length (n : Nat) (w : Word) : (wordLE n w).length = n := natLE_length n w.toNat

theorem natLE_getD (n v : Nat) {i : Nat} (h : i < n) : (natLE n v).getD i 0#8 = BitVec.ofNat 8 (v / 256 ^ i) := by
  induction n generalizing v i with
  | zero => exact absurd h (Nat.not_lt_zero i)
  | succ n ih =>
    cases i with
    | zero => simp [natLE]
    | succ i => rw [natLE, List.getD_cons_succ, ih _ (Nat.lt_of_succ_lt_succ h), Nat.div_div_eq_div_mul, Nat.pow_succ']

theorem sxNat_eq_toInt (n v : Nat) : sxNat n v = (BitVec.ofNat n v).toInt := by
  simp only [sxNat, BitVec.toInt, BitVec.toNat_ofNat]

/-- Extension of the low bits of a word that holds a number. -/
theorem sextW_nw {n : Nat} (h : n ≤ 64) (v : Nat) : sextW n (nw v) = (BitVec.ofNat n v).signExtend 64 := by
  have hlow : BitVec.ofNat n (nw v).toNat = BitVec.ofNat n v := by
    apply BitVec.eq_of_toNat_eq
    simp only [nw, BitVec.toNat_ofNat]
    exact Nat.mod_mod_of_dvd v (Nat.pow_dvd_pow 2 h)
  rw [sextW, sxNat_eq_toInt, hlow, BitVec.signExtend]

theorem zextW_nw {n : Nat} (h : n ≤ 64) (v : Nat) : zextW n (nw v) = (BitVec.ofNat n v).setWidth 64 := by
  apply BitVec.eq_of_toNat_eq
  simp only [zextW, nw, BitVec.toNat_ofNat, BitVec.toNat_setWidth]
  rw [Nat.mod_mod_of_dvd v (Nat.pow_dvd_pow 2 h)]

end Sys2Proof

namespace Sys2Proof.Machine

open Sys2Proof.Claims

/-- A loaded value is the one that the claims name (R136). -/
theorem extend_eq_loaded {n : Nat} (h : n ≤ 8) (signed : Bool) (bs : List Byte) : extend n signed bs = loaded n signed bs := by
  have hbits : 8 * n ≤ 64 := by omega
  cases signed
  · exact zextW_nw hbits (leNat bs)
  · exact sextW_nw hbits (leNat bs)

/-! Reading operands pops streams only, so what an access asks of the state stays. -/

section
variable (s : State) (y : Slot)

@[simp] theorem firstBad_popped (a n : Nat) : firstBad (popped s y) a n = firstBad s a n := rfl
@[simp] theorem partialBad_popped (a n : Nat) : partialBad (popped s y) a n = partialBad s a n := rfl
@[simp] theorem memBytes_popped (a n : Nat) : memBytes (popped s y) a n = memBytes s a n := rfl
@[simp] theorem isCtl_popped (pa : Nat) : isCtl (popped s y) pa = isCtl s pa := rfl
@[simp] theorem isHost_popped (pa : Nat) : isHost (popped s y) pa = isHost s pa := rfl
@[simp] theorem placeOf_popped (pa : Nat) : placeOf (popped s y) pa = placeOf s pa := rfl

end

/-! What a turn itself delivers (R136, R138). -/

section
variable {z : State} {d a : GReg} {t signed : Bool} {n pa : Nat}

theorem deliverOwn_value (h : n ≤ 8) (bs : List Byte) :
    deliverOwn z d a t n signed pa (.value bs) = .done (wrote z d a t (loaded n signed bs)) := by
  rw [← extend_eq_loaded h]
  exact congrArg Res.done (modSlot_modSlot z z.cur _ _)

theorem deliverOwn_poison (h : (slotAt z z.cur).inStream d.toNat = none) (c a' : Nat) :
    deliverOwn z d a t n signed pa (.poison c a') = .done (poisoned z d a t c pa) := by
  simp only [deliverOwn, h, Option.isSome_none, Bool.false_eq_true, if_false]
  rfl

end

/-! What leaves for another home (R106, R107). -/

@[simp] theorem takeIf_phase (x : Slot) (t : Bool) (a : Nat) : (x.takeIf t a).phase = x.phase := by
  unfold Slot.takeIf
  split
  · split <;> simp
  · rfl

section
variable {z : State} {d a : GReg} {t signed : Bool} {n pa tag e : Nat} {kind : ReqKind} {form : Option SyncForm} {b : Body} {data : List Byte}
  {acc : Acc}

/-- With a free tag and a general register to write, the request is sent (R106). -/
theorem requestOut_sends (hstr : (slotAt z z.cur).inStream d.toNat = none) (htag : freeTag (coreAt z (coreOf z.cur)) = some tag) :
    requestOut z d a t n signed kind form pa b = .done (requested z d a t tag n signed kind form pa b) := by
  simp [requestOut, sendRequest, hstr, htag, requested, requestMsg, took]

theorem placeOf_ne_ctl {s : State} (h : isCtl s pa = false) (blk i : Nat) : placeOf s pa ≠ .ctl blk i := by
  intro hp
  simp [isCtl, ctlReg, hp] at h

/-- With a free journal entry the store is posted; outside the control windows it is a posted store (R107). -/
theorem postOut_posts (he : freeJ (coreAt z (coreOf z.cur)) = some e) (hctl : isCtl z pa = false) :
    postOut z a t pa data form acc = .done (posted z a t e pa data form acc (.postedStore pa data form acc)) := by
  have hmod : placeOf (modSlot z z.cur fun x => x.takeIf t a.toNat) pa = placeOf z pa := rfl
  cases hp : placeOf z pa with
  | ctl blk i => exact absurd hp (placeOf_ne_ctl hctl blk i)
  | _ =>
    simp only [postOut, postStore, coreAt_modSlot, he, takeFresh, hmod, hp, slotAt_modSlot_self, takeIf_phase]
    rfl

end

/-! Loads (R136). -/

theorem lmRead_ok {z : State} {core off n : Nat} (h : firstBad z (lmKey core off) n = none) :
    lmRead z core off n = .ok z (memBytes z (lmKey core off) n) := by
  simp only [lmRead, h]

theorem lmRead_poison {z : State} {core off n w c : Nat} (h : firstBad z (lmKey core off) n = some (w, c)) :
    lmRead z core off n = .poison z c (wordPa z core off) := by
  simp only [lmRead, h]

section
variable {z : State} {d a : GReg} {t signed : Bool} {n la pa off : Nat} {acc : Acc}

theorem loadAt_own (hn : n ≤ 8) (hown : ownLm z (coreOf z.cur) pa = .own off) (hok : firstBad z (lmKey (coreOf z.cur) off) n = none) :
    loadAt z d a t n signed la pa acc = .done (wrote z d a t (loaded n signed (memBytes z (lmKey (coreOf z.cur) off) n))) := by
  simp only [loadAt, hown, lmRead_ok hok, deliverOwn_value hn]

theorem loadAt_own_poison {w c : Nat} (hown : ownLm z (coreOf z.cur) pa = .own off)
    (hbad : firstBad z (lmKey (coreOf z.cur) off) n = some (w, c)) (hstr : (slotAt z z.cur).inStream d.toNat = none) :
    loadAt z d a t n signed la pa acc = .done (poisoned z d a t c pa) := by
  simp only [loadAt, hown, lmRead_poison hbad, deliverOwn_poison hstr]

theorem loadAt_other {tag : Nat} (hown : ownLm z (coreOf z.cur) pa = .other) (hctl : isCtl z pa = false)
    (hstr : (slotAt z z.cur).inStream d.toNat = none) (htag : freeTag (coreAt z (coreOf z.cur)) = some tag) :
    loadAt z d a t n signed la pa acc = .done (requested z d a t tag n signed .load none pa (.loadReq pa n acc)) := by
  simp only [loadAt, hown, hctl, Bool.false_eq_true, if_false, requestOut_sends hstr htag]

end

section
variable {s : State} {d a : GReg} {t signed : Bool} {sg : BitVec 3} {o : BitVec 11} {n la pa : Nat} {va : Word} {y : Slot} {acc : Acc}

/-- A load whose operand is read and whose address is formed goes on at that address (R136). -/
theorem load_at (h : Reads s [a] (some d) [va] y) (hbar : y.barEHolds = false) (haddr : AtAddr (popped s y) sg va o n needR la pa acc) :
    load d a t sg o n signed s = endsAs s (loadAt (popped s y) d a t n signed la pa acc) := by
  refine (next_withOps h _).trans (congrArg (endsAs s) ?_)
  simp only [val_zero, slotAt_popped, popped_cur, hbar, onAddr_of_atAddr haddr, Bool.false_eq_true, if_false]

/-- A load behind a barrier of `fencex` waits (R275). -/
theorem load_waits (h : Reads s [a] (some d) [va] y) (hbar : y.barEHolds = true) : load d a t sg o n signed s = endsAs s (.park (popped s y)) := by
  refine (next_withOps h _).trans (congrArg (endsAs s) ?_)
  simp only [slotAt_popped, popped_cur, hbar, if_true]

/-- A store whose operands are read and whose address is formed goes on at that address (R136). -/
theorem store_at {vd : Word} (h : Reads s [a, d] none [va, vd] y) (haddr : AtAddr (popped s y) sg va o n needW la pa acc) :
    store d a t sg o n s = endsAs s (storeAt (popped s y) a t (wordLE n vd) la pa acc) := by
  refine (next_withOps h _).trans (congrArg (endsAs s) ?_)
  simp only [val_zero, val_one, onAddr_of_atAddr haddr]

end

section
variable {mk : GReg → GReg → Bool → BitVec 3 → BitVec 11 → Instr} {n : Nat} {signed : Bool}

theorem loadsOwn_of_load (hn : n ≤ 8) (hmk : ∀ d a t sg o s, exec (mk d a t sg o) s = load d a t sg o n signed s) : LoadsOwn n signed mk := by
  intro d a t sg o s va y la pa acc off h hbar haddr hown
  rw [hmk, load_at h hbar haddr]
  refine ⟨fun hok => completes_of_done (loadAt_own hn hown hok), fun w c hbad hstr => completes_of_done (loadAt_own_poison hown hbad ?_)⟩
  rw [popped_cur, slotAt_popped, hstr]

theorem loadsRemote_of_load (hmk : ∀ d a t sg o s, exec (mk d a t sg o) s = load d a t sg o n signed s) : LoadsRemote n signed mk := by
  intro d a t sg o s va y la pa acc tag h hbar haddr hown hctl hstr htag
  rw [hmk, load_at h hbar haddr]
  refine completes_of_done (loadAt_other hown hctl ?_ htag)
  rw [popped_cur, slotAt_popped, hstr]

end

/-! What the work of an LM controller leaves alone: the directory works in the cores and in the network, and a write's check bits are no memory. -/

section
variable {α β : Type} {g : State → β}

theorem keeps_foldl {f : State → α → State} (hf : ∀ s x, g (f s x) = g s) (l : List α) (s : State) : g (l.foldl f s) = g s := by
  induction l generalizing s with
  | nil => rfl
  | cons x l ih => exact (ih _).trans (hf s x)

theorem keeps_clearBad (hg : ∀ s bad flips, g { s with bad := bad, flips := flips } = g s) (s : State) (a n : Nat) :
    g (clearBad s a n) = g s := by
  refine keeps_foldl (fun s w => ?_) _ s
  split
  · exact hg s _ _
  · exact hg s _ _

section
variable (hg : ∀ s cores net touch, g { s with cores := cores, net := net, touch := touch } = g s)
include hg

theorem keeps_sendMsg (s : State) (m : Msg) : g (sendMsg s m) = g s := hg s _ _ _
theorem keeps_modCore (s : State) (core : Nat) (f : Core → Core) : g (modCore s core f) = g s := hg s _ _ _
theorem keeps_raiseEvent (s : State) (core c : Nat) (v : Word) : g (raiseEvent s core c v) = g s := hg s _ _ _

theorem keeps_dirFree (s : State) (core line : Nat) : g (dirFree s core line) = g s := by
  unfold dirFree
  split
  · rfl
  · split
    · exact (keeps_foldl (keeps_sendMsg hg) _ _).trans (keeps_modCore hg _ _ _)
    · rfl

theorem keeps_pushOvf (s : State) (core line : Nat) : g (pushOvf s core line) = g s := by
  unfold pushOvf
  split
  · exact (keeps_raiseEvent hg _ _ _ _).trans (keeps_modCore hg _ _ _)
  · exact keeps_modCore hg _ _ _

theorem keeps_dirWrite (s : State) (core off : Nat) (ack : Option Msg) : g (dirWrite s core off ack) = g s := by
  have hinvals (e : DirEnt) (f : Core → Core) : g (modCore (e.sharers.foldl (sendInval core (off / 64)) s) core f) = g s :=
    (keeps_modCore hg _ _ _).trans (keeps_foldl (fun s _ => keeps_sendMsg hg s _) _ s)
  unfold dirWrite
  dsimp only
  split
  · split
    · exact keeps_sendMsg hg _ _
    · rfl
  · split
    · exact keeps_modCore hg _ _ _
    · refine (keeps_dirFree hg _ _ _).trans ?_
      split
      · exact (keeps_pushOvf hg _ _ _).trans (hinvals _ _)
      · exact hinvals _ _

end
end

/-- The state after a write of bytes at byte `off` of a core's LM (R107, R111, R125, R410). -/
def lmWritten (u : State) (core off : Nat) (bs : List Byte) : State :=
  dirWrite (clearBad (setBytes u (lmKey core off) bs) (lmKey core off) bs.length) core off none

@[simp] theorem lmWritten_cur (u : State) (core off : Nat) (bs : List Byte) : (lmWritten u core off bs).cur = u.cur :=
  (keeps_dirWrite (g := State.cur) (fun _ _ _ _ => rfl) _ _ _ _).trans (keeps_clearBad (g := State.cur) (fun _ _ _ => rfl) _ _ _)

theorem lmWritten_mem (u : State) (core off : Nat) (bs : List Byte) :
    (lmWritten u core off bs).mem = memPut u.mem (lmKey core off) bs :=
  (keeps_dirWrite (g := State.mem) (fun _ _ _ _ => rfl) _ _ _ _).trans (keeps_clearBad (g := State.mem) (fun _ _ _ => rfl) _ _ _)

/-! Stores (R136). -/

section
variable {z : State} {d a : GReg} {t : Bool} {data : List Byte} {la pa off : Nat} {acc : Acc}

theorem storeAt_own (hown : ownLm z (coreOf z.cur) pa = .own off) (hok : partialBad z (lmKey (coreOf z.cur) off) data.length = false) :
    storeAt z a t data la pa acc = .done (took (lmWritten z (coreOf z.cur) off data) a t) := by
  have htook : took (lmWritten z (coreOf z.cur) off data) a t =
      modSlot (lmWritten z (coreOf z.cur) off data) z.cur fun x => x.takeIf t a.toNat := by rw [took, lmWritten_cur]
  simp only [storeAt, hown, lmWrite, hok, Bool.false_eq_true, if_false]
  exact congrArg Res.done htook.symm

theorem storeAt_own_partial (hown : ownLm z (coreOf z.cur) pa = .own off)
    (hbad : partialBad z (lmKey (coreOf z.cur) off) data.length = true) : storeAt z a t data la pa acc = .trap 0x19 (nw pa) := by
  simp only [storeAt, hown, lmWrite, hbad, if_true]
  rfl

/-- Outside the control windows a store of another home is posted (R107). -/
theorem storeAt_other {e : Nat} (hown : ownLm z (coreOf z.cur) pa = .other) (hctl : isCtl z pa = false)
    (he : freeJ (coreAt z (coreOf z.cur)) = some e) :
    storeAt z a t data la pa acc = .done (posted z a t e pa data none acc (.postedStore pa data none acc)) := by
  have hpriv : ctlPriv z pa = false := by
    have hreg : ctlReg z pa = none := by simpa [isCtl] using hctl
    rw [ctlPriv, hreg]
    rfl
  simp only [storeAt, hown, hctl, hpriv, Bool.false_eq_true, false_and, if_false, postOut_posts he hctl]

end

section
variable {mk : GReg → GReg → Bool → BitVec 3 → BitVec 11 → Instr} {n : Nat}

theorem storesOwn_of_store (hmk : ∀ d a t sg o s, exec (mk d a t sg o) s = store d a t sg o n s) : StoresOwn n mk := by
  intro d a t sg o s va vd y la pa acc off h haddr hown hok
  rw [hmk, store_at h haddr]
  refine completes_of_done ((storeAt_own hown ((wordLE_length n vd).symm ▸ hok)).trans ?_)
  rw [lmWritten, wordLE_length]
  rfl

theorem storesPosted_of_store (hmk : ∀ d a t sg o s, exec (mk d a t sg o) s = store d a t sg o n s) : StoresPosted n mk := by
  intro d a t sg o s va vd y la pa acc e h haddr hown hctl he
  rw [hmk, store_at h haddr]
  exact completes_of_done (storeAt_other hown hctl he)

end

end Sys2Proof.Machine

namespace Sys2Proof.Claims

open Sys2Proof.Machine

/-- Settles O23: each form is a load or a store of its width, at the own LM and at another home. -/
theorem loadsAndStores : Obligations.LoadsAndStores := by
  refine ⟨⟨?_, ?_, ?_, ?_, ?_, ?_, ?_, ?_, ?_, ?_, ?_, ?_, ?_, ?_⟩, ?_, ?_, ?_, ?_, ?_, ?_, ?_, ?_⟩
  iterate 7 exact loadsOwn_of_load (by decide) fun _ _ _ _ _ _ => rfl
  iterate 7 exact loadsRemote_of_load fun _ _ _ _ _ _ => rfl
  iterate 4 exact storesOwn_of_store fun _ _ _ _ _ _ => rfl
  iterate 4 exact storesPosted_of_store fun _ _ _ _ _ _ => rfl

end Sys2Proof.Claims

/-! The memory that a turn leaves. -/

namespace Sys2Proof.Machine

open Sys2Proof.Claims

/-- The memory that the end of a turn begun in `s` is to leave: a trap leaves that of `s`. -/
def Res.memOf (s : State) : Res → List Host.Cell
  | .done t | .jump t _ | .branch t _ _ | .left t | .park t | .trapAt t _ _ => t.mem
  | .trap _ _ | .trapStream _ _ _ => s.mem

theorem mem_trapNow (s : State) (k c : Nat) (v : Word) : (trapNow s k c v).mem = s.mem := by
  have hentry (s : State) (k c : Nat) (v p : Word) (async : Bool) : (trapEntry s k c v p async).mem = s.mem := by
    unfold trapEntry
    dsimp only
    split
    · exact (keeps_raiseEvent (g := State.mem) (fun _ _ _ _ => rfl) _ _ _ _).trans (setSlot_mem _ _ _)
    · exact setSlot_mem _ _ _
  exact (hentry _ _ _ _ _ _).trans (modSlot_mem _ _ _)

theorem mem_finish (s : State) (k : Nat) (r : Res) : (finish s k r).mem = r.memOf s := by
  cases r with
  | trap c v => exact mem_trapNow s k c v
  | trapAt t c v => exact mem_trapNow t k c v
  | trapStream i c v => exact mem_trapNow _ k c v
  | _ => rfl

theorem memOf_keepStreams (s : State) (r : Res) (k : Nat) (x : Slot) : (r.keepStreams k x).memOf s = r.memOf s := by
  cases r <;> rfl

theorem mem_of_endsAs {s u : State} {r : Res} (h : endsAs s r = .next u) : u.mem = r.memOf s := by
  cases h
  rw [mem_finish, memOf_keepStreams]

theorem memByte_congr {s u : State} (h : u.mem = s.mem) (key : Nat) : memByte u key = memByte s key := by
  rw [memByte, h, memByte]

section
variable {z : State} {d a : GReg} {t signed : Bool} {n la pa : Nat} {acc : Acc}

theorem memOf_deliverOwn (v : Reply) : (deliverOwn z d a t n signed pa v).memOf z = z.mem := by
  cases v with
  | value bs => rfl
  | poison c a' =>
    simp only [deliverOwn]
    split <;> rfl

theorem memOf_requestOut (kind : ReqKind) (form : Option SyncForm) (b : Body) :
    (requestOut z d a t n signed kind form pa b).memOf z = z.mem := by
  unfold requestOut sendRequest
  dsimp only
  split
  · rfl
  · split
    · next u h =>
      split at h
      · cases h
      · cases h
        exact (modSlot_mem _ _ _).trans ((modCore_mem _ _ _).trans (modSlot_mem _ _ _))
    · rfl

theorem memOf_postOut (data : List Byte) (form : Option SyncForm) : (postOut z a t pa data form acc).memOf z = z.mem := by
  unfold postOut postStore
  dsimp only
  split
  · next u h =>
    split at h
    · cases h
    · cases h
      exact (modCore_mem _ _ _).trans ((modCore_mem _ _ _).trans (modSlot_mem z z.cur fun x => x.takeIf t a.toNat))
  · rfl

/-- A load leaves memory alone, however it ends. -/
theorem memOf_loadAt : (loadAt z d a t n signed la pa acc).memOf z = z.mem := by
  unfold loadAt
  dsimp only
  cases hown : ownLm z (coreOf z.cur) pa with
  | own off =>
    cases hbad : firstBad z (lmKey (coreOf z.cur) off) n with
    | none =>
      simp only [lmRead_ok hbad]
      exact memOf_deliverOwn _
    | some p =>
      simp only [lmRead_poison (show firstBad z _ n = some (p.1, p.2) from hbad)]
      exact memOf_deliverOwn _
  | other =>
    dsimp only
    split
    · split
      · rfl
      · split
        · rfl
        · split <;> exact memOf_requestOut _ _ _
    · exact memOf_requestOut _ _ _
  | _ => rfl

/-- A store that is not the own LM's leaves memory alone in its turn. -/
theorem memOf_storeAt_not_own {data : List Byte} (h : ∀ off, ownLm z (coreOf z.cur) pa ≠ .own off) :
    (storeAt z a t data la pa acc).memOf z = z.mem := by
  unfold storeAt
  dsimp only
  cases hown : ownLm z (coreOf z.cur) pa with
  | own off => exact absurd hown (h off)
  | other =>
    dsimp only
    split
    · rfl
    · split
      · rfl
      · exact memOf_postOut _ _
  | _ => rfl

end

section
variable {s u : State} {d a : GReg} {t signed : Bool} {sg : BitVec 3} {o : BitVec 11} {n la pa off : Nat} {va vd : Word} {y : Slot} {acc : Acc}

theorem mem_of_load (h : Reads s [a] (some d) [va] y) (haddr : AtAddr (popped s y) sg va o n needR la pa acc)
    (hu : load d a t sg o n signed s = .next u) : u.mem = s.mem := by
  cases hbar : y.barEHolds with
  | false =>
    rw [load_at h hbar haddr] at hu
    exact (mem_of_endsAs hu).trans memOf_loadAt
  | true =>
    rw [load_waits h hbar] at hu
    exact mem_of_endsAs hu

section
variable (h : Reads s [a, d] none [va, vd] y) (haddr : AtAddr (popped s y) sg va o n needW la pa acc)
  (hu : store d a t sg o n s = .next u)
include h haddr hu

theorem mem_of_store_own (hown : ownLm (popped s y) (coreOf s.cur) pa = .own off)
    (hok : partialBad s (lmKey (coreOf s.cur) off) n = false) : u.mem = memPut s.mem (lmKey (coreOf s.cur) off) (wordLE n vd) := by
  rw [store_at h haddr, storeAt_own hown ((wordLE_length n vd).symm ▸ hok)] at hu
  exact (mem_of_endsAs hu).trans (lmWritten_mem _ _ _ _)

theorem mem_of_store_partial (hown : ownLm (popped s y) (coreOf s.cur) pa = .own off)
    (hbad : partialBad s (lmKey (coreOf s.cur) off) n = true) : u.mem = s.mem := by
  rw [store_at h haddr, storeAt_own_partial hown ((wordLE_length n vd).symm ▸ hbad)] at hu
  exact mem_of_endsAs hu

theorem mem_of_store_not_own (hown : ∀ off, ownLm (popped s y) (coreOf s.cur) pa ≠ .own off) : u.mem = s.mem := by
  rw [store_at h haddr] at hu
  exact (mem_of_endsAs hu).trans (memOf_storeAt_not_own hown)

/-- The bytes that a store of the own LM leaves: its own where it writes, and every other as it was. -/
theorem memByte_of_store_own (hown : ownLm (popped s y) (coreOf s.cur) pa = .own off)
    (hok : partialBad s (lmKey (coreOf s.cur) off) n = false) :
    (∀ i, i < n → memByte u (lmKey (coreOf s.cur) off + i) = BitVec.ofNat 8 (vd.toNat / 256 ^ i)) ∧
      ∀ key, (key < lmKey (coreOf s.cur) off ∨ lmKey (coreOf s.cur) off + n ≤ key) → memByte u key = memByte s key := by
  have hbyte (key : Nat) : memByte u key = memByte (setBytes s (lmKey (coreOf s.cur) off) (wordLE n vd)) key :=
    memByte_congr (s := setBytes s _ _) (mem_of_store_own h haddr hu hown hok) key
  refine ⟨fun i hi => ?_, fun key hkey => ?_⟩
  · rw [hbyte, memByte_setBytes, wordLE_length, if_pos (by omega), Nat.add_sub_cancel_left, wordLE, natLE_getD _ _ hi]
  · rw [hbyte, memByte_setBytes, wordLE_length, if_neg (by omega)]

end
end

end Sys2Proof.Machine

namespace Sys2Proof.Claims

open Sys2Proof.Machine

/-- Settles O25: a load ends without a write, and a store writes its bytes or, refused or posted, none. -/
theorem memoryFrame : Obligations.MemoryFrame := by
  refine ⟨?load, ?store, ?add⟩
  case load =>
    intro mk n signed hmk d a t sg o s u va y la pa acc h haddr hu
    have hload : exec (mk d a t sg o) s = load d a t sg o n signed s := by
      simp only [List.mem_cons, Prod.mk.injEq, List.not_mem_nil, or_false] at hmk
      rcases hmk with ⟨rfl, rfl, rfl⟩ | ⟨rfl, rfl, rfl⟩ | ⟨rfl, rfl, rfl⟩ | ⟨rfl, rfl, rfl⟩ | ⟨rfl, rfl, rfl⟩ | ⟨rfl, rfl, rfl⟩ | ⟨rfl, rfl, rfl⟩ <;>
        rfl
    exact memByte_congr (mem_of_load h haddr (hload ▸ hu))
  case store =>
    intro mk n hmk d a t sg o s u va vd y la pa acc h haddr hu
    have hstore : exec (mk d a t sg o) s = store d a t sg o n s := by
      simp only [List.mem_cons, Prod.mk.injEq, List.not_mem_nil, or_false] at hmk
      rcases hmk with ⟨rfl, rfl⟩ | ⟨rfl, rfl⟩ | ⟨rfl, rfl⟩ | ⟨rfl, rfl⟩ <;> rfl
    rw [hstore] at hu
    exact ⟨fun off hown hok => memByte_of_store_own h haddr hu hown hok,
      fun off hown hbad => memByte_congr (mem_of_store_partial h haddr hu hown hbad),
      fun hown => memByte_congr (mem_of_store_not_own h haddr hu hown)⟩
  case add =>
    intro d a b t s u va vb y h hu
    have hadd := (next_withOps h _).symm.trans hu
    exact memByte_congr (mem_of_endsAs hadd)

end Sys2Proof.Claims
end

section
/-! Full/empty forms and atomics (R142 to R144, R148, R149): what the own LM does in the turn, and what leaves for another home. -/

namespace Sys2Proof.Machine

open Sys2Proof.Claims

/-- An access through a pointer whose address is formed and that is no baton pass goes on at that address (R132, R150). -/
theorem onAddr_of_atPtr {z : State} {p : Word} {n la pa : Nat} {need : Need} {acc : Acc} (h : AtPtr z p n need la pa acc)
    (body : State → Nat → Nat → Acc → Res) : onAddr z (ptrSeg p) (ptrAddr z z.cur p n need) body = body z la pa acc := by
  obtain ⟨haddr, hattr⟩ := h
  have hseg : ptrSeg p = p.toNat / 2 ^ 61 := bitF_high p rfl
  simp only [onAddr, haddr, hseg, hattr, Bool.false_eq_true, if_false]

/-- A form that no barrier of `fencex` holds back goes on (R275). -/
theorem behindBar {s : State} {y : Slot} (h : y.barEHolds = false) (r : Res) :
    (if (slotAt (popped s y) (popped s y).cur).barEHolds = true then Res.park (popped s y) else r) = r := by
  rw [popped_cur, slotAt_popped, h, if_neg Bool.false_ne_true]

/-- An answer of the own LM that goes to the destination as it is. -/
theorem completes_of_deliverOwn {s z : State} {d a : GReg} {t signed : Bool} {n pa : Nat} {bs : List Byte} {v : Word} (hn : n ≤ 8)
    (hv : loaded n signed bs = v) : endsAs s (deliverOwn z d a t n signed pa (.value bs)) = completes s (wrote z d a t v) :=
  completes_of_done (by rw [deliverOwn_value hn, hv])

theorem loaded_dword (bs : List Byte) : loaded 8 false bs = leWord bs := by
  simp [loaded, leWord, nw]

theorem leWord_natLE_toNat (b : Bool) : leWord (natLE 8 b.toNat) = bw b := by
  cases b <;> rfl

/-! The service step keeps the slot at its turn. -/

theorem cur_fireTrap (s : State) (core off : Nat) (f : Agent × Nat) : (fireTrap s core off f).cur = s.cur := by
  unfold fireTrap
  dsimp only
  split
  · split <;> rfl
  · rfl

theorem cur_dirWrite (s : State) (core off : Nat) (ack : Option Msg) : (dirWrite s core off ack).cur = s.cur :=
  keeps_dirWrite (g := State.cur) (fun _ _ _ _ => rfl) s core off ack

theorem cur_clearBad (s : State) (a n : Nat) : (clearBad s a n).cur = s.cur := keeps_clearBad (g := State.cur) (fun _ _ _ => rfl) s a n

theorem cur_syncPerform {s u : State} {core off : Nat} {f : SyncForm} {data : Word} {filler : Agent × Nat} {r : Reply}
    (h : syncPerform s core off f data filler = some (u, r)) : u.cur = s.cur := by
  have hput : (fireTrap (setFe (clearBad (setBytes s (lmKey core off) (wordLE 8 data)) (lmKey core off) 8) core off true) core off filler).cur =
      s.cur := (cur_fireTrap _ _ _ _).trans (cur_clearBad _ _ _)
  cases f with
  | ldfe | ldff =>
    simp only [syncPerform, Option.ite_none_right_eq_some] at h
    obtain ⟨-, h⟩ := h
    cases h
    rfl
  | stef =>
    simp only [syncPerform, Option.ite_none_left_eq_some] at h
    obtain ⟨-, h⟩ := h
    cases h
    exact hput
  | stff =>
    cases h
    exact hput
  | fset =>
    cases h
    exact cur_fireTrap _ _ _ _
  | fget | fclr =>
    cases h
    rfl
  | lvlwait | phwait => cases h

theorem cur_serviceWord (fuel : Nat) (s : State) (core off : Nat) : (serviceWord fuel s core off).cur = s.cur := by
  induction fuel generalizing s with
  | zero => rfl
  | succ fuel ih =>
    unfold serviceWord
    dsimp only
    repeat' split
    all_goals try rfl
    next hp _ => exact (ih _).trans ((cur_dirWrite _ _ _ _).trans ((cur_syncPerform hp).trans (setCore_cur _ _ _)))
    next hp _ => exact (ih _).trans ((sendMsg_cur _ _).trans ((cur_syncPerform hp).trans (setCore_cur _ _ _)))

@[simp] theorem cur_service (s : State) (core off : Nat) : (service s core off).cur = s.cur := cur_serviceWord 17 s core off

/-! A word of the own LM, and of another core's (R142). -/

theorem placeOf_of_own {s : State} {core pa off : Nat} (h : ownLm s core pa = .own off) :
    ∃ cl lc o f, placeOf s pa = .lm cl lc o ∧ lmAt s cl lc o = .here core off f := by
  unfold ownLm at h
  split at h
  · next cl lc o hp =>
    split at h
    · next c o' f hat =>
      split at h
      · next hc =>
        cases h
        subst hc
        exact ⟨cl, lc, o, f, hp, hat⟩
      · cases h
    · cases h
    · split at h <;> cases h
    · split at h <;> cases h
  · cases h

theorem isLmWord_of_own {s : State} {core pa off : Nat} (h : ownLm s core pa = .own off) : isLmWord s pa = true := by
  obtain ⟨cl, lc, o, f, hp, -⟩ := placeOf_of_own h
  simp [isLmWord, hp]

theorem isCtl_of_isLmWord {s : State} {pa : Nat} (h : isLmWord s pa = true) : isCtl s pa = false := by
  unfold isLmWord at h
  split at h
  · next hp => simp [isCtl, ctlReg, hp]
  · next hp =>
    split at h
    · next hq => simp only [isCtl, ctlReg, hp, hq, Option.isSome_none]
    · cases h
  · cases h

/-! What each form does to a word (R143). -/

section
variable {z : State} {core off : Nat} {data : Word} {filler : Agent × Nat}

section
variable (hbad : badAt z (lmKey core off) = 0)
include hbad

theorem syncPerform_ldfe_full (hfe : feAt z core off = true) : syncPerform z core off .ldfe data filler =
    some (setFe z core off false, .value (memBytes z (lmKey core off) 8)) := by
  simp [syncPerform, hfe, hbad]

theorem syncPerform_ldff_full (hfe : feAt z core off = true) : syncPerform z core off .ldff data filler =
    some (z, .value (memBytes z (lmKey core off) 8)) := by
  simp [syncPerform, hfe, hbad]

theorem syncPerform_fget : syncPerform z core off .fget data filler = some (z, .value (natLE 8 (feAt z core off).toNat)) := by
  simp [syncPerform, hbad]

end

theorem syncPerform_ldfe_empty (hfe : feAt z core off = false) : syncPerform z core off .ldfe data filler = none := by
  simp [syncPerform, hfe]

theorem syncPerform_ldff_empty (hfe : feAt z core off = false) : syncPerform z core off .ldff data filler = none := by
  simp [syncPerform, hfe]

theorem syncPerform_stef_full (hfe : feAt z core off = true) : syncPerform z core off .stef data filler = none := by
  simp [syncPerform, hfe]

/-- The word written and full, and a writer trap armed on it fired (R143, R147). -/
def lmFilled (z : State) (core off : Nat) (data : Word) (filler : Agent × Nat) : State :=
  fireTrap (setFe (clearBad (setBytes z (lmKey core off) (wordLE 8 data)) (lmKey core off) 8) core off true) core off filler

theorem syncPerform_stef_empty (hfe : feAt z core off = false) : syncPerform z core off .stef data filler =
    some (lmFilled z core off data filler, .value (wordLE 8 data)) := by
  simp only [syncPerform, hfe, Bool.false_eq_true, if_false]
  rfl

theorem syncPerform_stff : syncPerform z core off .stff data filler = some (lmFilled z core off data filler, .value []) := rfl
theorem syncPerform_fset : syncPerform z core off .fset data filler = some (fireTrap (setFe z core off true) core off filler, .value []) := rfl
theorem syncPerform_fclr : syncPerform z core off .fclr data filler = some (setFe z core off false, .value []) := rfl

end

/-! A form at a word of the own LM (R143, R144). -/

section
variable {z u : State} {d a : GReg} {t : Bool} {f : SyncForm} {data : Word} {la pa off : Nat} {acc : Acc} {r : Reply}

/-- The service step runs at the slot whose turn it is. -/
theorem took_service (hp : syncPerform z (coreOf z.cur) off f data (.ni (coreOf z.cur), z.cur) = some (u, r)) (u' : State)
    (hu : u'.cur = u.cur) : took (service u' (coreOf z.cur) off) a t =
      modSlot (service u' (coreOf z.cur) off) z.cur fun x => x.takeIf t a.toNat := by
  rw [took, cur_service, hu, cur_syncPerform hp]

section
variable (hown : ownLm z (coreOf z.cur) pa = .own off)
include hown

theorem syncAt_own_waits (hp : syncPerform z (coreOf z.cur) off f data (.ni (coreOf z.cur), z.cur) = none) :
    syncAt z d a t f data la pa acc = .park z := by
  simp [syncAt, isLmWord_of_own hown, hown, syncOwn, hp]

section
variable (hp : syncPerform z (coreOf z.cur) off f data (.ni (coreOf z.cur), z.cur) = some (u, r))
include hp

/-- A form that answers and does not write the word. -/
theorem syncAt_own (hw : syncWrites f = false) :
    syncAt z d a t f data la pa acc = deliverOwn (service u (coreOf z.cur) off) d a t 8 false pa r := by
  have hf : f ≠ .stef := by
    rintro rfl
    cases hw
  simp [syncAt, isLmWord_of_own hown, hown, syncOwn, hp, hw, hf]

/-- A form without an answer that does not write the word. -/
theorem syncPost_own (hw : syncWrites f = false) :
    syncPost z a t f data la pa acc = .done (took (service u (coreOf z.cur) off) a t) := by
  rw [took_service hp u rfl]
  simp [syncPost, isLmWord_of_own hown, hown, syncOwn, hp, hw]

/-- A form that writes the word tells the line's sharers (R111). -/
theorem syncPost_own_writes (hw : syncWrites f = true) : syncPost z a t f data la pa acc =
    .done (took (service (dirWrite u (coreOf z.cur) off none) (coreOf z.cur) off) a t) := by
  rw [took_service hp _ (cur_dirWrite _ _ _ _)]
  simp [syncPost, isLmWord_of_own hown, hown, syncOwn, hp, hw]

end

theorem syncAt_own_stef (hp : syncPerform z (coreOf z.cur) off .stef data (.ni (coreOf z.cur), z.cur) = some (u, r)) :
    syncAt z d a t .stef data la pa acc = .done (took (service (dirWrite u (coreOf z.cur) off none) (coreOf z.cur) off) a t) := by
  rw [took_service hp _ (cur_dirWrite _ _ _ _)]
  simp [syncAt, isLmWord_of_own hown, hown, syncOwn, hp, syncWrites]

end
end

/-! A form at another core's word (R143, R341). -/

theorem SMap.get_map_snd {α : Type} (g : Option α → Option α) (hg : g none = none) (m : SMap (Option α)) (k : Nat) :
    SMap.get (fun _ => none) (m.map fun e => (e.1, g e.2)) k = g (SMap.get (fun _ => none) m k) := by
  induction m with
  | nil => simp [SMap.get, hg]
  | cons e m ih =>
    simp only [List.map_cons, SMap.get, ih]
    split <;> rfl

/-- A dropped line leaves the free tags as they were: a fill of it keeps its own. -/
theorem freeTag_rocDrop (s : State) (core pa : Nat) : freeTag (coreAt (rocDrop s core pa) core) = freeTag (coreAt s core) := by
  refine congrArg (fun p => List.find? p (rangeFrom 0 64)) (funext fun t => ?_)
  rw [rocDrop, coreAt_modCore_self]
  refine (congrArg Option.isNone (SMap.get_map_snd _ rfl _ t)).trans ?_
  exact Option.isNone_map

section
variable {z : State} {d a : GReg} {t : Bool} {f : SyncForm} {data : Word} {la pa tag : Nat} {acc : Acc}
  (hown : ownLm z (coreOf z.cur) pa = .other) (hlm : isLmWord z pa = true)
include hown hlm

section
variable (hsync : slotSyncs (coreAt z (coreOf z.cur)) z.cur < 4) (hstr : (slotAt z z.cur).inStream d.toNat = none)
  (htag : freeTag (coreAt z (coreOf z.cur)) = some tag)
include hsync hstr htag

theorem syncAt_other (hw : syncWrites f = false) : syncAt z d a t f data la pa acc =
    .done (requested z d a t tag 8 false .sync (some f) pa (.syncReq f pa data acc)) := by
  simp only [syncAt, hlm, hown, Nat.not_le.mpr hsync, hw, requestOut_sends hstr htag, Bool.not_true, Bool.false_eq_true, if_false]

/-- A form that writes the word drops its line from the core's read-only cache (R110). -/
theorem syncAt_other_writes (hw : syncWrites f = true) : syncAt z d a t f data la pa acc =
    .done (requested (rocDrop z (coreOf z.cur) pa) d a t tag 8 false .sync (some f) pa (.syncReq f pa data acc)) := by
  have htag' : freeTag (coreAt (rocDrop z (coreOf z.cur) pa) (coreOf z.cur)) = some tag := (freeTag_rocDrop _ _ _).trans htag
  simp only [syncAt, hlm, hown, Nat.not_le.mpr hsync, hw, Bool.not_true, Bool.false_eq_true, if_false, if_true]
  exact requestOut_sends hstr htag'

end

theorem syncPost_other {e : Nat} (he : freeJ (coreAt z (coreOf z.cur)) = some e) : syncPost z a t f data la pa acc =
    .done (posted z a t e pa (if f = .stff then wordLE 8 data else []) (some f) acc
      (.postedStore pa (if f = .stff then wordLE 8 data else []) (some f) acc)) := by
  simp only [syncPost, hlm, hown, Bool.not_true, Bool.false_eq_true, if_false, postOut_posts he (isCtl_of_isLmWord hlm)]

end

/-! The forms, once their operands are read and their address is formed. -/

section
variable {s : State} {d a : GReg} {t : Bool} {sg : BitVec 3} {o : BitVec 11} {va vd : Word} {y : Slot} {la pa : Nat} {acc : Acc}

section
variable (h : Reads s [a] (some d) [va] y) (hbar : y.barEHolds = false)
include h hbar

theorem exec_ldfe (haddr : AtAddr (popped s y) sg va o 8 needRF la pa acc) :
    exec (.ldfe d a t sg o) s = endsAs s (syncAt (popped s y) d a t .ldfe 0#64 la pa acc) :=
  (next_withOps h _).trans (congrArg (endsAs s) ((behindBar hbar _).trans (onAddr_of_atAddr haddr _)))

theorem exec_ldff (haddr : AtAddr (popped s y) sg va o 8 needRF la pa acc) :
    exec (.ldff d a t sg o) s = endsAs s (syncAt (popped s y) d a t .ldff 0#64 la pa acc) :=
  (next_withOps h _).trans (congrArg (endsAs s) ((behindBar hbar _).trans (onAddr_of_atAddr haddr _)))

theorem exec_fget (haddr : AtPtr (popped s y) va 8 needRF la pa acc) :
    exec (.fget d a t) s = endsAs s (syncAt (popped s y) d a t .fget 0#64 la pa acc) :=
  (next_withOps h _).trans (congrArg (endsAs s) ((behindBar hbar _).trans (onAddr_of_atPtr haddr _)))

end

theorem exec_fset (h : Reads s [a] none [va] y) (haddr : AtPtr (popped s y) va 8 needWF la pa acc) :
    exec (.fset a t) s = endsAs s (syncPost (popped s y) a t .fset 0#64 la pa acc) :=
  (next_withOps h _).trans (congrArg (endsAs s) (onAddr_of_atPtr haddr _))

theorem exec_fclr (h : Reads s [a] none [va] y) (haddr : AtPtr (popped s y) va 8 needWF la pa acc) :
    exec (.fclr a t) s = endsAs s (syncPost (popped s y) a t .fclr 0#64 la pa acc) :=
  (next_withOps h _).trans (congrArg (endsAs s) (onAddr_of_atPtr haddr _))

section
variable (h : Reads s [a, d] none [va, vd] y) (haddr : AtAddr (popped s y) sg va o 8 needWF la pa acc)
include h haddr

theorem exec_stff : exec (.stff d a t sg o) s = endsAs s (syncPost (popped s y) a t .stff vd la pa acc) :=
  (next_withOps h _).trans (congrArg (endsAs s) (onAddr_of_atAddr haddr _))

theorem exec_stef (hbar : y.barEHolds = false) (hd : y.destWaits d.toNat = false) :
    exec (.stef d a t sg o) s = endsAs s (syncAt (popped s y) d a t .stef vd la pa acc) := by
  refine (next_withOps h _).trans (congrArg (endsAs s) ?_)
  rw [popped_cur, slotAt_popped, hbar, hd, Bool.or_self, if_neg Bool.false_ne_true]
  exact onAddr_of_atAddr haddr _

end

/-- A `stef` whose data register is not free as a destination waits (R137). -/
theorem exec_stef_destWaits (h : Reads s [a, d] none [va, vd] y) (hd : y.destWaits d.toNat = true) : exec (.stef d a t sg o) s = waits s y := by
  refine (next_withOps h _).trans (waits_of_park ?_)
  rw [popped_cur, slotAt_popped, hd, Bool.or_true, if_pos rfl]

end

end Sys2Proof.Machine

namespace Sys2Proof.Claims

open Sys2Proof.Machine

/-- Settles O27: each form by the word's full bit at the own LM, and as a request or a posted store at another core's. -/
theorem fullEmptyForms : Obligations.FullEmptyForms := by
  refine ⟨?own, ?other⟩
  case own =>
    intro d a t sg o s va y la pa acc off hbar hown
    refine ⟨fun h hbad haddr => ⟨fun hfe => ?full, fun hfe => ?empty⟩, fun h hbad haddr => ?fget, fun h haddr => ?post, fun vd u h haddr hu => ?store⟩
    case full =>
      rw [exec_ldfe h hbar haddr, exec_ldff h hbar haddr, syncAt_own hown (syncPerform_ldfe_full hbad hfe) rfl,
        syncAt_own hown (syncPerform_ldff_full hbad hfe) rfl]
      exact ⟨completes_of_deliverOwn (by decide) (loaded_dword _), completes_of_deliverOwn (by decide) (loaded_dword _)⟩
    case empty =>
      rw [exec_ldfe h hbar haddr, exec_ldff h hbar haddr, syncAt_own_waits hown (syncPerform_ldfe_empty hfe),
        syncAt_own_waits hown (syncPerform_ldff_empty hfe)]
      exact ⟨waits_of_park rfl, waits_of_park rfl⟩
    case fget =>
      rw [exec_fget h hbar haddr, syncAt_own hown (syncPerform_fget hbad) rfl]
      exact completes_of_deliverOwn (by decide) ((loaded_dword _).trans (leWord_natLE_toNat _))
    case post =>
      rw [exec_fset h haddr, exec_fclr h haddr, syncPost_own hown syncPerform_fset rfl, syncPost_own hown syncPerform_fclr rfl]
      exact ⟨completes_of_done rfl, completes_of_done rfl⟩
    case store =>
      subst hu
      refine ⟨?_, fun hd hfe => ?_, fun hfe => ?_⟩
      · rw [exec_stff h haddr, syncPost_own_writes hown syncPerform_stff rfl]
        exact completes_of_done rfl
      · rw [exec_stef h haddr hbar hd, syncAt_own_stef hown (syncPerform_stef_empty hfe)]
        exact completes_of_done rfl
      · cases hd : y.destWaits d.toNat with
        | true => exact exec_stef_destWaits h hd
        | false =>
          rw [exec_stef h haddr hbar hd, syncAt_own_waits hown (syncPerform_stef_full hfe)]
          exact waits_of_park rfl
  case other =>
    intro d a t sg o s va y la pa acc hbar hown hlm
    have hstream (hstr : y.inStream d.toNat = none) : (slotAt (popped s y) (popped s y).cur).inStream d.toNat = none := by
      rw [popped_cur, slotAt_popped, hstr]
    refine ⟨fun tag htag hsync hstr => ⟨fun h haddr => ?_, fun h haddr => ?_, fun vd h haddr hd => ?_⟩,
      fun e he => ⟨fun vd h haddr => ?_, fun h haddr => ?_⟩⟩
    · rw [exec_ldfe h hbar haddr, exec_ldff h hbar haddr, syncAt_other hown hlm hsync (hstream hstr) htag rfl,
        syncAt_other hown hlm hsync (hstream hstr) htag rfl]
      exact ⟨completes_of_done rfl, completes_of_done rfl⟩
    · rw [exec_fget h hbar haddr, syncAt_other hown hlm hsync (hstream hstr) htag rfl]
      exact completes_of_done rfl
    · rw [exec_stef h haddr hbar hd, syncAt_other_writes hown hlm hsync (hstream hstr) htag rfl]
      exact completes_of_done rfl
    · rw [exec_stff h haddr, syncPost_other hown hlm he]
      exact completes_of_done rfl
    · rw [exec_fset h haddr, exec_fclr h haddr, syncPost_other hown hlm he, syncPost_other hown hlm he]
      exact ⟨completes_of_done rfl, completes_of_done rfl⟩

end Sys2Proof.Claims
end

section
/-! Atomics and compare-and-swap (R148, R149): the new word of each operation on its own width, then what the own LM does with it in one step and what
leaves for another home. -/

namespace Sys2Proof

/-! Words cut to the width of an operation. -/

theorem natLE_mod (n v : Nat) : natLE n (v % 2 ^ (8 * n)) = natLE n v := by
  induction n generalizing v with
  | zero => rfl
  | succ n ih =>
    have hpow : 2 ^ (8 * (n + 1)) = 256 * 2 ^ (8 * n) := by
      rw [Nat.mul_succ, Nat.pow_add, Nat.mul_comm]
    have hbyte : BitVec.ofNat 8 (v % (256 * 2 ^ (8 * n))) = BitVec.ofNat 8 v := by
      apply BitVec.eq_of_toNat_eq
      simp only [BitVec.toNat_ofNat]
      exact Nat.mod_mod_of_dvd v (Dvd.intro _ rfl)
    rw [hpow, natLE, natLE, hbyte, Nat.mod_mul_right_div_self, ih]

theorem wordLE_eq_natLE_setWidth (n : Nat) (v : Word) : wordLE n v = natLE n (v.setWidth (8 * n)).toNat := by
  rw [BitVec.toNat_setWidth, natLE_mod, wordLE]

section
variable {w : Nat} (h : w ≤ 64)
include h

theorem setWidth_signExtend (x : BitVec w) : (x.signExtend 64).setWidth w = x := by
  apply BitVec.eq_of_getLsbD_eq
  intro i hi
  have hi' : i < 64 := by omega
  rw [BitVec.getLsbD_setWidth, BitVec.getLsbD_signExtend, if_pos hi, decide_eq_true hi, decide_eq_true hi', Bool.true_and, Bool.true_and]

theorem sextW_eq_signExtend (v : Word) : sextW w v = (v.setWidth w).signExtend 64 := by
  have hv : nw v.toNat = v := by simp [nw]
  rw [← hv, sextW_nw h, nw, BitVec.setWidth_ofNat_of_le h]

theorem zextW_eq_setWidth (v : Word) : zextW w v = (v.setWidth w).setWidth 64 := by
  have hv : nw v.toNat = v := by simp [nw]
  rw [← hv, zextW_nw h, nw, BitVec.setWidth_ofNat_of_le h]

end

end Sys2Proof

namespace Sys2Proof.Machine

open Sys2Proof.Claims

section
variable {w : Nat} (h : w ≤ 64) (x y : BitVec w)
include h

theorem setWidth_minS : (minS (x.signExtend 64) (y.signExtend 64)).setWidth w = if x.toInt < y.toInt then x else y := by
  simp only [minS, ltS, BitVec.slt_iff_toInt_lt, BitVec.toInt_signExtend_of_le h]
  split <;> exact setWidth_signExtend h _

theorem setWidth_maxS : (maxS (x.signExtend 64) (y.signExtend 64)).setWidth w = if x.toInt < y.toInt then y else x := by
  simp only [maxS, ltS, BitVec.slt_iff_toInt_lt, BitVec.toInt_signExtend_of_le h]
  split <;> exact setWidth_signExtend h _

theorem setWidth_minU : (minU (x.setWidth 64) (y.setWidth 64)).setWidth w = if x.toNat < y.toNat then x else y := by
  simp only [minU, ltU, BitVec.ult_iff_toNat_lt, BitVec.toNat_setWidth_of_le h]
  split <;> simp [BitVec.setWidth_setWidth_of_le _ h]

theorem setWidth_maxU : (maxU (x.setWidth 64) (y.setWidth 64)).setWidth w = if x.toNat < y.toNat then y else x := by
  simp only [maxU, ltU, BitVec.ult_iff_toNat_lt, BitVec.toNat_setWidth_of_le h]
  split <;> simp [BitVec.setWidth_setWidth_of_le _ h]

end

/-- An operation whose new word, on `n` bytes, is `f` of the old one and the operand (R148). -/
def AmoComputes (n : Nat) (op : AmoOp) (f : BitVec (8 * n) → BitVec (8 * n) → BitVec (8 * n)) : Prop :=
  ∀ old b cmp : Word, ∃ v, amoResult op n old b cmp = some v ∧ v.setWidth (8 * n) = f (old.setWidth (8 * n)) (b.setWidth (8 * n))

section
variable {n : Nat} (h : 8 * n ≤ 64)
include h

theorem amoComputes_add : AmoComputes n .add fun old b => old + b := fun _ _ _ => ⟨_, rfl, BitVec.setWidth_add _ _ h⟩

theorem amoComputes_min : AmoComputes n .min fun old b => if old.toInt < b.toInt then old else b := fun old b _ =>
  ⟨_, rfl, by rw [sextW_eq_signExtend h, sextW_eq_signExtend h, setWidth_minS h]⟩

theorem amoComputes_max : AmoComputes n .max fun old b => if old.toInt < b.toInt then b else old := fun old b _ =>
  ⟨_, rfl, by rw [sextW_eq_signExtend h, sextW_eq_signExtend h, setWidth_maxS h]⟩

theorem amoComputes_minn : AmoComputes n .minn fun old b => if old.toNat < b.toNat then old else b := fun old b _ =>
  ⟨_, rfl, by rw [zextW_eq_setWidth h, zextW_eq_setWidth h, setWidth_minU h]⟩

theorem amoComputes_maxn : AmoComputes n .maxn fun old b => if old.toNat < b.toNat then b else old := fun old b _ =>
  ⟨_, rfl, by rw [zextW_eq_setWidth h, zextW_eq_setWidth h, setWidth_maxU h]⟩

end

theorem amoComputes_and (n : Nat) : AmoComputes n .and fun old b => old &&& b := fun _ _ _ => ⟨_, rfl, BitVec.setWidth_and⟩
theorem amoComputes_or (n : Nat) : AmoComputes n .or fun old b => old ||| b := fun _ _ _ => ⟨_, rfl, BitVec.setWidth_or⟩
theorem amoComputes_xor (n : Nat) : AmoComputes n .xor fun old b => old ^^^ b := fun _ _ _ => ⟨_, rfl, BitVec.setWidth_xor⟩
theorem amoComputes_swap (n : Nat) : AmoComputes n .swap fun _ b => b := fun _ _ _ => ⟨_, rfl, rfl⟩

theorem amoComputes_fadd : AmoComputes 4 .fadd fun old b => BitVec.ofNat 32 (f32Add .rne old.toNat b.toNat) := fun old b _ => by
  refine ⟨_, rfl, ?_⟩
  rw [nw, BitVec.setWidth_ofNat_of_le (by decide), bitF_zero, bitF_zero]
  rfl

/-! An atomic at the own LM (R148). -/

/-- A range without an error has no part of a word in error (R410). -/
theorem partialBad_of_firstBad {s : State} {a n : Nat} (h : firstBad s a n = none) : partialBad s a n = false := by
  have hgood : ∀ w ∈ granules a n, badAt s w = 0 := by simpa [firstBad] using h
  unfold partialBad
  rw [List.any_eq_false]
  exact fun w hw => by simp [hgood w hw]

section
variable {z : State} {core pa off n : Nat} (acc : Acc) (hown : ownLm z core pa = .own off)
include hown

theorem homeRead_own (hok : firstBad z (lmKey core off) n = none) : homeRead z pa n acc = .ok z (memBytes z (lmKey core off) n) := by
  obtain ⟨cl, lc, o, f, hp, hat⟩ := placeOf_of_own hown
  simp only [homeRead, homeReadRaw, hp, hat, lmRead_ok hok]

theorem homeWrite_own {bs : List Byte} (hok : partialBad z (lmKey core off) bs.length = false) :
    homeWrite z pa bs acc none = .ok (lmWritten z core off bs) [] := by
  obtain ⟨cl, lc, o, f, hp, hat⟩ := placeOf_of_own hown
  simp only [homeWrite, hp, hat, lmWrite, hok, Bool.false_eq_true, if_false]
  rfl

end

section
variable {z : State} {op : AmoOp} {d a : GReg} {t : Bool} {n la pa off : Nat} {b cmp : Word} {acc : Acc}

section
variable (hn : n ≤ 8) (hown : ownLm z (coreOf z.cur) pa = .own off) (hok : firstBad z (lmKey (coreOf z.cur) off) n = none)
include hn hown hok

/-- The new word is written, and the old one is the result. -/
theorem atomicAt_own_writes {v : Word} (hv : amoResult op n (leWord (memBytes z (lmKey (coreOf z.cur) off) n)) b cmp = some v) :
    atomicAt z op d a t n b cmp la pa acc = .done (wrote (lmWritten z (coreOf z.cur) off (wordLE n v)) d a t
      (loaded n false (memBytes z (lmKey (coreOf z.cur) off) n))) := by
  have hlen : partialBad z (lmKey (coreOf z.cur) off) (wordLE n v).length = false := (wordLE_length n v).symm ▸ partialBad_of_firstBad hok
  simp only [atomicAt, hown, homeRmw, homeRead_own acc hown hok, hv, homeWrite_own acc hown hlen, deliverOwn_value hn]

/-- A compare-and-swap that finds another word writes none. -/
theorem atomicAt_own_leaves (hv : amoResult op n (leWord (memBytes z (lmKey (coreOf z.cur) off) n)) b cmp = none) :
    atomicAt z op d a t n b cmp la pa acc = .done (wrote z d a t (loaded n false (memBytes z (lmKey (coreOf z.cur) off) n))) := by
  simp only [atomicAt, hown, homeRmw, homeRead_own acc hown hok, hv, deliverOwn_value hn]

end

theorem atomicAt_other {tag : Nat} (hown : ownLm z (coreOf z.cur) pa = .other) (hctl : isCtl z pa = false) (hhost : isHost z pa = false)
    (hstr : (slotAt z z.cur).inStream d.toNat = none) (htag : freeTag (coreAt z (coreOf z.cur)) = some tag) :
    atomicAt z op d a t n b cmp la pa acc = .done (requested (rocDrop z (coreOf z.cur) pa) d a t tag n false .atomic none pa
      (.atomicReq op pa n (BitVec.ofNat 64 (b.toNat % 2 ^ (8 * n))) (BitVec.ofNat 64 (cmp.toNat % 2 ^ (8 * n))) acc)) := by
  have htag' : freeTag (coreAt (rocDrop z (coreOf z.cur) pa) (coreOf z.cur)) = some tag := (freeTag_rocDrop _ _ _).trans htag
  simp only [atomicAt, hown, hctl, hhost, Bool.or_self, Bool.false_eq_true, if_false]
  exact requestOut_sends hstr htag'

end

/-! The forms, once their operands are read and their address is formed. -/

section
variable {s : State} {d a b : GReg} {t : Bool} {va vb vd : Word} {y : Slot} {n la pa : Nat} {acc : Acc}

theorem amo_at {op : AmoOp} (h : Reads s [a, b] (some d) [va, vb] y) (hbar : y.barEHolds = false)
    (haddr : AtPtr (popped s y) va n needRW la pa acc) :
    amo op d a b t n s = endsAs s (atomicAt (popped s y) op d a t n vb 0#64 la pa acc) :=
  (next_withOps h _).trans (congrArg (endsAs s) ((behindBar hbar _).trans (onAddr_of_atPtr haddr _)))

theorem exec_cas {w : Bool} (h : Reads s [a, b, d] (some d) [va, vb, vd] y) (hbar : y.barEHolds = false)
    (haddr : AtPtr (popped s y) va (amoSize w) needRW la pa acc) :
    exec (.cas d a b t w) s = endsAs s (atomicAt (popped s y) .cas d a t (amoSize w) vb vd la pa acc) :=
  (next_withOps h _).trans (congrArg (endsAs s) ((behindBar hbar _).trans (onAddr_of_atPtr haddr _)))

end

section
variable {n : Nat} (h : 8 * n ≤ 64)
include h

theorem oldWord_eq_setWidth (s : State) (y : Slot) (off : Nat) :
    (leWord (memBytes (popped s y) (lmKey (coreOf s.cur) off) n)).setWidth (8 * n) = oldWord n s off := BitVec.setWidth_ofNat_of_le h _

theorem atomic_of_amo {op : AmoOp} {mk : GReg → GReg → GReg → Bool → Instr} {f : BitVec (8 * n) → BitVec (8 * n) → BitVec (8 * n)}
    (hf : AmoComputes n op f) (hmk : ∀ d a b t s, exec (mk d a b t) s = amo op d a b t n s) : Atomic n op mk f := by
  constructor
  · intro d a b t s va vb y la pa acc off hr hbar haddr hown hok
    obtain ⟨v, hv, hw⟩ := hf (leWord (memBytes (popped s y) (lmKey (coreOf s.cur) off) n)) vb 0#64
    rw [oldWord_eq_setWidth h] at hw
    rw [hmk, amo_at hr hbar haddr, atomicAt_own_writes (by omega) hown hok hv, wordLE_eq_natLE_setWidth, hw]
    exact completes_of_done rfl
  · intro d a b t s va vb y la pa acc tag hr hbar haddr hown hctl hhost hstr htag
    rw [hmk, amo_at hr hbar haddr, atomicAt_other hown hctl hhost (by rw [popped_cur, slotAt_popped, hstr]) htag]
    refine completes_of_done ?_
    rw [show (0#64).toNat % 2 ^ (8 * n) = 0 from Nat.zero_mod _]
    rfl

/-- A compare-and-swap compares the words cut to its width (R149). -/
theorem amoResult_cas (old b cmp : Word) :
    amoResult .cas n old b cmp = if old.setWidth (8 * n) = cmp.setWidth (8 * n) then some b else none := by
  have hiff : zextW (8 * n) old = zextW (8 * n) cmp ↔ old.setWidth (8 * n) = cmp.setWidth (8 * n) := by
    rw [zextW_eq_setWidth h, zextW_eq_setWidth h]
    refine ⟨fun heq => ?_, fun heq => by rw [heq]⟩
    have hcut := congrArg (BitVec.setWidth (8 * n)) heq
    rwa [BitVec.setWidth_setWidth_of_le _ h, BitVec.setWidth_setWidth_of_le _ h, BitVec.setWidth_setWidth_of_le _ (Nat.le_refl _),
      BitVec.setWidth_setWidth_of_le _ (Nat.le_refl _)] at hcut
  exact if_congr hiff rfl rfl

end

end Sys2Proof.Machine

namespace Sys2Proof.Claims

open Sys2Proof.Machine

theorem atomicBoth_of_amo {op : AmoOp} {mk : GReg → GReg → GReg → Bool → Bool → Instr} {f : (w : Nat) → BitVec w → BitVec w → BitVec w}
    (hf : ∀ n, 8 * n ≤ 64 → AmoComputes n op (f (8 * n))) (hmk : ∀ d a b t w s, exec (mk d a b t w) s = amo op d a b t (amoSize w) s) :
    AtomicBoth op mk f :=
  ⟨atomic_of_amo (by decide) (hf 4 (by decide)) fun d a b t s => hmk d a b t false s,
    atomic_of_amo (by decide) (hf 8 (by decide)) fun d a b t s => hmk d a b t true s⟩

/-- Settles O28: each operation by its new word, and `cas` by the comparison. -/
theorem atomicsAndCompareAndSwap : Obligations.AtomicsAndCompareAndSwap := by
  refine ⟨⟨?add, ?and, ?or, ?xor, ?min, ?max, ?minn, ?maxn, ?swap, ?fadd⟩, ?cas⟩
  case add => exact atomicBoth_of_amo (fun _ => amoComputes_add) fun _ _ _ _ _ _ => rfl
  case and => exact atomicBoth_of_amo (fun n _ => amoComputes_and n) fun _ _ _ _ _ _ => rfl
  case or => exact atomicBoth_of_amo (fun n _ => amoComputes_or n) fun _ _ _ _ _ _ => rfl
  case xor => exact atomicBoth_of_amo (fun n _ => amoComputes_xor n) fun _ _ _ _ _ _ => rfl
  case min => exact atomicBoth_of_amo (fun _ => amoComputes_min) fun _ _ _ _ _ _ => rfl
  case max => exact atomicBoth_of_amo (fun _ => amoComputes_max) fun _ _ _ _ _ _ => rfl
  case minn => exact atomicBoth_of_amo (fun _ => amoComputes_minn) fun _ _ _ _ _ _ => rfl
  case maxn => exact atomicBoth_of_amo (fun _ => amoComputes_maxn) fun _ _ _ _ _ _ => rfl
  case swap => exact atomicBoth_of_amo (fun n _ => amoComputes_swap n) fun _ _ _ _ _ _ => rfl
  case fadd => exact atomic_of_amo (by decide) amoComputes_fadd fun _ _ _ _ _ => rfl
  case cas =>
    rintro d a b t w s va vb vd y la pa acc n hn hr hbar haddr
    change n = amoSize w at hn
    subst hn
    have h64 : 8 * amoSize w ≤ 64 := by cases w <;> decide
    have hres (off : Nat) := amoResult_cas h64 (leWord (memBytes (popped s y) (lmKey (coreOf s.cur) off) (amoSize w))) vb vd
    simp only [oldWord_eq_setWidth h64] at hres
    rw [exec_cas hr hbar haddr]
    refine ⟨fun off hown hok => ⟨fun heq => ?_, fun hne => ?_⟩, fun tag hown hctl hhost hstr htag => ?_⟩
    · rw [atomicAt_own_writes (by omega) hown hok ((hres off).trans (if_pos heq))]
      exact completes_of_done rfl
    · rw [atomicAt_own_leaves (by omega) hown hok ((hres off).trans (if_neg hne))]
      exact completes_of_done rfl
    · rw [atomicAt_other hown hctl hhost (by rw [popped_cur, slotAt_popped, hstr]) htag]
      exact completes_of_done rfl

end Sys2Proof.Claims
end

section
/-! System forms and slot turns (R282 to R284, R330, R334, R337, R339, R345). -/

namespace Sys2Proof.Machine

open Sys2Proof.Claims

/-! A form that asks one agent once (R10, R106). -/

/-- The current slot has sent a request of `n` bytes under a tag, in its question `tr`. -/
def requested (w : State) (tr : Trip) (tag : Nat) (dst : Agent) (b : Body) (n : Nat) : State :=
  let m : Msg := ⟨.ni (coreOf w.cur), dst, tag, w.cur, (slotAt w w.cur).phase, b⟩
  modCore (modSlot w w.cur fun y => { y with trip := some tr }) (coreOf w.cur) fun c =>
    { setReq c tag (some ⟨.segld, w.cur, tr.id, n, false, none, m, 1, none, false, []⟩) with ni := c.ni ++ [m] }

/-- The request stands under its tag, with its message queued. -/
theorem reqAt_setReq_ni (c : Core) (tag : Nat) (r : Option Req) (ms : List Msg) : reqAt { setReq c tag r with ni := ms } tag = r :=
  reqAt_setReq_self c tag r

theorem askMore_free {z : State} {dst : Agent} {b : Body} {n tag : Nat} (htag : freeTag (coreAt z (coreOf z.cur)) = some tag)
    (hbar : (isLoad b && (slotAt z z.cur).barEHolds) = false) :
    ∃ w tr, askMore z dst b n = .park (requested w tr tag dst b n) ∧ tr.need = 1 ∧ (w = z ∨ w = (takeFresh z).2) := by
  by_cases hid : ((slotAt z z.cur).trip.getD ⟨0, 0, [], none⟩).id = 0
  · refine ⟨(takeFresh z).2, { (slotAt z z.cur).trip.getD ⟨0, 0, [], none⟩ with id := (takeFresh z).1, need := 1 }, ?_, rfl, .inr rfl⟩
    simp only [askMore, htag, hbar, hid, Bool.false_eq_true, if_false, if_true]
    rfl
  · refine ⟨z, { (slotAt z z.cur).trip.getD ⟨0, 0, [], none⟩ with need := 1 }, ?_, rfl, .inl rfl⟩
    simp only [askMore, htag, hbar, hid, Bool.false_eq_true, if_false]
    rfl

section
variable {s : State} {srcs : List GReg} {dst : Option GReg} {vs : List Word} {y : Slot} {i : Instr} {agent : Agent} {b : Body} {n : Nat}

theorem asks_of_askMore (hr : Reads s srcs dst vs y) (h : exec i s = endsAs s (askMore (popped s y) agent b n)) : Asks s i agent b n := by
  rintro tag m htag hbar rfl
  have hpc : y.pc = (slotAt s s.cur).pc := by rw [Slot.prep_frame hr]
  have hph : y.phase = (slotAt s s.cur).phase := by rw [Slot.prep_frame hr]
  have hbarE : (slotAt (popped s y) (popped s y).cur).barEHolds = (slotAt s s.cur).barEHolds := by
    rw [popped_cur, slotAt_popped, Slot.prep_frame hr]
    rfl
  obtain ⟨w, tr, hask, hneed, hw⟩ := askMore_free (z := popped s y) (dst := agent) (n := n) htag (hbarE.symm ▸ hbar)
  rw [hask, endsAs_park] at h
  refine ⟨_, tr, h, rfl, ?_⟩
  obtain rfl | rfl := hw
  all_goals simp [finish_park, keptStreams, requested, reqAt_setReq_ni, hpc, hph, hneed]

theorem withAnswers_none {z : State} (h : Has (slotAt z z.cur) vs) (body : List Word → Res) : withAnswers z body = body vs := by
  obtain ⟨htrip, rfl⟩ | ⟨tr, htrip, hneed, htrap, rfl⟩ := h
  · simp only [withAnswers, htrip]
  · simp [withAnswers, htrip, hneed, htrap]

theorem withAnswers_trap {z : State} {tr : Trip} {c : Nat} {v : Word} (htrip : (slotAt z z.cur).trip = some tr) (hneed : tr.need = 0)
    (htrap : tr.trap = some (c, v)) (body : List Word → Res) : withAnswers z body = .trap c v := by
  simp [withAnswers, htrip, hneed, htrap]

theorem has_popped (h : Has y vs) : Has (slotAt (popped s y) (popped s y).cur) vs := (slotAt_popped s y).symm ▸ h

theorem answerWords_pos (n : Nat) : 0 < answerWords n := Nat.lt_of_lt_of_le Nat.one_pos (Nat.le_max_left _ _)

variable {ended : List Word → Res}

/-- A form without an answer sends its request. -/
theorem asks_of_askOnce (hr : Reads s srcs dst vs y) (hhas : Has y []) (h : exec i s = endsAs s (askOnce (popped s y) agent b n ended)) :
    Asks s i agent b n := by
  refine asks_of_askMore hr (h.trans (congrArg (endsAs s) ?_))
  rw [askOnce, withAnswers_none (has_popped hhas)]
  exact if_pos (answerWords_pos n)

/-- A form with its answer of one word goes on with it. -/
theorem askOnce_answered {v : Word} {ws : List Word} (hn : n ≤ 8) (hans : Answered y (v :: ws)) :
    askOnce (popped s y) agent b n ended = ended [v] := by
  have hone : answerWords n = 1 := Nat.max_eq_left (by omega)
  rw [askOnce, withAnswers_none (has_popped (.inr hans)), askAgent, hone, if_neg (by simp)]
  rfl

/-- A form that a unit performs: its request, its answer, and its refusal. -/
theorem asksUnit_of_askUnit {f : UnitForm} {us : List Word} {done : State → Word → Res} {out : Word → Out} (hr : Reads s srcs dst vs y)
    (h : exec i s = endsAs s (askUnit (popped s y) agent f us done)) (hdone : ∀ v, endsAs s (done (popped s y) v) = out v) :
    AsksUnit s i y agent f us out := by
  refine ⟨fun hhas => asks_of_askOnce hr hhas h, fun v ws hans => ?_, fun tr c w htrip hneed htrap => ?_⟩
  · rw [h, askUnit, askOnce_answered (Nat.le_refl 8) hans]
    exact hdone v
  · refine h.trans (traps_of_trap ?_)
    rw [askUnit, askOnce]
    exact withAnswers_trap ((congrArg Slot.trip (slotAt_popped s y)).trans htrip) hneed htrap _

end

/-! SYS forms (R334). -/

theorem exec_sys {s : State} {a : GReg} {t : Bool} {va : Word} {y : Slot} (h : Reads s [a] none [va] y) : exec (.sys a t) s = traps s 0x09 va :=
  (next_withOps h _).trans (traps_of_trap rfl)

theorem exec_brk_traps {s : State} (h : ((coreAt s (coreOf s.cur)).creg 0x1C2).getLsbD 0 = false) :
    exec .brk s = traps s 0x08 (slotAt s s.cur).pc := by
  change execBrk s = _
  rw [execBrk, bitB, h]
  rfl

theorem exec_brk_stops {s : State} (h : ((coreAt s (coreOf s.cur)).creg 0x1C2).getLsbD 0 = true) :
    exec .brk s = .next ((modSlot s s.cur fun x => { x.stop with brks := true }).marked .done) := by
  change execBrk s = _
  rw [execBrk, bitB, h, if_pos rfl]

theorem exec_halt (s : State) : exec .halt s =
    if releaseHolds s s.cur then parks s s else completes s (modSlot s s.cur fun x => { x with st := .stopped, hlts := true }) := by
  change execHalt s = _
  rw [execHalt]
  split <;> rfl

/-! Control registers (R337, R339). -/

section
variable {s : State} {d a : GReg} {t : Bool} {n : BitVec 14} {va : Word} {y : Slot}

section
variable (h : Reads s [] (some d) [] y)
include h

theorem exec_cget_own (hn : n.toNat < 0x200) : exec (.cget d n) s = completes s (modSlot
    (afterRead (popped s y) (ownUnit s.cur n.toNat) n.toNat) s.cur fun x => x.writeDst d.toNat (readReg s (ownUnit s.cur n.toNat) n.toNat)) :=
  (next_withOps h _).trans ((congrArg (endsAs s) (if_pos hn)).trans (completes_of_done rfl))

theorem exec_cget_far (hn : 0x200 ≤ n.toNat) : exec (.cget d n) s = endsAs s (askOnce (popped s y) (ctlAgent (ownBlk (popped s y) n.toNat) n.toNat)
    (.ctlAccess false (ownBlk (popped s y) n.toNat) n.toNat 0#64) 8
    fun ws => .done (modSlot (popped s y) (popped s y).cur fun x => x.writeDst d.toNat (val ws 0))) :=
  (next_withOps h _).trans (congrArg (endsAs s) (if_neg (Nat.not_lt.mpr hn)))

end

section
variable (h : Reads s [a] none [va] y)
include h

theorem exec_cput_own (hn : n.toNat < 0x200) : exec (.cput a t n) s =
    completes s (writeReg (took (popped s y) a t) (ownUnit s.cur n.toNat) n.toNat va) :=
  (next_withOps h _).trans ((congrArg (endsAs s) (if_pos hn)).trans (completes_of_done rfl))

theorem exec_cput_far (hn : 0x200 ≤ n.toNat) : exec (.cput a t n) s = endsAs s (askOnce (popped s y)
    (ctlAgent (ownBlk (popped s y) n.toNat) n.toNat) (.ctlPut (ownBlk (popped s y) n.toNat) n.toNat va) 0
    fun _ => .done (took (popped s y) a t)) :=
  (next_withOps h _).trans (congrArg (endsAs s) (if_neg (Nat.not_lt.mpr hn)))

end

end

/-! What a control register reads as (R202, R336). -/

theorem getLsbD_foldl_bitSet (p : Nat → Bool) (w : BitVec 32) {l : List Nat} (hl : ∀ i ∈ l, i < 32) (r : Nat) :
    (l.foldl (fun w i => if p i then bitSet w i else w) w).getLsbD r = (w.getLsbD r || (decide (r ∈ l) && p r)) := by
  induction l generalizing w with
  | nil => simp
  | cons i l ih =>
    have hi : i < 32 := hl i (List.mem_cons_self ..)
    have hbit : (if p i then bitSet w i else w).getLsbD r = (w.getLsbD r || (decide (r = i) && p r)) := by
      by_cases hp : p i = true
      · rw [if_pos hp]
        refine (bitOf_bitSet w r hi).trans ?_
        by_cases hr : r = i
        · simp [hr, hp]
        · simp [hr, bitOf]
      · rw [if_neg hp]
        by_cases hr : r = i
        · simp [hr, hp]
        · simp [hr]
    rw [List.foldl_cons, ih _ fun j hj => hl j (List.mem_cons_of_mem _ hj), hbit, Bool.or_assoc, ← Bool.and_or_distrib_right]
    congr 2
    simp [List.mem_cons]

theorem getLsbD_fullBits (x : Slot) {r : Nat} (h : r < 32) : x.fullBits.getLsbD r = x.isFull r := by
  rw [Slot.fullBits, getLsbD_foldl_bitSet x.isFull _ fun i hi => by have := mem_rangeFrom.mp hi; omega]
  have hr : r ∈ rangeFrom 0 32 := mem_rangeFrom.mpr ⟨Nat.zero_le r, by omega⟩
  simp [hr]

theorem getLsbD_nw_toNat (v : BitVec 32) {r : Nat} (h : r < 32) : (nw v.toNat).getLsbD r = v.getLsbD r := by
  simp [nw, Nat.lt_trans h (by decide : 32 < 64)]

theorem nw_toNat_toNat (v : BitVec 32) : (nw v.toNat).toNat = v.toNat := by
  have := v.isLt
  simp only [nw, BitVec.toNat_ofNat]
  omega

theorem readReg_trap {s : State} {k n : Nat} (hlo : 0x080 ≤ n) (hhi : n ≤ 0x08B) : readReg s k n = (slotAt s k).creg n := by
  have hthr : n < 0x100 := by omega
  have h57 : ¬(n = 0x053 ∨ n = 0x057 ∨ n = 0x05B ∨ n = 0x05F) := by omega
  rw [readReg, if_pos hthr, threadReg, if_neg (by omega), if_neg (by omega), if_neg (by omega), if_neg (by omega), if_neg (by omega),
    if_neg (by omega), if_neg h57]

theorem readReg_pc (s : State) (k : Nat) : readReg s k 0x001 = (slotAt s k).pc &&& 0x3FFFFFFFFFC#64 := rfl
theorem readReg_full (s : State) (k : Nat) : readReg s k 0x002 = nw (slotAt s k).fullBits.toNat := rfl

theorem regMerge_of_regW1C {n : Nat} (h : regW1C n = 0#64) (old v : Word) : regMerge n old v = (old &&& ~~~(regMask n)) ||| (v &&& regMask n) := by
  rw [regMerge, h, BitVec.and_zero]
  exact BitVec.and_allOnes

/-! Segment registers (R134). -/

section
variable {s : State} {g sg : BitVec 3} {a : GReg} {t : Bool} {o : BitVec 11} {va : Word} {y : Slot} {la pa off : Nat} {acc : Acc}

theorem readPark_own {z : State} {ws : List Word} {n : Nat} (hown : ownLm z (coreOf z.cur) pa = .own off)
    (hok : firstBad z (lmKey (coreOf z.cur) off) n = none) (ended : State → List Word → List Byte → Res) :
    readPark z ws n la pa acc ended = ended z ws (memBytes z (lmKey (coreOf z.cur) off) n) := by
  simp only [readPark, hown, lmRead_ok hok]

theorem dwordAt_one {bs : List Byte} (h : bs.length = 16) : dwordAt bs 1 = leWord (bs.drop 8) :=
  congrArg leWord (List.take_of_length_le (by simp [h]))

theorem exec_segld {ws : List Word} (h : Reads s [a] none [va] y) (hbar : y.barEHolds = false) (hhas : Has y ws)
    (haddr : AtAddr (popped s y) sg va o 16 needR la pa acc) (hown : ownLm (popped s y) (coreOf s.cur) pa = .own off)
    (hok : firstBad s (lmKey (coreOf s.cur) off) 16 = none) :
    exec (.segld g a t sg o) s = completes s (modSlot (popped s y) s.cur fun x => (x.takeIf t a.toNat).setSeg g.toNat
      (leWord ((memBytes s (lmKey (coreOf s.cur) off) 16).take 8)) (leWord ((memBytes s (lmKey (coreOf s.cur) off) 16).drop 8))) := by
  refine (next_withOps h _).trans (completes_of_done ?_)
  rw [behindBar hbar]
  refine (onAddr_of_atAddr haddr _).trans ((withAnswers_none (has_popped hhas) _).trans ((readPark_own hown hok _).trans ?_))
  rw [dwordAt_one (memBytes_length _ _ _)]
  rfl

theorem exec_segst (h : Reads s [a] none [va] y) (haddr : AtAddr (popped s y) sg va o 16 needW la pa acc)
    (hown : ownLm (popped s y) (coreOf s.cur) pa = .own off) (hctl : isCtl s pa = false) (hhost : isHost s pa = false)
    (hok : partialBad s (lmKey (coreOf s.cur) off) 16 = false) :
    exec (.segst g a t sg o) s =
      completes s (took (wroteOwn s (popped s y) off (wordLE 8 (y.segLo g.toNat) ++ wordLE 8 (y.segHi g.toNat))) a t) := by
  have hlen : (wordLE 8 (y.segLo g.toNat) ++ wordLE 8 (y.segHi g.toNat)).length = 16 := by simp [wordLE_length]
  refine (next_withOps h _).trans (completes_of_done ((onAddr_of_atAddr haddr _).trans ?_))
  rw [isCtl_popped, isHost_popped, hctl, hhost, popped_cur, slotAt_popped]
  exact storeAt_own hown (hlen.symm ▸ hok)

end

/-! Debug halt (R345). -/

section
variable {s : State} {d a b : GReg} {t : Bool} {va vb : Word} {y : Slot}

theorem debugForm_asks {core : Nat} {agent : Agent} {f : UnitForm} {i : Instr} (hi : exec i s = .next (debugForm d a b t f s))
    (h : Reads s [a, b] (some d) [va, vb] y) (htarget : dbgTarget (popped s y) va = some (core, agent)) :
    AsksUnit s i y agent f [va, vb] fun v => completes s (wrote (popped s y) d a t v) := by
  refine asksUnit_of_askUnit (done := fun s v => .done (modSlot s s.cur fun x => (x.takeIf t a.toNat).writeDst d.toNat v)) h ?_
    fun v => completes_of_wrote rfl
  refine hi.trans ((next_withOps h _).trans ?_)
  simp only [val_zero, htarget]

theorem debugForm_traps {f : UnitForm} {i : Instr} (hi : exec i s = .next (debugForm d a b t f s)) (h : Reads s [a, b] (some d) [va, vb] y)
    (htarget : dbgTarget (popped s y) va = none) : exec i s = traps s 0x10 va := by
  refine hi.trans ((next_withOps h _).trans (traps_of_trap ?_))
  simp only [val_zero, htarget]

end

theorem exec_loadRequest_unit {s u : State} {i : Nat} {m : Msg} {f : UnitForm} {vs : List Word} (h : UnitAt s i m f vs)
    (hu : unitPerform (dropMsg s i) m f vs = some u) : exec (.loadRequest i) s = .next u := by
  obtain ⟨hm, hb⟩ := h
  change execLoadRequest i s = _
  simp only [execLoadRequest, hm, hb, hu, Option.getD_some]

section
variable {s : State} {i : Nat} {m : Msg} {va vb : Word} {core : Nat} {agent : Agent} (htarget : dbgTarget (dropMsg s i) va = some (core, agent))
include htarget

theorem exec_loadRequest_dbghalt (h : UnitAt s i m .dbghalt [va, vb]) : exec (.loadRequest i) s =
    unitAnswers ((dbgSlots core (vb.toNat % 2 ^ 16) m.who).foldl (fun s k => modSlot s k Slot.debugStop) (dropMsg s i)) m
      (slotBits (dropMsg s i) core Slot.dbgs) := by
  refine exec_loadRequest_unit h (congrArg some ?_)
  simp only [debugPerform, val_zero, val_one, htarget, bitF_zero, answerUnit]

theorem exec_loadRequest_dbgresume {js : List Nat} (h : UnitAt s i m .dbgresume [va, vb])
    (hjs : js = (dbgSlots core (vb.toNat % 2 ^ 16) m.who).filter fun k =>
      (slotAt (dropMsg s i) k).dbgs || (slotAt (dropMsg s i) k).brks || (slotAt (dropMsg s i) k).hlts) :
    exec (.loadRequest i) s =
      unitAnswers (js.foldl (fun s k => modSlot s k Slot.resume) (dropMsg s i)) m (js.map fun k => 2 ^ slotNo k).sum := by
  subst hjs
  refine exec_loadRequest_unit h (congrArg some ?_)
  simp only [debugPerform, val_zero, val_one, htarget, bitF_zero, answerUnit]

end

theorem mem_dbgSlots {core mask by_ k : Nat} :
    k ∈ dbgSlots core mask by_ ↔ ∃ n, n < 16 ∧ (mask = 0 ∨ mask.testBit n = true) ∧ k = slotOf core n ∧ k ≠ by_ := by
  simp only [dbgSlots, List.mem_map, List.mem_filter, mem_rangeFrom, Bool.and_eq_true, Bool.or_eq_true, decide_eq_true_eq]
  constructor
  · rintro ⟨n, ⟨⟨-, hn⟩, hmask, hne⟩, rfl⟩
    exact ⟨n, by omega, hmask, rfl, hne⟩
  · rintro ⟨n, hn, hmask, rfl, hne⟩
    exact ⟨n, ⟨⟨Nat.zero_le n, by omega⟩, hmask, hne⟩, rfl⟩

/-! Slot turns (R282, R330). -/

/-- The turn of slot `k` in cycle `n` is used. -/
def turned (s : State) (k n : Nat) : State := modSlot s k fun x => { x with lastTurn := n }

section
variable (s : State) (k n j : Nat)

/-- Nothing of a slot but its last turn changes. -/
theorem slotAt_turned {α : Type} (f : Slot → α) (hf : ∀ (x : Slot) n, f { x with lastTurn := n } = f x) :
    f (slotAt (turned s k n) j) = f (slotAt s j) := by
  rw [turned, slotAt_modSlot]
  split
  · next hj => rw [hf, hj]
  · rfl

theorem turned_gang : (slotAt (turned s k n) j).gang = (slotAt s j).gang := slotAt_turned s k n j Slot.gang fun _ _ => rfl
theorem turned_solo : (slotAt (turned s k n) j).solo = (slotAt s j).solo := slotAt_turned s k n j Slot.solo fun _ _ => rfl
theorem turned_skip : (slotAt (turned s k n) j).skip = (slotAt s j).skip := slotAt_turned s k n j Slot.skip fun _ _ => rfl
theorem turned_intrap : (slotAt (turned s k n) j).intrap = (slotAt s j).intrap := slotAt_turned s k n j Slot.intrap fun _ _ => rfl
theorem turned_st : (slotAt (turned s k n) j).st = (slotAt s j).st := slotAt_turned s k n j Slot.st fun _ _ => rfl
theorem turned_sws : (slotAt (turned s k n) j).sws = (slotAt s j).sws := slotAt_turned s k n j Slot.sws fun _ _ => rfl
theorem turned_baton : (slotAt (turned s k n) j).baton = (slotAt s j).baton := slotAt_turned s k n j Slot.baton fun _ _ => rfl
theorem turned_cancel : (slotAt (turned s k n) j).cancel = (slotAt s j).cancel := slotAt_turned s k n j Slot.cancel fun _ _ => rfl
theorem turned_asyncPc : asyncPc (slotAt (turned s k n) j) = asyncPc (slotAt s j) := slotAt_turned s k n j asyncPc fun _ _ => rfl

theorem turned_followers : followers (turned s k n) j = followers s j := by
  simp only [followers, turned_gang, turned_solo]
  rfl

theorem turned_takesEvent : takesEvent (turned s k n) j = takesEvent s j := by
  simp only [takesEvent, turned_intrap, turned_gang]
  rfl

theorem turned_followsLeader : followsLeader (turned s k n) j = followsLeader s j := by
  simp only [followsLeader, turned_gang]
  rfl

theorem turned_leaderAway : leaderAway (turned s k n) j = leaderAway s j := by
  simp only [leaderAway, turned_gang, turned_solo]
  rfl

theorem turned_gangSkips : gangSkips (turned s k n) j = gangSkips s j := by
  simp only [gangSkips, turned_followers, turned_skip]

end

theorem gangSkips_iff (s : State) (k : Nat) : gangSkips s k = true ↔ ∃ j ∈ k :: followers s k, 0 < (slotAt s j).skip := by
  simp only [gangSkips, List.any_eq_true, decide_eq_true_eq]

section
variable {s : State} {k : Nat} (hst : (slotAt s k).st ≠ .stopped) (hsws : (slotAt s k).sws = false) (hbaton : (slotAt s k).baton = none)
  (hhu : s.modul.hu = .idle)
include hst hsws hbaton hhu

/-- What the turn of a slot that runs is used for (R330). -/
theorem turnUse_turned (n : Nat) : turnUse (turned s k n) k = match (slotAt s k).cancel with
    | some id => .cancel id
    | none =>
      if takesEvent s k then
        match (coreAt s (coreOf k)).evq with
        | [] => .empty
        | (c, v) :: rest => .event c v rest
      else if (slotAt s k).st = .waiting then .empty
      else if followsLeader s k then if leaderAway s k ∧ 0 < (slotAt s k).skip then .skip else .empty
      else if gangSkips s k then .skip
      else .issue := by
  have hidle : (turned s k n).modul.hu = .idle := hhu
  have hstop : huStopped (turned s k n) = false := by rw [huStopped, hidle]
  unfold turnUse
  simp only [turned_st, turned_sws, turned_baton, turned_cancel, turned_skip, turned_takesEvent, turned_followsLeader, turned_leaderAway,
    turned_gangSkips, hst, hsws, hbaton, hstop, hidle, Option.isSome_none, Bool.false_eq_true, or_self, if_false, ne_eq, not_true_eq_false,
    false_and]
  rfl

theorem useTurn_cancel (n : Nat) {id : Nat} (hid : (slotAt s k).cancel = some id) :
    useTurn (turned s k n) k = trapEntry (modSlot (turned s k n) k fun y => y.countTrap.tellCancel id) k 0x3A (nw id) (asyncPc (slotAt s k)) false := by
  have huse : turnUse (turned s k n) k = .cancel id := by rw [turnUse_turned hst hsws hbaton hhu, hid]
  simp only [useTurn, huse, turned_asyncPc]

section
variable (hid : (slotAt s k).cancel = none)
include hid

theorem useTurn_event (n : Nat) {c : Nat} {v : Word} {rest : List (Nat × Word)} (hev : takesEvent s k = true)
    (hq : (coreAt s (coreOf k)).evq = (c, v) :: rest) : useTurn (turned s k n) k =
      trapEntry (modCore (modSlot (turned s k n) k Slot.countTrap) (coreOf k) fun y => { y with evq := rest }) k c v (asyncPc (slotAt s k)) true := by
  have huse : turnUse (turned s k n) k = .event c v rest := by simp only [turnUse_turned hst hsws hbaton hhu, hid, hev, hq, if_true]
  simp only [useTurn, huse, turned_asyncPc]

section
variable (hev : takesEvent s k = false)
include hev

theorem useTurn_waiting (n : Nat) (hwait : (slotAt s k).st = .waiting) : useTurn (turned s k n) k = turned s k n := by
  have huse : turnUse (turned s k n) k = .empty := by
    simp only [turnUse_turned hst hsws hbaton hhu, hid, hev, hwait, Bool.false_eq_true, if_false, if_true]
  simp only [useTurn, huse]

theorem useTurn_follower (n : Nat) (hfol : followsLeader s k = true) (haway : leaderAway s k = false ∨ (slotAt s k).skip = 0) :
    useTurn (turned s k n) k = turned s k n := by
  have hstay : ¬(leaderAway s k = true ∧ 0 < (slotAt s k).skip) := by
    rintro ⟨haway', hskip⟩
    rcases haway with haway | haway
    · exact Bool.false_ne_true (haway.symm.trans haway')
    · omega
  have huse : turnUse (turned s k n) k = .empty := by
    simp only [turnUse_turned hst hsws hbaton hhu, hid, hev, hfol, hstay, Bool.false_eq_true, if_false, if_true, ite_self]
  simp only [useTurn, huse]

section
variable (hwait : (slotAt s k).st ≠ .waiting) (hfol : followsLeader s k = false)
include hwait hfol

theorem useTurn_issue (n : Nat) (hskip : ∀ j ∈ k :: followers s k, (slotAt s j).skip = 0) :
    useTurn (turned s k n) k = { turned s k n with cur := k, turn := true } := by
  have hnone : ¬gangSkips s k = true := by
    rw [gangSkips_iff]
    rintro ⟨j, hj, hpos⟩
    exact Nat.ne_of_gt hpos (hskip j hj)
  have huse : turnUse (turned s k n) k = .issue := by
    simp only [turnUse_turned hst hsws hbaton hhu, hid, hev, hwait, hfol, hnone, Bool.false_eq_true, if_false]
  simp only [useTurn, huse]

theorem useTurn_skip (n : Nat) (hskip : ∃ j ∈ k :: followers s k, 0 < (slotAt s j).skip) : useTurn (turned s k n) k =
    (k :: followers s k).foldl (fun s j => modSlot s j fun y => { y with skip := y.skip - 1 }) (turned s k n) := by
  have huse : turnUse (turned s k n) k = .skip := by
    simp only [turnUse_turned hst hsws hbaton hhu, hid, hev, hwait, hfol, (gangSkips_iff s k).mpr hskip, Bool.false_eq_true, if_false, if_true]
  simp only [useTurn, huse, turned_followers]

end

end

end

end

theorem exec_slotTurn {s : State} {k cyc : Nat} (hcyc : cyc = clusterCycle s (clusterOf (coreOf k))) (hslot : cyc % 16 = slotNo k)
    (hlast : (slotAt s k).lastTurn ≠ cyc + 1) (hopen : s.turnsTo ≤ s.time) (hret : coreRetired s (coreOf k) = false) :
    exec (.slotTurn k none) s = .next (useTurn (turned s k (cyc + 1)) k) := by
  subst hcyc
  have hholds : holdsTurn s k = true := by simp [holdsTurn, hslot, hlast, hopen, hret]
  change execSlotTurn k none s = _
  rw [execSlotTurn, if_pos hholds]
  rfl

theorem exec_timebaseDeadline {s : State} {k n : Nat} (h : (slotAt s k).deadline = some n) (hn : n ≤ tickOf s) :
    exec (.timebaseDeadline k) s = .next (wake s k) := by
  change execTimebaseDeadline k s = _
  simp only [execTimebaseDeadline, h, hn, if_true]

end Sys2Proof.Machine

namespace Sys2Proof.Claims

open Sys2Proof.Machine

/-- Settles O53: the frame of the forms, one rule for a form that asks one agent once, the registers as they read, and the use of a slot's turn. -/
theorem systemForms : Obligations.SystemForms := by
  refine ⟨fun _ _ _ _ _ => exec_sys, fun s => ⟨exec_brk_traps, fun h => ⟨_, exec_brk_stops h, ?_⟩⟩, fun s => ⟨fun h => ?_, fun h => ?_⟩,
    fun d n s y h => ⟨exec_cget_own h, fun hn hhas => asks_of_askOnce h hhas (exec_cget_far h hn), fun v vs hn hans => ?_⟩,
    fun a t n s va y h => ⟨exec_cput_own h, fun hn hhas => asks_of_askOnce h hhas (exec_cput_far h hn), fun v vs hn hans => ?_⟩,
    fun _ _ _ => readReg_trap, fun s k => ⟨readReg_pc s k, fun r hr => ?_, nw_toNat_toNat _⟩, fun _ _ _ => (regMerge_of_regW1C · _ _), ?_,
    fun _ _ _ _ _ _ _ _ _ _ _ _ => exec_segst,
    fun _ _ _ _ _ _ _ _ _ _ h htarget => ⟨debugForm_asks rfl h htarget, debugForm_asks rfl h htarget⟩,
    fun _ _ _ _ _ _ _ _ h htarget => ⟨debugForm_traps rfl h htarget, debugForm_traps rfl h htarget⟩, ?_, fun _ _ _ _ => mem_dbgSlots,
    fun x h => ⟨?_, ?_⟩, ?_, fun _ _ _ => exec_timebaseDeadline⟩
  · simp [Slot.stop, Slot.dropIssue]
  · rw [exec_halt, h, if_neg Bool.false_ne_true]
  · rw [exec_halt, h, if_pos rfl]
  · rw [exec_cget_far h hn, askOnce_answered (Nat.le_refl 8) hans]
    exact completes_of_done rfl
  · rw [exec_cput_far h hn, askOnce_answered (Nat.zero_le 8) hans]
    exact completes_of_done rfl
  · rw [readReg_full, getLsbD_nw_toNat _ hr, getLsbD_fullBits _ hr]
  · rintro g a t sg o s va y la pa acc off bs ws h hbar hhas haddr hown hok rfl
    exact exec_segld h hbar hhas haddr hown hok
  · rintro i s m va vb core agent z ks rfl htarget rfl
    exact ⟨exec_loadRequest_dbghalt htarget, fun _ hjs h => exec_loadRequest_dbgresume htarget h hjs⟩
  · rw [Slot.debugStop, h, if_neg Bool.false_ne_true]
  · rw [Slot.resume, h, if_neg Bool.false_ne_true]
  · rintro k s x cyc z rfl hcyc hslot hlast hopen hret hst hsws hbaton hhu rfl
    have hturn := exec_slotTurn hcyc hslot hlast hopen hret
    refine ⟨fun id hid => hturn.trans (congrArg Host.Outcome.next (useTurn_cancel hst hsws hbaton hhu _ hid)), fun hid => ⟨fun hev hwait hfol =>
      ⟨fun hskip => hturn.trans (congrArg Host.Outcome.next (useTurn_issue hst hsws hbaton hhu hid hev hwait hfol _ hskip)),
        fun hskip => hturn.trans (congrArg Host.Outcome.next (useTurn_skip hst hsws hbaton hhu hid hev hwait hfol _ hskip))⟩, ?_,
      fun c v rest hev hq => hturn.trans (congrArg Host.Outcome.next (useTurn_event hst hsws hbaton hhu hid _ hev hq))⟩⟩
    rintro hev (hwait | ⟨hfol, haway⟩)
    · exact hturn.trans (congrArg Host.Outcome.next (useTurn_waiting hst hsws hbaton hhu hid hev _ hwait))
    · exact hturn.trans (congrArg Host.Outcome.next (useTurn_follower hst hsws hbaton hhu hid hev _ hfol haway))

end Sys2Proof.Claims
end

section
/-! Forms of the power and save units at issue (R139, R354, R355, R361, R367). -/

namespace Sys2Proof.Machine

open Sys2Proof.Claims

/-! LM power (R139). -/

section
variable {s : State} {d a b : GReg} {t : Bool} {va vb : Word} {y : Slot}

section
variable (h : Reads s [a, b] (some d) [va, vb] y)
include h

theorem exec_lmpwr_asks {cl lc off : Nat} (hva : va.toNat < 2 ^ 56) (hlm : placeOf (popped s y) va.toNat = .lm cl lc off) :
    AsksUnit s (.lmpwr d a b t) y (.ni (lcoreKey (popped s y) cl lc)) .lmpwr [va, vb] fun v => completes s (wrote (popped s y) d a t v) := by
  have hhigh : bitF va 56 8 = 0 := (bitF_high va rfl).trans (Nat.div_eq_of_lt hva)
  refine asksUnit_of_askUnit (done := fun s v => .done (modSlot s s.cur fun x => (x.takeIf t a.toNat).writeDst d.toNat v)) h ?_
    fun v => completes_of_wrote rfl
  refine (next_withOps h _).trans ?_
  simp only [val_zero, hhigh, if_true, hlm]

theorem exec_lmpwr_traps (hno : 2 ^ 56 ≤ va.toNat ∨ ∀ cl lc off, placeOf (popped s y) va.toNat ≠ .lm cl lc off) :
    exec (.lmpwr d a b t) s = traps s 0x10 va := by
  refine (next_withOps h _).trans (traps_of_trap ?_)
  rw [val_zero, bitF_high va rfl]
  rcases hno with hbig | hno
  · have hpos : va.toNat / 2 ^ 56 ≠ 0 := Nat.ne_of_gt (Nat.div_pos hbig (by decide))
    simp only [hpos, if_false]
  · by_cases hzero : va.toNat / 2 ^ 56 = 0
    · simp only [hzero, if_true]
    · simp only [hzero, if_false]

end

/-! The save engine (R354, R355, R361). -/

theorem saveForm_asks {srcs : List GReg} {vs : List Word} {f : UnitForm} {i : Instr} (hi : exec i s = .next (saveForm d a srcs t f s))
    (h : Reads s srcs (some d) vs y) : AsksUnit s i y modulAgent f ([nw (decide (y.mode = .user)).toNat, nw y.asid] ++ vs) fun v =>
      completes s (wrote (popped s y) d a t v) := by
  refine asksUnit_of_askUnit (done := fun s v => .done (modSlot s s.cur fun x => (x.takeIf t a.toNat).writeDst d.toNat v)) h ?_
    fun v => completes_of_wrote rfl
  refine hi.trans ((next_withOps h _).trans ?_)
  rw [isUser, myAsid, popped_cur, slotAt_popped]

/-- What `msadd` does without an answer. -/
def saveAsks (z : State) (va vb : Word) : Res := match saveRange z va (bitF vb 0 34) with
  | .trap c w => .trap c w
  | .walk u => .park u
  | .ok _ pa _ => askMore z modulAgent (.unitReq .msadd [nw (myAsid z), nw pa, nw (bitF vb 0 34), nw (bitF vb 50 2), nw (bitF vb 34 16)]) 8

section
variable (h : Reads s [a, b] (some d) [va, vb] y)
include h

theorem exec_msadd : exec (.msadd d a b t) s = endsAs s (withAnswers (popped s y) fun ws =>
    if ws ≠ [] then .done (wrote (popped s y) d a t (val ws 0)) else saveAsks (popped s y) va vb) := next_withOps h _

theorem exec_msadd_unasked (hhas : Has y []) : exec (.msadd d a b t) s = endsAs s (saveAsks (popped s y) va vb) := by
  rw [exec_msadd h, withAnswers_none (has_popped hhas), if_neg (not_not_intro rfl)]

theorem exec_msadd_traps {c : Nat} {w : Word} (hhas : Has y []) (htrap : saveRange (popped s y) va (vb.toNat % 2 ^ 34) = .trap c w) :
    exec (.msadd d a b t) s = traps s c w := by
  rw [exec_msadd_unasked h hhas]
  refine traps_of_trap ?_
  rw [saveAsks, bitF_zero, htrap]

theorem exec_msadd_asks {la pa : Nat} {acc : Acc} (hok : saveRange (popped s y) va (vb.toNat % 2 ^ 34) = .ok la pa acc) :
    AsksUnit s (.msadd d a b t) y modulAgent .msadd
      [nw y.asid, nw pa, nw (vb.toNat % 2 ^ 34), nw (vb.toNat / 2 ^ 50 % 4), nw (vb.toNat / 2 ^ 34 % 2 ^ 16)] fun v =>
      completes s (wrote (popped s y) d a t v) := by
  refine ⟨fun hhas => asks_of_askMore h ?_, fun v ws hans => ?_, fun tr c w htrip hneed htrap => ?_⟩
  · rw [exec_msadd_unasked h hhas, saveAsks, bitF_zero, hok, myAsid, popped_cur, slotAt_popped]
    rfl
  · rw [exec_msadd h, withAnswers_none (has_popped (.inr hans)), if_pos (List.cons_ne_nil v ws)]
    exact completes_of_done rfl
  · rw [exec_msadd h]
    exact traps_of_trap (withAnswers_trap ((congrArg Slot.trip (slotAt_popped s y)).trans htrip) hneed htrap _)

end

end

/-! The checks of a range to save (R354). -/

theorem saveRange_length {z : State} {p : Word} {len : Nat} (h : len = 0 ∨ 2 ^ 33 < len) : saveRange z p len = .trap 0x71 (nw (7 * 2 ^ 60)) := by
  simp only [saveRange, if_pos h]
  rfl

section
variable {z : State} {p : Word} {len la pa la2 pa2 : Nat} {acc acc2 : Acc} (hlen : len ≠ 0) (hmax : len ≤ 2 ^ 33)
  (hfirst : ptrAddr z z.cur p 1 needR = .ok la pa acc) (hlast : segAddr z z.cur (ptrSeg p) (nw (ptrOff p + len - 1)) 1 needR = .ok la2 pa2 acc2)
  (hal : la % 65536 = 0)
include hlen hmax hfirst hlast hal

/-- An aligned range whose addresses are formed is checked for its place and for one frame. -/
theorem saveRange_formed : saveRange z p len =
    if notSaved z la pa then .trap 0x71 (nw (5 * 2 ^ 60 + unitsOf len))
    else if la < 0x20000000000 ∧ !oneFrame z (clusterOf (coreOf z.cur)) (myAsid z) la pa (la + len) 131074 la then
      .trap 0x71 (nw (4 * 2 ^ 60 + unitsOf len))
    else .ok la pa acc := by
  have hsize : ¬(len = 0 ∨ 2 ^ 33 < len) := by omega
  simp only [saveRange, if_neg hsize, hfirst, hlast, hal, ne_eq, not_true_eq_false, if_false]
  rfl

theorem saveRange_place (hplace : notSaved z la pa = true) : saveRange z p len = .trap 0x71 (nw (5 * 2 ^ 60 + unitsOf len)) := by
  rw [saveRange_formed hlen hmax hfirst hlast hal, if_pos hplace]

section
variable (hplace : notSaved z la pa = false)
include hplace

theorem saveRange_frames (hlow : la < 0x20000000000)
    (hframe : oneFrame z (clusterOf (coreOf z.cur)) (myAsid z) la pa (la + len) 131074 la = false) :
    saveRange z p len = .trap 0x71 (nw (4 * 2 ^ 60 + unitsOf len)) := by
  rw [saveRange_formed hlen hmax hfirst hlast hal, hplace, if_neg Bool.false_ne_true, if_pos ⟨hlow, by rw [hframe]; rfl⟩]

theorem saveRange_ok (hframe : 0x20000000000 ≤ la ∨ oneFrame z (clusterOf (coreOf z.cur)) (myAsid z) la pa (la + len) 131074 la = true) :
    saveRange z p len = .ok la pa acc := by
  rw [saveRange_formed hlen hmax hfirst hlast hal, hplace, if_neg Bool.false_ne_true, if_neg]
  rintro ⟨hlow, hbad⟩
  rcases hframe with hhigh | hframe
  · exact Nat.not_le_of_lt hlow hhigh
  · rw [hframe] at hbad
    exact Bool.false_ne_true hbad

end

end

section
variable {s : State} {cl asid la pa hi fuel x : Nat}

theorem oneFrame_end (h : hi ≤ x) : oneFrame s cl asid la pa hi (fuel + 1) x = true := by
  rw [oneFrame, if_pos h]

theorem oneFrame_leaf {u : State} {p lvl : Nat} {e : Word} (h : x < hi) (hw : walkAt s cl asid x = (u, .leaf p lvl e)) :
    oneFrame s cl asid la pa hi (fuel + 1) x = (e.getLsbD 56 && decide (pteAddr e + x % 2 ^ lvlShift lvl = pa + (x - la)) &&
      oneFrame s cl asid la pa hi fuel (x / 2 ^ lvlShift lvl * 2 ^ lvlShift lvl + 2 ^ lvlShift lvl)) := by
  rw [oneFrame, if_neg (Nat.not_le_of_lt h), hw]
  rfl

end

/-! Vertical buses (R367). -/

section
variable {s : State} {d a b : GReg} {t : Bool} {va vb : Word} {y : Slot} {f : UnitForm} {i : Instr}
  (hi : exec i s = .next (vbForm d a b t f s)) (h : Reads s [a, b] (some d) [va, vb] y)
include hi h

theorem vbForm_asks (hcl : va.toNat / 2 ^ 32 % 2 ^ 8 ≤ 159) (hcore : va.toNat % 2 ^ 6 ≤ 33) (hwire : vb.toNat / 2 ^ 2 % 2 ^ 11 ≤ 1055) :
    AsksUnit s i y (.ni (coreIn (clusterIn (va.toNat / 2 ^ 40 % 2 ^ 3) (va.toNat / 2 ^ 32 % 2 ^ 8)) (va.toNat % 2 ^ 6))) f [va, vb] fun v =>
      completes s (wrote (popped s y) d a t v) := by
  refine asksUnit_of_askUnit (done := fun s w => .done (modSlot s s.cur fun x => (x.takeIf t a.toNat).writeDst d.toNat w)) h ?_
    fun v => completes_of_wrote rfl
  have hplace : ¬(159 < bitF va 32 8 ∨ 33 < bitF va 0 6) := by
    rw [bitF_zero]
    exact not_or_intro (Nat.not_lt.mpr hcl) (Nat.not_lt.mpr hcore)
  rw [← bitF_zero va 6]
  exact hi.trans ((next_withOps h _).trans (congrArg (endsAs s) ((if_neg hplace).trans (if_neg (Nat.not_lt.mpr hwire)))))

theorem vbForm_traps (hout : 159 < va.toNat / 2 ^ 32 % 2 ^ 8 ∨ 33 < va.toNat % 2 ^ 6) : exec i s = traps s 0x10 va := by
  rw [← bitF_zero va 6] at hout
  exact hi.trans ((next_withOps h _).trans (traps_of_trap (if_pos hout)))

end

end Sys2Proof.Machine
end

section
/-! The power and save units at their work (R139, R354, R355, R361, R367 to R369). -/

namespace Sys2Proof.Machine

open Sys2Proof.Claims

/-! Power requests at an LM controller (R139). -/

theorem exec_loadRequest_lmpwr {s : State} {i : Nat} {m : Msg} {core : Nat} {va vb : Word} (h : UnitAt s i m .lmpwr [va, vb])
    (hd : m.dst = .ni core) : exec (.loadRequest i) s = .next (servePwr (modCore (switchQuarters (dropMsg s i) core (vb.toNat % 16)) core
      fun c => { c with pwr := c.pwr ++ [(m, vb.toNat % 16, lmOnMask (dropMsg s i) core)] }) core) := by
  refine exec_loadRequest_unit h ?_
  simp only [unitPerform, hd, pwrPerform, val_one, bitF_zero]
  rfl

theorem servePwr_waits {s : State} {core old : Nat} {m : Msg} {mask : Nat} (h : (coreAt s core).pwr = [(m, mask, old)])
    (hdue : quartersDue s core mask = true) : servePwr s core = s := by
  simp [servePwr, h, hdue]

theorem servePwr_answers {s : State} {core old : Nat} {m : Msg} {mask : Nat} (h : (coreAt s core).pwr = [(m, mask, old)])
    (hdue : quartersDue s core mask = false) : servePwr s core = answerUnit (modCore s core fun c => { c with pwr := [] }) m old := by
  simp [servePwr, h, hdue]

theorem lmDueAt_quarterOn {s : State} {core q : Nat} (hoff : (coreAt s core).lmOn.getLsbD q = false) (hdue : lmDueAt (coreAt s core) q = 0) :
    lmDueAt (coreAt (quarterOn s core q) core) q = s.time + 4096 := by
  have hidle : ¬((coreAt s core).lmOn.getLsbD q = true ∨ lmDueAt (coreAt s core) q ≠ 0) := by simp [hoff, hdue]
  rw [quarterOn, if_neg hidle, coreAt_setCore_self]
  exact SMap.get_set_self (fun _ => 0) (coreAt s core).lmDue q (s.time + 4096)

/-! The requests of the save engine (R354, R355, R361). -/

section
variable {s : State} {i : Nat} {m : Msg} {us as va vb : Word}

theorem exec_loadRequest_msdel (h : UnitAt s i m .msdel [us, as, va]) : exec (.loadRequest i) s =
    unitAnswers (regionDelete (dropMsg s i) (us.getLsbD 0) (as.toNat % 2 ^ 12) (va.toNat % 2 ^ 10)).1 m
      (regionDelete (dropMsg s i) (us.getLsbD 0) (as.toNat % 2 ^ 12) (va.toNat % 2 ^ 10)).2 := by
  refine exec_loadRequest_unit h (congrArg some ?_)
  rw [← bitF_zero, ← bitF_zero]
  rfl

theorem exec_loadRequest_msqry (h : UnitAt s i m .msqry [us, as, va]) : exec (.loadRequest i) s =
    unitAnswers (dropMsg s i) m (regionQuery (dropMsg s i) (us.getLsbD 0) (as.toNat % 2 ^ 12) va) := by
  refine exec_loadRequest_unit h (congrArg some ?_)
  rw [← bitF_zero]
  rfl

theorem exec_loadRequest_hustat (h : UnitAt s i m .hustat [us, as, va, vb]) : exec (.loadRequest i) s =
    unitAnswers (dropMsg s i) m (tableQuery s.modul.flash va vb) := exec_loadRequest_unit h rfl

end

/-! Regions (R352, R355). -/

section
variable {s : State} {user : Bool} {asid h : Nat} {r : Region}

theorem regionDelete_running (hrun : huRuns s = true) : regionDelete s user asid h = (s, 2) := by
  rw [regionDelete, if_pos hrun]

section
variable (hrun : huRuns s = false)
include hrun

theorem regionDelete_none (hr : regionAt s h = none) : regionDelete s user asid h = (s, 1) := by
  simp only [regionDelete, hrun, Bool.false_eq_true, if_false, hr]

theorem regionDelete_own (hr : regionAt s h = some r) (hmay : user = false ∨ r.asid = asid) :
    regionDelete s user asid h = (setRegion s h none, 0) := by
  have hnot : ¬(user = true ∧ r.asid ≠ asid) := by
    rintro ⟨huser, hne⟩
    rcases hmay with hsup | heq
    · exact Bool.false_ne_true (hsup.symm.trans huser)
    · exact hne heq
  simp only [regionDelete, hrun, Bool.false_eq_true, if_false, hr, hnot]

theorem regionDelete_foreign (hr : regionAt s h = some r) (huser : user = true) (hne : r.asid ≠ asid) :
    regionDelete s user asid h = (s, 1) := by
  simp only [regionDelete, hrun, Bool.false_eq_true, if_false, hr, huser, hne, ne_eq, not_false_eq_true, and_self, if_true]

end

variable {v : Word}

theorem regionQuery_quota (hsel : v.getLsbD 63 = true) : regionQuery s user asid v =
    quotaOf s (if user then asid else v.toNat % 2 ^ 12) * 2 ^ 32 + usedBy s (if user then asid else v.toNat % 2 ^ 12) := by
  rw [← bitF_zero]
  exact if_pos hsel

section
variable (hsel : v.getLsbD 63 = false)
include hsel

/-- Of an entry `msqry` shows what its thread may see. -/
theorem regionQuery_entry : regionQuery s user asid v = match regionAt s (v.toNat % 2 ^ 10) with
    | none => 0
    | some r => if user ∧ r.asid ≠ asid then 0 else 2 ^ 63 + regionWord r := by
  rw [← bitF_zero]
  exact if_neg (ne_true_of_eq_false hsel)

theorem regionQuery_none (hr : regionAt s (v.toNat % 2 ^ 10) = none) : regionQuery s user asid v = 0 := by
  rw [regionQuery_entry hsel, hr]

theorem regionQuery_own (hr : regionAt s (v.toNat % 2 ^ 10) = some r) (hmay : user = false ∨ r.asid = asid) :
    regionQuery s user asid v = 2 ^ 63 + regionWord r := by
  rw [regionQuery_entry hsel, hr]
  refine if_neg ?_
  rintro ⟨huser, hne⟩
  rcases hmay with hsup | heq
  · exact Bool.false_ne_true (hsup.symm.trans huser)
  · exact hne heq

theorem regionQuery_foreign (hr : regionAt s (v.toNat % 2 ^ 10) = some r) (huser : user = true) (hne : r.asid ≠ asid) :
    regionQuery s user asid v = 0 := by
  rw [regionQuery_entry hsel, hr]
  exact if_pos ⟨huser, hne⟩

end

end

/-! Admission (R354). -/

theorem nw_toNat_of_lt {n : Nat} (h : n < 2 ^ 64) : (nw n).toNat = n := by
  rw [nw, BitVec.toNat_ofNat, Nat.mod_eq_of_lt h]

/-- The search for a free number finds the first. -/
theorem find?_rangeFrom_first {p : Nat → Bool} {a i n : Nat} (hi : i < n) (hp : p (a + i) = true) (hfirst : ∀ j, j < i → p (a + j) = false) :
    (rangeFrom a n).find? p = some (a + i) := by
  induction n generalizing a i with
  | zero => exact absurd hi (Nat.not_lt_zero i)
  | succ n ih =>
    rw [rangeFrom]
    cases i with
    | zero => exact List.find?_cons_of_pos hp
    | succ i =>
      have hshift (j : Nat) : a + (j + 1) = a + 1 + j := by omega
      have hhead : p a = false := hfirst 0 (Nat.succ_pos i)
      rw [List.find?_cons_of_neg (ne_true_of_eq_false hhead), hshift i]
      exact ih (Nat.lt_of_succ_lt_succ hi) (hshift i ▸ hp) fun j hj => hshift j ▸ hfirst (j + 1) (Nat.succ_lt_succ hj)

section
variable {s : State} {m : Msg} {asid pa len prio tag : Nat}

/-- The refusal of a region, by its reason. -/
def refusedRegion (s : State) (m : Msg) (r len : Nat) : State :=
  sendMsg s (replyTo m (.loadReply (.poison 0x71 (saveTval r (unitsOf len)).toNat)))

theorem unitsOf_le (h : len ≤ 2 ^ 33) : unitsOf len ≤ 8192 := by
  rw [unitsOf]
  omega

theorem refusedRegion_eq {r : Nat} (hr : r ≤ 7) (h : len ≤ 2 ^ 33) :
    refusedRegion s m r len = sendMsg s (replyTo m (.loadReply (.poison 0x71 (r * 2 ^ 60 + unitsOf len)))) := by
  have := unitsOf_le h
  rw [refusedRegion, saveTval, nw_toNat_of_lt (by omega)]

theorem admitRegion_running (hrun : huRuns s = true) : admitRegion s m asid pa len prio tag = refusedRegion s m 6 len := if_pos hrun

section
variable (hrun : huRuns s = false)
include hrun

theorem admitRegion_quota (h : quotaOf s asid < usedBy s asid + unitsOf len) :
    admitRegion s m asid pa len prio tag = refusedRegion s m 1 len :=
  (if_neg (hrun.symm ▸ Bool.false_ne_true)).trans (if_pos h)

section
variable (hquota : usedBy s asid + unitsOf len ≤ quotaOf s asid)
include hquota

theorem admitRegion_cap (h : capOf s < usedAll s + unitsOf len) : admitRegion s m asid pa len prio tag = refusedRegion s m 2 len :=
  (if_neg (hrun.symm ▸ Bool.false_ne_true)).trans ((if_neg (Nat.not_lt.mpr hquota)).trans (if_pos h))

section
variable (hcap : usedAll s + unitsOf len ≤ capOf s)
include hcap

/-- A region within its quota and the capacity takes the first free handle. -/
theorem admitRegion_within : admitRegion s m asid pa len prio tag = match (rangeFrom 0 1024).find? fun h => (regionAt s h).isNone with
    | none => refusedRegion s m 3 len
    | some h => answerUnit (setRegion s h (some ⟨asid, prio, tag, pa, len⟩)) m h :=
  (if_neg (hrun.symm ▸ Bool.false_ne_true)).trans ((if_neg (Nat.not_lt.mpr hquota)).trans (if_neg (Nat.not_lt.mpr hcap)))

theorem admitRegion_full (hfull : ∀ h, h < 1024 → (regionAt s h).isSome = true) :
    admitRegion s m asid pa len prio tag = refusedRegion s m 3 len := by
  have hnone : ((rangeFrom 0 1024).find? fun h => (regionAt s h).isNone) = none := by
    rw [List.find?_eq_none]
    intro h hmem
    have := hfull h (by have := mem_rangeFrom.mp hmem; omega)
    simp [Option.isSome_iff_ne_none.mp this]
  rw [admitRegion_within hrun hquota hcap, hnone]

theorem admitRegion_ok {h : Nat} (hh : h < 1024) (hfree : regionAt s h = none) (hfirst : ∀ j, j < h → (regionAt s j).isSome = true) :
    admitRegion s m asid pa len prio tag = answerUnit (setRegion s h (some ⟨asid, prio, tag, pa, len⟩)) m h := by
  have hfound : ((rangeFrom 0 1024).find? fun h => (regionAt s h).isNone) = some h := by
    rw [find?_rangeFrom_first (i := h) hh, Nat.zero_add]
    · rw [Nat.zero_add, hfree]
      rfl
    · intro j hj
      rw [Nat.zero_add]
      exact Option.isNone_eq_false_iff.mpr (hfirst j hj)
  rw [admitRegion_within hrun hquota hcap, hfound]

end

end

end

theorem exec_loadRequest_msadd {i : Nat} (h : UnitAt s i m .msadd [nw asid, nw pa, nw len, nw prio, nw tag]) (hasid : asid < 2 ^ 12)
    (hpa : pa < 2 ^ 56) (hlen : len ≤ 2 ^ 33) (hprio : prio < 4) (htag : tag < 2 ^ 16) :
    exec (.loadRequest i) s = .next (admitRegion (dropMsg s i) m asid pa len prio tag) := by
  refine exec_loadRequest_unit h (congrArg some ?_)
  change admitRegion _ m (nw asid).toNat (nw pa).toNat (nw len).toNat (nw prio).toNat (nw tag).toNat = _
  rw [nw_toNat_of_lt (by omega), nw_toNat_of_lt (by omega), nw_toNat_of_lt (by omega), nw_toNat_of_lt (by omega), nw_toNat_of_lt (by omega)]

end

/-! The restart table (R361). -/

section
variable {f : Flash} {va vb : Word} {e : PlanEnt}

theorem tableQuery_last (hsel : vb.toNat / 2 ^ 62 = 3) : tableQuery f va vb = f.last := by
  rw [tableQuery, bitF_top, if_pos hsel]

section
variable (hsel : vb.toNat / 2 ^ 62 ≠ 3)
include hsel

theorem tableQuery_none (hno : (f.plan.find? fun e => e.handle = va.toNat % 2 ^ 10) = none) : tableQuery f va vb = 0 := by
  simp only [tableQuery, bitF_top, bitF_zero, hsel, if_false, hno]

end

section
variable (he : (f.plan.find? fun e => e.handle = va.toNat % 2 ^ 10) = some e)
include he

theorem tableQuery_state (hsel : vb.toNat / 2 ^ 62 = 0) : tableQuery f va vb =
    f.stateOf e * 2 ^ 62 + regionWord e.region + (f.written (va.toNat % 2 ^ 10)).length % 2 ^ 18 := by
  simp only [tableQuery, bitF_top, bitF_zero, hsel, he]
  rfl

theorem tableQuery_start (hsel : vb.toNat / 2 ^ 62 = 1) : tableQuery f va vb = e.region.start := by
  simp only [tableQuery, bitF_top, bitF_zero, hsel, he]
  rfl

/-- The bits of 64 chunk numbers from 64 `k` on. -/
def chunkBits (l : List Nat) (k : Nat) : Nat := ((l.filter fun i => decide (64 * k ≤ i) && decide (i < 64 * k + 64)).map fun i => 2 ^ (i - 64 * k)).sum

theorem tableQuery_chunks (hsel : vb.toNat / 2 ^ 62 = 2) : tableQuery f va vb = chunkBits (f.written (va.toNat % 2 ^ 10)) (vb.toNat % 2 ^ 11) := by
  simp only [tableQuery, bitF_top, bitF_zero, hsel, he]
  rfl

end

end

theorem testBit_sum_two_pow {l : List Nat} (h : l.Nodup) (j : Nat) : (l.map fun i => 2 ^ i).sum.testBit j = true ↔ j ∈ l := by
  rw [← List.sum_toFinset _ h, ← Nat.mem_bitIndices, ← List.mem_toFinset, Finset.toFinset_bitIndices_sum_two_pow, List.mem_toFinset]

theorem testBit_chunkBits {l : List Nat} (h : l.Nodup) {k j : Nat} (hj : j < 64) : (chunkBits l k).testBit j = true ↔ 64 * k + j ∈ l := by
  have hmap : chunkBits l k =
      (((l.filter fun i => decide (64 * k ≤ i) && decide (i < 64 * k + 64)).map fun i => i - 64 * k).map fun i => 2 ^ i).sum := by
    rw [chunkBits, List.map_map]
    rfl
  rw [hmap, testBit_sum_two_pow]
  · simp only [List.mem_map, List.mem_filter, Bool.and_eq_true, decide_eq_true_eq]
    constructor
    · rintro ⟨i, ⟨hi, hlo, -⟩, rfl⟩
      rwa [Nat.add_sub_cancel' hlo]
    · intro hmem
      exact ⟨64 * k + j, ⟨hmem, by omega, by omega⟩, by omega⟩
  · refine (h.filter _).map_on fun i hi i' hi' heq => ?_
    simp only [List.mem_filter, Bool.and_eq_true, decide_eq_true_eq] at hi hi'
    omega

/-! Vertical buses (R367 to R369). -/

section
variable {s : State} {i : Nat} {m : Msg} {core : Nat} {va vb : Word} (hd : m.dst = .ni core)
include hd

theorem exec_loadRequest_vbset (h : UnitAt s i m .vbset [va, vb]) : exec (.loadRequest i) s =
    unitAnswers (vbRecord (dropMsg s i) core (vb.toNat % 4) (vb.toNat / 2 ^ 2 % 2 ^ 11) (vb.getLsbD 13)).1 m
      (vbRecord (dropMsg s i) core (vb.toNat % 4) (vb.toNat / 2 ^ 2 % 2 ^ 11) (vb.getLsbD 13)).2 := by
  have hq : bitF vb 0 2 = vb.toNat % 4 := bitF_zero vb 2
  refine exec_loadRequest_unit h ?_
  rw [← hq]
  simp only [unitPerform, hd]
  rfl

theorem exec_loadRequest_vbtest (h : UnitAt s i m .vbtest [va, vb]) : exec (.loadRequest i) s =
    unitAnswers (dropMsg s i) m (vbTest (dropMsg s i) core (vb.toNat % 4) (vb.toNat / 2 ^ 2 % 2 ^ 11)) := by
  have hq : bitF vb 0 2 = vb.toNat % 4 := bitF_zero vb 2
  refine exec_loadRequest_unit h ?_
  rw [← hq]
  simp only [unitPerform, hd]
  rfl

end

section
variable {s : State} {core q : Nat}

theorem vbTest_off (w : Nat) (hoff : (coreAt s core).lmOn.getLsbD q = false) (hret : quarterRetired s core q = false) : vbTest s core q w = 8 := by
  simp [vbTest, hoff, hret]

theorem vbTest_on (w : Nat) (hon : (coreAt s core).lmOn.getLsbD q = true ∨ quarterRetired s core q = true) :
    vbTest s core q w = loopback (busFaults s core q) w := by
  rcases hon with hon | hret
  · simp [vbTest, hon]
  · simp [vbTest, hret]

theorem vbRecord_retired (w : Nat) (auto : Bool) (h : quarterRetired s core q = true) : vbRecord s core q w auto = (s, 5) := if_pos h

theorem vbRecord_first (w : Nat) (auto : Bool) (h : quarterRetired s core q = false)
    (hfield : ((coreAt s core).creg (vbReg q (wireGroup w))).toNat / 2 ^ vbPos (wireGroup w) % 2 ^ 16 = 0) :
    vbRecord s core q w auto = (modCore s core fun c => c.setCreg (vbReg q (wireGroup w))
      (setF (c.creg (vbReg q (wireGroup w))) (vbPos (wireGroup w)) 16 (2 ^ 7 + wireLane w)), 0) := by
  have hf : bitF ((coreAt s core).creg (vbReg q (wireGroup w))) (vbPos (wireGroup w)) 16 = 0 := hfield
  simp only [vbRecord, h, hf, Nat.zero_testBit, Bool.false_eq_true, false_and, or_self, if_false, Bool.not_false, if_true]
  rfl

end

theorem loopback_nil (w : Nat) : loopback [] w = 1 := by
  simp [loopback, wireReads]

theorem loopback_stuck (core q w : Nat) : loopback [⟨core, q, w, .stuck false⟩] w = 2 := by
  simp [loopback, wireReads, Wire.touched]

theorem loopback_bridge (core q : Nat) {w v : Nat} (hv : v < 1056) (hne : v ≠ w) :
    loopback [⟨core, q, w, .bridge v⟩] w = v * 2 ^ 16 + 4 := by
  simp [loopback, wireReads, Wire.touched, hv, hne]

end Sys2Proof.Machine
end

section
/-! Quarters that become ready, the hold-up sequence, repair and retirement (R139, R338, R350, R356 to R359, R366, R371, R372, R375). -/

namespace Sys2Proof

/-- A map without the entries of a key reads as its default there. -/
theorem SMap.get_filter_out {β : Type} (d : Nat → β) (p : Nat × β → Bool) (m : SMap β) {k : Nat} (h : ∀ v, p (k, v) = false) :
    SMap.get d (m.filter p) k = d k := by
  induction m with
  | nil => rfl
  | cons e m ih =>
    obtain ⟨j, v⟩ := e
    by_cases hp : p (j, v) = true
    · rw [List.filter_cons_of_pos hp, SMap.get, if_neg, ih]
      rintro rfl
      exact Bool.false_ne_true ((h v).symm.trans hp)
    · rw [List.filter_cons_of_neg hp, ih]

/-- A field keeps its value when a field beside it is set. -/
theorem bitF_setF_beside (w : Word) {lo n lo' n' : Nat} (v : Nat) (hfit : lo' + n' ≤ 64) (h : lo' + n' ≤ lo ∨ lo + n ≤ lo') :
    bitF (setF w lo n v) lo' n' = bitF w lo' n' := by
  apply Nat.eq_of_testBit_eq
  intro i
  rw [bitF, bitF, Nat.testBit_mod_two_pow, Nat.testBit_mod_two_pow, Nat.testBit_div_two_pow, Nat.testBit_div_two_pow]
  by_cases hi : i < n'
  · have hbit : (setF w lo n v).getLsbD (i + lo') = w.getLsbD (i + lo') := by
      rw [getLsbD_setF w lo n v (by omega), if_neg (by omega)]
    rw [BitVec.getLsbD, BitVec.getLsbD] at hbit
    rw [hbit]
  · simp [hi]

end Sys2Proof

namespace Sys2Proof.Machine

open Sys2Proof.Claims

/-! What the power requests, the advisory and a closing quarter leave alone. -/

section
variable {β : Type} {g : State → β}

section
variable (hg : ∀ s cores net touch, g { s with cores := cores, net := net, touch := touch } = g s)
include hg

theorem keeps_servePwr (s : State) (core : Nat) : g (servePwr s core) = g s := by
  unfold servePwr
  dsimp only
  split
  · rfl
  · exact (keeps_foldl (fun s _ => keeps_sendMsg hg s _) _ _).trans (keeps_modCore hg _ _ _)

theorem keeps_closeQuarter (s : State) (core q cause : Nat) : g (closeQuarter s core q cause) = g s := by
  unfold closeQuarter
  refine (keeps_servePwr hg _ _).trans ((keeps_foldl (fun s _ => keeps_dirWrite hg s _ _ _) _ _).trans
    ((keeps_foldl (fun s w => ?_) _ _).trans (hg s _ _ _)))
  split
  · rfl
  · split
    · exact keeps_sendMsg hg _ _
    · rfl

end

theorem keeps_advise (hg : ∀ s cores regs msix, g { s with cores := cores, modul := { s.modul with regs := regs, msix := msix } } = g s)
    (s : State) (b tower cl : Nat) : g (advise s b tower cl) = g s := by
  unfold advise
  split
  · rfl
  · unfold hostEvent modModul
    dsimp only
    split
    · exact hg s _ _ _
    · exact hg s _ _ _

end

theorem creg_advise (s : State) (b tower cl : Nat) {n : Nat} (hadv : n ≠ 0x440) (hevt : n ≠ 0x4C0) :
    (advise s b tower cl).modul.creg n = s.modul.creg n := by
  have hset (m : Modul) (v : Word) : (m.setCreg 0x440 v).creg n = m.creg n := SMap.get_set_ne _ _ _ hadv
  have hhost (m : Modul) (v : Word) : (m.setCreg 0x4C0 v).creg n = m.creg n := SMap.get_set_ne _ _ _ hevt
  unfold advise
  split
  · rfl
  · unfold hostEvent modModul
    dsimp only
    split
    · exact hset _ _
    · exact (hhost _ _).trans (hset _ _)

/-- The advisory's bit stands once it is raised. -/
theorem advise_bit (s : State) {b : Nat} (tower cl : Nat) (hb : b < 64) : ((advise s b tower cl).modul.creg 0x440).getLsbD b = true := by
  have hset (m : Modul) : ((m.setCreg 0x440 (setB (m.creg 0x440) b true)).creg 0x440).getLsbD b = true := by
    rw [Modul.creg, Modul.setCreg, SMap.get_set_self]
    exact getLsbD_setB_self _ true hb
  have hhost (m : Modul) (v : Word) : (m.setCreg 0x4C0 v).creg 0x440 = m.creg 0x440 := SMap.get_set_ne _ _ _ (by decide)
  unfold advise
  split
  · next h => exact h
  · unfold hostEvent modModul
    dsimp only
    split
    · exact hset _
    · exact (congrArg (BitVec.getLsbD · b) (hhost _ _)).trans (hset _)

/-! A quarter that becomes ready (R139). -/

theorem coreAt_servePwr (s : State) (core : Nat) : ∃ p, coreAt (servePwr s core) core = { coreAt s core with pwr := p } := by
  unfold servePwr
  dsimp only
  split
  · exact ⟨_, rfl⟩
  · have hanswer (s : State) (r : Msg × Nat × Nat) : coreAt (answerUnit s r.1 r.2.2) core = coreAt s core := coreAt_sendMsg _ _ _
    exact ⟨_, (keeps_foldl (g := fun s => coreAt s core) hanswer _ _).trans (coreAt_modCore_self _ _ _)⟩

/-- The state of a quarter that has become ready, before the power requests are served. -/
def quarterReady (s : State) (core q : Nat) : State :=
  let s1 := zeroRange s (lmKey core (131072 * q)) (lmKey core (131072 * q) + 131072)
  let s2 := (coreAt s1 core).dir.foldl (fun s e => match e.2 with
    | some d => if inQuarter q (64 * e.1) then d.held.foldl sendMsg s else s
    | none => s) s1
  modCore s2 core fun c => { setOn c q true with dir := c.dir.filter fun e => !inQuarter q (64 * e.1) }

theorem exec_lmQuarterReady {s : State} {core q : Nat} (hdue : lmDueAt (coreAt s core) q ≠ 0) (hq : q ≤ 3) :
    exec (.lmQuarterReady core q) s = .next (servePwr (quarterReady s core q) core) := by
  have hgo : ¬(lmDueAt (coreAt s core) q = 0 ∨ 3 < q) := by omega
  exact if_neg hgo

/-- Beside its messages and its core, a quarter that becomes ready changes the bytes, the full bits and the errors of its range. -/
theorem keeps_quarterReady {β : Type} {g : State → β} (hg : ∀ s cores net touch, g { s with cores := cores, net := net, touch := touch } = g s)
    (s : State) (core q : Nat) :
    g (quarterReady s core q) = g (zeroRange s (lmKey core (131072 * q)) (lmKey core (131072 * q) + 131072)) := by
  unfold quarterReady
  dsimp only
  refine (keeps_modCore hg _ _ _).trans (keeps_foldl (fun s e => ?_) _ _)
  split
  · split
    · exact keeps_foldl (keeps_sendMsg hg) _ _
    · rfl
  · rfl

theorem coreAt_quarterReady (s : State) (core q : Nat) : coreAt (quarterReady s core q) core =
    { setOn (coreAt s core) q true with dir := (coreAt s core).dir.filter fun e => !inQuarter q (64 * e.1) } := by
  refine (coreAt_modCore_self _ _ _).trans ?_
  rw [keeps_foldl (g := fun s => coreAt s core) (fun s e => ?_)]
  · rfl
  · split
    · split
      · exact keeps_foldl (g := fun s => coreAt s core) (fun s m => coreAt_sendMsg s m core) _ _
      · rfl
    · rfl

section
variable {s : State} {core q o : Nat}

theorem lmOn_ready (hq : q ≤ 3) : (coreAt (servePwr (quarterReady s core q) core) core).lmOn.getLsbD q = true := by
  obtain ⟨p, hp⟩ := coreAt_servePwr (quarterReady s core q) core
  rw [hp, coreAt_quarterReady]
  change ((coreAt s core).lmOn ||| (1#4 <<< q)).getLsbD q = true
  have hq4 : q < 4 := by omega
  simp [hq4]

section
variable (hlo : 131072 * q ≤ o) (hhi : o < 131072 * (q + 1))
include hlo hhi

theorem dirAt_ready : dirAt (coreAt (servePwr (quarterReady s core q) core) core) (o / 64) = none := by
  obtain ⟨p, hp⟩ := coreAt_servePwr (quarterReady s core q) core
  have hin : inQuarter q (64 * (o / 64)) = true := decide_eq_true (by omega)
  rw [hp, coreAt_quarterReady]
  exact SMap.get_filter_out _ _ _ fun _ => by rw [hin]; rfl

theorem lmKey_inside : lmKey core (131072 * q) ≤ lmKey core o ∧ lmKey core o < lmKey core (131072 * q) + 131072 := by
  simp only [lmKey]
  omega

theorem memByte_ready : memByte (servePwr (quarterReady s core q) core) (lmKey core o) = 0#8 := by
  have hmem : (servePwr (quarterReady s core q) core).mem =
      (zeroRange s (lmKey core (131072 * q)) (lmKey core (131072 * q) + 131072)).mem :=
    (keeps_servePwr (g := State.mem) (fun _ _ _ _ => rfl) _ _).trans (keeps_quarterReady (fun _ _ _ _ => rfl) _ _ _)
  rw [memByte, hmem]
  obtain ⟨hlow, hhigh⟩ := lmKey_inside (core := core) hlo hhi
  exact SMap.get_filter_out _ _ _ fun _ => Bool.or_eq_false_iff.mpr ⟨decide_eq_false (Nat.not_lt.mpr hlow), decide_eq_false (Nat.not_le.mpr hhigh)⟩

theorem feAt_ready : feAt (servePwr (quarterReady s core q) core) core o = true := by
  have hfe : (servePwr (quarterReady s core q) core).fe =
      (zeroRange s (lmKey core (131072 * q)) (lmKey core (131072 * q) + 131072)).fe :=
    (keeps_servePwr (g := State.fe) (fun _ _ _ _ => rfl) _ _).trans (keeps_quarterReady (fun _ _ _ _ => rfl) _ _ _)
  rw [feAt, hfe]
  obtain ⟨hlow, hhigh⟩ := lmKey_inside (core := core) hlo hhi
  have halign : lmKey core (131072 * q) % 8 = 0 := by
    simp only [lmKey]
    omega
  have hlow8 : lmKey core (131072 * q) ≤ 8 * (lmKey core o / 8) := by omega
  have hhigh8 : 8 * (lmKey core o / 8) < lmKey core (131072 * q) + 131072 := by omega
  exact SMap.get_filter_out _ _ _ fun _ =>
    Bool.or_eq_false_iff.mpr ⟨decide_eq_false (Nat.not_lt.mpr hlow8), decide_eq_false (Nat.not_le.mpr hhigh8)⟩

end

end

/-! The hold-up sequence (R350, R356 to R359). -/

section
variable {s : State}

theorem exec_holdupStart (h : s.modul.hu = .idle) : exec .holdupStart s = .next (shedLinks (shedLight ((s.slots.map Prod.fst).foldl
    (fun s k => modSlot s k fun x => { x with pf := decide (x.st = .stopped) }) (modModul s fun m => { m with hu := .shed, huT0 := tickOf s })))) :=
  if_neg (not_not_intro h)

theorem slotAt_foldl_modSlot_ne (f : Slot → Slot) {l : List Nat} {k : Nat} (h : k ∉ l) (s : State) :
    slotAt (l.foldl (fun s j => modSlot s j f) s) k = slotAt s k := by
  induction l generalizing s with
  | nil => rfl
  | cons j l ih =>
    rw [List.foldl_cons, ih fun hk => h (List.mem_cons_of_mem j hk)]
    exact slotAt_modSlot_ne s f fun hk => h (hk ▸ List.mem_cons_self ..)

/-- A change of each slot of a list has been made to each of them. -/
theorem slotAt_foldl_modSlot_mem (f : Slot → Slot) {l : List Nat} {k : Nat} (h : k ∈ l) (s : State) :
    ∃ x, slotAt (l.foldl (fun s j => modSlot s j f) s) k = f x := by
  induction l generalizing s with
  | nil => exact absurd h (List.not_mem_nil)
  | cons j l ih =>
    by_cases hk : k ∈ l
    · exact ih hk _
    · obtain rfl : k = j := (List.mem_cons.mp h).resolve_right hk
      exact ⟨slotAt s k, (slotAt_foldl_modSlot_ne f hk _).trans (slotAt_modSlot_self s k f)⟩

/-- A slot that the hold-up sequence stops (R356). -/
def Slot.huStop (x : Slot) : Slot := { x with strs := [], st := if x.st = .ready ∨ x.st = .parked then .stopped else x.st }

/-- The slots, after the sequence has stopped them. -/
def slotsStopped (s : State) : State :=
  (s.slots.map Prod.fst).foldl (fun s k => modSlot s k Slot.huStop) (modModul s fun m => { m with hu := .drain })

/-- The engines then issue nothing more. -/
def enginesStopped (s : State) : State :=
  let s3 := (s.cores.map Prod.fst).foldl (fun s c => modCore s c fun x => { x with xq := [], vq := [] }) s
  let s4 := (s3.clusters.map Prod.fst).foldl (fun s c => modCluster s c fun x => { x with mxq := [], dce := [] }) s3
  (s4.towers.map Prod.fst).foldl (fun s t => modTower s t fun x => { x with cle := [] }) s4

theorem exec_holdupStop (h : s.modul.hu = .shed) (ht : s.modul.huT0 + 50000 ≤ tickOf s) :
    exec .holdupStop s = .next (enginesStopped (slotsStopped s)) := by
  have hgo : ¬(s.modul.hu ≠ .shed ∨ tickOf s < s.modul.huT0 + 50000) := not_or_intro (not_not_intro h) (Nat.not_lt.mpr ht)
  exact if_neg hgo

theorem keeps_enginesStopped {β : Type} {g : State → β}
    (hg : ∀ s cores clusters towers, g { s with cores := cores, clusters := clusters, towers := towers } = g s) (s : State) :
    g (enginesStopped s) = g s :=
  (keeps_foldl (fun s _ => hg s _ _ _) _ _).trans ((keeps_foldl (fun s _ => hg s _ _ _) _ _).trans (keeps_foldl (fun s _ => hg s _ _ _) _ _))

theorem hu_stopped (s : State) : (enginesStopped (slotsStopped s)).modul.hu = .drain :=
  (keeps_enginesStopped (g := fun s => s.modul.hu) (fun _ _ _ _ => rfl) _).trans
    (congrArg Modul.hu (keeps_foldl (g := State.modul) (f := fun s k => modSlot s k Slot.huStop) (fun _ _ => rfl) _ _))

theorem Slot.huStop_st (x : Slot) : x.huStop.st ≠ .ready ∧ x.huStop.st ≠ .parked := by
  by_cases h : x.st = .ready ∨ x.st = .parked
  · rw [Slot.huStop, if_pos h]
    exact ⟨nofun, nofun⟩
  · rw [Slot.huStop, if_neg h]
    exact not_or.mp h

theorem slots_stopped (s : State) {k : Nat} (hk : k ∈ s.slots.map Prod.fst) :
    (slotAt (enginesStopped (slotsStopped s)) k).st ≠ .ready ∧ (slotAt (enginesStopped (slotsStopped s)) k).st ≠ .parked := by
  rw [keeps_enginesStopped (g := fun s => slotAt s k) fun _ _ _ _ => rfl]
  obtain ⟨x, hx⟩ := slotAt_foldl_modSlot_mem Slot.huStop hk (modModul s fun m => { m with hu := .drain })
  rw [slotsStopped, hx]
  exact x.huStop_st

theorem modul_spillShadows (s : State) (line : Nat) : (spillShadows s line).modul = s.modul := by
  refine keeps_foldl (g := State.modul) (fun s h => ?_) _ s
  unfold spillShadow
  split <;> rfl

/-- What the copy begins with: the rest refused and each shadow in its pool slot. -/
def copyReady (s : State) : State := (s.towers.flatMap fun t => t.2.shadows.map Shadow.line).foldl spillShadows (refuseRest s)

theorem modul_copyReady (s : State) : (copyReady s).modul = s.modul :=
  (keeps_foldl (g := State.modul) modul_spillShadows _ _).trans (keeps_foldl (g := State.modul)
    (f := fun s c => modCore s c fun x => { x with waiters := x.waiters.filter fun w => w.req.isNone, reqs := [] }) (fun _ _ => rfl) _ _)

theorem exec_holdupCopy (h : s.modul.hu = .drain) (ht : s.modul.huT0 + 60000 ≤ tickOf s) (hd : drainedAll s = true) :
    exec .holdupCopy s = .next (modModul (copyReady s) fun m =>
      { m with hu := .copy, plan := payFor (capOf s) (planOf s), flash := m.flash.planned (planOf s) }) := by
  have hgo : ¬(s.modul.hu ≠ .drain ∨ tickOf s < s.modul.huT0 + 60000 ∨ !drainedAll s) := by
    rw [hd]
    exact not_or_intro (not_not_intro h) (not_or_intro (Nat.not_lt.mpr ht) Bool.false_ne_true)
  exact if_neg hgo

section
variable {h i : Nat} {rest : List (Nat × Nat)} {e : PlanEnt} {bs : List Byte} (hu : s.modul.hu = .copy) (hplan : s.modul.plan = (h, i) :: rest)
include hu hplan

theorem exec_saveChunkWrite_written (he : (s.modul.flash.plan.find? fun e => e.handle = h) = some e)
    (hbs : saveBytes s (e.region.start + 65536 * i) (Nat.min 65536 (e.region.len - 65536 * i)) = some bs) :
    exec (.saveChunkWrite true) s = .next (modModul s fun m => { m with
      plan := rest, flash := { m.flash with chunks := m.flash.chunks ++ [chunkOf m.flash.epoch h i bs] } }) := by
  change execSaveChunkWrite true s = _
  simp only [execSaveChunkWrite, hu, hplan, he, hbs, Option.bind_some, Option.map_some, ne_eq, not_true_eq_false, if_false, if_true]
  rfl

theorem exec_saveChunkWrite_failed : exec (.saveChunkWrite false) s = .next (modModul s fun m => { m with plan := rest }) := by
  change execSaveChunkWrite false s = _
  simp only [execSaveChunkWrite, hu, hplan, ne_eq, not_true_eq_false, Bool.false_eq_true, if_false, List.append_nil]

end

theorem exec_holdupCommit (hu : s.modul.hu = .copy) (hplan : s.modul.plan = []) : exec .holdupCommit s = .next (modModul s fun m =>
    { m with hu := .committed, off := true, flash := { m.flash with commit := some (m.flash.epoch, m.flash.crc) } }) := by
  have hgo : ¬(s.modul.hu ≠ .copy ∨ s.modul.plan ≠ []) := not_or_intro (not_not_intro hu) (not_not_intro hplan)
  exact if_neg hgo

/-- The usable energy has been measured. -/
def measured (s : State) (r : Nat) : State :=
  modModul s fun m => { m.setCreg 0x401 (setF (m.creg 0x401) 48 16 r) with measAt := tickOf s }

theorem exec_holdupReserveMeasure {r : Nat} (ht : s.modul.measAt + 2 ^ 30 ≤ tickOf s) :
    exec (.holdupReserveMeasure r) s = .next (adviseCap (measured s r)) := if_neg (Nat.not_lt.mpr ht)

theorem creg_measured (s : State) (r : Nat) : ((adviseCap (measured s r)).modul.creg 0x401).toNat / 2 ^ 48 = r % 2 ^ 16 := by
  have hself : (measured s r).modul.creg 0x401 = setF (s.modul.creg 0x401) 48 16 r := SMap.get_set_self _ _ _ _
  have hcap : (adviseCap (measured s r)).modul.creg 0x401 = (measured s r).modul.creg 0x401 := by
    unfold adviseCap
    split
    · exact creg_advise _ _ _ _ (by decide) (by decide)
    · rfl
  rw [hcap, hself, ← bitF_high _ (lo := 48) (n := 16) rfl, bitF_setF_self _ _ (by decide)]

theorem measAt_measured (s : State) (r : Nat) : (adviseCap (measured s r)).modul.measAt = tickOf s := by
  unfold adviseCap
  split
  · exact keeps_advise (g := fun s => s.modul.measAt) (fun _ _ _ _ => rfl) _ _ _ _
  · rfl

end

/-! Stores of the control window that are events (R338). -/

theorem onCtlStore_of_ctlStoreAt {s : State} {u n i : Nat} {v : Word} {m : Msg} {p : Word → Bool} (h : ctlStoreAt s u n v i m) (hp : p v = true)
    (perform : State → Word → State) :
    onCtlStore s (blkOfUnit s u n) n p perform = sendMsg (perform (dropMsg s i) v) (replyTo m .storeAck) := by
  obtain ⟨harr, hbody, hdst, hfirst⟩ := h
  have hstore : ctlStore s (blkOfUnit s u n) n p = some (i, m, v) := by
    apply findSome?_rangeFrom_first _ (lt_length_of_arrives harr)
    · simp [harr, hbody, hdst, ctlWritten, hp]
    · intro j hj
      rw [Nat.zero_add]
      cases hq : arrives s j with
      | none => rfl
      | some q => simp [hfirst j q hj hq]
  simp only [onCtlStore, hstore, hbody]
  rfl

/-! Row sparing (R366). -/

section
variable {s : State}

theorem repair_repairWrite {v : Word} (hfree : s.modul.repair = none) (hgo : v.getLsbD 63 = true) :
    (repairWrite s v).modul.repair = some (s.time, v) := by
  have hidle : ¬(bitB v 63 = true ∧ s.modul.repair.isSome = true) := by simp [hfree]
  have hset : bitB v 63 = true := hgo
  rw [repairWrite, if_neg hidle]
  simp only [modModul, hset, if_true]

theorem creg_repairEnds (s : State) (r : Nat) : (repairEnds s r).modul.creg 0x447 = setF (s.modul.creg 0x447) 54 2 r := SMap.get_set_self _ _ _ _

/-- A row is repaired, counted and recorded. -/
def rowRepaired (s : State) (v : Word) : State :=
  modModul (repairEnds (repairRow s v) 0) fun m => { m.setCreg 0x447 (addF (m.creg 0x447) 0 32 1) with rowFix := m.rowFix ++ [v] }

theorem exec_rowRepairDone_repaired {x : Nat × Word} (h : s.modul.repair = some x) : exec (.rowRepairDone 0) s = .next (rowRepaired s x.2) := by
  change execRowRepairDone 0 s = _
  simp only [execRowRepairDone, h]
  rfl

theorem creg_rowRepaired (s : State) (v : Word) :
    (rowRepaired s v).modul.creg 0x447 = addF (setF (s.modul.creg 0x447) 54 2 0) 0 32 1 := by
  have hself : (rowRepaired s v).modul.creg 0x447 = addF ((repairEnds (repairRow s v) 0).modul.creg 0x447) 0 32 1 := SMap.get_set_self _ _ _ _
  rw [hself, creg_repairEnds]
  rfl

theorem exec_rowRepairDone_none {x : Nat × Word} (h : s.modul.repair = some x) :
    exec (.rowRepairDone 1) s = .next (advise (repairEnds s 1) 3 0 0) := by
  change execRowRepairDone 1 s = _
  simp only [execRowRepairDone, h]
  rfl

theorem exec_rowRepairDone_failed {x : Nat × Word} (h : s.modul.repair = some x) : exec (.rowRepairDone 2) s = .next (repairEnds s 2) := by
  change execRowRepairDone 2 s = _
  simp only [execRowRepairDone, h]
  rfl

end

/-- The count and the result of a word that ends a repair. -/
theorem repairWord_fields (w : Word) {r : Nat} (hr : r < 4) :
    (setF w 54 2 r).toNat % 2 ^ 32 = w.toNat % 2 ^ 32 ∧ (setF w 54 2 r).toNat / 2 ^ 54 % 4 = r := by
  refine ⟨?_, (bitF_setF_self w r (by decide)).trans (Nat.mod_eq_of_lt hr)⟩
  rw [← bitF_zero, ← bitF_zero, bitF_setF_beside _ _ (by decide) (.inl (by decide))]

theorem repairedWord_fields (w : Word) : (addF (setF w 54 2 0) 0 32 1).toNat % 2 ^ 32 = (w.toNat + 1) % 2 ^ 32 ∧
    (addF (setF w 54 2 0) 0 32 1).toNat / 2 ^ 54 % 4 = 0 := by
  obtain ⟨hcount, hresult⟩ := repairWord_fields w (r := 0) (by decide)
  constructor
  · rw [← bitF_zero, addF, bitF_setF_self _ _ (by decide), bitF_zero, hcount, Nat.mod_add_mod]
  · exact (bitF_setF_beside (setF w 54 2 0) (lo := 0) (n := 32) (lo' := 54) (n' := 2) _ (by decide) (.inr (by decide))).trans hresult

/-! Retirement (R371, R375). -/

section
variable {s : State}

theorem relCore_retireCores (s : State) (cl bits : Nat) : (retireCores s cl bits).modul.relCore =
    SMap.set (fun _ => 0) s.modul.relCore cl (Nat.lor (SMap.get (fun _ => 0) s.modul.relCore cl) (bits % 2 ^ 34)) := by
  have hadvise (s : State) : (adviseSpare s cl).modul.relCore = s.modul.relCore := by
    unfold adviseSpare
    split
    · exact keeps_advise (g := fun s => s.modul.relCore) (fun _ _ _ _ => rfl) _ _ _ _
    · rfl
  have hclose (p : Nat) (s : State) (q : Nat) :
      (closeQuarter (modCore s (coreIn cl p) fun c => setQ c (8 * q + 6) 2 2) (coreIn cl p) q 0x17).modul = s.modul :=
    (keeps_closeQuarter (g := State.modul) (fun _ _ _ _ => rfl) _ _ _ _).trans rfl
  unfold retireCores
  dsimp only
  rw [hadvise, keeps_foldl (g := State.modul) fun s p => keeps_foldl (hclose p) _ s]
  rfl

theorem relCore_coreRetire {cl : Nat} (v : Word) (h : relCluster s = some cl) : SMap.get (fun _ => 0) (coreRetire s v).modul.relCore cl =
    Nat.lor (SMap.get (fun _ => 0) s.modul.relCore cl) (v.toNat % 2 ^ 34) := by
  rw [coreRetire, h]
  exact (congrArg (SMap.get (fun _ => 0) · cl) (relCore_retireCores s cl v.toNat)).trans (SMap.get_set_self _ _ _ _)

/-- A comb source has failed. -/
def combFailed (s : State) (standby : Bool) : State := modModul s fun m => { m with comb := Nat.lor m.comb (if standby then 2 else 1) }

theorem comb_combFailed (s : State) (sb : Bool) :
    (advise (combFailed s sb) 5 0 0).modul.comb = Nat.lor s.modul.comb (if sb then 2 else 1) :=
  keeps_advise (g := fun s => s.modul.comb) (fun _ _ _ _ => rfl) _ _ _ _

end

end Sys2Proof.Machine
end

section
/-! Power, hold-up and reliability: the statement, assembled from the laws of the forms and of their units. -/

namespace Sys2Proof.Claims

open Sys2Proof.Machine

/-- Settles O56: each form's frame, each unit's answer and each event's effect is a law of its own. -/
theorem powerHoldupAndReliability : Obligations.PowerHoldupAndReliability := by
  refine ⟨?lmpwr, fun _ _ _ _ _ _ _ _ => exec_lmpwr_traps, ?lmpwrAt, ?served, fun _ _ _ => lmDueAt_quarterOn, ?ready, ?saveForms, ?hustat, ?regions,
    ?msadd, fun _ _ _ _ _ _ _ _ => ⟨oneFrame_end, fun _ _ _ _ => oneFrame_leaf⟩, ?msaddLength, ?admission, ?table, fun _ => exec_holdupStart, ?stop, ?copy, ?chunk,
    fun _ => exec_holdupCommit, ?measure, ?vbForms, ?vbAt, ?vbTraps, ?record, loopback_nil, loopback_stuck,
    fun core q _ _ _ => loopback_bridge core q, ?repairStore, fun _ _ => repair_repairWrite, ?repaired, ?unrepaired, ?clear, ?retireStore, ?siteStore,
    fun _ _ v => relCore_coreRetire v, ?comb⟩
  case lmpwr =>
    rintro d a b t s va vb y z cl lc off h rfl
    exact exec_lmpwr_asks h
  case lmpwrAt =>
    rintro i s m core va vb z h hd rfl
    exact exec_loadRequest_lmpwr h hd
  case served =>
    exact fun s core m mask old h => ⟨servePwr_waits h, fun hdue => congrArg Host.Outcome.next (servePwr_answers h hdue)⟩
  case ready =>
    exact fun core q s hdue hq => ⟨_, exec_lmQuarterReady hdue hq, lmOn_ready hq, fun o hlo hhi =>
      ⟨memByte_ready hlo hhi, feAt_ready hlo hhi, dirAt_ready hlo hhi⟩⟩
  case saveForms =>
    rintro d a t s va y z h rfl
    exact ⟨saveForm_asks rfl h, saveForm_asks rfl h⟩
  case hustat => exact fun d a b t s va vb y h => saveForm_asks rfl h
  case regions =>
    rintro i s m us as va h user asid z rfl rfl rfl rfl
    refine ⟨fun hat => ?_, fun hat => ?_⟩
    · have hdel := exec_loadRequest_msdel hat
      refine ⟨fun hrun => ?_, fun hrun hr => ?_, fun r hrun hr hmay => ?_, fun r hrun hr huser hne => ?_⟩
      · rwa [regionDelete_running (s := dropMsg s i) hrun] at hdel
      · rwa [regionDelete_none (s := dropMsg s i) hrun hr] at hdel
      · rwa [regionDelete_own (s := dropMsg s i) hrun hr hmay] at hdel
      · rwa [regionDelete_foreign (s := dropMsg s i) hrun hr huser hne] at hdel
    · have hqry := exec_loadRequest_msqry hat
      refine ⟨fun r hsel hr hmay => ?_, fun r hsel hr huser hne => ?_, fun hsel hr => ?_, ?_⟩
      · rwa [regionQuery_own (s := dropMsg s i) hsel hr hmay] at hqry
      · rwa [regionQuery_foreign (s := dropMsg s i) hsel hr huser hne] at hqry
      · rwa [regionQuery_none (s := dropMsg s i) hsel hr] at hqry
      · rintro q hsel rfl
        rw [regionQuery_quota (s := dropMsg s i) hsel] at hqry
        exact hqry
  case msadd =>
    rintro d a b t s va vb y z len u la pa acc la2 pa2 acc2 h rfl rfl hlen hmax rfl hfirst hlast hal
    have hasid : myAsid (popped s y) = y.asid := congrArg Slot.asid (slotAt_popped s y)
    refine ⟨fun hplace hframe => ?_, fun hhas hplace => ?_, fun hhas hplace hlow hframe => ?_⟩
    · exact exec_msadd_asks h (saveRange_ok hlen hmax hfirst hlast hal hplace (hasid.symm ▸ hframe))
    · exact exec_msadd_traps h hhas (saveRange_place hlen hmax hfirst hlast hal hplace)
    · exact exec_msadd_traps h hhas (saveRange_frames hlen hmax hfirst hlast hal hplace hlow (hasid.symm ▸ hframe))
  case msaddLength => exact fun d a b t s va vb y h hhas hlen => exec_msadd_traps h hhas (saveRange_length hlen)
  case admission =>
    rintro i s m asid pa len prio tag u z hat rfl hasid hpa hlen hprio htag rfl
    have hadmit := exec_loadRequest_msadd hat hasid hpa hlen hprio htag
    refine ⟨fun r hr => ?_, fun h hrun hquota hcap hh hfree hfirst => ?_⟩
    · have hr7 : r ≤ 7 := by omega
      rw [hadmit, ← refusedRegion_eq hr7 hlen]
      rcases hr with ⟨rfl, hrun⟩ | ⟨rfl, hrun, hquota⟩ | ⟨rfl, hrun, hquota, hcap⟩ | ⟨rfl, hrun, hquota, hcap, hfull⟩
      · rw [admitRegion_running (s := dropMsg s i) hrun]
      · rw [admitRegion_quota (s := dropMsg s i) hrun hquota]
      · rw [admitRegion_cap (s := dropMsg s i) hrun hquota hcap]
      · rw [admitRegion_full (s := dropMsg s i) hrun hquota hcap hfull]
    · rw [hadmit, admitRegion_ok (s := dropMsg s i) hrun hquota hcap hh hfree hfirst]
      rfl
  case table =>
    rintro i s m us as va vb h z hat rfl rfl
    have hquery := exec_loadRequest_hustat hat
    refine ⟨fun hsel => ?_, fun hsel hno => ?_, fun e he => ⟨fun hsel => ?_, fun hsel => ?_, fun hsel => ⟨_, hquery, fun j hj hnodup => ?_⟩⟩⟩
    · rwa [tableQuery_last hsel] at hquery
    · rwa [tableQuery_none hsel hno] at hquery
    · rwa [tableQuery_state he hsel] at hquery
    · rwa [tableQuery_start he hsel] at hquery
    · rw [tableQuery_chunks he hsel]
      exact testBit_chunkBits hnodup hj
  case stop => exact fun s h ht => ⟨_, exec_holdupStop h ht, hu_stopped s, fun k => slots_stopped s⟩
  case copy =>
    refine fun s h ht hd => ⟨_, exec_holdupCopy h ht hd, rfl, rfl, ?_⟩
    change (copyReady s).modul.flash.planned (planOf s) = _
    rw [modul_copyReady]
    rfl
  case chunk =>
    exact fun s h i rest e bs hu hplan he hbs => ⟨exec_saveChunkWrite_written hu hplan he hbs, exec_saveChunkWrite_failed hu hplan⟩
  case measure => exact fun r s ht => ⟨_, exec_holdupReserveMeasure ht, creg_measured s r, measAt_measured s r⟩
  case vbForms =>
    rintro d a b t s va vb y core h hcl hcore hwire rfl
    exact ⟨vbForm_asks rfl h hcl hcore hwire, vbForm_asks rfl h hcl hcore hwire⟩
  case vbAt =>
    rintro i s m core va vb q w z hd rfl rfl rfl
    refine ⟨exec_loadRequest_vbset hd, fun hat => ?_⟩
    have htest := exec_loadRequest_vbtest hd hat
    refine ⟨fun hoff hret => ?_, fun hon => ?_⟩
    · rwa [vbTest_off (s := dropMsg s i) _ hoff hret] at htest
    · rw [vbTest_on (s := dropMsg s i) _ hon] at htest
      exact htest
  case vbTraps => exact fun d a b t s va vb y h hout => ⟨vbForm_traps rfl h hout, vbForm_traps rfl h hout⟩
  case record => exact fun s core q w auto => ⟨vbRecord_retired w auto, vbRecord_first w auto⟩
  case repairStore => exact fun i m v s h hgo => congrArg Host.Outcome.next (onCtlStore_of_ctlStoreAt h hgo repairWrite)
  case repaired =>
    intro s x h
    have hcreg := creg_rowRepaired s x.2
    obtain ⟨hcount, hresult⟩ := repairedWord_fields (s.modul.creg 0x447)
    exact ⟨_, exec_rowRepairDone_repaired h, rfl, hcreg ▸ hcount, hcreg ▸ hresult⟩
  case unrepaired =>
    rintro s x r h hr
    obtain ⟨hcount, hresult⟩ := repairWord_fields (s.modul.creg 0x447) (r := r) (by omega)
    have hcreg := creg_repairEnds s r
    rcases hr with rfl | rfl
    · have hadv : (advise (repairEnds s 1) 3 0 0).modul.creg 0x447 = setF (s.modul.creg 0x447) 54 2 1 :=
        (creg_advise _ _ _ _ (by decide) (by decide)).trans hcreg
      exact ⟨_, exec_rowRepairDone_none h, keeps_advise (g := fun s => s.modul.repair) (fun _ _ _ _ => rfl) _ _ _ _, hadv ▸ hcount,
        hadv ▸ hresult, fun _ => advise_bit _ _ _ (by decide), keeps_advise (g := State.bad) (fun _ _ _ _ => rfl) _ _ _ _⟩
    · exact ⟨_, exec_rowRepairDone_failed h, rfl, hcreg ▸ hcount, hcreg ▸ hresult, fun h => absurd h (by decide), rfl⟩
  case clear => exact fun i m v s h hclr => congrArg Host.Outcome.next (onCtlStore_of_ctlStoreAt h hclr huCtlWrite)
  case retireStore => exact fun i m v s h => congrArg Host.Outcome.next (onCtlStore_of_ctlStoreAt h (decide_eq_true rfl) coreRetire)
  case siteStore =>
    intro i m n v s hn h
    have hblk : blkOfUnit s 0 (0x443 + n) = 0 := by rw [blkOfUnit, if_neg (by omega), if_neg (by omega)]
    have hstore := onCtlStore_of_ctlStoreAt (p := fun w => decide (w = v)) h (decide_eq_true rfl) fun s v => siteRetireWrite s (0x443 + n) v
    rw [hblk] at hstore
    exact (if_neg (Nat.not_lt.mpr hn)).trans (congrArg Host.Outcome.next hstore)
  case comb => exact fun sb s => ⟨_, rfl, comb_combFailed s sb, advise_bit _ _ _ (by decide)⟩

end Sys2Proof.Claims
end

section
/-! Operands in stream mode (R172, R174): the stream of a register, then a form with one source or one destination in stream mode. -/

namespace Sys2Proof.Machine

section
variable {x : Slot} {r : Nat} {t u : Stream}

/-- The registers that can be in stream mode are g24 to g27 (R172). -/
theorem Slot.inStream_eq_some : x.inStream r = some t ↔ (24 ≤ r ∧ r ≤ 27) ∧ x.stream (r - 24) = t ∧ t.on = true := by
  unfold Slot.inStream streamNo
  by_cases hr : 24 ≤ r ∧ r ≤ 27
  · simp only [hr, and_self, if_true, true_and, Option.ite_none_right_eq_some, Option.some.injEq]
    exact ⟨fun ⟨hon, ht⟩ => ⟨ht, ht ▸ hon⟩, fun ⟨ht, hon⟩ => ⟨ht ▸ hon, ht⟩⟩
  · simp [hr]

theorem Slot.stream_setStream (i j : Nat) : (x.setStream i u).stream j = if j = i then u else x.stream j := by
  by_cases h : j = i
  · rw [if_pos h, h]
    exact SMap.get_set_self _ _ _ _
  · rw [if_neg h]
    exact SMap.get_set_ne _ _ _ h

section
variable (h : x.inStream r = some t)
include h

/-- A register's stream that is written, and still on, reads back. -/
theorem Slot.inStream_setStream_self (hon : u.on = t.on) : (x.setStream (r - 24) u).inStream r = some u := by
  obtain ⟨hr, -, ht⟩ := Slot.inStream_eq_some.1 h
  exact Slot.inStream_eq_some.2 ⟨hr, by rw [Slot.stream_setStream, if_pos rfl], hon.trans ht⟩

/-- Every other register is in the mode in which it was. -/
theorem Slot.inStream_setStream_ne {q : Nat} (hq : q ≠ r) : (x.setStream (r - 24) u).inStream q = x.inStream q := by
  obtain ⟨hr, -⟩ := Slot.inStream_eq_some.1 h
  unfold Slot.inStream streamNo
  by_cases hq' : 24 ≤ q ∧ q ≤ 27
  · have hne : q - 24 ≠ r - 24 := by omega
    simp only [if_pos hq', Slot.stream_setStream, if_neg hne]
  · simp only [if_neg hq']

/-! One source. -/

/-- A source waits for an element that is still to come (R174). -/
theorem Slot.sourceWaits_stream : x.sourceWaits [r] r = (!t.writes && decide (t.fifo = [] ∧ t.pos < t.count)) := by
  have hone : timesIn r [r] = 1 := by simp [timesIn]
  rw [Slot.sourceWaits, h, hone]
  cases hf : t.fifo with
  | nil => simp [hf]
  | cons e es => simp [hf]

theorem Slot.readOne_write_stream (hw : t.writes = true) : x.readOne r = .error (0x42, nw r) := by
  simp [Slot.readOne, h, hw]

theorem Slot.readOne_ended_stream (hf : t.fifo = []) : x.readOne r = .error (0x42, nw r) := by
  simp [Slot.readOne, h, hf]

section
variable {e : FifoEl} {es : List FifoEl} (hw : t.writes = false) (hf : t.fifo = e :: es)
include hw hf

theorem Slot.readOne_poisoned_stream (he : e.pois = true) :
    x.readOne r = .error (e.v.toNat / 2 ^ 57, nw (e.v.toNat % 2 ^ 56)) := by
  rw [← bitF_high e.v (lo := 57) (n := 7) rfl, ← bitF_zero]
  simp [Slot.readOne, h, hw, hf, he]

theorem Slot.readOne_pops (he : e.pois = false) :
    x.readOne r = .ok (e.v, x.setStream (r - 24) { t with fifo := es, pos := t.pos + 1 }) := by
  simp [Slot.readOne, h, hw, hf, he]

end
end

section
variable (reply : Bool)

theorem Slot.prep_source_waits (hw : x.sourceWaits [r] r = true) : x.prep [r] none reply = .park := by
  simp [Slot.prep, hw]

theorem Slot.prep_source_traps {c : Nat} {v : Word} (hw : x.sourceWaits [r] r = false) (hr : x.readOne r = .error (c, v)) :
    x.prep [r] none reply = .trap c v := by
  simp [Slot.prep, hw, Slot.readAll, hr]

theorem Slot.prep_source_reads {v : Word} {y : Slot} (hw : x.sourceWaits [r] r = false) (hr : x.readOne r = .ok (v, y)) :
    x.prep [r] none reply = .ok [v] y := by
  simp [Slot.prep, hw, Slot.readAll, hr]

/-! One destination. -/

theorem Slot.prep_dst_waits (hw : x.destWaits r = true) : x.prep [] (some r) reply = .park := by
  simp [Slot.prep, hw]

variable {reply}

theorem Slot.prep_dst_traps {f : Nat × Word} (hw : x.destWaits r = false) (hf : x.destFault r reply = some f) :
    x.prep [] (some r) reply = .trap f.1 f.2 := by
  simp [Slot.prep, hw, Slot.readAll, hf]

theorem Slot.prep_dst_ok (hw : x.destWaits r = false) (hf : x.destFault r reply = none) : x.prep [] (some r) reply = .ok [] x := by
  simp [Slot.prep, hw, Slot.readAll, hf]

end

section
variable (h : x.inStream r = some t)
include h

/-- A destination waits for a place in a write stream that has no fault to report (R174). -/
theorem Slot.destWaits_stream : x.destWaits r = (t.writes && decide (8 ≤ t.fifo.length ∧ t.fault = none)) := by
  rw [Slot.destWaits, h]
  simp [Bool.and_assoc]

/-- A read stream is no destination, and no stream is one of a load-and-reply form (R174). -/
theorem Slot.destFault_unnamed {reply : Bool} (hno : reply = true ∨ t.writes = false) : x.destFault r reply = some (0x42, nw r) := by
  rcases hno with hno | hno <;> simp [Slot.destFault, h, hno]

section
variable (hw : t.writes = true)
include hw

theorem Slot.destFault_recorded {f : Nat × Word} (hf : t.fault = some f) : x.destFault r false = some f := by
  simp [Slot.destFault, h, hw, hf]

theorem Slot.destFault_unrecorded (hf : t.fault = none) : x.destFault r false = if t.pos = t.count then some (0x42, nw r) else none := by
  simp [Slot.destFault, h, hw, hf]

end

theorem Slot.writeDst_stream (v : Word) : x.writeDst r v =
    x.setStream (r - 24) { t with fifo := t.fifo ++ [⟨zextW (8 * t.esz) v, false⟩], pos := t.pos + 1 } := by
  rw [Slot.writeDst, h]

end
end

end Sys2Proof.Machine

namespace Sys2Proof.Claims

open Sys2Proof.Machine

/-- Settles O13: whether the operand waits, and then what it reads or which fault it has. -/
theorem streamOperands : Obligations.StreamOperands := by
  constructor
  · intro x r t reply h _
    have hwaits := Slot.sourceWaits_stream h
    refine ⟨fun hw => ?written, fun hw hf hpos => ?empty, fun hw hf hpos => ?ended, fun e es hw hf he => ?poisoned, fun e es hw hf he => ?popped⟩
    case written => exact Slot.prep_source_traps reply (by simp [hwaits, hw]) (Slot.readOne_write_stream h hw)
    case empty => exact Slot.prep_source_waits reply (by simp [hwaits, hw, hf, hpos])
    case ended => exact Slot.prep_source_traps reply (by simp [hwaits, hpos]) (Slot.readOne_ended_stream h hf)
    case poisoned => exact Slot.prep_source_traps reply (by simp [hwaits, hf]) (Slot.readOne_poisoned_stream h hw hf he)
    case popped =>
      exact ⟨_, Slot.prep_source_reads reply (by simp [hwaits, hf]) (Slot.readOne_pops h hw hf he), Slot.inStream_setStream_self h rfl, rfl, rfl,
        rfl, fun q hq => Slot.inStream_setStream_ne h hq⟩
  · intro x d t h _
    have hwaits := Slot.destWaits_stream h
    refine ⟨fun hw reply => ?read, fun hw hlen hf reply => ?waits, fun hw hlen => ?reply, fun f hw hf => ?fault, fun hw hlen hf hpos => ?ended,
      fun hw hlen hf hpos => ?pushed⟩
    case read => exact Slot.prep_dst_traps (by simp [hwaits, hw]) (Slot.destFault_unnamed h (.inr hw))
    case waits => exact Slot.prep_dst_waits reply (by simp [hwaits, hw, hlen, hf])
    case reply => exact Slot.prep_dst_traps (by simp [hwaits, hlen]) (Slot.destFault_unnamed h (.inl rfl))
    case fault => exact Slot.prep_dst_traps (by simp [hwaits, hf]) (Slot.destFault_recorded h hw hf)
    case ended => exact Slot.prep_dst_traps (by simp [hwaits, hlen]) ((Slot.destFault_unrecorded h hw hf).trans (if_pos hpos))
    case pushed =>
      refine ⟨Slot.prep_dst_ok (by simp [hwaits, hlen]) ((Slot.destFault_unrecorded h hw hf).trans (if_neg hpos)), fun v => ?_⟩
      rw [Slot.writeDst_stream h]
      exact ⟨Slot.inStream_setStream_self h rfl, rfl, rfl⟩

end Sys2Proof.Claims
end

section
/-! The transfer engine (R161 to R171). First one access of an engine and the write of a stamp, which every engine has; then the forms that issue a
command, its start and its elements, and its end. -/

namespace Sys2Proof.Machine

open Sys2Proof.Claims

/-! One access of an engine (R101, R161). -/

/-- The message of an access to the home of its first piece. -/
def accessMsg (s : State) (eng : Agent) (iss : Issuer) (pa : Nat) (b : Body) : Msg :=
  ⟨eng, homeAgent s (coreOf iss.slot) pa, 0, iss.slot, (slotAt s iss.slot).phase, b⟩

section
variable {s s1 : State} {eng : Agent} {iss : Issuer} {la pa : Nat} {acc : Acc} (cmd elem unit : Nat)

section
variable (h : engPhysical s eng (coreOf iss.slot) iss.asid la needR = .ok s1 pa acc)
include h

/-- A read of one piece leaves as one message. -/
theorem engIssue_read (dict : Option (Nat × Nat × List Word)) (n : Nat) : engIssue s eng iss cmd elem unit dict (.read [(la, n)]) =
    .out (sendMsg s1 (accessMsg s1 eng iss pa (.engRead pa n [] ⟨eng, cmd, elem, 1, unit⟩ acc []))) pa := by
  simp only [engIssue, EngNeed.need, EngNeed.las, List.map_cons, List.map_nil, engWays, h]
  rfl

theorem engAsk_read (dict : Option (Nat × Nat × List Word)) (io : EngIo) (n : Nat) : engAsk s eng iss cmd elem unit dict io (.read [(la, n)]) =
    (sendMsg s1 (accessMsg s1 eng iss pa (.engRead pa n [] ⟨eng, cmd, elem, 1, unit⟩ acc [])), { io with out := some (la, pa) }) := by
  simp only [engAsk, engIssue_read cmd elem unit h]
  rfl

end

/-- A write of one piece leaves as one message, plain without a dictionary. -/
theorem engAsk_write (h : engPhysical s eng (coreOf iss.slot) iss.asid la needW = .ok s1 pa acc) (io : EngIo) (bs : List Byte) :
    engAsk s eng iss cmd elem unit none io (.write [(la, bs)]) =
      (sendMsg s1 (accessMsg s1 eng iss pa (.engWrite pa bs ⟨eng, cmd, elem, 1, unit⟩ acc none [])), { io with out := some (la, pa) }) := by
  simp only [engAsk, engIssue, EngNeed.need, EngNeed.las, List.map_cons, List.map_nil, engWays, h]
  rfl

end

/-! The write of a stamp (R167, R168). -/

/-- An aligned dword lies in one line. -/
theorem putPieces_dword {la : Nat} (h : la % 8 = 0) (v : Word) : putPieces la (wordLE 8 v) = [(la, wordLE 8 v)] := by
  have hmin : Nat.min 8 (64 - la % 64) = 8 := Nat.min_eq_left (by omega)
  have hcuts : lineCuts (8 / 64 + 2) la 8 = [(la, 8)] := by simp [lineCuts, hmin]
  rw [putPieces, wordLE_length, hcuts, putCuts, putCuts, List.take_of_length_le (Nat.le_of_eq (wordLE_length 8 v))]

section
variable (s : State) (note : State → State) (core fail : Nat) {la : Nat} (v : Word) (h : la % 8 = 0)
include h

theorem stampEnd_unasked : stampEnd s note core fail la v [] = .need (.write [(la, wordLE 8 v)]) := by
  rw [stampEnd, engPut, putPieces_dword h]
  rfl

theorem stampEnd_performed : stampEnd s note core fail la v [.done 1] = .ok s [] := by
  rw [stampEnd, engPut, putPieces_dword h]
  rfl

theorem stampEnd_refused (c l pa : Nat) : stampEnd s note core fail la v [.fault c l pa] =
    .ok (raiseEvent (if c = 0x21 then note s else s) core fail (nw pa)) [] := by
  rw [stampEnd, engPut, putPieces_dword h]
  rfl

end

/-! The forms of the transfer engine (R162, R165, R166, R171). -/

/-- What a data command does once its operands are read. -/
def xfeOffer (z : State) (x : XCmd) (a : GReg) (t : Bool) : Res := match xfeCheck z x with
  | some (c, v) => .trap c v
  | none =>
    if 2 ≤ (coreAt z (coreOf z.cur)).xq.length ∨ (x.stv ∧ !(tileAt (clusterAt z (clusterOf (coreOf z.cur))) x.stile).readable) then .park z
    else .done (xfeQueued z x a t)

/-- A form that issues a data command traps, waits or queues it. -/
theorem issuesXfe_of_xfeIssue {form : Nat} {srcs : List GReg} {a : GReg} {t : Bool} {i : Instr}
    (hi : ∀ s, exec i s = .next (xfeIssue form a srcs t s)) : IssuesXfe form srcs a t i := by
  rintro s vs y x h rfl
  have hoffer : exec i s = endsAs s (xfeOffer (popped s y) (xfeOf (popped s y) form (val vs 0) (val vs 1)) a t) :=
    (hi s).trans (next_withOps h _)
  generalize xfeOf (popped s y) form (val vs 0) (val vs 1) = x at hoffer ⊢
  have hgate : xfeGate s x ↔ ¬(x.stv ∧ !(tileAt (clusterAt s (clusterOf (coreOf s.cur))) x.stile).readable) := by
    simp [xfeGate]
  rw [hoffer]
  refine ⟨fun c v hc => traps_of_trap ?_, fun hc hwait => waits_of_park ?_, fun hc hroom hgo => completes_of_done ?_⟩
  · rw [xfeOffer, hc]
  · rw [hgate, not_not] at hwait
    simp only [xfeOffer, hc]
    exact if_pos hwait
  · simp only [xfeOffer, hc]
    exact if_neg (not_or_intro (Nat.not_le.mpr hroom) (hgate.1 hgo))

/-- The first rows of the checks (R166). -/
theorem xfeCheck_mode_three (s : State) {x : XCmd} (h : x.mode = 3) : xfeCheck s x = some (0x40, 3#64) := by
  have hbad : x.badField = some 3 := by simp [XCmd.badField, h]
  simp only [xfeCheck, hbad]
  rfl

theorem xfeCheck_no_codebook (s : State) {x : XCmd} (hf : x.badField = none) (hm : x.mode = 1) (hcb : x.cb = 0#64) :
    xfeCheck s x = some (0x44, 0#64) := by
  simp only [xfeCheck, hf, hm, hcb, and_self, if_true]

section
variable {s : State} {a b : GReg} {t : Bool} {va vb : Word} {y : Slot}

theorem exec_xset {k : BitVec 4} (h : Reads s [a] none [va] y) : exec (.xset a t k) s = completes s (modSlot (popped s y) s.cur fun x =>
    (x.takeIf t a.toNat).setCreg (0x40 + k.toNat) (regMerge (0x40 + k.toNat) (x.creg (0x40 + k.toNat)) va)) :=
  (next_withOps h _).trans (completes_of_done rfl)

section
variable (h : Reads s [a, b] none [va, vb] y)
include h

/-- A handle that a queued command names is not bound anew before it has ended (R171). -/
theorem exec_xlrec_waits (hn : namesHandle (coreAt s (coreOf s.cur)) (vb.toNat % 16) = true) : exec (.xlrec a b t) s = waits s y := by
  refine (next_withOps h _).trans (waits_of_park ?_)
  simp only [val_one, bitF_zero, popped_cur, coreAt_popped]
  exact if_pos hn

theorem exec_xlrec_binds (hn : namesHandle (coreAt s (coreOf s.cur)) (vb.toNat % 16) = false)
    (hp : ptrRows (issuerOf (popped s y) s.cur) [flatUse va 192 needRD 64] = none) :
    exec (.xlrec a b t) s = completes s (took (modCore (popped s y) (coreOf s.cur) fun c => setRec c (vb.toNat % 16)
      ⟨true, issuerOf (popped s y) s.cur, (issuerOf (popped s y) s.cur).at va, none⟩) a t) := by
  refine (next_withOps h _).trans (completes_of_done ?_)
  simp only [val_zero, val_one, bitF_zero, popped_cur, coreAt_popped, hp]
  exact if_neg (ne_true_of_eq_false hn)

end

section
variable (h : Reads s [a] none [va] y)
include h

theorem exec_xlflush_waits (hn : namesHandle (coreAt s (coreOf s.cur)) (va.toNat % 16) = true) : exec (.xlflush a t) s = waits s y := by
  refine (next_withOps h _).trans (waits_of_park ?_)
  simp only [val_zero, bitF_zero, popped_cur, coreAt_popped]
  exact if_pos hn

theorem exec_xlflush_drops (hn : namesHandle (coreAt s (coreOf s.cur)) (va.toNat % 16) = false) :
    exec (.xlflush a t) s = completes s (took (modCore (popped s y) (coreOf s.cur) fun c =>
      setRec c (va.toNat % 16) { recAt c (va.toNat % 16) with copy := none }) a t) := by
  refine (next_withOps h _).trans (completes_of_done ?_)
  simp only [val_zero, bitF_zero, popped_cur, coreAt_popped]
  exact if_neg (ne_true_of_eq_false hn)

end
end

/-! The start of a command and its elements (R161, R163, R164). -/

section
variable {s s1 u : State} {core : Nat} {x : XCmd} {r : EngRun} {la n pa : Nat} {acc : Acc}

/-- A command that no store barrier holds begins, with THR_XSRCB at 0. -/
theorem exec_xfeCommandStart (hq : (coreAt s core).xq.head? = some x) (hrun : x.run = none) (hio : x.io = EngIo.reset)
    (hbar : barsHold (coreAt s core) x.iss.bars = false) : exec (.xfeCommandStart core) s = .next (xfeBegin (srcbSet s x 0) core x) := by
  change execXfeCommandStart core s = _
  have hhead : xfeHead s core = some x := hq
  simp only [execXfeCommandStart, hhead, hrun, hio, hbar]
  rfl

section
variable (hio : x.io = EngIo.reset)
include hio

theorem xfeBegin_ready {log : List EngAns} (h : xfeInit (coreAt u core) x [] = .ok ⟨r, n, []⟩ log) :
    xfeBegin u core x = xfeGo (setXIo (srcbSet u x n) core EngIo.reset) core x r := by
  have hlog : x.io.log = [] := congrArg EngIo.log hio
  simp only [xfeBegin, hlog, h]
  rfl

theorem xfeBegin_reads (h : xfeInit (coreAt u core) x [] = .need (.read [(la, n)]))
    (hp : engPhysical u (.xfe core) (coreOf x.iss.slot) x.iss.asid la needR = .ok s1 pa acc) :
    xfeBegin u core x = setXIo (sendMsg s1 (accessMsg s1 (.xfe core) x.iss pa (.engRead pa n [] ⟨.xfe core, x.id, 0, 1, 1⟩ acc []))) core
      ⟨some (la, pa), [], false⟩ := by
  have hlog : x.io.log = [] := congrArg EngIo.log hio
  simp only [xfeBegin, hlog, h, engAsk_read x.id 0 1 hp]
  rw [hio]
  rfl

end

/-- The next element of a plain copy reads its source. -/
theorem xfePlan_copy (hform : x.form = 0) (hmode : x.mode = 0) (hrec : x.srec = false) (hstop : r.stop = none) (hmore : r.elem < r.total)
    (hla : x.sideLa (x.srcPlace r r.elem) x.es needRD 1 = .ok la) : xfePlan x r = { r with reads := lineCuts 3 la x.es, got := [] } := by
  have hend : ¬ r.total ≤ r.elem := Nat.not_le.mpr hmore
  have hreads : ¬(x.form = 3 ∨ x.mode = 2) := by simp [hform, hmode]
  simp only [xfePlan, hstop, xfePlan.go, if_neg hend, if_neg hreads, hrec, Bool.false_eq_true, if_false, hla]

/-- An element's read leaves piece by piece. -/
theorem engSend_read {iss : Issuer} {eng : Agent} {rest : List (Nat × Nat)} (cmd first : Nat) (dict : Option (Nat × Nat × List Word))
    (hout : r.out = false) (hreads : r.reads = (la, n) :: rest) (hp : engPhysical s eng (coreOf iss.slot) iss.asid la needR = .ok s1 pa acc) :
    engSend s iss eng cmd first 1 dict r =
      (sendMsg s1 (accessMsg s1 eng iss pa (.engRead pa n [] ⟨eng, cmd, r.elem, 1, 1⟩ acc [])), { r with out := true }) := by
  have hne : r.reads ≠ [] := by simp [hreads]
  have htake : r.reads.take 1 = [(la, n)] := by simp [hreads]
  simp only [engSend, hout, hne, htake, Bool.false_eq_true, if_false, ne_eq, not_false_eq_true, if_true, one_ne_zero,
    engIssue_read cmd r.elem 1 hp]

/-- A command between two elements goes on with the plan of the next. -/
theorem xfeGo_plans (hend : r.ended = false) (hout : r.out = false) (hreads : r.reads = []) (hwrites : r.writes = [])
    (hplan : (xfePlan x r).ended = false) :
    xfeGo s core x r = setXRun (engSend s x.iss (.xfe core) x.id (xfePlan x r).elem 1 x.wireDict (xfePlan x r)).1 core
      (engSend s x.iss (.xfe core) x.id (xfePlan x r).elem 1 x.wireDict (xfePlan x r)).2 := by
  have hidle : ¬(r.ended ∨ r.out ∨ r.reads ≠ [] ∨ r.writes ≠ []) := by simp [hend, hout, hreads, hwrites]
  simp only [xfeGo, if_neg hidle, hplan, Bool.false_eq_true, if_false]

theorem xfeGo_copy {rest : List (Nat × Nat)} (hform : x.form = 0) (hmode : x.mode = 0) (hrec : x.srec = false) (hend : r.ended = false)
    (hout : r.out = false) (hreads : r.reads = []) (hwrites : r.writes = []) (hstop : r.stop = none) (hmore : r.elem < r.total)
    (hla : x.sideLa (x.srcPlace r r.elem) x.es needRD 1 = .ok la) (hcuts : lineCuts 3 la x.es = (la, n) :: rest)
    (hp : engPhysical s (.xfe core) (coreOf x.iss.slot) x.iss.asid la needR = .ok s1 pa acc) :
    xfeGo s core x r =
      setXRun (sendMsg s1 (accessMsg s1 (.xfe core) x.iss pa (.engRead pa n [] ⟨.xfe core, x.id, r.elem, 1, 1⟩ acc []))) core
        { r with reads := (la, n) :: rest, got := [], out := true } := by
  have hplan : xfePlan x r = { r with reads := (la, n) :: rest, got := [] } := hcuts ▸ xfePlan_copy hform hmode hrec hstop hmore hla
  have hsend := engSend_read (r := xfePlan x r) x.id (xfePlan x r).elem x.wireDict (hplan ▸ hout) (by rw [hplan]) hp
  rw [xfeGo_plans hend hout hreads hwrites (hplan ▸ hend), hsend, hplan]

theorem data_plain (e : Nat) (hform : x.form ≠ 3) (hmode : x.mode = 0) : x.data r e = r.got := by
  rw [XCmd.data, if_neg hform, if_pos hmode]

/-- A byte of a field of eight bits. -/
theorem ofNat_bitF_byte (v : Word) (lo : Nat) : BitVec.ofNat 8 (bitF v lo 8) = BitVec.ofNat 8 (v.toNat / 2 ^ lo) :=
  BitVec.eq_of_toNat_eq (by simp [bitF])

theorem data_fill (e : Nat) (hform : x.form = 3) :
    x.data r e = (rangeFrom 0 x.ed).map fun i => BitVec.ofNat 8 (x.fillv.toNat / 2 ^ (8 * (i % 8))) := by
  rw [XCmd.data, if_pos hform]
  exact List.map_congr_left fun i _ => ofNat_bitF_byte _ _

/-! The end of a command (R161, R165, R167, R168). -/

theorem exec_xfeCommandEnd (hq : (coreAt s core).xq.head? = some x) (hrun : x.run = some r) (hend : r.ended = true) (hf : r.fault = none)
    (hio : x.io = EngIo.reset) : exec (.xfeCommandEnd core) s = .next (xfeClose s core x r) := by
  change execXfeCommandEnd core s = _
  have hhead : xfeHead s core = some x := hq
  simp only [execXfeCommandEnd, hhead, hrun, hend, hf, hio]
  rfl

section
variable (hal : x.iss.at x.stamp % 8 = 0)
include hal

/-- A command that has ended without a fault writes its stamp. -/
theorem xfeClose_writes (hf : r.fault = none) (hio : x.io = EngIo.reset) (hwire : x.wire = false)
    (hp : engPhysical s (.xfe core) (coreOf x.iss.slot) x.iss.asid (x.iss.at x.stamp) needW = .ok s1 pa acc) :
    xfeClose s core x r = setXIo (sendMsg s1 (accessMsg s1 (.xfe core) x.iss pa
      (.engWrite pa (wordLE 8 (stampWord 0 x.seq)) ⟨.xfe core, x.id, 0, 1, 1⟩ acc none []))) core
        ⟨some (x.iss.at x.stamp, pa), [], true⟩ := by
  have hlog : x.io.log = [] := congrArg EngIo.log hio
  have hdict : x.wireDict = none := by simp [XCmd.wireDict, hwire]
  simp only [xfeClose, hlog, stampEnd_unasked _ _ _ _ _ hal, hf, hdict, engAsk_write x.id 0 1 hp]
  rfl

/-- With its stamp performed the command leaves. -/
theorem xfeClose_performed (hlog : x.io.log = [.done 1]) : xfeClose s core x r = xfeLeave s core x := by
  simp only [xfeClose, hlog, stampEnd_performed _ _ _ _ _ hal]

/-- With its stamp refused it leaves too, and raises 0x40. -/
theorem xfeClose_refused {c l : Nat} (hlog : x.io.log = [.fault c l pa]) :
    xfeClose s core x r = xfeLeave (raiseEvent s core 0x40 (nw pa)) core x := by
  simp only [xfeClose, hlog, stampEnd_refused _ _ _ _ _ hal, id_eq, ite_self]

end

/-- The answer to the write of a stamp. -/
theorem xfeWriteDone_stamp (hq : (coreAt s core).xq.head? = some x) (hrun : x.run = some r) (hio : x.io.out.isSome = true) (piece : Nat)
    (err : Option Nat) : xfeWriteDone s core x.id piece err =
      xfeClose (setXIo s core (x.io.wrote piece err)) core { x with io := x.io.wrote piece err } r := by
  have hhead : xfeHead s core = some x := hq
  simp only [xfeWriteDone, hhead, hrun, hio, ne_eq, not_true_eq_false, if_false, if_true]

theorem xfeLeave_ungated (h : x.stv = false) :
    xfeLeave s core x = endCmd (modCore s core fun c => { c with xq := c.xq.drop 1 }) x.iss.slot x.id := by
  rw [xfeLeave, h]
  rfl

/-- A fault is reported in the registers of the issuing thread, while its slot holds it (R167). -/
theorem exec_xfeFault {f : EngFault} (hq : (coreAt s core).xq.head? = some x) (hrun : x.run = some r) (hf : r.fault = some f)
    (hio : x.io = EngIo.reset) : exec (.xfeFault core) s = .next (xfeClose (if x.iss.lives s = true then
      modSlot s x.iss.slot fun y => (y.setCreg 0x4A (nw f.elem)).setCreg 0x4B (nw f.la) else s) core x r) := by
  change execXfeFault core s = _
  have hhead : xfeHead s core = some x := hq
  simp only [execXfeFault, hhead, hrun, hf, hio]
  rfl

end

end Sys2Proof.Machine

namespace Sys2Proof.Claims

open Sys2Proof.Machine

/-- Settles O45: the forms by their checks and their queue, and a command by what it reads first, its elements and its stamp. -/
theorem transferEngine : Obligations.TransferEngine := by
  refine ⟨⟨?xset, ?xcopy, ?xgather, ?xscatter, ?xfill, ?mode, ?codebook, ?binds, ?drops, ?bindWaits, ?dropWaits⟩,
    ?start, ?copy, ?plain, ?fill, ?commandEnd, ?stamped, ?leave, ?fault⟩
  case xset => exact fun a t k s va y h => exec_xset h
  case xcopy => exact fun a b t => issuesXfe_of_xfeIssue fun _ => rfl
  case xgather => exact fun a b t => issuesXfe_of_xfeIssue fun _ => rfl
  case xscatter => exact fun a b t => issuesXfe_of_xfeIssue fun _ => rfl
  case xfill => exact fun a t => issuesXfe_of_xfeIssue fun _ => rfl
  case mode => exact fun s x h => xfeCheck_mode_three s h
  case codebook => exact fun s x hf hm hcb => xfeCheck_no_codebook s hf hm hcb
  case binds => exact fun a b t s va vb y h hn hp => exec_xlrec_binds h hn hp
  case drops => exact fun a t s va y h hn => exec_xlflush_drops h hn
  case bindWaits => exact fun a b t s va vb y h hn => exec_xlrec_waits h hn
  case dropWaits => exact fun a t s va y h hn => exec_xlflush_waits h hn
  case start =>
    rintro core s x u hq hrun hio hbar rfl
    have hstart := exec_xfeCommandStart hq hrun hio hbar
    exact ⟨fun r n log hinit => hstart.trans (congrArg Host.Outcome.next (xfeBegin_ready hio hinit)),
      fun la n s1 pa acc hinit hp => hstart.trans (congrArg Host.Outcome.next (xfeBegin_reads hio hinit hp))⟩
  case copy =>
    intro core s x r la n rest s1 pa acc hform hmode hrec hend hout hreads hwrites hstop hmore hla hcuts hp
    exact xfeGo_copy hform hmode hrec hend hout hreads hwrites hstop hmore hla hcuts hp
  case plain => exact fun x r e hform hmode => data_plain e hform hmode
  case fill => exact fun x r e hform => data_fill e hform
  case commandEnd =>
    rintro core s x r la s1 pa acc hq hrun hend hf hio rfl hal hwire hp
    exact (exec_xfeCommandEnd hq hrun hend hf hio).trans (congrArg Host.Outcome.next (xfeClose_writes hal hf hio hwire hp))
  case stamped =>
    rintro core s x r la pa hq hrun hio rfl hal
    have hdone := xfeWriteDone_stamp hq hrun (congrArg (fun io => io.out.isSome) hio)
    simp only [hdone, hio]
    exact ⟨xfeClose_performed hal rfl, fun k => xfeClose_refused hal rfl⟩
  case leave => exact fun core s x h => xfeLeave_ungated h
  case fault =>
    intro core s x r f hq hrun hf hio
    have hfault := exec_xfeFault hq hrun hf hio
    exact ⟨fun hlives => by rw [hfault, if_pos hlives], fun hlives => by rw [hfault, if_neg (ne_true_of_eq_false hlives)]⟩

end Sys2Proof.Claims
end

section
/-! Streams, tiles, the relay and `mwait` (R160, R169, R172 to R176). First the forms that read a structure before they act; then the stream engine,
the TILE forms with their CSP, and the relay. -/

namespace Sys2Proof.Machine

open Sys2Proof.Claims

/-! A slot that has only kept what it read in its own LM (R314). -/

section
variable {s u : State} (h : OnlyKept s u)
include h

theorem cur_of_onlyKept : u.cur = s.cur := by
  obtain rfl | ⟨tr, rfl⟩ := h <;> rfl

theorem fresh_of_onlyKept : u.fresh = s.fresh := by
  obtain rfl | ⟨tr, rfl⟩ := h <;> rfl

theorem issuerOf_of_onlyKept : issuerOf u s.cur = issuerOf s s.cur := by
  obtain rfl | ⟨tr, rfl⟩ := h
  · rfl
  · rw [issuerOf, slotAt_modSlot_self]
    rfl

end

/-! Stream mode (R173). -/

section
variable {s : State} {d : BitVec 2} {a : GReg} {t : Bool} {va : Word} {y : Slot}

section
variable {ws left : List Word} {bs : List Byte} {u : State}

/-- What `strm` does with the bytes of its descriptor. -/
def strmOffer (z : State) (d : BitVec 2) (a : GReg) (t : Bool) (p : Word) (bs : List Byte) : Res :=
  if !sdOk (dwords 4 bs) then .trap 0x42 (nw ((issuerOf z z.cur).at p))
  else .done (modSlot { z with fresh := z.fresh + 1 } z.cur fun x =>
    (x.takeIf t a.toNat).enterStream d.toNat z.fresh (issuerOf z z.cur) (dwords 4 bs))

theorem strmOffer_ok {z : State} {p : Word} (h : sdOk (dwords 4 bs) = true) : strmOffer z d a t p bs =
    .done (modSlot { z with fresh := z.fresh + 1 } z.cur fun x =>
      (x.takeIf t a.toNat).enterStream d.toNat z.fresh (issuerOf z z.cur) (dwords 4 bs)) := by
  rw [strmOffer, h]
  rfl

theorem strmOffer_bad {z : State} {p : Word} (h : sdOk (dwords 4 bs) = false) :
    strmOffer z d a t p bs = .trap 0x42 (nw ((issuerOf z z.cur).at p)) := by
  rw [strmOffer, h]
  rfl

theorem exec_strm (h : Reads s [a] none [va] y) (hpend : bitOf y.pend (24 + d.toNat) = false) (hoff : (y.stream d.toNat).on = false)
    (hhas : Has y ws) (hread : ReadsBytes (popped s y) ws va 0 32 16 left bs u) :
    exec (.strm d a t) s = endsAs s (strmOffer u d a t va bs) := by
  have hp : bitOf (slotAt (popped s y) (popped s y).cur).pend (streamReg d) = false := by
    rw [popped_cur, slotAt_popped]
    exact hpend
  have ho : ((slotAt (popped s y) (popped s y).cur).stream d.toNat).on = false := by
    rw [popped_cur, slotAt_popped]
    exact hoff
  refine (next_withOps h _).trans (congrArg (endsAs s) ?_)
  simp only [hp, ho, Bool.false_eq_true, if_false]
  exact (withAnswers_none (has_popped hhas) _).trans (hread.2 _)

end

theorem exec_strmoff_off (h : Reads s [a] none [va] y) (hoff : (y.stream d.toNat).on = false) :
    exec (.strmoff d a t) s = traps s 0x42 (nw (24 + d.toNat)) := by
  refine (next_withOps h _).trans (traps_of_trap ?_)
  simp only [popped_cur, slotAt_popped, hoff]
  rfl

/-- A stream without a fault to report and with nothing left to write is left, and g0 names no place for its descriptor (R173). -/
theorem exec_strmoff_leaves (h : Reads s [0#5] none [va] y) (hon : (y.stream d.toNat).on = true) (hf : (y.stream d.toNat).fault = none)
    (hempty : (y.stream d.toNat).writes = false ∨ (y.stream d.toNat).fifo = []) :
    exec (.strmoff d 0#5 t) s = completes s (modSlot (popped s y) s.cur fun x =>
      ((x.takeIf t 0).leaveStream d.toNat).setReg (24 + d.toNat) (nw (y.stream d.toNat).pos)) := by
  have hdrained : ¬((y.stream d.toNat).writes ∧ (y.stream d.toNat).fifo ≠ []) := by
    rcases hempty with he | he <;> simp [he]
  refine (next_withOps h _).trans (completes_of_done ?_)
  simp only [popped_cur, slotAt_popped, hon, hf, if_neg hdrained]
  rfl

end

/-! The stream engine (R174). -/

section
variable {s u : State} {k st : Nat} {t : Stream} {la pa a : Nat} {acc : Acc}

theorem streamAsk_read (h : engPhysical s (.strm (coreOf k)) (coreOf t.iss.slot) t.iss.asid a needR = .ok u pa acc) (n : Nat) :
    streamAsk s k st t (.read [(a, n)]) = modSlot (sendMsg u (accessMsg u (.strm (coreOf k)) t.iss pa
      (.engRead pa n [] ⟨.strm (coreOf k), t.id, 4 * k + st, 1, 8⟩ acc []))) k fun x =>
        x.setStream st { t with io := { t.io with out := some (a, pa) } } := by
  rw [streamAsk, engAsk_read t.id (4 * k + st) 8 h]
  rfl

theorem streamAsk_write (h : engPhysical s (.strm (coreOf k)) (coreOf t.iss.slot) t.iss.asid a needW = .ok u pa acc) (bs : List Byte) :
    streamAsk s k st t (.write [(a, bs)]) = modSlot (sendMsg u (accessMsg u (.strm (coreOf k)) t.iss pa
      (.engWrite pa bs ⟨.strm (coreOf k), t.id, 4 * k + st, 1, 8⟩ acc none []))) k fun x =>
        x.setStream st { t with io := { t.io with out := some (a, pa) } } := by
  rw [streamAsk, engAsk_write t.id (4 * k + st) 8 h]
  rfl

section
variable (hon : t.on = true) (hw : t.writes = false) (hhalt : t.halted = false) (hroom : t.fifo.length < 8) (hnext : t.next < t.count)
  (hout : t.io.out = none)
include hon hw hhalt hroom hnext hout

/-- A read stream with room for an element that is still to come is not held back. -/
theorem fetch_free : ¬(!t.on ∨ t.writes ∨ t.halted ∨ 8 ≤ t.fifo.length ∨ t.count ≤ t.next ∨ t.io.out.isSome) := by
  simp [hon, hw, hhalt, hroom, hnext, hout]

variable (hla : t.elemLa t.next = .ok la)
include hla

theorem fetchGo_value {bs : List Byte} {l : List EngAns} (h : engBytes t.io.log la t.esz = .ok bs l) :
    fetchGo s k st t = modSlot s k fun x => x.setStream st
      { t with fifo := t.fifo ++ [⟨extend t.esz t.sx bs, false⟩], next := t.next + 1, io := EngIo.reset } := by
  simp only [fetchGo, if_neg (fetch_free hon hw hhalt hroom hnext hout), hla, h]
  rfl

theorem fetchGo_asks {w : EngNeed} (h : engBytes t.io.log la t.esz = .need w) : fetchGo s k st t = streamAsk s k st t w := by
  simp only [fetchGo, if_neg (fetch_free hon hw hhalt hroom hnext hout), hla, h]

end

section
variable (hon : t.on = true) (hw : t.writes = true) (hout : t.io.out = none)
include hon hw hout

/-- A write stream with no access out is not held back. -/
theorem push_free : ¬(!t.on ∨ !t.writes ∨ t.io.out.isSome) := by
  simp [hon, hw, hout]

variable {e : FifoEl} {es : List FifoEl} (hf : t.fifo = e :: es)
include hf

/-- A poisoned element is written nowhere, and is a write fault (R174, R374). -/
theorem pushGo_poisoned (he : e.pois = true) : pushGo s k st t = modSlot s k fun x => x.setStream st { t with
    fifo := [], pos := t.next, fault := some (e.v.toNat / 2 ^ 57, nw (e.v.toNat % 2 ^ 56)), io := EngIo.reset } := by
  simp only [pushGo, hf, if_neg (push_free hon hw hout), he, if_true, bitF_zero, bitF_high e.v (lo := 57) (n := 7) rfl]
  rfl

section
variable (he : e.pois = false) (hla : t.elemLa t.next = .ok la)
include he hla

theorem pushGo_performed {l : List EngAns} (h : engPut t.io.log la (wordLE t.esz e.v) = .ok () l) :
    pushGo s k st t = modSlot s k fun x => x.setStream st { t with fifo := es, next := t.next + 1, io := EngIo.reset } := by
  simp only [pushGo, hf, if_neg (push_free hon hw hout), he, Bool.false_eq_true, if_false, hla, h]
  rfl

theorem pushGo_asks {w : EngNeed} (h : engPut t.io.log la (wordLE t.esz e.v) = .need w) : pushGo s k st t = streamAsk s k st t w := by
  simp only [pushGo, hf, if_neg (push_free hon hw hout), he, Bool.false_eq_true, if_false, hla, h]

end
end
end

/-! The TILE forms at their thread (R160). -/

section
variable {z : State} {ws : List Word} {form : Nat} {n : BitVec 6} {v : Word} {done : State → State}

/-- Until the CSP answers that the form is performed, it is asked. -/
theorem tileForm_asks (hhas : Has (slotAt z z.cur) ws) (hlast : ws.getLast? ≠ some 0#64) :
    tileForm z form n v done = askMore z (.csp (myCl z)) (.tileReq form n.toNat v) 8 := by
  rw [tileForm, withAnswers_none hhas, if_neg hlast]
  rfl

theorem tileForm_performed (hans : Answered (slotAt z z.cur) ws) (hlast : ws.getLast? = some 0#64) :
    tileForm z form n v done = .done (done z) := by
  rw [tileForm, withAnswers_none (.inr hans), if_pos hlast]

theorem tileForm_traps {tr : Trip} {c : Nat} {w : Word} (htrip : (slotAt z z.cur).trip = some tr) (hneed : tr.need = 0)
    (htrap : tr.trap = some (c, w)) : tileForm z form n v done = .trap c w :=
  withAnswers_trap htrip hneed htrap _

/-- A TILE form that reads an operand. -/
theorem asksTile_of_tileForm {s : State} {a : GReg} {t : Bool} {va : Word} {y : Slot} {i : Instr} (h : Reads s [a] none [va] y)
    (hi : exec i s = endsAs s (tileForm (popped s y) form n va fun z => modSlot z z.cur fun x => x.takeIf t a.toNat)) :
    AsksTile s i y form n va (completes s (took (popped s y) a t)) := by
  refine ⟨fun ws hhas hlast => asks_of_askMore h ?_, fun ws hans hlast => ?_, fun tr c w htrip hneed htrap => ?_⟩
  · rw [hi, tileForm_asks (has_popped hhas) hlast]
    rfl
  · rw [hi, tileForm_performed (answered_popped hans) hlast]
    exact completes_of_done rfl
  · rw [hi, tileForm_traps ((congrArg Slot.trip (slotAt_popped s y)).trans htrip) hneed htrap]
    exact traps_of_trap rfl

/-- A range that is not aligned, or that passes the end of the CSP, is no tile's (R160). -/
def tileRangeBad (v : Word) : Prop :=
  v.toNat % 2 ^ 21 % 64 ≠ 0 ∨ v.toNat / 2 ^ 22 % 2 ^ 22 % 64 ≠ 0 ∨ 2097152 < v.toNat % 2 ^ 21 + v.toNat / 2 ^ 22 % 2 ^ 22

theorem exec_tdecl {s : State} {a : GReg} {t : Bool} {va : Word} {y : Slot} (h : Reads s [a] none [va] y) (hok : ¬ tileRangeBad va) :
    exec (.tdecl n a t) s = endsAs s (tileForm (popped s y) 0 n va fun z => modSlot z z.cur fun x => x.takeIf t a.toNat) := by
  refine (next_withOps h _).trans (congrArg (endsAs s) (if_neg ?_))
  simpa [tileRangeBad, bitF, or_assoc] using hok

theorem exec_tdecl_bad {s : State} {a : GReg} {t : Bool} {va : Word} {y : Slot} (h : Reads s [a] none [va] y) (hbad : tileRangeBad va) :
    exec (.tdecl n a t) s = traps s 0x10 va := by
  refine (next_withOps h _).trans (traps_of_trap (if_pos ?_))
  simpa [tileRangeBad, bitF, or_assoc] using hbad

/-- An instruction without operands that sends one more request. -/
theorem asks_of_finish_askMore {s : State} {i : Instr} {agent : Agent} {b : Body} {m : Nat}
    (h : exec i s = .next (finish s s.cur (askMore s agent b m))) : Asks s i agent b m := by
  rintro tag msg htag hbar rfl
  obtain ⟨w, tr, hask, hneed, hw⟩ := askMore_free (dst := agent) (n := m) htag hbar
  rw [hask] at h
  refine ⟨_, tr, h, rfl, ?_⟩
  obtain rfl | rfl := hw
  all_goals simp [finish_park, requested, reqAt_setReq_ni, hneed]

theorem asksTile_trel (n : BitVec 6) (s : State) : AsksTile s (.trel n) (slotAt s s.cur) 3 n 0#64 (completes s s) := by
  have hi : exec (.trel n) s = .next (finish s s.cur (tileForm s 3 n 0#64 id)) := rfl
  refine ⟨fun ws hhas hlast => asks_of_finish_askMore ?_, fun ws hans hlast => ?_, fun tr c w htrip hneed htrap => ?_⟩
  · rw [hi, tileForm_asks hhas hlast]
  · rw [hi, tileForm_performed hans hlast]
    rfl
  · rw [hi, tileForm_traps htrip hneed htrap]
    rfl

end

/-! The TILE forms at their CSP (R159, R160). -/

section
variable {s : State} {i cl form n : Nat} {m : Msg} {v : Word}

theorem exec_loadRequest_tile (h : TileReqAt s i m cl form n v) :
    exec (.loadRequest i) s = .next (tilePerform (dropMsg s i) m cl form n v) := by
  obtain ⟨harr, hbody, hdst, hwrote⟩ := h
  change execLoadRequest i s = _
  simp only [execLoadRequest, homeLoad, harr, hbody, hdst, if_neg hwrote]

section
variable (h : TileReqAt s i m cl form n v)
include h

theorem exec_loadRequest_tile_refuses {c a : Nat} (hd : tileDo (clusterAt s cl) form n v = .error (c, a)) :
    exec (.loadRequest i) s = tileRefuses s i m c a := by
  have hd' : tileDo (clusterAt (dropMsg s i) cl) form n v = .error (c, a) := hd
  rw [exec_loadRequest_tile h, tilePerform, hd']
  rfl

theorem exec_loadRequest_tile_sets {e : Tile} (hd : tileDo (clusterAt s cl) form n v = .ok (setTile (clusterAt s cl) n e, true)) :
    exec (.loadRequest i) s = tileDone s i m cl n (some e) false := by
  have hd' : tileDo (clusterAt (dropMsg s i) cl) form n v = .ok (setTile (clusterAt s cl) n e, true) := hd
  rw [exec_loadRequest_tile h, tilePerform, hd']
  rfl

theorem exec_loadRequest_tile_keeps {ok : Bool} (hd : tileDo (clusterAt s cl) form n v = .ok (clusterAt s cl, ok)) :
    exec (.loadRequest i) s = tileDone s i m cl n none (!ok) := by
  have hd' : tileDo (clusterAt (dropMsg s i) cl) form n v = .ok (clusterAt s cl, ok) := hd
  rw [exec_loadRequest_tile h, tilePerform, hd']
  rfl

end
end

section
variable {c : Cluster} {n off sz : Nat} {v : Word}

section
variable (hidle : ¬((tileAt c n).v = true ∧ (tileAt c n).st ≠ 0))
include hidle

/-- A tile is declared where it overlaps no other. -/
theorem tileDo_declares (hoff : off = v.toNat % 2 ^ 21) (hsz : sz = v.toNat / 2 ^ 22 % 2 ^ 22) (hne : sz ≠ 0)
    (hfree : tileOverlap c n off sz = none) :
    tileDo c 0 n v = .ok (setTile c n ⟨true, off, sz, 0, 0, 0, false, 0, false⟩, true) := by
  have hoff' : bitF v 0 21 = off := (bitF_zero v 21).trans hoff.symm
  have hsz' : bitF v 22 22 = sz := hsz.symm
  simp only [tileDo, tileDeclare, if_neg hidle, hoff', hsz', if_neg hne, hfree, if_true]
  rfl

theorem tileDo_overlaps {w : Nat} (hoff : off = v.toNat % 2 ^ 21) (hsz : sz = v.toNat / 2 ^ 22 % 2 ^ 22) (hne : sz ≠ 0)
    (hover : tileOverlap c n off sz = some w) : tileDo c 0 n v = .error (0x35, w * 256 + n) := by
  have hoff' : bitF v 0 21 = off := (bitF_zero v 21).trans hoff.symm
  have hsz' : bitF v 22 22 = sz := hsz.symm
  simp only [tileDo, tileDeclare, if_neg hidle, hoff', hsz', if_neg hne, hover, if_true]
  rfl

/-- A tile of size 0 is undeclared. -/
theorem tileDo_undeclares (hsz : v.toNat / 2 ^ 22 % 2 ^ 22 = 0) (hv : (tileAt c n).v = true) :
    tileDo c 0 n v = .ok (setTile c n { tileAt c n with v := false }, true) := by
  have hsz' : bitF v 22 22 = 0 := hsz
  simp only [tileDo, tileDeclare, if_neg hidle, hsz', if_true]
  rw [hv]
  rfl

end

section
variable (hv : (tileAt c n).v = true)
include hv

theorem tileDo_declare_busy (hst : (tileAt c n).st ≠ 0) : tileDo c 0 n v = .error (0x35, n) := by
  simp only [tileDo, tileDeclare, if_pos (And.intro hv hst), if_true]
  rfl

theorem tileDo_arm_busy (hst : (tileAt c n).st ≠ 0) : tileDo c 1 n v = .error (0x35, n) := by
  simp only [tileDo, tileArm, hv, if_pos hst]
  rfl

theorem tileDo_arms (hst : (tileAt c n).st = 0) (hk : v.toNat % 2 ^ 32 ≠ 0) : tileDo c 1 n v =
    .ok (setTile c n { tileAt c n with exp := v.toNat % 2 ^ 32, left := v.toNat % 2 ^ 32, ovr := false, st := 1 }, true) := by
  have hbusy : ¬ (tileAt c n).st ≠ 0 := not_not_intro hst
  simp only [tileDo, tileArm, hv, if_neg hbusy, bitF_zero, if_neg hk]
  rfl

theorem tileDo_arms_empty (hst : (tileAt c n).st = 0) (hk : v.toNat % 2 ^ 32 = 0) : tileDo c 1 n v =
    .ok (setTile c n { tileAt c n with exp := 0, ovr := false, ph := !(tileAt c n).ph, st := 2 }, true) := by
  have hbusy : ¬ (tileAt c n).st ≠ 0 := not_not_intro hst
  simp only [tileDo, tileArm, hv, if_neg hbusy, bitF_zero, if_pos hk]
  rfl

theorem tileDo_wait_over (hst : (tileAt c n).st = 2 ∨ (tileAt c n).st = 3) (hph : (tileAt c n).ph = v.getLsbD 0) :
    tileDo c 2 n v = .ok (c, true) := by
  simp only [tileDo, hv, bitB, hst, hph]
  rfl

theorem tileDo_wait_on (hno : (tileAt c n).st < 2 ∨ (tileAt c n).ph = !v.getLsbD 0) : tileDo c 2 n v = .ok (c, false) := by
  have hoff : (decide ((tileAt c n).st = 2 ∨ (tileAt c n).st = 3) && decide ((tileAt c n).ph = bitB v 0)) = false := by
    rcases hno with hst | hph
    · have hne : ¬((tileAt c n).st = 2 ∨ (tileAt c n).st = 3) := by omega
      simp only [hne, decide_false, Bool.false_and]
    · simp [hph, bitB]
  simp only [tileDo, hv, hoff]
  rfl

theorem tileDo_release : tileDo c 3 n v = if (tileAt c n).st = 1 then .error (0x35, n) else if (tileAt c n).st = 3 then .ok (c, false)
    else .ok (if (tileAt c n).st = 2 then setTile c n { tileAt c n with st := 0 } else c, true) := by
  simp only [tileDo, hv]
  rfl

end

/-- Every form but `tdecl` traps at an undeclared tile. -/
theorem tileDo_undeclared {form : Nat} (hform : form = 1 ∨ form = 2 ∨ form = 3) (hv : (tileAt c n).v = false) :
    tileDo c form n v = .error (0x34, n) := by
  rcases hform with rfl | rfl | rfl
  · simp only [tileDo, tileArm, hv]
    rfl
  · simp only [tileDo, hv]
    rfl
  · simp only [tileDo, hv]
    rfl

end

/-! The relay (R175, R176). -/

/-- What `colgo` does with the dwords of its descriptor at `p`, and the sequence number of its stamp. -/
def colOffer (z : State) (a : GReg) (t : Bool) (p : Word) (seq : Nat) (ds : List Word) : Res :=
  let iss := issuerOf z z.cur
  if colBad z iss ds then .trap 0x45 (nw (iss.at p))
  else match ptrRows iss (flatUse (val ds 1) 8 needWD 8 :: (colBufs ds).map fun q => flatUse q (4 * colLen ds) needRWD 4) with
    | some (c, v) => .trap c v
    | none =>
      if 8 ≤ (towerAt z (slotTower z.cur)).cle.length then .park z
      else .done (modSlot (modTower { z with fresh := z.fresh + 1 } (slotTower z.cur) fun x => { x with
          cle := x.cle ++ [⟨z.fresh, iss, (val ds 0).toNat % 4, colLen ds, iss.at (val ds 1), (colBufs ds).map iss.at, seq, false, none,
            EngIo.reset⟩] }) z.cur fun x => { x.takeIf t a.toNat with cmds := x.cmds ++ [⟨z.fresh, 2, false⟩] })

section
variable {z : State} {a : GReg} {t : Bool} {p : Word} {seq : Nat} {ds : List Word}

theorem colOffer_bad (h : colBad z (issuerOf z z.cur) ds = true) : colOffer z a t p seq ds = .trap 0x45 (nw ((issuerOf z z.cur).at p)) :=
  if_pos h

section
variable (hok : colBad z (issuerOf z z.cur) ds = false) (hptr : ptrRows (issuerOf z z.cur)
  (flatUse (val ds 1) 8 needWD 8 :: (colBufs ds).map fun q => flatUse q (4 * colLen ds) needRWD 4) = none)
include hok hptr

theorem colOffer_queues (hroom : (towerAt z (slotTower z.cur)).cle.length < 8) : colOffer z a t p seq ds =
    .done (modSlot (modTower { z with fresh := z.fresh + 1 } (slotTower z.cur) fun x => { x with
      cle := x.cle ++ [⟨z.fresh, issuerOf z z.cur, (val ds 0).toNat % 4, colLen ds, (issuerOf z z.cur).at (val ds 1),
        (colBufs ds).map (issuerOf z z.cur).at, seq, false, none, EngIo.reset⟩] }) z.cur fun x =>
          { x.takeIf t a.toNat with cmds := x.cmds ++ [⟨z.fresh, 2, false⟩] }) := by
  simp only [colOffer, hok, hptr, if_neg (Nat.not_le.mpr hroom), Bool.false_eq_true, if_false]

theorem colOffer_full (hfull : 8 ≤ (towerAt z (slotTower z.cur)).cle.length) : colOffer z a t p seq ds = .park z := by
  simp only [colOffer, hok, hptr, if_pos hfull, Bool.false_eq_true, if_false]

end
end

section
variable {s u z : State} {a b : GReg} {t : Bool} {va vb : Word} {y : Slot} {ws ws1 ws2 : List Word} {hd bs : List Byte} {n : Nat}

theorem exec_colgo (h : Reads s [a, b] none [va, vb] y) (hhas : Has y ws) (hhead : ReadsBytes (popped s y) ws va 0 32 8 ws1 hd u)
    (hn : n = colN (dwords 4 hd)) (hbufs : ReadsBytes u ws1 va 32 (8 * n) 8 ws2 bs z) :
    exec (.colgo a b t) s = endsAs s (colOffer z a t va (vb.toNat % 2 ^ 32) (dwords (4 + n) (hd ++ bs))) := by
  subst hn
  refine (next_withOps h _).trans (congrArg (endsAs s) ((withAnswers_none (has_popped hhas) _).trans ((hhead.2 _).trans ((hbufs.2 _).trans ?_))))
  have hop : bitF (val (dwords (4 + colN (dwords 4 hd)) (hd ++ bs)) 0) 0 2 = (val (dwords (4 + colN (dwords 4 hd)) (hd ++ bs)) 0).toNat % 4 :=
    bitF_zero _ 2
  rw [colOffer, ← bitF_zero, ← hop]
  rfl

theorem exec_cleCollectiveStart {tower : Nat} {c : ColCmd} {cs : List ColCmd} (hq : (towerAt s tower).cle = c :: cs) (hrun : c.running = false)
    (hbar : barsHold (coreAt s (coreOf c.iss.slot)) c.iss.bars = false) :
    exec (.cleCollectiveStart tower) s = .next (modTower s tower fun w => { w with cle := { c with running := true } :: cs }) := by
  change execCleCollectiveStart tower s = _
  simp only [execCleCollectiveStart, hq, hrun, hbar, Bool.false_eq_true, or_self, if_false]

section
variable {tower : Nat} {c : ColCmd} {cs : List ColCmd} (hrun : c.running = true) (hout : c.io.out = none)
include hrun hout

/-- A running collective with no access out is not held back. -/
theorem col_free : ¬(!c.running ∨ c.io.out.isSome) := by
  simp [hrun, hout]

variable (hq : (towerAt s tower).cle = c :: cs) (hf : c.fault = none)
include hq hf

/-- A running collective makes its next access. -/
theorem exec_cleCollectiveEnd_reads {la m pa : Nat} {acc : Acc} (htold : c.io.told = false) (hneed : colRun s c c.io.log = .need (.read [(la, m)]))
    (hp : engPhysical s (.cle tower) (coreOf c.iss.slot) c.iss.asid la needR = .ok u pa acc) :
    exec (.cleCollectiveEnd tower) s = .next (setCol (sendMsg u (accessMsg u (.cle tower) c.iss pa
      (.engRead pa m [] ⟨.cle tower, c.id, 0, 1, 4⟩ acc []))) tower { c with io := { c.io with out := some (la, pa) } }) := by
  change execCleCollectiveEnd tower s = _
  simp only [execCleCollectiveEnd, hq, cleGo, if_neg (col_free hrun hout), hf, htold, Bool.false_eq_true, if_false, hneed, engAsk_read c.id 0 4 hp]

/-- With its stamp performed a collective leaves, and counts (R176). -/
theorem exec_cleCollectiveEnd_leaves (htold : c.io.told = true) (hlog : c.io.log = [.done 1]) (hal : c.stamp % 8 = 0) :
    exec (.cleCollectiveEnd tower) s = .next (endCmd (modTower s tower fun w =>
      { w.setCreg 0x3C0 (addF (w.creg 0x3C0) 32 32 1) with cle := w.cle.drop 1 }) c.iss.slot c.id) := by
  change execCleCollectiveEnd tower s = _
  simp only [execCleCollectiveEnd, hq, cleGo, if_neg (col_free hrun hout), hf, htold, if_true, hlog, stampEnd_performed _ _ _ _ _ hal]

end
end

/-! Waiting for a stamp (R169). -/

/-- An access to the own LM is no baton pass (R150). -/
theorem attracts_of_own {s : State} {k seg pa off : Nat} (h : ownLm s (coreOf k) pa = .own off) : attracts s k seg pa = false := by
  obtain ⟨cl, lc, o, f, hplace, hat⟩ := placeOf_of_own h
  simp [attracts, lmCore, hplace, hat]

/-- What `mwait` does with the stamp word that it reads. -/
def mwaitOffer (z : State) (d a : GReg) (t : Bool) (seq : Nat) (w : Word) : Res :=
  if bitF w 62 2 = 0 ∨ 2 ^ 31 ≤ (bitF w 0 32 + 2 ^ 32 - seq) % 2 ^ 32 then .park z
  else if bitF w 62 2 = 2 then .trap (bitF w 55 7) w
  else .done (wrote z d a t w)

theorem exec_mwait {s : State} {d a b : GReg} {t : Bool} {va vb : Word} {y : Slot} {la pa off : Nat} {acc : Acc} {bs : List Byte}
    (h : Reads s [a, b] (some d) [va, vb] y) (haddr : ptrAddr (popped s y) s.cur va 8 needR = .ok la pa acc)
    (hown : ownLm (popped s y) (coreOf s.cur) pa = .own off) (hread : lmRead (popped s y) (coreOf s.cur) off 8 = .ok (popped s y) bs) :
    exec (.mwait d a b t) s = endsAs s (mwaitOffer (popped s y) d a t (bitF vb 0 32) (leWord bs)) := by
  refine (next_withOps h _).trans (congrArg (endsAs s) ((onAddr_of_atPtr ⟨haddr, attracts_of_own hown⟩ _).trans ?_))
  simp only [popped_cur, hown, hread]
  rfl

end Sys2Proof.Machine

namespace Sys2Proof.Claims

open Sys2Proof.Machine

/-- Settles O47: each form at its thread, each event of its engine, and each TILE form at its CSP by the state of the entry. -/
theorem streamTileAndRelayForms : Obligations.StreamTileAndRelayForms := by
  refine ⟨?strm, ?strmoff, ?strmoffLeaves, ?fetch, ?write, ?tiles, asksTile_trel, ?csp, ?colgo, ?start, ?commandEnd, ?mwait⟩
  case strm =>
    intro d a t s va y ws left bs u h hpend hoff hhas hread
    have hstrm := exec_strm (t := t) h hpend hoff hhas hread
    have hcur : u.cur = s.cur := cur_of_onlyKept (s := popped s y) hread.1
    have hfresh : u.fresh = s.fresh := fresh_of_onlyKept (s := popped s y) hread.1
    have hiss : issuerOf u s.cur = issuerOf (popped s y) s.cur := issuerOf_of_onlyKept hread.1
    rw [hstrm, ← hiss, ← hfresh, ← hcur]
    exact ⟨fun hok => completes_of_done (strmOffer_ok hok), fun hbad => traps_of_trap (strmOffer_bad hbad)⟩
  case strmoff => exact fun d a t s va y h hoff => exec_strmoff_off h hoff
  case strmoffLeaves => exact fun d t s va y h hon hf hempty => exec_strmoff_leaves h hon hf hempty
  case fetch =>
    rintro k st s t la rfl hon hw hhalt hroom hnext hout hla
    refine ⟨fun bs l hb => ?_, fun a n u pa acc hb hp => ?_⟩
    · exact congrArg Host.Outcome.next (fetchGo_value hon hw hhalt hroom hnext hout hla hb)
    · exact congrArg Host.Outcome.next ((fetchGo_asks hon hw hhalt hroom hnext hout hla hb).trans (streamAsk_read hp n))
  case write =>
    rintro k st s t e es la rfl hf hon hw hout
    refine ⟨fun he => congrArg Host.Outcome.next (pushGo_poisoned hon hw hout hf he),
      fun he hla => ⟨fun l hput => ?_, fun a bs u pa acc hput hp => ?_⟩⟩
    · exact congrArg Host.Outcome.next (pushGo_performed hon hw hout hf he hla hput)
    · exact congrArg Host.Outcome.next ((pushGo_asks hon hw hout hf he hla hput).trans (streamAsk_write hp bs))
  case tiles =>
    refine fun n a t s va y h => ⟨fun hoff hsz hend => ?_, exec_tdecl_bad h, ?_, ?_⟩
    · exact asksTile_of_tileForm h (exec_tdecl h (by simp only [tileRangeBad]; omega))
    · exact asksTile_of_tileForm h (next_withOps h _)
    · exact asksTile_of_tileForm h (next_withOps h _)
  case csp =>
    rintro i s m cl n v e rfl
    refine ⟨fun h => ?declare, fun h => ?arm, fun h => ?wait, fun h => ?release⟩
    case declare =>
      refine ⟨fun hv hst => exec_loadRequest_tile_refuses h (tileDo_declare_busy hv hst), fun hst off sz hoff hsz => ?_⟩
      have hidle : ¬((tileAt (clusterAt s cl) n).v = true ∧ (tileAt (clusterAt s cl) n).st ≠ 0) := fun hbusy => hbusy.2 (hst hbusy.1)
      exact ⟨fun hne hfree => exec_loadRequest_tile_sets h (tileDo_declares hidle hoff hsz hne hfree),
        fun w hne hover => exec_loadRequest_tile_refuses h (tileDo_overlaps hidle hoff hsz hne hover),
        fun hzero hv => exec_loadRequest_tile_sets h (tileDo_undeclares hidle (hsz.symm.trans hzero) hv)⟩
    case arm =>
      exact ⟨fun hv => exec_loadRequest_tile_refuses h (tileDo_undeclared (.inl rfl) hv),
        fun hv hst => exec_loadRequest_tile_refuses h (tileDo_arm_busy hv hst),
        fun hv hst hk => exec_loadRequest_tile_sets h (tileDo_arms hv hst hk),
        fun hv hst hk => exec_loadRequest_tile_sets h (tileDo_arms_empty hv hst hk)⟩
    case wait =>
      exact ⟨fun hv => exec_loadRequest_tile_refuses h (tileDo_undeclared (.inr (.inl rfl)) hv),
        fun hv hst hph => exec_loadRequest_tile_keeps h (tileDo_wait_over hv hst hph),
        fun hv hno => exec_loadRequest_tile_keeps h (tileDo_wait_on hv hno)⟩
    case release =>
      refine ⟨fun hv => exec_loadRequest_tile_refuses h (tileDo_undeclared (.inr (.inr rfl)) hv), fun hv hst => ?_, fun hv hst => ?_,
        fun hv hst => ?_, fun hv hst => ?_⟩
      · exact exec_loadRequest_tile_refuses h ((tileDo_release hv).trans (if_pos hst))
      · exact exec_loadRequest_tile_keeps (ok := false) h ((tileDo_release hv).trans (by simp [hst]))
      · exact exec_loadRequest_tile_sets h ((tileDo_release hv).trans (by simp [hst]))
      · exact exec_loadRequest_tile_keeps (ok := true) h ((tileDo_release hv).trans (by simp [hst]))
  case colgo =>
    rintro a b t s va vb y ws ws1 ws2 hd bs n ds iss u z h hhas hhead hn hbufs rfl rfl
    have hcolgo := exec_colgo (t := t) h hhas hhead hn hbufs
    have hcur : z.cur = s.cur := (cur_of_onlyKept hbufs.1).trans (cur_of_onlyKept (s := popped s y) hhead.1)
    rw [hcolgo, ← hcur]
    exact ⟨fun hbad => traps_of_trap (colOffer_bad hbad), fun hok hptr => ⟨fun hroom => completes_of_done (colOffer_queues hok hptr hroom),
      fun hfull => (congrArg (endsAs s) (colOffer_full hok hptr hfull)).trans (endsAs_park s z)⟩⟩
  case start => exact fun tower s c cs hq hrun hbar => exec_cleCollectiveStart hq hrun hbar
  case commandEnd =>
    exact fun tower s c cs hq hrun hf hout => ⟨fun la n u pa acc htold hneed hp => exec_cleCollectiveEnd_reads hrun hout hq hf htold hneed hp,
      fun htold hlog hal => exec_cleCollectiveEnd_leaves hrun hout hq hf htold hlog hal⟩
  case mwait =>
    rintro d a b t s va vb y la pa acc off bs w h haddr hown hread rfl hseq
    have hmwait := exec_mwait (t := t) h haddr hown hread
    have htop : bitF (leWord bs) 62 2 = (leWord bs).toNat / 2 ^ 62 := bitF_top _
    have hlate : ¬ 2 ^ 31 ≤ (bitF (leWord bs) 0 32 + 2 ^ 32 - bitF vb 0 32) % 2 ^ 32 := by
      rw [bitF_zero, bitF_zero]
      exact Nat.not_le.mpr hseq
    rw [mwaitOffer, htop] at hmwait
    refine ⟨fun hcome => ?_, fun herr => ?_, fun hnone => ?_⟩
    · rw [hmwait, if_neg (by omega), if_neg (by omega)]
      exact completes_of_done rfl
    · rw [hmwait, if_neg (by omega), if_pos herr]
      exact traps_of_trap rfl
    · rw [hmwait, if_pos (.inl hnone)]
      exact waits_of_park rfl

end Sys2Proof.Claims
end

section
/-! Integer instructions (R132, R133, R186 to R195). What a row of the tables of chapter 8 states follows from its form's encoding, the function that
the model computes, and that this function is the table's; then one law for each such function. -/

namespace Sys2Proof

open Sys2Proof.Machine

/-! Words as the numbers that they hold. -/

theorem add_eq_ofInt (a b : Word) : a + b = BitVec.ofInt 64 (a.toInt + b.toInt) := by
  rw [BitVec.ofInt_add, BitVec.ofInt_toInt, BitVec.ofInt_toInt]

theorem sub_eq_ofInt (a b : Word) : a - b = BitVec.ofInt 64 (a.toInt - b.toInt) := by
  rw [BitVec.sub_eq_add_neg, Int.sub_eq_add_neg, BitVec.ofInt_add, BitVec.ofInt_neg, BitVec.ofInt_toInt, BitVec.ofInt_toInt]

theorem shiftLeft_eq_ofNat (a : Word) (n : Nat) : a <<< n = BitVec.ofNat 64 (a.toNat * 2 ^ n) := by
  apply BitVec.eq_of_toNat_eq
  rw [BitVec.toNat_shiftLeft, BitVec.toNat_ofNat, Nat.shiftLeft_eq]

theorem ushiftRight_eq_ofNat (a : Word) (n : Nat) : a >>> n = BitVec.ofNat 64 (a.toNat / 2 ^ n) := by
  rw [← Nat.shiftRight_eq_div_pow, ← BitVec.toNat_ushiftRight, BitVec.ofNat_toNat, BitVec.setWidth_eq]

theorem sshiftRight_eq_ofInt (a : Word) (n : Nat) : a.sshiftRight n = BitVec.ofInt 64 (a.toInt / 2 ^ n) := by
  rw [BitVec.sshiftRight, Int.shiftRight_eq_div_pow, Nat.cast_pow, Nat.cast_ofNat]

/-- The amount of a shift of a word, and of one of its low 32 bits (R186, R188). -/
theorem bitF_shiftAmount (b : Word) : bitF b 0 6 = b.toNat % 64 := bitF_zero b 6
theorem bitF_shiftAmount32 (b : Word) : bitF b 0 5 = b.toNat % 32 := bitF_zero b 5

/-! Operations on the low 32 bits (R188). -/

section
variable (a b : Word)

theorem sextW_add : sextW 32 (a + b) = (a.setWidth 32 + b.setWidth 32).signExtend 64 := by
  rw [sextW_eq_signExtend (by decide), BitVec.setWidth_add _ _ (by decide)]

theorem sextW_sub : sextW 32 (a - b) = (a.setWidth 32 - b.setWidth 32).signExtend 64 := by
  rw [sextW_eq_signExtend (by decide), BitVec.sub_eq_add_neg, BitVec.setWidth_add _ _ (by decide), BitVec.setWidth_neg_of_le (by decide),
    BitVec.sub_eq_add_neg]

variable (n : Nat)

theorem sextW_shiftLeft : sextW 32 (a <<< n) = (a.setWidth 32 <<< n).signExtend 64 := by
  rw [sextW_eq_signExtend (by decide), BitVec.setWidth_shiftLeft_of_le (by decide)]

theorem sextW_ushiftRight : sextW 32 (zextW 32 a >>> n) = (a.setWidth 32 >>> n).signExtend 64 := by
  have hshift (x : BitVec 32) : x.setWidth 64 >>> n = (x >>> n).setWidth 64 := by
    apply BitVec.eq_of_toNat_eq
    rw [BitVec.toNat_ushiftRight, BitVec.toNat_setWidth_of_le (by decide), BitVec.toNat_setWidth_of_le (by decide), BitVec.toNat_ushiftRight]
  rw [zextW_eq_setWidth (by decide), hshift, sextW_eq_signExtend (by decide), BitVec.setWidth_setWidth_of_le _ (by decide), BitVec.setWidth_eq]

theorem sextW_sshiftRight : sextW 32 ((sextW 32 a).sshiftRight n) = ((a.setWidth 32).sshiftRight n).signExtend 64 := by
  have hshift (x : BitVec 32) : (x.signExtend 64).sshiftRight n = (x.sshiftRight n).signExtend 64 := by
    apply BitVec.eq_of_toInt_eq
    rw [BitVec.toInt_sshiftRight, BitVec.toInt_signExtend_of_le (by decide), BitVec.toInt_signExtend_of_le (by decide), BitVec.toInt_sshiftRight]
  rw [sextW_eq_signExtend (by decide) a, hshift, sextW_eq_signExtend (by decide), setWidth_signExtend (by decide)]

end

end Sys2Proof

namespace Sys2Proof.Machine

open Sys2Proof.Claims

/-! Comparisons (R186). -/

theorem truth_ltS (a b : Word) : truth (ltS a b) = oneIf (a.toInt < b.toInt) := by
  simp only [truth, oneIf, ltS, BitVec.slt_iff_toInt_lt]

theorem truth_ltU (a b : Word) : truth (ltU a b) = oneIf (a.toNat < b.toNat) := by
  simp only [truth, oneIf, ltU, BitVec.ult_iff_toNat_lt]

theorem minS_eq_min (a b : Word) : minS a b = BitVec.ofInt 64 (min a.toInt b.toInt) := by
  simp only [minS, ltS, BitVec.slt_iff_toInt_lt]
  split
  case isTrue h => rw [min_eq_left h.le, BitVec.ofInt_toInt]
  case isFalse h => rw [min_eq_right (not_lt.mp h), BitVec.ofInt_toInt]

theorem maxS_eq_max (a b : Word) : maxS a b = BitVec.ofInt 64 (max a.toInt b.toInt) := by
  simp only [maxS, ltS, BitVec.slt_iff_toInt_lt]
  split
  case isTrue h => rw [max_eq_right h.le, BitVec.ofInt_toInt]
  case isFalse h => rw [max_eq_left (not_lt.mp h), BitVec.ofInt_toInt]

theorem minU_eq_min (a b : Word) : minU a b = BitVec.ofNat 64 (min a.toNat b.toNat) := by
  simp only [minU, ltU, BitVec.ult_iff_toNat_lt]
  split
  case isTrue h => rw [min_eq_left h.le, BitVec.ofNat_toNat, BitVec.setWidth_eq]
  case isFalse h => rw [min_eq_right (not_lt.mp h), BitVec.ofNat_toNat, BitVec.setWidth_eq]

theorem maxU_eq_max (a b : Word) : maxU a b = BitVec.ofNat 64 (max a.toNat b.toNat) := by
  simp only [maxU, ltU, BitVec.ult_iff_toNat_lt]
  split
  case isTrue h => rw [max_eq_right h.le, BitVec.ofNat_toNat, BitVec.setWidth_eq]
  case isFalse h => rw [max_eq_left (not_lt.mp h), BitVec.ofNat_toNat, BitVec.setWidth_eq]

/-! Quotients (R189). -/

theorem remS_eq_sub (a b : Word) :
    remS a b = if b = 0#64 then a else BitVec.ofInt 64 (a.toInt - b.toInt * a.toInt.tdiv b.toInt) := by
  rw [remS, Int.tmod_def]

theorem remU_eq_sub (a b : Word) :
    remU a b = if b = 0#64 then a else BitVec.ofNat 64 (a.toNat - b.toNat * (a.toNat / b.toNat)) := by
  rw [remU, nw, Nat.mod_eq_sub_mul_div]

/-! Rows. -/

/-- A form that computes a value completes with it in its destination. -/
theorem exec_of_compute {s : State} {i : Instr} {d a : GReg} {srcs : List GReg} {t : Bool} {vs : List Word} {y : Slot} {f : List Word → Word}
    {v : Word} (h : Reads s srcs (some d) vs y) (hi : exec i s = .next (compute s d srcs t f)) (ha : srcs.headD 0#5 = a) (hv : f vs = v) :
    exec i s = completes s (wrote (popped s y) d a t v) := by
  subst ha hv
  exact hi.trans (congrArg Host.Outcome.next (compute_ok h))

/-- A row with two sources, from the function that its form computes. -/
theorem rowTwo_of_compute {op : BitVec 7} {fn : BitVec 9} {mk : GReg → GReg → GReg → Bool → Instr} {f g : Word → Word → Word}
    (hvalue : ∀ a b, g a b = f a b)
    (hcode : ∀ d a b t, (mk d a b t).wf = true ∧ encode (mk d a b t) = some (rWord op d a b t fn) := by exact fun _ _ _ _ => ⟨rfl, rfl⟩)
    (hexec : ∀ d a b t s, exec (mk d a b t) s = .next (compute s d [a, b] t fun vs => g (val vs 0) (val vs 1)) := by
      exact fun _ _ _ _ _ => rfl) : RowTwo op fn mk f := fun d a b t =>
  ⟨decodeWord_of_encode (hcode d a b t).1 (hcode d a b t).2, fun s va vb _ h => exec_of_compute h (hexec d a b t s) rfl (hvalue va vb)⟩

end Sys2Proof.Machine

namespace Sys2Proof.Claims

open Sys2Proof.Machine

/-- Settles O8: every unit reads as its reset value where nothing is listed. -/
theorem resetState : Obligations.ResetState := by
  have hintrap : Slot.reset.intrap = false := by decide
  refine ⟨fun _ => ⟨rfl, rfl, rfl, rfl, rfl, rfl, rfl, hintrap, fun _ => rfl⟩, fun _ => ⟨rfl, fun _ => rfl, fun _ => rfl, rfl, rfl⟩,
    fun _ _ => rfl, rfl, rfl, rfl⟩

/-- Settles O18: each form computes a function of its operands, which is that of the table. -/
theorem aluForms : Obligations.AluForms := by
  refine ⟨⟨?add, ?sub, ?and, ?or, ?xor, ?andn, ?orn, ?sll, ?srl, ?sra, ?slt, ?sltn, ?min, ?max, ?minn, ?maxn⟩,
    ?addw, ?subw, ?sllw, ?srlw, ?sraw⟩
  case and | or | xor | andn | orn => exact rowTwo_of_compute fun _ _ => rfl
  case add => exact rowTwo_of_compute add_eq_ofInt
  case sub => exact rowTwo_of_compute sub_eq_ofInt
  case sll => exact rowTwo_of_compute fun a b => (shiftLeft_eq_ofNat a (bitF b 0 6)).trans (by rw [bitF_shiftAmount])
  case srl => exact rowTwo_of_compute fun a b => (ushiftRight_eq_ofNat a (bitF b 0 6)).trans (by rw [bitF_shiftAmount])
  case sra => exact rowTwo_of_compute fun a b => (sshiftRight_eq_ofInt a (bitF b 0 6)).trans (by rw [bitF_shiftAmount])
  case slt => exact rowTwo_of_compute truth_ltS
  case sltn => exact rowTwo_of_compute truth_ltU
  case min => exact rowTwo_of_compute minS_eq_min
  case max => exact rowTwo_of_compute maxS_eq_max
  case minn => exact rowTwo_of_compute minU_eq_min
  case maxn => exact rowTwo_of_compute maxU_eq_max
  case addw => exact rowTwo_of_compute sextW_add
  case subw => exact rowTwo_of_compute sextW_sub
  case sllw => exact rowTwo_of_compute fun a b => (sextW_shiftLeft a (bitF b 0 5)).trans (by rw [bitF_shiftAmount32])
  case srlw => exact rowTwo_of_compute fun a b => (sextW_ushiftRight a (bitF b 0 5)).trans (by rw [bitF_shiftAmount32])
  case sraw => exact rowTwo_of_compute fun a b => (sextW_sshiftRight a (bitF b 0 5)).trans (by rw [bitF_shiftAmount32])

/-- Settles O19: each form computes a function of its operands, which is that of the table. -/
theorem mulDivForms : Obligations.MulDivForms := by
  refine ⟨?mul, ?mulh, ?mulhn, ?div, ?divn, ?rem, ?remn⟩
  case mul | mulh | mulhn | div | divn => exact rowTwo_of_compute fun _ _ => rfl
  case rem => exact rowTwo_of_compute remS_eq_sub
  case remn => exact rowTwo_of_compute remU_eq_sub

end Sys2Proof.Claims
end

section
/-! BITOP forms (R190). The model counts and moves the bits of numbers from the low end; each law says what a count or a moved bit is. -/

namespace Sys2Proof

open Sys2Proof.Claims

/-- The positions of the 1 bits among the low `n` of a number, lowest first. -/
def onesBelow (n v : Nat) : List Nat := (List.range n).filter v.testBit

theorem onesOf_eq_onesBelow (w : Word) : onesOf w = onesBelow 64 w.toNat := rfl

/-- The positions of a number's 1 bits are those of its half, one place up, behind 0 for an odd number. -/
theorem onesBelow_succ (n v : Nat) :
    onesBelow (n + 1) v = if v % 2 = 1 then 0 :: (onesBelow n (v / 2)).map Nat.succ else (onesBelow n (v / 2)).map Nat.succ := by
  have hhalf : v.testBit ∘ Nat.succ = (v / 2).testBit := funext fun i => Nat.testBit_succ v i
  rw [onesBelow, List.range_succ_eq_map, List.filter_cons, List.filter_map, hhalf, Nat.testBit_zero]
  simp only [decide_eq_true_eq]
  rfl

/-! Counts. -/

theorem popN_eq_length (n v : Nat) : popN n v = (onesBelow n v).length := by
  induction n generalizing v with
  | zero => rfl
  | succ n ih =>
    rw [popN, ih, onesBelow_succ]
    split
    · simp only [List.length_cons, List.length_map]
      omega
    · simp only [List.length_map]
      omega

theorem ctzN_eq_length (n v : Nat) : ctzN n v = ((List.range n).takeWhile fun i => !v.testBit i).length := by
  induction n generalizing v with
  | zero => rfl
  | succ n ih =>
    have hhalf : (fun i => !v.testBit i) ∘ Nat.succ = fun i => !(v / 2).testBit i := funext fun i => congrArg (!·) (Nat.testBit_succ v i)
    rw [ctzN, List.range_succ_eq_map, List.takeWhile_cons, List.takeWhile_map, hhalf, ih, Nat.testBit_zero]
    by_cases h : v % 2 = 1
    · simp [h]
    · simp [h, Nat.add_comm]

/-- A run of `k` numbers from 0 that satisfy `p`, and then one that does not. -/
theorem length_takeWhile_range {p : Nat → Bool} {n k : Nat} (hk : k ≤ n) (hrun : ∀ i, i < k → p i = true) (hend : k < n → p k = false) :
    ((List.range n).takeWhile p).length = k := by
  induction n generalizing p k with
  | zero => simp [Nat.le_zero.mp hk]
  | succ n ih =>
    rw [List.range_succ_eq_map, List.takeWhile_cons]
    cases k with
    | zero => simp [hend (Nat.succ_pos n)]
    | succ k =>
      have hrest : ((List.range n).takeWhile (p ∘ Nat.succ)).length = k :=
        ih (Nat.le_of_succ_le_succ hk) (fun i hi => hrun (i + 1) (Nat.succ_lt_succ hi)) fun h => hend (Nat.succ_lt_succ h)
      rw [hrun 0 (Nat.succ_pos k), if_pos rfl, List.takeWhile_map, List.length_cons, List.length_map, hrest]

/-- The run of 0 bits from the high end stops at the binary logarithm. -/
theorem clzN_eq_length {n v : Nat} (h : v < 2 ^ n) : clzN n v = ((List.range n).takeWhile fun i => !v.testBit (n - 1 - i)).length := by
  rw [clzN, Nat.mod_eq_of_lt h]
  split
  case isTrue h0 => rw [length_takeWhile_range le_rfl (fun i _ => by simp [h0]) fun hn => absurd hn (lt_irrefl n)]
  case isFalse h0 =>
    have hlog : v.log2 < n := (Nat.log2_lt h0).mpr h
    rw [length_takeWhile_range (Nat.le_of_lt (by omega : n - 1 - v.log2 < n))]
    · intro i hi
      have hhigh : v < 2 ^ (n - 1 - i) := (Nat.log2_lt h0).mp (by omega)
      rw [Nat.testBit_lt_two_pow hhigh, Bool.not_false]
    · intro _
      rw [show n - 1 - (n - 1 - v.log2) = v.log2 by omega, Nat.testBit_log2 h0, Bool.not_true]

/-! Moved bits. -/

theorem revN_lt (n v : Nat) : revN n v < 2 ^ n := by
  induction n generalizing v with
  | zero => exact Nat.one_pos
  | succ n ih =>
    have hhigh : v % 2 * 2 ^ n ≤ 1 * 2 ^ n := Nat.mul_le_mul_right _ (Nat.le_of_lt_succ (Nat.mod_lt v (by decide)))
    have hlow := ih (v / 2)
    rw [revN, Nat.pow_succ]
    omega

theorem testBit_revN (n v : Nat) {i : Nat} (h : i < n) : (revN n v).testBit i = v.testBit (n - 1 - i) := by
  induction n generalizing v with
  | zero => exact absurd h (Nat.not_lt_zero i)
  | succ n ih =>
    rw [revN, Nat.mul_comm, Nat.testBit_two_pow_mul_add _ (revN_lt n _)]
    split
    case isTrue hi => rw [ih _ hi, ← Nat.testBit_add_one, show n - 1 - i + 1 = n + 1 - 1 - i by omega]
    case isFalse hi =>
      obtain rfl : i = n := by omega
      rw [Nat.sub_self, Nat.add_sub_cancel, Nat.sub_self, Nat.testBit_zero, Nat.testBit_zero, Nat.mod_mod]

/-- The bits of a number that is put behind a low bit. -/
theorem testBit_low_add_zero (v x : Nat) : (v % 2 + 2 * x).testBit 0 = v.testBit 0 := by
  rw [Nat.testBit_zero, Nat.testBit_zero, Nat.add_mul_mod_self_left, Nat.mod_mod]

theorem testBit_low_add_succ (v x i : Nat) : (v % 2 + 2 * x).testBit (i + 1) = x.testBit i := by
  rw [Nat.testBit_add_one, Nat.add_mul_div_left _ _ (by decide), Nat.div_eq_of_lt (Nat.mod_lt v (by decide)), Nat.zero_add]

/-- Bit `k` of the packed bits is the one at the `k`-th 1 position. -/
theorem testBit_extN (n v m k : Nat) : (extN n v m).testBit k = ((onesBelow n m)[k]?.map v.testBit).getD false := by
  induction n generalizing v m k with
  | zero => simp [extN, onesBelow]
  | succ n ih =>
    have hhalf : v.testBit ∘ Nat.succ = (v / 2).testBit := funext fun i => Nat.testBit_succ v i
    rw [extN, onesBelow_succ]
    split
    · cases k with
      | zero => exact testBit_low_add_zero v _
      | succ k => rw [testBit_low_add_succ, ih, List.getElem?_cons_succ, List.getElem?_map, Option.map_map, hhalf]
    · rw [ih, List.getElem?_map, Option.map_map, hhalf]

/-- A placed bit is the one whose number is the count of 1 positions below it. -/
theorem testBit_depN (n v m : Nat) {i : Nat} (h : i < n) :
    (depN n v m).testBit i = (m.testBit i && v.testBit ((onesBelow n m).takeWhile fun j => decide (j < i)).length) := by
  induction n generalizing v m i with
  | zero => exact absurd h (Nat.not_lt_zero i)
  | succ n ih =>
    have hsucc (j : Nat) : (fun x => decide (x < j + 1)) ∘ Nat.succ = fun x => decide (x < j) := funext fun x => by simp
    rw [depN, onesBelow_succ]
    split
    case isTrue hm =>
      cases i with
      | zero =>
        rw [testBit_low_add_zero, Nat.testBit_zero m, decide_eq_true hm, Bool.true_and]
        rfl
      | succ i =>
        rw [testBit_low_add_succ, ih _ _ (Nat.lt_of_succ_lt_succ h), ← Nat.testBit_add_one, ← Nat.testBit_add_one,
          List.takeWhile_cons_of_pos (by simp), List.takeWhile_map, hsucc, List.length_cons, List.length_map]
    case isFalse hm =>
      cases i with
      | zero => simp [hm]
      | succ i =>
        rw [Nat.testBit_add_one, Nat.mul_div_cancel_left _ (by decide), ih _ _ (Nat.lt_of_succ_lt_succ h), ← Nat.testBit_add_one,
          List.takeWhile_map, hsucc, List.length_map]

/-- Bit `r` of byte `j` of a number is its bit `8 j + r` (R5). -/
theorem getLsbD_natLE (n v : Nat) {j r : Nat} (hj : j < n) (hr : r < 8) : ((natLE n v).getD j 0#8).getLsbD r = v.testBit (8 * j + r) := by
  rw [natLE_getD n v hj, BitVec.getLsbD_ofNat, decide_eq_true hr, Bool.true_and, show 256 = 2 ^ 8 from rfl, ← Nat.pow_mul,
    Nat.testBit_div_two_pow, Nat.add_comm]

/-- Bit `i` of the number that bytes hold is bit `i mod 8` of byte `i div 8` (R5). -/
theorem testBit_leNat (bs : List Byte) (i : Nat) : (leNat bs).testBit i = (bs.getD (i / 8) 0#8).getLsbD (i % 8) := by
  induction bs generalizing i with
  | nil => simp [leNat]
  | cons b bs ih =>
    rw [leNat, Nat.add_comm, show 256 = 2 ^ 8 from rfl, Nat.testBit_two_pow_mul_add _ b.isLt]
    split
    case isTrue h => rw [Nat.div_eq_of_lt h, Nat.mod_eq_of_lt h]; rfl
    case isFalse h =>
      obtain ⟨j, rfl⟩ := Nat.exists_eq_add_of_le' (not_lt.mp h)
      rw [Nat.add_sub_cancel, ih, Nat.add_div_right j (by decide), Nat.add_mod_right]
      rfl

/-! Words by their bits. -/

theorem getLsbD_bitsWord (p : Nat → Bool) {i : Nat} (h : i < 64) : (bitsWord p).getLsbD i = p i := by
  have hfilter (l : List Nat) : (l.map fun i => if p i then 2 ^ i else 0).sum = ((l.filter p).map fun i => 2 ^ i).sum := by
    induction l with
    | nil => rfl
    | cons i l ih => cases hp : p i <;> simp [hp, ih]
  have hbit := Machine.testBit_sum_two_pow (List.nodup_range.filter p) (l := (List.range 64).filter p) i
  rw [bitsWord, BitVec.getLsbD_ofNat, hfilter, decide_eq_true h, Bool.true_and, Bool.eq_iff_iff, hbit, List.mem_filter, List.mem_range]
  exact and_iff_right h

theorem eq_bitsWord {w : Word} {p : Nat → Bool} (h : ∀ i, i < 64 → w.getLsbD i = p i) : w = bitsWord p :=
  BitVec.eq_of_getLsbD_eq fun i hi => (h i hi).trans (getLsbD_bitsWord p hi).symm

/-- A number's word by the number's bits. -/
theorem nw_eq_bitsWord {n : Nat} {p : Nat → Bool} (h : ∀ i, i < 64 → n.testBit i = p i) : nw n = bitsWord p :=
  eq_bitsWord fun i hi => by rw [nw, BitVec.getLsbD_ofNat, decide_eq_true hi, Bool.true_and, h i hi]

theorem rotateLeft_eq_bitsWord (a : Word) {r : Nat} (hr : r < 64) : a.rotateLeft r = bitsWord fun i => a.getLsbD ((i + 64 - r) % 64) := by
  refine eq_bitsWord fun i hi => ?_
  rw [BitVec.getLsbD_rotateLeft_of_le hr]
  by_cases h : i < r
  · rw [decide_eq_true h, cond_true]
    congr 1
    omega
  · rw [decide_eq_false h, cond_false, decide_eq_true hi, Bool.true_and]
    congr 1
    omega

theorem rotateRight_eq_bitsWord (a : Word) {r : Nat} (hr : r < 64) : a.rotateRight r = bitsWord fun i => a.getLsbD ((i + r) % 64) := by
  refine eq_bitsWord fun i hi => ?_
  rw [BitVec.getLsbD_rotateRight_of_lt hr]
  by_cases h : i < 64 - r
  · rw [decide_eq_true h, cond_true]
    congr 1
    omega
  · rw [decide_eq_false h, cond_false, decide_eq_true hi, Bool.true_and]
    congr 1
    omega

theorem reverseBytes_eq_bitsWord (a : Word) : leWord (wordLE 8 a).reverse = bitsWord fun i => a.getLsbD (8 * (7 - i / 8) + i % 8) := by
  refine nw_eq_bitsWord fun i hi => ?_
  have hbyte : (wordLE 8 a).reverse.getD (i / 8) 0#8 = (wordLE 8 a).getD (7 - i / 8) 0#8 := by
    rw [List.getD_eq_getElem?_getD, List.getElem?_reverse (by rw [wordLE_length]; omega), wordLE_length, ← List.getD_eq_getElem?_getD]
  rw [testBit_leNat, hbyte, wordLE, getLsbD_natLE _ _ (by omega) (Nat.mod_lt i (by decide))]
  rfl

end Sys2Proof

namespace Sys2Proof.Machine

open Sys2Proof.Claims

/-- A row with one source, from the function that its form computes. -/
theorem rowOne_of_compute {op : BitVec 7} {fn : BitVec 9} {mk : GReg → GReg → Bool → Instr} {f g : Word → Word} (hvalue : ∀ a, g a = f a)
    (hcode : ∀ d a t, (mk d a t).wf = true ∧ encode (mk d a t) = some (rWord op d a 0#5 t fn) := by exact fun _ _ _ => ⟨rfl, rfl⟩)
    (hexec : ∀ d a t s, exec (mk d a t) s = .next (compute s d [a] t fun vs => g (val vs 0)) := by exact fun _ _ _ _ => rfl) :
    RowOne op fn mk f := fun d a t =>
  ⟨decodeWord_of_encode (hcode d a t).1 (hcode d a t).2, fun s va _ h => exec_of_compute h (hexec d a t s) rfl (hvalue va)⟩

/-- No BITOP form has width 3 (R19). -/
theorem decodeWord_bitop_reserved (d a : GReg) (t : Bool) {fn : BitVec 9} (hwidth : fn.extractLsb' 5 2 = 3#2) :
    decodeWord (rWord 0x04#7 d a 0#5 t fn) = .error .reserved := by
  have hne (k : BitVec 9) (hk : k.extractLsb' 5 2 ≠ 3#2) : fn ≠ k := fun h => hk (h ▸ hwidth)
  simp [decodeWord, decodeOp04, hwidth, hne]

end Sys2Proof.Machine

namespace Sys2Proof.Claims

open Sys2Proof.Machine

/-- Settles O20: each form's number is described bit by bit, or by the run or the set of bits that it counts. -/
theorem bitForms : Obligations.BitForms := by
  have hlt (b : Word) : b.toNat % 64 < 64 := Nat.mod_lt _ (by decide)
  refine ⟨?clz, ?ctz, ?popc, ?rotl, ?rotr, ?rev8, ?brev, ?bext, ?bdep, ?sext8, ?sext16, ?sext32, ?zext8, ?zext16, ?zext32, ?reserved⟩
  case clz => exact rowOne_of_compute fun a => congrArg nw (clzN_eq_length a.isLt)
  case ctz => exact rowOne_of_compute fun a => congrArg nw (ctzN_eq_length 64 a.toNat)
  case popc => exact rowOne_of_compute fun a => congrArg nw (popN_eq_length 64 a.toNat)
  case rotl => exact rowTwo_of_compute fun a b => (congrArg a.rotateLeft (bitF_shiftAmount b)).trans (rotateLeft_eq_bitsWord a (hlt b))
  case rotr => exact rowTwo_of_compute fun a b => (congrArg a.rotateRight (bitF_shiftAmount b)).trans (rotateRight_eq_bitsWord a (hlt b))
  case rev8 => exact rowOne_of_compute reverseBytes_eq_bitsWord
  case brev => exact rowOne_of_compute fun a => nw_eq_bitsWord fun i hi => testBit_revN 64 a.toNat hi
  case bext => exact rowTwo_of_compute fun a b => nw_eq_bitsWord fun k _ => testBit_extN 64 a.toNat b.toNat k
  case bdep => exact rowTwo_of_compute fun a b => nw_eq_bitsWord fun i hi => testBit_depN 64 a.toNat b.toNat hi
  case sext8 | sext16 | sext32 => exact rowOne_of_compute fun a => sextW_eq_signExtend (by decide) a
  case zext8 | zext16 | zext32 => exact rowOne_of_compute fun a => zextW_eq_setWidth (by decide) a
  case reserved => exact fun d a t _ _ hwidth => decodeWord_bitop_reserved d a t hwidth

end Sys2Proof.Claims
end

section
/-! The immediate forms, `lui`, `pcaddu`, the selects, `lea`, `segck` and `tchk` (R132, R133, R191 to R195). -/

namespace Sys2Proof.Machine

open Sys2Proof.Claims

/-- An I-format row, from the function that its form computes. -/
theorem rowImm_of_compute {op : BitVec 7} {mk : GReg → GReg → Bool → BitVec 14 → Instr} {f g : Word → Word → Word} (hvalue : ∀ a i, g a i = f a i)
    (hcode : ∀ d a t i, (mk d a t i).wf = true ∧ encode (mk d a t i) = some (iWord op d a t i) := by exact fun _ _ _ _ => ⟨rfl, rfl⟩)
    (hexec : ∀ d a t i s, exec (mk d a t i) s = .next (compute s d [a] t fun vs => g (val vs 0) (imm14 i)) := by
      exact fun _ _ _ _ _ => rfl) : RowImm op mk f := fun d a t i =>
  ⟨decodeWord_of_encode (hcode d a t i).1 (hcode d a t i).2, fun s va _ h => exec_of_compute h (hexec d a t i s) rfl (hvalue va _)⟩

/-- A shift-immediate row, from the function that its form computes. -/
theorem rowShift_of_compute {sel : BitVec 2} {mk : GReg → GReg → Bool → BitVec 6 → Instr} {f g : Word → Nat → Word}
    (hvalue : ∀ a (m : BitVec 6), g a m.toNat = f a m.toNat)
    (hcode : ∀ d a t m, (mk d a t m).wf = true ∧ encode (mk d a t m) = some (iWord 0x0B#7 d a t (sel ++ 0#6 ++ m)) := by
      exact fun _ _ _ _ => ⟨rfl, rfl⟩)
    (hexec : ∀ d a t m s, exec (mk d a t m) s = .next (compute s d [a] t fun vs => g (val vs 0) m.toNat) := by
      exact fun _ _ _ _ _ => rfl) : RowShift sel mk f := fun d a t m =>
  ⟨decodeWord_of_encode (hcode d a t m).1 (hcode d a t m).2, fun s va _ h => exec_of_compute h (hexec d a t m s) rfl (hvalue va m)⟩

/-- A shift-immediate word with a nonzero unused field is reserved (R16, R192). -/
theorem decodeWord_shiftImm_reserved (d a : GReg) (t : Bool) {i : BitVec 14} (h : i.extractLsb' 6 6 ≠ 0#6) :
    decodeWord (iWord 0x0B#7 d a t i) = .error .reserved := by
  have hne (k : BitVec 8) (hk : k.extractLsb' 0 6 = 0#6) : i.extractLsb' 6 8 ≠ k := fun hi => h <| by
    rw [← hk, ← hi, extractLsb'_extractLsb' _ (by decide)]
  simp [decodeWord, decodeOp0B, hne]

/-- The value of `lui` (R193). -/
theorem imm20_eq_ofInt (i : BitVec 20) : imm20 i = BitVec.ofInt 64 (i.toInt * 2 ^ 14) := by
  rw [imm20, BitVec.signExtend, BitVec.toInt_append_zero, Int.mul_comm]

theorem leaValue_eq_append (seg : BitVec 3) (a : Word) (o : BitVec 11) : leaValue seg a o = seg ++ (a + o.signExtend 64).setWidth 61 := by
  apply BitVec.eq_of_toNat_eq
  have hseg : seg.toNat < 8 := seg.isLt
  have hlow : (a + o.signExtend 64).toNat % 2 ^ 61 < 2 ^ 61 := Nat.mod_lt _ (by decide)
  rw [toNat_join, BitVec.toNat_setWidth, leaValue, off11, show nw 1 = 1#64 from rfl, BitVec.mul_one, nw, BitVec.toNat_ofNat]
  omega

/-- The result of `segck`, by the fields of the descriptor (R133). -/
theorem segckValue_eq (x : Slot) (p l : Word) (lo hi : Word) (n : Nat) (hlo : lo = x.creg (0xC0 + 2 * (p.toNat / 2 ^ 61)))
    (hhi : hi = x.creg (0xC1 + 2 * (p.toNat / 2 ^ 61))) (hn : n = if l.toNat % 2 ^ 40 = 0 then 1 else l.toNat % 2 ^ 40) :
    segckValue x p l =
      if p.toNat / 2 ^ 40 % 2 ^ 21 ≠ 0 ∨ p.toNat % 2 ^ 40 + n - 1 > lo.toNat / 2 ^ 52 + hi.toNat % 2 ^ 28 * 2 ^ 12 then 0x10#64
      else if ∃ i : Fin 6, l.getLsbD (58 + i.val) = true ∧ hi.getLsbD (28 + i.val) = false then 0x11#64
      else 0#64 := by
  subst hlo hhi hn
  have hseg : ptrSeg p = p.toNat / 2 ^ 61 := bitF_high p (by decide)
  have hlimit (lo hi : Word) : segLimit lo hi = lo.toNat / 2 ^ 52 + hi.toNat % 2 ^ 28 * 2 ^ 12 := by
    rw [segLimit, bitF_high lo (by decide), bitF_zero]
    omega
  have hrights (hi : Word) : (bitB l 58 && !segR hi || bitB l 59 && !segW hi || bitB l 60 && !segX hi || bitB l 61 && !segA hi ||
      bitB l 62 && !segF hi || bitB l 63 && !segD hi) = true ↔
      ∃ i : Fin 6, l.getLsbD (58 + i.val) = true ∧ hi.getLsbD (28 + i.val) = false := by
    simp [Fin.exists_fin_succ, segR, segW, segX, segA, segF, segD, bitB, or_assoc]
  simp only [segckValue, hseg, hlimit, hrights, ptrOff, bitF_zero]
  rfl

end Sys2Proof.Machine

namespace Sys2Proof.Claims

open Sys2Proof.Machine

/-- Settles O21: each form computes a function of its operands or of the PC, and `tchk` compares its two. -/
theorem immediateUpperSelectAndCheckForms : Obligations.ImmediateUpperSelectAndCheckForms := by
  refine ⟨⟨?addi, ?andi, ?ori, ?xori, ?slti, ?sltni, ?slli, ?srli, ?srai, ?rotli, ?reserved⟩, ?lui, ?pcaddu, ?selz, ?selnz, ?lea, ?segck,
    ?tchkCode, ?tchk⟩
  case addi => exact rowImm_of_compute add_eq_ofInt
  case andi | ori | xori => exact rowImm_of_compute fun _ _ => rfl
  case slti => exact rowImm_of_compute truth_ltS
  case sltni => exact rowImm_of_compute truth_ltU
  case slli => exact rowShift_of_compute fun a m => shiftLeft_eq_ofNat a m.toNat
  case srli => exact rowShift_of_compute fun a m => ushiftRight_eq_ofNat a m.toNat
  case srai => exact rowShift_of_compute fun a m => sshiftRight_eq_ofInt a m.toNat
  case rotli => exact rowShift_of_compute fun a m => rotateLeft_eq_bitsWord a m.isLt
  case reserved => exact fun d a t i => decodeWord_shiftImm_reserved d a t
  case lui =>
    exact fun d i => ⟨decodeWord_of_encode rfl rfl, fun s y h => exec_of_compute h rfl rfl (imm20_eq_ofInt i)⟩
  case pcaddu =>
    exact fun d i => ⟨decodeWord_of_encode rfl rfl, fun s y h => exec_of_compute h rfl rfl (congrArg (_ + ·) (imm20_eq_ofInt i))⟩
  case selz => exact rowTwo_of_compute fun _ _ => rfl
  case selnz => exact rowTwo_of_compute fun a b => (ite_not (b = 0#64) a 0#64).symm
  case lea =>
    exact fun d a t sg o s va y h => exec_of_compute h rfl rfl (leaValue_eq_append sg va o)
  case segck =>
    rintro d a b t s va vb y h lo hi n hlo hhi hn
    have hregs : y.regs = (slotAt s s.cur).regs := by rw [Slot.prep_frame h]
    rw [Slot.creg, hregs] at hlo hhi
    exact exec_of_compute h rfl rfl (segckValue_eq _ va vb lo hi n hlo hhi hn)
  case tchkCode => exact fun a b t => decodeWord_of_encode rfl rfl
  case tchk =>
    refine fun a b t s va vb y h => ⟨fun hlt => (next_withOps h _).trans (completes_of_done (if_pos ?_)),
      fun hle => (next_withOps h _).trans (traps_of_trap (if_neg ?_))⟩
    · exact BitVec.ult_iff_toNat_lt.mpr hlt
    · exact fun hlt => absurd (BitVec.ult_iff_toNat_lt.mp hlt) (Nat.not_lt.mpr hle)

end Sys2Proof.Claims
end

section
/-! The transform thread's bits (R197): a read of a channel gives the bits of the own LM, and a write changes the bits that it names and no other. -/

namespace Sys2Proof

/-- The number `w` with the `n` bits from `lo` on replaced by those of `v`. -/
def spliceBits (w lo n v : Nat) : Nat := w % 2 ^ lo + w / 2 ^ (lo + n) * 2 ^ (lo + n) + v % 2 ^ n * 2 ^ lo

theorem testBit_spliceBits (w lo n v j : Nat) :
    (spliceBits w lo n v).testBit j = if lo ≤ j ∧ j < lo + n then v.testBit (j - lo) else w.testBit j := by
  have hlow : w % 2 ^ lo < 2 ^ lo := Nat.mod_lt _ (Nat.two_pow_pos lo)
  have hpow : 2 ^ (lo + n) = 2 ^ lo * 2 ^ n := Nat.pow_add 2 lo n
  have hmid : 2 ^ lo * (v % 2 ^ n) + w % 2 ^ lo < 2 ^ (lo + n) := by
    have hv : 2 ^ lo * (v % 2 ^ n + 1) ≤ 2 ^ lo * 2 ^ n := Nat.mul_le_mul_left _ (Nat.mod_lt v (Nat.two_pow_pos n))
    rw [Nat.mul_succ] at hv
    omega
  have hsplit : spliceBits w lo n v = 2 ^ (lo + n) * (w / 2 ^ (lo + n)) + (2 ^ lo * (v % 2 ^ n) + w % 2 ^ lo) := by
    rw [spliceBits, Nat.mul_comm (w / _), Nat.mul_comm (v % _)]
    omega
  rw [hsplit, Nat.testBit_two_pow_mul_add _ hmid, Nat.testBit_two_pow_mul_add _ hlow]
  by_cases hhigh : j < lo + n
  · by_cases hj : j < lo
    · rw [if_pos hhigh, if_pos hj, if_neg (by omega), Nat.testBit_mod_two_pow, decide_eq_true hj, Bool.true_and]
    · rw [if_pos hhigh, if_neg hj, if_pos (by omega), Nat.testBit_mod_two_pow, decide_eq_true (by omega), Bool.true_and]
  · rw [if_neg hhigh, if_neg (by omega), Nat.testBit_div_two_pow, Nat.sub_add_cancel (Nat.le_of_not_lt hhigh)]

end Sys2Proof

namespace Sys2Proof.Machine

open Sys2Proof.Claims

/-- Bit `k` of a core's LM from byte `off` on, lowest bit of a byte first (R197). -/
def lmBit (s : State) (core off k : Nat) : Bool := (memByte s (lmKey core (off + k / 8))).getLsbD (k % 8)

theorem lmKey_add (core a b : Nat) : lmKey core (a + b) = lmKey core a + b := (Nat.add_assoc _ a b).symm

/-- The bytes that an own-LM read answers are those of memory. -/
theorem eq_memBytes_of_ownBytes {s : State} {core off n : Nat} {bs : List Byte} (h : ownBytes s core off n = .ok bs) :
    bs = memBytes s (lmKey core off) n := by
  simp only [ownBytes] at h
  split at h
  · cases h
  · cases h
  · cases hbad : firstBad s (lmKey core off) n with
    | none =>
      rw [lmRead_ok hbad] at h
      exact (Except.ok.inj h).symm
    | some e =>
      rw [lmRead_poison hbad] at h
      cases h

theorem getD_memBytes (s : State) (a n : Nat) {i : Nat} (h : i < n) : (memBytes s a n).getD i 0#8 = memByte s (a + i) := by
  induction n generalizing a i with
  | zero => exact absurd h (Nat.not_lt_zero i)
  | succ n ih =>
    cases i with
    | zero => rfl
    | succ i => exact (ih (a + 1) (Nat.lt_of_succ_lt_succ h)).trans (by rw [Nat.add_assoc, Nat.add_comm 1])

section
variable {s : State} {off pos n : Nat}

/-- The bytes that hold bits `pos` to `pos + n - 1`, as a number: its bits are the LM's from the byte of `pos` on. -/
theorem testBit_ownBytes {bs : List Byte} (h : ownBytes s (coreOf s.cur) (off + pos / 8) ((pos % 8 + n + 7) / 8) = .ok bs) {j : Nat}
    (hj : j < 8 * ((pos % 8 + n + 7) / 8)) : (leNat bs).testBit j = lmBit s (coreOf s.cur) off (8 * (pos / 8) + j) := by
  rw [eq_memBytes_of_ownBytes h, testBit_leNat, getD_memBytes _ _ _ (by omega), lmBit, ← lmKey_add, Nat.mul_add_mod, Nat.mul_add_div (by decide),
    Nat.add_assoc]

theorem testBit_bitsAt {v : Nat} (h : bitsAt s off pos n = .ok v) {j : Nat} (hj : j < n) : v.testBit j = lmBit s (coreOf s.cur) off (pos + j) := by
  rw [bitsAt, if_neg (by omega)] at h
  split at h
  case h_1 => cases h
  case h_2 bs hbs =>
    cases h
    rw [Nat.testBit_mod_two_pow, decide_eq_true hj, Bool.true_and, Nat.testBit_div_two_pow, testBit_ownBytes hbs (by omega)]
    congr 1
    omega

theorem dirSpan_mem (s : State) (core off n : Nat) : (dirSpan s core off n).mem = s.mem :=
  keeps_foldl (g := State.mem) (fun s _ => keeps_dirWrite (g := State.mem) (fun _ _ _ _ => rfl) s _ _ _) _ s

/-- What a write of bits leaves in memory: the bytes that hold them, with the bits replaced in a number whose other bits are memory's. -/
theorem mem_of_putBits {v : Nat} {u : State} (h : putBits s off pos n v = .ok u) (hn : n ≠ 0) :
    ∃ w, u.mem = memPut s.mem (lmKey (coreOf s.cur) (off + pos / 8)) (natLE ((pos % 8 + n + 7) / 8) (spliceBits w (pos % 8) n v)) ∧
      ∀ j, j < 8 * ((pos % 8 + n + 7) / 8) → ¬ (pos % 8 ≤ j ∧ j < pos % 8 + n) → w.testBit j = lmBit s (coreOf s.cur) off (8 * (pos / 8) + j) := by
  have hmem (bs : List Byte) (core a m : Nat) : (dirSpan (clearBad (setBytes s (lmKey core a) bs) (lmKey core a) m) core a m).mem =
      memPut s.mem (lmKey core a) bs :=
    (dirSpan_mem _ _ _ _).trans (keeps_clearBad (g := State.mem) (fun _ _ _ => rfl) _ _ _)
  rw [putBits, if_neg hn] at h
  dsimp only at h
  cases hread : ownBytes s (coreOf s.cur) (off + pos / 8) ((pos % 8 + n + 7) / 8) with
  | ok bs =>
    rw [hread] at h
    cases h
    exact ⟨leNat bs, hmem _ _ _ _, fun j hj _ => testBit_ownBytes hread hj⟩
  | error e =>
    rw [hread] at h
    dsimp only at h
    split at h
    case h_1 => cases h
    case h_2 bs hbs =>
      split at hbs
      case isFalse => cases hbs
      -- an aligned write of 64 bits names every bit of its bytes
      case isTrue hwhole =>
        simp only [Bool.and_eq_true, decide_eq_true_eq] at hwhole
        cases h
        exact ⟨leNat bs, hmem _ _ _ _, fun j hj hout => absurd hout (by omega)⟩

/-- A write of bits changes those that it names, and no other (R197). -/
theorem lmBit_of_putBits {v : Nat} {u : State} (h : putBits s off pos n v = .ok u) (k : Nat) :
    lmBit u (coreOf s.cur) off k = if pos ≤ k ∧ k < pos + n then v.testBit (k - pos) else lmBit s (coreOf s.cur) off k := by
  by_cases hn : n = 0
  · rw [putBits, if_pos hn] at h
    cases h
    rw [if_neg (by omega)]
  · obtain ⟨w, hmem, hkept⟩ := mem_of_putBits h hn
    have hbyte : memByte u (lmKey (coreOf s.cur) (off + k / 8)) = memByte (setBytes s (lmKey (coreOf s.cur) (off + pos / 8))
        (natLE ((pos % 8 + n + 7) / 8) (spliceBits w (pos % 8) n v))) (lmKey (coreOf s.cur) (off + k / 8)) := memByte_congr hmem _
    rw [lmBit, hbyte, memByte_setBytes, natLE_length, lmKey_add, lmKey_add]
    split
    case isTrue hin =>
      have hj : 8 * (k / 8 - pos / 8) + k % 8 = k - 8 * (pos / 8) := by omega
      rw [show lmKey (coreOf s.cur) off + k / 8 - (lmKey (coreOf s.cur) off + pos / 8) = k / 8 - pos / 8 by omega,
        getLsbD_natLE _ _ (by omega) (Nat.mod_lt k (by decide)), hj, testBit_spliceBits]
      split
      case isTrue hnamed =>
        rw [if_pos (by omega)]
        congr 1
        omega
      case isFalse hnot =>
        rw [if_neg (by omega), hkept _ (by omega) hnot]
        congr 1
        omega
    case isFalse hout =>
      rw [if_neg (by omega), ← lmKey_add]
      rfl

end

end Sys2Proof.Machine
end

section
/-! The forms of the transform thread (R197 to R201). -/

namespace Sys2Proof

open Sys2Proof.Claims

/-! CRC-32C (R200): the model's polynomial on numbers is the one on words of 32 bits. -/

theorem toNat_crcBit (c : BitVec 32) : (crcBit c).toNat = if c.toNat % 2 = 1 then Nat.xor (c.toNat / 2) 0x82F63B78 else c.toNat / 2 := by
  have hbit : c.getLsbD 0 = decide (c.toNat % 2 = 1) := Nat.testBit_zero c.toNat
  have hhalf : (c >>> 1).toNat = c.toNat / 2 := by rw [BitVec.toNat_ushiftRight, Nat.shiftRight_eq_div_pow, Nat.pow_one]
  simp only [crcBit, hbit, decide_eq_true_eq]
  split
  · rw [BitVec.toNat_xor, hhalf]
    rfl
  · exact hhalf

theorem crcBits_toNat (n : Nat) (c : BitVec 32) : crcBits n c.toNat = ((List.range n).foldl (fun c _ => crcBit c) c).toNat := by
  induction n generalizing c with
  | zero => rfl
  | succ n ih => rw [crcBits, ← toNat_crcBit, ih, List.range_succ_eq_map, List.foldl_cons, List.foldl_map]

/-- The next byte folded: the function's defining equation, whose generated form does not elaborate for the eight rounds written out. -/
theorem crcBytes_cons (c : Nat) (b : Byte) (bs : List Byte) : crcBytes c (b :: bs) = crcBytes (crcBits 8 (Nat.xor c b.toNat)) bs :=
  crcBytes.eq_def c (b :: bs)

/-- The bytes folded, one by one. -/
theorem crcBytes_map_toNat {bytes : Nat → Byte} (l : List Nat) (c : BitVec 32) : crcBytes c.toNat (l.map bytes) =
    (l.foldl (fun c i => (List.range 8).foldl (fun c _ => crcBit c) (c ^^^ (bytes i).setWidth 32)) c).toNat := by
  induction l generalizing c with
  | nil => rfl
  | cons i l ih =>
    have hxor : Nat.xor c.toNat (bytes i).toNat = (c ^^^ (bytes i).setWidth 32).toNat := by
      rw [BitVec.toNat_xor, BitVec.toNat_setWidth_of_le (by decide)]
      rfl
    rw [List.map_cons, crcBytes_cons, hxor, crcBits_toNat, ih, List.foldl_cons]

theorem wordLE_eq_map (n : Nat) (v : Word) : wordLE n v = (List.range n).map fun i => v.extractLsb' (8 * i) 8 := by
  refine List.ext_getElem (by rw [wordLE_length, List.length_map, List.length_range]) fun i hi _ => ?_
  rw [wordLE_length] at hi
  rw [← List.getD_eq_getElem _ 0#8, wordLE, natLE_getD _ _ hi, List.getElem_map, List.getElem_range, BitVec.extractLsb', Nat.shiftRight_eq_div_pow,
    Nat.pow_mul]

end Sys2Proof

namespace Sys2Proof.Machine

open Sys2Proof.Claims

theorem crcFold_eq_crcWord (a b : Word) : crcFold a b = crcWord a b := by
  have hstart : bitF a 0 32 = (a.setWidth 32).toNat := by rw [bitF_zero, BitVec.toNat_setWidth]
  rw [crcFold, crcWord, hstart, wordLE_eq_map, crcBytes_map_toNat, nw, BitVec.ofNat_toNat]
  rfl

/-! Bit-stream channels (R197, R198). -/

section
variable {s : State} {d a b : GReg} {t : Bool} {va vb : Word} {y : Slot}

theorem nw_toNat (v : Word) : nw v.toNat = v := by rw [nw, BitVec.ofNat_toNat, BitVec.setWidth_eq]

theorem bitRead_wide (consume : Bool) (h : Reads s [a] (some d) [va] y) (hn : 64 < va.toNat) : bitRead consume d a t s = traps s 0x0B va :=
  (next_withOps h _).trans (traps_of_trap ((if_pos hn).trans (congrArg (Res.trap 0x0B) (nw_toNat va))))

theorem bitRead_unbound (consume : Bool) (h : Reads s [a] (some d) [va] y) (hn : va.toNat ≤ 64) (hv : y.chV 0 = false) :
    bitRead consume d a t s = traps s 0x0B unbound := by
  refine (next_withOps h _).trans (traps_of_trap ?_)
  simp [hv, Nat.not_lt.mpr hn]

theorem bitRead_noRoom (consume : Bool) (h : Reads s [a] (some d) [va] y) (hn : va.toNat ≤ 64) (hv : y.chV 0 = true)
    (hroom : ¬ chRoom y 0 va.toNat) : bitRead consume d a t s = traps s 0x0B (nw (y.chPos 0)) := by
  refine (next_withOps h _).trans (traps_of_trap ?_)
  rw [chRoom] at hroom
  simp [hv, Nat.not_lt.mpr hn, Nat.lt_of_not_le hroom]

theorem bitRead_reads (consume : Bool) {v : Nat} (h : Reads s [a] (some d) [va] y) (hn : va.toNat ≤ 64) (hv : y.chV 0 = true)
    (hroom : chRoom y 0 va.toNat) (hbits : bitsAt (popped s y) (y.chOff 0) (y.chPos 0) va.toNat = .ok v) :
    bitRead consume d a t s = completes s (modSlot (popped s y) s.cur fun x =>
      ((x.takeIf t a.toNat).setPos 0 (if consume then y.chPos 0 + va.toNat else y.chPos 0)).writeDst d.toNat (nw v)) := by
  refine (next_withOps h _).trans (completes_of_done ?_)
  rw [chRoom] at hroom
  simp [hv, Nat.not_lt.mpr hn, Nat.not_lt.mpr hroom, hbits, modSlot]

theorem exec_bsput_wide (h : Reads s [a, b] none [va, vb] y) (hn : 64 < vb.toNat) : exec (.bsput a b t) s = traps s 0x0B vb :=
  (next_withOps h _).trans (traps_of_trap ((if_pos hn).trans (congrArg (Res.trap 0x0B) (nw_toNat vb))))

theorem exec_bsput_unbound (h : Reads s [a, b] none [va, vb] y) (hn : vb.toNat ≤ 64) (hv : y.chV 1 = false) :
    exec (.bsput a b t) s = traps s 0x0B unbound := by
  refine (next_withOps h _).trans (traps_of_trap ?_)
  simp [hv, Nat.not_lt.mpr hn]

theorem exec_bsput_noRoom (h : Reads s [a, b] none [va, vb] y) (hn : vb.toNat ≤ 64) (hv : y.chV 1 = true) (hroom : ¬ chRoom y 1 vb.toNat) :
    exec (.bsput a b t) s = traps s 0x0B (nw (y.chPos 1)) := by
  refine (next_withOps h _).trans (traps_of_trap ?_)
  rw [chRoom] at hroom
  simp [hv, Nat.not_lt.mpr hn, Nat.lt_of_not_le hroom]

theorem exec_bsput_writes {u : State} (h : Reads s [a, b] none [va, vb] y) (hn : vb.toNat ≤ 64) (hv : y.chV 1 = true)
    (hroom : chRoom y 1 vb.toNat) (hput : putBits (popped s y) (y.chOff 1) (y.chPos 1) vb.toNat va.toNat = .ok u) (hu : slotAt u s.cur = y) :
    exec (.bsput a b t) s = completes s (modSlot u s.cur fun x => (x.takeIf t a.toNat).setPos 1 (y.chPos 1 + vb.toNat)) := by
  refine (next_withOps h _).trans (completes_of_done ?_)
  rw [chRoom] at hroom
  simp [hv, Nat.not_lt.mpr hn, Nat.not_lt.mpr hroom, hput, modSlot, hu]

/-- The channel that a word names by its lowest bit. -/
theorem bitF_channel (v : Word) : bitF v 0 1 = v.toNat % 2 := bitF_zero v 1

theorem exec_bsskip_unbound (h : Reads s [a, b] none [va, vb] y) (hv : y.chV (vb.toNat % 2) = false) :
    exec (.bsskip a b t) s = traps s 0x0B unbound := by
  refine (next_withOps h _).trans (traps_of_trap ?_)
  simp [bitF_channel, hv]

theorem exec_bsskip_skips (h : Reads s [a, b] none [va, vb] y) (hv : y.chV (vb.toNat % 2) = true) (hroom : chRoom y (vb.toNat % 2) va.toNat) :
    exec (.bsskip a b t) s = completes s (modSlot (popped s y) s.cur fun x =>
      (x.takeIf t a.toNat).setPos (vb.toNat % 2) (y.chPos (vb.toNat % 2) + va.toNat)) := by
  refine (next_withOps h _).trans (completes_of_done ?_)
  rw [chRoom] at hroom
  simp [bitF_channel, hv, Nat.not_lt.mpr hroom, modSlot]

theorem exec_bsskip_noRoom (h : Reads s [a, b] none [va, vb] y) (hv : y.chV (vb.toNat % 2) = true) (hroom : ¬ chRoom y (vb.toNat % 2) va.toNat) :
    exec (.bsskip a b t) s = traps s 0x0B (nw (y.chPos (vb.toNat % 2))) := by
  refine (next_withOps h _).trans (traps_of_trap ?_)
  rw [chRoom] at hroom
  simp [bitF_channel, hv, Nat.lt_of_not_le hroom]

theorem exec_bsalign_unbound (h : Reads s [a] (some d) [va] y) (hv : y.chV (va.toNat % 2) = false) :
    exec (.bsalign d a t) s = traps s 0x0B unbound := by
  refine (next_withOps h _).trans (traps_of_trap ?_)
  simp [bitF_channel, hv]

/-- Channel 0 only moves to the next byte. -/
theorem exec_bsalign_read (h : Reads s [a] (some d) [va] y) (hc : va.toNat % 2 = 0) (hv : y.chV 0 = true) :
    exec (.bsalign d a t) s = completes s (modSlot (popped s y) s.cur fun x =>
      ((x.takeIf t a.toNat).setPos 0 (8 * ((y.chPos 0 + 7) / 8))).writeDst d.toNat (nw ((y.chPos 0 + 7) / 8))) := by
  refine (next_withOps h _).trans (completes_of_done ?_)
  simp [bitF_channel, hc, hv, modSlot]

/-- Channel 1 is filled with 0 bits up to the next byte. -/
theorem exec_bsalign_write {u : State} (h : Reads s [a] (some d) [va] y) (hc : va.toNat % 2 = 1) (hv : y.chV 1 = true) (hu : slotAt u s.cur = y)
    (hput : putBits (popped s y) (y.chOff 1) (y.chPos 1) (8 * ((y.chPos 1 + 7) / 8) - y.chPos 1) 0 = .ok u) :
    exec (.bsalign d a t) s = completes s (modSlot u s.cur fun x =>
      ((x.takeIf t a.toNat).setPos 1 (8 * ((y.chPos 1 + 7) / 8))).writeDst d.toNat (nw ((y.chPos 1 + 7) / 8))) := by
  refine (next_withOps h _).trans (completes_of_done ?_)
  simp [bitF_channel, hc, hv, hput, modSlot, hu]

end

/-! Table decoding (R199). -/

/-- The width of a table's index (R199). -/
theorem bitF_codeWidth (v : Word) : bitF v 0 4 = v.toNat % 16 := bitF_zero v 4

section
variable {s : State} {d a b : GReg} {t : Bool} {va vb : Word} {y : Slot} (h : Reads s [a, b] (some d) [va, vb] y)
include h

theorem exec_bslut_badWidth (hk : vb.toNat % 16 = 0 ∨ 12 < vb.toNat % 16) : exec (.bslut d a b t) s = traps s 0x0B (nw (vb.toNat % 16)) := by
  refine (next_withOps h _).trans (traps_of_trap ?_)
  simp only [val_one, bitF_codeWidth, if_pos hk]

variable (h1 : 1 ≤ vb.toNat % 16) (h12 : vb.toNat % 16 ≤ 12)
include h1 h12

theorem exec_bslut_badTable {c : Nat} {v : Word} (htab : ownPtr (popped s y) va (4 * 2 ^ (vb.toNat % 16)) 4 needR = .error (c, v)) :
    exec (.bslut d a b t) s = traps s c v := by
  have hk : ¬ (vb.toNat % 16 = 0 ∨ 12 < vb.toNat % 16) := by omega
  refine (next_withOps h _).trans (traps_of_trap ?_)
  simp only [val_zero, val_one, bitF_codeWidth, if_neg hk, htab]

variable {tab : Nat} (htab : ownPtr (popped s y) va (4 * 2 ^ (vb.toNat % 16)) 4 needR = .ok tab)
include htab

theorem exec_bslut_unbound (hv : y.chV 0 = false) : exec (.bslut d a b t) s = traps s 0x0B unbound := by
  have hk : ¬ (vb.toNat % 16 = 0 ∨ 12 < vb.toNat % 16) := by omega
  refine (next_withOps h _).trans (traps_of_trap ?_)
  simp only [val_zero, val_one, bitF_codeWidth, if_neg hk, htab, popped_cur, slotAt_popped, hv, Bool.not_false, if_true]

/-- A code is decoded when the window holds its bits; else the table's entry is answered with bit 63 set. -/
theorem exec_bslut_entry {m i : Nat} {bs : List Byte} (hv : y.chV 0 = true) (hm : m = Nat.min (vb.toNat % 16) (8 * y.chLen 0 - y.chPos 0))
    (hi : bitsAt (popped s y) (y.chOff 0) (y.chPos 0) m = .ok i) (hbs : ownBytes (popped s y) (coreOf s.cur) (tab + 4 * i) 4 = .ok bs) :
    exec (.bslut d a b t) s = endsAs s (if 1 ≤ leNat bs % 32 ∧ leNat bs % 32 ≤ m
      then .done (modSlot (popped s y) s.cur fun x => ((x.takeIf t a.toNat).setPos 0 (y.chPos 0 + leNat bs % 32)).writeDst d.toNat (nw (leNat bs)))
      else .done (wrote (popped s y) d a t (nw (2 ^ 63 + leNat bs)))) := by
  have hk : ¬ (vb.toNat % 16 = 0 ∨ 12 < vb.toNat % 16) := by omega
  subst hm
  refine (next_withOps h _).trans (congrArg (endsAs s) ?_)
  simp only [val_zero, val_one, bitF_codeWidth, if_neg hk, htab, popped_cur, slotAt_popped, hv, Bool.not_true, Bool.false_eq_true, if_false, hi, hbs,
    wrote, modSlot]

end

/-! Binding (R198). -/

section
variable {s : State} {a b : GReg} {t : Bool} {va vb : Word} {y : Slot} {c : Nat} (h : Reads s [a, b] none [va, vb] y) (hc : c = vb.toNat / 2 ^ 63)
include h hc

theorem exec_bsbind_unbinds (hn : vb.toNat % 2 ^ 40 = 0) : exec (.bsbind a b t) s = completes s (modSlot (popped s y) s.cur fun x =>
    (x.takeIf t a.toNat).setCreg (0x010 + 2 * c) (setB (x.creg (0x010 + 2 * c)) 63 false)) := by
  have hch : bitF vb 63 1 = c := (bitF_high vb (by decide)).trans hc.symm
  refine (next_withOps h _).trans (completes_of_done ?_)
  simp only [val_one, hch, bitF_zero, if_pos hn]
  rfl

variable (hn : vb.toNat % 2 ^ 40 ≠ 0)
include hn

theorem exec_bsbind_badRange {k : Nat} {v : Word}
    (hrange : ownPtr (popped s y) va (vb.toNat % 2 ^ 40) 1 (if c = 0 then needR else needW) = .error (k, v)) :
    exec (.bsbind a b t) s = traps s k v := by
  have hch : bitF vb 63 1 = c := (bitF_high vb (by decide)).trans hc.symm
  refine (next_withOps h _).trans (traps_of_trap ?_)
  simp only [val_zero, val_one, hch, bitF_zero, if_neg hn, hrange]

theorem exec_bsbind_binds {off : Nat} (hrange : ownPtr (popped s y) va (vb.toNat % 2 ^ 40) 1 (if c = 0 then needR else needW) = .ok off) :
    exec (.bsbind a b t) s = completes s (modSlot (popped s y) s.cur fun x =>
      ((x.takeIf t a.toNat).setCreg (0x010 + 2 * c) (nw (2 ^ 63 + vb.toNat % 2 ^ 40 * 2 ^ 20 + off))).setPos c 0) := by
  have hch : bitF vb 63 1 = c := (bitF_high vb (by decide)).trans hc.symm
  refine (next_withOps h _).trans (completes_of_done ?_)
  simp only [val_zero, val_one, hch, bitF_zero, if_neg hn, hrange]
  rfl

end

/-! Waiting on rings (R201). -/

section
variable {s : State} {d a b : GReg} {t : Bool} {va vb : Word} {y : Slot} (h : Reads s [a, b] (some d) [va, vb] y)
include h

theorem exec_tfwake_noRing (hmask : va.toNat % 256 = 0) : exec (.tfwake d a b t) s = traps s 0x32 0#64 := by
  have hrings : bitF va 0 8 = va.toNat % 256 := bitF_zero va 8
  refine (next_withOps h _).trans (traps_of_trap ?_)
  simp only [val_zero, hrings, if_pos hmask]

/-- With every ring that it names bound, `tfwake` records what it waits for, and completes when one of them holds enough. -/
theorem exec_tfwake_bound {c : Core} {mask th : Nat} (hc : c = coreAt s (coreOf s.cur)) (hmask : mask = va.toNat % 256)
    (hth : th = Nat.max (vb.toNat % 2 ^ 16) 1) (hne : mask ≠ 0) (hbound : ∀ q, q < 8 → va.getLsbD q = true → (ringAt c q).v = true) :
    exec (.tfwake d a b t) s = endsAs s (if ringMask c mask th = 0
      then .park (modSlot (popped s y) s.cur fun x => x.setCreg 0x014 (nw (th * 2 ^ 16 + mask)))
      else .done (wrote (modSlot (popped s y) s.cur fun x => x.setCreg 0x014 (nw (th * 2 ^ 16 + mask))) d a t (nw (ringMask c mask th)))) := by
  have hrings : bitF va 0 8 = mask := (bitF_zero va 8).trans hmask.symm
  have hbits : bitF vb 0 16 = vb.toNat % 2 ^ 16 := bitF_zero vb 16
  have hfind : ((rangeFrom 0 8).find? fun q => mask.testBit q && !(ringAt c q).v) = none := by
    refine List.find?_eq_none.mpr fun q hq => ?_
    have hq8 : q < 8 := by simpa using (mem_rangeFrom.mp hq).2
    have hbit : mask.testBit q = va.getLsbD q := by
      rw [hmask, show 256 = 2 ^ 8 from rfl, Nat.testBit_mod_two_pow, decide_eq_true hq8, Bool.true_and]
      rfl
    rw [hbit]
    cases hv : va.getLsbD q with
    | false => simp
    | true => simp [hbound q hq8 hv]
  refine (next_withOps h _).trans (congrArg (endsAs s) ?_)
  simp only [val_zero, val_one, hrings, hbits, ← hth, if_neg hne, popped_cur, coreAt_popped, ← hc, hfind]
  rfl

end

end Sys2Proof.Machine

namespace Sys2Proof.Claims

open Sys2Proof.Machine

/-- Settles O52: the bits of a channel are those of the own LM, and each form by its checks in their order. -/
theorem transformForms : Obligations.TransformForms := by
  refine ⟨?bits, ?writes, ?read, ?put, ?skip, ?alignUnbound, ?alignRead, ?alignWrite, ?lut, ?lutTraps, ?bind, ?crc, ?hash, ?wake, ?wakeNone⟩
  case bits => exact fun s off pos n v h j hj => testBit_bitsAt h hj
  case writes => exact fun s off pos n v u h k => lmBit_of_putBits h k
  case read =>
    exact fun d a t s va y h => ⟨fun hn => ⟨bitRead_wide true h hn, bitRead_wide false h hn⟩,
      fun hn hv => ⟨bitRead_unbound true h hn hv, bitRead_unbound false h hn hv⟩,
      fun hn hv hroom => ⟨bitRead_noRoom true h hn hv hroom, bitRead_noRoom false h hn hv hroom⟩,
      fun v hn hv hroom hbits => ⟨bitRead_reads true h hn hv hroom hbits, bitRead_reads false h hn hv hroom hbits⟩⟩
  case put =>
    exact fun a b t s va vb y h => ⟨exec_bsput_wide h, exec_bsput_unbound h, exec_bsput_noRoom h,
      fun u hn hv hroom hput hu => exec_bsput_writes h hn hv hroom hput hu⟩
  case skip =>
    rintro a b t s va vb y c h rfl
    exact ⟨exec_bsskip_unbound h, exec_bsskip_skips h, exec_bsskip_noRoom h⟩
  case alignUnbound => exact fun d a t s va y h hv => exec_bsalign_unbound h hv
  case alignRead => exact fun d a t s va y h hc hv => exec_bsalign_read h (by simpa [BitVec.getLsbD, Nat.testBit_zero] using hc) hv
  case alignWrite =>
    exact fun d a t s va y u h hc hv hu hput => exec_bsalign_write h (by simpa [BitVec.getLsbD, Nat.testBit_zero] using hc) hv hu hput
  case lut =>
    intro d a b t s va vb y tab i m bs h h1 h12 hv htab hm hi hbs
    have hentry := exec_bslut_entry (t := t) h h1 h12 htab hv hm hi hbs
    refine ⟨fun hlow hhigh => ?_, fun hout => ?_⟩
    · exact hentry.trans (completes_of_done (if_pos ⟨hlow, hhigh⟩))
    · exact hentry.trans (completes_of_done (if_neg (by omega)))
  case lutTraps =>
    exact fun d a b t s va vb y h => ⟨exec_bslut_badWidth h, fun h1 h12 => ⟨fun c v htab => exec_bslut_badTable h h1 h12 htab,
      fun tab htab hv => exec_bslut_unbound h h1 h12 htab hv⟩⟩
  case bind =>
    exact fun a b t s va vb y c h hc => ⟨exec_bsbind_unbinds h hc, fun k v hn hrange => exec_bsbind_badRange h hc hn hrange,
      fun off hn hrange => exec_bsbind_binds h hc hn hrange⟩
  case crc => exact rowTwo_of_compute crcFold_eq_crcWord
  case hash => exact rowTwo_of_compute fun _ _ => rfl
  case wake =>
    intro d a b t s va vb y c h hc hne hbound
    have hwake := exec_tfwake_bound (t := t) h hc rfl rfl hne hbound
    refine ⟨fun hmask => ?_, fun hmask => ?_⟩
    · exact hwake.trans (completes_of_done (if_neg hmask))
    · have hpc : y.pc = (slotAt s s.cur).pc := by rw [Slot.prep_frame h]
      rw [hwake, if_pos hmask, endsAs_park]
      exact ⟨_, rfl, rfl, by simp [finish_park, keptStreams, hpc]⟩
  case wakeNone => exact fun d a b t s va vb y h hmask => exec_tfwake_noRing h hmask

end Sys2Proof.Claims
end

section
/-! The vector engine (R203 to R221): the forms that issue a command, its start and its elements, and its end. -/

namespace Sys2Proof.Machine

open Sys2Proof.Claims

/-! The forms of the vector engine (R207 to R209). -/

/-- What a VE form does once its operands are read; `es` are the address registers that it names. -/
def veOffer (z : State) (x : VCmd) (vfmt : Word) (es : List (BitVec 3)) (a : GReg) (t : Bool) : Res := match veCheck z x vfmt with
  | some (c, v) => .trap c v
  | none =>
    if 2 ≤ (coreAt z (coreOf z.cur)).vq.length ∨ x.tiles.any fun i => !(tileAt (clusterAt z (clusterOf (coreOf z.cur))) i).readable then .park z
    else .done (veQueued z x es a t)

theorem veGate_iff (s : State) (x : VCmd) :
    veGate s x ↔ ¬(x.tiles.any fun i => !(tileAt (clusterAt s (clusterOf (coreOf s.cur))) i).readable) := by
  simp [veGate]

/-- A form that issues a command traps, waits or queues it. -/
theorem issuesVe_of_veIssue {op : VOp} {dst : Option (BitVec 3)} {srcs : List (BitVec 3)} {a : GReg} {b : Option GReg} {t : Bool} {i : Instr}
    (hi : ∀ s, exec i s = .next (veIssue op dst srcs a b t s)) : IssuesVe op dst srcs a b t i := by
  rintro s vs y x h rfl
  have hoffer : exec i s = endsAs s (veOffer (popped s y) (veOf (popped s y) op dst srcs
      (if a = 0#5 then bitF ((slotAt (popped s y) s.cur).creg 0x70) 0 24 else (val vs 0).toNat) (if b.isSome then val vs 1 else 0#64))
        ((slotAt (popped s y) s.cur).creg 0x71) (dst.toList ++ srcs) a t) := (hi s).trans (next_withOps h _)
  rw [slotAt_popped] at hoffer
  generalize veOf (popped s y) op dst srcs _ _ = x at hoffer ⊢
  rw [hoffer]
  refine ⟨fun c v hc => traps_of_trap ?_, fun hc hwait => waits_of_park ?_, fun hc hroom hgo => completes_of_done ?_⟩
  · rw [veOffer, hc]
  · rw [veGate_iff, not_not] at hwait
    simp only [veOffer, hc]
    exact if_pos hwait
  · simp only [veOffer, hc]
    exact if_neg (not_or_intro (Nat.not_le.mpr hroom) ((veGate_iff s x).1 hgo))

theorem exec_vset {s : State} {a b : GReg} {va vb : Word} {y : Slot} (t : Bool) (e : BitVec 3) (h : Reads s [a, b] none [va, vb] y) :
    exec (.vset a b t e) s = completes s (modSlot (popped s y) s.cur fun x =>
      ((x.takeIf t a.toNat).setCreg (0x60 + 2 * e.toNat) va).setCreg (0x61 + 2 * e.toNat) (vb &&& 0x80FC0000FFFFFFFF#64)) :=
  (next_withOps h _).trans (completes_of_done rfl)

/-- The first row of the checks (R209). -/
theorem veCheck_count (s : State) {x : VCmd} (vfmt : Word) (h : 16777215 < x.n) : veCheck s x vfmt = some (0x43, nw x.n) := by
  rw [veCheck, if_pos h]

/-! The start of a command and its elements (R203, R210, R211). -/

section
variable {s s1 : State} {core : Nat} {x : VCmd} {r : EngRun}

/-- A command that no store barrier holds begins. -/
theorem exec_veCommandStart (hq : (coreAt s core).vq.head? = some x) (hrun : x.run = none) (hbar : barsHold (coreAt s core) x.iss.bars = false) :
    exec (.veCommandStart core) s = .next (veGo (veInit s core x).1 core x (veInit s core x).2) := by
  change execVeCommandStart core s = _
  simp only [execVeCommandStart, hq, hrun, hbar]
  rfl

/-- A form whose table has been invalidated since its issue fails. -/
theorem veInit_no_table {k : Nat} (hneeds : x.needs = some k) (htable : tableOf (coreAt s core) k = none) :
    (veInit s core x).2.fault.map EngFault.cause = some 0x44 := by
  simp only [veInit, hneeds, htable]
  rfl

/-- The reply with the last bytes of an element computes it. -/
theorem veReadDone_element {bs : List Byte} (hq : (coreAt s core).vq.head? = some x) (hrun : x.run = some r) (hio : x.io = EngIo.reset)
    (hout : r.out = true) : veReadDone s core x.id r.reads.length (.value bs) =
      veGo (veData s core x { r with out := false, reads := [], got := r.got ++ bs }).1 core x
        (veData s core x { r with out := false, reads := [], got := r.got ++ bs }).2 := by
  have hidle : x.io.out.isSome = false := by rw [hio]; rfl
  simp only [veReadDone, hq, hrun, hidle, hout, List.drop_length, ne_eq, not_true_eq_false, Bool.not_true, Bool.false_eq_true, if_false]

/-! The end of a command (R210, R211, R218). -/

theorem exec_veCommandEnd (hq : (coreAt s core).vq.head? = some x) (hrun : x.run = some r) (hend : r.ended = true) (hf : r.fault = none)
    (hio : x.io = EngIo.reset) : exec (.veCommandEnd core) s = .next (veClose s core x r) := by
  change execVeCommandEnd core s = _
  simp only [execVeCommandEnd, hq, hrun, hend, hf, hio]
  rfl

theorem exec_veFault {f : EngFault} (hq : (coreAt s core).vq.head? = some x) (hrun : x.run = some r) (hf : r.fault = some f)
    (hio : x.io = EngIo.reset) : exec (.veFault core) s = .next (veClose s core x r) := by
  change execVeFault core s = _
  simp only [execVeFault, hq, hrun, hf, hio]
  rfl

/-- A command that holds no elements of a byte in its middle has nothing left to write. -/
theorem vePartial_none (h : r.fault = none ∨ r.idx = []) (log : List EngAns) : vePartial x r log = .ok () log := by
  have hnone : r.fault.isNone ∨ r.idx = [] ∨ perByte x.wd = 1 := h.imp (fun hf => Option.isNone_iff_eq_none.2 hf) Or.inl
  simp only [vePartial, if_pos hnone]

theorem veTell_no_fault (hf : r.fault = none) : veTell s core x r = s := by
  simp only [veTell, hf]

/-- Without a stamp a fault is told by FIDX and FADDR, while the issuing thread holds its slot, and by an event. -/
theorem veTell_unstamped {f : EngFault} (hf : r.fault = some f) (hste : x.ste = false) :
    veTell s core x r = raiseEvent (if x.iss.lives s = true then
      modSlot s x.iss.slot fun y => (y.setCreg 0x74 (nw f.elem)).setCreg 0x75 (nw f.la) else s) core f.cause (nw f.la) := by
  simp only [veTell, hf, hste]
  rfl

section
variable (hpart : r.fault = none ∨ r.idx = []) (hio : x.io = EngIo.reset)
include hpart hio

/-- A command without a stamp tells its fault and leaves. -/
theorem veClose_unstamped (hste : x.ste = false) : veClose s core x r = veLeave (veTell s core x r) core x r := by
  have htold : x.io.told = false := by rw [hio]; rfl
  simp only [veClose, htold, vePartial_none hpart, hste, Bool.not_false, Bool.false_eq_true, if_true, if_false]

/-- A command with a stamp writes it; without a fault there is nothing to tell. -/
theorem veClose_stamps {pa : Nat} {acc : Acc} (hste : x.ste = true) (hf : r.fault = none) (hal : x.iss.at x.stamp % 8 = 0)
    (hp : engPhysical s (.ve core) (coreOf x.iss.slot) x.iss.asid (x.iss.at x.stamp) needW = .ok s1 pa acc) :
    veClose s core x r = setVIo (sendMsg s1 (accessMsg s1 (.ve core) x.iss pa
      (.engWrite pa (wordLE 8 (stampWord 0 x.seq)) ⟨.ve core, x.id, 0, 1, 1⟩ acc none []))) core ⟨some (x.iss.at x.stamp, pa), [], true⟩ := by
  have htold : x.io.told = false := by rw [hio]; rfl
  simp only [veClose, htold, vePartial_none hpart, hste, stampEnd_unasked _ _ _ _ _ hal, hf, veTell_no_fault hf, Option.map_none,
    Option.getD_none, Bool.not_true, Bool.false_eq_true, if_false, engAsk_write x.id 0 1 hp]

end

section
variable (htiles : x.tiles = [])
include htiles

theorem veLeave_untiled (hop : x.op ≠ .vcbld) :
    veLeave s core x r = endCmd (modCore s core fun c => { c with vq := c.vq.drop 1 }) x.iss.slot x.id := by
  have hkeeps : ¬(x.op = .vcbld ∧ (r.fault.isNone ∨ x.loads)) := fun h => hop h.1
  simp only [veLeave, htiles, if_neg hkeeps, List.foldl_nil]

/-- A `vcbld` without a fault replaces its table, or invalidates it. -/
theorem veLeave_vcbld (hop : x.op = .vcbld) (hf : r.fault = none) :
    veLeave s core x r = modCore (endCmd (modCore s core fun c => { c with vq := c.vq.drop 1 }) x.iss.slot x.id) core fun c =>
      setTable c x.entries (if x.loads then some r.table else none) := by
  simp only [veLeave, htiles, hop, hf, List.foldl_nil, Option.isNone_none, true_or, true_and, and_self, if_true]

end
end

end Sys2Proof.Machine

namespace Sys2Proof.Claims

open Sys2Proof.Machine

/-- Settles O48: the forms by their checks and their queue, and a command by its start, its elements and how it leaves. -/
theorem vectorEngine : Obligations.VectorEngine := by
  refine ⟨⟨?vset, ?vadd, ?vsub, ?vmul, ?vfma, ?vmax, ?vmin, ?vabs, ?vneg, ?vscale, ?viadd, ?visub, ?vimul, ?viand, ?vior, ?vixor, ?vishl, ?vishr,
    ?vconv, ?vbfp, ?vbfpx, ?vcbq, ?vcbx, ?vsat, ?vsum, ?vmaxr, ?vdot, ?vcbld, ?count⟩, ?start, ?noTable, ?element, ?commandEnd, ?leave, ?fault⟩
  case vset => exact fun a b t e s va vb y h => exec_vset t e h
  case vadd | vsub | vmul | vfma | vmax | vmin | viadd | visub | vimul | viand | vior | vixor | vdot =>
    exact fun a t x y e => issuesVe_of_veIssue fun _ => rfl
  case vabs | vneg | vconv | vbfp | vbfpx | vcbq | vcbx | vsum | vmaxr => exact fun a t x e => issuesVe_of_veIssue fun _ => rfl
  case vscale | vishl | vishr | vsat => exact fun a b t x e => issuesVe_of_veIssue fun _ => rfl
  case vcbld => exact fun b x => issuesVe_of_veIssue fun _ => rfl
  case count => exact fun s x f h => veCheck_count s f h
  case start => exact fun core s x hq hrun hbar => exec_veCommandStart hq hrun hbar
  case noTable => exact fun s core x k hneeds htable => veInit_no_table hneeds htable
  case element =>
    rintro core s x r n bs hq hrun hio hout rfl
    exact veReadDone_element hq hrun hio hout
  case commandEnd =>
    intro core s x r hq hrun hend hf hio
    have hclose := exec_veCommandEnd hq hrun hend hf hio
    refine ⟨fun hste => ?_, ?_⟩
    · rw [hclose, veClose_unstamped (.inl hf) hio hste, veTell_no_fault hf]
    · rintro la s1 pa acc hste rfl hal hp
      exact hclose.trans (congrArg Host.Outcome.next (veClose_stamps (.inl hf) hio hste hf hal hp))
  case leave => exact fun core s x r htiles => ⟨veLeave_untiled htiles, veLeave_vcbld htiles⟩
  case fault =>
    intro core s x r f hq hrun hf hidx hio hste
    have hclose : exec (.veFault core) s = .next (veLeave (veTell s core x r) core x r) :=
      (exec_veFault hq hrun hf hio).trans (congrArg Host.Outcome.next (veClose_unstamped (.inr hidx) hio hste))
    rw [veTell_unstamped hf hste] at hclose
    exact ⟨fun hlives => by rw [hclose, if_pos hlives], fun hlives => by rw [hclose, if_neg (ne_true_of_eq_false hlives)]⟩

end Sys2Proof.Claims
end

section
/-! The machinery of the sites: the laws of the command queue (R246), of a site's registers, of drift and of the group timers, each about one function
of the model; then calibration, probes and the pacer (R234 to R238), the thermal stop (R239, R263), the watchdog (R264, R265) and the decomposition
engine (R230, R262). -/

namespace Sys2Proof

/-- A counter field reads its value and what was added, modulo its size. -/
theorem bitF_addF_self (w : Word) {lo n : Nat} (k : Nat) (h : lo + n ≤ 64) : bitF (Machine.addF w lo n k) lo n = (bitF w lo n + k) % 2 ^ n :=
  bitF_setF_self w _ h

/-- A search by position finds the first element that passes. -/
theorem findAt_first {α : Type} {p : α → Bool} {l : List α} {i : Nat} {x : α} (hx : l[i]? = some x) (hp : p x = true)
    (hbefore : ∀ j y, j < i → l[j]? = some y → p y = false) : findAt p l = some i := by
  induction l generalizing i with
  | nil => simp at hx
  | cons a l ih =>
    cases i with
    | zero =>
      obtain rfl : a = x := by simpa using hx
      rw [findAt, if_pos hp]
    | succ i =>
      have ha : p a = false := hbefore 0 a (Nat.succ_pos i) rfl
      have hrest : findAt p l = some i := ih hx fun j y hj hy => hbefore (j + 1) y (Nat.succ_lt_succ hj) hy
      simp [findAt, ha, hrest]

/-- A search by value finds the element at a position before which none passes. -/
theorem find?_first {α : Type} {p : α → Bool} {l : List α} {i : Nat} {x : α} (hx : l[i]? = some x) (hp : p x = true)
    (hbefore : ∀ j y, j < i → l[j]? = some y → p y = false) : l.find? p = some x := by
  obtain ⟨hi, hxi⟩ := List.getElem?_eq_some_iff.1 hx
  refine List.find?_eq_some_iff_getElem.2 ⟨hp, i, hi, hxi, fun j hj => ?_⟩
  simp [hbefore j _ hj (List.getElem?_eq_getElem (hj.trans hi))]

end Sys2Proof

namespace Sys2Proof.Machine

open Sys2Proof.Claims

/-! The command queue (R246, R247). -/

section
variable {s : State} {cl i : Nat} {x : MxCmd}

/-- While no command has ended, none leaves the queue. -/
theorem mxRetire_of_open (h : ∀ y ∈ (clusterAt s cl).mxq, y.ended = none) : mxRetire s cl = s := by
  rw [mxRetire]
  generalize (clusterAt s cl).mxq.length = fuel
  cases fuel with
  | zero => rfl
  | succ n =>
    cases hq : (clusterAt s cl).mxq with
    | nil => simp only [mxRetireN, hq]
    | cons y ys =>
      have hy : y.ended = none := h y (hq ▸ List.mem_cons_self)
      simp only [mxRetireN, hq, hy]

theorem mxRetire_of_mxReady (h : mxReady s cl i x) : mxRetire s cl = s := by
  obtain ⟨_, hopen, _⟩ := h
  exact mxRetire_of_open hopen

theorem mxRetire_of_mxRunning (h : mxRunning s cl i x) : mxRetire s cl = s := by
  obtain ⟨_, hopen, _⟩ := h
  exact mxRetire_of_open hopen

/-- The command whose turn has come is the ready one of its kind. -/
theorem ready_of_mxReady (h : mxReady s cl i x) {kind : MxCmd → Bool} (hk : kind x = true) : ready s cl kind = some x := by
  obtain ⟨hx, _, hbefore, hunstarted, hstart, hbar⟩ := h
  have hfirst : findAt (fun y => !y.started) (clusterAt s cl).mxq = some i :=
    findAt_first hx (by simp [hunstarted]) fun j y hj hy => by simp [hbefore j y hj hy]
  have hnext : nextCmd (clusterAt s cl) = some (i, x) := by simp [nextCmd, hfirst, hx]
  simp [ready, hnext, hk, hstart, hbar]

/-- The first command with its code, once it has started, is the running one of its kind. -/
theorem running_of_mxRunning (h : mxRunning s cl i x) : running s cl (fun y => decide (y.fn = x.fn)) = some x := by
  obtain ⟨hx, hopen, hbefore, hstarted⟩ := h
  refine find?_first hx ?_ fun j y hj hy => ?_
  · simp [hstarted, hopen x (List.mem_of_getElem? hx)]
  · simp [hbefore j y hj hy]

/-- No command of a code runs where none is queued. -/
theorem running_none {fn : Nat} (h : ∀ y ∈ (clusterAt s cl).mxq, y.fn ≠ fn) : running s cl (fun y => decide (y.fn = fn)) = none :=
  List.find?_eq_none.2 fun y hy => by simp [h y hy]

end

/-! A site's registers, and what events leave of it. -/

@[simp] theorem Site.creg_setCreg_self (x : Site) (n : Nat) (v : Word) : (x.setCreg n v).creg n = v := SMap.get_set_self _ _ _ _

@[simp] theorem siteAt_raiseEvent (s : State) (core cause : Nat) (v : Word) (k : Nat) : siteAt (raiseEvent s core cause v) k = siteAt s k := rfl

@[simp] theorem siteAt_raiseOwners (s : State) (k cause : Nat) (v : Word) (j : Nat) : siteAt (raiseOwners s k cause v) j = siteAt s j := by
  refine keeps_foldl (g := fun s => siteAt s j) (fun s c => ?_) _ s
  cases (clusterAt s c).own with
  | none => rfl
  | some o => exact siteAt_raiseEvent s _ _ _ j

/-- Without an owner of the one cluster that uses a site, nobody is told. -/
theorem raiseOwners_unowned {s : State} {k cl : Nat} (husers : siteUsers s k = [cl]) (hown : (clusterAt s cl).own = none) (cause : Nat) (v : Word) :
    raiseOwners s k cause v = s := by
  simp only [raiseOwners, husers, List.foldl_cons, List.foldl_nil, hown]

/-! Calibration (R238, R239). -/

section
variable {s : State} {cl i k : Nat} {x : MxCmd} (hsite : siteOf s cl = some k) (hret : siteRetired s k = false)
include hsite hret

theorem exec_omuCalRun_starts (h : mxReady s cl i x) (hfn : x.fn = 15) (hbusy : siteBusy s k cl = false) (hst : (siteAt s k).st ≠ 4)
    (hhu : s.modul.hu = .idle) : exec (.omuCalRun cl) s =
      .next (modCmd (modSite s k fun y => { y with st := 1, trimOut := false, tmax := 0, sym := y.lateSym s.time }) cl x.id fun y =>
        { y with started := true }) := by
  have hgo : ¬(siteRetired s k ∨ siteBusy s k cl ∨ (siteAt s k).st = 4 ∨ s.modul.hu ≠ .idle) := by simp [hret, hbusy, hst, hhu]
  have hready : ready s cl (fun y => decide (y.fn = 15)) = some x := ready_of_mxReady h (by simp [hfn])
  change execOmuCalRun cl s = _
  simp only [execOmuCalRun, mxRetire_of_mxReady h, hready, hsite, if_neg hgo]

theorem exec_omuCalEnd_ends (h : mxRunning s cl i x) (hfn : x.fn = 15) (hst : (siteAt s k).st = 1) :
    exec (.omuCalEnd cl) s = .next (mxEnd (calibrate s cl k) cl x 0 0 0 0) := by
  have hrunning : running s cl (fun y => decide (y.fn = 15)) = some x := by simpa [hfn] using running_of_mxRunning h
  have hgo : (siteAt s k).st = 1 ∧ !siteRetired s k := by simp [hst, hret]
  change execOmuCalEnd cl s = _
  simp only [execOmuCalEnd, mxRetire_of_mxRunning h, hrunning, hsite, if_pos hgo]

end

theorem st_calibrate (s : State) (cl k : Nat) : (siteAt (calibrate s cl k) k).st = 2 := by
  rw [calibrate, siteAt_modSite_self]

/-! Probes, the pacer and drift (R234 to R237). -/

section
variable {s : State} {cl k : Nat} (hsite : siteOf s cl = some k)
include hsite

/-- A probe that falls due moves the symbol count by 2^P and is made. -/
theorem exec_omuProbe_due {p : Nat} (hp : p = 2 ^ bitF ((siteAt s k).creg 0x283) 16 5) (hruns : probesRun s k = true)
    (hsettle : (clusterAt s cl).settle = false) (huser : (siteAt s k).user.getD cl = cl) (hdue : (siteAt s k).sym + p ≤ 10 * s.time) :
    exec (.omuProbe cl) s = .next (probeOnce cl k (siteAt s k).nextk (modSite s k fun x => { x with sym := x.sym + p })) := by
  subst hp
  have hgo : ¬(!probesRun s k ∨ (clusterAt s cl).settle ∨ (siteAt s k).user.getD cl ≠ cl ∨
      10 * s.time < (siteAt s k).sym + 2 ^ bitF ((siteAt s k).creg 0x283) 16 5) := by
    simp [hruns, hsettle, huser, Nat.not_lt.2 hdue]
  change execOmuProbe cl s = _
  simp only [execOmuProbe, hsite, if_neg hgo]

variable (tmax : Nat) (hdue : (siteAt s k).pacerAt ≤ s.time)
include hdue

theorem exec_pacerUpdate_within : exec (.pacerUpdate cl tmax false) s =
    .next (modSite s k fun x => { x with tmax := tmax % 256, trimOut := false, pacerAt := s.time + 16000 }) := by
  change execPacerUpdate cl tmax false s = _
  simp only [execPacerUpdate, hsite, if_neg (Nat.not_lt.2 hdue), Bool.false_eq_true, if_false]

/-- An update beyond the trim range is a drift of the site whose trim it records, with a free value for its probe. -/
theorem exec_pacerUpdate_beyond : exec (.pacerUpdate cl tmax true) s = .next (drift
    { modSite s k fun x => { x with tmax := tmax % 256, trimOut := true, pacerAt := s.time + 16000, clean := 0 } with free := s.free + 1 }
    k true (Config.freeNat s.free)) := by
  change execPacerUpdate cl tmax true s = _
  simp only [execPacerUpdate, hsite, if_neg (Nat.not_lt.2 hdue), if_true]
  rfl

end

/-- A drift of a site: the event is counted, and READY becomes DRIFT. -/
theorem siteAt_drift (s : State) (k : Nat) (trim : Bool) (p : Nat) : siteAt (drift s k trim p) k =
    { (siteAt s k).setCreg 0x288 (addF ((siteAt s k).creg 0x288) 32 32 1) with
      st := if (siteAt s k).st = 2 then 3 else (siteAt s k).st, clean := 0 } := by
  rw [drift, siteAt_raiseOwners, siteAt_modSite_self]

theorem driftCount_drift (s : State) (k : Nat) (trim : Bool) (p : Nat) :
    ((siteAt (drift s k trim p) k).creg 0x288).toNat / 2 ^ 32 = (((siteAt s k).creg 0x288).toNat / 2 ^ 32 + 1) % 2 ^ 32 := by
  have hcount : (siteAt (drift s k trim p) k).creg 0x288 = addF ((siteAt s k).creg 0x288) 32 32 1 := by
    rw [siteAt_drift]
    exact Site.creg_setCreg_self _ _ _
  rw [hcount, ← bitF_high _ (by decide : 32 + 32 = 64), ← bitF_high _ (by decide : 32 + 32 = 64), bitF_addF_self _ _ (by decide)]

/-! The thermal stop (R239, R263). -/

/-- A site has the temperature that its hottest sensor reads. -/
abbrev sensed (s : State) (k temp : Nat) : State := modSite s k fun x => { x with temp := temp % 65536 }

/-- A site stops at a temperature, and the stop is counted. -/
abbrev heatStopped (s : State) (k temp : Nat) : State :=
  modSite (sensed s k temp) k fun x => { x.setCreg 0x288 (addF (x.creg 0x288) 0 32 1) with st := 4 }

theorem siteAt_sensed (s : State) (k temp : Nat) : siteAt (sensed s k temp) k = { siteAt s k with temp := temp % 65536 } :=
  siteAt_modSite_self _ _ _

theorem siteAt_heatStopped (s : State) (k temp : Nat) : siteAt (heatStopped s k temp) k =
    { (siteAt s k).setCreg 0x288 (addF ((siteAt s k).creg 0x288) 0 32 1) with st := 4, temp := temp % 65536 } := by
  rw [heatStopped, siteAt_modSite_self, siteAt_sensed]
  rfl

theorem stopCount_heatStopped (s : State) (k temp : Nat) :
    ((siteAt (heatStopped s k temp) k).creg 0x288).toNat % 2 ^ 32 = (((siteAt s k).creg 0x288).toNat + 1) % 2 ^ 32 := by
  have hcount : (siteAt (heatStopped s k temp) k).creg 0x288 = addF ((siteAt s k).creg 0x288) 0 32 1 := by
    rw [siteAt_heatStopped]
    exact Site.creg_setCreg_self _ _ _
  rw [hcount, ← bitF_zero, bitF_addF_self _ _ (by decide), bitF_zero, Nat.mod_add_mod]

section
variable {s : State} {cl k temp : Nat} (hsite : siteOf s cl = some k)
include hsite

/-- A site that one cluster uses, without an owner and without a calibration, stops and nothing else happens. -/
theorem exec_omuThermalStop_hot (husers : siteUsers s k = [cl]) (hown : (clusterAt s cl).own = none)
    (hcal : ∀ x ∈ (clusterAt s cl).mxq, x.fn ≠ 15) (hst : (siteAt s k).st = 1 ∨ (siteAt s k).st = 2 ∨ (siteAt s k).st = 3)
    (hhot : bitF ((siteAt s k).creg 0x285) 32 8 * 256 ≤ temp % 65536) :
    exec (.omuThermalStop cl temp) s = .next (heatStopped s k temp) := by
  have hstop : ((siteAt (sensed s k temp) k).st = 1 ∨ (siteAt (sensed s k temp) k).st = 2 ∨ (siteAt (sensed s k temp) k).st = 3) ∧
      bitF ((siteAt (sensed s k temp) k).creg 0x285) 32 8 * 256 ≤ (siteAt (sensed s k temp) k).temp := by
    rw [siteAt_sensed]
    exact ⟨hst, hhot⟩
  have hquiet : raiseOwners (heatStopped s k temp) k 0x4B (nw (k % 168)) = heatStopped s k temp :=
    raiseOwners_unowned (s := heatStopped s k temp) husers hown _ _
  have husersStopped : siteUsers (heatStopped s k temp) k = [cl] := husers
  have hrunning : running (heatStopped s k temp) cl (fun x => decide (x.fn = 15)) = none := running_none hcal
  change execOmuThermalStop cl temp s = _
  simp only [execOmuThermalStop, hsite, if_pos hstop, hquiet, husersStopped, List.foldl_cons, List.foldl_nil, hrunning]

theorem exec_omuThermalResume_cool (hst : (siteAt s k).st = 4) (hcool : temp % 65536 < bitF ((siteAt s k).creg 0x285) 40 8 * 256) :
    exec (.omuThermalResume cl temp) s =
      .next (modSite (sensed s k temp) k fun x => { x with st := 3, clean := 0, sym := x.lateSym s.time }) := by
  have hgo : (siteAt (sensed s k temp) k).st = 4 ∧
      (siteAt (sensed s k temp) k).temp < bitF ((siteAt (sensed s k temp) k).creg 0x285) 40 8 * 256 := by
    rw [siteAt_sensed]
    exact ⟨hst, hcool⟩
  change execOmuThermalResume cl temp s = _
  simp only [execOmuThermalResume, hsite, if_pos hgo]

end

/-! The watchdog of a matrix group (R264, R265). -/

section
variable {s : State} {cl n : Nat}

theorem watchdogDue_of_timer {t : GTimer} (ht : t ∈ (clusterAt s cl).gtimers) (hn : t.n = n) (hstop : t.stopped = false)
    (hpause : t.pausedAt = none) (hgrp : grpV (clusterAt s cl) = true) (hlim : t.start + t.off + grpLim (clusterAt s cl) ≤ tickOf s) :
    watchdogDue s n cl = true := by
  have htimer : (clusterAt s cl).gtimers.any (fun t => decide (t.n = n) && !t.stopped && t.pausedAt.isNone &&
      decide (t.start + t.off + grpLim (clusterAt s cl) ≤ tickOf s)) = true :=
    List.any_eq_true.2 ⟨t, ht, by simp [hn, hstop, hpause, hlim]⟩
  simp only [watchdogDue, hgrp, htimer, Bool.and_self]

theorem exec_groupWatchdog_due (h : watchdogDue s n cl = true) :
    exec (.groupWatchdog cl n) s = .next (((groupOf s cl).filter (watchdogDue s n)).foldl (watchdogFire n) s) := by
  change execGroupWatchdog cl n s = _
  rw [execGroupWatchdog, if_pos h]

end

/-- A member whose timer of pass `n` has ended, with WDOG set. -/
def watchdogEnded (n : Nat) (s : State) (m : Nat) : State := modCluster s m fun c =>
  { c.setCreg 0x2C8 (setB (c.creg 0x2C8) 31 true) with gtimers := c.gtimers.map fun t => if t.n = n then { t with stopped := true } else t }

section
variable {s : State} {m : Nat} (n : Nat)

theorem watchdogFire_owned {o : Nat} (h : (clusterAt s m).own = some o) : watchdogFire n s m = raiseEvent (watchdogEnded n s m) (coreOf o) 0x4F
    (nw (grpId (clusterAt s m) + n * 2 ^ 8 + if grpPn (clusterAt s m) < n then 2 ^ 40 else 0)) := by
  have hlate : (decide (grpPn (clusterAt s m) < n)).toNat * 2 ^ 40 = if grpPn (clusterAt s m) < n then 2 ^ 40 else 0 := by
    split <;> simp [*]
  simp only [watchdogFire, h, hlate]
  rfl

theorem watchdogFire_unowned (h : (clusterAt s m).own = none) : watchdogFire n s m = watchdogEnded n s m := by
  simp only [watchdogFire, h]
  rfl

end

/-! The decomposition engine (R230, R262). -/

theorem state_of_engTranslate_ok {s u : State} {eng : Agent} {cl asid la pa : Nat} {need : Need} {acc : Acc}
    (h : engTranslate s eng cl asid la need = .ok u pa acc) : u = s := by
  simp only [engTranslate] at h
  split at h
  case h_1 => cases h
  case h_2 =>
    split at h
    case h_1 =>
      split at h
      · cases h
        rfl
      · cases h
    case h_2 => split at h <;> cases h

/-- An engine's address that is formed at once leaves the state as it is. -/
theorem state_of_engPhysical_ok {s u : State} {eng : Agent} {core asid la pa : Nat} {need : Need} {acc : Acc}
    (h : engPhysical s eng core asid la need = .ok u pa acc) : u = s := by
  simp only [engPhysical] at h
  split at h
  case isTrue => exact state_of_engTranslate_ok h
  case isFalse =>
    split at h
    case isTrue => cases h
    case isFalse =>
      split at h
      case h_1 =>
        split at h
        · cases h
        · split at h <;> cases h
          rfl
      case h_2 => cases h
      case h_3 =>
        split at h <;> cases h
        rfl

section
variable {s : State} {cl : Nat} {d : DceCmd}

/-- A decomposition that needs bytes of its block asks for them. -/
theorem dceRead_asks {u : State} {la n pa : Nat} {acc : Acc} (hres : d.result = none) (hio : d.io = EngIo.reset)
    (hread : readBlock d 32 0 [] [] = .need (.read [(la, n)]))
    (hp : engPhysical s (.dce cl) (coreOf d.iss.slot) d.iss.asid la needR = .ok u pa acc) :
    dceRead s cl d = setDce (sendMsg u (accessMsg u (.dce cl) d.iss pa (.engRead pa n [] ⟨.dce cl, d.id, 0, 1, 1⟩ acc []))) cl
      { d with io := ⟨some (la, pa), [], false⟩ } := by
  have hgo : ¬(d.io.out.isSome ∨ d.result.isSome) := by simp [hres, hio, EngIo.reset]
  have hlog : d.io.log = [] := by rw [hio]; rfl
  rw [dceRead, if_neg hgo, hlog]
  simp only [hread, dceAsk, engAsk_read d.id 0 1 hp, hio]
  rfl

/-- A decomposition that has read its block is computed. -/
theorem dceRead_computes {w : List FVal} {l : List EngAns} (hres : d.result = none) (hout : d.io.out = none)
    (hread : readBlock d 32 0 d.io.log [] = .ok w l) :
    dceRead s cl d = setDce s cl { d with result := some (decomposeBlock d w), io := EngIo.reset } := by
  have hgo : ¬(d.io.out.isSome ∨ d.result.isSome) := by simp [hres, hout]
  rw [dceRead, if_neg hgo, hread]

section
variable {ds : List DceCmd} (hq : (clusterAt s cl).dce = d :: ds)
include hq

/-- The head of the queue, running or held by no store barrier, goes on with its reads. -/
theorem exec_dceDecompose_goes (h : d.running = true ∨ barsHold (coreAt s (coreOf d.iss.slot)) d.iss.bars = false) :
    exec (.dceDecompose cl) s = .next (dceRead (setDce s cl { d with running := true }) cl { d with running := true }) := by
  have hgo : ¬(!d.running ∧ barsHold (coreAt s (coreOf d.iss.slot)) d.iss.bars) := by rcases h with h | h <;> simp [h]
  change execDceDecompose cl s = _
  simp only [execDceDecompose, hq, if_neg hgo]

theorem exec_dceEnd_head : exec (.dceEnd cl) s = .next (dceEnd s cl d) := by
  change execDceEnd cl s = _
  simp only [execDceEnd, hq]

end

/-! The end of a computed decomposition. -/

section
variable (hout : d.io.out = none)
include hout

/-- A decomposition that failed only writes its stamp. -/
theorem dceEnd_failed {cause cebc sweeps : Nat} {bs : List Byte} (hres : d.result = some (cause, bs, cebc, sweeps)) (hc : cause ≠ 0) :
    dceEnd s cl d = dceStamp s cl d cause 0 sweeps := by
  simp only [dceEnd, hout, hres, if_pos hc, Option.isSome_none, Bool.false_eq_true, if_false]

variable {cebc sweeps : Nat} {bs : List Byte} (hres : d.result = some (0, bs, cebc, sweeps))
include hres

/-- Once its image is written, a decomposition writes its stamp. -/
theorem dceEnd_told (htold : d.io.told = true) : dceEnd s cl d = dceStamp s cl d 0 cebc sweeps := by
  simp only [dceEnd, hout, hres, htold, Option.isSome_none, Bool.false_eq_true, ne_eq, not_true_eq_false, if_false, if_true]

variable (htold : d.io.told = false)
include htold

theorem dceEnd_written {l : List EngAns} (hput : engWriteCuts true (putPieces d.dst bs) d.io.log = .ok () l) :
    dceEnd s cl d = dceStamp (setDce s cl { d with io := ⟨none, [], true⟩ }) cl { d with io := ⟨none, [], true⟩ } 0 cebc sweeps := by
  simp only [dceEnd, hout, hres, htold, hput, Option.isSome_none, Bool.false_eq_true, ne_eq, not_true_eq_false, if_false]

/-- A decomposition whose image is refused ends with the cause of the refusal. -/
theorem dceEnd_refused {c la pa : Nat} {l : List EngAns} (hput : engWriteCuts true (putPieces d.dst bs) d.io.log = .fault c la pa l) :
    dceEnd s cl d = dceStamp (setDce s cl { d with result := some (c, [], 0, sweeps), io := EngIo.reset }) cl
      { d with result := some (c, [], 0, sweeps), io := EngIo.reset } c 0 sweeps := by
  simp only [dceEnd, hout, hres, htold, hput, Option.isSome_none, Bool.false_eq_true, ne_eq, not_true_eq_false, if_false]

end

/-- With its stamp performed, a decomposition leaves. -/
theorem dceStamp_performed (hal : d.stamp % 8 = 0) (hlog : d.io.log = [.done 1]) (cause cebc sweeps : Nat) :
    dceStamp s cl d cause cebc sweeps = dceLeave s cl d cebc sweeps := by
  simp only [dceStamp, hlog, stampEnd_performed _ _ _ _ _ hal]

end

end Sys2Proof.Machine

namespace Sys2Proof.Claims

open Sys2Proof.Machine

/-- Settles O51: each event of a site or a group by its conditions and thresholds, and a decomposition by its reads, its image and its stamp. -/
theorem opticalSites : Obligations.OpticalSites := by
  refine ⟨?calRun, ?calEnd, ?calibrated, ?probe, ?pacer, ?drifts, ?stop, ?resume, ?watchdog, ?fire, ?blockRead, ?blockComputed, ?ends,
    ?leaves, ?refused⟩
  case calRun => exact fun cl s i x k h hfn hsite hret hbusy hst hhu => exec_omuCalRun_starts hsite hret h hfn hbusy hst hhu
  case calEnd => exact fun cl s i x k h hfn hsite hret hst => exec_omuCalEnd_ends hsite hret h hfn hst
  case calibrated => exact st_calibrate
  case probe => exact fun cl s k hsite hruns hsettle huser hdue => exec_omuProbe_due hsite rfl hruns hsettle huser hdue
  case pacer =>
    refine fun cl tmax s k hsite hdue => ⟨exec_pacerUpdate_within hsite tmax hdue, _, _, exec_pacerUpdate_beyond hsite tmax hdue, ?_⟩
    have hself (f : Site → Site) : siteAt { modSite s k f with free := s.free + 1 } k = f (siteAt s k) := siteAt_modSite_self s k f
    rw [hself]
    exact ⟨rfl, rfl⟩
  case drifts => exact fun s k trim p => ⟨by rw [siteAt_drift], driftCount_drift s k trim p⟩
  case stop =>
    exact fun cl temp s k hsite husers hown hcal hst hhot => ⟨_, exec_omuThermalStop_hot hsite husers hown hcal hst hhot,
      by rw [siteAt_heatStopped], by rw [siteAt_heatStopped], stopCount_heatStopped s k temp⟩
  case resume =>
    exact fun cl temp s k hsite hst hcool => ⟨_, exec_omuThermalResume_cool hsite hst hcool, by simp only [siteAt_modSite_self, and_self]⟩
  case watchdog =>
    exact fun cl n s t ht hn hstop hpause hgrp hlim => exec_groupWatchdog_due (watchdogDue_of_timer ht hn hstop hpause hgrp hlim)
  case fire => exact fun n s m => ⟨_, rfl, fun o h => watchdogFire_owned n h, watchdogFire_unowned n⟩
  case blockRead =>
    rintro cl s d ds e la n u pa acc hq hrun hres hio hbar rfl hread hp
    rw [exec_dceDecompose_goes hq (.inr hbar), dceRead_asks (d := { d with running := true }) hres hio hread hp, accessMsg,
      state_of_engPhysical_ok hp]
    rfl
  case blockComputed =>
    intro cl s d ds w l hq hrun hres hout hread
    have hsame : { d with running := true } = d := by rw [← hrun]
    rw [exec_dceDecompose_goes hq (.inl hrun), hsame, dceRead_computes hres hout hread]
  case ends =>
    intro cl s d ds cause bs cebc sweeps hq hres hout
    rw [exec_dceEnd_head hq]
    refine ⟨fun hc => ?failed, ?told, ?written⟩
    case failed => rw [dceEnd_failed hout hres hc]
    case told =>
      rintro rfl htold
      rw [dceEnd_told hout hres htold]
    case written =>
      rintro l rfl htold hput
      rw [dceEnd_written hout hres htold hput]
  case leaves => exact fun cl s d cause cebc sweeps hal hlog => dceStamp_performed hal hlog cause cebc sweeps
  case refused =>
    rintro cl s d ds bs cebc sweeps c la pa l e hq hres hout htold hput rfl
    rw [exec_dceEnd_head hq, dceEnd_refused hout hres htold hput]

end Sys2Proof.Claims
end

section
/-! The matrix forms at issue (R249 to R253, R256 to R263): first the frame of the owner's forms and the queue of a cluster's commands, then each form
once its operands are read; then the statement that is assembled from them. -/

namespace Sys2Proof

/-- The low 16 bits of a word are its field [15:0]. -/
theorem ofNat_bitF_half (v : Word) : BitVec.ofNat 16 (bitF v 0 16) = v.setWidth 16 :=
  BitVec.eq_of_toNat_eq (by simp [bitF])

end Sys2Proof

namespace Sys2Proof.Machine

open Sys2Proof.Claims

/-! The owner (R249). -/

/-- An owner's form traps at another thread. -/
theorem traps_of_unowned {s : State} (h : ownsOmu s s.cur = false) (i : Instr) (body : State) :
    Host.Outcome.next (owned i s body) = traps s 0x4E (insWord i) := by
  rw [owned, if_neg (ne_true_of_eq_false h)]
  rfl

/-- The common frame of an owner's form at its owner. -/
theorem next_owned {s : State} {srcs : List GReg} {dst : Option GReg} {vs : List Word} {y : Slot} (hown : ownsOmu s s.cur = true)
    (h : Reads s srcs dst vs y) (i : Instr) (body : State → List Word → Res) :
    Host.Outcome.next (owned i s (withOps s srcs dst false body)) = endsAs s (body (popped s y) vs) := by
  rw [owned, if_pos hown]
  exact next_withOps h body

/-- Reading operands leaves the issuing slot's cluster as it is. -/
theorem clusterAt_popped_own (s : State) (y : Slot) : clusterAt (popped s y) (clusterOf (coreOf s.cur)) = myCluster s := rfl

/-! The queue of commands (R246). -/

section
variable {s : State} {y : Slot} {r : Res} {fn la seq : Nat} {word : Word} {bank : Bool} {stamp : Option Nat} {take : State → State}
  (h : r = mxEnqueue (popped s y) fn word bank la seq stamp take)
include h

/-- With a place in the queue a command is queued. -/
theorem completes_of_mxEnqueue (hroom : mxRoom s) : endsAs s r =
    completes s (take (mxQueued (popped s y) { mxOf (popped s y) fn word bank la seq with stamp := stamp })) := by
  refine completes_of_done (h.trans ?_)
  rw [mxEnqueue]
  exact if_neg (Nat.not_le.mpr hroom)

/-- Without a place its thread waits for one. -/
theorem waits_of_mxEnqueue (hroom : ¬ mxRoom s) : endsAs s r = waits s y := by
  refine waits_of_park (h.trans ?_)
  rw [mxEnqueue]
  exact if_pos (Nat.not_lt.mp hroom)

end

/-- No open command writes a bank. -/
theorem bankBusy_popped_of_idle {s : State} {b : Nat} (y : Slot) (h : ∀ x ∈ openCmds (myCluster s).mxq, x.writes b = false) :
    bankBusy (popped s y) b = false :=
  List.any_eq_false.2 fun x hx => ne_true_of_eq_false (h x hx)

theorem queueIdle_popped_of_empty {s : State} (y : Slot) (h : openCmds (myCluster s).mxq = []) : queueIdle (popped s y) = true :=
  List.isEmpty_iff.2 h

/-! Ownership and configuration (R250, R251). -/

section
variable {s : State} {a : GReg} {t : Bool} {va : Word} {y : Slot} (h : Reads s [a] none [va] y)
include h

section
variable (hbit : va.getLsbD 0 = true)
include hbit

theorem exec_mown_takes (ho : (myCluster s).own = none) :
    exec (.mown a t) s = completes s (took (modCluster (popped s y) (myCl s) fun c => { c with own := some s.cur }) a t) := by
  refine (next_withOps h _).trans (completes_of_done ?_)
  simp only [val_zero, bitB, hbit, popped_cur, clusterAt_popped_own, ho, if_true, Option.isNone_none, reduceCtorEq, if_false]
  rfl

theorem exec_mown_keeps (ho : (myCluster s).own = some s.cur) : exec (.mown a t) s = completes s (took (popped s y) a t) := by
  refine (next_withOps h _).trans (completes_of_done ?_)
  simp only [val_zero, bitB, hbit, popped_cur, clusterAt_popped_own, ho, if_true]
  rfl

theorem exec_mown_waits_owner {k : Nat} (ho : (myCluster s).own = some k) (hk : k ≠ s.cur) : exec (.mown a t) s = waits s y := by
  refine (next_withOps h _).trans (waits_of_park ?_)
  simp only [val_zero, bitB, hbit, popped_cur, clusterAt_popped_own, ho, if_true, Option.some.injEq, if_neg hk, Option.isNone_some,
    Bool.false_eq_true, if_false]

end

section
variable (hbit : va.getLsbD 0 = false)
include hbit

theorem exec_mown_traps (ho : (myCluster s).own ≠ some s.cur) : exec (.mown a t) s = traps s 0x4E (insWord (.mown a t)) := by
  refine (next_withOps h _).trans (traps_of_trap ?_)
  simp only [val_zero, bitB, hbit, popped_cur, clusterAt_popped_own, Bool.false_eq_true, if_false]
  exact if_pos ho

variable (ho : (myCluster s).own = some s.cur)
include ho

theorem exec_mown_releases (hq : openCmds (myCluster s).mxq = []) :
    exec (.mown a t) s = completes s (took (modCluster (popped s y) (myCl s) fun c => { c with own := none }) a t) := by
  refine (next_withOps h _).trans (completes_of_done ?_)
  simp only [val_zero, bitB, hbit, popped_cur, clusterAt_popped_own, ho, hq, Bool.false_eq_true, if_false, ne_eq, not_true_eq_false,
    List.isEmpty_nil, if_true]
  rfl

theorem exec_mown_waits_queue (hq : openCmds (myCluster s).mxq ≠ []) : exec (.mown a t) s = waits s y := by
  refine (next_withOps h _).trans (waits_of_park ?_)
  simp only [val_zero, bitB, hbit, popped_cur, clusterAt_popped_own, ho, Bool.false_eq_true, if_false, ne_eq, not_true_eq_false,
    List.isEmpty_iff, hq]

end

section
variable (hown : ownsOmu s s.cur = true)
include hown

theorem exec_mset_mask : exec (.mset a t 0#4) s =
    completes s (modCluster (took (popped s y) a t) (myCl s) fun c => c.setCreg 0x2C0 (va &&& 0xFFFFFFFF#64)) :=
  (next_owned hown h _ _).trans (completes_of_done rfl)

theorem exec_mset_stamp : exec (.mset a t 2#4) s =
    completes s (modCluster (took (popped s y) a t) (myCl s) fun c => c.setCreg 0x2C2 va) :=
  (next_owned hown h _ _).trans (completes_of_done rfl)

theorem exec_mset_config (hok : va &&& 0xFFFFFFFF00FE7E80#64 = 0#64) : exec (.mset a t 1#4) s =
    completes s (modCluster (took (popped s y) a t) (myCl s) fun c => c.setCreg 0x2C1 va) :=
  (next_owned hown h _ _).trans (completes_of_done (if_pos hok))

theorem exec_mset_badConfig (hbad : va &&& 0xFFFFFFFF00FE7E80#64 ≠ 0#64) : exec (.mset a t 1#4) s = traps s 0x46 va :=
  (next_owned hown h _ _).trans (traps_of_trap (if_neg hbad))

end
end

/-! The owner's commands (R252, R253, R256, R257, R259, R260). -/

section
variable {s : State} {a b : GReg} {t : Bool} {va vb : Word} {y : Slot} (hown : ownsOmu s s.cur = true)
include hown

/-- What a load of a phase image does once its pointers are checked. -/
theorem exec_mphld {n : Bool} (h : Reads s [a, b] none [va, vb] y)
    (hptr : ptrRows (issuerOf (popped s y) s.cur) (flatUse va 5376 needRD 64 :: stampUse (popped s y)) = none) :
    exec (.mphld a b t n) s = endsAs s (mxEnqueue (popped s y) 2 va n ((issuerOf (popped s y) s.cur).at va) (vb.toNat % 2 ^ 32)
      (stampLa (popped s y)) (tookA t a)) := by
  refine (next_owned hown h _ _).trans (congrArg (endsAs s) ?_)
  simp only [val_zero, val_one, bitF_zero, popped_cur, hptr]

section
variable (hptr : ptrRows (issuerOf (popped s y) s.cur) (stampUse (popped s y)) = none)
include hptr

theorem exec_mswap (h : Reads s [b] none [vb] y) : exec (.mswap b) s =
    endsAs s (mxEnqueue (popped s y) 3 0#64 false 0 (vb.toNat % 2 ^ 32) (stampLa (popped s y)) id) := by
  refine (next_owned hown h _ _).trans (congrArg (endsAs s) ?_)
  simp only [val_zero, bitF_zero, popped_cur, hptr]

theorem exec_mprobe (h : Reads s [b] none [vb] y) : exec (.mprobe b) s =
    endsAs s (mxEnqueue (popped s y) 7 0#64 false 0 (vb.toNat % 2 ^ 32) (stampLa (popped s y)) id) := by
  refine (next_owned hown h _ _).trans (congrArg (endsAs s) ?_)
  simp only [val_zero, bitF_zero, popped_cur, hptr]

end

variable (h : Reads s [a, b] none [va, vb] y)
include h

/-! A word that is not valid. -/

theorem exec_mpass_badWord (hbad : passOk va = false) : exec (.mpass a b t) s = traps s 0x46 va := by
  refine (next_owned hown h _ _).trans (traps_of_trap ?_)
  simp only [val_zero, hbad, Bool.not_false, if_true]

theorem exec_mdrain_badWord (hbad : drainOk va = false) : exec (.mdrain a b t) s = traps s 0x46 va := by
  refine (next_owned hown h _ _).trans (traps_of_trap ?_)
  simp only [val_zero, hbad, Bool.not_false, if_true]

theorem exec_mclr_badWord (hbad : clearOk va = false) : exec (.mclr a b t) s = traps s 0x46 va := by
  refine (next_owned hown h _ _).trans (traps_of_trap ?_)
  simp only [val_zero, hbad, Bool.not_false, if_true]

/-! A valid word. -/

variable (hptr : ptrRows (issuerOf (popped s y) s.cur) (stampUse (popped s y)) = none)
include hptr

section
variable (hok : passOk va = true)
include hok

theorem exec_mpass_undeclared (hv : (tileAt (myCluster s) (wTile va)).v = false) :
    exec (.mpass a b t) s = traps s 0x34 (nw (wTile va)) := by
  refine (next_owned hown h _ _).trans (traps_of_trap ?_)
  simp only [val_zero, popped_cur, clusterAt_popped_own, hok, hptr, hv, Bool.not_true, Bool.not_false, Bool.false_eq_true, if_false, if_true]

theorem exec_mpass (hv : (tileAt (myCluster s) (wTile va)).v = true)
    (hsize : (wTrow va + wRows va) * rowBytes (wFmt va) ≤ (tileAt (myCluster s) (wTile va)).size)
    (hread : (tileAt (myCluster s) (wTile va)).readable = true) :
    exec (.mpass a b t) s = endsAs s (mxEnqueue (popped s y) 4 va false 0 (vb.toNat % 2 ^ 32) (stampLa (popped s y)) fun z =>
      startReadTile (tookA t a z) (myCl s) (wTile va)) := by
  refine (next_owned hown h _ _).trans (congrArg (endsAs s) ?_)
  simp only [val_zero, val_one, bitF_zero, popped_cur, clusterAt_popped_own, hok, hptr, hv, hread, if_neg (Nat.not_lt.mpr hsize), Bool.not_true,
    Bool.false_eq_true, if_false, myCl]

end

section
variable (hok : drainOk va = true) (hv : (tileAt (myCluster s) (wTile va)).v = true)
  (hsize : wRows va * 32 * (if wFmt va = 0x8 then 4 else 2) ≤ (tileAt (myCluster s) (wTile va)).size)
  (hidle : ∀ x ∈ openCmds (myCluster s).mxq, x.writes (wBank va) = false)
include hok hv hsize hidle

/-- A drain of a bank that is not poisoned, or that is drained all the same. -/
theorem exec_mdrain (hp : ((myCluster s).creg (0x2C4 + wBank va)).getLsbD 63 = false ∨ wForce va = true) : exec (.mdrain a b t) s =
    endsAs s (mxEnqueue (popped s y) 5 va false 0 (vb.toNat % 2 ^ 32) (stampLa (popped s y)) (tookA t a)) := by
  have hgo : ¬(bitB ((myCluster s).creg (0x2C4 + wBank va)) 63 ∧ !wForce va) := by
    rintro ⟨hpois, hforce⟩
    rcases hp with hp | hp
    · exact ne_true_of_eq_false hp hpois
    · simp [hp] at hforce
  refine (next_owned hown h _ _).trans (congrArg (endsAs s) ?_)
  simp only [val_zero, val_one, bitF_zero, popped_cur, clusterAt_popped_own, hok, hptr, hv, bankBusy_popped_of_idle y hidle,
    if_neg hgo, Bool.not_true, Bool.false_eq_true, if_false]
  exact if_neg (Nat.not_lt.mpr hsize)

theorem exec_mdrain_poisoned (hp : ((myCluster s).creg (0x2C4 + wBank va)).getLsbD 63 = true) (hf : wForce va = false) :
    exec (.mdrain a b t) s = traps s 0x4C (nw (((myCluster s).creg (0x2C4 + wBank va)).toNat / 2 ^ 55 % 2 ^ 7 +
      ((myCluster s).creg (0x2C4 + wBank va)).toNat / 2 ^ 32 % 2 ^ 10 * 2 ^ 8 + wBank va * 2 ^ 24)) := by
  have hstop : bitB ((myCluster s).creg (0x2C4 + wBank va)) 63 ∧ !wForce va := ⟨hp, by simp [hf]⟩
  refine (next_owned hown h _ _).trans (traps_of_trap ?_)
  simp only [val_zero, popped_cur, clusterAt_popped_own, hok, hptr, hv, bankBusy_popped_of_idle y hidle, Bool.not_true,
    Bool.false_eq_true, if_false]
  exact (if_neg (Nat.not_lt.mpr hsize)).trans (if_pos hstop)

end

theorem exec_mclr (hok : clearOk va = true) (hidle : ∀ x ∈ openCmds (myCluster s).mxq, x.writes (wBank va) = false) : exec (.mclr a b t) s =
    endsAs s (mxEnqueue (popped s y) 6 va false 0 (vb.toNat % 2 ^ 32) (stampLa (popped s y)) (tookA t a)) := by
  refine (next_owned hown h _ _).trans (congrArg (endsAs s) ?_)
  simp only [val_zero, val_one, bitF_zero, popped_cur, hok, hptr, bankBusy_popped_of_idle y hidle, Bool.not_true, Bool.false_eq_true, if_false]

end

/-- A calibration without a stamp is anyone's to queue (R263). -/
theorem exec_mcal_unstamped {s : State} {a b : GReg} {t : Bool} {vb : Word} {y : Slot} (h : Reads s [a, b] none [0#64, vb] y) :
    exec (.mcal a b t) s = endsAs s (mxEnqueue (popped s y) 15 0#64 false 0 (vb.toNat % 2 ^ 32) none (tookA t a)) := by
  refine (next_withOps h _).trans (congrArg (endsAs s) ?_)
  simp only [val_zero, val_one, bitF_zero, if_true]

/-! Phase codes and accumulators (R258, R261). -/

/-- What `phrd` reads at a code's index: the code with its V bit, or 0 where the bank is not valid. -/
def codeRead (v : Word) : Option PhaseBank → Word
  | some b => nw (2 ^ 16 + (b.codes.getD (v.toNat % 2 ^ 12) 0#16).toNat)
  | none => 0#64

section
variable {s : State} {d a b : GReg} {t : Bool} {va vb : Word} {y : Slot} (hown : ownsOmu s s.cur = true)
include hown

section
variable (h : Reads s [a] (some d) [va] y)
include h

theorem exec_phrd_badIndex (hbad : phrOk va = false) : exec (.phrd d a t) s = traps s 0x46 va := by
  refine (next_owned hown h _ _).trans (traps_of_trap ?_)
  simp only [val_zero, hbad, Bool.not_false, if_true]

theorem exec_phrd (hok : phrOk va = true) (hq : openCmds (myCluster s).mxq = []) :
    exec (.phrd d a t) s = completes s (wrote (popped s y) d a t (codeRead va ((myCluster s).bank (va.getLsbD 12)))) := by
  refine (next_owned hown h _ _).trans (completes_of_done ?_)
  simp only [val_zero, bitF_zero, popped_cur, clusterAt_popped_own, hok, queueIdle_popped_of_empty y hq, Bool.not_true, Bool.false_eq_true,
    if_false]
  rfl

theorem exec_macrd (hok : va &&& 0xFFFFFC00FEFFFFE0#64 = 0#64) (hidle : ∀ x ∈ openCmds (myCluster s).mxq, x.writes (wBank va) = false) :
    exec (.macrd d a t) s = completes s (wrote (popped s y) d a t
      (nw ((((myCluster s).creg (0x2C4 + wBank va)).getLsbD 63).toNat * 2 ^ 32 +
        (accAt (myCluster s) (wBank va) (wRow0 va) (va.toNat % 32)).toNat))) := by
  refine (next_owned hown h _ _).trans (completes_of_done ?_)
  simp only [val_zero, bitF_zero, popped_cur, clusterAt_popped_own, hok, bankBusy_popped_of_idle y hidle, ne_eq, not_true_eq_false,
    Bool.false_eq_true, if_false]
  rfl

end

section
variable (h : Reads s [a, b] none [va, vb] y) (hok : phrOk va = true) (hq : openCmds (myCluster s).mxq = [])
include h hok hq

theorem exec_phwr {p : PhaseBank} (hbank : (myCluster s).bank (va.getLsbD 12) = some p) :
    exec (.phwr a b t) s = completes s (modCluster (took (popped s y) a t) (myCl s) fun c =>
      { c.setBank (va.getLsbD 12) (some { p with codes := listSet p.codes (va.toNat % 2 ^ 12) (vb.setWidth 16) }) with
        settle := c.settle || decide (va.getLsbD 12 = c.act) }) := by
  refine (next_owned hown h _ _).trans (completes_of_done ?_)
  simp only [val_zero, val_one, bitB, popped_cur, clusterAt_popped_own, hok, queueIdle_popped_of_empty y hq, hbank, ofNat_bitF_half, Bool.not_true,
    Bool.false_eq_true, if_false]
  rw [bitF_zero]
  rfl

theorem exec_phwr_noBank (hbank : (myCluster s).bank (va.getLsbD 12) = none) : exec (.phwr a b t) s = traps s 0x48 va := by
  refine (next_owned hown h _ _).trans (traps_of_trap ?_)
  simp only [val_zero, bitB, popped_cur, clusterAt_popped_own, hok, queueIdle_popped_of_empty y hq, hbank, Bool.not_true, Bool.false_eq_true,
    if_false]

end
end

/-! Decompositions (R262). -/

theorem clusterAt_of_onlyKept {s u : State} (h : OnlyKept s u) (cl : Nat) : clusterAt u cl = clusterAt s cl := by
  obtain rfl | ⟨tr, rfl⟩ := h <;> rfl

/-- The decomposition that a descriptor and a sequence number ask for (R262). -/
def dceOf (z : State) (ds : List Word) (seq : Nat) : DceCmd :=
  ⟨z.fresh, issuerOf z z.cur, (issuerOf z z.cur).at (val ds 0), (issuerOf z z.cur).at (val ds 1), bitF (val ds 2) 32 32,
    if bitB (val ds 2) 12 then some (sxNat 8 (bitF (val ds 2) 16 8)) else none, bitF (val ds 2) 8 2, bitF (val ds 2) 0 4,
    (issuerOf z z.cur).at (val ds 3), seq, false, none, EngIo.reset⟩

/-- What `mdecomp` does with its descriptor once that is read. -/
def decompOffer (z : State) (a : GReg) (t : Bool) (p : Word) (seq : Nat) (ds : List Word) : Res :=
  if !decompOk ds then .trap 0x47 (nw ((issuerOf z z.cur).at p))
  else match ptrRows (issuerOf z z.cur) (decompUses ds) with
    | some (c, v) => .trap c v
    | none =>
      if 2 ≤ (myCluster z).dce.length then .park z
      else .done (modSlot (modCluster { z with fresh := z.fresh + 1 } (myCl z) fun c => { c with dce := c.dce ++ [dceOf z ds seq] }) z.cur
        fun x => { x.takeIf t a.toNat with cmds := x.cmds ++ [⟨z.fresh, 1, false⟩] })

theorem exec_mdecomp {s z : State} {a b : GReg} {t : Bool} {va vb : Word} {y : Slot} {ws left : List Word} {bs : List Byte}
    (h : Reads s [a, b] none [va, vb] y) (hhas : Has y ws) (hread : ReadsBytes (popped s y) ws va 0 32 8 left bs z) :
    exec (.mdecomp a b t) s = endsAs s (decompOffer z a t va (vb.toNat % 2 ^ 32) (dwords 4 bs)) := by
  refine (next_withOps h _).trans (congrArg (endsAs s) ((withAnswers_none (has_popped hhas) _).trans ((hread.2 _).trans ?_)))
  rw [decompOffer, ← bitF_zero]
  rfl

section
variable {z : State} {a : GReg} {t : Bool} {p : Word} {seq : Nat} {ds : List Word}

theorem decompOffer_badDescriptor (hbad : decompOk ds = false) :
    decompOffer z a t p seq ds = .trap 0x47 (nw ((issuerOf z z.cur).at p)) := by
  simp only [decompOffer, hbad, Bool.not_false, if_true]

variable (hok : decompOk ds = true) (hptr : ptrRows (issuerOf z z.cur) (decompUses ds) = none)
include hok hptr

theorem decompOffer_full (hfull : 2 ≤ (myCluster z).dce.length) : decompOffer z a t p seq ds = .park z := by
  simp only [decompOffer, hok, hptr, if_pos hfull, Bool.not_true, Bool.false_eq_true, if_false]

theorem decompOffer_queues (hroom : (myCluster z).dce.length < 2) : decompOffer z a t p seq ds =
    .done (modSlot (modCluster { z with fresh := z.fresh + 1 } (myCl z) fun c => { c with dce := c.dce ++ [dceOf z ds seq] }) z.cur
      fun x => { x.takeIf t a.toNat with cmds := x.cmds ++ [⟨z.fresh, 1, false⟩] }) := by
  simp only [decompOffer, hok, hptr, if_neg (Nat.not_le.mpr hroom), Bool.not_true, Bool.false_eq_true, if_false]

end

end Sys2Proof.Machine

namespace Sys2Proof.Claims

open Sys2Proof.Machine

/-- Settles O49: each form by its owner, the checks of its word and pointers, and the place in its queue. -/
theorem matrixForms : Obligations.MatrixForms := by
  refine ⟨?unowned, ?mown, ?mset, ?mphld, ?sweeps, ?words, ?mcal, ?reads, ?phwr, ?mdecomp⟩
  case unowned =>
    intro s hown a b d t k n
    have htrap := traps_of_unowned hown
    exact ⟨htrap _ _, htrap _ _, htrap _ _, htrap _ _, htrap _ _, htrap _ _, htrap _ _, htrap _ _, htrap _ _, htrap _ _⟩
  case mown =>
    exact fun a t s va y h => ⟨fun hb ho => exec_mown_takes h hb ho, fun hb ho => exec_mown_keeps h hb ho,
      fun k hb ho hk => exec_mown_waits_owner h hb ho hk, fun hb ho hq => exec_mown_releases h hb ho hq,
      fun hb ho hq => exec_mown_waits_queue h hb ho hq, fun hb ho => exec_mown_traps h hb ho⟩
  case mset =>
    exact fun a t s va y hown h => ⟨exec_mset_mask h hown, exec_mset_stamp h hown, exec_mset_config h hown, exec_mset_badConfig h hown⟩
  case mphld =>
    intro a b t n s va vb y hown h hptr
    rw [exec_mphld hown h hptr]
    exact ⟨completes_of_mxEnqueue rfl, waits_of_mxEnqueue rfl⟩
  case sweeps =>
    intro b s vb y hown h hptr hroom
    rw [exec_mswap hown hptr h, exec_mprobe hown hptr h]
    exact ⟨completes_of_mxEnqueue rfl hroom, completes_of_mxEnqueue rfl hroom⟩
  case words =>
    rintro a b t s va vb y tile hown h rfl
    refine ⟨exec_mpass_badWord hown h, exec_mdrain_badWord hown h, exec_mclr_badWord hown h, fun hptr => ⟨fun hok hv => ?undeclared,
      fun hok hv hsize hread hroom => ?passes, fun hok hv hsize => ⟨fun hidle hp hroom => ?drains, fun hidle hp hf => ?poisoned⟩,
      fun hok hidle hroom => ?clears⟩⟩
    case undeclared => exact exec_mpass_undeclared hown h hptr hok hv
    case passes =>
      rw [exec_mpass hown h hptr hok hv hsize hread]
      exact completes_of_mxEnqueue rfl hroom
    case drains =>
      rw [exec_mdrain hown h hptr hok hv hsize hidle hp]
      exact completes_of_mxEnqueue rfl hroom
    case poisoned => exact exec_mdrain_poisoned hown h hptr hok hv hsize hidle hp hf
    case clears =>
      rw [exec_mclr hown h hptr hok hidle]
      exact completes_of_mxEnqueue rfl hroom
  case mcal =>
    intro a b t s vb y h hroom
    rw [exec_mcal_unstamped h]
    exact completes_of_mxEnqueue rfl hroom
  case reads =>
    refine fun d a t s va y hown h => ⟨fun hok hq => ?code, exec_phrd_badIndex hown h, exec_macrd hown h⟩
    rw [exec_phrd hown h hok hq]
    cases (myCluster s).bank (va.getLsbD 12) <;> rfl
  case phwr =>
    exact fun a b t s va vb y p hown h hok hq => ⟨exec_phwr hown h hok hq, exec_phwr_noBank hown h hok hq⟩
  case mdecomp =>
    rintro a b t s va vb y ws left z bs ds iss h hhas hread rfl rfl
    have hkept : OnlyKept (popped s y) z := hread.1
    have hcur : z.cur = s.cur := cur_of_onlyKept (s := popped s y) hkept
    have hcluster : myCluster z = myCluster s := by
      rw [myCluster, myCl, hcur, clusterAt_of_onlyKept hkept]
      rfl
    rw [exec_mdecomp h hhas hread, ← hcur, ← hcluster]
    refine ⟨fun hbad => ?bad, fun hok hptr hfull => ?full, fun hok hptr hroom => ?queued⟩
    case bad => exact traps_of_trap (decompOffer_badDescriptor hbad)
    case full =>
      rw [decompOffer_full hok hptr hfull]
      rfl
    case queued =>
      have hcl : myCl z = myCl s := congrArg (fun k => clusterOf (coreOf k)) hcur
      rw [decompOffer_queues hok hptr hroom, ← hcl]
      exact ⟨dceOf z (dwords 4 bs) (vb.toNat % 2 ^ 32), rfl, rfl, rfl, rfl, rfl, rfl, rfl, rfl, rfl⟩

end Sys2Proof.Claims
end

section
/-! Matrix commands run (R246 to R248, R254 to R260): first which command of a kind runs, and one access of a command; then passes, loads of images,
swaps and sweeps, drains and clears, each from the conditions of its start; then the statement that is assembled from them. -/

namespace Sys2Proof

/-- What every step of a fold keeps, and the step of one element makes true, is true after the fold. -/
theorem foldl_of_mem {α β : Type} {P : β → Prop} {f : β → α → β} {x : α} {l : List α} (hkeep : ∀ b a, P b → P (f b a))
    (hx : ∀ b, P (f b x)) (hmem : x ∈ l) (b : β) : P (l.foldl f b) := by
  induction l generalizing b with
  | nil => cases hmem
  | cons a l ih =>
    rcases List.mem_cons.1 hmem with rfl | hmem
    · exact List.foldlRecOn l f (hx b) fun c hc a _ => hkeep c a hc
    · exact ih hmem (f b a)

end Sys2Proof

namespace Sys2Proof.Machine

open Sys2Proof.Claims

/-! The commands that have started, and one access of a command (R101, R246). -/

section
variable {s u : State} {cl i : Nat} {x : MxCmd} {kind : MxCmd → Bool}

/-- A running command of a kind that only its code has is the running one of that kind. -/
theorem running_kind_of_mxRunning (h : mxRunning s cl i x) (hk : kind x = true) (hfn : ∀ y, y.fn ≠ x.fn → kind y = false) :
    running s cl kind = some x := by
  obtain ⟨hx, hopen, hbefore, hstarted⟩ := h
  refine find?_first hx ?_ fun j y hj hy => ?_
  · simp [hstarted, hopen x (List.mem_of_getElem? hx), hk]
  · simp [hfn y (hbefore j y hj hy)]

/-- No command of a kind runs where none of it has started. -/
theorem running_none_of_unstarted (h : ∀ y ∈ (clusterAt s cl).mxq, y.started = true → kind y = false) : running s cl kind = none := by
  refine List.find?_eq_none.2 fun y hy hrun => ?_
  simp only [Bool.and_eq_true] at hrun
  obtain ⟨⟨hstarted, _⟩, hkind⟩ := hrun
  exact ne_true_of_eq_false (h y hy hstarted) hkind

section
variable {la n pa : Nat} {acc : Acc} (hio : x.io = EngIo.reset)
include hio

theorem mxAsk_read (hp : engPhysical s (.drain cl) (coreOf x.iss.slot) x.iss.asid la needR = .ok u pa acc) :
    mxAsk s cl x (.read [(la, n)]) = modCmd (sendMsg u (accessMsg u (.drain cl) x.iss pa (.engRead pa n [] ⟨.drain cl, x.id, 0, 1, 1⟩ acc [])))
      cl x.id fun y => { y with io := ⟨some (la, pa), [], false⟩ } := by
  rw [mxAsk, engAsk_read x.id 0 1 hp, hio]
  rfl

theorem mxAsk_write {bs : List Byte} (hp : engPhysical s (.drain cl) (coreOf x.iss.slot) x.iss.asid la needW = .ok u pa acc) :
    mxAsk s cl x (.write [(la, bs)]) = modCmd (sendMsg u (accessMsg u (.drain cl) x.iss pa
      (.engWrite pa bs ⟨.drain cl, x.id, 0, 1, 1⟩ acc none []))) cl x.id fun y => { y with io := ⟨some (la, pa), [], false⟩ } := by
  rw [mxAsk, engAsk_write x.id 0 1 hp, hio]
  rfl

end
end

/-! Passes (R226, R232, R242, R254). -/

/-- A pass that reads some pieces ahead and feeds rows into the light. -/
abbrev passFed (s : State) (cl id : Nat) (f : PassFeed) : State := feedRows cl id f.rows (feedEarly cl id s f.early)

/-- Where no pass has started, none has rows to enter. -/
theorem passRunning_none {s : State} {cl : Nat} (h : (clusterAt s cl).mxq.all (fun y => !(y.started && decide (y.fn = 4))) = true) :
    running s cl (fun y => decide (y.fn = 4) && decide (y.rows < wRows y.word)) = none := by
  refine running_none_of_unstarted fun y hy hstarted => ?_
  have hfn : y.fn ≠ 4 := by simpa [hstarted] using List.all_eq_true.1 h y hy
  simp [hfn]

theorem passReady {s : State} {cl i : Nat} {x : MxCmd} (hfn : x.fn = 4) (h : mxReady s cl i x) (hrows : x.rows < wRows x.word) :
    ready s cl (fun y => decide (y.fn = 4) && decide (y.rows < wRows y.word)) = some x := ready_of_mxReady h (by simp [hfn, hrows])

section
variable {s : State} {cl i : Nat} {x : MxCmd} (f : PassFeed) (hfn : x.fn = 4)
include hfn

section
variable (h : mxReady s cl i x) (hrows : x.rows < wRows x.word)
  (hnone : (clusterAt s cl).mxq.all (fun y => !(y.started && decide (y.fn = 4))) = true)
include h hrows hnone

theorem exec_omuPassStart_site {k : Nat} (hsite : siteOf s cl = some k) (hbusy : siteBusy s k cl = false) (hyield : mustYield s k cl = false)
    (huser : (siteAt s k).user.getD cl = cl) : exec (.omuPassStart cl f) s = .next (passFed (startPassCmd s cl x) cl x.id f) := by
  change execOmuPassStart cl f s = _
  simp only [execOmuPassStart, mxRetire_of_mxReady h, passRunning_none hnone, passReady hfn h hrows, hsite, hbusy, hyield, huser,
    Bool.false_eq_true, or_self, ne_eq, not_true_eq_false, false_and, if_false]

/-- Without a site a pass starts too, and its first row cuts it. -/
theorem exec_omuPassStart_noSite (hsite : siteOf s cl = none) :
    exec (.omuPassStart cl f) s = .next (passFed (startPassCmd s cl x) cl x.id f) := by
  change execOmuPassStart cl f s = _
  simp only [execOmuPassStart, mxRetire_of_mxReady h, passRunning_none hnone, passReady hfn h hrows, hsite]

end

theorem exec_omuPassStart_running (h : mxRunning s cl i x) (hrows : x.rows < wRows x.word) :
    exec (.omuPassStart cl f) s = .next (passFed s cl x.id f) := by
  have hrunning : running s cl (fun y => decide (y.fn = 4) && decide (y.rows < wRows y.word)) = some x :=
    running_kind_of_mxRunning h (by simp [hfn, hrows]) fun y hy => by simp [← hfn, hy]
  change execOmuPassStart cl f s = _
  simp only [execOmuPassStart, mxRetire_of_mxRunning h, hrunning]

/-- A pass whose rows have all entered, and whose configuration asks for no EBC, ends with the least EBC of its rows. -/
theorem exec_omuPassEnd_ends (h : mxRunning s cl i x) (hrows : wRows x.word ≤ x.rows) (hask : x.cfg.toNat / 2 ^ 24 % 2 ^ 8 = 0) {e : Nat}
    (he : e = if x.clip then 0 else Nat.min x.low (((clusterAt s cl).activeBank.map PhaseBank.cebc).getD 0)) :
    exec (.omuPassEnd cl) s = .next (mxEnd (modCluster s cl fun c => { c with passEbc := e }) cl x 0 0 0 e) := by
  subst he
  have hrunning : running s cl (fun y => decide (y.fn = 4) && decide (wRows y.word ≤ y.rows)) = some x :=
    running_kind_of_mxRunning h (by simp [hfn, hrows]) fun y hy => by simp [← hfn, hy]
  have hmin : bitF x.cfg 24 8 = 0 := hask
  change execOmuPassEnd cl s = _
  simp only [execOmuPassEnd, mxRetire_of_mxRunning h, hrunning, hmin, Nat.not_lt_zero, if_false]

end

/-! The pieces of a pass's input, each read once (R254, R267). -/

theorem any_off_of_new {fs : List FedPiece} {off : Nat} (h : ∀ f ∈ fs, f.off ≠ off) : fs.any (fun f => decide (f.off = off)) = false :=
  List.any_eq_false.2 fun f hf => by simp [h f hf]

section
variable {s u : State} {cl id off n : Nat} {x : MxCmd} (h : running s cl (fun x => decide (x.id = id)) = some x)
include h

section
variable (hnew : ∀ f ∈ x.fed, f.off ≠ off)
include hnew

theorem feedPiece_reads {bs : List Byte} (hread : cspRead s cl off n = .ok u bs) :
    feedPiece cl id s (off, n) = modCmd u cl id fun y => { y with fed := y.fed ++ [⟨off, bs, 0⟩] } := by
  simp only [feedPiece, h, any_off_of_new hnew, hread, Bool.false_eq_true, if_false]

/-- A piece that reads as poison counts as read, with the cause. -/
theorem feedPiece_poisoned {c a : Nat} (hread : cspRead s cl off n = .poison u c a) :
    feedPiece cl id s (off, n) = modCmd u cl id fun y => { y with fed := y.fed ++ [⟨off, List.replicate n 0#8, c⟩] } := by
  simp only [feedPiece, h, any_off_of_new hnew, hread, Bool.false_eq_true, if_false]

end

theorem feedPiece_again {f : FedPiece} (hf : f ∈ x.fed) (hoff : f.off = off) : feedPiece cl id s (off, n) = s := by
  have hfed : x.fed.any (fun f => decide (f.off = off)) = true := List.any_eq_true.2 ⟨f, hf, by simp [hoff]⟩
  simp only [feedPiece, h, hfed, if_true]

end

/-! The start of a pass (R226, R254). -/

section
variable {s : State} {cl : Nat} (x : MxCmd)

theorem startPassCmd_noBank (h : (clusterAt s cl).activeBank = none) : startPassCmd s cl x = mxEnd s cl x 0x48 4 0 0 := by
  rw [startPassCmd, h]
  rfl

theorem siteCuts_iff {k : Nat} : siteCuts s k = true ↔ siteRetired s k = true ∨ (siteAt s k).st = 4 ∨ (siteAt s k).st = 0 := by
  simp [siteCuts, or_assoc]

theorem startPassCmd_site {k : Nat} {b : PhaseBank} (hbank : (clusterAt s cl).activeBank = some b) (hsite : siteOf s cl = some k) :
    startPassCmd s cl x = modCmd (modSite s k fun y => { y with
        last := some cl
        user := if siteRetired s k = true ∨ (siteAt s k).st = 4 ∨ (siteAt s k).st = 0 then y.user else some cl }) cl x.id fun y =>
      { y with started := true, gains := siteGains (siteAt s k) } := by
  simp only [startPassCmd, hbank, hsite, siteCuts_iff, Option.isNone_some, Bool.false_eq_true, if_false]

end

/-! Loads of phase images (R229, R256). -/

/-- The version byte is the first check of an image, and the CRC the second (R229). -/
theorem loadImage_badVersion {bs : List Byte} (h : (bs.getD 0 0#8).toNat ≠ 1) : loadImage bs = .error 1 := if_pos h

theorem loadImage_badCrc {bs : List Byte} (hv : (bs.getD 0 0#8).toNat = 1)
    (hcrc : leNat ((bs.drop 60).take 4) ≠ crc32 (bs.take 60 ++ (bs.drop 64).take 5312)) : loadImage bs = .error 2 :=
  (if_neg (not_not.2 hv)).trans (if_pos hcrc)

/-- The bank of a load is not valid while it is read. -/
abbrev phldStarted (s : State) (cl : Nat) (x : MxCmd) : State :=
  modCmd (modCluster s cl fun c => c.setBank x.bank none) cl x.id fun y => { y with started := true }

section
variable {s : State} {cl i : Nat} {x : MxCmd} (hfn : x.fn = 2)
include hfn

theorem exec_omuPhldRun_starts (h : mxReady s cl i x) (hnone : ∀ y ∈ (clusterAt s cl).mxq, y.started = true → y.fn ≠ 2) :
    exec (.omuPhldRun cl) s = .next (phldGo (phldStarted s cl x) cl x) := by
  have hrunning : running s cl (fun y => decide (y.fn = 2) && !y.io.told) = none :=
    running_none_of_unstarted fun y hy hstarted => by simp [hnone y hy hstarted]
  have hready : ready s cl (fun y => decide (y.fn = 2)) = some x := ready_of_mxReady h (by simp [hfn])
  change execOmuPhldRun cl s = _
  simp only [execOmuPhldRun, mxRetire_of_mxReady h, hrunning, hready]

theorem exec_omuPhldRun_goes (h : mxRunning s cl i x) (htold : x.io.told = false) : exec (.omuPhldRun cl) s = .next (phldGo s cl x) := by
  have hrunning : running s cl (fun y => decide (y.fn = 2) && !y.io.told) = some x :=
    running_kind_of_mxRunning h (by simp [hfn, htold]) fun y hy => by simp [← hfn, hy]
  change execOmuPhldRun cl s = _
  simp only [execOmuPhldRun, mxRetire_of_mxRunning h, hrunning]

end

/-- A load with no access out that does not wait for its sweep goes on. -/
theorem phld_free {x : MxCmd} (htold : x.io.told = false) (hout : x.io.out = none) : ¬(x.io.out.isSome ∨ x.io.told) := by
  simp [htold, hout]

theorem phldGo_asks {s u : State} {cl la n pa : Nat} {acc : Acc} {x : MxCmd} (hio : x.io = EngIo.reset)
    (hneed : engBytes [] x.la 5376 = .need (.read [(la, n)]))
    (hp : engPhysical s (.drain cl) (coreOf x.iss.slot) x.iss.asid la needR = .ok u pa acc) :
    phldGo s cl x = modCmd (sendMsg u (accessMsg u (.drain cl) x.iss pa (.engRead pa n [] ⟨.drain cl, x.id, 0, 1, 1⟩ acc [])))
      cl x.id fun y => { y with io := ⟨some (la, pa), [], false⟩ } := by
  have hfree := phld_free (congrArg EngIo.told hio) (congrArg EngIo.out hio)
  have hlog : x.io.log = [] := congrArg EngIo.log hio
  simp only [phldGo, if_neg hfree, hlog, hneed, mxAsk_read hio hp]

section
variable {s : State} {cl : Nat} {x : MxCmd} {bs : List Byte} {l : List EngAns} (htold : x.io.told = false) (hout : x.io.out = none)
  (hread : engBytes x.io.log x.la 5376 = .ok bs l)
include htold hout hread

theorem phldGo_refused {r : Nat} (h : loadImage bs = .error r) : phldGo s cl x = mxEnd s cl x 0x48 r 0 0 := by
  simp only [phldGo, if_neg (phld_free htold hout), hread, h]

theorem phldGo_held {b : PhaseBank} (h : loadImage bs = .ok b) (hbank : x.bank ≠ (clusterAt s cl).act) :
    phldGo s cl x = mxEnd (modCluster s cl fun c => c.setBank x.bank (some b)) cl x 0 0 0 0 := by
  simp only [phldGo, if_neg (phld_free htold hout), hread, h, if_neg hbank]

/-- A load into the active bank is over only once the bank has settled. -/
theorem phldGo_settles {b : PhaseBank} (h : loadImage bs = .ok b) (hbank : x.bank = (clusterAt s cl).act) : phldGo s cl x =
    modCmd (modCluster (modCluster s cl fun c => c.setBank x.bank (some b)) cl fun c => { c with settle := true, live := [] }) cl x.id
      fun y => { y with io := ⟨none, [], true⟩ } := by
  simp only [phldGo, if_neg (phld_free htold hout), hread, h, if_pos hbank]

end

/-! Swaps and sweeps (R235, R257). -/

section
variable {s : State} {cl i : Nat} {x : MxCmd} (h : mxReady s cl i x)
include h

section
variable (hfn : x.fn = 3)
include hfn

theorem exec_omuSwapRun_noBank (hbank : (clusterAt s cl).bank (!(clusterAt s cl).act) = none) :
    exec (.omuSwapRun cl) s = .next (mxEnd s cl x 0x48 4 0 0) := by
  have hready : ready s cl (fun y => decide (y.fn = 3)) = some x := ready_of_mxReady h (by simp [hfn])
  change execOmuSwapRun cl s = _
  simp only [execOmuSwapRun, mxRetire_of_mxReady h, hready, hbank, Option.isNone_none, if_true]

theorem exec_omuSwapRun_swaps (hbank : (clusterAt s cl).bank (!(clusterAt s cl).act) ≠ none) :
    exec (.omuSwapRun cl) s = .next (modCmd (modCluster s cl fun c => { c with act := !c.act, settle := true, live := [] }) cl x.id fun y =>
      { y with started := true }) := by
  have hready : ready s cl (fun y => decide (y.fn = 3)) = some x := ready_of_mxReady h (by simp [hfn])
  change execOmuSwapRun cl s = _
  simp only [execOmuSwapRun, mxRetire_of_mxReady h, hready, Option.isNone_iff_eq_none, if_neg hbank]

end

/-- A sweep that was asked for, where none is due. -/
theorem exec_omuSettleSweep_asked {k : Nat} (hfn : x.fn = 7) (hprobe : mayProbe s cl = some k) (hsettle : (clusterAt s cl).settle = false) :
    exec (.omuSettleSweep cl) s = .next (mxEnd (sweepSite s cl k) cl x 0 0 0 0) := by
  have hready : ready s cl (fun y => decide (y.fn = 7)) = some x := ready_of_mxReady h (by simp [hfn])
  change execOmuSettleSweep cl s = _
  simp only [execOmuSettleSweep, mxRetire_of_mxReady h, hprobe, hsettle, hready, Bool.false_eq_true, if_false]

end

/-- A sweep that is due, with no command that waits for it. -/
theorem exec_omuSettleSweep_due {s : State} {cl k : Nat} (hempty : (clusterAt s cl).mxq = []) (hprobe : mayProbe s cl = some k)
    (hsettle : (clusterAt s cl).settle = true) : exec (.omuSettleSweep cl) s = .next (sweepSite s cl k) := by
  have hretire : mxRetire s cl = s := mxRetire_of_open (by simp [hempty])
  have hrunning (kind : MxCmd → Bool) : running s cl kind = none := running_none_of_unstarted (by simp [hempty])
  change execOmuSettleSweep cl s = _
  simp only [execOmuSettleSweep, hretire, hprobe, hsettle, hrunning, if_true]

/-! Drains (R260). -/

section
variable {s : State} {cl i : Nat} {x : MxCmd} (hfn : x.fn = 5)
include hfn

theorem exec_omuDrainRun_starts (h : mxReady s cl i x) (hnone : ∀ y ∈ (clusterAt s cl).mxq, y.started = true → y.fn ≠ 5) :
    exec (.omuDrainRun cl) s = .next (drainGo (modCmd s cl x.id fun y => { y with started := true }) cl x) := by
  have hrunning : running s cl (fun y => decide (y.fn = 5)) = none :=
    running_none_of_unstarted fun y hy hstarted => by simp [hnone y hy hstarted]
  have hready : ready s cl (fun y => decide (y.fn = 5)) = some x := ready_of_mxReady h (by simp [hfn])
  change execOmuDrainRun cl s = _
  simp only [execOmuDrainRun, mxRetire_of_mxReady h, hrunning, hready]

theorem exec_omuDrainRun_goes (h : mxRunning s cl i x) : exec (.omuDrainRun cl) s = .next (drainGo s cl x) := by
  have hrunning : running s cl (fun y => decide (y.fn = 5)) = some x := by simpa [hfn] using running_of_mxRunning h
  change execOmuDrainRun cl s = _
  simp only [execOmuDrainRun, mxRetire_of_mxRunning h, hrunning]

end

section
variable {s u : State} {cl : Nat} {x : MxCmd}

theorem drainGo_asks {la pa : Nat} {bs : List Byte} {acc : Acc} (hio : x.io = EngIo.reset)
    (hput : engPut [] (drainRow (clusterAt s cl) cl x).1 (drainRow (clusterAt s cl) cl x).2 = .need (.write [(la, bs)]))
    (hp : engPhysical s (.drain cl) (coreOf x.iss.slot) x.iss.asid la needW = .ok u pa acc) :
    drainGo s cl x = modCmd (sendMsg u (accessMsg u (.drain cl) x.iss pa (.engWrite pa bs ⟨.drain cl, x.id, 0, 1, 1⟩ acc none [])))
      cl x.id fun y => { y with io := ⟨some (la, pa), [], false⟩ } := by
  have hout : x.io.out = none := congrArg EngIo.out hio
  have hlog : x.io.log = [] := congrArg EngIo.log hio
  simp only [drainGo, hout, hlog, hput, mxAsk_write hio hp, Option.isSome_none, Bool.false_eq_true, if_false]

/-- With its last row written a drain ends; with CLR the row has been cleared. -/
theorem drainGo_ends {l : List EngAns} (hout : x.io.out = none)
    (hput : engPut x.io.log (drainRow (clusterAt s cl) cl x).1 (drainRow (clusterAt s cl) cl x).2 = .ok () l) (hlast : wRows x.word ≤ x.rows + 1) :
    drainGo s cl x = mxEnd (modCmd (if wClr x.word = true then modCluster s cl fun c => clearRows c (wBank x.word) (wRow0 x.word + x.rows) 1
        else s) cl x.id fun y => { y with rows := x.rows + 1, io := EngIo.reset }) cl { x with rows := x.rows + 1, io := EngIo.reset } 0 0 0 0 := by
  simp only [drainGo, hout, hput, if_pos hlast, Option.isSome_none, Bool.false_eq_true, if_false]
  rfl

end

/-! Clears (R260). -/

theorem exec_omuClearRun {s : State} {cl i : Nat} {x : MxCmd} (h : mxReady s cl i x) (hfn : x.fn = 6) : exec (.omuClearRun cl) s =
    .next (mxEnd (modCluster s cl fun c => (clearRows c (wBank x.word) (wRow0 x.word) (wRows x.word)).setCreg (0x2C4 + wBank x.word)
      (setF (setF (setF (c.creg (0x2C4 + wBank x.word)) 62 2 0) 55 7 0) 32 10 0)) cl x 0 0 0 0) := by
  have hready : ready s cl (fun y => decide (y.fn = 6)) = some x := ready_of_mxReady h (by simp [hfn])
  change execOmuClearRun cl s = _
  simp only [execOmuClearRun, mxRetire_of_mxReady h, hready]
  rfl

theorem accAt_setAcc_self (c : Cluster) (b i j : Nat) (v : BitVec 32) : accAt (setAcc c b i j v) b i j = v := SMap.get_set_self _ _ _ _

theorem accAt_setAcc_ne (c : Cluster) {b i j b' i' j' : Nat} (v : BitVec 32) (h : accKey b i j ≠ accKey b' i' j') :
    accAt (setAcc c b' i' j' v) b i j = accAt c b i j := SMap.get_set_ne _ _ _ h

section
variable {c : Cluster} {b i j : Nat} (h : accAt c b i j = 0#32)
include h

/-- An accumulator that reads +0.0 reads so after any clear, of one accumulator or of a row. -/
theorem accAt_setAcc_zero (b' i' j' : Nat) : accAt (setAcc c b' i' j' 0#32) b i j = 0#32 := by
  by_cases hkey : accKey b i j = accKey b' i' j'
  · rw [accAt, hkey]
    exact accAt_setAcc_self c b' i' j' 0#32
  · exact (accAt_setAcc_ne c 0#32 hkey).trans h

theorem accAt_foldl_setAcc_zero (b' i' : Nat) (js : List Nat) : accAt (js.foldl (fun c k => setAcc c b' i' k 0#32) c) b i j = 0#32 :=
  List.foldlRecOn (motive := fun c => accAt c b i j = 0#32) js _ h fun _ hc k _ => accAt_setAcc_zero hc b' i' k

end

theorem accAt_clearRows (c : Cluster) (b : Nat) {r n i j : Nat} (hlo : r ≤ i) (hhi : i < r + n) (hj : j < 32) :
    accAt (clearRows c b r n) b i j = 0#32 := by
  have hcol : j ∈ rangeFrom 0 32 := mem_rangeFrom.2 ⟨Nat.zero_le j, by omega⟩
  have hrow (c : Cluster) : accAt ((rangeFrom 0 32).foldl (fun c k => setAcc c b i k 0#32) c) b i j = 0#32 :=
    foldl_of_mem (P := fun c => accAt c b i j = 0#32) (fun _ k hc => accAt_setAcc_zero hc b i k) (fun c => accAt_setAcc_self c b i j 0#32) hcol c
  exact foldl_of_mem (P := fun c => accAt c b i j = 0#32) (fun _ q hc => accAt_foldl_setAcc_zero hc b q _) hrow (mem_rangeFrom.2 ⟨hlo, hhi⟩) c

end Sys2Proof.Machine

namespace Sys2Proof.Claims

open Sys2Proof.Machine

/-- Settles O50: each command by whether its turn has come or it runs, and then by what it reads, checks, writes or clears. -/
theorem matrixCommandsRun : Obligations.MatrixCommandsRun := by
  refine ⟨?passStart, ?passRuns, ?piece, ?again, ?noBank, ?site, ?passEnd, ?loadStart, ?loaded, ?version, ?crc, ?swap, ?settled, ?probed,
    ?drainStart, ?drainRuns, ?drainWrites, ?drainEnds, ?clear, ?cleared⟩
  case passStart =>
    exact fun cl f s i x h hfn hrows hnone => ⟨fun k hsite hbusy hyield huser =>
      exec_omuPassStart_site f hfn h hrows hnone hsite hbusy hyield huser, exec_omuPassStart_noSite f hfn h hrows hnone⟩
  case passRuns => exact fun cl f s i x h hfn hrows => exec_omuPassStart_running f hfn h hrows
  case piece =>
    exact fun cl id s x off n h hnew => ⟨fun u bs hread => feedPiece_reads h hnew hread, fun u c a hread => feedPiece_poisoned h hnew hread⟩
  case again => exact fun cl id s x off n f h hf hoff => feedPiece_again h hf hoff
  case noBank => exact fun s cl x h => startPassCmd_noBank x h
  case site => exact fun s cl x k b hbank hsite => startPassCmd_site x hbank hsite
  case passEnd => exact fun cl s i x h hfn hrows hask => ⟨_, exec_omuPassEnd_ends hfn h hrows hask rfl, rfl⟩
  case loadStart =>
    rintro cl s i x z la n u pa acc h hfn hio hnone rfl hneed hp
    rw [exec_omuPhldRun_starts hfn h hnone, phldGo_asks hio hneed hp, accessMsg, state_of_engPhysical_ok hp]
  case loaded =>
    intro cl s i x bs l h hfn htold hout hread
    rw [exec_omuPhldRun_goes hfn h htold]
    refine ⟨fun r hr => ?refused, fun b hb hbank => ?held, fun b hb hbank => ?settles⟩
    case refused => rw [phldGo_refused htold hout hread hr]
    case held => rw [phldGo_held htold hout hread hb hbank]
    case settles => rw [phldGo_settles htold hout hread hb hbank]
  case version => exact fun bs h => loadImage_badVersion h
  case crc => exact fun bs hv hcrc => loadImage_badCrc hv hcrc
  case swap => exact fun cl s i x h hfn => ⟨exec_omuSwapRun_noBank h hfn, exec_omuSwapRun_swaps h hfn⟩
  case settled => exact fun cl s k hempty hprobe hsettle => exec_omuSettleSweep_due hempty hprobe hsettle
  case probed => exact fun cl s k i x h hfn hprobe hsettle => exec_omuSettleSweep_asked h hfn hprobe hsettle
  case drainStart => exact fun cl s i x h hfn hnone => exec_omuDrainRun_starts hfn h hnone
  case drainRuns => exact fun cl s i x h hfn => exec_omuDrainRun_goes hfn h
  case drainWrites =>
    intro cl s x la bs u pa acc hio hput hp
    rw [drainGo_asks hio hput hp, accessMsg, state_of_engPhysical_ok hp]
  case drainEnds => exact fun cl s x l hout hput hlast => drainGo_ends hout hput hlast
  case clear => exact fun cl s i x h hfn => exec_omuClearRun h hfn
  case cleared => exact fun c b r n i j hlo hhi _ hj => accAt_clearRows c b hlo hhi hj

end Sys2Proof.Claims
end

section
/-! Branches, jumps and fences (R273 to R275, R287 to R291). -/

namespace Sys2Proof.Machine

open Sys2Proof.Claims

/-! Branches. -/

/-- Reading operands leaves the PC alone. -/
theorem pc_of_reads {s : State} {srcs : List GReg} {dst : Option GReg} {vs : List Word} {y : Slot} {reply : Bool}
    (h : Reads s srcs dst vs y reply) : y.pc = (slotAt s s.cur).pc := by
  rw [Slot.prep_frame h]

theorem branchPc_eq (pc : Word) (o : BitVec 12) (taken : Bool) :
    branchPc pc o taken = if taken then pc + 4#64 * o.signExtend 64 else pc + 4#64 := by
  rw [branchPc, off12, BitVec.mul_comm]

/-- A branch from the PC at which the turn began. -/
theorem branches_of_branchTo {s t : State} {o : BitVec 12} {taken : Bool} {r : Res} (hpc : (slotAt t t.cur).pc = (slotAt s s.cur).pc)
    (h : r = t.branchTo o taken) : endsAs s r = branches s t o taken := by
  rw [h, State.branchTo, branchPc_eq, hpc]
  rfl

theorem slotAt_popped_pc {s : State} {srcs : List GReg} {dst : Option GReg} {vs : List Word} {y : Slot} (h : Reads s srcs dst vs y) :
    (slotAt (popped s y) (popped s y).cur).pc = (slotAt s s.cur).pc := by
  rw [popped_cur, slotAt_popped, pc_of_reads h]

/-- A row of BR, from the condition that its form tests. -/
theorem rowBranch_of_condHolds {cond : BitVec 3} {mk : GReg → GReg → BitVec 12 → Instr} {p : Word → Word → Prop} (c : Cond)
    (hcond : ∀ a b, condHolds c a b = true ↔ p a b)
    (hcode : ∀ a b o, (mk a b o).wf = true ∧ encode (mk a b o) = some (bWord 0x28#7 a b cond o) := by exact fun _ _ _ => ⟨rfl, rfl⟩)
    (hexec : ∀ a b o s, exec (mk a b o) s = branch c a b o s := by exact fun _ _ _ _ => rfl) : RowBranch cond mk p := by
  refine fun a b o => ⟨decodeWord_of_encode (hcode a b o).1 (hcode a b o).2, fun s va vb y h => ?_⟩
  have hbranch : exec (mk a b o) s = branches s (popped s y) o (condHolds c va vb) := by
    rw [hexec, branch, next_withOps h]
    exact branches_of_branchTo (slotAt_popped_pc h) rfl
  rw [hbranch]
  refine ⟨fun hp => ?_, fun hp => ?_⟩
  · rw [(hcond va vb).2 hp]
  · rw [Bool.eq_false_iff.2 (mt (hcond va vb).1 hp)]

/-- A row of BRI, from the condition that its form tests. -/
theorem rowBranchImm_of_condHolds {cond : BitVec 3} {mk : GReg → BitVec 5 → BitVec 12 → Instr} {p : Word → Word → Prop} (c : Cond)
    (hcond : ∀ a b, condHolds c a b = true ↔ p a b)
    (hcode : ∀ a i o, (mk a i o).wf = true ∧ encode (mk a i o) = some (bWord 0x29#7 a i cond o) := by exact fun _ _ _ => ⟨rfl, rfl⟩)
    (hexec : ∀ a i o s, exec (mk a i o) s = branchImm c a i o s := by exact fun _ _ _ _ => rfl) : RowBranchImm cond mk p := by
  refine fun a i o => ⟨decodeWord_of_encode (hcode a i o).1 (hcode a i o).2, fun s va y h => ?_⟩
  have hbranch : exec (mk a i o) s = branches s (popped s y) o (condHolds c va (i.signExtend 64)) := by
    rw [hexec, branchImm, next_withOps h]
    exact branches_of_branchTo (slotAt_popped_pc h) rfl
  rw [hbranch]
  refine ⟨fun hp => ?_, fun hp => ?_⟩
  · rw [(hcond va _).2 hp]
  · rw [Bool.eq_false_iff.2 (mt (hcond va _).1 hp)]

theorem condHolds_eq (a b : Word) : condHolds .eq a b = true ↔ a = b := by simp [condHolds]
theorem condHolds_ne (a b : Word) : condHolds .ne a b = true ↔ a ≠ b := by simp [condHolds]
theorem condHolds_lt (a b : Word) : condHolds .lt a b = true ↔ a.toInt < b.toInt := by simp [condHolds, ltS, BitVec.slt]
theorem condHolds_ge (a b : Word) : condHolds .ge a b = true ↔ b.toInt ≤ a.toInt := by simp [condHolds, ltS, BitVec.slt]
theorem condHolds_ltn (a b : Word) : condHolds .ltn a b = true ↔ a.toNat < b.toNat := by simp [condHolds, ltU, BitVec.ult]
theorem condHolds_gen (a b : Word) : condHolds .gen a b = true ↔ b.toNat ≤ a.toNat := by simp [condHolds, ltU, BitVec.ult]

/-- Condition 7 of BR is not assigned (R287). -/
theorem decodeWord_branch_reserved (a b : GReg) (o : BitVec 12) : decodeWord (bWord 0x28#7 a b 7#3 o) = .error .reserved := by
  simp [decodeWord, decodeOp28]

/-- BRI has four conditions (R289). -/
theorem decodeWord_branchImm_reserved (a : GReg) (i : BitVec 5) {c : BitVec 3} (o : BitVec 12) (h : 4 ≤ c.toNat) :
    decodeWord (bWord 0x29#7 a i c o) = .error .reserved := by
  have hne (k : BitVec 3) (hk : k.toNat < 4) : c ≠ k := fun hc => Nat.not_lt.2 h (hc ▸ hk)
  simp [decodeWord, decodeOp29, hne]

/-! `bfull`, `jal`, `jalr` and `loop`. -/

theorem exec_bfull (a : GReg) (o : BitVec 12) (s : State) :
    exec (.bfull a o) s = branches s s o ((slotAt s s.cur).isFull a.toNat) := by
  change Host.Outcome.next _ = _
  rw [State.branchTo, branchPc_eq]
  rfl

section
variable {s : State} {d a b : GReg} {t : Bool} {va vb : Word} {y : Slot}

theorem exec_jal (o : BitVec 20) (h : Reads s [] (some d) [] y) :
    exec (.jal d o) s = jumps s (wrote (popped s y) d 0#5 false ((slotAt s s.cur).pc + 4#64))
      ((slotAt s s.cur).pc + 4#64 * o.signExtend 64) := by
  refine (next_withOps h _).trans ?_
  rw [slotAt_popped_pc h, off20, BitVec.mul_comm]
  rfl

/-- An address is a multiple of 4 when its two lowest bits are zero. -/
theorem and_three_eq_zero_iff (v : Word) : v &&& 3#64 = 0#64 ↔ v.toNat % 4 = 0 := by
  rw [← BitVec.toNat_inj, BitVec.toNat_and]
  exact (Nat.and_two_pow_sub_one_eq_mod v.toNat 2) ▸ Iff.rfl

theorem exec_jalr_aligned {i : BitVec 14} (h : Reads s [a] (some d) [va] y) (hal : (va + i.signExtend 64).toNat % 4 = 0) :
    exec (.jalr d a t i) s = jumps s (wrote (popped s y) d a t ((slotAt s s.cur).pc + 4#64)) (va + i.signExtend 64) := by
  have hand : (va + imm14 i) &&& 3#64 = 0#64 := (and_three_eq_zero_iff _).2 hal
  refine (next_withOps h _).trans ((congrArg (endsAs s) (if_neg (not_not.2 hand))).trans ?_)
  rw [wrote, ← slotAt_popped_pc h]
  rfl

theorem exec_jalr_misaligned {i : BitVec 14} (h : Reads s [a] (some d) [va] y) (hal : (va + i.signExtend 64).toNat % 4 ≠ 0) :
    exec (.jalr d a t i) s = traps s 0x12 (va + i.signExtend 64) := by
  refine (next_withOps h _).trans (traps_of_trap (if_pos ?_))
  exact mt (and_three_eq_zero_iff _).1 hal

@[simp] theorem writeDst_pc (x : Slot) (d : Nat) (v : Word) : (x.writeDst d v).pc = x.pc := by
  unfold Slot.writeDst Slot.setReg
  split
  · rfl
  · split <;> rfl

theorem exec_loop (o : BitVec 12) (h : Reads s [a, b] (some a) [va, vb] y) :
    exec (.loop a b o) s = branches s (wrote (popped s y) a 0#5 false (va - 1#64)) o (decide (va - 1#64 ≠ vb)) := by
  refine (next_withOps h _).trans (branches_of_branchTo (t := wrote (popped s y) a 0#5 false (va - 1#64)) ?_ rfl)
  change (slotAt (modSlot (popped s y) s.cur _) s.cur).pc = _
  rw [slotAt_modSlot_self, slotAt_popped, writeDst_pc, takeIf_pc, pc_of_reads h]

end

/-! Fences. -/

theorem exec_fence (k c : BitVec 3) (s : State) : exec (.fence k c) s =
    if (k.getLsbD 0 = true ∧ loadsOut s s.cur c.toNat = true) ∨ (k.getLsbD 1 = true ∧ storesOut s s.cur c.toNat = true) ∨
      (k.getLsbD 2 = true ∧ enginesOut s s.cur c.toNat = true) then parks s s else completes s s := by
  change Host.Outcome.next (finish s s.cur (ite _ _ _)) = _
  simp only [Bool.or_eq_true, Bool.and_eq_true, or_assoc]
  split <;> rfl

theorem exec_fencex (k : BitVec 2) (c : BitVec 3) (s : State) : exec (.fencex k c) s = completes s (modSlot s s.cur fun x =>
    { x with
      barS := x.barS ++ if k.getLsbD 0 then ((slotJ (coreAt s (coreOf s.cur)) s.cur).filter fun j =>
        decide (homeScope s (coreOf s.cur) j.pa ≤ c.toNat)).map JEntry.uid else [],
      barE := x.barE ++ if k.getLsbD 1 then (x.cmds.filter fun e => decide (e.scope ≤ c.toNat)).map CmdRef.id else [] }) := by
  refine congrArg (completes s) (congrArg (setSlot s s.cur) ?_)
  cases k.getLsbD 0 <;> cases k.getLsbD 1 <;> simp

end Sys2Proof.Machine

namespace Sys2Proof.Claims

open Sys2Proof.Machine

/-- Settles O29: each form tests one condition, and branches by its outcome. -/
theorem branches_hold : Obligations.Branches :=
  ⟨rowBranch_of_condHolds .eq condHolds_eq, rowBranch_of_condHolds .ne condHolds_ne, rowBranch_of_condHolds .lt condHolds_lt,
    rowBranch_of_condHolds .ge condHolds_ge, rowBranch_of_condHolds .ltn condHolds_ltn, rowBranch_of_condHolds .gen condHolds_gen,
    decodeWord_branch_reserved,
    rowBranchImm_of_condHolds .eq condHolds_eq, rowBranchImm_of_condHolds .ne condHolds_ne, rowBranchImm_of_condHolds .lt condHolds_lt,
    rowBranchImm_of_condHolds .ge condHolds_ge, fun a i _ o => decodeWord_branchImm_reserved a i o⟩

/-- Settles O30: `bfull` and `loop` branch by one test, and the jumps write the link at the PC at which the turn began. -/
theorem fullTestJumpsAndLoop : Obligations.FullTestJumpsAndLoop := by
  refine ⟨fun a o => ⟨decodeWord_of_encode rfl rfl, fun s => ?bfull⟩, fun d o => ⟨decodeWord_of_encode rfl rfl, fun s y h => exec_jal o h⟩,
    fun d a t i => ⟨decodeWord_of_encode rfl rfl, fun s va y h => ⟨exec_jalr_aligned h, exec_jalr_misaligned h⟩⟩,
    fun a b o => ⟨decodeWord_of_encode rfl rfl, fun s va vb y h => ?loop⟩⟩
  case bfull =>
    rw [exec_bfull]
    exact ⟨fun hf => by rw [hf], fun hf => by rw [hf]⟩
  case loop =>
    rw [exec_loop o h]
    exact ⟨fun hne => by rw [decide_eq_true hne], fun heq => by rw [decide_eq_false (not_not.2 heq)]⟩

/-- Settles O34: `fence` tests the kinds that it names, and `fencex` adds what its two kinds have outstanding. -/
theorem fences : Obligations.Fences := by
  refine ⟨fun k c s => ⟨fun ⟨hl, hst, he⟩ => ?_, fun hout => ?_⟩, exec_fencex⟩
  · rw [exec_fence, if_neg]
    rintro (⟨hk, ho⟩ | ⟨hk, ho⟩ | ⟨hk, ho⟩)
    · exact absurd (hl hk) (by simp [ho])
    · exact absurd (hst hk) (by simp [ho])
    · exact absurd (he hk) (by simp [ho])
  · rw [exec_fence, if_pos hout]

end Sys2Proof.Claims
end

section
/-! Pinning, semaphores, waiting, waking and time (R293 to R295, R300 to R302). -/

namespace Sys2Proof.Machine

open Sys2Proof.Claims

/-! Pinning. -/

section
variable {s : State}

theorem exec_pin_free (h : (coreAt s (coreOf s.cur)).pin = none) :
    exec .pin s = completes s (modCore s (coreOf s.cur) fun c => { c with pin := some s.cur }) := by
  change Host.Outcome.next (finish s s.cur _) = _
  rw [h]
  rfl

theorem exec_pin_own (h : (coreAt s (coreOf s.cur)).pin = some s.cur) : exec .pin s = completes s s := by
  change Host.Outcome.next (finish s s.cur _) = _
  rw [h]
  exact congrArg (fun r => Host.Outcome.next (finish s s.cur r)) (if_pos rfl)

theorem exec_pin_other {k : Nat} (h : (coreAt s (coreOf s.cur)).pin = some k) (hk : k ≠ s.cur) : exec .pin s = parks s s := by
  change Host.Outcome.next (finish s s.cur _) = _
  rw [h]
  exact congrArg (fun r => Host.Outcome.next (finish s s.cur r)) (if_neg hk)

theorem exec_unpin_unowned (h : (coreAt s (coreOf s.cur)).pin ≠ some s.cur) : exec .unpin s = traps s 0x04 0x60000001#64 :=
  congrArg (fun r => Host.Outcome.next (finish s s.cur r)) (if_pos h)

/-- `unpin` releases the VE when no VE command of the slot is left, and parks while one is (R293). -/
theorem exec_unpin_own (h : (coreAt s (coreOf s.cur)).pin = some s.cur) : exec .unpin s =
    if (slotAt s s.cur).cmds.any CmdRef.ve then parks s s else completes s (modCore s (coreOf s.cur) fun c => { c with pin := none }) := by
  refine (congrArg (fun r => Host.Outcome.next (finish s s.cur r)) (if_neg (not_not.2 h))).trans ?_
  split <;> rfl

end

/-! Semaphores. -/

section
variable {s : State} {n : BitVec 4}

theorem sem_eq_semOf (s : State) (n : Nat) : (coreAt s (coreOf s.cur)).sem n = semOf s n := bitF_zero _ 16

theorem exec_semdn (s : State) (n : BitVec 4) : exec (.semdn n) s =
    if semOf s n.toNat = 0 then parks s (modSlot s s.cur fun x => { x with semw := some n.toNat })
    else completes s (withSem s n.toNat (semOf s n.toNat - 1)) := by
  change Host.Outcome.next (finish s s.cur (if (coreAt s (coreOf s.cur)).sem n.toNat = 0 then _ else
    .done (modCore s (coreOf s.cur) fun c => c.setSem n.toNat ((coreAt s (coreOf s.cur)).sem n.toNat - 1)))) = _
  rw [sem_eq_semOf]
  split <;> rfl

theorem exec_semup (s : State) (n : BitVec 4) : exec (.semup n) s =
    if semOf s n.toNat = 65535 then traps s 0x33 (nw n.toNat)
    else completes s (wakeSem (withSem s n.toNat (semOf s n.toNat + 1)) (coreOf s.cur) n.toNat) := by
  change Host.Outcome.next (finish s s.cur (if (coreAt s (coreOf s.cur)).sem n.toNat = 65535 then _ else
    .done (wakeSem (modCore s (coreOf s.cur) fun c => c.setSem n.toNat ((coreAt s (coreOf s.cur)).sem n.toNat + 1)) _ _))) = _
  rw [sem_eq_semOf]
  split <;> rfl

theorem exec_semtry_taken {d : GReg} {y : Slot} (h : Reads s [] (some d) [] y) (hn : semOf s n.toNat ≠ 0) :
    exec (.semtry d n) s = completes s (wrote (withSem (popped s y) n.toNat (semOf s n.toNat - 1)) d 0#5 false 1#64) := by
  refine (next_withOps h _).trans (completes_of_done ?_)
  simp only [popped_cur, coreAt_popped, sem_eq_semOf, hn, if_false, ne_eq, not_false_eq_true, decide_true]
  rfl

theorem exec_semtry_empty {d : GReg} {y : Slot} (h : Reads s [] (some d) [] y) (hn : semOf s n.toNat = 0) :
    exec (.semtry d n) s = completes s (wrote (popped s y) d 0#5 false 0#64) := by
  refine (next_withOps h _).trans (completes_of_done ?_)
  simp only [popped_cur, coreAt_popped, sem_eq_semOf, hn]
  rfl

end

/-! Waiting and time. -/

section
variable {s : State} {d a : GReg} {t : Bool} {va : Word} {y : Slot}

theorem exec_yield (h : Reads s [a] none [va] y) : exec (.yield a t) s =
    completes s (modSlot (popped s y) s.cur fun x => { x.takeIf t a.toNat with skip := max 1 (va.toNat % 2 ^ 16) }) := by
  have hskip : (if bitF va 0 16 = 0 then 1 else bitF va 0 16) = max 1 (va.toNat % 2 ^ 16) := by
    rw [bitF_zero]
    split <;> omega
  refine (next_withOps h _).trans (completes_of_done ?_)
  rw [← hskip]
  rfl

theorem exec_wake (h : Reads s [a] none [va] y) : exec (.wake a t) s =
    completes s (modSlot (took (popped s y) a t) (slotOf (coreOf s.cur) (va.toNat % 16)) fun x => { x with tok := true }) := by
  refine (next_withOps h _).trans (completes_of_done ?_)
  rw [val_zero, bitF_zero]
  rfl

theorem deadline_of_reads {srcs : List GReg} {dst : Option GReg} {vs : List Word} {reply : Bool} (h : Reads s srcs dst vs y reply) :
    y.deadline = (slotAt s s.cur).deadline := by
  rw [Slot.prep_frame h]

theorem tok_of_reads {srcs : List GReg} {dst : Option GReg} {vs : List Word} {reply : Bool} (h : Reads s srcs dst vs y reply) :
    y.tok = (slotAt s s.cur).tok := by
  rw [Slot.prep_frame h]

/-- A form that parks with the slot changed by `f` has popped nothing (R10). -/
theorem parks_of_park {f : Slot → Slot} {r : Res} (h : r = .park (modSlot (popped s y) s.cur f)) :
    endsAs s r = parks s (modSlot (popped s y) s.cur fun x => { f x with strs := (slotAt s s.cur).strs }) := by
  rw [h, endsAs_park, keptStreams, modSlot_modSlot]

/-- `tsleep` completes when its deadline had passed at the end of the last cycle, or its operand is 0; else it parks with it (R301). -/
theorem exec_tsleep (h : Reads s [a] none [va] y) {dl : Nat} (hdl : dl = (slotAt s s.cur).deadline.getD (tickOf s + va.toNat)) :
    exec (.tsleep a t) s = if va = 0#64 ∨ dl ≤ (s.time - 1) * 5 / 8 then completes s (took (popped s y) a t)
      else parks s (modSlot (popped s y) s.cur fun x => { x with deadline := some dl, strs := (slotAt s s.cur).strs }) := by
  have hslot : (slotAt (popped s y) (popped s y).cur).deadline.getD (tickOf (popped s y) + va.toNat) = dl := by
    rw [popped_cur, slotAt_popped, deadline_of_reads h, hdl]
    rfl
  refine (next_withOps h _).trans ?_
  simp only [val_zero, hslot]
  split
  · next hc => exact (completes_of_done rfl).trans (if_pos hc).symm
  · next hc => exact (parks_of_park rfl).trans (if_neg hc).symm

/-- The deadline that `park` waits for: none for an operand of 0. -/
def parkDeadline (s : State) (va : Word) : Option Nat :=
  if va = 0#64 then none else some ((slotAt s s.cur).deadline.getD (tickOf s + va.toNat))

/-- The deadline of `park` had passed at the end of the last cycle. -/
def parkPassed (s : State) (va : Word) : Bool :=
  match parkDeadline s va with
  | some n => decide (n ≤ tickPast s)
  | none => false

theorem parkPassed_iff (s : State) (va : Word) : parkPassed s va = true ↔
    va ≠ 0#64 ∧ (slotAt s s.cur).deadline.getD (tickOf s + va.toNat) ≤ (s.time - 1) * 5 / 8 := by
  unfold parkPassed parkDeadline
  by_cases hv : va = 0#64
  · simp [hv]
  · simp only [hv, if_false, decide_eq_true_eq, ne_eq, not_false_eq_true, true_and]
    rfl

theorem parkDeadline_popped {srcs : List GReg} {dst : Option GReg} {vs : List Word} (h : Reads s srcs dst vs y) :
    parkDeadline (popped s y) va = parkDeadline s va := by
  rw [parkDeadline, popped_cur, slotAt_popped, deadline_of_reads h]
  rfl

theorem exec_park (h : Reads s [a] (some d) [va] y) : exec (.park d a t) s =
    if (slotAt s s.cur).tok then
      completes s (modSlot (popped s y) s.cur fun x => { (x.takeIf t a.toNat).writeDst d.toNat 1#64 with tok := false })
    else if parkPassed s va then completes s (wrote (popped s y) d a t 0#64)
    else parks s (modSlot (popped s y) s.cur fun x => { x with deadline := parkDeadline s va, strs := (slotAt s s.cur).strs }) := by
  have htok : (slotAt (popped s y) (popped s y).cur).tok = (slotAt s s.cur).tok := by rw [popped_cur, slotAt_popped, tok_of_reads h]
  have hdl := parkDeadline_popped (va := va) h
  have hpassed : parkPassed (popped s y) va = parkPassed s va := by
    unfold parkPassed
    rw [hdl]
    rfl
  rw [← htok, ← hpassed, ← hdl]
  refine (next_withOps h _).trans ?_
  change endsAs s (if (slotAt (popped s y) (popped s y).cur).tok then
      .done (modSlot (popped s y) s.cur fun x => { (x.takeIf t a.toNat).writeDst d.toNat 1#64 with tok := false })
    else if parkPassed (popped s y) va then .done (wrote (popped s y) d a t 0#64)
    else .park (modSlot (popped s y) s.cur fun x => { x with deadline := parkDeadline (popped s y) va })) = _
  split
  · rfl
  · split
    · rfl
    · exact parks_of_park (f := fun x => { x with deadline := parkDeadline (popped s y) va }) rfl

end

end Sys2Proof.Machine

namespace Sys2Proof.Claims

open Sys2Proof.Machine

/-- Settles O32: each form has one rule, split by the state that it tests. -/
theorem pinsSemaphoresAndTime : Obligations.PinsSemaphoresAndTime := by
  refine ⟨fun s => ⟨exec_pin_free, exec_pin_own, fun _ => exec_pin_other, exec_unpin_unowned, fun h hv => ?unpin, fun h hv => ?unpinWaits⟩,
    fun s n => ⟨fun h => ?down, fun h => ?downWaits, fun h => ?up, fun h => ?upTraps⟩,
    fun s d n y hr => ⟨fun h => exec_semtry_taken hr (by omega), exec_semtry_empty hr⟩,
    fun a t s va y hr => ⟨exec_yield hr, exec_wake hr, fun dl hdl => ⟨fun h => ?slept, fun hv h => ?sleeps⟩⟩,
    fun d a t s va y hr => ⟨fun h => ?token, fun h hv hp => ?passed, fun h hw => ?parked⟩,
    fun d s y hr => ⟨exec_of_compute hr rfl rfl rfl, exec_of_compute hr rfl rfl rfl⟩⟩
  case unpin => rw [exec_unpin_own h, if_neg (by simpa using hv)]
  case unpinWaits => rw [exec_unpin_own h, if_pos (by simpa using hv)]
  case down => rw [exec_semdn, if_neg (by omega)]
  case downWaits => rw [exec_semdn, if_pos h]
  case up => rw [exec_semup, if_neg (by omega)]
  case upTraps => rw [exec_semup, if_pos h]
  case slept => rw [exec_tsleep hr hdl, if_pos h]
  case sleeps => rw [exec_tsleep hr hdl, if_neg (not_or.2 ⟨hv, Nat.not_le.2 h⟩)]
  case token => rw [exec_park hr, if_pos h]
  case passed => rw [exec_park hr, if_neg (by simp [h]), if_pos ((parkPassed_iff s va).2 ⟨hv, hp⟩)]
  case parked =>
    have hnot : ¬ parkPassed s va = true := fun hp => by
      obtain ⟨hv, hle⟩ := (parkPassed_iff s va).1 hp
      exact hw.elim hv fun hlt => absurd hle (Nat.not_le.2 hlt)
    rw [exec_park hr, if_neg (by simp [h]), if_neg hnot]
    rfl

end Sys2Proof.Claims
end

section
/-! Ring forms (R296 to R298). -/

namespace Sys2Proof.Machine

open Sys2Proof.Claims

/-! Wakes and bytes written. -/

@[simp] theorem coreAt_wake (s : State) (k c : Nat) : coreAt (wake s k) c = coreAt s c := rfl
@[simp] theorem wake_mem (s : State) (k : Nat) : (wake s k).mem = s.mem := rfl

/-- Waking slots one by one changes nothing but slots. -/
theorem keeps_wakes {α : Type} {g : State → α} (hg : ∀ s k, g (wake s k) = g s) (p : State → Nat → Prop) [∀ s k, Decidable (p s k)]
    (ks : List Nat) (s : State) : g (ks.foldl (fun s k => if p s k then wake s k else s) s) = g s := by
  induction ks generalizing s with
  | nil => rfl
  | cons k ks ih =>
    rw [List.foldl_cons, ih]
    split
    · exact hg s k
    · rfl

@[simp] theorem coreAt_wakeRing (s : State) (core q c : Nat) : coreAt (wakeRing s core q) c = coreAt s c :=
  keeps_wakes (g := fun s => coreAt s c) (fun s k => coreAt_wake s k c) (fun s k => (slotAt s k).onRing q = true) _ s

@[simp] theorem wakeRing_mem (s : State) (core q : Nat) : (wakeRing s core q).mem = s.mem :=
  keeps_wakes (g := State.mem) wake_mem (fun s k => (slotAt s k).onRing q = true) _ s

@[simp] theorem ringAt_setRing (c : Core) (q : Nat) (r : Ring) : ringAt (setRing c q r) q = r := SMap.get_set_self _ _ _ _

theorem ringAt_putRing (s : State) (core q : Nat) (r : Ring) : ringAt (coreAt (putRing s core q r) core) q = r := by
  rw [putRing, coreAt_wakeRing, coreAt_modCore_self, ringAt_setRing]

@[simp] theorem putRing_cur (s : State) (core q : Nat) (r : Ring) : (putRing s core q r).cur = s.cur :=
  keeps_wakes (g := State.cur) (fun _ _ => rfl) (fun s k => (slotAt s k).onRing q = true) _ _

@[simp] theorem putRing_mem (s : State) (core q : Nat) (r : Ring) : (putRing s core q r).mem = s.mem := by
  rw [putRing, wakeRing_mem, modCore_mem]

/-- The bytes of a range read as those just written there. -/
theorem memBytes_of_memPut {s : State} {m : List Host.Cell} {a n : Nat} {bs : List Byte} (hn : bs.length = n) (h : s.mem = memPut m a bs) :
    memBytes s a n = bs := by
  subst hn
  refine List.ext_getElem (memBytes_length s a _) fun i h1 h2 => ?_
  have hget := getD_memBytes s a bs.length h2
  rw [memByte, h, get_memPut_inside m a i bs h2] at hget
  simpa [h2, memBytes_length] using hget

/-! The forms. -/

section
variable {s : State} {q : BitVec 3} {b d : GReg} {p vb : Word} {y : Slot}

/-- A ring's descriptor is well formed (R297). -/
abbrev ringOk (r : Ring) (bs : List Byte) : Prop :=
  r.n ≠ 0 ∧ r.ssz ≠ 0 ∧ r.ssz % 8 = 0 ∧ filledOf r ≤ r.n ∧ bitF (dwordAt bs 1) 32 32 = 0 ∧ dwordAt bs 3 = 0#64

/-- The ring that the 32 bytes of a descriptor at own-LM byte `off` give (R297). -/
def ringOfBytes (off : Nat) (p : Word) (bs : List Byte) : Ring :=
  ⟨true, off, p, dwordAt bs 0, bitF (dwordAt bs 1) 0 16, bitF (dwordAt bs 1) 16 16, bitF (dwordAt bs 2) 0 32, bitF (dwordAt bs 2) 32 32⟩

/-- `qbind` of a ring that is not bound, whose descriptor the slot reads in its own LM: it is bound when its descriptor is well formed. -/
theorem exec_qbind_binds {la pa off : Nat} {acc : Acc} {bs : List Byte} (h : Reads s [b] none [p] y) (hp : p ≠ 0#64)
    (hv : (ringOf s q).v = false)
    (haddr : segAddr (popped s y) s.cur (p.toNat / 2 ^ 61) (nw (p.toNat % 2 ^ 40)) 32 needRW = .ok la pa acc)
    (hown : ownLm (popped s y) (coreOf s.cur) pa = .own off) (hread : lmRead (popped s y) (coreOf s.cur) off 32 = .ok (popped s y) bs) :
    (ringOk (ringOfBytes off p bs) bs → exec (.qbind q b) s = completes s (withRing (popped s y) q (ringOfBytes off p bs))) ∧
      (¬ ringOk (ringOfBytes off p bs) bs → exec (.qbind q b) s = traps s 0x32 (nw la)) := by
  have hat : attracts (popped s y) (popped s y).cur (ptrSeg p) pa = false := attracts_of_own hown
  have haddr' : segAddr (popped s y) (popped s y).cur (ptrSeg p) (nw (ptrOff p)) 32 needRW = .ok la pa acc := by
    rw [ptrSeg, bitF_high p (by decide), ptrOff, bitF_zero]
    exact haddr
  have hv' : (ringAt (coreAt (popped s y) (coreOf (popped s y).cur)) q.toNat).v = false := hv
  have hbad : ((ringOfBytes off p bs).n = 0 ∨ (ringOfBytes off p bs).ssz = 0 ∨ (ringOfBytes off p bs).ssz % 8 ≠ 0 ∨
      (ringOfBytes off p bs).filled > (ringOfBytes off p bs).n ∨ bitF (dwordAt bs 1) 32 32 ≠ 0 ∨ dwordAt bs 3 ≠ 0#64) ↔
      ¬ ringOk (ringOfBytes off p bs) bs := by
    simp only [ringOk, not_and_or, not_not, Nat.not_le]
    rfl
  have hexec : exec (.qbind q b) s = endsAs s (if ¬ ringOk (ringOfBytes off p bs) bs then .trap 0x32 (nw la)
      else .done (putRing (popped s y) (coreOf s.cur) q.toNat (ringOfBytes off p bs))) := by
    refine (next_withOps h _).trans (congrArg (endsAs s) ?_)
    rw [← if_congr hbad rfl rfl]
    simp only [val_zero, hp, if_false, hv', Bool.false_eq_true, onAddr, haddr', hat]
    rw [popped_cur, hown]
    simp only [hread]
    rfl
  rw [hexec]
  exact ⟨fun hok => by rw [if_neg (not_not.2 hok)]; rfl, fun hnot => by rw [if_pos hnot]; rfl⟩

theorem exec_qbind_bound (h : Reads s [b] none [p] y) (hp : p ≠ 0#64) (hv : (ringOf s q).v = true) :
    exec (.qbind q b) s = traps s 0x32 (nw q.toNat) := by
  have hv' : (ringAt (coreAt (popped s y) (coreOf (popped s y).cur)) q.toNat).v = true := hv
  refine (next_withOps h _).trans (traps_of_trap ?_)
  simp only [val_zero, hp, if_false, hv', if_true]

theorem exec_qbind_unbound (h : Reads s [b] none [0#64] y) (hv : (ringOf s q).v = false) :
    exec (.qbind q b) s = completes s (popped s y) := by
  have hv' : (ringAt (coreAt (popped s y) (coreOf (popped s y).cur)) q.toNat).v = false := hv
  refine (next_withOps h _).trans (completes_of_done ?_)
  simp only [val_zero, if_true, hv', Bool.false_eq_true, if_false]

/-- A core's ring is unbound, with HEAD and TAIL written back to its descriptor in the own LM (R298). -/
def ringUnbound (z : State) (core q : Nat) (r : Ring) : State :=
  putRing (lmWritten z core (r.off + 16) (natLE 4 r.head ++ natLE 4 r.tail)) core q { r with v := false }

@[simp] theorem ringUnbound_cur (z : State) (core q : Nat) (r : Ring) : (ringUnbound z core q r).cur = z.cur := by
  rw [ringUnbound, putRing_cur, lmWritten_cur]

theorem ringAt_ringUnbound (z : State) (core q : Nat) (r : Ring) : ringAt (coreAt (ringUnbound z core q r) core) q = { r with v := false } :=
  ringAt_putRing _ _ _ _

theorem ringUnbound_mem (z : State) (core q : Nat) (r : Ring) :
    (ringUnbound z core q r).mem = memPut z.mem (lmKey core (r.off + 16)) (natLE 4 r.head ++ natLE 4 r.tail) := by
  rw [ringUnbound, putRing_mem, lmWritten_mem]

/-- `qbind` of 0 unbinds a bound ring (R298). -/
theorem exec_qbind_unbinds (h : Reads s [b] none [0#64] y) (hv : (ringOf s q).v = true)
    (hok : ∀ c v, ownBytes (popped s y) (coreOf s.cur) ((ringOf s q).off + 16) 8 = .error (c, v) → c ≠ 0x16 ∧ c ≠ 0x17) :
    exec (.qbind q b) s = completes s (ringUnbound (popped s y) (coreOf s.cur) q.toNat (ringOf s q)) := by
  have hv' : (ringAt (coreAt s (coreOf s.cur)) q.toNat).v = true := hv
  refine (next_withOps h _).trans (completes_of_done ?_)
  simp only [val_zero, if_true, popped_cur, coreAt_popped, hv']
  cases hb : ownBytes (popped s y) (coreOf s.cur) ((ringAt (coreAt s (coreOf s.cur)) q.toNat).off + 16) 8 with
  | ok bs => rfl
  | error e =>
    obtain ⟨h16, h17⟩ := hok e.1 e.2 hb
    simp only [h16, h17, or_self, if_false]
    rfl

end

/-- The wait of `qwaitf` and `qwaite`, as the ring and the count have it (R298). -/
theorem ringWait_eq {s : State} {d b : GReg} {q : BitVec 3} {vb : Word} {y : Slot} (count at_ : Ring → Nat) (h : Reads s [b] (some d) [vb] y) :
    ringWait d q b count at_ s =
      if (ringOf s q).v = false ∨ (ringOf s q).n < max 1 (vb.toNat % 2 ^ 16) then traps s 0x32 (nw q.toNat)
      else if count (ringOf s q) < max 1 (vb.toNat % 2 ^ 16) then waits s y
      else completes s (wrote (popped s y) d 0#5 false
        (nw ((ringOf s q).buf.toNat % 2 ^ 40 + at_ (ringOf s q) % (ringOf s q).n * (ringOf s q).ssz))) := by
  have hk : (if ringK vb = 0 then 1 else ringK vb) = max 1 (vb.toNat % 2 ^ 16) := by
    rw [ringK, bitF_zero]
    split <;> omega
  refine (next_withOps h _).trans ?_
  change endsAs s (if (!(ringOf s q).v) = true ∨ (ringOf s q).n < (if ringK vb = 0 then 1 else ringK vb) then .trap 0x32 (nw q.toNat)
    else if count (ringOf s q) < (if ringK vb = 0 then 1 else ringK vb) then .park (popped s y)
    else .done (wrote (popped s y) d 0#5 false
      (nw (bitF (ringOf s q).buf 0 40 + at_ (ringOf s q) % (ringOf s q).n * (ringOf s q).ssz)))) = _
  rw [hk, bitF_zero]
  simp only [Bool.not_eq_true']
  split
  · rfl
  · split <;> rfl

/-- The advance of `qadvh` and `qadvt` (R298). -/
theorem ringAdvance_eq {s : State} {b : GReg} {q : BitVec 3} {vb : Word} {y : Slot} (count : Ring → Nat) (move : Ring → Nat → Ring)
    (h : Reads s [b] none [vb] y) :
    ringAdvance q b count move s =
      if (ringOf s q).v = false ∨ count (ringOf s q) < vb.toNat % 2 ^ 16 then traps s 0x32 (nw q.toNat)
      else completes s (withRing (popped s y) q (move (ringOf s q) (vb.toNat % 2 ^ 16))) := by
  have hk : ringK vb = vb.toNat % 2 ^ 16 := bitF_zero vb 16
  refine (next_withOps h _).trans ?_
  simp only [val_zero, hk, popped_cur, coreAt_popped, Bool.not_eq_true', gt_iff_lt]
  change endsAs s (if (ringOf s q).v = false ∨ count (ringOf s q) < _ then _ else _) = _
  split <;> rfl

theorem exec_qcnt {s : State} {d : GReg} {q : BitVec 3} {y : Slot} (h : Reads s [] (some d) [] y) :
    exec (.qcnt d q) s =
      if (ringOf s q).v = false then traps s 0x32 (nw q.toNat)
      else completes s (wrote (popped s y) d 0#5 false (nw (freeOf (ringOf s q) * 2 ^ 32 + filledOf (ringOf s q)))) := by
  refine (next_withOps h _).trans ?_
  simp only [popped_cur, coreAt_popped, Bool.not_eq_true']
  change endsAs s (if (ringOf s q).v = false then _ else _) = _
  split <;> rfl

end Sys2Proof.Machine

namespace Sys2Proof.Claims

open Sys2Proof.Machine

/-- Settles O33: each form has one rule over the ring's fields, and an unbound ring's fields are written to its descriptor. -/
theorem rings : Obligations.Rings := by
  refine ⟨?bind, fun q b s p y h hp hv => exec_qbind_bound h hp hv, fun q b s y h => ⟨exec_qbind_unbound h, fun hv hok => ?unbind⟩,
    fun d q b s vb y k h hk => ?wait, fun q b s vb y k h hk => ?advance,
    fun d q s y h => ⟨fun hv => ?count, fun hv => ?countTraps⟩⟩
  case bind =>
    rintro q b s p y la pa acc off bs r h hp hv haddr hown hread rfl
    exact exec_qbind_binds h hp hv haddr hown hread
  case unbind =>
    refine ⟨_, exec_qbind_unbinds h hv hok, rfl, ?_, memBytes_of_memPut (m := (popped s y).mem) ?_ ?_⟩
    · rw [finish_done, ringOf, State.marked_cur, modSlot_cur, ringUnbound_cur, popped_cur, coreAt_marked, coreAt_modSlot, ringAt_ringUnbound]
    · simp only [List.length_append, natLE_length]
    · rw [finish_done, State.marked_mem, modSlot_mem, ringUnbound_mem]
  case wait =>
    subst hk
    have hf : exec (.qwaitf d q b) s = _ := ringWait_eq filledOf Ring.head h
    have he : exec (.qwaite d q b) s = _ := ringWait_eq freeOf Ring.tail h
    rw [hf, he]
    refine ⟨fun hv hn hc => ?_, fun hv hn hc => ?_, fun hv hn hc => ?_, fun hv hn hc => ?_, fun hbad => ⟨if_pos hbad, if_pos hbad⟩⟩
    all_goals rw [if_neg (not_or.2 ⟨by simp [hv], Nat.not_lt.2 hn⟩)]
    · exact if_neg (Nat.not_lt.2 hc)
    · exact if_neg (Nat.not_lt.2 hc)
    · exact if_pos hc
    · exact if_pos hc
  case advance =>
    subst hk
    have hh : exec (.qadvh q b) s = _ := ringAdvance_eq filledOf (fun r k => { r with head := (r.head + k) % 2 ^ 32 }) h
    have ht : exec (.qadvt q b) s = _ := ringAdvance_eq freeOf (fun r k => { r with tail := (r.tail + k) % 2 ^ 32 }) h
    rw [hh, ht]
    exact ⟨fun hv hc => if_neg (not_or.2 ⟨by simp [hv], Nat.not_lt.2 hc⟩), fun hv hc => if_neg (not_or.2 ⟨by simp [hv], Nat.not_lt.2 hc⟩), fun hbad => if_pos hbad, fun hbad => if_pos hbad⟩
  case count => rw [exec_qcnt h, if_neg (by simp [hv])]
  case countTraps => rw [exec_qcnt h, if_pos hv]

end Sys2Proof.Claims
end

section
/-! Taking a trap and returning from it (R328 to R334). -/

namespace Sys2Proof.Machine

open Sys2Proof.Claims

/-! The exchange of the segments (R331). -/

/-- Steps that each change thread registers alone change thread registers alone. -/
theorem foldl_regs_frame {f : Slot → Nat → Slot} (hf : ∀ y i, ∃ r, f y i = { y with regs := r }) (is : List Nat) (x : Slot) :
    ∃ r, is.foldl f x = { x with regs := r } := by
  induction is generalizing x with
  | nil => exact ⟨x.regs, rfl⟩
  | cons i is ih =>
    obtain ⟨r, hr⟩ := hf x i
    obtain ⟨r', hr'⟩ := ih (f x i)
    exact ⟨r', by rw [List.foldl_cons, hr', hr]⟩

/-- The exchange changes thread registers alone. -/
theorem Slot.swapSegs_frame (x : Slot) : ∃ r, x.swapSegs = { x with regs := r } :=
  foldl_regs_frame (fun _ _ => ⟨_, rfl⟩) _ x

theorem Slot.creg_swapSegs_seg (x : Slot) {i : Nat} (h : i < 4) :
    x.swapSegs.creg (0xC0 + i) = x.creg (0x86 + i) ∧ x.swapSegs.creg (0x86 + i) = x.creg (0xC0 + i) := by
  interval_cases i <;> simp [Slot.swapSegs, rangeFrom, Slot.creg_setCreg]

/-- The exchange when `b`, read at the segments. -/
theorem Slot.creg_ite_swapSegs (x : Slot) (b : Bool) {i : Nat} (h : i < 4) :
    (if b then x.swapSegs else x).creg (0xC0 + i) = x.creg (if b then 0x86 + i else 0xC0 + i) ∧
      (if b then x.swapSegs else x).creg (0x86 + i) = x.creg (if b then 0xC0 + i else 0x86 + i) := by
  cases b with
  | false => exact ⟨rfl, rfl⟩
  | true => exact x.creg_swapSegs_seg h

/-! The slot after the entry (R331). -/

/-- The slot with the trap registers written: TPC, TCAUSE, TVAL and TSTAT. -/
def Slot.trapRegs (x : Slot) (c : Nat) (v p : Word) (async : Bool) : Slot :=
  (((x.setCreg 0x080 (p &&& 0x3FFFFFFFFFC#64)).setCreg 0x081 (nw (c % 128))).setCreg 0x082 v).setCreg 0x083
    (nw ((!decide (x.mode = .user)).toNat + 2 + 4 * async.toNat + 8 * (decide (x.mode = .user)).toNat + 16 * (decide (x.st = .waiting)).toNat))

/-- The slot with the trap registers written and, from user mode, the segments exchanged. -/
def Slot.trapSegs (x : Slot) (c : Nat) (v p : Word) (async : Bool) : Slot :=
  if decide (x.mode = .user) then (x.trapRegs c v p async).swapSegs else x.trapRegs c v p async

section
variable (x : Slot) (c : Nat) (v p : Word) (async : Bool)

theorem Slot.trapSegs_frame : ∃ r, x.trapSegs c v p async = { x with regs := r } := by
  unfold Slot.trapSegs
  split
  · obtain ⟨r, hr⟩ := (x.trapRegs c v p async).swapSegs_frame
    exact ⟨r, hr.trans (by simp only [Slot.trapRegs, Slot.setCreg])⟩
  · exact ⟨(x.trapRegs c v p async).regs, by simp only [Slot.trapRegs, Slot.setCreg]⟩

/-- The entry changes the thread registers, ends the issue, and puts the slot at its handler. -/
theorem Slot.enterTrap_eq : x.enterTrap c v p async = { x.dropIssue with
    regs := (x.trapSegs c v p async).regs, mode := .supervisor, pc := (x.trapSegs c v p async).creg 0x084 &&& 0x3FFFFFFFFFC#64, st := .ready,
    skip := 0, baton := none, traps := c % 128 :: x.traps } := by
  obtain ⟨r, hr⟩ := Slot.trapSegs_frame x c v p async
  have hdef : x.enterTrap c v p async = { (x.trapSegs c v p async).dropIssue with
    mode := .supervisor, pc := (x.trapSegs c v p async).creg 0x084 &&& 0x3FFFFFFFFFC#64, st := .ready,
    skip := 0, baton := none, traps := c % 128 :: x.traps } := rfl
  rw [hdef, hr]
  rfl

theorem Slot.creg_enterTrap_eq (n : Nat) : (x.enterTrap c v p async).creg n = (x.trapSegs c v p async).creg n := by
  rw [Slot.enterTrap_eq]
  rfl

/-- A trap at a gang member changes the membership and the flag of a leader that runs alone, and nothing else. -/
theorem Slot.gangTrap_frame (leads : Bool) : ∃ solo gang, x.gangTrap leads = { x with solo := solo, gang := gang } := by
  unfold Slot.gangTrap
  split
  · exact ⟨_, _, rfl⟩
  · split <;> exact ⟨_, _, rfl⟩

theorem Slot.creg_trapRegs {n : Nat} (h : n < 0x080 ∨ 0x084 ≤ n) : (x.trapRegs c v p async).creg n = x.creg n := by
  unfold Slot.trapRegs
  rw [Slot.creg_setCreg_ne _ _ (by omega), Slot.creg_setCreg_ne _ _ (by omega), Slot.creg_setCreg_ne _ _ (by omega),
    Slot.creg_setCreg_ne _ _ (by omega)]

/-- Outside the segments the entry leaves what the trap registers' writes leave. -/
theorem Slot.creg_trapSegs {n : Nat} (hk : n < 0x86 ∨ 0x8A ≤ n) (hs : n < 0xC0 ∨ 0xC4 ≤ n) :
    (x.trapSegs c v p async).creg n = (x.trapRegs c v p async).creg n := by
  unfold Slot.trapSegs
  split
  · exact Slot.creg_swapSegs _ hk hs
  · rfl

theorem Slot.tpc_enterTrap : (x.enterTrap c v p async).creg 0x080 = p &&& 0x3FFFFFFFFFC#64 := by
  simp [Slot.creg_enterTrap, Slot.creg_setCreg]

theorem Slot.tstat_enterTrap : (x.enterTrap c v p async).creg 0x083 =
    nw ((!decide (x.mode = .user)).toNat + 2 + 4 * async.toNat + 8 * (decide (x.mode = .user)).toNat + 16 * (decide (x.st = .waiting)).toNat) := by
  rw [Slot.creg_enterTrap_eq, Slot.creg_trapSegs x c v p async (by omega) (by omega)]
  exact Slot.creg_setCreg_self _ _ _

theorem Slot.creg_enterTrap_segs {i : Nat} (h : i < 4) :
    (x.enterTrap c v p async).creg (0xC0 + i) = x.creg (if x.mode = .user then 0x86 + i else 0xC0 + i) ∧
      (x.enterTrap c v p async).creg (0x86 + i) = x.creg (if x.mode = .user then 0xC0 + i else 0x86 + i) := by
  have hseg := (x.trapRegs c v p async).creg_ite_swapSegs (decide (x.mode = .user)) h
  simp only [decide_eq_true_eq] at hseg
  simp only [Slot.creg_enterTrap_eq, Slot.trapSegs, decide_eq_true_eq]
  rw [hseg.1, hseg.2]
  exact ⟨Slot.creg_trapRegs x c v p async (by split <;> omega), Slot.creg_trapRegs x c v p async (by split <;> omega)⟩

/-- The registers that the entry leaves. -/
theorem Slot.creg_enterTrap_other {n : Nat} (h : n < 0x080 ∨ n = 0x084 ∨ n = 0x085 ∨ (0x08A ≤ n ∧ n < 0x0C0) ∨ 0x0C4 ≤ n) :
    (x.enterTrap c v p async).creg n = x.creg n := by
  rw [Slot.creg_enterTrap_eq, Slot.creg_trapSegs x c v p async (by omega) (by omega), Slot.creg_trapRegs x c v p async (by omega)]

end

/-- The bits of TSTAT as a trap writes them (R331, R336). -/
theorem tstat_bits (u a w : Bool) (v : Word) (h : v = nw ((!u).toNat + 2 + 4 * a.toNat + 8 * u.toNat + 16 * w.toNat)) :
    bitB v 0 = !u ∧ bitB v 1 = true ∧ bitB v 2 = a ∧ bitB v 3 = u ∧ bitB v 4 = w ∧ v.toNat < 32 := by
  subst h
  revert u a w
  decide

theorem decide_supervisor (m : Mode) : decide (m = .supervisor) = !decide (m = .user) := by cases m <;> rfl

/-- A trap enters its handler when its slot is in no trap, and 0x70 always does (R331, R332). -/
theorem trapEntry_eq {s : State} {k c : Nat} {v p : Word} {async : Bool} (h : (slotAt s k).intrap = false ∨ c = 0x70) :
    trapEntry s k c v p async = setSlot s k (((slotAt s k).enterTrap c v p async).gangTrap (leadsGang s k)) := by
  rcases h with h | rfl
  · exact trapEntry_enters h
  · simp [trapEntry]

/-! A precise trap (R331). -/

/-- A precise trap is an entry at the slot that has counted it. -/
theorem trapNow_eq {s : State} {k c : Nat} {v : Word} (h : (slotAt s k).intrap = false ∨ c = 0x70) :
    ∃ leads, slotAt (trapNow s k c v) k = ((((slotAt s k).setCreg 0x005 ((slotAt s k).creg 0x005 + 1#64)).enterTrap c v
      (trapPc (slotAt s k) c) false).gangTrap leads) := by
  have hin : (slotAt (modSlot s k fun y => y.setCreg 0x005 (y.creg 0x005 + 1#64)) k).intrap = false ∨ c = 0x70 := by
    rwa [slotAt_modSlot_self, Slot.intrap, Slot.creg_setCreg_ne _ _ (by decide)]
  refine ⟨leadsGang (modSlot s k fun y => y.setCreg 0x005 (y.creg 0x005 + 1#64)) k, ?_⟩
  rw [trapNow, trapEntry_eq hin]
  simp

/-! A double trap (R332). -/

/-- The PC as the event word of a double trap and THR_TPC hold it lies below bit 42. -/
theorem pcField_lt (pc : Word) : (pc &&& 0x3FFFFFFFFFC#64).toNat < 2 ^ 48 :=
  Nat.lt_of_le_of_lt (Nat.and_le_right (n := pc.toNat) (m := 0x3FFFFFFFFFC)) (by decide)

/-- The event word of a double trap: the second cause, the slot and the PC. -/
theorem doubleTrap_word {c n : Nat} (pc : Word) (hc : c < 128) (hn : n < 16) :
    (nw (c * 2 ^ 57 + n * 2 ^ 48) ||| (pc &&& 0x3FFFFFFFFFC#64)).toNat / 2 ^ 57 = c ∧
      (nw (c * 2 ^ 57 + n * 2 ^ 48) ||| (pc &&& 0x3FFFFFFFFFC#64)).toNat / 2 ^ 48 % 16 = n ∧
      (nw (c * 2 ^ 57 + n * 2 ^ 48) ||| (pc &&& 0x3FFFFFFFFFC#64)) &&& 0x3FFFFFFFFFC#64 = pc &&& 0x3FFFFFFFFFC#64 := by
  have hlow := pcField_lt pc
  have hhigh : (nw (c * 2 ^ 57 + n * 2 ^ 48)).toNat = 2 ^ 48 * (c * 512 + n) := by
    rw [nw, BitVec.toNat_ofNat, Nat.mod_eq_of_lt (by omega)]
    omega
  have hsum : (nw (c * 2 ^ 57 + n * 2 ^ 48) ||| (pc &&& 0x3FFFFFFFFFC#64)).toNat =
      2 ^ 48 * (c * 512 + n) + (pc &&& 0x3FFFFFFFFFC#64).toNat := by
    rw [BitVec.toNat_or, hhigh, Nat.two_pow_add_eq_or_of_lt hlow]
  refine ⟨by omega, by omega, ?_⟩
  have hzero : nw (c * 2 ^ 57 + n * 2 ^ 48) &&& 0x3FFFFFFFFFC#64 = 0#64 := by
    apply BitVec.eq_of_getLsbD_eq
    intro i _
    rw [BitVec.getLsbD_and, BitVec.getLsbD_zero, BitVec.getLsbD, hhigh, Nat.testBit_two_pow_mul]
    by_cases hi : 48 ≤ i
    · rw [BitVec.getLsbD, Nat.testBit_lt_two_pow (Nat.lt_of_lt_of_le (by decide) (Nat.pow_le_pow_right (by decide) hi)), Bool.and_false]
    · simp [hi]
  rw [BitVec.and_or_distrib_right, hzero, BitVec.zero_or, BitVec.and_assoc, BitVec.and_self]

/-- A double trap stops the slot, keeps its registers, and raises 0x0C at the core (R332). -/
theorem doubleTrap_effect {s : State} {k c : Nat} : ∀ t, t = doubleTrap s k c →
    (slotAt t k).st = .stopped ∧ (slotAt t k).dbgs = true ∧ (slotAt t k).pc = (slotAt s k).pc ∧ (slotAt t k).regs = (slotAt s k).regs ∧
      (slotAt t k).mode = (slotAt s k).mode ∧ (slotAt t k).g = (slotAt s k).g ∧
      ((coreAt s (coreOf k)).evq.length < 16 → (coreAt t (coreOf k)).evq = (coreAt s (coreOf k)).evq ++
        [(0x0C, nw (c % 128 * 2 ^ 57 + slotNo k * 2 ^ 48) ||| ((slotAt s k).pc &&& 0x3FFFFFFFFFC#64))]) := by
  rintro t rfl
  have hslot : slotAt (doubleTrap s k c) k = { (slotAt s k).dropIssue with st := .stopped, dbgs := true } := by
    rw [doubleTrap, slotAt_raiseEvent, slotAt_setSlot_self]
  rw [hslot]
  refine ⟨rfl, rfl, rfl, rfl, rfl, rfl, fun h => ?_⟩
  rw [doubleTrap, evq_raiseEvent _ _ (by simpa using h), coreAt_setSlot]

/-! The return from a trap (R333). -/

/-- TSTAT as the return leaves it: PMODE and ASYNC (R333, R336). -/
theorem tstat_returned (v : Word) : bitB (nw (bitF v 0 1 + bitF v 2 1 * 4)) 0 = bitB v 0 ∧ bitB (nw (bitF v 0 1 + bitF v 2 1 * 4)) 1 = false ∧
    bitB (nw (bitF v 0 1 + bitF v 2 1 * 4)) 3 = false ∧ bitB (nw (bitF v 0 1 + bitF v 2 1 * 4)) 4 = false := by
  have hbit : bitB v 0 = decide (bitF v 0 1 = 1) := by
    rw [bitB, BitVec.getLsbD, Nat.testBit_zero, bitF_zero, Nat.pow_one]
  have h0 : bitF v 0 1 < 2 := Nat.mod_lt _ (by decide)
  have h2 : bitF v 2 1 < 2 := Nat.mod_lt _ (by decide)
  rw [hbit]
  generalize bitF v 0 1 = m at h0
  generalize bitF v 2 1 = n at h2
  interval_cases m <;> interval_cases n <;> decide

/-- The slot that `eret` leaves but for TSTAT, its PC and its state: the segments exchanged back when SWP is set. -/
def Slot.returnSegs (x : Slot) : Slot := if bitB (x.creg 0x083) 3 then x.swapSegs else x

theorem Slot.returnSegs_frame (x : Slot) : ∃ r, x.returnSegs = { x with regs := r } := by
  unfold Slot.returnSegs
  split
  · exact x.swapSegs_frame
  · exact ⟨x.regs, rfl⟩

/-- What `eret` writes to TSTAT. -/
def Slot.returnStat (x : Slot) : Word := nw (bitF (x.creg 0x083) 0 1 + bitF (x.creg 0x083) 2 1 * 4)

theorem Slot.creg_returnSegs (x : Slot) {n : Nat} (hk : n < 0x86 ∨ 0x8A ≤ n) (hs : n < 0xC0 ∨ 0xC4 ≤ n) :
    x.returnSegs.creg n = x.creg n := by
  unfold Slot.returnSegs
  split
  · exact Slot.creg_swapSegs x hk hs
  · rfl

/-- The return changes the thread registers, ends the issue, and puts the slot at TPC, or lets it wait for work. -/
theorem Slot.returnTrap_eq (x : Slot) : x.returnTrap = { x.dropIssue with
    regs := (x.returnSegs.setCreg 0x083 x.returnStat).regs, mode := if bitB (x.creg 0x083) 0 then .supervisor else .user, solo := false,
    st := if bitB (x.creg 0x083) 4 then .waiting else .ready, pc := if bitB (x.creg 0x083) 4 then x.pc else x.creg 0x080,
    traps := x.traps.drop 1 } := by
  have hpc := x.creg_returnSegs (n := 0x080) (by omega) (by omega)
  obtain ⟨r, hr⟩ := x.returnSegs_frame
  have hsegs : (if bitB (x.creg 0x083) 3 then x.swapSegs else x) = { x with regs := r } := hr
  rw [← hpc, hr]
  simp only [Slot.returnTrap, hsegs]
  split <;> rfl

theorem Slot.tstat_returnTrap (x : Slot) : x.returnTrap.creg 0x083 = x.returnStat := by
  rw [Slot.returnTrap_eq]
  exact Slot.creg_setCreg_self _ _ _

theorem Slot.creg_returnTrap_segs (x : Slot) {i : Nat} (h : i < 4) :
    x.returnTrap.creg (0xC0 + i) = x.creg (if bitB (x.creg 0x083) 3 then 0x86 + i else 0xC0 + i) ∧
      x.returnTrap.creg (0x86 + i) = x.creg (if bitB (x.creg 0x083) 3 then 0xC0 + i else 0x86 + i) := by
  have hset (n : Nat) (hn : n ≠ 0x083) : x.returnTrap.creg n = x.returnSegs.creg n := by
    rw [Slot.returnTrap_eq]
    exact Slot.creg_setCreg_ne _ _ hn
  rw [hset _ (by omega), hset _ (by omega)]
  exact x.creg_ite_swapSegs (bitB (x.creg 0x083) 3) h

end Sys2Proof.Machine

namespace Sys2Proof.Claims

open Sys2Proof.Machine

/-- Settles O15: the entry writes the trap registers, exchanges the segments of user mode, and puts the slot at its handler. -/
theorem trapEntry_saves : Obligations.TrapEntry := by
  rintro s k c v p async h x y rfl rfl
  obtain ⟨solo, gang, hgang⟩ := Slot.gangTrap_frame ((slotAt s k).enterTrap c v p async) (leadsGang s k)
  have hslot : slotAt (trapEntry s k c v p async) k = { (slotAt s k).enterTrap c v p async with solo := solo, gang := gang } := by
    rw [trapEntry_eq h, slotAt_setSlot_self, hgang]
  have hcreg (n : Nat) : (slotAt (trapEntry s k c v p async) k).creg n = ((slotAt s k).enterTrap c v p async).creg n := by
    rw [hslot]
    rfl
  have hstat := tstat_bits (decide ((slotAt s k).mode = .user)) async (decide ((slotAt s k).st = .waiting)) _
    ((hcreg 0x083).trans (Slot.tstat_enterTrap _ c v p async))
  simp only [hcreg] at hstat ⊢
  rw [decide_supervisor]
  refine ⟨Slot.tpc_enterTrap _ _ _ _ _, Slot.cause_enterTrap _ _ _ _ _, Slot.tval_enterTrap _ _ _ _ _, hstat, ?mode, ?pc, ?st,
    fun i hi => Slot.creg_enterTrap_segs _ _ _ _ _ hi, fun n hn => Slot.creg_enterTrap_other _ _ _ _ _ hn, ?g, ?full, ?pend, ?pois, ?strs,
    ?cmds, fun j hj => ?others, ?state⟩
  case pc =>
    rw [hslot, Slot.creg_enterTrap_eq, Slot.enterTrap_eq]
  case others => rw [trapEntry_eq h, slotAt_setSlot, if_neg hj]
  case state =>
    rw [trapEntry_eq h]
    rfl
  all_goals rw [hslot, Slot.enterTrap_eq]
  all_goals rfl

/-- Settles O16: a precise trap is an entry at the slot that has counted it, and a double trap stops the slot. -/
theorem preciseAndDoubleTraps : Obligations.PreciseAndDoubleTraps := by
  refine ⟨?precise, ?double⟩
  case precise =>
    rintro s k c v h y rfl
    obtain ⟨leads, hslot⟩ := trapNow_eq (v := v) h
    obtain ⟨solo, gang, hgang⟩ := Slot.gangTrap_frame (((slotAt s k).setCreg 0x005 ((slotAt s k).creg 0x005 + 1#64)).enterTrap c v
      (trapPc (slotAt s k) c) false) leads
    rw [hslot]
    simp only [Slot.creg_gangTrap]
    refine ⟨Slot.tpc_enterTrap _ _ _ _ _, Slot.cause_enterTrap _ _ _ _ _, Slot.tval_enterTrap _ _ _ _ _, ?issued, ?mode, ?g, ?full,
      mem_trapNow s k c v⟩
    case issued =>
      rw [Slot.creg_enterTrap_other _ _ _ _ _ (.inl (by decide))]
      exact Slot.creg_setCreg_self _ _ _
    all_goals rw [hgang, Slot.enterTrap_eq]
    all_goals rfl
  case double =>
    rintro s k c v p async h hc t rfl
    rw [trapEntry_double h hc]
    obtain ⟨hst, hdbgs, hpc, hregs, hmode, hg, hev⟩ := doubleTrap_effect (s := s) (k := k) (c := c) _ rfl
    have hword := doubleTrap_word (slotAt s k).pc (Nat.mod_lt c (by decide : 0 < 128)) (Nat.mod_lt k (by decide : 0 < 16))
    exact ⟨hst, hdbgs, hpc, hregs, hmode, hg, fun hroom => ⟨_, hev hroom, hword⟩⟩

/-- Settles O17: the slot that returns has its segments and its mode back, and the end of the turn changes only what the issue kept. -/
theorem trapReturn : Obligations.TrapReturn := by
  intro s
  refine ⟨_, rfl, ?_⟩
  rintro x y st rfl rfl rfl
  have hslot : slotAt (finish s s.cur (.left (modSlot s s.cur Slot.returnTrap))) s.cur = (slotAt s s.cur).returnTrap.complete := by
    rw [finish_left, slotAt_marked, slotAt_modSlot_self, slotAt_modSlot_self]
  have hcreg (n : Nat) (hn : n ≠ 0x005) : (slotAt s s.cur).returnTrap.complete.creg n = (slotAt s s.cur).returnTrap.creg n :=
    Slot.creg_setCreg_ne _ _ hn
  have hstat : (slotAt s s.cur).returnTrap.complete.creg 0x083 = (slotAt s s.cur).returnStat := by
    rw [hcreg _ (by decide), Slot.tstat_returnTrap]
  obtain ⟨hpmode, hintrap, hswp, hwfw⟩ := tstat_returned ((slotAt s s.cur).creg 0x083)
  rw [hslot]
  refine ⟨?mode, (congrArg (bitB · 1) hstat).trans hintrap, hstat ▸ hswp, hstat ▸ hwfw, hstat ▸ hpmode, fun h => ?waits, fun h => ⟨?pc, ?ready⟩, fun i hi => ?segs,
    ?g, ?full, ?pois, ?pend, rfl, fun j hj => ?others⟩
  case segs =>
    rw [hcreg _ (by omega), hcreg _ (by omega)]
    exact Slot.creg_returnTrap_segs _ hi
  case others => rw [finish_left, slotAt_marked, slotAt_modSlot, if_neg hj, slotAt_modSlot, if_neg hj]
  case waits =>
    rw [Slot.returnTrap_eq]
    exact if_pos h
  case pc =>
    rw [Slot.returnTrap_eq]
    exact if_neg (by simp [h])
  case ready =>
    rw [Slot.returnTrap_eq]
    exact if_neg (by simp [h])
  all_goals
    rw [Slot.returnTrap_eq]
    rfl

end Sys2Proof.Claims
end

section
/-! Loads and stores in a control window (R338). -/

namespace Sys2Proof.Machine

open Sys2Proof.Claims

section
variable {z : State} {d a : GReg} {t signed : Bool} {n la pa : Nat} {acc : Acc} {data : List Byte}
  (hown : ownLm z (coreOf z.cur) pa = .other) (hctl : isCtl z pa = true)
include hown hctl

/-- A load of another size than 8 bytes. -/
theorem loadAt_ctl_narrow (hn : n ≠ 8) : loadAt z d a t n signed la pa acc = .trap 0x10 (nw la) := by
  simp only [loadAt, hown, hctl, if_true, hn, ne_eq, not_false_eq_true]

theorem loadAt_ctl_private (hp : ctlPriv z pa = true) (hm : (slotAt z z.cur).mode = .user) :
    loadAt z d a t 8 signed la pa acc = .trap 0x03 (nw la) := by
  simp only [loadAt, hown, hctl, hp, hm, if_true, ne_eq, not_true_eq_false, if_false, and_self]

theorem loadAt_ctl_sends {blk m tag : Nat} (hplace : placeOf z pa = .ctl blk m) (hok : ¬ (ctlPriv z pa = true ∧ (slotAt z z.cur).mode = .user))
    (hstr : (slotAt z z.cur).inStream d.toNat = none) (htag : freeTag (coreAt z (coreOf z.cur)) = some tag) :
    loadAt z d a t 8 signed la pa acc = .done (Claims.requested z d a t tag 8 signed .load none pa (.ctlAccess false blk m 0#64)) := by
  simp only [loadAt, hown, hctl, hok, if_true, ne_eq, not_true_eq_false, if_false, hplace, requestOut_sends hstr htag]

theorem storeAt_ctl_narrow (hn : data.length ≠ 8) : storeAt z a t data la pa acc = .trap 0x10 (nw la) := by
  simp only [storeAt, hown, hctl, hn, ne_eq, not_false_eq_true, and_self, if_true]

theorem storeAt_ctl_private (hn : data.length = 8) (hp : ctlPriv z pa = true) (hm : (slotAt z z.cur).mode = .user) :
    storeAt z a t data la pa acc = .trap 0x03 (nw la) := by
  simp only [storeAt, hown, hctl, hn, hp, hm, ne_eq, not_true_eq_false, and_false, if_false, and_self, if_true]

omit hown hctl in
/-- With a free journal entry a store in a control window is posted to the register's agent (R107, R338). -/
theorem postOut_ctl {form : Option SyncForm} {blk m e : Nat} (hplace : placeOf z pa = .ctl blk m)
    (he : freeJ (coreAt z (coreOf z.cur)) = some e) :
    postOut z a t pa data form acc = .done (posted z a t e pa data form acc (.ctlAccess true blk m (leWord data))) := by
  have hmod : placeOf (modSlot z z.cur fun x => x.takeIf t a.toNat) pa = .ctl blk m := hplace
  simp only [postOut, postStore, coreAt_modSlot, he, takeFresh, hmod, slotAt_modSlot_self, takeIf_phase]
  rfl

theorem storeAt_ctl_posts {blk m e : Nat} (hn : data.length = 8) (hplace : placeOf z pa = .ctl blk m)
    (hok : ¬ (ctlPriv z pa = true ∧ (slotAt z z.cur).mode = .user)) (he : freeJ (coreAt z (coreOf z.cur)) = some e) :
    storeAt z a t data la pa acc = .done (posted z a t e pa data none acc (.ctlAccess true blk m (leWord data))) := by
  simp only [storeAt, hown, hctl, hn, hok, ne_eq, not_true_eq_false, and_false, if_false, postOut_ctl hplace he]

end

theorem leNat_natLE (n v : Nat) : leNat (natLE n v) = v % 256 ^ n := by
  induction n generalizing v with
  | zero => simp [natLE, leNat, Nat.mod_one]
  | succ n ih => rw [natLE, leNat, ih, Nat.pow_succ', Nat.mod_mul, BitVec.toNat_ofNat]

/-- A dword's bytes read back as the dword. -/
theorem leWord_wordLE (w : Word) : leWord (wordLE 8 w) = w := by
  rw [leWord, wordLE, leNat_natLE, show 256 ^ 8 = 2 ^ 64 from rfl, Nat.mod_eq_of_lt w.isLt, nw, BitVec.ofNat_toNat, BitVec.setWidth_eq]

theorem mode_of_reads {s : State} {srcs : List GReg} {dst : Option GReg} {vs : List Word} {y : Slot} {reply : Bool}
    (h : Reads s srcs dst vs y reply) : (slotAt (popped s y) (popped s y).cur).mode = (slotAt s s.cur).mode := by
  rw [popped_cur, slotAt_popped, Slot.prep_frame h]

end Sys2Proof.Machine

namespace Sys2Proof.Claims

open Sys2Proof.Machine

/-- Settles O24: a load or store whose address lies in a control window meets the checks of its size and its register, or leaves. -/
theorem controlWindowAccesses : Obligations.ControlWindowAccesses := by
  refine fun d a t sg o s va y la pa acc hbar hown hctl => ⟨fun hr => ⟨?narrowLoad, fun haddr => ⟨?privateLoad, ?load⟩⟩,
    fun vd hr => ⟨?narrowStore, fun haddr => ⟨?privateStore, ?store⟩⟩⟩
  case narrowLoad =>
    intro mk n hmk haddr
    have hform : n ≠ 8 ∧ ∃ signed, exec (mk d a t sg o) s = load d a t sg o n signed s := by
      simp only [List.mem_cons, Prod.mk.injEq, List.not_mem_nil, or_false] at hmk
      rcases hmk with ⟨rfl, rfl⟩ | ⟨rfl, rfl⟩ | ⟨rfl, rfl⟩ | ⟨rfl, rfl⟩ | ⟨rfl, rfl⟩ | ⟨rfl, rfl⟩ <;> exact ⟨by decide, _, rfl⟩
    obtain ⟨hn, signed, hexec⟩ := hform
    rw [hexec, load_at hr hbar haddr]
    exact traps_of_trap (loadAt_ctl_narrow hown hctl hn)
  case privateLoad =>
    intro hp hm
    exact (load_at hr hbar haddr).trans (traps_of_trap (loadAt_ctl_private hown hctl hp ((mode_of_reads hr).trans hm)))
  case load =>
    intro blk m tag hplace hok hstr htag
    refine (load_at hr hbar haddr).trans (completes_of_done (loadAt_ctl_sends hown hctl hplace ?_ ?_ htag))
    · rwa [mode_of_reads hr]
    · rwa [popped_cur, slotAt_popped]
  case narrowStore =>
    intro mk n hmk haddr
    have hform : n ≠ 8 ∧ exec (mk d a t sg o) s = store d a t sg o n s := by
      simp only [List.mem_cons, Prod.mk.injEq, List.not_mem_nil, or_false] at hmk
      rcases hmk with ⟨rfl, rfl⟩ | ⟨rfl, rfl⟩ | ⟨rfl, rfl⟩ <;> exact ⟨by decide, rfl⟩
    obtain ⟨hn, hexec⟩ := hform
    rw [hexec, store_at hr haddr]
    exact traps_of_trap (storeAt_ctl_narrow hown hctl (by rwa [wordLE_length]))
  case privateStore =>
    intro hp hm
    exact (store_at hr haddr).trans (traps_of_trap (storeAt_ctl_private hown hctl (wordLE_length 8 vd) hp ((mode_of_reads hr).trans hm)))
  case store =>
    intro blk m e hplace hok he
    refine (store_at hr haddr).trans (completes_of_done ((storeAt_ctl_posts hown hctl (wordLE_length 8 vd) hplace ?_ he).trans ?_))
    · rwa [mode_of_reads hr]
    · rw [leWord_wordLE]

end Sys2Proof.Claims
end

section
/-! Gangs (R303 to R307). -/

namespace Sys2Proof.Machine

open Sys2Proof.Claims

/-! A fold that changes one slot at each step. -/

section
variable {step : State → Nat → State} {F : Nat → Slot → Slot} (hself : ∀ s m, slotAt (step s m) m = F m (slotAt s m))
  (hother : ∀ s m j, j ≠ m → slotAt (step s m) j = slotAt s j)

include hother in
/-- A slot that is not in the list is as it was. -/
theorem slotAt_foldl_of_not_mem {ms : List Nat} {j : Nat} (h : j ∉ ms) (s : State) : slotAt (ms.foldl step s) j = slotAt s j := by
  induction ms generalizing s with
  | nil => rfl
  | cons m ms ih =>
    rw [List.foldl_cons, ih (fun hj => h (List.mem_cons_of_mem m hj)), hother s m j fun hj => h (hj ▸ List.mem_cons_self ..)]

include hself hother

/-- What a change makes true of a slot, and every further change keeps, is true of it after the fold. -/
theorem slotAt_foldl_of_mem {R : Slot → Slot → Prop} {ms : List Nat} {j : Nat} (h : j ∈ ms) (hfirst : ∀ x, R x (F j x))
    (hkeep : ∀ x z, R x z → R x (F j z)) (s : State) : R (slotAt s j) (slotAt (ms.foldl step s) j) := by
  have hafter (ms : List Nat) (t : State) (x : Slot) (hR : R x (slotAt t j)) : R x (slotAt (ms.foldl step t) j) := by
    refine List.foldlRecOn (motive := fun u => R x (slotAt u j)) ms step hR fun u hu m _ => ?_
    by_cases hm : j = m
    · subst hm
      rw [hself]
      exact hkeep x _ hu
    · rwa [hother u m j hm]
  induction ms generalizing s with
  | nil => cases h
  | cons m ms ih =>
    by_cases hm : j = m
    · subst hm
      exact hafter ms _ _ (hself s j ▸ hfirst (slotAt s j))
    · have := ih ((List.mem_cons.1 h).resolve_left hm) (step s m)
      rwa [hother s m j hm] at this

/-- The same for a slot in the list or not, when an unchanged slot has the property too. -/
theorem slotAt_foldl_of_all {R : Slot → Slot → Prop} {j : Nat} (hrefl : ∀ x, R x x) (hkeep : ∀ x z, R x z → R x (F j z)) (ms : List Nat)
    (s : State) : R (slotAt s j) (slotAt (ms.foldl step s) j) := by
  by_cases h : j ∈ ms
  · exact slotAt_foldl_of_mem hself hother h (fun x => hkeep x x (hrefl x)) hkeep s
  · rw [slotAt_foldl_of_not_mem hother h]
    exact hrefl _

end

/-- A step that changes slot `m` by `f` when `p` holds of it. -/
theorem slotAt_ite_modSlot (p : Prop) [Decidable p] (s : State) (m j : Nat) (f : Slot → Slot) :
    slotAt (if p then s else modSlot s m f) j = if j = m then (if p then slotAt s m else f (slotAt s m)) else slotAt s j := by
  split
  · split
    · subst j; rfl
    · rfl
  · exact slotAt_modSlot s m f j

/-- A step that changes slot `m` by `f`, or else by `f'`, when `p` does not hold of it. -/
theorem slotAt_ite_modSlot' (p q : Prop) [Decidable p] [Decidable q] (s : State) (m j : Nat) (f f' : Slot → Slot) :
    slotAt (if p then s else if q then modSlot s m f else modSlot s m f') j =
      if j = m then (if p then slotAt s m else if q then f (slotAt s m) else f' (slotAt s m)) else slotAt s j := by
  by_cases hq : q
  · simp only [hq, if_true, slotAt_ite_modSlot]
  · simp only [hq, if_false, slotAt_ite_modSlot]

/-! `gform` (R303). -/

/-- What a member has when its gang is formed. -/
def Joined (l n : Nat) (pc : Word) (x : Slot) : Prop := x.gang = some ⟨l, n, true, false, false⟩ ∧ x.pc = pc ∧ x.forming = none

theorem joined_joinGang (l n : Nat) (pc : Word) (x : Slot) : Joined l n pc (x.joinGang l n pc) := ⟨rfl, rfl, rfl⟩

/-- The state in which every other member of a gang has joined it. -/
def joinedBy (s : State) (k l n : Nat) (pc : Word) (ms : List Nat) : State :=
  ms.foldl (fun s m => if m = k then s else modSlot s m fun x => x.joinGang l n pc) s

section
variable (s : State) (k l n : Nat) (pc : Word) (ms : List Nat)

theorem slotAt_joinedBy_self : slotAt (joinedBy s k l n pc ms) k = slotAt s k := by
  refine List.foldlRecOn (motive := fun u => slotAt u k = slotAt s k) ms _ rfl fun u hu m _ => ?_
  rw [slotAt_ite_modSlot]
  split
  · next h => subst h; rwa [if_pos rfl]
  · exact hu

theorem joined_joinedBy {m : Nat} (hm : m ∈ ms) (hk : m ≠ k) : Joined l n pc (slotAt (joinedBy s k l n pc ms) m) := by
  refine slotAt_foldl_of_mem (step := fun s m => if m = k then s else modSlot s m fun x => x.joinGang l n pc)
    (F := fun m x => if m = k then x else x.joinGang l n pc) (R := fun _ z => Joined l n pc z)
    (fun s m => ?_) (fun s m j hj => ?_) hm (fun x => ?_) (fun x z _ => ?_) s
  · rw [slotAt_ite_modSlot, if_pos rfl]
  · rw [slotAt_ite_modSlot, if_neg hj]
  · rw [if_neg hk]
    exact joined_joinGang l n pc x
  · rw [if_neg hk]
    exact joined_joinGang l n pc z

end

section
variable {s : State} {a : GReg} {t : Bool} {va : Word} {y : Slot}

/-- The slot that has arrived at the gang of `n` members from logical core `l`. -/
def arrived (s : State) (y : Slot) (l n : Nat) : State := modSlot (popped s y) s.cur fun x => { x with forming := some (l, n) }

/-- `gform` outside a gang, with a descriptor that is well formed and that no member contradicts. -/
theorem exec_gform (h : Reads s [a] none [va] y) (hgang : (slotAt s s.cur).gang = none) (hok : gformOk s s.cur va = true) {l n : Nat}
    (hl : l = va.toNat % 32) (hn : n = va.toNat / 32 % 64)
    (hsame : ∀ m ∈ gangSlots s s.cur 0 33, ∀ q, (slotAt s m).forming = some (l, q) → q = n) :
    exec (.gform a t) s = endsAs s
      (if (gangSlots s s.cur l n).all fun m => decide ((slotAt (arrived s y l n) m).forming = some (l, n)) then
        .jump (modSlot (joinedBy (arrived s y l n) s.cur l n ((slotAt (arrived s y l n) (gangSlot s s.cur l)).pc + 4#64) (gangSlots s s.cur l n))
            s.cur fun x => { x.takeIf t a.toNat with forming := none, gang := some ⟨l, n, true, false, false⟩ })
          ((slotAt (arrived s y l n) (gangSlot s s.cur l)).pc + 4#64)
      else .park (arrived s y l n)) := by
  have hl' : bitF va 0 5 = l := (bitF_zero va 5).trans hl.symm
  have hn' : bitF va 5 6 = n := hn.symm
  have hframe := Slot.prep_frame h
  have hy : (slotAt (popped s y) (popped s y).cur).gang.isSome = false := by
    rw [popped_cur, slotAt_popped, hframe]
    simp [hgang]
  have hforming (m : Nat) : (slotAt (popped s y) m).forming = (slotAt s m).forming := by
    rw [popped, slotAt_setSlot]
    split
    · next hm => rw [hframe, hm]
    · rfl
  have hany : ((gangSlots s s.cur 0 33).any fun m => match (slotAt (popped s y) m).forming with
      | some f => decide (f.1 = l) && decide (f.2 ≠ n)
      | none => false) = false := by
    rw [List.any_eq_false]
    intro m hm
    rw [hforming]
    split
    · next f hf =>
      obtain ⟨l', q⟩ := f
      simp only [Bool.and_eq_true, decide_eq_true_eq, not_and, ne_eq, not_not]
      rintro rfl
      exact hsame m hm q hf
    · exact Bool.false_ne_true
  refine (next_withOps h _).trans (congrArg (endsAs s) ?_)
  simp only [val_zero, hl', hn', hy, Bool.false_eq_true, if_false]
  rw [if_neg (by rw [Bool.not_eq_true', show gformOk (popped s y) (popped s y).cur va = gformOk s s.cur va from rfl, hok]; decide)]
  rw [if_neg (by rw [Bool.not_eq_true]; exact hany)]
  rfl

theorem slotAt_arrived_self (l n : Nat) : slotAt (arrived s y l n) s.cur = { y with forming := some (l, n) } := by
  rw [arrived, slotAt_modSlot, if_pos rfl, slotAt_popped]

theorem slotAt_arrived_ne {l n m : Nat} (hm : m ≠ s.cur) : slotAt (arrived s y l n) m = slotAt s m := by
  rw [arrived, slotAt_modSlot, if_neg hm, popped, slotAt_setSlot, if_neg hm]

theorem pc_arrived (h : Reads s [a] none [va] y) (l n m : Nat) : (slotAt (arrived s y l n) m).pc = (slotAt s m).pc := by
  by_cases hm : m = s.cur
  · rw [hm, slotAt_arrived_self, ← pc_of_reads h]
  · rw [slotAt_arrived_ne hm]

/-- The last arrival forms the gang. -/
theorem gform_forms {pc : Word} {l n : Nat} {ms : List Nat} :
    ∃ u, endsAs s (.jump (modSlot (joinedBy (arrived s y l n) s.cur l n pc ms) s.cur fun x =>
        { x.takeIf t a.toNat with forming := none, gang := some ⟨l, n, true, false, false⟩ }) pc) = .next u ∧
      u.mark = .done ∧ ∀ m ∈ ms, Joined l n pc (slotAt u m) := by
  refine ⟨_, rfl, rfl, fun m hm => ?_⟩
  rw [keepStreams_jump, finish_jump, slotAt_marked, modSlot_modSlot, slotAt_modSlot]
  split
  · exact ⟨rfl, rfl, rfl⟩
  · next hk => exact joined_joinedBy _ _ l n pc ms hm hk

/-- An arrival before the last is recorded, and parks. -/
theorem gform_waits (h : Reads s [a] none [va] y) (hgang : (slotAt s s.cur).gang = none) (l n : Nat) :
    ∃ u, endsAs s (.park (arrived s y l n)) = .next u ∧ u.mark = .parked ∧ (slotAt u s.cur).forming = some (l, n) ∧
      (slotAt u s.cur).gang = none := by
  refine ⟨_, rfl, rfl, ?_⟩
  have hy : y.gang = none := by rw [Slot.prep_frame h]; exact hgang
  rw [keepStreams_park, finish_park, slotAt_marked, modSlot_modSlot, slotAt_modSlot, if_pos rfl, slotAt_arrived_self]
  exact ⟨rfl, hy⟩

end

/-! `gsplit`, `grejoin` and `gleave` (R305, R306). -/

section
variable {s : State} {g : Gang}

/-- The turn of slot `cur` ends with `r`, when it has read no operand. -/
def endsWith (s : State) (r : Res) : Out := .next (finish s s.cur r)

theorem inGang_none (h : (slotAt s s.cur).gang = none) (body : Gang → Res) : inGang s body = .trap 0x07 (slotAt s s.cur).pc := by
  simp [inGang, h]

theorem inGang_some (h : (slotAt s s.cur).gang = some g) (body : Gang → Res) : inGang s body = body g := by
  simp [inGang, h]

theorem exec_gangForms_none (h : (slotAt s s.cur).gang = none) : exec .gsplit s = traps s 0x07 (slotAt s s.cur).pc ∧
    exec .grejoin s = traps s 0x07 (slotAt s s.cur).pc ∧ exec .gleave s = traps s 0x07 (slotAt s s.cur).pc :=
  ⟨congrArg (endsWith s) (inGang_none h _), congrArg (endsWith s) (inGang_none h _),
    congrArg (endsWith s) (inGang_none h _)⟩

theorem exec_gsplit (h : (slotAt s s.cur).gang = some g) : exec .gsplit s = completes s (modSlot s (gangSlot s s.cur g.lead) fun x =>
    { x with gang := x.gang.map fun h => { h with spl := true } }) :=
  congrArg (endsWith s) (inGang_some h _)

/-- A slot is of the gang led from `l`. -/
def Slot.ofGang (x : Slot) (l : Nat) : Bool :=
  match x.gang with
  | some h => decide (h.lead = l)
  | none => false

theorem Slot.ofGang_some {x : Slot} {l : Nat} {h : Gang} (hx : x.gang = some h) (hl : h.lead = l) : x.ofGang l = true := by
  simp [Slot.ofGang, hx, hl]

theorem Slot.ofGang_none {x : Slot} {l : Nat} (hx : x.gang = none) : x.ofGang l = false := by
  simp [Slot.ofGang, hx]

/-- What a completed `grejoin` of the leader makes of a member's gang. -/
def Gang.rejoined (g : Gang) : Gang := { g with att := true, spl := false, rejoin := false }

/-- A member that waits in `grejoin` completes it, and the member is attached again. -/
def Slot.reattach (g : Gang) (pc : Word) (x : Slot) : Slot :=
  { if (x.gang.map Gang.att).getD true then x else x.finishAt pc with gang := some g.rejoined }

theorem reattach_detached {g q : Gang} {pc : Word} {x : Slot} (hx : x.gang = some q) (hq : q.att = false) :
    x.reattach g pc = { x.finishAt pc with gang := some g.rejoined } := by
  rw [Slot.reattach, if_neg (by simp [hx, hq])]

theorem reattach_attached {g q : Gang} {pc : Word} {x : Slot} (hx : x.gang = some q) (hq : q.att = true) :
    x.reattach g pc = { x with gang := some g.rejoined } := by
  rw [Slot.reattach, if_pos (by simp [hx, hq])]

/-- Reattaches slot `m` in the leader's `grejoin`, when `k` is the leader's slot and `pc` the address behind. -/
def rejoinStep (g : Gang) (k : Nat) (pc : Word) (s : State) (m : Nat) : State :=
  if !ofGang s g.lead m then s
  else if m = k then modSlot s m fun x => { x with gang := some g.rejoined }
  else modSlot s m (Slot.reattach g pc)

/-- The same at the slot. -/
def Slot.rejoin (g : Gang) (k : Nat) (pc : Word) (m : Nat) (x : Slot) : Slot :=
  if !x.ofGang g.lead then x else if m = k then { x with gang := some g.rejoined } else x.reattach g pc

theorem slotAt_rejoinStep (g : Gang) (k : Nat) (pc : Word) (s : State) (m j : Nat) :
    slotAt (rejoinStep g k pc s m) j = if j = m then (slotAt s m).rejoin g k pc m else slotAt s j := by
  rw [rejoinStep, slotAt_ite_modSlot', Slot.rejoin]
  rfl

theorem exec_grejoin_leader (h : (slotAt s s.cur).gang = some g) (hl : lcoreOf s (coreOf s.cur) = g.lead) :
    exec .grejoin s = if rejoinReady s s.cur g then
      completes s ((gangSlots s s.cur g.lead g.size).foldl (rejoinStep g s.cur ((slotAt s s.cur).pc + 4#64)) s) else parks s s := by
  refine (congrArg (endsWith s) (inGang_some h _)).trans ?_
  simp only [hl, if_true]
  split <;> rfl

/-- What the leader's `grejoin` makes of the member `m`, which was `x`. -/
def Rejoins (g : Gang) (k : Nat) (pc : Word) (m : Nat) (x z : Slot) : Prop :=
  ∀ h, x.gang = some h → h.lead = g.lead → z.gang = some g.rejoined ∧
    (m ≠ k → (h.att = false → z.pc = pc ∧ z.st ≠ .parked) ∧ (h.att = true → z.pc = x.pc))

theorem finishAt_gang (x : Slot) (pc : Word) : (x.finishAt pc).gang = x.gang := rfl

theorem finishAt_st_ne_parked (x : Slot) (pc : Word) : (x.finishAt pc).st ≠ .parked := by
  simp only [Slot.finishAt]
  split
  · decide
  · assumption

theorem rejoins_rejoin (g : Gang) (k : Nat) (pc : Word) (m : Nat) (x : Slot) : Rejoins g k pc m x (x.rejoin g k pc m) := by
  intro h hx hl
  rw [Slot.rejoin, Slot.ofGang_some hx hl, if_neg (by decide)]
  split
  · next hk => exact ⟨rfl, fun hne => absurd hk hne⟩
  · cases ha : h.att
    · rw [reattach_detached hx ha]
      exact ⟨rfl, fun _ => ⟨fun _ => ⟨rfl, finishAt_st_ne_parked x pc⟩, fun hf => absurd hf (by decide)⟩⟩
    · rw [reattach_attached hx ha]
      exact ⟨rfl, fun _ => ⟨fun hf => absurd hf (by decide), fun _ => rfl⟩⟩

/-- A slot that has rejoined stays as it is when it is named again. -/
theorem rejoin_of_rejoined {g : Gang} {k : Nat} {pc : Word} {m : Nat} {z : Slot} (hz : z.gang = some g.rejoined) :
    z.rejoin g k pc m = { z with gang := some g.rejoined } := by
  rw [Slot.rejoin, Slot.ofGang_some (l := g.lead) hz rfl, if_neg (by decide), reattach_attached hz rfl, ite_self]

theorem Rejoins.again {g : Gang} {k : Nat} {pc : Word} {m : Nat} {x z : Slot} (h : Rejoins g k pc m x z) :
    Rejoins g k pc m x (z.rejoin g k pc m) := by
  intro q hx hl
  obtain ⟨hgang, hrest⟩ := h q hx hl
  rw [rejoin_of_rejoined hgang]
  exact ⟨rfl, hrest⟩

/-- `grejoin` at the leader, when every detached member waits in it. -/
theorem grejoin_reattaches (h : (slotAt s s.cur).gang = some g) (hl : lcoreOf s (coreOf s.cur) = g.lead) (hready : rejoinReady s s.cur g = true) :
    ∃ u, exec .grejoin s = .next u ∧ u.mark = .done ∧ (slotAt u s.cur).pc = (slotAt s s.cur).pc + 4#64 ∧
      ∀ m ∈ gangSlots s s.cur g.lead g.size, Rejoins g s.cur ((slotAt s s.cur).pc + 4#64) m (slotAt s m) (slotAt u m) := by
  rw [exec_grejoin_leader h hl, if_pos hready]
  have hself (pc : Word) (t : State) (m : Nat) : slotAt (rejoinStep g s.cur pc t m) m = Slot.rejoin g s.cur pc m (slotAt t m) := by
    rw [slotAt_rejoinStep, if_pos rfl]
  have hother (pc : Word) (t : State) (m j : Nat) (hj : j ≠ m) : slotAt (rejoinStep g s.cur pc t m) j = slotAt t j := by
    rw [slotAt_rejoinStep, if_neg hj]
  have hpc := slotAt_foldl_of_all (hself ((slotAt s s.cur).pc + 4#64)) (hother _) (R := fun x z => z.pc = x.pc) (j := s.cur) (fun _ => rfl)
    (fun x z hz => by rw [← hz, Slot.rejoin]; split <;> simp) (gangSlots s s.cur g.lead g.size) s
  refine ⟨_, rfl, rfl, ?_, fun m hm => ?_⟩
  · rw [finish_done, slotAt_marked, slotAt_modSlot, if_pos rfl]
    exact congrArg (· + 4#64) hpc
  · have hrejoins := slotAt_foldl_of_mem (hself ((slotAt s s.cur).pc + 4#64)) (hother _) hm
      (R := Rejoins g s.cur ((slotAt s s.cur).pc + 4#64) m) (rejoins_rejoin g s.cur _ m) (fun _ _ => Rejoins.again) s
    rw [finish_done, slotAt_marked, slotAt_modSlot]
    split
    · next hk =>
      subst hk
      intro q hx hq
      exact ⟨(finishAt_gang _ _).trans (hrejoins q hx hq).1, fun hne => absurd rfl hne⟩
    · exact hrejoins

theorem exec_grejoin_attached (h : (slotAt s s.cur).gang = some g) (hl : lcoreOf s (coreOf s.cur) ≠ g.lead) (ha : g.att = true)
    (hready : rejoinReady s s.cur g = true) : exec .grejoin s = completes s s := by
  refine (congrArg (endsWith s) (inGang_some h _)).trans ?_
  simp only [hl, if_false, ha, if_true, hready]
  rfl

theorem exec_grejoin_detached (h : (slotAt s s.cur).gang = some g) (hl : lcoreOf s (coreOf s.cur) ≠ g.lead) (ha : g.att = false) :
    exec .grejoin s = parks s (modSlot s s.cur fun x => { x with gang := some { g with rejoin := true } }) := by
  refine (congrArg (endsWith s) (inGang_some h _)).trans ?_
  simp only [hl, if_false, ha, Bool.false_eq_true]
  rfl

/-! `gleave` (R306). -/

/-- A slot without its gang. -/
def Slot.leaves (x : Slot) : Slot := { x with gang := none, solo := false }

theorem exec_gleave_follower (h : (slotAt s s.cur).gang = some g) (hl : lcoreOf s (coreOf s.cur) ≠ g.lead) :
    exec .gleave s = completes s (modSlot s s.cur Slot.leaves) := by
  refine (congrArg (endsWith s) (inGang_some h _)).trans ?_
  simp only [hl, if_false]
  rfl

/-- What the leader's `gleave` makes of a member that is not the leader, when the leader runs alone or not. -/
def Slot.leaveAs (solo : Bool) (x : Slot) : Slot :=
  match x.gang with
  | some h =>
    if h.att then (if solo then { x with gang := none, st := if x.st = .parked then .ready else x.st } else x)
    else if h.rejoin then { x.finishAt (x.pc + 4#64) with gang := none }
    else { x with gang := none }
  | none => x

/-- Takes slot `m` out of the gang in its leader's `gleave`. -/
def leaveStep (l k : Nat) (solo : Bool) (s : State) (m : Nat) : State :=
  if m = k ∨ !ofGang s l m then s else modSlot s m (Slot.leaveAs solo)

/-- The same at the slot. -/
def Slot.leave (l k : Nat) (solo : Bool) (m : Nat) (x : Slot) : Slot := if m = k ∨ x.ofGang l = false then x else x.leaveAs solo

theorem slotAt_leaveStep (l k : Nat) (solo : Bool) (s : State) (m j : Nat) :
    slotAt (leaveStep l k solo s m) j = if j = m then (slotAt s m).leave l k solo m else slotAt s j := by
  have hof : ofGang s l m = (slotAt s m).ofGang l := rfl
  rw [leaveStep, slotAt_ite_modSlot, Slot.leave, hof]
  simp only [Bool.not_eq_true']

theorem exec_gleave_leader (h : (slotAt s s.cur).gang = some g) (hl : lcoreOf s (coreOf s.cur) = g.lead) :
    exec .gleave s = completes s
      (modSlot ((gangSlots s s.cur g.lead g.size).foldl (leaveStep g.lead s.cur (slotAt s s.cur).solo) s) s.cur Slot.leaves) := by
  refine (congrArg (endsWith s) (inGang_some h _)).trans ?_
  simp only [hl, if_true]
  rfl

/-- What the leader's `gleave` makes of another member, which was `x`. -/
def Leaves (l : Nat) (solo : Bool) (x z : Slot) : Prop :=
  ∀ h, x.gang = some h → h.lead = l → (h.att = true → solo = false → z = x) ∧ (h.att = false ∨ solo = true → z.gang = none) ∧
    (h.att = false → h.rejoin = true → z.pc = x.pc + 4#64 ∧ z.st ≠ .parked)

theorem leaveAs_attached {solo : Bool} {x : Slot} {q : Gang} (hx : x.gang = some q) (hq : q.att = true) :
    x.leaveAs solo = if solo then { x with gang := none, st := if x.st = .parked then .ready else x.st } else x := by
  simp only [Slot.leaveAs, hx, hq, if_true]

theorem leaveAs_detached {solo : Bool} {x : Slot} {q : Gang} (hx : x.gang = some q) (hq : q.att = false) :
    x.leaveAs solo = if q.rejoin then { x.finishAt (x.pc + 4#64) with gang := none } else { x with gang := none } := by
  simp only [Slot.leaveAs, hx, hq, Bool.false_eq_true, if_false]

theorem leaves_leaveAs (l : Nat) (solo : Bool) (x : Slot) : Leaves l solo x (x.leaveAs solo) := by
  intro h hx hl
  cases ha : h.att
  · refine ⟨fun hf => absurd hf (by decide), fun _ => ?_, fun _ hr => ?_⟩
    · rw [leaveAs_detached hx ha]
      split <;> rfl
    · rw [leaveAs_detached hx ha, if_pos hr]
      exact ⟨rfl, finishAt_st_ne_parked x (x.pc + 4#64)⟩
  · refine ⟨fun _ hs => ?_, fun hs => ?_, fun hf => absurd hf (by decide)⟩
    · rw [leaveAs_attached hx ha, if_neg (by simp [hs])]
    · rw [leaveAs_attached hx ha, if_pos (hs.resolve_left (by decide))]

theorem leave_of_not_ofGang {l k : Nat} {solo : Bool} {m : Nat} {z : Slot} (h : z.gang = none) : z.leave l k solo m = z :=
  if_pos (.inr (Slot.ofGang_none h))

theorem Leaves.again {l k : Nat} {solo : Bool} {m : Nat} {x z : Slot} (hm : m ≠ k) (h : Leaves l solo x z) :
    Leaves l solo x (z.leave l k solo m) := by
  intro q hx hl
  obtain ⟨hsame, hnone, hrest⟩ := h q hx hl
  by_cases hout : q.att = false ∨ solo = true
  · rw [leave_of_not_ofGang (hnone hout)]
    exact ⟨hsame, hnone, hrest⟩
  · obtain ⟨hatt, hsolo⟩ := not_or.1 hout
    rw [hsame (by simpa using hatt) (by simpa using hsolo), Slot.leave, Slot.ofGang_some hx hl, if_neg (by simp [hm])]
    exact leaves_leaveAs l solo x q hx hl

theorem slotAt_leaveStep_self (l k : Nat) (solo : Bool) (s : State) (m : Nat) :
    slotAt (leaveStep l k solo s m) m = Slot.leave l k solo m (slotAt s m) := by
  rw [slotAt_leaveStep, if_pos rfl]

theorem slotAt_leaveStep_ne (l k : Nat) (solo : Bool) (s : State) (m j : Nat) (h : j ≠ m) :
    slotAt (leaveStep l k solo s m) j = slotAt s j := by
  rw [slotAt_leaveStep, if_neg h]

/-- `gleave` at the leader. -/
theorem gleave_dissolves (h : (slotAt s s.cur).gang = some g) (hl : lcoreOf s (coreOf s.cur) = g.lead) :
    ∃ u, exec .gleave s = .next u ∧ u.mark = .done ∧ (slotAt u s.cur).gang = none ∧ (slotAt u s.cur).pc = (slotAt s s.cur).pc + 4#64 ∧
      ∀ m ∈ gangSlots s s.cur g.lead g.size, m ≠ s.cur → Leaves g.lead (slotAt s s.cur).solo (slotAt s m) (slotAt u m) := by
  rw [exec_gleave_leader h hl]
  have hcur := slotAt_foldl_of_all (slotAt_leaveStep_self g.lead s.cur (slotAt s s.cur).solo) (slotAt_leaveStep_ne g.lead s.cur _)
    (R := fun x z => z = x) (j := s.cur) (fun _ => rfl) (fun x z hz => by rw [Slot.leave, if_pos (.inl rfl), hz])
    (gangSlots s s.cur g.lead g.size) s
  refine ⟨_, rfl, rfl, ?_, ?_, fun m hm hk => ?_⟩
  · rw [finish_done, slotAt_marked, slotAt_modSlot, if_pos rfl, slotAt_modSlot, if_pos rfl]
    rfl
  · rw [finish_done, slotAt_marked, slotAt_modSlot, if_pos rfl, slotAt_modSlot, if_pos rfl, hcur]
    rfl
  · rw [finish_done, slotAt_marked, slotAt_modSlot, if_neg hk, slotAt_modSlot, if_neg hk]
    exact slotAt_foldl_of_mem (slotAt_leaveStep_self g.lead s.cur (slotAt s s.cur).solo) (slotAt_leaveStep_ne g.lead s.cur _) hm
      (R := Leaves g.lead (slotAt s s.cur).solo) (fun x => by
        have hleaves := leaves_leaveAs g.lead (slotAt s s.cur).solo x
        rw [Slot.leave]
        split
        · next hno =>
          intro q hx hq
          rw [Slot.ofGang_some hx hq] at hno
          exact absurd (hno.resolve_left hk) (by decide)
        · exact hleaves) (fun _ _ => Leaves.again hk) s

end

/-! A `gleave` in lockstep (R304, R306). -/

/-- Every slot is of the gang that it was of, or of none. -/
def GangsFade (s u : State) : Prop := ∀ j, (slotAt u j).gang = (slotAt s j).gang ∨ (slotAt u j).gang = none

theorem GangsFade.trans {s t u : State} (h : GangsFade s t) (h' : GangsFade t u) : GangsFade s u := fun j =>
  (h' j).elim (fun e => (h j).imp (e.trans ·) (e.trans ·)) .inr

theorem GangsFade.none_of_none {s u : State} {j : Nat} (h : GangsFade s u) (hj : (slotAt s j).gang = none) : (slotAt u j).gang = none :=
  (h j).elim (fun e => e.trans hj) id

theorem gang_leaveAs (solo : Bool) (x : Slot) : (x.leaveAs solo).gang = x.gang ∨ (x.leaveAs solo).gang = none := by
  cases hx : x.gang with
  | none => simp [Slot.leaveAs, hx]
  | some q =>
    cases hq : q.att
    · rw [leaveAs_detached hx hq]
      split <;> exact .inr rfl
    · rw [leaveAs_attached hx hq]
      split
      · exact .inr rfl
      · exact .inl hx

theorem gangsFade_foldl_leaveStep (l k : Nat) (solo : Bool) (ms : List Nat) (s : State) : GangsFade s (ms.foldl (leaveStep l k solo) s) := fun j =>
  slotAt_foldl_of_all (slotAt_leaveStep_self l k solo) (slotAt_leaveStep_ne l k solo) (R := fun x z => z.gang = x.gang ∨ z.gang = none)
    (fun _ => .inl rfl) (fun x z hz => by
      rw [Slot.leave]
      split
      · exact hz
      · exact (gang_leaveAs solo z).elim (fun e => hz.imp (e.trans ·) (e.trans ·)) .inr) ms s

/-- A turn that takes its slot out of its gang. -/
theorem gangsFade_leaves {s t : State} (k : Nat) (h : GangsFade s t) :
    (slotAt (finish s k (.done (modSlot t k Slot.leaves))) k).gang = none ∧ GangsFade s (finish s k (.done (modSlot t k Slot.leaves))) := by
  have hk : (slotAt (finish s k (.done (modSlot t k Slot.leaves))) k).gang = none := by
    rw [finish_done, slotAt_marked, slotAt_modSlot, if_pos rfl, slotAt_modSlot, if_pos rfl]
    rfl
  refine ⟨hk, fun j => ?_⟩
  by_cases hj : j = k
  · subst hj
    exact .inr hk
  · rw [finish_done, slotAt_marked, slotAt_modSlot, if_neg hj, slotAt_modSlot, if_neg hj]
    exact h j

/-- A trap changes its own slot alone. -/
theorem slotAt_trapNow_ne {s : State} {k j : Nat} (hj : j ≠ k) (c : Nat) (v : Word) : slotAt (trapNow s k c v) j = slotAt s j := by
  rw [trapNow, slotAt_marked, trapEntry]
  split
  · rw [doubleTrap, slotAt_raiseEvent, slotAt_setSlot, if_neg hj, slotAt_modSlot, if_neg hj]
  · rw [slotAt_setSlot, if_neg hj, slotAt_modSlot, if_neg hj]

/-- A trap of a slot that is in no gang takes it into none. -/
theorem gang_trapNow {s : State} {k : Nat} (h : (slotAt s k).gang = none) (c : Nat) (v : Word) : (slotAt (trapNow s k c v) k).gang = none := by
  have hdrop (x : Slot) (hx : x.gang = none) : x.dropIssue.gang = none := by simp [Slot.dropIssue, hx]
  have henter (x : Slot) (p : Word) (leads : Bool) (hx : x.gang = none) : ((x.enterTrap c v p false).gangTrap leads).gang = none := by
    have hy : (x.enterTrap c v p false).gang = none := by rw [Slot.enterTrap_eq]; exact hdrop x hx
    rw [Slot.gangTrap, hy]
    exact hy
  have hk : (slotAt (modSlot s k fun y => y.setCreg 0x005 (y.creg 0x005 + 1#64)) k).gang = none := by
    rw [slotAt_modSlot_self]
    exact h
  rw [trapNow, slotAt_marked, trapEntry]
  split
  · rw [doubleTrap, slotAt_raiseEvent, slotAt_setSlot, if_pos rfl]
    exact hdrop _ hk
  · rw [slotAt_setSlot, if_pos rfl]
    exact henter _ _ _ hk

theorem gangsFade_trapNow {s : State} {k : Nat} (h : (slotAt s k).gang = none) (c : Nat) (v : Word) : GangsFade s (trapNow s k c v) := by
  intro j
  by_cases hj : j = k
  · subst hj
    exact .inr (gang_trapNow h c v)
  · rw [slotAt_trapNow_ne hj]
    exact .inl rfl

/-- One member's `gleave`: it leaves its gang, and no slot comes into one. -/
theorem exec_gleave_fades (s : State) : ∃ u, exec .gleave s = .next u ∧ (u.mark = .done ∨ u.mark = .trapped) ∧ (slotAt u s.cur).gang = none ∧
    GangsFade s u := by
  cases hg : (slotAt s s.cur).gang with
  | none =>
    rw [(exec_gangForms_none hg).2.2]
    exact ⟨_, rfl, .inr rfl, gang_trapNow hg _ _, gangsFade_trapNow hg _ _⟩
  | some g =>
    by_cases hl : lcoreOf s (coreOf s.cur) = g.lead
    · rw [exec_gleave_leader hg hl]
      exact ⟨_, rfl, .inl rfl, gangsFade_leaves s.cur (gangsFade_foldl_leaveStep _ _ _ _ _)⟩
    · rw [exec_gleave_follower hg hl]
      exact ⟨_, rfl, .inl rfl, gangsFade_leaves s.cur fun _ => .inl rfl⟩

/-- The word of `gleave` evaluates it at every slot. -/
theorem runOne_gleave {w : BitVec 32} (hw : decodeWord w = .ok .gleave) (s : State) (k : Nat) :
    runOne exec s k w = exec .gleave { s with cur := k } := by
  have hword : w = 0x5A000003#32 := (Option.some.inj (encode_of_decodeWord hw)).symm
  have hpriv : privWord w = false := hword ▸ by decide
  have hxform : xformWord w = false := hword ▸ by decide
  have hpin : pinWord w = false := hword ▸ by decide
  have hacc : accessWord w = false := hword ▸ by decide
  exact runOne_of_gate_ok (gate_ok hw (fun h => absurd (hpriv.symm.trans h) (by decide)) (fun h => absurd (hxform.symm.trans h) (by decide))
    fun h => absurd (hpin.symm.trans h) (by decide)) fun h => absurd (hacc.symm.trans h) (by decide)

theorem runOne_gleave_fades {w : BitVec 32} (hw : decodeWord w = .ok .gleave) (s : State) (k : Nat) :
    ∃ u, runOne exec s k w = .next u ∧ (u.mark = .done ∨ u.mark = .trapped) ∧ (slotAt u k).gang = none ∧ GangsFade s u := by
  rw [runOne_gleave hw]
  exact exec_gleave_fades { s with cur := k }

/-- No slot that is ready would park at a `gleave`. -/
theorem parksAlone_gleave {w : BitVec 32} (hw : decodeWord w = .ok .gleave) {s : State} {k : Nat} (hst : (slotAt s k).st = .ready) :
    parksAlone exec s w k = false := by
  obtain ⟨u, hu, hmark, -⟩ := runOne_gleave_fades hw s k
  rcases hmark with hm | hm <;> simp [parksAlone, hst, hu, hm]

/-- The members run the `gleave` in turn, and each leaves its gang. -/
theorem runAll_gleave {w : BitVec 32} (hw : decodeWord w = .ok .gleave) (ks : List Nat) (s : State) (ms : List Mark) :
    ∃ u ns, runAll exec w ks s ms = .next (u, ms.reverse ++ ns) ∧ (∀ m ∈ ns, m ≠ .parked) ∧ GangsFade s u ∧
      ∀ k ∈ ks, (slotAt u k).gang = none := by
  induction ks generalizing s ms with
  | nil => exact ⟨s, [], by rw [runAll, List.append_nil], by simp, fun _ => .inl rfl, by simp⟩
  | cons k ks ih =>
    obtain ⟨t, ht, hmark, hnone, hfade⟩ := runOne_gleave_fades hw s k
    obtain ⟨u, ns, hrun, hns, hfade', hnone'⟩ := ih t (t.mark :: ms)
    refine ⟨u, t.mark :: ns, ?_, ?_, hfade.trans hfade', ?_⟩
    · rw [runAll, ht]
      refine hrun.trans ?_
      rw [List.reverse_cons, List.append_assoc]
      rfl
    · refine List.forall_mem_cons.2 ⟨?_, hns⟩
      rcases hmark with hm | hm <;> simp [hm]
    · exact List.forall_mem_cons.2 ⟨hfade'.none_of_none hnone, hnone'⟩

/-- A follower is left as it is when the leader has left the gang. -/
theorem settleFollower_gleave {w : BitVec 32} (hw : decodeWord w = .ok .gleave) {s0 s : State} {lead : Nat} (h : (slotAt s lead).gang = none)
    (lm : Mark) (k : Nat) (m : Mark) : settleFollower s0 lead w lm s k m = s := by
  have hword : w = 0x5A000003#32 := (Option.some.inj (encode_of_decodeWord hw)).symm
  have hbranch : branchWord w = false := hword ▸ by decide
  simp [settleFollower, hbranch, h]

section
variable (s : State) (lead : Nat) (fs : List Nat)

/-- The turn of a gang changes its members' PC and last turn alone. -/
theorem slotAt_gangTurn {α : Type} (f : Slot → α) (hf : ∀ (x : Slot) p n, f { x with pc := p, lastTurn := n } = f x) (j : Nat) :
    f (slotAt (gangTurn s lead fs) j) = f (slotAt s j) := by
  refine List.foldlRecOn (motive := fun u => f (slotAt u j) = f (slotAt s j)) fs _ rfl fun u hu k _ => ?_
  rw [slotAt_modSlot]
  split
  · next h => exact (hf _ _ _).trans (h ▸ hu)
  · exact hu

theorem clusters_gangTurn : (gangTurn s lead fs).clusters = s.clusters :=
  List.foldlRecOn (motive := fun u : State => u.clusters = s.clusters) fs _ rfl fun _ hu _ _ => hu

theorem lcoreOf_gangTurn (core : Nat) : lcoreOf (gangTurn s lead fs) core = lcoreOf s core := by
  simp only [lcoreOf, clusterAt, clusters_gangTurn]

theorem gangSlots_gangTurn (k l n : Nat) : gangSlots (gangTurn s lead fs) k l n = gangSlots s k l n := by
  have hslot (i : Nat) : gangSlot (gangTurn s lead fs) k i = gangSlot s k i := by
    simp only [gangSlot, lcoreKey, clusterAt, clusters_gangTurn]
  simp only [gangSlots, funext hslot]

end

section
variable {s : State} {g : Gang} (hgang : (slotAt s s.cur).gang = some g) (hlead : lcoreOf s (coreOf s.cur) = g.lead)
  (hsolo : (slotAt s s.cur).solo = false)
include hgang hlead hsolo

/-- An attached member that is not its leader is a follower. -/
theorem mem_followers {l : Nat} {h : Gang} (hl : g.lead < l) (hn : l < g.lead + g.size) (hm : (slotAt s (gangSlot s s.cur l)).gang = some h)
    (hof : h.lead = g.lead) (hatt : h.att = true) : gangSlot s s.cur l ∈ followers s s.cur := by
  rw [followers, hgang]
  simp only [hsolo, hlead, Bool.false_eq_true, ne_eq, not_true_eq_false, or_self, if_false, List.mem_filter, List.mem_map]
  refine ⟨⟨l, mem_rangeFrom.2 (by omega), rfl⟩, ?_⟩
  change (match (slotAt s (gangSlot s s.cur l)).gang with
    | some h => h.att && decide (h.lead = g.lead)
    | none => false) = true
  simp [hm, hof, hatt]

/-- A `gleave` of the whole gang leaves no member in it. -/
theorem runGang_gleave {w : BitVec 32} (hw : decodeWord w = .ok .gleave) (hslot : gangSlot s s.cur g.lead = s.cur)
    (hst : ∀ k ∈ s.cur :: followers s s.cur, (slotAt s k).st = .ready) :
    ∃ u, runGang exec s s.cur (followers s s.cur) w = .next u ∧
      ∀ m ∈ gangSlots s s.cur g.lead g.size, ofGang s g.lead m = true → (slotAt u m).gang = none := by
  generalize hfs : followers s s.cur = fs at hst
  generalize hr : gangTurn s s.cur fs = r
  have hgangs (j : Nat) : (slotAt r j).gang = (slotAt s j).gang := hr ▸ slotAt_gangTurn s s.cur fs Slot.gang (fun _ _ _ => rfl) j
  have hparks : (s.cur :: fs).any (parksAlone exec r w) = false := by
    rw [List.any_eq_false]
    intro k hk
    have hready : (slotAt r k).st = .ready := hst k hk ▸ hr ▸ slotAt_gangTurn s s.cur fs Slot.st (fun _ _ _ => rfl) k
    rw [parksAlone_gleave hw hready]
    exact Bool.false_ne_true
  obtain ⟨t, ht, hmark, hnone, -, hmembers⟩ := gleave_dissolves (s := { r with cur := s.cur }) (g := g) ((hgangs s.cur).trans hgang)
    ((hr ▸ lcoreOf_gangTurn s s.cur fs (coreOf s.cur)).trans hlead)
  have hrun : runOne exec r s.cur w = .next t := (runOne_gleave hw r s.cur).trans ht
  obtain ⟨u, ns, hall, hns, hfade, hout⟩ := runAll_gleave hw fs t [t.mark]
  have hu : runGang exec s s.cur fs w = .next u := by
    have hmarks : (Mark.done :: ns).any (fun m => decide (m = .parked)) = false := by
      rw [List.any_eq_false]
      refine List.forall_mem_cons.2 ⟨by decide, fun m hm => ?_⟩
      simpa using hns m hm
    have hkeep : (fs.zip ns).foldl (fun t p => settleFollower r s.cur w .done t p.1 p.2) u = u := by
      refine List.foldlRecOn (motive := fun v => v = u) _ _ rfl fun v hv p _ => ?_
      rw [hv, settleFollower_gleave hw (hfade.none_of_none hnone)]
    have hruns : runAll exec w (s.cur :: fs) r [] = .next (u, .done :: ns) := by
      rw [runAll, hrun]
      exact hall.trans (by rw [hmark]; rfl)
    simp only [runGang, hr, hparks, Bool.false_eq_true, if_false, hruns, hmarks, List.headD_cons, List.tail_cons, hkeep]
    rfl
  refine ⟨u, hu, fun m hm hof => ?_⟩
  by_cases hcur : m = s.cur
  · subst hcur
    exact hfade.none_of_none hnone
  cases hg : (slotAt s m).gang with
  | none => simp [ofGang, hg] at hof
  | some h =>
    have hlead' : h.lead = g.lead := by simpa [ofGang, hg] using hof
    cases hatt : h.att
    · have hleaves := hmembers m ((hr ▸ gangSlots_gangTurn s s.cur fs s.cur g.lead g.size).symm ▸ hm) hcur
      exact hfade.none_of_none ((hleaves h ((hgangs m).trans hg) hlead').2.1 (.inl hatt))
    · obtain ⟨l, hl, rfl⟩ := List.mem_map.1 hm
      have hrange := mem_rangeFrom.1 hl
      have hne : l ≠ g.lead := fun e => hcur (e ▸ hslot)
      exact hout _ (hfs ▸ mem_followers hgang hlead hsolo (by omega) hrange.2 hg hlead' hatt)

end

/-- Settles O31. -/
theorem gangs_hold : Obligations.Gangs := by
  refine ⟨?_, fun s h => exec_gangForms_none h, fun s g h => exec_gsplit h, ?_, ?_, ?_⟩
  · intro a t s va y l n h hgang hok hl hn hsame
    rw [exec_gform h hgang hok hl hn hsame]
    refine ⟨fun hall => ?_, fun m hm hk hne => ?_⟩
    · rw [if_pos]
      · rw [pc_arrived h]
        exact gform_forms
      · rw [List.all_eq_true]
        intro m hm
        by_cases hk : m = s.cur
        · rw [hk, slotAt_arrived_self]
          simp
        · rw [slotAt_arrived_ne hk]
          simp [hall m hm hk]
    · rw [if_neg]
      · exact gform_waits h hgang l n
      · intro hall
        have := List.all_eq_true.1 hall m hm
        rw [slotAt_arrived_ne hk] at this
        exact hne (by simpa using this)
  · intro s g h hl
    refine ⟨fun hready => ?_, fun hwait => ?_, ?_⟩
    · obtain ⟨u, hu, hmark, hpc, hmembers⟩ := grejoin_reattaches h hl hready
      refine ⟨u, hu, hmark, hpc, fun m hm hof => ?_⟩
      cases hg : (slotAt s m).gang with
      | none => simp [ofGang, hg] at hof
      | some q =>
        have hq : q.lead = g.lead := by simpa [ofGang, hg] using hof
        obtain ⟨hgang, hrest⟩ := hmembers m hm q hg hq
        refine ⟨hgang, fun hk q' hq' => ?_⟩
        obtain rfl := Option.some.inj hq'
        exact hrest hk
    · rw [exec_grejoin_leader h hl, if_neg (by simp [hwait])]
    · exact gleave_dissolves h hl
  · rintro s w g _ hw h hl hslot hsolo rfl hst
    exact runGang_gleave h hl hsolo hw hslot hst
  · exact fun s g h hl => ⟨fun ha hready => exec_grejoin_attached h hl ha hready, fun ha => exec_grejoin_detached h hl ha,
      exec_gleave_follower h hl⟩

end Sys2Proof.Machine
end

section
/-! The gang switch (R340 to R344). -/

namespace Sys2Proof.Machine

open Sys2Proof.Claims

/-! Masks of slots. -/

theorem rangeFrom_eq_range' (a n : Nat) : rangeFrom a n = List.range' a n := by
  induction n generalizing a with
  | zero => rfl
  | succ n ih => rw [rangeFrom, ih, List.range'_succ]

/-- The mask of the numbers below `m` of which `p` holds. -/
def maskOf (p : Nat → Bool) (m : Nat) : Nat := ((rangeFrom 0 m).map fun n => if p n then 2 ^ n else 0).sum

theorem maskOf_succ (p : Nat → Bool) (m : Nat) : maskOf p (m + 1) = 2 ^ m * (p m).toNat + maskOf p m := by
  rw [maskOf, maskOf, rangeFrom_eq_range', rangeFrom_eq_range', List.range'_concat, List.map_append, List.sum_append, Nat.add_comm]
  cases h : p m <;> simp [h]

theorem maskOf_lt (p : Nat → Bool) (m : Nat) : maskOf p m < 2 ^ m := by
  induction m with
  | zero => exact Nat.one_pos
  | succ m ih =>
    have hp : 2 ^ m * (p m).toNat ≤ 2 ^ m := mul_le_of_le_one_right (Nat.zero_le _) (Bool.toNat_le (p m))
    rw [maskOf_succ, Nat.pow_succ]
    omega

theorem testBit_maskOf (p : Nat → Bool) {m n : Nat} (h : n < m) : (maskOf p m).testBit n = p n := by
  induction m with
  | zero => exact absurd h (Nat.not_lt_zero n)
  | succ m ih =>
    rw [maskOf_succ, Nat.testBit_two_pow_mul_add _ (maskOf_lt p m)]
    split
    · next hlt => exact ih hlt
    · next hlt =>
      have hn : n = m := by omega
      subst hn
      cases p n <;> simp

theorem maskOf_eq_zero {p : Nat → Bool} {m : Nat} (h : ∀ n, n < m → p n = false) : maskOf p m = 0 := by
  induction m with
  | zero => rfl
  | succ m ih => rw [maskOf_succ, ih fun n hn => h n (Nat.lt_succ_of_lt hn), h m (Nat.lt_succ_self m)]; rfl

theorem mem_maskSlots {core mask k : Nat} : k ∈ maskSlots core mask ↔ ∃ n, n < 16 ∧ mask.testBit n = true ∧ slotOf core n = k := by
  simp [maskSlots, mem_rangeFrom, and_assoc]

theorem maskSlots_zero (core : Nat) : maskSlots core 0 = [] := by simp [maskSlots]

/-! The stop (R340, R341). -/

section
variable (s : State) (core k : Nat)

/-- Withdrawing a slot's requests changes nothing of a slot but its pending registers and its request records. -/
theorem slotAt_withdrawAll {α : Type} (f : Slot → α) (hf : ∀ (x : Slot) r q, f { x.unpend r with recs := q } = f x) (j : Nat) :
    f (slotAt (withdrawAll s core k) j) = f (slotAt s j) := by
  refine List.foldlRecOn (motive := fun u => f (slotAt u j) = f (slotAt s j)) _ _ rfl fun u hu e _ => ?_
  split
  · rw [withdrawReq]
    split
    · exact hu
    · rw [slotAt_modSlot]
      split
      · next h => exact (hf _ _ _).trans (h ▸ hu)
      · exact hu
  · exact hu

/-- It changes nothing of a core but its request table and what its NI holds. -/
theorem coreAt_withdrawAll {α : Type} (f : Core → α) (hf : ∀ (c : Core) q n, f { c with reqs := q, ni := n } = f c) (c : Nat) :
    f (coreAt (withdrawAll s core k) c) = f (coreAt s c) := by
  have hmod (u : State) (g : Core → Core) (hg : ∀ c, f (g c) = f c) : f (coreAt (modCore u core g) c) = f (coreAt u c) := by
    by_cases h : c = core
    · subst h
      rw [coreAt_modCore_self, hg]
    · rw [coreAt_modCore_ne _ _ h]
  refine List.foldlRecOn (motive := fun u => f (coreAt u c) = f (coreAt s c)) _ _ rfl fun u hu e _ => ?_
  split
  · rw [withdrawReq]
    split
    · exact hu
    · exact (hmod u _ fun c => hf c _ c.ni).trans hu
  · exact (hmod _ _ fun c => hf c c.reqs _).trans ((hmod _ _ fun c => hf c _ c.ni).trans hu)

end

/-- One slot of the set stops. -/
def stopSlot (core : Nat) (s : State) (k : Nat) : State := withdrawAll (modSlot s k fun x => { x with st := .stopped, sws := true }) core k

/-- The core diverts, and the slots of the set are to be stopped. -/
def diverts (s : State) (core mask : Nat) : State := modCore s core fun c => { c with gst := 2, gset := mask, divert := true }

theorem exec_gangSwitchBegin {core : Nat} {s : State} (hst : (coreAt s core).gst = 1) (hlap : clusterCycle s (clusterOf core) % 16 = 0)
    (htime : ((coreAt s core).creg 0x1C8).toNat ≤ tickOf s) (hturns : s.turnsTo ≤ s.time) : exec (.gangSwitchBegin core) s =
      .next ((maskSlots core (maskOf (inSwitch s core) 16)).foldl (stopSlot core) (diverts s core (maskOf (inSwitch s core) 16))) := by
  have hdue : switchDue s core = true := by simp [switchDue, hst, hlap, htime, hturns]
  change execGangSwitchBegin core s = _
  rw [execGangSwitchBegin, if_neg (by simp [hdue])]
  rfl

theorem stopped_stopSlots {core k : Nat} {ks : List Nat} (h : k ∈ ks) (s : State) :
    (slotAt (ks.foldl (stopSlot core) s) k).sws = true ∧ (slotAt (ks.foldl (stopSlot core) s) k).st = .stopped := by
  have hstop (u : State) (j : Nat) : (slotAt (stopSlot core u j) k).st = if k = j then .stopped else (slotAt u k).st := by
    rw [stopSlot, slotAt_withdrawAll _ _ _ Slot.st fun _ _ _ => rfl, slotAt_modSlot]
    split <;> rfl
  have hsws (u : State) (j : Nat) : (slotAt (stopSlot core u j) k).sws = if k = j then true else (slotAt u k).sws := by
    rw [stopSlot, slotAt_withdrawAll _ _ _ Slot.sws fun _ _ _ => rfl, slotAt_modSlot]
    split <;> rfl
  have hlater (ks : List Nat) (u : State) (hu : (slotAt u k).sws = true ∧ (slotAt u k).st = .stopped) :
      (slotAt (ks.foldl (stopSlot core) u) k).sws = true ∧ (slotAt (ks.foldl (stopSlot core) u) k).st = .stopped := by
    refine List.foldlRecOn (motive := fun v => (slotAt v k).sws = true ∧ (slotAt v k).st = .stopped) ks _ hu fun v hv j _ => ?_
    rw [hstop, hsws, hv.1, hv.2, ite_self, ite_self]
    exact ⟨rfl, rfl⟩
  induction ks generalizing s with
  | nil => cases h
  | cons j ks ih =>
    by_cases hj : k = j
    · exact hlater ks _ ⟨by rw [hsws, if_pos hj], by rw [hstop, if_pos hj]⟩
    · exact ih ((List.mem_cons.1 h).resolve_left hj) _

theorem coreAt_stopSlots {α : Type} (f : Core → α) (hf : ∀ (c : Core) q n, f { c with reqs := q, ni := n } = f c) (core : Nat) (ks : List Nat)
    (s : State) : f (coreAt (ks.foldl (stopSlot core) s) core) = f (coreAt s core) :=
  List.foldlRecOn (motive := fun u => f (coreAt u core) = f (coreAt s core)) ks _ rfl fun _ hu k _ =>
    (coreAt_withdrawAll _ core k f hf core).trans hu

/-! The records (R342). -/

section
variable {core : Nat} {s : State} (hst : (coreAt s core).gst = 2)
include hst

theorem exec_gangSwitchSaved_none (hset : (coreAt s core).gset = 0) :
    exec (.gangSwitchSaved core) s = .next (modCore s core fun c => { c with gst := 3, saved := 0, gset := 0 }) := by
  change execGangSwitchSaved core s = _
  rw [execGangSwitchSaved, if_neg (by simp [hst, hset, maskSlots_zero])]
  simp only [hset, maskSlots_zero]
  rfl

section
variable {k : Nat} (hset : maskSlots core (coreAt s core).gset = [k]) (hdrain : slotDrained s core k = true)
  (hwait : (slotAt s k).st ≠ .waiting)
include hset hdrain hwait

theorem exec_gangSwitchSaved_one {u : State} (h : saveSlot s k = some u) : exec (.gangSwitchSaved core) s =
    .next (modCore u core fun c => { c with gst := 3, saved := 2 ^ slotNo k, gset := 0 }) := by
  change execGangSwitchSaved core s = _
  rw [execGangSwitchSaved, if_neg (by simp [hst, hset, hdrain])]
  simp [hset, hwait, h]

theorem exec_gangSwitchSaved_held (h : saveSlot s k = none) : exec (.gangSwitchSaved core) s = .next s := by
  change execGangSwitchSaved core s = _
  rw [execGangSwitchSaved, if_neg (by simp [hst, hset, hdrain])]
  simp [hset, hwait, h]

end
end

/-- A slot whose record is written gives up its pin, its ownership, its unit and its gang. -/
theorem saveSlot_gives {s u : State} {k : Nat} (h : saveSlot s k = some u) : (slotAt u k).st = .stopped ∧ (slotAt u k).gang = none ∧
    (slotAt u k).hnd = none ∧ (slotAt u k).unit = none ∧ (coreAt u (coreOf k)).pin ≠ some k ∧ (clusterAt u (clusterOf (coreOf k))).own ≠ some k := by
  obtain ⟨z, -, rfl⟩ := Option.map_eq_some_iff.1 h
  have hgiven (o : Option Nat) : (if o = some k then none else o) ≠ some k := by
    split
    · simp
    · assumption
  refine ⟨?_, ?_, ?_, ?_, ?_, ?_⟩
  · rw [slotAt_modSlot_self]
  · rw [slotAt_modSlot_self]
  · rw [slotAt_modSlot_self]
  · rw [slotAt_modSlot_self]
  · rw [coreAt_modSlot, coreAt_modCluster, coreAt_modCore_self]
    exact hgiven _
  · rw [clusterAt_modSlot, clusterAt_modCluster_self]
    exact hgiven _

/-! The fallout area (R343). -/

/-- A search from `a` finds the first number that passes. -/
theorem find?_rangeFrom_spec {p : Nat → Bool} {a m n : Nat} (h : (rangeFrom a m).find? p = some n) :
    p n = true ∧ ∀ j, a ≤ j → j < n → p j = false := by
  induction m generalizing a with
  | zero => cases h
  | succ m ih =>
    rw [rangeFrom] at h
    cases ha : p a
    · rw [List.find?_cons_of_neg (by simp [ha])] at h
      obtain ⟨hn, hbelow⟩ := ih h
      refine ⟨hn, fun j hj hlt => ?_⟩
      rcases Nat.eq_or_lt_of_le hj with rfl | hj'
      · exact ha
      · exact hbelow j hj' hlt
    · rw [List.find?_cons_of_pos ha] at h
      obtain rfl := Option.some.inj h
      exact ⟨ha, fun j hj hlt => absurd hlt (Nat.not_lt.2 hj)⟩

theorem freeFall_spec {w : Tower} {n : Nat} (h : freeFall w = some n) :
    n ∉ w.fall.map Prod.fst ∧ ∀ j, j < n → j ∈ w.fall.map Prod.fst := by
  obtain ⟨hn, hbelow⟩ := find?_rangeFrom_spec h
  refine ⟨by simpa using hn, fun j hj => ?_⟩
  simpa using hbelow j (Nat.zero_le j) hj

theorem exec_falloutDivert {i core n : Nat} {s u : State} {m : Msg} (harr : arrives s i = some m) (hdst : m.dst = .ni core)
    (hdivert : (coreAt s core).divert = true)
    (hkind : match m.body with | .activeMsg _ _ _ _ _ _ => True | .baton _ _ => True | _ => False)
    (hroom : (towerAt s (towerOf (clusterOf core))).fall.length < ((towerAt s (towerOf (clusterOf core))).creg 0x391).toNat % 2 ^ 32)
    (hfree : freeFall (towerAt s (towerOf (clusterOf core))) = some n) (hfill : fillFall (dropMsg s i) (towerOf (clusterOf core)) n = some u) :
    exec (.falloutDivert i) s = .next (modTower u (towerOf (clusterOf core)) fun w =>
      { w.setCreg 0x392 (addF (w.creg 0x392) 32 32 1) with fall := w.fall ++ [(n, m)] }) := by
  have hlimit : ¬ bitF ((towerAt s (towerOf (clusterOf core))).creg 0x391) 0 32 ≤ (towerAt s (towerOf (clusterOf core))).fall.length := by
    rw [bitF_zero]
    exact Nat.not_le.2 hroom
  have hbody : (∃ ty len off dict pl fr, m.body = .activeMsg ty len off dict pl fr) ∨ ∃ ctx hops, m.body = .baton ctx hops := by
    revert hkind
    cases m.body <;> simp
  change execFalloutDivert i s = _
  unfold execFalloutDivert
  rcases hbody with ⟨_, _, _, _, _, _, hbody⟩ | ⟨_, _, hbody⟩ <;>
    simp only [harr, hdst, hdivert, hlimit, hfree, hfill, hbody, Option.bind_some, Option.map_some, Bool.not_true, Bool.false_eq_true, or_self,
      if_false]

/-! Arming and restoring (R344, R348). -/

theorem gst_gswWrite_arm {s : State} {core : Nat} {v : Word} (hv : v.getLsbD 63 = true)
    (hst : (coreAt s core).gst = 0 ∨ (coreAt s core).gst = 3) : (coreAt (gswWrite s core v) core).gst = 1 := by
  have hv' : bitB v 63 = true := hv
  rw [gswWrite, if_neg (by omega), if_pos hv', coreAt_modCore_self]

theorem gswWrite_busy {s : State} {core : Nat} {v : Word} (hv : v.getLsbD 63 = true ∨ v.getLsbD 62 = true)
    (h0 : (coreAt s core).gst ≠ 0) (h3 : (coreAt s core).gst ≠ 3) : gswWrite s core v = s := by
  rw [gswWrite, if_pos ⟨hv, h0, h3⟩]

theorem exec_gswRestore_runs {s : State} {core : Nat} (v : Word) (h : (coreAt s core).gst = 4) :
    exec (.gswRestore core v) s = .next (finishRestore (loadSlots s core) core) := if_pos h

theorem exec_gswRestore_store {s : State} {core i : Nat} {v : Word} {m : Msg} (h4 : (coreAt s core).gst ≠ 4)
    (h : ctlStoreAt s core 0x1C9 v i m) (harm : v.getLsbD 63 = false) (hrst : v.getLsbD 62 = true) :
    exec (.gswRestore core v) s = .next (sendMsg (gswWrite (dropMsg s i) core v) (replyTo m .storeAck)) :=
  (if_neg h4).trans (congrArg Host.Outcome.next
    (onCtlStore_of_ctlStoreAt h (by simp only [bitB, harm, hrst, decide_true, Bool.not_false, Bool.and_self]) fun s v => gswWrite s core v))

/-- Settles O59. -/
theorem gangSwitch_holds : Obligations.GangSwitch := by
  refine ⟨?_, ?_, ?_, ?_, ?_, fun s k u h => saveSlot_gives h, ?_, fun s t n => rfl, fun w n h => freeFall_spec h, ?_, ?_, ?_, ?_, ?_⟩
  · intro core s hst hlap htime hturns hno
    rw [exec_gangSwitchBegin hst hlap htime hturns, maskOf_eq_zero hno, maskSlots_zero]
    rfl
  · intro core n s hst hlap htime hturns hn hin
    have hmem : slotOf core n ∈ maskSlots core (maskOf (inSwitch s core) 16) := mem_maskSlots.2 ⟨n, hn, (testBit_maskOf _ hn).trans hin, rfl⟩
    obtain ⟨hsws, hstop⟩ := stopped_stopSlots hmem (diverts s core (maskOf (inSwitch s core) 16))
    rw [exec_gangSwitchBegin hst hlap htime hturns]
    refine ⟨_, rfl, hsws, hstop, ?_, ?_⟩
    · rw [coreAt_stopSlots Core.divert (fun _ _ _ => rfl), diverts, coreAt_modCore_self]
    · rw [coreAt_stopSlots Core.gst (fun _ _ _ => rfl), diverts, coreAt_modCore_self]
  · intro s core n h
    have hasid : (slotAt s (slotOf core n)).asid = gswAsid s core := by
      simp only [inSwitch, Bool.and_eq_true, decide_eq_true_eq] at h
      exact h.1
    exact hasid.trans (bitF_zero _ 12)
  · exact fun core s hst hset => exec_gangSwitchSaved_none hst hset
  · intro core s k hst hset hdrain hwait
    exact ⟨fun u => exec_gangSwitchSaved_one hst hset hdrain hwait, exec_gangSwitchSaved_held hst hset hdrain hwait⟩
  · exact fun i s m core harr hdst hdivert hkind hroom n u hfree hfill => exec_falloutDivert harr hdst hdivert hkind hroom hfree hfill
  · exact fun core v i m s h hv => congrArg Host.Outcome.next
      (onCtlStore_of_ctlStoreAt h (by simpa [bitB] using hv) fun s v => gswWrite s core v)
  · exact fun core v i m s h4 h harm hrst => exec_gswRestore_store h4 h harm hrst
  · exact fun core v s h => exec_gswRestore_runs v h
  · exact fun s core v hv hst => gst_gswWrite_arm hv hst
  · exact fun s core v hv h0 h3 => gswWrite_busy hv h0 h3

end Sys2Proof.Machine
end

section
/-! The remap table and heat (R323 to R325). -/

namespace Sys2Proof.Machine

open Sys2Proof.Claims

/-! The remap table (R323). -/

section
variable {d a b : GReg} {t : Bool} {s : State} {va vb : Word} {y : Slot}

/-- The swap that a well-formed `crmap` asks for. -/
def remapAsk (va vb : Word) (k : Nat) (id : Nat) (s : State) : State :=
  modCluster s (clusterIn (bitF va 40 3) (bitF va 32 8)) fun c => { c with swap := some (bitF va 0 6, bitF vb 0 6, k, id) }

/-- `crmap` with entries and a cluster that there are. -/
theorem exec_crmap (h : Reads s [a, b] (some d) [va, vb] y) (hi : va.toNat % 64 ≤ 33) (hcl : va.toNat / 2 ^ 32 % 256 ≤ 159)
    (hj : vb.toNat % 64 ≤ 33) : exec (.crmap d a b t) s = endsAs s
      (if y.trip.isNone ∧ (clusterAt s (clusterIn (bitF va 40 3) (bitF va 32 8))).swap.isSome then .park (popped s y)
      else askTrip (popped s y) 1 (remapAsk va vb s.cur) fun s ws =>
        .done (modSlot s s.cur fun x => (x.takeIf t a.toNat).writeDst d.toNat (val ws 0))) := by
  have hi' : ¬ (33 < bitF va 0 6 ∨ 159 < bitF va 32 8) := by
    rw [bitF_zero]
    exact not_or.2 ⟨Nat.not_lt.2 hi, Nat.not_lt.2 hcl⟩
  have hj' : ¬ 33 < bitF vb 0 6 := by
    rw [bitF_zero]
    exact Nat.not_lt.2 hj
  have htrip : (slotAt (popped s y) (popped s y).cur).trip = y.trip := by rw [popped_cur, slotAt_popped]
  refine (next_withOps h _).trans ?_
  simp only [val_zero, val_one, gt_iff_lt, hi', hj', if_false, htrip]
  rfl

theorem exec_crmap_answered {ws : List Word} (h : Reads s [a, b] (some d) [va, vb] y) (hi : va.toNat % 64 ≤ 33)
    (hcl : va.toNat / 2 ^ 32 % 256 ≤ 159) (hj : vb.toNat % 64 ≤ 33) (hans : Answered y ws) :
    exec (.crmap d a b t) s = completes s (wrote (popped s y) d a t (val ws 0)) := by
  have htrip : y.trip.isNone = false := by
    obtain ⟨tr, htr, -⟩ := hans
    simp [htr]
  have hans' : Answered (slotAt (popped s y) (popped s y).cur) ws := by rwa [popped_cur, slotAt_popped]
  rw [exec_crmap h hi hcl hj, if_neg (by simp [htrip]), askTrip_answered hans']
  exact completes_of_done rfl

theorem exec_crmap_asks (h : Reads s [a, b] (some d) [va, vb] y) (hi : va.toNat % 64 ≤ 33)
    (hcl : va.toNat / 2 ^ 32 % 256 ≤ 159) (hj : vb.toNat % 64 ≤ 33) (htrip : y.trip = none) {cl : Nat}
    (hc : cl = va.toNat / 2 ^ 40 % 8 * 160 + va.toNat / 2 ^ 32 % 256) (hswap : (clusterAt s cl).swap = none) :
    ∃ u id, exec (.crmap d a b t) s = .next u ∧ u.mark = .parked ∧
      (clusterAt u cl).swap = some (va.toNat % 64, vb.toNat % 64, s.cur, id) := by
  have hcl' : clusterIn (bitF va 40 3) (bitF va 32 8) = cl := hc.symm
  have htrip' : (slotAt (popped s y) (popped s y).cur).trip = none := by rwa [popped_cur, slotAt_popped]
  rw [exec_crmap h hi hcl hj, hcl', if_neg (by simp [hswap]), askTrip_unasked htrip', remapAsk, hcl', bitF_zero, bitF_zero]
  refine ⟨_, (takeFresh (popped s y)).1, rfl, rfl, ?_⟩
  rw [keepStreams_park, finish_park, clusterAt_marked, clusterAt_modSlot, clusterAt_modSlot, clusterAt_modCluster_self]
  rfl

end

/-- A cluster as the advisory of its spare core leaves it. -/
theorem clusters_adviseSpare (s : State) (cl : Nat) : (adviseSpare s cl).clusters = s.clusters := by
  unfold adviseSpare
  split
  · exact keeps_advise (g := State.clusters) (fun _ _ _ _ => rfl) _ _ _ _
  · rfl

theorem slots_adviseSpare (s : State) (cl : Nat) : (adviseSpare s cl).slots = s.slots := by
  unfold adviseSpare
  split
  · exact keeps_advise (g := State.slots) (fun _ _ _ _ => rfl) _ _ _ _
  · rfl

theorem clusters_answerTrip (s : State) (k id : Nat) (vs : List Word) (tr : Option (Nat × Word)) :
    (answerTrip s k id vs tr).clusters = s.clusters := by
  unfold answerTrip
  split
  · split <;> rfl
  · rfl

/-- An answer to a slot that awaits it. -/
theorem trip_answerTrip {s : State} {k id : Nat} {t : Trip} (h : (slotAt s k).trip = some t) (hid : t.id = id) (vs : List Word)
    (tr : Option (Nat × Word)) : (slotAt (answerTrip s k id vs tr) k).trip =
      some { t with need := t.need - 1, vals := t.vals ++ vs, trap := if t.trap.isSome then t.trap else tr } := by
  simp only [answerTrip, h, hid, if_true, wake, slotAt_modSlot_self]
  split <;> rfl

section
variable {cl i j k id : Nat} {s : State}

/-- The table with two entries exchanged. -/
def swapped (s : State) (cl i j : Nat) : State :=
  setCluster s cl { clusterAt s cl with
    remap := SMap.set (fun i => i) (SMap.set (fun i => i) (clusterAt s cl).remap i ((clusterAt s cl).phys j)) j ((clusterAt s cl).phys i)
    swap := none }

theorem exec_remapSwap (hswap : (clusterAt s cl).swap = some (i, j, k, id)) (hi : coreQuiet s (coreIn cl ((clusterAt s cl).phys i)) = true)
    (hj : coreQuiet s (coreIn cl ((clusterAt s cl).phys j)) = true) : exec (.remapSwap cl) s = .next
      (answerTrip (adviseSpare (swapped s cl i j) cl) k id [nw ((clusterAt s cl).phys i * 2 ^ 8 + (clusterAt s cl).phys j)] none) := by
  change execRemapSwap cl s = _
  simp only [execRemapSwap, hswap, hi, hj, and_self, if_true]
  rfl

theorem clusterAt_swapped (s : State) (cl i j : Nat) : clusterAt (swapped s cl i j) cl = { clusterAt s cl with
    remap := SMap.set (fun i => i) (SMap.set (fun i => i) (clusterAt s cl).remap i ((clusterAt s cl).phys j)) j ((clusterAt s cl).phys i)
    swap := none } := SMap.get_set_self _ _ _ _

theorem phys_swapped_right : (clusterAt (swapped s cl i j) cl).phys j = (clusterAt s cl).phys i := by
  rw [clusterAt_swapped]
  exact SMap.get_set_self _ _ _ _

theorem phys_swapped_left (hij : i ≠ j) : (clusterAt (swapped s cl i j) cl).phys i = (clusterAt s cl).phys j := by
  rw [clusterAt_swapped]
  exact (SMap.get_set_ne _ _ _ hij).trans (SMap.get_set_self _ _ _ _)

theorem phys_swapped_other {n : Nat} (hi : n ≠ i) (hj : n ≠ j) : (clusterAt (swapped s cl i j) cl).phys n = (clusterAt s cl).phys n := by
  rw [clusterAt_swapped]
  exact (SMap.get_set_ne _ _ _ hj).trans (SMap.get_set_ne _ _ _ hi)

end

/-! Readings of the temperature (R324). -/

section
variable (s : State) (cl temp : Nat)

/-- A cluster at a reading. -/
def Cluster.read (c : Cluster) (s : State) (cl t : Nat) : Cluster :=
  let c' := { c with temp := t, hold := decide (thermAt s cl 8 ≤ t) || (c.hold && !decide (t < thermAt s cl 0)) }
  if decide (thermAt s cl 24 ≤ t) = c.thr then c' else { c' with thr := decide (thermAt s cl 24 ≤ t), cycBase := clusterCycle s cl, cycSince := s.time }

/-- The cluster takes the reading. -/
def tempRead (s : State) (cl t : Nat) : State := modCluster s cl fun c => c.read s cl t

/-- 0x72 at every core of the cluster. -/
def raiseHot (s : State) (cl t : Nat) : State := (rangeFrom 0 34).foldl (fun s p => raiseEvent s (coreIn cl p) 0x72 (nw t)) s

theorem setTemp_eq : setTemp s cl temp =
    if decide (thermAt s cl 24 ≤ temp % 65536) && !(clusterAt s cl).thr then raiseHot (tempRead s cl (temp % 65536)) cl (temp % 65536)
    else tempRead s cl (temp % 65536) := rfl

/-- A reading changes its cluster and raises events, and nothing else. -/
theorem keeps_setTemp {α : Type} {g : State → α} (hg : ∀ s cores net touch, g { s with cores := cores, net := net, touch := touch } = g s)
    (hcl : ∀ s f, g (modCluster s cl f) = g s) : g (setTemp s cl temp) = g s := by
  rw [setTemp_eq]
  split
  · exact (keeps_foldl (fun u p => keeps_raiseEvent hg u _ _ _) _ _).trans (hcl s _)
  · exact hcl s _

theorem clusterAt_setTemp : clusterAt (setTemp s cl temp) cl = (clusterAt s cl).read s cl (temp % 65536) := by
  rw [setTemp_eq]
  split
  · exact (keeps_foldl (g := fun u => clusterAt u cl) (fun u p => clusterAt_raiseEvent ..) _ _).trans (clusterAt_modCluster_self s cl _)
  · exact clusterAt_modCluster_self s cl _

theorem slotAt_setTemp (k : Nat) : slotAt (setTemp s cl temp) k = slotAt s k :=
  keeps_setTemp s cl temp (g := fun s => slotAt s k) (fun _ _ _ _ => rfl) fun _ _ => rfl

theorem towers_setTemp : (setTemp s cl temp).towers = s.towers :=
  keeps_setTemp s cl temp (g := State.towers) (fun _ _ _ _ => rfl) fun _ _ => rfl

theorem time_setTemp : (setTemp s cl temp).time = s.time :=
  keeps_setTemp s cl temp (g := State.time) (fun _ _ _ _ => rfl) fun _ _ => rfl

theorem thermAt_setTemp (c lo : Nat) : thermAt (setTemp s cl temp) c lo = thermAt s c lo := by
  rw [thermAt, towerAt, towers_setTemp]
  rfl

end

section
variable {s : State} {cl temp : Nat} (ht : temp < 65536)
include ht

theorem temp_setTemp : (clusterAt (setTemp s cl temp) cl).temp = temp := by
  rw [clusterAt_setTemp, Nat.mod_eq_of_lt ht, Cluster.read]
  split <;> rfl

/-- At HOLD a cluster holds, below CLEAR it does not, and between the two it is as it was. -/
theorem hold_setTemp : (clusterAt (setTemp s cl temp) cl).hold =
    (decide (thermAt s cl 8 ≤ temp) || ((clusterAt s cl).hold && !decide (temp < thermAt s cl 0))) := by
  rw [clusterAt_setTemp, Nat.mod_eq_of_lt ht, Cluster.read]
  split <;> rfl

section
variable (hthrot : thermAt s cl 24 ≤ temp) (hwas : (clusterAt s cl).thr = false)
include hthrot hwas

/-- From THROT on the cluster's clock runs at half rate. -/
theorem clusterAt_setTemp_throttled : (clusterAt (setTemp s cl temp) cl).thr = true ∧
    (clusterAt (setTemp s cl temp) cl).cycBase = clusterCycle s cl ∧ (clusterAt (setTemp s cl temp) cl).cycSince = s.time := by
  rw [clusterAt_setTemp, Nat.mod_eq_of_lt ht, Cluster.read]
  simp only [hthrot, hwas, decide_true]
  exact ⟨rfl, rfl, rfl⟩

theorem clusterCycle_setTemp_throttled (n : Nat) :
    clusterCycle { setTemp s cl temp with time := (setTemp s cl temp).time + n } cl = clusterCycle s cl + n / 2 := by
  obtain ⟨hthr, hbase, hsince⟩ := clusterAt_setTemp_throttled ht hthrot hwas
  change (clusterAt (setTemp s cl temp) cl).cycBase + ((setTemp s cl temp).time + n - (clusterAt (setTemp s cl temp) cl).cycSince) /
    (if (clusterAt (setTemp s cl temp) cl).thr then 2 else 1) = _
  rw [hthr, hbase, hsince, time_setTemp, Nat.add_sub_cancel_left]
  rfl

/-- Every core of the cluster with room in its queue takes 0x72. -/
theorem evq_setTemp_throttled {p : Nat} (hp : p < 34) (hroom : (coreAt s (coreIn cl p)).evq.length < 16) :
    (coreAt (setTemp s cl temp) (coreIn cl p)).evq = (coreAt s (coreIn cl p)).evq ++ [(0x72, nw temp)] := by
  have hother (ps : List Nat) (u : State) (hno : p ∉ ps) :
      coreAt (ps.foldl (fun s p => raiseEvent s (coreIn cl p) 0x72 (nw temp)) u) (coreIn cl p) = coreAt u (coreIn cl p) := by
    refine List.foldlRecOn (motive := fun v => coreAt v (coreIn cl p) = coreAt u (coreIn cl p)) ps _ rfl fun v hv q hq => ?_
    have hne : coreIn cl p ≠ coreIn cl q := fun e => hno (Nat.add_left_cancel e ▸ hq)
    exact (coreAt_modCore_ne v _ hne).trans hv
  have hraise (a n : Nat) (u : State) (ha : a ≤ p) (hn : p < a + n) (hu : coreAt u (coreIn cl p) = coreAt s (coreIn cl p)) :
      (coreAt ((rangeFrom a n).foldl (fun s p => raiseEvent s (coreIn cl p) 0x72 (nw temp)) u) (coreIn cl p)).evq =
        (coreAt s (coreIn cl p)).evq ++ [(0x72, nw temp)] := by
    induction n generalizing a u with
    | zero => exact absurd hn (Nat.not_lt.2 ha)
    | succ n ih =>
      rw [rangeFrom, List.foldl_cons]
      rcases Nat.eq_or_lt_of_le ha with rfl | hlt
      · rw [hother _ _ fun h => by have := mem_rangeFrom.1 h; omega, evq_raiseEvent _ _ (hu ▸ hroom), hu]
      · refine ih (a + 1) _ hlt (by omega) (Eq.trans ?_ hu)
        exact coreAt_modCore_ne u _ fun e => absurd (Nat.add_left_cancel e) (Nat.ne_of_gt hlt)
  rw [setTemp_eq, Nat.mod_eq_of_lt ht, if_pos (by simp [hthrot, hwas])]
  exact hraise 0 34 _ (Nat.zero_le p) hp rfl

end

/-! Moving a unit from a hot cluster (R324, R325). -/

theorem slotClass_setTemp (k : Nat) : slotClass (setTemp s cl temp) k = slotClass s k := by
  have hraise (u : State) (core : Nat) : (coreAt (raiseEvent u core 0x72 (nw temp)) (coreOf k)).creg 0x181 = (coreAt u (coreOf k)).creg 0x181 := by
    by_cases h : coreOf k = core
    · subst h
      rw [raiseEvent, coreAt_modCore_self]
      split
      · rfl
      · exact SMap.get_set_ne _ _ _ (by decide)
    · rw [raiseEvent, coreAt_modCore_ne _ _ h]
  have hcreg : (coreAt (setTemp s cl temp) (coreOf k)).creg 0x181 = (coreAt s (coreOf k)).creg 0x181 := by
    rw [setTemp_eq, Nat.mod_eq_of_lt ht]
    split
    · exact keeps_foldl (g := fun u => (coreAt u (coreOf k)).creg 0x181) (fun u p => hraise u _) _ _
    · rfl
  rw [slotClass, hcreg]
  rfl

end

theorem st_installCtx (s : State) (k : Nat) (ctx : List Byte) (hops : Nat) : (slotAt (installCtx s k ctx hops) k).st = .ready := by
  rw [installCtx, slotAt_modSlot_self]
  rfl

theorem st_tellMoved (s : State) (k : Nat) : (slotAt (tellMoved s k) k).st = (slotAt s k).st := by
  rw [tellMoved]
  split
  · rfl
  · split
    · rfl
    · split
      · rw [slotAt_modSlot_self]
      · rfl

/-- A unit moves to the slot `d` of a cooler cluster. -/
def movedUnit (s : State) (cl k d : Nat) : State :=
  let x := slotAt s k
  let s1 := installCtx s d (ctxBytes s k x.pc ++ unitBytes x.unit) (bitF (x.creg 0x0D0) 32 32)
  let s2 := modSlot (tellMoved s1 d) k fun x => { enterWfw x with unit := none, cancel := none, held := none, deadline := none }
  modCluster s2 cl fun c => { c.setCreg 0x245 (addF (c.creg 0x245) 32 32 1) with migAt := s.time + 16000 }

theorem exec_thermalMigrate {s : State} {cl temp k d : Nat} {x : UnitRun} (ht : temp < 65536) (hmig : thermAt s cl 16 ≤ temp)
    (hdue : (clusterAt s cl).migAt ≤ s.time) (hk : clusterOf (coreOf k) = cl) (hx : (slotAt s k).unit = some x) (hreg : x.region = false)
    (hmay : mayMove (setTemp s cl temp) k = true)
    (hcool : coolSlot (setTemp s cl temp) cl (slotClass s k) (slotAt s k).asid = some d) :
    exec (.thermalMigrate cl temp k) s = .next (movedUnit (setTemp s cl temp) cl k d) := by
  have hmigAt : (clusterAt (setTemp s cl temp) cl).migAt = (clusterAt s cl).migAt := by
    rw [clusterAt_setTemp, Cluster.read]
    split <;> rfl
  have hgo : ¬ ((clusterAt (setTemp s cl temp) cl).temp < thermAt (setTemp s cl temp) cl 16 ∨
      (setTemp s cl temp).time < (clusterAt (setTemp s cl temp) cl).migAt ∨ clusterOf (coreOf k) ≠ cl) := by
    rw [temp_setTemp ht, thermAt_setTemp, time_setTemp, hmigAt]
    exact not_or.2 ⟨Nat.not_lt.2 hmig, not_or.2 ⟨Nat.not_lt.2 hdue, fun h => h hk⟩⟩
  have hunit : ((slotAt (setTemp s cl temp) k).unit.map UnitRun.region).getD false = false := by
    rw [slotAt_setTemp, hx]
    exact hreg
  have hcool' : coolSlot (setTemp s cl temp) cl (slotClass (setTemp s cl temp) k) (slotAt (setTemp s cl temp) k).asid = some d := by
    rw [slotClass_setTemp ht, slotAt_setTemp, hcool]
  change execThermalMigrate cl temp k s = _
  rw [execThermalMigrate]
  simp only [hgo, hunit, hmay, hcool', if_false, Bool.false_eq_true, Bool.not_true]
  rfl

theorem movedUnit_effect {s : State} {cl k d : Nat} (hd : d ≠ k) : (slotAt (movedUnit s cl k d) k).st = .waiting ∧
    (slotAt (movedUnit s cl k d) k).unit = none ∧ (slotAt (movedUnit s cl k d) d).st = .ready ∧
    (clusterAt (movedUnit s cl k d) cl).migAt = s.time + 16000 := by
  refine ⟨?_, ?_, ?_, ?_⟩
  · rw [movedUnit, slotAt_modCluster, slotAt_modSlot_self]
    rfl
  · rw [movedUnit, slotAt_modCluster, slotAt_modSlot_self]
  · rw [movedUnit, slotAt_modCluster, slotAt_modSlot, if_neg hd, st_tellMoved, st_installCtx]
  · rw [movedUnit, clusterAt_modCluster_self]

/-- Settles O38. -/
theorem remapAndHeat : Obligations.RemapAndHeat := by
  refine ⟨?_, ?_, ?_, ?_, ?_, ?_, ?_, ?_⟩
  · exact fun d a b t s va vb y ws h hi hcl hj hans => exec_crmap_answered h hi hcl hj hans
  · exact fun d a b t s va vb y h hi hcl hj htrip cl hc hswap => exec_crmap_asks h hi hcl hj htrip hc hswap
  · intro cl s i j k id hswap hij hi hj
    have hcl (vs : List Word) : clusterAt (answerTrip (adviseSpare (swapped s cl i j) cl) k id vs none) cl = clusterAt (swapped s cl i j) cl := by
      rw [clusterAt, clusters_answerTrip, clusters_adviseSpare]
      rfl
    refine ⟨_, exec_remapSwap hswap hi hj, ?_, ?_, ?_, fun tr htr hid => ?_, fun n hni hnj => ?_⟩
    · rw [hcl, phys_swapped_left hij]
    · rw [hcl, phys_swapped_right]
    · rw [hcl, clusterAt_swapped]
    · have hslot : (slotAt (adviseSpare (swapped s cl i j) cl) k).trip = some tr := by
        rw [slotAt, slots_adviseSpare]
        exact htr
      exact ⟨_, trip_answerTrip hslot hid _ _, rfl, rfl⟩
    · rw [hcl, phys_swapped_other hni hnj]
  · intro cl temp s ht
    exact ⟨setTemp s cl temp, rfl, temp_setTemp ht, fun hhold => by rw [hold_setTemp ht, decide_eq_true hhold]; rfl⟩
  · intro cl temp s ht
    refine ⟨setTemp s cl temp, rfl, temp_setTemp ht, fun hclear hhold => ?_, fun hclear hhold => ?_⟩
    · rw [hold_setTemp ht, decide_eq_false (Nat.not_le.2 hhold), decide_eq_true hclear, Bool.not_true, Bool.and_false]
      rfl
    · rw [hold_setTemp ht, decide_eq_false (Nat.not_le.2 hhold), decide_eq_false (Nat.not_lt.2 hclear), Bool.not_false, Bool.and_true]
      rfl
  · intro cl temp s ht hthrot hwas
    refine ⟨setTemp s cl temp, rfl, (clusterAt_setTemp_throttled ht hthrot hwas).1, clusterCycle_setTemp_throttled ht hthrot hwas 0,
      clusterCycle_setTemp_throttled ht hthrot hwas, fun p hp hroom => evq_setTemp_throttled ht hthrot hwas hp hroom⟩
  · intro cl temp k s x ht hmig hdue hk hx hreg hmay d hcool hd
    obtain ⟨hst, hunit, hready, hat⟩ := movedUnit_effect (s := setTemp s cl temp) (cl := cl) hd
    exact ⟨_, exec_thermalMigrate ht hmig hdue hk hx hreg hmay hcool, hst, hunit, hready, time_setTemp s cl temp ▸ hat⟩
  · intro k s x hx hreg hdue
    refine ⟨modTower (modSlot s k fun y => { y with unit := some { x with region := false } }) (slotTower k) fun w =>
      w.setCreg 0x3D4 (addF (w.creg 0x3D4) 32 32 1), ?_, ?_⟩
    · change execNpRegionExpire k s = _
      simp only [execNpRegionExpire, hx, hreg, hdue, and_self, if_true]
    · rw [slotAt_modTower, slotAt_modSlot_self]

end Sys2Proof.Machine
end

section
/-! The forms of WORK (R314, R316, R318, R319, R321). -/

namespace Sys2Proof.Machine

open Sys2Proof.Claims

/-! A slot that has only kept what it read in its own LM (R314). -/

theorem onlyKept_trans {s u v : State} (h : OnlyKept s u) (h' : OnlyKept u v) : OnlyKept s v := by
  obtain rfl | ⟨tr, rfl⟩ := h
  · exact h'
  · obtain rfl | ⟨tr', rfl⟩ := h'
    · exact .inr ⟨tr, rfl⟩
    · exact .inr ⟨tr', modSlot_modSlot ..⟩

section
variable {s u : State} (h : OnlyKept s u)
include h

theorem coreAt_of_onlyKept (c : Nat) : coreAt u c = coreAt s c := by
  obtain rfl | ⟨tr, rfl⟩ := h <;> rfl

theorem slotAt_of_onlyKept : ∃ tr, slotAt u s.cur = { slotAt s s.cur with trip := tr } := by
  obtain rfl | ⟨tr, rfl⟩ := h
  · exact ⟨_, rfl⟩
  · exact ⟨tr, slotAt_modSlot_self s s.cur _⟩

theorem launchBad_of_onlyKept (t : Nat) (r : List Word) : launchBad u t r = launchBad s t r := by
  obtain rfl | ⟨tr, rfl⟩ := h <;> rfl

theorem lvlAgent_of_onlyKept (t id : Nat) : lvlAgent u t id = lvlAgent s t id := by
  obtain rfl | ⟨tr, rfl⟩ := h <;> rfl

end

section
variable {s u : State} {srcs : List GReg} {dst : Option GReg} {vs : List Word} {y : Slot} {i : Instr} {agent : Agent} {b : Body} {n : Nat}

/-- A form that has only kept what it read, and then asks. -/
theorem asks_of_askMore_kept (hr : Reads s srcs dst vs y) (hkept : OnlyKept (popped s y) u) (h : exec i s = endsAs s (askMore u agent b n)) :
    Asks s i agent b n := by
  rintro tag m htag hbar rfl
  have hcur : u.cur = s.cur := (cur_of_onlyKept hkept).trans (popped_cur s y)
  have hcore (c : Nat) : coreAt u c = coreAt s c := coreAt_of_onlyKept hkept c
  obtain ⟨tr, hslot⟩ := slotAt_of_onlyKept hkept
  have hslot' : slotAt u s.cur = { slotAt s s.cur with strs := y.strs, trip := tr } := by
    rw [← popped_cur s y, hslot, popped_cur, slotAt_popped, Slot.prep_frame hr]
  obtain ⟨w, tr, hask, hneed, hw⟩ := askMore_free (z := u) (dst := agent) (b := b) (n := n) (tag := tag) (by rw [hcur, hcore, htag])
    (by rw [hcur, hslot']; exact hbar)
  rw [hask, endsAs_park] at h
  refine ⟨_, tr, h, rfl, ?_⟩
  obtain rfl | rfl := hw
  all_goals simp [finish_park, keptStreams, requested, reqAt_setReq_ni, hcur, hcore, hslot', hneed]

theorem trip_isNone_of_answered {ws : List Word} (h : Answered y ws) : y.trip.isNone = false := by
  obtain ⟨tr, htr, -⟩ := h
  rw [htr]
  rfl

/-- An answer of one word is the first of those that the instruction has. -/
theorem askAgent_answered {v : Word} {ws : List Word} (hn : n ≤ 8) (ended : List Word → List Word → Res) :
    askAgent u (v :: ws) agent b n ended = ended [v] ws := by
  have hone : answerWords n = 1 := Nat.max_eq_left (by omega)
  rw [askAgent, hone, if_neg (by simp)]
  rfl

theorem askAgent_none (ended : List Word → List Word → Res) : askAgent u [] agent b n ended = askMore u agent b n :=
  if_pos (answerWords_pos n)

end

/-! `launch` (R314). -/

theorem launchBad_popped (s : State) (y : Slot) (t : Nat) (r : List Word) : launchBad (popped s y) t r = launchBad s t r := rfl

section
variable {s u1 u2 u3 : State} {d a : GReg} {t : Bool} {va : Word} {y : Slot} {ws ws1 ws2 ws3 ws4 r args : List Word} {bs : List Byte}

/-- What `launch` does once its record, arguments and placement table are read. -/
def launchAsk (s : State) (d a : GReg) (t : Bool) (tw : Nat) (ws r args : List Word) (place : Option (List (BitVec 32))) : Res :=
  launchLevels s (launchAbove r) ws false fun ws cxl =>
    if cxl then launchGive s d a t 6
    else askAgent s ws (lvlAgent s tw (bitF (val r 1) 32 32))
      (.launchReq ⟨r, args, place, (slotAt s s.cur).asid, clusterOf (coreOf s.cur)⟩ none) 8 fun v _ => launchGive s d a t (val v 0).toNat

/-- What it does with its record. -/
def launchGo (s : State) (d a : GReg) (t : Bool) (tw : Nat) (ws r : List Word) : Res :=
  if launchBad s tw r then launchGive s d a t 2
  else launchArgs s ws r fun s ws args => launchPlace s ws r (fun s => launchGive s d a t 3) fun s ws place => launchAsk s d a t tw ws r args place

theorem completes_of_launchGive (u : State) (n : Nat) : endsAs s (launchGive u d a t n) = completes s (wrote u d a t (nw n)) := rfl

theorem exec_launch (h : Reads s [a] (some d) [va] y) (hhas : Has y ws) (hj : y.trip = none → journalEmpty s s.cur = true)
    (hrec : ReadsBytes (popped s y) ws va 0 64 64 ws1 bs u1) : exec (.launch d a t) s = endsAs s (launchGo u1 d a t (myTower s) ws1 (dwords 8 bs)) := by
  have htrip : (slotAt (popped s y) (popped s y).cur).trip = y.trip := by rw [popped_cur, slotAt_popped]
  have hstores : ¬ (y.trip.isNone ∧ (!journalEmpty s s.cur) = true) := by
    rintro ⟨hnone, hempty⟩
    rw [hj (Option.isNone_iff_eq_none.1 hnone)] at hempty
    exact absurd hempty (by decide)
  refine (next_withOps h _).trans (congrArg (endsAs s) ?_)
  rw [htrip]
  refine (if_neg hstores).trans ((withAnswers_none (has_popped hhas) _).trans ((hrec.2 _).trans ?_))
  rw [show myTower s = slotTower u1.cur from congrArg slotTower (cur_of_onlyKept hrec.1).symm]
  rfl

section
variable (hr : Reads s [a] (some d) [va] y) (hkept : OnlyKept (popped s y) u3) {place : Option (List (BitVec 32))} {cxl : Bool}
  (hlevels : ∀ e, launchLevels u3 (launchAbove r) ws3 false e = e ws4 cxl)
include hlevels

theorem endsAs_launchAsk_cancelled (hcxl : cxl = true) : endsAs s (launchAsk u3 d a t (myTower s) ws3 r args place) =
    completes s (wrote u3 d a t 6#64) := by
  rw [launchAsk, hlevels, if_pos hcxl, completes_of_launchGive]
  rfl

theorem endsAs_launchAsk_answered {v : Word} {vs : List Word} (hcxl : cxl = false) (hws : ws4 = v :: vs) :
    endsAs s (launchAsk u3 d a t (myTower s) ws3 r args place) = completes s (wrote u3 d a t v) := by
  rw [launchAsk, hlevels, hcxl, if_neg (by decide), hws, askAgent_answered (Nat.le_refl 8), completes_of_launchGive, val_zero, nw_toNat]

include hr hkept

theorem asks_of_launchAsk (hcxl : cxl = false) (hws : ws4 = []) {i : Instr}
    (h : exec i s = endsAs s (launchAsk u3 d a t (myTower s) ws3 r args place)) :
    Asks s i (lvlAgent s (myTower s) ((val r 1).toNat / 2 ^ 32)) (.launchReq ⟨r, args, place, y.asid, clusterOf (coreOf s.cur)⟩ none) 8 := by
  have hcur : u3.cur = s.cur := (cur_of_onlyKept hkept).trans (popped_cur s y)
  have hasid : (slotAt u3 s.cur).asid = y.asid := by
    obtain ⟨tr, hslot⟩ := slotAt_of_onlyKept hkept
    rw [← popped_cur s y, hslot, popped_cur, slotAt_popped]
    rfl
  refine asks_of_askMore_kept hr hkept (h.trans ?_)
  rw [launchAsk, hlevels, hcxl, if_neg (by decide), hws, askAgent_none, hcur, hasid, lvlAgent_of_onlyKept hkept,
    bitF_high (val r 1) (lo := 32) (n := 32) rfl]
  rfl

end

end

/-! Waiting for work, and the end of a unit (R316, R318). -/

section
variable {s : State} {a : GReg} {t : Bool} {va : Word} {y : Slot} {u : UnitRun}

theorem endUnit_none (h : (slotAt s s.cur).unit = none) (fail : Bool) (code : BitVec 32) (f : Slot → Slot) :
    endUnit s fail code f = .trap 0x36 0#64 := by
  simp only [endUnit, h]

theorem endUnit_holds (h : (slotAt s s.cur).unit = some u) (hrel : releaseHolds s s.cur = true) (fail : Bool) (code : BitVec 32)
    (f : Slot → Slot) : endUnit s fail code f = .park s := by
  simp only [endUnit, h, hrel, if_true]

theorem endUnit_ends (h : (slotAt s s.cur).unit = some u) (hrel : releaseHolds s s.cur = false) (fail : Bool) (code : BitVec 32)
    (f : Slot → Slot) : endUnit s fail code f = .left (modSlot (niPost s (coreOf s.cur) ⟨.ni (coreOf s.cur), lvlAgent s (myTower s) u.lid, 0, s.cur,
      (slotAt s s.cur).phase, .unitDone u.lid fail code⟩) s.cur fun x => { f x with unit := none, st := .waiting, traps := [] }) := by
  simp only [endUnit, h, hrel, Bool.false_eq_true, if_false]
  rfl

theorem exec_wfw_free (h : (slotAt s s.cur).unit = none ∧ (slotAt s s.cur).hnd = none) :
    exec .wfw s = leaves s (modSlot s s.cur fun x => { x with st := .waiting, traps := [] }) :=
  congrArg (endsWith s) (if_neg (by simp [h.1, h.2]))

theorem exec_wfw_busy (h : (slotAt s s.cur).unit.isSome = true ∨ (slotAt s s.cur).hnd.isSome = true) : exec .wfw s = traps s 0x36 0#64 :=
  congrArg (endsWith s) (if_pos h)

theorem unit_popped {srcs : List GReg} {dst : Option GReg} {vs : List Word} {reply : Bool} (h : Reads s srcs dst vs y reply) :
    (slotAt (popped s y) (popped s y).cur).unit = (slotAt s s.cur).unit := by
  rw [popped_cur, slotAt_popped, Slot.prep_frame h]

theorem exec_tfail (h : Reads s [a] none [va] y) :
    exec (.tfail a t) s = endsAs s (endUnit (popped s y) true (va.setWidth 32) fun x => x.takeIf t a.toNat) := next_withOps h _

theorem exec_tfail_ends (h : Reads s [a] none [va] y) (hu : (slotAt s s.cur).unit = some u) (hrel : releaseHolds (popped s y) s.cur = false) :
    exec (.tfail a t) s = leaves s (modSlot (niPost (popped s y) (coreOf s.cur) ⟨.ni (coreOf s.cur), lvlAgent s (myTower s) u.lid, 0, s.cur,
      (slotAt s s.cur).phase, .unitDone u.lid true (va.setWidth 32)⟩) s.cur
        fun x => { x.takeIf t a.toNat with unit := none, st := .waiting, traps := [] }) := by
  have hph : (slotAt (popped s y) (popped s y).cur).phase = (slotAt s s.cur).phase := by rw [popped_cur, slotAt_popped, Slot.prep_frame h]
  rw [exec_tfail h, endUnit_ends ((unit_popped h).trans hu) hrel, hph]
  rfl

theorem exec_tfail_waits (h : Reads s [a] none [va] y) (hu : (slotAt s s.cur).unit = some u) (hrel : releaseHolds (popped s y) s.cur = true) :
    exec (.tfail a t) s = waits s y := by
  rw [exec_tfail h, endUnit_holds ((unit_popped h).trans hu) hrel]
  exact waits_of_park rfl

theorem exec_tfail_none (h : Reads s [a] none [va] y) (hu : (slotAt s s.cur).unit = none) : exec (.tfail a t) s = traps s 0x36 0#64 := by
  rw [exec_tfail h, endUnit_none ((unit_popped h).trans hu)]
  exact traps_of_trap rfl

end

/-! Level and phase forms (R319, R321). -/

section
variable {s : State} {d a : GReg} {t : Bool} {va : Word} {y : Slot} {id : Nat}

theorem withId_record (hid : id = va.toNat % 2 ^ 32) (hok : idOk s (myTower s) id = true) (body : Nat → Res) :
    withId (popped s y) va body = body id := by
  have hid' : bitF va 0 32 = id := (bitF_zero va 32).trans hid.symm
  rw [withId, hid']
  exact if_pos hok

theorem withId_none (hid : id = va.toNat % 2 ^ 32) (hok : idOk s (myTower s) id = false) (body : Nat → Res) :
    withId (popped s y) va body = .trap 0x10 (nw id) := by
  have hid' : bitF va 0 32 = id := (bitF_zero va 32).trans hid.symm
  rw [withId, hid']
  exact if_neg (by rw [show idOk (popped s y) (slotTower (popped s y).cur) id = idOk s (myTower s) id from rfl, hok]; decide)

/-- With a free tag the request is sent behind the take of the operand (R106). -/
theorem sendRequest_asked {tag : Nat} (htag : freeTag (coreAt s (coreOf s.cur)) = some tag) (kind : ReqKind) (form : Option SyncForm)
    (agent : Agent) (b : Body) : sendRequest (took (popped s y) a t) s.cur d.toNat 8 false kind form agent b =
      some (asked (popped s y) d a t tag kind form agent b) := by
  have hcore : freeTag (coreAt (took (popped s y) a t) (coreOf s.cur)) = some tag := htag
  have hph : (slotAt (took (popped s y) a t) s.cur).phase = (slotAt (popped s y) s.cur).phase := by
    rw [took, popped_cur, slotAt_modSlot_self, takeIf_phase]
  simp only [sendRequest, hcore, hph]
  rfl

theorem popped_barEHolds (hbar : y.barEHolds = false) : ¬ (slotAt (popped s y) (popped s y).cur).barEHolds = true := by
  rw [popped_cur, slotAt_popped, hbar]
  decide

theorem isUser_popped (s : State) (y : Slot) : isUser (popped s y) = decide (y.mode = .user) := by
  rw [isUser, popped_cur, slotAt_popped]

theorem myAsid_popped (s : State) (y : Slot) : myAsid (popped s y) = y.asid := by
  rw [myAsid, popped_cur, slotAt_popped]

section
variable (h : Reads s [a] (some d) [va] y true) (hbar : y.barEHolds = false)
include h hbar

theorem exec_lvlcnt : exec (.lvlcnt d a t) s = endsAs s (withId (popped s y) va fun id =>
    match sendRequest (took (popped s y) a t) s.cur d.toNat 8 false .load none (lvlAgent s (myTower s) id)
        (.levelRead id (decide (y.mode = .user)) y.asid) with
    | some s2 => .done s2
    | none => .park (popped s y)) :=
  (next_withOps h _).trans (congrArg (endsAs s) ((if_neg (popped_barEHolds hbar)).trans (by rw [isUser_popped, myAsid_popped]; rfl)))

theorem levelWait_reads (f : SyncForm) : levelWait f d a t s = endsAs s (withId (popped s y) va fun id =>
    if 4 ≤ slotSyncs (coreAt s (coreOf s.cur)) s.cur then .park (popped s y)
    else match sendRequest (took (popped s y) a t) s.cur d.toNat 8 false .sync (some f) (lvlAgent s (myTower s) id)
        (.levelWait f id (decide (y.mode = .user)) y.asid) with
    | some s2 => .done s2
    | none => .park (popped s y)) :=
  (next_withOps h _).trans (congrArg (endsAs s) ((if_neg (popped_barEHolds hbar)).trans (by rw [isUser_popped, myAsid_popped]; rfl)))


section
variable (hid : id = va.toNat % 2 ^ 32) (hok : idOk s (myTower s) id = true) {tag : Nat} (htag : freeTag (coreAt s (coreOf s.cur)) = some tag)
include hid hok htag

theorem exec_lvlcnt_asks : exec (.lvlcnt d a t) s = completes s (asked (popped s y) d a t tag .load none (lvlAgent s (myTower s) id)
    (.levelRead id (decide (y.mode = .user)) y.asid)) := by
  rw [exec_lvlcnt h hbar, withId_record hid hok, sendRequest_asked htag]
  exact completes_of_done rfl

theorem levelWait_asks (f : SyncForm) (hfour : slotSyncs (coreAt s (coreOf s.cur)) s.cur < 4) :
    levelWait f d a t s = completes s (asked (popped s y) d a t tag .sync (some f) (lvlAgent s (myTower s) id)
      (.levelWait f id (decide (y.mode = .user)) y.asid)) := by
  rw [levelWait_reads h hbar, withId_record hid hok, if_neg (Nat.not_le.2 hfour), sendRequest_asked htag]
  exact completes_of_done rfl

end

theorem exec_levelForms_none (hid : id = va.toNat % 2 ^ 32) (hok : idOk s (myTower s) id = false) :
    exec (.lvlcnt d a t) s = traps s 0x10 (nw id) ∧ exec (.lvlwait d a t) s = traps s 0x10 (nw id) ∧
      exec (.phwait d a t) s = traps s 0x10 (nw id) := by
  refine ⟨(exec_lvlcnt h hbar).trans ?_, (levelWait_reads h hbar .lvlwait).trans ?_, (levelWait_reads h hbar .phwait).trans ?_⟩
  all_goals rw [withId_none hid hok]; exact traps_of_trap rfl

end

section
variable (h : Reads s [a] none [va] y)
include h

theorem exec_lvlcancel : exec (.lvlcancel a t) s = endsAs s (withId (popped s y) va fun id =>
    askOnce (popped s y) (lvlAgent s (myTower s) id) (.cancelSet id (decide (y.mode = .user)) y.asid) 8
      fun _ => .done (took (popped s y) a t)) :=
  (next_withOps h _).trans (congrArg (endsAs s) (by rw [isUser_popped, myAsid_popped]; rfl))

theorem exec_phclose : exec (.phclose a t) s = endsAs s (withId (popped s y) va fun id =>
    if y.trip.isNone ∧ releaseHolds (popped s y) s.cur then .park (popped s y)
    else askOnce (popped s y) (lvlAgent s (myTower s) id) (.phaseClose id (decide (y.mode = .user)) y.asid) 8
      fun ws => if val ws 0 ≠ 0#64 then .trap 0x37 va else .done (took (popped s y) a t)) := by
  have htrip : (slotAt (popped s y) (popped s y).cur).trip = y.trip := by rw [popped_cur, slotAt_popped]
  refine (next_withOps h _).trans (congrArg (endsAs s) ?_)
  rw [isUser_popped, myAsid_popped, htrip]
  rfl

end

theorem exec_phopen (h : Reads s [a] (some d) [va] y) (hbar : y.barEHolds = false) :
    exec (.phopen d a t) s = endsAs s (withId (popped s y) va fun id =>
      askOnce (popped s y) (lvlAgent s (myTower s) id) (.levelRead id (decide (y.mode = .user)) y.asid) 8 fun ws =>
        if lrKind ws ≠ 2 ∨ lrDone ws then .trap 0x37 va
        else .done (modSlot (popped s y) s.cur fun x => { (x.takeIf t a.toNat).writeDst d.toNat (nw (lrPh ws)) with phase := lrPh ws })) :=
  (next_withOps h _).trans (congrArg (endsAs s) ((if_neg (popped_barEHolds hbar)).trans (by rw [isUser_popped, myAsid_popped]; rfl)))

/-- The answer to `phopen` names an open phase. -/
theorem opensPhase_iff (v : Word) : ¬ (lrKind [v] ≠ 2 ∨ lrDone [v]) ↔ v.toNat / 2 ^ 50 % 4 = 2 ∧ v.getLsbD 49 = false := by
  have hkind : lrKind [v] = v.toNat / 2 ^ 50 % 4 := rfl
  have hdone : lrDone [v] = v.getLsbD 49 := rfl
  rw [hkind, hdone, not_or, not_not, Bool.not_eq_true]

end

/-- Settles O35. -/
theorem workForms : Obligations.WorkForms := by
  refine ⟨?_, ?_, ?_, ?_, ?_, ?_, ?_, ?_, ?_, ?_, ?_⟩
  · intro d a t s va y ws ws1 bs r u1 h hhas hj hrec hr
    subst hr
    rw [exec_launch h hhas hj hrec, launchGo, (launchBad_of_onlyKept hrec.1 _ _).trans (launchBad_popped s y _ _)]
    refine ⟨fun hbad => ?_, fun ws2 args u2 hbad hkept2 hargs => ⟨fun u3 hkept3 hplace => ?_, ?_⟩⟩
    · rw [if_pos hbad, completes_of_launchGive]
      rfl
    · rw [if_neg (by rw [hbad]; decide), hargs, hplace, completes_of_launchGive]
      rfl
    · intro ws3 place ws4 cxl u3 hkept3 hplace hlevels
      rw [if_neg (by rw [hbad]; decide), hargs, hplace]
      have hkept : OnlyKept (popped s y) u3 := onlyKept_trans (onlyKept_trans hrec.1 hkept2) hkept3
      refine ⟨endsAs_launchAsk_cancelled hlevels, fun v vs => endsAs_launchAsk_answered hlevels, fun hcxl hws => ?_⟩
      refine asks_of_launchAsk (t := t) h hkept hlevels hcxl hws ?_
      rw [exec_launch h hhas hj hrec, launchGo, (launchBad_of_onlyKept hrec.1 _ _).trans (launchBad_popped s y _ _), if_neg (by rw [hbad]; decide),
        hargs, hplace]
  · intro s hj htrip d a t va y h
    have htrip' : (slotAt (popped s y) (popped s y).cur).trip.isNone = true := by
      rw [popped_cur, slotAt_popped, Slot.prep_frame h, htrip]
      rfl
    have hstores : (!journalEmpty (popped s y) (popped s y).cur) = true := by rw [show journalEmpty (popped s y) (popped s y).cur = _ from hj]; rfl
    exact (next_withOps h _).trans (waits_of_park (if_pos ⟨htrip', hstores⟩))
  · exact fun s => ⟨exec_wfw_free, exec_wfw_busy⟩
  · exact fun s u hu hrel => congrArg (endsWith s) (endUnit_ends hu hrel false 0#32 id)
  · exact fun s u hu hrel => congrArg (endsWith s) (endUnit_holds hu hrel false 0#32 id)
  · exact fun s hu => congrArg (endsWith s) (endUnit_none hu false 0#32 id)
  · exact fun a t s va y h => ⟨fun u hu hrel => exec_tfail_ends h hu hrel, fun u hu hrel => exec_tfail_waits h hu hrel, exec_tfail_none h⟩
  · exact fun d a t s va y id tag h hbar hid hok htag => ⟨exec_lvlcnt_asks h hbar hid hok htag, fun hfour =>
      ⟨levelWait_asks h hbar hid hok htag .lvlwait hfour, levelWait_asks h hbar hid hok htag .phwait hfour⟩⟩
  · exact fun d a t s va y id h hbar hid hok => exec_levelForms_none h hbar hid hok
  · intro a t s va y id h hid
    refine ⟨fun hok => ⟨?_, ?_⟩, fun hok => ?_⟩
    · rw [exec_lvlcancel h, withId_none hid hok]
      exact traps_of_trap rfl
    · rw [exec_phclose h, withId_none hid hok]
      exact traps_of_trap rfl
    · have hcancel := exec_lvlcancel (t := t) h
      have hclose := exec_phclose (t := t) h
      rw [withId_record hid hok] at hcancel hclose
      refine ⟨fun htrip => asks_of_askOnce h (.inl ⟨htrip, rfl⟩) hcancel, fun v vs hans => ?_, fun htrip hrel => ?_, fun htrip hrel => ?_,
        fun vs hans => ?_, fun v vs hans hv => ?_⟩
      · rw [hcancel, askOnce_answered (Nat.le_refl 8) hans]
        exact completes_of_done rfl
      · rw [if_neg (by simp [hrel])] at hclose
        exact asks_of_askOnce h (.inl ⟨htrip, rfl⟩) hclose
      · rw [hclose, if_pos (by simp [htrip, hrel])]
        exact waits_of_park rfl
      · have htrip := trip_isNone_of_answered hans
        rw [hclose, if_neg (by simp [htrip]), askOnce_answered (Nat.le_refl 8) hans]
        exact completes_of_done rfl
      · have htrip := trip_isNone_of_answered hans
        rw [hclose, if_neg (by simp [htrip]), askOnce_answered (Nat.le_refl 8) hans]
        exact traps_of_trap (if_pos hv)
  · intro d a t s va y id h hbar hid
    refine ⟨fun hok => ?_, fun hok => ?_⟩
    · rw [exec_phopen h hbar, withId_none hid hok]
      exact traps_of_trap rfl
    · have hopen := exec_phopen (t := t) h hbar
      rw [withId_record hid hok] at hopen
      refine ⟨fun htrip => asks_of_askOnce h (.inl ⟨htrip, rfl⟩) hopen, fun v vs hans => ⟨fun hkind hdone => ?_, fun hno => ?_⟩⟩
      · rw [hopen, askOnce_answered (Nat.le_refl 8) hans, if_neg ((opensPhase_iff v).2 ⟨hkind, hdone⟩)]
        exact completes_of_done rfl
      · rw [hopen, askOnce_answered (Nat.le_refl 8) hans, if_pos (not_not.1 (mt (opensPhase_iff v).1 hno))]
        exact traps_of_trap rfl

end Sys2Proof.Machine
end

section
/-! Level waits, cancels, phases and waves (R319 to R322). -/

namespace Sys2Proof.Machine

open Sys2Proof.Claims

/-! What an access to a line leaves of the phases that wait for their waves: the SC works on tags, entries, shadows and memory. -/

section
variable (w : Tower)

@[simp] theorem waves_setTag (line : Nat) (g : Option Tag) : (setTag w line g).waves = w.waves := rfl
@[simp] theorem waves_setEntry (p : Nat) (e : DEntry) : (setEntry w p e).waves = w.waves := rfl
@[simp] theorem waves_setCreg (n : Nat) (v : Word) : (w.setCreg n v).waves = w.waves := rfl
@[simp] theorem waves_dropCand (p : Nat) : (dropCand w p).waves = w.waves := rfl
@[simp] theorem waves_newEntry (bs : List Byte) : (newEntry w bs).2.waves = w.waves := rfl
@[simp] theorem waves_dropShadow (h : Shadow) : (dropShadow w h).waves = w.waves := rfl

@[simp] theorem waves_dropRef (p : Nat) : (dropRef w p).waves = w.waves := by
  simp only [dropRef]
  split <;> rfl

@[simp] theorem waves_addRef (p : Nat) : (addRef w p).waves = w.waves := by
  simp only [addRef]
  split <;> rfl

@[simp] theorem waves_freeShadow (h : Shadow) : (freeShadow w h).waves = w.waves := by
  unfold freeShadow
  split <;> simp

@[simp] theorem waves_setLvl (line lvl : Nat) : (setLvl w line lvl).waves = w.waves := by
  unfold setLvl
  split <;> rfl

@[simp] theorem waves_offer (line : Nat) : (offer w line).waves = w.waves := by
  unfold offer
  split
  · rfl
  · dsimp only
    split
    · rfl
    · split
      · simp
      · split <;> rfl

end

/-- The phases of tower `t` that wait for their waves. -/
def wavesAt (t : Nat) (s : State) : List Wave := (towerAt s t).waves

section
variable (t : Nat)

theorem wavesAt_setTower (s : State) (j : Nat) (x : Tower) (h : x.waves = (towerAt s j).waves) : wavesAt t (setTower s j x) = wavesAt t s := by
  unfold wavesAt
  by_cases hj : t = j
  · rw [hj, towerAt_setTower_self, h]
  · rw [towerAt_setTower_ne _ _ hj]

theorem wavesAt_modTower (s : State) (j : Nat) (f : Tower → Tower) (h : ∀ w, (f w).waves = w.waves) : wavesAt t (modTower s j f) = wavesAt t s :=
  wavesAt_setTower t s j _ (h _)

theorem towerAt_storeLine (s : State) (line : Nat) (bs : List Byte) (pois : Nat) (c : Bool) :
    towerAt (storeLine s line bs pois c) t = towerAt s t := by
  unfold storeLine
  extract_lets s1 p s2
  have h1 : towerAt s1 t = towerAt s t := rfl
  have h2 : towerAt s2 t = towerAt s t := rfl
  clear_value s1 s2
  split
  · exact h1
  · split
    · exact h1
    · split
      · exact h2
      · exact h2

theorem wavesAt_storeLine (s : State) (line : Nat) (bs : List Byte) (pois : Nat) (c : Bool) :
    wavesAt t (storeLine s line bs pois c) = wavesAt t s :=
  congrArg Tower.waves (towerAt_storeLine t s line bs pois c)

theorem wavesAt_dropLine (s : State) (line : Nat) : wavesAt t (dropLine s line) = wavesAt t s :=
  wavesAt_modTower t s _ _ fun w => by split <;> simp

theorem wavesAt_writeBack (s : State) (line : Nat) : wavesAt t (writeBack s line) = wavesAt t s := by
  simp only [writeBack]
  split
  · rfl
  · split
    · exact (wavesAt_modTower t _ _ _ fun w => by simp).trans (wavesAt_storeLine ..)
    · rfl

theorem wavesAt_evictLine (s : State) (line : Nat) : wavesAt t (evictLine s line) = wavesAt t s :=
  (wavesAt_dropLine t _ line).trans (wavesAt_writeBack t s line)

theorem wavesAt_spillShadow (s : State) (j : Nat) (h : Shadow) : wavesAt t (spillShadow s j h) = wavesAt t s := by
  unfold spillShadow
  split
  · rfl
  · exact wavesAt_modTower t _ _ _ fun w => by simp

theorem wavesAt_roomFor (s : State) (j line : Nat) (entry tag : Bool) : wavesAt t (roomFor s j line entry tag) = wavesAt t s := by
  refine (keeps_foldl (g := wavesAt t) (fun u h => ?_) _ _).trans (keeps_foldl (g := wavesAt t) (fun u l => ?_) _ s)
  · split
    · exact wavesAt_spillShadow t u j h
    · rfl
  · split
    · exact wavesAt_evictLine t u l
    · rfl

theorem wavesAt_relabel (s : State) (j : Nat) (h : Shadow) (l : Nat) : wavesAt t (relabel s j h l) = wavesAt t s := by
  refine Eq.trans (wavesAt_modTower t _ j _ ?_) ?_
  · exact fun w => rfl
  · split <;> rfl

theorem wavesAt_acceptLine (s : State) (j line n l : Nat) : wavesAt t (acceptLine s j line n l) = wavesAt t s := by
  unfold acceptLine
  split
  · rfl
  · split
    · exact wavesAt_modTower t _ _ _ fun w => by simp
    · exact (wavesAt_modTower t _ _ _ fun w => by simp).trans (wavesAt_relabel ..)

theorem wavesAt_rejectLine (s : State) (j line n l : Nat) : wavesAt t (rejectLine s j line n l) = wavesAt t s := by
  unfold rejectLine
  split
  · rfl
  · next h _ =>
    have hroom : wavesAt t (if h.ptr.isNone then roomFor s j line true (tagAt (towerAt s j) line).isNone else s) = wavesAt t s := by
      split
      · exact wavesAt_roomFor ..
      · rfl
    refine Eq.trans ?_ hroom
    generalize (if h.ptr.isNone then roomFor s j line true (tagAt (towerAt s j) line).isNone else s) = u
    cases h.ptr <;> (dsimp only; split <;> exact wavesAt_setTower t _ _ _ (by simp))

theorem wavesAt_serveLevels (s : State) (line : Nat) : wavesAt t (serveLevels s line) = wavesAt t s := by
  refine keeps_foldl (g := wavesAt t) (fun u e => ?_) _ s
  refine (keeps_foldl (g := wavesAt t) (fun v x => ?_) _ _).trans (wavesAt_setTower t u _ _ rfl)
  split <;> rfl

theorem wavesAt_resolveLine (s : State) (j line : Nat) : wavesAt t (resolveLine s j line) = wavesAt t s := by
  refine Eq.trans (wavesAt_modTower t _ j _ ?_) (keeps_foldl (g := wavesAt t) (fun u o => ?_) _ s)
  · exact fun w => rfl
  unfold resolveOne
  split
  · split
    · exact (wavesAt_serveLevels ..).trans (wavesAt_rejectLine ..)
    · exact wavesAt_acceptLine ..
  · rfl

theorem wavesAt_makeRoom (s : State) (line : Nat) : wavesAt t (makeRoom s line) = wavesAt t s := by
  unfold makeRoom
  split
  · rfl
  · exact wavesAt_roomFor ..

theorem wavesAt_fillLine (s : State) (line : Nat) (acc : Acc) : wavesAt t (fillLine s line acc) = wavesAt t s :=
  wavesAt_modTower t s _ _ fun w => by
    split
    · rfl
    · simp

theorem wavesAt_touchLine (s : State) (line : Nat) (acc : Acc) : wavesAt t (touchLine s line acc) = wavesAt t s :=
  (wavesAt_fillLine ..).trans ((wavesAt_makeRoom ..).trans (wavesAt_resolveLine ..))

theorem wavesAt_recRead (s : State) (j id : Nat) : wavesAt t (recRead s j id).1 = wavesAt t s := wavesAt_touchLine ..

end

/-! Level waits (R319, R320). -/

/-- Setting a bit of a word. -/
theorem setB_true (w : Word) (n : Nat) (h : n < 64) : setB w n true = w ||| 1#64 <<< n := by
  refine BitVec.eq_of_getLsbD_eq fun i hi => ?_
  simp only [setB, getLsbD_setF w n 1 _ hi, BitVec.getLsbD_or, BitVec.getLsbD_shiftLeft, BitVec.getLsbD_one]
  by_cases hin : i = n
  · subst hin
    simp [hi]
  · have hno : ¬ (n ≤ i ∧ i < n + 1) := by omega
    have hoff : ¬ i < n → i - n ≠ 0 := by omega
    rw [if_neg hno]
    by_cases hlt : i < n <;> simp [hlt, hi, hoff]

section
variable {i : Nat} {s u : State} {m : Msg} {id asid t : Nat} {user : Bool} {r : List Word} (harr : arrives s i = some m) (ht : t = agentTower m.dst)
  (hread : recRead (dropMsg s i) t id = (u, r, 0)) (hasid : asidBad r user asid = false)
include harr ht hread hasid

/-- What a bank does with a level wait whose record may be read. -/
theorem exec_levelWaitRequest {f : SyncForm} (hbody : m.body = .levelWait f id user asid) (hphase : f = .phwait → lrKind r = 2) :
    exec (.levelWaitRequest i) s = if lrDone r then .next (sendMsg u (replyTo m (.syncReply (.value (wordLE 8 (val r 0))))))
      else if bankWaiters (towerAt u t) u t (lvlPa u t id / 64) < 16 then .next (modTower u t fun w => { w with lvlw := w.lvlw ++ [⟨id, m⟩] })
      else .next (sendMsg u (replyTo m .syncRetry)) := by
  have hkind : ¬ (f = .phwait ∧ lrKind r ≠ 2) := fun ⟨hf, hk⟩ => hk (hphase hf)
  have hreply : levelReply f id user asid r = .value (wordLE 8 (val r 0)) := by
    rw [levelReply, if_neg (by simp [hasid]), if_neg hkind]
  subst ht
  change execLevelWaitRequest i s = _
  simp only [execLevelWaitRequest, harr, hbody, hread, hasid, hkind, hreply, ne_eq, not_true_eq_false, Bool.false_eq_true, false_or, if_false]

/-- A member closes a phase that others have still to close. -/
theorem exec_phaseCloseRequest (hbody : m.body = .phaseClose id user asid) (hkind : lrKind r = 2) (hpart : 1 < lrPart r) (hdone : lrDone r = false) :
    exec (.phaseCloseRequest i) s = .next (sendMsg (recWrite u t id (setD r 3 (setF (val r 3) 0 20 (lrPart r - 1))))
      (replyTo m (.loadReply (.value (natLE 8 0))))) := by
  have h0 : lrPart r ≠ 0 := by omega
  have h1 : lrPart r ≠ 1 := by omega
  subst ht
  change execPhaseCloseRequest i s = _
  simp only [execPhaseCloseRequest, harr, hbody, hread, hasid, hkind, hdone, h0, h1, ne_eq, not_true_eq_false, Bool.false_eq_true, or_self, if_false]

end

/-! Cancels (R319). -/

/-- The distributions of a cancelled level are marked. -/
def markDists (s : State) (id : Nat) : State :=
  (rangeFrom 0 8).foldl (fun s t => modTower s t fun w =>
    { w with dist := w.dist.map fun d => if luMatches d.launch id then { d with cxl := true } else d }) s

/-- The agents that a cancel is broadcast to. -/
def cancelDsts : List Agent := ((rangeFrom 0 1280).map Agent.dispenser) ++ (rangeFrom 0 8).map Agent.tower

/-- The broadcast of a cancel, whose issuer's request counts the acknowledgements. -/
def broadcast (s : State) (m : Msg) (core id : Nat) : State :=
  cancelDsts.foldl (fun s d => sendMsg s ⟨m.src, d, m.tag, m.who, m.ph, .cancelDrop id⟩)
    (modCore s core fun c => setReq c m.tag ((reqAt c m.tag).map fun r => { r with tries := cancelDsts.length }))

theorem markDists_mem (s : State) (id : Nat) : (markDists s id).mem = s.mem :=
  List.foldlRecOn (motive := fun u : State => u.mem = s.mem) _ _ rfl fun _ hu _ _ => hu

theorem towerAt_markDists (s : State) (id c : Nat) : (towerAt (markDists s id) c).tags = (towerAt s c).tags ∧
    (towerAt (markDists s id) c).entries = (towerAt s c).entries := by
  refine List.foldlRecOn (motive := fun u => (towerAt u c).tags = (towerAt s c).tags ∧ (towerAt u c).entries = (towerAt s c).entries) _ _
    ⟨rfl, rfl⟩ fun u hu t _ => ?_
  by_cases h : c = t
  · subst h
    rw [towerAt_modTower_self]
    exact hu
  · rw [towerAt_modTower_ne _ _ h]
    exact hu

theorem keeps_broadcast {α : Type} {g : State → α} (hg : ∀ s cores net touch, g { s with cores := cores, net := net, touch := touch } = g s)
    (s : State) (m : Msg) (core id : Nat) : g (broadcast s m core id) = g s :=
  (keeps_foldl (fun u _ => keeps_sendMsg hg u _) _ _).trans (keeps_modCore hg s core _)

/-- A broadcast reaches every agent that it names. -/
theorem net_broadcast {d : Agent} (hd : d ∈ cancelDsts) (s : State) (m : Msg) (core id : Nat) :
    ∃ n ∈ (broadcast s m core id).net, n.dst = d ∧ n.body = .cancelDrop id := by
  have hsend (ds : List Agent) (u : State) (f : Agent → Msg) (h : d ∈ ds ∨ f d ∈ u.net) : f d ∈ (ds.foldl (fun s d => sendMsg s (f d)) u).net := by
    induction ds generalizing u with
    | nil => exact h.resolve_left (List.not_mem_nil)
    | cons e ds ih =>
      refine ih _ ?_
      rcases h with h | h
      · rcases List.mem_cons.1 h with rfl | h
        · exact .inr (List.mem_append_right _ (List.mem_singleton_self _))
        · exact .inl h
      · exact .inr (List.mem_append_left _ h)
  exact ⟨_, hsend cancelDsts _ (fun d => ⟨m.src, d, m.tag, m.who, m.ph, .cancelDrop id⟩) (.inl hd), rfl, rfl⟩

theorem setCxl_eq {s u : State} {t id p : Nat} {r : List Word} (h : recRead s t id = (u, r, p)) :
    setCxl s t id = recWrite u t id (setD r 0 (val r 0 ||| 1#64 <<< 48)) := by
  simp only [setCxl, h, setB_true (val r 0) 48 (by decide)]

theorem exec_levelCancelDrop_sets {i : Nat} {s u : State} {m : Msg} {id asid t core : Nat} {user : Bool} {r : List Word}
    (harr : arrives s i = some m) (hbody : m.body = .cancelSet id user asid) (ht : t = agentTower m.dst)
    (hread : recRead (dropMsg s i) t id = (u, r, 0)) (hasid : asidBad r user asid = false) (hsrc : m.src = .ni core) :
    exec (.levelCancelDrop i) s = .next (broadcast (markDists (setCxl u t id) id) m core id) := by
  subst ht
  change execLevelCancelDrop i s = _
  simp only [execLevelCancelDrop, harr, hbody, hread, hasid, hsrc, Bool.false_eq_true, if_false]
  rw [broadcast, hsrc]
  rfl

/-! Waves (R121, R322). -/

/-- The wave of a phase found every counter zero, with its TOUCH bit clear. -/
def waveZero (s : State) (ph : Nat) : Bool := !s.touch.getLsbD ph && (rangeFrom 0 8).all fun t => decide (phaseCount s t ph = 0)

/-- The counters of a phase show what they hold. -/
def waveShown (s : State) (ph : Nat) : State :=
  (rangeFrom 0 8).foldl (fun u t => modTower u t fun w =>
    w.setCreg (0x380 + ph) (nw (phaseCount u t ph % 2 ^ 32 + (if waveZero s ph then 2 ^ 63 else 0)))) s

/-- The TOUCH bit of a phase is cleared behind its wave. -/
def waveSeen (s : State) (ph : Nat) : State :=
  { waveShown s ph with touch := (waveShown s ph).touch &&& ~~~(1#4 <<< ph), free := (waveShown s ph).free + (waveShown s ph).net.length }

theorem wavesAt_waveShown (t : Nat) (s : State) (ph : Nat) : wavesAt t (waveShown s ph) = wavesAt t s := by
  unfold waveShown
  refine List.foldlRecOn (motive := fun u => wavesAt t u = wavesAt t s) _ _ rfl fun u hu j _ => ?_
  rw [wavesAt_modTower, hu]
  exact fun w => rfl

theorem wavesAt_touch_free (t : Nat) (s : State) (b : BitVec 4) (n : Nat) : wavesAt t { s with touch := b, free := n } = wavesAt t s := rfl

theorem wavesAt_waveSeen (t : Nat) (s : State) (ph : Nat) : wavesAt t (waveSeen s ph) = wavesAt t s := by
  rw [waveSeen, wavesAt_touch_free, wavesAt_waveShown]

section
variable {s : State} {id : Nat} {w : Wave} (hwave : (towerAt s (lvlHome s 0 id)).waves.find? (fun w => decide (w.id = id)) = some w)
  (hdue : w.due ≤ s.time)
include hwave hdue

theorem exec_phaseWave {v : State} {r : List Word} {p : Nat} (hread : recRead s (lvlHome s 0 id) id = (v, r, p)) : exec (.phaseWave id) s =
    if waveZero v (lrPh r) then .next (lvlComplete (modTower (waveSeen v (lrPh r)) (lvlHome s 0 id) fun x =>
        { x with waves := x.waves.filter fun y => decide (y.id ≠ id) }) (lvlHome s 0 id) id)
      else .next (modTower (waveSeen v (lrPh r)) (lvlHome s 0 id) fun x =>
        { x with waves := x.waves.map fun y => if y.id = id then { y with due := w.due + 1024 } else y }) := by
  change execPhaseWave id s = _
  simp only [execPhaseWave, hwave, hread, if_neg (Nat.not_lt.2 hdue)]
  rfl

end

theorem waveZero_iff (s : State) (ph : Nat) : waveZero s ph = true ↔ s.touch.getLsbD ph = false ∧ ∀ t ∈ rangeFrom 0 8, phaseCount s t ph = 0 := by
  simp [waveZero]

/-- Settles O37. -/
theorem levelEvents : Obligations.LevelEvents := by
  refine ⟨?_, ?_, ?_, ?_, ?_, ?_⟩
  · intro i s m f id user asid t u r harr hbody ht hread hasid hphase
    rw [exec_levelWaitRequest harr ht hread hasid hbody hphase]
    refine ⟨fun hdone => by rw [if_pos hdone], fun hdone hroom => ?_, fun hdone hfull => ?_⟩
    · rw [if_neg (by simp [hdone]), if_pos hroom]
    · rw [if_neg (by simp [hdone]), if_neg (Nat.not_lt.2 hfull)]
  · exact fun i s m id user asid t u r harr hbody ht hread hasid hkind hpart hdone =>
      exec_phaseCloseRequest harr ht hread hasid hbody hkind hpart hdone
  · rintro i s m id user asid t u r harr hbody ht hread hasid ⟨core, hsrc⟩
    have hmem (z : State) : (broadcast (markDists z id) m core id).mem = z.mem :=
      (keeps_broadcast (g := State.mem) (fun _ _ _ _ => rfl) ..).trans (markDists_mem ..)
    have htower (z : State) (c : Nat) : towerAt (broadcast (markDists z id) m core id) c = towerAt (markDists z id) c :=
      keeps_broadcast (g := fun z => towerAt z c) (fun _ _ _ _ => rfl) ..
    generalize hread' : recRead u t id = q
    obtain ⟨u2, r2, p2⟩ := q
    refine ⟨_, u2, r2, p2, setCxl u t id, exec_levelCancelDrop_sets harr hbody ht hread hasid hsrc, rfl, setCxl_eq hread', hmem _,
      fun c => ?_, fun c hc => ?_, fun c hc => ?_⟩
    · rw [htower]
      exact towerAt_markDists ..
    · exact net_broadcast (List.mem_append_left _ (List.mem_map_of_mem (mem_rangeFrom.2 ⟨Nat.zero_le c, by omega⟩))) ..
    · exact net_broadcast (List.mem_append_right _ (List.mem_map_of_mem (mem_rangeFrom.2 ⟨Nat.zero_le c, by omega⟩))) ..
  · intro i s m id cl harr hbody hdst
    change execLevelCancelDrop i s = _
    simp only [execLevelCancelDrop, harr, hbody, hdst]
  · intro i s m core harr hbody hdst
    change execLevelCancelDrop i s = _
    simp only [execLevelCancelDrop, harr, hbody, hdst]
  · intro id s w hwave hdue
    generalize hread : recRead s (lvlHome s 0 id) id = q
    obtain ⟨v, r, p⟩ := q
    have hwaves : (towerAt (waveSeen v (lrPh r)) (lvlHome s 0 id)).waves = (towerAt s (lvlHome s 0 id)).waves := by
      refine (wavesAt_waveSeen (lvlHome s 0 id) v (lrPh r)).trans ?_
      have := wavesAt_recRead (lvlHome s 0 id) s (lvlHome s 0 id) id
      rwa [hread] at this
    rw [exec_phaseWave hwave hdue hread]
    by_cases hzero : waveZero v (lrPh r) = true
    · rw [if_pos hzero]
      obtain ⟨htouch, hcount⟩ := (waveZero_iff _ _).1 hzero
      refine ⟨_, rfl, fun hbusy => ?_, fun _ _ => ⟨_, rfl, fun x hx => ?_⟩⟩
      · rcases hbusy with hbusy | ⟨t, ht, hne⟩
        · exact absurd (htouch.symm.trans hbusy) (by decide)
        · exact absurd (hcount t ht) hne
      · rw [towerAt_modTower_self] at hx
        simpa using (List.mem_filter.1 hx).2
    · rw [if_neg hzero]
      refine ⟨_, rfl, fun _ => ⟨⟨{ w with due := w.due + 1024 }, ?_, ?_, rfl⟩, fun x hx hid => ?_⟩, fun htouch hcount => ?_⟩
      · rw [towerAt_modTower_self, hwaves]
        exact List.mem_map.2 ⟨w, List.mem_of_find?_eq_some hwave, if_pos (by simpa using List.find?_some hwave)⟩
      · simpa using List.find?_some hwave
      · rw [towerAt_modTower_self] at hx
        obtain ⟨x', -, rfl⟩ := List.mem_map.1 hx
        by_cases hx' : x'.id = id
        · rw [if_pos hx']
        · rw [if_neg hx'] at hid
          exact absurd hid hx'
      · exact absurd ((waveZero_iff _ _).2 ⟨htouch, hcount⟩) hzero

end Sys2Proof.Machine
end

section
/-! A launch from its home to a slot (R311, R314 to R318). -/

namespace Sys2Proof.Machine

open Sys2Proof.Claims

/-! The record that a launch's home writes (R310, R314). -/

theorem bitF_lt (w : Word) (lo n : Nat) : bitF w lo n < 2 ^ n := Nat.mod_lt _ (Nat.two_pow_pos n)

/-- The record of a launch with `pred` predecessors left. -/
def launchRec (l : LaunchMsg) (pred : Int) : List Word :=
  [nw (luUnits l + luPh l * 2 ^ 52), nw (luGraph l + wrapInt 32 pred * 2 ^ 32), val l.record 6, nw (l.asid * 2 ^ 20 + noId * 2 ^ 32)]

theorem toNat_launchRec_zero (l : LaunchMsg) (pred : Int) : (val (launchRec l pred) 0).toNat = luUnits l + luPh l * 2 ^ 52 := by
  have hunits := bitF_lt (val l.record 1) 0 32
  have hph := bitF_lt (val l.record 0) 46 2
  refine nw_toNat_of_lt ?_
  simp only [luUnits, luPh]
  omega

theorem lrPend_launchRec (l : LaunchMsg) (pred : Int) : lrPend (launchRec l pred) = luUnits l := by
  have hunits : luUnits l < 2 ^ 32 := bitF_lt (val l.record 1) 0 32
  rw [lrPend, bitF_zero, toNat_launchRec_zero]
  omega

theorem lrFlags_launchRec (l : LaunchMsg) (pred : Int) : lrDone (launchRec l pred) = false ∧ lrCxl (launchRec l pred) = false := by
  have hunits : luUnits l < 2 ^ 32 := bitF_lt (val l.record 1) 0 32
  constructor
  · rw [lrDone, bitB, BitVec.getLsbD, toNat_launchRec_zero, Nat.testBit_eq_decide_div_mod_eq]
    exact decide_eq_false (by omega)
  · rw [lrCxl, bitB, BitVec.getLsbD, toNat_launchRec_zero, Nat.testBit_eq_decide_div_mod_eq]
    exact decide_eq_false (by omega)

theorem wrapInt_lt (n : Nat) (i : Int) : wrapInt n i < 2 ^ n := by
  have hpos : (0 : Int) < (2 ^ n : Nat) := by exact_mod_cast Nat.two_pow_pos n
  have := Int.emod_lt_of_pos i hpos
  have := Int.emod_nonneg i (Int.ne_of_gt hpos)
  unfold wrapInt
  omega

theorem lrPred_launchRec (l : LaunchMsg) {pred : Int} (hpos : 0 < pred) (hlt : pred < 2 ^ 31) : lrPred (launchRec l pred) = pred := by
  have hgraph : luGraph l < 2 ^ 32 := bitF_lt (val l.record 4) 0 32
  have hwrap : wrapInt 32 pred = pred.toNat := by
    unfold wrapInt
    omega
  have hword : (val (launchRec l pred) 1).toNat = luGraph l + pred.toNat * 2 ^ 32 := by
    refine (nw_toNat_of_lt (n := luGraph l + wrapInt 32 pred * 2 ^ 32) ?_).trans (by rw [hwrap])
    omega
  have hfield : bitF (val (launchRec l pred) 1) 32 32 = pred.toNat := by
    rw [bitF, hword]
    omega
  rw [lrPred, hfield, sxNat]
  split <;> omega

/-! The launch's home (R314). -/

section
variable {i : Nat} {s u : State} {m : Msg} {l : LaunchMsg} {sl : Option Nat} {t p : Nat} {r : List Word} (harr : arrives s i = some m)
  (hbody : m.body = .launchReq l sl) (ht : t = agentTower m.dst) (hread : recRead (dropMsg s i) t (luLid l) = (u, r, p))
include harr hbody ht hread

theorem exec_launchRequest : exec (.launchRequest i) s =
    if lrCxl r then .next (sendMsg u (replyTo m (.launchReply 6)))
    else if lrPend r ≠ 0 ∧ !lrDone r then .next (sendMsg u (replyTo m (.launchReply 4)))
    else if lrPred r + (luPred l : Int) > 0 ∧ 64 ≤ (towerAt u t).holdq.length then .next (sendMsg u (replyTo m (.launchReply 5)))
    else if lrPred r + (luPred l : Int) > 0 then
      .next (sendMsg (modTower (recWrite u t (luLid l) (launchRec l (lrPred r + (luPred l : Int)))) t fun w => { w with holdq := w.holdq ++ [l] })
        (replyTo m (.launchReply 1)))
    else .next (distribute (recWrite u t (luLid l) (launchRec l (lrPred r + (luPred l : Int)))) t l
      (some { m with body := .launchReq { l with place := none } sl })) := by
  subst ht
  change execLaunchRequest i s = _
  simp only [execLaunchRequest, harr, hbody, hread]
  rfl

theorem exec_launchRequest_cancelled (hcxl : lrCxl r = true) : exec (.launchRequest i) s = .next (sendMsg u (replyTo m (.launchReply 6))) := by
  rw [exec_launchRequest harr hbody ht hread, if_pos hcxl]

variable (hcxl : lrCxl r = false)
include hcxl

theorem exec_launchRequest_live (hpend : lrPend r ≠ 0) (hdone : lrDone r = false) :
    exec (.launchRequest i) s = .next (sendMsg u (replyTo m (.launchReply 4))) := by
  rw [exec_launchRequest harr hbody ht hread, if_neg (by simp [hcxl]), if_pos ⟨hpend, by simp [hdone]⟩]

variable (hold : lrPend r = 0 ∨ lrDone r = true)
include hold

theorem exec_launchRequest_distributes (hpred : lrPred r + (luPred l : Int) ≤ 0) : exec (.launchRequest i) s =
    .next (distribute (recWrite u t (luLid l) (launchRec l (lrPred r + (luPred l : Int)))) t l
      (some { m with body := .launchReq { l with place := none } sl })) := by
  have hlive : ¬ (lrPend r ≠ 0 ∧ (!lrDone r) = true) := by
    rintro ⟨hp, hd⟩
    exact hold.elim hp fun h => by simp [h] at hd
  rw [exec_launchRequest harr hbody ht hread, if_neg (by simp [hcxl]), if_neg hlive, if_neg (by omega), if_neg (by omega)]

theorem exec_launchRequest_full (hpred : 0 < lrPred r + (luPred l : Int)) (hfull : 64 ≤ (towerAt u t).holdq.length) :
    exec (.launchRequest i) s = .next (sendMsg u (replyTo m (.launchReply 5))) := by
  have hlive : ¬ (lrPend r ≠ 0 ∧ (!lrDone r) = true) := by
    rintro ⟨hp, hd⟩
    exact hold.elim hp fun h => by simp [h] at hd
  rw [exec_launchRequest harr hbody ht hread, if_neg (by simp [hcxl]), if_neg hlive, if_pos ⟨hpred, hfull⟩]

theorem exec_launchRequest_holds (hpred : 0 < lrPred r + (luPred l : Int)) (hroom : (towerAt u t).holdq.length < 64) :
    exec (.launchRequest i) s = .next (sendMsg (modTower (recWrite u t (luLid l) (launchRec l (lrPred r + (luPred l : Int)))) t fun w =>
      { w with holdq := w.holdq ++ [l] }) (replyTo m (.launchReply 1))) := by
  have hlive : ¬ (lrPend r ≠ 0 ∧ (!lrDone r) = true) := by
    rintro ⟨hp, hd⟩
    exact hold.elim hp fun h => by simp [h] at hd
  rw [exec_launchRequest harr hbody ht hread, if_neg (by simp [hcxl]), if_neg hlive, if_neg (by omega), if_pos hpred]

end

/-! Completions (R311, R318). -/

theorem setF_high_eq (w : Word) : setF w 32 32 0 = (w.setWidth 32).setWidth 64 := by
  refine BitVec.eq_of_getLsbD_eq fun i hi => ?_
  rw [getLsbD_setF w 32 32 0 hi, BitVec.getLsbD_setWidth, BitVec.getLsbD_setWidth]
  split
  · next h => simp [Nat.not_lt.2 h.1]
  · next h => simp [show i < 32 by omega, hi]

theorem exec_unitCompletion_pred {i : Nat} {s u v : State} {m : Msg} {id t p : Nat} {r : List Word} {l : LaunchMsg} (harr : arrives s i = some m)
    (hbody : m.body = .predDone id) (ht : t = agentTower m.dst) (hread : recRead (dropMsg s i) t id = (u, r, p)) (hpred : lrPred r = 1)
    (hv : v = recWrite u t id (setD r 1 (((val r 1).setWidth 32).setWidth 64)))
    (hheld : (towerAt v t).holdq.find? (fun l => decide (luLid l = id)) = some l) :
    exec (.unitCompletion i) s = .next (distribute (modTower v t fun w => { w with holdq := w.holdq.filter fun x => decide (luLid x ≠ id) }) t l none) := by
  have hrec : setF (val r 1) 32 32 (wrapInt 32 (1 - 1)) = ((val r 1).setWidth 32).setWidth 64 := setF_high_eq (val r 1)
  subst ht
  change execUnitCompletion i s = _
  simp only [execUnitCompletion, harr, hbody, predDoneAt, hread, hrec, ← hv, hheld, hpred, if_true]

section
variable {s u : State} {t id p : Nat} {r : List Word}

theorem length_dwords (n : Nat) (bs : List Byte) : (dwords n bs).length = n := by
  induction n generalizing bs with
  | zero => rfl
  | succ n ih => rw [dwords, List.length_cons, ih]

theorem length_recRead (h : recRead s t id = (u, r, p)) : r.length = 4 := by
  have : r = (recRead s t id).2.1 := by rw [h]
  rw [this]
  exact length_dwords 4 _

theorem val_setD_self {i : Nat} {r : List Word} (h : i < r.length) (w : Word) : val (setD r i w) i = w := by
  simp [val, setD, List.getD, h]

theorem val_setD_ne {i j : Nat} (r : List Word) (h : i ≠ j) (w : Word) : val (setD r i w) j = val r j := by
  simp [val, setD, List.getD, h]

/-- One completion lowers PEND by one. -/
theorem lrPend_lrChild {r : List Word} (hr : 0 < r.length) (failed : Bool) : lrPend (lrChild r failed) = lrPend r - 1 := by
  have hlt : lrPend r - 1 < 2 ^ 32 := Nat.lt_of_le_of_lt (Nat.sub_le _ _) (bitF_lt (val r 0) 0 32)
  have hfield : bitF (setF (val r 0) 0 32 (lrPend r - 1)) 0 32 = lrPend r - 1 := by
    rw [bitF_setF_self _ _ (by omega), Nat.mod_eq_of_lt hlt]
  rw [lrPend, lrChild, val_setD_self hr]
  split
  · exact (bitF_setF_beside _ _ (by omega) (.inl (by omega))).trans hfield
  · exact hfield

/-- The record behind one unit's completion, which may have failed with a code. -/
def unitDoneRec (r : List Word) (fail : Bool) (code : BitVec 32) : List Word :=
  if fail ∧ bitF (val r 3) 32 32 = noId then setD (lrChild r fail) 3 (setF (val r 3) 32 32 code.toNat) else lrChild r fail

theorem lrPend_unitDoneRec {r : List Word} (hr : 0 < r.length) (fail : Bool) (code : BitVec 32) : lrPend (unitDoneRec r fail code) = lrPend r - 1 := by
  unfold unitDoneRec
  split
  · rw [lrPend, val_setD_ne _ (by decide)]
    exact lrPend_lrChild hr fail
  · exact lrPend_lrChild hr fail

theorem exec_unitCompletion_unit {i : Nat} {m : Msg} {fail : Bool} {code : BitVec 32} (harr : arrives s i = some m)
    (hbody : m.body = .unitDone id fail code) (ht : t = agentTower m.dst) (hread : recRead (dropMsg s i) t id = (u, r, p))
    (hdone : lrDone r = false) (hpend : lrPend r ≠ 0) : exec (.unitCompletion i) s =
      .next (if lrPend r = 1 then lvlMaybe (recWrite u t id (unitDoneRec r fail code)) t id else recWrite u t id (unitDoneRec r fail code)) := by
  subst ht
  change execUnitCompletion i s = _
  simp only [execUnitCompletion, harr, hbody, unitDoneAt, hread, hdone, hpend, Bool.false_eq_true, or_self, if_false]
  rfl

theorem lvlMaybe_complete (h : recRead s t id = (u, r, p)) (hpend : lrPend r = 0) (hkind : lrKind r ≠ 2) :
    lvlMaybe s t id = lvlComplete u t id := by
  simp only [lvlMaybe, h, hpend, hkind, ne_eq, not_true_eq_false, if_false]

end

/-! The messages of a completed level (R311). -/

section
variable {v : State} {t id n : Nat} {src : Agent} {b : Body}

theorem mem_sendLevel (v : State) (t id : Nat) (src : Agent) (b : Body) : (sendLevel v t id src b).mem = v.mem := by
  unfold sendLevel
  split
  · rfl
  · split <;> rfl

/-- A level message leaves what is in flight there. -/
theorem net_sendLevel_of_mem {m : Msg} (h : m ∈ v.net) (t id : Nat) (src : Agent) (b : Body) : m ∈ (sendLevel v t id src b).net := by
  unfold sendLevel
  split
  · exact h
  · split
    · exact List.mem_append_left _ h
    · exact h

theorem net_sendLevel (hn : id ≠ noId) (hlt : id < lvlSize v t) (src : Agent) (b : Body) :
    ⟨src, lvlAgent v t id, 0, 0, 0, b⟩ ∈ (sendLevel v t id src b).net := by
  rw [sendLevel, if_neg hn, if_pos hlt]
  exact List.mem_append_right _ (List.mem_singleton_self _)

/-- Sending a level message changes neither the table's size nor its place. -/
theorem creg_sendLevel (v : State) (t id : Nat) (src : Agent) (b : Body) {k : Nat} (hk : k ≠ 0x3D2) :
    (towerAt (sendLevel v t id src b) t).creg k = (towerAt v t).creg k := by
  unfold sendLevel
  split
  · rfl
  · split
    · rfl
    · rw [lvlErr, towerAt_modTower_self]
      exact SMap.get_set_ne _ _ _ hk

theorem modul_sendLevel (v : State) (t id : Nat) (src : Agent) (b : Body) : (sendLevel v t id src b).modul = v.modul := by
  unfold sendLevel
  split
  · rfl
  · split <;> rfl

theorem localPa_of_modul {u v : State} (h : u.modul = v.modul) (pa : Nat) : localPa u pa = localPa v pa := by
  unfold localPa ownPrefix ownPkg
  rw [h]

theorem lvlSize_sendLevel (v : State) (t id : Nat) (src : Agent) (b : Body) : lvlSize (sendLevel v t id src b) t = lvlSize v t := by
  rw [lvlSize, creg_sendLevel v t id src b (by decide)]
  rfl

theorem lvlAgent_sendLevel (v : State) (t id : Nat) (src : Agent) (b : Body) (n : Nat) :
    lvlAgent (sendLevel v t id src b) t n = lvlAgent v t n := by
  simp only [lvlAgent, lvlPa, localPa_of_modul (modul_sendLevel v t id src b), creg_sendLevel v t id src b (show 0x3D0 ≠ 0x3D2 by decide)]

end

section
variable {s u v : State} {t id p : Nat} {r : List Word} (hread : recRead s t id = (u, r, p))
  (hv : v = recWrite u t id (setD r 0 (val r 0 ||| 1#64 <<< 49)))
include hread hv

/-- The state in which a complete level's parent has been told. -/
def parentTold (v : State) (t : Nat) (src : Agent) (r : List Word) : State :=
  sendLevel v t (lrParent r) src (.childDone (lrParent r) (decide (lrFail r ≠ 0) || lrCxl r))

theorem lvlComplete_eq : lvlComplete s t id = if lrKind r = 0 then
      sendLevel (sendLevel (parentTold v t (lvlAgent s t id) r) t (bitF (val r 2) 0 32) (lvlAgent s t id) (.predDone (bitF (val r 2) 0 32))) t
        (bitF (val r 2) 32 32) (lvlAgent s t id) (.predDone (bitF (val r 2) 32 32))
    else parentTold v t (lvlAgent s t id) r := by
  have hset : setB (val r 0) 49 true = val r 0 ||| 1#64 <<< 49 := setB_true _ 49 (by decide)
  subst hv
  simp only [lvlComplete, hread, hset]
  rfl

theorem lvlComplete_mem : (lvlComplete s t id).mem = v.mem := by
  rw [lvlComplete_eq hread hv]
  split
  · rw [mem_sendLevel, mem_sendLevel, parentTold, mem_sendLevel]
  · rw [parentTold, mem_sendLevel]

/-- The parent of a complete level is told. -/
theorem lvlComplete_tells_parent (hn : lrParent r ≠ noId) (hlt : lrParent r < lvlSize v t) :
    ⟨lvlAgent s t id, lvlAgent v t (lrParent r), 0, 0, 0, .childDone (lrParent r) (decide (lrFail r ≠ 0) || lrCxl r)⟩ ∈ (lvlComplete s t id).net := by
  have htold := net_sendLevel hn hlt (lvlAgent s t id) (.childDone (lrParent r) (decide (lrFail r ≠ 0) || lrCxl r))
  rw [lvlComplete_eq hread hv]
  split
  · exact net_sendLevel_of_mem (net_sendLevel_of_mem htold _ _ _ _) _ _ _ _
  · exact htold

/-- The successors of a complete launch are told. -/
theorem lvlComplete_tells_successor (hkind : lrKind r = 0) {n : Nat}
    (hsucc : n = (val r 2).toNat % 2 ^ 32 ∨ n = (val r 2).toNat / 2 ^ 32) (hn : n ≠ noId) (hlt : n < lvlSize v t) :
    ⟨lvlAgent s t id, lvlAgent v t n, 0, 0, 0, .predDone n⟩ ∈ (lvlComplete s t id).net := by
  rw [lvlComplete_eq hread hv, if_pos hkind, parentTold]
  rcases hsucc with rfl | rfl
  · refine net_sendLevel_of_mem ?_ _ _ _ _
    rw [bitF_zero]
    have hsent := net_sendLevel (v := sendLevel v t (lrParent r) (lvlAgent s t id) (.childDone (lrParent r) (decide (lrFail r ≠ 0) || lrCxl r)))
      hn (by rwa [lvlSize_sendLevel]) (lvlAgent s t id) (.predDone ((val r 2).toNat % 2 ^ 32))
    rwa [lvlAgent_sendLevel] at hsent
  · rw [bitF_high (val r 2) (lo := 32) (n := 32) rfl]
    have hsent := net_sendLevel (v := sendLevel (sendLevel v t (lrParent r) (lvlAgent s t id)
        (.childDone (lrParent r) (decide (lrFail r ≠ 0) || lrCxl r))) t (bitF (val r 2) 0 32) (lvlAgent s t id) (.predDone (bitF (val r 2) 0 32)))
      hn (by rwa [lvlSize_sendLevel, lvlSize_sendLevel]) (lvlAgent s t id) (.predDone ((val r 2).toNat / 2 ^ 32))
    rwa [lvlAgent_sendLevel, lvlAgent_sendLevel] at hsent

end

/-! Distribution (R315). -/

/-- The distributions of a home once the dispenser of cluster `cl` has accepted the launch `l`. -/
def distsLeft (w : Tower) (l : LaunchMsg) (cl : Nat) : List Dist :=
  w.dist.map fun d => if luLid d.launch = luLid l then { d with todo := d.todo.filter fun x => decide (x ≠ cl) } else d

/-- Answers a launch that every dispenser has accepted. -/
def answerDist (s : State) (d : Dist) : State :=
  match d.reply with
  | some r => sendMsg s (replyTo r (.launchReply 0))
  | none => s

theorem net_answerDist_of_mem {m : Msg} (s : State) (d : Dist) (h : m ∈ s.net) : m ∈ (answerDist s d).net := by
  unfold answerDist
  split
  · exact List.mem_append_left _ h
  · exact h

section
variable {i cl : Nat} {s : State} {m : Msg} {l : LaunchMsg} {c : Cluster} (harr : arrives s i = some m) (hbody : m.body = .distribute l)
  (hdst : m.dst = .dispenser cl) (hacc : (clusterAt s cl).accept (toDispenser (dropMsg s i) l cl) = some c)
  (hcxl : ∀ e ∈ (towerAt s (agentTower m.src)).dist, luLid e.launch = luLid l → e.cxl = false)

/-- The state in which a dispenser has accepted its part of a launch. -/
def acceptedAt (s : State) (i cl t : Nat) (l : LaunchMsg) (c : Cluster) : State :=
  modTower (setCluster (dropMsg s i) cl c) t fun w => { w with dist := (distsLeft (towerAt s t) l cl).filter fun d => !d.todo.isEmpty }

include harr hbody hdst hacc hcxl in
theorem exec_launchDistribute : exec (.launchDistribute i) s = .next
    (((distsLeft (towerAt s (agentTower m.src)) l cl).filter fun d => d.todo.isEmpty).foldl answerDist (acceptedAt s i cl (agentTower m.src) l c)) := by
  have hlive : ((towerAt (dropMsg s i) (agentTower m.src)).dist.any fun d => decide (luLid d.launch = luLid l) && d.cxl) = false := by
    rw [List.any_eq_false]
    intro e he
    by_cases hl : luLid e.launch = luLid l
    · simp [hl, hcxl e he hl]
    · simp [hl]
  have hacc' : (clusterAt (dropMsg s i) cl).accept (toDispenser (dropMsg s i) l cl) = some c := hacc
  change execLaunchDistribute i s = _
  simp only [execLaunchDistribute, harr, hbody, hdst, hlive, hacc', Option.map_some, Bool.false_eq_true, if_false]
  rfl

theorem keeps_answerDists {α : Type} {g : State → α} (hg : ∀ s m, g (sendMsg s m) = g s) (ds : List Dist) (s : State) :
    g (ds.foldl answerDist s) = g s := by
  refine keeps_foldl (fun u d => ?_) ds s
  unfold answerDist
  split
  · exact hg u _
  · rfl

/-- No distribution of the launch has the accepting cluster left, and none has none left. -/
theorem todo_distsLeft {w : Tower} {e : Dist} (he : e ∈ (distsLeft w l cl).filter fun d => !d.todo.isEmpty) (hl : luLid e.launch = luLid l) :
    cl ∉ e.todo ∧ e.todo ≠ [] := by
  obtain ⟨hmem, hne⟩ := List.mem_filter.1 he
  refine ⟨?_, by simpa using hne⟩
  obtain ⟨d, -, rfl⟩ := List.mem_map.1 hmem
  by_cases hd : luLid d.launch = luLid l
  · rw [if_pos hd]
    simp
  · rw [if_neg hd] at hl
    exact absurd hl hd

/-- A distribution that had the accepting cluster alone left is complete. -/
theorem done_distsLeft {w : Tower} {e : Dist} (he : e ∈ w.dist) (hl : luLid e.launch = luLid l) (honly : ∀ x ∈ e.todo, x = cl) :
    { e with todo := [] } ∈ (distsLeft w l cl).filter fun d => d.todo.isEmpty := by
  have htodo : e.todo.filter (fun x => decide (x ≠ cl)) = [] := List.filter_eq_nil_iff.2 fun x hx => by simp [honly x hx]
  refine List.mem_filter.2 ⟨List.mem_map.2 ⟨e, he, ?_⟩, rfl⟩
  rw [if_pos hl, htodo]

end

section
variable {tower i : Nat} {s : State} {d : Dist}

/-- The clusters to which no message of a refused distribution is on its way. -/
def distOut (s : State) (d : Dist) : List Nat :=
  d.todo.filter fun c => !s.net.any fun m => decide (m.dst = .dispenser c) && decide (m.tag = luLid d.launch)

/-- The home sends a distribution to a dispenser again. -/
def sendDist (tower : Nat) (d : Dist) (s : State) (c : Nat) : State :=
  sendMsg s ⟨lvlAgent s tower (luLid d.launch), .dispenser c, luLid d.launch, 0, luPh d.launch, .distribute d.launch⟩

theorem exec_distributeRetry (hd : (towerAt s tower).dist[i]? = some d) (hdue : d.due ≠ 0) (htime : d.due ≤ s.time) :
    exec (.distributeRetry tower i) s = .next ((distOut s d).foldl (sendDist tower d)
      (modTower s tower fun w => { w with dist := w.dist.set i { d with due := 0 } })) := by
  change execDistributeRetry tower i s = _
  simp only [execDistributeRetry, hd, hdue, Nat.not_lt.2 htime, or_self, if_false]
  rfl

theorem keeps_sendDists {α : Type} {g : State → α} (hg : ∀ s m, g (sendMsg s m) = g s) (cs : List Nat) (s : State) :
    g (cs.foldl (sendDist tower d) s) = g s := keeps_foldl (fun u _ => hg u _) cs s

/-- Each dispenser that is asked again has its message on its way. -/
theorem net_sendDists {c : Nat} {cs : List Nat} (hc : c ∈ cs) (s : State) :
    ∃ m ∈ (cs.foldl (sendDist tower d) s).net, m.dst = .dispenser c ∧ m.body = .distribute d.launch := by
  refine foldl_of_mem (P := fun u : State => ∃ m ∈ u.net, m.dst = .dispenser c ∧ m.body = .distribute d.launch) (fun u e => ?_) (fun u => ?_) hc s
  · rintro ⟨m, hm, h⟩
    exact ⟨m, List.mem_append_left _ hm, h⟩
  · exact ⟨_, List.mem_append_right _ (List.mem_singleton_self _), rfl, rfl⟩

end

/-! The dispenser (R316, R317). -/

section
variable (x : Slot) (l : DLaunch) (u tick tid : Nat)

/-- The registers in which a unit starts. -/
def Slot.unitRegs (x : Slot) (l : DLaunch) (u : Nat) : Slot :=
  ((rangeFrom 0 8).foldl (fun y i => y.setReg (3 + i) (val l.args i)) x).setReg 11 (nw u)

theorem Slot.startUnit_eq : x.startUnit l u tick tid = { (x.unitRegs l u).dropIssue with
    pc := l.pc, mode := .user, st := .ready, phase := l.ph, tok := false, skip := 0
    unit := some ⟨l.lid, u, l.graph, l.phase, l.job, l.np, tick, 0⟩, tid := tid } := rfl

theorem Slot.reg_unitRegs_index : (x.unitRegs l u).reg 11 = nw u := Slot.reg_setReg_self _ _ (by decide)

theorem Slot.unitRegs_args {j : Nat} (hj : j < 8) :
    (x.unitRegs l u).reg (3 + j) = val l.args j ∧ bitOf (x.unitRegs l u).full (3 + j) = true := by
  simp only [Slot.unitRegs, rangeFrom, List.foldl_cons, List.foldl_nil]
  interval_cases j <;> simp [Slot.reg_setReg_ne, Slot.reg_setReg_self, Slot.bitOf_full_setReg]

end

/-- The dispenser's entry behind the start of unit `u` of the launch in place `p`. -/
def Cluster.started (c : Cluster) (p : Nat) (l : DLaunch) (u tick : Nat) : Cluster :=
  let left := l.left.filter fun x => decide (x.1 ≠ u)
  let c := { c.setCreg 0x240 (addF (c.creg 0x240) 32 32 1) with last := p }
  if left = [] then
    match c.inq with
    | [] => { c with dsp := SMap.set (fun _ => none) c.dsp p none }
    | n :: ns => { c with dsp := SMap.set (fun _ => none) c.dsp p (some n), inq := ns }
  else { c with dsp := SMap.set (fun _ => none) c.dsp p (some { l with left := left, since := tick }) }

theorem exec_dispenserStartUnit {cl p u k : Nat} {s : State} {l : DLaunch} (hhold : (clusterAt s cl).hold = false)
    (hhu : s.modul.hu = .idle ∨ s.modul.hu = .shed) (hpick : pickPlace s cl = some (p, l, u, k)) : exec (.dispenserStartUnit cl) s =
      .next (modCluster (modSlot (takeFresh s).2 k fun x => x.startUnit l u (tickOf s) (takeFresh s).1) cl fun c => c.started p l u (tickOf s)) := by
  change execDispenserStartUnit cl s = _
  have hgo : ¬ ((clusterAt s cl).hold = true ∨ s.modul.hu = .drain ∨ s.modul.hu = .copy ∨ s.modul.hu = .committed) := by
    rcases hhu with h | h <;> simp [hhold, h]
  rw [execDispenserStartUnit, if_neg hgo]
  simp only [hpick]
  rfl

/-- Settles O36. -/
theorem launchEvents : Obligations.LaunchEvents := by
  refine ⟨?_, ?_, ?_, ?_, ?_, ?_, ?_, ?_, ?_⟩
  · intro i s m l sl t u r p harr hbody ht hread
    refine ⟨exec_launchRequest_cancelled harr hbody ht hread, exec_launchRequest_live harr hbody ht hread, fun hcxl hold hpred => ?_,
      fun hcxl hold hpred => ⟨exec_launchRequest_full harr hbody ht hread hcxl hold hpred, fun hroom => ?_⟩⟩
    · exact ⟨_, exec_launchRequest_distributes harr hbody ht hread hcxl hold hpred, rfl, lrPend_launchRec l _, lrFlags_launchRec l _⟩
    · obtain ⟨hdone, hnot⟩ := lrFlags_launchRec l (lrPred r + (luPred l : Int))
      exact ⟨_, exec_launchRequest_holds harr hbody ht hread hcxl hold hpred hroom, rfl, lrPend_launchRec l _, hdone, hnot,
        lrPred_launchRec l hpred⟩
  · exact fun i s m id t u r p l harr hbody ht hread hpred v hv hheld => exec_unitCompletion_pred harr hbody ht hread hpred hv hheld
  · intro i s m l cl c harr hbody hdst hacc hcxl
    have htower : (towerAt (acceptedAt s i cl (agentTower m.src) l c) (agentTower m.src)).dist =
        (distsLeft (towerAt s (agentTower m.src)) l cl).filter fun d => !d.todo.isEmpty := by
      rw [acceptedAt, towerAt_modTower_self]
    refine ⟨_, exec_launchDistribute harr hbody hdst hacc hcxl, ?_, fun e he hl => ?_, fun e he hl honly r hr => ?_⟩
    · rw [keeps_answerDists (g := fun s => clusterAt s cl) (fun _ _ => rfl)]
      exact clusterAt_setCluster_self (dropMsg s i) cl c
    · rw [keeps_answerDists (g := fun s => towerAt s (agentTower m.src)) (fun _ _ => rfl), htower] at he
      exact todo_distsLeft he hl
    · refine foldl_of_mem (P := fun u : State => replyTo r (.launchReply 0) ∈ u.net) net_answerDist_of_mem (fun u => ?_)
        (done_distsLeft he hl honly) _
      simp only [answerDist, hr]
      exact List.mem_append_right _ (List.mem_singleton_self _)
  · intro tower i s d hd hdue htime
    refine ⟨_, exec_distributeRetry hd hdue htime, ?_, fun c hc hno => net_sendDists (List.mem_filter.2 ⟨hc, ?_⟩) _⟩
    · rw [keeps_sendDists (g := fun s => towerAt s tower) (fun _ _ => rfl), towerAt_modTower_self]
    · rw [Bool.not_eq_true', List.any_eq_false]
      intro n hn
      simpa using hno n hn
  · intro i s m st c harr hbody hdst
    change execLaunchStatusReply i s = _
    simp only [execLaunchStatusReply, harr, hbody, hdst]
  · intro cl s p l u k hhold hhu hpick
    have hslot : slotAt (modCluster (modSlot (takeFresh s).2 k fun x => x.startUnit l u (tickOf s) (takeFresh s).1) cl
        fun c => c.started p l u (tickOf s)) k = (slotAt s k).startUnit l u (tickOf s) (takeFresh s).1 := by
      rw [slotAt_modCluster, slotAt_modSlot_self]
      rfl
    refine ⟨_, exec_dispenserStartUnit hhold hhu hpick, ?_⟩
    rw [hslot, Slot.startUnit_eq]
    exact ⟨rfl, rfl, rfl, rfl, Slot.reg_unitRegs_index _ l u, fun j hj => Slot.unitRegs_args _ l u hj, rfl⟩
  · intro i s m id f code t u r p harr hbody ht hread hdone
    have hlen : 0 < r.length := by rw [length_recRead hread]; decide
    refine ⟨fun hmore => ⟨unitDoneRec r f code, ?_, lrPend_unitDoneRec hlen f code⟩, fun hlast => ⟨unitDoneRec r f code, ?_, ?_⟩⟩
    · rw [exec_unitCompletion_unit harr hbody ht hread hdone (by omega), if_neg (by omega)]
    · rw [exec_unitCompletion_unit harr hbody ht hread hdone (by omega), if_pos hlast]
    · rw [lrPend_unitDoneRec hlen, hlast]
  · exact fun s t id u r p hread hpend hkind => lvlMaybe_complete hread hpend hkind
  · exact fun s t id u r p v hread hv => ⟨lvlComplete_mem hread hv, lvlComplete_tells_parent hread hv,
      fun hkind n hsucc hn hlt => lvlComplete_tells_successor hread hv hkind hsucc hn hlt⟩

end Sys2Proof.Machine
end

section
/-! The host and boot (R389 to R395). -/

namespace Sys2Proof.Machine

open Sys2Proof.Claims

/-! Accesses of the host (R389). -/

section
variable {m addr : Nat} {w : Bool} {data : List Byte} {s : State}

theorem exec_cxlMemRequest (m : Nat) (w : Bool) (addr : Nat) (data : List Byte) (s : State) :
    exec (.cxlMemRequest m w (Config.hdmBase + addr) data) s = cxlAccess m w addr data s := by
  change execCxlMemRequest m w _ data s = _
  rw [execCxlMemRequest, if_neg (Nat.not_lt.2 (Nat.le_add_right _ _)), Nat.add_sub_cancel_left]

section
variable (hm : m ≤ 1) (haddr : addr < 2 ^ 42) (hdata : data ≠ []) (hline : addr % 64 + data.length ≤ 64) (hboot : bootFailed s = false)
include hm haddr hdata hline hboot

/-- An access that fits a line of the device, before boot has failed. -/
theorem cxlAccess_fits : ¬ (1 < m ∨ 2 ^ 42 ≤ addr ∨ data = [] ∨ 64 < addr % 64 + data.length ∨ bootFailed s) := by
  rintro (h | h | h | h | h)
  · omega
  · omega
  · exact hdata h
  · omega
  · exact absurd (hboot.symm.trans h) (by decide)

/-- An access to a tier address that holds its line is performed at its home. -/
theorem cxlAccess_tier {a : Nat} (hplace : placeOf s addr = .tier a) (hpop : populated a = true) (hfill : mustFill s addr = false) :
    exec (.cxlMemRequest m w (Config.hdmBase + addr) data) s =
      .next ((if w then homeWrite s addr data Acc.direct none else homeRead s addr data.length Acc.direct).toHost s) := by
  rw [exec_cxlMemRequest, cxlAccess, if_neg (cxlAccess_fits hm haddr hdata hline hboot)]
  simp only [hplace, hpop, hfill, Bool.not_true, Bool.false_eq_true, if_false]

theorem cxlAccess_lm {cl lc off : Nat} (hplace : placeOf s addr = .lm cl lc off) :
    exec (.cxlMemRequest m true (Config.hdmBase + addr) data) s = .next (hostStore s m (lcoreKey s cl lc) addr data) := by
  rw [exec_cxlMemRequest, cxlAccess, if_neg (cxlAccess_fits hm haddr hdata hline hboot)]
  simp only [hplace, if_true]

theorem cxlAccess_hole (hplace : placeOf s addr = .hole) :
    exec (.cxlMemRequest m w (Config.hdmBase + addr) data) s = .next (hostAnswer s .unsupported) := by
  rw [exec_cxlMemRequest, cxlAccess, if_neg (cxlAccess_fits hm haddr hdata hline hboot)]
  simp only [hplace]

theorem cxlAccess_ctl {b n : Nat} (hplace : placeOf s addr = .ctl b n) : exec (.cxlMemRequest m w (Config.hdmBase + addr) data) s =
    if data.length ≠ 8 ∨ addr % 8 ≠ 0 then .next (hostAnswer s .unsupported)
    else if w then .next (hostAnswer (writeReg s (unitOfBlk s b n) n (leWord data)) (.done []))
    else .next (hostAnswer (afterRead s (unitOfBlk s b n) n) (.done (wordLE 8 (readReg s (unitOfBlk s b n) n)))) := by
  rw [exec_cxlMemRequest, cxlAccess, if_neg (cxlAccess_fits hm haddr hdata hline hboot)]
  simp only [hplace]

end
end

/-! The host window (R390). -/

section
variable {i : Nat} {s : State} {m : Msg} {h : Nat} (harr : arrives s i = some m) (hdst : m.dst = .host h)
include harr hdst

theorem exec_hostWindowAccess_ack (hbody : m.body = .storeAck) (accept : Bool) (data : List Byte) :
    exec (.hostWindowAccess i accept data) s = .next (hostAnswer (dropMsg s i) (.done [])) := by
  change execHostWindowAccess i accept data s = _
  simp only [execHostWindowAccess, harr, hdst, hbody]

theorem exec_hostWindowAccess_load {pa n : Nat} {acc : Acc} (hbody : m.body = .loadReq pa n acc) (accept : Bool) (data : List Byte) :
    exec (.hostWindowAccess i accept data) s = .next (sendMsg { dropMsg s i with free := s.free + 1 } (replyTo m (.loadReply
      (if accept then .value (padTo n 0#8 data) else .poison (hostCause (Config.freeNat s.free)) pa)))) := by
  change execHostWindowAccess i accept data s = _
  simp only [execHostWindowAccess, harr, hdst, hbody]
  rfl

theorem exec_hostWindowAccess_store {pa : Nat} {bs : List Byte} {f : Option SyncForm} {acc : Acc} (hbody : m.body = .postedStore pa bs f acc)
    (accept : Bool) (data : List Byte) : exec (.hostWindowAccess i accept data) s =
      .next (sendMsg { dropMsg s i with free := s.free + 1 } (replyTo m (if accept then .storeAck else .storeRefusal 3))) := by
  change execHostWindowAccess i accept data s = _
  simp only [execHostWindowAccess, harr, hdst, hbody]
  rfl

end

/-! The launch window (R391). -/

theorem hslotAt_setHslot (s : State) (n : Nat) (h : HSlot) : hslotAt (setHslot s n h) n = h := SMap.get_set_self _ _ _ _

section
variable {n : Nat} {r : List Word} {ctl : Word} {s : State} (hn : n ≤ 63) (hboot : bootFailed s = false)
include hn hboot

theorem exec_launchWindowGo : exec (.launchWindowGo n r ctl) s =
    if ctl.getLsbD 63 then
      if (hslotAt s n).busy then .next (modModul s fun m => m.setCreg 0x4C1 (addF (m.creg 0x4C1) 0 32 1))
      else .next (setHslot s n { hslotAt s n with
        dw := if r = [] then (hslotAt s n).dw else padTo 8 0#64 r, ctl := ctl, busy := true, todo := true, at_ := s.time })
    else if r ≠ [] then .next (setHslot s n { hslotAt s n with dw := if r = [] then (hslotAt s n).dw else padTo 8 0#64 r, ctl := ctl })
    else if agentNext s n then .next (agentLaunch s n)
    else .next (hostAnswer s (.done (hslotBytes (hslotAt s n)))) := by
  have hgo : ¬ (63 < n ∨ bootFailed s) := by simp [Nat.not_lt.2 hn, hboot]
  change execLaunchWindowGo n r ctl s = _
  rw [execLaunchWindowGo, if_neg hgo]
  rfl

end

theorem agentNext_iff (s : State) (n : Nat) : agentNext s n = true ↔ (hslotAt s n).todo = true ∧ booted s = true ∧ (hslotAt s n).at_ < s.time ∧
    ∀ j, j < 64 → (hslotAt s j).todo = true → 64 * (hslotAt s n).at_ + n ≤ 64 * (hslotAt s j).at_ + j := by
  simp only [agentNext, Bool.and_eq_true, decide_eq_true_eq, List.all_eq_true, mem_rangeFrom, Bool.or_eq_true, Bool.not_eq_true', and_assoc]
  refine and_congr_right fun _ => and_congr_right fun _ => and_congr_right fun _ => ⟨fun h j hj htodo => ?_, fun h j hj => ?_⟩
  · exact (h j ⟨Nat.zero_le j, by omega⟩).resolve_left (by simp [htodo])
  · cases htodo : (hslotAt s j).todo
    · exact .inl rfl
    · exact .inr (h j (by omega) htodo)

section
variable {s z : State} {n : Nat} {r : List Word} (hz : z = setHslot s n { hslotAt s n with st := 0#64 }) (hr : r = padTo 8 0#64 (hslotAt s n).dw)
include hz hr

theorem agentLaunch_bad (hbad : launchBad z 0 r = true) : agentLaunch s n = agentAnswer z n 2 := by
  have hdw : padTo 8 0#64 (hslotAt z n).dw = r := by rw [hz, hslotAt_setHslot, hr]
  rw [agentLaunch, ← hz, hdw, if_pos hbad]

/-- A launch without a placement table and arguments. -/
theorem agentLaunch_plain (hbad : launchBad z 0 r = false) (hplace : val r 2 = 0#64) (hargs : val r 3 = 0#64) :
    agentLaunch s n = agentSend z n r (dwords 8 (wordsLE (List.replicate 8 0#64))) none := by
  have hdw : padTo 8 0#64 (hslotAt z n).dw = r := by rw [hz, hslotAt_setHslot, hr]
  rw [agentLaunch, ← hz, hdw, if_neg (by simp [hbad])]
  simp only [hargs, hplace, if_true]

theorem agentLaunch_cancelled (hbad : launchBad z 0 r = false) (hplace : val r 2 = 0#64) (hargs : val r 3 = 0#64)
    (hcxl : (launchAbove r).any (cxlNow z 0) = true) : agentLaunch s n = agentAnswer z n 6 := by
  rw [agentLaunch_plain hz hr hbad hplace hargs, agentSend]
  simp only [hcxl, Bool.false_eq_true, if_false, if_true]

theorem agentLaunch_sends {l : LaunchMsg}
    (hl : l = ⟨r, dwords 8 (wordsLE (List.replicate 8 0#64)), none, (hslotAt s n).ctl.toNat % 2 ^ 12, 0⟩) (hbad : launchBad z 0 r = false)
    (hplace : val r 2 = 0#64) (hargs : val r 3 = 0#64) (hcxl : (launchAbove r).any (cxlNow z 0) = false) :
    agentLaunch s n = sendMsg (setHslot z n { hslotAt z n with todo := false })
      ⟨.launchAgent, lvlAgent z 0 (luLid l), n, n, luPh l, .launchReq l (some n)⟩ := by
  have hctl : bitF (hslotAt z n).ctl 0 12 = (hslotAt s n).ctl.toNat % 2 ^ 12 := by rw [hz, hslotAt_setHslot, bitF_zero]
  rw [agentLaunch_plain hz hr hbad hplace hargs, agentSend, hctl]
  subst hl
  simp only [hcxl, Bool.false_eq_true, if_false]

end

/-! Quotes (R395). -/

@[simp] theorem Modul.creg_setCreg_self (m : Modul) (n : Nat) (v : Word) : (m.setCreg n v).creg n = v := SMap.get_set_self _ _ _ _

theorem Modul.creg_setCreg_ne (m : Modul) {n k : Nat} (v : Word) (h : k ≠ n) : (m.setCreg n v).creg k = m.creg k := SMap.get_set_ne _ _ _ h

theorem creg_quoteAsked (s : State) (m : Msg) :
    (sendMsg (modModul s fun m => { m.setCreg 0x4C4 0#64 with quoteDue := true }) m).modul.creg 0x4C4 = 0#64 :=
  Modul.creg_setCreg_self s.modul 0x4C4 0#64

section
variable {s : State} {v : Word}

theorem quoteDue_attWrite (hv : v.getLsbD 63 = true) : (attWrite s v).modul.quoteDue = true := by
  have hv' : bitB v 63 = true := hv
  rw [attWrite]
  split
  · next h => exact h.resolve_left (by simp [hv'])
  · rfl

/-- GO asks the host for the nonce. -/
theorem attWrite_asks (hv : v.getLsbD 63 = true) (hdue : s.modul.quoteDue = false) :
    ⟨modulAgent, .host 0, 0, 0, 0, .loadReq (quotePa (attWrite s v)) 32 Acc.direct⟩ ∈ (attWrite s v).net ∧
      (attWrite s v).modul.creg 0x4C4 = 0#64 := by
  have hgo : ¬ ((!bitB v 63) = true ∨ s.modul.quoteDue = true) := by
    rw [show bitB v 63 = true from hv, hdue]
    decide
  rw [attWrite, if_neg hgo]
  exact ⟨List.mem_append_right _ (List.mem_singleton_self _), creg_quoteAsked _ _⟩

end

theorem length_flatMap_const {α β : Type} (f : α → List β) {k : Nat} (hf : ∀ x, (f x).length = k) (xs : List α) :
    (xs.flatMap f).length = xs.length * k := by
  rw [List.length_flatMap, List.map_congr_left fun x _ => hf x, List.map_const', List.sum_replicate, smul_eq_mul]

theorem length_measBytes (m : Modul) : (measBytes m).length = 256 := length_flatMap_const _ (fun _ => natLE_length 32 _) (rangeFrom 0 8)

theorem padTo_of_length {α : Type} {n : Nat} (x : α) {l : List α} (h : l.length = n) : padTo n x l = l := by
  rw [padTo, h, Nat.sub_self, List.replicate_zero, List.append_nil, ← h, List.take_length]

section
variable {bs : List Byte} (h : bs.length = 32) (m : Modul)
include h

theorem quoteBytes_eq : ∃ tail, tail.length = 388 ∧ quoteBytes m bs = bs ++ (measBytes m ++ tail) := by
  refine ⟨natLE 4 (bitF (m.creg 0x4C1) 32 32) ++ natLE 384 (Config.quoteSignature (padTo 32 0#8 (bs.take 32) ++ measBytes m ++
    natLE 4 (bitF (m.creg 0x4C1) 32 32))), by rw [List.length_append, natLE_length, natLE_length], ?_⟩
  have hnonce : padTo 32 0#8 (bs.take 32) = bs := by rw [List.take_of_length_le (Nat.le_of_eq h), padTo_of_length 0#8 h]
  rw [quoteBytes, hnonce]
  simp only [List.append_assoc]

/-- A quote holds its nonce and the measurements. -/
theorem quoteBytes_parts : (quoteBytes m bs).length = 676 ∧ (quoteBytes m bs).take 32 = bs ∧
    ((quoteBytes m bs).drop 32).take 256 = measBytes m := by
  obtain ⟨tail, htail, hq⟩ := quoteBytes_eq h m
  rw [hq, ← h, List.take_left, List.drop_left, ← length_measBytes m, List.take_left]
  refine ⟨?_, rfl, rfl⟩
  rw [List.length_append, List.length_append, h, length_measBytes, htail]

end

theorem creg_quoteEnded (s : State) (v : Word) :
    (modModul s fun m => { m.setCreg 0x4C4 v with quoteDue := false }).modul.creg 0x4C4 = v := Modul.creg_setCreg_self s.modul 0x4C4 v

section
variable {s : State} {i : Nat} {m : Msg} (h : quoteMsg s = some (i, m))
include h

theorem exec_quoteWritten_nonce {bs : List Byte} (hbody : m.body = .loadReply (.value bs)) : exec .quoteWritten s =
    .next (sendMsg (modModul (dropMsg s i) fun m => { m with quote := quoteBytes s.modul bs })
      ⟨modulAgent, m.src, 0, 0, 0, .postedStore (quotePa s) (quoteBytes s.modul bs) none Acc.direct⟩) := by
  change execQuoteWritten s = _
  simp only [execQuoteWritten, h, hbody]
  rfl

theorem exec_quoteWritten_ack (hbody : m.body = .storeAck) : exec .quoteWritten s =
    .next (modModul (dropMsg s i) fun m => { m.setCreg 0x4C4 (setB 0#64 63 true) with quoteDue := false }) := by
  change execQuoteWritten s = _
  simp only [execQuoteWritten, h, hbody]
  rfl

theorem exec_quoteWritten_refusal {k : Nat} (hbody : m.body = .storeRefusal k) : exec .quoteWritten s =
    .next (modModul (dropMsg s i) fun m => { m with quoteDue := false }) := by
  change execQuoteWritten s = _
  simp only [execQuoteWritten, h, hbody]

end

/-! Host events leave the other registers as they are. -/

theorem creg_hostEvent_self (s : State) {b : Nat} (h : b < 64) : ((hostEvent s b).modul.creg 0x4C0).getLsbD b = true := by
  rw [hostEvent, modModul]
  split
  · assumption
  · exact (congrArg (fun w => BitVec.getLsbD w b) (Modul.creg_setCreg_self _ _ _)).trans (getLsbD_setB_self _ true h)

theorem creg_hostEvent_ne (s : State) (b : Nat) {n : Nat} (h : n ≠ 0x4C0) : (hostEvent s b).modul.creg n = s.modul.creg n := by
  rw [hostEvent, modModul]
  split
  · rfl
  · exact Modul.creg_setCreg_ne _ _ h

theorem keeps_modul_hostEvent {α : Type} {g : Modul → α} (hg : ∀ (m : Modul) w l, g { m.setCreg 0x4C0 w with msix := l } = g m) (s : State) (b : Nat) :
    g (hostEvent s b).modul = g s.modul := by
  rw [hostEvent, modModul]
  split
  · rfl
  · exact hg _ _ _

theorem clusterAt_hostEvent (s : State) (b cl : Nat) : clusterAt (hostEvent s b) cl = clusterAt s cl := rfl

/-! Boot (R393, R394). -/

/-- A fact about the rest of the module stays while ports are written. -/
theorem keeps_foldl_ports {α : Type} {g : Modul → α} (hg : ∀ (m : Modul) ps, g { m with ports := ps } = g m) (f : Modul → Nat → SMap Port)
    (m : Modul) (ps : List Nat) : g (ps.foldl (fun m p => { m with ports := f m p }) m) = g m :=
  List.foldlRecOn (motive := fun x => g x = g m) ps _ rfl fun x h p _ => (hg x (f x p)).trans h

/-- The switch positions stay over a reset. -/
def keptPort (s : State) (m : Modul) (p : Nat) : SMap Port :=
  SMap.set (fun _ => Port.reset) m.ports p { Port.reset with swpos := (portAt s p).swpos }

/-- The module after a reset, without its counts. -/
def rebootedModul (s : State) : Modul :=
  (rangeFrom 0 16).foldl (fun m p => { m with ports := keptPort s m p }) { Modul.reset with flash := s.modul.flash, rowFix := s.modul.rowFix }

theorem modul_rebooted (s : State) : (rebooted s).modul =
    ((rebootedModul s).setCreg 0x4C1 (setF 0#64 32 32 (bitF (s.modul.creg 0x4C1) 32 32 + 1))).setCreg 0x4C5
      (setF 0#64 32 32 (bitF (s.modul.creg 0x4C5) 32 32)) := by
  simp only [rebooted, rebootedModul, keptPort]

theorem keeps_rebootedModul {α : Type} {g : Modul → α} (hg : ∀ (m : Modul) ps, g { m with ports := ps } = g m) (s : State) :
    g (rebootedModul s) = g { Modul.reset with flash := s.modul.flash, rowFix := s.modul.rowFix } := keeps_foldl_ports hg _ _ _

/-- A boot number is taken, and step 1 runs. -/
def bootFrom (t : State) : State := bootAt 1 (modModul { t with free := t.free + 1 } fun m => { m with boot := some t.free })

theorem bootStart_eq (s : State) : bootStart s = bootFrom (rebooted s) := by simp only [bootStart, takeFree, bootFrom]

theorem modul_bootFrom (t : State) : (bootFrom t).modul = { t.modul with boot := some t.free }.setCreg 0x4C2 (nw 1) := rfl

theorem free_rebooted (s : State) : (rebooted s).free = s.free := by simp only [rebooted]

theorem modul_bootStart_eq (s : State) : (bootStart s).modul = { (rebooted s).modul with boot := some s.free }.setCreg 0x4C2 (nw 1) := by
  rw [bootStart_eq, modul_bootFrom, free_rebooted]

theorem creg_withBoot (m : Modul) (b : Option Nat) (n : Nat) : ({ m with boot := b } : Modul).creg n = m.creg n := rfl

/-- Step 1 runs. -/
theorem creg_bootStart_step (s : State) : (bootStart s).modul.creg 0x4C2 = nw 1 := by
  rw [modul_bootStart_eq, Modul.creg_setCreg_self]

/-- The module counts one boot more. -/
theorem creg_bootStart_count (s : State) : (bootStart s).modul.creg 0x4C1 = setF 0#64 32 32 (bitF (s.modul.creg 0x4C1) 32 32 + 1) := by
  have h1 : 0x4C1 ≠ 0x4C2 := by decide
  have h5 : 0x4C1 ≠ 0x4C5 := by decide
  rw [modul_bootStart_eq, Modul.creg_setCreg_ne _ _ h1, creg_withBoot, modul_rebooted, Modul.creg_setCreg_ne _ _ h5, Modul.creg_setCreg_self]

/-- A part of the module that neither a register nor a port nor the boot number is, after the reset. -/
theorem keeps_modul_bootStart {α : Type} {g : Modul → α} (hports : ∀ (m : Modul) ps, g { m with ports := ps } = g m)
    (hregs : ∀ (m : Modul) n v, g (m.setCreg n v) = g m) (hboot : ∀ (m : Modul) n, g { m with boot := n } = g m) (s : State) :
    g (bootStart s).modul = g { Modul.reset with flash := s.modul.flash, rowFix := s.modul.rowFix } := by
  rw [modul_bootStart_eq, hregs, hboot, modul_rebooted, hregs, hregs, keeps_rebootedModul hports]

theorem modul_bootStart (s : State) : (bootStart s).modul.boot = some s.free ∧ (bootStart s).modul.off = false ∧
    (bootStart s).modul.flash = s.modul.flash ∧ (bootStart s).modul.rowFix = s.modul.rowFix := by
  refine ⟨?_, ?_, ?_, ?_⟩
  · rw [modul_bootStart_eq]
    rfl
  · exact keeps_modul_bootStart (g := Modul.off) (fun _ _ => rfl) (fun _ _ _ => rfl) (fun _ _ => rfl) s
  · exact keeps_modul_bootStart (g := Modul.flash) (fun _ _ => rfl) (fun _ _ _ => rfl) (fun _ _ => rfl) s
  · exact keeps_modul_bootStart (g := Modul.rowFix) (fun _ _ => rfl) (fun _ _ _ => rfl) (fun _ _ => rfl) s

section
variable {s : State} {n k : Nat} (hhu : s.modul.hu = .idle) (hoff : s.modul.off = false)

theorem exec_boot_start (h : s.modul.hu = .committed ∨ (s.modul.hu = .idle ∧ (s.modul.off = true ∨ s.modul.boot = none))) (good : Bool) :
    exec (.boot good) s = .next (bootStart s) := by
  change execBoot good s = _
  rcases h with h | ⟨h, h' | h'⟩
  · simp [execBoot, h]
  · simp [execBoot, h, h']
  · simp [execBoot, h, h']

section
variable (hboot : s.modul.boot = some n) (hk : s.modul.creg 0x4C2 = nw k) (hlt : k < 16)
include hhu hoff hboot hk hlt

/-- A boot event while step `k` runs. -/
theorem exec_boot_step (good : Bool) : exec (.boot good) s =
    if 8 ≤ k then .next (bootDone (Config.bootFacts n) s)
    else if !good ∨ (k = 1 ∧ !imageOk (Config.bootFacts n) s) then .next (bootFails k s)
    else .next (bootAt (k + 1) (bootStep (Config.bootFacts n) k s)) := by
  have hstep : bitF (s.modul.creg 0x4C2) 0 4 = k := by
    rw [hk, bitF_zero, nw, BitVec.toNat_ofNat]
    omega
  change execBoot good s = _
  simp [execBoot, hhu, hoff, hboot, hstep]

end
end

theorem bootFails_ends (k : Nat) (s : State) : (bootFails k s).modul.creg 0x4C2 = nw (2 ^ 62 + k) ∧ (bootFails k s).modul.boot = none ∧
    ((bootFails k s).modul.creg 0x4C0).getLsbD 4 = true := by
  refine ⟨?_, keeps_modul_hostEvent (g := Modul.boot) (fun _ _ _ => rfl) _ _, creg_hostEvent_self _ (by decide)⟩
  rw [bootFails, creg_hostEvent_ne _ _ (by decide)]
  exact Modul.creg_setCreg_self s.modul 0x4C2 _

/-- MAINT is cleared in the memory ports of some clusters. -/
def maintCleared (cls : List Nat) (s : State) : State := cls.foldl (fun s cl => modCluster s cl fun c => c.setCreg 0x250 0#64) s

theorem modul_maintCleared (cls : List Nat) (s : State) : (maintCleared cls s).modul = s.modul :=
  List.foldlRecOn (motive := fun t : State => t.modul = s.modul) cls _ rfl fun _ h _ _ => h

theorem creg_maintCleared {cls : List Nat} (s : State) {cl : Nat} (h : cl ∈ cls) : (clusterAt (maintCleared cls s) cl).creg 0x250 = 0#64 := by
  refine foldl_of_mem (P := fun t => (clusterAt t cl).creg 0x250 = 0#64) (fun t a ht => ?_) (fun t => ?_) h s
  · by_cases ha : cl = a
    · rw [ha, clusterAt_modCluster_self, Cluster.creg_setCreg_self]
    · rw [clusterAt_modCluster_ne _ _ ha, ht]
  · rw [clusterAt_modCluster_self, Cluster.creg_setCreg_self]

theorem mem_allClusters {cl : Nat} (h : cl < 1280) : cl ∈ allClusters := by
  rw [allClusters, mem_rangeFrom]
  omega

/-- Step 8, from the state in which MAINT is clear. -/
def bootEnds (f : BootFacts) (t : State) : State :=
  hostEvent (modModul t fun m => { (m.setCreg 0x4C2 (nw (2 ^ 63 + 8))).setCreg 0x4C5 (setF (t.modul.creg 0x4C5) 32 32
    (Nat.max (bitF (t.modul.creg 0x4C5) 32 32) (Nat.min f.roll (bitF (t.modul.creg 0x4C5) 0 32)))) with boot := none }) 3

theorem bootDone_eq (f : BootFacts) (s : State) : bootDone f s = bootEnds f (maintCleared allClusters s) := by
  simp only [bootDone, bootEnds, maintCleared]

theorem creg_bootEnds (f : BootFacts) (t : State) : (bootEnds f t).modul.creg 0x4C2 = nw (2 ^ 63 + 8) := by
  rw [bootEnds, creg_hostEvent_ne _ _ (by decide)]
  exact (Modul.creg_setCreg_ne (t.modul.setCreg 0x4C2 _) _ (by decide)).trans (Modul.creg_setCreg_self t.modul 0x4C2 _)

theorem modul_bootEnds (f : BootFacts) (t : State) : (bootEnds f t).modul.boot = none ∧ (bootEnds f t).modul.off = t.modul.off :=
  ⟨keeps_modul_hostEvent (g := Modul.boot) (fun _ _ _ => rfl) _ _, keeps_modul_hostEvent (g := Modul.off) (fun _ _ _ => rfl) _ _⟩

theorem clusterAt_bootEnds (f : BootFacts) (t : State) (cl : Nat) : clusterAt (bootEnds f t) cl = clusterAt t cl := rfl

theorem bootDone_ends (f : BootFacts) (s : State) : (bootDone f s).modul.creg 0x4C2 = nw (2 ^ 63 + 8) ∧ (bootDone f s).modul.boot = none ∧
    (bootDone f s).modul.off = s.modul.off ∧ ((bootDone f s).modul.creg 0x4C0).getLsbD 3 = true ∧
    ∀ cl, cl < 1280 → (clusterAt (bootDone f s) cl).creg 0x250 = 0#64 := by
  rw [bootDone_eq]
  obtain ⟨hnone, hoff⟩ := modul_bootEnds f (maintCleared allClusters s)
  refine ⟨creg_bootEnds f _, hnone, hoff.trans (congrArg Modul.off (modul_maintCleared _ s)), creg_hostEvent_self _ (by decide), fun cl h => ?_⟩
  rw [clusterAt_bootEnds, creg_maintCleared s (mem_allClusters h)]

theorem imageOk_iff (f : BootFacts) (s : State) : imageOk f s = true ↔ (s.modul.creg 0x4C5).toNat / 2 ^ 32 ≤ f.version % 2 ^ 32 := by
  rw [imageOk, decide_eq_true_iff, bitF_high _ (by decide)]

/-! What a step does, by what the module does. -/

section
variable {s : State} (hoff : s.modul.off = false)
include hoff

theorem step_of_turn (hboot : bootFailed s = false) (hturn : s.turn = true) : step s = afterStep (takeTurn exec { s with turn := false }) := by
  simp only [step, hoff, hboot, hturn, Bool.false_eq_true, if_false, if_true]

theorem step_of_dueTurn (hboot : bootFailed s = false) {k : Nat} (hturn : s.turn = false) (hsw : dueSwitch s = none) (hdue : dueTurn s = some k) :
    step s = afterStep (exec (.slotTurn k (turnError s).1) (turnError s).2) := by
  simp only [step, hoff, hboot, hturn, hsw, hdue, Bool.false_eq_true, if_false]

/-- Once boot has failed nothing but the next boot happens (R393). -/
theorem step_of_bootFailed (hboot : bootFailed s = true) (hev : ∀ good, (nextChoice s).1.ev ≠ .boot good) :
    step s = .next { (nextChoice s).2 with time := s.time + (nextChoice s).1.dt } := by
  rw [step, if_neg (by simp [hoff]), if_pos hboot]
  split
  · next good h => exact absurd h (hev good)
  · rfl

end

/-! The statement. -/

/-- Settles O58: the host's accesses, the launch window, the quote, and boot. -/
theorem hostAndBoot : Obligations.HostAndBoot := by
  refine ⟨?tier, ?lm, ?ack, ?hole, ?ctl, ?load, ?store, ?window, agentNext_iff, ?agent, ?answer, ?attest, ?quote, ?start, ?boot, imageOk_iff, ?turn, ?failed⟩
  case tier =>
    intro addr data s a haddr hdata hline hboot hplace hpop hfill
    have hw := fun w => cxlAccess_tier (m := 0) (w := w) (Nat.zero_le 1) haddr hdata hline hboot hplace hpop hfill
    refine ⟨fun u bs h => ?_, fun u e h => ?_, fun u bs h => ?_, fun u c a h => ?_⟩
    · rw [hw, if_pos rfl, h, HRes.toHost]
    · rw [hw, if_pos rfl, h, HRes.toHost]
    · rw [hw, if_neg Bool.false_ne_true, h, HRes.toHost]
    · rw [hw, if_neg Bool.false_ne_true, h, HRes.toHost]
  case lm =>
    intro m addr data s cl lc off hm haddr hdata hline hboot hplace u bs h
    rw [cxlAccess_lm hm haddr hdata hline hboot hplace, hostStore, h]
  case ack => exact fun i s m h accept data harr hdst hbody => exec_hostWindowAccess_ack harr hdst hbody accept data
  case hole => exact fun m w addr data s hm haddr hdata hline hboot hplace => cxlAccess_hole hm haddr hdata hline hboot hplace
  case ctl =>
    intro addr data s b n haddr hboot hplace
    refine ⟨fun hlen hal => ?_, fun w hdata hline hbad => ?_⟩
    · have hdata : data ≠ [] := by rintro rfl; exact absurd hlen (by decide)
      have hw := fun w => cxlAccess_ctl (m := 0) (w := w) (Nat.zero_le 1) haddr hdata (by omega) hboot hplace
      have hok : ¬ (data.length ≠ 8 ∨ addr % 8 ≠ 0) := fun h => h.elim (· hlen) (· hal)
      exact ⟨by rw [hw, if_neg hok, if_pos rfl], by rw [hw, if_neg hok, if_neg Bool.false_ne_true]⟩
    · rw [cxlAccess_ctl (Nat.zero_le 1) haddr hdata hline hboot hplace, if_pos hbad]
  case load =>
    intro i s m h pa n acc data harr hdst hbody
    exact ⟨exec_hostWindowAccess_load harr hdst hbody true data, exec_hostWindowAccess_load harr hdst hbody false data⟩
  case store =>
    intro i s m h pa bs f acc data harr hdst hbody
    exact ⟨exec_hostWindowAccess_store harr hdst hbody true data, exec_hostWindowAccess_store harr hdst hbody false data⟩
  case window =>
    intro n r ctl s h hn hboot hh hr
    subst hh
    refine ⟨fun hgo hbusy => ?_, fun hgo hbusy => ?_, fun hgo => ?_, fun hgo hnext => ?_, fun hgo hnext => ?_⟩
    · rw [exec_launchWindowGo hn hboot, if_pos hgo, if_neg (by simp [hbusy]), if_neg hr]
    · rw [exec_launchWindowGo hn hboot, if_pos hgo, if_pos hbusy]
    · rw [exec_launchWindowGo hn hboot, if_neg (ne_true_of_eq_false hgo), if_pos hr, if_neg hr]
    · rw [exec_launchWindowGo hn hboot, if_neg (ne_true_of_eq_false hgo), if_neg (by simp), if_pos hnext]
    · rw [exec_launchWindowGo hn hboot, if_neg (ne_true_of_eq_false hgo), if_neg (by simp), if_neg (by simp [hnext])]
  case agent =>
    intro s n z r hz hr
    exact ⟨agentLaunch_bad hz hr, agentLaunch_cancelled hz hr, fun l hl => agentLaunch_sends hz hr hl⟩
  case answer =>
    intro s n st
    rw [agentAnswer, hslotAt_setHslot]
    exact ⟨rfl, rfl⟩
  case attest =>
    intro i m v s h hv
    exact ⟨_, rfl, congrArg Host.Outcome.next (onCtlStore_of_ctlStoreAt h hv attWrite), quoteDue_attWrite hv, fun hdue => attWrite_asks hv hdue⟩
  case quote =>
    intro s i m h
    refine ⟨fun bs hbody hlen => ?_, fun hbody => ?_, fun k hbody => ?_⟩
    · obtain ⟨hsize, hnonce, hmeas⟩ := quoteBytes_parts hlen s.modul
      exact ⟨_, exec_quoteWritten_nonce h hbody, hsize, hnonce, hmeas, List.mem_append_right _ (List.mem_singleton_self _)⟩
    · exact ⟨_, exec_quoteWritten_ack h hbody, rfl, (creg_quoteEnded _ _).trans (by decide)⟩
    · exact ⟨_, exec_quoteWritten_refusal h hbody, rfl, rfl⟩
  case start =>
    intro s good h
    obtain ⟨hboot, hoff, hflash, hrows⟩ := modul_bootStart s
    refine ⟨_, exec_boot_start h good, creg_bootStart_step s, hboot, hoff, hflash, hrows, rfl, rfl, ?_⟩
    rw [creg_bootStart_count, ← bitF_high _ (lo := 32) (n := 32) rfl, bitF_setF_self _ _ (by decide), bitF_high _ rfl]
  case boot =>
    intro s n k hhu hoff hboot hk
    refine ⟨fun h1 h7 => ?_, fun h1 himg => ?_, fun h1 h7 himg => ?_, fun h8 good => ?_⟩
    · refine ⟨_, ?_, bootFails_ends k s⟩
      rw [exec_boot_step hhu hoff hboot hk (by omega), if_neg (by omega), if_pos (.inl rfl)]
    · subst h1
      obtain ⟨hstep, hnone, -⟩ := bootFails_ends 1 s
      refine ⟨_, ?_, hstep, hnone⟩
      rw [exec_boot_step hhu hoff hboot hk (by decide), if_neg (by decide), if_pos (.inr ⟨rfl, by rw [himg]; rfl⟩)]
    · rw [exec_boot_step hhu hoff hboot hk (by omega), if_neg (by omega), if_neg]
      rintro (h | ⟨h, hbad⟩)
      · cases h
      · rw [himg h] at hbad
        cases hbad
    · subst h8
      obtain ⟨hstep, hnone, hon, hevt, hmaint⟩ := bootDone_ends (Config.bootFacts n) s
      refine ⟨_, (exec_boot_step hhu hoff hboot hk (by decide) good).trans (if_pos (Nat.le_refl 8)), hstep, hnone, hon.trans hoff, ?_, ?_, hevt, hmaint⟩
      · rw [booted, hstep]
        decide
      · rw [bootFailed, hstep]
        decide
  case turn => exact fun s hoff hboot => ⟨step_of_turn hoff hboot, fun k => step_of_dueTurn hoff hboot⟩
  case failed => exact fun s hoff hboot => step_of_bootFailed hoff hboot

end Sys2Proof.Machine
end

section
/-! Ports of the links: what the operations on a port leave alone, and what a port that goes down or throws its switch holds (R378 to R386). -/

namespace Sys2Proof.Machine

open Sys2Proof.Claims

/-! One port. -/

@[simp] theorem portAt_setPort_self (s : State) (p : Nat) (x : Port) : portAt (setPort s p x) p = x := SMap.get_set_self _ _ _ _
@[simp] theorem portAt_modPort_self (s : State) (p : Nat) (f : Port → Port) : portAt (modPort s p f) p = f (portAt s p) := SMap.get_set_self _ _ _ _

theorem setPort_setPort (s : State) (p : Nat) (x y : Port) : setPort (setPort s p x) p y = setPort s p y := by
  simp only [setPort, modModul, SMap.set_set]

/-- Two changes of one port are one. -/
theorem modPort_modPort (s : State) (p : Nat) (f g : Port → Port) : modPort (modPort s p f) p g = modPort s p fun x => g (f x) := by
  rw [modPort, portAt_modPort_self, modPort, setPort_setPort]
  rfl

theorem modPort_congr {s : State} {p : Nat} {f g : Port → Port} (h : f (portAt s p) = g (portAt s p)) : modPort s p f = modPort s p g :=
  congrArg (setPort s p) h

theorem sendCtl_modPort (s : State) (p ty v : Nat) (f : Port → Port) :
    sendCtl (modPort s p f) p ty v = modPort s p fun x => { f x with ctl := (f x).ctl ++ [(ty, v)] } := modPort_modPort s p f _

@[simp] theorem portAt_sendMsg (s : State) (m : Msg) (p : Nat) : portAt (sendMsg s m) p = portAt s p := rfl
@[simp] theorem portAt_dropMsg (s : State) (i p : Nat) : portAt (dropMsg s i) p = portAt s p := rfl
@[simp] theorem portAt_raiseEvent (s : State) (core cause : Nat) (v : Word) (p : Nat) : portAt (raiseEvent s core cause v) p = portAt s p := rfl

@[simp] theorem portAt_hostEvent (s : State) (b p : Nat) : portAt (hostEvent s b) p = portAt s p :=
  keeps_modul_hostEvent (g := fun m => SMap.get (fun _ => Port.reset) m.ports p) (fun _ _ _ => rfl) s b

@[simp] theorem portAt_raiseLink (s : State) (p reason q : Nat) : portAt (raiseLink s p reason) q = portAt s q := by
  rw [raiseLink, portAt_hostEvent, portAt_raiseEvent]

@[simp] theorem portAt_advise (s : State) (b tower cl q : Nat) : portAt (advise s b tower cl) q = portAt s q := by
  rw [advise]
  split
  · rfl
  · rw [portAt_hostEvent, portAt_raiseEvent]
    rfl

/-! Waiting forms (R386). -/

section
variable {s : State} {p : Nat} {m : Msg} {v : Nat}

theorem answerFec_none (h : (portAt s p).fec = none) : answerFec s p v = s := by rw [answerFec, h]
theorem answerFec_some (h : (portAt s p).fec = some m) : answerFec s p v = answerUnit (modPort s p fun x => { x with fec := none }) m v := by
  rw [answerFec, h]
theorem answerClaim_none (h : (portAt s p).claim = none) : answerClaim s p v = s := by rw [answerClaim, h]
theorem answerClaim_some (h : (portAt s p).claim = some m) : answerClaim s p v = answerUnit (modPort s p fun x => { x with claim := none }) m v := by
  rw [answerClaim, h]

theorem mem_net_answerFec (h : (portAt s p).fec = some m) : replyTo m (.loadReply (.value (natLE 8 v))) ∈ (answerFec s p v).net := by
  rw [answerFec_some h]
  exact List.mem_append_right _ (List.mem_singleton_self _)

theorem mem_net_answerClaim (h : (portAt s p).claim = some m) : replyTo m (.loadReply (.value (natLE 8 v))) ∈ (answerClaim s p v).net := by
  rw [answerClaim_some h]
  exact List.mem_append_right _ (List.mem_singleton_self _)

end

@[simp] theorem portAt_answerFec (s : State) (p v : Nat) : portAt (answerFec s p v) p = { portAt s p with fec := none } := by
  cases h : (portAt s p).fec with
  | none => rw [answerFec_none h, ← h]
  | some m =>
    rw [answerFec_some h, answerUnit, portAt_sendMsg, portAt_modPort_self]

@[simp] theorem portAt_answerClaim (s : State) (p v : Nat) : portAt (answerClaim s p v) p = { portAt s p with claim := none } := by
  cases h : (portAt s p).claim with
  | none => rw [answerClaim_none h, ← h]
  | some m => rw [answerClaim_some h, answerUnit, portAt_sendMsg, portAt_modPort_self]

/-! What has left ends (R382). -/

/-- A lost request is answered, or it ends in silence. -/
theorem endLost_cases (cause reason : Nat) (s : State) (m : Msg) :
    endLost cause reason s m = s ∨ ∃ b, endLost cause reason s m = sendMsg s (replyTo m b) := by
  rw [endLost]
  split
  · exact .inr ⟨_, rfl⟩
  · split
    · split
      · exact .inl rfl
      · exact .inr ⟨_, rfl⟩
    · exact .inl rfl

section
variable {β : Type} {g : State → β} (hsend : ∀ s m, g (sendMsg s m) = g s)
include hsend

theorem keeps_endLost (cause reason : Nat) (s : State) (m : Msg) : g (endLost cause reason s m) = g s := by
  obtain h | ⟨b, h⟩ := endLost_cases cause reason s m
  · rw [h]
  · rw [h, hsend]

/-- The port as it stands when what has left through it ends. -/
def Port.drained (x : Port) : Port :=
  { x with sent := [], buf := [], fwd := [],
           ended := x.ended ++ ((x.buf.map Prod.snd ++ x.fwd).map LinkMsg.msg).filter fun m => isActive m.body && !foreign m }

theorem keeps_endSent_drained (s : State) (p : Nat) : g (endSent s p) = g (modPort s p Port.drained) :=
  (keeps_foldl (keeps_endLost hsend _ _) _ _).trans (keeps_foldl (keeps_endLost hsend _ _) _ _)

section
variable (hport : ∀ s p f, g (modPort s p f) = g s)
include hport

theorem keeps_endSent (s : State) (p : Nat) : g (endSent s p) = g s := (keeps_endSent_drained hsend s p).trans (hport _ _ _)

theorem keeps_answerFec (s : State) (p v : Nat) : g (answerFec s p v) = g s := by
  cases h : (portAt s p).fec with
  | none => rw [answerFec_none h]
  | some m => rw [answerFec_some h, answerUnit, hsend, hport]

theorem keeps_answerClaim (s : State) (p v : Nat) : g (answerClaim s p v) = g s := by
  cases h : (portAt s p).claim with
  | none => rw [answerClaim_none h]
  | some m => rw [answerClaim_some h, answerUnit, hsend, hport]

end
end

@[simp] theorem portAt_endSent (s : State) (p : Nat) : portAt (endSent s p) p = (portAt s p).drained :=
  (keeps_endSent_drained (g := fun t => portAt t p) (fun _ _ => rfl) s p).trans (portAt_modPort_self _ _ _)

theorem drained_of_empty (x : Port) : x.drained.sent = [] ∧ x.drained.buf = [] ∧ x.drained.fwd = [] := ⟨rfl, rfl, rfl⟩

/-! The switch (R385, R386). -/

/-- A port whose switch is thrown. -/
theorem portAt_throwSwitch (s : State) (p pos : Nat) : portAt (throwSwitch s p pos) p = Port.drained { portAt s p with
    state := 3, swpos := pos, prop := none, agreed := none, takeover := none, failover := false, fec := none } := by
  rw [throwSwitch, portAt_endSent, portAt_answerFec, portAt_modPort_self]

/-! Link events and what a core takes of them. -/

/-- The pager core of the port's tower, which takes the link's events. -/
def linkCore (s : State) (p : Nat) : Nat := lcoreKey s (clusterIn (p / 2) 0) 32

theorem mem_evq_raiseLink {s : State} {j : Nat} {e : Nat × Word} (h : e ∈ (coreAt s j).evq) (p reason : Nat) :
    e ∈ (coreAt (raiseLink s p reason) j).evq := mem_evq_hostEvent (mem_evq_raiseEvent h _ _ _) 1

theorem mem_evq_raiseLink_self {s : State} {p : Nat} (h : (coreAt s (linkCore s p)).evq.length < 16) (reason : Nat) :
    (0x60, nw (p % 16 + reason * 2 ^ 8)) ∈ (coreAt (raiseLink s p reason) (linkCore s p)).evq := by
  refine mem_evq_hostEvent ?_ 1
  rw [← linkCore, evq_raiseEvent _ _ h]
  exact List.mem_append_right _ (List.mem_singleton_self _)

theorem coreAt_modPort (s : State) (p j : Nat) (f : Port → Port) : coreAt (modPort s p f) j = coreAt s j := rfl

theorem linkCore_modPort (s : State) (p q : Nat) (f : Port → Port) : linkCore (modPort s q f) p = linkCore s p := rfl

/-- A link event after a change of a port. -/
theorem mem_evq_raiseLink_modPort {s : State} {p : Nat} (h : (coreAt s (linkCore s p)).evq.length < 16) (f : Port → Port) (reason : Nat) :
    (0x60, nw (p % 16 + reason * 2 ^ 8)) ∈ (coreAt (raiseLink (modPort s p f) p reason) (linkCore s p)).evq :=
  mem_evq_raiseLink_self (s := modPort s p f) h reason

/-! Failover (R385). -/

theorem linkCfg_modPort (s : State) (p q : Nat) (f : Port → Port) : linkCfg (modPort s q f) p = linkCfg s p := rfl

theorem linkCfg_raiseLink (s : State) {p : Nat} (q reason : Nat) (hp : p ≤ 15) : linkCfg (raiseLink s q reason) p = linkCfg s p :=
  creg_hostEvent_ne _ 1 (by omega)

theorem hu_raiseLink (s : State) (p reason : Nat) : (raiseLink s p reason).modul.hu = s.modul.hu :=
  keeps_modul_hostEvent (g := Modul.hu) (fun _ _ _ => rfl) _ 1

theorem failover_of_ok {s : State} {p : Nat} (h : failoverOk s p = true) : failover s p =
    raiseLink (modPort s p fun x => { x with owner := 1, state := 3, swpos := 1, failover := true }) p 5 := by rw [failover, if_pos h]

theorem failover_of_not {s : State} {p : Nat} (h : failoverOk s p = false) : failover s p = s := by
  rw [failover, if_neg (ne_true_of_eq_false h)]

theorem failoverOk_congr {s t : State} {p : Nat} (hcfg : linkCfg t p = linkCfg s p) (hpos : (portAt t p).swpos = (portAt s p).swpos)
    (howner : (portAt t p).owner = (portAt s p).owner) (hhu : t.modul.hu = s.modul.hu) : failoverOk t p = failoverOk s p := by
  simp only [failoverOk, linksDark, hcfg, hpos, howner, hhu]

theorem mem_evq_failover {s : State} {j : Nat} {e : Nat × Word} (h : e ∈ (coreAt s j).evq) (p : Nat) : e ∈ (coreAt (failover s p) j).evq := by
  rw [failover]
  split
  · exact mem_evq_raiseLink h p 5
  · exact h

theorem net_failover (s : State) (p : Nat) : (failover s p).net = s.net := by
  rw [failover]
  split <;> rfl

/-- A port after a failover that may have begun. -/
theorem portAt_failover (s : State) (p : Nat) : portAt (failover s p) p =
    if failoverOk s p then { portAt s p with owner := 1, state := 3, swpos := 1, failover := true } else portAt s p := by
  rw [failover]
  split
  · rw [portAt_raiseLink, portAt_modPort_self]
  · rfl

theorem failover_begins {p : Nat} {s : State} (h : failoverOk s p = true) : (portAt (failover s p) p).owner = 1 ∧ (portAt (failover s p) p).state = 3 ∧
    (portAt (failover s p) p).swpos = 1 ∧ (portAt (failover s p) p).failover = true ∧ ((coreAt s (linkCore s p)).evq.length < 16 →
      (0x60, nw (p % 16 + 5 * 2 ^ 8)) ∈ (coreAt (failover s p) (linkCore s p)).evq) := by
  rw [portAt_failover, if_pos h]
  refine ⟨rfl, rfl, rfl, rfl, fun hroom => ?_⟩
  rw [failover_of_ok h]
  exact mem_evq_raiseLink_modPort hroom _ 5

/-! Link down (R382). -/

/-- A link that is going down, before what has left through it ends. -/
def goingDown (s : State) (p reason : Nat) : State :=
  raiseLink (modPort s p fun x => { x with state := 0, prop := none, agreed := none, takeover := none }) p reason

theorem portAt_goingDown (s : State) (p reason : Nat) : portAt (goingDown s p reason) p =
    { portAt s p with state := 0, prop := none, agreed := none, takeover := none } := by
  rw [goingDown, portAt_raiseLink, portAt_modPort_self]

theorem takeDown_eq (s : State) (p reason : Nat) : takeDown s p reason = failover (answerFec (endSent (goingDown s p reason) p) p 2) p := rfl

section
variable {s : State} {p reason : Nat}

theorem portAt_down (s : State) (p reason : Nat) : portAt (answerFec (endSent (goingDown s p reason) p) p 2) p = { Port.drained
    { portAt s p with state := 0, prop := none, agreed := none, takeover := none } with fec := none } := by
  rw [portAt_answerFec, portAt_endSent, portAt_goingDown]

theorem failoverOk_down (hp : p ≤ 15) : failoverOk (answerFec (endSent (goingDown s p reason) p) p 2) p = failoverOk s p := by
  refine failoverOk_congr ?_ ?_ ?_ ?_
  · refine (keeps_answerFec (g := fun t => linkCfg t p) (fun _ _ => rfl) (fun _ _ _ => rfl) _ _ _).trans ?_
    exact (keeps_endSent (g := fun t => linkCfg t p) (fun _ _ => rfl) (fun _ _ _ => rfl) _ _).trans (linkCfg_raiseLink _ p reason hp)
  · rw [portAt_down]
    rfl
  · rw [portAt_down]
    rfl
  · refine (keeps_answerFec (g := fun t : State => t.modul.hu) (fun _ _ => rfl) (fun _ _ _ => rfl) _ _ _).trans ?_
    exact (keeps_endSent (g := fun t : State => t.modul.hu) (fun _ _ => rfl) (fun _ _ _ => rfl) _ _).trans (hu_raiseLink _ p reason)

theorem coreAt_down (j : Nat) : coreAt (answerFec (endSent (goingDown s p reason) p) p 2) j = coreAt (goingDown s p reason) j :=
  (keeps_answerFec (g := fun t => coreAt t j) (fun _ _ => rfl) (fun _ _ _ => rfl) _ _ _).trans
    (keeps_endSent (g := fun t => coreAt t j) (fun _ _ => rfl) (fun _ _ _ => rfl) _ _)

/-- A link that goes down without a failover. -/
theorem takeDown_downs (hp : p ≤ 15) (h : failoverOk s p = false) : (portAt (takeDown s p reason) p).state = 0 ∧
    (portAt (takeDown s p reason) p).sent = [] ∧ (portAt (takeDown s p reason) p).buf = [] ∧ (portAt (takeDown s p reason) p).fwd = [] ∧
    ((coreAt s (linkCore s p)).evq.length < 16 → (0x60, nw (p % 16 + reason * 2 ^ 8)) ∈ (coreAt (takeDown s p reason) (linkCore s p)).evq) := by
  rw [takeDown_eq, failover_of_not ((failoverOk_down hp).trans h), portAt_down]
  refine ⟨rfl, rfl, rfl, rfl, fun hroom => ?_⟩
  rw [coreAt_down]
  exact mem_evq_raiseLink_modPort hroom _ reason

end

/-! Training (R385). -/

section
variable {s : State} {p : Nat}

/-- A port that comes up. -/
theorem portAt_trainingEnds (s : State) (p peer : Nat) : portAt (trainingEnds s p peer) p = { portAt s p with
    state := 2, level := if cfgPin (linkCfg s p) then cfgPlvl (linkCfg s p) else cfgMin (linkCfg s p), flane := 15, peer := peer % 256, seqTx := 0,
    seqRx := 0, lmap := s.modul.creg 0x4B3, prop := none, agreed := none, takeover := none, nak := 4096, fails := 0, low := 0, failover := false,
    ctl := [], claim := none } := by
  rw [trainingEnds, portAt_answerClaim]
  split <;> simp only [portAt_raiseLink, portAt_modPort_self]

theorem mem_net_trainingEnds {m : Msg} (h : (portAt s p).claim = some m) (peer : Nat) :
    replyTo m (.loadReply (.value (natLE 8 0))) ∈ (trainingEnds s p peer).net := by
  refine mem_net_answerClaim ?_
  split
  · rw [portAt_raiseLink, portAt_modPort_self, ← h]
  · rw [portAt_modPort_self, ← h]

/-- The training of a port, which no failover began, has failed, before a failover may begin. -/
def untrained (s : State) (p : Nat) : State := answerClaim (raiseLink (modPort s p fun x => { x with state := 0, failover := false }) p 4) p 3

theorem trainingFails_first (h : (portAt s p).failover = false) : trainingFails s p = failover (untrained s p) p := by
  rw [trainingFails, if_neg (ne_true_of_eq_false h), untrained]

theorem trainingFails_failover (h : (portAt s p).failover = true) :
    trainingFails s p = raiseLink (modPort s p fun x => { x with state := 0, failover := false }) p 7 := by
  rw [trainingFails, if_pos h]

theorem portAt_untrained (s : State) (p : Nat) : portAt (untrained s p) p = { portAt s p with state := 0, failover := false, claim := none } := by
  rw [untrained, portAt_answerClaim, portAt_raiseLink, portAt_modPort_self]

theorem untrained_state (s : State) (p : Nat) :
    (portAt (failover (untrained s p) p) p).state = 0 ∨ ((portAt (failover (untrained s p) p) p).state = 3 ∧ (portAt (failover (untrained s p) p) p).owner = 1) := by
  rw [portAt_failover, portAt_untrained]
  split
  · exact .inr ⟨rfl, rfl⟩
  · exact .inl rfl

theorem mem_evq_untrained (h : (coreAt s (linkCore s p)).evq.length < 16) :
    (0x60, nw (p % 16 + 4 * 2 ^ 8)) ∈ (coreAt (failover (untrained s p) p) (linkCore s p)).evq := by
  refine mem_evq_failover ?_ p
  rw [untrained, keeps_answerClaim (g := fun t => coreAt t (linkCore s p)) (fun _ _ => rfl) (fun _ _ _ => rfl)]
  exact mem_evq_raiseLink_modPort h _ 4

theorem mem_net_untrained {m : Msg} (h : (portAt s p).claim = some m) :
    replyTo m (.loadReply (.value (natLE 8 3))) ∈ (failover (untrained s p) p).net := by
  rw [net_failover]
  refine mem_net_answerClaim ?_
  rw [portAt_raiseLink, portAt_modPort_self, ← h]

end

end Sys2Proof.Machine
end

section
/-! Links (R377 to R386). -/

namespace Sys2Proof.Machine

open Sys2Proof.Claims

/-! The LNK forms (R386). -/

section
variable {s : State} {d a : GReg} {t : Bool} {srcs : List GReg} {va : Word} {vs : List Word} {y : Slot} {f : UnitForm} {i : Instr}
  (hi : exec i s = .next (lnkForm s d a srcs t f)) (h : Reads s srcs (some d) (va :: vs) y)
include hi h

theorem lnkForm_asks (hport : va.toNat / 2 ^ 5 = 0) : AsksUnit s i y modulAgent f (va :: vs) fun v => completes s (wrote (popped s y) d a t v) := by
  refine asksUnit_of_askUnit (done := fun s v => .done (modSlot s s.cur fun x => (x.takeIf t a.toNat).writeDst d.toNat v)) h ?_
    fun v => completes_of_wrote rfl
  refine hi.trans ((next_withOps h _).trans ?_)
  have hok : ¬ bitF (val (va :: vs) 0) 5 59 ≠ 0 := by
    rw [val_zero, bitF_high va (by decide)]
    exact not_not_intro hport
  simp only [if_neg hok]

theorem lnkForm_traps (hport : va.toNat / 2 ^ 5 ≠ 0) : exec i s = traps s 0x10 va := by
  refine hi.trans ((next_withOps h _).trans (traps_of_trap ?_))
  have hbad : bitF (val (va :: vs) 0) 5 59 ≠ 0 := by rwa [val_zero, bitF_high va (by decide)]
  exact if_pos hbad

end

/-! The forms at their port. -/

theorem port_eq (va : Word) : va.toNat % 16 = bitF (val [va] 0) 0 4 := (bitF_zero va 4).symm

section
variable {s : State} {i : Nat} {m : Msg} {va vb : Word} {p : Nat} (hp : p = va.toNat % 16)
include hp

theorem exec_loadRequest_lnkq (h : UnitAt s i m .lnkq [va]) : exec (.loadRequest i) s = unitAnswers (dropMsg s i) m
    (if va.getLsbD 4 then (portAt s p).corrected * 2 ^ 32 + (portAt s p).bad else (linkStat s p).toNat) := by
  refine exec_loadRequest_unit h (congrArg some ?_)
  rw [hp.trans (port_eq va)]
  exact congrArg (answerUnit (dropMsg s i) m) (if_congr Iff.rfl rfl rfl)

theorem exec_loadRequest_lnkfec (h : UnitAt s i m .lnkfec [va, vb]) :
    exec (.loadRequest i) s = .next ((fecPerform (dropMsg s i) m p vb).getD s) := by
  obtain ⟨hm, hb⟩ := h
  change execLoadRequest i s = _
  rw [hp.trans (port_eq va)]
  simp only [execLoadRequest, hm, hb]
  rfl

theorem exec_loadRequest_lnkclaim (h : UnitAt s i m .lnkclaim [va, vb]) : exec (.loadRequest i) s = .next (claimPerform (dropMsg s i) m p vb) := by
  rw [hp.trans (port_eq va)]
  exact exec_loadRequest_unit h rfl

end

section
variable {s z : State} {m : Msg} {p l want : Nat} {v : Word} {x : Port} (hx : x = portAt s p) (hl : l = v.toNat % 4)
  (hwant : want = if v.getLsbD 2 then l else Nat.max l (cfgMin (linkCfg s p)))
  (hz : z = modModul s fun c => c.setCreg (0x480 + p) (setF (setB (c.creg (0x480 + p)) 7 (v.getLsbD 2)) 5 2 l))
include hx hl hwant hz

/-- `lnkfec` at its port, by the port's state and the change that is under way. -/
theorem fecPerform_eq : fecPerform s m p v =
    if x.state ≠ 2 then some (answerUnit s m 1)
    else if x.prop.isSome ∨ x.agreed.isSome then none
    else if x.level = want then some (answerUnit z m 0)
    else some (propose (modPort z p fun x => { x with fec := some m }) p want 15) := by
  have hl' : l = bitF v 0 2 := hl.trans (bitF_zero v 2).symm
  subst hx hwant hz hl'
  rfl

end

section
variable {s : State} {m : Msg} {p : Nat} {v : Word}

theorem claimPerform_claim (hv : v.getLsbD 0 = true) : claimPerform s m p v =
    if (portAt s p).owner ≠ 0 ∨ (portAt s p).bid.isSome then answerUnit s m 1
    else modPort s p fun x => { x with bid := some (m, v.toNat / 2 ^ 8 % 2 ^ 8), bidAt := s.time + 1 } := by
  have hb : bitB v 0 = true := hv
  rw [claimPerform, if_pos hb]
  rfl

theorem claimPerform_release (hv : v.getLsbD 0 = false) : claimPerform s m p v =
    if (portAt s p).owner = 0 ∨ ((portAt s p).owner = 1 ∧ v.getLsbD 1 = false) then answerUnit s m 2
    else modPort (throwSwitch (answerClaim s p 3) p 0) p fun x => { x with owner := 0, claim := some m } := by
  have hb : ¬ bitB v 0 = true := ne_true_of_eq_false hv
  rw [claimPerform, if_neg hb]
  simp only [bitB, Bool.not_eq_true']

/-- A port whose switch is thrown for a claim or a release. -/
theorem portAt_claimed (s : State) (p pos : Nat) (f : Port → Port) : portAt (modPort (throwSwitch s p pos) p f) p =
    f (Port.drained { portAt s p with
      state := 3, swpos := pos, prop := none, agreed := none, takeover := none, failover := false, fec := none }) := by
  rw [portAt_modPort_self, portAt_throwSwitch]

/-- A claim is decided when its cycle is over (R385). -/
theorem settleBid_due {tag : Nat} (hbid : (portAt s p).bid = some (m, tag)) (hdue : (portAt s p).bidAt ≤ s.time) : settleBid s p =
    if (portAt s p).owner ≠ 0 then answerUnit (modPort s p fun x => { x with bid := none }) m 1
    else modPort (throwSwitch (answerClaim (modPort s p fun x => { x with bid := none }) p 3) p 1) p fun x =>
      { x with owner := 2, tag := tag, claim := some m } := by
  rw [settleBid, hbid]
  exact if_neg (Nat.not_lt.2 hdue)

end

/-! Changes of a level (R379, R380). -/

theorem propose_eq {s : State} {p : Nat} (level lane : Nat) (hprop : (portAt s p).prop = none) (hagreed : (portAt s p).agreed = none) :
    propose s p level lane = modPort s p fun x => { x with
      prop := some (level, lane, ((portAt s p).seqTx + 64) % 4096, tickOf s),
      ctl := x.ctl ++ [(1, chgWord level lane (((portAt s p).seqTx + 64) % 4096))] } := by
  have hfree : ¬ ((portAt s p).prop.isSome ∨ (portAt s p).agreed.isSome) := by simp [hprop, hagreed]
  rw [propose, if_neg hfree, sendCtl_modPort]

theorem crossFrame_agreed {s : State} {p level lane n : Nat} {peer : Bool} (h : (portAt s p).agreed = some (peer, level, lane, n)) :
    crossFrame s p = if seqReached (if peer then (portAt s p).seqRx else (portAt s p).seqTx) n then switchLevel s p level lane else s := by
  rw [crossFrame, h]

/-- The port's change of a level, before the waiting `lnkfec` is answered. -/
def levelled (s : State) (p level lane : Nat) : State := modPort s p fun x => { x with
  level := level % 4, flane := if lane = 15 then x.flane else lane, prop := none, agreed := none, low := 0,
  takeover := if lane = 15 then x.takeover else none }

theorem switchLevel_eq (s : State) (p level lane : Nat) : switchLevel s p level lane =
    if lane = 15 then answerFec (levelled s p level lane) p 0 else advise (answerFec (levelled s p level lane) p 0) 4 (p / 2) 0 := rfl

theorem portAt_switchLevel (s : State) (p level lane : Nat) : portAt (switchLevel s p level lane) p = { portAt s p with
    level := level % 4, flane := if lane = 15 then (portAt s p).flane else lane, prop := none, agreed := none, low := 0,
    takeover := if lane = 15 then (portAt s p).takeover else none, fec := none } := by
  rw [switchLevel_eq, apply_ite (fun t => portAt t p), portAt_advise, ite_self, portAt_answerFec, levelled, portAt_modPort_self]

theorem level_switchLevel (s : State) (p level lane : Nat) : (portAt (switchLevel s p level lane) p).level = level % 4 := by rw [portAt_switchLevel]

theorem flane_switchLevel (s : State) (p level : Nat) : (portAt (switchLevel s p level 15) p).flane = (portAt s p).flane := by
  rw [portAt_switchLevel]
  rfl

theorem switchLevel_answers {s : State} {p : Nat} {m : Msg} (h : (portAt s p).fec = some m) (level : Nat) :
    replyTo m (.loadReply (.value (natLE 8 0))) ∈ (switchLevel s p level 15).net := by
  rw [switchLevel_eq, if_pos rfl]
  refine mem_net_answerFec ?_
  rw [levelled, portAt_modPort_self]
  exact h

/-- What a port has sent stays over a change of its level. -/
theorem sent_crossFrame (s : State) (p : Nat) : (portAt (crossFrame s p) p).sent = (portAt s p).sent := by
  cases h : (portAt s p).agreed with
  | none => rw [crossFrame, h]
  | some c =>
    obtain ⟨peer, level, lane, n⟩ := c
    rw [crossFrame_agreed h]
    by_cases hr : seqReached (if peer then (portAt s p).seqRx else (portAt s p).seqTx) n = true
    · rw [if_pos hr, portAt_switchLevel]
    · rw [if_neg hr]

/-! Frames (R378, R381, R384). -/

theorem mem_buf_linkAck (s : State) (p a : Nat) (b : Nat × LinkMsg) :
    b ∈ (portAt (linkAck s p a) p).buf ↔ b ∈ (portAt s p).buf ∧ seqReached a b.1 = false := by
  rw [linkAck, portAt_modPort_self, List.mem_filter, Bool.not_eq_true']

theorem frameGood_nil (level : Nat) : frameGood level [] = true := by
  rw [frameGood, Bool.and_eq_true]
  exact ⟨decide_eq_true (Nat.zero_le _), decide_eq_true (Nat.zero_le _)⟩

/-- Without code, one wrong byte fails the frame, in whichever codeword it stands. -/
theorem frameGood_zero_one {k : Nat} (h : k < 268) : frameGood 0 [k] = false := by
  have hk : k < frameBytes 0 := h
  rcases Nat.mod_two_eq_zero_or_one k with hpar | hpar <;> simp [frameGood, codeFixes, hk, hpar]

section
variable {p : Nat} {hdr op : Word} {bad : List Nat} {ms : List LinkMsg} {s : State}

theorem exec_linkFrameReceive_down (h : 15 < p ∨ (portAt s p).state ≠ 2) : exec (.linkFrameReceive p hdr op bad ms) s = .next s := by
  change execLinkFrameReceive p hdr op bad ms s = _
  rw [execLinkFrameReceive, if_pos h]

section
variable {x : Port} {z : State} (hx : x = portAt s p) (hp : p ≤ 15) (hstate : x.state = 2)
include hp hstate

theorem port_up : ¬ (15 < p ∨ x.state ≠ 2) := not_or_intro (Nat.not_lt.2 hp) (not_not_intro hstate)

include hx

theorem exec_linkFrameReceive_bad (h : 4 < hdrType hdr ∨ frameGood x.level bad = false) : exec (.linkFrameReceive p hdr op bad ms) s =
    .next (modPort s p fun x => { x with ctl := x.ctl ++ [(3, seqWord x.seqRx)] }) := by
  subst hx
  have hbad : 4 < hdrType hdr ∨ (!frameGood (portAt s p).level bad) = true := h.imp_right fun hf => by rw [hf]; rfl
  refine (if_neg (port_up hp hstate)).trans ((if_pos hbad).trans (congrArg Host.Outcome.next ?_))
  exact modPort_congr rfl

section
variable (htype : hdrType hdr ≤ 4) (hgood : frameGood x.level bad = true) (hz : z = linkAck s p (hdrAck hdr))

omit hx hp hstate in
include htype hgood in
theorem frame_passes : ¬ (4 < hdrType hdr ∨ (!frameGood x.level bad) = true) := not_or_intro (Nat.not_lt.2 htype) (by simp [hgood])

include htype hgood hz

theorem exec_linkFrameReceive_data (h : hdrType hdr = 0) : exec (.linkFrameReceive p hdr op bad ms) s =
    if hdrSeq hdr ≠ x.seqRx then .next z
    else .next ((ms.take (flitsOf hdr)).foldl (linkArrive p) (crossFrame (modPort z p fun x => { x with seqRx := (x.seqRx + 1) % 4096 }) p)) := by
  subst hx hz
  refine (if_neg (port_up hp hstate)).trans ((if_neg (frame_passes htype hgood)).trans ?_)
  rw [h]
  rfl

theorem exec_linkFrameReceive_chg (h : hdrType hdr = 1) (hvalid : hdrValid hdr = 0) : exec (.linkFrameReceive p hdr op bad ms) s =
    exec (.linkChg p (op.toNat % 4) (op.toNat / 2 ^ 4 % 2 ^ 4) (op.toNat / 2 ^ 16 % 2 ^ 12)) z := by
  have hlevel : op.toNat % 4 = bitF op 0 2 := (bitF_zero op 2).symm
  subst hx hz
  refine (if_neg (port_up hp hstate)).trans ((if_neg (frame_passes htype hgood)).trans ?_)
  rw [h, hlevel]
  exact if_pos hvalid

theorem exec_linkFrameReceive_cack (h : hdrType hdr = 2) (hvalid : hdrValid hdr = 0) : exec (.linkFrameReceive p hdr op bad ms) s =
    exec (.linkCack p (op.toNat / 2 ^ 16 % 2 ^ 12)) z := by
  subst hx hz
  refine (if_neg (port_up hp hstate)).trans ((if_neg (frame_passes htype hgood)).trans ?_)
  rw [h]
  exact if_pos hvalid

theorem exec_linkFrameReceive_nak (h : hdrType hdr = 3) (hvalid : hdrValid hdr = 0) : exec (.linkFrameReceive p hdr op bad ms) s =
    exec (.linkNak p (op.toNat / 2 ^ 16 % 2 ^ 12)) z := by
  subst hx hz
  refine (if_neg (port_up hp hstate)).trans ((if_neg (frame_passes htype hgood)).trans ?_)
  rw [h]
  exact if_pos hvalid

theorem exec_linkFrameReceive_idle (h : hdrType hdr = 4) : exec (.linkFrameReceive p hdr op bad ms) s = .next z := by
  subst hx hz
  refine (if_neg (port_up hp hstate)).trans ((if_neg (frame_passes htype hgood)).trans ?_)
  rw [h]
  rfl

end
end
end

/-! Messages of a frame (R382 to R384). -/

section
variable {s : State} {p : Nat} {l : LinkMsg}

theorem linkArrive_here (h : l.pkg % 256 = ownPkg s % 256) : linkArrive p s l = linkDeliver p s (hopped l) := by
  rw [linkArrive, if_pos h]

/-- A message for another package: forwarded by its route, or refused. -/
theorem linkArrive_beyond {r : Word} {m : Msg} (h : l.pkg % 256 ≠ ownPkg s % 256) (hr : r = SMap.get (fun _ => 0#64) s.modul.routes (l.pkg % 256))
    (hm : m = { l.msg with src := .link p, who := l.msg.who % 2 ^ 32 + l.src % 256 * 2 ^ 32 }) : linkArrive p s l =
      if r.getLsbD 63 = false ∨ r.toNat % 16 = p ∨ 15 ≤ l.hops then endLost 0x61 8 s m
      else portFlow (modPort s (r.toNat % 16) fun x => { x with fwd := x.fwd ++ [{ l with hops := l.hops + 1, msg := m }] }) (r.toNat % 16) := by
  have hq : r.toNat % 16 = bitF r 0 4 := (bitF_zero r 4).symm
  subst hm
  rw [linkArrive, if_neg h, ← hr, hq]
  refine if_congr ?_ rfl rfl
  rw [bitB, Bool.not_eq_true', show 16 ≤ l.hops + 1 ↔ 15 ≤ l.hops from Nat.add_le_add_iff_right (n := 1) (m := 15)]

end

section
variable {s : State} {p : Nat} {m : Msg} (hdst : m.dst = .link p) (hp : p ≤ 15)
include hdst hp

theorem linkOut_down (h : (portAt s p).state ≠ 2) : linkOut s m = endLost 0x60 10 s m := by
  rw [linkOut, outPort, hdst]
  exact (if_neg (Nat.not_lt.2 hp)).trans (if_neg h)

/-- A request that leaves stands among those that await their answers. -/
theorem sent_linkOut (h : (portAt s p).state = 2) (hreq : m.body.response = false) (ham : isActive m.body = false) :
    (portAt (linkOut s m) p).sent = (portAt s p).sent ++ [m] := by
  have hout : linkOut s m = modPort (transmit p s ⟨destPkg s m, ownPkg s, 0, m⟩) p fun x => { x with sent := x.sent ++ [m] } := by
    rw [linkOut, outPort, hdst]
    refine (if_neg (Nat.not_lt.2 hp)).trans ((if_pos h).trans (if_neg ?_))
    rw [hreq, ham]
    decide
  rw [hout, portAt_modPort_self, transmit, sent_crossFrame, portAt_modPort_self]
  rfl

end

/-! Replays (R381). -/

section
variable {p seq n : Nat} {s z : State} (hp : p ≤ 15) (hstate : (portAt s p).state = 2) (hn : n = ((portAt s p).seqTx + 4096 - seq % 4096) % 4096)
  (hpos : n ≠ 0) (hmax : n ≤ 512) (hz : z = modModul s fun m => m.setCreg (0x490 + p) (addF (m.creg (0x490 + p)) 32 32 n))
include hp hstate hn hpos hmax hz

/-- A NAK, with the replays of its frame that have failed so far. -/
theorem exec_linkNak_replays {fails : Nat} (hfails : fails = if (portAt s p).nak = seq % 4096 then (portAt s p).fails + 1 else 0) :
    exec (.linkNak p seq) s =
      if fails = 8 ∧ (!cfgPin (linkCfg s p)) = true ∧ (portAt s p).level < 3 then
        .next (propose (modPort z p fun x => { x with nak := seq % 4096, fails := fails }) p ((portAt s p).level + 1) 15)
      else if fails = 16 then .next (takeDown (modPort z p fun x => { x with nak := seq % 4096, fails := fails }) p 1)
      else .next (modPort z p fun x => { x with nak := seq % 4096, fails := fails }) := by
  have hgo : ¬ (15 < p ∨ (portAt s p).state ≠ 2 ∨ n = 0 ∨ 512 < n) := by
    rintro (h | h | h | h)
    · omega
    · exact h hstate
    · exact hpos h
    · omega
  subst hn hz hfails
  exact if_neg hgo

theorem exec_linkNak_first (hnak : (portAt s p).nak ≠ seq % 4096) :
    exec (.linkNak p seq) s = .next (modPort z p fun x => { x with nak := seq % 4096, fails := 0 }) := by
  rw [exec_linkNak_replays hp hstate hn hpos hmax hz (if_neg hnak).symm, if_neg (fun h => absurd h.1 (by decide)), if_neg (by decide)]

section
variable {f : Nat} (hnak : (portAt s p).nak = seq % 4096) (hfails : (portAt s p).fails = f)
include hnak hfails

/-- The port that has counted one more failing replay of the same frame. -/
theorem exec_linkNak_again : exec (.linkNak p seq) s =
    if f + 1 = 8 ∧ (!cfgPin (linkCfg s p)) = true ∧ (portAt s p).level < 3 then
      .next (propose (modPort z p fun x => { x with fails := f + 1 }) p ((portAt s p).level + 1) 15)
    else if f + 1 = 16 then .next (takeDown (modPort z p fun x => { x with fails := f + 1 }) p 1)
    else .next (modPort z p fun x => { x with fails := f + 1 }) := by
  have hport : portAt z p = portAt s p := by rw [hz]; rfl
  have hsame : (modPort z p fun x => { x with nak := seq % 4096, fails := f + 1 }) = modPort z p fun x => { x with fails := f + 1 } := by
    refine modPort_congr ?_
    rw [hport, ← hnak]
  rw [exec_linkNak_replays hp hstate hn hpos hmax hz (fails := f + 1) (by rw [if_pos hnak, hfails]), hsame]

end
end

/-! A change is agreed, takes effect, or times out (R380). -/

section
variable {p : Nat} {s : State} (hp : p ≤ 15) (hstate : (portAt s p).state = 2)
include hp hstate

theorem exec_linkChg_agrees {lvl lane n : Nat} (hprop : (portAt s p).prop = none) (hpin : cfgPin (linkCfg s p) = false ∨ lvl % 4 = (portAt s p).level) :
    exec (.linkChg p lvl lane n) s = .next (crossFrame (modPort s p fun x =>
      { x with agreed := some (true, lvl % 4, lane, n % 4096), ctl := x.ctl ++ [(2, seqWord n)] }) p) := by
  have hgo : ¬ (15 < p ∨ (portAt s p).state ≠ 2 ∨ (cfgPin (linkCfg s p) = true ∧ lvl % 4 ≠ (portAt s p).level)) := by
    rintro (h | h | ⟨h, h'⟩)
    · omega
    · exact h hstate
    · exact hpin.elim (fun hf => absurd (hf.symm.trans h) (by decide)) h'
  change execLinkChg p lvl lane n s = _
  simp only [execLinkChg, if_neg hgo, hprop, sendCtl_modPort]

section
variable {lvl lane n t : Nat} (hprop : (portAt s p).prop = some (lvl, lane, n, t))
include hprop

theorem exec_linkCack_agrees (hn : n < 4096) : exec (.linkCack p n) s =
    .next (crossFrame (modPort s p fun x => { x with prop := none, agreed := some (false, lvl, lane, n) }) p) := by
  have hgo : ¬ (15 < p ∨ (portAt s p).state ≠ 2 ∨ n ≠ n % 4096) := by
    rw [Nat.mod_eq_of_lt hn]
    rintro (h | h | h)
    · omega
    · exact h hstate
    · exact h rfl
  change execLinkCack p n s = _
  simp only [execLinkCack, hprop, if_neg hgo]

omit hstate

omit hp in
theorem exec_linkChgTimeout_early (h : tickOf s < t + ackTicks (portAt s p).level) : exec (.linkChgTimeout p) s = .next s := by
  change execLinkChgTimeout p s = _
  simp only [execLinkChgTimeout, hprop, if_pos (Or.inr h : 15 < p ∨ _)]

theorem exec_linkChgTimeout_late (h : t + ackTicks (portAt s p).level ≤ tickOf s) (hlane : lane = 15) : exec (.linkChgTimeout p) s =
    .next (answerFec (modPort s p fun x => { x with prop := none, agreed := none }) p 2) := by
  have hgo : ¬ (15 < p ∨ tickOf s < t + ackTicks (portAt s p).level) := not_or_intro (Nat.not_lt.2 hp) (Nat.not_lt.2 h)
  change execLinkChgTimeout p s = _
  simp only [execLinkChgTimeout, hprop, if_neg hgo, if_pos hlane]

end
end

/-! Windows and lanes (R379, R381). -/

section
variable {p c c1 f w : Nat} {errs : List Nat} {s z : State} (hp : p ≤ 15) (hstate : (portAt s p).state = 2) (hagreed : (portAt s p).agreed = none)
  (htake : (portAt s p).takeover = none) (herrs : ∀ i, i < 8 → errs.getD i 0 * 10 ^ 4 ≤ 2 ^ 20 * laneBytes (portAt s p).level i)
  (hw : w = Nat.max (wantedLevel (portAt s p).level (errs.take 8).sum) (cfgMin (linkCfg s p)))
  (hz : z = modPort s p fun x =>
    { x with corrected := (c + c1) % 2 ^ 32, bad := f % 2 ^ 32, low := if w < x.level then Nat.min 16 (x.low + 1) else 0 })

include herrs in
omit hp in
theorem no_lane_fails : ((rangeFrom 0 8).filter fun i => decide (2 ^ 20 * laneBytes (portAt s p).level i < errs.getD i 0 * 10 ^ 4)) = [] := by
  refine List.filter_eq_nil_iff.2 fun i hi => ?_
  rw [decide_eq_true_iff, Nat.not_lt]
  exact herrs i (by rw [mem_rangeFrom] at hi; omega)

include hp hstate hagreed htake herrs hw hz

/-- A window ends, and no lane fails. -/
theorem exec_linkBerWindow : exec (.linkBerWindow p c c1 f errs) s =
    .next (if cfgPin (linkCfg s p) then z
      else if (portAt s p).level < w then propose z p w 15
      else if (if w < (portAt s p).level then Nat.min 16 ((portAt s p).low + 1) else 0) = 16 then propose z p ((portAt s p).level - 1) 15
      else z) := by
  have hcross : crossWindow s p = s := by rw [crossWindow, hagreed]
  have hcounts : z = modPort s p (fun x => { x with
      corrected := (c + c1) % 2 ^ 32, bad := f % 2 ^ 32,
      low := (if w < (portAt s p).level then Nat.min 16 ((portAt s p).low + 1) else 0) }) := hz.trans (modPort_congr rfl)
  change execLinkBerWindow p c c1 f errs s = _
  simp only [execLinkBerWindow, hcross, ite_self, if_neg (port_up hp hstate), htake, no_lane_fails herrs, List.foldl_nil]
  rw [← hw, ← hcounts]

end

section
variable {p lane : Nat} {s : State} (hp : p ≤ 15) (hstate : (portAt s p).state = 2)
include hp hstate

theorem exec_laneLossOfLock (hlane : lane ≤ 8) : exec (.laneLossOfLock p lane) s = .next (laneFails s p lane true) :=
  if_neg (by omega)

theorem exec_linkDown {reason : Nat} (h1 : 1 ≤ reason) (h3 : reason ≤ 3) : exec (.linkDown p reason) s = .next (takeDown s p reason) :=
  if_neg (by omega)

omit hp

/-- A second lane fails. -/
theorem laneFails_second (hflane : (portAt s p).flane ≠ 15) (hother : lane ≠ (portAt s p).flane) (lost : Bool) :
    laneFails s p lane lost = takeDown s p 3 :=
  (if_neg (not_not_intro hstate)).trans ((if_pos hflane).trans (if_neg hother))

section
variable (hflane : (portAt s p).flane = 15) (hlane : lane ≤ 7)
include hflane hlane

/-- A lane loses lock, and the spare is off. -/
theorem laneFails_lost (hspare : cfgSplen (linkCfg s p) = false) : laneFails s p lane true = takeDown s p 2 := by
  rw [laneFails, if_neg (not_not_intro hstate), if_neg (not_not_intro hflane), if_neg (Nat.not_lt.2 hlane), hspare]
  rfl

theorem laneFails_spare (hspare : cfgSplen (linkCfg s p) = true) (hprop : (portAt s p).prop = none) (hagreed : (portAt s p).agreed = none)
    (lost : Bool) : laneFails s p lane lost = propose s p (portAt s p).level lane := by
  rw [laneFails, if_neg (not_not_intro hstate), if_neg (not_not_intro hflane), if_neg (Nat.not_lt.2 hlane), hspare]
  simp [hprop, hagreed]

end
end

/-! Training (R385). -/

section
variable {p peer : Nat} {ok : Bool} {s : State}

theorem exec_linkTrainingDone_not (h : (portAt s p).state = 2 ∨ cfgEn (linkCfg s p) = false ∨ s.modul.hu ≠ .idle) :
    exec (.linkTrainingDone p ok peer) s = .next s := by
  refine if_pos (.inr ?_)
  rcases h with h | h | h
  · exact .inl h
  · exact .inr (.inl (by rw [h]; rfl))
  · exact .inr (.inr (decide_eq_true h))

section
variable (hp : p ≤ 15) (hen : cfgEn (linkCfg s p) = true) (hhu : s.modul.hu = .idle)
include hp hen hhu

theorem exec_linkTrainingDone (hup : (portAt s p).state ≠ 2) : exec (.linkTrainingDone p ok peer) s =
    if (portAt s p).state ≠ 1 then .next (modPort s p fun x => { x with state := 1 })
    else .next (if ok then trainingEnds s p peer else trainingFails s p) := by
  refine if_neg ?_
  rintro (h | h | h | h)
  · omega
  · exact hup h
  · rw [hen] at h
    cases h
  · rw [linksDark, hhu] at h
    cases h

theorem exec_linkTrainingDone_ends (hstate : (portAt s p).state = 1) : exec (.linkTrainingDone p ok peer) s =
    .next (if ok then trainingEnds s p peer else trainingFails s p) := by
  rw [exec_linkTrainingDone hp hen hhu (by omega), if_neg (not_not_intro hstate)]

end
end

/-! The statement. -/

/-- Settles O57: each form, frame and event of a link by the lemma about it. -/
theorem links : Obligations.Links := by
  refine ⟨fun d a t s va y h hport => lnkForm_asks rfl h hport, fun d a b t s va vb y h hport => ⟨lnkForm_asks rfl h hport, lnkForm_asks rfl h hport⟩,
    fun d a b t s va vb y y1 h1 h hport => ⟨lnkForm_traps rfl h1 hport, lnkForm_traps rfl h hport, lnkForm_traps rfl h hport⟩,
    ?lnkq, ?lnkfec, ?propose, ?answers, ?lnkclaim, ?bid, ?frame, fun s p a b => mem_buf_linkAck s p a b,
    fun p hdr op bad ms s h => exec_linkFrameReceive_down h, ⟨frameGood_nil, fun k => frameGood_zero_one⟩, fun p s l => linkArrive_here, ?beyond,
    fun s m p hdst hp => ⟨linkOut_down hdst hp, sent_linkOut hdst hp⟩, ?nak, fun p lvl lane n s hp hstate => exec_linkChg_agrees hp hstate, ?cack,
    ?cross, ?level, ?window, ?second, ?lane, fun p reason s hp h1 h3 hstate => exec_linkDown hp hstate h1 h3, ?down, ?failover,
    fun p ok peer s => exec_linkTrainingDone_not, ?training⟩
  case lnkq =>
    intro i s m va p z h hp hz
    rw [exec_loadRequest_lnkq hp h, ← hz]
    exact ⟨fun hv => by rw [if_neg (ne_true_of_eq_false hv)], fun hv => by rw [if_pos hv]⟩
  case lnkfec =>
    intro i s m va vb p x l want z z1 h hp hz hx hl hwant hz1
    rw [exec_loadRequest_lnkfec hp h, ← hz, fecPerform_eq (hx.trans (hz ▸ rfl)) hl (hwant.trans (hz ▸ rfl)) hz1]
    refine ⟨fun hdown => ?_, fun hup hbusy => ?_, fun hup hprop hagreed hlevel => ?_, fun hup hprop hagreed hlevel => ?_⟩
    · rw [if_pos hdown]
      rfl
    · rw [if_neg (not_not_intro hup), if_pos hbusy]
      rfl
    · rw [if_neg (not_not_intro hup), if_neg (by simp [hprop, hagreed]), if_pos hlevel]
      rfl
    · rw [if_neg (not_not_intro hup), if_neg (by simp [hprop, hagreed]), if_neg hlevel]
      rfl
  case propose =>
    rintro s p level lane n hprop hagreed rfl
    exact propose_eq level lane hprop hagreed
  case answers => exact fun s p m v => ⟨fun h => congrArg Host.Outcome.next (answerFec_some h), fun h => congrArg Host.Outcome.next (answerClaim_some h)⟩
  case lnkclaim =>
    intro i s m va vb p z h hp hz
    rw [exec_loadRequest_lnkclaim hp h, ← hz]
    have hport : portAt z p = portAt s p := by rw [hz, portAt_dropMsg]
    refine ⟨fun hv htaken => ?_, fun hv howner hbid => ?_, fun hv hnot => ?_, fun hv hmine howned => ⟨_, rfl, ?_⟩⟩
    · rw [claimPerform_claim hv, hport, if_pos htaken]
      rfl
    · rw [claimPerform_claim hv, hport, if_neg (by simp [howner, hbid]), hz]
      rfl
    · rw [claimPerform_release hv, hport, if_pos hnot]
      rfl
    · have hnot : ¬ ((portAt s p).owner = 0 ∨ ((portAt s p).owner = 1 ∧ vb.getLsbD 1 = false)) := by
        rintro (h | ⟨h, h'⟩)
        · exact howned h
        · exact absurd ((hmine h).symm.trans h') (by decide)
      rw [claimPerform_release hv, hport, if_neg hnot, portAt_claimed]
      exact ⟨rfl, rfl, rfl, rfl⟩
  case bid =>
    intro s p m tag hbid hdue
    refine ⟨fun howner => ?_, fun howner => ?_⟩
    · rw [settleBid_due hbid hdue, if_pos howner]
      rfl
    · rw [settleBid_due hbid hdue, if_neg (not_not_intro howner), portAt_claimed, portAt_answerClaim, portAt_modPort_self]
      exact ⟨rfl, rfl, rfl, rfl, rfl, rfl⟩
  case frame =>
    intro p hdr op bad ms s x z hx hp hstate hz
    refine ⟨exec_linkFrameReceive_bad hx hp hstate, fun htype hgood => ⟨fun h hseq => ?_, fun h hseq => ?_, ?_, ?_, ?_, ?_⟩⟩
    · rw [exec_linkFrameReceive_data hx hp hstate htype hgood hz h, if_neg (not_not_intro hseq)]
    · rw [exec_linkFrameReceive_data hx hp hstate htype hgood hz h, if_pos hseq]
    · exact exec_linkFrameReceive_chg hx hp hstate htype hgood hz
    · exact exec_linkFrameReceive_cack hx hp hstate htype hgood hz
    · exact exec_linkFrameReceive_nak hx hp hstate htype hgood hz
    · exact exec_linkFrameReceive_idle hx hp hstate htype hgood hz
  case beyond =>
    intro p s l r m hpkg hr hm
    rw [linkArrive_beyond hpkg hr hm]
    refine ⟨fun h => if_pos h, fun hvalid hport hhops => if_neg ?_⟩
    rintro (h | h | h)
    · exact absurd (hvalid.symm.trans h) (by decide)
    · exact hport h
    · omega
  case nak =>
    intro p seq s n z hp hstate hn hpos hmax hz
    refine ⟨exec_linkNak_first hp hstate hn hpos hmax hz, fun hnak hfails hpin hlevel => ?_, fun hnak hfails => ?_⟩
    · rw [exec_linkNak_again hp hstate hn hpos hmax hz hnak hfails, if_pos ⟨rfl, by rw [hpin]; rfl, hlevel⟩]
    · rw [exec_linkNak_again hp hstate hn hpos hmax hz hnak hfails, if_neg (fun h => absurd h.1 (by decide)), if_pos rfl]
  case cack =>
    exact fun p s lvl lane n t hp hstate hprop hn => ⟨exec_linkCack_agrees hp hstate hprop hn, exec_linkChgTimeout_early hprop,
      exec_linkChgTimeout_late hp hprop⟩
  case cross =>
    intro s p peer lvl lane n h
    rw [crossFrame_agreed h]
    exact ⟨fun hr => if_pos hr, fun hr => if_neg (ne_true_of_eq_false hr)⟩
  case level =>
    intro s p lvl
    exact ⟨level_switchLevel s p lvl 15, flane_switchLevel s p lvl, fun m h => switchLevel_answers h lvl⟩
  case window =>
    intro p c c1 f errs s w z hp hstate hagreed htake herrs hw hz
    rw [exec_linkBerWindow hp hstate hagreed htake herrs hw hz]
    refine ⟨fun hpin => ?_, fun hpin hlow => ?_, fun hpin hhigh hcount => ?_, fun hpin hhigh hcount => ?_⟩
    · rw [if_pos hpin]
    · rw [if_neg (ne_true_of_eq_false hpin), if_pos hlow]
    · have h16 : Nat.min 16 ((portAt s p).low + 1) = 16 := Nat.min_eq_left (by omega)
      rw [if_neg (ne_true_of_eq_false hpin), if_neg (by omega), if_pos hhigh, if_pos h16]
    · have hcalm : (if w < (portAt s p).level then Nat.min 16 ((portAt s p).low + 1) else 0) ≠ 16 := by
        split
        · next h =>
          have h16 : Nat.min 16 ((portAt s p).low + 1) ≤ (portAt s p).low + 1 := Nat.min_le_right _ _
          have hlow := hcount h
          omega
        · decide
      rw [if_neg (ne_true_of_eq_false hpin), if_neg (by omega), if_neg hcalm]
  case second =>
    intro p lane s hp hlane hstate hflane hother
    rw [exec_laneLossOfLock hp hstate hlane, laneFails_second hstate hflane hother]
  case lane =>
    intro p lane s hp hlane hstate hflane
    rw [exec_laneLossOfLock hp hstate (by omega)]
    refine ⟨fun hspare => ?_, fun hspare hprop hagreed => ?_⟩
    · rw [laneFails_lost hstate hflane hlane hspare]
    · rw [laneFails_spare hstate hflane hlane hspare hprop hagreed]
  case down =>
    rintro p s u hp hfail rfl
    exact takeDown_downs hp hfail
  case failover => exact fun p s h => failover_begins h
  case training =>
    intro p peer s hp hen hhu
    refine ⟨fun ok hdown hup => ?_, fun hstate => ?_, fun hstate hfirst => ?_, fun hstate hfail => ?_⟩
    · rw [exec_linkTrainingDone hp hen hhu hup, if_pos hdown]
    · refine ⟨_, (exec_linkTrainingDone_ends hp hen hhu hstate).trans (congrArg Host.Outcome.next (if_pos rfl)), ?_⟩
      rw [portAt_trainingEnds]
      exact ⟨rfl, rfl, rfl, rfl, fun m h => mem_net_trainingEnds h peer⟩
    · refine ⟨_, (exec_linkTrainingDone_ends hp hen hhu hstate).trans (congrArg Host.Outcome.next (if_neg Bool.false_ne_true)), ?_⟩
      rw [trainingFails_first hfirst]
      exact ⟨untrained_state s p, mem_evq_untrained, fun m h => mem_net_untrained h⟩
    · refine ⟨_, (exec_linkTrainingDone_ends hp hen hhu hstate).trans (congrArg Host.Outcome.next (if_neg Bool.false_ne_true)), ?_⟩
      rw [trainingFails_failover hfail, portAt_raiseLink, portAt_modPort_self]
      exact ⟨rfl, rfl, fun hroom => mem_evq_raiseLink_modPort hroom _ 7⟩

end Sys2Proof.Machine
end

section
/-! What an outcome leaves in memory (R104, R267): a predicate of the bytes that hold of memory before holds of it after. Most operations leave memory
as it is, and a fact about them is an equation; an outcome that carries a state keeps whatever predicate the state before met. -/

namespace Sys2Proof.Machine

/-- Memory is in its canonical form. -/
def Canonical (m : List Host.Cell) : Prop := Memory.wf m = true

/-! The outcomes that carry a state. -/

section
variable (P : List Host.Cell → Prop)

/-- However the evaluation of an instruction ends, its memory meets `P`. -/
def Res.Leaves : Res → Prop
  | .done t | .jump t _ | .branch t _ _ | .left t | .park t | .trapAt t _ _ => P t.mem
  | .trap _ _ | .trapStream _ _ _ => True

/-- The next state's memory meets `P`. -/
def OutLeaves : Out → Prop
  | .next t => P t.mem
  | .fault _ | .refused _ => True

/-- After an access at its home the memory meets `P`. -/
def HRes.Leaves : HRes → Prop
  | .ok t _ | .poison t _ _ | .deny t _ | .wait t => P t.mem

/-- After the forming of an address the memory meets `P`. -/
def AddrRes.Leaves : AddrRes → Prop
  | .walk t => P t.mem
  | .ok _ _ _ | .trap _ _ => True

/-- After the forming of an engine's address the memory meets `P`. -/
def EngAddr.Leaves : EngAddr → Prop
  | .ok t _ _ | .fault t _ | .wait t => P t.mem

/-- After the forming of an engine's ways the memory meets `P`. -/
def EngWays.Leaves : EngWays → Prop
  | .ok t _ | .fault t _ _ | .wait t => P t.mem

/-- After the sending of an engine's access the memory meets `P`. -/
def EngTry.Leaves : EngTry → Prop
  | .out t _ | .fault t _ _ | .wait t => P t.mem

end

/-! Each outcome by its constructor. -/

section
variable {P : List Host.Cell → Prop}

@[simp] theorem Res.leaves_done (t : State) : (Res.done t).Leaves P ↔ P t.mem := Iff.rfl
@[simp] theorem Res.leaves_jump (t : State) (pc : Word) : (Res.jump t pc).Leaves P ↔ P t.mem := Iff.rfl
@[simp] theorem Res.leaves_branch (t : State) (pc : Word) (b : Bool) : (Res.branch t pc b).Leaves P ↔ P t.mem := Iff.rfl
@[simp] theorem Res.leaves_left (t : State) : (Res.left t).Leaves P ↔ P t.mem := Iff.rfl
@[simp] theorem Res.leaves_park (t : State) : (Res.park t).Leaves P ↔ P t.mem := Iff.rfl
@[simp] theorem Res.leaves_trapAt (t : State) (c : Nat) (v : Word) : (Res.trapAt t c v).Leaves P ↔ P t.mem := Iff.rfl
@[simp] theorem Res.leaves_trap (c : Nat) (v : Word) : (Res.trap c v).Leaves P ↔ True := Iff.rfl
@[simp] theorem Res.leaves_trapStream (i : Nat) (c : Nat) (v : Word) : (Res.trapStream i c v).Leaves P ↔ True := Iff.rfl

@[simp] theorem HRes.leaves_ok (t : State) (bs : List Byte) : (HRes.ok t bs).Leaves P ↔ P t.mem := Iff.rfl
@[simp] theorem HRes.leaves_poison (t : State) (c : Nat) (a : Nat) : (HRes.poison t c a).Leaves P ↔ P t.mem := Iff.rfl
@[simp] theorem HRes.leaves_deny (t : State) (d : Deny) : (HRes.deny t d).Leaves P ↔ P t.mem := Iff.rfl
@[simp] theorem HRes.leaves_wait (t : State) : (HRes.wait t).Leaves P ↔ P t.mem := Iff.rfl

@[simp] theorem AddrRes.leaves_walk (t : State) : (AddrRes.walk t).Leaves P ↔ P t.mem := Iff.rfl
@[simp] theorem AddrRes.leaves_ok (la : Nat) (pa : Nat) (acc : Acc) : (AddrRes.ok la pa acc).Leaves P ↔ True := Iff.rfl
@[simp] theorem AddrRes.leaves_trap (c : Nat) (v : Word) : (AddrRes.trap c v).Leaves P ↔ True := Iff.rfl

@[simp] theorem EngAddr.leaves_ok (t : State) (pa : Nat) (acc : Acc) : (EngAddr.ok t pa acc).Leaves P ↔ P t.mem := Iff.rfl
@[simp] theorem EngAddr.leaves_fault (t : State) (c : Nat) : (EngAddr.fault t c).Leaves P ↔ P t.mem := Iff.rfl
@[simp] theorem EngAddr.leaves_wait (t : State) : (EngAddr.wait t).Leaves P ↔ P t.mem := Iff.rfl

@[simp] theorem outLeaves_next (t : State) : OutLeaves P (.next t) ↔ P t.mem := Iff.rfl
@[simp] theorem outLeaves_fault (f : Fault) : OutLeaves P (.fault f) ↔ True := Iff.rfl
@[simp] theorem outLeaves_refused (r : Refusal) : OutLeaves P (.refused r) ↔ True := Iff.rfl

end

/-! Branches. -/

section
variable {P : List Host.Cell → Prop} {c : Prop} [Decidable c]

@[simp] theorem mem_ite (s t : State) : (if c then s else t).mem = if c then s.mem else t.mem := apply_ite State.mem c s t

@[simp] theorem Res.leaves_ite (r q : Res) : (if c then r else q).Leaves P ↔ if c then r.Leaves P else q.Leaves P := by
  split <;> rfl

@[simp] theorem outLeaves_ite (r q : Out) : OutLeaves P (if c then r else q) ↔ if c then OutLeaves P r else OutLeaves P q := by
  split <;> rfl

@[simp] theorem AddrRes.leaves_ite (r q : AddrRes) : (if c then r else q).Leaves P ↔ if c then r.Leaves P else q.Leaves P := by
  split <;> rfl

end

/-! Folds. -/

section
variable {α : Type} {f : State → α → State}

theorem mem_foldl (hf : ∀ s x, (f s x).mem = s.mem) (l : List α) (s : State) : (l.foldl f s).mem = s.mem := keeps_foldl (g := State.mem) hf l s

theorem canonical_foldl (hf : ∀ s x, Canonical s.mem → Canonical (f s x).mem) (l : List α) {s : State} (h : Canonical s.mem) :
    Canonical (l.foldl f s).mem := List.foldlRecOn l f h fun s hs x _ => hf s x hs

end

/-! Bookkeeping that takes a number. -/

@[simp] theorem mem_takeFree (s : State) : (takeFree s).2.mem = s.mem := rfl
@[simp] theorem mem_takeFresh (s : State) : (takeFresh s).2.mem = s.mem := rfl

/-! What writes memory. -/

@[simp] theorem canonical_setBytes {s : State} (a : Nat) (bs : List Byte) (h : Canonical s.mem) : Canonical (setBytes s a bs).mem :=
  setBytes_wf s a bs h

@[simp] theorem canonical_zeroRange {s : State} (lo hi : Nat) (h : Canonical s.mem) : Canonical (zeroRange s lo hi).mem := zeroRange_wf s lo hi h

/-! The end of an evaluation. -/

section
variable {P : List Host.Cell → Prop} {s : State}

theorem leaves_finish {r : Res} (h : P s.mem) (hr : r.Leaves P) (k : Nat) : P (finish s k r).mem := by
  rw [mem_finish]
  cases r with
  | done | jump | branch | left | park | trapAt => exact hr
  | trap | trapStream => exact h

theorem leaves_keepStreams {r : Res} (hr : r.Leaves P) (k : Nat) (x : Slot) : (r.keepStreams k x).Leaves P := by
  cases r <;> exact hr

/-- An instruction on its operands leaves what its body leaves. -/
theorem leaves_withOps {srcs : List GReg} {dst : Option GReg} {reply : Bool} {body : State → List Word → Res} (h : P s.mem)
    (hbody : ∀ u vs, P u.mem → (body u vs).Leaves P) : P (withOps s srcs dst reply body).mem := by
  unfold withOps
  dsimp only
  split
  · exact leaves_finish (r := .park s) h h _
  · refine leaves_finish (r := .trap _ _) ?_ trivial _
    split
    · exact h
    · exact h
  · exact leaves_finish h (leaves_keepStreams (hbody (setSlot s s.cur _) _ h) _ _) _

/-- An instruction whose body leaves memory alone leaves it alone. -/
theorem mem_withOps {srcs : List GReg} {dst : Option GReg} {reply : Bool} {body : State → List Word → Res}
    (hbody : ∀ {P : List Host.Cell → Prop} (u : State) vs, P u.mem → (body u vs).Leaves P) : (withOps s srcs dst reply body).mem = s.mem :=
  leaves_withOps (P := fun m => m = s.mem) rfl fun u vs hu => hbody u vs hu

end

end Sys2Proof.Machine
end

section
/-! What each operation that writes no memory leaves of it, in the order of the model: its memory, or, of an outcome that carries a state,
whatever held of memory before. -/

/-! A fold of such operations goes through `mem_foldl`; an operation that may answer no state has `mem_of_…`. -/

namespace Sys2Proof.Machine

variable {P : List Host.Cell → Prop}

/-! ### Ops -/

@[simp] theorem mem_raiseEvent (s : State) (core cause : Nat) (tval : Word) : (raiseEvent s core cause tval).mem = s.mem := by
  simp [raiseEvent]

@[simp] theorem mem_hostEvent (s : State) (b : Nat) : (hostEvent s b).mem = s.mem := by
  simp [hostEvent]

@[simp] theorem mem_advise (s : State) (b tower cl : Nat) : (advise s b tower cl).mem = s.mem := by
  simp [advise]

@[simp] theorem mem_doubleTrap (s : State) (k c : Nat) : (doubleTrap s k c).mem = s.mem := by
  simp [doubleTrap]

@[simp] theorem mem_trapEntry (s : State) (k c : Nat) (v p : Word) (async : Bool) : (trapEntry s k c v p async).mem = s.mem := by
  simp [trapEntry]

@[simp] theorem mem_touchPhase (s : State) (ph : Nat) : (touchPhase s ph).mem = s.mem := by
  simp [touchPhase]

@[simp] theorem mem_niPost (s : State) (core : Nat) (m : Msg) : (niPost s core m).mem = s.mem := by
  simp [niPost]

/-! ### Operands -/

@[simp] theorem mem_compute (s : State) (d : GReg) (srcs : List GReg) (t : Bool) (f : List Word → Word) : (compute s d srcs t f).mem = s.mem :=
  mem_withOps fun u vs hu => by simp [hu]

/-! ### Home -/

@[simp] theorem mem_setBad (s : State) (a c : Nat) : (setBad s a c).mem = s.mem := by
  simp [setBad]

@[simp] theorem mem_setFlips (s : State) (a n : Nat) : (setFlips s a n).mem = s.mem := by
  simp [setFlips]

@[simp] theorem mem_storeWord (s : State) (a : Nat) : (storeWord s a).mem = s.mem := by
  simp [storeWord]

@[simp] theorem mem_clearBad (s : State) (a n : Nat) : (clearBad s a n).mem = s.mem := by
  simp [clearBad, mem_foldl]

@[simp] theorem mem_adviseSpare (s : State) (cl : Nat) : (adviseSpare s cl).mem = s.mem := by
  simp [adviseSpare]

@[simp] theorem mem_setFe (s : State) (core off : Nat) (b : Bool) : (setFe s core off b).mem = s.mem := by
  simp [setFe]

@[simp] theorem mem_sendInval (core line : Nat) (s : State) (sharer : Nat) : (sendInval core line s sharer).mem = s.mem := by
  simp [sendInval]

@[simp] theorem mem_dirFree (s : State) (core line : Nat) : (dirFree s core line).mem = s.mem :=
  keeps_dirFree (g := State.mem) (fun _ _ _ _ => rfl) _ _ _

@[simp] theorem mem_pushOvf (s : State) (core line : Nat) : (pushOvf s core line).mem = s.mem := by
  simp [pushOvf]

@[simp] theorem mem_popOvf (s : State) (core : Nat) : (popOvf s core).mem = s.mem := by
  simp only [popOvf]
  split <;> simp

@[simp] theorem mem_dirWrite (s : State) (core off : Nat) (ack : Option Msg) : (dirWrite s core off ack).mem = s.mem := by
  simp only [dirWrite]
  (repeat' split) <;> simp [mem_foldl]

@[simp] theorem mem_fireTrap (s : State) (core off : Nat) (filler : Agent × Nat) : (fireTrap s core off filler).mem = s.mem := by
  unfold fireTrap
  split <;> simp

@[simp] theorem mem_cspError (s : State) (cl : Nat) : (cspError s cl).mem = s.mem := by
  simp [cspError]

@[simp] theorem leaves_lmRead (s : State) (core off n : Nat) (h : P s.mem) : (lmRead s core off n).Leaves P := by
  unfold lmRead
  split <;> simp [h]

@[simp] theorem leaves_cspRead (s : State) (cl off n : Nat) (h : P s.mem) : (cspRead s cl off n).Leaves P := by
  unfold cspRead
  split <;> simp [h]

/-! ### Sc -/

@[simp] theorem mem_setForm (s : State) (line f : Nat) : (setForm s line f).mem = s.mem := by
  simp [setForm]

@[simp] theorem mem_dropLine (s : State) (line : Nat) : (dropLine s line).mem = s.mem := by
  simp [dropLine]

@[simp] theorem mem_serveLevels (s : State) (line : Nat) : (serveLevels s line).mem = s.mem := by
  unfold serveLevels
  refine mem_foldl (fun s e => ?_) _ s
  refine (mem_foldl (fun s x => ?_) _ _).trans (setTower_mem _ _ _)
  split
  · rfl
  · rfl

@[simp] theorem mem_recordOp (s : State) (t n : Nat) (op : SnapOp) : (recordOp s t n op).mem = s.mem := by
  simp [recordOp]

@[simp] theorem mem_fillLine (s : State) (line : Nat) (acc : Acc) : (fillLine s line acc).mem = s.mem := by
  simp [fillLine]

@[simp] theorem mem_startFill (s : State) (pa : Nat) (acc : Acc) : (startFill s pa acc).mem = s.mem := by
  simp [startFill]

/-! ### Access -/

@[simp] theorem mem_askWalk (s : State) (k asid la : Nat) : (askWalk s k asid la).mem = s.mem := by
  simp [askWalk]

@[simp] theorem leaves_translate (s : State) (k asid la : Nat) (n : Need) (h : P s.mem) : (translate s k asid la n).Leaves P := by
  simp only [translate]
  (repeat' split) <;> simp [h]

theorem leaves_portOrder {s : State} {r : AddrRes} (h : P s.mem) (hr : r.Leaves P) (k : Nat) :
    (portOrder s k r).Leaves P := by
  cases r <;> simp_all [portOrder]

@[simp] theorem leaves_physical (s : State) (k asid la : Nat) (n : Need) (h : P s.mem) : (physical s k asid la n).Leaves P := by
  unfold physical
  refine leaves_portOrder h ?_ k
  split
  · exact leaves_translate s k asid la n h
  · split
    · split <;> trivial
    · trivial
    · trivial

@[simp] theorem leaves_segAddr (s : State) (k seg : Nat) (off : Word) (n : Nat) (need : Need) (h : P s.mem) :
    (segAddr s k seg off n need).Leaves P := by
  simp [segAddr, h]

@[simp] theorem leaves_ptrAddr (s : State) (k : Nat) (p : Word) (n : Nat) (need : Need) (h : P s.mem) : (ptrAddr s k p n need).Leaves P := by
  simp [ptrAddr, h]

theorem mem_of_sendRequest (s : State) (k reg size : Nat) (signed : Bool) (kind : ReqKind) (form : Option SyncForm) (dst : Agent) (b : Body)
    {u : State} (h : sendRequest s k reg size signed kind form dst b = some u) : u.mem = s.mem := by
  unfold sendRequest at h
  dsimp only at h
  split at h
  · cases h
  · cases h
    simp

@[simp] theorem mem_rocDrop (s : State) (core pa : Nat) : (rocDrop s core pa).mem = s.mem := by
  simp [rocDrop]

theorem mem_of_postStore (s : State) (k pa : Nat) (data : List Byte) (form : Option SyncForm) (acc : Acc) {u : State}
    (h : postStore s k pa data form acc = some u) : u.mem = s.mem := by
  unfold postStore at h
  dsimp only at h
  split at h
  · cases h
  · cases h
    simp

/-! ### Context -/

@[simp] theorem mem_installCtx (s : State) (k : Nat) (ctx : List Byte) (hops : Nat) : (installCtx s k ctx hops).mem = s.mem :=
  modSlot_mem (takeFresh s).2 k _

@[simp] theorem leaves_askTrip (s : State) (need : Nat) (send : Nat → State → State) (ended : State → List Word → Res) (h : P s.mem)
    (hsend : ∀ x0 u, (send x0 u).mem = u.mem) (hended : ∀ u x1, P u.mem → (ended u x1).Leaves P) : (askTrip s need send ended).Leaves P := by
  simp only [askTrip]
  (repeat' split) <;> simp [h, hsend, hended]

@[simp] theorem leaves_withAnswers (s : State) (body : List Word → Res) (h : P s.mem) (hbody : ∀ x0, (body x0).Leaves P) :
    (withAnswers s body).Leaves P := by
  simp only [withAnswers]
  (repeat' split) <;> simp [h, hbody]

@[simp] theorem mem_keepAnswer (s : State) (vals : List Word) : (keepAnswer s vals).mem = s.mem := by
  simp [keepAnswer]

@[simp] theorem leaves_askMore (s : State) (dst : Agent) (b : Body) (n : Nat) (h : P s.mem) : (askMore s dst b n).Leaves P := by
  simp only [askMore]
  (repeat' split) <;> simp [h]

@[simp] theorem leaves_askAgent (s : State) (ws : List Word) (dst : Agent) (b : Body) (n : Nat) (ended : List Word → List Word → Res)
    (h : P s.mem) (hended : ∀ x0 x1, (ended x0 x1).Leaves P) : (askAgent s ws dst b n ended).Leaves P := by
  simp [askAgent, h, hended]

@[simp] theorem leaves_askOnce (s : State) (dst : Agent) (b : Body) (n : Nat) (ended : List Word → Res) (h : P s.mem)
    (hended : ∀ x0, (ended x0).Leaves P) : (askOnce s dst b n ended).Leaves P := by
  simp [askOnce, h, hended]

@[simp] theorem leaves_askUnit (s : State) (dst : Agent) (f : UnitForm) (vs : List Word) (ended : State → Word → Res) (h : P s.mem)
    (hended : ∀ u x1, P u.mem → (ended u x1).Leaves P) : (askUnit s dst f vs ended).Leaves P := by
  simp [askUnit, h, hended]

@[simp] theorem mem_answerUnit (s : State) (m : Msg) (v : Nat) : (answerUnit s m v).mem = s.mem := by
  simp [answerUnit]

@[simp] theorem mem_servePwr (s : State) (core : Nat) : (servePwr s core).mem = s.mem := by
  simp [servePwr, mem_foldl]

@[simp] theorem mem_answerTrip (s : State) (k id : Nat) (vals : List Word) (trap : Option (Nat × Word)) :
    (answerTrip s k id vals trap).mem = s.mem := by
  unfold answerTrip
  split <;> simp

@[simp] theorem mem_freeReq (s : State) (core t : Nat) : (freeReq s core t).mem = s.mem := by
  simp [freeReq]

@[simp] theorem mem_deliverReg (s : State) (k reg size : Nat) (signed : Bool) (r : Reply) : (deliverReg s k reg size signed r).mem = s.mem := by
  simp [deliverReg]

@[simp] theorem mem_deliverFetch (s : State) (t : Nat) (r : Req) (v : Reply) : (deliverFetch s t r v).mem = s.mem := by
  simp [deliverFetch]

@[simp] theorem mem_deliver (s : State) (core t : Nat) (v : Reply) : (deliver s core t v).mem = s.mem := by
  simp only [deliver]
  (repeat' split) <;> simp [mem_foldl]

@[simp] theorem leaves_refusePass (s : State) (k reason pa : Nat) (h : P s.mem) : (refusePass s k reason pa).Leaves P := by
  simp [refusePass, h]

@[simp] theorem leaves_startPass (s : State) (k pa : Nat) (pc : Word) (took : Slot → Slot) (h : P s.mem) : (startPass s k pa pc took).Leaves P := by
  simp only [startPass]
  (repeat' split) <;> simp [h]

theorem leaves_onAddr {s : State} {r : AddrRes} {body : State → Nat → Nat → Acc → Res} (h : P s.mem) (hr : r.Leaves P)
    (seg : Nat) (hbody : ∀ la pa acc, (body s la pa acc).Leaves P) : (onAddr s seg r body).Leaves P := by
  cases r with
  | trap c v => trivial
  | walk t => exact hr
  | ok la pa acc => simp [onAddr, h, hbody]

/-! ### Flow -/

@[simp] theorem leaves_branchTo (s : State) (o : BitVec 12) (taken : Bool) (h : P s.mem) : (State.branchTo s o taken).Leaves P := by
  simp [State.branchTo, h]

@[simp] theorem leaves_inGang (s : State) (body : Gang → Res) (hbody : ∀ x0, (body x0).Leaves P) : (inGang s body).Leaves P := by
  unfold inGang
  split <;> simp [hbody]

@[simp] theorem mem_wakeSem (s : State) (core n : Nat) : (wakeSem s core n).mem = s.mem := by
  simp [wakeSem, mem_foldl]

/-! ### Memory -/

@[simp] theorem leaves_mAddr (s : State) (seg : BitVec 3) (a : Word) (o : BitVec 11) (n : Nat) (need : Need) (h : P s.mem) :
    (mAddr s seg a o n need).Leaves P := by
  simp [mAddr, h]

@[simp] theorem leaves_deliverOwn (s : State) (d a : GReg) (t : Bool) (size : Nat) (signed : Bool) (pa : Nat) (r : Reply) (h : P s.mem) :
    (deliverOwn s d a t size signed pa r).Leaves P := by
  unfold deliverOwn
  split <;> simp [h]

@[simp] theorem leaves_requestOut (s : State) (d a : GReg) (t : Bool) (size : Nat) (signed : Bool) (kind : ReqKind)
    (form : Option SyncForm) (pa : Nat) (b : Body) (h : P s.mem) : (requestOut s d a t size signed kind form pa b).Leaves P := by
  unfold requestOut
  split
  · trivial
  · dsimp only
    split
    · next u hu => simpa [mem_of_sendRequest _ _ _ _ _ _ _ _ _ hu] using h
    · exact h

@[simp] theorem leaves_loadAt (s : State) (d a : GReg) (t : Bool) (size : Nat) (signed : Bool) (la pa : Nat) (acc : Acc)
    (h : P s.mem) : (loadAt s d a t size signed la pa acc).Leaves P := by
  unfold loadAt
  dsimp only
  split
  · next off _ =>
    have hread := leaves_lmRead s (coreOf s.cur) off size h
    generalize lmRead s (coreOf s.cur) off size = r at hread
    cases r <;> simp_all
  · trivial
  · trivial
  · split
    · split
      · trivial
      · split
        · trivial
        · split <;> simp [h]
    · simp [h]

@[simp] theorem leaves_postOut (s : State) (a : GReg) (t : Bool) (pa : Nat) (data : List Byte) (form : Option SyncForm)
    (acc : Acc) (h : P s.mem) : (postOut s a t pa data form acc).Leaves P := by
  unfold postOut
  split
  · next u hu => simpa [mem_of_postStore _ _ _ _ _ _ hu] using h
  · exact h

theorem mem_of_startRoFill (s : State) (k pa : Nat) (acc : Acc) (waits : List (Nat × Nat × Nat)) {u : State}
    (h : startRoFill s k pa acc waits = some u) : u.mem = s.mem := by
  unfold startRoFill at h
  dsimp only at h
  split at h
  · cases h
    simp
  · split at h
    · cases h
    · cases h
      simp

theorem leaves_readPark {s : State} {ended : State → List Word → List Byte → Res} (h : P s.mem)
    (hended : ∀ ws bs, (ended s ws bs).Leaves P) (ws : List Word) (n la pa : Nat) (acc : Acc) : (readPark s ws n la pa acc ended).Leaves P := by
  unfold readPark
  dsimp only
  split
  · next off _ =>
    unfold lmRead
    split
    · next heq =>
      split at heq
      · cases heq
      · cases heq
        exact hended _ _
    · trivial
    · trivial
    · exact h
  · trivial
  · trivial
  · simp [h, hended]

theorem leaves_readCuts {ended : State → List Word → List Byte → Res} (seg asid : Nat)
    (hended : ∀ u ws bs, P u.mem → (ended u ws bs).Leaves P) (cuts : List (Nat × Nat)) :
    ∀ {s : State} (ws : List Word) (got : List Byte), P s.mem → (readCuts seg asid cuts s ws got ended).Leaves P := by
  induction cuts with
  | nil => exact fun ws got h => hended _ ws got h
  | cons c cuts ih =>
    intro s ws got h
    obtain ⟨la, m⟩ := c
    unfold readCuts
    split
    · exact ih _ _ h
    · refine leaves_onAddr h (leaves_physical s s.cur asid la needR h) seg fun la pa a => leaves_readPark h (fun ws bs => ih ws _ ?_) ws m la pa a
      split <;> simp [h]

theorem leaves_ptrBytes {s : State} {ended : State → List Word → List Byte → Res} (h : P s.mem)
    (hended : ∀ u ws bs, P u.mem → (ended u ws bs).Leaves P) (ws : List Word) (p : Word) (skip n al : Nat) :
    (ptrBytes s ws p skip n al ended).Leaves P := by
  unfold ptrBytes
  dsimp only
  split
  · trivial
  · exact leaves_readCuts _ _ hended _ _ _ h

/-! ### Work -/

@[simp] theorem leaves_launchGive (s : State) (d a : GReg) (t : Bool) (st : Nat) (h : P s.mem) : (launchGive s d a t st).Leaves P := by
  simp [launchGive, h]

theorem leaves_launchArgs {s : State} {ended : State → List Word → List Word → Res} (h : P s.mem)
    (hended : ∀ u ws args, P u.mem → (ended u ws args).Leaves P) (ws r : List Word) : (launchArgs s ws r ended).Leaves P := by
  unfold launchArgs
  split
  · exact hended _ _ _ h
  · exact leaves_ptrBytes h (fun u ws bs hu => hended u ws _ hu) _ _ _ _ _

theorem leaves_launchPlace {s : State} {bad : State → Res} {ended : State → List Word → Option (List (BitVec 32)) → Res}
    (h : P s.mem) (hbad : ∀ u, P u.mem → (bad u).Leaves P) (hended : ∀ u ws place, P u.mem → (ended u ws place).Leaves P) (ws r : List Word) :
    (launchPlace s ws r bad ended).Leaves P := by
  unfold launchPlace
  extract_lets gsz
  split
  · exact hended _ _ _ h
  · split
    · exact hbad _ h
    · split
      · exact hbad _ h
      · refine leaves_ptrBytes h (fun u ws bs hu => ?_) _ _ _ _ _
        dsimp only
        split
        · exact hbad u hu
        · exact hended u ws _ hu

theorem leaves_launchLevels {s : State} {ended : List Word → Bool → Res} (h : P s.mem)
    (hended : ∀ ws cxl, (ended ws cxl).Leaves P) (ids : List Nat) : ∀ ws cxl, (launchLevels s ids ws cxl ended).Leaves P := by
  induction ids with
  | nil => exact hended
  | cons id ids ih =>
    intro ws cxl
    exact leaves_askAgent _ _ _ _ _ _ h fun _ _ => ih _ _

@[simp] theorem leaves_endUnit (s : State) (fail : Bool) (code : BitVec 32) (finishTake : Slot → Slot) (h : P s.mem) :
    (endUnit s fail code finishTake).Leaves P := by
  unfold endUnit
  split <;> simp [h]

@[simp] theorem leaves_withId (s : State) (v : Word) (body : Nat → Res) (hbody : ∀ x0, (body x0).Leaves P) :
    (withId s v body).Leaves P := by
  simp [withId, hbody]

@[simp] theorem leaves_askLevel (s : State) (id : Nat) (b : Body) (ended : List Word → Res) (h : P s.mem) (hended : ∀ x0, (ended x0).Leaves P) :
    (askLevel s id b ended).Leaves P := by
  simp [askLevel, h, hended]

@[simp] theorem mem_cancelAcked (s : State) (core tag k : Nat) : (cancelAcked s core tag k).mem = s.mem := by
  unfold cancelAcked
  split <;> simp

@[simp] theorem mem_setTemp (s : State) (cl temp : Nat) : (setTemp s cl temp).mem = s.mem := by
  simp [setTemp, mem_foldl]

@[simp] theorem mem_rethreshold (s : State) (t : Nat) : (rethreshold s t).mem = s.mem := by
  simp [rethreshold, mem_foldl]

/-! ### Network -/

@[simp] theorem mem_tilePerform (s : State) (m : Msg) (cl form n : Nat) (v : Word) : (tilePerform s m cl form n v).mem = s.mem := by
  unfold tilePerform
  split <;> simp

@[simp] theorem mem_refuseJ (s : State) (core e reason : Nat) : (refuseJ s core e reason).mem = s.mem := by
  simp [refuseJ]

@[simp] theorem mem_withdrawReq (s : State) (core t : Nat) : (withdrawReq s core t).mem = s.mem := by
  unfold withdrawReq
  split <;> simp

@[simp] theorem mem_dirEvict (s : State) (core : Nat) : (dirEvict s core).mem = s.mem := by
  simp only [dirEvict]
  split <;> simp [mem_foldl]

@[simp] theorem mem_dirReleaseStep (s : State) (core : Nat) : (dirReleaseStep s core).mem = s.mem := by
  simp [dirReleaseStep, mem_foldl]

@[simp] theorem mem_endCmd (s : State) (k id : Nat) : (endCmd s k id).mem = s.mem := by
  simp [endCmd]

/-! ### Translate -/

@[simp] theorem mem_walkFailed (s : State) (cl : Nat) : (walkFailed s cl).mem = s.mem := by
  simp [walkFailed]

@[simp] theorem mem_setWalk (s : State) (cl i : Nat) (w : Walk) : (setWalk s cl i w).mem = s.mem := by
  simp [setWalk]

@[simp] theorem mem_dropWalk (s : State) (cl i : Nat) : (dropWalk s cl i).mem = s.mem := by
  simp [dropWalk]

@[simp] theorem mem_walkLeaf (s : State) (cl i : Nat) (w : Walk) (pa lvl : Nat) (e : Word) : (walkLeaf s cl i w pa lvl e).mem = s.mem := by
  simp only [walkLeaf]
  (repeat' split) <;> simp

@[simp] theorem mem_walkFault (s : State) (cl i : Nat) (w : Walk) (e : WalkEnd) (cause : Nat) : (walkFault s cl i w e cause).mem = s.mem := by
  simp only [walkFault]
  (repeat' split) <;> simp

@[simp] theorem mem_endWalk (s : State) (cl i : Nat) (w : Walk) (e : WalkEnd) : (endWalk s cl i w e).mem = s.mem := by
  unfold endWalk
  split <;> simp

@[simp] theorem leaves_engTranslate (s : State) (eng : Agent) (cl asid la : Nat) (n : Need) (h : P s.mem) :
    (engTranslate s eng cl asid la n).Leaves P := by
  simp only [engTranslate]
  (repeat' split) <;> simp [h]

@[simp] theorem leaves_engPhysical (s : State) (eng : Agent) (core asid la : Nat) (n : Need) (h : P s.mem) :
    (engPhysical s eng core asid la n).Leaves P := by
  simp only [engPhysical]
  (repeat' split) <;> simp [h]

theorem leaves_pageWalk {s : State} {body : State → Option (Nat × Nat) → Res} (h : P s.mem)
    (hbody : ∀ u at_, P u.mem → (body u at_).Leaves P) (asid la : Nat) : (pageWalk s asid la body).Leaves P := by
  unfold pageWalk
  dsimp only
  split
  · exact h
  · split
    · exact h
    · exact h
    · exact hbody _ _ h
    · exact hbody _ _ h

@[simp] theorem leaves_migStatus (d a : GReg) (t : Bool) (s : State) (st : Nat) (h : P s.mem) : (migStatus d a t s st).Leaves P := by
  simp [migStatus, h]

/-! ### Engine -/

@[simp] theorem leaves_engWays (eng : Agent) (core asid : Nat) (need : Need) (s : State) (las : List Nat) (h : P s.mem) :
    (engWays eng core asid need s las).Leaves P := by
  induction las generalizing s with
  | nil => exact h
  | cons la las ih =>
    unfold engWays
    have hpa := leaves_engPhysical s eng core asid la need h
    generalize engPhysical s eng core asid la need = r at hpa
    cases r with
    | fault t c => exact hpa
    | wait t => exact hpa
    | ok t pa acc =>
      have hrest := ih t hpa
      dsimp only
      generalize engWays eng core asid need t las = q at hrest
      cases q <;> exact hrest

@[simp] theorem leaves_engIssue (s : State) (eng : Agent) (iss : Issuer) (cmd elem unit : Nat)
    (dict : Option (Nat × Nat × List Word)) (w : EngNeed) (h : P s.mem) : (engIssue s eng iss cmd elem unit dict w).Leaves P := by
  unfold engIssue
  have hways := leaves_engWays eng (coreOf iss.slot) iss.asid w.need s w.las h
  dsimp only
  generalize engWays eng (coreOf iss.slot) iss.asid w.need s w.las = r at hways
  cases r with
  | fault t c la => exact hways
  | wait t => exact hways
  | ok t ways =>
    dsimp only
    split <;> exact hways

@[simp] theorem mem_engAsk (s : State) (eng : Agent) (iss : Issuer) (cmd elem unit : Nat) (dict : Option (Nat × Nat × List Word)) (io : EngIo)
    (w : EngNeed) : (engAsk s eng iss cmd elem unit dict io w).1.mem = s.mem := by
  unfold engAsk
  have hissue := leaves_engIssue (P := fun m => m = s.mem) s eng iss cmd elem unit dict w rfl
  generalize engIssue s eng iss cmd elem unit dict w = r at hissue
  cases r <;> exact hissue

theorem mem_of_stampEnd {s t : State} {note : State → State} {core fail la : Nat} {v : Word} {log rest : List EngAns}
    (hnote : ∀ u, (note u).mem = u.mem) (h : stampEnd s note core fail la v log = .ok t rest) : t.mem = s.mem := by
  unfold stampEnd EngGot.elim at h
  split at h
  · cases h
    rfl
  · cases h
    simp [hnote]
  · cases h

@[simp] theorem mem_engSend (s : State) (iss : Issuer) (eng : Agent) (cmd first unit : Nat) (dict : Option (Nat × Nat × List Word)) (r : EngRun) :
    (engSend s iss eng cmd first unit dict r).1.mem = s.mem := by
  have hissue (w : EngNeed) := leaves_engIssue (P := fun m => m = s.mem) s eng iss cmd r.elem unit dict w rfl
  unfold engSend
  dsimp only
  split
  · rfl
  · split
    · have hread := hissue (.read (if unit = 0 then r.reads else r.reads.take 1))
      generalize engIssue s eng iss cmd r.elem unit dict _ = q at hread
      cases q <;> exact hread
    · split
      · have hwrite := hissue (.write r.writes)
        generalize engIssue s eng iss cmd r.elem unit dict _ = q at hwrite
        cases q <;> exact hwrite
      · rfl

@[simp] theorem mem_startReadTile (s : State) (cl i : Nat) : (startReadTile s cl i).mem = s.mem := by
  simp [startReadTile]

@[simp] theorem mem_endReadTile (s : State) (cl i : Nat) : (endReadTile s cl i).mem = s.mem := by
  simp [endReadTile]

@[simp] theorem leaves_tileForm (s : State) (form : Nat) (n : BitVec 6) (v : Word) (took : State → State) (h : P s.mem)
    (htook : ∀ u, (took u).mem = u.mem) : (tileForm s form n v took).Leaves P := by
  simp [tileForm, h, htook]

/-! ### Xfe -/

@[simp] theorem mem_xfeIssue (form : Nat) (a : GReg) (srcs : List GReg) (t : Bool) (s : State) : (xfeIssue form a srcs t s).mem = s.mem := by
  refine mem_withOps fun u vs hu => ?_
  dsimp only
  split
  · trivial
  · split <;> simp [hu]

@[simp] theorem mem_setSrcb (s : State) (iss : Issuer) (f : Nat → Nat) : (setSrcb s iss f).mem = s.mem := by
  simp [setSrcb]

@[simp] theorem mem_setXRun (s : State) (core : Nat) (r : EngRun) : (setXRun s core r).mem = s.mem := by
  simp [setXRun]

@[simp] theorem mem_setXIo (s : State) (core : Nat) (io : EngIo) : (setXIo s core io).mem = s.mem := by
  simp [setXIo]

@[simp] theorem mem_xfeGo (s : State) (core : Nat) (x : XCmd) (r : EngRun) : (xfeGo s core x r).mem = s.mem := by
  simp [xfeGo]

@[simp] theorem mem_xfeBegin (s : State) (core : Nat) (x : XCmd) : (xfeBegin s core x).mem = s.mem := by
  unfold xfeBegin
  split
  · simp
  · simp
  · simp [mem_foldl (f := fun (s : State) (e : Nat × List Word) => modCore s core _) (fun _ _ => rfl)]

@[simp] theorem mem_xfeLeave (s : State) (core : Nat) (x : XCmd) : (xfeLeave s core x).mem = s.mem := by
  simp [xfeLeave]

@[simp] theorem mem_xfeClose (s : State) (core : Nat) (x : XCmd) (r : EngRun) : (xfeClose s core x r).mem = s.mem := by
  unfold xfeClose
  split
  · next hs => simp [mem_of_stampEnd (fun _ => rfl) hs]
  · simp
  · simp

@[simp] theorem mem_xfeReadDone (s : State) (core cmd : Nat) (v : Reply) : (xfeReadDone s core cmd v).mem = s.mem := by
  simp only [xfeReadDone]
  (repeat' split) <;> simp

@[simp] theorem mem_xfeWriteDone (s : State) (core cmd piece : Nat) (err : Option Nat) : (xfeWriteDone s core cmd piece err).mem = s.mem := by
  simp only [xfeWriteDone]
  (repeat' split) <;> simp

/-! ### Streams -/

@[simp] theorem mem_putStream (s : State) (k st : Nat) (t : Stream) : (putStream s k st t).mem = s.mem := by
  simp [putStream]

@[simp] theorem mem_streamAsk (s : State) (k st : Nat) (t : Stream) (w : EngNeed) : (streamAsk s k st t w).mem = s.mem := by
  simp [streamAsk]

@[simp] theorem mem_fetchGo (s : State) (k st : Nat) (t : Stream) : (fetchGo s k st t).mem = s.mem := by
  simp only [fetchGo]
  (repeat' split) <;> simp

@[simp] theorem mem_pushGo (s : State) (k st : Nat) (t : Stream) : (pushGo s k st t).mem = s.mem := by
  simp only [pushGo]
  (repeat' split) <;> simp

@[simp] theorem mem_streamAnswer (s : State) (id at_ : Nat) (f : EngIo → EngIo) : (streamAnswer s id at_ f).mem = s.mem := by
  simp [streamAnswer]

@[simp] theorem mem_setCol (s : State) (tower : Nat) (c : ColCmd) : (setCol s tower c).mem = s.mem := by
  simp [setCol]

@[simp] theorem mem_cleGo (s : State) (tower : Nat) (c : ColCmd) : (cleGo s tower c).mem = s.mem := by
  unfold cleGo
  extract_lets ask failed close
  have hask (s : State) (c : ColCmd) (w : EngNeed) : (ask s c w).mem = s.mem := by simp [ask]
  have hfailed (s : State) (k pa : Nat) : (failed s k pa).mem = s.mem := modTower_mem s tower _
  clear_value failed ask
  have hclose (s : State) (c : ColCmd) (cause : Nat) : (close s c cause).mem = s.mem := by
    simp only [close]
    split
    · exact hask _ _ _
    · next hs => simp [mem_of_stampEnd (fun u => hfailed u _ _) hs]
    · rfl
  clear_value close
  split
  · rfl
  · split
    · exact hclose _ _ _
    · split
      · exact hclose _ _ _
      · split
        · exact hask _ _ _
        · simp [hclose]
        · simp [hclose, hfailed]

@[simp] theorem mem_cleAnswer (s : State) (tower id : Nat) (f : EngIo → EngIo) : (cleAnswer s tower id f).mem = s.mem := by
  unfold cleAnswer
  split <;> simp

/-! ### Ve -/

@[simp] theorem mem_veIssue (op : VOp) (dst : Option (BitVec 3)) (srcs : List (BitVec 3)) (a : GReg) (b : Option GReg) (t : Bool) (s : State) :
    (veIssue op dst srcs a b t s).mem = s.mem := by
  refine mem_withOps fun u vs hu => ?_
  extract_lets k core cl y base n sc tiles x
  split
  · trivial
  · split
    · exact hu
    · simp [mem_foldl, hu]

@[simp] theorem mem_vcbqCount (s : State) (core : Nat) (x : VCmd) (out : Bool) : (vcbqCount s core x out).mem = s.mem := by
  simp [vcbqCount]

@[simp] theorem mem_countSat (s : State) (x : VCmd) (k : Nat) : (countSat s x k).mem = s.mem := by
  simp [countSat]

@[simp] theorem mem_veData (s : State) (core : Nat) (x : VCmd) (r : EngRun) : (veData s core x r).1.mem = s.mem := by
  simp only [veData]
  (repeat' split) <;> simp

@[simp] theorem mem_setVRun (s : State) (core : Nat) (r : EngRun) : (setVRun s core r).mem = s.mem := by
  simp [setVRun]

@[simp] theorem mem_setVIo (s : State) (core : Nat) (io : EngIo) : (setVIo s core io).mem = s.mem := by
  simp [setVIo]

@[simp] theorem mem_veGo (s : State) (core : Nat) (x : VCmd) (r : EngRun) : (veGo s core x r).mem = s.mem := by
  simp [veGo]

@[simp] theorem mem_veInit (s : State) (core : Nat) (x : VCmd) : (veInit s core x).1.mem = s.mem := by
  simp only [veInit]
  (repeat' split) <;> simp

@[simp] theorem mem_veLeave (s : State) (core : Nat) (x : VCmd) (r : EngRun) : (veLeave s core x r).mem = s.mem := by
  simp [veLeave, mem_foldl]

@[simp] theorem mem_veTell (s : State) (core : Nat) (x : VCmd) (r : EngRun) : (veTell s core x r).mem = s.mem := by
  unfold veTell
  split <;> simp

@[simp] theorem mem_veClose (s : State) (core : Nat) (x : VCmd) (r : EngRun) : (veClose s core x r).mem = s.mem := by
  unfold veClose
  extract_lets ask stamp
  have hask (s : State) (io : EngIo) (w : EngNeed) : (ask s io w).mem = s.mem := by simp [ask]
  have hstamp (s : State) (r : EngRun) (io : EngIo) : (stamp s r io).mem = s.mem := by
    simp only [stamp]
    split
    · simp
    · split
      · simp [hask]
      · next hs => simp [mem_of_stampEnd (fun _ => rfl) hs]
      · rfl
  split
  · exact hstamp _ _ _
  · split
    · exact hask _ _ _
    · exact hstamp _ _ _
    · simp [hstamp]

@[simp] theorem mem_veReadDone (s : State) (core cmd piece : Nat) (v : Reply) : (veReadDone s core cmd piece v).mem = s.mem := by
  simp only [veReadDone]
  (repeat' split) <;> simp

@[simp] theorem mem_veWriteDone (s : State) (core cmd piece : Nat) (err : Option Nat) : (veWriteDone s core cmd piece err).mem = s.mem := by
  simp only [veWriteDone]
  (repeat' split) <;> simp

/-! ### Light -/

@[simp] theorem mem_raiseOwners (s : State) (k cause : Nat) (tval : Word) : (raiseOwners s k cause tval).mem = s.mem := by
  refine mem_foldl (fun s c => ?_) _ s
  split <;> simp

@[simp] theorem mem_drift (s : State) (k : Nat) (trim : Bool) (probe : Nat) : (drift s k trim probe).mem = s.mem := by
  simp [drift]

@[simp] theorem mem_countSite (s : State) (k sat clip sym : Nat) : (countSite s k sat clip sym).mem = s.mem := by
  simp [countSite]

@[simp] theorem mem_probeOnce (cl site k : Nat) (s : State) : (probeOnce cl site k s).mem = s.mem := by
  unfold probeOnce
  extract_lets s1
  have hs1 : s1.mem = s.mem := by simp only [s1, modSite_mem, mem_countSite]
  split
  · exact hs1
  · generalize probeMeasure _ _ _ _ _ = q
    obtain ⟨e, j, far, clips⟩ := q
    clear_value s1
    split
    simp [hs1]

@[simp] theorem mem_sweepSite (s : State) (cl site : Nat) : (sweepSite s cl site).mem = s.mem := by
  simp [sweepSite, mem_foldl]

/-! ### Omu -/

@[simp] theorem mem_modCmd (s : State) (cl id : Nat) (f : MxCmd → MxCmd) : (modCmd s cl id f).mem = s.mem := by
  simp [modCmd]

@[simp] theorem mem_mxAsk (s : State) (cl : Nat) (x : MxCmd) (w : EngNeed) : (mxAsk s cl x w).mem = s.mem := by
  simp [mxAsk]

@[simp] theorem mem_mxErr (s : State) (cl : Nat) (x : MxCmd) (cause reason row : Nat) : (mxErr s cl x cause reason row).mem = s.mem :=
  modCluster_mem _ _ _

@[simp] theorem mem_mxRetireN (n : Nat) (s : State) (cl : Nat) : (mxRetireN n s cl).mem = s.mem := by
  induction n generalizing s with
  | zero => rfl
  | succ n ih =>
    unfold mxRetireN
    split
    · rfl
    · split
      · rfl
      · extract_lets leave
        have hleave (s : State) : (leave s).mem = s.mem := by simp [leave, ih]
        split
        · exact hleave s
        · split
          · rfl
          · split
            · simp
            · next hs => rw [hleave, mem_of_stampEnd (fun u => by simp) hs]
            · rfl

@[simp] theorem mem_mxRetire (s : State) (cl : Nat) : (mxRetire s cl).mem = s.mem := by
  simp [mxRetire]

@[simp] theorem mem_groupClock (s : State) : (groupClock s).mem = s.mem := by
  unfold groupClock
  exact mem_foldl (f := fun s _ => modCluster s _ _) (fun _ _ => rfl) _ s

@[simp] theorem mem_groupCount (s : State) (cl : Nat) : (groupCount s cl).mem = s.mem := by
  unfold groupCount
  split
  · rfl
  · exact mem_foldl (f := fun (s : State) (m : Nat) => modCluster s m _) (fun _ _ => rfl) _ _

@[simp] theorem mem_watchdogFire (n : Nat) (s : State) (m : Nat) : (watchdogFire n s m).mem = s.mem := by
  simp only [watchdogFire]
  split <;> simp

@[simp] theorem mem_dropTimers (s : State) (cl : Nat) : (dropTimers s cl).mem = s.mem :=
  mem_foldl (f := fun (s : State) (m : Nat) => modCluster s m _) (fun _ _ => rfl) _ _

@[simp] theorem mem_groupWrite (s : State) (cl : Nat) (v : Word) : (groupWrite s cl v).mem = s.mem := by
  simp [groupWrite]

@[simp] theorem mem_mxEnd (s : State) (cl : Nat) (x : MxCmd) (cause reason row ebc : Nat) : (mxEnd s cl x cause reason row ebc).mem = s.mem := by
  simp [mxEnd]

theorem leaves_owned {s : State} {i : Instr} {body : State} (h : P s.mem) (hbody : P body.mem) : P (owned i s body).mem := by
  unfold owned
  split
  · exact hbody
  · rw [mem_finish]; exact h

@[simp] theorem mem_setOwner (s : State) (o : Option Nat) : (setOwner s o).mem = s.mem := by
  simp [setOwner]

@[simp] theorem leaves_mxEnqueue (s : State) (fn : Nat) (word : Word) (bank : Bool) (la seq : Nat) (stamp : Option Nat) (took : State → State)
    (h : P s.mem) (htook : ∀ u, (took u).mem = u.mem) : (mxEnqueue s fn word bank la seq stamp took).Leaves P := by
  simp [mxEnqueue, h, htook]

@[simp] theorem mem_tookA (t : Bool) (a : GReg) (s : State) : (tookA t a s).mem = s.mem := by
  simp [tookA]

@[simp] theorem mem_cutPass (s : State) (cl : Nat) (x : MxCmd) (r cause : Nat) : (cutPass s cl x r cause).mem = s.mem := by
  simp [cutPass]

@[simp] theorem mem_feedPiece (cl id : Nat) (s : State) (p : Nat × Nat) : (feedPiece cl id s p).mem = s.mem := by
  unfold feedPiece
  split
  · rfl
  · split
    · rfl
    · have hread := leaves_cspRead (P := fun m => m = s.mem) s cl p.1 p.2 rfl
      generalize cspRead s cl p.1 p.2 = r at hread
      cases r <;> simpa using hread

@[simp] theorem mem_feedEarly (cl id : Nat) (s : State) (early : List Nat) : (feedEarly cl id s early).mem = s.mem := by
  refine mem_foldl (fun s i => ?_) _ s
  split
  · rfl
  · split
    · rfl
    · split <;> simp

@[simp] theorem mem_enterRow (s : State) (cl site : Nat) (b : PhaseBank) (x : MxCmd) (bs : List Byte) : (enterRow s cl site b x bs).mem = s.mem := by
  simp [enterRow]

@[simp] theorem mem_feedRows (cl id n : Nat) (s : State) : (feedRows cl id n s).mem = s.mem := by
  induction n generalizing s with
  | zero => rfl
  | succ n ih =>
    unfold feedRows
    split
    · rfl
    · split
      · rfl
      · split
        · simp
        · extract_lets cuts s1 fed ps s2
          have h2 : s2.mem = s.mem := by
            show (modCmd s1 cl id _).mem = s.mem
            rw [mem_modCmd]
            exact mem_foldl (mem_feedPiece cl id) _ _
          split
          · simp
          · split
            · simp
            · split
              · rfl
              · split
                · rw [ih, mem_enterRow, h2]
                · rw [mem_cutPass, h2]
                · rfl

@[simp] theorem mem_startPassCmd (s : State) (cl : Nat) (x : MxCmd) : (startPassCmd s cl x).mem = s.mem := by
  simp only [startPassCmd]
  (repeat' split) <;> simp

@[simp] theorem mem_phldGo (s : State) (cl : Nat) (x : MxCmd) : (phldGo s cl x).mem = s.mem := by
  simp only [phldGo]
  (repeat' split) <;> simp

@[simp] theorem mem_drainGo (s : State) (cl : Nat) (x : MxCmd) : (drainGo s cl x).mem = s.mem := by
  simp only [drainGo]
  (repeat' split) <;> simp

@[simp] theorem mem_mxAnswer (s : State) (cl id : Nat) (f : EngIo → EngIo) : (mxAnswer s cl id f).mem = s.mem := by
  unfold mxAnswer
  split <;> simp

@[simp] theorem mem_calibrate (s : State) (cl site : Nat) : (calibrate s cl site).mem = s.mem := by
  simp [calibrate]

@[simp] theorem mem_bindWrite (s : State) (cl : Nat) (v : Word) : (bindWrite s cl v).mem = s.mem := by
  unfold bindWrite
  dsimp only
  split
  · rfl
  · have hmoved (l : List Nat) (s : State) : (l.foldl (fun s c => modCluster s c fun x => { x with settle := true, live := [] }) s).mem = s.mem := by
      apply mem_foldl
      exact fun _ _ => rfl
    split
    · rw [hmoved, modCluster_mem]
    · rw [modSite_mem, hmoved, modCluster_mem]

@[simp] theorem mem_siteWrite (s : State) (cl n : Nat) (v : Word) : (siteWrite s cl n v).mem = s.mem := by
  simp only [siteWrite]
  split <;> simp

/-! ### Dce -/

@[simp] theorem mem_setDce (s : State) (cl : Nat) (d : DceCmd) : (setDce s cl d).mem = s.mem := by
  simp [setDce]

@[simp] theorem mem_dceAsk (s : State) (cl : Nat) (d : DceCmd) (w : EngNeed) : (dceAsk s cl d w).mem = s.mem := by
  simp [dceAsk]

@[simp] theorem mem_dceRead (s : State) (cl : Nat) (d : DceCmd) : (dceRead s cl d).mem = s.mem := by
  simp only [dceRead]
  (repeat' split) <;> simp

@[simp] theorem mem_dceLeave (s : State) (cl : Nat) (d : DceCmd) (cebc sweeps : Nat) : (dceLeave s cl d cebc sweeps).mem = s.mem :=
  (mem_endCmd _ _ _).trans (modCluster_mem _ _ _)

@[simp] theorem mem_dceStamp (s : State) (cl : Nat) (d : DceCmd) (cause cebc sweeps : Nat) : (dceStamp s cl d cause cebc sweeps).mem = s.mem := by
  unfold dceStamp
  split
  · simp
  · next hs => simp [mem_of_stampEnd (fun _ => rfl) hs]
  · rfl

@[simp] theorem mem_dceEnd (s : State) (cl : Nat) (d : DceCmd) : (dceEnd s cl d).mem = s.mem := by
  simp only [dceEnd]
  (repeat' split) <;> simp

@[simp] theorem mem_dceAnswer (s : State) (cl id : Nat) (f : EngIo → EngIo) : (dceAnswer s cl id f).mem = s.mem := by
  unfold dceAnswer
  split <;> simp

/-! ### EngNet -/

@[simp] theorem mem_toEngineRead (s : State) (ref : EngRef) (v : Reply) : (toEngineRead s ref v).mem = s.mem := by
  unfold toEngineRead
  split <;> simp

@[simp] theorem mem_toEngineWrite (s : State) (ref : EngRef) (err : Option Nat) : (toEngineWrite s ref err).mem = s.mem := by
  unfold toEngineWrite
  split <;> simp

/-! ### Fetch -/

@[simp] theorem leaves_fetchAddr (s : State) (k : Nat) (h : P s.mem) : (fetchAddr s k).Leaves P := by
  unfold fetchAddr
  dsimp only
  split
  · trivial
  · split
    · trivial
    · have haddr := leaves_physical s k (slotAt s k).asid (segBase ((slotAt s k).segLo 0) + (slotAt s k).pc.toNat) { x := true } h
      generalize physical s k _ _ _ = r at haddr
      cases r with
      | trap c v => trivial
      | ok la pa acc => simp
      | walk t => exact haddr

@[simp] theorem mem_sendFetch (s : State) (k pa : Nat) (acc : Acc) : (sendFetch s k pa acc).mem = s.mem := by
  simp only [sendFetch]
  split <;> simp

@[simp] theorem mem_holdWord (s : State) (k : Nat) (w : BitVec 32) : (holdWord s k w).mem = s.mem := by
  simp [holdWord]

@[simp] theorem mem_parkMember (s : State) (k : Nat) : (parkMember s k).mem = s.mem := by
  unfold parkMember
  dsimp only
  split
  · exact mem_finish _ _ _
  · rfl

@[simp] theorem mem_settleFollower (s0 : State) (lead : Nat) (w : BitVec 32) (lm : Mark) (s : State) (k : Nat) (m : Mark) :
    (settleFollower s0 lead w lm s k m).mem = s.mem := by
  unfold settleFollower
  dsimp only
  split
  · rfl
  · split
    · split
      · rfl
      · exact mem_finish _ _ _
    · split <;> rfl

@[simp] theorem mem_gangTurn (s : State) (lead : Nat) (fs : List Nat) : (gangTurn s lead fs).mem = s.mem :=
  mem_foldl (f := fun (t : State) (k : Nat) => modSlot t k _) (fun _ _ => rfl) _ _

/-! ### Traps -/

@[simp] theorem mem_useTurn (s : State) (k : Nat) : (useTurn s k).mem = s.mem := by
  unfold useTurn
  dsimp only
  split
  · rfl
  · simp
  · simp
  · simp
  · rw [mem_foldl]; intro s x; rfl
  · rfl

@[simp] theorem mem_debugForm (d a b : GReg) (t : Bool) (f : UnitForm) (s : State) : (debugForm d a b t f s).mem = s.mem := by
  refine mem_withOps fun u vs hu => ?_
  split
  · trivial
  · exact leaves_askUnit _ _ _ _ _ hu fun u v hu => hu

@[simp] theorem mem_debugPerform (s : State) (m : Msg) (f : UnitForm) (vs : List Word) : (debugPerform s m f vs).mem = s.mem := by
  unfold debugPerform
  dsimp only
  split
  · rfl
  · split
    · rw [mem_answerUnit]; apply mem_foldl; exact fun _ _ => rfl
    · rw [mem_answerUnit]; apply mem_foldl; exact fun _ _ => rfl

@[simp] theorem mem_setClass (s : State) (k cls : Nat) : (setClass s k cls).mem = s.mem := by
  simp [setClass]

@[simp] theorem mem_dbgWrite (s : State) (core : Nat) (v : Word) : (dbgWrite s core v).mem = s.mem := by
  simp [dbgWrite]

/-! ### Snap -/

@[simp] theorem mem_snapIssue (op : SnapOp) (d a : GReg) (t : Bool) (s : State) : (snapIssue op d a t s).mem = s.mem := by
  refine mem_withOps fun u vs hu => ?_
  extract_lets v n
  split
  · exact hu
  · split
    · trivial
    · exact leaves_askTrip _ _ _ _ hu (fun _ _ => by simp) fun u _ hu => hu

@[simp] theorem leaves_askTowers (s : State) (b : Body) (ended : State → List Word → Res) (h : P s.mem)
    (hended : ∀ u ws, P u.mem → (ended u ws).Leaves P) : (askTowers s b ended).Leaves P := by
  refine leaves_askTrip _ _ _ _ h (fun _ u => ?_) hended
  apply mem_foldl
  exact fun _ _ => rfl

@[simp] theorem mem_spanForm (inv : Bool) (d a b : GReg) (t : Bool) (s : State) : (spanForm inv d a b t s).mem = s.mem := by
  refine mem_withOps fun u vs hu => ?_
  extract_lets give
  split
  · exact hu
  · exact leaves_askTowers _ _ _ hu fun u _ hu => hu

/-! ### Quarters -/

@[simp] theorem mem_closeQuarter (s : State) (core q cause : Nat) : (closeQuarter s core q cause).mem = s.mem := by
  unfold closeQuarter
  extract_lets c gone src s1 s2
  have h1 : s1.mem = s.mem := rfl
  have h2 : s2.mem = s1.mem := by
    apply mem_foldl
    intro s w
    split
    · rfl
    · split <;> rfl
  rw [mem_servePwr, mem_foldl, h2, h1]
  intro s l
  simp

@[simp] theorem mem_quarterOn (s : State) (core q : Nat) : (quarterOn s core q).mem = s.mem := by
  simp [quarterOn]

@[simp] theorem mem_switchQuarters (s : State) (core mask : Nat) : (switchQuarters s core mask).mem = s.mem := by
  simp [switchQuarters, mem_foldl]

@[simp] theorem mem_pwrPerform (s : State) (m : Msg) (core : Nat) (vs : List Word) : (pwrPerform s m core vs).mem = s.mem := by
  simp [pwrPerform]

/-! ### Links -/

@[simp] theorem mem_setPort (s : State) (p : Nat) (x : Port) : (setPort s p x).mem = s.mem := by
  simp [setPort]

@[simp] theorem mem_modPort (s : State) (p : Nat) (f : Port → Port) : (modPort s p f).mem = s.mem := by
  simp [modPort]

@[simp] theorem mem_raiseLink (s : State) (p reason : Nat) : (raiseLink s p reason).mem = s.mem := by
  simp [raiseLink]

@[simp] theorem mem_sendCtl (s : State) (p ty v : Nat) : (sendCtl s p ty v).mem = s.mem := by
  simp [sendCtl]

@[simp] theorem mem_answerFec (s : State) (p v : Nat) : (answerFec s p v).mem = s.mem := by
  unfold answerFec
  split <;> simp

@[simp] theorem mem_answerClaim (s : State) (p v : Nat) : (answerClaim s p v).mem = s.mem := by
  unfold answerClaim
  split <;> simp

@[simp] theorem mem_switchLevel (s : State) (p level lane : Nat) : (switchLevel s p level lane).mem = s.mem := by
  simp [switchLevel]

@[simp] theorem mem_crossFrame (s : State) (p : Nat) : (crossFrame s p).mem = s.mem := by
  unfold crossFrame
  split <;> simp

@[simp] theorem mem_endLost (cause reason : Nat) (s : State) (m : Msg) : (endLost cause reason s m).mem = s.mem := by
  simp only [endLost]
  (repeat' split) <;> simp

@[simp] theorem mem_transmit (p : Nat) (s : State) (l : LinkMsg) : (transmit p s l).mem = s.mem := by
  simp [transmit]

@[simp] theorem mem_linkOut (s : State) (m : Msg) : (linkOut s m).mem = s.mem := by
  unfold linkOut
  split <;> simp

@[simp] theorem mem_endSent (s : State) (p : Nat) : (endSent s p).mem = s.mem := by
  simp [endSent, mem_foldl]

@[simp] theorem mem_throwSwitch (s : State) (p pos : Nat) : (throwSwitch s p pos).mem = s.mem := by
  simp [throwSwitch]

@[simp] theorem mem_settleBid (s : State) (p : Nat) : (settleBid s p).mem = s.mem := by
  unfold settleBid
  split <;> simp

@[simp] theorem mem_portFlow (s : State) (p : Nat) : (portFlow s p).mem = s.mem := by
  simp [portFlow, mem_foldl]

@[simp] theorem mem_linkFlow (s : State) : (linkFlow s).mem = s.mem := by
  simp only [linkFlow]
  split <;> simp [mem_foldl]

@[simp] theorem mem_failover (s : State) (p : Nat) : (failover s p).mem = s.mem := by
  simp [failover]

@[simp] theorem mem_takeDown (s : State) (p reason : Nat) : (takeDown s p reason).mem = s.mem := by
  simp [takeDown]

@[simp] theorem mem_trainingFails (s : State) (p : Nat) : (trainingFails s p).mem = s.mem := by
  simp [trainingFails]

@[simp] theorem mem_trainingEnds (s : State) (p peer : Nat) : (trainingEnds s p peer).mem = s.mem := by
  simp [trainingEnds]

@[simp] theorem mem_propose (s : State) (p level lane : Nat) : (propose s p level lane).mem = s.mem := by
  simp [propose]

@[simp] theorem mem_linkCfgWrite (s : State) (p : Nat) (v : Word) : (linkCfgWrite s p v).mem = s.mem := by
  simp [linkCfgWrite]

@[simp] theorem mem_laneFails (s : State) (p lane : Nat) (lost : Bool) : (laneFails s p lane lost).mem = s.mem := by
  simp only [laneFails]
  (repeat' split) <;> simp

@[simp] theorem mem_crossWindow (s : State) (p : Nat) : (crossWindow s p).mem = s.mem := by
  unfold crossWindow
  split <;> simp

@[simp] theorem mem_linkAnswer (s : State) (m : Msg) : (linkAnswer s m).mem = s.mem := by
  simp [linkAnswer, mem_foldl]

@[simp] theorem mem_linkRefusal (s : State) (m : Msg) (type plen off : Nat) : (linkRefusal s m type plen off).mem = s.mem := by
  simp only [linkRefusal]
  split <;> simp

@[simp] theorem mem_linkDeliver (p : Nat) (s : State) (l : LinkMsg) : (linkDeliver p s l).mem = s.mem := by
  simp only [linkDeliver]
  (repeat' split) <;> simp

@[simp] theorem mem_linkArrive (p : Nat) (s : State) (l : LinkMsg) : (linkArrive p s l).mem = s.mem := by
  simp [linkArrive]

@[simp] theorem mem_linkAck (s : State) (p a : Nat) : (linkAck s p a).mem = s.mem := by
  simp [linkAck]

@[simp] theorem mem_lnkForm (s : State) (d a : GReg) (srcs : List GReg) (t : Bool) (f : UnitForm) : (lnkForm s d a srcs t f).mem = s.mem := by
  refine mem_withOps fun u vs hu => ?_
  split
  · trivial
  · exact leaves_askUnit _ _ _ _ _ hu fun u v hu => hu

theorem mem_of_fecPerform (s : State) (m : Msg) (p : Nat) (v : Word) {u : State} (h : fecPerform s m p v = some u) : u.mem = s.mem := by
  unfold fecPerform at h
  extract_lets x l pin want s1 at h
  split at h
  · cases h
    simp
  · split at h
    · cases h
    · split at h
      · cases h
        simp [s1]
      · cases h
        simp [s1]

@[simp] theorem mem_claimPerform (s : State) (m : Msg) (p : Nat) (v : Word) : (claimPerform s m p v).mem = s.mem := by
  simp [claimPerform]

theorem mem_of_lnkPerform (s : State) (m : Msg) (f : UnitForm) (vs : List Word) {u : State} (h : lnkPerform s m f vs = some u) : u.mem = s.mem := by
  unfold lnkPerform at h
  dsimp only at h
  split at h
  · cases h; exact mem_answerUnit _ _ _
  · exact mem_of_fecPerform _ _ _ _ h
  · cases h; exact mem_claimPerform _ _ _ _
  · cases h; rfl

/-! ### Reliability -/

@[simp] theorem mem_onCtlStore (s : State) (b n : Nat) (p : Word → Bool) (perform : State → Word → State)
    (hperform : ∀ u x1, (perform u x1).mem = u.mem) : (onCtlStore s b n p perform).mem = s.mem := by
  unfold onCtlStore
  split <;> simp [hperform]

@[simp] theorem mem_adviseSites (s : State) (t : Nat) : (adviseSites s t).mem = s.mem := by
  simp [adviseSites]

@[simp] theorem mem_startDonor (s : State) (core q : Nat) : (startDonor s core q).mem = s.mem := by
  simp [startDonor]

@[simp] theorem mem_retireQuarter (s : State) (core q : Nat) (auto : Bool) : (retireQuarter s core q auto).1.mem = s.mem := by
  simp only [retireQuarter]
  split <;> simp

@[simp] theorem mem_vbRecord (s : State) (core q w : Nat) (auto : Bool) : (vbRecord s core q w auto).1.mem = s.mem := by
  simp only [vbRecord]
  (repeat' split) <;> simp

@[simp] theorem mem_vbForm (d a b : GReg) (t : Bool) (f : UnitForm) (s : State) : (vbForm d a b t f s).mem = s.mem := by
  refine mem_withOps fun u vs hu => ?_
  extract_lets v w
  split
  · trivial
  · split
    · trivial
    · exact leaves_askUnit _ _ _ _ _ hu fun u v hu => hu

@[simp] theorem mem_vbPerform (s : State) (m : Msg) (core : Nat) (f : UnitForm) (vs : List Word) : (vbPerform s m core f vs).mem = s.mem := by
  unfold vbPerform
  split <;> simp

@[simp] theorem mem_repairWrite (s : State) (v : Word) : (repairWrite s v).mem = s.mem := by
  simp [repairWrite]

@[simp] theorem mem_repairRow (s : State) (v : Word) : (repairRow s v).mem = s.mem := by
  simp [repairRow]

@[simp] theorem mem_repairEnds (s : State) (result : Nat) : (repairEnds s result).mem = s.mem := by
  simp [repairEnds]

@[simp] theorem mem_softError (s : State) (pa : Nat) (device : Bool) : (softError s pa device).mem = s.mem := by
  simp only [softError]
  (repeat' split) <;> simp

@[simp] theorem mem_retireCores (s : State) (cl bits : Nat) : (retireCores s cl bits).mem = s.mem := by
  simp [retireCores, mem_foldl]

@[simp] theorem mem_coreRetire (s : State) (v : Word) : (coreRetire s v).mem = s.mem := by
  unfold coreRetire
  split <;> simp

@[simp] theorem mem_retireSite (s : State) (k : Nat) : (retireSite s k).mem = s.mem := by
  unfold retireSite
  split
  · rfl
  · extract_lets users s1 s2
    rw [mem_adviseSites, mem_foldl]
    · rfl
    · intro s c
      dsimp only
      split <;> split <;> simp

@[simp] theorem mem_siteRetireWrite (s : State) (n : Nat) (v : Word) : (siteRetireWrite s n v).mem = s.mem := by
  simp [siteRetireWrite, mem_foldl]

/-! ### Holdup -/

@[simp] theorem mem_setRegion (s : State) (h : Nat) (r : Option Region) : (setRegion s h r).mem = s.mem := by
  simp [setRegion]

@[simp] theorem mem_admitRegion (s : State) (m : Msg) (asid la len prio tag : Nat) : (admitRegion s m asid la len prio tag).mem = s.mem := by
  simp only [admitRegion]
  (repeat' split) <;> simp

@[simp] theorem mem_saveForm (d a : GReg) (srcs : List GReg) (t : Bool) (f : UnitForm) (s : State) : (saveForm d a srcs t f s).mem = s.mem := by
  refine mem_withOps fun u vs hu => ?_
  exact leaves_askUnit _ _ _ _ _ hu fun u v hu => hu

@[simp] theorem mem_regionDelete (s : State) (user : Bool) (asid h : Nat) : (regionDelete s user asid h).1.mem = s.mem := by
  simp only [regionDelete]
  (repeat' split) <;> simp

@[simp] theorem mem_savePerform (s : State) (m : Msg) (f : UnitForm) (vs : List Word) : (savePerform s m f vs).mem = s.mem := by
  unfold savePerform
  split <;> simp

@[simp] theorem mem_clearTable (s : State) : (clearTable s).mem = s.mem := by
  simp [clearTable]

@[simp] theorem mem_huCtlWrite (s : State) (v : Word) : (huCtlWrite s v).mem = s.mem := by
  simp [huCtlWrite]

@[simp] theorem mem_shedLight (s : State) : (shedLight s).mem = s.mem := by
  unfold shedLight
  extract_lets s1
  have h1 : s1.mem = s.mem := by
    apply mem_foldl
    intro s c
    split <;> simp
  rw [← h1]
  apply mem_foldl
  exact fun _ _ => rfl

@[simp] theorem mem_shedLinks (s : State) : (shedLinks s).mem = s.mem := by
  simp [shedLinks, mem_foldl]

@[simp] theorem mem_refuseRest (s : State) : (refuseRest s).mem = s.mem := by
  unfold refuseRest
  rw [mem_foldl]
  exact fun _ _ => rfl

@[simp] theorem mem_adviseCap (s : State) : (adviseCap s).mem = s.mem := by
  simp [adviseCap]

/-! ### Units -/

theorem mem_of_unitPerform (s : State) (m : Msg) (f : UnitForm) (vs : List Word) {u : State} (h : unitPerform s m f vs = some u) : u.mem = s.mem := by
  unfold unitPerform at h
  split at h
  · cases h; exact mem_pwrPerform _ _ _ _
  · cases h; exact mem_vbPerform _ _ _ _ _
  · cases h; exact mem_vbPerform _ _ _ _ _
  · cases h; exact mem_debugPerform _ _ _ _
  · cases h; exact mem_debugPerform _ _ _ _
  · exact mem_of_lnkPerform _ _ _ _ h
  · exact mem_of_lnkPerform _ _ _ _ h
  · exact mem_of_lnkPerform _ _ _ _ h
  · cases h; exact mem_savePerform _ _ _ _
  · cases h; exact mem_savePerform _ _ _ _
  · cases h; exact mem_savePerform _ _ _ _
  · cases h; exact mem_savePerform _ _ _ _
  · cases h; rfl

/-! ### CtlRead -/

@[simp] theorem mem_afterRead (s : State) (u n : Nat) : (afterRead s u n).mem = s.mem := by
  simp [afterRead]

/-! ### GangSwitch -/

@[simp] theorem mem_withdrawAll (s : State) (core k : Nat) : (withdrawAll s core k).mem = s.mem := by
  simp [withdrawAll, mem_foldl]

@[simp] theorem mem_loadSlot (s : State) (k : Nat) (bs : List Byte) : (loadSlot s k bs).mem = s.mem := by
  simp [loadSlot, mem_foldl]

@[simp] theorem mem_startRestore (s : State) (core : Nat) : (startRestore s core).mem = s.mem := by
  simp [startRestore]

@[simp] theorem mem_loseSlot (s : State) (core n : Nat) : (loseSlot s core n).mem = s.mem := by
  simp [loseSlot]

theorem mem_of_resendRecs (k : Nat) (s : State) (r : ReqRec) {u : State} (h : resendRecs k (some s) r = some u) : u.mem = s.mem := by
  simp only [resendRecs, Option.bind_some] at h
  split at h
  · exact mem_of_sendRequest _ _ _ _ _ _ _ _ _ h
  · exact mem_of_sendRequest _ _ _ _ _ _ _ _ _ h

@[simp] theorem mem_gswWrite (s : State) (core : Nat) (v : Word) : (gswWrite s core v).mem = s.mem := by
  simp [gswWrite]

/-! ### CtlRegs -/

@[simp] theorem mem_writeThread (s : State) (k n : Nat) (v : Word) : (writeThread s k n v).mem = s.mem := by
  simp [writeThread]

@[simp] theorem mem_qmapWrite (s : State) (core : Nat) (v : Word) : (qmapWrite s core v).mem = s.mem := by
  simp [qmapWrite, mem_foldl]

@[simp] theorem mem_fewtWrite (s : State) (core : Nat) (v : Word) : (fewtWrite s core v).mem = s.mem := by
  simp only [fewtWrite]
  split <;> simp

@[simp] theorem mem_dirCmdWrite (s : State) (core : Nat) (v : Word) : (dirCmdWrite s core v).mem = s.mem := by
  simp [dirCmdWrite]

@[simp] theorem mem_pjRelWrite (s : State) (core : Nat) (v : Word) : (pjRelWrite s core v).mem = s.mem := by
  unfold pjRelWrite
  split <;> simp

@[simp] theorem mem_xformSet (s : State) (core : Nat) (v : Word) : (xformSet s core v).mem = s.mem := by
  simp [xformSet]

@[simp] theorem mem_writeCore (s : State) (core n : Nat) (v : Word) : (writeCore s core n v).mem = s.mem := by
  simp [writeCore, mem_foldl]

@[simp] theorem mem_bindSet (s : State) (cl : Nat) (v : Word) : (bindSet s cl v).mem = s.mem := by
  simp [bindSet]

@[simp] theorem mem_writeCluster (s : State) (cl n : Nat) (v : Word) : (writeCluster s cl n v).mem = s.mem := by
  simp [writeCluster]

@[simp] theorem mem_quotaWrite (s : State) (v : Word) : (quotaWrite s v).mem = s.mem := by
  simp [quotaWrite]

@[simp] theorem mem_routeWrite (s : State) (v : Word) : (routeWrite s v).mem = s.mem := by
  simp [routeWrite]

@[simp] theorem mem_extendMeas (s : State) : (extendMeas s).mem = s.mem := by
  simp [extendMeas]

@[simp] theorem mem_attWrite (s : State) (v : Word) : (attWrite s v).mem = s.mem := by
  simp [attWrite]

@[simp] theorem mem_writeModul (s : State) (n : Nat) (v : Word) : (writeModul s n v).mem = s.mem := by
  simp [writeModul, mem_foldl]

/-! ### Host -/

@[simp] theorem mem_hostAnswer (s : State) (c : HostCpl) : (hostAnswer s c).mem = s.mem := by
  simp [hostAnswer]

-- TODO HRes.toHost

@[simp] theorem mem_setHslot (s : State) (n : Nat) (h : HSlot) : (setHslot s n h).mem = s.mem := by
  simp [setHslot]

@[simp] theorem mem_agentAnswer (s : State) (n st : Nat) : (agentAnswer s n st).mem = s.mem := by
  simp [agentAnswer]

@[simp] theorem mem_bootFirmware (f : BootFacts) (s : State) : (bootFirmware f s).mem = s.mem := by
  simp [bootFirmware]

@[simp] theorem mem_bootRows (s : State) : (bootRows s).mem = s.mem := by
  simp [bootRows, mem_foldl]

@[simp] theorem mem_bootComb (f : BootFacts) (s : State) : (bootComb f s).mem = s.mem := by
  simp [bootComb]

@[simp] theorem mem_bootBuses (f : BootFacts) (s : State) : (bootBuses f s).mem = s.mem := by
  simp [bootBuses, mem_foldl]

@[simp] theorem mem_bootLight (f : BootFacts) (s : State) : (bootLight f s).mem = s.mem := by
  unfold bootLight
  apply mem_foldl
  intro s cl
  split
  · rfl
  · split
    · exact mem_retireSite _ _
    · split <;> simp

@[simp] theorem mem_bootConfig (f : BootFacts) (s : State) : (bootConfig f s).mem = s.mem := by
  simp [bootConfig, mem_foldl]

@[simp] theorem mem_bootDone (f : BootFacts) (s : State) : (bootDone f s).mem = s.mem := by
  unfold bootDone
  extract_lets s1 ver
  rw [mem_hostEvent, modModul_mem]
  apply mem_foldl
  exact fun _ _ => rfl

@[simp] theorem mem_bootFails (k : Nat) (s : State) : (bootFails k s).mem = s.mem := by
  simp [bootFails]

@[simp] theorem mem_bootAt (k : Nat) (s : State) : (bootAt k s).mem = s.mem := by
  simp [bootAt]

@[simp] theorem mem_settle (s : State) : (settle s).mem = s.mem := by
  simp [settle]

/-! ### Turns -/

@[simp] theorem mem_wakeAll (run : Instr → State → Out) (s : State) : (wakeAll run s).mem = s.mem := by
  unfold wakeAll
  apply mem_foldl
  intro s k
  apply mem_foldl
  intro s k
  simp

@[simp] theorem mem_nextCycle (run : Instr → State → Out) (s : State) : (nextCycle run s).mem = s.mem := by
  simp [nextCycle]

/-! ### Step -/

@[simp] theorem mem_nextChoice (s : State) : (nextChoice s).2.mem = s.mem := by
  unfold nextChoice
  split <;> rfl

end Sys2Proof.Machine
end

section
/-! The instructions and events that write no memory, in the order of the model: each leaves whatever held of memory before. -/

namespace Sys2Proof.Machine

variable {P : List Host.Cell → Prop}

/-! ### Flow -/

theorem leaves_branch {c : Cond} {a b : GReg} {o : BitVec 12} {s : State} (h : P s.mem) : OutLeaves P (branch c a b o s) := by
  refine leaves_withOps h fun u vs hu => ?_
  simp [hu]

theorem leaves_branchImm {c : Cond} {a : GReg} {i : BitVec 5} {o : BitVec 12} {s : State} (h : P s.mem) : OutLeaves P (branchImm c a i o s) := by
  refine leaves_withOps h fun u vs hu => ?_
  simp [hu]

theorem leaves_execBfull {a : GReg} {o : BitVec 12} {s : State} (h : P s.mem) : OutLeaves P (execBfull a o s) := by
  exact h

theorem leaves_execJal {d : GReg} {o : BitVec 20} {s : State} (h : P s.mem) : OutLeaves P (execJal d o s) := by
  refine leaves_withOps h fun u vs hu => ?_
  simp [hu]

theorem leaves_execJalr {d a : GReg} {t : Bool} {i : BitVec 14} {s : State} (h : P s.mem) : OutLeaves P (execJalr d a t i s) := by
  refine leaves_withOps h fun u vs hu => ?_
  simp [hu]

theorem leaves_execLoop {a b : GReg} {o : BitVec 12} {s : State} (h : P s.mem) : OutLeaves P (execLoop a b o s) := by
  refine leaves_withOps h fun u vs hu => ?_
  extract_lets v
  exact leaves_branchTo _ _ _ hu

theorem leaves_execGform {a : GReg} {t : Bool} {s : State} (h : P s.mem) : OutLeaves P (execGform a t s) := by
  refine leaves_withOps h fun u vs hu => ?_
  extract_lets v l n k s1 ms pc s2
  have h1 : s1.mem = u.mem := rfl
  have h2 : s2.mem = u.mem := by
    refine (mem_foldl (fun t m => ?_) ms s1).trans h1
    split <;> rfl
  split
  · trivial
  · split
    · trivial
    · split
      · trivial
      · split
        · rw [Res.leaves_jump, modSlot_mem, h2]; exact hu
        · rw [Res.leaves_park, h1]; exact hu

theorem leaves_execGsplit {s : State} (h : P s.mem) : OutLeaves P (execGsplit s) := by
  refine leaves_finish h ?_ _
  simp [h]

theorem leaves_execGrejoin {s : State} (h : P s.mem) : OutLeaves P (execGrejoin s) := by
  refine leaves_finish h (leaves_inGang _ _ fun g => ?_) _
  extract_lets k pc
  split
  · split
    · rw [Res.leaves_done, mem_foldl]
      · exact h
      · intro s m
        split
        · rfl
        · split <;> rfl
    · exact h
  · split
    · split <;> exact h
    · exact h

theorem leaves_execGleave {s : State} (h : P s.mem) : OutLeaves P (execGleave s) := by
  refine leaves_finish h (leaves_inGang _ _ fun g => ?_) _
  extract_lets k out solo
  have hout (s : State) : (out s).mem = s.mem := rfl
  split
  · rw [Res.leaves_done, hout, mem_foldl]
    · exact h
    · intro s m
      split <;> rfl
  · exact h

theorem leaves_execPin {s : State} (h : P s.mem) : OutLeaves P (execPin s) := by
  refine leaves_finish h ?_ _
  (repeat' split) <;> simp [h]

theorem leaves_execUnpin {s : State} (h : P s.mem) : OutLeaves P (execUnpin s) := by
  refine leaves_finish h ?_ _
  simp [h]

theorem leaves_execSemdn {n : BitVec 4} {s : State} (h : P s.mem) : OutLeaves P (execSemdn n s) := by
  refine leaves_finish h ?_ _
  simp [h]

theorem leaves_execSemup {n : BitVec 4} {s : State} (h : P s.mem) : OutLeaves P (execSemup n s) := by
  refine leaves_finish h ?_ _
  simp [h]

theorem leaves_execSemtry {d : GReg} {n : BitVec 4} {s : State} (h : P s.mem) : OutLeaves P (execSemtry d n s) := by
  refine leaves_withOps h fun u vs hu => ?_
  simp [hu]

theorem leaves_ringWait {d : GReg} {q : BitVec 3} {b : GReg} {count at_ : Ring → Nat} {s : State} (h : P s.mem) : OutLeaves P
    (ringWait d q b count at_ s) := by
  refine leaves_withOps h fun u vs hu => ?_
  simp [hu]

theorem leaves_ringAdvance {q : BitVec 3} {b : GReg} {count : Ring → Nat} {move : Ring → Nat → Ring} {s : State} (h : P s.mem) : OutLeaves P
    (ringAdvance q b count move s) := by
  refine leaves_withOps h fun u vs hu => ?_
  simp [hu]

theorem leaves_execQadvh {q : BitVec 3} {b : GReg} {s : State} (h : P s.mem) : OutLeaves P (execQadvh q b s) := by
  unfold execQadvh
  exact leaves_ringAdvance h

theorem leaves_execQadvt {q : BitVec 3} {b : GReg} {s : State} (h : P s.mem) : OutLeaves P (execQadvt q b s) := by
  unfold execQadvt
  exact leaves_ringAdvance h

theorem leaves_execQcnt {d : GReg} {q : BitVec 3} {s : State} (h : P s.mem) : OutLeaves P (execQcnt d q s) := by
  refine leaves_withOps h fun u vs hu => ?_
  simp [hu]

theorem leaves_execYield {a : GReg} {t : Bool} {s : State} (h : P s.mem) : OutLeaves P (execYield a t s) := by
  refine leaves_withOps h fun u vs hu => ?_
  simp [hu]

theorem leaves_execPark {d a : GReg} {t : Bool} {s : State} (h : P s.mem) : OutLeaves P (execPark d a t s) := by
  refine leaves_withOps h fun u vs hu => ?_
  simp [hu]

theorem leaves_execWake {a : GReg} {t : Bool} {s : State} (h : P s.mem) : OutLeaves P (execWake a t s) := by
  refine leaves_withOps h fun u vs hu => ?_
  simp [hu]

theorem leaves_execTsleep {a : GReg} {t : Bool} {s : State} (h : P s.mem) : OutLeaves P (execTsleep a t s) := by
  refine leaves_withOps h fun u vs hu => ?_
  simp [hu]

theorem leaves_execFence {k : BitVec 3} {c : BitVec 3} {s : State} (h : P s.mem) : OutLeaves P (execFence k c s) := by
  refine leaves_finish h ?_ _
  simp [h]

theorem leaves_execFencex {k : BitVec 2} {c : BitVec 3} {s : State} (h : P s.mem) : OutLeaves P (execFencex k c s) := by
  exact h

/-! ### Memory -/

theorem leaves_load {d a : GReg} {t : Bool} {seg : BitVec 3} {o : BitVec 11} {size : Nat} {signed : Bool} {s : State}
    (h : P s.mem) : OutLeaves P (load d a t seg o size signed s) := by
  refine leaves_withOps h fun u vs hu => ?_
  split
  · exact hu
  · exact leaves_onAddr hu (leaves_mAddr _ _ _ _ _ _ hu) _ fun la pa acc => leaves_loadAt _ _ _ _ _ _ _ _ _ hu

theorem leaves_execLdro64 {d a : GReg} {t : Bool} {seg : BitVec 3} {o : BitVec 11} {s : State} (h : P s.mem) :
    OutLeaves P (execLdro64 d a t seg o s) := by
  refine leaves_withOps h fun u vs hu => ?_
  split
  · exact hu
  · refine leaves_onAddr hu (leaves_mAddr _ _ _ _ _ _ hu) _ fun la pa acc => ?_
    split
    · exact leaves_loadAt _ _ _ _ _ _ _ _ _ hu
    · split
      · exact leaves_deliverOwn _ _ _ _ _ _ _ _ hu
      · split
        · trivial
        · split
          · exact hu
          · next hs => simpa [mem_of_startRoFill _ _ _ _ _ hs] using hu

theorem leaves_execPfro {a : GReg} {t : Bool} {seg : BitVec 3} {o : BitVec 11} {s : State} (h : P s.mem) :
    OutLeaves P (execPfro a t seg o s) := by
  refine leaves_withOps h fun u vs hu => ?_
  extract_lets took
  split
  · exact hu
  · have hr := leaves_mAddr u seg (val vs 0) o 8 needR hu
    split
    · exact hu
    · next v hv => exact (hv ▸ hr : AddrRes.Leaves P (.walk v))
    · split
      · exact leaves_startPass _ _ _ _ _ hu
      · split
        · exact hu
        · split
          · exact hu
          · split
            · exact hu
            · next hs => simpa [took, mem_of_startRoFill _ _ _ _ _ hs] using hu

theorem leaves_execRocinv {a b : GReg} {t : Bool} {s : State} (h : P s.mem) : OutLeaves P (execRocinv a b t s) := by
  refine leaves_withOps h fun u vs hu => ?_
  simp [hu]

theorem leaves_execPjwait {d : GReg} {s : State} (h : P s.mem) : OutLeaves P (execPjwait d s) := by
  refine leaves_withOps h fun u vs hu => ?_
  simp [hu]

theorem leaves_execSegld {g : BitVec 3} {a : GReg} {t : Bool} {seg : BitVec 3} {o : BitVec 11} {s : State} (h : P s.mem) :
    OutLeaves P (execSegld g a t seg o s) := by
  refine leaves_withOps h fun u vs hu => ?_
  split
  · exact hu
  · exact leaves_onAddr hu (leaves_mAddr _ _ _ _ _ _ hu) _ fun la pa acc => leaves_withAnswers _ _ hu fun ws =>
      leaves_readPark (ended := fun s _ bs => .done (modSlot s s.cur fun x => (x.takeIf t a.toNat).setSeg g.toNat (dwordAt bs 0) (dwordAt bs 1)))
        hu (fun _ _ => hu) _ _ _ _ _

/-! ### Transform -/

theorem leaves_execBsbind {a b : GReg} {t : Bool} {s : State} (h : P s.mem) : OutLeaves P (execBsbind a b t s) := by
  refine leaves_withOps h fun u vs hu => ?_
  dsimp only
  (repeat' split) <;> simp [hu]

theorem leaves_bitRead {consume : Bool} {d a : GReg} {t : Bool} {s : State} (h : P s.mem) : OutLeaves P (bitRead consume d a t s) := by
  refine leaves_withOps h fun u vs hu => ?_
  dsimp only
  (repeat' split) <;> simp [hu]

theorem leaves_execBsskip {a b : GReg} {t : Bool} {s : State} (h : P s.mem) : OutLeaves P (execBsskip a b t s) := by
  refine leaves_withOps h fun u vs hu => ?_
  simp [hu]

theorem leaves_execBslut {d a b : GReg} {t : Bool} {s : State} (h : P s.mem) : OutLeaves P (execBslut d a b t s) := by
  refine leaves_withOps h fun u vs hu => ?_
  dsimp only
  (repeat' split) <;> simp [hu]

theorem leaves_execTfwake {d a b : GReg} {t : Bool} {s : State} (h : P s.mem) : OutLeaves P (execTfwake d a b t s) := by
  refine leaves_withOps h fun u vs hu => ?_
  dsimp only
  (repeat' split) <;> simp [hu]

/-! ### Work -/

theorem leaves_execLaunch {d a : GReg} {t : Bool} {s : State} (h : P s.mem) : OutLeaves P (execLaunch d a t s) := by
  refine leaves_withOps h fun u vs hu => ?_
  split
  · exact hu
  · refine leaves_withAnswers _ _ hu fun ws => leaves_ptrBytes hu (fun v ws bs hv => ?_) _ _ _ _ _
    extract_lets r tw
    split
    · exact leaves_launchGive _ _ _ _ _ hv
    · refine leaves_launchArgs hv (fun v ws args hv => ?_) _ _
      refine leaves_launchPlace hv (fun v hv => leaves_launchGive _ _ _ _ _ hv) (fun v ws place hv => ?_) _ _
      refine leaves_launchLevels hv (fun ws cxl => ?_) _ _ _
      split
      · exact leaves_launchGive _ _ _ _ _ hv
      · exact leaves_askAgent _ _ _ _ _ _ hv fun _ _ => leaves_launchGive _ _ _ _ _ hv

theorem leaves_execWfw {s : State} (h : P s.mem) : OutLeaves P (execWfw s) := by
  refine leaves_finish h ?_ _
  simp [h]

theorem leaves_execTdone {s : State} (h : P s.mem) : OutLeaves P (execTdone s) := by
  refine leaves_finish h ?_ _
  simp [h]

theorem leaves_execTfail {a : GReg} {t : Bool} {s : State} (h : P s.mem) : OutLeaves P (execTfail a t s) := by
  refine leaves_withOps h fun u vs hu => ?_
  simp [hu]

theorem leaves_execLvlcnt {d a : GReg} {t : Bool} {s : State} (h : P s.mem) : OutLeaves P (execLvlcnt d a t s) := by
  refine leaves_withOps h fun u vs hu => ?_
  split
  · exact hu
  · refine leaves_withId _ _ _ fun id => ?_
    extract_lets s1
    split
    · next hs => simpa [mem_of_sendRequest _ _ _ _ _ _ _ _ _ hs, s1] using hu
    · exact hu

theorem leaves_levelWait {f : SyncForm} {d a : GReg} {t : Bool} {s : State} (h : P s.mem) :
    OutLeaves P (levelWait f d a t s) := by
  refine leaves_withOps h fun u vs hu => ?_
  split
  · exact hu
  · refine leaves_withId _ _ _ fun id => ?_
    split
    · exact hu
    · extract_lets s1
      split
      · next hs => simpa [mem_of_sendRequest _ _ _ _ _ _ _ _ _ hs, s1] using hu
      · exact hu

theorem leaves_execLvlcancel {a : GReg} {t : Bool} {s : State} (h : P s.mem) : OutLeaves P (execLvlcancel a t s) := by
  refine leaves_withOps h fun u vs hu => ?_
  simp [hu]

theorem leaves_execPhopen {d a : GReg} {t : Bool} {s : State} (h : P s.mem) : OutLeaves P (execPhopen d a t s) := by
  refine leaves_withOps h fun u vs hu => ?_
  simp [hu]

theorem leaves_execPhclose {a : GReg} {t : Bool} {s : State} (h : P s.mem) : OutLeaves P (execPhclose a t s) := by
  refine leaves_withOps h fun u vs hu => ?_
  simp [hu]

theorem leaves_execDistributeRetry {tower i : Nat} {s : State} (h : P s.mem) : OutLeaves P (execDistributeRetry tower i s) := by
  unfold execDistributeRetry
  split
  · exact h
  · split
    · exact h
    · extract_lets out u
      rw [outLeaves_next, mem_foldl (fun _ _ => sendMsg_mem _ _)]
      exact h

theorem leaves_execLaunchStatusReply {i : Nat} {s : State} (h : P s.mem) : OutLeaves P (execLaunchStatusReply i s) := by
  simp only [execLaunchStatusReply]
  (repeat' split) <;> simp [h]

theorem leaves_execDispenserStartUnit {cluster : Nat} {s : State} (h : P s.mem) : OutLeaves P (execDispenserStartUnit cluster s) := by
  unfold execDispenserStartUnit
  dsimp only
  (repeat' split) <;> simp [h]

theorem leaves_execCrmap {d a b : GReg} {t : Bool} {s : State} (h : P s.mem) : OutLeaves P (execCrmap d a b t s) := by
  refine leaves_withOps h fun u vs hu => ?_
  extract_lets va i j cl
  split
  · trivial
  · split
    · trivial
    · split
      · exact hu
      · exact leaves_askTrip _ _ _ _ hu (fun _ _ => rfl) fun v _ hv => hv

theorem leaves_execRemapSwap {cluster : Nat} {s : State} (h : P s.mem) : OutLeaves P (execRemapSwap cluster s) := by
  unfold execRemapSwap
  split <;> simp [h]

theorem leaves_execThermalHold {cluster : Nat} {temp : Nat} {s : State} (h : P s.mem) : OutLeaves P (execThermalHold cluster temp s) := by
  simp [execThermalHold, h]

theorem leaves_execThermalHoldClear {cluster : Nat} {temp : Nat} {s : State} (h : P s.mem) : OutLeaves P (execThermalHoldClear cluster temp s) := by
  simp [execThermalHoldClear, h]

theorem leaves_execThermalThrottle {cluster : Nat} {temp : Nat} {s : State} (h : P s.mem) : OutLeaves P (execThermalThrottle cluster temp s) := by
  simp [execThermalThrottle, h]

theorem leaves_execNpRegionExpire {k : Nat} {s : State} (h : P s.mem) : OutLeaves P (execNpRegionExpire k s) := by
  unfold execNpRegionExpire
  split <;> simp [h]

/-! ### Messages -/

theorem leaves_execNidict {a b : GReg} {t : Bool} {s : State} (h : P s.mem) : OutLeaves P (execNidict a b t s) := by
  refine leaves_withOps h fun u vs hu => ?_
  dsimp only
  (repeat' split) <;> simp [hu]

theorem leaves_execNiclr {a : GReg} {t : Bool} {s : State} (h : P s.mem) : OutLeaves P (execNiclr a t s) := by
  refine leaves_withOps h fun u vs hu => ?_
  simp [hu]

theorem leaves_sendActive {useDict : Bool} {a b : GReg} {t : Bool} {type : BitVec 8} {s : State} (h : P s.mem) : OutLeaves P
    (sendActive useDict a b t type s) := by
  refine leaves_withOps h fun u vs hu => ?_
  dsimp only
  (repeat' split) <;> simp [hu]

theorem leaves_execNiSend {core : Nat} {s : State} (h : P s.mem) : OutLeaves P (execNiSend core s) := by
  unfold execNiSend
  split <;> simp [h]

theorem leaves_execAmRefusal {i : Nat} {s : State} (h : P s.mem) : OutLeaves P (execAmRefusal i s) := by
  simp only [execAmRefusal]
  (repeat' split) <;> simp [h]

theorem leaves_execAmHandlerStart {core : Nat} {s : State} (h : P s.mem) : OutLeaves P (execAmHandlerStart core s) := by
  unfold execAmHandlerStart
  split <;> simp [h]

theorem leaves_execMend {s : State} (h : P s.mem) : OutLeaves P (execMend s) := by
  refine leaves_finish h ?_ _
  (repeat' split) <;> simp [h]

theorem leaves_execHop {a : GReg} {t : Bool} {s : State} (h : P s.mem) : OutLeaves P (execHop a t s) := by
  refine leaves_withOps h fun u vs hu => ?_
  have hr := leaves_ptrAddr u u.cur (val vs 0) 1 {} hu
  split
  · trivial
  · next v hv => exact (hv ▸ hr : AddrRes.Leaves P (.walk v))
  · split
    · exact leaves_refusePass _ _ _ _ hu
    · split
      · trivial
      · split
        · exact hu
        · exact leaves_startPass _ _ _ _ _ hu

theorem leaves_execBatonAnswer {i : Nat} {s : State} (h : P s.mem) : OutLeaves P (execBatonAnswer i s) := by
  unfold execBatonAnswer
  split
  · exact h
  · split
    · extract_lets u free cfg v
      split
      · exact h
      · split
        · rw [outLeaves_next, mem_trapNow]; exact h
        · exact h
    · exact h

theorem leaves_execBatonResend {k : Nat} {s : State} (h : P s.mem) : OutLeaves P (execBatonResend k s) := by
  simp only [execBatonResend]
  (repeat' split) <;> simp [h]

/-! ### Network -/

theorem leaves_execLoadReply {i : Nat} {s : State} (h : P s.mem) : OutLeaves P (execLoadReply i s) := by
  simp only [execLoadReply]
  (repeat' split) <;> simp [h]

theorem leaves_execStoreAck {i : Nat} {s : State} (h : P s.mem) : OutLeaves P (execStoreAck i s) := by
  simp only [execStoreAck]
  (repeat' split) <;> simp [h]

theorem leaves_execStoreRefusal {i : Nat} {s : State} (h : P s.mem) : OutLeaves P (execStoreRefusal i s) := by
  simp only [execStoreRefusal]
  (repeat' split) <;> simp [h]

theorem leaves_execAtomicReply {i : Nat} {s : State} (h : P s.mem) : OutLeaves P (execAtomicReply i s) := by
  simp only [execAtomicReply]
  (repeat' split) <;> simp [h]

theorem leaves_execSyncReply {i : Nat} {s : State} (h : P s.mem) : OutLeaves P (execSyncReply i s) := by
  simp only [execSyncReply]
  (repeat' split) <;> simp [h]

theorem leaves_execSyncRetry {i : Nat} {s : State} (h : P s.mem) : OutLeaves P (execSyncRetry i s) := by
  unfold execSyncRetry
  dsimp only
  (repeat' split) <;> simp [h]

theorem leaves_execFeRetryResend {core : Nat} {tag : Nat} {s : State} (h : P s.mem) : OutLeaves P (execFeRetryResend core tag s) := by
  simp only [execFeRetryResend]
  (repeat' split) <;> simp [h]

theorem leaves_execWithdrawal {i : Nat} {s : State} (h : P s.mem) : OutLeaves P (execWithdrawal i s) := by
  unfold execWithdrawal
  dsimp only
  (repeat' split) <;> simp [h]

theorem leaves_execWithdrawnAnswer {i : Nat} {s : State} (h : P s.mem) : OutLeaves P (execWithdrawnAnswer i s) := by
  simp only [execWithdrawnAnswer]
  (repeat' split) <;> simp [h]

theorem leaves_execRoFillRequest {i : Nat} {s : State} (h : P s.mem) : OutLeaves P (execRoFillRequest i s) := by
  unfold execRoFillRequest
  split
  · exact h
  · split
    · split
      · split
        · exact h
        · exact h
        · exact h
        · next c o _ _ =>
          extract_lets line s0
          have hr := leaves_lmRead (P := P) s0 c (64 * line) 64 h
          split
          · next hv => exact (hv ▸ hr : HRes.Leaves P (.poison _ _ _))
          · exact h
          · exact h
          · next s1 _ hv =>
            have h1 : P s1.mem := (hv ▸ hr : HRes.Leaves P (.ok _ _))
            extract_lets answer
            split
            · split
              · exact h1
              · rw [outLeaves_next]
                split
                · exact h
                · rw [mem_dirEvict]; exact h
            · split
              · exact h1
              · split
                · exact h
                · split
                  · exact h1
                  · split
                    · exact h1
                    · split
                      · exact h1
                      · simpa [answer] using h1
      · exact h
    · exact h

theorem leaves_execRoFillReply {i : Nat} {s : State} (h : P s.mem) : OutLeaves P (execRoFillReply i s) := by
  unfold execRoFillReply
  dsimp only
  (repeat' split) <;> simp [h]

theorem leaves_execDirInvalidate {i : Nat} {s : State} (h : P s.mem) : OutLeaves P (execDirInvalidate i s) := by
  unfold execDirInvalidate
  dsimp only
  (repeat' split) <;> simp [h]

theorem leaves_execInvalidateAck {i : Nat} {s : State} (h : P s.mem) : OutLeaves P (execInvalidateAck i s) := by
  unfold execInvalidateAck
  dsimp only
  (repeat' split) <;> simp [h]

theorem leaves_execNetHopReplay {tower : Nat} {n : Nat} {s : State} (h : P s.mem) : OutLeaves P (execNetHopReplay tower n s) := by
  exact h

theorem leaves_execNetHopFail {cluster dir : Nat} {s : State} (h : P s.mem) : OutLeaves P (execNetHopFail cluster dir s) := by
  unfold execNetHopFail
  split
  · exact h
  · extract_lets v s1 s2
    have h2 : s2.mem = s1.mem := by
      apply mem_foldl
      intro s c
      simp
    rw [outLeaves_next, mem_advise, h2]
    exact h

theorem leaves_execNiBufferParity {core : Nat} {i : Nat} {s : State} (h : P s.mem) : OutLeaves P (execNiBufferParity core i s) := by
  unfold execNiBufferParity
  dsimp only
  (repeat' split) <;> simp [h]

theorem leaves_execQueueParity {core : Nat} {unit : Nat} {i : Nat} {s : State} (h : P s.mem) : OutLeaves P (execQueueParity core unit i s) := by
  unfold execQueueParity
  dsimp only
  (repeat' split) <;> simp [h]

/-! ### Translate -/

theorem leaves_execTlbfa {a b : GReg} {t : Bool} {s : State} (h : P s.mem) : OutLeaves P (execTlbfa a b t s) := by
  refine leaves_withOps h fun u vs hu => ?_
  extract_lets k asid sc cl ports
  split
  · exact hu
  · refine leaves_askTrip _ _ _ _ hu (fun id s => ?_) fun v _ hv => hv
    apply mem_foldl
    intro s p
    simp

theorem leaves_execTlbfaPortDiscard {i : Nat} {s : State} (h : P s.mem) : OutLeaves P (execTlbfaPortDiscard i s) := by
  unfold execTlbfaPortDiscard
  dsimp only
  (repeat' split) <;> simp [h]

theorem leaves_execTlbinv {d a b : GReg} {t : Bool} {s : State} (h : P s.mem) : OutLeaves P (execTlbinv d a b t s) := by
  refine leaves_withOps h fun u vs hu => ?_
  simp [hu]

theorem leaves_execTlbinvBroadcast {cluster : Nat} {s : State} (h : P s.mem) :
    OutLeaves P (execTlbinvBroadcast cluster s) := by
  unfold execTlbinvBroadcast
  split
  · exact h
  · extract_lets gone s2
    have h2 : s2.mem = s.mem := by
      apply mem_foldl
      exact fun _ _ => rfl
    split
    · rw [outLeaves_next, modCluster_mem, h2]; exact h
    · rw [outLeaves_next, modCluster_mem, h2]; exact h

/-! ### Engine -/

theorem leaves_tileOp {form : Nat} {n : BitVec 6} {a : GReg} {t : Bool} {bad : Word → Bool} {s : State} (h : P s.mem) :
    OutLeaves P (tileOp form n a t bad s) := by
  refine leaves_withOps h fun u vs hu => ?_
  split
  · trivial
  · exact leaves_tileForm _ _ _ _ _ hu fun _ => rfl

theorem leaves_execTdecl {n : BitVec 6} {a : GReg} {t : Bool} {s : State} (h : P s.mem) : OutLeaves P (execTdecl n a t s) :=
  leaves_tileOp h

theorem leaves_execTrel {n : BitVec 6} {s : State} (h : P s.mem) : OutLeaves P (execTrel n s) := by
  refine leaves_finish h ?_ _
  simp [h]

theorem leaves_execMwait {d a b : GReg} {t : Bool} {s : State} (h : P s.mem) : OutLeaves P (execMwait d a b t s) := by
  refine leaves_withOps h fun u vs hu => leaves_onAddr hu (leaves_ptrAddr _ _ _ _ _ hu) _ fun la pa _ => ?_
  split
  · trivial
  · trivial
  · trivial
  · next off _ =>
    have hr := leaves_lmRead (P := P) u (coreOf u.cur) off 8 hu
    split
    · trivial
    · trivial
    · exact hu
    · next hv =>
      rw [hv, HRes.leaves_ok] at hr
      extract_lets w
      split
      · exact hu
      · split
        · trivial
        · exact hr

/-! ### Xfe -/

theorem leaves_execXset {a : GReg} {t : Bool} {k : BitVec 4} {s : State} (h : P s.mem) : OutLeaves P (execXset a t k s) := by
  refine leaves_withOps h fun u vs hu => ?_
  simp [hu]

theorem leaves_execXcopy {a b : GReg} {t : Bool} {s : State} (h : P s.mem) : OutLeaves P (execXcopy a b t s) := by
  simp [execXcopy, h]

theorem leaves_execXgather {a b : GReg} {t : Bool} {s : State} (h : P s.mem) : OutLeaves P (execXgather a b t s) := by
  simp [execXgather, h]

theorem leaves_execXscatter {a b : GReg} {t : Bool} {s : State} (h : P s.mem) : OutLeaves P (execXscatter a b t s) := by
  simp [execXscatter, h]

theorem leaves_execXfill {a : GReg} {t : Bool} {s : State} (h : P s.mem) : OutLeaves P (execXfill a t s) := by
  simp [execXfill, h]

theorem leaves_execXlrec {a b : GReg} {t : Bool} {s : State} (h : P s.mem) : OutLeaves P (execXlrec a b t s) := by
  refine leaves_withOps h fun u vs hu => ?_
  dsimp only
  (repeat' split) <;> simp [hu]

theorem leaves_execXlflush {a : GReg} {t : Bool} {s : State} (h : P s.mem) : OutLeaves P (execXlflush a t s) := by
  refine leaves_withOps h fun u vs hu => ?_
  simp [hu]

theorem leaves_execXfeCommandStart {core : Nat} {s : State} (h : P s.mem) : OutLeaves P (execXfeCommandStart core s) := by
  simp only [execXfeCommandStart]
  (repeat' split) <;> simp [h]

theorem leaves_execXfeCommandEnd {core : Nat} {s : State} (h : P s.mem) : OutLeaves P (execXfeCommandEnd core s) := by
  simp only [execXfeCommandEnd]
  (repeat' split) <;> simp [h]

theorem leaves_execXfeFault {core : Nat} {s : State} (h : P s.mem) : OutLeaves P (execXfeFault core s) := by
  unfold execXfeFault
  dsimp only
  (repeat' split) <;> simp [h]

/-! ### Streams -/

theorem leaves_execStrm {d : BitVec 2} {a : GReg} {t : Bool} {s : State} (h : P s.mem) : OutLeaves P (execStrm d a t s) := by
  refine leaves_withOps h fun u vs hu => ?_
  extract_lets x
  split
  · exact hu
  · split
    · trivial
    · refine leaves_withAnswers _ _ hu fun ws => leaves_ptrBytes hu (fun v _ bs hv => ?_) _ _ _ _ _
      extract_lets ds
      split
      · trivial
      · exact hv

theorem leaves_execStreamFetch {k : Nat} {st : Nat} {s : State} (h : P s.mem) : OutLeaves P (execStreamFetch k st s) := by
  simp [execStreamFetch, h]

theorem leaves_execStreamWrite {k : Nat} {st : Nat} {s : State} (h : P s.mem) : OutLeaves P (execStreamWrite k st s) := by
  simp [execStreamWrite, h]

theorem leaves_execColgo {a b : GReg} {t : Bool} {s : State} (h : P s.mem) : OutLeaves P (execColgo a b t s) := by
  refine leaves_withOps h fun u vs hu => ?_
  extract_lets p
  refine leaves_withAnswers _ _ hu fun ws => leaves_ptrBytes hu (fun v ws hd hv => ?_) _ _ _ _ _
  extract_lets n
  refine leaves_ptrBytes hv (fun v _ bs hv => ?_) _ _ _ _ _
  extract_lets ds iss tw
  split
  · trivial
  · split
    · trivial
    · split
      · exact hv
      · exact hv

theorem leaves_execCleCollectiveStart {tower : Nat} {s : State} (h : P s.mem) : OutLeaves P (execCleCollectiveStart tower s) := by
  unfold execCleCollectiveStart
  split <;> simp [h]

theorem leaves_execCleCollectiveEnd {tower : Nat} {s : State} (h : P s.mem) : OutLeaves P (execCleCollectiveEnd tower s) := by
  unfold execCleCollectiveEnd
  split <;> simp [h]

/-! ### Ve -/

theorem leaves_execVset {a b : GReg} {t : Bool} {e : BitVec 3} {s : State} (h : P s.mem) : OutLeaves P (execVset a b t e s) := by
  refine leaves_withOps h fun u vs hu => ?_
  simp [hu]

theorem leaves_execVadd {a : GReg} {t : Bool} {x y e : BitVec 3} {s : State} (h : P s.mem) : OutLeaves P (execVadd a t x y e s) := by
  simp [execVadd, h]

theorem leaves_execVsub {a : GReg} {t : Bool} {x y e : BitVec 3} {s : State} (h : P s.mem) : OutLeaves P (execVsub a t x y e s) := by
  simp [execVsub, h]

theorem leaves_execVmul {a : GReg} {t : Bool} {x y e : BitVec 3} {s : State} (h : P s.mem) : OutLeaves P (execVmul a t x y e s) := by
  simp [execVmul, h]

theorem leaves_execVfma {a : GReg} {t : Bool} {x y e : BitVec 3} {s : State} (h : P s.mem) : OutLeaves P (execVfma a t x y e s) := by
  simp [execVfma, h]

theorem leaves_execVmax {a : GReg} {t : Bool} {x y e : BitVec 3} {s : State} (h : P s.mem) : OutLeaves P (execVmax a t x y e s) := by
  simp [execVmax, h]

theorem leaves_execVmin {a : GReg} {t : Bool} {x y e : BitVec 3} {s : State} (h : P s.mem) : OutLeaves P (execVmin a t x y e s) := by
  simp [execVmin, h]

theorem leaves_execVabs {a : GReg} {t : Bool} {x e : BitVec 3} {s : State} (h : P s.mem) : OutLeaves P (execVabs a t x e s) := by
  simp [execVabs, h]

theorem leaves_execVneg {a : GReg} {t : Bool} {x e : BitVec 3} {s : State} (h : P s.mem) : OutLeaves P (execVneg a t x e s) := by
  simp [execVneg, h]

theorem leaves_execVscale {a b : GReg} {t : Bool} {x e : BitVec 3} {s : State} (h : P s.mem) : OutLeaves P (execVscale a b t x e s) := by
  simp [execVscale, h]

theorem leaves_execViadd {a : GReg} {t : Bool} {x y e : BitVec 3} {s : State} (h : P s.mem) : OutLeaves P (execViadd a t x y e s) := by
  simp [execViadd, h]

theorem leaves_execVisub {a : GReg} {t : Bool} {x y e : BitVec 3} {s : State} (h : P s.mem) : OutLeaves P (execVisub a t x y e s) := by
  simp [execVisub, h]

theorem leaves_execVimul {a : GReg} {t : Bool} {x y e : BitVec 3} {s : State} (h : P s.mem) : OutLeaves P (execVimul a t x y e s) := by
  simp [execVimul, h]

theorem leaves_execViand {a : GReg} {t : Bool} {x y e : BitVec 3} {s : State} (h : P s.mem) : OutLeaves P (execViand a t x y e s) := by
  simp [execViand, h]

theorem leaves_execVior {a : GReg} {t : Bool} {x y e : BitVec 3} {s : State} (h : P s.mem) : OutLeaves P (execVior a t x y e s) := by
  simp [execVior, h]

theorem leaves_execVixor {a : GReg} {t : Bool} {x y e : BitVec 3} {s : State} (h : P s.mem) : OutLeaves P (execVixor a t x y e s) := by
  simp [execVixor, h]

theorem leaves_execVishl {a b : GReg} {t : Bool} {x e : BitVec 3} {s : State} (h : P s.mem) : OutLeaves P (execVishl a b t x e s) := by
  simp [execVishl, h]

theorem leaves_execVishr {a b : GReg} {t : Bool} {x e : BitVec 3} {s : State} (h : P s.mem) : OutLeaves P (execVishr a b t x e s) := by
  simp [execVishr, h]

theorem leaves_execVconv {a : GReg} {t : Bool} {x e : BitVec 3} {s : State} (h : P s.mem) : OutLeaves P (execVconv a t x e s) := by
  simp [execVconv, h]

theorem leaves_execVbfp {a : GReg} {t : Bool} {x e : BitVec 3} {s : State} (h : P s.mem) : OutLeaves P (execVbfp a t x e s) := by
  simp [execVbfp, h]

theorem leaves_execVbfpx {a : GReg} {t : Bool} {x e : BitVec 3} {s : State} (h : P s.mem) : OutLeaves P (execVbfpx a t x e s) := by
  simp [execVbfpx, h]

theorem leaves_execVcbq {a : GReg} {t : Bool} {x e : BitVec 3} {s : State} (h : P s.mem) : OutLeaves P (execVcbq a t x e s) := by
  simp [execVcbq, h]

theorem leaves_execVcbx {a : GReg} {t : Bool} {x e : BitVec 3} {s : State} (h : P s.mem) : OutLeaves P (execVcbx a t x e s) := by
  simp [execVcbx, h]

theorem leaves_execVsat {a b : GReg} {t : Bool} {x e : BitVec 3} {s : State} (h : P s.mem) : OutLeaves P (execVsat a b t x e s) := by
  simp [execVsat, h]

theorem leaves_execVsum {a : GReg} {t : Bool} {x e : BitVec 3} {s : State} (h : P s.mem) : OutLeaves P (execVsum a t x e s) := by
  simp [execVsum, h]

theorem leaves_execVmaxr {a : GReg} {t : Bool} {x e : BitVec 3} {s : State} (h : P s.mem) : OutLeaves P (execVmaxr a t x e s) := by
  simp [execVmaxr, h]

theorem leaves_execVdot {a : GReg} {t : Bool} {x y e : BitVec 3} {s : State} (h : P s.mem) : OutLeaves P (execVdot a t x y e s) := by
  simp [execVdot, h]

theorem leaves_execVcbld {b : GReg} {x : BitVec 3} {s : State} (h : P s.mem) : OutLeaves P (execVcbld b x s) := by
  simp [execVcbld, h]

theorem leaves_execVeCommandStart {core : Nat} {s : State} (h : P s.mem) : OutLeaves P (execVeCommandStart core s) := by
  unfold execVeCommandStart
  dsimp only
  (repeat' split) <;> simp [h]

theorem leaves_execVeCommandEnd {core : Nat} {s : State} (h : P s.mem) : OutLeaves P (execVeCommandEnd core s) := by
  simp only [execVeCommandEnd]
  (repeat' split) <;> simp [h]

theorem leaves_execVeFault {core : Nat} {s : State} (h : P s.mem) : OutLeaves P (execVeFault core s) := by
  simp only [execVeFault]
  (repeat' split) <;> simp [h]

/-! ### Light -/

theorem leaves_execOmuProbe {cluster : Nat} {s : State} (h : P s.mem) : OutLeaves P (execOmuProbe cluster s) := by
  unfold execOmuProbe
  split <;> simp [h]

theorem leaves_execPacerUpdate {cluster : Nat} {tmax : Nat} {beyond : Bool} {s : State} (h : P s.mem) : OutLeaves P
    (execPacerUpdate cluster tmax beyond s) := by
  unfold execPacerUpdate
  split <;> simp [h]

/-! ### Omu -/

theorem leaves_execGroupWatchdog {cluster n : Nat} {s : State} (h : P s.mem) : OutLeaves P (execGroupWatchdog cluster n s) := by
  unfold execGroupWatchdog
  split
  · rw [outLeaves_next, mem_foldl (mem_watchdogFire n)]; exact h
  · exact h

theorem leaves_execMown {a : GReg} {t : Bool} {s : State} (h : P s.mem) : OutLeaves P (execMown a t s) := by
  refine leaves_withOps h fun u vs hu => ?_
  simp [hu]

theorem leaves_execMset {a : GReg} {t : Bool} {k : BitVec 4} {s : State} (h : P s.mem) : OutLeaves P (execMset a t k s) := by
  refine leaves_owned h (leaves_withOps h fun u vs hu => ?_)
  extract_lets v put
  split
  · exact hu
  · split
    · split
      · exact hu
      · trivial
    · exact hu

theorem leaves_execMphld {a b : GReg} {t n : Bool} {s : State} (h : P s.mem) : OutLeaves P (execMphld a b t n s) := by
  refine leaves_owned h (leaves_withOps h fun u vs hu => ?_)
  split
  · trivial
  · exact leaves_mxEnqueue _ _ _ _ _ _ _ _ hu (mem_tookA t a)

theorem leaves_execMswap {b : GReg} {s : State} (h : P s.mem) : OutLeaves P (execMswap b s) := by
  refine leaves_owned h (leaves_withOps h fun u vs hu => ?_)
  split
  · trivial
  · exact leaves_mxEnqueue _ _ _ _ _ _ _ _ hu fun _ => rfl

theorem leaves_execMprobe {b : GReg} {s : State} (h : P s.mem) : OutLeaves P (execMprobe b s) := by
  refine leaves_owned h (leaves_withOps h fun u vs hu => ?_)
  split
  · trivial
  · exact leaves_mxEnqueue _ _ _ _ _ _ _ _ hu fun _ => rfl

theorem leaves_execMpass {a b : GReg} {t : Bool} {s : State} (h : P s.mem) : OutLeaves P (execMpass a b t s) := by
  refine leaves_owned h (leaves_withOps h fun u vs hu => ?_)
  extract_lets w cl e
  split
  · trivial
  · split
    · trivial
    · split
      · trivial
      · split
        · trivial
        · split
          · exact hu
          · exact leaves_mxEnqueue _ _ _ _ _ _ _ _ hu fun _ => by simp

theorem leaves_execMdrain {a b : GReg} {t : Bool} {s : State} (h : P s.mem) : OutLeaves P (execMdrain a b t s) := by
  refine leaves_owned h (leaves_withOps h fun u vs hu => ?_)
  extract_lets w c e m
  generalize (if wFmt w = 0x8 then 4 else 2) = width
  split
  · trivial
  · split
    · trivial
    · split
      · trivial
      · split
        · trivial
        · split
          · exact hu
          · split
            · trivial
            · exact leaves_mxEnqueue _ _ _ _ _ _ _ _ hu (mem_tookA t a)

theorem leaves_execMclr {a b : GReg} {t : Bool} {s : State} (h : P s.mem) : OutLeaves P (execMclr a b t s) := by
  refine leaves_owned h (leaves_withOps h fun u vs hu => ?_)
  extract_lets w
  split
  · trivial
  · split
    · trivial
    · split
      · exact hu
      · exact leaves_mxEnqueue _ _ _ _ _ _ _ _ hu (mem_tookA t a)

theorem leaves_execMcal {a b : GReg} {t : Bool} {s : State} (h : P s.mem) : OutLeaves P (execMcal a b t s) := by
  refine leaves_withOps h fun u vs hu => ?_
  dsimp only
  (repeat' split) <;> simp [hu]

theorem leaves_execPhrd {d a : GReg} {t : Bool} {s : State} (h : P s.mem) : OutLeaves P (execPhrd d a t s) := by
  refine leaves_owned h (leaves_withOps h fun u vs hu => ?_)
  extract_lets v r
  split
  · trivial
  · split <;> exact hu

theorem leaves_execPhwr {a b : GReg} {t : Bool} {s : State} (h : P s.mem) : OutLeaves P (execPhwr a b t s) := by
  refine leaves_owned h (leaves_withOps h fun u vs hu => ?_)
  extract_lets v cl n
  split
  · trivial
  · split
    · exact hu
    · split
      · trivial
      · exact hu

theorem leaves_execMacrd {d a : GReg} {t : Bool} {s : State} (h : P s.mem) : OutLeaves P (execMacrd d a t s) := by
  refine leaves_owned h (leaves_withOps h fun u vs hu => ?_)
  extract_lets v c
  split
  · trivial
  · split <;> exact hu

theorem leaves_execOmuPassStart {cluster : Nat} {feed : PassFeed} {s : State} (h : P s.mem) : OutLeaves P (execOmuPassStart cluster feed s) := by
  unfold execOmuPassStart
  dsimp only
  (repeat' split) <;> simp [h]

theorem leaves_execOmuPassEnd {cluster : Nat} {s : State} (h : P s.mem) : OutLeaves P (execOmuPassEnd cluster s) := by
  unfold execOmuPassEnd
  dsimp only
  (repeat' split) <;> simp [h]

theorem leaves_execOmuPhldRun {cluster : Nat} {s : State} (h : P s.mem) : OutLeaves P (execOmuPhldRun cluster s) := by
  unfold execOmuPhldRun
  dsimp only
  (repeat' split) <;> simp [h]

theorem leaves_execOmuSwapRun {cluster : Nat} {s : State} (h : P s.mem) : OutLeaves P (execOmuSwapRun cluster s) := by
  unfold execOmuSwapRun
  dsimp only
  (repeat' split) <;> simp [h]

theorem leaves_execOmuSettleSweep {cluster : Nat} {s : State} (h : P s.mem) : OutLeaves P (execOmuSettleSweep cluster s) := by
  unfold execOmuSettleSweep
  dsimp only
  (repeat' split) <;> simp [h]

theorem leaves_execOmuDrainRun {cluster : Nat} {s : State} (h : P s.mem) : OutLeaves P (execOmuDrainRun cluster s) := by
  unfold execOmuDrainRun
  dsimp only
  (repeat' split) <;> simp [h]

theorem leaves_execOmuClearRun {cluster : Nat} {s : State} (h : P s.mem) : OutLeaves P (execOmuClearRun cluster s) := by
  unfold execOmuClearRun
  dsimp only
  (repeat' split) <;> simp [h]

theorem leaves_execOmuCalRun {cluster : Nat} {s : State} (h : P s.mem) : OutLeaves P (execOmuCalRun cluster s) := by
  unfold execOmuCalRun
  dsimp only
  (repeat' split) <;> simp [h]

theorem leaves_execOmuCalEnd {cluster : Nat} {s : State} (h : P s.mem) : OutLeaves P (execOmuCalEnd cluster s) := by
  unfold execOmuCalEnd
  dsimp only
  (repeat' split) <;> simp [h]

theorem leaves_execOmuThermalStop {cluster temp : Nat} {s : State} (h : P s.mem) :
    OutLeaves P (execOmuThermalStop cluster temp s) := by
  unfold execOmuThermalStop
  split
  · exact h
  · extract_lets s1 x s2 s3
    split
    · have h3 : s3.mem = s.mem := mem_raiseOwners _ _ _ _
      rw [outLeaves_next, mem_foldl, h3]
      · exact h
      · intro s c
        split <;> simp
    · exact h

theorem leaves_execOmuThermalResume {cluster : Nat} {temp : Nat} {s : State} (h : P s.mem) : OutLeaves P (execOmuThermalResume cluster temp s) := by
  unfold execOmuThermalResume
  split <;> simp [h]

/-! ### Dce -/

theorem leaves_execMdecomp {a b : GReg} {t : Bool} {s : State} (h : P s.mem) : OutLeaves P (execMdecomp a b t s) := by
  refine leaves_withOps h fun u vs hu => leaves_withAnswers _ _ hu fun ws => leaves_ptrBytes hu (fun v _ bs hv => ?_) _ _ _ _ _
  extract_lets ds iss cl w
  split
  · trivial
  · split
    · trivial
    · split <;> exact hv

theorem leaves_execDceDecompose {cluster : Nat} {s : State} (h : P s.mem) : OutLeaves P (execDceDecompose cluster s) := by
  unfold execDceDecompose
  split <;> simp [h]

theorem leaves_execDceEnd {cluster : Nat} {s : State} (h : P s.mem) : OutLeaves P (execDceEnd cluster s) := by
  unfold execDceEnd
  split <;> simp [h]

/-! ### EngNet -/

theorem leaves_execEngineReadReply {i : Nat} {s : State} (h : P s.mem) : OutLeaves P (execEngineReadReply i s) := by
  simp only [execEngineReadReply]
  (repeat' split) <;> simp [h]

/-! ### Traps -/

theorem leaves_execSys {a : GReg} {_t : Bool} {s : State} (h : P s.mem) : OutLeaves P (execSys a _t s) := by
  refine leaves_withOps h fun u vs hu => ?_
  simp

theorem leaves_execBrk {s : State} (h : P s.mem) : OutLeaves P (execBrk s) := by
  unfold execBrk
  rw [outLeaves_next]
  split
  · exact h
  · rw [mem_finish]; exact h

theorem leaves_execEret {s : State} (h : P s.mem) : OutLeaves P (execEret s) := by
  exact h

theorem leaves_execHalt {s : State} (h : P s.mem) : OutLeaves P (execHalt s) := by
  refine leaves_finish h ?_ _
  simp [h]

theorem leaves_execSlotTurn {k : Nat} {par : Option Nat} {s : State} (h : P s.mem) : OutLeaves P (execSlotTurn k par s) := by
  simp [execSlotTurn, h]

theorem leaves_execTimebaseDeadline {k : Nat} {s : State} (h : P s.mem) : OutLeaves P (execTimebaseDeadline k s) := by
  unfold execTimebaseDeadline
  split <;> simp [h]

theorem leaves_execDbghalt {d a b : GReg} {t : Bool} {s : State} (h : P s.mem) : OutLeaves P (execDbghalt d a b t s) := by
  simp [execDbghalt, h]

theorem leaves_execDbgresume {d a b : GReg} {t : Bool} {s : State} (h : P s.mem) : OutLeaves P (execDbgresume d a b t s) := by
  simp [execDbgresume, h]

/-! ### Snap -/

theorem leaves_execSnap {d a : GReg} {t : Bool} {s : State} (h : P s.mem) : OutLeaves P (execSnap d a t s) := by
  simp [execSnap, h]

theorem leaves_execAccept {d a : GReg} {t : Bool} {s : State} (h : P s.mem) : OutLeaves P (execAccept d a t s) := by
  simp [execAccept, h]

theorem leaves_execReject {d a : GReg} {t : Bool} {s : State} (h : P s.mem) : OutLeaves P (execReject d a t s) := by
  simp [execReject, h]

theorem leaves_execSnapRecord {i : Nat} {s : State} (h : P s.mem) : OutLeaves P (execSnapRecord i s) := by
  unfold execSnapRecord
  split
  · exact h
  · split
    · extract_lets s0 w s1 s2 s3
      have h0 : s0.mem = s.mem := rfl
      have h1 : s1.mem = s.mem := (mem_recordOp _ _ _ _).trans h0
      have h2 : s2.mem = s.mem := h1
      have h3 : s3.mem = s.mem := by
        refine (mem_foldl ?_ _ s2).trans h2
        exact fun _ _ => sendMsg_mem _ _
      split
      · exact h
      · split
        · simpa [h0] using h
        · split
          · simpa [h0] using h
          · split
            · simpa [h0] using h
            · simpa [h3] using h
    · exact h

theorem leaves_execSnapq {d a : GReg} {t : Bool} {s : State} (h : P s.mem) : OutLeaves P (execSnapq d a t s) := by
  refine leaves_withOps h fun u vs hu => ?_
  simp [hu]

theorem leaves_execSnapqQuery {i : Nat} {s : State} (h : P s.mem) : OutLeaves P (execSnapqQuery i s) := by
  unfold execSnapqQuery
  dsimp only
  (repeat' split) <;> simp [h]

theorem leaves_execScwb {d a b : GReg} {t : Bool} {s : State} (h : P s.mem) : OutLeaves P (execScwb d a b t s) := by
  simp [execScwb, h]

theorem leaves_execScinv {d a b : GReg} {t : Bool} {s : State} (h : P s.mem) : OutLeaves P (execScinv d a b t s) := by
  simp [execScinv, h]

theorem leaves_execScdom {d a b : GReg} {t : Bool} {s : State} (h : P s.mem) : OutLeaves P (execScdom d a b t s) := by
  refine leaves_withOps h fun u vs hu => ?_
  simp [hu]

theorem leaves_execScdomUpdate {i : Nat} {s : State} (h : P s.mem) : OutLeaves P (execScdomUpdate i s) := by
  unfold execScdomUpdate
  dsimp only
  (repeat' split) <;> simp [h]

/-! ### Quarters -/

theorem leaves_execLmpwr {d a b : GReg} {t : Bool} {s : State} (h : P s.mem) : OutLeaves P (execLmpwr d a b t s) := by
  refine leaves_withOps h fun u vs hu => ?_
  (repeat' split) <;> simp [hu]

/-! ### Links -/

theorem leaves_execLinkDown {port : Nat} {reason : Nat} {s : State} (h : P s.mem) : OutLeaves P (execLinkDown port reason s) := by
  simp [execLinkDown, h]

theorem leaves_execLinkTrainingDone {port : Nat} {ok : Bool} {peer : Nat} {s : State} (h : P s.mem) : OutLeaves P
    (execLinkTrainingDone port ok peer s) := by
  simp [execLinkTrainingDone, h]

theorem leaves_execLinkChg {port : Nat} {level : Nat} {lane : Nat} {at_ : Nat} {s : State} (h : P s.mem) : OutLeaves P
    (execLinkChg port level lane at_ s) := by
  unfold execLinkChg
  dsimp only
  (repeat' split) <;> simp [h]

theorem leaves_execLinkCack {port : Nat} {at_ : Nat} {s : State} (h : P s.mem) : OutLeaves P (execLinkCack port at_ s) := by
  unfold execLinkCack
  dsimp only
  (repeat' split) <;> simp [h]

theorem leaves_execLinkChgTimeout {port : Nat} {s : State} (h : P s.mem) : OutLeaves P (execLinkChgTimeout port s) := by
  unfold execLinkChgTimeout
  dsimp only
  (repeat' split) <;> simp [h]

theorem leaves_execLaneLossOfLock {port : Nat} {lane : Nat} {s : State} (h : P s.mem) : OutLeaves P (execLaneLossOfLock port lane s) := by
  simp [execLaneLossOfLock, h]

theorem leaves_execLinkBerWindow {port corrected0 corrected1 failing : Nat} {errs : List Nat} {s : State} (h : P s.mem) :
    OutLeaves P (execLinkBerWindow port corrected0 corrected1 failing errs s) := by
  unfold execLinkBerWindow
  extract_lets s0 x cfg w low s1 s2 s3
  have h0 : s0.mem = s.mem := by simp [s0]
  have h1 : s1.mem = s.mem := h0
  have h2 : s2.mem = s.mem := by simp [s2, h1]
  have h3 : s3.mem = s.mem := by
    simp only [s3]
    split <;> simp [h2]
  split
  · rw [outLeaves_next, h0]; exact h
  · rw [outLeaves_next, mem_foldl (fun _ _ => mem_laneFails _ _ _ _), h3]; exact h

theorem leaves_execLinkNak {port : Nat} {seq : Nat} {s : State} (h : P s.mem) : OutLeaves P (execLinkNak port seq s) := by
  simp [execLinkNak, h]

theorem leaves_execLinkFrameReceive {port : Nat} {hdr op : Word} {bad : List Nat} {msgs : List LinkMsg} {s : State}
    (h : P s.mem) : OutLeaves P (execLinkFrameReceive port hdr op bad msgs s) := by
  unfold execLinkFrameReceive
  extract_lets x u
  split
  · exact h
  · split
    · rw [outLeaves_next, mem_sendCtl]; exact h
    · have hu : P u.mem := (mem_linkAck s port (hdrAck hdr)).symm ▸ h
      split
      · split
        · exact hu
        · rw [outLeaves_next, mem_foldl (mem_linkArrive port), mem_crossFrame]; exact hu
      · split
        · exact leaves_execLinkChg hu
        · exact hu
      · split
        · exact leaves_execLinkCack hu
        · exact hu
      · split
        · exact leaves_execLinkNak hu
        · exact hu
      · exact hu

theorem leaves_execLnkq {d a : GReg} {t : Bool} {s : State} (h : P s.mem) : OutLeaves P (execLnkq d a t s) := by
  simp [execLnkq, h]

theorem leaves_execLnkfec {d a b : GReg} {t : Bool} {s : State} (h : P s.mem) : OutLeaves P (execLnkfec d a b t s) := by
  simp [execLnkfec, h]

theorem leaves_execLnkclaim {d a b : GReg} {t : Bool} {s : State} (h : P s.mem) : OutLeaves P (execLnkclaim d a b t s) := by
  simp [execLnkclaim, h]

/-! ### Reliability -/

theorem leaves_execVbset {d a b : GReg} {t : Bool} {s : State} (h : P s.mem) : OutLeaves P (execVbset d a b t s) := by
  simp [execVbset, h]

theorem leaves_execVbtest {d a b : GReg} {t : Bool} {s : State} (h : P s.mem) : OutLeaves P (execVbtest d a b t s) := by
  simp [execVbtest, h]

theorem leaves_execRowRepair {s : State} (h : P s.mem) : OutLeaves P (execRowRepair s) := by
  simp [execRowRepair, h]

theorem leaves_execRowRepairDone {result : Nat} {s : State} (h : P s.mem) : OutLeaves P (execRowRepairDone result s) := by
  unfold execRowRepairDone
  split
  · exact h
  · split
    · exact h
    · split
      · rw [outLeaves_next, modModul_mem, mem_repairEnds, mem_repairRow]; exact h
      · rw [outLeaves_next]
        split
        · rw [mem_advise, mem_repairEnds]; exact h
        · rw [mem_repairEnds]; exact h

theorem leaves_execScrubPatrol {pa err : Nat} {s : State} (h : P s.mem) : OutLeaves P (execScrubPatrol pa err s) := by
  simp [execScrubPatrol, h]

theorem leaves_execCoreRetireWrite {v : Word} {s : State} (h : P s.mem) : OutLeaves P (execCoreRetireWrite v s) := by
  simp [execCoreRetireWrite, h]

theorem leaves_execOmuSiteRetire {n : Nat} {v : Word} {s : State} (h : P s.mem) : OutLeaves P (execOmuSiteRetire n v s) := by
  simp [execOmuSiteRetire, h]

theorem leaves_execCombSourceFailure {standby : Bool} {s : State} (h : P s.mem) : OutLeaves P (execCombSourceFailure standby s) := by
  simp [execCombSourceFailure, h]

/-! ### Holdup -/

theorem leaves_execMsdel {d a : GReg} {t : Bool} {s : State} (h : P s.mem) : OutLeaves P (execMsdel d a t s) := by
  simp [execMsdel, h]

theorem leaves_execMsqry {d a : GReg} {t : Bool} {s : State} (h : P s.mem) : OutLeaves P (execMsqry d a t s) := by
  simp [execMsqry, h]

theorem leaves_execHustat {d a b : GReg} {t : Bool} {s : State} (h : P s.mem) : OutLeaves P (execHustat d a b t s) := by
  simp [execHustat, h]

theorem leaves_execHuTableClear {s : State} (h : P s.mem) : OutLeaves P (execHuTableClear s) := by
  simp [execHuTableClear, h]

theorem leaves_execHoldupStart {s : State} (h : P s.mem) : OutLeaves P (execHoldupStart s) := by
  unfold execHoldupStart
  split
  · exact h
  · extract_lets s1 s2
    have h2 : s2.mem = s.mem := by
      refine (mem_foldl ?_ _ s1).trans rfl
      exact fun _ _ => rfl
    rw [outLeaves_next, mem_shedLinks, mem_shedLight, h2]
    exact h

theorem leaves_execHoldupStop {s : State} (h : P s.mem) : OutLeaves P (execHoldupStop s) := by
  unfold execHoldupStop
  split
  · exact h
  · extract_lets s1 s2 s3 s4
    have h2 : s2.mem = s.mem := by
      refine (mem_foldl ?_ _ s1).trans rfl
      exact fun _ _ => rfl
    have h3 : s3.mem = s.mem := by
      refine (mem_foldl ?_ _ s2).trans h2
      exact fun _ _ => rfl
    have h4 : s4.mem = s.mem := by
      refine (mem_foldl ?_ _ s3).trans h3
      exact fun _ _ => rfl
    have h5 (l : List Nat) : (l.foldl (fun s t => modTower s t fun x => { x with cle := [] }) s4).mem = s.mem := by
      refine (mem_foldl ?_ _ s4).trans h4
      exact fun _ _ => rfl
    rw [outLeaves_next, h5]
    exact h

theorem leaves_execHoldupCommit {s : State} (h : P s.mem) : OutLeaves P (execHoldupCommit s) := by
  simp [execHoldupCommit, h]

theorem leaves_execHoldupReserveMeasure {resj : Nat} {s : State} (h : P s.mem) : OutLeaves P (execHoldupReserveMeasure resj s) := by
  simp [execHoldupReserveMeasure, h]

/-! ### GangSwitch -/

theorem leaves_execGangSwitchBegin {core : Nat} {s : State} (h : P s.mem) : OutLeaves P (execGangSwitchBegin core s) := by
  unfold execGangSwitchBegin
  split
  · exact h
  · extract_lets mask s1
    rw [outLeaves_next, mem_foldl]
    · exact h
    · intro s k
      simp

theorem leaves_execGswArm {core : Nat} {v : Word} {s : State} (h : P s.mem) : OutLeaves P (execGswArm core v s) := by
  simp [execGswArm, h]

/-! ### CtlRegs -/

theorem leaves_execCget {d : GReg} {n : BitVec 14} {s : State} (h : P s.mem) : OutLeaves P (execCget d n s) := by
  refine leaves_withOps h fun u vs hu => ?_
  simp [hu]

/-! ### Host -/

theorem leaves_execHostWindowAccess {i : Nat} {accept : Bool} {data : List Byte} {s : State} (h : P s.mem) : OutLeaves P
    (execHostWindowAccess i accept data s) := by
  unfold execHostWindowAccess
  dsimp only
  (repeat' split) <;> simp [h]

theorem leaves_execAttestationQuote {s : State} (h : P s.mem) : OutLeaves P (execAttestationQuote s) := by
  simp [execAttestationQuote, h]

theorem leaves_execQuoteWritten {s : State} (h : P s.mem) : OutLeaves P (execQuoteWritten s) := by
  unfold execQuoteWritten
  dsimp only
  (repeat' split) <;> simp [h]

/-! ### Scalar -/

theorem leaves_execTchk {a b : GReg} {t : Bool} {s : State} (h : P s.mem) : OutLeaves P (execTchk a b t s) := by
  refine leaves_withOps h fun u vs hu => ?_
  simp [hu]

end Sys2Proof.Machine
end

section
/-! Writes at their homes leave memory canonical: an LM, a CSP, a tier line with what its SC does. -/

namespace Sys2Proof.Machine

/-! LM and CSP words. -/

theorem canonical_of_syncPerform {s t : State} {core off : Nat} {f : SyncForm} {d : Word} {x : Agent × Nat} {r : Reply} (h : Canonical s.mem)
    (ht : syncPerform s core off f d x = some (t, r)) : Canonical t.mem := by
  unfold syncPerform at ht
  extract_lets a full rd put at ht
  have hput (s : State) (hs : Canonical s.mem) : Canonical (put s).mem := by simp [put, hs]
  cases f with
  | ldfe => simp only [Option.ite_none_right_eq_some, Option.some.injEq, Prod.mk.injEq] at ht; obtain ⟨-, rfl, -⟩ := ht; simpa using h
  | ldff => simp only [Option.ite_none_right_eq_some, Option.some.injEq, Prod.mk.injEq] at ht; obtain ⟨-, rfl, -⟩ := ht; exact h
  | fget => cases ht; exact h
  | stef => simp only [Option.ite_none_left_eq_some, Option.some.injEq, Prod.mk.injEq] at ht; obtain ⟨-, rfl, -⟩ := ht; exact hput s h
  | stff => cases ht; exact hput s h
  | fset => cases ht; simpa using h
  | fclr => cases ht; simpa using h
  | lvlwait => cases ht
  | phwait => cases ht

theorem canonical_serviceWord (n : Nat) {s : State} (h : Canonical s.mem) (core off : Nat) : Canonical (serviceWord n s core off).mem := by
  induction n generalizing s with
  | zero => exact h
  | succ n ih =>
    unfold serviceWord
    extract_lets c
    split
    · exact h
    · split
      · exact h
      · split
        · exact h
        · split
          · exact h
          · next hs =>
            have h1 := canonical_of_syncPerform (by exact h) hs
            extract_lets reply s2
            refine ih ?_
            simp only [s2]
            split <;> simpa using h1

@[simp] theorem canonical_service {s : State} (h : Canonical s.mem) (core off : Nat) : Canonical (service s core off).mem :=
  canonical_serviceWord _ h _ _

theorem leaves_lmWrite {s : State} (h : Canonical s.mem) (core off : Nat) (bs : List Byte) : (lmWrite s core off bs).Leaves Canonical := by
  unfold lmWrite
  split <;> simp [h]

theorem leaves_cspWrite {s : State} (h : Canonical s.mem) (cl off : Nat) (bs : List Byte) : (cspWrite s cl off bs).Leaves Canonical := by
  unfold cspWrite
  split <;> simp [h]

/-! Lines of the tier. -/

@[simp] theorem canonical_storeLine {s : State} (h : Canonical s.mem) (line : Nat) (bs : List Byte) (pois : Nat) (c : Bool) :
    Canonical (storeLine s line bs pois c).mem := by
  unfold storeLine
  extract_lets s1 p s2
  have h1 : Canonical s1.mem := by simp [s1, h]
  have h2 : Canonical s2.mem := by simp [s2, h1]
  split
  · exact h1
  · split
    · exact h1
    · split
      · exact h2
      · exact h2

@[simp] theorem canonical_writeBack {s : State} (h : Canonical s.mem) (line : Nat) : Canonical (writeBack s line).mem := by
  unfold writeBack
  dsimp only
  split
  · exact h
  · split
    · simp [h]
    · exact h

@[simp] theorem canonical_evictLine {s : State} (h : Canonical s.mem) (line : Nat) : Canonical (evictLine s line).mem := by
  simp [evictLine, h]

@[simp] theorem canonical_putSlot {s : State} (h : Canonical s.mem) (t : Nat) (x : Shadow) (bs : List Byte) : Canonical (putSlot s t x bs).mem := by
  simp [putSlot, h]

@[simp] theorem canonical_spillShadow {s : State} (h : Canonical s.mem) (t : Nat) (x : Shadow) : Canonical (spillShadow s t x).mem := by
  unfold spillShadow
  split <;> simp [h]

@[simp] theorem canonical_spillShadows {s : State} (h : Canonical s.mem) (line : Nat) : Canonical (spillShadows s line).mem :=
  canonical_foldl (fun _ _ hs => canonical_spillShadow hs _ _) _ h

@[simp] theorem canonical_roomFor {s : State} (h : Canonical s.mem) (t line : Nat) (entry tag : Bool) :
    Canonical (roomFor s t line entry tag).mem := by
  unfold roomFor
  extract_lets s1
  have h1 : Canonical s1.mem := canonical_foldl (fun _ _ hs => by split <;> simp [hs]) _ h
  exact canonical_foldl (fun _ _ hs => by split <;> simp [hs]) _ h1

@[simp] theorem canonical_relabel {s : State} (h : Canonical s.mem) (t : Nat) (x : Shadow) (l : Nat) : Canonical (relabel s t x l).mem := by
  unfold relabel
  dsimp only
  split <;> simp [h]

@[simp] theorem canonical_acceptLine {s : State} (h : Canonical s.mem) (t line n l : Nat) : Canonical (acceptLine s t line n l).mem := by
  unfold acceptLine
  split
  · exact h
  · split <;> simp [h]

@[simp] theorem canonical_rejectLine {s : State} (h : Canonical s.mem) (t line n l : Nat) : Canonical (rejectLine s t line n l).mem := by
  unfold rejectLine
  split
  · exact h
  · next x _ =>
    extract_lets u w
    have hu : Canonical u.mem := by
      simp only [u]
      split <;> simp [h]
    split
    extract_lets
    split <;> exact hu

@[simp] theorem canonical_resolveOne {s : State} (h : Canonical s.mem) (t line : Nat) (o : PendOp) : Canonical (resolveOne s t line o).mem := by
  unfold resolveOne
  split
  · split <;> simp [h]
  · exact h

@[simp] theorem canonical_resolveLine {s : State} (h : Canonical s.mem) (t line : Nat) : Canonical (resolveLine s t line).mem :=
  canonical_foldl (fun _ _ hs => canonical_resolveOne hs _ _ _) _ h

@[simp] theorem canonical_resolveAll {s : State} (h : Canonical s.mem) (t : Nat) : Canonical (resolveAll s t).mem :=
  canonical_foldl (fun _ _ hs => canonical_resolveLine hs _ _) _ h

@[simp] theorem canonical_clearRange {s : State} (h : Canonical s.mem) (t n : Nat) : Canonical (clearRange s t n).mem := by
  simp [clearRange, h]

@[simp] theorem canonical_makeRoom {s : State} (h : Canonical s.mem) (line : Nat) : Canonical (makeRoom s line).mem := by
  unfold makeRoom
  split <;> simp [h]

@[simp] theorem canonical_touchLine {s : State} (h : Canonical s.mem) (line : Nat) (acc : Acc) : Canonical (touchLine s line acc).mem := by
  simp [touchLine, h]

theorem leaves_scReadAt {s : State} (h : Canonical s.mem) (pa n : Nat) (acc : Acc) : (scReadAt s pa n acc).Leaves Canonical := by
  unfold scReadAt
  split
  · exact h
  · split
    · exact h
    · extract_lets line u w
      have hu : Canonical u.mem := canonical_touchLine h _ _
      split
      · exact hu
      · split <;> exact hu

@[simp] theorem canonical_putAt {s : State} (h : Canonical s.mem) (t line off : Nat) (bs : List Byte) (acc : Acc) :
    Canonical (putAt s t line off bs acc).mem := by
  unfold putAt
  extract_lets share
  rw [modTower_mem]
  split <;> simp [h]

theorem leaves_scWriteAt {s : State} (h : Canonical s.mem) (pa : Nat) (bs : List Byte) (acc : Acc) : (scWriteAt s pa bs acc).Leaves Canonical := by
  unfold scWriteAt
  split
  · exact h
  · split
    · exact h
    · extract_lets line t u w
      have hu : Canonical u.mem := canonical_touchLine h _ _
      split
      · exact hu
      · extract_lets room
        split
        · exact hu
        · split
          · exact hu
          · split
            · split
              · exact hu
              · have hroom : Canonical room.mem := canonical_roomFor hu _ _ _ _
                rw [HRes.leaves_ok]
                refine canonical_putAt ?_ _ _ _ _ _
                rw [modTower_mem]
                exact hroom
            · simp [hu]

@[simp] theorem canonical_copyLine {s : State} (h : Canonical s.mem) (m : Migr) (line : Nat) : Canonical (copyLine s m line).mem := by
  unfold copyLine
  extract_lets u c dst
  have hr := leaves_scWriteAt (canonical_touchLine h line Acc.direct) (64 * dst) c.1 { Acc.direct with c := m.c }
  split
  · next hv => exact (hv ▸ hr : HRes.Leaves Canonical (.ok _ _))
  · next hv => exact (hv ▸ hr : HRes.Leaves Canonical (.poison _ _ _))
  · next hv => exact (hv ▸ hr : HRes.Leaves Canonical (.deny _ _))
  · next hv => exact (hv ▸ hr : HRes.Leaves Canonical (.wait _))

theorem canonical_mirrored (n : Nat) {s : State} (h : Canonical s.mem) (line : Nat) : Canonical (mirrored n s line).mem := by
  induction n generalizing s line with
  | zero => exact h
  | succ n ih => exact canonical_foldl (fun _ m hs => ih (canonical_copyLine hs m line) _) _ h

@[simp] theorem canonical_mirror {s : State} (h : Canonical s.mem) (line : Nat) : Canonical (mirror s line).mem := canonical_mirrored _ h _

theorem leaves_scRead {s : State} (h : Canonical s.mem) (pa n : Nat) (acc : Acc) : (scRead s pa n acc).Leaves Canonical := leaves_scReadAt h _ _ _

theorem leaves_scWrite {s : State} (h : Canonical s.mem) (pa : Nat) (bs : List Byte) (acc : Acc) : (scWrite s pa bs acc).Leaves Canonical := by
  unfold scWrite
  have hr := leaves_scWriteAt h (scFinal s pa) bs acc
  generalize scWriteAt s (scFinal s pa) bs acc = r at hr
  cases r with
  | ok t v => rw [HRes.leaves_ok] at hr; simp [hr]
  | poison t c a => exact hr
  | deny t d => exact hr
  | wait t => exact hr

/-! Any home of the package. -/

theorem leaves_homeReadRaw {s : State} (h : Canonical s.mem) (pa n : Nat) (acc : Acc) : (homeReadRaw s pa n acc).Leaves Canonical := by
  unfold homeReadRaw
  split
  · exact leaves_scRead h _ _ _
  · split
    · next c o _ _ =>
      have hr := leaves_lmRead s c o n h
      split
      · next hv => exact (hv ▸ hr : HRes.Leaves Canonical (.poison _ _ _))
      · exact hr
    · exact h
    · exact h
    · exact h
  · next cl off _ =>
    have hr := leaves_cspRead s cl off n h
    split
    · next hv => exact (hv ▸ hr : HRes.Leaves Canonical (.poison _ _ _))
    · exact hr
  all_goals exact h

theorem leaves_homeRead {s : State} (h : Canonical s.mem) (pa n : Nat) (acc : Acc) : (homeRead s pa n acc).Leaves Canonical := by
  unfold homeRead
  have hr := leaves_homeReadRaw h pa n acc
  split
  · next hv => exact (hv ▸ hr : HRes.Leaves Canonical (.poison _ _ _))
  · exact hr

theorem leaves_homeWrite {s : State} (h : Canonical s.mem) (pa : Nat) (bs : List Byte) (acc : Acc) (ack : Option Msg) :
    (homeWrite s pa bs acc ack).Leaves Canonical := by
  unfold homeWrite
  extract_lets send
  have hsend (s : State) : (send s).mem = s.mem := by
    simp only [send]
    split <;> rfl
  split
  · next a _ =>
    have hr := leaves_scWrite h a bs acc
    split
    · next hv => rw [HRes.leaves_ok, hsend]; exact (hv ▸ hr : HRes.Leaves Canonical (.ok _ _))
    · exact hr
  · split
    · next c o _ _ =>
      have hr := leaves_lmWrite h c o bs
      split
      · next hv => rw [HRes.leaves_ok, mem_dirWrite]; exact (hv ▸ hr : HRes.Leaves Canonical (.ok _ _))
      · exact hr
    · exact h
    · exact h
    · exact h
  · next cl off _ =>
    have hr := leaves_cspWrite h cl off bs
    split
    · next hv => rw [HRes.leaves_ok, hsend]; exact (hv ▸ hr : HRes.Leaves Canonical (.ok _ _))
    · exact hr
  all_goals exact h

theorem leaves_homeRmw {s : State} (h : Canonical s.mem) (op : AmoOp) (pa n : Nat) (b cmp : Word) (acc : Acc) (mk : Reply → Option Msg) :
    (homeRmw s op pa n b cmp acc mk).Leaves Canonical := by
  unfold homeRmw
  have hr := leaves_homeRead h pa n acc
  split
  · next s1 bytes hv =>
    have h1 : Canonical s1.mem := (hv ▸ hr : HRes.Leaves Canonical (.ok _ _))
    split
    · split <;> exact h1
    · next v _ =>
      have hw := leaves_homeWrite h1 pa (wordLE n v) acc (mk (.value bytes))
      split
      · next hv => exact (hv ▸ hw : HRes.Leaves Canonical (.ok _ _))
      · exact h1
      · exact h1
      · exact h1
  · exact hr

end Sys2Proof.Machine
end

section
/-! What a core does at its own LM leaves memory canonical: ring descriptors, stores, full/empty forms, atomics, segments and bit streams. -/

namespace Sys2Proof.Machine

@[simp] theorem canonical_unbindRing {s : State} (h : Canonical s.mem) (core : Nat) (r : Ring) : Canonical (unbindRing s core r).mem := by
  simp [unbindRing, h]

theorem leaves_execQbind {q : BitVec 3} {b : GReg} {s : State} (h : Canonical s.mem) : OutLeaves Canonical (execQbind q b s) := by
  refine leaves_withOps h fun u vs hu => ?_
  extract_lets p core r unbound
  have hunbound : unbound.Leaves Canonical := by simp [unbound, hu]
  split
  · split
    · split
      · split
        · trivial
        · exact hunbound
      · exact hunbound
    · exact hu
  · split
    · trivial
    · refine leaves_onAddr hu (leaves_segAddr _ _ _ _ _ _ hu) _ fun la pa _ => ?_
      split
      · trivial
      · trivial
      · trivial
      · split
        · extract_lets d1 d2 nr
          split
          · trivial
          · simp [hu]
        · trivial
        · trivial
        · exact hu

theorem leaves_storeAt {s : State} (h : Canonical s.mem) (a : GReg) (t : Bool) (bs : List Byte) (la pa : Nat) (acc : Acc) :
    (storeAt s a t bs la pa acc).Leaves Canonical := by
  unfold storeAt
  extract_lets core
  split
  · next off _ =>
    have hw := leaves_lmWrite h core off bs
    split
    · next hv =>
      rw [hv, HRes.leaves_ok] at hw
      simpa using hw
    · trivial
    · trivial
    · exact h
  · trivial
  · trivial
  · split
    · trivial
    · split
      · trivial
      · exact leaves_postOut _ _ _ _ _ _ _ h

theorem leaves_store {d a : GReg} {t : Bool} {seg : BitVec 3} {o : BitVec 11} {size : Nat} {s : State} (h : Canonical s.mem) :
    OutLeaves Canonical (store d a t seg o size s) :=
  leaves_withOps h fun _ _ hu => leaves_onAddr hu (leaves_mAddr _ _ _ _ _ _ hu) _ fun _ _ _ => leaves_storeAt hu _ _ _ _ _ _

/-! Full/empty forms. -/

theorem canonical_of_syncOwn {s t : State} {off : Nat} {f : SyncForm} {d : Word} {r : Reply} (h : Canonical s.mem)
    (ht : syncOwn s off f d = some (t, r)) : Canonical t.mem := by
  obtain ⟨⟨u, v⟩, hu, hv⟩ := Option.map_eq_some_iff.mp ht
  have h1 := canonical_of_syncPerform h hu
  cases hv
  refine canonical_service ?_ _ _
  dsimp only
  split
  · simpa using h1
  · exact h1

theorem leaves_syncAt {s : State} (h : Canonical s.mem) (d a : GReg) (t : Bool) (f : SyncForm) (v : Word) (la pa : Nat) (acc : Acc) :
    (syncAt s d a t f v la pa acc).Leaves Canonical := by
  unfold syncAt
  split
  · trivial
  · split
    · split
      · exact h
      · next hs =>
        have h1 := canonical_of_syncOwn h hs
        split
        · exact h1
        · exact leaves_deliverOwn _ _ _ _ _ _ _ _ h1
    · trivial
    · trivial
    · split
      · exact h
      · refine leaves_requestOut _ _ _ _ _ _ _ _ _ _ ?_
        split <;> simpa using h

theorem leaves_syncPost {s : State} (h : Canonical s.mem) (a : GReg) (t : Bool) (f : SyncForm) (v : Word) (la pa : Nat) (acc : Acc) :
    (syncPost s a t f v la pa acc).Leaves Canonical := by
  unfold syncPost
  split
  · trivial
  · split
    · split
      · exact h
      · next hs =>
        rw [Res.leaves_done, modSlot_mem]
        exact canonical_of_syncOwn h hs
    · trivial
    · trivial
    · exact leaves_postOut _ _ _ _ _ _ _ h

section
variable {d a b : GReg} {t : Bool} {seg : BitVec 3} {o : BitVec 11} {s : State} (h : Canonical s.mem)
include h

theorem leaves_execLdfe : OutLeaves Canonical (execLdfe d a t seg o s) := by
  refine leaves_withOps h fun u vs hu => ?_
  split
  · exact hu
  · exact leaves_onAddr hu (leaves_mAddr _ _ _ _ _ _ hu) _ fun _ _ _ => leaves_syncAt hu _ _ _ _ _ _ _ _

theorem leaves_execLdff : OutLeaves Canonical (execLdff d a t seg o s) := by
  refine leaves_withOps h fun u vs hu => ?_
  split
  · exact hu
  · exact leaves_onAddr hu (leaves_mAddr _ _ _ _ _ _ hu) _ fun _ _ _ => leaves_syncAt hu _ _ _ _ _ _ _ _

theorem leaves_execStef : OutLeaves Canonical (execStef d a t seg o s) := by
  refine leaves_withOps h fun u vs hu => ?_
  split
  · exact hu
  · exact leaves_onAddr hu (leaves_mAddr _ _ _ _ _ _ hu) _ fun _ _ _ => leaves_syncAt hu _ _ _ _ _ _ _ _

theorem leaves_execStff : OutLeaves Canonical (execStff d a t seg o s) :=
  leaves_withOps h fun _ _ hu => leaves_onAddr hu (leaves_mAddr _ _ _ _ _ _ hu) _ fun _ _ _ => leaves_syncPost hu _ _ _ _ _ _ _

theorem leaves_execFset : OutLeaves Canonical (execFset a t s) :=
  leaves_withOps h fun _ _ hu => leaves_onAddr hu (leaves_ptrAddr _ _ _ _ _ hu) _ fun _ _ _ => leaves_syncPost hu _ _ _ _ _ _ _

theorem leaves_execFclr : OutLeaves Canonical (execFclr a t s) :=
  leaves_withOps h fun _ _ hu => leaves_onAddr hu (leaves_ptrAddr _ _ _ _ _ hu) _ fun _ _ _ => leaves_syncPost hu _ _ _ _ _ _ _

theorem leaves_execFget : OutLeaves Canonical (execFget d a t s) := by
  refine leaves_withOps h fun u vs hu => ?_
  split
  · exact hu
  · exact leaves_onAddr hu (leaves_ptrAddr _ _ _ _ _ hu) _ fun _ _ _ => leaves_syncAt hu _ _ _ _ _ _ _ _

end

/-! Atomics. -/

theorem leaves_atomicAt {s : State} (h : Canonical s.mem) (op : AmoOp) (d a : GReg) (t : Bool) (n : Nat) (b cmp : Word) (la pa : Nat) (acc : Acc) :
    (atomicAt s op d a t n b cmp la pa acc).Leaves Canonical := by
  unfold atomicAt
  extract_lets core
  split
  · have hr := leaves_homeRmw h op pa n b cmp acc (fun _ => none)
    split
    · next hv => exact leaves_deliverOwn _ _ _ _ _ _ _ _ (hv ▸ hr : HRes.Leaves Canonical (.ok _ _))
    · next hv => exact leaves_deliverOwn _ _ _ _ _ _ _ _ (hv ▸ hr : HRes.Leaves Canonical (.poison _ _ _))
    · trivial
    · exact h
  · trivial
  · trivial
  · split
    · trivial
    · exact leaves_requestOut _ _ _ _ _ _ _ _ _ _ (by simpa using h)

theorem leaves_amo {op : AmoOp} {d a b : GReg} {t : Bool} {n : Nat} {s : State} (h : Canonical s.mem) : OutLeaves Canonical (amo op d a b t n s) := by
  refine leaves_withOps h fun u vs hu => ?_
  split
  · exact hu
  · exact leaves_onAddr hu (leaves_ptrAddr _ _ _ _ _ hu) _ fun _ _ _ => leaves_atomicAt hu _ _ _ _ _ _ _ _ _ _

theorem leaves_execCas {d a b : GReg} {t w : Bool} {s : State} (h : Canonical s.mem) : OutLeaves Canonical (execCas d a b t w s) := by
  refine leaves_withOps h fun u vs hu => ?_
  split
  · exact hu
  · exact leaves_onAddr hu (leaves_ptrAddr _ _ _ _ _ hu) _ fun _ _ _ => leaves_atomicAt hu _ _ _ _ _ _ _ _ _ _

/-! Segments and bit streams. -/

theorem leaves_execSegst {g : BitVec 3} {a : GReg} {t : Bool} {seg : BitVec 3} {o : BitVec 11} {s : State} (h : Canonical s.mem) :
    OutLeaves Canonical (execSegst g a t seg o s) := by
  refine leaves_withOps h fun u vs hu => leaves_onAddr hu (leaves_mAddr _ _ _ _ _ _ hu) _ fun la pa acc => ?_
  split
  · trivial
  · exact leaves_storeAt hu _ _ _ _ _ _

theorem canonical_of_putBits {s t : State} {off pos n v : Nat} (h : Canonical s.mem) (ht : putBits s off pos n v = .ok t) : Canonical t.mem := by
  unfold putBits at ht
  split at ht
  · cases ht; exact h
  · extract_lets core a m whole old at ht
    clear_value old
    cases old with
    | error e => cases ht
    | ok bs => cases ht; simp [dirSpan_mem, h]

theorem leaves_execBsput {a b : GReg} {t : Bool} {s : State} (h : Canonical s.mem) : OutLeaves Canonical (execBsput a b t s) := by
  refine leaves_withOps h fun u vs hu => ?_
  extract_lets n x
  split
  · trivial
  · split
    · trivial
    · split
      · trivial
      · split
        · trivial
        · next hs =>
          rw [Res.leaves_done, modSlot_mem]
          exact canonical_of_putBits hu hs

theorem leaves_execBsalign {d a : GReg} {t : Bool} {s : State} (h : Canonical s.mem) : OutLeaves Canonical (execBsalign d a t s) := by
  refine leaves_withOps h fun u vs hu => ?_
  extract_lets c x p
  split
  · trivial
  · split
    · trivial
    · next hs =>
      rw [Res.leaves_done, modSlot_mem]
      split at hs
      · exact canonical_of_putBits hu hs
      · cases hs; exact hu

end Sys2Proof.Machine
end

section
/-! Level records, launches, active messages and batons leave memory canonical. -/

namespace Sys2Proof.Machine

/-! Level records at their home. -/

@[simp] theorem canonical_recRead {s : State} (h : Canonical s.mem) (t id : Nat) : Canonical (recRead s t id).1.mem := canonical_touchLine h _ _

theorem canonical_of_recRead {s s1 : State} {t id p : Nat} {r : List Word} (h : Canonical s.mem) (hr : recRead s t id = (s1, r, p)) :
    Canonical s1.mem := by
  have h1 := canonical_recRead h t id
  rwa [hr] at h1

@[simp] theorem canonical_recWrite {s : State} (h : Canonical s.mem) (t id : Nat) (ws : List Word) : Canonical (recWrite s t id ws).mem := by
  unfold recWrite
  have hr := leaves_scWrite h (lvlPa s t id) (wordsLE (setD ws 0 (setF (val ws 0) 54 10 0))) Acc.direct
  split
  · next hv => exact (hv ▸ hr : HRes.Leaves Canonical (.ok _ _))
  · next hv => exact (hv ▸ hr : HRes.Leaves Canonical (.poison _ _ _))
  · next hv => exact (hv ▸ hr : HRes.Leaves Canonical (.deny _ _))
  · next hv => exact (hv ▸ hr : HRes.Leaves Canonical (.wait _))

@[simp] theorem canonical_lvlComplete {s : State} (h : Canonical s.mem) (t id : Nat) : Canonical (lvlComplete s t id).mem := by
  unfold lvlComplete
  split
  rename_i s1 r p he
  have hr := canonical_of_recRead h he
  extract_lets s2 me s3
  have h3 : Canonical s3.mem := by
    simp only [s3, mem_sendLevel]
    exact canonical_recWrite hr _ _ _
  split
  · rwa [mem_sendLevel, mem_sendLevel]
  · exact h3

@[simp] theorem canonical_lvlMaybe {s : State} (h : Canonical s.mem) (t id : Nat) : Canonical (lvlMaybe s t id).mem := by
  unfold lvlMaybe
  split
  rename_i s1 r p he
  have hr := canonical_of_recRead h he
  split
  · exact hr
  · split
    · split <;> exact hr
    · exact canonical_lvlComplete hr _ _

/-! Launches. -/

@[simp] theorem mem_distribute (s : State) (t : Nat) (l : LaunchMsg) (reply : Option Msg) : (distribute s t l reply).mem = s.mem := by
  unfold distribute
  extract_lets src cls cxl s1
  have h1 : s1.mem = s.mem := rfl
  rw [← h1]
  apply mem_foldl
  exact fun _ _ => rfl

theorem leaves_execLaunchRequest {i : Nat} {s : State} (h : Canonical s.mem) : OutLeaves Canonical (execLaunchRequest i s) := by
  unfold execLaunchRequest
  split
  · exact h
  · split
    · next m l slot _ =>
      extract_lets t u answer d0 d3
      split
      rename_i s1 r p he
      have hr := canonical_of_recRead (s := u) h he
      extract_lets pred d1 s2
      have h2 : Canonical s2.mem := canonical_recWrite hr _ _ _
      split
      · exact hr
      · split
        · exact hr
        · split
          · exact hr
          · split
            · exact h2
            · simpa using h2
    · exact h

@[simp] theorem canonical_setCxl {s : State} (h : Canonical s.mem) (t id : Nat) : Canonical (setCxl s t id).mem :=
  canonical_recWrite (canonical_recRead h t id) _ _ _

@[simp] theorem canonical_dropUnits {s : State} (h : Canonical s.mem) (cl : Nat) (l : DLaunch) : Canonical (dropUnits cl s l).mem := by
  unfold dropUnits
  extract_lets t
  rw [mem_foldl (f := fun s _ => sendMsg s _) (fun _ _ => sendMsg_mem _ _)]
  exact canonical_setCxl h _ _

theorem leaves_execLaunchDistribute {i : Nat} {s : State} (h : Canonical s.mem) : OutLeaves Canonical (execLaunchDistribute i s) := by
  unfold execLaunchDistribute
  split
  · exact h
  · split
    · next m l cl _ _ =>
      extract_lets u t dl cxl
      have hu : Canonical u.mem := h
      clear_value dl cxl
      split
      · exact h
      · next v hv =>
        have h1 : Canonical v.mem := by
          split at hv
          · cases hv; exact canonical_dropUnits hu _ _
          · obtain ⟨c, -, rfl⟩ := Option.map_eq_some_iff.mp hv; exact hu
        extract_lets ds w
        rw [outLeaves_next, mem_foldl]
        · exact h1
        · intro s d
          split <;> rfl
    · exact h

/-! Completions. -/

@[simp] theorem canonical_unitDoneAt {s : State} (h : Canonical s.mem) (t id : Nat) (fail : Bool) (code : BitVec 32) :
    Canonical (unitDoneAt s t id fail code).mem := by
  unfold unitDoneAt
  split
  rename_i s1 r p he
  have hr := canonical_of_recRead h he
  extract_lets r1 r2 s2
  have h2 : Canonical s2.mem := canonical_recWrite hr _ _ _
  split
  · exact hr
  · split
    · exact canonical_lvlMaybe h2 _ _
    · exact h2

@[simp] theorem canonical_childDoneAt {s : State} (h : Canonical s.mem) (t id : Nat) (failed : Bool) : Canonical (childDoneAt s t id failed).mem := by
  unfold childDoneAt
  split
  rename_i s1 r p he
  have hr := canonical_of_recRead h he
  extract_lets s2
  have h2 : Canonical s2.mem := canonical_recWrite hr _ _ _
  split
  · exact hr
  · split
    · exact canonical_lvlMaybe h2 _ _
    · exact h2

@[simp] theorem canonical_predDoneAt {s : State} (h : Canonical s.mem) (t id : Nat) : Canonical (predDoneAt s t id).mem := by
  unfold predDoneAt
  split
  rename_i s1 r p he
  have hr := canonical_of_recRead h he
  extract_lets s2
  have h2 : Canonical s2.mem := canonical_recWrite hr _ _ _
  split
  · exact h2
  · split
    · simpa using h2
    · exact h2

theorem leaves_execUnitCompletion {i : Nat} {s : State} (h : Canonical s.mem) : OutLeaves Canonical (execUnitCompletion i s) := by
  unfold execUnitCompletion
  split
  · exact h
  · extract_lets t
    split
    · exact canonical_unitDoneAt (s := dropMsg s i) h _ _ _ _
    · exact canonical_childDoneAt (s := dropMsg s i) h _ _ _
    · exact canonical_predDoneAt (s := dropMsg s i) h _ _
    · exact h

/-! Levels and phases. -/

theorem leaves_execLevelWaitRequest {i : Nat} {s : State} (h : Canonical s.mem) : OutLeaves Canonical (execLevelWaitRequest i s) := by
  unfold execLevelWaitRequest
  split
  · exact h
  · split
    · next m f id user asid _ =>
      extract_lets t
      split
      rename_i s1 r p he
      have hr := canonical_of_recRead (s := dropMsg s i) h he
      extract_lets answer
      split
      · exact hr
      · split
        · exact hr
        · split <;> exact hr
    · exact h

theorem leaves_execPhaseCloseRequest {i : Nat} {s : State} (h : Canonical s.mem) : OutLeaves Canonical (execPhaseCloseRequest i s) := by
  unfold execPhaseCloseRequest
  split
  · exact h
  · split
    · next m id user asid _ =>
      extract_lets t answer
      split
      rename_i s1 r p he
      have hr := canonical_of_recRead (s := dropMsg s i) h he
      extract_lets s2
      have h2 : Canonical s2.mem := canonical_recWrite hr _ _ _
      split
      · exact hr
      · split
        · exact hr
        · split
          · exact hr
          · rw [outLeaves_next, sendMsg_mem]
            split
            · exact canonical_lvlMaybe h2 _ _
            · exact h2
    · exact h

@[simp] theorem canonical_cancelCluster {s : State} (h : Canonical s.mem) (cl id : Nat) : Canonical (cancelCluster s cl id).mem := by
  unfold cancelCluster
  extract_lets c gone inq places free dsp s1
  have h1 : Canonical s1.mem := canonical_foldl (fun _ _ hs => canonical_dropUnits hs _ _) _ h
  rw [mem_foldl]
  · exact h1
  · intro s k
    split
    · split
      · split <;> rfl
      · rfl
    · rfl

@[simp] theorem canonical_cancelHold {s : State} (h : Canonical s.mem) (t id : Nat) : Canonical (cancelHold s t id).mem := by
  unfold cancelHold
  extract_lets gone
  refine canonical_foldl (fun s l hs => ?_) _ h
  exact canonical_lvlMaybe (canonical_recWrite (canonical_recRead (canonical_setCxl hs _ _) _ _) _ _ _) _ _

theorem leaves_execLevelCancelDrop {i : Nat} {s : State} (h : Canonical s.mem) : OutLeaves Canonical (execLevelCancelDrop i s) := by
  unfold execLevelCancelDrop
  split
  · exact h
  · split
    · next id user asid _ =>
      extract_lets t dsts
      clear_value dsts
      split
      rename_i s1 r p he
      have hr := canonical_of_recRead (s := dropMsg s i) h he
      extract_lets deny s2
      split
      · split
        · exact hr
        · extract_lets s3
          have h2 : s2.mem = (setCxl s1 t id).mem := by
            apply mem_foldl
            exact fun _ _ => modTower_mem _ _ _
          clear_value s2
          have h3 : s3.mem = s2.mem := rfl
          rw [outLeaves_next, mem_foldl, h3, h2]
          · exact canonical_setCxl hr _ _
          · exact fun _ _ => rfl
      · exact hr
      · exact hr
    · exact canonical_cancelCluster (s := dropMsg s i) h _ _
    · exact canonical_cancelHold (s := dropMsg s i) h _ _
    · simpa using h
    · exact h

@[simp] theorem mem_tellMoved (s : State) (k : Nat) : (tellMoved s k).mem = s.mem := by
  unfold tellMoved
  split
  · rfl
  · split
    · rfl
    · split <;> rfl

theorem leaves_execPhaseWave {id : Nat} {s : State} (h : Canonical s.mem) : OutLeaves Canonical (execPhaseWave id s) := by
  unfold execPhaseWave
  extract_lets t
  split
  · exact h
  · split
    · exact h
    · split
      rename_i s1 r p he
      have hr := canonical_of_recRead h he
      extract_lets ph zero s2 s3
      have h2 : s2.mem = s1.mem := by
        apply mem_foldl
        exact fun _ _ => modTower_mem _ _ _
      clear_value s2
      have h3 : Canonical s3.mem := by
        show Canonical s2.mem
        rwa [h2]
      clear_value s3
      split
      · rw [outLeaves_next]
        refine canonical_lvlComplete ?_ _ _
        rwa [modTower_mem]
      · rwa [outLeaves_next, modTower_mem]

theorem leaves_execThermalMigrate {P : List Host.Cell → Prop} {cluster temp k : Nat} {s : State} (h : P s.mem) :
    OutLeaves P (execThermalMigrate cluster temp k s) := by
  unfold execThermalMigrate
  extract_lets u c x
  have hu : P u.mem := by simpa [u] using h
  split
  · exact hu
  · split
    · exact hu
    · split
      · exact hu
      · split
        · exact hu
        · simpa using hu

/-! Active messages and batons. -/

@[simp] theorem canonical_lmPut {s : State} (h : Canonical s.mem) (core off : Nat) (bs : List Byte) : Canonical (lmPut s core off bs).mem := by
  unfold lmPut
  split
  · next c o _ _ =>
    have hw := leaves_lmWrite h c o bs
    split
    · next hv => rw [dirSpan_mem]; exact (hv ▸ hw : HRes.Leaves Canonical (.ok _ _))
    · next hv => exact (hv ▸ hw : HRes.Leaves Canonical (.poison _ _ _))
    · next hv => exact (hv ▸ hw : HRes.Leaves Canonical (.deny _ _))
    · next hv => exact (hv ▸ hw : HRes.Leaves Canonical (.wait _))
  · exact h
  · exact h
  · exact h

@[simp] theorem canonical_amDispatch {s : State} (h : Canonical s.mem) (m : Msg) (core : Nat) : Canonical (amDispatch s m core).mem := by
  unfold amDispatch
  split
  · extract_lets c refuse plain
    clear_value plain
    split
    · exact h
    · split
      · exact h
      · extract_lets s1
        split
        · simpa using h
        · exact canonical_lmPut h _ _ _
  · exact h

theorem leaves_execActiveMessage {i : Nat} {s : State} (h : Canonical s.mem) : OutLeaves Canonical (execActiveMessage i s) := by
  unfold execActiveMessage
  split
  · exact h
  · split
    · split
      · exact h
      · exact canonical_amDispatch (s := dropMsg s i) h _ _
    · exact h

@[simp] theorem mem_batonDispatch (s : State) (m : Msg) (core : Nat) : (batonDispatch s m core).mem = s.mem := by
  unfold batonDispatch
  split
  · extract_lets c cls
    split
    · simp
    · split <;> rfl
  · rfl

section
variable {P : List Host.Cell → Prop} {i core : Nat} {s : State} (h : P s.mem)
include h

theorem leaves_execBatonPass : OutLeaves P (execBatonPass i s) := by
  unfold execBatonPass
  split
  · exact h
  · split
    · split <;> simpa using h
    · exact h

theorem leaves_execBatonInstall : OutLeaves P (execBatonInstall core s) := by
  unfold execBatonInstall
  split
  · exact h
  · simpa using h

end

end Sys2Proof.Machine
end

section
/-! Requests at their homes, table walks, page migrations and `strmoff` leave memory canonical. -/

namespace Sys2Proof.Machine

/-! Requests at their homes. -/

theorem leaves_homeLoad {i : Nat} {s : State} (h : Canonical s.mem) : OutLeaves Canonical (homeLoad i s) := by
  unfold homeLoad
  split
  · exact h
  · split
    · exact h
    · exact h
    · next pa n acc _ _ _ =>
      split
      · simpa using h
      · have hr := leaves_homeRead (s := dropMsg s i) h pa n acc
        split
        · next hv => exact (hv ▸ hr : HRes.Leaves Canonical (.ok _ _))
        · next hv => exact (hv ▸ hr : HRes.Leaves Canonical (.poison _ _ _))
        · next hv => exact (hv ▸ hr : HRes.Leaves Canonical (.deny _ _))
        · exact h
    · split
      next hv =>
        rw [outLeaves_next, sendMsg_mem]
        exact canonical_of_recRead (s := dropMsg s i) h hv
    · rw [outLeaves_next]
      split
      · exact h
      · simpa using h
    · exact h

theorem leaves_postedSync {s : State} (h : Canonical s.mem) (m : Msg) (f : SyncForm) (pa : Nat) (v : Word) :
    (postedSync s m f pa v).Leaves Canonical := by
  unfold postedSync
  split
  · split
    · split
      · next hs =>
        have h1 := canonical_of_syncPerform h hs
        refine canonical_service ?_ _ _
        split <;> simpa using h1
      · exact h
    · exact h
    · exact h
    · exact h
  · exact h

theorem leaves_execPostedStore {i : Nat} {s : State} (h : Canonical s.mem) : OutLeaves Canonical (execPostedStore i s) := by
  unfold execPostedStore
  split
  · exact h
  · split
    · exact h
    · exact h
    · split
      · simpa using h
      · extract_lets s0 r
        have hr : r.Leaves Canonical := by
          simp only [r]
          split
          · exact leaves_homeWrite (s := s0) h _ _ _ _
          · exact leaves_postedSync (s := s0) h _ _ _ _
        clear_value r
        cases r with
        | ok s1 bs => exact hr
        | poison s1 c a => exact hr
        | deny s1 d => exact hr
        | wait s1 => exact h
    · exact h

theorem leaves_execAtomicRequest {i : Nat} {s : State} (h : Canonical s.mem) : OutLeaves Canonical (execAtomicRequest i s) := by
  unfold execAtomicRequest
  split
  · exact h
  · split
    · exact h
    · split
      · simpa using h
      · next m _ _ _ op pa n b cmp acc _ _ _ =>
        have hr := leaves_homeRmw (s := dropMsg s i) h op pa n b cmp acc (fun r => some (replyTo m (.atomicReply r)))
        split
        · next hv => exact (hv ▸ hr : HRes.Leaves Canonical (.ok _ _))
        · next hv => exact (hv ▸ hr : HRes.Leaves Canonical (.poison _ _ _))
        · next hv => exact (hv ▸ hr : HRes.Leaves Canonical (.deny _ _))
        · exact h
    · exact h

theorem leaves_execSyncRequest {i : Nat} {s : State} (h : Canonical s.mem) : OutLeaves Canonical (execSyncRequest i s) := by
  unfold execSyncRequest
  split
  · exact h
  · split
    · exact h
    · extract_lets s0
      have h0 : Canonical s0.mem := h
      split
      · split
        · split
          · next hs =>
            have h1 := canonical_of_syncPerform h0 hs
            refine canonical_service ?_ _ _
            split <;> simpa using h1
          · split
            · exact canonical_service (by exact h0) _ _
            · exact h0
        · exact h
        · exact h0
        · exact h0
      · exact h0
    · exact h

/-! Walks. -/

/-- After one read of a walk the memory meets `P`. -/
def WalkMove.Leaves (P : List Host.Cell → Prop) : WalkMove → Prop
  | .next t _ | .ended t _ => P t.mem
  | .wait => True

/-- After the read of a page's leaf the memory meets `P`. -/
def LeafNow.Leaves (P : List Host.Cell → Prop) : LeafNow → Prop
  | .leaf t _ _ _ | .none t | .poison t _ => P t.mem
  | .wait => True

theorem leaves_walkEntry {s : State} (h : Canonical s.mem) (pinned : Bool) (la l table : Nat) : (walkEntry s pinned la l table).Leaves Canonical := by
  unfold walkEntry
  extract_lets pa
  have hr := leaves_homeRead h pa 8 Acc.direct
  split
  · exact h
  · split
    · next hv => exact (hv ▸ hr : HRes.Leaves Canonical (.poison _ _ _))
    · next hv => exact (hv ▸ hr : HRes.Leaves Canonical (.deny _ _))
    · trivial
    · next s1 _ hv =>
      have h1 : Canonical s1.mem := (hv ▸ hr : HRes.Leaves Canonical (.ok _ _))
      split
      · exact h1
      · exact h1
      · split <;> exact h1

theorem leaves_walkNext {s : State} (h : Canonical s.mem) (cl : Nat) (w : Walk) : (walkNext s cl w).Leaves Canonical := by
  unfold walkNext
  split
  · exact h
  · exact leaves_walkEntry h _ _ _ _

theorem leaves_execPageWalk {cluster i : Nat} {s : State} (h : Canonical s.mem) : OutLeaves Canonical (execPageWalk cluster i s) := by
  unfold execPageWalk
  split
  · exact h
  · next w _ =>
    have hw := leaves_walkNext h cluster w
    split
    · exact h
    · split
      · exact h
      · next hv => exact (hv ▸ hw : WalkMove.Leaves Canonical (.next _ _))
      · next hv =>
        rw [outLeaves_next, mem_endWalk]
        exact (hv ▸ hw : WalkMove.Leaves Canonical (.ended _ _))

theorem leaves_execWalkMigReread {cluster i : Nat} {s : State} (h : Canonical s.mem) : OutLeaves Canonical (execWalkMigReread cluster i s) := by
  unfold execWalkMigReread
  split
  · exact h
  · split
    · exact h
    · next pa lvl _ =>
      extract_lets pinned
      have hr := leaves_homeRead h pa 8 Acc.direct
      split
      · next hv => rw [outLeaves_next, mem_endWalk]; exact (hv ▸ hr : HRes.Leaves Canonical (.ok _ _))
      · next hv => rw [outLeaves_next, mem_endWalk]; exact (hv ▸ hr : HRes.Leaves Canonical (.poison _ _ _))
      · next hv => rw [outLeaves_next, mem_endWalk]; exact (hv ▸ hr : HRes.Leaves Canonical (.deny _ _))
      · exact h

/-! Page migrations. -/

theorem leaves_pageLeaf {s : State} (h : Canonical s.mem) (asid la : Nat) (at_ : Option (Nat × Nat)) :
    (pageLeaf s asid la at_).Leaves Canonical := by
  unfold pageLeaf
  extract_lets cl
  split
  · next pa lvl _ _ _ =>
    have hr := leaves_homeRead h pa 8 Acc.direct
    split
    · next s1 _ hv =>
      have h1 : Canonical s1.mem := (hv ▸ hr : HRes.Leaves Canonical (.ok _ _))
      split
      · split <;> exact h1
      · exact h1
      · exact h1
    · next hv => exact (hv ▸ hr : HRes.Leaves Canonical (.poison _ _ _))
    · next hv => exact (hv ▸ hr : HRes.Leaves Canonical (.deny _ _))
    · trivial
  · exact h

theorem canonical_of_putPte {s t : State} {pa : Nat} {e : Word} (h : Canonical s.mem) (ht : putPte s pa e = some t) : Canonical t.mem := by
  unfold putPte at ht
  have hr := leaves_homeWrite h pa (wordLE 8 e) Acc.direct none
  split at ht
  · next hv => cases ht; exact (hv ▸ hr : HRes.Leaves Canonical (.ok _ _))
  all_goals cases ht

theorem leaves_pmigGo {s : State} (h : Canonical s.mem) (d a : GReg) (t : Bool) (asid la new : Nat) (at_ : Option (Nat × Nat)) :
    (pmigGo d a t asid la new s at_).Leaves Canonical := by
  unfold pmigGo
  have hl := leaves_pageLeaf h asid la at_
  split
  · next hv => exact (hv ▸ hl : LeafNow.Leaves Canonical (.none _))
  · next hv => exact (hv ▸ hl : LeafNow.Leaves Canonical (.poison _ _))
  · exact h
  · next s1 pa e size hv =>
    have h1 : Canonical s1.mem := (hv ▸ hl : LeafNow.Leaves Canonical (.leaf _ _ _ _))
    extract_lets old w
    split
    · exact h1
    · split
      · exact h1
      · split
        · exact h1
        · split
          · exact h1
          · split
            · exact h1
            · next hp =>
              refine leaves_migStatus _ _ _ _ _ ?_
              rw [modTower_mem]
              exact canonical_of_putPte h1 hp

theorem leaves_execPmig {d a b : GReg} {t : Bool} {s : State} (h : Canonical s.mem) : OutLeaves Canonical (execPmig d a b t s) :=
  leaves_withOps h fun _ _ hu => leaves_pageWalk hu (fun _ _ hv => leaves_pmigGo hv _ _ _ _ _ _ _) _ _

theorem leaves_execMigrationCopy {tower i : Nat} {s : State} (h : Canonical s.mem) : OutLeaves Canonical (execMigrationCopy tower i s) := by
  unfold execMigrationCopy
  split
  · exact h
  · split
    · exact h
    · split
      · exact h
      · rw [outLeaves_next, modTower_mem]
        exact canonical_copyLine h _ _

theorem leaves_pmigswGo {s : State} (h : Canonical s.mem) (d a : GReg) (t : Bool) (asid la act w i : Nat) (m : Migr) (at_ : Option (Nat × Nat)) :
    (pmigswGo d a t asid la act w i m s at_).Leaves Canonical := by
  unfold pmigswGo
  extract_lets setM
  have hl := leaves_pageLeaf h asid la at_
  split
  · next hv => exact (hv ▸ hl : LeafNow.Leaves Canonical (.none _))
  · next hv => exact (hv ▸ hl : LeafNow.Leaves Canonical (.poison _ _))
  · exact h
  · next s1 pa e _ hv =>
    have h1 : Canonical s1.mem := (hv ▸ hl : LeafNow.Leaves Canonical (.leaf _ _ _ _))
    split
    · split
      · exact h1
      · next hp =>
        refine leaves_migStatus _ _ _ _ _ ?_
        rw [modTower_mem]
        exact canonical_of_putPte h1 hp
    · split
      · split
        · exact h1
        · next hp =>
          rw [Res.leaves_park, modTower_mem]
          exact canonical_of_putPte h1 hp
      · split
        · exact h1
        · next hp =>
          refine leaves_migStatus _ _ _ _ _ ?_
          rw [modTower_mem]
          exact canonical_of_putPte h1 hp

theorem leaves_execPmigsw {d a b : GReg} {t : Bool} {s : State} (h : Canonical s.mem) : OutLeaves Canonical (execPmigsw d a b t s) := by
  refine leaves_withOps h fun u vs hu => ?_
  extract_lets asid la act
  split
  · exact hu
  · split
    · exact hu
    · split
      · split <;> exact hu
      · split
        · exact hu
        · split
          · exact hu
          · exact leaves_pageWalk hu (fun _ _ hv => leaves_pmigswGo hv _ _ _ _ _ _ _ _ _ _) _ _

/-! The descriptor that `strmoff` stores. -/

theorem leaves_putPiece {s held : State} {ended : State → Res} (h : Canonical s.mem) (hheld : Canonical held.mem)
    (hended : ∀ u, Canonical u.mem → (ended u).Leaves Canonical) (pa : Nat) (bs : List Byte) (acc : Acc) :
    (putPiece s held pa bs acc ended).Leaves Canonical := by
  unfold putPiece
  extract_lets core
  split
  · next off _ =>
    have hw := leaves_lmWrite h core off bs
    split
    · next hv => exact hended _ (by rw [mem_dirWrite]; exact (hv ▸ hw : HRes.Leaves Canonical (.ok _ _)))
    · trivial
    · trivial
    · exact hheld
  · trivial
  · trivial
  · split
    · trivial
    · split
      · next hp => exact hended _ (by rwa [mem_of_postStore _ _ _ _ _ _ hp])
      · exact hheld

theorem leaves_ptrPut {s : State} {ended : State → Res} (h : Canonical s.mem) (hended : ∀ u, Canonical u.mem → (ended u).Leaves Canonical)
    (p : Word) (bs : List Byte) : (ptrPut s p bs ended).Leaves Canonical := by
  unfold ptrPut
  extract_lets x
  split
  · trivial
  · exact leaves_onAddr h (leaves_physical _ _ _ _ _ h) _ fun _ _ _ => leaves_onAddr h (leaves_physical _ _ _ _ _ h) _ fun _ _ _ =>
      leaves_putPiece h h (fun _ hu => leaves_putPiece hu h hended _ _ _) _ _ _

theorem leaves_execStrmoff {d : BitVec 2} {a : GReg} {t : Bool} {s : State} (h : Canonical s.mem) : OutLeaves Canonical (execStrmoff d a t s) := by
  refine leaves_withOps h fun u vs hu => ?_
  extract_lets st ends
  have hends (v : State) (hv : Canonical v.mem) : (ends v).Leaves Canonical := hv
  split
  · trivial
  · split
    · trivial
    · split
      · exact hu
      · split
        · exact hends _ hu
        · exact leaves_ptrPut hu hends _ _

end Sys2Proof.Machine
end

section
/-! Engine accesses at their homes, the memory side's maintenance, LM quarters and the hold-up sequence leave memory canonical. -/

namespace Sys2Proof.Machine

/-! Engine reads. -/

theorem canonical_of_readAll {j : Nat} {s t : State} {ps : List (Nat × Nat × Acc)} {got bs : List Byte} (h : Canonical s.mem)
    (ht : readAll j s ps got = .ok (t, bs)) : Canonical t.mem := by
  induction ps generalizing j s got with
  | nil => cases ht; exact h
  | cons p ps ih =>
    unfold readAll at ht
    have hr := leaves_homeReadRaw h p.1 p.2.1 p.2.2
    split at ht
    · next hv => exact ih (hv ▸ hr : HRes.Leaves Canonical (.ok _ _)) ht
    · cases ht

theorem leaves_of_readAll {j k : Nat} {s : State} {r : HRes} {ps : List (Nat × Nat × Acc)} {got : List Byte} (h : Canonical s.mem)
    (ht : readAll j s ps got = .error (k, r)) : r.Leaves Canonical := by
  induction ps generalizing j s got with
  | nil => cases ht
  | cons p ps ih =>
    unfold readAll at ht
    have hr := leaves_homeReadRaw h p.1 p.2.1 p.2.2
    split at ht
    · next hv => exact ih (hv ▸ hr : HRes.Leaves Canonical (.ok _ _)) ht
    · cases ht; exact hr

theorem canonical_readRefused {s : State} {r : HRes} (h : Canonical s.mem) (hr : r.Leaves Canonical) (i : Nat) (m : Msg) (ref : EngRef)
    (piece pa : Nat) : Canonical (readRefused s i m ref piece pa r).mem := by
  cases r with
  | ok t bs => exact h
  | poison t c a => exact hr
  | deny t d => exact hr
  | wait t => exact h

theorem leaves_execEngineReadRequest {i : Nat} {s : State} (h : Canonical s.mem) : OutLeaves Canonical (execEngineReadRequest i s) := by
  unfold execEngineReadRequest
  split
  · exact h
  · split
    · exact h
    · exact h
    · extract_lets pieces k
      split
      · simpa using h
      · split
        · split
          · next hv =>
            rw [outLeaves_next, sendMsg_mem, dropMsg_mem]
            exact canonical_of_readAll h hv
          · next hv => exact canonical_readRefused h (leaves_of_readAll h hv) _ _ _ _ _
        · next pa n got ref acc more _ _ _ _ _ _ =>
          have hr := leaves_homeReadRaw h pa k acc
          split
          · next hv =>
            rw [hv, HRes.leaves_ok] at hr
            split
            · exact hr
            · split <;> exact hr
          · exact canonical_readRefused h hr _ _ _ _ _
    · exact h

/-! Engine writes. -/

theorem canonical_of_putRefused {s t u : State} {from_ : Agent} {j k c : Nat} {ps : List PutPiece} (h : Canonical s.mem)
    (hu : putRefused s from_ j t ps = some (k, u, c)) : Canonical u.mem := by
  induction ps generalizing j t with
  | nil => cases hu
  | cons p ps ih =>
    unfold putRefused at hu
    split at hu
    · cases hu; exact h
    · split at hu
      · exact ih hu
      · cases hu
      · cases hu; exact h
      · cases hu
        have hw := leaves_homeWrite h p.pa p.data p.acc none
        split
        · next hv => exact (hv ▸ hw : HRes.Leaves Canonical (.deny _ _))
        · exact h

theorem leaves_execEngineWrite {i : Nat} {s : State} (h : Canonical s.mem) : OutLeaves Canonical (execEngineWrite i s) := by
  unfold execEngineWrite
  split
  · exact h
  · split
    · simpa using h
    · exact h
    · exact h
    · next m _ _ _ pa data ref acc dict more _ _ _ =>
      extract_lets rest pieces k
      have hrest (t : State) (b : Body) (ht : Canonical t.mem) : OutLeaves Canonical (rest t b) := ht
      split
      · exact h
      · split
        · exact h
        · exact hrest _ _ h
      · split
        · simpa using h
        · split
          · next hv =>
            rw [outLeaves_next, sendMsg_mem, dropMsg_mem]
            exact canonical_of_putRefused h hv
          · split
            · have hw := leaves_homeWrite (s := dropMsg s i) h pa data acc (some (replyTo m (.engWriteAck ref none)))
              split
              · next hv => exact (hv ▸ hw : HRes.Leaves Canonical (.ok _ _))
              · exact h
              · exact h
              · exact h
            · have hw := leaves_homeWrite h pa (data.take k) acc none
              split
              · next hv => exact hrest _ _ (hv ▸ hw : HRes.Leaves Canonical (.ok _ _))
              · exact h
              · exact h
              · exact h
    · exact h

/-! The SC's own work. -/

theorem leaves_execSnapSweep {line : Nat} {s : State} (h : Canonical s.mem) : OutLeaves Canonical (execSnapSweep line s) := by
  unfold execSnapSweep
  extract_lets t w
  split
  · exact h
  · exact canonical_resolveLine h _ _

@[simp] theorem canonical_walkSpan {s : State} (h : Canonical s.mem) (t : Nat) (inv noWb : Bool) (line n : Nat) :
    Canonical (walkSpan s t inv noWb line n).mem := by
  unfold walkSpan
  extract_lets inSpan s1
  have h1 : Canonical s1.mem := canonical_foldl (fun _ _ hs => canonical_resolveLine hs _ _) _ h
  refine canonical_foldl (fun u l hu => ?_) _ h1
  split
  · exact canonical_writeBack hu _
  · split
    · simpa using hu
    · exact canonical_evictLine hu _

theorem leaves_execScSpanWalk {i : Nat} {s : State} (h : Canonical s.mem) : OutLeaves Canonical (execScSpanWalk i s) := by
  unfold execScSpanWalk
  split
  · exact h
  · split
    · split
      · exact h
      · rw [outLeaves_next, mem_answerTrip]
        exact canonical_walkSpan (s := dropMsg s i) h _ _ _ _ _
    · exact h

theorem leaves_execScFillComplete {line : Nat} {victim : Option Nat} {s : State} (h : Canonical s.mem) :
    OutLeaves Canonical (execScFillComplete line victim s) := by
  unfold execScFillComplete
  split
  · exact h
  · extract_lets s1
    have h1 : Canonical s1.mem := by
      simp only [s1]
      split
      · exact h
      · split
        · exact h
        · split
          · split
            · exact h
            · exact canonical_evictLine h _
          · exact canonical_spillShadows h _
    rw [outLeaves_next, mem_fillLine]
    exact canonical_makeRoom h1 _

theorem leaves_execLmQuarterReady {core q : Nat} {s : State} (h : Canonical s.mem) : OutLeaves Canonical (execLmQuarterReady core q s) := by
  unfold execLmQuarterReady
  split
  · exact h
  · extract_lets lo s1 s2
    have h1 : Canonical s1.mem := canonical_zeroRange _ _ h
    have h2 : s2.mem = s1.mem := by
      apply mem_foldl
      intro u e
      split
      · split
        · exact mem_foldl sendMsg_mem _ _
        · rfl
      · rfl
    rw [outLeaves_next, mem_servePwr, modCore_mem, h2]
    exact h1

/-! Must-save regions and the hold-up sequence. -/

theorem leaves_saveRange {P : List Host.Cell → Prop} {s : State} (h : P s.mem) (p : Word) (len : Nat) : (saveRange s p len).Leaves P := by
  unfold saveRange
  extract_lets u
  split
  · trivial
  · have hp := leaves_ptrAddr s s.cur p 1 needR h
    split
    · have hs := leaves_segAddr s s.cur (ptrSeg p) (nw (ptrOff p + len - 1)) 1 needR h
      split
      · split
        · trivial
        · split
          · trivial
          · split <;> trivial
      · exact hs
    · exact hp

theorem leaves_execMsadd {P : List Host.Cell → Prop} {d a b : GReg} {t : Bool} {s : State} (h : P s.mem) : OutLeaves P (execMsadd d a b t s) := by
  refine leaves_withOps h fun u vs hu => ?_
  extract_lets v
  refine leaves_withAnswers _ _ hu fun ws => ?_
  have hr := leaves_saveRange hu (val vs 0) (bitF v 0 34)
  split
  · exact hu
  · split
    · trivial
    · next hv => exact (hv ▸ hr : AddrRes.Leaves P (.walk _))
    · exact leaves_askMore _ _ _ _ hu

theorem leaves_execHoldupCopy {s : State} (h : Canonical s.mem) : OutLeaves Canonical (execHoldupCopy s) := by
  unfold execHoldupCopy
  split
  · exact h
  · extract_lets s1
    rw [outLeaves_next, modModul_mem]
    exact canonical_foldl (fun _ _ hs => canonical_spillShadows hs _) _ (by rwa [mem_refuseRest])

theorem leaves_execSaveChunkWrite {P : List Host.Cell → Prop} {ok : Bool} {s : State} (h : P s.mem) : OutLeaves P (execSaveChunkWrite ok s) := by
  unfold execSaveChunkWrite
  split
  · exact h
  · split <;> exact h

@[simp] theorem canonical_restoreChunk {s : State} (h : Canonical s.mem) (f : Flash) (c : Chunk) : Canonical (restoreChunk s f c).mem := by
  unfold restoreChunk
  split
  · exact h
  · extract_lets pa bs
    split
    · rw [mem_foldl]
      · exact canonical_setBytes _ _ h
      · intro u l; simp
    · split
      · rw [mem_clearBad]; exact canonical_setBytes _ _ h
      · exact h
    · rw [mem_clearBad]; exact canonical_setBytes _ _ h
    · exact h

@[simp] theorem canonical_restoreAll {s : State} (h : Canonical s.mem) : Canonical (restoreAll s).mem :=
  canonical_foldl (fun _ _ hs => canonical_restoreChunk hs _ _) _ h

theorem leaves_execLoadRequest {i : Nat} {s : State} (h : Canonical s.mem) : OutLeaves Canonical (execLoadRequest i s) := by
  unfold execLoadRequest
  split
  · exact h
  · split
    · next m _ _ f vs _ =>
      rw [outLeaves_next]
      cases hu : unitPerform (dropMsg s i) m f vs with
      | none => exact h
      | some u => rw [Option.getD_some, mem_of_unitPerform _ _ _ _ hu]; exact h
    · exact leaves_homeLoad h

end Sys2Proof.Machine
end

section
/-! The gang switch leaves memory canonical. -/

namespace Sys2Proof.Machine

/-- A fold that may stop keeps canonical memory when each of its steps does. -/
theorem canonical_of_foldl_bind {α : Type} {f : α → State → Option State}
    (hf : ∀ x {u v : State}, Canonical u.mem → f x u = some v → Canonical v.mem)
    {l : List α} {o : Option State} {t : State} (h : ∀ u, o = some u → Canonical u.mem)
    (ht : l.foldl (fun o x => o.bind fun s => f x s) o = some t) : Canonical t.mem := by
  induction l generalizing o with
  | nil => exact h t ht
  | cons x l ih =>
    refine ih (fun v hv => ?_) ht
    obtain ⟨u, hu, hv⟩ := Option.bind_eq_some_iff.mp hv
    exact hf x (h u hu) hv

theorem canonical_of_writeLines {n pa : Nat} {s t : State} {bs : List Byte} (h : Canonical s.mem) (ht : writeLines n s pa bs = some t) :
    Canonical t.mem := by
  refine canonical_of_foldl_bind (fun i u v hu hv => ?_) (fun u hu => by cases hu; exact h) ht
  have hw := leaves_homeWrite hu (pa + 64 * i) ((bs.drop (64 * i)).take 64) Acc.direct none
  split at hv
  · next he => cases hv; exact (he ▸ hw : HRes.Leaves Canonical (.ok _ _))
  · next he => cases hv; exact (he ▸ hw : HRes.Leaves Canonical (.poison _ _ _))
  · next he => cases hv; exact (he ▸ hw : HRes.Leaves Canonical (.deny _ _))
  · cases hv

theorem canonical_of_saveSlot {s t : State} {k : Nat} (h : Canonical s.mem) (ht : saveSlot s k = some t) : Canonical t.mem := by
  unfold saveSlot at ht
  extract_lets strm s1 pa at ht
  obtain ⟨u, hu, rfl⟩ := Option.map_eq_some_iff.mp ht
  have h1 : Canonical s1.mem := by rwa [modSlot_mem]
  rw [modSlot_mem, modCluster_mem, modCore_mem, modModul_mem]
  exact canonical_of_writeLines h1 hu

theorem leaves_execGangSwitchSaved {core : Nat} {s : State} (h : Canonical s.mem) : OutLeaves Canonical (execGangSwitchSaved core s) := by
  unfold execGangSwitchSaved
  extract_lets c gone out s1
  have h1 : s1.mem = s.mem := by
    apply mem_foldl
    exact fun _ _ => rfl
  split
  · exact h
  · split
    · exact h
    · next ht =>
      rw [outLeaves_next, modCore_mem]
      refine canonical_of_foldl_bind (fun k u v hu hv => canonical_of_saveSlot hu hv) (fun u hu => ?_) ht
      cases hu
      rwa [h1]

theorem canonical_of_fillFall {s u : State} {t n : Nat} (h : Canonical s.mem) (hu : fillFall s t n = some u) : Canonical u.mem :=
  canonical_of_writeLines (s := (takeFree s).2) h hu

theorem leaves_execFalloutDivert {i : Nat} {s : State} (h : Canonical s.mem) : OutLeaves Canonical (execFalloutDivert i s) := by
  unfold execFalloutDivert
  split
  · exact h
  · extract_lets kind
    split
    · extract_lets t w
      split
      · exact h
      · split
        · exact h
        · next hv =>
          obtain ⟨m, -, hm⟩ := Option.bind_eq_some_iff.mp hv
          obtain ⟨v, hv, he⟩ := Option.map_eq_some_iff.mp hm
          cases he
          rw [outLeaves_next, modTower_mem]
          exact canonical_of_fillFall (s := dropMsg s i) h hv
    · exact h

theorem canonical_readRec {s : State} (h : Canonical s.mem) (pa : Nat) : Canonical (readRec s pa).1.mem := by
  refine List.foldlRecOn (motive := fun r : State × RecRead => Canonical r.1.mem) _ _ h fun r hr i _ => ?_
  split
  · exact hr
  · exact hr
  · have hh := leaves_homeRead hr (pa + 64 * i) 64 Acc.direct
    split
    · next he => exact (he ▸ hh : HRes.Leaves Canonical (.ok _ _))
    · next he => exact (he ▸ hh : HRes.Leaves Canonical (.poison _ _ _))
    · next he => exact (he ▸ hh : HRes.Leaves Canonical (.deny _ _))
    · next he => exact (he ▸ hh : HRes.Leaves Canonical (.wait _))

@[simp] theorem canonical_loadNow {s : State} (h : Canonical s.mem) (core k : Nat) : Canonical (loadNow core s k).mem := by
  unfold loadNow
  extract_lets done
  have hdone (u : State) : (done u).mem = u.mem := rfl
  have hr := canonical_readRec h (recPa s core (slotNo k))
  split
  · next he => rwa [he] at hr
  · next he => rwa [he] at hr
  · next he =>
    rw [he] at hr
    split
    · exact hr
    · split
      · exact hr
      · split
        · rw [hdone, mem_loseSlot]; exact hr
        · split
          · rw [hdone, mem_loadSlot]; exact hr
          · exact hr

@[simp] theorem canonical_loadSlots {s : State} (h : Canonical s.mem) (core : Nat) : Canonical (loadSlots s core).mem :=
  canonical_foldl (fun _ _ hs => canonical_loadNow hs _ _) _ h

@[simp] theorem canonical_deliverFall {s : State} (h : Canonical s.mem) (core : Nat) (m : Msg) : Canonical (deliverFall core s m).mem := by
  unfold deliverFall
  extract_lets s1
  have h1 : Canonical s1.mem := by rwa [mem_touchPhase]
  split
  · rwa [mem_batonDispatch]
  · exact canonical_amDispatch h1 _ _

theorem canonical_of_resendRecs {o : Option State} {t : State} {k : Nat} {rs : List ReqRec} (h : ∀ u, o = some u → Canonical u.mem)
    (ht : rs.foldl (resendRecs k) o = some t) : Canonical t.mem :=
  canonical_of_foldl_bind (f := fun r s => resendRecs k (some s) r) (fun r u v hu hv => by rwa [mem_of_resendRecs _ _ _ hv]) h ht

@[simp] theorem canonical_finishRestore {s : State} (h : Canonical s.mem) (core : Nat) : Canonical (finishRestore s core).mem := by
  unfold finishRestore
  extract_lets ks t mine
  split
  · exact h
  · split
    · exact h
    · next s1 hs =>
      have h1 : Canonical s1.mem :=
        List.foldlRecOn (motive := fun o : Option State => ∀ u, o = some u → Canonical u.mem) _ _ (fun u hu => by cases hu; exact h)
          (fun o ho k _ u hu => canonical_of_resendRecs ho hu) s1 hs
      extract_lets s2 ms s3
      have h3 : Canonical s3.mem := canonical_foldl (fun _ m hu => canonical_deliverFall hu core m) _ h1
      rw [mem_foldl]
      · exact h3
      · intro u k
        rw [modSlot_mem, mem_tellMoved]

theorem leaves_execGswRestore {core : Nat} {v : Word} {s : State} (h : Canonical s.mem) : OutLeaves Canonical (execGswRestore core v s) := by
  unfold execGswRestore
  split
  · exact canonical_finishRestore (canonical_loadSlots h _) _
  · rw [outLeaves_next, mem_onCtlStore _ _ _ _ _ (fun _ _ => mem_gswWrite _ _ _)]
    exact h

end Sys2Proof.Machine
end

section
/-! The control registers, the host and boot leave memory canonical. -/

namespace Sys2Proof.Machine

/-! Control registers. -/

@[simp] theorem canonical_rangeCfgWrite {s : State} (h : Canonical s.mem) (t n : Nat) (v : Word) : Canonical (rangeCfgWrite s t n v).mem := by
  unfold rangeCfgWrite
  extract_lets old
  split
  · split
    · exact h
    · rw [modTower_mem]
      exact canonical_clearRange h _ _
  · exact h

@[simp] theorem canonical_writeTower {s : State} (h : Canonical s.mem) (t n : Nat) (v : Word) : Canonical (writeTower s t n v).mem := by
  unfold writeTower
  extract_lets s1
  have h1 : s1.mem = s.mem := modTower_mem _ _ _
  clear_value s1
  split
  · exact h
  · split
    · rwa [modTower_mem]
    · split
      · exact canonical_rangeCfgWrite h _ _ _
      · split
        · rwa [mem_rethreshold, h1]
        · rwa [h1]

@[simp] theorem canonical_writeReg {s : State} (h : Canonical s.mem) (u n : Nat) (v : Word) : Canonical (writeReg s u n v).mem := by
  unfold writeReg
  split
  · rwa [mem_writeThread]
  · split
    · rwa [mem_writeCore]
    · split
      · rwa [mem_writeCluster]
      · split
        · exact canonical_writeTower h _ _ _
        · rwa [mem_writeModul]

theorem leaves_execCput {a : GReg} {t : Bool} {n : BitVec 14} {s : State} (h : Canonical s.mem) : OutLeaves Canonical (execCput a t n s) := by
  refine leaves_withOps h fun u vs hu => ?_
  extract_lets took b
  have htook : Canonical (took u).mem := hu
  split
  · exact canonical_writeReg htook _ _ _
  · exact leaves_askOnce _ _ _ _ _ hu fun _ => htook

@[simp] theorem canonical_ctlPerform {s : State} (h : Canonical s.mem) (i : Nat) (m : Msg) : Canonical (ctlPerform s i m).mem := by
  unfold ctlPerform
  split
  · exact canonical_writeReg (s := dropMsg s i) h _ _ _
  · exact canonical_writeReg (s := dropMsg s i) h _ _ _
  · rw [sendMsg_mem, mem_afterRead]
    exact h
  · exact h

theorem leaves_execControlWindowAccess {i : Nat} {s : State} (h : Canonical s.mem) : OutLeaves Canonical (execControlWindowAccess i s) := by
  unfold execControlWindowAccess
  split
  · exact h
  · exact canonical_ctlPerform h _ _

@[simp] theorem canonical_windowRead {s : State} (h : Canonical s.mem) (b n : Nat) : Canonical (windowRead s b n).mem := by
  unfold windowRead
  split
  · exact h
  · exact canonical_ctlPerform h _ _

theorem canonical_onCtlStore {s : State} {perform : State → Word → State} (h : Canonical s.mem)
    (hp : ∀ u v, Canonical u.mem → Canonical (perform u v).mem) (b n : Nat) (p : Word → Bool) : Canonical (onCtlStore s b n p perform).mem := by
  unfold onCtlStore
  split
  · exact h
  · rw [sendMsg_mem]
    exact hp _ _ h

theorem leaves_windowWrite {u n : Nat} {v : Word} {p : Bool} {s : State} (h : Canonical s.mem) : OutLeaves Canonical (windowWrite s u n v p) := by
  unfold windowWrite
  split
  · exact canonical_onCtlStore h (fun _ _ hu => canonical_writeReg hu _ _ _) _ _ _
  · exact h

theorem leaves_execDirOvfRead {core : Nat} {s : State} (h : Canonical s.mem) : OutLeaves Canonical (execDirOvfRead core s) :=
  canonical_windowRead h _ _

theorem leaves_execDbgContextAccess {core : Nat} {write : Bool} {v : Word} {s : State} (h : Canonical s.mem) :
    OutLeaves Canonical (execDbgContextAccess core write v s) := by
  unfold execDbgContextAccess
  split
  · exact leaves_windowWrite h
  · exact canonical_windowRead h _ _

/-! The host. -/

theorem canonical_toHost {s : State} {r : HRes} (h : Canonical s.mem) (hr : r.Leaves Canonical) : Canonical (r.toHost s).mem := by
  cases r with
  | ok t bs => simpa [HRes.toHost] using hr
  | poison t c a => simpa [HRes.toHost] using hr
  | deny t d => simpa [HRes.toHost] using hr
  | wait t => exact h

theorem canonical_hostStore {s : State} (h : Canonical s.mem) (m core pa : Nat) (bs : List Byte) : Canonical (hostStore s m core pa bs).mem := by
  unfold hostStore
  have hw := leaves_homeWrite h pa bs Acc.direct (some ⟨.ni core, .host m, 0, 0, 0, .storeAck⟩)
  split
  · next he => exact (he ▸ hw : HRes.Leaves Canonical (.ok _ _))
  · exact canonical_toHost h hw

theorem leaves_cxlAccess {m : Nat} {write : Bool} {addr : Nat} {bs : List Byte} {s : State} (h : Canonical s.mem) :
    OutLeaves Canonical (cxlAccess m write addr bs s) := by
  unfold cxlAccess
  extract_lets access
  have hacc : access.Leaves Canonical := by
    simp only [access]
    split
    · exact leaves_homeWrite h _ _ _ _
    · exact leaves_homeRead h _ _ _
  clear_value access
  split
  · exact h
  · split
    · extract_lets u
      split
      · exact h
      · split
        · exact canonical_writeReg h _ _ _
        · rw [outLeaves_next, mem_hostAnswer, mem_afterRead]
          exact h
    · split
      · exact h
      · split
        · rwa [outLeaves_next, mem_startFill]
        · exact canonical_toHost h hacc
    · rw [outLeaves_next]
      split
      · exact canonical_hostStore h _ _ _ _
      · exact canonical_toHost h hacc
    · exact canonical_toHost h hacc
    · exact h
    · exact h
    · exact h
    · exact h

theorem leaves_execCxlMemRequest {m : Nat} {write : Bool} {addr : Nat} {bs : List Byte} {s : State} (h : Canonical s.mem) :
    OutLeaves Canonical (execCxlMemRequest m write addr bs s) := by
  unfold execCxlMemRequest
  split
  · exact h
  · exact leaves_cxlAccess h

theorem canonical_of_agentCuts {cs : List (Nat × Nat)} {s t : State} {bs : List Byte} {r : Option (List Byte)} (h : Canonical s.mem)
    (ht : agentCuts cs s bs = some (t, r)) : Canonical t.mem := by
  induction cs generalizing s bs with
  | nil => cases ht; exact h
  | cons c cs ih =>
    unfold agentCuts at ht
    extract_lets readable at ht
    have hr := leaves_homeRead h c.1 c.2 Acc.direct
    clear_value readable
    split at ht
    · cases ht; exact h
    · split at ht
      · next he => exact ih (he ▸ hr : HRes.Leaves Canonical (.ok _ _)) ht
      · next he => cases ht; exact (he ▸ hr : HRes.Leaves Canonical (.poison _ _ _))
      · next he => cases ht; exact (he ▸ hr : HRes.Leaves Canonical (.deny _ _))
      · cases ht

theorem canonical_of_agentRead {s t : State} {pa n : Nat} {r : Option (List Byte)} (h : Canonical s.mem) (ht : agentRead s pa n = some (t, r)) :
    Canonical t.mem := canonical_of_agentCuts h ht

@[simp] theorem mem_agentSend (s : State) (n : Nat) (r args : List Word) (place : Option (List (BitVec 32))) :
    (agentSend s n r args place).mem = s.mem := by
  unfold agentSend
  extract_lets l bad
  split
  · simp
  · split
    · simp
    · rw [sendMsg_mem, mem_setHslot]

theorem canonical_agentLaunch {s : State} (h : Canonical s.mem) (n : Nat) : Canonical (agentLaunch s n).mem := by
  unfold agentLaunch
  extract_lets src u r zero
  have hu : Canonical u.mem := h
  clear_value zero
  split
  · exact hu
  · have hargs (v : State) (ab : Option (List Byte))
        (hv : (if val r 3 = 0#64 then some (u, some (wordsLE zero)) else agentRead u (val r 3).toNat 64) = some (v, ab)) : Canonical v.mem := by
      split at hv
      · cases hv; exact hu
      · exact canonical_of_agentRead hu hv
    split
    · exact hu
    · next he => rw [mem_agentAnswer]; exact hargs _ _ he
    · next he =>
      have h1 := hargs _ _ he
      generalize (if bitF (val r 7) 0 16 = 0 then 1 else bitF (val r 7) 0 16) = gsz
      split
      · rwa [mem_agentSend]
      · split
        · rwa [mem_agentAnswer]
        · split
          · exact hu
          · next he => rw [mem_agentAnswer]; exact canonical_of_agentRead h1 he
          · next he => rw [mem_agentSend]; exact canonical_of_agentRead h1 he

theorem leaves_execLaunchWindowGo {slot : Nat} {record : List Word} {ctl : Word} {s : State} (h : Canonical s.mem) :
    OutLeaves Canonical (execLaunchWindowGo slot record ctl s) := by
  unfold execLaunchWindowGo
  extract_lets x dw
  split
  · exact h
  · split
    · split <;> exact h
    · split
      · exact h
      · split
        · exact canonical_agentLaunch h _
        · exact h

/-! Boot. -/

theorem canonical_rebooted (s : State) : Canonical (rebooted s).mem := reset_mem_wf

theorem canonical_bootRestore {s : State} (h : Canonical s.mem) : Canonical (bootRestore s).mem := by
  unfold bootRestore
  extract_lets s1
  have h1 : Canonical s1.mem := by
    simp only [s1]
    split
    · exact canonical_restoreAll h
    · exact h
  split
  · exact h1
  · rwa [mem_hostEvent]

theorem canonical_bootStep {s : State} (h : Canonical s.mem) (f : BootFacts) (k : Nat) : Canonical (bootStep f k s).mem := by
  unfold bootStep
  split
  · rwa [mem_bootFirmware]
  · split
    · rwa [mem_bootRows]
    · split
      · rwa [mem_bootComb]
      · split
        · rwa [mem_bootBuses]
        · split
          · rwa [mem_bootLight]
          · split
            · rwa [mem_bootConfig]
            · exact canonical_bootRestore h

theorem leaves_execBoot {good : Bool} {s : State} (h : Canonical s.mem) : OutLeaves Canonical (execBoot good s) := by
  unfold execBoot
  split
  · exact h
  · split
    · exact canonical_rebooted s
    · extract_lets f k
      split
      · rwa [outLeaves_next, mem_bootDone]
      · split
        · rwa [outLeaves_next, mem_bootFails]
        · rw [outLeaves_next, mem_bootAt]
          exact canonical_bootStep h _ _

end Sys2Proof.Machine
end

section
/-! A slot's turn, a cycle and a step leave memory canonical (O10). -/

namespace Sys2Proof.Machine

theorem leaves_compute {P : List Host.Cell → Prop} {d : GReg} {srcs : List GReg} {t : Bool} {f : List Word → Word} {s : State} (h : P s.mem) :
    OutLeaves P (.next (compute s d srcs t f)) := by
  rw [outLeaves_next, mem_compute]
  exact h

/-! The evaluation of one slot or of a gang, by an evaluation of instructions that keeps memory canonical. -/

theorem mem_of_fetchWord {s t : State} {k : Nat} (h : fetchWord s k = .park t) : t.mem = s.mem := by
  unfold fetchWord at h
  extract_lets x at h
  have haddr := leaves_fetchAddr (P := fun m => m = s.mem) s k rfl
  split at h
  · cases h
  · split at h
    · cases h
    · next hv => cases h; exact (hv ▸ haddr : AddrRes.Leaves _ (.walk _))
    · split at h
      · next off _ =>
        have hr := leaves_lmRead (P := fun m => m = s.mem) s (coreOf k) off 4 rfl
        split at h
        · cases h
        · cases h
        · cases h
        · next hv => cases h; exact (hv ▸ hr : HRes.Leaves _ (.wait _))
      · cases h
      · cases h
      · extract_lets ask at h
        have hask (u : State) (hu : ask = .park u) : u.mem = s.mem := by
          injection hu with hu
          rw [← hu]
          split
          · rfl
          · exact mem_sendFetch _ _ _ _
        split at h
        · split at h
          · cases h
          · exact hask _ h
        · exact hask _ h

section
variable {run : Instr → State → Out} (hrun : ∀ i s, Canonical s.mem → OutLeaves Canonical (run i s))
include hrun

theorem leaves_runOne {s : State} (h : Canonical s.mem) (k : Nat) (w : BitVec 32) : OutLeaves Canonical (runOne run s k w) := by
  unfold runOne
  split
  · rw [outLeaves_next, mem_finish]
    exact h
  · split
    · rw [outLeaves_next, mem_finish]
      exact h
    · exact hrun _ _ h

theorem canonical_of_runAll {w : BitVec 32} {ks : List Nat} {s t : State} {ms ns : List Mark} (h : Canonical s.mem)
    (ht : runAll run w ks s ms = .next (t, ns)) : Canonical t.mem := by
  induction ks generalizing s ms with
  | nil => cases ht; exact h
  | cons k ks ih =>
    unfold runAll at ht
    have hr := leaves_runOne hrun h k w
    split at ht
    · next he => exact ih (he ▸ hr : OutLeaves Canonical (.next _)) ht
    · cases ht
    · cases ht

theorem leaves_runGang {s : State} (h : Canonical s.mem) (lead : Nat) (fs : List Nat) (w : BitVec 32) :
    OutLeaves Canonical (runGang run s lead fs w) := by
  unfold runGang
  extract_lets u ks
  have hu : Canonical u.mem := by rwa [mem_gangTurn]
  split
  · refine canonical_foldl (fun t k ht => ?_) _ hu
    split
    · have hr := leaves_runOne hrun ht k w
      split
      · next he =>
        split
        · exact (he ▸ hr : OutLeaves Canonical (.next _))
        · rwa [mem_parkMember]
      · rwa [mem_parkMember]
    · rwa [mem_parkMember]
  · split
    · trivial
    · trivial
    · next he =>
      have ht := canonical_of_runAll hrun hu he
      extract_lets lm
      split
      · rw [outLeaves_next, mem_foldl mem_parkMember]
        exact hu
      · split
        · rw [outLeaves_next, mem_foldl]
          · exact ht
          · exact fun _ _ => rfl
        · rw [outLeaves_next, mem_foldl]
          · exact ht
          · intro v p
            exact mem_settleFollower _ _ _ _ _ _ _

theorem leaves_evalTurn {s : State} (h : Canonical s.mem) (k : Nat) : OutLeaves Canonical (evalTurn run s k) := by
  unfold evalTurn
  split
  · rw [outLeaves_next, State.marked_mem, mem_foldl, mem_finish]
    · exact h
    · exact fun _ _ => rfl
  · next t he =>
    have ht : Canonical t.mem := by rwa [mem_of_fetchWord he]
    rw [outLeaves_next, mem_foldl mem_parkMember, mem_finish]
    exact ht
  · split
    · exact leaves_runOne hrun (by rwa [mem_holdWord]) _ _
    · exact leaves_runGang hrun (by rwa [mem_holdWord]) _ _ _

theorem leaves_takeTurn {s : State} (h : Canonical s.mem) : OutLeaves Canonical (takeTurn run s) := by
  unfold takeTurn
  have ht := leaves_evalTurn hrun h s.cur
  split
  · next he =>
    have h1 := (he ▸ ht : OutLeaves Canonical (.next _))
    split
    · rw [outLeaves_next, mem_foldl mem_parkMember]
      exact h
    · exact h1
  · trivial
  · trivial

end

theorem leaves_afterStep {P : List Host.Cell → Prop} {r : Out} (h : OutLeaves P r) : OutLeaves P (afterStep r) := by
  cases r with
  | next t =>
    show P (settle t).mem
    rw [mem_settle]
    exact h
  | fault f => trivial
  | refused r => trivial

/-! Every instruction and every event. -/

theorem leaves_exec (i : Instr) {s : State} (h : Canonical s.mem) : OutLeaves Canonical (exec i s) := by
  cases i with
  | add | sub | and | or | xor | andn | orn | sll | srl | sra | slt | sltn | min | max | minn | maxn | addw | subw | sllw | srlw | sraw | mul | mulh
    | mulhn | div | divn | rem | remn | clz | ctz | popc | rotl | rotr | rev8 | brev | bext | bdep | sext | zext | addi | andi | ori | xori | slti |
    sltni | slli | srli | srai | rotli | lui | pcaddu | selz | selnz | lea | segck | clock | crc32c | hash64 => exact leaves_compute h
  | tchk => exact leaves_execTchk h
  | ldI8 | ldN8 | ldI16 | ldN16 | ldI32 | ldN32 | ld64 => exact leaves_load h
  | st8 | st16 | st32 | st64 => exact leaves_store h
  | ldro64 => exact leaves_execLdro64 h
  | pfro => exact leaves_execPfro h
  | ldfe => exact leaves_execLdfe h
  | ldff => exact leaves_execLdff h
  | stef => exact leaves_execStef h
  | stff => exact leaves_execStff h
  | fset => exact leaves_execFset h
  | fclr => exact leaves_execFclr h
  | fget => exact leaves_execFget h
  | amoAdd | amoAnd | amoOr | amoXor | amoMin | amoMax | amoMinn | amoMaxn | amoSwap | amoFadd => exact leaves_amo h
  | cas => exact leaves_execCas h
  | fence => exact leaves_execFence h
  | fencex => exact leaves_execFencex h
  | rocinv => exact leaves_execRocinv h
  | pjwait => exact leaves_execPjwait h
  | beq | bne | blt | bge | bltn | bgen => exact leaves_branch h
  | bfull => exact leaves_execBfull h
  | beqi | bnei | blti | bgei => exact leaves_branchImm h
  | jal => exact leaves_execJal h
  | jalr => exact leaves_execJalr h
  | loop => exact leaves_execLoop h
  | gform => exact leaves_execGform h
  | gsplit => exact leaves_execGsplit h
  | grejoin => exact leaves_execGrejoin h
  | gleave => exact leaves_execGleave h
  | pin => exact leaves_execPin h
  | unpin => exact leaves_execUnpin h
  | semdn => exact leaves_execSemdn h
  | semup => exact leaves_execSemup h
  | semtry => exact leaves_execSemtry h
  | qbind => exact leaves_execQbind h
  | qwaitf | qwaite => exact leaves_ringWait h
  | qadvh => exact leaves_execQadvh h
  | qadvt => exact leaves_execQadvt h
  | qcnt => exact leaves_execQcnt h
  | yield => exact leaves_execYield h
  | park => exact leaves_execPark h
  | wake => exact leaves_execWake h
  | tsleep => exact leaves_execTsleep h
  | wfw => exact leaves_execWfw h
  | tdone => exact leaves_execTdone h
  | tfail => exact leaves_execTfail h
  | launch => exact leaves_execLaunch h
  | lvlcnt => exact leaves_execLvlcnt h
  | lvlwait | phwait => exact leaves_levelWait h
  | lvlcancel => exact leaves_execLvlcancel h
  | phopen => exact leaves_execPhopen h
  | phclose => exact leaves_execPhclose h
  | msend => exact leaves_sendActive (useDict := false) h
  | msendD => exact leaves_sendActive (useDict := true) h
  | mend => exact leaves_execMend h
  | hop => exact leaves_execHop h
  | mwait => exact leaves_execMwait h
  | tdecl => exact leaves_execTdecl h
  | tarm | twait => exact leaves_tileOp (bad := fun _ => false) h
  | trel => exact leaves_execTrel h
  | xset => exact leaves_execXset h
  | xcopy => exact leaves_execXcopy h
  | xgather => exact leaves_execXgather h
  | xscatter => exact leaves_execXscatter h
  | xfill => exact leaves_execXfill h
  | xlrec => exact leaves_execXlrec h
  | xlflush => exact leaves_execXlflush h
  | strm => exact leaves_execStrm h
  | strmoff => exact leaves_execStrmoff h
  | vset => exact leaves_execVset h
  | vadd => exact leaves_execVadd h
  | vsub => exact leaves_execVsub h
  | vmul => exact leaves_execVmul h
  | vfma => exact leaves_execVfma h
  | vmax => exact leaves_execVmax h
  | vmin => exact leaves_execVmin h
  | vabs => exact leaves_execVabs h
  | vneg => exact leaves_execVneg h
  | vscale => exact leaves_execVscale h
  | viadd => exact leaves_execViadd h
  | visub => exact leaves_execVisub h
  | vimul => exact leaves_execVimul h
  | viand => exact leaves_execViand h
  | vior => exact leaves_execVior h
  | vixor => exact leaves_execVixor h
  | vishl => exact leaves_execVishl h
  | vishr => exact leaves_execVishr h
  | vconv => exact leaves_execVconv h
  | vbfp => exact leaves_execVbfp h
  | vbfpx => exact leaves_execVbfpx h
  | vcbq => exact leaves_execVcbq h
  | vcbx => exact leaves_execVcbx h
  | vsat => exact leaves_execVsat h
  | vsum => exact leaves_execVsum h
  | vmaxr => exact leaves_execVmaxr h
  | vdot => exact leaves_execVdot h
  | vcbld => exact leaves_execVcbld h
  | mown => exact leaves_execMown h
  | mset => exact leaves_execMset h
  | mphld => exact leaves_execMphld h
  | mswap => exact leaves_execMswap h
  | mpass => exact leaves_execMpass h
  | mdrain => exact leaves_execMdrain h
  | mclr => exact leaves_execMclr h
  | mprobe => exact leaves_execMprobe h
  | mdecomp => exact leaves_execMdecomp h
  | phrd => exact leaves_execPhrd h
  | phwr => exact leaves_execPhwr h
  | mcal => exact leaves_execMcal h
  | macrd => exact leaves_execMacrd h
  | colgo => exact leaves_execColgo h
  | nidict => exact leaves_execNidict h
  | niclr => exact leaves_execNiclr h
  | bsbind => exact leaves_execBsbind h
  | bsget | bspeek => exact leaves_bitRead h
  | bsput => exact leaves_execBsput h
  | bsskip => exact leaves_execBsskip h
  | bsalign => exact leaves_execBsalign h
  | bslut => exact leaves_execBslut h
  | tfwake => exact leaves_execTfwake h
  | sys _ t => exact leaves_execSys (_t := t) h
  | brk => exact leaves_execBrk h
  | eret => exact leaves_execEret h
  | halt => exact leaves_execHalt h
  | cget => exact leaves_execCget h
  | cput => exact leaves_execCput h
  | segld => exact leaves_execSegld h
  | segst => exact leaves_execSegst h
  | snap => exact leaves_execSnap h
  | accept => exact leaves_execAccept h
  | reject => exact leaves_execReject h
  | snapq => exact leaves_execSnapq h
  | msadd => exact leaves_execMsadd h
  | msdel => exact leaves_execMsdel h
  | msqry => exact leaves_execMsqry h
  | tlbfa => exact leaves_execTlbfa h
  | tlbinv => exact leaves_execTlbinv h
  | scwb => exact leaves_execScwb h
  | scinv => exact leaves_execScinv h
  | scdom => exact leaves_execScdom h
  | lmpwr => exact leaves_execLmpwr h
  | hustat => exact leaves_execHustat h
  | pmig => exact leaves_execPmig h
  | pmigsw => exact leaves_execPmigsw h
  | lnkq => exact leaves_execLnkq h
  | lnkfec => exact leaves_execLnkfec h
  | lnkclaim => exact leaves_execLnkclaim h
  | vbset => exact leaves_execVbset h
  | vbtest => exact leaves_execVbtest h
  | crmap => exact leaves_execCrmap h
  | dbghalt => exact leaves_execDbghalt h
  | dbgresume => exact leaves_execDbgresume h
  | boot => exact leaves_execBoot h
  | slotTurn => exact leaves_execSlotTurn h
  | timebaseDeadline => exact leaves_execTimebaseDeadline h
  | niSend => exact leaves_execNiSend h
  | loadRequest => exact leaves_execLoadRequest h
  | loadReply => exact leaves_execLoadReply h
  | postedStore => exact leaves_execPostedStore h
  | storeAck => exact leaves_execStoreAck h
  | storeRefusal => exact leaves_execStoreRefusal h
  | atomicRequest => exact leaves_execAtomicRequest h
  | atomicReply => exact leaves_execAtomicReply h
  | syncRequest => exact leaves_execSyncRequest h
  | syncReply => exact leaves_execSyncReply h
  | syncRetry => exact leaves_execSyncRetry h
  | feRetryResend => exact leaves_execFeRetryResend h
  | roFillRequest => exact leaves_execRoFillRequest h
  | roFillReply => exact leaves_execRoFillReply h
  | dirInvalidate => exact leaves_execDirInvalidate h
  | invalidateAck => exact leaves_execInvalidateAck h
  | activeMessage => exact leaves_execActiveMessage h
  | amRefusal => exact leaves_execAmRefusal h
  | amHandlerStart => exact leaves_execAmHandlerStart h
  | engineWrite => exact leaves_execEngineWrite h
  | engineReadRequest => exact leaves_execEngineReadRequest h
  | engineReadReply => exact leaves_execEngineReadReply h
  | batonPass => exact leaves_execBatonPass h
  | batonAnswer => exact leaves_execBatonAnswer h
  | batonResend => exact leaves_execBatonResend h
  | batonInstall => exact leaves_execBatonInstall h
  | withdrawal => exact leaves_execWithdrawal h
  | withdrawnAnswer => exact leaves_execWithdrawnAnswer h
  | launchStatusReply => exact leaves_execLaunchStatusReply h
  | controlWindowAccess => exact leaves_execControlWindowAccess h
  | netHopReplay => exact leaves_execNetHopReplay h
  | netHopFail => exact leaves_execNetHopFail h
  | niBufferParity => exact leaves_execNiBufferParity h
  | queueParity => exact leaves_execQueueParity h
  | pageWalk => exact leaves_execPageWalk h
  | walkMigReread => exact leaves_execWalkMigReread h
  | tlbfaPortDiscard => exact leaves_execTlbfaPortDiscard h
  | tlbinvBroadcast => exact leaves_execTlbinvBroadcast h
  | scFillComplete => exact leaves_execScFillComplete h
  | snapRecord => exact leaves_execSnapRecord h
  | snapqQuery => exact leaves_execSnapqQuery h
  | snapSweep => exact leaves_execSnapSweep h
  | scSpanWalk => exact leaves_execScSpanWalk h
  | scdomUpdate => exact leaves_execScdomUpdate h
  | scrubPatrol => exact leaves_execScrubPatrol h
  | migrationCopy => exact leaves_execMigrationCopy h
  | lmQuarterReady => exact leaves_execLmQuarterReady h
  | xfeCommandStart => exact leaves_execXfeCommandStart h
  | xfeCommandEnd => exact leaves_execXfeCommandEnd h
  | xfeFault => exact leaves_execXfeFault h
  | streamFetch => exact leaves_execStreamFetch h
  | streamWrite => exact leaves_execStreamWrite h
  | veCommandStart => exact leaves_execVeCommandStart h
  | veCommandEnd => exact leaves_execVeCommandEnd h
  | veFault => exact leaves_execVeFault h
  | cleCollectiveStart => exact leaves_execCleCollectiveStart h
  | cleCollectiveEnd => exact leaves_execCleCollectiveEnd h
  | dceDecompose => exact leaves_execDceDecompose h
  | dceEnd => exact leaves_execDceEnd h
  | omuPassStart => exact leaves_execOmuPassStart h
  | omuPassEnd => exact leaves_execOmuPassEnd h
  | omuPhldRun => exact leaves_execOmuPhldRun h
  | omuSwapRun => exact leaves_execOmuSwapRun h
  | omuSettleSweep => exact leaves_execOmuSettleSweep h
  | omuDrainRun => exact leaves_execOmuDrainRun h
  | omuClearRun => exact leaves_execOmuClearRun h
  | omuCalRun => exact leaves_execOmuCalRun h
  | omuCalEnd => exact leaves_execOmuCalEnd h
  | omuProbe => exact leaves_execOmuProbe h
  | pacerUpdate => exact leaves_execPacerUpdate h
  | omuThermalStop => exact leaves_execOmuThermalStop h
  | omuThermalResume => exact leaves_execOmuThermalResume h
  | groupWatchdog => exact leaves_execGroupWatchdog h
  | launchRequest => exact leaves_execLaunchRequest h
  | launchDistribute => exact leaves_execLaunchDistribute h
  | distributeRetry => exact leaves_execDistributeRetry h
  | dispenserStartUnit => exact leaves_execDispenserStartUnit h
  | unitCompletion => exact leaves_execUnitCompletion h
  | levelWaitRequest => exact leaves_execLevelWaitRequest h
  | phaseCloseRequest => exact leaves_execPhaseCloseRequest h
  | levelCancelDrop => exact leaves_execLevelCancelDrop h
  | phaseWave => exact leaves_execPhaseWave h
  | remapSwap => exact leaves_execRemapSwap h
  | thermalHold => exact leaves_execThermalHold h
  | thermalMigrate => exact leaves_execThermalMigrate h
  | thermalThrottle => exact leaves_execThermalThrottle h
  | npRegionExpire => exact leaves_execNpRegionExpire h
  | gangSwitchBegin => exact leaves_execGangSwitchBegin h
  | gangSwitchSaved => exact leaves_execGangSwitchSaved h
  | falloutDivert => exact leaves_execFalloutDivert h
  | holdupStart => exact leaves_execHoldupStart h
  | holdupStop => exact leaves_execHoldupStop h
  | holdupCopy => exact leaves_execHoldupCopy h
  | saveChunkWrite => exact leaves_execSaveChunkWrite h
  | holdupCommit => exact leaves_execHoldupCommit h
  | holdupReserveMeasure => exact leaves_execHoldupReserveMeasure h
  | rowRepair => exact leaves_execRowRepair h
  | rowRepairDone => exact leaves_execRowRepairDone h
  | linkFrameReceive => exact leaves_execLinkFrameReceive h
  | linkNak => exact leaves_execLinkNak h
  | linkChg => exact leaves_execLinkChg h
  | linkCack => exact leaves_execLinkCack h
  | linkChgTimeout => exact leaves_execLinkChgTimeout h
  | linkBerWindow => exact leaves_execLinkBerWindow h
  | linkDown => exact leaves_execLinkDown h
  | linkTrainingDone => exact leaves_execLinkTrainingDone h
  | cxlMemRequest => exact leaves_execCxlMemRequest h
  | hostWindowAccess => exact leaves_execHostWindowAccess h
  | launchWindowGo => exact leaves_execLaunchWindowGo h
  | attestationQuote => exact leaves_execAttestationQuote h
  | dirOvfRead => exact leaves_execDirOvfRead h
  | dirCmdInvalidate | dirCmdRelease | fewtArm | fewtDisarm | snrInvalidate | semCountWrite | linkEnableWrite => exact leaves_windowWrite h
  | pjRelease | omuBindWrite | mxGroupWrite | xformWrite | vcbmonWrite | probePeriodWrite | bsBaseWrite | registerWrite =>
    exact leaves_windowWrite (p := true) h
  | gswArm => exact leaves_execGswArm h
  | gswRestore => exact leaves_execGswRestore h
  | huTableClear => exact leaves_execHuTableClear h
  | coreRetireWrite => exact leaves_execCoreRetireWrite h
  | omuSiteRetire => exact leaves_execOmuSiteRetire h
  | dbgContextAccess => exact leaves_execDbgContextAccess h
  | thermalHoldClear => exact leaves_execThermalHoldClear h
  | laneLossOfLock => exact leaves_execLaneLossOfLock h
  | combSourceFailure => exact leaves_execCombSourceFailure h
  | quoteWritten => exact leaves_execQuoteWritten h

theorem leaves_runChoice (c : Choice) {s : State} (h : Canonical s.mem) : OutLeaves Canonical (runChoice c s) := by
  unfold runChoice
  split
  · exact leaves_exec _ h
  · rwa [outLeaves_next, mem_nextCycle]

theorem leaves_step {s : State} (h : Canonical s.mem) : OutLeaves Canonical (step s) := by
  have hn : Canonical (nextChoice s).2.mem := by rwa [mem_nextChoice]
  unfold step
  split
  · split
    · exact leaves_afterStep (leaves_exec _ hn)
    · trivial
  · split
    · split
      · exact leaves_afterStep (leaves_exec _ hn)
      · exact hn
    · split
      · exact leaves_afterStep (leaves_takeTurn (fun i _ hu => leaves_exec i hu) h)
      · split
        · exact leaves_afterStep (leaves_execGangSwitchBegin h)
        · split
          · exact leaves_afterStep (leaves_exec _ h)
          · exact leaves_afterStep (leaves_runChoice _ hn)

/-- Settles O10: canonical memory is an invariant of every function that a step runs; what writes memory goes through `setBytes` and `zeroRange`,
which keep it, and through `State.reset`. -/
theorem memoryCanonicalKept : Obligations.MemoryCanonicalKept := by
  unfold Obligations.MemoryCanonicalKept
  intro s t h ht
  have hs : OutLeaves Canonical (step s) := leaves_step h
  rw [ht] at hs
  exact hs

end Sys2Proof.Machine
end
